-- ==== Sys2Proof/Word.lean ====
section
/-! DEFINITION. The word types of the HZ-7180: registers are 32 bits wide (R9), memory is addressed by bytes. -/

namespace Sys2Proof

/-- A register or table word. -/
abbrev Word := BitVec 32

/-- A byte of device DRAM. -/
abbrev Byte := BitVec 8

/-- A sparse map kept as key and value pairs with rising keys; a key that is not listed has its default value. -/
abbrev Sparse (α : Type) := List (Nat × α)

end Sys2Proof
end

