-- ==== Sys2Proof/Syntax.lean ====
section
/-! DEFINITION. The commands of the HZ-7180 block: one constructor per row of the opcode table. The first operand of each is the number of 5 ns ticks
that have passed since the previous command; what the environment decides (a sample, a received frame, the end of a physical process) is an operand. -/

namespace Sys2Proof

/-- The two masters (R116). -/
inductive Master
  | host
  | curator
  deriving DecidableEq, Repr

/-- The owner of configuration as CUR_OWN_STATUS gives it (R118). -/
def Master.code : Master → Nat
  | .host => 1
  | .curator => 2

/-- The MASTER bit of status registers: 0 host, 1 curator. -/
def Master.bit : Master → Nat
  | .curator => 1
  | _ => 0

/-- Where a parity error stands (R488): a register or table word, or a key slot. -/
inductive ParityAt
  | word (addr : BitVec 24)
  | key (slot : Fin 256)
  deriving DecidableEq, Repr

/-- The body of a section of a Kiln image (R64). -/
inductive SectionBody
  | regs (entries : List (Word × Word))
  | table (window page offset : Nat) (data : List Word)
  | blobs (handle : Nat) (blobs : List (List Byte))
  | note
  | other
  deriving DecidableEq, Repr

/-- A section of a Kiln image: where its body stands and what it holds (R63). -/
structure ImageSection where
  offset : Nat
  body : SectionBody
  deriving DecidableEq, Repr

/-- A Kiln image copy as the loader reads it from the flash (R62 to R66): header fields, whether the section table and the bodies lie inside the signed region,
the SHA-512 of its key bytes, whether the signature verifies, and the SHA-512 of its signed region. -/
structure CopyView where
  magicOk : Bool
  imageLen : Nat
  secVer : Nat
  targetRev : Nat
  lcsMask : Nat
  arbAdvance : Bool
  catPresent : Bool
  sectionCount : Nat
  catOffset : Nat
  catEntries : Nat
  catDigest : Nat
  bodiesInside : Bool
  keyHash : Nat
  signatureOk : Bool
  digest : Nat
  sections : List ImageSection
  deriving DecidableEq, Repr

/-- What a transmit command carries for the exchange engine: a beacon, an ack of an acceptance, an attempt of a downlink, an association response to a node, or a
relay copy of a flood frame. -/
inductive TxRef
  | beacon
  | ack (acceptance : Nat)
  | downlink (id : Nat)
  | response (nix : Nat)
  | relay (id : Nat)
  deriving DecidableEq, Repr

/-- The kind of a transmit command (R154). -/
inductive TxKind
  | frame
  | beacon
  | ack
  deriving DecidableEq, Repr

/-- A transmit command of the exchange engine (R154): kind, channel and its centre frequency, PHY mode, airtime in slot clock ticks, requested setting or the port's
default, launch time L on the slot clock or as soon as possible, and for an ACK the end E of the frame it acknowledges. -/
structure TxCmd where
  kind : TxKind
  channel : Nat
  khz : Nat
  mode : Nat
  airtime : Nat
  setting : Option Int
  launch : Option Nat
  frameEnd : Nat
  ref : TxRef
  deriving DecidableEq, Repr

/-- A PTP message as the timestamp unit reads it (R425 to R428): its messageType (0 Sync, 1 Delay_Req, 2 Pdelay_Req, 3 Pdelay_Resp, 8 Follow_Up, 9 Delay_Resp,
0xA Pdelay_Resp_Follow_Up), transport (0 EtherType 0x88F7, 1 UDP over IPv4, 2 UDP over IPv6), sequenceId, domainNumber, sourcePortIdentity with its first byte lowest, correctionField in
2^−16 ns, twoStepFlag, and the timestamp in its body in ns. -/
structure PtpMsg where
  msg : Fin 16
  transport : Fin 3
  seq : BitVec 16
  domain : BitVec 8
  spid : BitVec 80
  corr : Int
  twoStep : Bool
  body : Int
  deriving DecidableEq, Repr


/-- A lane heartbeat as received (R461): domain times in ns. -/
structure LaneHb where
  role : Fin 4
  pairId : Bool
  req : Bool
  jvalid : Bool
  serial : BitVec 64
  slot : BitVec 64
  bound : BitVec 64
  sen : BitVec 40
  slotCode : BitVec 8
  sel : Bool
  jpos : BitVec 64
  d0 : Nat
  e0 : BitVec 16
  d1 : Nat
  e1 : BitVec 16
  inc0 : BitVec 64
  inc1 : BitVec 64
  ofs : Int
  seqA : BitVec 64
  seqB : BitVec 64
  sync : Fin 4
  deriving DecidableEq, Repr

/-- A general slot as a snapshot or a KEY record carries it (R469, R472): its generation, whether it holds a key, attributes, and the key wrapped under the pair storage
key. The spec names the content and gives no byte layout. -/
structure CarriedKey where
  slot : Fin 64
  gen : BitVec 16
  full : Bool
  klen : Bool
  expired : Bool
  origin : Nat
  perms : Nat
  depth : Nat
  uses : Nat
  parent : Nat
  parentGen : Nat
  nix : Nat
  wrapped : List Byte
  deriving DecidableEq, Repr

/-- A receipt entry as a snapshot carries it (R469), with its remaining time in ms. -/
structure CarriedRcpt where
  nix : BitVec 17
  fc : Word
  leftMs : Nat
  expired : Bool
  rcpt : Bool
  owed : Bool
  deriving DecidableEq, Repr

/-- An accession cache entry as a snapshot carries it (R469), with the seconds to expiry. -/
structure CarriedFlood where
  origin : Nat
  fseq : BitVec 16
  left : Nat
  sen : BitVec 40
  deriving DecidableEq, Repr

/-- A neighbour as a snapshot carries it (R469). -/
structure CarriedNbr where
  place : Fin 64
  silent : Bool
  missed : Nat
  rid : BitVec 10
  pan : BitVec 16
  eui : BitVec 64
  lastSen : BitVec 40
  launchUs : Nat
  period : Nat
  fc : Word
  rssi : Int
  offset : Int
  exp : BitVec 40
  total : Nat
  cells : List (Nat × Nat)
  deriving DecidableEq, Repr

/-- The journal records whose bytes the spec does not lay out (R472), by their content. -/
inductive CarriedRec
  | key (k : CarriedKey)
  | receipt (taken : Bool) (nix : BitVec 17) (fc : Word) (leftMs : Nat)
  | flood (f : CarriedFlood)
  | counters (beacon localFc : Word)
  deriving DecidableEq, Repr

/-- What a snapshot slot, and the journal from its JPOS_START on, hold in parts that the spec does not lay out byte by byte (R469, R472, R479): keys, receipts, accession
cache, neighbours, device counters, the nodes whose schedule update was in progress, the lead's image digest and SEL, and the journal's KEY, RCPT, FLOOD and DEVCTR records. -/
structure SlotView where
  keys : List CarriedKey
  receipts : List CarriedRcpt
  floods : List CarriedFlood
  nbrs : List CarriedNbr
  beacon : Word
  localFc : Word
  updating : List (BitVec 17)
  digest : Nat
  sel : Fin 3
  records : List CarriedRec
  deriving DecidableEq, Repr

/-- The commands. -/
inductive Instr
  /-- VIN_VALID (R74). VIN becomes valid: whether RESET_N is low, VDDIO_NVM, VDDIO_FE, VDDQ_DDR and VBAT are present, and the level of PAIR_ID. -/
  | vinValid (dt : Nat) (resetLow nvm fe ddr vbat pairId : Bool)
  /-- VIN_POWER_OFF (R95). VIN falls below 1.52 V. -/
  | vinPowerOff (dt : Nat)
  /-- VIN_LOW (R95). VIN has stayed below 1.60 V for more than 10 µs at `mv` mV. -/
  | vinLow (dt : Nat) (mv : Nat)
  /-- VBAT_LOSS (R98). VBAT falls out of range. -/
  | vbatLoss (dt : Nat)
  /-- RESET_N_PULSE (R90). A pulse on RESET_N, or its first rising edge after VIN became valid (R524). -/
  | resetNPulse (dt : Nat)
  /-- CFG_RESTART (R87). A write of CFG_RESTART. -/
  | cfgRestart (dt : Nat) (m : Master) (w : Word)
  /-- CFG_NVM_RELEASE (R59). A write of CFG_NVM_CTRL. -/
  | cfgNvmRelease (dt : Nat) (m : Master) (w : Word)
  /-- FUSE_LOAD (R76). Step 3 ends; whether every fuse word has a sound copy. -/
  | fuseLoad (dt : Nat) (sound : Bool)
  /-- IDENTITY_SELF_TEST (R76). Step 4 ends. -/
  | identitySelfTest (dt : Nat) (passed : Bool)
  /-- ROOT_PLL_LOCK (R28). The root PLL locks. -/
  | rootPllLock (dt : Nat)
  /-- DRAM_TRAINING (R336). Step 6 ends: 1, 2 or 4 GiB installed, its ranks, and whether training and the tests passed. -/
  | dramTraining (dt : Nat) (size : Fin 3) (twoRanks trained tested : Bool)
  /-- HB_LISTEN_WINDOW_END (R83). The listening window ends; whether the partner holds OWN_N. -/
  | hbListenWindowEnd (dt : Nat) (held : Bool)
  /-- COPY_SELECTION (R69). Step 7 ends: the flash's answer, its size of 2^(26 + `log`) bytes, whether 8D-8D-8D is in use, and the copies whose header could be read. -/
  | copySelection (dt : Nat) (answered : Bool) (log : Fin 4) (octal : Bool) (a b : Option CopyView)
  /-- IMAGE_APPLY (R77). Step 8. -/
  | imageApply (dt : Nat)
  /-- CATALOGUE_WARM_LOAD (R80). Step 10: the store's entries by NIX, and whether its digest is CAT_DIGEST. -/
  | catalogueWarmLoad (dt : Nat) (entries : List (BitVec 17 × List Byte)) (digestOk : Bool)
  /-- OWN_N_CLAIM (R457). A claim of OWN_N is due. -/
  | ownNClaim (dt : Nat)
  /-- OWN_N_SAMPLE (R457). The 8 ms wait expires; the level that OWN_N reads. -/
  | ownNSample (dt : Nat) (held : Bool)
  /-- ARB_FUSE_BLOW (R72). An anti-rollback fuse has been blown; whether it reads back as blown. -/
  | arbFuseBlow (dt : Nat) (blown : Bool)
  /-- TAMPER_EVENT (R413). The tamper inputs that have held their active level for FILTER samples (R412, R413). -/
  | tamperEvent (dt : Nat) (inputs : BitVec 4)
  /-- TAM_CFG_WRITE (R412). A write of TAM_CFG (R412). -/
  | tamCfgWrite (dt : Nat) (m : Master) (w : Word)
  /-- SLOT_BOUNDARY (R201). The slot clock reaches the next boundary (R201). -/
  | slotBoundary (dt : Nat)
  /-- PWR_HIB_ENTER (R107). A write of PWR_HIB. -/
  | pwrHibEnter (dt : Nat) (m : Master) (w : Word)
  /-- HIBERNATE_POWER_OFF (R108). Entry to HIBERNATE completes. -/
  | hibernatePowerOff (dt : Nat)
  /-- CUR_WAKE (R109). A write of CUR_WAKE. -/
  | curWake (dt : Nat) (m : Master) (w : Word)
  /-- CUR_HIB_TIMER_EXPIRE (R109). CUR_HIB_TIMER reaches 0. -/
  | curHibTimerExpire (dt : Nat)
  /-- ENERGY_COUNTER_UPDATE (R111). The increments of an update in nJ: VIN, and blocks 0 to 8. -/
  | energyCounterUpdate (dt : Nat) (vin : Nat) (blocks : List Nat)
  /-- PWR_NRG_CLEAR (R112). A write of PWR_NRG_CTRL. -/
  | pwrNrgClear (dt : Nat) (m : Master) (w : Word)
  /-- EPF_START (R113). A write of PWR_EPF_CTRL. -/
  | epfStart (dt : Nat) (m : Master) (w : Word)
  /-- EPF_DONE (R113). The energy-per-frame window expires. -/
  | epfDone (dt : Nat)
  /-- CLAIM (R119). The host's CLAIM. -/
  | claim (dt : Nat) (epoch : BitVec 16)
  /-- TAKE (R119). The curator's TAKE. -/
  | take (dt : Nat) (epoch : BitVec 16)
  /-- REFRESH (R121). REFRESH. -/
  | refresh (dt : Nat) (m : Master) (epoch : BitVec 16)
  /-- RELEASE (R119). RELEASE. -/
  | release (dt : Nat) (m : Master) (epoch : BitVec 16)
  /-- FORCE (R119). The curator's FORCE. -/
  | force (dt : Nat) (epoch : BitVec 16)
  /-- LEASE_LAPSE (R121). The lease deadline passes. -/
  | leaseLapse (dt : Nat)
  /-- TXN_BEGIN (R125). A read of TXN_BEGIN. -/
  | txnBegin (dt : Nat) (m : Master)
  /-- REGISTER_WRITE (R127). A write by a master; whether it is narrower than 32 bits, and whether the word's parity is found wrong. -/
  | registerWrite (dt : Nat) (m : Master) (a : BitVec 24) (w : Word) (narrow bad : Bool)
  /-- TXN_COMMIT (R130). A write of TXN_COMMIT. -/
  | txnCommit (dt : Nat) (m : Master) (w : Word)
  /-- TXN_COMMIT_BOUNDARY (R131). The commit boundary. -/
  | txnCommitBoundary (dt : Nat)
  /-- TXN_ROLLBACK (R132). A write of TXN_ROLLBACK. -/
  | txnRollback (dt : Nat) (m : Master) (w : Word)
  /-- TXN_TIMEOUT (R132). TXN_TIMEOUT has passed since BEGIN. -/
  | txnTimeout (dt : Nat)
  /-- PUSH (R135). A PUSH transfer's complete MOSI words. -/
  | push (dt : Nat) (ws : List Word)
  /-- PULL (R143). A PULL transfer of `n` words. -/
  | pull (dt : Nat) (n : Nat)
  /-- CUR_BAD_OP (R135). A transfer with an unknown opcode. -/
  | curBadOp (dt : Nat) (op : BitVec 8)
  /-- CUR_CS_RISE (R139). CUR_CS_N rises. -/
  | curCsRise (dt : Nat)
  /-- CUR_CMD_READ (R140). The executor takes the READ command at the head of the command FIFO. -/
  | curCmdRead (dt : Nat)
  /-- CUR_CMD_WRITE (R140). The executor takes the WRITE command at the head of the command FIFO. -/
  | curCmdWrite (dt : Nat)
  /-- CUR_INVALID_HEADER (R138). The executor meets an invalid header. -/
  | curInvalidHeader (dt : Nat)
  /-- CUR_FIFO_CFG_WRITE (R146). A write of CUR_FIFO_CFG. -/
  | curFifoCfgWrite (dt : Nat) (m : Master) (w : Word)
  /-- TX_COMMAND (R154). The exchange engine issues a transmit command to a port. -/
  | txCommand (dt : Nat) (port : Fin 16) (c : TxCmd)
  /-- HANDED_BACK_REISSUE (R548). A handed-back command is issued again. -/
  | handedBackReissue (dt : Nat) (port : Fin 16)
  /-- SETTLE_START (R154). The settle toward a held command's frequency starts. -/
  | settleStart (dt : Nat) (port : Fin 16)
  /-- SYNTH_LOCK (R151). The synthesiser locks at its target. -/
  | synthLock (dt : Nat) (port : Fin 16)
  /-- LAUNCH_START (R155). The start point of the held command is reached. -/
  | launchStart (dt : Nat) (port : Fin 16)
  /-- COEX_REQ_ASSERT (R169). S − LEAD_US of the held command is reached for a pair. -/
  | coexReqAssert (dt : Nat) (port : Fin 16) (pair : Fin 4)
  /-- COEX_GNT_CHANGE (R169). The level of COEX_GNTk changes. -/
  | coexGntChange (dt : Nat) (pair : Fin 4) (level : Bool)
  /-- TX_LATE (R156). A FRAME or BEACON command passes R156. -/
  | txLate (dt : Nat) (port : Fin 16)
  /-- ACK_LATE (R157). An ACK command passes R157. -/
  | ackLate (dt : Nat) (port : Fin 16)
  /-- PPDU_END (R161). The last PPDU bit leaves. -/
  | ppduEnd (dt : Nat) (port : Fin 16)
  /-- TX_SEQUENCE_END (R152). TRSW_n returns to receive. -/
  | txSequenceEnd (dt : Nat) (port : Fin 16)
  /-- TXR_HOLD_EXPIRE (R152). TXR_HOLD expires. -/
  | txrHoldExpire (dt : Nat) (port : Fin 16)
  /-- TX_COMMAND_WITHDRAW (R159). The exchange engine withdraws the held command. -/
  | txCommandWithdraw (dt : Nat) (port : Fin 16)
  /-- CAL_REQ (R170). A write of RFPn_CAL_CTRL. -/
  | calReq (dt : Nat) (m : Master) (port : Fin 16) (w : Word)
  /-- CAL_TEMP_CHECK (R170). The once-per-second temperature check of a port. -/
  | calTempCheck (dt : Nat) (port : Fin 16)
  /-- CAL_PERIOD_EXPIRE (R170). PERIOD_H hours have passed. -/
  | calPeriodExpire (dt : Nat) (port : Fin 16)
  /-- CAL_START (R172). The chosen boundary of a pending calibration. -/
  | calStart (dt : Nat) (port : Fin 16)
  /-- CAL_ENTER (R172). The port enters CAL. -/
  | calEnter (dt : Nat) (port : Fin 16)
  /-- CAL_END (R171). Calibration ends: converged, or failed at a step (0 synthesiser, 1 receive path, 2 power detector). -/
  | calEnd (dt : Nat) (port : Fin 16) (failed : Option (Fin 3))
  /-- EMIT_POWER_CHECK (R167). A driver measurement in quarter dB. -/
  | emitPowerCheck (dt : Nat) (port : Fin 16) (meas : Int)
  /-- EMIT_FREQ_CHECK (R167). A frequency comparison: lock and frequency in Hz. -/
  | emitFreqCheck (dt : Nat) (port : Fin 16) (locked : Bool) (hz : Nat)
  /-- EMIT_DURATION_EXPIRE (R167). L + TIMEOUT_MS is reached. -/
  | emitDurationExpire (dt : Nat) (port : Fin 16)
  /-- DUTY_SUBWINDOW (R168). A duty sub-window ends. -/
  | dutySubwindow (dt : Nat) (port : Fin 16)
  /-- TJ_SAMPLE (R164). A port temperature sample in °C. -/
  | tjSample (dt : Nat) (port : Fin 16) (t : Int)
  /-- VIN_SAMPLE (R164). A VIN sample in mV. -/
  | vinSample (dt : Nat) (mv : Nat)
  /-- DETECTION (R185). A preamble arrives on a channel at a received power in quarter dBm and a carrier offset in Hz. -/
  | detection (dt : Nat) (port : Fin 16) (channel : Fin 128) (mode : Fin 8) (power : Int) (fofs : Int)
  /-- NOISE_FLOOR_REFRESH (R184). The 1 ms energies of the last 100 ms per channel, in quarter dBm. -/
  | noiseFloorRefresh (dt : Nat) (port : Fin 16) (energies : List (Fin 128 × List Int))
  /-- SFD_FOUND (R191). A demodulator finds an SFD whose last bit arrived at slot clock `ts`. -/
  | sfdFound (dt : Nat) (port : Fin 16) (d : Fin 64) (coded : Bool) (ts : Nat)
  /-- SFD_WAIT_EXPIRE (R191). SFD_WAIT_SYM symbols have passed. -/
  | sfdWaitExpire (dt : Nat) (port : Fin 16) (d : Fin 64)
  /-- PHR_RECEIVED (R191). The last PHR bit arrives. -/
  | phrReceived (dt : Nat) (port : Fin 16) (d : Fin 64) (len : Nat) (modeSwitch fcs32 whitened : Bool) (lqi : BitVec 8) (fofs : Int)
  /-- RX_PPDU_END (R191). The last PPDU bit arrives. -/
  | rxPpduEnd (dt : Nat) (port : Fin 16) (d : Fin 64) (delta : Nat) (psdu : List Byte) (fcsOk : Bool)
  /-- SLT_REALIGN (R205). A write of SLT_CMD (R205). -/
  | sltRealign (dt : Nat) (m : Master) (w : Word)
  /-- SLOT_CHECK (R206). The boundary checker compares; what a faulty slot engine shows as its boundary and SEN (R206). -/
  | slotCheck (dt : Nat) (upset : Option (BitVec 64 × BitVec 40))
  /-- NBR_BEACON_RX (R229). A received beacon frame is taken from its RXA job, or its OPEN is complete (R229). -/
  | nbrBeaconRx (dt : Nat) (id : BitVec 12)
  /-- BEACON_MISS (R231). Slot EXP_SEN + G of a neighbour has ended (R231). -/
  | beaconMiss (dt : Nat) (i : Fin 64)
  /-- NBR_RELEASE (R231). Slot RELEASE_SEN + G of a silent neighbour has ended (R231). -/
  | nbrRelease (dt : Nat) (i : Fin 64)
  /-- SLT_NBR_CLEAR (R233). A write of SLT_NBR_CLEAR (R233). -/
  | sltNbrClear (dt : Nat) (m : Master) (w : Word)
  /-- ASSOC_RESPONSE_ATTEMPT (R223). A slot S + kR of a response has begun (R223). -/
  | assocResponseAttempt (dt : Nat) (nix : BitVec 17)
  /-- ASSOC_FAIL (R225). All attempts of a response have passed (R225). -/
  | assocFail (dt : Nat) (nix : BitVec 17)
  /-- SUPERVISION_CHECK (R226). The once-per-second check of supervision timers (R226). -/
  | supervisionCheck (dt : Nat)
  /-- ASC_UPD_GO (R227). A write of ASC_UPD_CTRL (R227). -/
  | ascUpdGo (dt : Nat) (m : Master) (w : Word)
  /-- SCHED_UPD_START (R227). A queued schedule update is taken (R227). -/
  | schedUpdStart (dt : Nat)
  /-- SCHED_UPD_INSTANT (R227). The slotframe start at INSTANT has come (R227). -/
  | schedUpdInstant (dt : Nat) (nix : BitVec 17)
  /-- ASC_LEAVE (R228). A write of ASC_LEAVE (R228). -/
  | ascLeave (dt : Nat) (m : Master) (w : Word)
  /-- UPLINK_ACCEPTANCE (R239). A RUNNING RXA job takes its receive record (R239). -/
  | uplinkAcceptance (dt : Nat) (id : BitVec 12)
  /-- UPLINK_VERIFY_DONE (R240). The OPEN job of an acceptance is COMPLETE (R239, R240). -/
  | uplinkVerifyDone (dt : Nat) (id : BitVec 12)
  /-- ACK_WAIT_EXPIRE (R251). The ack window of a downlink's attempt has passed (R251). -/
  | ackWaitExpire (dt : Nat) (dl : Nat)
  /-- FLOOD_LOOKUP (R257). The flood engine takes the next accepted flood (R257). -/
  | floodLookup (dt : Nat)
  /-- ACCESSION_EXPIRY (R258). Accession entries have reached their expiry (R258). -/
  | accessionExpiry (dt : Nat)
  /-- RCPT_TIMER_EXPIRE (R262). The timer of a receipt entry has run out (R262). -/
  | rcptTimerExpire (dt : Nat) (i : Fin 1024)
  /-- CAT_CMD_WRITE (R274). A write of CAT_CMD with CMD 1 (R274). -/
  | catCmdWrite (dt : Nat) (m : Master) (mask : BitVec 5) (nix : BitVec 17)
  /-- CAT_CMD_READ (R274). A write of CAT_CMD with CMD 2 (R274). -/
  | catCmdRead (dt : Nat) (m : Master) (nix : BitVec 17)
  /-- CAT_CMD_CLEAR (R274). A write of CAT_CMD with CMD 3 (R274). -/
  | catCmdClear (dt : Nat) (m : Master) (nix : BitVec 17)
  /-- CAT_CMD_ENTRY (R275). One entry of a catalogue command is processed (R275). -/
  | catCmdEntry (dt : Nat)
  /-- CAT_WRITEBACK (R272). A modified cache entry is written back (R272). -/
  | catWriteback (dt : Nat) (nix : BitVec 17)
  /-- SHAPER_ENTRY (R292). A frame enters the shaper or is refused (R292). -/
  | shaperEntry (dt : Nat)
  /-- SHAPER_DECISION (R297). A decision on BH0, BH1 or the host port (R297). -/
  | shaperDecision (dt : Nat) (port : Fin 3)
  /-- SHP_SAMPLE_SET (R302). A sample instant arrives (R302). -/
  | shpSampleSet (dt : Nat)
  /-- SHP_SRING_RD_WRITE (R303). A write of SHP_SRING_RD (R303). -/
  | shpSringRdWrite (dt : Nat) (m : Master) (w : Word)
  /-- JOB_CREATE (R306). An engine creates a job: its class, the service class of the frame on whose path it lies, its creator, buffers and arguments. -/
  | jobCreate (dt : Nat) (cls : Fin 16) (svc : Option (Fin 8)) (creator : BitVec 16) (buf0 buf1 : Word) (args : List Byte)
  /-- JOB_DISPATCH (R313). A free unit of a class takes the head of its most urgent ready list. -/
  | jobDispatch (dt : Nat) (cls : Fin 16)
  /-- JOB_PREEMPT (R316). A RUNNING job reaches a pre-emption point, with what its engine saves. -/
  | jobPreempt (dt : Nat) (id : BitVec 12) (progress : List Byte)
  /-- JOB_FAULT (R319). A RUNNING job meets a parking fault. -/
  | jobFault (dt : Nat) (id : BitVec 12) (ecc : Bool) (detail : BitVec 8) (faultAt : Word)
  /-- JOB_STALL (R315). A RUNNING job has worked for `ns` ns without a pre-emption point or its end. -/
  | jobStall (dt : Nat) (id : BitVec 12) (ns : Nat)
  /-- JOB_COMPLETE (R324). An engine has finished a RUNNING job. -/
  | jobComplete (dt : Nat) (id : BitVec 12) (status detail : BitVec 8) (result : List Byte)
  /-- JOB_WRITEBACK (R325). The write-back of a submitted job ends. -/
  | jobWriteback (dt : Nat) (id : BitVec 12)
  /-- JOB_SUBMIT (R322). A master writes its submit register. -/
  | jobSubmit (dt : Nat) (m : Master) (w : Word)
  /-- JOB_CANCEL (R323). A CANCEL command. -/
  | jobCancel (dt : Nat) (m : Master) (id : BitVec 12)
  /-- JOB_RESUME (R320). A RESUME command. -/
  | jobResume (dt : Nat) (m : Master) (id : BitVec 12)
  /-- JOB_COPY (R323). A COPY command. -/
  | jobCopy (dt : Nat) (m : Master) (id : BitVec 12)
  /-- TRC_MARK (R332). A write of TRC_MARK. -/
  | trcMark (dt : Nat) (m : Master) (w : Word)
  /-- TRC_RING_RD_WRITE (R329). A write of TRC_RING_RD. -/
  | trcRingRdWrite (dt : Nat) (m : Master) (w : Word)
  /-- DRAM_INIT_BLOCK (R344). The initialiser completes a 64 KiB block. -/
  | dramInitBlock (dt : Nat) (block : BitVec 16)
  /-- SCRUB_READ (R345). The scrubber reads its next burst, with the words in which it finds uncorrectable and correctable errors. -/
  | scrubRead (dt : Nat) (ue ce : BitVec 8)
  /-- SCRUB_LATE (R346). A scrub pass has not ended 8 s after its start. -/
  | scrubLate (dt : Nat)
  /-- CE_RATE (R341). A second of the slot clock has ended. -/
  | ceRate (dt : Nat)
  /-- DMA_CHUNK (R356). A DMA chunk ends: what a host read gave, its error (late or not), and the DRAM words that have become uncorrectable. -/
  | dmaChunk (dt : Nat) (id : BitVec 12) (hostData : List Byte) (hostErr : Option Bool) (upset : List (BitVec 29))
  /-- BMP_HWIN_FENCE (R354). A write of BMP_HWIN_FENCE. -/
  | bmpHwinFence (dt : Nat) (m : Master) (w : Word)
  /-- FENCE_DONE (R354). Every chunk of a context that started before a fence has ended. -/
  | fenceDone (dt : Nat) (ctx : Fin 16)
  /-- LANE_MISMATCH (R365). The cipher lanes disagree in a job, or in a known-answer run. -/
  | laneMismatch (dt : Nat) (job : Option (BitVec 12))
  /-- KAT_RUN_START (R383). A known-answer run starts. -/
  | katRunStart (dt : Nat)
  /-- KAT_EXCLUSIVE_TAKE (R383). 10 ms have passed since a periodic run started. -/
  | katExclusiveTake (dt : Nat)
  /-- KAT_RUN_END (R384). A known-answer run ends, passed or failed at a vector. -/
  | katRunEnd (dt : Nat) (failed : Option (Fin 16))
  /-- CPH_INJECT (R385). A write of CPH_INJECT. -/
  | cphInject (dt : Nat) (m : Master) (w : Word)
  /-- WRITE_CLEAR (R395). A write of KEY_CMD with CMD 1, by a master (R395). -/
  | writeClear (dt : Nat) (m : Master) (slot src : BitVec 8)
  /-- UNWRAP (R394). A write of KEY_CMD with CMD 2 (R394, R395). -/
  | unwrap (dt : Nat) (m : Master) (slot src : BitVec 8)
  /-- DERIVE (R397). A write of KEY_CMD with CMD 3 (R397). -/
  | derive (dt : Nat) (m : Master) (slot src : BitVec 8)
  /-- WRAP (R395). A write of KEY_CMD with CMD 4 (R395). -/
  | wrap (dt : Nat) (m : Master) (slot src : BitVec 8)
  /-- ERASE (R390). A write of KEY_CMD with CMD 5 (R390). -/
  | erase (dt : Nat) (m : Master) (slot src : BitVec 8)
  /-- EXPIRE (R391). A write of KEY_CMD with CMD 6 (R391). -/
  | expire (dt : Nat) (m : Master) (slot src : BitVec 8)
  /-- FLUSH_NODE (R399). A write of KEY_CMD with CMD 7 (R399). -/
  | flushNode (dt : Nat) (m : Master) (slot src : BitVec 8)
  /-- KEY_CMD_DEFERRED_APPLY (R401). The last pin of a slot whose command is deferred has dropped (R401). -/
  | keyCmdDeferredApply (dt : Nat)
  /-- KLD_LOAD (R399). A RUNNING key-load job looks up its node's key (R399). -/
  | kldLoad (dt : Nat) (id : BitVec 12)
  /-- LCS_CHAL_READ (R410). A read of LCS_CHAL0 by a master (R410). -/
  | lcsChalRead (dt : Nat) (m : Master)
  /-- LCS_CHAL_EXPIRE (R410). 600 s have passed since the challenge was drawn (R410). -/
  | lcsChalExpire (dt : Nat)
  /-- LCS_CMD (R411). A write of LCS_CMD (R411). -/
  | lcsCmd (dt : Nat) (m : Master) (w : Word)
  /-- LCS_CHANGE (R411). The state fuse of a change in progress is blown (R411). -/
  | lcsChange (dt : Nat)
  /-- ATTEST_REQUEST (R408). A write of LCS_ATTEST (R408). -/
  | attestRequest (dt : Nat) (m : Master) (w : Word)
  /-- ATTEST_DONE (R408). The attestation report in progress is signed (R408). -/
  | attestDone (dt : Nat)
  /-- TIM_INC_WRITE (R418). A write of TIM_Dn_INC_HI. -/
  | timIncWrite (dt : Nat) (m : Master) (domain : Fin 2) (w : Word)
  /-- HOLDOVER (R419). INC has not been written for HOLD_S seconds. -/
  | holdover (dt : Nat) (domain : Fin 2)
  /-- TIM_STEP (R420). A write of TIM_Dn_STEP_NS. -/
  | timStep (dt : Nat) (m : Master) (domain : Fin 2) (w : Word)
  /-- STEP_ARM_EXPIRE (R420). An armed step is not confirmed within 1 s. -/
  | stepArmExpire (dt : Nat) (domain : Fin 2)
  /-- CLR_OFS (R423). A write of TIM_CMD. -/
  | clrOfs (dt : Nat) (m : Master) (w : Word)
  /-- PTP_EVENT_TIMESTAMP (R426). A PTP event message is received, or transmitted. -/
  | ptpEventTimestamp (dt : Nat) (port : Fin 2) (tx : Bool) (p : PtpMsg)
  /-- PTP_GENERAL_MESSAGE (R428). A PTP general message is received. -/
  | ptpGeneralMessage (dt : Nat) (port : Fin 2) (p : PtpMsg)
  /-- PTP_EXCHANGE_DISCARD (R428). An exchange is 1 s old. -/
  | ptpExchangeDiscard (dt : Nat) (domain : Fin 2)
  /-- PATH_STEP_CLEAR (R429). A write of TIM_Dn_EXCH_STATUS. -/
  | pathStepClear (dt : Nat) (m : Master) (domain : Fin 2) (w : Word)
  /-- DOMAIN_COMPARE (R430). The 1 ms comparison of the domains. -/
  | domainCompare (dt : Nat)
  /-- PPS_IN_EDGE (R431). An active edge on PPS_IN. -/
  | ppsInEdge (dt : Nat)
  /-- PPS_LOST (R431). 1.1 s have passed since the last PPS_IN edge. -/
  | ppsLost (dt : Nat)
  /-- PPS_OUT_PULSE (R432). The nanoseconds of the selected domain carry. -/
  | ppsOutPulse (dt : Nat)
  /-- PPS_OUT_END (R432). WIDTH_MS ms have passed. -/
  | ppsOutEnd (dt : Nat)
  /-- TSU_RING_RD_WRITE (R427). A write of TSU_RING_RD. -/
  | tsuRingRdWrite (dt : Nat) (m : Master) (w : Word)
  /-- LINK (R436). A backhaul port's link goes up or down (R436). -/
  | link (dt : Nat) (port : Fin 2) (up : Bool)
  /-- BH_FRAME_RX (R444). An Ethernet frame arrives, given from DA without its FCS (R444). -/
  | bhFrameRx (dt : Nat) (port : Fin 2) (frame : List Byte)
  /-- DOWNLINK (R445). An accepted DOWNLINK record acts (R445). -/
  | downlink (dt : Nat)
  /-- FLOOD (R260). An accepted FLOOD record acts (R260). -/
  | flood (dt : Nat)
  /-- CONFIRM (R445). An accepted CONFIRM record acts (R445). -/
  | confirm (dt : Nat)
  /-- ETH_TX (R445). An accepted ETH_TX record acts (R445). -/
  | ethTx (dt : Nat)
  /-- HELLO (R440). HELLO_S seconds have passed since the last HELLO (R440). -/
  | hello (dt : Nat)
  /-- HOST_TX_WR_WRITE (R451). A write of BHL_HTX_WRt (R451). -/
  | hostTxWrWrite (dt : Nat) (m : Master) (ring : Fin 16) (w : Word)
  /-- HOST_TX_FETCH (R451). The fetch of a TX ring's record ends, or starts (R451). -/
  | hostTxFetch (dt : Nat) (ring : Fin 16)
  /-- HOST_RX_RD_WRITE (R450). A write of BHL_HRX_RDr (R450). -/
  | hostRxRdWrite (dt : Nat) (m : Master) (ring : Fin 16) (w : Word)
  /-- PCIE_RESET (R449). An FLR, a hot reset or a link-down of the host link (R449). -/
  | pcieReset (dt : Nat)
  /-- HOST_READ_TIMEOUT (R449). A device host read gets no completion within 50 ms. -/
  | hostReadTimeout (dt : Nat) (id : BitVec 12)
  /-- BAR2_ACCESS (R448). The host reads `n` bytes, or writes bytes, at a BAR2 offset (R448). -/
  | bar2Access (dt : Nat) (a : Word) (n : BitVec 13) (write : Option (List Byte))
  /-- HB_WIRE_SEND (R460). A wire heartbeat is due. -/
  | hbWireSend (dt : Nat)
  /-- HB_LANE_SEND (R461). A lane heartbeat is due. -/
  | hbLaneSend (dt : Nat)
  /-- HB_WIRE_RX (R460). A wire heartbeat frame arrives. -/
  | hbWireRx (dt : Nat) (frame : BitVec 16)
  /-- HB_LANE_RX (R461). A lane heartbeat arrives, its tag right or not, with its FSEQ. -/
  | hbLaneRx (dt : Nat) (h : LaneHb) (tagOk : Bool) (fseq : Word)
  /-- HB_PATH_CHECK (R462). The periodic check of the wire or the lane path. -/
  | hbPathCheck (dt : Nat) (lane : Bool)
  /-- OWN_N_PROBE (R458). A probe of OWN_N and the level that it reads. -/
  | ownNProbe (dt : Nat) (held : Bool)
  /-- DUAL_ACTIVE (R459). A unit with PAIR_ID 0 has been unconfirmed for 20 ms. -/
  | dualActive (dt : Nat)
  /-- LANE_LINK_UP (R466). The lane links up, and the partner's HELLO arrives with its nonce. -/
  | laneLinkUp (dt : Nat) (nonce : BitVec 128) (macOk : Bool)
  /-- LANE_WRITE_RX (R467). A WRITE frame arrives. -/
  | laneWriteRx (dt : Nat) (a : Word) (data : List Byte) (tagOk : Bool) (fseq : Word)
  /-- LANE_JACK_RX (R474). A JACK arrives. -/
  | laneJackRx (dt : Nat) (pos : BitVec 64) (tagOk : Bool) (fseq : Word)
  /-- JACK_TIMEOUT (R474). A JACK is more than 200 µs late. -/
  | jackTimeout (dt : Nat)
  /-- SNAP_TIMER (R471). SNAP_S seconds have passed since the start of the previous snapshot. -/
  | snapTimer (dt : Nat)
  /-- SNAP_NOW (R471). A write of PAR_CMD. -/
  | snapNow (dt : Nat) (m : Master) (w : Word)
  /-- TAKEOVER_RESTORE (R477). The restore after the claim, with what slots A and B hold and the calibrations that fail. -/
  | takeoverRestore (dt : Nat) (a b : SlotView) (failed : List (Fin 16 × Fin 3))
  /-- CLK_MON_WINDOW (R34). A monitor window ends: per clock its count and its shortest pulse in ps, and the root PLL's lock. -/
  | clkMonWindow (dt : Nat) (counts pulses : List Nat) (locked : Bool)
  /-- SAFE_EXIT (R494). A write of SAF_CMD. -/
  | safeExit (dt : Nat) (m : Master) (w : Word)
  /-- SUPPLY_FAULT (R489). A monitored supply has been out of range for more than 5 µs: 0 VCORE, 1 RF, 2 VDDIO_FE, 3 VDDQ_DDR. -/
  | supplyFault (dt : Nat) (supply : Fin 4)
  /-- TEMP_SAMPLE (R489). The temperature readings in °C. -/
  | tempSample (dt : Nat) (readings : List Int)
  /-- PARITY_WALK (R488). The background walk and the parity errors it finds. -/
  | parityWalk (dt : Nat) (bad : List ParityAt)
  /-- SAF_TEST (R501). A write of SAF_TEST. -/
  | safTest (dt : Nat) (m : Master) (w : Word)
  /-- SAF_TEST_DONE (R501). The monitor test ends. -/
  | safTestDone (dt : Nat) (detected : Bool)
  /-- FREEZE_N_ASSERT (R507). FREEZE_N has been low for 5 monitor cycles; whether an alignment edge arrives within 100 ns. -/
  | freezeNAssert (dt : Nat) (edgeOk : Bool)
  /-- FRZ_CMD (R507). A write of FRZ_CMD. -/
  | frzCmd (dt : Nat) (m : Master) (w : Word) (edgeOk : Bool)
  /-- FREEZE_DELAY_EXPIRE (R507). DELAY_US has passed since a masked safe-state cause. -/
  | freezeDelayExpire (dt : Nat) (edgeOk : Bool)
  /-- FRZ_VSEL_WRITE (R516). A write of FRZ_VSEL. -/
  | frzVselWrite (dt : Nat) (m : Master) (w : Word)
  /-- FRZ_VDATA15_READ (R516). A read of FRZ_VDATA15. -/
  | frzVdata15Read (dt : Nat) (m : Master)
  /-- TOP_NRING_RD_WRITE (R48). A write of TOP_NRING_RD. -/
  | topNringRdWrite (dt : Nat) (m : Master) (w : Word)
  /-- WIDE_VALUE_CAPTURE_READ (R17). A read by a master at an address; whether it is narrower than 32 bits, and whether the word's parity is found wrong. -/
  | wideValueCaptureRead (dt : Nat) (m : Master) (a : BitVec 24) (narrow bad : Bool)
  /-- ENTRY_CAPTURE_READ (R233). A read through window `w` at an offset. -/
  | entryCaptureRead (dt : Nat) (m : Master) (w : Fin 8) (ofs : BitVec 18)
  /-- TOP_NOTICE_LOST_READ (R47). A read of TOP_NOTICE_LOST. -/
  | topNoticeLostRead (dt : Nat) (m : Master)
  /-- PWR_OCC_READ (R12). A read of PWR_OCC. -/
  | pwrOccRead (dt : Nat) (m : Master)
  /-- POOL_STATUS_READ (R12). A read of RFPn_POOL_STATUS. -/
  | poolStatusRead (dt : Nat) (m : Master) (n : Fin 16)
  /-- NRG_STATUS_READ (R12). A read of NRG_STATUS. -/
  | nrgStatusRead (dt : Nat) (m : Master)
  /-- SHP_SAMPLE_LOST_READ (R303). A read of SHP_SAMPLE_LOST. -/
  | shpSampleLostRead (dt : Nat) (m : Master)
  /-- TRC_LOST_READ (R330). A read of TRC_LOST, or of TRC_PORT_LOST. -/
  | trcLostRead (dt : Nat) (m : Master) (port : Bool)
  /-- BMP_POOL_MIN_READ (R12). A read of BMP_POOL_MIN. -/
  | bmpPoolMinRead (dt : Nat) (m : Master)
  /-- TSU_LOST_READ (R427). A read of TSU_LOST. -/
  | tsuLostRead (dt : Nat) (m : Master)
  /-- AON_UP (R74). Step 2 ends. -/
  | aonUp (dt : Nat)
  /-- ROOT_PLL_LOCK_TIMEOUT (R76). The root PLL has not locked within 1 ms. -/
  | rootPllLockTimeout (dt : Nat)
  /-- COEX_LEAD_ELAPSED (R169). LEAD_US has elapsed since the request of an as-soon-as-possible command. -/
  | coexLeadElapsed (dt : Nat) (port : Fin 16)
  /-- SUPPLY_IN_RANGE (R489). A monitored supply is back in range. -/
  | supplyInRange (dt : Nat) (supply : Fin 4)
  /-- CHUNK_FETCH_DONE (R516). The fetch of a vitrine chunk completes. -/
  | chunkFetchDone (dt : Nat)
  /-- LANE_HELLO_RX (R466). A HELLO frame arrives in a session. -/
  | laneHelloRx (dt : Nat) (nonce : BitVec 128) (macOk : Bool)
  /-- PAUSE_END (R435). The pause time of a received PAUSE runs out (R435). -/
  | pauseEnd (dt : Nat) (port : Fin 2)
  deriving DecidableEq, Repr

end Sys2Proof
end

