-- ==== Sys2Proof/WellFormed.lean ====
section
/-! DEFINITION. Which commands are well formed: the operands have the shapes that the rules named at each check give them. The meanings are total on all commands. -/

namespace Sys2Proof

/-- The check of each command that has one; every other command is well formed with any operands. -/
def Instr.wf : Instr → Bool
  -- R61: a stored entry has 512 bytes.
  | .catalogueWarmLoad _ entries _ => entries.all fun e => e.2.length == 512
  -- R100, R111: one increment for each of blocks 0 to 8.
  | .energyCounterUpdate _ _ blocks => blocks.length == 9
  -- R135: neither PUSH nor PULL.
  | .curBadOp _ op => op != 0x5A#8 && op != 0xA5#8
  -- R154, R176: 128 channels, 8 PHY modes.
  | .txCommand _ _ c => decide (c.channel < 128) && decide (c.mode < 8)
  -- R184: the 1 ms energies of the window.
  | .noiseFloorRefresh _ _ energies => energies.all fun e => !e.2.isEmpty
  -- R191: the PHR carries 11 bits of length.
  | .phrReceived _ _ _ len _ _ _ _ _ => decide (len ≤ 2047)
  -- R191: a PSDU has at most 2,047 octets.
  | .rxPpduEnd _ _ _ _ psdu _ => decide (psdu.length ≤ 2047)
  -- R310: ARG has 16 bytes.
  | .jobCreate _ _ _ _ _ _ args => args.length == 16
  -- R324: the result has 12 bytes.
  | .jobComplete _ _ _ _ result => result.length == 12
  -- R448: 1 to 4,096 bytes.
  | .bar2Access _ _ n write => decide (1 ≤ n.toNat) && decide (n.toNat ≤ 4096) && (match write with | some b => b.length == n.toNat | none => true)
  -- R34: REFCLK and the six divided clocks.
  | .clkMonWindow _ counts pulses _ => counts.length == 7 && pulses.length == 7
  -- R489: at least one sensor.
  | .tempSample _ readings => !readings.isEmpty
  | .vinValid _ _ _ _ _ _ _ | .vinPowerOff _ | .vinLow _ _ | .vbatLoss _ | .resetNPulse _ | .cfgRestart _ _ _ | .cfgNvmRelease _ _ _ | .fuseLoad _ _ 
  | .identitySelfTest _ _ | .rootPllLock _ | .dramTraining _ _ _ _ _ | .hbListenWindowEnd _ _ | .copySelection _ _ _ _ _ _ | .imageApply _ 
  | .ownNClaim _ | .ownNSample _ _ | .arbFuseBlow _ _ | .tamperEvent _ _ | .tamCfgWrite _ _ _ | .slotBoundary _ | .pwrHibEnter _ _ _ 
  | .hibernatePowerOff _ | .curWake _ _ _ | .curHibTimerExpire _ | .pwrNrgClear _ _ _ | .epfStart _ _ _ | .epfDone _ | .claim _ _ | .take _ _ 
  | .refresh _ _ _ | .release _ _ _ | .force _ _ | .leaseLapse _ | .txnBegin _ _ | .registerWrite _ _ _ _ _ _ | .txnCommit _ _ _ | .txnCommitBoundary _ 
  | .txnRollback _ _ _ | .txnTimeout _ | .push _ _ | .pull _ _ | .curCsRise _ | .curCmdRead _ | .curCmdWrite _ | .curInvalidHeader _ 
  | .curFifoCfgWrite _ _ _ | .handedBackReissue _ _ | .settleStart _ _ | .synthLock _ _ | .launchStart _ _ | .coexReqAssert _ _ _ | .coexGntChange _ _ _ 
  | .txLate _ _ | .ackLate _ _ | .ppduEnd _ _ | .txSequenceEnd _ _ | .txrHoldExpire _ _ | .txCommandWithdraw _ _ | .calReq _ _ _ _ | .calTempCheck _ _ 
  | .calPeriodExpire _ _ | .calStart _ _ | .calEnter _ _ | .calEnd _ _ _ | .emitPowerCheck _ _ _ | .emitFreqCheck _ _ _ _ | .emitDurationExpire _ _ 
  | .dutySubwindow _ _ | .tjSample _ _ _ | .vinSample _ _ | .detection _ _ _ _ _ _ | .sfdFound _ _ _ _ _ | .sfdWaitExpire _ _ _ | .sltRealign _ _ _ 
  | .slotCheck _ _ | .nbrBeaconRx _ _ | .beaconMiss _ _ | .nbrRelease _ _ | .sltNbrClear _ _ _ | .assocResponseAttempt _ _ | .assocFail _ _ 
  | .supervisionCheck _ | .ascUpdGo _ _ _ | .schedUpdStart _ | .schedUpdInstant _ _ | .ascLeave _ _ _ | .uplinkAcceptance _ _ | .uplinkVerifyDone _ _ 
  | .ackWaitExpire _ _ | .floodLookup _ | .accessionExpiry _ | .rcptTimerExpire _ _ | .catCmdWrite _ _ _ _ | .catCmdRead _ _ _ | .catCmdClear _ _ _ 
  | .catCmdEntry _ | .catWriteback _ _ | .shaperEntry _ | .shaperDecision _ _ | .shpSampleSet _ | .shpSringRdWrite _ _ _ | .jobDispatch _ _ 
  | .jobPreempt _ _ _ | .jobFault _ _ _ _ _ | .jobStall _ _ _ | .jobWriteback _ _ | .jobSubmit _ _ _ | .jobCancel _ _ _ | .jobResume _ _ _ 
  | .jobCopy _ _ _ | .trcMark _ _ _ | .trcRingRdWrite _ _ _ | .dramInitBlock _ _ | .scrubRead _ _ _ | .scrubLate _ | .ceRate _ | .dmaChunk _ _ _ _ _ 
  | .bmpHwinFence _ _ _ | .fenceDone _ _ | .laneMismatch _ _ | .katRunStart _ | .katExclusiveTake _ | .katRunEnd _ _ | .cphInject _ _ _ 
  | .writeClear _ _ _ _ | .unwrap _ _ _ _ | .derive _ _ _ _ | .wrap _ _ _ _ | .erase _ _ _ _ | .expire _ _ _ _ | .flushNode _ _ _ _ 
  | .keyCmdDeferredApply _ | .kldLoad _ _ | .lcsChalRead _ _ | .lcsChalExpire _ | .lcsCmd _ _ _ | .lcsChange _ | .attestRequest _ _ _ | .attestDone _ 
  | .timIncWrite _ _ _ _ | .holdover _ _ | .timStep _ _ _ _ | .stepArmExpire _ _ | .clrOfs _ _ _ | .ptpEventTimestamp _ _ _ _ | .ptpGeneralMessage _ _ _ 
  | .ptpExchangeDiscard _ _ | .pathStepClear _ _ _ _ | .domainCompare _ | .ppsInEdge _ | .ppsLost _ | .ppsOutPulse _ | .ppsOutEnd _ 
  | .tsuRingRdWrite _ _ _ | .link _ _ _ | .bhFrameRx _ _ _ | .downlink _ | .flood _ | .confirm _ | .ethTx _ | .hello _ | .hostTxWrWrite _ _ _ _ 
  | .hostTxFetch _ _ | .hostRxRdWrite _ _ _ _ | .pcieReset _ | .hostReadTimeout _ _ | .hbWireSend _ | .hbLaneSend _ | .hbWireRx _ _ | .hbLaneRx _ _ _ _ 
  | .hbPathCheck _ _ | .ownNProbe _ _ | .dualActive _ | .laneLinkUp _ _ _ | .laneWriteRx _ _ _ _ _ | .laneJackRx _ _ _ _ | .jackTimeout _ | .snapTimer _ 
  | .snapNow _ _ _ | .takeoverRestore _ _ _ _ | .safeExit _ _ _ | .supplyFault _ _ | .parityWalk _ _ | .safTest _ _ _ | .safTestDone _ _ 
  | .freezeNAssert _ _ | .frzCmd _ _ _ _ | .freezeDelayExpire _ _ | .frzVselWrite _ _ _ | .frzVdata15Read _ _ | .topNringRdWrite _ _ _ 
  | .wideValueCaptureRead _ _ _ _ _ | .entryCaptureRead _ _ _ _ | .topNoticeLostRead _ _ | .pwrOccRead _ _ | .poolStatusRead _ _ _ | .nrgStatusRead _ _ 
  | .shpSampleLostRead _ _ | .trcLostRead _ _ _ | .bmpPoolMinRead _ _ | .tsuLostRead _ _ | .aonUp _ | .rootPllLockTimeout _ | .coexLeadElapsed _ _ 
  | .supplyInRange _ _ | .chunkFetchDone _ | .laneHelloRx _ _ _ | .pauseEnd _ _ => true

end Sys2Proof
end

