-- ==== Sys2Proof/Config.lean ====
section
/-! DEFINITION. What an implementation fixes and what the spec leaves open, as constants without a body: free values, fused secrets, and the standard algorithms
to which the spec refers by name (CCM*, AES-CMAC, AES key wrap, SHA-512, ECDSA). A statement that uses one holds for every choice of it. -/

namespace Sys2Proof.Machine

/-- The `n`-th free value: a value that the spec leaves open. -/
opaque Config.freeValue : Nat → Nat

/-- A word of a raw vitrine region (R517), by region, chunk and word. -/
opaque Config.rawVitrine : Nat → Nat → Nat → Word

/-- The tag of CCM* (R362) for a key, nonce, a-data, m-data and tag length. -/
opaque Config.ccmTag : List Byte → List Byte → List Byte → List Byte → Nat → List Byte

/-- The key stream of CCM* (R362) for a key and nonce, of a length. -/
opaque Config.ccmStream : List Byte → List Byte → Nat → List Byte

/-- AES-CMAC (R362) of a message under a key. -/
opaque Config.cmac : List Byte → List Byte → List Byte

/-- AES key wrap, and its inverse, which fails when the integrity check does (R393, R394). -/
opaque Config.kwWrap : List Byte → List Byte → List Byte
opaque Config.kwUnwrap : List Byte → List Byte → Option (List Byte)

/-- The fused device key (R405), and the pair root key of a unit that has one (R453). -/
opaque Config.deviceKey : List Byte
opaque Config.pairRootKey : List Byte

/-- SHA-512 (R67, R80, R411). -/
opaque Config.sha512 : List Byte → Nat

/-- What the fuses of the unit hold when it is delivered: lifecycle code (R409), anti-rollback count (R71), an HZ-7180-EV (R5), a pair root key (R455), the owner key
hash (R67), the serial number and whether there is an identity key (R407). -/
opaque Config.lifecycle : Fin 6
opaque Config.arbCount : Fin 65
opaque Config.partEv : Bool
opaque Config.pairRoot : Bool
opaque Config.ownerHash : Nat
opaque Config.serial : BitVec 64
opaque Config.identity : Bool

/-- ECDSA P-521 verification of a message under a public key with r and s, and the identity key's public key and its signature (r then s) of a message (R407, R408, R411). -/
opaque Config.ecdsaOk : List Byte → List Byte → List Byte → List Byte → Bool
opaque Config.identityPublic : List Byte
opaque Config.identitySign : List Byte → List Byte

/-- The maker key hash in ROM (R67). -/
opaque Config.makerHash : Nat

/-- The serial number of the fused partner (R453). -/
opaque Config.peerSerial : Nat

/-- The fixed latency of the pair lane in 5 ns ticks, which the spec does not give (R480). -/
opaque Config.laneLatency : Nat

/-- The fused word of a compensation table of a radio port by its window offset (R165). -/
opaque Config.compWord : Nat → Word

end Sys2Proof.Machine
end

