-- ==== Sys2Proof/Machine/State.lean ====
section
/-! DEFINITION. The state of the HZ-7180 as plain data: the register file (R9 to R20), the tables behind the windows (R41), device DRAM, and per block
the state that the chapters give it and that no register holds. Every register of the map lives in `regs`; a register that is not listed there holds its
reset value. A field that is a view of other state (a live level, a running clock) is computed when it is read and stored nowhere. -/

namespace Sys2Proof.Machine

/-- Where a register field stands: the address of its register and its highest and lowest bit. -/
structure Field where
  addr : Nat
  hi : Nat
  lo : Nat
  deriving DecidableEq, Repr

/-- One row of the register map: base address, two strides with their counts, whether it is of type T (R13), and the masks of its
RW, W1C, W1S, WO and RC bits and of every assigned bit (R10, R11). -/
structure RegSpec where
  base : Nat
  s1 : Nat
  n1 : Nat
  s2 : Nat
  n2 : Nat
  isT : Bool
  rw : Word
  w1c : Word
  w1s : Word
  wo : Word
  rc : Word
  assigned : Word
  deriving DecidableEq, Repr

/-- What the notice tables of the chapters fix for a notice: BLOCK and EVENT (R44), its vector under R50 (64: none), whether it is
safety-class, and its CLASS in the safety log (R499). -/
structure NoticeKind where
  block : Nat
  event : Nat
  vector : Nat
  safety : Bool
  cls : Nat
  deriving DecidableEq, Repr

/-- Why the machine stops with a fault. No command of this block faults: the spec names no access or event after which the device has no next state. -/
inductive Fault
  /-- Raised by nothing; it keeps the type inhabited. Safe. -/
  | none
  deriving DecidableEq, Repr

/-- Why a command has no meaning. -/
inductive Refusal
  /-- Raised by an arm of `exec` whose command has no meaning yet. Safe. -/
  | notModelled (mnemonic : String)
  deriving DecidableEq, Repr

/-- What the device has put on its pins, links and buses, as far as the chapters describe it. The list of these is the model's own record of outputs. -/
inductive Out
  /-- An MSI-X message of the vector (R51). -/
  | msix (vector : Nat)
  /-- A word on CUR_MISO (R135, R143). -/
  | miso (w : Word)
  /-- The first PPDU bit of a transmission on a radio port at a slot clock value. -/
  | ppdu (port kind channel : Nat) (at_ : Nat)
  /-- A wire heartbeat frame (R460). -/
  | hbWire (bytes : List Byte)
  /-- A lane frame of the pair lane (R466, R467). -/
  | lane (kind : Nat) (seq : Nat) (body : List Nat)
  /-- An Ethernet frame sent on BH0 or BH1, from DA without its FCS (R438). -/
  | bh (port : Nat) (frame : List Byte)
  /-- A trace record sent on the trace port (R331). -/
  | trace (bytes : List Byte)
  /-- A register or DRAM read value returned to a master (0 host, 1 curator). -/
  | value (master : Nat) (w : Word)
  /-- The completion of a BAR2 read, poisoned or not (R448). -/
  | bar2 (bytes : List Byte) (poisoned : Bool)
  /-- Some bytes written to host memory through a context. -/
  | hostWrite (ctx : Nat) (addr : Nat) (bytes : List Byte)
  deriving DecidableEq, Repr


/-- Supplies and pins that reach the device from outside (R93 to R98), and the output pins that no register shows. -/
structure Pins where
  /-- VIN is above its power-on threshold (R95). -/
  vinValid : Bool
  /-- VBAT is in range (R98). -/
  vbatOk : Bool
  /-- VDDIO_NVM, VDDIO_FE and VDDQ_DDR are present (R96). -/
  vddNvm : Bool
  /-- VDDIO_FE is present (R96). -/
  vddFe : Bool
  /-- VDDQ_DDR is present (R96). -/
  vddDdr : Bool
  /-- RESET_N is low since VIN became valid (R524). -/
  resetLow : Bool
  /-- PAIR_ID as its pin stands (R454). -/
  pairId : Bool
  /-- SAFE_N asserted (R495). -/
  safeN : Bool
  /-- TAMPER0 to TAMPER3 at their active level, one bit each (R412). -/
  tamper : Nat
  deriving DecidableEq, Repr

/-- What the fuses hold; nothing but a blow changes them. -/
structure Fuses where
  /-- The anti-rollback count, 0 to 64 (R71). -/
  arb : Nat
  /-- The lifecycle state: 0 BLANK, 1 MAKER, 2 OWNED, 3 FIELD, 4 RETURNED, 5 VOID (R409). -/
  lifecycle : Nat
  /-- An HZ-7180-EV (R5). -/
  partEv : Bool
  /-- A pair root key is present (R455). -/
  pairRoot : Bool
  /-- Owner key hash (R67). -/
  ownerHash : Nat
  /-- Device serial number (R407). -/
  serial : Nat
  /-- An identity key is present (R407). -/
  identity : Bool
  deriving DecidableEq, Repr

/-- The clocks (R28 to R34, R415): elapsed time in CLK_TIM ticks of 5 ns, whether the divided clocks run, the slot clock and the CLK_FAB stamp. -/
structure Clocks where
  /-- The model's own count of 5 ns ticks since State.reset. -/
  now : Nat
  /-- `now` at VIN valid, from which CFG_T_AUTO and AON_T count. -/
  vinAt : Nat
  /-- The divided clocks run, from ROOT_PLL_LOCK on (R76). -/
  running : Bool
  /-- The slot clock (R33, R415). -/
  slot : Nat
  /-- The CLK_FAB stamp of 40 bits (R33, R326). -/
  stamp : Nat
  /-- The clock monitor runs (R76). -/
  monitor : Bool
  /-- CORE is powered. -/
  core : Bool
  deriving DecidableEq, Repr

/-- A wide value captured for one master (R17, R233): the addresses and values of the words still to be returned. -/
structure Capture where
  /-- Addresses and values of the words still to be returned (R17, R233). -/
  words : List (Nat × Word)
  deriving DecidableEq, Repr

/-- The loader's state beside CFG_*: the image that is being applied and the windows of start-up (R68 to R83). -/
structure Boot where
  /-- Start-up has ended (R118). -/
  ended : Bool
  /-- The selected copy (R69). -/
  image : Option CopyView
  /-- End of the heartbeat listening window of R83, while it is open. -/
  listenEnd : Option Nat
  /-- Valid lead heartbeats in the window, on the wire and on the lane (R83). -/
  leadWire : Nat
  /-- Valid lead heartbeats in the window on the lane (R83). -/
  leadLane : Nat
  /-- Read-backs of the fuse being blown that failed (R72). -/
  arbTries : Nat
  /-- A tamper event came in HIBERNATE (R90). -/
  tamperHib : Bool
  /-- The VBAT loss of R98 since the last start-up. -/
  vbatLost : Bool
  /-- Ports whose calibration of step 9 is still to end. -/
  calLeft : List Nat
  deriving DecidableEq, Repr

/-- Power state beside PWR_* (R101 to R113). -/
structure Power where
  /-- Demodulator-busy ticks of the slot in progress, summed over all demodulators (R101). -/
  busyTicks : Nat
  /-- Consecutive slots at or below ENTER (R102). -/
  lowSlots : Nat
  /-- Banks of a port that had a busy demodulator in this slot: key port, one bit per bank (R103). -/
  bankUsed : Sparse Nat
  /-- Bank 3 of some port was woken in this slot (R102). -/
  bank3 : Bool
  /-- Fractions of the energy counters in nJ below 1 µJ (R111). -/
  nrgFrac : Sparse Nat
  /-- Energy-per-frame window: slot clock at its end and the VIN energy in nJ so far (R113). -/
  epf : Option (Nat × Nat)
  /-- The power mode changed in the window (R114). -/
  epfMixed : Bool
  /-- Of the two power modes of AUTONOMOUS the device is in QUIET_LISTEN (R99). -/
  ql : Bool
  /-- `now` from which CUR_HIB_TIMER counts (R109). -/
  hibAt : Nat
  /-- HIBERNATE entry in progress (R108). -/
  hibEntry : Bool
  deriving DecidableEq, Repr

/-- The lease and the transaction beside CUR_*, HST_* and TXN_* (R121, R125, R127). -/
structure Ctl where
  /-- Lease deadline in `now` (R121). -/
  lease : Option Nat
  /-- The tag the next BEGIN issues (R126). -/
  nextTag : Nat
  /-- Slot clock at which the open transaction times out (R132). -/
  txnEnd : Nat
  /-- Slot clock from which a boundary may commit (R131). -/
  commitFrom : Nat
  /-- Shadows in the order of their first write (R127). -/
  shadows : List (Nat × Word)
  deriving DecidableEq, Repr

/-- The Curator port (R135 to R146). -/
structure CurPort where
  /-- Command FIFO, head first, each word with the number of the PUSH that carried it (R138). -/
  cmd : List (Word × Nat)
  /-- Response FIFO, head first; responses are put there whole (R142). -/
  rsp : List Word
  /-- Number of the PUSH in progress, or of the next one. -/
  push : Nat
  /-- A word of the PUSH in progress met a full FIFO (R144). -/
  overrun : Bool
  /-- The PUSH in progress is being discarded from an invalid header on (R138). -/
  discard : Bool
  /-- CUR_BUSY and CUR_ATTN (R145). -/
  busy : Bool
  /-- CUR_ATTN (R145). -/
  attn : Bool
  deriving DecidableEq, Repr

/-- One entry of the safety log (R499). -/
structure LogEntry where
  /-- BLOCK (R499). -/
  block : Nat
  /-- EVENT (R499). -/
  event : Nat
  /-- STATUS (R499). -/
  status : Nat
  /-- CLASS (R499). -/
  cls : Nat
  /-- PORT (R499). -/
  port : Nat
  /-- ARG (R499). -/
  arg : Nat
  /-- AON_T: 32.768 kHz cycles since VIN valid (R499). -/
  aonT : Nat
  /-- STARTS (R499). -/
  starts : Nat
  /-- STATE (R499). -/
  state : Nat
  /-- ENTERED (R499). -/
  entered : Bool
  deriving DecidableEq, Repr

/-- Functional safety beside SAF_* (R489 to R501). -/
structure Safety where
  /-- The log's entries by k mod 256, WR and SAFE_WR (R497, R499). -/
  log : Sparse LogEntry
  /-- WR of the log (R497). -/
  logWr : Nat
  /-- SAFE_WR of the log (R499). -/
  safeWr : Nat
  /-- Start-ups since VIN valid (R499). -/
  starts : Nat
  /-- The safe state was entered from AUTONOMOUS (R494). -/
  fromAuto : Bool
  /-- Consecutive samples with a reading above 115 °C, and with every reading at or below 105 °C (R489). -/
  hot : Nat
  /-- Consecutive samples with every reading at or below 105 °C (R489). -/
  cool : Nat
  /-- Monitor test running: its target and its start (R501). -/
  test : Option (Nat × Nat)
  deriving DecidableEq, Repr


/-- A command that a port holds or that waits for it in the exchange engine (R154, R548). -/
structure Held where
  /-- The command (R154). -/
  cmd : TxCmd
  /-- Slot clock at acceptance. -/
  accepted : Nat
  /-- End of the slot that contains L, or the acceptance (R156). -/
  slotEnd : Nat
  /-- Handed back by the port under R548. -/
  handed : Bool
  /-- Already counted as held for a grant. -/
  grantHeld : Bool
  /-- Its pre-charge, if any, as the ledger took it. -/
  charged : Nat
  /-- Its wait in the exchange engine counts toward R156: handed back, or not accepted under R160 or R172 (R548). -/
  waits : Bool
  deriving DecidableEq, Repr

/-- Calibration of a port (R170 to R172): 0 none, 1 pending, 2 its boundary has come, 3 running. -/
structure Cal where
  /-- 0 none, 1 pending, 2 its boundary has come, 3 running (R170, R172). -/
  phase : Nat
  /-- `now` of the trigger, or from which CAL_MAX_DEFER_MS counts. -/
  since : Nat
  /-- Slot clock at the chosen boundary. -/
  boundary : Nat
  /-- `now` at the start. -/
  start : Nat
  /-- `now` at the last success. -/
  lastOk : Option Nat
  deriving DecidableEq, Repr

/-- A radio port beside RFPn_* (R150 to R172). -/
structure Port where
  /-- The command that the port holds (R154). -/
  held : Option Held
  /-- S of the launch sequence, once it has begun (R155). -/
  begun : Option Nat
  /-- The last PPDU bit has left. -/
  sent : Bool
  /-- Commands waiting in the exchange engine for the port. -/
  waiting : List Held
  /-- Frequency in kHz at which the synthesiser is locked, or toward which it moves. -/
  locked : Option Nat
  /-- Frequency in kHz toward which the synthesiser moves (R155). -/
  target : Nat
  /-- Consecutive excessive driver measurements (R167). -/
  overCnt : Nat
  /-- Airtime in ticks of the current and the previous 63 sub-windows, newest first (R168). -/
  duty : List Nat
  /-- `now` at the start of the current sub-window (R168). -/
  dutyAt : Nat
  /-- Launched airtime in ticks below the last whole ms of counter 9. -/
  airRest : Nat
  /-- The duty notice of the sub-window has been given (R168). -/
  dutyNoticed : Bool
  /-- Slot clock at which TXR_HOLD expires (R152). -/
  holdEnd : Option Nat
  /-- Calibration (R170 to R172). -/
  cal : Cal
  /-- ENABLE = 0 takes effect when the PPDU in progress ends (R151). -/
  stopping : Bool
  /-- Latest samples of R164. -/
  tj : Int
  /-- Channels whose noise floor has been estimated (R184). -/
  floors : List Nat
  /-- Coexistence pairs whose request this port has asserted, with the slot clock at the assertion (R169). -/
  req : List (Nat × Nat)
  deriving DecidableEq, Repr

/-- What the ports share (R164, R169). -/
structure Radio where
  /-- The latest VIN sample in mV (R164). -/
  vinMv : Nat
  /-- Levels of COEX_GNT0 to COEX_GNT3, one bit each. -/
  gnt : Nat
  deriving DecidableEq, Repr


/-- A claimed demodulator (R188 to R198): channel, mode and class at detection, the slot clock at the claim, the received power and noise floor in quarter dBm, and
what its SFD and PHR gave. -/
structure Demod where
  /-- Channel (R188). -/
  channel : Nat
  /-- PHY mode (R188). -/
  mode : Nat
  /-- Class at detection (R188). -/
  cls : Nat
  /-- Slot clock at the claim (R188, R189). -/
  claimed : Nat
  /-- Slot clock at the detection of the preamble being received: the claim's, or the capture's (R186, R191). -/
  detected : Nat
  /-- Received power in quarter dBm (R188, R196). -/
  power : Int
  /-- Noise floor of its channel in quarter dBm (R182, R196). -/
  noise : Int
  /-- Slot clock at the last SFD bit. -/
  sfd : Option Nat
  /-- CLASS of its channel and OFFSET of its port as they stood at its SFD, under which it completes (R195). -/
  sfdCls : Nat
  sfdOffset : Int
  /-- Coded, as its SFD said (R179, R191). -/
  fec : Bool
  /-- FCS of 4 bytes, as its PHR said (R179, R191). -/
  fcs32 : Bool
  /-- Data whitening, as its PHR said (R179, R191). -/
  whitened : Bool
  /-- PSDU length, as its PHR said (R191, R196). -/
  len : Nat
  /-- Link quality (R196). -/
  lqi : Nat
  /-- Frequency offset (R196). -/
  fofs : Int
  /-- Handle of its buffer. -/
  buffer : Option Nat
  deriving DecidableEq, Repr


/-- A Sync that a domain's exchange may use (R428): times in ns, the correction in 2^−16 ns, and `now` at its reception. -/
structure SyncInfo where
  /-- sequenceId (R428). -/
  seq : Nat
  /-- t1 in ns, once known (R428). -/
  t1 : Option Int
  /-- t2 in ns (R428). -/
  t2 : Int
  /-- The correction in 2^−16 ns (R428). -/
  corr : Int
  /-- `now` at its reception (R428). -/
  at_ : Nat
  deriving DecidableEq, Repr

/-- The request of an exchange (R428): E2E holds t3 and its Sync; P2P holds t1, then t2 and t4. -/
structure PtpReq where
  /-- sequenceId of the request (R428). -/
  seq : Nat
  /-- Its transmission in ns: t3 of E2E, t1 of P2P (R428). -/
  sent : Int
  /-- E2E: the Sync of the exchange (R428). -/
  sync : Option SyncInfo
  /-- P2P: t2 and t4, once answered (R428). -/
  answered : Option (Int × Int)
  /-- The correction in 2^−16 ns (R428). -/
  corr : Int
  /-- `now` at the first message of the exchange (R428). -/
  first : Nat
  deriving DecidableEq, Repr

/-- A time domain beside TIM_Dn_* (R417 to R429): time in units of 2^−32 ns, epoch, the INC in effect, and the exchange state. -/
structure Domain where
  /-- Time in units of 2^−32 ns (R417). -/
  t : Nat
  /-- The epoch (R417). -/
  epoch : Nat
  /-- The INC in effect (R417). -/
  inc : Nat
  /-- `now` at the last INC write (R419). -/
  incAt : Nat
  /-- Armed step in ns with the slot clock of its write (R420). -/
  armed : Option (Int × Nat)
  /-- The last Sync received, and the last whose t1 is known. -/
  sync : Option SyncInfo
  /-- The last Sync whose t1 is known (R428). -/
  known : Option SyncInfo
  /-- The request under way (R428). -/
  req : Option PtpReq
  /-- Raw MPD of the previous exchange (R429). -/
  prevMpd : Option Int
  /-- The next exchange gives DELAY_EST its raw MPD (R429). -/
  fresh : Bool
  deriving DecidableEq, Repr

/-- Network time beside TIM_* and TSU_* (R415 to R432). -/
structure Time where
  /-- Domain 0 (R417). -/
  d0 : Domain
  /-- Domain 1 (R417). -/
  d1 : Domain
  /-- The alignment offset in ns (R423). -/
  ofs : Int
  /-- `now` at the last PPS_IN edge, and PPS_LOST raised since (R431). -/
  ppsIn : Option Nat
  /-- PPS_LOST raised since the last PPS_IN edge (R431). -/
  ppsLost : Bool
  /-- Slot clock at which the PPS_OUT pulse ends, while it is active (R432). -/
  ppsOut : Option Nat
  /-- A TSU record has been lost since the last one written (R427). -/
  tsuLost : Bool
  deriving DecidableEq, Repr


/-- DRAM, the buffer pool and the host windows beside DRM_* and BMP_* (R334 to R360). -/
structure Mem where
  /-- 64-bit words (by address / 8) whose read is uncorrectable until a write replaces them, or correctable until written back (R341, R342). -/
  poisoned : Sparse Bool
  /-- 64-bit words whose read is correctable until it is written back (R341). -/
  flipped : Sparse Bool
  /-- 64 KiB blocks that the initialiser has done (R344). -/
  inited : Sparse Bool
  /-- `now` at the start of the scrub pass, and SCRUB_LATE raised in it (R345, R346). -/
  passStart : Option Nat
  /-- SCRUB_LATE raised in the pass (R345, R346). -/
  passLate : Bool
  /-- Correctable errors in the current second of the slot clock, and that second (R341). -/
  ceCount : Nat
  /-- The second of the slot clock that ceCount counts in (R341). -/
  ceSecond : Nat
  /-- GEN and holders of each buffer, the buffers ever allocated, and those freed since, longest free first (R348 to R350). -/
  gens : Sparse Nat
  /-- Holders of each buffer (R348). -/
  holders : Sparse Nat
  /-- Buffers ever allocated (R349). -/
  used : Sparse Bool
  /-- Buffers freed since, longest free first (R349, R350). -/
  freed : List Nat
  /-- Lowest free count since the last read of BMP_POOL_MIN. -/
  minFree : Option Nat
  /-- POOL_LOW may be raised (R351). -/
  lowArmed : Bool
  /-- Per context the jobs whose chunk a fence waits for (R354). -/
  fence : Sparse (List Nat)
  deriving DecidableEq, Repr

/-- What a key is loaded for by a KLD job (R399): the OPEN or the ack SEAL of an acceptance, the SEAL of a downlink, or of an association response or LEAVE. -/
inductive KeyUse
  | openAcc (acc : Nat)
  | sealAck (acc : Nat)
  | sealDl (dl : Nat)
  deriving DecidableEq, Repr

/-- A record toward the head-end or the host (R439, R440), without its SEQ and tag. -/
structure Rec where
  /-- TYPE (R440). -/
  type : Nat
  /-- CLASS (R440). -/
  cls : Nat
  /-- FLAGS (R440). -/
  flags : Nat
  /-- PORT (R440). -/
  port : Nat
  /-- NIX (R440). -/
  nix : Nat
  /-- Frame counter (R440). -/
  fc : Nat
  /-- ARG (R440). -/
  arg : List Byte
  /-- The body (R439). -/
  body : List Byte
  deriving DecidableEq, Repr

/-- What a frame in the shaper holds (R290). -/
inductive Load
  /-- A downlink or relay copy by its number. -/
  | downlink (id : Nat)
  /-- A record, with the buffer of its frame. -/
  | record (r : Rec) (buffer : Option Nat)
  /-- An Ethernet frame of a host ETH_TX record (R445). -/
  | ether (bytes : List Byte)
  deriving DecidableEq, Repr

/-- What a job that an engine created works on. -/
inductive Work
  /-- A submitted job, or one whose whole effect is another step's. -/
  | none
  /-- Acceptance of the frame in a buffer. -/
  | rxa (handle : Nat)
  /-- TXL: building a frame. -/
  | build (u : KeyUse)
  /-- KLD: loading the key of node `nix`. -/
  | kld (nix : Nat) (u : KeyUse)
  /-- CPH: the OPEN or SEAL. -/
  | cipher (u : KeyUse)
  /-- CPH: the OPEN of the beacon frame in a buffer (R229). -/
  | openBcn (handle : Nat)
  /-- CPH: the SEAL of the beacon of a port. -/
  | beacon (port : Nat)
  /-- HDM: a record toward host RX ring `ring`, and the further parts of its frame (R441, R450). -/
  | hostRx (ring : Nat) (bytes : List Byte) (rest : List (List Byte))
  /-- HDM: the fetch of a record of host TX ring `ring`. -/
  | hostTx (ring : Nat)
  /-- MNT: the catalogue command in progress (R274). -/
  | catCmd
  /-- BHL: a record or Ethernet frame to be sent on BH0 or BH1. -/
  | bhl (port : Nat) (load : Load)
  deriving DecidableEq, Repr

/-- A job in flight (R307 to R321): its descriptor and what the fabric and its engine hold of it. -/
structure Job where
  /-- Engine class (R309). -/
  cls : Nat
  /-- Priority (R309, R310). -/
  prio : Nat
  /-- State (R307). -/
  state : Nat
  /-- ARG of its CREATE record (R327). -/
  creator : Nat
  /-- Submitting master (0 host, 1 curator) and descriptor address (R322). -/
  submitted : Option (Nat × Nat)
  /-- NOTIFY of its submission (R322). -/
  notify : Bool
  /-- Resumed under R323. -/
  resumed : Bool
  /-- Its first buffer (R309). -/
  buf0 : Nat
  /-- Its second buffer (R309). -/
  buf1 : Nat
  /-- Its 16 argument bytes (R309). -/
  args : List Byte
  /-- Status (R309). -/
  status : Nat
  /-- DETAIL (R309). -/
  detail : Nat
  /-- Its 12 result bytes (R309). -/
  result : List Byte
  /-- Its saved context (R316). -/
  context : List Byte
  /-- Pre-emptions so far (R316, R317). -/
  preempts : Nat
  /-- Its unit (R314). -/
  unit : Nat
  /-- Stamp of its last dispatch. -/
  stamp : Nat
  /-- It continues from a saved context. -/
  saved : Bool
  /-- Source of a cancel that waits for its pre-emption point or end (R321). -/
  cancel : Option Nat
  /-- What it works on (R309). -/
  work : Work
  /-- Key slots that it pins (R369, R401). -/
  pins : List Nat
  /-- Map entry read at the start of its chunk; none where its context is not enabled (R353). -/
  entry : Option Nat
  /-- Bytes completed (R356). -/
  done : Nat
  /-- Frame counter taken, and hold buffer (R371, R375). -/
  fc : Nat
  /-- Hold buffer (R375). -/
  hold : Option Nat
  /-- Times paused for a known-answer run (R381). -/
  pauses : Nat
  /-- Stamp of its first dispatch (R317, R381). -/
  firstAt : Option Nat
  /-- The message in its hold buffer (R375). -/
  message : List Byte
  deriving DecidableEq, Repr

/-- The job fabric and the trace beside JOB_* and TRC_* (R306 to R332). -/
structure Fabric where
  /-- Jobs in flight by ID (R307). -/
  jobs : Sparse (Option Job)
  /-- Ready lists by 64 × class + priority, head first. -/
  ready : Sparse (List Nat)
  /-- Jobs whose creator waits for a free ID (R308). -/
  waiting : List Job
  /-- Slot clock at the last JOB_FULL. -/
  fullAt : Option Nat
  /-- Records lost since the last one written, in the ring and on the port (R330). -/
  trcLost : Nat
  /-- Records lost on the port since the last one sent (R330, R331). -/
  portLost : Nat
  /-- `now` at which the trace port's FIFO is empty (R331). -/
  portBusy : Nat
  deriving DecidableEq, Repr


/-- A key slot (R389). -/
structure KeySlot where
  /-- FULL (R389). -/
  full : Bool
  /-- KLEN (R389). -/
  klen : Bool
  /-- XNR (R389). -/
  xnr : Bool
  /-- EXPIRED (R389). -/
  expired : Bool
  /-- ORIGIN (R389). -/
  origin : Nat
  /-- CLOSING (R401). -/
  closing : Bool
  /-- PERMS (R389). -/
  perms : Nat
  /-- DEPTH (R389). -/
  depth : Nat
  /-- USES (R389). -/
  uses : Nat
  /-- PARENT (R389). -/
  parent : Nat
  /-- Generation of the parent (R390). -/
  parentGen : Nat
  /-- Node of a cached key (R399). -/
  nix : Nat
  /-- The key (R389). -/
  material : List Byte
  /-- Order of its last use, for the cache (R399). -/
  lastUse : Nat
  /-- Linked to its node; an unlinked cache slot serves only its pins (R399). -/
  linked : Bool
  deriving DecidableEq, Repr

/-- A key command that is deferred (R401). -/
structure KeyCmd where
  /-- CMD (R395). -/
  cmd : Nat
  /-- SLOT (R395). -/
  slot : Nat
  /-- SRC (R395). -/
  src : Nat
  /-- ARG (R395). -/
  arg : Nat
  /-- ATTR (R395). -/
  attr : Nat
  /-- USES (R395). -/
  uses : Nat
  /-- ADDR (R395). -/
  addr : Nat
  /-- The staged key (R395). -/
  stage : List Byte
  deriving DecidableEq, Repr

/-- The key store beside KEY_* (R388 to R404). -/
structure KeyStore where
  /-- The 256 slots (R388). -/
  slots : Sparse KeySlot
  /-- The deferred command (R401). -/
  deferred : Option KeyCmd
  /-- Counts uses, for the cache (R399). -/
  tick : Nat
  /-- Slot clock second of the last BLOB_FAIL. -/
  blobFailAt : Option Nat
  /-- Slot clock at the last CACHE_WAIT (R399). -/
  cacheWaitAt : Option Nat
  deriving DecidableEq, Repr

/-- The TAMP domain beside TAM_* (R372, R390, R405, R406, R277, R408). -/
structure Tamp where
  /-- The unlock seed: the free value that was drawn for it. -/
  seed : Option Nat
  /-- Generations of the slots (R390). -/
  gens : Sparse Nat
  /-- LOADS of the catalogue (R277). -/
  loads : Nat
  /-- Mark of the beacon counter (R372). -/
  bcnMark : Nat
  /-- Mark of the local counter (R372). -/
  localMark : Nat
  /-- Start-ups, for the report (R408). -/
  boots : Nat
  deriving DecidableEq, Repr

/-- The cipher engine beside CPH_* (R362 to R385). -/
structure Cipher where
  /-- Known-answer run: its start and whether it has the pipeline alone (R383). -/
  kat : Option (Nat × Bool)
  /-- The run before the first job of a start-up or takeover is still to end. -/
  katFirst : Bool
  /-- `now` at the start of the last run. -/
  katAt : Nat
  /-- An injection waits for the next block (R385). -/
  inject : Bool
  /-- FC_END raised for the beacon and the local counter (R373). -/
  bcnEnd : Bool
  /-- FC_END raised for the local counter (R373). -/
  localEnd : Bool
  /-- Notice FC_RESET is owed (R372). -/
  fcReset : Bool
  deriving DecidableEq, Repr

/-- Identity and lifecycle beside LCS_* (R405 to R411). -/
structure Lcs where
  /-- `now` at which the challenge in LCS_CHAL was drawn, while it is valid. -/
  chalAt : Option Nat
  /-- Target of the change whose fuse is being blown (R411). -/
  change : Option Nat
  /-- Report address and nonce of the attestation in progress (R408). -/
  attest : Option (Nat × List Byte)
  deriving DecidableEq, Repr

/-- An entry in the catalogue cache (R272): its 512 bytes, the slot clock of its first unwritten change, and the order of its last use. -/
structure CacheLine where
  /-- The 512 bytes of the entry (R272). -/
  bytes : List Byte
  /-- Slot clock of its first unwritten change (R272). -/
  dirty : Option Nat
  /-- Order of its last use (R272). -/
  lastUse : Nat
  deriving DecidableEq, Repr

/-- A catalogue command in progress (R274). -/
structure CatCmd where
  /-- CMD (R274). -/
  cmd : Nat
  /-- MASK (R274). -/
  mask : Nat
  /-- First NIX (R274). -/
  nix : Nat
  /-- COUNT (R274). -/
  count : Nat
  /-- Entries done (R275). -/
  done : Nat
  /-- ADDR (R274). -/
  addr : Nat
  deriving DecidableEq, Repr

/-- The catalogue beside CAT_* and NRG_* (R266 to R285). -/
structure Catalogue where
  /-- The cache of 4,096 entries (R272). -/
  cache : Sparse (Option CacheLine)
  /-- Counts uses, for the cache (R272). -/
  tick : Nat
  /-- The node index: VALID entries, rising (R266). -/
  valid : List Nat
  /-- The command in progress (R274). -/
  cmd : Option CatCmd
  /-- The relay roster in order of association (R285). -/
  roster : List Nat
  /-- Slot clock at the last ROSTER_FULL (R285). -/
  rosterFullAt : Option Nat
  deriving DecidableEq, Repr


/-- A frame in the shaper, or on its way into it (R289, R474): port, class, node, subscriber, LEN, arrival, and the journal position that it waits for. -/
structure SFrame where
  /-- Port (R289). -/
  port : Nat
  /-- Class (R289). -/
  cls : Nat
  /-- Node (R289). -/
  nix : Nat
  /-- Subscriber (R289). -/
  sub : Nat
  /-- LEN (R289, R290). -/
  len : Nat
  /-- Slot clock at its arrival (R289). -/
  arrived : Nat
  /-- What it holds (R290). -/
  load : Load
  /-- Journal position that it waits for (R474). -/
  waitPos : Option Nat
  deriving DecidableEq, Repr

/-- A queue of the shaper (R289, R294). -/
structure Queue where
  /-- Port (R289). -/
  port : Nat
  /-- Class (R289). -/
  cls : Nat
  /-- Subscriber (R289). -/
  sub : Nat
  /-- Start tag S (R294). -/
  tag : Nat
  /-- Its frames, head first (R289). -/
  frames : List SFrame
  /-- Frames served (R302). -/
  served : Nat
  /-- Frames dropped (R302). -/
  drops : Nat
  deriving DecidableEq, Repr

/-- The shaper beside SHP_* (R288 to R304). -/
structure Shaper where
  /-- The queues in use (R289). -/
  queues : List Queue
  /-- Frames that have still to enter, oldest first. -/
  entering : List SFrame
  /-- V of each port, V of each class by 8 × port + class, and the class tags. -/
  portV : Sparse Nat
  /-- V of each class by 8 × port + class (R294). -/
  classV : Sparse Nat
  /-- Start tag of each class by 8 × port + class (R294). -/
  classTag : Sparse Nat
  /-- Pacing time T per port (R297). -/
  pace : Sparse Nat
  /-- Slot clock from which sample instants count (R302), sets taken, and per 8 × port + class the frames served and dropped since the last set. -/
  epoch : Nat
  /-- Sample sets taken (R302). -/
  sets : Nat
  /-- Slot clock of the last sample set (R302). -/
  lastSet : Option Nat
  /-- Frames served since the last set by 8 × port + class (R302). -/
  served : Sparse Nat
  /-- Frames dropped since the last set by 8 × port + class (R302). -/
  drops : Sparse Nat
  /-- A record was lost since the last one written (R303). -/
  lost : Bool
  /-- Slot clock second of the last QUEUE_LIMIT or NO_QUEUE per port. -/
  limitAt : Sparse (Option Nat)
  deriving DecidableEq, Repr

/-- An acceptance in progress (R239 to R248). -/
structure Accept where
  /-- Handle of the frame's buffer (R239). -/
  buffer : Nat
  /-- Port (R239). -/
  port : Nat
  /-- Channel (R239). -/
  channel : Nat
  /-- PHY mode (R239). -/
  mode : Nat
  /-- Class (R239). -/
  cls : Nat
  /-- Coded (R239). -/
  fec : Bool
  /-- FCS of 4 bytes (R239). -/
  fcs32 : Bool
  /-- Form of R235: 0 node uplink, 1 with extended source, 2 relay broadcast, 3 node ack. -/
  form : Nat
  /-- Ack requested (R235). -/
  ar : Bool
  /-- Node, once found (R239). -/
  nix : Nat
  /-- Frame counter (R235). -/
  fc : Nat
  /-- Digest of the frame (R240). -/
  digest : Nat
  /-- Sequence number (R235). -/
  seq : Nat
  /-- Security level (R235). -/
  level : Nat
  /-- Bytes of its header (R235). -/
  hdrLen : Nat
  /-- Bytes of its PSDU (R235). -/
  psduLen : Nat
  /-- Slot clock at its SFD (R196). -/
  sfd : Nat
  /-- Ticks from its SFD to the end of its PPDU (R196). -/
  delta : Nat
  /-- Link quality (R196). -/
  lqi : Nat
  /-- RSSI (R196). -/
  rssi : Nat
  /-- The acceptance has its outcome, its release flag, and the journal position that the flag waits for (R247, R474). -/
  decided : Bool
  /-- Its release flag (R247). -/
  flag : Bool
  /-- Journal position that the flag waits for (R474). -/
  waitPos : Option Nat
  /-- The outcome was OK, for the ledger. -/
  outcomeOk : Bool
  /-- The outcome is DUP_ACKED (R240). -/
  dup : Bool
  /-- The ack as TXL built it, and as it is sealed. -/
  ackFrame : List Byte
  /-- The ack as it is sealed (R243). -/
  ack : Option (List Byte)
  /-- Its ack's start point has passed or its command has ended. -/
  ackOver : Bool
  /-- Its ack is no missed one: refused with DENIED, LATE, or ended with its port (R244, R247). -/
  refused : Bool
  deriving DecidableEq, Repr

/-- Where a downlink came from: the backhaul, a host TX ring, or an engine of the device (SCHED_UPD, LEAVE, RECEIPT, relay copy, association response). -/
inductive DlSource
  | backhaul
  | host
  | schedUpd
  | leave
  | receipt (entry : Nat)
  | relay
  | response
  | leave02
  deriving DecidableEq, Repr

/-- A downlink frame, relay copy or association response (R249 to R254). -/
structure Dl where
  /-- Node (R249). -/
  nix : Nat
  /-- Port (R249). -/
  port : Nat
  /-- Class (R249). -/
  cls : Nat
  /-- Where it came from (R249). -/
  source : DlSource
  /-- DL_ID of the record that brought it. -/
  dlId : Nat
  /-- Its MAC payload from UTYPE on. -/
  payload : List Byte
  /-- It uses RELAY windows in the place of DOWNLINK windows (R259). -/
  relay : Bool
  /-- Frame counter, once taken (R371). -/
  fc : Option Nat
  /-- Its frame as TXL built it, and as it is sealed. -/
  frame : List Byte
  /-- The frame as it is sealed (R249). -/
  psdu : Option (List Byte)
  /-- Retries so far (R251). -/
  retries : Nat
  /-- Attempts so far (R251). -/
  attempts : Nat
  /-- Earliest SEN of the next attempt (R251), and the qualifying slots still to pass. -/
  notBefore : Nat
  /-- Qualifying slots still to pass (R251). -/
  skip : Nat
  /-- SEN of its first slot as a candidate (R283). -/
  eligibleAt : Option Nat
  /-- Attempt in progress: channel, and slot clock at the end of its PPDU once launched. -/
  attempt : Option (Nat × Option Nat)
  /-- Its journal position (R474). -/
  waitPos : Option Nat
  /-- Its frame is in the hands of TXL, KLD or CPH jobs. -/
  building : Bool
  /-- The association has ended (R300). -/
  doomed : Bool
  /-- Its last launched setting was raised by BOOST (R284). -/
  boosted : Bool
  deriving DecidableEq, Repr

/-- A flood on its way to the flood engine (R255 to R257). -/
structure Flood where
  /-- The payload from UTYPE on (R255). -/
  payload : List Byte
  /-- Class (R255). -/
  cls : Nat
  /-- The node that sent it, none for one handed in (R260). -/
  from_ : Option Nat
  /-- It came as a relay broadcast. -/
  relay : Bool
  /-- The record of its acceptance (R256). -/
  acc : Option Rec
  deriving DecidableEq, Repr

/-- An accession cache entry (R258, R261). -/
structure Accession where
  /-- ORIGIN (R258). -/
  origin : Nat
  /-- FSEQ (R258). -/
  fseq : Nat
  /-- `now` at its expiry (R261). -/
  expiry : Nat
  /-- SEN of its insertion (R258). -/
  sen : Nat
  deriving DecidableEq, Repr

/-- A receipt entry (R262 to R264). -/
structure Receipt where
  /-- Node (R262). -/
  nix : Nat
  /-- Frame counter (R262). -/
  fc : Nat
  /-- `now` at the end of its timer (R262). -/
  deadline : Nat
  /-- The timer has expired (R263). -/
  expired : Bool
  /-- A receipt was asked for (R262). -/
  rcpt : Bool
  /-- Confirmed, with its receipt under way. -/
  owed : Bool
  deriving DecidableEq, Repr

/-- The exchange and flood engines beside XCH_* and FLD_* (R235 to R264). -/
structure Exchange where
  /-- Acceptances in progress by number (R239). -/
  accs : Sparse (Option Accept)
  /-- The next acceptance's number. -/
  nextAcc : Nat
  /-- Downlinks by number (R249). -/
  dls : Sparse (Option Dl)
  /-- The next downlink's number. -/
  nextDl : Nat
  /-- Ack reservations: port and E (R248). -/
  reserve : List (Nat × Nat)
  /-- Commands prepared for a port. -/
  ready : List (Nat × TxCmd)
  /-- Floods on their way to the flood engine (R255). -/
  floods : List Flood
  /-- The accession cache of 65,536 entries (R258). -/
  accession : Sparse (Option Accession)
  /-- The 1,024 receipt entries (R262). -/
  receipts : Sparse (Option Receipt)
  /-- RCPT_FULL raised in the slot (R263). -/
  rcptFull : Bool
  /-- Slot clock at the last FLD_EVICT (R258). -/
  evictAt : Option Nat
  /-- COUNTER_END raised: bit 0 inbound, bit 1 outbound, by NIX (R244). -/
  counterEnd : Sparse Nat
  deriving DecidableEq, Repr


/-- A neighbour (R233). -/
structure Neighbour where
  /-- SILENT (R231). -/
  silent : Bool
  /-- Beacons missed in a row (R231). -/
  missed : Nat
  /-- RID (R233). -/
  rid : Nat
  /-- PAN (R233). -/
  pan : Nat
  /-- EUI (R233). -/
  eui : Nat
  /-- SEN of its last beacon (R233). -/
  lastSen : Nat
  /-- LAUNCH_US (R233). -/
  launchUs : Nat
  /-- PERIOD (R233). -/
  period : Nat
  /-- Frame counter (R233). -/
  fc : Nat
  /-- RSSI (R233). -/
  rssi : Int
  /-- OFFSET (R233). -/
  offset : Int
  /-- EXP_SEN, or RELEASE_SEN when silent. -/
  exp : Nat
  /-- TOTAL of its cells (R233). -/
  total : Nat
  /-- Its cells by index (R230). -/
  cells : Sparse (Option Nat)
  deriving DecidableEq, Repr

/-- An association response under way (R223): node, S, RSP_SLOTS, attempts made, the request's port, channel, mode and coding, RESULT, and its frame's number. -/
structure Response where
  /-- Node (R223). -/
  nix : Nat
  /-- S (R223). -/
  sen : Nat
  /-- RSP_SLOTS (R223). -/
  step : Nat
  /-- Attempts made (R223). -/
  tries : Nat
  /-- The request's port (R223). -/
  port : Nat
  /-- The request's channel (R223). -/
  channel : Nat
  /-- The request's PHY mode (R223). -/
  mode : Nat
  /-- The request's coding (R223). -/
  fec : Bool
  /-- The request's FCS length (R223). -/
  fcs32 : Bool
  /-- RESULT (R223). -/
  result : Nat
  /-- Number of its frame. -/
  dl : Nat
  deriving DecidableEq, Repr

/-- A schedule update that has started (R227): node, new block, SUP_S, map, SEN of its INSTANT, and whether the node has acknowledged. -/
structure SchedUpd where
  /-- Node (R227). -/
  nix : Nat
  /-- New schedule block (R227). -/
  block : List Byte
  /-- SUP_S (R227). -/
  supS : Nat
  /-- The map (R227). -/
  map : List Byte
  /-- SEN of its INSTANT (R227). -/
  instantSen : Nat
  /-- The node has acknowledged (R227). -/
  acked : Bool
  deriving DecidableEq, Repr

/-- The slot engine and associations beside SLT_* and ASC_* (R200 to R233). -/
structure Slots where
  /-- The next boundary, once one is placed. -/
  next : Option Nat
  /-- SEN of the slot that begins at `next`. -/
  nextSen : Nat
  /-- The first slot of a start-up or takeover has still to begin (R217). -/
  first : Bool
  /-- The independent checker's boundary, SEN and next boundary (R206). -/
  chkBound : Nat
  /-- The checker's SEN (R206). -/
  chkSen : Nat
  /-- The checker's next boundary (R206). -/
  chkNext : Nat
  /-- SEN of the slot that begins at the checker's next boundary. -/
  chkNextSen : Nat
  /-- Slot clock at the last ALIGN_FAR (R203). -/
  alignAt : Option Nat
  /-- Slot clock at the last DUP_RID (R229). -/
  dupAt : Option Nat
  /-- Beacon slots so far, and the cell from which the next beacon continues, per port. -/
  bcnIdx : Sparse Nat
  /-- The cell from which the next beacon continues, per port (R218). -/
  bcnCell : Sparse Nat
  /-- The cell after the last one that the beacon under way carries, per port. -/
  bcnNext : Sparse Nat
  /-- Past boundaries with the SEN that began there, newest first, at most 256. -/
  past : List (Nat × Nat)
  /-- Ports whose beacon of the slot is a beacon slot now: PSDU under construction by port. -/
  bcnPsdu : Sparse (Option (List Byte))
  /-- The 64 neighbour entries (R233). -/
  nbrs : Sparse (Option Neighbour)
  /-- RIDs for which NBR_FULL has been raised. -/
  fullRids : List Nat
  /-- Association responses under way (R223). -/
  responses : List Response
  /-- Queued schedule updates: NIX and address (R227). -/
  updQueue : List (Nat × Nat)
  /-- Schedule updates that have started (R227). -/
  updates : List SchedUpd
  deriving DecidableEq, Repr

/-- Backhaul and host link beside BHL_* (R435 to R451). -/
structure Backhaul where
  /-- `now` at which a received PAUSE ends, per port. -/
  pauseEnd : Sparse (Option Nat)
  /-- SEQ[47:0] of the next outbound record (R443). -/
  seq : Nat
  /-- Last SEQ accepted: 0 the backhaul, 1 + t host ring t. -/
  lastSeq : Sparse Nat
  /-- Slot clock at the last RX_DROP notice (R444). -/
  dropAt : Option Nat
  /-- Slot clock at the last TAG_FAIL notice (R442). -/
  tagAt : Option Nat
  /-- `now` at the last HELLO. -/
  helloAt : Nat
  /-- Job that fetches from each host TX ring. -/
  fetch : Sparse (Option Nat)
  /-- Accepted inbound records that have still to act (R445): source and record. -/
  inbound : List (Nat × Rec)
  deriving DecidableEq, Repr

/-- A lead lane heartbeat as received (R461), with `now` at its reception. -/
structure LeadHb where
  /-- `now` at its reception (R461). -/
  at_ : Nat
  /-- JVALID (R461). -/
  jvalid : Bool
  /-- Slot clock (R461). -/
  slot : Nat
  /-- SLT_BOUND (R461). -/
  bound : Nat
  /-- SEN (R461). -/
  sen : Nat
  /-- Slot length (R461). -/
  slotCode : Nat
  /-- TIM_SEL (R461). -/
  sel : Nat
  /-- JPOS (R461). -/
  jpos : Nat
  /-- Time of domain 0 (R461). -/
  d0 : Nat
  /-- Epoch of domain 0 (R461). -/
  e0 : Nat
  /-- Time of domain 1 (R461). -/
  d1 : Nat
  /-- Epoch of domain 1 (R461). -/
  e1 : Nat
  /-- INC of domain 0 (R461). -/
  inc0 : Nat
  /-- INC of domain 1 (R461). -/
  inc1 : Nat
  /-- TIM_OFS (R461). -/
  ofs : Int
  deriving DecidableEq, Repr

/-- A takeover in progress (R477): `now` at the declaration, its CAUSE, `now` at which PAIR_ID 1 samples OWN_N, and the state loss found. -/
structure Takeover where
  /-- `now` at the declaration (R477). -/
  declared : Nat
  /-- Its CAUSE is a request (R477). -/
  request : Bool
  /-- `now` at which PAIR_ID 1 samples OWN_N (R477). -/
  sampleAt : Option Nat
  /-- The state loss found (R479). -/
  stateLoss : Bool
  deriving DecidableEq, Repr

/-- The redundant pair beside PAR_* (R453 to R484). -/
structure Pair where
  /-- PAIR_ID as sampled at step 2. -/
  id : Bool
  /-- Heartbeat sequence numbers of the wire and the lane. -/
  wireSeq : Nat
  /-- Heartbeat sequence number of the lane (R461). -/
  laneSeq : Nat
  /-- A valid heartbeat has arrived since the last check, per path. -/
  wireGot : Bool
  /-- A valid heartbeat has arrived on the lane since the last check (R463). -/
  laneGot : Bool
  /-- `now` at the last valid heartbeat with ROLE LEAD. -/
  leadAt : Option Nat
  /-- Consecutive heartbeats with REQ, per path (R464). -/
  wireReq : Nat
  /-- Consecutive heartbeats with REQ on the lane (R464). -/
  laneReq : Nat
  /-- The last lead heartbeat of the lane (R461). -/
  lead : Option LeadHb
  /-- Level of OWN_N as the partner holds it: asserted by the other unit. -/
  otherHolds : Bool
  /-- `now` at the start of the unconfirmed period, and at the first transmission in it (R459). -/
  unconfAt : Option Nat
  /-- `now` at the first transmission in the unconfirmed period (R459). -/
  unconfTx : Option Nat
  /-- Own claim waiting at step 11 (R457): `now` at which to sample. -/
  claimAt : Option Nat
  /-- The takeover in progress (R477). -/
  takeover : Option Takeover
  /-- Sends ROLE SAFE with REQ (R464). -/
  request : Bool
  /-- The lane session: nonces sent and received, frame counters. -/
  linkUp : Bool
  /-- A lane session is open (R466). -/
  session : Bool
  /-- Nonce sent (R466). -/
  nonceTx : Nat
  /-- Nonce received (R466). -/
  nonceRx : Nat
  /-- FSEQ of the next lane frame (R467). -/
  fseqTx : Nat
  /-- Last FSEQ accepted (R467). -/
  fseqRx : Nat
  /-- The lane went DOWN in RESERVE since the last lead heartbeat (R479). -/
  laneLost : Bool
  /-- Snapshot in progress: SEQ, and JPOS at its start; a kept trigger; `now` at the last start (R471). -/
  snap : Option (Nat × Nat)
  /-- A trigger kept while a snapshot ran (R471). -/
  snapKept : Bool
  /-- `now` at the start of the last snapshot (R471). -/
  snapAt : Nat
  /-- Newest snapshot known at the reserve, by slot A and B: SEQ and JPOS_START. -/
  slotA : Option (Nat × Nat)
  /-- Newest snapshot in slot B: SEQ and JPOS_START (R470). -/
  slotB : Option (Nat × Nat)
  /-- Journal records waiting for a JACK: position after the record and `now` at its write (R474). -/
  jackWait : List (Nat × Nat)
  /-- Reserve: position reached in each slot (R470). -/
  posA : Nat
  /-- Reserve: position reached in slot B (R470). -/
  posB : Nat
  /-- The conflict of PAIR_ID has been reported (R454). -/
  conflictSeen : Bool
  /-- The first beacon after a takeover is still to leave: `now` at the declaration, STATE_LOSS (R481). -/
  tkoBeacon : Option (Nat × Bool)
  deriving DecidableEq, Repr


/-- Freeze and the vitrine read-out beside FRZ_* (R507 to R517). -/
structure Frz where
  /-- `now` at which a masked safe-state cause freezes the device. -/
  delayEnd : Option Nat
  /-- CORE was powered at the freeze (R517). -/
  corePowered : Bool
  /-- The fetch of the chunk in FRZ_VSEL is in progress. -/
  fetching : Bool
  deriving DecidableEq, Repr


/-- The device with everything that the chapters give it, and the queue of waiting commands. -/
structure State where
  /-- Registers that do not hold their reset value, by address. -/
  regs : Sparse Word
  /-- Words of the tables behind the windows that do not hold their reset value, by 2^28 × window + offset (R41). -/
  tabs : Sparse Word
  /-- Device DRAM: bytes that are not 0, by address (R337). -/
  dram : List Host.Cell
  clk : Clocks
  pins : Pins
  fuses : Fuses
  boot : Boot
  power : Power
  ctl : Ctl
  cur : CurPort
  saf : Safety
  ports : Sparse Port
  radio : Radio
  /-- Claimed demodulators by 64 × port + demodulator (R188). -/
  demods : Sparse (Option Demod)
  /-- Per port the receive notices already raised in the slot in progress (R192). -/
  rxFlags : Sparse Nat
  time : Time
  frz : Frz
  tamp : Tamp
  mem : Mem
  fab : Fabric
  key : KeyStore
  cph : Cipher
  lcs : Lcs
  cat : Catalogue
  xch : Exchange
  shp : Shaper
  slt : Slots
  bhl : Backhaul
  pair : Pair
  /-- The wide value or entry captured last for the host and for the curator (R17, R233). -/
  cap0 : Capture
  cap1 : Capture
  /-- What the device has put out, newest first (the model's own). -/
  out : List Out
  /-- Free values drawn so far (the model's own). -/
  draws : Nat
  /-- The next notice record carries LOSS (R47). -/
  lossPending : Bool
  /-- DETAIL of the register access in progress, for the Curator port (R142). -/
  detail : Nat
  /-- Commands that wait, first in first out (the model's own). -/
  pending : List Instr
  deriving DecidableEq, Repr

/-- A domain at start-up: 0 s, epoch 0, INC 5 ns (R417). -/
def Domain.reset : Domain := ⟨0, 0, 5 * 2 ^ 32, 0, none, none, none, none, none, true⟩

/-- A radio port at start-up. -/
def Port.reset : Port :=
  { held := none, begun := none, sent := false, waiting := [], locked := none, target := 0, overCnt := 0, duty := [], dutyAt := 0, airRest := 0, dutyNoticed := false, holdEnd := none,
    cal := ⟨0, 0, 0, 0, none⟩, stopping := false, tj := 25, floors := [], req := [] }

/-- Step 1 of start-up with VIN just valid: CORE unpowered, every register at its reset value, nothing captured, queued or in progress (R74, R95). -/
def State.reset : State :=
  { regs := []
    tabs := []
    dram := []
    clk := ⟨0, 0, false, 0, 0, false, false⟩
    pins := ⟨true, true, true, true, true, false, false, false, 0⟩
    fuses := ⟨Config.arbCount, Config.lifecycle, Config.partEv, Config.pairRoot, Config.ownerHash, Config.serial.toNat, Config.identity⟩
    boot := ⟨false, none, none, 0, 0, 0, false, false, []⟩
    power := ⟨0, 0, [], false, [], none, false, false, 0, false⟩
    ctl := ⟨none, 1, 0, 0, []⟩
    cur := ⟨[], [], 0, false, false, false, false⟩
    saf := ⟨[], 0, 0, 1, false, 0, 0, none⟩
    ports := []
    radio := ⟨1800, 0⟩
    demods := []
    rxFlags := []
    time := ⟨Domain.reset, Domain.reset, 0, none, false, none, false⟩
    frz := ⟨none, false, false⟩
    tamp := ⟨none, [], 0, 0, 0, 0⟩
    mem := ⟨[], [], [], none, false, 0, 0, [], [], [], [], none, true, []⟩
    fab := ⟨[], [], [], none, 0, 0, 0⟩
    key := ⟨[], none, 0, none, none⟩
    cph := ⟨none, true, 0, false, false, false, false⟩
    lcs := ⟨none, none, none⟩
    cat := ⟨[], 0, [], none, [], none⟩
    xch := ⟨[], 0, [], 0, [], [], [], [], [], false, none, []⟩
    shp := ⟨[], [], [], [], [], [], 0, 0, none, [], [], false, []⟩
    slt := { next := none, nextSen := 0, first := true, chkBound := 0, chkSen := 0, chkNext := 0, chkNextSen := 0, alignAt := none, dupAt := none, bcnIdx := [], bcnCell := [], bcnNext := [],
             past := [], bcnPsdu := [], nbrs := [], fullRids := [], responses := [], updQueue := [], updates := [] }
    bhl := ⟨[], 0, [], none, none, 0, [], []⟩
    pair := { id := false, wireSeq := 0, laneSeq := 0, wireGot := false, laneGot := false, leadAt := none, wireReq := 0, laneReq := 0, lead := none,
              otherHolds := false, unconfAt := none, unconfTx := none, claimAt := none, takeover := none, request := false, linkUp := false, session := false,
              nonceTx := 0, nonceRx := 0, fseqTx := 0, fseqRx := 0, laneLost := false, snap := none, snapKept := false, snapAt := 0, slotA := none, slotB := none,
              jackWait := [], posA := 0, posB := 0, conflictSeen := false, tkoBeacon := none }
    cap0 := ⟨[]⟩
    cap1 := ⟨[]⟩
    out := []
    draws := 0
    lossPending := false
    detail := 0
    pending := [] }

end Sys2Proof.Machine
end

