-- ==== Sys2Proof/Machine/Notices.lean ====
section
/-! DEFINITION. The notices of the chapters' notice tables: BLOCK, EVENT, MSI-X vector (R50), whether safety-class, and CLASS in the safety log (R499). -/

namespace Sys2Proof.Machine

/-- ARB_FAIL: STATUS TIMEOUT; ARG [14:8] count sought; [6:0] count reached. -/
def N.ARB_FAIL : NoticeKind := ⟨0x02, 0x01, 2, false, 0⟩
/-- VIN_LOW: STATUS OK; ARG VIN in mV. -/
def N.VIN_LOW : NoticeKind := ⟨0x01, 0x01, 3, false, 0⟩
/-- MODE: STATUS OK; ARG New PWR_STATUS.MODE. -/
def N.MODE : NoticeKind := ⟨0x01, 0x02, 3, false, 0⟩
/-- HIB_ENTER: STATUS OK; ARG 0: host; 1: curator. -/
def N.HIB_ENTER : NoticeKind := ⟨0x01, 0x03, 3, false, 11⟩
/-- EPF_DONE: STATUS OK; ARG PWR_EPF_FRAMES. -/
def N.EPF_DONE : NoticeKind := ⟨0x01, 0x04, 3, false, 0⟩
/-- OWNER: STATUS OK; ARG [17:16] new owner as CUR_OWN_STATUS.OWNER; [15:0] new epoch. -/
def N.OWNER : NoticeKind := ⟨0x03, 0x01, 1, false, 0⟩
/-- LEASE_LAPSE: STATUS TIMEOUT; ARG [17:16] owner that lapsed; [15:0] new epoch. -/
def N.LEASE_LAPSE : NoticeKind := ⟨0x03, 0x02, 1, true, 8⟩
/-- FORCED: STATUS OK; ARG [15:0] new epoch. -/
def N.FORCED : NoticeKind := ⟨0x03, 0x03, 1, false, 0⟩
/-- CMD_OVR: STATUS OK; ARG CUR_OVR_CNT. -/
def N.CMD_OVR : NoticeKind := ⟨0x03, 0x04, 1, false, 0⟩
/-- TXN_COMMITTED: STATUS OK; ARG [31:8] bits [23:0] of TXN_APPLIED_SEN; [7:0] tag. -/
def N.TXN_COMMITTED : NoticeKind := ⟨0x02, 0x81, 1, false, 0⟩
/-- TXN_ROLLED_BACK: STATUS LAST_RESULT; ARG [8] POISONED; [7:0] tag. -/
def N.TXN_ROLLED_BACK : NoticeKind := ⟨0x02, 0x82, 1, false, 0⟩
/-- TXN_DENIED: STATUS DENIED; ARG TXN_DENIED. -/
def N.TXN_DENIED : NoticeKind := ⟨0x02, 0x83, 1, false, 0⟩
/-- CAL_DONE: STATUS OK; ARG [23:16] TJ_CAL; [15:0] calibration time in µs. -/
def N.CAL_DONE (port : Nat) : NoticeKind := ⟨0x04 + port / 2, 0x01, 16 + port, false, 0⟩
/-- CAL_FAIL: STATUS TIMEOUT; ARG CAL_STATUS.REASON. -/
def N.CAL_FAIL (port : Nat) : NoticeKind := ⟨0x04 + port / 2, 0x02, 16 + port, false, 0⟩
/-- CAL_FORCED: STATUS OK; ARG Deferral in ms. -/
def N.CAL_FORCED (port : Nat) : NoticeKind := ⟨0x04 + port / 2, 0x03, 16 + port, false, 0⟩
/-- EMIT_FAULT: STATUS SAFE_HOLD; ARG [2:0] RFPn_EMIT_FAULT. -/
def N.EMIT_FAULT (port : Nat) : NoticeKind := ⟨0x04 + port / 2, 0x04, 16 + port, true, 2⟩
/-- DUTY_LIMIT: STATUS DENIED; ARG RFPn_DUTY_USED. -/
def N.DUTY_LIMIT (port : Nat) : NoticeKind := ⟨0x04 + port / 2, 0x05, 16 + port, false, 0⟩
/-- POOL_FULL: STATUS OK; ARG [6:0] channel of the not-taken detection. -/
def N.POOL_FULL (port : Nat) : NoticeKind := ⟨0x04 + port / 2, 0x10, 16 + port, false, 0⟩
/-- RX_NO_BUFFER: STATUS NO_BUFFER; ARG [6:0] channel. -/
def N.RX_NO_BUFFER (port : Nat) : NoticeKind := ⟨0x04 + port / 2, 0x11, 16 + port, false, 0⟩
/-- SLOT_FAULT: STATUS SAFE_HOLD; ARG [31:30] kind under R206; [29:0] for kind 0 the difference in µs, for kind 1 the µs from the checker's boundary to detection, each saturating at 0x3FFF_FFFF; 0 for kind 2. -/
def N.SLOT_FAULT : NoticeKind := ⟨0x0c, 0x01, 9, true, 5⟩
/-- ALIGN_FAR: STATUS OK; ARG SLT_ALIGN in µs, signed, truncated toward zero (R546). -/
def N.ALIGN_FAR : NoticeKind := ⟨0x0c, 0x02, 9, false, 0⟩
/-- REALIGNED: STATUS OK; ARG SEN values skipped. -/
def N.REALIGNED : NoticeKind := ⟨0x0c, 0x03, 9, false, 0⟩
/-- NBR_NEW: STATUS OK; ARG [21:16] entry; [9:0] RID. -/
def N.NBR_NEW : NoticeKind := ⟨0x0c, 0x04, 9, false, 0⟩
/-- NBR_SILENT: STATUS OK; ARG [21:16] entry; [9:0] RID. -/
def N.NBR_SILENT : NoticeKind := ⟨0x0c, 0x05, 9, false, 0⟩
/-- NBR_RELEASED: STATUS OK; ARG [21:16] entry; [9:0] RID. -/
def N.NBR_RELEASED : NoticeKind := ⟨0x0c, 0x06, 9, false, 0⟩
/-- NBR_FULL: STATUS DENIED; ARG [9:0] RID. -/
def N.NBR_FULL : NoticeKind := ⟨0x0c, 0x07, 9, false, 0⟩
/-- RES_CONFLICT: STATUS OK; ARG [20:16] own cell; [9:0] RID. -/
def N.RES_CONFLICT : NoticeKind := ⟨0x0c, 0x08, 9, false, 0⟩
/-- DUP_RID: STATUS DENIED; ARG [3:0] port. -/
def N.DUP_RID : NoticeKind := ⟨0x0c, 0x09, 9, false, 0⟩
/-- BCN_SKIPPED: STATUS LATE, DENIED, SAFE_HOLD or the SEAL status, under R217; ARG [3:0] port. -/
def N.BCN_SKIPPED : NoticeKind := ⟨0x0c, 0x0a, 9, false, 0⟩
/-- ASSOC: STATUS OK; ARG [16:0] NIX. -/
def N.ASSOC : NoticeKind := ⟨0x0c, 0x81, 9, false, 0⟩
/-- ASSOC_FAIL: STATUS TIMEOUT; ARG [16:0] NIX. -/
def N.ASSOC_FAIL : NoticeKind := ⟨0x0c, 0x82, 9, false, 0⟩
/-- NODE_LOST: STATUS TIMEOUT; ARG [16:0] NIX. -/
def N.NODE_LOST : NoticeKind := ⟨0x0c, 0x83, 9, false, 0⟩
/-- SCHED_DONE: STATUS OK, TIMEOUT or DENIED; ARG [16:0] NIX. -/
def N.SCHED_DONE : NoticeKind := ⟨0x0c, 0x84, 9, false, 0⟩
/-- NODE_LEFT: STATUS OK; ARG [23:20] REASON; [16:0] NIX. -/
def N.NODE_LEFT : NoticeKind := ⟨0x0c, 0x85, 9, false, 0⟩
/-- RCPT_LATE: STATUS TIMEOUT; ARG [16:0] NIX. -/
def N.RCPT_LATE : NoticeKind := ⟨0x0d, 0x01, 10, true, 1⟩
/-- RCPT_FULL: STATUS NO_BUFFER; ARG [3:0] port. -/
def N.RCPT_FULL : NoticeKind := ⟨0x0d, 0x02, 10, false, 0⟩
/-- DL_FAIL: STATUS TIMEOUT; ARG [16:0] NIX. -/
def N.DL_FAIL : NoticeKind := ⟨0x0d, 0x03, 10, false, 0⟩
/-- COUNTER_END: STATUS DENIED; ARG [17] 1 for outbound; [16:0] NIX. -/
def N.COUNTER_END : NoticeKind := ⟨0x0d, 0x04, 10, false, 0⟩
/-- FLD_EVICT: STATUS OK; ARG FLD_CNT_3. -/
def N.FLD_EVICT : NoticeKind := ⟨0x0d, 0x81, 10, false, 0⟩
/-- CAT_ECC: STATUS FAULT_ECC; ARG [16:0] NIX. -/
def N.CAT_ECC : NoticeKind := ⟨0x0e, 0x01, 11, true, 7⟩
/-- CMD_DONE: STATUS Command status; ARG [15:13] REASON; [12:0] ENTRIES. -/
def N.CMD_DONE : NoticeKind := ⟨0x0e, 0x02, 11, false, 0⟩
/-- LOAD_DUP: STATUS DENIED; ARG [16:0] first NIX loaded with VALID = 0. -/
def N.LOAD_DUP : NoticeKind := ⟨0x0e, 0x03, 11, false, 0⟩
/-- ROSTER_FULL: STATUS OK; ARG [16:0] NIX left out. -/
def N.ROSTER_FULL : NoticeKind := ⟨0x0e, 0x04, 11, false, 0⟩
/-- QUEUE_LIMIT: STATUS NO_BUFFER; ARG [7:3] port; [2:0] class. -/
def N.QUEUE_LIMIT : NoticeKind := ⟨0x0f, 0x01, 12, false, 0⟩
/-- NO_QUEUE: STATUS NO_BUFFER; ARG [7:3] port; [2:0] class. -/
def N.NO_QUEUE : NoticeKind := ⟨0x0f, 0x02, 12, false, 0⟩
/-- SAMPLE_LOST: STATUS OK; ARG SHP_SAMPLE_LOST. -/
def N.SAMPLE_LOST : NoticeKind := ⟨0x0f, 0x03, 12, false, 0⟩
/-- JOB_DONE: STATUS Job STATUS; ARG [15:12] class; [11:0] job ID. -/
def N.JOB_DONE : NoticeKind := ⟨0x10, 0x01, 8, false, 0⟩
/-- JOB_FAULT: STATUS FAULT_MAP or FAULT_ECC; ARG [15:12] class; [11:0] job ID. -/
def N.JOB_FAULT : NoticeKind := ⟨0x10, 0x02, 8, false, 0⟩
/-- JOB_FULL: STATUS NO_BUFFER; ARG [3:0] class of the waiting creator. -/
def N.JOB_FULL : NoticeKind := ⟨0x10, 0x03, 8, false, 0⟩
/-- JOB_STALL: STATUS TIMEOUT; ARG [15:12] class; [11:0] job ID. -/
def N.JOB_STALL : NoticeKind := ⟨0x10, 0x04, 8, true, 1⟩
/-- DRAM_UE: STATUS FAULT_ECC; ARG Device address of the word. -/
def N.DRAM_UE : NoticeKind := ⟨0x11, 0x01, 7, true, 7⟩
/-- SCRUB_LATE: STATUS TIMEOUT; ARG Pass duration so far in ms. -/
def N.SCRUB_LATE : NoticeKind := ⟨0x11, 0x02, 7, true, 7⟩
/-- CE_RATE: STATUS OK; ARG Correctable errors in the second. -/
def N.CE_RATE : NoticeKind := ⟨0x11, 0x03, 7, false, 0⟩
/-- POOL_LOW: STATUS NO_BUFFER; ARG Free buffers. -/
def N.POOL_LOW : NoticeKind := ⟨0x11, 0x04, 7, false, 0⟩
/-- LANE_MISMATCH: STATUS SAFE_HOLD; ARG [15:12] 0; [11:0] ID of the job whose block, key schedule or tag decision disagreed, or 0xFFF for a known-answer run. A mismatch arises only in the computation of a job or a run, including an injection under R385, so one of the two always applies. -/
def N.LANE_MISMATCH : NoticeKind := ⟨0x12, 0x01, 13, true, 3⟩
/-- KAT_FAIL: STATUS SAFE_HOLD; ARG [3:0] vector that failed. -/
def N.KAT_FAIL : NoticeKind := ⟨0x12, 0x02, 13, true, 3⟩
/-- FC_END: STATUS DENIED; ARG 0 beacon counter; 1 local counter. -/
def N.FC_END : NoticeKind := ⟨0x12, 0x03, 13, false, 0⟩
/-- FC_RESET: STATUS OK; ARG 0. -/
def N.FC_RESET : NoticeKind := ⟨0x12, 0x04, 13, false, 0⟩
/-- KEY_CMD_DONE: STATUS Command status; ARG [31:28] CMD; [7:0] SLOT. -/
def N.KEY_CMD_DONE : NoticeKind := ⟨0x13, 0x01, 2, false, 0⟩
/-- ALARM_ERASE: STATUS ABORTED_ERASE; ARG [3:0] 0x1 lane, 0x2 KAT, 0x3 injection, 0x4 tamper. -/
def N.ALARM_ERASE : NoticeKind := ⟨0x13, 0x02, 2, true, 10⟩
/-- BLOB_FAIL: STATUS As R400; ARG [19:0] handle. -/
def N.BLOB_FAIL : NoticeKind := ⟨0x13, 0x03, 2, false, 0⟩
/-- CACHE_WAIT: STATUS OK; ARG KEY_CNT_5. -/
def N.CACHE_WAIT : NoticeKind := ⟨0x13, 0x04, 2, false, 0⟩
/-- LCS_CHANGE: STATUS OK; ARG [3:0] new code. -/
def N.LCS_CHANGE : NoticeKind := ⟨0x13, 0x81, 2, true, 10⟩
/-- ATTEST_DONE: STATUS OK; ARG 0. -/
def N.ATTEST_DONE : NoticeKind := ⟨0x13, 0x82, 2, false, 0⟩
/-- TAMPER: STATUS ABORTED_ERASE; ARG [3:0] inputs active. -/
def N.TAMPER : NoticeKind := ⟨0x13, 0xc1, 2, true, 10⟩
/-- PATH_STEP: STATUS OK; ARG [31] domain; [30:0] MPD difference in ns, saturating. -/
def N.PATH_STEP : NoticeKind := ⟨0x14, 0x01, 4, false, 0⟩
/-- DOM_DIVERGE: STATUS OK; ARG T0 − T1 in ns, signed, saturating. -/
def N.DOM_DIVERGE : NoticeKind := ⟨0x14, 0x02, 4, false, 0⟩
/-- STEP: STATUS OK; ARG [16] domain; [15:0] new epoch. -/
def N.STEP : NoticeKind := ⟨0x14, 0x03, 4, false, 0⟩
/-- STEP_ARMED: STATUS OK; ARG [16] domain. -/
def N.STEP_ARMED : NoticeKind := ⟨0x14, 0x04, 4, false, 0⟩
/-- HOLDOVER: STATUS TIMEOUT; ARG [0] domain. -/
def N.HOLDOVER : NoticeKind := ⟨0x14, 0x05, 4, false, 0⟩
/-- PPS_LOST: STATUS TIMEOUT; ARG 0. -/
def N.PPS_LOST : NoticeKind := ⟨0x14, 0x06, 4, false, 0⟩
/-- DOM_SWITCH: STATUS OK; ARG [0] new SEL. -/
def N.DOM_SWITCH : NoticeKind := ⟨0x14, 0x07, 4, false, 0⟩
/-- TSU_LOST: STATUS OK; ARG TSU_LOST. -/
def N.TSU_LOST : NoticeKind := ⟨0x14, 0x81, 4, false, 0⟩
/-- LINK: STATUS OK; ARG [8] port; [0] 1 up. -/
def N.LINK : NoticeKind := ⟨0x15, 0x01, 6, false, 0⟩
/-- FAILOVER: STATUS OK; ARG [0] port now used. -/
def N.FAILOVER : NoticeKind := ⟨0x15, 0x02, 6, false, 0⟩
/-- RX_DROP: STATUS Record status; ARG [19:16] REASON; [1:0] source. -/
def N.RX_DROP : NoticeKind := ⟨0x15, 0x03, 6, false, 0⟩
/-- TAG_FAIL: STATUS Key status; ARG [16:0] NIX. -/
def N.TAG_FAIL : NoticeKind := ⟨0x15, 0x04, 6, false, 0⟩
/-- PATH_DOWN: STATUS TIMEOUT; ARG [0] 0 wire; 1 lane. -/
def N.PATH_DOWN : NoticeKind := ⟨0x16, 0x01, 5, false, 0⟩
/-- PATH_UP: STATUS OK; ARG [0] as PATH_DOWN. -/
def N.PATH_UP : NoticeKind := ⟨0x16, 0x02, 5, false, 0⟩
/-- PARTNER_FAILED: STATUS TIMEOUT; ARG [0] 1 for a takeover request. -/
def N.PARTNER_FAILED : NoticeKind := ⟨0x16, 0x03, 5, true, 0⟩
/-- PARTNER_LOST: STATUS TIMEOUT; ARG 0. -/
def N.PARTNER_LOST : NoticeKind := ⟨0x16, 0x04, 5, false, 0⟩
/-- TAKEOVER_DONE: STATUS OK or STATE_LOSS; ARG Gap in ms. -/
def N.TAKEOVER_DONE : NoticeKind := ⟨0x16, 0x05, 5, false, 0⟩
/-- TAKEOVER_BLOCKED: STATUS DENIED; ARG 0. -/
def N.TAKEOVER_BLOCKED : NoticeKind := ⟨0x16, 0x06, 5, false, 0⟩
/-- DUAL_ACTIVE: STATUS SAFE_HOLD; ARG ms since the unconfirmed period began. -/
def N.DUAL_ACTIVE : NoticeKind := ⟨0x16, 0x07, 5, true, 2⟩
/-- YIELD: STATUS DENIED; ARG 0. -/
def N.YIELD : NoticeKind := ⟨0x16, 0x08, 5, false, 0⟩
/-- JOURNAL_INVALID: STATUS OK; ARG [1:0] 0 overrun; 1 lane; 2 uncorrectable error. -/
def N.JOURNAL_INVALID : NoticeKind := ⟨0x16, 0x09, 5, false, 0⟩
/-- SNAP_DONE: STATUS OK; ARG Bits [31:0] of SEQ. -/
def N.SNAP_DONE : NoticeKind := ⟨0x16, 0x0a, 5, false, 0⟩
/-- NO_SNAPSHOT: STATUS SAFE_HOLD; ARG 0. -/
def N.NO_SNAPSHOT : NoticeKind := ⟨0x16, 0x0b, 5, true, 0⟩
/-- PAIR_CONFLICT: STATUS DENIED; ARG [0] PAIR_ID. -/
def N.PAIR_CONFLICT : NoticeKind := ⟨0x16, 0x0c, 5, true, 0⟩
/-- SYNC_READY: STATUS OK; ARG [0] slot. -/
def N.SYNC_READY : NoticeKind := ⟨0x16, 0x0d, 5, false, 0⟩
/-- SAFE_ENTER: STATUS SAFE_HOLD; ARG SAF_STATUS.CAUSE. -/
def N.SAFE_ENTER : NoticeKind := ⟨0x17, 0x01, 64, true, 11⟩
/-- SAFE_EXIT: STATUS OK; ARG 0. -/
def N.SAFE_EXIT : NoticeKind := ⟨0x17, 0x02, 64, true, 11⟩
/-- CLOCK_FAULT: STATUS SAFE_HOLD; ARG [8:0] CLK_MON_FAULT. -/
def N.CLOCK_FAULT : NoticeKind := ⟨0x17, 0x03, 64, true, 6⟩
/-- SUPPLY_FAULT: STATUS SAFE_HOLD; ARG [3:0] supplies out of range, as SAF_MON [3:0]. -/
def N.SUPPLY_FAULT : NoticeKind := ⟨0x17, 0x04, 64, true, 9⟩
/-- TEMP_FAULT: STATUS SAFE_HOLD; ARG Hottest reading, °C. -/
def N.TEMP_FAULT : NoticeKind := ⟨0x17, 0x05, 64, true, 9⟩
/-- CFG_PARITY: STATUS SAFE_HOLD; ARG Address under R488. -/
def N.CFG_PARITY : NoticeKind := ⟨0x17, 0x06, 64, true, 7⟩
/-- START_FAIL: STATUS SAFE_HOLD; ARG CFG_STATUS.FAIL. -/
def N.START_FAIL : NoticeKind := ⟨0x17, 0x07, 64, true, 11⟩
/-- TEST_FAIL: STATUS TIMEOUT; ARG [3:0] target. -/
def N.TEST_FAIL (cls : Nat) : NoticeKind := ⟨0x17, 0x08, 64, true, cls⟩

end Sys2Proof.Machine
end

