-- ==== Sys2Proof/Machine/RegMap.lean ====
section
/-! DEFINITION. The register map of the spec, one row per register heading: the bit places of every field (`F.<register>_<field>`),
the assigned addresses with each register's type and write masks (R10, R11, R13), and the reset values that are not 0. -/

namespace Sys2Proof.Machine


/-! Fields of 01_architecture.md -/

abbrev F.TOP_ID_PART : Field := ⟨0x0, 31, 16⟩
abbrev F.TOP_ID_REV : Field := ⟨0x0, 7, 0⟩
abbrev F.TOP_STATUS_SAFE : Field := ⟨0x4, 11, 11⟩
abbrev F.TOP_STATUS_ROLE : Field := ⟨0x4, 10, 10⟩
abbrev F.TOP_STATUS_RF_UP : Field := ⟨0x4, 9, 9⟩
abbrev F.TOP_STATUS_CORE_UP : Field := ⟨0x4, 8, 8⟩
abbrev F.TOP_STATUS_STATE : Field := ⟨0x4, 3, 0⟩
abbrev F.TOP_ACCESS_ERR_VALID : Field := ⟨0x8, 31, 31⟩
abbrev F.TOP_ACCESS_ERR_MASTER : Field := ⟨0x8, 30, 30⟩
abbrev F.TOP_ACCESS_ERR_KIND : Field := ⟨0x8, 29, 28⟩
abbrev F.TOP_ACCESS_ERR_ADDR : Field := ⟨0x8, 23, 0⟩
abbrev F.TOP_NRING_BASE_BASE : Field := ⟨0x40, 31, 0⟩
abbrev F.TOP_NRING_CTRL_EN : Field := ⟨0x44, 31, 31⟩
abbrev F.TOP_NRING_CTRL_LOG2N : Field := ⟨0x44, 4, 0⟩
abbrev F.TOP_NRING_WR_WR : Field := ⟨0x48, 31, 0⟩
abbrev F.TOP_NRING_RD_RD : Field := ⟨0x4c, 31, 0⟩
abbrev F.TOP_NOTICE_LOST_LOST : Field := ⟨0x50, 31, 0⟩
abbrev F.TOP_NVEC_PEND0_PEND : Field := ⟨0x60, 31, 0⟩
abbrev F.TOP_NVEC_PEND1_PEND : Field := ⟨0x64, 31, 0⟩
abbrev F.TOP_WPAGE_H_PAGE (n : Nat) : Field := ⟨0x100 + 4 * n, 11, 0⟩
abbrev F.TOP_WPAGE_C_PAGE (n : Nat) : Field := ⟨0x120 + 4 * n, 11, 0⟩
abbrev F.CLK_STATUS_ROOT_LOCK : Field := ⟨0x10000, 8, 8⟩
abbrev F.CLK_STATUS_REF_OK : Field := ⟨0x10000, 6, 6⟩
abbrev F.CLK_STATUS_DIV_OK : Field := ⟨0x10000, 5, 0⟩
abbrev F.CLK_MON_FAULT_ROOT_UNLOCK : Field := ⟨0x10004, 8, 8⟩
abbrev F.CLK_MON_FAULT_REF_FAULT : Field := ⟨0x10004, 6, 6⟩
abbrev F.CLK_MON_FAULT_DIV_FAULT : Field := ⟨0x10004, 5, 0⟩

/-! Fields of 02_kiln_image_and_startup.md -/

abbrev F.CFG_STATUS_FAIL : Field := ⟨0x20000, 31, 24⟩
abbrev F.CFG_STATUS_RESULT : Field := ⟨0x20000, 23, 16⟩
abbrev F.CFG_STATUS_STEP : Field := ⟨0x20000, 11, 8⟩
abbrev F.CFG_STATUS_TAMPER_SEEN : Field := ⟨0x20000, 7, 7⟩
abbrev F.CFG_STATUS_CAL_PARTIAL : Field := ⟨0x20000, 6, 6⟩
abbrev F.CFG_STATUS_NVM_SLOW : Field := ⟨0x20000, 5, 5⟩
abbrev F.CFG_STATUS_ARB_PENDING : Field := ⟨0x20000, 4, 4⟩
abbrev F.CFG_STATUS_ARB_FAIL : Field := ⟨0x20000, 3, 3⟩
abbrev F.CFG_STATUS_SEL : Field := ⟨0x20000, 1, 0⟩
abbrev F.CFG_COPY_A_SEC_VER : Field := ⟨0x20004, 31, 16⟩
abbrev F.CFG_COPY_A_VERDICT : Field := ⟨0x20004, 3, 0⟩
abbrev F.CFG_COPY_B_SEC_VER : Field := ⟨0x20008, 31, 16⟩
abbrev F.CFG_COPY_B_VERDICT : Field := ⟨0x20008, 3, 0⟩
abbrev F.CFG_ARB_TARGET : Field := ⟨0x2000c, 14, 8⟩
abbrev F.CFG_ARB_COUNT : Field := ⟨0x2000c, 6, 0⟩
abbrev F.CFG_NVM_STATUS_SIZE_LOG2 : Field := ⟨0x20010, 23, 16⟩
abbrev F.CFG_NVM_STATUS_MODE : Field := ⟨0x20010, 1, 0⟩
abbrev F.CFG_NVM_CTRL_RELEASE : Field := ⟨0x20014, 0, 0⟩
abbrev F.CFG_RESTART_KEY : Field := ⟨0x20018, 15, 0⟩
abbrev F.CFG_T_AUTO_TIME : Field := ⟨0x2001c, 31, 0⟩
abbrev F.CFG_T_BEACON_TIME : Field := ⟨0x20020, 31, 0⟩
abbrev F.CFG_FAIL_POS_OFFSET : Field := ⟨0x20024, 22, 0⟩
abbrev F.CFG_DIGEST_DIGEST (n : Nat) : Field := ⟨0x20040 + 4 * n, 31, 0⟩

/-! Fields of 03_power_and_modes.md -/

abbrev F.PWR_STATUS_VBAT_LOST : Field := ⟨0x10100, 3, 3⟩
abbrev F.PWR_STATUS_VIN_LOW : Field := ⟨0x10100, 2, 2⟩
abbrev F.PWR_STATUS_MODE : Field := ⟨0x10100, 1, 0⟩
abbrev F.PWR_MODE_CTRL_POLICY : Field := ⟨0x10104, 31, 30⟩
abbrev F.PWR_MODE_CTRL_DWELL : Field := ⟨0x10104, 29, 20⟩
abbrev F.PWR_MODE_CTRL_EXIT : Field := ⟨0x10104, 19, 10⟩
abbrev F.PWR_MODE_CTRL_ENTER : Field := ⟨0x10104, 9, 0⟩
abbrev F.PWR_OCC_PEAK : Field := ⟨0x10108, 25, 16⟩
abbrev F.PWR_OCC_LAST : Field := ⟨0x10108, 9, 0⟩
abbrev F.PWR_BANKS_AWAKE : Field := ⟨0x1010c, 31, 0⟩
abbrev F.PWR_HIB_KEY : Field := ⟨0x10110, 15, 0⟩
abbrev F.PWR_NRG_CTRL_CLEAR : Field := ⟨0x10120, 0, 0⟩
abbrev F.PWR_NRG_LO_NRG (n : Nat) : Field := ⟨0x10140 + 8 * n, 31, 0⟩
abbrev F.PWR_NRG_HI_NRG (n : Nat) : Field := ⟨0x10144 + 8 * n, 31, 0⟩
abbrev F.PWR_EPF_CTRL_START : Field := ⟨0x10200, 31, 31⟩
abbrev F.PWR_EPF_CTRL_BUSY : Field := ⟨0x10200, 30, 30⟩
abbrev F.PWR_EPF_CTRL_DONE : Field := ⟨0x10200, 29, 29⟩
abbrev F.PWR_EPF_CTRL_MIXED : Field := ⟨0x10200, 28, 28⟩
abbrev F.PWR_EPF_CTRL_WIN_MS : Field := ⟨0x10200, 13, 0⟩
abbrev F.PWR_EPF_FRAMES_VALUE : Field := ⟨0x10204, 31, 0⟩
abbrev F.PWR_EPF_ENERGY_VALUE : Field := ⟨0x10208, 31, 0⟩
abbrev F.PWR_EPF_NJ_VALUE : Field := ⟨0x1020c, 31, 0⟩
abbrev F.PWR_EPF_POWER_VALUE : Field := ⟨0x10210, 31, 0⟩
abbrev F.CUR_HIB_TIMER_SECONDS : Field := ⟨0x30f00, 31, 0⟩
abbrev F.CUR_WAKE_KEY : Field := ⟨0x30f04, 15, 0⟩

/-! Fields of 04_control_ownership_transactions.md -/

abbrev F.CUR_OWN_STATUS_OWNER : Field := ⟨0x30000, 31, 30⟩
abbrev F.CUR_OWN_STATUS_EPOCH : Field := ⟨0x30000, 15, 0⟩
abbrev F.CUR_OWN_CMD_CMD : Field := ⟨0x30004, 31, 28⟩
abbrev F.CUR_OWN_CMD_LAST_CMD : Field := ⟨0x30004, 27, 24⟩
abbrev F.CUR_OWN_CMD_RESULT : Field := ⟨0x30004, 23, 16⟩
abbrev F.CUR_OWN_CMD_EPOCH : Field := ⟨0x30004, 15, 0⟩
abbrev F.HST_OWN_CMD_CMD : Field := ⟨0x30100, 31, 28⟩
abbrev F.HST_OWN_CMD_LAST_CMD : Field := ⟨0x30100, 27, 24⟩
abbrev F.HST_OWN_CMD_RESULT : Field := ⟨0x30100, 23, 16⟩
abbrev F.HST_OWN_CMD_EPOCH : Field := ⟨0x30100, 15, 0⟩
abbrev F.CUR_LEASE_CFG_PERIOD_MS : Field := ⟨0x30008, 15, 0⟩
abbrev F.HST_LEASE_CFG_PERIOD_MS : Field := ⟨0x30104, 15, 0⟩
abbrev F.CUR_OWN_REMAIN_MS : Field := ⟨0x3000c, 15, 0⟩
abbrev F.CUR_FIFO_CFG_CMD_HIGH : Field := ⟨0x30010, 29, 24⟩
abbrev F.CUR_FIFO_CFG_CMD_LOW : Field := ⟨0x30010, 21, 16⟩
abbrev F.CUR_FIFO_CFG_RSP_HIGH : Field := ⟨0x30010, 14, 8⟩
abbrev F.CUR_FIFO_CFG_RSP_LOW : Field := ⟨0x30010, 6, 0⟩
abbrev F.CUR_FIFO_STATUS_CMD_OVR : Field := ⟨0x30014, 31, 31⟩
abbrev F.CUR_FIFO_STATUS_CMD_FRAG : Field := ⟨0x30014, 30, 30⟩
abbrev F.CUR_FIFO_STATUS_BAD_OP : Field := ⟨0x30014, 29, 29⟩
abbrev F.CUR_FIFO_STATUS_CMD_HI_X : Field := ⟨0x30014, 27, 27⟩
abbrev F.CUR_FIFO_STATUS_CMD_LO_X : Field := ⟨0x30014, 26, 26⟩
abbrev F.CUR_FIFO_STATUS_RSP_HI_X : Field := ⟨0x30014, 25, 25⟩
abbrev F.CUR_FIFO_STATUS_RSP_LO_X : Field := ⟨0x30014, 24, 24⟩
abbrev F.CUR_FIFO_STATUS_BUSY : Field := ⟨0x30014, 23, 23⟩
abbrev F.CUR_FIFO_STATUS_ATTN : Field := ⟨0x30014, 22, 22⟩
abbrev F.CUR_FIFO_STATUS_CMD_LEVEL : Field := ⟨0x30014, 21, 16⟩
abbrev F.CUR_FIFO_STATUS_RSP_USED : Field := ⟨0x30014, 14, 8⟩
abbrev F.CUR_FIFO_STATUS_RSP_READY : Field := ⟨0x30014, 6, 0⟩
abbrev F.CUR_XCNT_COUNT (n : Nat) : Field := ⟨0x30020 + 4 * n, 31, 0⟩
abbrev F.CUR_OVR_CNT_COUNT : Field := ⟨0x30030, 31, 0⟩
abbrev F.CUR_FRAG_CNT_COUNT : Field := ⟨0x30034, 31, 0⟩
abbrev F.CUR_ALERT_STATUS_CMD_OVR : Field := ⟨0x30040, 4, 4⟩
abbrev F.CUR_ALERT_STATUS_TXN_ABORT : Field := ⟨0x30040, 3, 3⟩
abbrev F.CUR_ALERT_STATUS_LAPSE : Field := ⟨0x30040, 2, 2⟩
abbrev F.CUR_ALERT_STATUS_OWNER : Field := ⟨0x30040, 1, 1⟩
abbrev F.CUR_ALERT_STATUS_SAFETY : Field := ⟨0x30040, 0, 0⟩
abbrev F.CUR_ALERT_MASK_CMD_OVR : Field := ⟨0x30044, 4, 4⟩
abbrev F.CUR_ALERT_MASK_TXN_ABORT : Field := ⟨0x30044, 3, 3⟩
abbrev F.CUR_ALERT_MASK_LAPSE : Field := ⟨0x30044, 2, 2⟩
abbrev F.CUR_ALERT_MASK_OWNER : Field := ⟨0x30044, 1, 1⟩
abbrev F.CUR_ALERT_MASK_SAFETY : Field := ⟨0x30044, 0, 0⟩
abbrev F.TXN_BEGIN_STATUS : Field := ⟨0x20800, 23, 16⟩
abbrev F.TXN_BEGIN_REASON : Field := ⟨0x20800, 11, 8⟩
abbrev F.TXN_BEGIN_TAG : Field := ⟨0x20800, 7, 0⟩
abbrev F.TXN_COMMIT_TAG : Field := ⟨0x20804, 7, 0⟩
abbrev F.TXN_ROLLBACK_TAG : Field := ⟨0x20808, 7, 0⟩
abbrev F.TXN_STATUS_STATE : Field := ⟨0x2080c, 31, 30⟩
abbrev F.TXN_STATUS_POISONED : Field := ⟨0x2080c, 29, 29⟩
abbrev F.TXN_STATUS_MASTER : Field := ⟨0x2080c, 28, 28⟩
abbrev F.TXN_STATUS_LAST_RESULT : Field := ⟨0x2080c, 23, 16⟩
abbrev F.TXN_STATUS_LAST_TAG : Field := ⟨0x2080c, 15, 8⟩
abbrev F.TXN_STATUS_TAG : Field := ⟨0x2080c, 7, 0⟩
abbrev F.TXN_TIMEOUT_MS : Field := ⟨0x20810, 15, 0⟩
abbrev F.TXN_APPLIED_SEN_LO_SEN : Field := ⟨0x20814, 31, 0⟩
abbrev F.TXN_APPLIED_SEN_HI_SEN : Field := ⟨0x20818, 7, 0⟩
abbrev F.TXN_DENIED_VALID : Field := ⟨0x2081c, 31, 31⟩
abbrev F.TXN_DENIED_MASTER : Field := ⟨0x2081c, 30, 30⟩
abbrev F.TXN_DENIED_REASON : Field := ⟨0x2081c, 27, 24⟩
abbrev F.TXN_DENIED_ADDR : Field := ⟨0x2081c, 23, 0⟩
abbrev F.TXN_DENY_COUNT_COUNT : Field := ⟨0x20820, 31, 0⟩

/-! Fields of 05_radio_ports.md -/

abbrev F.RFP_CTRL_ENABLE (n : Nat) : Field := ⟨0x40000 + 32768 * n, 31, 31⟩
abbrev F.RFP_CTRL_RET_STATE (n : Nat) : Field := ⟨0x40000 + 32768 * n, 30, 29⟩
abbrev F.RFP_CTRL_TXR_HOLD (n : Nat) : Field := ⟨0x40000 + 32768 * n, 26, 16⟩
abbrev F.RFP_STATUS_STATE (n : Nat) : Field := ⟨0x40004 + 32768 * n, 27, 24⟩
abbrev F.RFP_STATUS_LOCK (n : Nat) : Field := ⟨0x40004 + 32768 * n, 23, 23⟩
abbrev F.RFP_STATUS_CAL_OK (n : Nat) : Field := ⟨0x40004 + 32768 * n, 22, 22⟩
abbrev F.RFP_STATUS_BLANK (n : Nat) : Field := ⟨0x40004 + 32768 * n, 21, 21⟩
abbrev F.RFP_STATUS_TJ (n : Nat) : Field := ⟨0x40004 + 32768 * n, 15, 8⟩
abbrev F.RFP_RXTUNE_CENTRE_KHZ (n : Nat) : Field := ⟨0x40008 + 32768 * n, 21, 0⟩
abbrev F.RFP_TXPWR_MAX (n : Nat) : Field := ⟨0x4000c + 32768 * n, 23, 16⟩
abbrev F.RFP_TXPWR_DEFAULT (n : Nat) : Field := ⟨0x4000c + 32768 * n, 7, 0⟩
abbrev F.RFP_TXLIM_TIMEOUT_MS (n : Nat) : Field := ⟨0x40010 + 32768 * n, 31, 22⟩
abbrev F.RFP_TXLIM_LATE_LIMIT_US (n : Nat) : Field := ⟨0x40010 + 32768 * n, 15, 0⟩
abbrev F.RFP_PERMIT_LO_KHZ (n : Nat) : Field := ⟨0x40014 + 32768 * n, 21, 0⟩
abbrev F.RFP_PERMIT_HI_KHZ (n : Nat) : Field := ⟨0x40018 + 32768 * n, 21, 0⟩
abbrev F.RFP_FE_TIMING_TRSW_LEAD (n : Nat) : Field := ⟨0x4001c + 32768 * n, 29, 24⟩
abbrev F.RFP_FE_TIMING_PA_LEAD (n : Nat) : Field := ⟨0x4001c + 32768 * n, 23, 18⟩
abbrev F.RFP_FE_TIMING_RAMP (n : Nat) : Field := ⟨0x4001c + 32768 * n, 17, 12⟩
abbrev F.RFP_FE_TIMING_PA_LAG (n : Nat) : Field := ⟨0x4001c + 32768 * n, 11, 6⟩
abbrev F.RFP_FE_TIMING_TRSW_LAG (n : Nat) : Field := ⟨0x4001c + 32768 * n, 5, 0⟩
abbrev F.RFP_FE_CFG_PA_EXT (n : Nat) : Field := ⟨0x40020 + 32768 * n, 8, 8⟩
abbrev F.RFP_FE_CFG_PAEN_POL (n : Nat) : Field := ⟨0x40020 + 32768 * n, 1, 1⟩
abbrev F.RFP_FE_CFG_TRSW_POL (n : Nat) : Field := ⟨0x40020 + 32768 * n, 0, 0⟩
abbrev F.RFP_COEX_PAIRS (n : Nat) : Field := ⟨0x40024 + 32768 * n, 3, 0⟩
abbrev F.RFP_DUTY_LIMIT (n : Nat) : Field := ⟨0x40028 + 32768 * n, 25, 16⟩
abbrev F.RFP_DUTY_WINDOW_S (n : Nat) : Field := ⟨0x40028 + 32768 * n, 11, 0⟩
abbrev F.RFP_DUTY_USED_USED_US (n : Nat) : Field := ⟨0x4002c + 32768 * n, 31, 0⟩
abbrev F.RFP_CAL_CFG_CAL_MAX_DEFER_MS (n : Nat) : Field := ⟨0x40030 + 32768 * n, 31, 18⟩
abbrev F.RFP_CAL_CFG_PERIOD_H (n : Nat) : Field := ⟨0x40030 + 32768 * n, 15, 8⟩
abbrev F.RFP_CAL_CFG_DELTA_C (n : Nat) : Field := ⟨0x40030 + 32768 * n, 6, 0⟩
abbrev F.RFP_CAL_CTRL_REQ (n : Nat) : Field := ⟨0x40034 + 32768 * n, 0, 0⟩
abbrev F.RFP_CAL_STATUS_PENDING (n : Nat) : Field := ⟨0x40038 + 32768 * n, 31, 31⟩
abbrev F.RFP_CAL_STATUS_RUNNING (n : Nat) : Field := ⟨0x40038 + 32768 * n, 30, 30⟩
abbrev F.RFP_CAL_STATUS_LAST (n : Nat) : Field := ⟨0x40038 + 32768 * n, 29, 28⟩
abbrev F.RFP_CAL_STATUS_REASON (n : Nat) : Field := ⟨0x40038 + 32768 * n, 27, 24⟩
abbrev F.RFP_CAL_STATUS_TJ_CAL (n : Nat) : Field := ⟨0x40038 + 32768 * n, 23, 16⟩
abbrev F.RFP_CAL_STATUS_DEFER_MS (n : Nat) : Field := ⟨0x40038 + 32768 * n, 15, 0⟩
abbrev F.RFP_COMP_STATUS_VIN (n : Nat) : Field := ⟨0x4003c + 32768 * n, 23, 16⟩
abbrev F.RFP_COMP_STATUS_TEMP_CORR (n : Nat) : Field := ⟨0x4003c + 32768 * n, 15, 8⟩
abbrev F.RFP_COMP_STATUS_SUP_CORR (n : Nat) : Field := ⟨0x4003c + 32768 * n, 7, 0⟩
abbrev F.RFP_EMIT_FAULT_DURATION (n : Nat) : Field := ⟨0x40040 + 32768 * n, 2, 2⟩
abbrev F.RFP_EMIT_FAULT_FREQ (n : Nat) : Field := ⟨0x40040 + 32768 * n, 1, 1⟩
abbrev F.RFP_EMIT_FAULT_POWER (n : Nat) : Field := ⟨0x40040 + 32768 * n, 0, 0⟩
abbrev F.RFP_TX_LAST_STATUS (n : Nat) : Field := ⟨0x40044 + 32768 * n, 31, 24⟩
abbrev F.RFP_TX_LAST_REASON (n : Nat) : Field := ⟨0x40044 + 32768 * n, 23, 20⟩
abbrev F.RFP_TX_LAST_APPLIED (n : Nat) : Field := ⟨0x40044 + 32768 * n, 15, 8⟩
abbrev F.RFP_CNT_COUNT (n k : Nat) : Field := ⟨0x40080 + 32768 * n + 4 * k, 31, 0⟩
abbrev F.COEX_PAIR_EN (n : Nat) : Field := ⟨0x400e0 + 4 * n, 31, 31⟩
abbrev F.COEX_PAIR_REQ_POL (n : Nat) : Field := ⟨0x400e0 + 4 * n, 30, 30⟩
abbrev F.COEX_PAIR_GNT_POL (n : Nat) : Field := ⟨0x400e0 + 4 * n, 29, 29⟩
abbrev F.COEX_PAIR_ACK_OVERRIDE (n : Nat) : Field := ⟨0x400e0 + 4 * n, 28, 28⟩
abbrev F.COEX_PAIR_LEAD_US (n : Nat) : Field := ⟨0x400e0 + 4 * n, 25, 16⟩

/-! Fields of 06_wideband_reception.md -/

abbrev F.RFP_CHAN_CFG_SPAN (n : Nat) : Field := ⟨0x40100 + 32768 * n, 29, 28⟩
abbrev F.RFP_CHAN_CFG_SPACING (n : Nat) : Field := ⟨0x40100 + 32768 * n, 26, 24⟩
abbrev F.RFP_CHAN_CFG_CH0_KHZ (n : Nat) : Field := ⟨0x40100 + 32768 * n, 21, 0⟩
abbrev F.RFP_PHY_CFG_CH_COUNT (n : Nat) : Field := ⟨0x40104 + 32768 * n, 23, 16⟩
abbrev F.RFP_PHY_CFG_MOD_IDX (n : Nat) : Field := ⟨0x40104 + 32768 * n, 8, 8⟩
abbrev F.RFP_PHY_CFG_FEC_ACCEPT (n : Nat) : Field := ⟨0x40104 + 32768 * n, 1, 1⟩
abbrev F.RFP_PHY_CFG_UNCODED_ACCEPT (n : Nat) : Field := ⟨0x40104 + 32768 * n, 0, 0⟩
abbrev F.RFP_DET_CFG_MARGIN_Q (n : Nat) : Field := ⟨0x40108 + 32768 * n, 23, 16⟩
abbrev F.RFP_DET_CFG_CAPTURE_DB (n : Nat) : Field := ⟨0x40108 + 32768 * n, 15, 10⟩
abbrev F.RFP_DET_CFG_SFD_WAIT_SYM (n : Nat) : Field := ⟨0x40108 + 32768 * n, 9, 0⟩
abbrev F.RFP_RSSI_CFG_OFFSET (n : Nat) : Field := ⟨0x4010c + 32768 * n, 15, 0⟩
abbrev F.RFP_POOL_STATUS_PEAK (n : Nat) : Field := ⟨0x40110 + 32768 * n, 22, 16⟩
abbrev F.RFP_POOL_STATUS_BUSY (n : Nat) : Field := ⟨0x40110 + 32768 * n, 6, 0⟩
abbrev F.RFP_POOL_BUSY0_BUSY (n : Nat) : Field := ⟨0x40114 + 32768 * n, 31, 0⟩
abbrev F.RFP_POOL_BUSY1_BUSY (n : Nat) : Field := ⟨0x40118 + 32768 * n, 31, 0⟩
abbrev F.RFP_RX_LASTFAIL_OUTCOME (n : Nat) : Field := ⟨0x4011c + 32768 * n, 31, 28⟩
abbrev F.RFP_RX_LASTFAIL_CHANNEL (n : Nat) : Field := ⟨0x4011c + 32768 * n, 26, 20⟩
abbrev F.RFP_RX_LASTFAIL_MODE (n : Nat) : Field := ⟨0x4011c + 32768 * n, 19, 16⟩
abbrev F.RFP_RX_LASTFAIL_RSSI (n : Nat) : Field := ⟨0x4011c + 32768 * n, 15, 0⟩
abbrev F.RFP_RXCNT_COUNT (n k : Nat) : Field := ⟨0x40180 + 32768 * n + 4 * k, 31, 0⟩

/-! Fields of 07_slots_and_association.md -/

abbrev F.SLT_CONFIG_TRIM_MAX : Field := ⟨0xc0000, 23, 16⟩
abbrev F.SLT_CONFIG_SLOT_CODE : Field := ⟨0xc0000, 6, 0⟩
abbrev F.SLT_EPOCH_LO_SECONDS : Field := ⟨0xc0004, 31, 0⟩
abbrev F.SLT_EPOCH_HI_SECONDS : Field := ⟨0xc0008, 31, 0⟩
abbrev F.SLT_SEN_LO_SEN : Field := ⟨0xc0010, 31, 0⟩
abbrev F.SLT_SEN_HI_SEN : Field := ⟨0xc0014, 7, 0⟩
abbrev F.SLT_BOUND_LO_TICKS : Field := ⟨0xc0018, 31, 0⟩
abbrev F.SLT_BOUND_HI_TICKS : Field := ⟨0xc001c, 31, 0⟩
abbrev F.SLT_ALIGN_VALUE : Field := ⟨0xc0020, 31, 0⟩
abbrev F.SLT_SEN_DIFF_VALUE : Field := ⟨0xc0024, 31, 0⟩
abbrev F.SLT_CMD_REALIGN : Field := ⟨0xc0028, 0, 0⟩
abbrev F.SLT_BCN_CFG_KEY_SLOT : Field := ⟨0xc0040, 31, 24⟩
abbrev F.SLT_BCN_CFG_SEC_LEVEL : Field := ⟨0xc0040, 23, 21⟩
abbrev F.SLT_BCN_CFG_JOIN_OPEN : Field := ⟨0xc0040, 20, 20⟩
abbrev F.SLT_BCN_CFG_RSP_SLOTS : Field := ⟨0xc0040, 19, 16⟩
abbrev F.SLT_BCN_CFG_BCN_PERIOD : Field := ⟨0xc0040, 12, 0⟩
abbrev F.SLT_BCN_TIME_LAUNCH_US : Field := ⟨0xc0044, 31, 16⟩
abbrev F.SLT_BCN_TIME_PHASE : Field := ⟨0xc0044, 12, 0⟩
abbrev F.SLT_RES_CFG_RES_FRAME : Field := ⟨0xc0048, 12, 0⟩
abbrev F.SLT_ADDR_RID : Field := ⟨0xc004c, 25, 16⟩
abbrev F.SLT_ADDR_PAN_ID : Field := ⟨0xc004c, 15, 0⟩
abbrev F.SLT_EUI_LO_EUI : Field := ⟨0xc0050, 31, 0⟩
abbrev F.SLT_EUI_HI_EUI : Field := ⟨0xc0054, 31, 0⟩
abbrev F.SLT_BCN_PORT_EN (n : Nat) : Field := ⟨0xc0080 + 4 * n, 31, 31⟩
abbrev F.SLT_BCN_PORT_COUNT (n : Nat) : Field := ⟨0xc0080 + 4 * n, 29, 28⟩
abbrev F.SLT_BCN_PORT_CH3 (n : Nat) : Field := ⟨0xc0080 + 4 * n, 27, 21⟩
abbrev F.SLT_BCN_PORT_CH2 (n : Nat) : Field := ⟨0xc0080 + 4 * n, 20, 14⟩
abbrev F.SLT_BCN_PORT_CH1 (n : Nat) : Field := ⟨0xc0080 + 4 * n, 13, 7⟩
abbrev F.SLT_BCN_PORT_CH0 (n : Nat) : Field := ⟨0xc0080 + 4 * n, 6, 0⟩
abbrev F.SLT_NBR_CLEAR_GO : Field := ⟨0xc00c0, 31, 31⟩
abbrev F.SLT_NBR_CLEAR_ENTRY : Field := ⟨0xc00c0, 5, 0⟩
abbrev F.SLT_NBR_STATUS_SILENT : Field := ⟨0xc00c4, 14, 8⟩
abbrev F.SLT_NBR_STATUS_ACTIVE : Field := ⟨0xc00c4, 6, 0⟩
abbrev F.SLT_RES_CONFLICT_CELL : Field := ⟨0xc00c8, 31, 0⟩
abbrev F.SLT_CNT_COUNT (n : Nat) : Field := ⟨0xc0100 + 4 * n, 31, 0⟩
abbrev F.ASC_CFG_SUP_S : Field := ⟨0xc8000, 31, 16⟩
abbrev F.ASC_CFG_INSTANT_LEAD : Field := ⟨0xc8000, 15, 8⟩
abbrev F.ASC_CFG_NODE_NOTICES : Field := ⟨0xc8000, 0, 0⟩
abbrev F.ASC_UPD_ADDR_ADDR : Field := ⟨0xc8004, 31, 0⟩
abbrev F.ASC_UPD_CTRL_GO : Field := ⟨0xc8008, 31, 31⟩
abbrev F.ASC_UPD_CTRL_NIX : Field := ⟨0xc8008, 16, 0⟩
abbrev F.ASC_UPD_STATUS_QUEUED : Field := ⟨0xc800c, 8, 0⟩
abbrev F.ASC_LEAVE_GO : Field := ⟨0xc8010, 31, 31⟩
abbrev F.ASC_LEAVE_NIX : Field := ⟨0xc8010, 16, 0⟩
abbrev F.ASC_COUNT_ACTIVE : Field := ⟨0xc8014, 17, 0⟩
abbrev F.ASC_CNT_COUNT (n : Nat) : Field := ⟨0xc8100 + 4 * n, 31, 0⟩

/-! Fields of 08_frame_exchange.md -/

abbrev F.XCH_CFG_DL_NOTICES : Field := ⟨0xd0000, 31, 31⟩
abbrev F.XCH_CFG_UP_DEST : Field := ⟨0xd0000, 30, 30⟩
abbrev F.XCH_CFG_PREAMBLE_OCT : Field := ⟨0xd0000, 23, 16⟩
abbrev F.XCH_CFG_ACK_WAIT_US : Field := ⟨0xd0000, 15, 0⟩
abbrev F.XCH_DL_CFG_MAX_RETRY : Field := ⟨0xd0004, 26, 24⟩
abbrev F.XCH_DL_CFG_BE_MAX : Field := ⟨0xd0004, 23, 20⟩
abbrev F.XCH_DL_CFG_BE_MIN : Field := ⟨0xd0004, 19, 16⟩
abbrev F.XCH_DL_CFG_LAUNCH_US : Field := ⟨0xd0004, 15, 0⟩
abbrev F.XCH_RCPT_CFG_TIMER_MS : Field := ⟨0xd0008, 7, 0⟩
abbrev F.XCH_RCPT_STATUS_OUTSTANDING : Field := ⟨0xd000c, 10, 0⟩
abbrev F.XCH_RX_LAST_STATUS : Field := ⟨0xd0010, 31, 24⟩
abbrev F.XCH_RX_LAST_DROP : Field := ⟨0xd0010, 23, 20⟩
abbrev F.XCH_RX_LAST_NIX : Field := ⟨0xd0010, 16, 0⟩
abbrev F.XCH_CNT_COUNT (n : Nat) : Field := ⟨0xd0100 + 4 * n, 31, 0⟩
abbrev F.FLD_CFG_KEY_SLOT : Field := ⟨0xd8000, 31, 24⟩
abbrev F.FLD_CFG_SEC_LEVEL : Field := ⟨0xd8000, 23, 21⟩
abbrev F.FLD_CFG_DELIVER : Field := ⟨0xd8000, 20, 20⟩
abbrev F.FLD_CFG_FANOUT : Field := ⟨0xd8000, 19, 16⟩
abbrev F.FLD_CFG_LIFETIME_S : Field := ⟨0xd8000, 15, 8⟩
abbrev F.FLD_STATUS_CACHE_USED : Field := ⟨0xd8004, 16, 0⟩
abbrev F.FLD_CNT_COUNT (n : Nat) : Field := ⟨0xd8100 + 4 * n, 31, 0⟩

/-! Fields of 09_catalogue_and_energy.md -/

abbrev F.CAT_BASE_BASE : Field := ⟨0xe0000, 31, 24⟩
abbrev F.CAT_GROUPS_GROUP : Field := ⟨0xe0004, 31, 0⟩
abbrev F.CAT_STATUS_LOADS : Field := ⟨0xe0008, 31, 20⟩
abbrev F.CAT_STATUS_VALID : Field := ⟨0xe0008, 17, 0⟩
abbrev F.CAT_RSYNC_COUNT_COUNT : Field := ⟨0xe000c, 17, 0⟩
abbrev F.CAT_CMD_CMD : Field := ⟨0xe0010, 31, 28⟩
abbrev F.CAT_CMD_MASK : Field := ⟨0xe0010, 27, 23⟩
abbrev F.CAT_CMD_NIX : Field := ⟨0xe0010, 16, 0⟩
abbrev F.CAT_CMD_ADDR_ADDR : Field := ⟨0xe0014, 31, 0⟩
abbrev F.CAT_CMD_COUNT_COUNT : Field := ⟨0xe0018, 12, 0⟩
abbrev F.CAT_CMD_STATUS_BUSY : Field := ⟨0xe001c, 31, 31⟩
abbrev F.CAT_CMD_STATUS_DONE : Field := ⟨0xe001c, 30, 30⟩
abbrev F.CAT_CMD_STATUS_STATUS : Field := ⟨0xe001c, 23, 16⟩
abbrev F.CAT_CMD_STATUS_REASON : Field := ⟨0xe001c, 15, 13⟩
abbrev F.CAT_CMD_STATUS_ENTRIES : Field := ⟨0xe001c, 12, 0⟩
abbrev F.CAT_CNT_COUNT (n : Nat) : Field := ⟨0xe0100 + 4 * n, 31, 0⟩
abbrev F.NRG_STATUS_ROSTER : Field := ⟨0xe8000, 28, 16⟩
abbrev F.NRG_STATUS_PEAK_STRAIN : Field := ⟨0xe8000, 15, 0⟩
abbrev F.NRG_CNT_COUNT (n : Nat) : Field := ⟨0xe8100 + 4 * n, 31, 0⟩

/-! Fields of 10_traffic_shaper.md -/

abbrev F.SHP_PORT_SUB_MODE (n : Nat) : Field := ⟨0xf0000 + 4 * n, 31, 31⟩
abbrev F.SHP_PORT_RATE_MBPS (n : Nat) : Field := ⟨0xf0000 + 4 * n, 30, 16⟩
abbrev F.SHP_PORT_SAMPLE (n : Nat) : Field := ⟨0xf0000 + 4 * n, 15, 8⟩
abbrev F.SHP_PORT_OVH (n : Nat) : Field := ⟨0xf0000 + 4 * n, 7, 0⟩
abbrev F.SHP_STATUS_QUEUES : Field := ⟨0xf0080, 18, 0⟩
abbrev F.SHP_SRING_BASE_BASE : Field := ⟨0xf0100, 31, 0⟩
abbrev F.SHP_SRING_CTRL_EN : Field := ⟨0xf0104, 31, 31⟩
abbrev F.SHP_SRING_CTRL_PERIOD_MS : Field := ⟨0xf0104, 25, 16⟩
abbrev F.SHP_SRING_CTRL_LOG2N : Field := ⟨0xf0104, 4, 0⟩
abbrev F.SHP_SRING_WR_COUNT : Field := ⟨0xf0108, 31, 0⟩
abbrev F.SHP_SRING_RD_COUNT : Field := ⟨0xf010c, 31, 0⟩
abbrev F.SHP_SAMPLE_LOST_LOST : Field := ⟨0xf0110, 31, 0⟩
abbrev F.SHP_WATCH_EN (n : Nat) : Field := ⟨0xf0140 + 4 * n, 31, 31⟩
abbrev F.SHP_WATCH_PORT (n : Nat) : Field := ⟨0xf0140 + 4 * n, 30, 26⟩
abbrev F.SHP_WATCH_CLASS (n : Nat) : Field := ⟨0xf0140 + 4 * n, 25, 23⟩
abbrev F.SHP_WATCH_SUB (n : Nat) : Field := ⟨0xf0140 + 4 * n, 17, 0⟩
abbrev F.SHP_CNT_COUNT (n : Nat) : Field := ⟨0xf0200 + 4 * n, 31, 0⟩

/-! Fields of 11_job_fabric_and_trace.md -/

abbrev F.JOB_STATUS_INFLIGHT : Field := ⟨0x100000, 28, 16⟩
abbrev F.JOB_STATUS_FAULTED : Field := ⟨0x100000, 12, 0⟩
abbrev F.JOB_SUB_CFG_MIN_PRIO : Field := ⟨0x100004, 21, 16⟩
abbrev F.JOB_SUB_CFG_MAX_SUB : Field := ⟨0x100004, 10, 0⟩
abbrev F.JOB_PRI_SVC0_P3 : Field := ⟨0x100008, 29, 24⟩
abbrev F.JOB_PRI_SVC0_P2 : Field := ⟨0x100008, 21, 16⟩
abbrev F.JOB_PRI_SVC0_P1 : Field := ⟨0x100008, 13, 8⟩
abbrev F.JOB_PRI_SVC0_P0 : Field := ⟨0x100008, 5, 0⟩
abbrev F.JOB_PRI_SVC1_P3 : Field := ⟨0x10000c, 29, 24⟩
abbrev F.JOB_PRI_SVC1_P2 : Field := ⟨0x10000c, 21, 16⟩
abbrev F.JOB_PRI_SVC1_P1 : Field := ⟨0x10000c, 13, 8⟩
abbrev F.JOB_PRI_SVC1_P0 : Field := ⟨0x10000c, 5, 0⟩
abbrev F.JOB_PRI_ENG_P3 (n : Nat) : Field := ⟨0x100010 + 4 * n, 29, 24⟩
abbrev F.JOB_PRI_ENG_P2 (n : Nat) : Field := ⟨0x100010 + 4 * n, 21, 16⟩
abbrev F.JOB_PRI_ENG_P1 (n : Nat) : Field := ⟨0x100010 + 4 * n, 13, 8⟩
abbrev F.JOB_PRI_ENG_P0 (n : Nat) : Field := ⟨0x100010 + 4 * n, 5, 0⟩
abbrev F.JOB_SUBMIT_H_ADDR : Field := ⟨0x100040, 31, 6⟩
abbrev F.JOB_SUBMIT_H_GO : Field := ⟨0x100040, 0, 0⟩
abbrev F.JOB_SUBMIT_C_ADDR : Field := ⟨0x100044, 31, 6⟩
abbrev F.JOB_SUBMIT_C_GO : Field := ⟨0x100044, 0, 0⟩
abbrev F.JOB_SUB_STATUS_H_BUSY : Field := ⟨0x100048, 31, 31⟩
abbrev F.JOB_SUB_STATUS_H_DONE : Field := ⟨0x100048, 30, 30⟩
abbrev F.JOB_SUB_STATUS_H_STATUS : Field := ⟨0x100048, 23, 16⟩
abbrev F.JOB_SUB_STATUS_H_REASON : Field := ⟨0x100048, 15, 12⟩
abbrev F.JOB_SUB_STATUS_H_JOB_ID : Field := ⟨0x100048, 11, 0⟩
abbrev F.JOB_SUB_STATUS_C_BUSY : Field := ⟨0x10004c, 31, 31⟩
abbrev F.JOB_SUB_STATUS_C_DONE : Field := ⟨0x10004c, 30, 30⟩
abbrev F.JOB_SUB_STATUS_C_STATUS : Field := ⟨0x10004c, 23, 16⟩
abbrev F.JOB_SUB_STATUS_C_REASON : Field := ⟨0x10004c, 15, 12⟩
abbrev F.JOB_SUB_STATUS_C_JOB_ID : Field := ⟨0x10004c, 11, 0⟩
abbrev F.JOB_CTRL_H_CMD : Field := ⟨0x100050, 31, 28⟩
abbrev F.JOB_CTRL_H_JOB_ID : Field := ⟨0x100050, 11, 0⟩
abbrev F.JOB_CTRL_C_CMD : Field := ⟨0x100054, 31, 28⟩
abbrev F.JOB_CTRL_C_JOB_ID : Field := ⟨0x100054, 11, 0⟩
abbrev F.JOB_CTRL_ADDR_H_ADDR : Field := ⟨0x100058, 31, 6⟩
abbrev F.JOB_CTRL_ADDR_C_ADDR : Field := ⟨0x10005c, 31, 6⟩
abbrev F.JOB_CTRL_RES_H_LAST_CMD : Field := ⟨0x100060, 31, 28⟩
abbrev F.JOB_CTRL_RES_H_STATE : Field := ⟨0x100060, 27, 24⟩
abbrev F.JOB_CTRL_RES_H_STATUS : Field := ⟨0x100060, 23, 16⟩
abbrev F.JOB_CTRL_RES_H_CLASS : Field := ⟨0x100060, 15, 12⟩
abbrev F.JOB_CTRL_RES_H_JOB_ID : Field := ⟨0x100060, 11, 0⟩
abbrev F.JOB_CTRL_RES_C_LAST_CMD : Field := ⟨0x100064, 31, 28⟩
abbrev F.JOB_CTRL_RES_C_STATE : Field := ⟨0x100064, 27, 24⟩
abbrev F.JOB_CTRL_RES_C_STATUS : Field := ⟨0x100064, 23, 16⟩
abbrev F.JOB_CTRL_RES_C_CLASS : Field := ⟨0x100064, 15, 12⟩
abbrev F.JOB_CTRL_RES_C_JOB_ID : Field := ⟨0x100064, 11, 0⟩
abbrev F.JOB_READY_EMPTY (n : Nat) : Field := ⟨0x100200 + 4 * n, 31, 31⟩
abbrev F.JOB_READY_DEPTH (n : Nat) : Field := ⟨0x100200 + 4 * n, 28, 16⟩
abbrev F.JOB_READY_TOP (n : Nat) : Field := ⟨0x100200 + 4 * n, 5, 0⟩
abbrev F.JOB_CNT_COUNT (n : Nat) : Field := ⟨0x100100 + 4 * n, 31, 0⟩
abbrev F.TRC_RING_BASE_BASE : Field := ⟨0x108000, 31, 0⟩
abbrev F.TRC_RING_CTRL_EN : Field := ⟨0x108004, 31, 31⟩
abbrev F.TRC_RING_CTRL_LOG2N : Field := ⟨0x108004, 20, 16⟩
abbrev F.TRC_RING_CTRL_CLASS_MASK : Field := ⟨0x108004, 15, 0⟩
abbrev F.TRC_RING_WR_COUNT : Field := ⟨0x108008, 31, 0⟩
abbrev F.TRC_RING_RD_COUNT : Field := ⟨0x10800c, 31, 0⟩
abbrev F.TRC_LOST_LOST : Field := ⟨0x108010, 31, 0⟩
abbrev F.TRC_PORT_LOST_LOST : Field := ⟨0x108018, 31, 0⟩
abbrev F.TRC_PORT_CTRL_EN : Field := ⟨0x108014, 31, 31⟩
abbrev F.TRC_PORT_CTRL_DIV : Field := ⟨0x108014, 25, 24⟩
abbrev F.TRC_PORT_CTRL_CLASS_MASK : Field := ⟨0x108014, 15, 0⟩
abbrev F.TRC_MARK_VALUE : Field := ⟨0x10801c, 15, 0⟩
abbrev F.TRC_MARK_SLOT_LO_TICKS : Field := ⟨0x108020, 31, 0⟩
abbrev F.TRC_MARK_SLOT_HI_TICKS : Field := ⟨0x108024, 31, 0⟩

/-! Fields of 12_memory_and_dma.md -/

abbrev F.BMP_POOL_BASE_BASE : Field := ⟨0x110000, 31, 21⟩
abbrev F.BMP_POOL_CFG_COUNT64 : Field := ⟨0x110004, 31, 21⟩
abbrev F.BMP_POOL_CFG_RESERVE : Field := ⟨0x110004, 15, 0⟩
abbrev F.BMP_POOL_MARK_LOW_MARK : Field := ⟨0x110008, 15, 0⟩
abbrev F.BMP_POOL_STATUS_FREE : Field := ⟨0x11000c, 16, 0⟩
abbrev F.BMP_POOL_MIN_FREE : Field := ⟨0x110010, 16, 0⟩
abbrev F.BMP_HWIN_CTRL_EN (n : Nat) : Field := ⟨0x110040 + 4 * n, 31, 31⟩
abbrev F.BMP_HWIN_CTRL_MAP_BASE (n : Nat) : Field := ⟨0x110040 + 4 * n, 12, 0⟩
abbrev F.BMP_HWIN_FENCE_CTX : Field := ⟨0x110080, 15, 0⟩
abbrev F.BMP_HWIN_FENCE_STATUS_CTX : Field := ⟨0x110084, 15, 0⟩
abbrev F.BMP_CNT_COUNT (n : Nat) : Field := ⟨0x110100 + 4 * n, 31, 0⟩
abbrev F.DRM_STATUS_TRAINED : Field := ⟨0x118000, 31, 31⟩
abbrev F.DRM_STATUS_INIT_DONE : Field := ⟨0x118000, 30, 30⟩
abbrev F.DRM_STATUS_RANKS : Field := ⟨0x118000, 27, 26⟩
abbrev F.DRM_STATUS_SIZE : Field := ⟨0x118000, 25, 24⟩
abbrev F.DRM_STATUS_USABLE_MIB : Field := ⟨0x118000, 15, 0⟩
abbrev F.DRM_ECC_CFG_CE_LIMIT : Field := ⟨0x118004, 15, 0⟩
abbrev F.DRM_CE_CNT_COUNT : Field := ⟨0x118008, 31, 0⟩
abbrev F.DRM_UE_CNT_COUNT : Field := ⟨0x11800c, 31, 0⟩
abbrev F.DRM_CE_ADDR_ADDR : Field := ⟨0x118010, 31, 3⟩
abbrev F.DRM_CE_ADDR_SCRUB : Field := ⟨0x118010, 1, 1⟩
abbrev F.DRM_CE_ADDR_VALID : Field := ⟨0x118010, 0, 0⟩
abbrev F.DRM_UE_ADDR_ADDR : Field := ⟨0x118014, 31, 3⟩
abbrev F.DRM_UE_ADDR_SCRUB : Field := ⟨0x118014, 1, 1⟩
abbrev F.DRM_UE_ADDR_VALID : Field := ⟨0x118014, 0, 0⟩
abbrev F.DRM_SCRUB_POS_ADDR : Field := ⟨0x118018, 31, 6⟩
abbrev F.DRM_SCRUB_PASSES_VALUE : Field := ⟨0x11801c, 31, 0⟩
abbrev F.DRM_SCRUB_LAST_MS_VALUE : Field := ⟨0x118020, 31, 0⟩

/-! Fields of 13_cipher_engine.md -/

abbrev F.CPH_STATUS_STATE : Field := ⟨0x120000, 31, 30⟩
abbrev F.CPH_STATUS_FC_RESET : Field := ⟨0x120000, 29, 29⟩
abbrev F.CPH_STATUS_KAT_OK : Field := ⟨0x120000, 28, 28⟩
abbrev F.CPH_STATUS_SUSPENDED : Field := ⟨0x120000, 10, 8⟩
abbrev F.CPH_STATUS_HOLD_BUSY : Field := ⟨0x120000, 7, 0⟩
abbrev F.CPH_KAT_CFG_PERIOD_S : Field := ⟨0x120004, 11, 0⟩
abbrev F.CPH_LANE_FAULT_INJECTED : Field := ⟨0x120008, 2, 2⟩
abbrev F.CPH_LANE_FAULT_KAT_FAIL : Field := ⟨0x120008, 1, 1⟩
abbrev F.CPH_LANE_FAULT_MISMATCH : Field := ⟨0x120008, 0, 0⟩
abbrev F.CPH_INJECT_KEY : Field := ⟨0x12000c, 15, 0⟩
abbrev F.CPH_BCN_FC_FC : Field := ⟨0x120010, 31, 0⟩
abbrev F.CPH_LOCAL_FC_FC : Field := ⟨0x120014, 31, 0⟩
abbrev F.CPH_CNT_COUNT (n : Nat) : Field := ⟨0x120100 + 4 * n, 31, 0⟩

/-! Fields of 14_keys_identity_lifecycle.md -/

abbrev F.KEY_BLOB_BASE_BASE : Field := ⟨0x130004, 31, 20⟩
abbrev F.KEY_CMD_CMD : Field := ⟨0x130010, 31, 28⟩
abbrev F.KEY_CMD_SLOT : Field := ⟨0x130010, 15, 8⟩
abbrev F.KEY_CMD_SRC : Field := ⟨0x130010, 7, 0⟩
abbrev F.KEY_CMD_ARG_VALUE : Field := ⟨0x130014, 20, 0⟩
abbrev F.KEY_CMD_USES_VALUE : Field := ⟨0x13001c, 31, 0⟩
abbrev F.KEY_CMD_ADDR_VALUE : Field := ⟨0x130020, 31, 0⟩
abbrev F.KEY_CMD_ATTR_KLEN : Field := ⟨0x130018, 31, 31⟩
abbrev F.KEY_CMD_ATTR_XNR : Field := ⟨0x130018, 30, 30⟩
abbrev F.KEY_CMD_ATTR_PERMS : Field := ⟨0x130018, 28, 24⟩
abbrev F.KEY_STAGE_KEY (n : Nat) : Field := ⟨0x130040 + 4 * n, 31, 0⟩
abbrev F.KEY_CMD_STATUS_BUSY : Field := ⟨0x130024, 31, 31⟩
abbrev F.KEY_CMD_STATUS_DONE : Field := ⟨0x130024, 30, 30⟩
abbrev F.KEY_CMD_STATUS_STATUS : Field := ⟨0x130024, 23, 16⟩
abbrev F.KEY_CMD_STATUS_DETAIL : Field := ⟨0x130024, 15, 8⟩
abbrev F.KEY_CMD_STATUS_REASON : Field := ⟨0x130024, 3, 0⟩
abbrev F.KEY_STATUS_CACHE_USED : Field := ⟨0x130000, 23, 16⟩
abbrev F.KEY_STATUS_GENERAL_USED : Field := ⟨0x130000, 6, 0⟩
abbrev F.KEY_CNT_COUNT (n : Nat) : Field := ⟨0x130100 + 4 * n, 31, 0⟩
abbrev F.LCS_STATUS_PAIR_ROOT : Field := ⟨0x134000, 7, 7⟩
abbrev F.LCS_STATUS_NEW_SEED : Field := ⟨0x134000, 6, 6⟩
abbrev F.LCS_STATUS_IDENTITY : Field := ⟨0x134000, 5, 5⟩
abbrev F.LCS_STATUS_STATE : Field := ⟨0x134000, 3, 0⟩
abbrev F.LCS_SERIAL_LO_SERIAL : Field := ⟨0x134004, 31, 0⟩
abbrev F.LCS_SERIAL_HI_SERIAL : Field := ⟨0x134008, 31, 0⟩
abbrev F.LCS_CHAL_CHAL (n : Nat) : Field := ⟨0x134010 + 4 * n, 31, 0⟩
abbrev F.LCS_CMD_ADDR : Field := ⟨0x134020, 31, 6⟩
abbrev F.LCS_CMD_GO : Field := ⟨0x134020, 0, 0⟩
abbrev F.LCS_ATTEST_ADDR : Field := ⟨0x134028, 31, 6⟩
abbrev F.LCS_ATTEST_GO : Field := ⟨0x134028, 0, 0⟩
abbrev F.LCS_CMD_STATUS_BUSY : Field := ⟨0x134024, 31, 31⟩
abbrev F.LCS_CMD_STATUS_DONE : Field := ⟨0x134024, 30, 30⟩
abbrev F.LCS_CMD_STATUS_STATUS : Field := ⟨0x134024, 23, 16⟩
abbrev F.LCS_CMD_STATUS_REASON : Field := ⟨0x134024, 3, 0⟩
abbrev F.LCS_ATTEST_STATUS_BUSY : Field := ⟨0x13402c, 31, 31⟩
abbrev F.LCS_ATTEST_STATUS_DONE : Field := ⟨0x13402c, 30, 30⟩
abbrev F.LCS_ATTEST_STATUS_STATUS : Field := ⟨0x13402c, 23, 16⟩
abbrev F.LCS_ATTEST_STATUS_REASON : Field := ⟨0x13402c, 3, 0⟩
abbrev F.TAM_CFG_LOCK : Field := ⟨0x138000, 31, 31⟩
abbrev F.TAM_CFG_FILTER : Field := ⟨0x138000, 19, 16⟩
abbrev F.TAM_CFG_POL : Field := ⟨0x138000, 7, 4⟩
abbrev F.TAM_CFG_EN : Field := ⟨0x138000, 3, 0⟩
abbrev F.TAM_STATUS_SEEN : Field := ⟨0x138004, 31, 31⟩
abbrev F.TAM_STATUS_WHERE : Field := ⟨0x138004, 10, 8⟩
abbrev F.TAM_STATUS_LATCHED : Field := ⟨0x138004, 7, 4⟩
abbrev F.TAM_STATUS_LIVE : Field := ⟨0x138004, 3, 0⟩

/-! Fields of 15_network_time.md -/

abbrev F.TIM_SC_LO_TICKS : Field := ⟨0x140000, 31, 0⟩
abbrev F.TIM_SC_HI_TICKS : Field := ⟨0x140004, 31, 0⟩
abbrev F.TIM_SEL_SEL : Field := ⟨0x140008, 0, 0⟩
abbrev F.TIM_CMD_CLR_OFS : Field := ⟨0x14000c, 0, 0⟩
abbrev F.TIM_OFS_LO_OFS : Field := ⟨0x140010, 31, 0⟩
abbrev F.TIM_OFS_HI_OFS : Field := ⟨0x140014, 31, 0⟩
abbrev F.TIM_STEP_CFG_BACK_LIMIT_MS : Field := ⟨0x140018, 15, 0⟩
abbrev F.TIM_DIV_CFG_EN : Field := ⟨0x14001c, 31, 31⟩
abbrev F.TIM_DIV_CFG_THRESH_NS : Field := ⟨0x14001c, 29, 0⟩
abbrev F.TIM_STATUS_DIVERGE_LIVE : Field := ⟨0x140020, 9, 9⟩
abbrev F.TIM_STATUS_DIVERGE : Field := ⟨0x140020, 8, 8⟩
abbrev F.TIM_STATUS_ARMED : Field := ⟨0x140020, 5, 4⟩
abbrev F.TIM_STATUS_SEL : Field := ⟨0x140020, 0, 0⟩
abbrev F.TIM_D_SEC_LO_VALUE (n : Nat) : Field := ⟨0x140100 + 256 * n, 31, 0⟩
abbrev F.TIM_D_SEC_HI_VALUE (n : Nat) : Field := ⟨0x140104 + 256 * n, 31, 0⟩
abbrev F.TIM_D_NS_VALUE (n : Nat) : Field := ⟨0x140108 + 256 * n, 31, 0⟩
abbrev F.TIM_D_FRAC_VALUE (n : Nat) : Field := ⟨0x14010c + 256 * n, 31, 0⟩
abbrev F.TIM_D_EPOCH_VALUE (n : Nat) : Field := ⟨0x140110 + 256 * n, 31, 0⟩
abbrev F.TIM_D_SC_LO_VALUE (n : Nat) : Field := ⟨0x140114 + 256 * n, 31, 0⟩
abbrev F.TIM_D_SC_HI_VALUE (n : Nat) : Field := ⟨0x140118 + 256 * n, 31, 0⟩
abbrev F.TIM_D_INC_LO_INC (n : Nat) : Field := ⟨0x140120 + 256 * n, 31, 0⟩
abbrev F.TIM_D_INC_HI_INC (n : Nat) : Field := ⟨0x140124 + 256 * n, 2, 0⟩
abbrev F.TIM_D_STEP_SEC_SEC (n : Nat) : Field := ⟨0x140128 + 256 * n, 31, 0⟩
abbrev F.TIM_D_STEP_NS_GO (n : Nat) : Field := ⟨0x14012c + 256 * n, 31, 31⟩
abbrev F.TIM_D_STEP_NS_NS (n : Nat) : Field := ⟨0x14012c + 256 * n, 29, 0⟩
abbrev F.TIM_D_STEP_STATUS_STATE (n : Nat) : Field := ⟨0x140130 + 256 * n, 31, 28⟩
abbrev F.TIM_D_STEP_STATUS_ARM_LEFT_MS (n : Nat) : Field := ⟨0x140130 + 256 * n, 9, 0⟩
abbrev F.TIM_D_PTP_CFG_EN (n : Nat) : Field := ⟨0x140140 + 256 * n, 31, 31⟩
abbrev F.TIM_D_PTP_CFG_PORT (n : Nat) : Field := ⟨0x140140 + 256 * n, 30, 30⟩
abbrev F.TIM_D_PTP_CFG_MECH (n : Nat) : Field := ⟨0x140140 + 256 * n, 29, 29⟩
abbrev F.TIM_D_PTP_CFG_DOMAIN_NUM (n : Nat) : Field := ⟨0x140140 + 256 * n, 23, 16⟩
abbrev F.TIM_D_PTP_CFG_AVG_LOG2 (n : Nat) : Field := ⟨0x140140 + 256 * n, 3, 0⟩
abbrev F.TIM_D_MASTER_LO_ID (n : Nat) : Field := ⟨0x140144 + 256 * n, 31, 0⟩
abbrev F.TIM_D_MASTER_HI_ID (n : Nat) : Field := ⟨0x140148 + 256 * n, 31, 0⟩
abbrev F.TIM_D_MASTER_PORT_ID (n : Nat) : Field := ⟨0x14014c + 256 * n, 15, 0⟩
abbrev F.TIM_D_PATH_THRESH_VALUE (n : Nat) : Field := ⟨0x140150 + 256 * n, 31, 0⟩
abbrev F.TIM_D_ASYM_VALUE (n : Nat) : Field := ⟨0x140154 + 256 * n, 31, 0⟩
abbrev F.TIM_D_HOLD_VALUE (n : Nat) : Field := ⟨0x140158 + 256 * n, 31, 0⟩
abbrev F.TIM_D_MPD_VALUE (n : Nat) : Field := ⟨0x140160 + 256 * n, 31, 0⟩
abbrev F.TIM_D_DELAY_EST_VALUE (n : Nat) : Field := ⟨0x140164 + 256 * n, 31, 0⟩
abbrev F.TIM_D_OFFSET_LO_VALUE (n : Nat) : Field := ⟨0x140168 + 256 * n, 31, 0⟩
abbrev F.TIM_D_OFFSET_HI_VALUE (n : Nat) : Field := ⟨0x14016c + 256 * n, 31, 0⟩
abbrev F.TIM_D_EXCH_STATUS_PATH_STEP (n : Nat) : Field := ⟨0x140170 + 256 * n, 31, 31⟩
abbrev F.TIM_D_EXCH_STATUS_FROZEN (n : Nat) : Field := ⟨0x140170 + 256 * n, 30, 30⟩
abbrev F.TIM_D_EXCH_STATUS_HOLDOVER (n : Nat) : Field := ⟨0x140170 + 256 * n, 29, 29⟩
abbrev F.TIM_D_EXCH_STATUS_VALID (n : Nat) : Field := ⟨0x140170 + 256 * n, 28, 28⟩
abbrev F.TIM_D_EXCH_STATUS_SEQ (n : Nat) : Field := ⟨0x140170 + 256 * n, 15, 0⟩
abbrev F.TIM_PPSIN_CFG_EN : Field := ⟨0x140040, 31, 31⟩
abbrev F.TIM_PPSIN_CFG_POL : Field := ⟨0x140040, 30, 30⟩
abbrev F.TIM_PPSOUT_CFG_EN : Field := ⟨0x140044, 31, 31⟩
abbrev F.TIM_PPSOUT_CFG_POL : Field := ⟨0x140044, 30, 30⟩
abbrev F.TIM_PPSOUT_CFG_DOM : Field := ⟨0x140044, 29, 29⟩
abbrev F.TIM_PPSOUT_CFG_WIDTH_MS : Field := ⟨0x140044, 9, 0⟩
abbrev F.TIM_PPSIN_SC_LO_VALUE : Field := ⟨0x140048, 31, 0⟩
abbrev F.TIM_PPSIN_SC_HI_VALUE : Field := ⟨0x14004c, 31, 0⟩
abbrev F.TIM_PPSIN_D0_SEC_VALUE : Field := ⟨0x140050, 31, 0⟩
abbrev F.TIM_PPSIN_D0_NS_VALUE : Field := ⟨0x140054, 31, 0⟩
abbrev F.TIM_PPSIN_D1_SEC_VALUE : Field := ⟨0x140058, 31, 0⟩
abbrev F.TIM_PPSIN_D1_NS_VALUE : Field := ⟨0x14005c, 31, 0⟩
abbrev F.TIM_PPSIN_COUNT_VALUE : Field := ⟨0x140060, 31, 0⟩
abbrev F.TIM_CNT_COUNT (n : Nat) : Field := ⟨0x140080 + 4 * n, 31, 0⟩
abbrev F.TSU_PORT_CFG_EN (n : Nat) : Field := ⟨0x148000 + 4 * n, 31, 31⟩
abbrev F.TSU_PORT_CFG_ONE_STEP (n : Nat) : Field := ⟨0x148000 + 4 * n, 30, 30⟩
abbrev F.TSU_PORT_CFG_DOM (n : Nat) : Field := ⟨0x148000 + 4 * n, 29, 29⟩
abbrev F.TSU_PORT_CFG_L2 (n : Nat) : Field := ⟨0x148000 + 4 * n, 28, 28⟩
abbrev F.TSU_PORT_CFG_UDP4 (n : Nat) : Field := ⟨0x148000 + 4 * n, 27, 27⟩
abbrev F.TSU_PORT_CFG_UDP6 (n : Nat) : Field := ⟨0x148000 + 4 * n, 26, 26⟩
abbrev F.TSU_RING_BASE_BASE : Field := ⟨0x148010, 31, 0⟩
abbrev F.TSU_RING_CTRL_EN : Field := ⟨0x148014, 31, 31⟩
abbrev F.TSU_RING_CTRL_LOG2N : Field := ⟨0x148014, 4, 0⟩
abbrev F.TSU_RING_WR_COUNT : Field := ⟨0x148018, 31, 0⟩
abbrev F.TSU_RING_RD_COUNT : Field := ⟨0x14801c, 31, 0⟩
abbrev F.TSU_LOST_LOST : Field := ⟨0x148020, 31, 0⟩

/-! Fields of 16_backhaul_and_host_link.md -/

abbrev F.BHL_CFG_ENCAP : Field := ⟨0x150000, 31, 31⟩
abbrev F.BHL_CFG_PRIMARY : Field := ⟨0x150000, 30, 30⟩
abbrev F.BHL_CFG_FAILOVER : Field := ⟨0x150000, 29, 29⟩
abbrev F.BHL_CFG_HOST_TAG : Field := ⟨0x150000, 28, 28⟩
abbrev F.BHL_CFG_PASS_OTHER : Field := ⟨0x150000, 27, 27⟩
abbrev F.BHL_CFG_MAX_BODY : Field := ⟨0x150000, 26, 16⟩
abbrev F.BHL_CFG_HELLO_S : Field := ⟨0x150000, 15, 8⟩
abbrev F.BHL_CFG_TX_KEYSEL : Field := ⟨0x150000, 7, 7⟩
abbrev F.BHL_KEYS_TX_SLOT0 : Field := ⟨0x150004, 29, 24⟩
abbrev F.BHL_KEYS_TX_SLOT1 : Field := ⟨0x150004, 21, 16⟩
abbrev F.BHL_KEYS_RX_SLOT0 : Field := ⟨0x150004, 13, 8⟩
abbrev F.BHL_KEYS_RX_SLOT1 : Field := ⟨0x150004, 5, 0⟩
abbrev F.BHL_CLASS_PCP_PCP : Field := ⟨0x150008, 31, 0⟩
abbrev F.BHL_PORT_CFG_EN (n : Nat) : Field := ⟨0x150010 + 4 * n, 31, 31⟩
abbrev F.BHL_PORT_CFG_MODE (n : Nat) : Field := ⟨0x150010 + 4 * n, 30, 29⟩
abbrev F.BHL_PORT_CFG_AN (n : Nat) : Field := ⟨0x150010 + 4 * n, 28, 28⟩
abbrev F.BHL_PORT_CFG_PAUSE_RX (n : Nat) : Field := ⟨0x150010 + 4 * n, 27, 27⟩
abbrev F.BHL_PORT_CFG_PAUSE_TX (n : Nat) : Field := ⟨0x150010 + 4 * n, 26, 26⟩
abbrev F.BHL_PORT_CFG_VLAN (n : Nat) : Field := ⟨0x150010 + 4 * n, 25, 25⟩
abbrev F.BHL_PORT_CFG_VID (n : Nat) : Field := ⟨0x150010 + 4 * n, 23, 12⟩
abbrev F.BHL_PORT_STATUS_LINK (n : Nat) : Field := ⟨0x150018 + 4 * n, 31, 31⟩
abbrev F.BHL_PORT_STATUS_MODE (n : Nat) : Field := ⟨0x150018 + 4 * n, 30, 29⟩
abbrev F.BHL_PORT_STATUS_PAUSED (n : Nat) : Field := ⟨0x150018 + 4 * n, 28, 28⟩
abbrev F.BHL_PORT_STATUS_CHANGES (n : Nat) : Field := ⟨0x150018 + 4 * n, 15, 0⟩
abbrev F.BHL_MAC_LO_VALUE : Field := ⟨0x150040, 31, 0⟩
abbrev F.BHL_MAC_HI_VALUE : Field := ⟨0x150044, 15, 0⟩
abbrev F.BHL_NH_MAC_LO_VALUE : Field := ⟨0x150048, 31, 0⟩
abbrev F.BHL_NH_MAC_HI_VALUE : Field := ⟨0x15004c, 15, 0⟩
abbrev F.BHL_IP6_SRC_VALUE (n : Nat) : Field := ⟨0x150050 + 4 * n, 31, 0⟩
abbrev F.BHL_IP6_DST_VALUE (n : Nat) : Field := ⟨0x150060 + 4 * n, 31, 0⟩
abbrev F.BHL_UDP_VALUE : Field := ⟨0x150070, 31, 0⟩
abbrev F.BHL_SEQ_TX_LO_SEQ : Field := ⟨0x150080, 31, 0⟩
abbrev F.BHL_SEQ_TX_HI_SEQ : Field := ⟨0x150084, 31, 0⟩
abbrev F.BHL_SEQ_BH_LO_SEQ : Field := ⟨0x150088, 31, 0⟩
abbrev F.BHL_SEQ_BH_HI_SEQ : Field := ⟨0x15008c, 31, 0⟩
abbrev F.BHL_RX_LAST_STATUS : Field := ⟨0x1500a0, 31, 24⟩
abbrev F.BHL_RX_LAST_REASON : Field := ⟨0x1500a0, 23, 20⟩
abbrev F.BHL_RX_LAST_SOURCE : Field := ⟨0x1500a0, 17, 16⟩
abbrev F.BHL_RX_LAST_RING : Field := ⟨0x1500a0, 3, 0⟩
abbrev F.BHL_HOST_ERR_VALID : Field := ⟨0x1500a4, 31, 31⟩
abbrev F.BHL_HOST_ERR_WRITE : Field := ⟨0x1500a4, 30, 30⟩
abbrev F.BHL_HOST_ERR_ADDR : Field := ⟨0x1500a4, 29, 0⟩
abbrev F.BHL_HRX_CFG_EN (n : Nat) : Field := ⟨0x150400 + 16 * n, 31, 31⟩
abbrev F.BHL_HRX_CFG_CTX (n : Nat) : Field := ⟨0x150400 + 16 * n, 30, 27⟩
abbrev F.BHL_HRX_CFG_LOG2N (n : Nat) : Field := ⟨0x150400 + 16 * n, 4, 0⟩
abbrev F.BHL_HTX_CFG_EN (n : Nat) : Field := ⟨0x150500 + 16 * n, 31, 31⟩
abbrev F.BHL_HTX_CFG_CTX (n : Nat) : Field := ⟨0x150500 + 16 * n, 30, 27⟩
abbrev F.BHL_HTX_CFG_LOG2N (n : Nat) : Field := ⟨0x150500 + 16 * n, 4, 0⟩
abbrev F.BHL_HRX_BASE_VALUE (n : Nat) : Field := ⟨0x150404 + 16 * n, 27, 11⟩
abbrev F.BHL_HTX_BASE_VALUE (n : Nat) : Field := ⟨0x150504 + 16 * n, 27, 11⟩
abbrev F.BHL_HRX_WR_VALUE (n : Nat) : Field := ⟨0x150408 + 16 * n, 31, 0⟩
abbrev F.BHL_HTX_WR_VALUE (n : Nat) : Field := ⟨0x150508 + 16 * n, 31, 0⟩
abbrev F.BHL_HRX_RD_VALUE (n : Nat) : Field := ⟨0x15040c + 16 * n, 31, 0⟩
abbrev F.BHL_HTX_RD_VALUE (n : Nat) : Field := ⟨0x15050c + 16 * n, 31, 0⟩
abbrev F.BHL_HRX_MAP_RING : Field := ⟨0x150600, 31, 0⟩
abbrev F.BHL_CNT_COUNT (n : Nat) : Field := ⟨0x150100 + 4 * n, 31, 0⟩

/-! Fields of 17_redundant_pair.md -/

abbrev F.PAR_CFG_JTRIG_MIB : Field := ⟨0x160000, 19, 16⟩
abbrev F.PAR_CFG_SNAP_S : Field := ⟨0x160000, 9, 0⟩
abbrev F.PAR_STATUS_PAIR : Field := ⟨0x160004, 31, 30⟩
abbrev F.PAR_STATUS_LANE_UP : Field := ⟨0x160004, 29, 29⟩
abbrev F.PAR_STATUS_WIRE_UP : Field := ⟨0x160004, 28, 28⟩
abbrev F.PAR_STATUS_CONFIRMED : Field := ⟨0x160004, 27, 27⟩
abbrev F.PAR_STATUS_CONFLICT : Field := ⟨0x160004, 26, 26⟩
abbrev F.PAR_STATUS_JOURNAL : Field := ⟨0x160004, 25, 24⟩
abbrev F.PAR_STATUS_SYNC : Field := ⟨0x160004, 23, 22⟩
abbrev F.PAR_STATUS_A_VALID : Field := ⟨0x160004, 21, 21⟩
abbrev F.PAR_STATUS_B_VALID : Field := ⟨0x160004, 20, 20⟩
abbrev F.PAR_PEER_SERIAL_LO_SERIAL : Field := ⟨0x160008, 31, 0⟩
abbrev F.PAR_PEER_SERIAL_HI_SERIAL : Field := ⟨0x16000c, 31, 0⟩
abbrev F.PAR_SNAP_BUSY : Field := ⟨0x160010, 31, 31⟩
abbrev F.PAR_SNAP_SLOT : Field := ⟨0x160010, 30, 30⟩
abbrev F.PAR_SNAP_DONE_MIB : Field := ⟨0x160010, 15, 0⟩
abbrev F.PAR_SEQ_A_LO_SEQ : Field := ⟨0x160018, 31, 0⟩
abbrev F.PAR_SEQ_A_HI_SEQ : Field := ⟨0x16001c, 31, 0⟩
abbrev F.PAR_SEQ_B_LO_SEQ : Field := ⟨0x160020, 31, 0⟩
abbrev F.PAR_SEQ_B_HI_SEQ : Field := ⟨0x160024, 31, 0⟩
abbrev F.PAR_JPOS_WR_LO_JPOS : Field := ⟨0x160028, 31, 0⟩
abbrev F.PAR_JPOS_WR_HI_JPOS : Field := ⟨0x16002c, 31, 0⟩
abbrev F.PAR_JPOS_ACK_LO_JPOS : Field := ⟨0x160030, 31, 0⟩
abbrev F.PAR_JPOS_ACK_HI_JPOS : Field := ⟨0x160034, 31, 0⟩
abbrev F.PAR_JMARK_LO_JPOS : Field := ⟨0x160038, 31, 0⟩
abbrev F.PAR_JMARK_HI_JPOS : Field := ⟨0x16003c, 31, 0⟩
abbrev F.PAR_CMD_SNAP_NOW : Field := ⟨0x160040, 0, 0⟩
abbrev F.PAR_TKO_LAST_STATUS : Field := ⟨0x160044, 31, 24⟩
abbrev F.PAR_TKO_LAST_CAUSE : Field := ⟨0x160044, 23, 23⟩
abbrev F.PAR_TKO_LAST_SLOT : Field := ⟨0x160044, 22, 22⟩
abbrev F.PAR_TKO_LAST_GAP_MS : Field := ⟨0x160044, 15, 0⟩
abbrev F.PAR_HB_STATUS_PAIR_ID : Field := ⟨0x168000, 31, 31⟩
abbrev F.PAR_HB_STATUS_OWN_LINE : Field := ⟨0x168000, 30, 30⟩
abbrev F.PAR_HB_STATUS_OWN_DRIVE : Field := ⟨0x168000, 29, 29⟩
abbrev F.PAR_HB_STATUS_PEER_ROLE : Field := ⟨0x168000, 28, 27⟩
abbrev F.PAR_HB_STATUS_PEER_REQ : Field := ⟨0x168000, 26, 26⟩
abbrev F.PAR_HB_STATUS_WIRE_UP : Field := ⟨0x168000, 25, 25⟩
abbrev F.PAR_HB_STATUS_LANE_UP : Field := ⟨0x168000, 24, 24⟩
abbrev F.PAR_HB_STATUS_WIRE_MISS : Field := ⟨0x168000, 23, 20⟩
abbrev F.PAR_HB_STATUS_LANE_MISS : Field := ⟨0x168000, 19, 16⟩
abbrev F.PAR_CNT_COUNT (n : Nat) : Field := ⟨0x160100 + 4 * n, 31, 0⟩

/-! Fields of 18_functional_safety.md -/

abbrev F.SAF_STATUS_SAFE : Field := ⟨0x170000, 31, 31⟩
abbrev F.SAF_STATUS_EXIT_OK : Field := ⟨0x170000, 30, 30⟩
abbrev F.SAF_STATUS_RESET_ONLY : Field := ⟨0x170000, 29, 29⟩
abbrev F.SAF_STATUS_CAUSE : Field := ⟨0x170000, 10, 0⟩
abbrev F.SAF_CFG_ACT_H : Field := ⟨0x170004, 1, 1⟩
abbrev F.SAF_CFG_ACT_A : Field := ⟨0x170004, 0, 0⟩
abbrev F.SAF_MON_TJ_MAX : Field := ⟨0x170008, 31, 24⟩
abbrev F.SAF_MON_TEMP_FAULT : Field := ⟨0x170008, 4, 4⟩
abbrev F.SAF_MON_SUP_FAULT : Field := ⟨0x170008, 3, 0⟩
abbrev F.SAF_CMD_KEY : Field := ⟨0x17000c, 15, 0⟩
abbrev F.SAF_TEST_GO : Field := ⟨0x170010, 31, 31⟩
abbrev F.SAF_TEST_BUSY : Field := ⟨0x170010, 30, 30⟩
abbrev F.SAF_TEST_TARGET : Field := ⟨0x170010, 3, 0⟩
abbrev F.SAF_TEST_RESULT_FAIL : Field := ⟨0x170014, 14, 8⟩
abbrev F.SAF_TEST_RESULT_PASS : Field := ⟨0x170014, 6, 0⟩
abbrev F.SAF_CNT_COUNT (n : Nat) : Field := ⟨0x170100 + 4 * n, 31, 0⟩

/-! Fields of 19_freeze_and_returns.md -/

abbrev F.FRZ_STATUS_FROZEN : Field := ⟨0x178000, 31, 31⟩
abbrev F.FRZ_STATUS_EDGE_OK : Field := ⟨0x178000, 30, 30⟩
abbrev F.FRZ_STATUS_SOURCE : Field := ⟨0x178000, 29, 27⟩
abbrev F.FRZ_STATUS_CAUSE : Field := ⟨0x178000, 26, 16⟩
abbrev F.FRZ_CFG_DELAY_US : Field := ⟨0x178004, 25, 16⟩
abbrev F.FRZ_CFG_CAUSE_MASK : Field := ⟨0x178004, 10, 0⟩
abbrev F.FRZ_CMD_KEY : Field := ⟨0x178008, 15, 0⟩
abbrev F.FRZ_SC_LO_VALUE : Field := ⟨0x17800c, 31, 0⟩
abbrev F.FRZ_SC_HI_VALUE : Field := ⟨0x178010, 31, 0⟩
abbrev F.FRZ_STAMP_LO_VALUE : Field := ⟨0x178014, 31, 0⟩
abbrev F.FRZ_STAMP_HI_VALUE : Field := ⟨0x178018, 31, 0⟩
abbrev F.FRZ_VSEL_REGION : Field := ⟨0x178020, 31, 28⟩
abbrev F.FRZ_VSEL_CHUNK : Field := ⟨0x178020, 27, 0⟩
abbrev F.FRZ_VSTATUS_READY : Field := ⟨0x178024, 31, 31⟩
abbrev F.FRZ_VSTATUS_END : Field := ⟨0x178024, 30, 30⟩
abbrev F.FRZ_VSTATUS_UE : Field := ⟨0x178024, 29, 29⟩
abbrev F.FRZ_VSTATUS_UE_CNT : Field := ⟨0x178024, 15, 0⟩
abbrev F.FRZ_VDATA_DATA (n : Nat) : Field := ⟨0x178040 + 4 * n, 31, 0⟩

/-! Reset values other than 0. -/

/-- Rows of the reset table: base, stride, count, value. -/
def resetRows0 : List (Nat × Nat × Nat × Word) :=
  [(0x0, 0x0, 1, 0x71800011#32),
   (0x44, 0x0, 1, 0x0000000a#32),
   (0x10104, 0x0, 1, 0x0641e03c#32),
   (0x10200, 0x0, 1, 0x000003e8#32),
   (0x30000, 0x0, 1, 0xc0000000#32),
   (0x30008, 0x0, 1, 0x00002710#32),
   (0x30104, 0x0, 1, 0x000003e8#32),
   (0x30010, 0x0, 1, 0x18080200#32),
   (0x30044, 0x0, 1, 0x00000004#32),
   (0x20810, 0x0, 1, 0x000007d0#32),
   (0x4000c, 0x8000, 16, 0x00400000#32),
   (0x40010, 0x8000, 16, 0xaf0003e8#32),
   (0x4001c, 0x8000, 16, 0x0c288084#32),
   (0x40028, 0x8000, 16, 0x03e80e10#32),
   (0x40030, 0x8000, 16, 0x07d0001e#32),
   (0x40100, 0x8000, 16, 0x21000000#32),
   (0x40104, 0x8000, 16, 0x00800003#32),
   (0x40108, 0x8000, 16, 0x00181860#32),
   (0xc0000, 0x0, 1, 0x00640014#32),
   (0xc0040, 0x0, 1, 0x00a20064#32)]

/-- Rows of the reset table: base, stride, count, value. -/
def resetRows1 : List (Nat × Nat × Nat × Word) :=
  [(0xc0044, 0x0, 1, 0x03e80000#32),
   (0xc0048, 0x0, 1, 0x00000064#32),
   (0xc8000, 0x0, 1, 0x0e100401#32),
   (0xd0000, 0x0, 1, 0x00080bb8#32),
   (0xd0004, 0x0, 1, 0x035207d0#32),
   (0xd0008, 0x0, 1, 0x00000064#32),
   (0xd8000, 0x0, 1, 0x00b41e00#32),
   (0xe0000, 0x0, 1, 0x01000000#32),
   (0xe0018, 0x0, 1, 0x00000001#32),
   (0xf0104, 0x0, 1, 0x0064000c#32),
   (0x100004, 0x0, 1, 0x00080200#32),
   (0x100008, 0x0, 1, 0x18100804#32),
   (0x10000c, 0x0, 1, 0x20140c1c#32),
   (0x100010, 0x0, 1, 0x20202020#32),
   (0x100014, 0x0, 1, 0x20202020#32),
   (0x100018, 0x0, 1, 0x02202020#32),
   (0x10001c, 0x0, 1, 0x300a0128#32),
   (0x100200, 0x4, 16, 0x80000000#32),
   (0x108004, 0x0, 1, 0x0010ffff#32),
   (0x108014, 0x0, 1, 0x0000ffff#32)]

/-- Rows of the reset table: base, stride, count, value. -/
def resetRows2 : List (Nat × Nat × Nat × Word) :=
  [(0x110000, 0x0, 1, 0x06000000#32),
   (0x110004, 0x0, 1, 0x20000400#32),
   (0x110008, 0x0, 1, 0x00000800#32),
   (0x118004, 0x0, 1, 0x00000064#32),
   (0x120004, 0x0, 1, 0x0000003c#32),
   (0x130004, 0x0, 1, 0x09000000#32),
   (0x140018, 0x0, 1, 0x000003e8#32),
   (0x14001c, 0x0, 1, 0x000003e8#32),
   (0x140124, 0x100, 2, 0x00000005#32),
   (0x140140, 0x100, 2, 0x00000003#32),
   (0x140150, 0x100, 2, 0x000003e8#32),
   (0x140158, 0x100, 2, 0x0000000a#32),
   (0x140044, 0x0, 1, 0x00000064#32),
   (0x148014, 0x0, 1, 0x0000000a#32),
   (0x150000, 0x0, 1, 0xb5780a00#32),
   (0x150008, 0x0, 1, 0x03512467#32),
   (0x150010, 0x4, 2, 0x18000000#32),
   (0x150400, 0x10, 16, 0x00000008#32),
   (0x150500, 0x10, 16, 0x00000008#32),
   (0x160000, 0x0, 1, 0x0004001e#32)]

/-- The reset value of the register at an address; 0 where the headings give 0 and where nothing is assigned (R10). -/
def resetWord (a : Nat) : Word :=
  match (resetRows0 ++ resetRows1 ++ resetRows2).find? (fun r => r.1 ≤ a && a - r.1 < max r.2.1 1 * r.2.2.1 && (a - r.1) % max r.2.1 1 == 0) with
  | some r => r.2.2.2
  | none => 0

/-! Every register: base, first stride and count, second stride and count, type T, then the masks of its RW, W1C, W1S, WO and RC bits and of all its assigned bits. -/

def regRows0 : List RegSpec :=
  [⟨0x0, 0x4, 1, 0x4, 1, false, 0x0#32, 0x0#32, 0x0#32, 0x0#32, 0x0#32, 0xffff00ff#32⟩,
   ⟨0x4, 0x4, 1, 0x4, 1, false, 0x0#32, 0x0#32, 0x0#32, 0x0#32, 0x0#32, 0xf0f#32⟩,
   ⟨0x8, 0x4, 1, 0x4, 1, false, 0x0#32, 0x80000000#32, 0x0#32, 0x0#32, 0x0#32, 0xf0ffffff#32⟩,
   ⟨0x40, 0x4, 1, 0x4, 1, true, 0xffffffff#32, 0x0#32, 0x0#32, 0x0#32, 0x0#32, 0xffffffff#32⟩,
   ⟨0x44, 0x4, 1, 0x4, 1, true, 0x8000001f#32, 0x0#32, 0x0#32, 0x0#32, 0x0#32, 0x8000001f#32⟩,
   ⟨0x48, 0x4, 1, 0x4, 1, false, 0x0#32, 0x0#32, 0x0#32, 0x0#32, 0x0#32, 0xffffffff#32⟩,
   ⟨0x4c, 0x4, 1, 0x4, 1, false, 0xffffffff#32, 0x0#32, 0x0#32, 0x0#32, 0x0#32, 0xffffffff#32⟩,
   ⟨0x50, 0x4, 1, 0x4, 1, false, 0x0#32, 0x0#32, 0x0#32, 0x0#32, 0xffffffff#32, 0xffffffff#32⟩,
   ⟨0x60, 0x4, 1, 0x4, 1, false, 0x0#32, 0xffffffff#32, 0x0#32, 0x0#32, 0x0#32, 0xffffffff#32⟩,
   ⟨0x64, 0x4, 1, 0x4, 1, false, 0x0#32, 0xffffffff#32, 0x0#32, 0x0#32, 0x0#32, 0xffffffff#32⟩,
   ⟨0x100, 0x4, 8, 0x4, 1, false, 0xfff#32, 0x0#32, 0x0#32, 0x0#32, 0x0#32, 0xfff#32⟩,
   ⟨0x120, 0x4, 8, 0x4, 1, false, 0xfff#32, 0x0#32, 0x0#32, 0x0#32, 0x0#32, 0xfff#32⟩,
   ⟨0x10000, 0x4, 1, 0x4, 1, false, 0x0#32, 0x0#32, 0x0#32, 0x0#32, 0x0#32, 0x17f#32⟩,
   ⟨0x10004, 0x4, 1, 0x4, 1, false, 0x0#32, 0x17f#32, 0x0#32, 0x0#32, 0x0#32, 0x17f#32⟩,
   ⟨0x20000, 0x4, 1, 0x4, 1, false, 0x0#32, 0x0#32, 0x0#32, 0x0#32, 0x0#32, 0xffff0ffb#32⟩,
   ⟨0x20004, 0x4, 1, 0x4, 1, false, 0x0#32, 0x0#32, 0x0#32, 0x0#32, 0x0#32, 0xffff000f#32⟩,
   ⟨0x20008, 0x4, 1, 0x4, 1, false, 0x0#32, 0x0#32, 0x0#32, 0x0#32, 0x0#32, 0xffff000f#32⟩,
   ⟨0x2000c, 0x4, 1, 0x4, 1, false, 0x0#32, 0x0#32, 0x0#32, 0x0#32, 0x0#32, 0x7f7f#32⟩,
   ⟨0x20010, 0x4, 1, 0x4, 1, false, 0x0#32, 0x0#32, 0x0#32, 0x0#32, 0x0#32, 0xff0003#32⟩,
   ⟨0x20014, 0x4, 1, 0x4, 1, false, 0x1#32, 0x0#32, 0x0#32, 0x0#32, 0x0#32, 0x1#32⟩,
   ⟨0x20018, 0x4, 1, 0x4, 1, false, 0x0#32, 0x0#32, 0x0#32, 0xffff#32, 0x0#32, 0xffff#32⟩,
   ⟨0x2001c, 0x4, 1, 0x4, 1, false, 0x0#32, 0x0#32, 0x0#32, 0x0#32, 0x0#32, 0xffffffff#32⟩,
   ⟨0x20020, 0x4, 1, 0x4, 1, false, 0x0#32, 0x0#32, 0x0#32, 0x0#32, 0x0#32, 0xffffffff#32⟩,
   ⟨0x20024, 0x4, 1, 0x4, 1, false, 0x0#32, 0x0#32, 0x0#32, 0x0#32, 0x0#32, 0x7fffff#32⟩]

def regRows1 : List RegSpec :=
  [⟨0x20040, 0x4, 16, 0x4, 1, false, 0x0#32, 0x0#32, 0x0#32, 0x0#32, 0x0#32, 0xffffffff#32⟩,
   ⟨0x10100, 0x4, 1, 0x4, 1, false, 0x0#32, 0x4#32, 0x0#32, 0x0#32, 0x0#32, 0xf#32⟩,
   ⟨0x10104, 0x4, 1, 0x4, 1, true, 0xffffffff#32, 0x0#32, 0x0#32, 0x0#32, 0x0#32, 0xffffffff#32⟩,
   ⟨0x10108, 0x4, 1, 0x4, 1, false, 0x0#32, 0x0#32, 0x0#32, 0x0#32, 0x3ff0000#32, 0x3ff03ff#32⟩,
   ⟨0x1010c, 0x4, 1, 0x4, 1, false, 0x0#32, 0x0#32, 0x0#32, 0x0#32, 0x0#32, 0xffffffff#32⟩,
   ⟨0x10110, 0x4, 1, 0x4, 1, false, 0x0#32, 0x0#32, 0x0#32, 0xffff#32, 0x0#32, 0xffff#32⟩,
   ⟨0x10120, 0x4, 1, 0x4, 1, false, 0x0#32, 0x0#32, 0x0#32, 0x1#32, 0x0#32, 0x1#32⟩,
   ⟨0x10140, 0x8, 11, 0x4, 1, false, 0x0#32, 0x0#32, 0x0#32, 0x0#32, 0x0#32, 0xffffffff#32⟩,
   ⟨0x10144, 0x8, 11, 0x4, 1, false, 0x0#32, 0x0#32, 0x0#32, 0x0#32, 0x0#32, 0xffffffff#32⟩,
   ⟨0x10200, 0x4, 1, 0x4, 1, false, 0x3fff#32, 0x30000000#32, 0x80000000#32, 0x0#32, 0x0#32, 0xf0003fff#32⟩,
   ⟨0x10204, 0x4, 1, 0x4, 1, false, 0x0#32, 0x0#32, 0x0#32, 0x0#32, 0x0#32, 0xffffffff#32⟩,
   ⟨0x10208, 0x4, 1, 0x4, 1, false, 0x0#32, 0x0#32, 0x0#32, 0x0#32, 0x0#32, 0xffffffff#32⟩,
   ⟨0x1020c, 0x4, 1, 0x4, 1, false, 0x0#32, 0x0#32, 0x0#32, 0x0#32, 0x0#32, 0xffffffff#32⟩,
   ⟨0x10210, 0x4, 1, 0x4, 1, false, 0x0#32, 0x0#32, 0x0#32, 0x0#32, 0x0#32, 0xffffffff#32⟩,
   ⟨0x30f00, 0x4, 1, 0x4, 1, false, 0xffffffff#32, 0x0#32, 0x0#32, 0x0#32, 0x0#32, 0xffffffff#32⟩,
   ⟨0x30f04, 0x4, 1, 0x4, 1, false, 0x0#32, 0x0#32, 0x0#32, 0xffff#32, 0x0#32, 0xffff#32⟩,
   ⟨0x30000, 0x4, 1, 0x4, 1, false, 0x0#32, 0x0#32, 0x0#32, 0x0#32, 0x0#32, 0xc000ffff#32⟩,
   ⟨0x30004, 0x4, 1, 0x4, 1, false, 0x0#32, 0x0#32, 0x0#32, 0xf000ffff#32, 0x0#32, 0xffffffff#32⟩,
   ⟨0x30100, 0x4, 1, 0x4, 1, false, 0x0#32, 0x0#32, 0x0#32, 0xf000ffff#32, 0x0#32, 0xffffffff#32⟩,
   ⟨0x30008, 0x4, 1, 0x4, 1, false, 0xffff#32, 0x0#32, 0x0#32, 0x0#32, 0x0#32, 0xffff#32⟩,
   ⟨0x30104, 0x4, 1, 0x4, 1, false, 0xffff#32, 0x0#32, 0x0#32, 0x0#32, 0x0#32, 0xffff#32⟩,
   ⟨0x3000c, 0x4, 1, 0x4, 1, false, 0x0#32, 0x0#32, 0x0#32, 0x0#32, 0x0#32, 0xffff#32⟩,
   ⟨0x30010, 0x4, 1, 0x4, 1, false, 0x3f3f7f7f#32, 0x0#32, 0x0#32, 0x0#32, 0x0#32, 0x3f3f7f7f#32⟩,
   ⟨0x30014, 0x4, 1, 0x4, 1, false, 0x0#32, 0xef000000#32, 0x0#32, 0x0#32, 0x0#32, 0xefff7f7f#32⟩]

def regRows2 : List RegSpec :=
  [⟨0x30020, 0x4, 4, 0x4, 1, false, 0x0#32, 0x0#32, 0x0#32, 0x0#32, 0x0#32, 0xffffffff#32⟩,
   ⟨0x30030, 0x4, 1, 0x4, 1, false, 0x0#32, 0x0#32, 0x0#32, 0x0#32, 0x0#32, 0xffffffff#32⟩,
   ⟨0x30034, 0x4, 1, 0x4, 1, false, 0x0#32, 0x0#32, 0x0#32, 0x0#32, 0x0#32, 0xffffffff#32⟩,
   ⟨0x30040, 0x4, 1, 0x4, 1, false, 0x0#32, 0x1f#32, 0x0#32, 0x0#32, 0x0#32, 0x1f#32⟩,
   ⟨0x30044, 0x4, 1, 0x4, 1, false, 0x1e#32, 0x0#32, 0x0#32, 0x0#32, 0x0#32, 0x1f#32⟩,
   ⟨0x20800, 0x4, 1, 0x4, 1, false, 0x0#32, 0x0#32, 0x0#32, 0x0#32, 0x0#32, 0xff0fff#32⟩,
   ⟨0x20804, 0x4, 1, 0x4, 1, false, 0x0#32, 0x0#32, 0x0#32, 0xff#32, 0x0#32, 0xff#32⟩,
   ⟨0x20808, 0x4, 1, 0x4, 1, false, 0x0#32, 0x0#32, 0x0#32, 0xff#32, 0x0#32, 0xff#32⟩,
   ⟨0x2080c, 0x4, 1, 0x4, 1, false, 0x0#32, 0x0#32, 0x0#32, 0x0#32, 0x0#32, 0xf0ffffff#32⟩,
   ⟨0x20810, 0x4, 1, 0x4, 1, false, 0xffff#32, 0x0#32, 0x0#32, 0x0#32, 0x0#32, 0xffff#32⟩,
   ⟨0x20814, 0x4, 1, 0x4, 1, false, 0x0#32, 0x0#32, 0x0#32, 0x0#32, 0x0#32, 0xffffffff#32⟩,
   ⟨0x20818, 0x4, 1, 0x4, 1, false, 0x0#32, 0x0#32, 0x0#32, 0x0#32, 0x0#32, 0xff#32⟩,
   ⟨0x2081c, 0x4, 1, 0x4, 1, false, 0x0#32, 0x80000000#32, 0x0#32, 0x0#32, 0x0#32, 0xcfffffff#32⟩,
   ⟨0x20820, 0x4, 1, 0x4, 1, false, 0x0#32, 0x0#32, 0x0#32, 0x0#32, 0x0#32, 0xffffffff#32⟩,
   ⟨0x40000, 0x8000, 16, 0x4, 1, true, 0xe7ff0000#32, 0x0#32, 0x0#32, 0x0#32, 0x0#32, 0xe7ff0000#32⟩,
   ⟨0x40004, 0x8000, 16, 0x4, 1, false, 0x0#32, 0x0#32, 0x0#32, 0x0#32, 0x0#32, 0xfe0ff00#32⟩,
   ⟨0x40008, 0x8000, 16, 0x4, 1, true, 0x3fffff#32, 0x0#32, 0x0#32, 0x0#32, 0x0#32, 0x3fffff#32⟩,
   ⟨0x4000c, 0x8000, 16, 0x4, 1, true, 0xff00ff#32, 0x0#32, 0x0#32, 0x0#32, 0x0#32, 0xff00ff#32⟩,
   ⟨0x40010, 0x8000, 16, 0x4, 1, true, 0xffc0ffff#32, 0x0#32, 0x0#32, 0x0#32, 0x0#32, 0xffc0ffff#32⟩,
   ⟨0x40014, 0x8000, 16, 0x4, 1, true, 0x3fffff#32, 0x0#32, 0x0#32, 0x0#32, 0x0#32, 0x3fffff#32⟩,
   ⟨0x40018, 0x8000, 16, 0x4, 1, true, 0x3fffff#32, 0x0#32, 0x0#32, 0x0#32, 0x0#32, 0x3fffff#32⟩,
   ⟨0x4001c, 0x8000, 16, 0x4, 1, true, 0x3fffffff#32, 0x0#32, 0x0#32, 0x0#32, 0x0#32, 0x3fffffff#32⟩,
   ⟨0x40020, 0x8000, 16, 0x4, 1, true, 0x103#32, 0x0#32, 0x0#32, 0x0#32, 0x0#32, 0x103#32⟩,
   ⟨0x40024, 0x8000, 16, 0x4, 1, true, 0xf#32, 0x0#32, 0x0#32, 0x0#32, 0x0#32, 0xf#32⟩]

def regRows3 : List RegSpec :=
  [⟨0x40028, 0x8000, 16, 0x4, 1, true, 0x3ff0fff#32, 0x0#32, 0x0#32, 0x0#32, 0x0#32, 0x3ff0fff#32⟩,
   ⟨0x4002c, 0x8000, 16, 0x4, 1, false, 0x0#32, 0x0#32, 0x0#32, 0x0#32, 0x0#32, 0xffffffff#32⟩,
   ⟨0x40030, 0x8000, 16, 0x4, 1, true, 0xfffcff7f#32, 0x0#32, 0x0#32, 0x0#32, 0x0#32, 0xfffcff7f#32⟩,
   ⟨0x40034, 0x8000, 16, 0x4, 1, false, 0x0#32, 0x0#32, 0x0#32, 0x1#32, 0x0#32, 0x1#32⟩,
   ⟨0x40038, 0x8000, 16, 0x4, 1, false, 0x0#32, 0x0#32, 0x0#32, 0x0#32, 0x0#32, 0xffffffff#32⟩,
   ⟨0x4003c, 0x8000, 16, 0x4, 1, false, 0x0#32, 0x0#32, 0x0#32, 0x0#32, 0x0#32, 0xffffff#32⟩,
   ⟨0x40040, 0x8000, 16, 0x4, 1, false, 0x0#32, 0x7#32, 0x0#32, 0x0#32, 0x0#32, 0x7#32⟩,
   ⟨0x40044, 0x8000, 16, 0x4, 1, false, 0x0#32, 0x0#32, 0x0#32, 0x0#32, 0x0#32, 0xfff0ff00#32⟩,
   ⟨0x40080, 0x8000, 16, 0x4, 10, false, 0x0#32, 0x0#32, 0x0#32, 0x0#32, 0x0#32, 0xffffffff#32⟩,
   ⟨0x400e0, 0x4, 4, 0x4, 1, true, 0xf3ff0000#32, 0x0#32, 0x0#32, 0x0#32, 0x0#32, 0xf3ff0000#32⟩,
   ⟨0x40100, 0x8000, 16, 0x4, 1, true, 0x373fffff#32, 0x0#32, 0x0#32, 0x0#32, 0x0#32, 0x373fffff#32⟩,
   ⟨0x40104, 0x8000, 16, 0x4, 1, true, 0xff0103#32, 0x0#32, 0x0#32, 0x0#32, 0x0#32, 0xff0103#32⟩,
   ⟨0x40108, 0x8000, 16, 0x4, 1, true, 0xffffff#32, 0x0#32, 0x0#32, 0x0#32, 0x0#32, 0xffffff#32⟩,
   ⟨0x4010c, 0x8000, 16, 0x4, 1, true, 0xffff#32, 0x0#32, 0x0#32, 0x0#32, 0x0#32, 0xffff#32⟩,
   ⟨0x40110, 0x8000, 16, 0x4, 1, false, 0x0#32, 0x0#32, 0x0#32, 0x0#32, 0x7f0000#32, 0x7f007f#32⟩,
   ⟨0x40114, 0x8000, 16, 0x4, 1, false, 0x0#32, 0x0#32, 0x0#32, 0x0#32, 0x0#32, 0xffffffff#32⟩,
   ⟨0x40118, 0x8000, 16, 0x4, 1, false, 0x0#32, 0x0#32, 0x0#32, 0x0#32, 0x0#32, 0xffffffff#32⟩,
   ⟨0x4011c, 0x8000, 16, 0x4, 1, false, 0x0#32, 0x0#32, 0x0#32, 0x0#32, 0x0#32, 0xf7ffffff#32⟩,
   ⟨0x40180, 0x8000, 16, 0x4, 13, false, 0x0#32, 0x0#32, 0x0#32, 0x0#32, 0x0#32, 0xffffffff#32⟩,
   ⟨0xc0000, 0x4, 1, 0x4, 1, true, 0xff007f#32, 0x0#32, 0x0#32, 0x0#32, 0x0#32, 0xff007f#32⟩,
   ⟨0xc0004, 0x4, 1, 0x4, 1, true, 0xffffffff#32, 0x0#32, 0x0#32, 0x0#32, 0x0#32, 0xffffffff#32⟩,
   ⟨0xc0008, 0x4, 1, 0x4, 1, true, 0xffffffff#32, 0x0#32, 0x0#32, 0x0#32, 0x0#32, 0xffffffff#32⟩,
   ⟨0xc0010, 0x4, 1, 0x4, 1, false, 0x0#32, 0x0#32, 0x0#32, 0x0#32, 0x0#32, 0xffffffff#32⟩,
   ⟨0xc0014, 0x4, 1, 0x4, 1, false, 0x0#32, 0x0#32, 0x0#32, 0x0#32, 0x0#32, 0xff#32⟩]

def regRows4 : List RegSpec :=
  [⟨0xc0018, 0x4, 1, 0x4, 1, false, 0x0#32, 0x0#32, 0x0#32, 0x0#32, 0x0#32, 0xffffffff#32⟩,
   ⟨0xc001c, 0x4, 1, 0x4, 1, false, 0x0#32, 0x0#32, 0x0#32, 0x0#32, 0x0#32, 0xffffffff#32⟩,
   ⟨0xc0020, 0x4, 1, 0x4, 1, false, 0x0#32, 0x0#32, 0x0#32, 0x0#32, 0x0#32, 0xffffffff#32⟩,
   ⟨0xc0024, 0x4, 1, 0x4, 1, false, 0x0#32, 0x0#32, 0x0#32, 0x0#32, 0x0#32, 0xffffffff#32⟩,
   ⟨0xc0028, 0x4, 1, 0x4, 1, false, 0x0#32, 0x0#32, 0x0#32, 0x1#32, 0x0#32, 0x1#32⟩,
   ⟨0xc0040, 0x4, 1, 0x4, 1, true, 0xffff1fff#32, 0x0#32, 0x0#32, 0x0#32, 0x0#32, 0xffff1fff#32⟩,
   ⟨0xc0044, 0x4, 1, 0x4, 1, true, 0xffff1fff#32, 0x0#32, 0x0#32, 0x0#32, 0x0#32, 0xffff1fff#32⟩,
   ⟨0xc0048, 0x4, 1, 0x4, 1, true, 0x1fff#32, 0x0#32, 0x0#32, 0x0#32, 0x0#32, 0x1fff#32⟩,
   ⟨0xc004c, 0x4, 1, 0x4, 1, true, 0x3ffffff#32, 0x0#32, 0x0#32, 0x0#32, 0x0#32, 0x3ffffff#32⟩,
   ⟨0xc0050, 0x4, 1, 0x4, 1, true, 0xffffffff#32, 0x0#32, 0x0#32, 0x0#32, 0x0#32, 0xffffffff#32⟩,
   ⟨0xc0054, 0x4, 1, 0x4, 1, true, 0xffffffff#32, 0x0#32, 0x0#32, 0x0#32, 0x0#32, 0xffffffff#32⟩,
   ⟨0xc0080, 0x4, 16, 0x4, 1, true, 0xbfffffff#32, 0x0#32, 0x0#32, 0x0#32, 0x0#32, 0xbfffffff#32⟩,
   ⟨0xc00c0, 0x4, 1, 0x4, 1, false, 0x0#32, 0x0#32, 0x0#32, 0x8000003f#32, 0x0#32, 0x8000003f#32⟩,
   ⟨0xc00c4, 0x4, 1, 0x4, 1, false, 0x0#32, 0x0#32, 0x0#32, 0x0#32, 0x0#32, 0x7f7f#32⟩,
   ⟨0xc00c8, 0x4, 1, 0x4, 1, false, 0x0#32, 0x0#32, 0x0#32, 0x0#32, 0x0#32, 0xffffffff#32⟩,
   ⟨0xc0100, 0x4, 11, 0x4, 1, false, 0x0#32, 0x0#32, 0x0#32, 0x0#32, 0x0#32, 0xffffffff#32⟩,
   ⟨0xc8000, 0x4, 1, 0x4, 1, true, 0xffffff01#32, 0x0#32, 0x0#32, 0x0#32, 0x0#32, 0xffffff01#32⟩,
   ⟨0xc8004, 0x4, 1, 0x4, 1, false, 0xffffffff#32, 0x0#32, 0x0#32, 0x0#32, 0x0#32, 0xffffffff#32⟩,
   ⟨0xc8008, 0x4, 1, 0x4, 1, false, 0x0#32, 0x0#32, 0x0#32, 0x8001ffff#32, 0x0#32, 0x8001ffff#32⟩,
   ⟨0xc800c, 0x4, 1, 0x4, 1, false, 0x0#32, 0x0#32, 0x0#32, 0x0#32, 0x0#32, 0x1ff#32⟩,
   ⟨0xc8010, 0x4, 1, 0x4, 1, false, 0x0#32, 0x0#32, 0x0#32, 0x8001ffff#32, 0x0#32, 0x8001ffff#32⟩,
   ⟨0xc8014, 0x4, 1, 0x4, 1, false, 0x0#32, 0x0#32, 0x0#32, 0x0#32, 0x0#32, 0x3ffff#32⟩,
   ⟨0xc8100, 0x4, 11, 0x4, 1, false, 0x0#32, 0x0#32, 0x0#32, 0x0#32, 0x0#32, 0xffffffff#32⟩,
   ⟨0xd0000, 0x4, 1, 0x4, 1, true, 0xc0ffffff#32, 0x0#32, 0x0#32, 0x0#32, 0x0#32, 0xc0ffffff#32⟩]

def regRows5 : List RegSpec :=
  [⟨0xd0004, 0x4, 1, 0x4, 1, true, 0x7ffffff#32, 0x0#32, 0x0#32, 0x0#32, 0x0#32, 0x7ffffff#32⟩,
   ⟨0xd0008, 0x4, 1, 0x4, 1, true, 0xff#32, 0x0#32, 0x0#32, 0x0#32, 0x0#32, 0xff#32⟩,
   ⟨0xd000c, 0x4, 1, 0x4, 1, false, 0x0#32, 0x0#32, 0x0#32, 0x0#32, 0x0#32, 0x7ff#32⟩,
   ⟨0xd0010, 0x4, 1, 0x4, 1, false, 0x0#32, 0x0#32, 0x0#32, 0x0#32, 0x0#32, 0xfff1ffff#32⟩,
   ⟨0xd0100, 0x4, 20, 0x4, 1, false, 0x0#32, 0x0#32, 0x0#32, 0x0#32, 0x0#32, 0xffffffff#32⟩,
   ⟨0xd8000, 0x4, 1, 0x4, 1, true, 0xffffff00#32, 0x0#32, 0x0#32, 0x0#32, 0x0#32, 0xffffff00#32⟩,
   ⟨0xd8004, 0x4, 1, 0x4, 1, false, 0x0#32, 0x0#32, 0x0#32, 0x0#32, 0x0#32, 0x1ffff#32⟩,
   ⟨0xd8100, 0x4, 7, 0x4, 1, false, 0x0#32, 0x0#32, 0x0#32, 0x0#32, 0x0#32, 0xffffffff#32⟩,
   ⟨0xe0000, 0x4, 1, 0x4, 1, true, 0xff000000#32, 0x0#32, 0x0#32, 0x0#32, 0x0#32, 0xff000000#32⟩,
   ⟨0xe0004, 0x4, 1, 0x4, 1, true, 0xffffffff#32, 0x0#32, 0x0#32, 0x0#32, 0x0#32, 0xffffffff#32⟩,
   ⟨0xe0008, 0x4, 1, 0x4, 1, false, 0x0#32, 0x0#32, 0x0#32, 0x0#32, 0x0#32, 0xfff3ffff#32⟩,
   ⟨0xe000c, 0x4, 1, 0x4, 1, false, 0x0#32, 0x0#32, 0x0#32, 0x0#32, 0x0#32, 0x3ffff#32⟩,
   ⟨0xe0010, 0x4, 1, 0x4, 1, false, 0x0#32, 0x0#32, 0x0#32, 0xff81ffff#32, 0x0#32, 0xff81ffff#32⟩,
   ⟨0xe0014, 0x4, 1, 0x4, 1, false, 0xffffffff#32, 0x0#32, 0x0#32, 0x0#32, 0x0#32, 0xffffffff#32⟩,
   ⟨0xe0018, 0x4, 1, 0x4, 1, false, 0x1fff#32, 0x0#32, 0x0#32, 0x0#32, 0x0#32, 0x1fff#32⟩,
   ⟨0xe001c, 0x4, 1, 0x4, 1, false, 0x0#32, 0x40000000#32, 0x0#32, 0x0#32, 0x0#32, 0xc0ffffff#32⟩,
   ⟨0xe0100, 0x4, 10, 0x4, 1, false, 0x0#32, 0x0#32, 0x0#32, 0x0#32, 0x0#32, 0xffffffff#32⟩,
   ⟨0xe8000, 0x4, 1, 0x4, 1, false, 0x0#32, 0x0#32, 0x0#32, 0x0#32, 0xffff#32, 0x1fffffff#32⟩,
   ⟨0xe8100, 0x4, 6, 0x4, 1, false, 0x0#32, 0x0#32, 0x0#32, 0x0#32, 0x0#32, 0xffffffff#32⟩,
   ⟨0xf0000, 0x4, 19, 0x4, 1, true, 0xffffffff#32, 0x0#32, 0x0#32, 0x0#32, 0x0#32, 0xffffffff#32⟩,
   ⟨0xf0080, 0x4, 1, 0x4, 1, false, 0x0#32, 0x0#32, 0x0#32, 0x0#32, 0x0#32, 0x7ffff#32⟩,
   ⟨0xf0100, 0x4, 1, 0x4, 1, true, 0xffffffff#32, 0x0#32, 0x0#32, 0x0#32, 0x0#32, 0xffffffff#32⟩,
   ⟨0xf0104, 0x4, 1, 0x4, 1, true, 0x83ff001f#32, 0x0#32, 0x0#32, 0x0#32, 0x0#32, 0x83ff001f#32⟩,
   ⟨0xf0108, 0x4, 1, 0x4, 1, false, 0x0#32, 0x0#32, 0x0#32, 0x0#32, 0x0#32, 0xffffffff#32⟩]

def regRows6 : List RegSpec :=
  [⟨0xf010c, 0x4, 1, 0x4, 1, false, 0xffffffff#32, 0x0#32, 0x0#32, 0x0#32, 0x0#32, 0xffffffff#32⟩,
   ⟨0xf0110, 0x4, 1, 0x4, 1, false, 0x0#32, 0x0#32, 0x0#32, 0x0#32, 0xffffffff#32, 0xffffffff#32⟩,
   ⟨0xf0140, 0x4, 16, 0x4, 1, true, 0xff83ffff#32, 0x0#32, 0x0#32, 0x0#32, 0x0#32, 0xff83ffff#32⟩,
   ⟨0xf0200, 0x4, 9, 0x4, 1, false, 0x0#32, 0x0#32, 0x0#32, 0x0#32, 0x0#32, 0xffffffff#32⟩,
   ⟨0x100000, 0x4, 1, 0x4, 1, false, 0x0#32, 0x0#32, 0x0#32, 0x0#32, 0x0#32, 0x1fff1fff#32⟩,
   ⟨0x100004, 0x4, 1, 0x4, 1, true, 0x3f07ff#32, 0x0#32, 0x0#32, 0x0#32, 0x0#32, 0x3f07ff#32⟩,
   ⟨0x100008, 0x4, 1, 0x4, 1, true, 0x3f3f3f3f#32, 0x0#32, 0x0#32, 0x0#32, 0x0#32, 0x3f3f3f3f#32⟩,
   ⟨0x10000c, 0x4, 1, 0x4, 1, true, 0x3f3f3f3f#32, 0x0#32, 0x0#32, 0x0#32, 0x0#32, 0x3f3f3f3f#32⟩,
   ⟨0x100010, 0x4, 4, 0x4, 1, true, 0x3f3f3f3f#32, 0x0#32, 0x0#32, 0x0#32, 0x0#32, 0x3f3f3f3f#32⟩,
   ⟨0x100040, 0x4, 1, 0x4, 1, false, 0xffffffc0#32, 0x0#32, 0x0#32, 0x1#32, 0x0#32, 0xffffffc1#32⟩,
   ⟨0x100044, 0x4, 1, 0x4, 1, false, 0xffffffc0#32, 0x0#32, 0x0#32, 0x1#32, 0x0#32, 0xffffffc1#32⟩,
   ⟨0x100048, 0x4, 1, 0x4, 1, false, 0x0#32, 0x40000000#32, 0x0#32, 0x0#32, 0x0#32, 0xc0ffffff#32⟩,
   ⟨0x10004c, 0x4, 1, 0x4, 1, false, 0x0#32, 0x40000000#32, 0x0#32, 0x0#32, 0x0#32, 0xc0ffffff#32⟩,
   ⟨0x100050, 0x4, 1, 0x4, 1, false, 0x0#32, 0x0#32, 0x0#32, 0xf0000fff#32, 0x0#32, 0xf0000fff#32⟩,
   ⟨0x100054, 0x4, 1, 0x4, 1, false, 0x0#32, 0x0#32, 0x0#32, 0xf0000fff#32, 0x0#32, 0xf0000fff#32⟩,
   ⟨0x100058, 0x4, 1, 0x4, 1, false, 0xffffffc0#32, 0x0#32, 0x0#32, 0x0#32, 0x0#32, 0xffffffc0#32⟩,
   ⟨0x10005c, 0x4, 1, 0x4, 1, false, 0xffffffc0#32, 0x0#32, 0x0#32, 0x0#32, 0x0#32, 0xffffffc0#32⟩,
   ⟨0x100060, 0x4, 1, 0x4, 1, false, 0x0#32, 0x0#32, 0x0#32, 0x0#32, 0x0#32, 0xffffffff#32⟩,
   ⟨0x100064, 0x4, 1, 0x4, 1, false, 0x0#32, 0x0#32, 0x0#32, 0x0#32, 0x0#32, 0xffffffff#32⟩,
   ⟨0x100200, 0x4, 16, 0x4, 1, false, 0x0#32, 0x0#32, 0x0#32, 0x0#32, 0x0#32, 0x9fff003f#32⟩,
   ⟨0x100100, 0x4, 12, 0x4, 1, false, 0x0#32, 0x0#32, 0x0#32, 0x0#32, 0x0#32, 0xffffffff#32⟩,
   ⟨0x108000, 0x4, 1, 0x4, 1, true, 0xffffffff#32, 0x0#32, 0x0#32, 0x0#32, 0x0#32, 0xffffffff#32⟩,
   ⟨0x108004, 0x4, 1, 0x4, 1, true, 0x801fffff#32, 0x0#32, 0x0#32, 0x0#32, 0x0#32, 0x801fffff#32⟩,
   ⟨0x108008, 0x4, 1, 0x4, 1, false, 0x0#32, 0x0#32, 0x0#32, 0x0#32, 0x0#32, 0xffffffff#32⟩]

def regRows7 : List RegSpec :=
  [⟨0x10800c, 0x4, 1, 0x4, 1, false, 0xffffffff#32, 0x0#32, 0x0#32, 0x0#32, 0x0#32, 0xffffffff#32⟩,
   ⟨0x108010, 0x4, 1, 0x4, 1, false, 0x0#32, 0x0#32, 0x0#32, 0x0#32, 0xffffffff#32, 0xffffffff#32⟩,
   ⟨0x108018, 0x4, 1, 0x4, 1, false, 0x0#32, 0x0#32, 0x0#32, 0x0#32, 0xffffffff#32, 0xffffffff#32⟩,
   ⟨0x108014, 0x4, 1, 0x4, 1, true, 0x8300ffff#32, 0x0#32, 0x0#32, 0x0#32, 0x0#32, 0x8300ffff#32⟩,
   ⟨0x10801c, 0x4, 1, 0x4, 1, false, 0x0#32, 0x0#32, 0x0#32, 0xffff#32, 0x0#32, 0xffff#32⟩,
   ⟨0x108020, 0x4, 1, 0x4, 1, false, 0x0#32, 0x0#32, 0x0#32, 0x0#32, 0x0#32, 0xffffffff#32⟩,
   ⟨0x108024, 0x4, 1, 0x4, 1, false, 0x0#32, 0x0#32, 0x0#32, 0x0#32, 0x0#32, 0xffffffff#32⟩,
   ⟨0x110000, 0x4, 1, 0x4, 1, true, 0xffe00000#32, 0x0#32, 0x0#32, 0x0#32, 0x0#32, 0xffe00000#32⟩,
   ⟨0x110004, 0x4, 1, 0x4, 1, true, 0xffe0ffff#32, 0x0#32, 0x0#32, 0x0#32, 0x0#32, 0xffe0ffff#32⟩,
   ⟨0x110008, 0x4, 1, 0x4, 1, true, 0xffff#32, 0x0#32, 0x0#32, 0x0#32, 0x0#32, 0xffff#32⟩,
   ⟨0x11000c, 0x4, 1, 0x4, 1, false, 0x0#32, 0x0#32, 0x0#32, 0x0#32, 0x0#32, 0x1ffff#32⟩,
   ⟨0x110010, 0x4, 1, 0x4, 1, false, 0x0#32, 0x0#32, 0x0#32, 0x0#32, 0x1ffff#32, 0x1ffff#32⟩,
   ⟨0x110040, 0x4, 16, 0x4, 1, true, 0x80001fff#32, 0x0#32, 0x0#32, 0x0#32, 0x0#32, 0x80001fff#32⟩,
   ⟨0x110080, 0x4, 1, 0x4, 1, false, 0x0#32, 0x0#32, 0x0#32, 0xffff#32, 0x0#32, 0xffff#32⟩,
   ⟨0x110084, 0x4, 1, 0x4, 1, false, 0x0#32, 0x0#32, 0x0#32, 0x0#32, 0x0#32, 0xffff#32⟩,
   ⟨0x110100, 0x4, 8, 0x4, 1, false, 0x0#32, 0x0#32, 0x0#32, 0x0#32, 0x0#32, 0xffffffff#32⟩,
   ⟨0x118000, 0x4, 1, 0x4, 1, false, 0x0#32, 0x0#32, 0x0#32, 0x0#32, 0x0#32, 0xcf00ffff#32⟩,
   ⟨0x118004, 0x4, 1, 0x4, 1, true, 0xffff#32, 0x0#32, 0x0#32, 0x0#32, 0x0#32, 0xffff#32⟩,
   ⟨0x118008, 0x4, 1, 0x4, 1, false, 0x0#32, 0x0#32, 0x0#32, 0x0#32, 0x0#32, 0xffffffff#32⟩,
   ⟨0x11800c, 0x4, 1, 0x4, 1, false, 0x0#32, 0x0#32, 0x0#32, 0x0#32, 0x0#32, 0xffffffff#32⟩,
   ⟨0x118010, 0x4, 1, 0x4, 1, false, 0x0#32, 0x1#32, 0x0#32, 0x0#32, 0x0#32, 0xfffffffb#32⟩,
   ⟨0x118014, 0x4, 1, 0x4, 1, false, 0x0#32, 0x1#32, 0x0#32, 0x0#32, 0x0#32, 0xfffffffb#32⟩,
   ⟨0x118018, 0x4, 1, 0x4, 1, false, 0x0#32, 0x0#32, 0x0#32, 0x0#32, 0x0#32, 0xffffffc0#32⟩,
   ⟨0x11801c, 0x4, 1, 0x4, 1, false, 0x0#32, 0x0#32, 0x0#32, 0x0#32, 0x0#32, 0xffffffff#32⟩]

def regRows8 : List RegSpec :=
  [⟨0x118020, 0x4, 1, 0x4, 1, false, 0x0#32, 0x0#32, 0x0#32, 0x0#32, 0x0#32, 0xffffffff#32⟩,
   ⟨0x120000, 0x4, 1, 0x4, 1, false, 0x0#32, 0x20000000#32, 0x0#32, 0x0#32, 0x0#32, 0xf00007ff#32⟩,
   ⟨0x120004, 0x4, 1, 0x4, 1, true, 0xfff#32, 0x0#32, 0x0#32, 0x0#32, 0x0#32, 0xfff#32⟩,
   ⟨0x120008, 0x4, 1, 0x4, 1, false, 0x0#32, 0x7#32, 0x0#32, 0x0#32, 0x0#32, 0x7#32⟩,
   ⟨0x12000c, 0x4, 1, 0x4, 1, false, 0x0#32, 0x0#32, 0x0#32, 0xffff#32, 0x0#32, 0xffff#32⟩,
   ⟨0x120010, 0x4, 1, 0x4, 1, false, 0x0#32, 0x0#32, 0x0#32, 0x0#32, 0x0#32, 0xffffffff#32⟩,
   ⟨0x120014, 0x4, 1, 0x4, 1, false, 0x0#32, 0x0#32, 0x0#32, 0x0#32, 0x0#32, 0xffffffff#32⟩,
   ⟨0x120100, 0x4, 11, 0x4, 1, false, 0x0#32, 0x0#32, 0x0#32, 0x0#32, 0x0#32, 0xffffffff#32⟩,
   ⟨0x130004, 0x4, 1, 0x4, 1, true, 0xfff00000#32, 0x0#32, 0x0#32, 0x0#32, 0x0#32, 0xfff00000#32⟩,
   ⟨0x130010, 0x4, 1, 0x4, 1, false, 0x0#32, 0x0#32, 0x0#32, 0xf000ffff#32, 0x0#32, 0xf000ffff#32⟩,
   ⟨0x130014, 0x4, 1, 0x4, 1, false, 0x1fffff#32, 0x0#32, 0x0#32, 0x0#32, 0x0#32, 0x1fffff#32⟩,
   ⟨0x13001c, 0x4, 1, 0x4, 1, false, 0xffffffff#32, 0x0#32, 0x0#32, 0x0#32, 0x0#32, 0xffffffff#32⟩,
   ⟨0x130020, 0x4, 1, 0x4, 1, false, 0xffffffff#32, 0x0#32, 0x0#32, 0x0#32, 0x0#32, 0xffffffff#32⟩,
   ⟨0x130018, 0x4, 1, 0x4, 1, false, 0xdf000000#32, 0x0#32, 0x0#32, 0x0#32, 0x0#32, 0xdf000000#32⟩,
   ⟨0x130040, 0x4, 8, 0x4, 1, false, 0x0#32, 0x0#32, 0x0#32, 0xffffffff#32, 0x0#32, 0xffffffff#32⟩,
   ⟨0x130024, 0x4, 1, 0x4, 1, false, 0x0#32, 0x40000000#32, 0x0#32, 0x0#32, 0x0#32, 0xc0ffff0f#32⟩,
   ⟨0x130000, 0x4, 1, 0x4, 1, false, 0x0#32, 0x0#32, 0x0#32, 0x0#32, 0x0#32, 0xff007f#32⟩,
   ⟨0x130100, 0x4, 8, 0x4, 1, false, 0x0#32, 0x0#32, 0x0#32, 0x0#32, 0x0#32, 0xffffffff#32⟩,
   ⟨0x134000, 0x4, 1, 0x4, 1, false, 0x0#32, 0x40#32, 0x0#32, 0x0#32, 0x0#32, 0xef#32⟩,
   ⟨0x134004, 0x4, 1, 0x4, 1, false, 0x0#32, 0x0#32, 0x0#32, 0x0#32, 0x0#32, 0xffffffff#32⟩,
   ⟨0x134008, 0x4, 1, 0x4, 1, false, 0x0#32, 0x0#32, 0x0#32, 0x0#32, 0x0#32, 0xffffffff#32⟩,
   ⟨0x134010, 0x4, 4, 0x4, 1, false, 0x0#32, 0x0#32, 0x0#32, 0x0#32, 0x0#32, 0xffffffff#32⟩,
   ⟨0x134020, 0x4, 1, 0x4, 1, false, 0xffffffc0#32, 0x0#32, 0x0#32, 0x1#32, 0x0#32, 0xffffffc1#32⟩,
   ⟨0x134028, 0x4, 1, 0x4, 1, false, 0xffffffc0#32, 0x0#32, 0x0#32, 0x1#32, 0x0#32, 0xffffffc1#32⟩]

def regRows9 : List RegSpec :=
  [⟨0x134024, 0x4, 1, 0x4, 1, false, 0x0#32, 0x40000000#32, 0x0#32, 0x0#32, 0x0#32, 0xc0ff000f#32⟩,
   ⟨0x13402c, 0x4, 1, 0x4, 1, false, 0x0#32, 0x40000000#32, 0x0#32, 0x0#32, 0x0#32, 0xc0ff000f#32⟩,
   ⟨0x138000, 0x4, 1, 0x4, 1, false, 0xf00ff#32, 0x0#32, 0x80000000#32, 0x0#32, 0x0#32, 0x800f00ff#32⟩,
   ⟨0x138004, 0x4, 1, 0x4, 1, false, 0x0#32, 0x80000000#32, 0x0#32, 0x0#32, 0x0#32, 0x800007ff#32⟩,
   ⟨0x140000, 0x4, 1, 0x4, 1, false, 0x0#32, 0x0#32, 0x0#32, 0x0#32, 0x0#32, 0xffffffff#32⟩,
   ⟨0x140004, 0x4, 1, 0x4, 1, false, 0x0#32, 0x0#32, 0x0#32, 0x0#32, 0x0#32, 0xffffffff#32⟩,
   ⟨0x140008, 0x4, 1, 0x4, 1, true, 0x1#32, 0x0#32, 0x0#32, 0x0#32, 0x0#32, 0x1#32⟩,
   ⟨0x14000c, 0x4, 1, 0x4, 1, false, 0x0#32, 0x0#32, 0x0#32, 0x1#32, 0x0#32, 0x1#32⟩,
   ⟨0x140010, 0x4, 1, 0x4, 1, false, 0x0#32, 0x0#32, 0x0#32, 0x0#32, 0x0#32, 0xffffffff#32⟩,
   ⟨0x140014, 0x4, 1, 0x4, 1, false, 0x0#32, 0x0#32, 0x0#32, 0x0#32, 0x0#32, 0xffffffff#32⟩,
   ⟨0x140018, 0x4, 1, 0x4, 1, true, 0xffff#32, 0x0#32, 0x0#32, 0x0#32, 0x0#32, 0xffff#32⟩,
   ⟨0x14001c, 0x4, 1, 0x4, 1, true, 0xbfffffff#32, 0x0#32, 0x0#32, 0x0#32, 0x0#32, 0xbfffffff#32⟩,
   ⟨0x140020, 0x4, 1, 0x4, 1, false, 0x0#32, 0x100#32, 0x0#32, 0x0#32, 0x0#32, 0x331#32⟩,
   ⟨0x140100, 0x100, 2, 0x4, 1, false, 0x0#32, 0x0#32, 0x0#32, 0x0#32, 0x0#32, 0xffffffff#32⟩,
   ⟨0x140104, 0x100, 2, 0x4, 1, false, 0x0#32, 0x0#32, 0x0#32, 0x0#32, 0x0#32, 0xffffffff#32⟩,
   ⟨0x140108, 0x100, 2, 0x4, 1, false, 0x0#32, 0x0#32, 0x0#32, 0x0#32, 0x0#32, 0xffffffff#32⟩,
   ⟨0x14010c, 0x100, 2, 0x4, 1, false, 0x0#32, 0x0#32, 0x0#32, 0x0#32, 0x0#32, 0xffffffff#32⟩,
   ⟨0x140110, 0x100, 2, 0x4, 1, false, 0x0#32, 0x0#32, 0x0#32, 0x0#32, 0x0#32, 0xffffffff#32⟩,
   ⟨0x140114, 0x100, 2, 0x4, 1, false, 0x0#32, 0x0#32, 0x0#32, 0x0#32, 0x0#32, 0xffffffff#32⟩,
   ⟨0x140118, 0x100, 2, 0x4, 1, false, 0x0#32, 0x0#32, 0x0#32, 0x0#32, 0x0#32, 0xffffffff#32⟩,
   ⟨0x140120, 0x100, 2, 0x4, 1, false, 0xffffffff#32, 0x0#32, 0x0#32, 0x0#32, 0x0#32, 0xffffffff#32⟩,
   ⟨0x140124, 0x100, 2, 0x4, 1, false, 0x7#32, 0x0#32, 0x0#32, 0x0#32, 0x0#32, 0x7#32⟩,
   ⟨0x140128, 0x100, 2, 0x4, 1, false, 0xffffffff#32, 0x0#32, 0x0#32, 0x0#32, 0x0#32, 0xffffffff#32⟩,
   ⟨0x14012c, 0x100, 2, 0x4, 1, false, 0x3fffffff#32, 0x0#32, 0x0#32, 0x80000000#32, 0x0#32, 0xbfffffff#32⟩]

def regRows10 : List RegSpec :=
  [⟨0x140130, 0x100, 2, 0x4, 1, false, 0x0#32, 0x0#32, 0x0#32, 0x0#32, 0x0#32, 0xf00003ff#32⟩,
   ⟨0x140140, 0x100, 2, 0x4, 1, true, 0xe0ff000f#32, 0x0#32, 0x0#32, 0x0#32, 0x0#32, 0xe0ff000f#32⟩,
   ⟨0x140144, 0x100, 2, 0x4, 1, true, 0xffffffff#32, 0x0#32, 0x0#32, 0x0#32, 0x0#32, 0xffffffff#32⟩,
   ⟨0x140148, 0x100, 2, 0x4, 1, true, 0xffffffff#32, 0x0#32, 0x0#32, 0x0#32, 0x0#32, 0xffffffff#32⟩,
   ⟨0x14014c, 0x100, 2, 0x4, 1, true, 0xffff#32, 0x0#32, 0x0#32, 0x0#32, 0x0#32, 0xffff#32⟩,
   ⟨0x140150, 0x100, 2, 0x4, 1, true, 0xffffffff#32, 0x0#32, 0x0#32, 0x0#32, 0x0#32, 0xffffffff#32⟩,
   ⟨0x140154, 0x100, 2, 0x4, 1, true, 0xffffffff#32, 0x0#32, 0x0#32, 0x0#32, 0x0#32, 0xffffffff#32⟩,
   ⟨0x140158, 0x100, 2, 0x4, 1, true, 0xffffffff#32, 0x0#32, 0x0#32, 0x0#32, 0x0#32, 0xffffffff#32⟩,
   ⟨0x140160, 0x100, 2, 0x4, 1, false, 0x0#32, 0x0#32, 0x0#32, 0x0#32, 0x0#32, 0xffffffff#32⟩,
   ⟨0x140164, 0x100, 2, 0x4, 1, false, 0x0#32, 0x0#32, 0x0#32, 0x0#32, 0x0#32, 0xffffffff#32⟩,
   ⟨0x140168, 0x100, 2, 0x4, 1, false, 0x0#32, 0x0#32, 0x0#32, 0x0#32, 0x0#32, 0xffffffff#32⟩,
   ⟨0x14016c, 0x100, 2, 0x4, 1, false, 0x0#32, 0x0#32, 0x0#32, 0x0#32, 0x0#32, 0xffffffff#32⟩,
   ⟨0x140170, 0x100, 2, 0x4, 1, false, 0x0#32, 0x80000000#32, 0x0#32, 0x0#32, 0x0#32, 0xf000ffff#32⟩,
   ⟨0x140040, 0x4, 1, 0x4, 1, true, 0xc0000000#32, 0x0#32, 0x0#32, 0x0#32, 0x0#32, 0xc0000000#32⟩,
   ⟨0x140044, 0x4, 1, 0x4, 1, true, 0xe00003ff#32, 0x0#32, 0x0#32, 0x0#32, 0x0#32, 0xe00003ff#32⟩,
   ⟨0x140048, 0x4, 1, 0x4, 1, false, 0x0#32, 0x0#32, 0x0#32, 0x0#32, 0x0#32, 0xffffffff#32⟩,
   ⟨0x14004c, 0x4, 1, 0x4, 1, false, 0x0#32, 0x0#32, 0x0#32, 0x0#32, 0x0#32, 0xffffffff#32⟩,
   ⟨0x140050, 0x4, 1, 0x4, 1, false, 0x0#32, 0x0#32, 0x0#32, 0x0#32, 0x0#32, 0xffffffff#32⟩,
   ⟨0x140054, 0x4, 1, 0x4, 1, false, 0x0#32, 0x0#32, 0x0#32, 0x0#32, 0x0#32, 0xffffffff#32⟩,
   ⟨0x140058, 0x4, 1, 0x4, 1, false, 0x0#32, 0x0#32, 0x0#32, 0x0#32, 0x0#32, 0xffffffff#32⟩,
   ⟨0x14005c, 0x4, 1, 0x4, 1, false, 0x0#32, 0x0#32, 0x0#32, 0x0#32, 0x0#32, 0xffffffff#32⟩,
   ⟨0x140060, 0x4, 1, 0x4, 1, false, 0x0#32, 0x0#32, 0x0#32, 0x0#32, 0x0#32, 0xffffffff#32⟩,
   ⟨0x140080, 0x4, 8, 0x4, 1, false, 0x0#32, 0x0#32, 0x0#32, 0x0#32, 0x0#32, 0xffffffff#32⟩,
   ⟨0x148000, 0x4, 2, 0x4, 1, true, 0xfc000000#32, 0x0#32, 0x0#32, 0x0#32, 0x0#32, 0xfc000000#32⟩]

def regRows11 : List RegSpec :=
  [⟨0x148010, 0x4, 1, 0x4, 1, true, 0xffffffff#32, 0x0#32, 0x0#32, 0x0#32, 0x0#32, 0xffffffff#32⟩,
   ⟨0x148014, 0x4, 1, 0x4, 1, true, 0x8000001f#32, 0x0#32, 0x0#32, 0x0#32, 0x0#32, 0x8000001f#32⟩,
   ⟨0x148018, 0x4, 1, 0x4, 1, false, 0x0#32, 0x0#32, 0x0#32, 0x0#32, 0x0#32, 0xffffffff#32⟩,
   ⟨0x14801c, 0x4, 1, 0x4, 1, false, 0xffffffff#32, 0x0#32, 0x0#32, 0x0#32, 0x0#32, 0xffffffff#32⟩,
   ⟨0x148020, 0x4, 1, 0x4, 1, false, 0x0#32, 0x0#32, 0x0#32, 0x0#32, 0xffffffff#32, 0xffffffff#32⟩,
   ⟨0x150000, 0x4, 1, 0x4, 1, true, 0xffffff80#32, 0x0#32, 0x0#32, 0x0#32, 0x0#32, 0xffffff80#32⟩,
   ⟨0x150004, 0x4, 1, 0x4, 1, true, 0x3f3f3f3f#32, 0x0#32, 0x0#32, 0x0#32, 0x0#32, 0x3f3f3f3f#32⟩,
   ⟨0x150008, 0x4, 1, 0x4, 1, true, 0x77777777#32, 0x0#32, 0x0#32, 0x0#32, 0x0#32, 0x77777777#32⟩,
   ⟨0x150010, 0x4, 2, 0x4, 1, true, 0xfefff000#32, 0x0#32, 0x0#32, 0x0#32, 0x0#32, 0xfefff000#32⟩,
   ⟨0x150018, 0x4, 2, 0x4, 1, false, 0x0#32, 0x0#32, 0x0#32, 0x0#32, 0x0#32, 0xf000ffff#32⟩,
   ⟨0x150040, 0x4, 1, 0x4, 1, true, 0xffffffff#32, 0x0#32, 0x0#32, 0x0#32, 0x0#32, 0xffffffff#32⟩,
   ⟨0x150044, 0x4, 1, 0x4, 1, true, 0xffff#32, 0x0#32, 0x0#32, 0x0#32, 0x0#32, 0xffff#32⟩,
   ⟨0x150048, 0x4, 1, 0x4, 1, true, 0xffffffff#32, 0x0#32, 0x0#32, 0x0#32, 0x0#32, 0xffffffff#32⟩,
   ⟨0x15004c, 0x4, 1, 0x4, 1, true, 0xffff#32, 0x0#32, 0x0#32, 0x0#32, 0x0#32, 0xffff#32⟩,
   ⟨0x150050, 0x4, 4, 0x4, 1, true, 0xffffffff#32, 0x0#32, 0x0#32, 0x0#32, 0x0#32, 0xffffffff#32⟩,
   ⟨0x150060, 0x4, 4, 0x4, 1, true, 0xffffffff#32, 0x0#32, 0x0#32, 0x0#32, 0x0#32, 0xffffffff#32⟩,
   ⟨0x150070, 0x4, 1, 0x4, 1, true, 0xffffffff#32, 0x0#32, 0x0#32, 0x0#32, 0x0#32, 0xffffffff#32⟩,
   ⟨0x150080, 0x4, 1, 0x4, 1, false, 0x0#32, 0x0#32, 0x0#32, 0x0#32, 0x0#32, 0xffffffff#32⟩,
   ⟨0x150084, 0x4, 1, 0x4, 1, false, 0x0#32, 0x0#32, 0x0#32, 0x0#32, 0x0#32, 0xffffffff#32⟩,
   ⟨0x150088, 0x4, 1, 0x4, 1, false, 0x0#32, 0x0#32, 0x0#32, 0x0#32, 0x0#32, 0xffffffff#32⟩,
   ⟨0x15008c, 0x4, 1, 0x4, 1, false, 0x0#32, 0x0#32, 0x0#32, 0x0#32, 0x0#32, 0xffffffff#32⟩,
   ⟨0x1500a0, 0x4, 1, 0x4, 1, false, 0x0#32, 0x0#32, 0x0#32, 0x0#32, 0x0#32, 0xfff3000f#32⟩,
   ⟨0x1500a4, 0x4, 1, 0x4, 1, false, 0x0#32, 0x80000000#32, 0x0#32, 0x0#32, 0x0#32, 0xffffffff#32⟩,
   ⟨0x150400, 0x10, 16, 0x4, 1, true, 0xf800001f#32, 0x0#32, 0x0#32, 0x0#32, 0x0#32, 0xf800001f#32⟩]

def regRows12 : List RegSpec :=
  [⟨0x150500, 0x10, 16, 0x4, 1, true, 0xf800001f#32, 0x0#32, 0x0#32, 0x0#32, 0x0#32, 0xf800001f#32⟩,
   ⟨0x150404, 0x10, 16, 0x4, 1, true, 0xffff800#32, 0x0#32, 0x0#32, 0x0#32, 0x0#32, 0xffff800#32⟩,
   ⟨0x150504, 0x10, 16, 0x4, 1, true, 0xffff800#32, 0x0#32, 0x0#32, 0x0#32, 0x0#32, 0xffff800#32⟩,
   ⟨0x150408, 0x10, 16, 0x4, 1, false, 0x0#32, 0x0#32, 0x0#32, 0x0#32, 0x0#32, 0xffffffff#32⟩,
   ⟨0x150508, 0x10, 16, 0x4, 1, false, 0xffffffff#32, 0x0#32, 0x0#32, 0x0#32, 0x0#32, 0xffffffff#32⟩,
   ⟨0x15040c, 0x10, 16, 0x4, 1, false, 0xffffffff#32, 0x0#32, 0x0#32, 0x0#32, 0x0#32, 0xffffffff#32⟩,
   ⟨0x15050c, 0x10, 16, 0x4, 1, false, 0x0#32, 0x0#32, 0x0#32, 0x0#32, 0x0#32, 0xffffffff#32⟩,
   ⟨0x150600, 0x4, 1, 0x4, 1, true, 0xffffffff#32, 0x0#32, 0x0#32, 0x0#32, 0x0#32, 0xffffffff#32⟩,
   ⟨0x150100, 0x4, 14, 0x4, 1, false, 0x0#32, 0x0#32, 0x0#32, 0x0#32, 0x0#32, 0xffffffff#32⟩,
   ⟨0x160000, 0x4, 1, 0x4, 1, true, 0xf03ff#32, 0x0#32, 0x0#32, 0x0#32, 0x0#32, 0xf03ff#32⟩,
   ⟨0x160004, 0x4, 1, 0x4, 1, false, 0x0#32, 0x0#32, 0x0#32, 0x0#32, 0x0#32, 0xfff00000#32⟩,
   ⟨0x160008, 0x4, 1, 0x4, 1, false, 0x0#32, 0x0#32, 0x0#32, 0x0#32, 0x0#32, 0xffffffff#32⟩,
   ⟨0x16000c, 0x4, 1, 0x4, 1, false, 0x0#32, 0x0#32, 0x0#32, 0x0#32, 0x0#32, 0xffffffff#32⟩,
   ⟨0x160010, 0x4, 1, 0x4, 1, false, 0x0#32, 0x0#32, 0x0#32, 0x0#32, 0x0#32, 0xc000ffff#32⟩,
   ⟨0x160018, 0x4, 1, 0x4, 1, false, 0x0#32, 0x0#32, 0x0#32, 0x0#32, 0x0#32, 0xffffffff#32⟩,
   ⟨0x16001c, 0x4, 1, 0x4, 1, false, 0x0#32, 0x0#32, 0x0#32, 0x0#32, 0x0#32, 0xffffffff#32⟩,
   ⟨0x160020, 0x4, 1, 0x4, 1, false, 0x0#32, 0x0#32, 0x0#32, 0x0#32, 0x0#32, 0xffffffff#32⟩,
   ⟨0x160024, 0x4, 1, 0x4, 1, false, 0x0#32, 0x0#32, 0x0#32, 0x0#32, 0x0#32, 0xffffffff#32⟩,
   ⟨0x160028, 0x4, 1, 0x4, 1, false, 0x0#32, 0x0#32, 0x0#32, 0x0#32, 0x0#32, 0xffffffff#32⟩,
   ⟨0x16002c, 0x4, 1, 0x4, 1, false, 0x0#32, 0x0#32, 0x0#32, 0x0#32, 0x0#32, 0xffffffff#32⟩,
   ⟨0x160030, 0x4, 1, 0x4, 1, false, 0x0#32, 0x0#32, 0x0#32, 0x0#32, 0x0#32, 0xffffffff#32⟩,
   ⟨0x160034, 0x4, 1, 0x4, 1, false, 0x0#32, 0x0#32, 0x0#32, 0x0#32, 0x0#32, 0xffffffff#32⟩,
   ⟨0x160038, 0x4, 1, 0x4, 1, false, 0x0#32, 0x0#32, 0x0#32, 0x0#32, 0x0#32, 0xffffffff#32⟩,
   ⟨0x16003c, 0x4, 1, 0x4, 1, false, 0x0#32, 0x0#32, 0x0#32, 0x0#32, 0x0#32, 0xffffffff#32⟩]

def regRows13 : List RegSpec :=
  [⟨0x160040, 0x4, 1, 0x4, 1, false, 0x0#32, 0x0#32, 0x0#32, 0x1#32, 0x0#32, 0x1#32⟩,
   ⟨0x160044, 0x4, 1, 0x4, 1, false, 0x0#32, 0x0#32, 0x0#32, 0x0#32, 0x0#32, 0xffc0ffff#32⟩,
   ⟨0x168000, 0x4, 1, 0x4, 1, false, 0x0#32, 0x0#32, 0x0#32, 0x0#32, 0x0#32, 0xffff0000#32⟩,
   ⟨0x160100, 0x4, 14, 0x4, 1, false, 0x0#32, 0x0#32, 0x0#32, 0x0#32, 0x0#32, 0xffffffff#32⟩,
   ⟨0x170000, 0x4, 1, 0x4, 1, false, 0x0#32, 0x0#32, 0x0#32, 0x0#32, 0x0#32, 0xe00007ff#32⟩,
   ⟨0x170004, 0x4, 1, 0x4, 1, true, 0x3#32, 0x0#32, 0x0#32, 0x0#32, 0x0#32, 0x3#32⟩,
   ⟨0x170008, 0x4, 1, 0x4, 1, false, 0x0#32, 0x0#32, 0x0#32, 0x0#32, 0x0#32, 0xff00001f#32⟩,
   ⟨0x17000c, 0x4, 1, 0x4, 1, false, 0x0#32, 0x0#32, 0x0#32, 0xffff#32, 0x0#32, 0xffff#32⟩,
   ⟨0x170010, 0x4, 1, 0x4, 1, false, 0xf#32, 0x0#32, 0x0#32, 0x80000000#32, 0x0#32, 0xc000000f#32⟩,
   ⟨0x170014, 0x4, 1, 0x4, 1, false, 0x0#32, 0x7f7f#32, 0x0#32, 0x0#32, 0x0#32, 0x7f7f#32⟩,
   ⟨0x170100, 0x4, 9, 0x4, 1, false, 0x0#32, 0x0#32, 0x0#32, 0x0#32, 0x0#32, 0xffffffff#32⟩,
   ⟨0x178000, 0x4, 1, 0x4, 1, false, 0x0#32, 0x0#32, 0x0#32, 0x0#32, 0x0#32, 0xffff0000#32⟩,
   ⟨0x178004, 0x4, 1, 0x4, 1, true, 0x3ff07ff#32, 0x0#32, 0x0#32, 0x0#32, 0x0#32, 0x3ff07ff#32⟩,
   ⟨0x178008, 0x4, 1, 0x4, 1, false, 0x0#32, 0x0#32, 0x0#32, 0xffff#32, 0x0#32, 0xffff#32⟩,
   ⟨0x17800c, 0x4, 1, 0x4, 1, false, 0x0#32, 0x0#32, 0x0#32, 0x0#32, 0x0#32, 0xffffffff#32⟩,
   ⟨0x178010, 0x4, 1, 0x4, 1, false, 0x0#32, 0x0#32, 0x0#32, 0x0#32, 0x0#32, 0xffffffff#32⟩,
   ⟨0x178014, 0x4, 1, 0x4, 1, false, 0x0#32, 0x0#32, 0x0#32, 0x0#32, 0x0#32, 0xffffffff#32⟩,
   ⟨0x178018, 0x4, 1, 0x4, 1, false, 0x0#32, 0x0#32, 0x0#32, 0x0#32, 0x0#32, 0xffffffff#32⟩,
   ⟨0x178020, 0x4, 1, 0x4, 1, false, 0xffffffff#32, 0x0#32, 0x0#32, 0x0#32, 0x0#32, 0xffffffff#32⟩,
   ⟨0x178024, 0x4, 1, 0x4, 1, false, 0x0#32, 0x40000000#32, 0x0#32, 0x0#32, 0x0#32, 0xe000ffff#32⟩,
   ⟨0x178040, 0x4, 16, 0x4, 1, false, 0x0#32, 0x0#32, 0x0#32, 0x0#32, 0x0#32, 0xffffffff#32⟩]

/-- The register map, whole. -/
def regTable : List RegSpec :=
  regRows0 ++ regRows1 ++ regRows2 ++ regRows3 ++ regRows4 ++ regRows5 ++ regRows6 ++ regRows7 ++ regRows8 ++ regRows9 ++ regRows10 ++ regRows11 ++ regRows12 ++ regRows13

/-- Whether a row of the map assigns address `a`. -/
def RegSpec.covers (r : RegSpec) (a : Nat) : Bool :=
  r.base ≤ a && (a - r.base) / r.s1 < r.n1 && (a - r.base) % r.s1 / r.s2 < r.n2 && (a - r.base) % r.s1 % r.s2 == 0

/-- The row of the map that assigns address `a` (R10). -/
def regSpec? (a : Nat) : Option RegSpec := regTable.find? (·.covers a)

end Sys2Proof.Machine
end

