-- ==== Sys2Proof/Machine/Sparse.lean ====
section
/-! DEFINITION. Operations over sparse maps in canonical form: keys strictly rising, and no entry equal to what an unlisted key reads as. -/

namespace Sys2Proof.Machine

/-- What key `k` holds; `d` gives the value of an unlisted key. -/
def Sparse.get {α : Type} (d : Nat → α) : Sparse α → Nat → α
  | [], k => d k
  | (a, v) :: m, k => if a = k then v else Sparse.get d m k

/-- The map without key `k`. -/
def Sparse.erase {α : Type} : Sparse α → Nat → Sparse α
  | [], _ => []
  | (a, v) :: m, k => if a = k then Sparse.erase m k else (a, v) :: Sparse.erase m k

/-- An entry put before the first greater key. -/
def Sparse.ins {α : Type} (k : Nat) (v : α) : Sparse α → Sparse α
  | [] => [(k, v)]
  | (a, w) :: m => if k < a then (k, v) :: (a, w) :: m else (a, w) :: Sparse.ins k v m

/-- The map with key `k` at `v`: the value an unlisted key reads as removes the entry. -/
def Sparse.set {α : Type} [DecidableEq α] (d : Nat → α) (m : Sparse α) (k : Nat) (v : α) : Sparse α :=
  match Sparse.erase m k with
  | [] => if v = d k then [] else [(k, v)]
  | e :: r => if v = d k then e :: r else Sparse.ins k v (e :: r)

/-- The keys rise strictly. -/
def Sparse.rising {α : Type} : Sparse α → Bool
  | [] => true
  | [_] => true
  | (a, _) :: (b, w) :: m => decide (a < b) && Sparse.rising ((b, w) :: m)

/-- The canonical form. -/
def Sparse.wf {α : Type} [DecidableEq α] (d : Nat → α) (m : Sparse α) : Bool :=
  Sparse.rising m && m.all fun e => decide (e.2 ≠ d e.1)

end Sys2Proof.Machine
end

