-- ==== Sys2Proof/Machine/Ops.lean ====
section
/-! DEFINITION. Named operations over registers, tables, DRAM and time. -/

namespace Sys2Proof.Machine

/-- The word of the register at an address. -/
def State.reg (s : State) (a : Nat) : Word := Sparse.get resetWord s.regs a

/-- The state with the register at an address holding a word. -/
def State.setReg (s : State) (a : Nat) (w : Word) : State := { s with regs := Sparse.set resetWord s.regs a w }

/-- A field's value. -/
def State.getF (s : State) (f : Field) : Nat := bitsOf (s.reg f.addr) f.hi f.lo

/-- The state with a field at a value, of which the field keeps its low bits. -/
def State.setF (s : State) (f : Field) (v : Nat) : State := s.setReg f.addr (putBits (s.reg f.addr) f.hi f.lo v)

/-- A counter one further, wrapping with its width (R18). -/
def State.incF (s : State) (f : Field) : State := s.setF f (s.getF f + 1)

/-- A counter `n` further, wrapping with its width (R18). -/
def State.addF (s : State) (f : Field) (n : Nat) : State := s.setF f (s.getF f + n)

/-- A counter `n` further that stays at its greatest value (R18). -/
def State.satF (s : State) (f : Field) (n : Nat) : State := s.setF f (min (s.getF f + n) (2 ^ (f.hi + 1 - f.lo) - 1))

/-- No notice of a kind that is raised at most once per second has been raised in the last second. -/
def aSecondPast (last : Option Nat) (s : State) : Bool := last.all fun t => decide (t + sec ≤ s.clk.slot)

/-- A field one lower, not below 0. -/
def State.decF (s : State) (f : Field) : State := s.setF f (s.getF f - 1)

/-- A wide value held in two registers, low word first (R17). -/
def State.get64 (s : State) (lo hi : Field) : Nat := s.getF lo + 2 ^ 32 * s.getF hi

/-- A wide value put into two registers (R17). -/
def State.set64 (s : State) (lo hi : Field) (v : Nat) : State := (s.setF lo v).setF hi (v / 2 ^ 32)

/-- The reset values of the table words behind the windows, by window and offset: window 0 holds the fused compensation tables (R165), window 3 the weights (R280),
window 4 the class and subscriber parameters (R304); every other table resets to 0. -/
def tabReset (w off : Nat) : Word :=
  if w = 0 then (if off % 0x4000 < 0xC0 then Config.compWord off else 0)
  else if w = 3 then
    (if off = 0x400 then 1 else if off = 0x404 then 16 else if off = 0x408 then 4096 else if off = 0x40C then 0x04000008#32
     else if off = 0x410 then 1536 else if off = 0x414 then 168 else 0)
  else if w = 4 then
    (if off < 0x980 then
       (if off % 16 = 0 then
          [0x80001000#32, 0x80000800#32, 0x400#32, 0x100#32, 0x80#32, 0x200#32, 0x200#32, 0x40#32].getD (off / 16 % 8) 0
        else if off % 16 = 4 then 16384 else 0)
     else if 0x40000 ≤ off && off < 0xC0000 then 1
     else if 0xC0000 ≤ off && off < 0xC1000 then 1 else 0)
  else 0

/-- Reset values by table key. -/
def tabDefault (k : Nat) : Word := tabReset (k / 2 ^ 28) (k % 2 ^ 28)

/-- A word of a table behind window `w`, by page × 0x40000 + offset (R41). -/
def State.tab (s : State) (w off : Nat) : Word := Sparse.get tabDefault s.tabs (w * 2 ^ 28 + off)

/-- A word of a table behind window `w` set. -/
def State.setTab (s : State) (w off : Nat) (v : Word) : State := { s with tabs := Sparse.set tabDefault s.tabs (w * 2 ^ 28 + off) v }

/-- Radio port `n` beside its registers. -/
def State.port (s : State) (n : Nat) : Port := Sparse.get (fun _ => Port.reset) s.ports n

/-- Radio port `n` changed. -/
def State.updPort (s : State) (n : Nat) (f : Port → Port) : State :=
  { s with ports := Sparse.set (fun _ => Port.reset) s.ports n (f (s.port n)) }

/-- The bytes of device DRAM (R344): a byte that nothing has written reads 0. -/
def dramDefault (_ : Nat) : Byte := 0

/-- One byte of device DRAM. -/
def State.byte (s : State) (a : Nat) : Byte := Sparse.get dramDefault s.dram a

/-- One byte of device DRAM written. -/
def State.setByte (s : State) (a : Nat) (b : Byte) : State := { s with dram := Sparse.set dramDefault s.dram a b }

/-- `n` bytes of device DRAM from an address. -/
def State.bytes (s : State) (a : Nat) : Nat → List Byte
  | 0 => []
  | n + 1 => s.byte a :: State.bytes s (a + 1) n

/-- A 64-bit word whose read is uncorrectable (R342). -/
def State.poisonedWord (s : State) (w : Nat) : Bool := Sparse.get (fun _ => false) s.mem.poisoned w

/-- The word `w` lies wholly in the `n` bytes from `a`. -/
def wholeWord (a n w : Nat) : Bool := a ≤ 8 * w && 8 * w + 8 ≤ a + n

/-- Bytes of a write of `n` bytes from `base`: a byte of a partly written uncorrectable word is not written (R343). -/
def State.putBytes (base n : Nat) : Nat → List Byte → State → State
  | _, [], s => s
  | a, b :: r, s =>
    State.putBytes base n (a + 1) r (if s.poisonedWord (a / 8) && !wholeWord base n (a / 8) then s else s.setByte a b)

/-- A block of 64 KiB is done before a write to it (R344). -/
def State.markBlock (s : State) (b : Nat) : State :=
  { s with mem := { s.mem with inited := Sparse.set (fun _ => false) s.mem.inited b true } }

/-- Words wholly written hold valid check bits again (R342). -/
def State.mendWords (a n : Nat) : Nat → State → State
  | 0, s => s
  | k + 1, s =>
    let w := a / 8 + k
    let s := if wholeWord a n w then
        { s with mem := { s.mem with
            poisoned := Sparse.set (fun _ => false) s.mem.poisoned w false
            flipped := Sparse.set (fun _ => false) s.mem.flipped w false } }
      else s
    State.mendWords a n k s

/-- Bytes written to device DRAM from an address (R342 to R344). -/
def State.setBytes (s : State) (a : Nat) (bs : List Byte) : State :=
  match bs with
  | [] => s
  | _ =>
    let n := bs.length
    let s := (s.markBlock (a / 65536)).markBlock ((a + n - 1) / 65536)
    State.mendWords a n (n / 8 + 2) (State.putBytes a n a bs s)

/-- A little-endian number of `n` bytes in DRAM (R8). -/
def State.leAt (s : State) (a n : Nat) : Nat := ofLe (s.bytes a n)

/-- A little-endian number of `n` bytes written to DRAM (R8). -/
def State.setLe (s : State) (a n v : Nat) : State := s.setBytes a (leBytes n v)

/-- An output of the device, newest first. -/
def State.emit (s : State) (o : Out) : State := { s with out := o :: s.out }

/-- A value that the spec leaves open: the `n`-th draw of the step, advanced at each use. -/
def State.draw (s : State) : Nat := Config.freeValue s.draws

/-- The next draw is a new one. -/
def State.drawn (s : State) : State := { s with draws := s.draws + 1 }

/-- TOP_STATUS.STATE. -/
def State.mode (s : State) : Nat := s.getF F.TOP_STATUS_STATE

/-- The device states of TOP_STATUS.STATE. -/
def stStarting : Nat := 0
def stAutonomous : Nat := 1
def stReserve : Nat := 2
def stSafeHold : Nat := 3
def stTamperHold : Nat := 4
def stHibernate : Nat := 5
def stFrozen : Nat := 6

/-- Whether a master owns configuration. -/
def State.owns (s : State) (m : Master) : Bool := s.getF F.CUR_OWN_STATUS_OWNER == m.code

end Sys2Proof.Machine
end

