-- ==== Sys2Proof/Machine/Flags.lean ====
section
/-! DEFINITION. Sticky flags and reports: faulty accesses (TOP_ACCESS_ERR), MSI-X pending bits (R50 to R52), notices and their ring (R44 to R49),
and the safety log (R497 to R499). -/

namespace Sys2Proof.Machine

/-- KIND of TOP_ACCESS_ERR. -/
def errUnassigned : Nat := 0
def errGated : Nat := 1
def errNarrow : Nat := 2
def errInvalid : Nat := 3

/-- A faulty access recorded in TOP_ACCESS_ERR, unless one is recorded already. -/
def accessErr (m : Master) (kind addr : Nat) (s : State) : State :=
  let s := { s with detail := if s.detail = 0 then 9 else s.detail }
  if s.getF F.TOP_ACCESS_ERR_VALID = 1 then s
  else s.setReg 0x8 (BitVec.ofNat 32 (2 ^ 31 + m.bit * 2 ^ 30 + kind % 4 * 2 ^ 28 + addr % 2 ^ 24))

/-- The pending bit of a vector (R51). -/
def vectorField (v : Nat) : Field := if v < 32 then ⟨0x60, v, v⟩ else ⟨0x64, v - 32, v - 32⟩

/-- A source of vector `v` arises: the pending bit is set and the message sent when the bit was 0 (R51); vector 64 stands for none. -/
def raiseVector (v : Nat) (s : State) : State :=
  if 64 ≤ v then s
  else if s.getF (vectorField v) = 1 then s
  else (s.setF (vectorField v) 1).emit (.msix v)

/-- The number of records of the notice ring (R45). -/
def nringSize (s : State) : Nat := 2 ^ s.getF F.TOP_NRING_CTRL_LOG2N

/-- Whether the notice ring is full (R45). -/
def nringFull (s : State) : Bool :=
  (s.getF F.TOP_NRING_WR_WR + 2 ^ 32 - s.getF F.TOP_NRING_RD_RD) % 2 ^ 32 == nringSize s

/-- A notice that is not written to the ring (R47). -/
def noticeLost (s : State) : State :=
  raiseVector 14 { s.satF F.TOP_NOTICE_LOST_LOST 1 with lossPending := true }

/-- The 16 bytes of a notice record (R44). -/
def noticeBytes (k : NoticeKind) (status port arg : Nat) (s : State) : List Byte :=
  let wr := s.getF F.TOP_NRING_WR_WR
  let flags := wr / nringSize s % 2 * 128 + bit k.safety * 64 + bit s.lossPending * 32 + port % 16
  [BitVec.ofNat 8 k.event, BitVec.ofNat 8 k.block, BitVec.ofNat 8 status, BitVec.ofNat 8 flags] ++ leBytes 4 arg ++ leBytes 8 s.clk.slot

/-- A notice written to the ring at WR mod 2^N, or lost (R45, R47). -/
def noticeRing (k : NoticeKind) (status port arg : Nat) (s : State) : State :=
  if s.getF F.TOP_NRING_CTRL_EN = 0 || nringFull s then noticeLost s
  else
    let n := nringSize s
    let base := s.getF F.TOP_NRING_BASE_BASE / (16 * n) * (16 * n)
    let s' := s.setBytes (base + 16 * (s.getF F.TOP_NRING_WR_WR % n)) (noticeBytes k status port arg s)
    { s'.incF F.TOP_NRING_WR_WR with lossPending := false }

/-- 32.768 kHz cycles since VIN valid (R499). -/
def aonCycles (s : State) : Nat := (s.clk.now - s.clk.vinAt) * 32768 / sec

/-- An empty entry of the safety log. -/
def LogEntry.zero : LogEntry := ⟨0, 0, 0, 0, 0, 0, 0, 0, 0, false⟩

/-- SAFE_ENTER, the one event whose entry says ENTERED. -/
def isSafeEnter (k : NoticeKind) : Bool := k.block == 0x17 && k.event == 1

/-- An entry of the safety log (R497 to R499); CUR_ALERT_STATUS.SAFETY is set (R147). -/
def logEntry (k : NoticeKind) (status port arg : Nat) (s : State) : State :=
  let e : LogEntry := ⟨k.block, k.event, status, k.cls, port, arg % 2 ^ 32, aonCycles s % 2 ^ 32, s.saf.starts, s.mode, isSafeEnter k⟩
  let saf := { s.saf with
    log := Sparse.set (fun _ => LogEntry.zero) s.saf.log (s.saf.logWr % 256) e
    logWr := s.saf.logWr + 1
    safeWr := if isSafeEnter k then s.saf.logWr + 1 else s.saf.safeWr }
  { s with saf := saf }.setF F.CUR_ALERT_STATUS_SAFETY 1

/-- Notices and MSI-X messages take place: CORE is powered and the device is not FROZEN (R35, R511). -/
def noticesRun (s : State) : Bool := s.clk.core && s.mode != stFrozen

/-- An event of the device reported: the ring, the safety log for a safety-class notice, and the vector (R47, R50). Without CORE, and in FROZEN, the log alone takes it
(R122, R498, R511). -/
def notify (k : NoticeKind) (status port arg : Nat) (s : State) : State :=
  let run := noticesRun s
  let s := if run then noticeRing k status port arg s else s
  let s := if k.safety then logEntry k status port arg s else s
  if run then raiseVector (if k.safety then 0 else k.vector) s else s

/-- CUR_ALERT (R147): some bit of CUR_ALERT_STATUS that is enabled, SAFETY always. -/
def curAlert (s : State) : Bool :=
  (bitsOf (s.reg 0x30040) 4 0 &&& (bitsOf (s.reg 0x30044) 4 0 ||| 1)) != 0

/-- Status codes of R22. -/
def scOk : Nat := 0x00
def scCancelled : Nat := 0x01
def scLate : Nat := 0x02
def scAuthFail : Nat := 0x03
def scReplay : Nat := 0x04
def scDupAcked : Nat := 0x05
def scKeyStale : Nat := 0x06
def scKeyExpired : Nat := 0x07
def scAbortedErase : Nat := 0x08
def scFaultMap : Nat := 0x09
def scFaultEcc : Nat := 0x0A
def scNoBuffer : Nat := 0x0B
def scTimeout : Nat := 0x0C
def scDenied : Nat := 0x0D
def scSafeHold : Nat := 0x0E
def scDeferred : Nat := 0x0F
def scStateLoss : Nat := 0x10
def scCfgAmbiguous : Nat := 0x11

end Sys2Proof.Machine
end

