-- ==== Sys2Proof/Machine/TimeOps.lean ====
section
/-! DEFINITION. Time as part of other events: the passing of CLK_TIM ticks, domain time, and the mapping onto the slot clock (R33, R415 to R423). -/

namespace Sys2Proof.Machine

/-- A second in units of 2^−32 ns. -/
def unitsPerSec : Nat := 1000000000 * 2 ^ 32

/-- Domain time wraps with its 64-bit seconds. -/
def wrapDomain (t : Nat) : Nat := t % (2 ^ 64 * unitsPerSec)

/-- `n` ticks counted by a domain (R417). -/
def Domain.count (n : Nat) (d : Domain) : Domain := { d with t := wrapDomain (d.t + n * d.inc) }

/-- The CLK_TIM counters run: CORE is clocked and the TIM block is not gated, as it is in RESERVE until a takeover has claimed OWN_N (R106, R415, R416, R477). -/
def timRuns (s : State) : Bool := s.clk.running && (s.mode != stReserve || s.getF F.PAR_HB_STATUS_OWN_DRIVE == 1)

/-- `dt` ticks of 5 ns pass: real time, and where they run the slot clock, the CLK_FAB stamp and both domains (R29, R33, R417). -/
def State.elapse (s : State) (dt : Nat) : State :=
  let run := if timRuns s then dt else 0
  let fab := if s.clk.running then 3 * dt else 0
  { s with
    clk := { s.clk with now := s.clk.now + dt, slot := wrap64 (s.clk.slot + run), stamp := (s.clk.stamp + fab) % 2 ^ 40 }
    time := { s.time with d0 := s.time.d0.count run, d1 := s.time.d1.count run } }

/-- Domain `n`. -/
def State.domain (s : State) (n : Nat) : Domain := if n = 0 then s.time.d0 else s.time.d1

/-- Domain `n` set. -/
def State.setDomain (s : State) (n : Nat) (d : Domain) : State :=
  if n = 0 then { s with time := { s.time with d0 := d } } else { s with time := { s.time with d1 := d } }

/-- Domain `n` changed. -/
def State.updDomain (s : State) (n : Nat) (f : Domain → Domain) : State := s.setDomain n (f (s.domain n))

/-- Domain time in whole ns. -/
def Domain.ns (d : Domain) : Int := (d.t / 2 ^ 32 : Nat)

/-- The selected domain in effect. -/
def selDomain (s : State) : Nat := s.getF F.TIM_SEL_SEL

/-- REF at slot clock value `x`, in units of 2^−32 ns (R423). -/
def refAt (x : Nat) (s : State) : Int :=
  let d := s.domain (selDomain s)
  (d.t : Int) + ((x : Int) - s.clk.slot) * d.inc - s.time.ofs * 2 ^ 32

/-- A step armed and not confirmed becomes void on a change of owner (R420). -/
def voidArm (n : Nat) (s : State) : State :=
  if (s.domain n).armed.isSome then
    ((s.updDomain n fun d => { d with armed := none }).setF ⟨0x140020, 4 + n, 4 + n⟩ 0).setF (F.TIM_D_STEP_STATUS_STATE n) 0
  else s

/-- A transport of R425 is enabled on a port, and the port timestamps. -/
def tsuTakes (port transport : Nat) (s : State) : Bool :=
  s.getF (F.TSU_PORT_CFG_EN port) == 1 && s.getF ⟨0x148000 + 4 * port, 28 - transport, 28 - transport⟩ == 1

end Sys2Proof.Machine
end

