-- ==== Sys2Proof/Machine/TxnOps.lean ====
section
/-! DEFINITION. What transactions and ownership do as parts of other events: refusals (R128), rollback (R132), change of owner (R123) and the
end of start-up (R118). -/

namespace Sys2Proof.Machine

/-- TXN_STATUS.STATE: IDLE, OPEN, COMMIT_PENDING (R124). -/
def txIdle : Nat := 0
def txOpen : Nat := 1
def txPending : Nat := 2
def State.txn (s : State) : Nat := s.getF F.TXN_STATUS_STATE

/-- Refusal reasons of TXN_DENIED. -/
def rsNotOwner : Nat := 1
def rsNoTxn : Nat := 2
def rsBadTag : Nat := 3
def rsBusy : Nat := 4
def rsState : Nat := 5
def rsInvalid : Nat := 6

/-- A refusal counted, and latched with its notice when none is latched (R128). -/
def deny (m : Master) (reason addr : Nat) (s : State) : State :=
  let s := { s.incF F.TXN_DENY_COUNT_COUNT with detail := reason }
  if s.getF F.TXN_DENIED_VALID = 1 then s
  else
    let w : Word := BitVec.ofNat 32 (2 ^ 31 + m.bit * 2 ^ 30 + reason % 16 * 2 ^ 24 + addr % 2 ^ 24)
    notify N.TXN_DENIED scDenied 0 w.toNat (s.setReg 0x2081c w)

/-- The transaction leaves the logic: IDLE, its tag and result recorded, its shadows gone. -/
def closeTxn (result : Nat) (s : State) : State :=
  let tag := s.getF F.TXN_STATUS_TAG
  let s := (((s.setF F.TXN_STATUS_STATE txIdle).setF F.TXN_STATUS_LAST_TAG tag).setF F.TXN_STATUS_LAST_RESULT result).setF F.TXN_STATUS_TAG 0
  { s with ctl := { s.ctl with shadows := [] } }

/-- The transaction ends without effect (R132). -/
def rollback (result : Nat) (s : State) : State :=
  let arg := s.getF F.TXN_STATUS_POISONED * 256 + s.getF F.TXN_STATUS_TAG
  let s := closeTxn result s
  let s := if result = scTimeout ∨ result = scDenied then s.setF F.CUR_ALERT_STATUS_TXN_ABORT 1 else s
  notify N.TXN_ROLLED_BACK result 0 arg s

/-- An open transaction rolls back (R123, R132). -/
def rollbackOpen (result : Nat) (s : State) : State := if s.txn = txOpen then rollback result s else s

/-- An open or pending transaction is discarded, as on entry to RESERVE, HIBERNATE or the safe state (R132). -/
def discardTxn (s : State) : State := if s.txn = txIdle then s else rollback scDenied s

/-- A change of owner (R123): the epoch, the rollback of an open transaction, the notice and the alert bit; armed steps
become void (R420), and key staging is zeroised (R395). In FROZEN what lies in CORE stays as it is (R132, R512). -/
def changeOwner (new : Nat) (s : State) : State :=
  let s := if s.mode = stFrozen then s
    else (List.range 8).foldl (fun s n => s.setF (F.KEY_STAGE_KEY n) 0) (voidArm 1 (voidArm 0 (rollbackOpen scDenied s)))
  let s := (s.setF F.CUR_OWN_STATUS_OWNER new).incF F.CUR_OWN_STATUS_EPOCH
  let s := s.setF F.CUR_ALERT_STATUS_OWNER 1
  notify N.OWNER scOk 0 (new * 2 ^ 16 + s.getF F.CUR_OWN_STATUS_EPOCH) s

/-- FC_RESET once start-up has ended, whatever its end (R372). -/
def noteFcReset (s : State) : State :=
  if s.cph.fcReset then notify N.FC_RESET scOk 0 0 { s with cph := { s.cph with fcReset := false } } else s

/-- Start-up ends: the owner becomes NONE with epoch 1, without a notice (R118). -/
def startupEnd (s : State) : State :=
  if s.boot.ended then s
  else noteFcReset { ((s.setF F.CUR_OWN_STATUS_OWNER 0).setF F.CUR_OWN_STATUS_EPOCH 1) with boot := { s.boot with ended := true } }

/-- A write by a master that may not make it: ignored and recorded as an invalid value (R16, R148). -/
def ignored (m : Master) (addr : Nat) (s : State) : State := accessErr m errInvalid addr s

/-- Registers of the AON and TAMP domains (R35, R38). -/
def aonReg (a : Nat) : Bool :=
  a == 0x0 || a == 0x4 || a == 0x8 || (0x30000 ≤ a && a < 0x40000) || (0x138000 ≤ a && a < 0x139000)
    || (0x168000 ≤ a && a < 0x168100) || (0x178000 ≤ a && a < 0x178100)

/-- The block of a register or table answers: its domain is powered, and in RESERVE it is one of the blocks of R37 (R36, R37). Port registers lie in CORE, because a port that
is not powered is enabled through them (R35, R39). -/
def answers (a : Nat) (s : State) : Bool :=
  let reserve := a < 0x40000 || (0x118000 ≤ a && a < 0x120000) || (0x134000 ≤ a && a < 0x138000) || (0x160000 ≤ a && a < 0x180000) || 0x3c0000 ≤ a
  (s.clk.core || aonReg a || (0x3c0000 ≤ a && a < 0x400000)) && (s.mode != stReserve || reserve)

/-- In FROZEN only the FRZ, CUR and HST registers take a write (R512). -/
def frozenShut (a : Nat) (s : State) : Bool :=
  s.mode == stFrozen && !((0x30000 ≤ a && a < 0x40000) || (0x178000 ≤ a && a < 0x178100))

/-- A write that reaches its block; otherwise it is ignored and recorded as gated (R36, R512). -/
def gatedWrite (m : Master) (a : Nat) (f : State → State) (s : State) : State :=
  if answers a s && !frozenShut a s then f s else accessErr m errGated a s

/-- A ring's read count written: refused where WR − RD would exceed the ring (R48, R303, R329, R427). -/
def writeRingRd (m : Master) (addr : Nat) (rd : Field) (wr size : Nat) (w : Word) (s : State) : State :=
  if size < (wr + 2 ^ 32 - w.toNat) % 2 ^ 32 then ignored m addr s else s.setF rd w.toNat

end Sys2Proof.Machine
end

