-- ==== Sys2Proof/Machine/MemOps.lean ====
section
/-! DEFINITION. Device DRAM, its error correction and the buffer pool as parts of other events (R337 to R351). -/

namespace Sys2Proof.Machine

/-- U, the number of addressable bytes (R337). -/
def usableBytes (s : State) : Nat := s.getF F.DRM_STATUS_USABLE_MIB * 2 ^ 20

/-- Whether a range of `n` bytes lies below U (R338). -/
def inDram (a n : Nat) (s : State) : Bool := a + n ≤ usableBytes s

/-- Blocks of 64 KiB below U, and whether the initialiser has done them all (R344). -/
def blockCount (s : State) : Nat := usableBytes s / 65536
def initDone (s : State) : Bool := s.getF F.DRM_STATUS_TRAINED == 1 && blockCount s ≤ s.mem.inited.length

/-- CAT_BASE, KEY_BLOB_BASE and BMP_POOL_BASE as addresses (R266, R392, R347). -/
def catBase (s : State) : Nat := s.getF F.CAT_BASE_BASE * 2 ^ 24
def blobBase (s : State) : Nat := s.getF F.KEY_BLOB_BASE_BASE * 2 ^ 20
def poolBase (s : State) : Nat := s.getF F.BMP_POOL_BASE_BASE * 2 ^ 21

/-- Two ranges have an address in common. -/
def overlaps (a n b m : Nat) : Bool := decide (0 < n) && decide (0 < m) && decide (a < b + m) && decide (b < a + n)

/-- A range meets the catalogue area or the node index (R266). -/
def hitsCatalogue (a n : Nat) (s : State) : Bool := overlaps a n (catBase s) (68 * 2 ^ 20)

/-- A range meets the pair area (R468). -/
def hitsPairArea (a n : Nat) : Bool := overlaps a n 0x10000000 (528 * 2 ^ 20)

/-- The first uncorrectable word in `n` bytes from an address: the record of such words rises. -/
def badWord (a n : Nat) (s : State) : Option Nat :=
  (s.mem.poisoned.find? fun e => e.2 && decide (0 < n) && decide (a < 8 * e.1 + 8) && decide (8 * e.1 < a + n)).map (·.1)

/-- An uncorrectable error met by a read: counted, recorded, and reported as class DF-G (R342). -/
def foundUe (w : Nat) (scrub : Bool) (s : State) : State :=
  let s := s.satF F.DRM_UE_CNT_COUNT 1
  let s := if s.getF F.DRM_UE_ADDR_VALID = 1 then s
    else s.setReg 0x118014 (BitVec.ofNat 32 (8 * w + bit scrub * 2 + 1))
  notify N.DRAM_UE scFaultEcc 0 (8 * w) s

/-- Errors counted in the current second of the slot clock (R341). -/
def countCe (s : State) : State :=
  let t := s.clk.slot / sec
  { s with mem := { s.mem with ceCount := (if s.mem.ceSecond = t then s.mem.ceCount else 0) + 1, ceSecond := t } }

/-- A correctable error met by a read: counted, recorded, and the corrected word written back (R341). -/
def foundCe (w : Nat) (scrub : Bool) (s : State) : State :=
  let s := countCe (s.satF F.DRM_CE_CNT_COUNT 1)
  let s := if s.getF F.DRM_CE_ADDR_VALID = 1 then s
    else s.setReg 0x118010 (BitVec.ofNat 32 (8 * w + bit scrub * 2 + 1))
  { s with mem := { s.mem with flipped := Sparse.set (fun _ => false) s.mem.flipped w false } }

/-- A read of `n` bytes by an engine: its bytes, or the uncorrectable word that it met (R341, R342). -/
def dramRead (a n : Nat) (s : State) : Except Nat (List Byte) × State :=
  match badWord a n s with
  | some w => (.error w, foundUe w false s)
  | none => (.ok (s.bytes a n), s)

/-- What follows a read by an engine: `bad` with the uncorrectable word, or `good` with the bytes. -/
def withRead {α : Type} (a n : Nat) (s : State) (bad : Nat → State → α) (good : List Byte → State → α) : α :=
  match dramRead a n s with
  | (.error w, s) => bad w s
  | (.ok b, s) => good b s

/-- The uncorrectable word that a write of `n` bytes would merge with (R343). -/
def badPartial (a n : Nat) (s : State) : Option Nat :=
  if n = 0 then none
  else ([a / 8, (a + n - 1) / 8].find? fun w => s.poisonedWord w && !wholeWord a n w)

/-- COUNT of the buffer pool (R347). -/
def poolCount (s : State) : Nat := 64 * s.getF F.BMP_POOL_CFG_COUNT64

/-- Address of a buffer and of its record slot by handle (R347, R348). -/
def handleIndex (h : Nat) : Nat := h % 65536
def bufferAddr (h : Nat) (s : State) : Nat := poolBase s + 2048 * handleIndex h
def recordAddr (h : Nat) (s : State) : Nat := poolBase s + 2048 * poolCount s + 32 * handleIndex h

/-- Holders of a buffer, and GEN (R348, R350). -/
def holdersOf (i : Nat) (s : State) : Nat := Sparse.get (fun _ => 0) s.mem.holders i
def genOf (i : Nat) (s : State) : Nat := Sparse.get (fun _ => 0) s.mem.gens i

/-- No buffer. -/
def noHandle : Nat := 0xFFFFFFFF

/-- A handle that R348 lets a job name: its INDEX is below COUNT and its GEN is the buffer's. -/
def handleOk (h : Nat) (s : State) : Bool :=
  decide (handleIndex h < poolCount s) && h / 2 ^ 24 == genOf (handleIndex h) s && h / 65536 % 256 == 0

/-- Allocated buffers, and the free count (R349). -/
def poolUsed (s : State) : Nat := s.mem.holders.length
def poolFreeCount (s : State) : Nat := poolCount s - poolUsed s

/-- The lowest free count since the last read of BMP_POOL_MIN. -/
def noteMin (s : State) : State :=
  { s with mem := { s.mem with minFree := some (min (s.mem.minFree.getD (poolFreeCount s)) (poolFreeCount s)) } }

/-- POOL_LOW when the free count has fallen to LOW_MARK, and again only after it has risen above twice LOW_MARK (R351). -/
def noteLow (s : State) : State :=
  let mark := s.getF F.BMP_POOL_MARK_LOW_MARK
  if s.mem.lowArmed && poolFreeCount s ≤ mark then
    notify N.POOL_LOW scNoBuffer 0 (poolFreeCount s) { s with mem := { s.mem with lowArmed := false } }
  else if !s.mem.lowArmed && decide (2 * mark < poolFreeCount s) then { s with mem := { s.mem with lowArmed := true } }
  else s

/-- The first buffer from `i` on that was never allocated, within `k` buffers. -/
def unusedFrom (count : Nat) (used : Sparse Bool) : Nat → Nat → Option Nat
  | 0, _ => none
  | k + 1, i => if Sparse.get (fun _ => false) used (i % count) then unusedFrom count used k (i + 1) else some (i % count)

/-- The free buffer that has been free longest (R349): buffers that were never allocated are all free since the pool was placed, and which of them goes first is left open. -/
def longestFree (s : State) : Option Nat :=
  let count := poolCount s
  let used := (s.mem.used.filter fun e => decide (e.1 < count)).length
  if used < count then
    if used = 0 then some (Config.freeValue s.draws % count) else unusedFrom count s.mem.used count (Config.freeValue s.draws % count)
  else s.mem.freed.head?

/-- A buffer taken, with its GEN incremented and one holder (R348, R350). -/
def takeBuffer (i : Nat) (s : State) : Nat × State :=
  let g := (genOf i s + 1) % 256
  let s := s.drawn
  let s := { s with mem := { s.mem with
    gens := Sparse.set (fun _ => 0) s.mem.gens i g
    holders := Sparse.set (fun _ => 0) s.mem.holders i 1
    used := Sparse.set (fun _ => false) s.mem.used i true
    freed := s.mem.freed.erase i } }
  (g * 2 ^ 24 + i, noteLow (noteMin (s.incF (F.BMP_CNT_COUNT 0))))

/-- An allocation (R349): `any` for receptions on ALARM and CONTROL channels. -/
def poolAlloc (any : Bool) (s : State) : Option Nat × State :=
  let free := poolFreeCount s
  if free = 0 then (none, s.incF (F.BMP_CNT_COUNT 3))
  else if !any && free ≤ s.getF F.BMP_POOL_CFG_RESERVE then (none, s.incF (F.BMP_CNT_COUNT 2))
  else match longestFree s with
    | some i => let (h, s) := takeBuffer i s; (some h, s)
    | none => (none, s.incF (F.BMP_CNT_COUNT 3))

/-- One hold of a buffer given up; at none it returns to the pool (R350). -/
def poolFree (h : Nat) (s : State) : State :=
  let i := handleIndex h
  if !handleOk h s || decide (holdersOf i s = 0) then s
  else if holdersOf i s ≤ 1 then
    let s := { s with mem := { s.mem with holders := Sparse.set (fun _ => 0) s.mem.holders i 0, freed := s.mem.freed ++ [i] } }
    noteLow (s.incF (F.BMP_CNT_COUNT 1))
  else { s with mem := { s.mem with holders := Sparse.set (fun _ => 0) s.mem.holders i (holdersOf i s - 1) } }

/-- One hold given up, where there is a buffer. -/
def poolFree? (h : Option Nat) (s : State) : State := match h with | some h => poolFree h s | none => s

/-- One hold added (R350). -/
def poolHold (h : Nat) (s : State) : State :=
  let i := handleIndex h
  { s with mem := { s.mem with holders := Sparse.set (fun _ => 0) s.mem.holders i (holdersOf i s + 1) } }

end Sys2Proof.Machine
end

