-- ==== Sys2Proof/Machine/DemodOps.lean ====
section
/-! DEFINITION. The demodulator pool as part of other events: how a reception ends, releases and blanking (R189 to R195). -/

namespace Sys2Proof.Machine

/-- Reception outcomes (R193). -/
def roOk : Nat := 0
def roNoSfd : Nat := 1
def roBadPhr : Nat := 2
def roModeSwitch : Nat := 3
def roFcsFail : Nat := 4
def roBlanked : Nat := 5
def roPreempted : Nat := 6
def roNoBuffer : Nat := 7
def roDisabled : Nat := 8
def roCaptured : Nat := 9
def roNotTaken : Nat := 10

/-- The counter of RFPn_RXCNT_k of an outcome. -/
def roCounter (o : Nat) : Nat := [6, 2, 3, 4, 5, 7, 8, 10, 12, 11, 9].getD o 0

/-- Demodulator `d` of port `n`. -/
def State.demod (s : State) (n d : Nat) : Option Demod := Sparse.get (fun _ => none) s.demods (64 * n + d)

/-- Demodulator `d` of port `n` set. -/
def State.setDemod (s : State) (n d : Nat) (x : Option Demod) : State :=
  { s with demods := Sparse.set (fun _ => none) s.demods (64 * n + d) x }

/-- The busy demodulators of a port, as bits. -/
def busyBits (n lo : Nat) (s : State) : Nat :=
  ((List.range 32).filter fun d => (s.demod n (lo + d)).isSome).foldl (fun b d => b + 2 ^ d) 0

/-- Busy demodulators of a port. -/
def busyCount (n : Nat) (s : State) : Nat := ((List.range 64).filter fun d => (s.demod n d).isSome).length

/-- The pool registers of a port as its demodulators stand; PEAK keeps the highest BUSY. -/
def syncPool (n : Nat) (s : State) : State :=
  let b := busyCount n s
  let s := (s.setF (F.RFP_POOL_BUSY0_BUSY n) (busyBits n 0 s)).setF (F.RFP_POOL_BUSY1_BUSY n) (busyBits n 32 s)
  let s := s.setF (F.RFP_POOL_STATUS_BUSY n) b
  if s.getF (F.RFP_POOL_STATUS_PEAK n) < b then s.setF (F.RFP_POOL_STATUS_PEAK n) b else s

/-- Busy time of the slot in progress for occupancy (R101). -/
def addBusy (x : Demod) (s : State) : State :=
  let start := max x.claimed (s.get64 F.SLT_BOUND_LO_TICKS F.SLT_BOUND_HI_TICKS)
  { s with power := { s.power with busyTicks := s.power.busyTicks + (s.clk.slot - start) } }

/-- A demodulator releases; its buffer is freed unless the frame was handed on (R191). -/
def releaseDemod (n d : Nat) (handedOn : Bool) (s : State) : State :=
  match s.demod n d with
  | none => s
  | some x =>
    let s := syncPool n ((addBusy x s).setDemod n d none)
    match x.buffer with
    | some h => if handedOn then s else poolFree h s
    | none => s

/-- RSSI as recorded: power less the port's OFFSET, clamped to −140 and +10 dBm (R198). -/
def rssiOf (n : Nat) (x : Demod) (s : State) : Int :=
  let offset := if x.sfd.isSome then x.sfdOffset else toSigned 16 (s.getF (F.RFP_RSSI_CFG_OFFSET n))
  max (-560) (min 40 (x.power - offset))

/-- An outcome other than OK counted and recorded in RFPn_RX_LASTFAIL (R192). -/
def recordFail (n o channel mode : Nat) (rssi : Int) (s : State) : State :=
  (s.incF (F.RFP_RXCNT_COUNT n (roCounter o))).setReg (0x4011c + 32768 * n)
    (BitVec.ofNat 32 (o % 16 * 2 ^ 28 + channel % 128 * 2 ^ 20 + mode % 16 * 2 ^ 16 + ofSigned 16 rssi))

/-- A reception ends with an outcome other than OK, and its demodulator releases (R191, R192). -/
def failRx (n d o : Nat) (s : State) : State :=
  match s.demod n d with
  | none => s
  | some x => releaseDemod n d false (recordFail n o x.channel x.mode (rssiOf n x s) s)

/-- The receive path of a port is blanked: every reception ends BLANKED (R194). -/
def blankPort (n : Nat) (s : State) : State := (List.range 64).foldl (fun s d => failRx n d roBlanked s) s

/-- The channel word of a port (R181) and its parts. -/
def chanWord (n c : Nat) (s : State) : Word := s.tab 0 (0x4000 * n + 0x100 + 4 * c)
def chanClass (n c : Nat) (s : State) : Nat := bitsOf (chanWord n c s) 30 28
def chanModes (n c : Nat) (s : State) : Nat := bitsOf (chanWord n c s) 7 0

/-- Channel `c` is received on port `n`: EN, and below CH_COUNT (R187). -/
def chanOn (n c : Nat) (s : State) : Bool :=
  bitsOf (chanWord n c s) 31 31 == 1 && decide (c < s.getF (F.RFP_PHY_CFG_CH_COUNT n))

/-- SPACING in kHz (RFPn_CHAN_CFG). -/
def spacingKhz (code : Nat) : Nat := [100, 200, 400, 600, 800, 1000, 2000, 5000].getD code 100

/-- The centre frequency of a channel in kHz (R176). -/
def chanKhz (n c : Nat) (s : State) : Nat :=
  s.getF (F.RFP_CHAN_CFG_CH0_KHZ n) + c * spacingKhz (s.getF (F.RFP_CHAN_CFG_SPACING n))

/-- Notice flags of the slot in progress: bit 0 RX_NO_BUFFER and bit 1 POOL_FULL raised on a port (R192). -/
def slotFlag (n b : Nat) (s : State) : Bool := Sparse.get (fun _ => 0) s.rxFlags n / 2 ^ b % 2 == 1
def setSlotFlag (n b : Nat) (s : State) : State :=
  if slotFlag n b s then s else { s with rxFlags := Sparse.set (fun _ => 0) s.rxFlags n (Sparse.get (fun _ => 0) s.rxFlags n + 2 ^ b) }

end Sys2Proof.Machine
end

