-- ==== Sys2Proof/Machine/PairOps.lean ====
section
/-! DEFINITION. The redundant pair as part of other events: OWN_N, heartbeats' role, and the journal (R456 to R476). -/

namespace Sys2Proof.Machine

/-- PAR_STATUS.PAIR (R463). -/
def pairNone : Nat := 0
def pairAlone : Nat := 1
def pairOk : Nat := 2
def pairDegraded : Nat := 3
def State.pairState (s : State) : Nat := s.getF F.PAR_STATUS_PAIR

/-- PAR_STATUS.JOURNAL: not writing, valid, invalid. -/
def State.journal (s : State) : Nat := s.getF F.PAR_STATUS_JOURNAL

/-- This unit drives OWN_N (R456). -/
def State.drivesOwn (s : State) : Bool := s.getF F.PAR_HB_STATUS_OWN_DRIVE == 1

/-- The pair part of the state changed. -/
def State.updPair (s : State) (f : Pair → Pair) : State := { s with pair := f s.pair }

/-- OWN_N released by this unit, with its view of the line (R456, R459); in FROZEN PAR_STATUS keeps its value (R512). -/
def releaseOwnN (s : State) : State :=
  let s := (s.setF F.PAR_HB_STATUS_OWN_DRIVE 0).setF F.PAR_HB_STATUS_OWN_LINE (bit s.pair.otherHolds)
  (if s.mode = stFrozen then s else s.setF F.PAR_STATUS_CONFIRMED 0).updPair fun p => { p with unconfAt := none, unconfTx := none }

/-- A unit that held OWN_N asks its partner to take over (R464, R491). -/
def requestTakeover (s : State) : State :=
  if s.fuses.pairRoot && s.drivesOwn then s.updPair fun p => { p with request := true } else s

/-- A takeover or a claim in progress is abandoned (R493). -/
def abandonTakeover (s : State) : State := s.updPair fun p => { p with takeover := none, claimAt := none, tkoBeacon := none }

/-- Bytes of the journal ring (R468). -/
def jring : Nat := 16 * 2 ^ 20

/-- JPOS_WR, JPOS_ACK and the rewind mark (R475). -/
def State.jposWr (s : State) : Nat := s.get64 F.PAR_JPOS_WR_LO_JPOS F.PAR_JPOS_WR_HI_JPOS
def State.jposAck (s : State) : Nat := s.get64 F.PAR_JPOS_ACK_LO_JPOS F.PAR_JPOS_ACK_HI_JPOS
def State.jmark (s : State) : Nat := s.get64 F.PAR_JMARK_LO_JPOS F.PAR_JMARK_HI_JPOS

/-- A HELLO sent with a fresh nonce (R466): the nonce is a free value. -/
def sendHello (s : State) : State :=
  let n := s.draw % 2 ^ 128
  let s := s.drawn.updPair fun p => { p with nonceTx := n, fseqTx := 0, fseqRx := 0 }
  s.emit (.lane 1 0 [s.fuses.serial, bit s.pair.id, n])

/-- A sealed lane frame with the next FSEQ; a new HELLO renews the session before FSEQ reaches its end (R466). -/
def sendLane (kind : Nat) (body : List Nat) (s : State) : State :=
  let s := if s.pair.fseqTx + 1 < 0xFFFFFFFF then s else sendHello s
  let s := s.updPair fun p => { p with fseqTx := p.fseqTx + 1 }
  s.emit (.lane kind s.pair.fseqTx body)

/-- A snapshot in progress is abandoned (R471). -/
def abandonSnap (s : State) : State :=
  if s.pair.snap.isSome then
    ((s.updPair fun p => { p with snap := none }).setF F.PAR_SNAP_BUSY 0).incF (F.PAR_CNT_COUNT 7)
  else s

/-- The newest valid snapshot at the reserve: SEQ, its slot (true for B), JPOS_START (R470). -/
def newestSnap (s : State) : Option (Nat × Bool × Nat) :=
  match s.pair.slotA, s.pair.slotB with
  | none, none => none
  | some (q, j), none => some (q, false, j)
  | none, some (q, j) => some (q, true, j)
  | some (qa, ja), some (qb, jb) => if qa ≤ qb then some (qb, true, jb) else some (qa, false, ja)

/-- A snapshot starts (R471): the slot that does not hold the newest valid one, its trailer zeroed, SEQ one above the newest. -/
def startSnap (s : State) : State :=
  let (seq, b) := match newestSnap s with
    | some (q, b, _) => (q + 1, !b)
    | none => (1, false)
  let s := s.updPair fun p => { p with
    snap := some (seq, s.jposWr), snapKept := false, snapAt := s.clk.now
    slotA := if b then p.slotA else none, slotB := if b then none else p.slotB }
  let s := ((s.setF F.PAR_SNAP_BUSY 1).setF F.PAR_SNAP_SLOT (bit b)).setF F.PAR_SNAP_DONE_MIB 0
  sendLane 3 [(if b then 0x20000000 else 0x10000000) + 0xFFFFF80] s

/-- A trigger of R471: kept while a snapshot runs. Only a lead whose lane is UP writes snapshots. -/
def triggerSnap (s : State) : State :=
  if s.getF F.PAR_STATUS_LANE_UP = 0 ∨ s.mode ≠ stAutonomous ∨ s.pairState < pairOk then s
  else if s.pair.snap.isSome then s.updPair fun p => { p with snapKept := true }
  else startSnap s

/-- The journal restarts at the present position: no slot reaches further back (R475, R476). -/
def rebaseJournal (s : State) : State :=
  let at_ := s.jposWr
  (s.updPair fun p => { p with jackWait := [], slotA := p.slotA.map fun e => (e.1, at_), slotB := p.slotB.map fun e => (e.1, at_) }).set64 F.PAR_JMARK_LO_JPOS F.PAR_JMARK_HI_JPOS at_

/-- The journal becomes invalid (R476): the snapshot is abandoned, the notice raised, and with the lane UP a full snapshot started, at whose JPOS_START the journal restarts. -/
def invalidateJournal (why : Nat) (s : State) : State :=
  let s := rebaseJournal (abandonSnap (s.setF F.PAR_STATUS_JOURNAL 2))
  let s := notify N.JOURNAL_INVALID scOk 0 why (s.incF (F.PAR_CNT_COUNT 9))
  if why = 1 then s else triggerSnap s

/-- Records may be written: the pair state is OK or DEGRADED with the lane UP, and the journal is valid or restarting (R472). -/
def journalOn (s : State) : Bool :=
  s.fuses.pairRoot && s.mode == stAutonomous && decide (pairOk ≤ s.pairState) && s.getF F.PAR_STATUS_LANE_UP == 1
    && (s.journal == 1 || s.pair.snap.isSome)

/-- One record of `n` bytes written at JPOS, after padding at the ring's end; none once the rewind mark would be passed (R472, R475, R476). -/
def journalRec (body : List Nat) (n : Nat) (s : State) : State :=
  if !journalOn s then s
  else
    let at_ := s.jposWr
    let pad := if jring < at_ % jring + n then jring - at_ % jring else 0
    let end_ := at_ + pad + n
    if s.jmark + jring < end_ then invalidateJournal 0 s
    else
      let s := if pad = 0 then s else sendLane 3 [0x30000000 + at_ % jring, 0x0F, pad] s
      let s := sendLane 3 ((0x30000000 + (at_ + pad) % jring) :: body) s
      let s := (s.set64 F.PAR_JPOS_WR_LO_JPOS F.PAR_JPOS_WR_HI_JPOS end_).incF (F.PAR_CNT_COUNT 8)
      let s := s.updPair fun p => { p with jackWait := p.jackWait ++ [(end_, s.clk.now)] }
      if s.getF F.PAR_CFG_JTRIG_MIB * 2 ^ 20 ≤ end_ - ((newestSnap s).map (·.2.2)).getD s.jmark then triggerSnap s else s

/-- A BLOB record for every blob that a write of `n` bytes from `a` touches, as it stands after the write (R472). -/
def journalBlobs (a n : Nat) (s : State) : State :=
  if !overlaps a n (blobBase s) (80 * 2 ^ 20) then s
  else
    let lo := (a - blobBase s) / 80
    let hi := min ((a + n - 1 - blobBase s) / 80) (2 ^ 20 - 1)
    (List.range (hi + 1 - lo)).foldl (fun s k => journalRec (5 :: (lo + k) :: (s.bytes (blobBase s + 80 * (lo + k)) 80).map (·.toNat)) 96 s) s

/-- Bytes written to device DRAM by a master or an engine on its behalf, journalled where they lie in the blob area (R472). -/
def writeDram (a : Nat) (b : List Byte) (s : State) : State := journalBlobs a b.length (s.setBytes a b)

/-- The position that an action on the change just journalled waits for; none while the journal is not valid (R474). -/
def waitFor (s : State) : Option Nat := if s.journal = 1 && journalOn s then some s.jposWr else none

/-- A JACK covers the position, or nothing waits any longer (R474). -/
def covered (pos : Option Nat) (s : State) : Bool :=
  match pos with
  | none => true
  | some p => p ≤ s.jposAck || s.journal != 1 || s.getF F.PAR_STATUS_LANE_UP == 0

end Sys2Proof.Machine
end

