-- ==== Sys2Proof/Machine/JobOps.lean ====
section
/-! DEFINITION. The job fabric and its trace as parts of other events (R306 to R331). -/

namespace Sys2Proof.Machine

/-- Engine classes (R27). -/
def ecRXA : Nat := 0
def ecTXL : Nat := 1
def ecCPH : Nat := 2
def ecCAT : Nat := 3
def ecKLD : Nat := 4
def ecSHP : Nat := 6
def ecHDM : Nat := 8
def ecMDM : Nat := 9
def ecBHL : Nat := 10
def ecSLT : Nat := 11
def ecMNT : Nat := 15

/-- Job states (R307). -/
def jsReady : Nat := 1
def jsRunning : Nat := 2
def jsSuspended : Nat := 3
def jsFaulted : Nat := 4
def jsComplete : Nat := 5

/-- Units of a class, its limit of suspended jobs (0 for a class without pre-emption point), and its longest run in ns (R314). -/
def unitCount (c : Nat) : Nat := [4, 4, 1, 2, 2, 2, 1, 1, 4, 2, 2, 1, 1, 1, 1, 1].getD c 1
def suspendLimit (c : Nat) : Nat := [0, 0, 4, 64, 0, 64, 0, 0, 64, 64, 0, 0, 64, 0, 0, 64].getD c 0
def longestRun (c : Nat) : Nat := [200, 300, 1000, 1600, 4000, 1000, 500, 1000, 1000, 200, 1000, 2000, 200, 100, 200, 2000].getD c 0

/-- A job in flight by ID. -/
def State.job (s : State) (i : Nat) : Option Job := Sparse.get (fun _ => none) s.fab.jobs i

/-- A job set, or its ID freed. -/
def State.setJob (s : State) (i : Nat) (j : Option Job) : State :=
  { s with fab := { s.fab with jobs := Sparse.set (fun _ => none) s.fab.jobs i j } }

/-- The jobs in flight. -/
def State.inFlight (s : State) : List (Nat × Job) := s.fab.jobs.filterMap fun e => e.2.map fun j => (e.1, j)

/-- A ready list (R312). -/
def State.readyList (s : State) (c p : Nat) : List Nat := Sparse.get (fun _ => []) s.fab.ready (64 * c + p)
def State.setReady (s : State) (c p : Nat) (l : List Nat) : State :=
  { s with fab := { s.fab with ready := Sparse.set (fun _ => []) s.fab.ready (64 * c + p) l } }

/-- The most urgent non-empty priority of a class (R313). -/
def topPrio (c : Nat) (s : State) : Option Nat := (List.range 64).find? fun p => !(s.readyList c p).isEmpty

/-- READY jobs of a class. -/
def readyDepth (c : Nat) (s : State) : Nat := ((List.range 64).map fun p => (s.readyList c p).length).sum

/-- The 16 bytes of a trace record (R326). -/
def traceBytes (stamp cls id prio event arg : Nat) : List Byte :=
  leBytes 5 (stamp % 2 ^ 40) ++ leBytes 2 (cls % 16 * 4096 + id % 4096) ++ [BitVec.ofNat 8 (prio % 64), BitVec.ofNat 8 event]
    ++ leBytes 2 (min arg 65535) ++ leBytes 5 0

/-- The trace ring's size, and room in it (R329). -/
def traceSize (s : State) : Nat := 2 ^ s.getF F.TRC_RING_CTRL_LOG2N
def traceRoom (s : State) : Nat :=
  traceSize s - (s.getF F.TRC_RING_WR_COUNT + 2 ^ 32 - s.getF F.TRC_RING_RD_COUNT) % 2 ^ 32

/-- A record put into the ring at WR mod 2^N. -/
def tracePut (bs : List Byte) (s : State) : State :=
  let n := traceSize s
  let base := s.getF F.TRC_RING_BASE_BASE / (16 * n) * (16 * n)
  (s.setBytes (base + 16 * (s.getF F.TRC_RING_WR_COUNT % n)) bs).incF F.TRC_RING_WR_COUNT

/-- A record that passes the ring's mask: written, after the LOST record that is owed, or lost (R330). -/
def traceRing (bs : List Byte) (s : State) : State :=
  let owed := decide (0 < s.fab.trcLost)
  if traceRoom s < (if owed then 2 else 1) then
    let s := s.satF F.TRC_LOST_LOST 1
    { s with fab := { s.fab with trcLost := min (s.fab.trcLost + 1) 65535 } }
  else
    let s := if owed then tracePut (traceBytes s.clk.stamp 0 0 0 0xF0 s.fab.trcLost) s else s
    tracePut bs { s with fab := { s.fab with trcLost := 0 } }

/-- Ticks that a record takes on the trace port: 17 TRC_CLK cycles (R331). -/
def portRecord (s : State) : Nat := [34, 68, 136].getD (s.getF F.TRC_PORT_CTRL_DIV) 34

/-- Room for `n` records in the port's FIFO of 256 (R331). -/
def portRoom (n : Nat) (s : State) : Bool := (max s.fab.portBusy s.clk.now - s.clk.now) + n * portRecord s ≤ 256 * portRecord s

/-- A record that passes the port's mask: sent, after the LOST record that is owed, or lost (R330, R331). -/
def tracePort (bs : List Byte) (s : State) : State :=
  let n := if 0 < s.fab.portLost then 2 else 1
  if !portRoom n s then
    let s := s.satF F.TRC_PORT_LOST_LOST 1
    { s with fab := { s.fab with portLost := min (s.fab.portLost + 1) 65535 } }
  else
    let s := if n = 2 then s.emit (.trace (traceBytes s.clk.stamp 0 0 0 0xF0 s.fab.portLost)) else s
    { s with fab := { s.fab with portLost := 0, portBusy := max s.fab.portBusy s.clk.now + n * portRecord s } }.emit (.trace bs)

/-- A trace record of a decision or change of state (R326, R329, R331). -/
def trace (cls id prio event arg : Nat) (s : State) : State :=
  let bs := traceBytes s.clk.stamp cls id prio event arg
  let mark := decide (0xF0 ≤ event)
  let s := if s.getF F.TRC_RING_CTRL_EN = 1 ∧ (mark ∨ s.getF F.TRC_RING_CTRL_CLASS_MASK / 2 ^ cls % 2 = 1) then traceRing bs s else s
  if s.getF F.TRC_PORT_CTRL_EN = 1 ∧ (mark ∨ s.getF F.TRC_PORT_CTRL_CLASS_MASK / 2 ^ cls % 2 = 1) then tracePort bs s else s

/-- The priority of a job on the path of a frame of a service class, and of any other job of an engine class (R310). -/
def svcPrio (svc : Nat) (s : State) : Nat := bitsOf (s.reg (0x100008 + 4 * (svc / 4 % 2))) (8 * (svc % 4) + 5) (8 * (svc % 4))
def engPrio (c : Nat) (s : State) : Nat := bitsOf (s.reg (0x100010 + 4 * (c / 4 % 4))) (8 * (c % 4) + 5) (8 * (c % 4))

/-- A job as its creator makes it. -/
def newJob (cls prio creator buf0 buf1 : Nat) (args : List Byte) (w : Work) : Job :=
  ⟨cls, prio, jsReady, creator, none, false, false, buf0, buf1, args, 0, 0, [], [], 0, 0, 0, false, none, w, [], none, 0, 0, none, 0, none, []⟩

/-- The job that a reception hands on: RXA, at the priority of the channel's CLASS in the receive record (R196, R310). -/
def rxaJob (h : Nat) (s : State) : Job :=
  newJob ecRXA (svcPrio (s.leAt (recordAddr h s + 27) 1) s) 0 h noHandle (List.replicate 16 0) (.rxa h)

/-- The lowest free job ID (R306). -/
def freeId (s : State) : Option Nat := (List.range 4096).find? fun i => (s.job i).isNone

/-- JOB_STATUS as the jobs stand. -/
def syncJobs (s : State) : State :=
  (s.setF F.JOB_STATUS_INFLIGHT s.inFlight.length).setF F.JOB_STATUS_FAULTED ((s.inFlight.filter fun e => e.2.state == jsFaulted).length)

/-- JOB_READYc as its lists stand. -/
def syncReady (c : Nat) (s : State) : State :=
  match topPrio c s with
  | some p => s.setReg (0x100200 + 4 * c) (BitVec.ofNat 32 (readyDepth c s * 2 ^ 16 + p))
  | none => s.setReg (0x100200 + 4 * c) 0x80000000#32

/-- The job enters the tail of its ready list (R312). -/
def makeReady (i : Nat) (j : Job) (s : State) : State :=
  let l := s.readyList j.cls j.prio ++ [i]
  let s := (s.setJob i (some { j with state := jsReady })).setReady j.cls j.prio l
  trace j.cls i j.prio 3 l.length (syncJobs (syncReady j.cls s))

/-- A job created with an ID (R306, R327). -/
def createWith (i : Nat) (j : Job) (s : State) : State :=
  makeReady i j (trace j.cls i j.prio 1 j.creator (s.incF (F.JOB_CNT_COUNT 0)))

/-- JOB_FULL at most once per second (R308). -/
def noteFull (cls : Nat) (s : State) : State :=
  if !aSecondPast s.fab.fullAt s then s
  else notify N.JOB_FULL scNoBuffer 0 cls { s with fab := { s.fab with fullAt := some s.clk.slot } }

/-- An engine creates a job: with the lowest free ID, or its creator waits (R306, R308). -/
def createJob (mk : State → Job) (s : State) : State :=
  let j := mk s
  match freeId s with
  | some i => createWith i j s
  | none =>
    let s := { s with fab := { s.fab with waiting := s.fab.waiting ++ [j] } }
    noteFull (j.creator / 4096) (s.incF (F.JOB_CNT_COUNT 10))

/-- A job's ID freed; the creator that has waited longest takes it (R308, R325). -/
def freeJob (i : Nat) (s : State) : State :=
  let s := syncJobs (s.setJob i none)
  match s.fab.waiting with
  | j :: r => createWith i j { s with fab := { s.fab with waiting := r } }
  | [] => s

/-- The job leaves its ready list. -/
def leaveReady (i : Nat) (j : Job) (s : State) : State :=
  syncReady j.cls (s.setReady j.cls j.prio ((s.readyList j.cls j.prio).filter fun k => k != i))

/-- Units of a class that hold a RUNNING job, and the lowest free one (R313). -/
def runningOf (c : Nat) (s : State) : List (Nat × Job) := s.inFlight.filter fun e => e.2.cls == c && e.2.state == jsRunning
def freeUnit (c : Nat) (s : State) : Option Nat :=
  (List.range (unitCount c)).find? fun u => !((runningOf c s).any fun e => e.2.unit == u)

/-- Suspended jobs of a class. -/
def suspendedOf (c : Nat) (s : State) : Nat := (s.inFlight.filter fun e => e.2.cls == c && e.2.state == jsSuspended).length

/-- The victim of a class: the least urgent running job, among several the one dispatched latest (R316). -/
def victimOf (c : Nat) (s : State) : Option Nat :=
  ((runningOf c s).foldl (fun (b : Option (Nat × Job)) e => match b with
    | none => some e
    | some v => if v.2.prio < e.2.prio || (v.2.prio == e.2.prio && v.2.stamp < e.2.stamp) then some e else some v) none).map (·.1)

/-- A job's descriptor as the device writes it (R309). -/
def descriptor (i : Nat) (j : Job) : List Byte :=
  leBytes 4 (j.state % 16 * 2 ^ 24 + bit j.resumed * 2 ^ 18 + bit j.submitted.isSome * 2 ^ 17 + bit j.notify * 2 ^ 16 + j.prio % 64 * 16 + j.cls % 16)
    ++ leBytes 4 i ++ leBytes 4 j.buf0 ++ leBytes 4 j.buf1 ++ (j.args ++ List.replicate 16 0).take 16
    ++ [BitVec.ofNat 8 j.status, BitVec.ofNat 8 j.detail, 0, 0] ++ (j.result ++ List.replicate 12 0).take 12
    ++ (j.context ++ List.replicate 12 0).take 12 ++ [0, 0] ++ leBytes 2 j.preempts

/-- The counter of JOB_CNT_k that a completion counts in (R324). -/
def completionCounter (status : Nat) : Nat := if status = scOk then 2 else if status = scCancelled then 4 else 3

/-- A job completes: STATUS, DETAIL and RESULT written, its pins dropped, the record COMPLETE or CANCEL (R321, R324, R327). -/
def completeJob (i : Nat) (j : Job) (status detail : Nat) (result : List Byte) (s : State) : State :=
  let cancelled := status == scCancelled
  let j' := { j with state := jsComplete, status := status, detail := detail, result := result, pins := [], cancel := none,
                     context := if cancelled then [] else j.context, hold := none }
  let s := syncJobs ((s.setJob i (some j')).incF (F.JOB_CNT_COUNT (completionCounter status)))
  if cancelled then trace j.cls i j.prio 4 (j.cancel.getD 0 * 2 ^ 14 + 1) s else trace j.cls i j.prio 5 status s

/-- A job parks at a fault: FAULTED, its unit free, its pins dropped (R319); a submitted job is written back. -/
def parkJob (i : Nat) (j : Job) (status detail : Nat) (context : List Byte) (s : State) : State :=
  let j' := { j with state := jsFaulted, status := status, detail := detail, context := context, pins := [], saved := true }
  let s := syncJobs ((s.setJob i (some j')).incF (F.JOB_CNT_COUNT 6))
  let s := trace j.cls i j.prio 6 status s
  let s := match j.submitted with
    | some (_, a) => writeDram a (descriptor i j') s
    | none => s
  notify N.JOB_FAULT status 0 (j.cls * 4096 + i) s

/-- Every job is gone without a completion, as on entry to HIBERNATE (R108, R321). -/
def cancelAllJobs (s : State) : State :=
  let s := { s with fab := { s.fab with jobs := [], ready := [], waiting := [] } }
  syncJobs ((List.range 16).foldl (fun s c => syncReady c s) s)

/-- The descriptor of job `c` as the vitrine shows it (R516). -/
def jobImage (c : Nat) (s : State) : List Byte :=
  match s.job c with
  | some j => descriptor c j
  | none => List.replicate 64 0

end Sys2Proof.Machine
end

