-- ==== Sys2Proof/Machine/CatOps.lean ====
section
/-! DEFINITION. The catalogue, its cache and the energy ledger as parts of other events (R266 to R286), with the schedules that entries hold (R211 to R213). -/

namespace Sys2Proof.Machine

/-- A little-endian field of an entry image, and the image with it changed (R270). -/
def entNat (e : List Byte) (off n : Nat) : Nat := ofLe ((e.drop off).take n)
def entPut (e : List Byte) (off n v : Nat) : List Byte := e.take off ++ leBytes n v ++ e.drop (off + n)

/-- Bits of a byte of an entry image, and the image with them changed. -/
def entBits (e : List Byte) (off hi lo : Nat) : Nat := entNat e off 1 / 2 ^ lo % 2 ^ (hi + 1 - lo)
def entPutBits (e : List Byte) (off hi lo v : Nat) : List Byte :=
  let b := entNat e off 1
  entPut e off 1 (b - entBits e off hi lo * 2 ^ lo + v % 2 ^ (hi + 1 - lo) * 2 ^ lo)

/-- Fields of an entry (R270). -/
def entValid (e : List Byte) : Bool := entBits e 10 7 7 == 1
def entFaulty (e : List Byte) : Bool := entBits e 10 5 5 == 1
def entAssoc (e : List Byte) : Nat := entBits e 32 1 0
def entRsync (e : List Byte) : Nat := entBits e 22 1 0
def entHome (e : List Byte) : Nat := entBits e 33 3 0
def entSeen (e : List Byte) : Bool := entBits e 23 0 0 == 1
def entProfile (e : List Byte) : Nat := entBits e 11 3 0
def entOutFc (e : List Byte) : Nat := entNat e 24 4
def entLastFc (e : List Byte) : Nat := entNat e 16 4

/-- Association states (R221). -/
def asNone : Nat := 0
def asPending : Nat := 1
def asActive : Nat := 2
def asUncertain : Nat := 3

/-- An entry's address in DRAM (R266). -/
def entAddr (nix : Nat) (s : State) : Nat := catBase s + 512 * nix

/-- The cache line of a node, and an entry as the catalogue engine sees it (R271, R272). -/
def State.line (s : State) (nix : Nat) : Option CacheLine := Sparse.get (fun _ => none) s.cat.cache nix
def State.entry (s : State) (nix : Nat) : List Byte :=
  match s.line nix with
  | some l => l.bytes
  | none => s.bytes (entAddr nix s) 512

/-- The catalogue part of the state changed. -/
def State.updCat (s : State) (f : Catalogue → Catalogue) : State := { s with cat := f s.cat }
def State.setLine (s : State) (nix : Nat) (l : Option CacheLine) : State :=
  s.updCat fun c => { c with cache := Sparse.set (fun _ => none) c.cache nix l, tick := c.tick + 1 }

/-- The node that a job's work concerns, whose entry it pins (R272). -/
def useNode (u : KeyUse) (s : State) : Option Nat :=
  match u with
  | .openAcc a => (Sparse.get (fun _ => none) s.xch.accs a).map (·.nix)
  | .sealAck a => (Sparse.get (fun _ => none) s.xch.accs a).map (·.nix)
  | .sealDl d => (Sparse.get (fun _ => none) s.xch.dls d).map (·.nix)
def workNode (w : Work) (s : State) : Option Nat :=
  match w with
  | .kld n _ => some n
  | .build u => useNode u s
  | .cipher u => useNode u s
  | _ => none

/-- Jobs that pin an entry, from the dispatch of the first until the last completes (R272, R319). -/
def entPins (nix : Nat) (s : State) : Nat :=
  (s.inFlight.filter fun e => (e.2.state == jsRunning || e.2.state == jsSuspended || e.2.state == jsComplete) && workNode e.2.work s == some nix).length

/-- A cache line written back to DRAM as whole words (R272, R273). -/
def writeBack (nix : Nat) (s : State) : State :=
  match s.line nix with
  | some l =>
    if l.dirty.isSome then
      ((s.setBytes (entAddr nix s) l.bytes).setLine nix (some { l with dirty := none })).incF (F.CAT_CNT_COUNT 2)
    else s
  | none => s

/-- The least recently used unpinned line leaves a full cache (R272). -/
def evictLine (s : State) : State :=
  if s.cat.cache.length < 4096 then s
  else
    let free := s.cat.cache.filterMap fun e => match e.2 with
      | some l => if entPins e.1 s = 0 then some (e.1, l.lastUse) else none
      | none => none
    match free.foldl (fun (b : Option (Nat × Nat)) e => match b with
        | none => some e
        | some v => if e.2 < v.2 then some e else some v) none with
    | some (nix, _) => (writeBack nix s).setLine nix none
    | none => s

/-- The entry brought into the cache, counted as a hit or a miss; a fetch that meets an uncorrectable error makes it FAULTY (R272, R273). -/
def fetchEntry (nix : Nat) (s : State) : State :=
  match s.line nix with
  | some l => (s.setLine nix (some { l with lastUse := s.cat.tick })).incF (F.CAT_CNT_COUNT 0)
  | none =>
    let s := evictLine (s.incF (F.CAT_CNT_COUNT 1))
    withRead (entAddr nix s) 512 s (good := fun bs s => s.setLine nix (some ⟨bs, none, s.cat.tick⟩)) fun _ s =>
      let s := s.setLine nix (some ⟨entPutBits (s.bytes (entAddr nix s) 512) 10 5 5 1, some s.clk.slot, s.cat.tick⟩)
      notify N.CAT_ECC scFaultEcc 0 nix (s.incF (F.CAT_CNT_COUNT 4))

/-- A number in a rising list, and out of it. -/
def insertNat (n : Nat) : List Nat → List Nat
  | [] => [n]
  | a :: r => if n < a then n :: a :: r else if n = a then a :: r else a :: insertNat n r

/-- CAT_STATUS.VALID, CAT_RSYNC_COUNT and ASC_COUNT after an entry changed from `a` to `b`, and the node index. -/
def recount (nix : Nat) (a b : List Byte) (s : State) : State :=
  let s := s.updCat fun c => { c with valid := if entValid b then insertNat nix c.valid else c.valid.erase nix }
  let s := s.setF F.CAT_STATUS_VALID s.cat.valid.length
  let s := s.setF F.CAT_RSYNC_COUNT_COUNT (s.getF F.CAT_RSYNC_COUNT_COUNT + bit (entRsync b != 0) - bit (entRsync a != 0))
  s.setF F.ASC_COUNT_ACTIVE (s.getF F.ASC_COUNT_ACTIVE + bit (decide (2 ≤ entAssoc b)) - bit (decide (2 ≤ entAssoc a)))

/-- An entry changed in the cache (R272). -/
def setEntry (nix : Nat) (b : List Byte) (s : State) : State :=
  let a := s.entry nix
  let dirty := match s.line nix with
    | some l => some (l.dirty.getD s.clk.slot)
    | none => some s.clk.slot
  recount nix a b (s.setLine nix (some ⟨b, dirty, s.cat.tick⟩))

/-- An entry changed, with its journal record (R472). -/
def putEntry (nix : Nat) (b : List Byte) (s : State) : State :=
  journalRec (2 :: nix :: b.map (·.toNat)) 528 (setEntry nix b s)

/-- A CTR record for a node (R472, R473). -/
def journalCtr (nix : Nat) (s : State) : State :=
  let e := s.entry nix
  journalRec [1, bit (entSeen e) * 128, entNat e 20 2, nix, entLastFc e, entOutFc e] 16 s

/-- The address group of a port, and of an entry (R267). -/
def groupOf (n : Nat) (s : State) : Nat := bitsOf (s.reg 0xe0004) (2 * n + 1) (2 * n)
def entGroup (e : List Byte) (s : State) : Nat := groupOf (entHome e) s

/-- Resolution by extended and by short address among VALID entries (R268, R269). -/
def byEui (eui : Nat) (s : State) : Option Nat := s.cat.valid.find? fun n => entNat (s.entry n) 0 8 == eui
def byShort (short g : Nat) (s : State) : Option Nat :=
  s.cat.valid.find? fun n => entNat (s.entry n) 8 2 == short && entGroup (s.entry n) s == g

/-- Fields of a node profile, and the weights (R280). -/
def profWord (p off : Nat) (s : State) : Nat := (s.tab 3 (64 * p + off)).toNat
def profEn (p : Nat) (s : State) : Bool := decide (2 ^ 31 ≤ profWord p 0 s)
def profPre (p : Nat) (s : State) : Nat := profWord p 0 s / 65536 % 256
def profGuard (p : Nat) (s : State) : Nat := profWord p 0 s % 65536
def profTx (p : Nat) (s : State) : Nat := profWord p 4 s % 2 ^ 20
def profRx (p : Nat) (s : State) : Nat := profWord p 8 s % 2 ^ 20
def profWake (p : Nat) (s : State) : Nat := profWord p 12 s % 65536
def profAllow (p : Nat) (s : State) : Nat := profWord p 16 s
def weight (off : Nat) (s : State) : Nat := (s.tab 3 off).toNat % 65536

/-- The current slot clock hour (R282). -/
def hourNow (s : State) : Nat := s.clk.slot / 720000000000

/-- STRAIN of an entry as its RECENT stands (R282). -/
def strainOf (e : List Byte) (s : State) : Nat :=
  let allow := profAllow (entProfile e) s
  if allow = 0 then 65535 else min 65535 (entNat e 156 4 * 1024 / allow)

/-- The decay of RECENT (R282). -/
def decayed (e : List Byte) (s : State) : List Byte :=
  let half := weight 0x414 s
  let k := (hourNow s - entNat e 160 4) / max half 1
  let recent := if 32 ≤ k then 0 else entNat e 156 4 / 2 ^ k
  entPut (entPut e 156 4 recent) 160 4 (entNat e 160 4 + k * half)

/-- STRAIN written, with NRG_STATUS.PEAK_STRAIN. -/
def withStrain (nix : Nat) (e : List Byte) (s : State) : State :=
  let st := strainOf e s
  let s := setEntry nix (entPut e 164 2 st) s
  if s.getF F.NRG_STATUS_PEAK_STRAIN < st then s.setF F.NRG_STATUS_PEAK_STRAIN st else s

/-- The ledger read: RECENT decayed, STRAIN recomputed, both written back (R282). -/
def readLedger (nix : Nat) (s : State) : Nat × State :=
  let s := withStrain nix (decayed (s.entry nix) s) s
  (entNat (s.entry nix) 164 2, s)

/-- A charge of `nc` nC (R282). -/
def charge (nix nc : Nat) (s : State) : State :=
  let e := decayed (s.entry nix) s
  let e := entPut e 148 5 (min (entNat e 148 5 + nc) (2 ^ 40 - 1))
  let e := entPut e 156 4 (min (entNat e 156 4 + nc) (2 ^ 32 - 1))
  withStrain nix e (s.incF (F.NRG_CNT_COUNT 0))

/-- I × T / 1,000 with I in µA and T in slot clock ticks, to the nearest nC with ties up (R281). -/
def itCharge (i t : Nat) : Nat := (2 * i * t + 200000) / 400000

/-- T_up in ticks: the preamble and SFD at the uncoded rate of the mode, plus END_DELTA (R281). -/
def upTime (nix mode delta : Nat) (s : State) : Nat :=
  let p := entProfile (s.entry nix)
  let rate := [50, 100, 150, 200, 300, 200, 400, 250].getD mode 100
  (profPre p s + 2) * 8 * 200000 / rate + delta

/-- Airtime in ticks of a PPDU of the device: preamble, SFD and PHR, then the PSDU, twice as long when coded (R178, R179). -/
def airtime (mode : Nat) (coded : Bool) (pre psdu : Nat) : Nat :=
  let rate := [50, 100, 150, 200, 300, 200, 400, 250].getD mode 100
  let octets := if mode = 7 then 4 + 1 + 1 + psdu else pre + 2 + (2 + psdu) * (if coded then 2 else 1)
  octets * 8 * 200000 / rate

/-- The setting of a launch to a node on port `n`, and whether BOOST raised it (R284): the ledger is read as the command is built. -/
def settingOf (n nix : Nat) (s : State) : (Option Int × Bool) × State :=
  let tx := entNat (s.entry nix) 45 1
  let (st, s) := readLedger nix s
  if tx = 0x80 then ((none, false), s)
  else if tx = 0x81 then
    if (s.tab 3 0x40C).toNat / 65536 ≤ st then
      let d := toSigned 8 (s.getF (F.RFP_TXPWR_DEFAULT n))
      let b := (s.tab 3 0x40C).toNat % 64
      ((some (d + (b : Nat)), decide (0 < b)), s)
    else ((none, false), s)
  else ((some (toSigned 8 tx), false), s)

/-- A schedule block: SFID, SF_LEN, COUNT, entries (R210, R211). -/
def blkSgen (b : List Byte) : Nat := entBits b 0 7 4
def blkSfid (b : List Byte) : Nat := entBits b 0 2 0
def blkLen (b : List Byte) : Nat := entNat b 1 2
def blkCount (b : List Byte) : Nat := entNat b 3 1
def blkEntry (b : List Byte) (i : Nat) : Nat := entNat b (4 + 4 * i) 4
def seKind (e : Nat) : Nat := e / 2 ^ 30 % 4
def seOffset (e : Nat) : Nat := e / 65536 % 2 ^ 14
def seLength (e : Nat) : Nat := e / 256 % 256
def seHop (e : Nat) : Nat := e % 128

/-- The schedule in force of an entry, and one built into it (R270). -/
def entSched (e : List Byte) : List Byte := (e.drop 104).take 36

/-- Whether a schedule entry is well formed for a slotframe of LEN slots (R210). -/
def schedEntryOk (len e : Nat) : Bool :=
  decide (seKind e < 3) && decide (seOffset e < len) && decide (1 ≤ seLength e) && decide (seLength e ≤ len) && e / 128 % 2 == 0
    && (if seKind e = 0 then seHop e == 0 else decide (1 ≤ seHop e))

/-- SLOTFRAME k: EN and LEN (R208). -/
def sfEn (k : Nat) (s : State) : Bool := decide (2 ^ 31 ≤ (s.tab 1 (4 * k)).toNat)
def sfLen (k : Nat) (s : State) : Nat := (s.tab 1 (4 * k)).toNat % 65536

/-- A schedule block keeps R210 and R211 against the slotframes in effect. -/
def blockOk (b : List Byte) (s : State) : Bool :=
  entBits b 0 3 3 == 0 && sfEn (blkSfid b) s && blkLen b == sfLen (blkSfid b) s && decide (1 ≤ blkCount b) && decide (blkCount b ≤ 8)
    && decide (4 + 4 * blkCount b ≤ b.length) && (List.range (blkCount b)).all fun i => schedEntryOk (blkLen b) (blkEntry b i)

/-- Window entries of a kind that hold slot SEN `sen` (R212). -/
def windowsAt (b : List Byte) (kind sen : Nat) : List Nat :=
  ((List.range (blkCount b)).map (blkEntry b)).filter fun e =>
    seKind e == kind && decide (0 < blkLen b) && decide ((sen % blkLen b + blkLen b - seOffset e) % blkLen b < seLength e)

/-- `sen` is the last slot of the window. -/
def lastOfWindow (b : List Byte) (e sen : Nat) : Bool := (sen % blkLen b + blkLen b - seOffset e) % blkLen b + 1 == seLength e

/-- EVENT of an association at slot `sen` (R213). -/
def eventAt (e : List Byte) (sen : Nat) : Nat :=
  let len := max (blkLen (entSched e)) 1
  (sen / len + 65536 - entNat e 40 5 / len % 65536) % 65536

/-- Channels of a 128-bit map, rising. -/
def mapChannels (m : List Byte) : List Nat := (List.range 128).filter fun c => (m.getD (c / 8) 0).toNat / 2 ^ (c % 8) % 2 == 1

/-- The channel on which a node listens in a window's slot (R212). -/
def windowChannel (e : List Byte) (w sen : Nat) : Option Nat :=
  let cs := mapChannels ((e.drop 52).take 16)
  let len := max (blkLen (entSched e)) 1
  if cs.isEmpty then none else cs[(eventAt e sen * seHop w + sen % len) % cs.length]?

/-- The node declared RELAY and its schedule has a RELAY window (R259, R285). -/
def canRelay (e : List Byte) : Bool :=
  entBits e 10 4 4 == 1 && (List.range (blkCount (entSched e))).any fun i => seKind (blkEntry (entSched e) i) == 2

/-- NRG_STATUS.ROSTER as the roster stands. -/
def syncRoster (s : State) : State := s.setF F.NRG_STATUS_ROSTER s.cat.roster.length

/-- An ACTIVE node that qualifies joins the roster, or is left out of a full one (R285). -/
def joinRoster (nix : Nat) (s : State) : State :=
  if !canRelay (s.entry nix) || s.cat.roster.contains nix then s
  else if s.cat.roster.length < 4096 then syncRoster (s.updCat fun c => { c with roster := c.roster ++ [nix] })
  else
    let s := s.incF (F.CAT_CNT_COUNT 9)
    if !aSecondPast s.cat.rosterFullAt s then s
    else notify N.ROSTER_FULL scOk 0 nix (s.updCat fun c => { c with rosterFullAt := some s.clk.slot })

/-- A node that no longer qualifies leaves it. -/
def leaveRoster (nix : Nat) (s : State) : State := syncRoster (s.updCat fun c => { c with roster := c.roster.erase nix })

/-- Chunk `i` of cache line `j` as the vitrine shows it (R517). -/
def cacheChunk (j i : Nat) (s : State) : List Word :=
  match s.cat.cache[j]? with
  | some (nix, some l) =>
    if i = 0 then
      let rank := (s.cat.cache.filter fun e => match e.2 with | some m => decide (l.lastUse < m.lastUse) | none => false).length
      [BitVec.ofNat 32 (2 ^ 31 + bit l.dirty.isSome * 2 ^ 30 + nix), BitVec.ofNat 32 (entPins nix s), BitVec.ofNat 32 rank] ++ List.replicate 13 0
    else (List.range 16).map fun k => BitVec.ofNat 32 (entNat l.bytes (64 * (i - 1) + 4 * k) 4)
  | _ => List.replicate 16 0

/-- A node's counters have ended (R244): its LAST_FC has reached 0xFFFFFFFF, or its outbound counter has used that value. -/
def countersEnded (nix : Nat) (s : State) : Bool :=
  (entSeen (s.entry nix) && entLastFc (s.entry nix) == 0xFFFFFFFF) || Sparse.get (fun _ => 0) s.xch.counterEnd nix / 2 % 2 == 1

/-- Acks, downlinks and relay copies to the node are refused with DENIED (R244, R273). -/
def sendRefused (nix : Nat) (s : State) : Bool := countersEnded nix s || entFaulty (s.entry nix)

end Sys2Proof.Machine
end

