-- ==== Sys2Proof/Machine/ShpOps.lean ====
section
/-! DEFINITION. Queues, virtual time and entry of the traffic shaper (R288 to R301). -/

namespace Sys2Proof.Machine

/-- The shaper part of the state changed. -/
def State.updShp (s : State) (f : Shaper → Shaper) : State := { s with shp := f s.shp }

/-- Class parameters of a port (R304). -/
def clsWord (p c k : Nat) (s : State) : Nat := (s.tab 4 (16 * (8 * p + c) + 4 * k)).toNat
def clsStrict (p c : Nat) (s : State) : Bool := decide (2 ^ 31 ≤ clsWord p c 0 s)
def clsWeight (p c : Nat) (s : State) : Nat := clsWord p c 0 s % 65536
def clsLimit (p c : Nat) (s : State) : Nat := clsWord p c 1 s % 2 ^ 18

/-- The subscriber word of a node and of a group (R304). -/
def nodeWord (nix : Nat) (s : State) : Nat :=
  (if nix < 65536 then s.tab 4 (0x40000 + 4 * nix) else s.tab 4 (0x80000 + 4 * (nix - 65536))).toNat
def nodeGroup (nix : Nat) (s : State) : Nat := nodeWord nix s / 2 ^ 22
def subMode (p : Nat) (s : State) : Bool := s.getF (F.SHP_PORT_SUB_MODE p) == 1
def subWeight (p sub : Nat) (s : State) : Nat :=
  if subMode p s then (s.tab 4 (0xC0000 + 4 * sub)).toNat % 65536 else nodeWord sub s % 65536

/-- The subscriber of a frame of node `nix` on a port (R289, R291). -/
def subOf (p nix : Nat) (s : State) : Nat := if 16 ≤ p && subMode p s then nodeGroup nix s else nix

/-- A tag precedes another (R294). -/
def precedes (a b : Nat) : Bool := 2 ^ 47 ≤ (a + 2 ^ 48 - b % 2 ^ 48) % 2 ^ 48

/-- The cost of a length under a weight (R293). -/
def cost (len w : Nat) : Nat := max 1 (len * 65536 / max w 1)

/-- V and tags (R294). -/
def portV (p : Nat) (s : State) : Nat := Sparse.get (fun _ => 0) s.shp.portV p
def classV (p c : Nat) (s : State) : Nat := Sparse.get (fun _ => 0) s.shp.classV (8 * p + c)
def classTag (p c : Nat) (s : State) : Nat := Sparse.get (fun _ => 0) s.shp.classTag (8 * p + c)
def setPortV (p v : Nat) (s : State) : State := s.updShp fun x => { x with portV := Sparse.set (fun _ => 0) x.portV p (v % 2 ^ 48) }
def setClassV (p c v : Nat) (s : State) : State := s.updShp fun x => { x with classV := Sparse.set (fun _ => 0) x.classV (8 * p + c) (v % 2 ^ 48) }
def setClassTag (p c v : Nat) (s : State) : State := s.updShp fun x => { x with classTag := Sparse.set (fun _ => 0) x.classTag (8 * p + c) (v % 2 ^ 48) }

/-- SHP_STATUS.QUEUES as the queues stand. -/
def syncQueues (s : State) : State := s.setF F.SHP_STATUS_QUEUES s.shp.queues.length

/-- The queue of a port, class and subscriber; the queues and frames of a class. -/
def findQueue (p c sub : Nat) (s : State) : Option Queue := s.shp.queues.find? fun q => q.port == p && q.cls == c && q.sub == sub
def classQueues (p c : Nat) (s : State) : List Queue := s.shp.queues.filter fun q => q.port == p && q.cls == c
def classFrames (p c : Nat) (s : State) : Nat := ((classQueues p c s).map (·.frames.length)).sum

/-- A queue put in the place of its former self, or gone when it is empty (R289). -/
def putQueue (q : Queue) (s : State) : State :=
  let rest := s.shp.queues.filter fun r => !(r.port == q.port && r.cls == q.cls && r.sub == q.sub)
  syncQueues (s.updShp fun x => { x with queues := if q.frames.isEmpty then rest else rest ++ [q] })

/-- The first refusal under order 2 or 3 in each second on a port raises its notice (R292). -/
def noteLimit (k : NoticeKind) (p c : Nat) (s : State) : State :=
  let t := s.clk.slot / sec
  if Sparse.get (fun _ => none) s.shp.limitAt p = some t then s
  else notify k scNoBuffer 0 (8 * p + c) (s.updShp fun x => { x with limitAt := Sparse.set (fun _ => none) x.limitAt p (some t) })

/-- A frame refused, for DROPS of the next sample set (R303). -/
def noteDrop (f : SFrame) (s : State) : State :=
  let k := 8 * f.port + f.cls
  s.updShp fun x => { x with
    drops := Sparse.set (fun _ => 0) x.drops k (Sparse.get (fun _ => 0) x.drops k + 1)
    queues := x.queues.map fun q => if q.port == f.port && q.cls == f.cls && q.sub == f.sub then { q with drops := q.drops + 1 } else q }

/-- A node to which nothing may be sent now (R292 order 1, R244, R273). -/
def nodeClosed (nix : Nat) (s : State) : Bool :=
  let e := s.entry nix
  !entValid e || entFaulty e || decide (entAssoc e < asActive) || countersEnded nix s

/-- The reason for which a frame is refused at entry: order and status (R292). -/
def entryRefusal (f : SFrame) (s : State) : Option (Nat × Nat) :=
  if f.port < 16 && nodeClosed f.nix s then some (1, scDenied)
  else if f.cls ≠ 0 && decide (0 < clsLimit f.port f.cls s) && decide (clsLimit f.port f.cls s ≤ classFrames f.port f.cls s) then some (2, scNoBuffer)
  else if (findQueue f.port f.cls f.sub s).isNone && decide (262144 ≤ s.shp.queues.length) then some (3, scNoBuffer)
  else none

/-- A refusal at entry counted and noted (R292). -/
def refuseEntry (f : SFrame) (order : Nat) (s : State) : State :=
  let s := noteDrop f (s.incF (F.SHP_CNT_COUNT ([3, 4, 6].getD (order - 1) 3)))
  if order = 2 then noteLimit N.QUEUE_LIMIT f.port f.cls s
  else if order = 3 then noteLimit N.NO_QUEUE f.port f.cls s else s

/-- A frame takes its place at the tail of its queue, waking the queue and its class (R289, R295). -/
def enterQueue (f : SFrame) (s : State) : State :=
  let s := s.incF (F.SHP_CNT_COUNT 0)
  let f := { f with arrived := s.clk.slot }
  let s := if classFrames f.port f.cls s = 0 then setClassTag f.port f.cls (portV f.port s) s else s
  match findQueue f.port f.cls f.sub s with
  | some q => putQueue { q with frames := q.frames ++ [f] } s
  | none => putQueue ⟨f.port, f.cls, f.sub, classV f.port f.cls s, [f], 0, 0⟩ (s.incF (F.SHP_CNT_COUNT 8))

/-- The class chosen among the eligible ones of a port (R294 step 1, R295). -/
def effTag (p c : Nat) (s : State) : Nat := if precedes (classTag p c s) (portV p s) then portV p s else classTag p c s
def chooseClass (p : Nat) (el : List Nat) (s : State) : Option Nat :=
  match el.find? fun c => clsStrict p c s with
  | some c => some c
  | none => el.foldl (fun (b : Option Nat) c => match b with
    | none => some c
    | some v => if precedes (effTag p c s) (effTag p v s) then some c else some v) none

/-- The tags after a frame of `len` octets of class `c` is dispatched (R294 step 1). -/
def payClass (p c len : Nat) (s : State) : State :=
  if clsStrict p c s then s
  else
    let t := effTag p c s
    setClassTag p c (t + cost len (clsWeight p c s)) (setPortV p t s)

/-- The queue chosen within a class on ports 16 to 18 (R294 step 2). -/
def chooseQueue (p c : Nat) (s : State) : Option Queue :=
  (classQueues p c s).foldl (fun (b : Option Queue) q => match b with
    | none => some q
    | some v => if precedes q.tag v.tag || (q.tag == v.tag && decide (q.sub < v.sub)) then some q else some v) none

/-- A frame's dispatch counted for sampling (R303). -/
def noteServed (p c : Nat) (s : State) : State :=
  s.updShp fun x => { x with served := Sparse.set (fun _ => 0) x.served (8 * p + c) (Sparse.get (fun _ => 0) x.served (8 * p + c) + 1) }

/-- A frame leaves the head of its queue. -/
def dropHead (q : Queue) (s : State) : State := putQueue { q with frames := q.frames.tail, served := q.served + 1 } s

/-- A downlink leaves whichever queue holds it. -/
def unqueueDl (id : Nat) (s : State) : State :=
  syncQueues (s.updShp fun x => { x with
    queues := (x.queues.map fun q => { q with frames := q.frames.filter fun f => f.load != .downlink id }).filter fun q => !q.frames.isEmpty
    entering := x.entering.filter fun f => f.load != .downlink id })

/-- The port of R437 toward the head-end, and the port of R291 for uplinks. -/
def bhPort (s : State) : Nat :=
  let p := s.getF F.BHL_CFG_PRIMARY
  let up (b : Nat) : Bool := s.getF (F.BHL_PORT_STATUS_LINK b) == 1
  if s.getF F.BHL_CFG_FAILOVER = 1 && !up p && up (1 - p) then 17 - p else 16 + p
def upPort (s : State) : Nat := if s.getF F.XCH_CFG_UP_DEST = 1 then 18 else bhPort s

/-- Octets of a record, and of the Ethernet frame that carries it, summed over its parts (R293, R438, R439, R441). -/
def recParts (n : Nat) (s : State) : Nat := if n = 0 then 1 else (n + s.getF F.BHL_CFG_MAX_BODY - 1) / max (s.getF F.BHL_CFG_MAX_BODY) 1
def frameOver (b : Nat) (s : State) : Nat :=
  14 + 4 * s.getF (F.BHL_PORT_CFG_VLAN b) + (if s.getF F.BHL_CFG_ENCAP = 1 then 48 else 0) + 4
def recLen (p n : Nat) (s : State) : Nat :=
  let k := recParts n s
  if p = 18 then k * 48 + n
  else
    let ov := frameOver (p - 16) s
    let full := s.getF F.BHL_CFG_MAX_BODY
    (k - 1) * max 64 (ov + 48 + full) + max 64 (ov + 48 + (n - (k - 1) * full))

/-- A record put on its way into the shaper, with the node that is or selects its subscriber (R289, R290, R474). -/
def queueRecFor (p node : Nat) (r : Rec) (buffer wait : Option Nat) (s : State) : State :=
  let f : SFrame := ⟨p, r.cls, r.nix, subOf p node s, recLen p r.body.length s, s.clk.slot, .record r buffer, wait⟩
  s.updShp fun x => { x with entering := x.entering ++ [f] }

/-- A record of its own node. -/
def queueRec (p : Nat) (r : Rec) (buffer wait : Option Nat) (s : State) : State := queueRecFor p r.nix r buffer wait s

end Sys2Proof.Machine
end

