-- ==== Sys2Proof/Machine/XchOps.lean ====
section
/-! DEFINITION. The exchange engine as part of other events: downlinks and their ends, acknowledgements, receipts, and the end of associations (R223 to R264, R300). -/

namespace Sys2Proof.Machine

/-- The exchange and slot parts of the state changed. -/
def State.updXch (s : State) (f : Exchange → Exchange) : State := { s with xch := f s.xch }
def State.updSlt (s : State) (f : Slots → Slots) : State := { s with slt := f s.slt }

/-- An acceptance and a downlink by number. -/
def State.acc (s : State) (i : Nat) : Option Accept := Sparse.get (fun _ => none) s.xch.accs i
def State.setAcc (s : State) (i : Nat) (a : Option Accept) : State := s.updXch fun x => { x with accs := Sparse.set (fun _ => none) x.accs i a }
def State.dl (s : State) (i : Nat) : Option Dl := Sparse.get (fun _ => none) s.xch.dls i
def State.setDl (s : State) (i : Nat) (d : Option Dl) : State := s.updXch fun x => { x with dls := Sparse.set (fun _ => none) x.dls i d }
def State.updDl (s : State) (i : Nat) (f : Dl → Dl) : State :=
  match s.dl i with
  | some d => s.setDl i (some (f d))
  | none => s

/-- The slot length in ticks (R200), SEN and the last boundary (R201). -/
def nominal (s : State) : Nat := s.getF F.SLT_CONFIG_SLOT_CODE * 100000
def State.sen (s : State) : Nat := s.get64 F.SLT_SEN_LO_SEN F.SLT_SEN_HI_SEN
def State.bound (s : State) : Nat := s.get64 F.SLT_BOUND_LO_TICKS F.SLT_BOUND_HI_TICKS

/-- The SEN of the slot that holds slot clock value `t`; 0 before the first slot boundary of step 11 (R196). -/
def senAt (t : Nat) (s : State) : Nat :=
  match s.slt.past.find? fun e => e.1 ≤ t with
  | some e => e.2
  | none => if s.slt.past.length < 256 then 0 else s.sen - (s.bound - t + nominal s - 1) / max (nominal s) 1

/-- The boundary of that slot. -/
def boundAt (t : Nat) (s : State) : Nat :=
  match s.slt.past.find? fun e => e.1 ≤ t with
  | some e => e.1
  | none => s.bound

/-- The end of the slot that contains slot clock value `t` (R156). -/
def slotEndAfter (t : Nat) (s : State) : Nat :=
  let n := s.slt.next.getD (s.bound + nominal s)
  if t < n then n else n + ((t - n) / max (nominal s) 1 + 1) * nominal s

/-- SCHED_DONE of an update (R227). -/
def schedDone (nix status : Nat) (s : State) : State :=
  let s := s.updSlt fun x => { x with updates := x.updates.filter fun u => u.nix != nix }
  notify N.SCHED_DONE status 0 nix (s.incF (F.ASC_CNT_COUNT (if status = scOk then 7 else 8)))

/-- A downlink made: its number, and its frame on the way into the shaper (R290). -/
def addDl (d : Dl) (len : Nat) (s : State) : State :=
  let i := s.xch.nextDl
  let s := (s.updXch fun x => { x with nextDl := i + 1 }).setDl i (some d)
  let f : SFrame := ⟨d.port, d.cls, d.nix, d.nix, len, s.clk.slot, .downlink i, d.waitPos⟩
  s.updShp fun x => { x with entering := x.entering ++ [f] }

/-- A downlink frame as its source makes it. -/
def newDl (nix port cls : Nat) (src : DlSource) (dlId : Nat) (payload : List Byte) (relay : Bool) : Dl :=
  ⟨nix, port, cls, src, dlId, payload, relay, none, [], none, 0, 0, 0, 0, none, none, none, false, false, false⟩

/-- The security level of frames to a node, and the length of its MIC (R235, R367). -/
def secLevel (nix : Nat) (s : State) : Nat := entBits (s.entry nix) 11 7 5
def micLen (level : Nat) : Nat := [0, 0, 0, 0, 0, 4, 8, 16].getD level 4

/-- The PHY mode, coding and FCS length of frames to a node, from RADIO of its entry (R224, R270); frames of the device carry the 2-octet FCS. -/
def nodeMode (nix : Nat) (s : State) : Nat := entNat (s.entry nix) 48 4 / 2 ^ 20 % 16
def nodeFec (nix : Nat) (s : State) : Bool := entNat (s.entry nix) 48 4 / 2 ^ 24 % 2 == 1

/-- Octets of the PSDU of a downlink to a node (R235). -/
def dlPsduLen (nix n : Nat) (ext : Bool) (s : State) : Nat :=
  (if ext then 16 else 10) + n + micLen (secLevel nix s) + 2

/-- A downlink of the device itself enters at the node's home port (R290). -/
def sendNode (nix cls : Nat) (src : DlSource) (payload : List Byte) (relay : Bool) (s : State) : State :=
  addDl (newDl nix (entHome (s.entry nix)) cls src 0 payload relay) (dlPsduLen nix payload.length false s) s

/-- XCH_RCPT_STATUS as the entries stand. -/
def syncReceipts (s : State) : State := s.setF F.XCH_RCPT_STATUS_OUTSTANDING s.xch.receipts.length

/-- A receipt entry set or freed (R262 to R264), with its journal record. -/
def setReceipt (i : Nat) (r : Option Receipt) (s : State) : State :=
  let old := Sparse.get (fun _ => none) s.xch.receipts i
  let s := syncReceipts (s.updXch fun x => { x with receipts := Sparse.set (fun _ => none) x.receipts i r })
  match r, old with
  | some r, none => journalRec [6, r.nix, r.fc, 1, (r.deadline - s.clk.now) / ms] 16 s
  | none, some r => journalRec [6, r.nix, r.fc, 0, (r.deadline - s.clk.now) / ms] 16 s
  | _, _ => s

/-- The DL_STATUS record of a downlink that ended (R440, R445). -/
def dlStatus (d : Dl) (status : Nat) (s : State) : State :=
  let r : Rec := ⟨2, d.cls, 0, d.port, d.nix, d.fc.getD 0, leBytes 4 d.dlId ++ [BitVec.ofNat 8 status, BitVec.ofNat 8 d.attempts, 0, 0], []⟩
  match d.source with
  | .backhaul => queueRec (bhPort s) r none none s
  | .host => queueRec 18 r none none s
  | _ => s

/-- An association ends: NONE, out of the roster, and its schedule update ended with a status (R226 to R228). -/
def assocNone (nix updStatus : Nat) (s : State) : State :=
  let s := putEntry nix (entPutBits (s.entry nix) 32 1 0 asNone) (leaveRoster nix s)
  let s := { s with slt := { s.slt with responses := s.slt.responses.filter fun r => r.nix != nix } }
  if s.slt.updates.any fun u => u.nix == nix then schedDone nix updStatus s else s

/-- What the end of a downlink means to its source (R227, R253, R264, R259); the end of a LEAVE is the next step's. -/
def dlReportBase (d : Dl) (status : Nat) (s : State) : State :=
  match d.source with
  | .receipt i =>
    let s := if status = scOk then s.incF (F.XCH_CNT_COUNT 18) else s
    setReceipt i none s
  | .schedUpd =>
    if status = scOk then s.updSlt fun x => { x with updates := x.updates.map fun u => if u.nix == d.nix then { u with acked := true } else u }
    else if status = scDenied then schedDone d.nix scDenied s else s
  | .relay =>
    if status = scOk then setEntry d.nix (entPut (s.entry d.nix) 144 4 (entNat (s.entry d.nix) 144 4 + 1)) s else s
  | .leave => s
  | _ => dlStatus d status s

/-- A downlink leaves its queue with a status: counted, and DL_FAIL for TIMEOUT (R253). -/
def dlCount (i : Nat) (d : Dl) (status : Nat) (s : State) : State :=
  let s := (unqueueDl i s).setDl i none
  let s := if status = scOk then
      let s := s.incF (F.XCH_CNT_COUNT 11)
      setEntry d.nix (entPut (s.entry d.nix) 172 4 (entNat (s.entry d.nix) 172 4 + 1)) s
    else s
  if status = scTimeout then
    let s := s.incF (F.XCH_CNT_COUNT 12)
    if s.getF F.XCH_CFG_DL_NOTICES = 1 then notify N.DL_FAIL scTimeout 0 d.nix s else s
  else s

/-- The downlinks under way, by number. -/
def State.downlinks (s : State) : List (Nat × Dl) := s.xch.dls.filterMap fun e => e.2.map fun x => (e.1, x)

/-- Frames for a node whose association has ended: cancelled, but for one whose attempt is in progress (R300). Responses never entered the shaper (R290). -/
def cancelNode (nix : Nat) (s : State) : State :=
  s.downlinks.foldl (fun s e =>
    if e.2.nix != nix || e.2.source == .response || e.2.source == .leave02 then s
    else if e.2.attempt.isSome then s.updDl e.1 fun d => { d with doomed := true }
    else dlReportBase e.2 scCancelled (dlCount e.1 e.2 scCancelled (s.incF (F.SHP_CNT_COUNT 5)))) s

/-- An association ends, with what its end does to the queues (R223, R226, R228, R300). -/
def assocEnd (nix updStatus : Nat) (s : State) : State := cancelNode nix (assocNone nix updStatus s)

/-- A downlink ends (R253): counted, out of its queue, reported. The end of a LEAVE that was acknowledged or exhausted ends the association (R228). -/
def dlEndOne (i : Nat) (d : Dl) (status : Nat) (s : State) : State :=
  let s := dlReportBase d status (dlCount i d status s)
  if d.source = .leave ∧ (status = scOk ∨ status = scTimeout) then
    notify N.NODE_LEFT scOk 0 (0x100000 + d.nix) ((assocEnd d.nix scDenied s).incF (F.ASC_CNT_COUNT 9))
  else s

/-- MSG_ID of a downlink SEG frame (R254). -/
def segId (d : Dl) : Option Nat :=
  match d.payload with
  | t :: _ :: a :: b :: _ => if t = 0x32#8 then some (a.toNat + 256 * b.toNat) else none
  | _ => none

/-- A downlink ends; when a segment ends other than OK, the rest of its message ends with that status unsent (R254). -/
def dlEnd (i status : Nat) (s : State) : State :=
  match s.dl i with
  | none => s
  | some d =>
    let s := dlEndOne i d status s
    match segId d with
    | some m =>
      if status = scOk then s
      else s.downlinks.foldl (fun s e =>
        if e.2.nix == d.nix && e.2.source == d.source && segId e.2 == some m then dlEndOne e.1 e.2 status s else s) s
    | none => s

/-- The node, if any, to which a command's frame goes. -/
def refNode (r : TxRef) (s : State) : Option Nat :=
  match r with
  | .ack a => (s.acc a).map (·.nix)
  | .downlink d => (s.dl d).map (·.nix)
  | .relay d => (s.dl d).map (·.nix)
  | .response n => some n
  | .beacon => none

/-- The command as it is built: the setting of R284 for a frame to a node, and whether BOOST raised it. -/
def preCharge (n : Nat) (h : Held) (s : State) : Held × State :=
  match refNode h.cmd.ref s with
  | some nix =>
    let ((set, boost), s) := settingOf n nix s
    ({ h with cmd := { h.cmd with setting := set }, charged := bit boost }, s)
  | none => (h, s)

/-- A reception that may need an ack reserves its port (R248). -/
def reserveAck (n _ch e : Nat) (s : State) : State := s.updXch fun x => { x with reserve := x.reserve ++ [(n, e)] }

/-- A reservation ends: no ack will be sent for that reception. -/
def dropReserve (n e : Nat) (s : State) : State := s.updXch fun x => { x with reserve := x.reserve.erase (n, e) }

/-- A FRAME or BEACON whose PPDU, with RAMP, TRSW_LAG and an 80 µs settle, would still be under way 80 µs before a reserved ack's start point (R248). -/
def ackReserved (n : Nat) (h : Held) (s : State) : Bool :=
  h.cmd.kind != .ack && s.xch.reserve.any fun r =>
    r.1 == n && (
      let lead := s.getF (F.RFP_FE_TIMING_TRSW_LEAD n) * us
      let st := r.2 + 1000 * us - lead
      let fin := s.clk.slot + lead + h.cmd.airtime + (s.getF (F.RFP_FE_TIMING_RAMP n) + s.getF (F.RFP_FE_TIMING_TRSW_LAG n) + 80) * us
      decide (s.clk.slot < st) && decide (st < fin + 80 * us))

/-- The release flag of an ack stands (R247, R474). -/
def ackReleased (h : Held) (s : State) : Bool :=
  match h.cmd.ref with
  | .ack a => match s.acc a with
    | some x => x.flag && x.ack.isSome && covered x.waitPos s
    | none => false
  | _ => true

/-- A frame sealed with a newly taken OUT_FC waits for its JACK (R474). -/
def releaseWaits (h : Held) (s : State) : Bool :=
  match h.cmd.ref with
  | .downlink d => match s.dl d with | some x => !covered x.waitPos s | none => false
  | .relay d => match s.dl d with | some x => !covered x.waitPos s | none => false
  | _ => false

/-- An acceptance whose outcome is known and whose ack is over leaves the engine. -/
def closeAcc (i : Nat) (s : State) : State :=
  match s.acc i with
  | some a => if a.decided && a.ackOver then s.setAcc i none else s
  | none => s

/-- The charge of a device ack that was withdrawn or late, and of one that was sent (R281). -/
def chargeGuard (nix : Nat) (s : State) : State :=
  let p := entProfile (s.entry nix)
  charge nix (itCharge (profRx p s) (profGuard p s * us)) s
def chargeHeard (nix t wake : Nat) (s : State) : State :=
  let p := entProfile (s.entry nix)
  charge nix (wake * profWake p s + itCharge (profRx p s) (profGuard p s * us + t)) s

/-- The end of an ack's command (R245 to R248, R281, R492). An ack is missed where it was withdrawn (REASON 0) or ended SAFE_HOLD; one that was refused under R244 or
R158, that a cut ended, or whose port left service is not. -/
def ackEnd (n a : Nat) (h : Held) (status : Nat) (s : State) : State :=
  match s.acc a with
  | none => s
  | some x =>
    let s := dropReserve n (x.sfd + x.delta) (s.setAcc a (some { x with ackOver := true }))
    let s :=
      if status = scOk then (if x.outcomeOk then chargeHeard x.nix h.cmd.airtime 0 s else s)
      else if status = scLate then
        let s := s.incF (F.XCH_CNT_COUNT 9)
        if x.outcomeOk then chargeGuard x.nix s else s
      else if x.refused then s
      else if (status = scSafeHold ∧ s.getF (F.RFP_TX_LAST_REASON n) ≠ 6) ∨ (status = scCancelled ∧ s.getF (F.RFP_TX_LAST_REASON n) = 0) then
        let s := if x.decided && (x.outcomeOk || x.dup) then s.incF (F.XCH_CNT_COUNT 8) else s
        if x.outcomeOk then chargeGuard x.nix s else s
      else s.setAcc a (some { x with ackOver := true, refused := true })
    closeAcc a s

/-- A downlink's attempt that was not launched goes back to the head of its queue; one refused for its permit range ends DENIED (R252). -/
def attemptLost (n d status : Nat) (s : State) : State :=
  match s.dl d with
  | none => s
  | some x =>
    let s := if status = scLate then s.incF (F.XCH_CNT_COUNT 13) else s
    if status = scDenied ∧ s.getF (F.RFP_TX_LAST_REASON n) = 4 then dlEnd d scDenied s
    else if x.doomed then dlEnd d scCancelled (s.incF (F.SHP_CNT_COUNT 5))
    else s.setDl d (some { x with attempt := none })

/-- A beacon that is not sent (R217). -/
def bcnSkipped (n status : Nat) (s : State) : State :=
  notify N.BCN_SKIPPED status 0 n (s.incF (F.SLT_CNT_COUNT 1))

/-- The exchange engine learns the end of a command: OK when its PPDU was sent in full. A beacon is skipped only where R217 says so: it ended LATE or was refused;
one that was cut after its launch, or whose port left service, is not. -/
def onTxEnd (n : Nat) (h : Held) (begun : Bool) (status : Nat) (s : State) : State :=
  match h.cmd.ref with
  | .beacon =>
    if status = scOk then
      let s := s.incF (F.SLT_CNT_COUNT 0)
      s.updSlt fun x => { x with bcnCell := Sparse.set (fun _ => 0) x.bcnCell n (Sparse.get (fun _ => 0) x.bcnNext n) }
    else if begun || status = scCancelled then s
    else bcnSkipped n status s
  | .ack a => ackEnd n a h status s
  | .downlink d => if status = scOk then s else attemptLost n d status s
  | .relay d => if status = scOk then s else attemptLost n d status s
  | .response nix =>
    if status = scOk then s.incF (F.ASC_CNT_COUNT (if s.slt.responses.any fun r => r.nix == nix && r.result == 3 then 10 else 3))
    else (s.slt.responses.filter fun r => r.nix == nix).foldl (fun s r => s.updDl r.dl fun d => { d with attempt := none }) s

/-- A downlink's or relay copy's attempt is launched with its first bit at L (R250, R281). -/
def dlLaunched (d L : Nat) (h : Held) (s : State) : State :=
  match s.dl d with
  | none => s
  | some x =>
    let s := s.incF (F.XCH_CNT_COUNT 10)
    let s := if x.relay then s.incF (F.FLD_CNT_COUNT 4) else s
    let s := s.setDl d (some { x with attempts := x.attempts + 1, attempt := some (h.cmd.channel, some (L + h.cmd.airtime)) })
    chargeHeard x.nix h.cmd.airtime 1 s

/-- CFG_T_BEACON and CFG_T_AUTO as the 32.768 kHz oscillator gives them, in µs (CFG registers). -/
def aonMicros (extra : Nat) (s : State) : Nat := min ((s.clk.now + extra - s.clk.vinAt) * 32768 / sec * 1000000 / 32768) (2 ^ 32 - 1)

/-- The first PPDU bit of the first beacon: step 11 of start-up ends (R81), or the takeover is done (R481). -/
def firstBeacon (L : Nat) (s : State) : State :=
  let s := if s.getF F.CFG_STATUS_STEP = 11 then (s.setF F.CFG_T_BEACON_TIME (aonMicros (L - s.clk.slot) s)).setF F.CFG_STATUS_STEP 0xF else s
  match s.pair.tkoBeacon with
  | some (t, loss) =>
    let st := if loss then scStateLoss else scOk
    let gap := (s.clk.now + (L - s.clk.slot) - t) / ms
    let s := (s.setF F.PAR_TKO_LAST_STATUS st).setF F.PAR_TKO_LAST_GAP_MS gap
    notify N.TAKEOVER_DONE st 0 gap (s.updPair fun p => { p with tkoBeacon := none })
  | none => s

/-- A command's launch sequence begins, with its first PPDU bit at L (R155, R281, R284, R459). -/
def onLaunch (_n : Nat) (h : Held) (L : Nat) (s : State) : State :=
  let s := if h.charged = 1 then s.incF (F.NRG_CNT_COUNT 5) else s
  let s := if s.pair.unconfAt.isSome && s.pair.unconfTx.isNone then s.updPair fun p => { p with unconfTx := some s.clk.now } else s
  match h.cmd.ref with
  | .beacon => firstBeacon L s
  | .ack _ => s.incF (F.XCH_CNT_COUNT 7)
  | .downlink d => dlLaunched d L h s
  | .relay d => dlLaunched d L h s
  | .response nix =>
    match s.slt.responses.find? fun r => r.nix == nix with
    | some r => chargeHeard nix h.cmd.airtime 1 (s.updDl r.dl fun d => { d with attempts := d.attempts + 1, attempt := some (h.cmd.channel, some (L + h.cmd.airtime)) })
    | none => s


/-- COUNTER_END once per node and direction (R244). -/
def noteCounter (nix : Nat) (out : Bool) (s : State) : State :=
  let f := Sparse.get (fun _ => 0) s.xch.counterEnd nix
  let b := if out then 2 else 1
  if f / b % 2 = 1 then s
  else notify N.COUNTER_END scDenied 0 (bit out * 2 ^ 17 + nix) (s.updXch fun x => { x with counterEnd := Sparse.set (fun _ => 0) x.counterEnd nix (f + b) })

/-- The next outbound counter of a node taken: OUT_FC advances, journalled as CTR (R244, R371, R472). The value 0xFFFFFFFF is the last, after which the counter has
ended; none to a node whose counters have ended or whose entry is FAULTY (R244, R273). -/
def takeOutFc (nix : Nat) (s : State) : Option Nat × State :=
  let fc := entOutFc (s.entry nix)
  if sendRefused nix s then (none, s)
  else
    let s := journalCtr nix (setEntry nix (entPut (s.entry nix) 24 4 (min (fc + 1) 0xFFFFFFFF)) s)
    (some fc, if fc = 0xFFFFFFFF then noteCounter nix true s else s)

/-- A beacon slot of a port by its PHASE, and a slot that an own cell on one of its channels claims (R215, R217, R220). -/
def beaconSlot (n sen : Nat) (s : State) : Bool :=
  s.getF (F.SLT_BCN_PORT_EN n) == 1 && sen % max (s.getF F.SLT_BCN_CFG_BCN_PERIOD) 1 == s.getF F.SLT_BCN_TIME_PHASE
def ownCell (i : Nat) (s : State) : Option (Nat × Nat) :=
  let w := (s.tab 1 (0x100 + 4 * i)).toNat
  if 2 ^ 31 ≤ w && s.getF F.SLT_RES_CONFLICT_CELL / 2 ^ i % 2 = 0 then some (w / 2 ^ 17 % 4096, w % 2 ^ 17) else none
def onPort (n khz : Nat) (s : State) : Bool := (List.range 128).any fun c => chanOn n c s && chanKhz n c s == khz
def cellSlot (n sen : Nat) (s : State) : Bool :=
  (List.range 32).any fun i => match ownCell i s with
    | some (o, f) => sen % max (s.getF F.SLT_RES_CFG_RES_FRAME) 1 == o && onPort n (25 * f) s
    | none => false

/-- A beacon, downlink or relay transmission of the port that is placed: its first bit at L, or at any moment where it goes as soon as possible, and its end (R215). -/
def placedTx (n a b : Nat) (s : State) : Bool :=
  let cmds := (s.xch.ready.filter fun e => e.1 == n).map (·.2) ++ (s.port n).waiting.map (·.cmd) ++ (s.port n).held.toList.map (·.cmd)
  cmds.any fun c => c.kind != .ack && (match c.launch with | some l => decide (l < b) && decide (a < l + c.airtime) | none => true)

/-- The slots that cover `dur` ticks from the boundary at slot clock value `t` carry no assignment of R215 on the port (R172). -/
def portFree (n t dur : Nat) (s : State) : Bool :=
  let k := (dur + nominal s - 1) / max (nominal s) 1
  !(placedTx n t (t + k * nominal s) s || (List.range k).any fun i => beaconSlot n (s.sen + i) s || cellSlot n (s.sen + i) s)

end Sys2Proof.Machine
end

