-- ==== Sys2Proof/Machine/KeyOps.lean ====
section
/-! DEFINITION. The key store and the cipher engine as parts of other events (R362 to R404). -/

namespace Sys2Proof.Machine

/-- The key, cipher and TAMP parts of the state changed. -/
def State.updKey (s : State) (f : KeyStore → KeyStore) : State := { s with key := f s.key }
def State.updCph (s : State) (f : Cipher → Cipher) : State := { s with cph := f s.cph }
def State.updTamp (s : State) (f : Tamp → Tamp) : State := { s with tamp := f s.tamp }

/-- Exactly `n` bytes. -/
def fit (n : Nat) (l : List Byte) : List Byte := (l ++ List.replicate n 0).take n

/-- An empty slot. -/
def KeySlot.empty : KeySlot := ⟨false, false, false, false, 0, false, 0, 0, 0, 0xFF, 0, 0, [], 0, false⟩

/-- A key slot (R388, R389), and its generation (R390). -/
def State.slotOf (s : State) (i : Nat) : KeySlot := Sparse.get (fun _ => KeySlot.empty) s.key.slots i
def slotGen (i : Nat) (s : State) : Nat := Sparse.get (fun _ => 0) s.tamp.gens i

/-- KEY_STATUS as the slots stand. -/
def syncSlots (s : State) : State :=
  let full := s.key.slots.filter fun e => e.2.full
  (s.setF F.KEY_STATUS_GENERAL_USED (full.filter fun e => decide (e.1 < 64)).length).setF F.KEY_STATUS_CACHE_USED (full.filter fun e => decide (64 ≤ e.1)).length

/-- A slot set. -/
def State.setSlot (s : State) (i : Nat) (k : KeySlot) : State :=
  syncSlots (s.updKey fun x => { x with slots := Sparse.set (fun _ => KeySlot.empty) x.slots i k })

/-- PINS: jobs that hold the slot (R389, R401). -/
def slotPins (i : Nat) (s : State) : Nat := (s.inFlight.map fun e => e.2.pins.count i).sum + (s.fab.waiting.map fun j => j.pins.count i).sum

/-- One use of a key counted (R391). -/
def useKey (i : Nat) (s : State) : State :=
  let k := s.slotOf i
  let s := s.updKey fun x => { x with tick := x.tick + 1 }
  s.setSlot i { k with uses := if k.uses = 0xFFFFFFFF then k.uses else k.uses - 1, lastUse := s.key.tick }

/-- A key is exhausted or expired (R391). -/
def keyOver (k : KeySlot) : Bool := k.expired || k.uses == 0

/-- A key is stale: its parent's generation has moved on, link by link (R400). -/
def keyStale : Nat → KeySlot → State → Bool
  | 0, _, _ => false
  | d + 1, k, s => k.parent != 0xFF && (k.parentGen != slotGen k.parent s || keyStale d (s.slotOf k.parent) s)

/-- Permissions of a key (R389). -/
def permEncrypt : Nat := 0
def permDecrypt : Nat := 1
def permCmac : Nat := 2
def permDerive : Nat := 3
def permWrap : Nat := 4
def KeySlot.may (k : KeySlot) (p : Nat) : Bool := k.perms / 2 ^ p % 2 == 1

/-- Lifecycle states in which working keys are usable (R409). -/
def keysUsable (s : State) : Bool := s.fuses.lifecycle < 4

/-- Checks 5 to 8 of R368 on a slot. -/
def keyRefusal (i perm : Nat) (s : State) : Option (Nat × Nat) :=
  let k := s.slotOf i
  if !k.full || k.closing then some (scDenied, 4)
  else if !k.may perm then some (scDenied, 5)
  else if keyStale 4 k s then some (scKeyStale, 0)
  else if keyOver k then some (scKeyExpired, 0)
  else none

/-- The KDF of R397: K(1), or K(1) and K(2), over the counter and the fixed data. -/
def kdf (key label context : List Byte) (bits : Nat) : List Byte :=
  let fixed := label ++ [0] ++ context ++ beBytes 2 bits
  let k1 := fit 16 (Config.cmac key (1 :: fixed))
  if bits = 128 then k1 else k1 ++ fit 16 (Config.cmac key (2 :: fixed))

/-- An ASCII label. -/
def ascii (t : List Nat) : List Byte := t.map (BitVec.ofNat 8)

/-- The device KEK, derived from the fused device key and the seed (R405). -/
def deviceKek (s : State) : List Byte := kdf Config.deviceKey (ascii [72, 90, 45, 75, 69, 75]) (leBytes 32 (Config.freeValue (s.tamp.seed.getD 0))) 256

/-- The pair key and the pair storage key (R455). -/
def pairKey : List Byte := kdf Config.pairRootKey (ascii [72, 90, 45, 80, 65, 73, 82]) [] 256
def pairStorageKey : List Byte := kdf Config.pairRootKey (ascii [72, 90, 45, 80, 83, 84, 79, 82, 69]) [] 256

/-- A key slot for its blob header (R393): KLEN, PERMS, PARENT, PARENT_GEN, USES, material. -/
def blobHeader (k : KeySlot) (wrapper wrapperGen handle : Nat) : List Byte :=
  [1, BitVec.ofNat 8 (bit k.klen * 128), BitVec.ofNat 8 k.perms, BitVec.ofNat 8 wrapper, BitVec.ofNat 8 k.parent]
    ++ leBytes 2 wrapperGen ++ leBytes 2 (if k.parent = 0xFF then 0 else k.parentGen) ++ leBytes 4 k.uses ++ leBytes 3 handle

/-- The wrapping key of a blob, and the refusal of a slot that cannot unwrap (R394 checks 4). -/
def wrapperKey (w : Nat) (s : State) : Option (List Byte) :=
  if w = 0xFF then some (deviceKek s)
  else
    let k := s.slotOf w
    if w < 64 && k.full && k.klen && k.may permWrap && !keyOver k then some k.material else none

/-- The slot that the blob's bytes give, or the status and the detail of the first check that fails (R394); a wrapper that is itself stale ends it as check 5 does (R396, R400, R403). -/
def blobSlot (h : Nat) (b : List Byte) (s : State) : Except (Nat × Nat) KeySlot :=
  let parent := entNat b 4 1
  let w := entNat b 3 1
  if entNat b 0 1 ≠ 1 ∨ entBits b 1 6 0 ≠ 0 ∨ entBits b 2 7 5 ≠ 0 ∨ entNat b 13 3 / 2 ^ 20 ≠ 0 then .error (scDenied, 0x10)
  else if entNat b 13 3 ≠ h then .error (scDenied, 0x11)
  else match wrapperKey w s with
  | none => .error (scDenied, 0x12)
  | some wk =>
    if (w ≠ 0xFF ∧ (entNat b 5 2 ≠ slotGen w s ∨ keyStale 4 (s.slotOf w) s)) ∨ (w = 0xFF ∧ entNat b 5 2 ≠ 0) ∨ (parent ≠ 0xFF ∧ entNat b 7 2 ≠ slotGen parent s) then .error (scKeyStale, 0x13)
    else match Config.kwUnwrap wk (b.drop 24) with
    | none => .error (scKeyStale, 0x14)
    | some p =>
      let klen := entBits b 1 7 7 == 1
      if p.take 16 ≠ b.take 16 ∨ p.length ≠ 48 ∨ (!klen ∧ p.drop 32 ≠ List.replicate 16 0) then .error (scKeyStale, 0x14)
      else
        let depth := if parent = 0xFF then 0 else (s.slotOf parent).depth + 1
        .ok ⟨true, klen, false, false, 1, false, entBits b 2 4 0, depth, entNat b 9 4, parent, entNat b 7 2, 0,
          (p.drop 16).take (if klen then 32 else 16), 0, false⟩

/-- The checks of R394 on the blob at handle `h`: the key that it holds, or status and DETAIL. -/
def unwrapBlob (h : Nat) (s : State) : Except (Nat × Nat) KeySlot × State :=
  withRead (blobBase s + 80 * h) 80 s (fun _ s => (.error (scFaultEcc, 0), s)) fun b s => (blobSlot h b s, match blobSlot h b s with
    | .ok _ => if entNat b 3 1 = 0xFF then s else useKey (entNat b 3 1) s
    | .error _ => s)

/-- The cache slot linked to a node (R399). -/
def cacheSlot (nix : Nat) (s : State) : Option Nat :=
  (s.key.slots.find? fun e => decide (64 ≤ e.1) && e.2.full && e.2.linked && e.2.nix == nix).map (·.1)

/-- The cache slot that a miss takes: an empty one, else the unpinned one used least recently (R399). -/
def cacheVictim (s : State) : Option Nat :=
  match ((List.range 192).map (64 + ·)).find? fun i => !(s.slotOf i).full with
  | some i => some i
  | none => (((List.range 192).map (64 + ·)).foldl (fun (b : Option Nat) i =>
      if slotPins i s ≠ 0 then b
      else match b with
        | none => some i
        | some v => if (s.slotOf i).lastUse < (s.slotOf v).lastUse then some i else some v) none)

/-- An unlinked cache slot is zeroised when its last pin drops (R399). -/
def sweepCache (s : State) : State :=
  ((List.range 192).map (64 + ·)).foldl (fun s i =>
    let k := s.slotOf i
    if k.full && !k.linked && slotPins i s = 0 then s.setSlot i KeySlot.empty else s) s

/-- An acceptance ends without OK or DUP_ACKED (R239): recorded, counted, its buffer given up, its ack withdrawn or never built. -/
def accFail (i status drop : Nat) (s : State) : State :=
  match s.acc i with
  | none => s
  | some a =>
    let s := s.setReg 0xd0010 (BitVec.ofNat 32 (status * 2 ^ 24 + drop * 2 ^ 20 + (if drop = 1 ∨ drop = 2 then 0 else a.nix)))
    let s := if status = scReplay then s.incF (F.XCH_CNT_COUNT 3)
      else if status = scAuthFail then s.incF (F.XCH_CNT_COUNT 4)
      else if status = scKeyStale ∨ status = scKeyExpired then s.incF (F.XCH_CNT_COUNT 5)
      else if status = scDenied then s.incF (F.XCH_CNT_COUNT 6)
      else if status = scNoBuffer then s.incF (F.XCH_CNT_COUNT 17)
      else if drop = 6 then s.incF (F.XCH_CNT_COUNT 19) else s
    let unsent := s.xch.ready.any fun e => e.2.ref == .ack i
    let s := s.updXch fun x => { x with ready := x.ready.filter fun e => e.2.ref != .ack i }
    let s := dropReserve a.port (a.sfd + a.delta) (poolFree a.buffer s)
    closeAcc i (s.setAcc i (some { a with decided := true, flag := false, ackOver := a.ackOver || unsent || !a.ar }))

/-- CPH_STATUS as the engine's jobs stand. -/
def syncCph (s : State) : State :=
  let held := (s.inFlight.filterMap fun e => e.2.hold).foldl (fun b h => b + 2 ^ h) (if s.cph.kat.isSome then 128 else 0)
  let s := (s.setF F.CPH_STATUS_HOLD_BUSY held).setF F.CPH_STATUS_SUSPENDED (suspendedOf ecCPH s)
  if s.getF F.CPH_STATUS_STATE = 2 then s
  else s.setF F.CPH_STATUS_STATE (bit (!(runningOf ecCPH s).isEmpty || (match s.cph.kat with | some (_, b) => b | none => false)))

/-- The counter of CPH_CNT_k that a status counts in. -/
def cphCounter (status : Nat) : Option Nat :=
  if status = scOk then some 0 else if status = scAuthFail then some 1 else if status = scDenied then some 2 else if status = scKeyStale then some 3
  else if status = scKeyExpired then some 4 else if status = scAbortedErase then some 5 else if status = scCancelled then some 6 else none

/-- A command prepared for a port. -/
def prepare (n : Nat) (c : TxCmd) (s : State) : State := s.updXch fun x => { x with ready := x.ready ++ [(n, c)] }

/-- The launch time of the frames of a slot: LAUNCH_US of the exchange engine after its boundary (R249). -/
def dlLaunch (s : State) : Nat := s.bound + s.getF F.XCH_DL_CFG_LAUNCH_US * us

/-- The FRAME command of a sealed downlink, relay copy or response in the current slot (R249, R250); a response goes in the PHY mode and coding of its request. -/
def dlCommand (_i : Nat) (d : Dl) (channel : Nat) (ref : TxRef) (launch : Nat) (s : State) : State :=
  let rsp := if d.source == .response || d.source == .leave02 then s.slt.responses.find? fun r => r.nix == d.nix else none
  let mode := (rsp.map (·.mode)).getD (nodeMode d.nix s)
  let air := airtime mode ((rsp.map (·.fec)).getD (nodeFec d.nix s)) (s.getF F.XCH_CFG_PREAMBLE_OCT) (((d.psdu.map (·.length)).getD 0) + 2)
  prepare d.port ⟨.frame, channel, chanKhz d.port channel s, mode, air, none, some launch, 0, ref⟩ s

/-- Beacon channel `k` of a port, and the channel of the beacon under way, whose slot is the last one counted (R217). -/
def beaconChan (n k : Nat) (s : State) : Nat := bitsOf (s.reg (0xc0080 + 4 * n)) (7 * k + 6) (7 * k)
def beaconNow (n : Nat) (s : State) : Nat :=
  beaconChan n ((Sparse.get (fun _ => 0) s.slt.bcnIdx n - 1) % (s.getF (F.SLT_BCN_PORT_COUNT n) + 1)) s

/-- The PHY mode of beacons on a channel, and whether they are coded (R217). -/
def beaconMode (n ch : Nat) (s : State) : Nat := ((List.range 8).find? fun m => chanModes n ch s / 2 ^ m % 2 == 1).getD 0
def beaconCoded (n ch : Nat) (s : State) : Bool := beaconMode n ch s != 7 && s.getF (F.RFP_PHY_CFG_UNCODED_ACCEPT n) == 0

/-- Octets of the FCS of a beacon (R216). -/
def beaconFcs (mode : Nat) : Nat := if mode = 7 then 2 else 4

/-- A built beacon goes to its port, with its first bit LAUNCH_US after the boundary (R217). -/
def sendBeacon (n : Nat) (frame : List Byte) (s : State) : State :=
  let ch := beaconNow n s
  let mode := beaconMode n ch s
  let air := airtime mode (beaconCoded n ch s) (s.getF F.XCH_CFG_PREAMBLE_OCT) (frame.length + beaconFcs mode)
  let s := s.updSlt fun x => { x with bcnPsdu := Sparse.set (fun _ => none) x.bcnPsdu n (some frame) }
  prepare n ⟨.beacon, ch, chanKhz n ch s, mode, air, none, some (s.bound + s.getF F.SLT_BCN_TIME_LAUNCH_US * us), 0, .beacon⟩ s

/-- What the end of an engine's CPH job means to the engine that created it (R217, R239, R247, R250, R325). -/
def cipherConsume (w : Work) (status : Nat) (out : List Byte) (s : State) : State :=
  match w with
  | .cipher (.sealAck a) =>
    match s.acc a with
    | some x => s.setAcc a (some (if status = scOk then { x with ack := some out } else { x with refused := status == scDenied && sendRefused x.nix s }))
    | none => s
  | .cipher (.sealDl i) =>
    match s.dl i with
    | some d =>
      if status = scOk then
        let d := { d with psdu := some out, building := false }
        let s := s.setDl i (some d)
        match d.attempt, d.source with
        | some (ch, _), .response => dlCommand i d ch (.response d.nix) (s.bound + s.getF F.SLT_BCN_TIME_LAUNCH_US * us) s
        | some (ch, _), .leave02 => dlCommand i d ch (.response d.nix) (s.bound + s.getF F.SLT_BCN_TIME_LAUNCH_US * us) s
        | some (ch, _), _ => dlCommand i d ch (if d.relay then .relay i else .downlink i) (dlLaunch s) s
        | none, _ => s
      else dlEnd i status s
    | none => s
  | .beacon n =>
    if status = scOk then sendBeacon n out s
    else bcnSkipped n status (s.updSlt fun x => { x with bcnPsdu := Sparse.set (fun _ => none) x.bcnPsdu n none })
  | _ => s

/-- A CPH job ends (R324, R381): counted, completed, its pins dropped; an engine's job other than an OPEN is consumed and its ID freed. -/
def cipherEnd (i : Nat) (j : Job) (status detail : Nat) (result out : List Byte) (s : State) : State :=
  let s := match cphCounter status with
    | some k => s.incF (F.CPH_CNT_COUNT k)
    | none => s
  let s := sweepCache (completeJob i j status detail result s)
  let s := match j.work with
    | .none => s
    | .cipher (.openAcc _) => s
    | .openBcn _ => s
    | w => freeJob i (cipherConsume w status out s)
  syncCph s

/-- The end of a key command (R395): status, staging zeroised, the notice. -/
def keyCmdEnd (cmd slot status detail reason : Nat) (s : State) : State :=
  let s := s.setReg 0x130024 (BitVec.ofNat 32 (2 ^ 30 + status * 2 ^ 16 + detail * 2 ^ 8 + reason))
  let s := (List.range 8).foldl (fun s n => s.setF (F.KEY_STAGE_KEY n) 0) s
  notify N.KEY_CMD_DONE status 0 (cmd * 2 ^ 28 + slot) (s.incF (F.KEY_CNT_COUNT 3))

/-- Every slot zeroised and the node cache unlinked, generations unchanged (R402). -/
def zeroiseAll (s : State) : State := syncSlots (s.updKey fun x => { x with slots := [], deferred := none })

/-- Every CPH job that holds a pin ends ABORTED_ERASE (R380, R402). -/
def abortPinned (s : State) : State :=
  s.inFlight.foldl (fun s e =>
    if e.2.cls == ecCPH && (e.2.state == jsRunning || e.2.state == jsSuspended || (e.2.state == jsReady && !e.2.pins.isEmpty)) then
      let s := if e.2.state == jsRunning then s else leaveReady e.1 e.2 s
      cipherEnd e.1 e.2 scAbortedErase 0 (List.replicate 12 0) [] s
    else s) s

/-- An alarm erase (R402). -/
def alarmErase (cause : Nat) (s : State) : State :=
  let d := s.key.deferred
  let s := abortPinned (zeroiseAll s)
  let s := match d with
    | some c => keyCmdEnd c.cmd c.slot scAbortedErase 0 0 s
    | none => s
  notify N.ALARM_ERASE scAbortedErase 0 cause (s.incF (F.KEY_CNT_COUNT 6))

/-- The unlock seed cleared (R412, R413). -/
def clearSeed (s : State) : State := s.updTamp fun t => { t with seed := none }

/-- TAMP without a supply: its content is lost (R98, R412). -/
def loseTamp (s : State) : State :=
  { s with
    tamp := ⟨none, [], 0, 0, 0, 0⟩
    regs := s.regs.filter fun e => !(0x138000 ≤ e.1 && e.1 < 0x139000)
    boot := { s.boot with vbatLost := true } }

/-- Arguments of a CPH job (R367). -/
def cphArgs (op tag nsrc level aofs alen mlen : Nat) (keyNode : Bool) (kslot nix fcofs aux : Nat) : List Byte :=
  [BitVec.ofNat 8 (op * 16 + tag), BitVec.ofNat 8 (nsrc * 16 + level)] ++ leBytes 2 aofs ++ leBytes 2 alen ++ leBytes 2 mlen
    ++ leBytes 4 (bit keyNode * 2 ^ 31 + kslot * 2 ^ 17 + nix) ++ leBytes 2 fcofs ++ leBytes 2 aux

/-- A frame of the device as TXL builds it: frame control, sequence number, destination, auxiliary header, payload (R235). -/
def deviceFrame (fctl : Nat) (seq : Nat) (dest : List Byte) (level : Nat) (payload : List Byte) : List Byte :=
  leBytes 2 fctl ++ [BitVec.ofNat 8 seq] ++ dest ++ [BitVec.ofNat 8 level] ++ leBytes 4 0 ++ payload

/-- The CPH job that seals or opens for a KLD job's key, or the KLD job that must come first (R399). -/
def createKld (nix prio creator : Nat) (u : KeyUse) (s : State) : State :=
  createJob (fun _ => newJob ecKLD prio creator noHandle noHandle (List.replicate 16 0) (.kld nix u)) s

/-- The service class of what a key is loaded for. -/
def useClass (u : KeyUse) (s : State) : Nat :=
  match u with
  | .openAcc a => ((s.acc a).map (·.cls)).getD 7
  | .sealAck a => ((s.acc a).map (·.cls)).getD 7
  | .sealDl d => ((s.dl d).map (·.cls)).getD 7

/-- The CPH job for a use, once its key is known to be in a slot (R235, R246, R250, R366). An ack keeps the sequence number of the frame that it acknowledges, so the
low octet of its counter goes only where the counter itself lies. -/
def useJob (u : KeyUse) (s : State) : Job :=
  let prio := svcPrio (useClass u s) s
  match u with
  | .openAcc a =>
    match s.acc a with
    | some x =>
      let mic := micLen x.level
      let slot := s.getF F.FLD_CFG_KEY_SLOT
      newJob ecCPH prio (ecRXA * 4096) x.buffer noHandle
        (cphArgs 1 (x.level - 4) 0 x.level 0 x.hdrLen (x.psduLen - (if x.fcs32 then 4 else 2) - mic - x.hdrLen) (x.form != 2) (if x.form = 2 then slot else 0) x.nix (x.hdrLen - 4) 0)
        (.cipher u)
    | none => newJob ecCPH prio 0 noHandle noHandle (List.replicate 16 0) .none
  | .sealAck a =>
    let x := s.acc a
    let n := (x.map (·.ackFrame.length)).getD 0
    newJob ecCPH prio (ecTXL * 4096) noHandle noHandle (cphArgs 2 1 1 5 0 10 (n - 10) true 0 ((x.map (·.nix)).getD 0) 6 6) (.cipher u)
  | .sealDl d =>
    let x := s.dl d
    let nix := (x.map (·.nix)).getD 0
    let level := secLevel nix s
    let hdr := match x with | some x => (if x.source == .response then 16 else 10) | none => 10
    let n := (x.map (·.frame.length)).getD 0
    newJob ecCPH prio (ecTXL * 4096) noHandle noHandle (cphArgs 2 (level - 4) 1 level 0 hdr (n - hdr) true 0 nix (hdr - 4) 2) (.cipher u)

end Sys2Proof.Machine
end

