-- ==== Sys2Proof/Machine/AssocOps.lean ====
section
/-! DEFINITION. Associations as part of other events: schedules, requests, responses, supervision and the settling of schedule updates (R214, R221 to R228). -/

namespace Sys2Proof.Machine

/-- An entry of the schedule template `p` with its OFFSET for a node (R209, R214). -/
def templEntry (p i nix len : Nat) (s : State) : Nat :=
  let w := (s.tab 1 (0x40000 + 64 * p + 4 * (i + 1))).toNat
  let stride := (s.tab 1 (0x40000 + 64 * p)).toNat % 65536
  w - seOffset w * 65536 + (seOffset w + nix * stride) % max len 1 * 65536

/-- The schedule block that a template gives a node, none when the template is not enabled (R214). -/
def templBlock (p nix : Nat) (relay : Bool) (s : State) : Option (List Byte) :=
  let h := (s.tab 1 (0x40000 + 64 * p)).toNat
  if h < 2 ^ 31 then none
  else
    let sf := h / 2 ^ 24 % 8
    let len := sfLen sf s
    let es := ((List.range (h / 2 ^ 20 % 16)).map fun i => templEntry p i nix len s).filter fun e => seKind e != 2 || relay
    some ([BitVec.ofNat 8 sf] ++ leBytes 2 len ++ [BitVec.ofNat 8 es.length] ++ (es.map (leBytes 4)).flatten)

/-- The schedule of a node at association: the explicit one of its entry, or that of its profile's template (R214). -/
def scheduleFor (nix : Nat) (s : State) : Option (List Byte) :=
  let e := s.entry nix
  if entBits e 10 1 1 = 1 then some (entPutBits ((e.drop 68).take 36) 0 7 4 0) else templBlock (entProfile e) nix (entBits e 10 4 4 == 1) s

/-- SUP_S of a node (R226, R270), and its supervision deadline from now on. -/
def supOf (e : List Byte) (s : State) : Nat := if entNat e 34 2 = 0 then s.getF F.ASC_CFG_SUP_S else entNat e 34 2
def withSup (e : List Byte) (s : State) : List Byte := entPut e 36 4 (s.clk.slot / sec + supOf e s)

/-- A response is over: it leaves the slot engine with its frame. -/
def dropResponse (nix : Nat) (s : State) : State :=
  let s := (s.slt.responses.filter fun r => r.nix == nix).foldl (fun s r => s.setDl r.dl none) s
  s.updSlt fun x => { x with responses := x.responses.filter fun r => r.nix != nix }

/-- A PENDING association becomes ACTIVE (R225). -/
def assocActive (nix : Nat) (s : State) : State :=
  let s := putEntry nix (entPutBits (withSup (s.entry nix) s) 32 1 0 asActive) (dropResponse nix s)
  let s := joinRoster nix (s.incF (F.ASC_CNT_COUNT 4))
  if s.getF F.ASC_CFG_NODE_NOTICES = 1 then notify N.ASSOC scOk 0 nix s else s

/-- SPACING and the centre of channel 0 of a port in the form of R224. -/
def radioWord (n mode : Nat) (fec : Bool) (s : State) : Nat :=
  bit fec * 2 ^ 24 + mode % 16 * 2 ^ 20 + s.getF (F.RFP_CHAN_CFG_SPACING n) % 8 * 2 ^ 17 + s.getF (F.RFP_CHAN_CFG_CH0_KHZ n) / 25 % 2 ^ 17

/-- The channels of a port with the class of the request's channel, as a map (R224). -/
def classMap (n cls : Nat) (s : State) : List Byte :=
  (List.range 16).map fun b => BitVec.ofNat 8 (((List.range 8).filter fun k => chanOn n (8 * b + k) s && chanClass n (8 * b + k) s == cls).foldl (fun a k => a + 2 ^ k) 0)

/-- The payload of an association response (R224). -/
def responsePayload (nix result : Nat) (s : State) : List Byte :=
  let e := s.entry nix
  if result ≠ 0 then [0x21, BitVec.ofNat 8 result]
  else [0x21, 0] ++ leBytes 2 (entNat e 8 2) ++ leBytes 5 (entNat e 40 5) ++ [BitVec.ofNat 8 (s.getF F.SLT_CONFIG_SLOT_CODE)] ++ leBytes 2 (supOf e s)
    ++ leBytes 4 (entNat e 48 4) ++ (e.drop 52).take 16 ++ leBytes 2 (s.getF F.SLT_ADDR_RID) ++ (entSched e).take (4 + 4 * blkCount (entSched e))

/-- A response, or a LEAVE with REASON 0x02, made ready for its slots (R223, R225): `src` tells which; its frame never enters the shaper (R290). -/
def makeResponse (src : DlSource) (a : Accept) (result : Nat) (payload : List Byte) (s : State) : State :=
  let s := dropResponse a.nix s
  let i := s.xch.nextDl
  let s := (s.updXch fun x => { x with nextDl := i + 1 }).setDl i (some (newDl a.nix a.port a.cls src 0 payload false))
  let r : Response := ⟨a.nix, senAt a.sfd s, s.getF F.SLT_BCN_CFG_RSP_SLOTS, 0, a.port, a.channel, a.mode, a.fec, a.fcs32, result, i⟩
  s.updSlt fun x => { x with responses := x.responses ++ [r] }

/-- The entry of a node whose request is granted: state, schedule, anchor, and the radio fields that it does not hold itself (R223, R224). -/
def grantedEntry (a : Accept) (b : List Byte) (s : State) : List Byte :=
  let e := s.entry a.nix
  let len := max (blkLen b) 1
  let s3 := senAt a.sfd s + 3 * s.getF F.SLT_BCN_CFG_RSP_SLOTS
  let e := entPut e 40 5 ((s3 / len + 1) * len)
  let e := e.take 104 ++ fit 36 b ++ e.drop 140
  let e := entPutBits e 32 1 0 asPending
  if entBits e 10 0 0 = 1 then e
  else
    let e := entPutBits e 33 3 0 a.port
    let e := entPut e 48 4 (radioWord a.port a.mode a.fec s)
    e.take 52 ++ classMap a.port (chanClass a.port a.channel s) s ++ e.drop 68

/-- An accepted association request (R222, R223). -/
def assocRequest (a : Accept) (p : List Byte) (s : State) : State :=
  if s.getF F.SLT_BCN_CFG_JOIN_OPEN = 0 then s.incF (F.SLT_CNT_COUNT 10)
  else
    let s := s.incF (F.ASC_CNT_COUNT 0)
    if entNat p 1 1 ≠ 1 then makeResponse .response a 2 (responsePayload a.nix 2 s) (s.incF (F.ASC_CNT_COUNT 2))
    else
      let s := putEntry a.nix (entPutBits (s.entry a.nix) 10 4 2 (entBits p 2 2 0)) s
      match scheduleFor a.nix s with
      | some b =>
        if entBits (s.entry a.nix) 10 6 6 = 1 then makeResponse .response a 1 (responsePayload a.nix 1 s) (s.incF (F.ASC_CNT_COUNT 2))
        else
          let s := if entAssoc (s.entry a.nix) = asNone then s else assocEnd a.nix scDenied s
          let s := putEntry a.nix (grantedEntry a b s) s
          makeResponse .response a 0 (responsePayload a.nix 0 s) s
      | none => makeResponse .response a 1 (responsePayload a.nix 1 s) (s.incF (F.ASC_CNT_COUNT 2))

/-- An accepted LEAVE of a node (R228). -/
def nodeLeaves (nix reason : Nat) (s : State) : State :=
  let s := (assocEnd nix scDenied s).incF (F.ASC_CNT_COUNT 9)
  notify N.NODE_LEFT scOk 0 (reason % 16 * 2 ^ 20 + nix) s

/-- The instant from which a new schedule holds is its anchor: the first slotframe start at or after it (R227). -/
def adoptedEntry (u : SchedUpd) (s : State) : List Byte :=
  let e := s.entry u.nix
  let len := max (blkLen u.block) 1
  let e := e.take 104 ++ fit 36 u.block ++ e.drop 140
  let e := entPut e 40 5 ((u.instantSen + len - 1) / len * len)
  let e := if u.supS = 0 then e else entPut e 34 2 u.supS
  let e := if u.map.all (· == 0) then e else e.take 52 ++ fit 16 u.map ++ e.drop 68
  entPutBits e 32 1 0 asActive

/-- An update adopted: the new schedule is in force, and the roster follows it (R227, R285). -/
def adoptSched (u : SchedUpd) (s : State) : State :=
  let s := putEntry u.nix (adoptedEntry u s) s
  let s := if canRelay (s.entry u.nix) then joinRoster u.nix s else leaveRoster u.nix s
  schedDone u.nix scOk s

/-- An unresolved update settled by the SGEN of an uplink (R227). -/
def settleSched (nix sgen : Nat) (s : State) : State :=
  match s.slt.updates.find? fun u => u.nix == nix with
  | some u =>
    if sgen = blkSgen u.block then adoptSched u s
    else
      let old := blkSgen (entSched (s.entry nix))
      schedDone nix (if sgen = old then scTimeout else scDenied) (putEntry nix (entPutBits (s.entry nix) 32 1 0 asActive) s)
  | none => s

/-- An update that a takeover cut short, settled by the SGEN of an uplink: that of SCHED_ACTIVE keeps the schedule, any other ends the association (R479). -/
def settleCarried (a : Accept) (sgen : Nat) (s : State) : State :=
  if sgen = blkSgen (entSched (s.entry a.nix)) then schedDone a.nix scTimeout (putEntry a.nix (entPutBits (s.entry a.nix) 32 1 0 asActive) s)
  else makeResponse .leave02 a 3 [0x23, 2] (assocEnd a.nix scTimeout s)

/-- What an accepted uplink other than a request means to its node's association (R225 to R227): `sgen` where it carries one; answers whether the frame is dispatched. -/
def assocUplink (a : Accept) (sgen : Option Nat) (s : State) : Bool × State :=
  let st := entAssoc (s.entry a.nix)
  if st = asNone then
    (false, makeResponse .leave02 a 3 [0x23, 2] s)
  else if st = asPending then (true, assocActive a.nix s)
  else
    let s := setEntry a.nix (withSup (s.entry a.nix) s) s
    if st = asUncertain then
      match sgen with
      | some g => (true, if s.slt.updates.any fun u => u.nix == a.nix then settleSched a.nix g s else settleCarried a g s)
      | none => (true, s)
    else (true, s)

/-- Supervision restarted by a repeat (R226). -/
def assocRepeat (nix : Nat) (s : State) : State :=
  if 2 ≤ entAssoc (s.entry nix) then setEntry nix (withSup (s.entry nix) s) s else s

end Sys2Proof.Machine
end

