-- ==== Sys2Proof/Machine/PortOps.lean ====
section
/-! DEFINITION. What a radio port does as part of several events: settling, holding and ending commands, the launch, QUIET and OFF (R150 to R169, R547). -/

namespace Sys2Proof.Machine

/-- Port states (R150). -/
def psOff : Nat := 0
def psCal : Nat := 1
def psRx : Nat := 2
def psSettle : Nat := 3
def psTxReady : Nat := 4
def psTx : Nat := 5
def psQuiet : Nat := 6

/-- RFPn_STATUS.STATE. -/
def State.pstate (s : State) (n : Nat) : Nat := s.getF (F.RFP_STATUS_STATE n)

/-- RFPn_STATUS.STATE set. -/
def setPstate (n v : Nat) (s : State) : State := s.setF (F.RFP_STATUS_STATE n) v

/-- The receive centre frequency in kHz. -/
def centre (n : Nat) (s : State) : Nat := s.getF (F.RFP_RXTUNE_CENTRE_KHZ n)

/-- The synthesiser of a port moves toward a frequency: the receive path is blanked and every reception ends (R150, R194). -/
def retune (n khz : Nat) (s : State) : State :=
  let s := (s.setF (F.RFP_STATUS_LOCK n) 0).setF (F.RFP_STATUS_BLANK n) 1
  blankPort n (s.updPort n fun p => { p with locked := none, target := khz, holdEnd := none })

/-- The port enters SETTLE toward a frequency (R151). -/
def settle (n khz : Nat) (s : State) : State := setPstate n psSettle (retune n khz s)

/-- The port settles toward its receive centre, or is in RX at once when it is locked there (R151, R547). -/
def towardRx (n : Nat) (s : State) : State :=
  if (s.port n).locked = some (centre n s) then
    setPstate n psRx ((s.setF (F.RFP_STATUS_BLANK n) 0).setF (F.RFP_STATUS_LOCK n) 1)
  else settle n (centre n s) s

/-- TRSW_LEAD in ticks. -/
def trswLead (n : Nat) (s : State) : Nat := s.getF (F.RFP_FE_TIMING_TRSW_LEAD n) * us

/-- The start point S of a command (R155). -/
def startPoint (n : Nat) (h : Held) (s : State) : Nat :=
  match h.cmd.launch with
  | some l => l - trswLead n s
  | none => h.accepted

/-- COEX_REQk of the port deasserted (R169). -/
def dropReq (n : Nat) (s : State) : State := s.updPort n fun p => { p with req := [] }

/-- The counter of RFPn_CNT_k that an outcome counts in (R159). -/
def outcomeCounter (status reason : Nat) : Option Nat :=
  if status = scOk then some 0 else if status = scLate then some 1
  else if status = scDenied then (if reason = 3 then some 2 else some 3) else none

/-- An outcome recorded in RFPn_TX_LAST and counted (R159). -/
def recordOutcome (n status reason : Nat) (s : State) : State :=
  let s := (s.setF (F.RFP_TX_LAST_STATUS n) status).setF (F.RFP_TX_LAST_REASON n) reason
  match outcomeCounter status reason with
  | some k => s.incF (F.RFP_CNT_COUNT n k)
  | none => s

/-- The port's command ends with an outcome: recorded, taken from the port, and known to the exchange engine (R159). A PPDU already sent in full has its outcome. -/
def endHeld (n status reason : Nat) (s : State) : State :=
  match (s.port n).held with
  | none => s
  | some h =>
    let sent := (s.port n).sent
    let begun := (s.port n).begun.isSome
    let s := (dropReq n s).updPort n fun p => { p with held := none, begun := none, sent := false, overCnt := 0 }
    if sent then s else onTxEnd n h begun status (recordOutcome n status reason s)

/-- A command that waits in the exchange engine ends (R548). -/
def endWaiting (n : Nat) (h : Held) (status reason : Nat) (s : State) : State :=
  let s := recordOutcome n status reason s
  onTxEnd n h false status (s.updPort n fun p => { p with waiting := p.waiting.erase h })

/-- The return state after a PPDU or a failed command (R152). -/
def toReturnState (n : Nat) (khz : Nat) (s : State) : State :=
  let hold := s.getF (F.RFP_CTRL_TXR_HOLD n)
  if s.getF (F.RFP_CTRL_RET_STATE n) = 1 ∧ hold ≠ 0 ∧ (s.port n).locked = some khz ∧ s.pstate n ≠ psRx then
    setPstate n psTxReady (s.updPort n fun p => { p with holdEnd := some (s.clk.slot + hold * us) })
  else towardRx n s

/-- The port's command fails and the port enters its return state (R152, R159). -/
def failHeld (n status reason : Nat) (s : State) : State :=
  match (s.port n).held with
  | none => s
  | some h => toReturnState n h.cmd.khz (endHeld n status reason s)

/-- Whether a frequency is permitted (R158, R166). -/
def permitted (n khz : Nat) (s : State) : Bool :=
  s.getF (F.RFP_PERMIT_LO_KHZ n) ≤ khz && khz ≤ s.getF (F.RFP_PERMIT_HI_KHZ n)

/-- Enabled coexistence pairs that a port is bound to. -/
def boundPairs (n : Nat) (s : State) : List Nat :=
  (List.range 4).filter fun k => s.getF (F.RFP_COEX_PAIRS n) / 2 ^ k % 2 == 1 && s.getF (F.COEX_PAIR_EN k) == 1

/-- COEX_GNTk active: its level and polarity (R169). -/
def gntActive (k : Nat) (s : State) : Bool := s.radio.gnt / 2 ^ k % 2 != s.getF (F.COEX_PAIR_GNT_POL k)

/-- COEX_REQk asserted: some port keeps it (R169). -/
def reqActive (k : Nat) (s : State) : Bool := (List.range 16).any fun n => (s.port n).req.any fun r => r.1 == k

/-- Requests of a port for its enabled pairs asserted now, where they are not already (R169). -/
def assertReq (n : Nat) (ks : List Nat) (s : State) : State :=
  s.updPort n fun p => { p with req := p.req ++ (ks.filter fun k => !(p.req.any fun r => r.1 == k)).map fun k => (k, s.clk.slot) }

/-- Every grant that a command requires is active (R169). -/
def grantsActive (n : Nat) (h : Held) (s : State) : Bool :=
  (boundPairs n s).all fun k => (h.cmd.kind == .ack && s.getF (F.COEX_PAIR_ACK_OVERRIDE k) == 1) || gntActive k s

/-- Every grant that a command requires is present, and for an as-soon-as-possible command LEAD_US has passed since each request (R169). -/
def grantsOk (n : Nat) (h : Held) (s : State) : Bool :=
  grantsActive n h s && (boundPairs n s).all fun k =>
    (h.cmd.launch.isSome || (s.port n).req.any fun r => r.1 == k && r.2 + s.getF (F.COEX_PAIR_LEAD_US k) * us ≤ s.clk.slot)

/-- The synthesiser is locked at a command's frequency, as a transmit frequency (R154, R155). -/
def lockOk (n : Nat) (h : Held) (s : State) : Bool := (s.port n).locked == some h.cmd.khz && s.pstate n == psTxReady

/-- A calibration keeps the command back; an ACK of a frame that ended by the chosen boundary goes on (R160, R172). -/
def calHolds (n : Nat) (h : Held) (s : State) : Bool :=
  2 ≤ (s.port n).cal.phase && !(h.cmd.kind == .ack && (s.port n).cal.phase == 2 && h.cmd.frameEnd ≤ (s.port n).cal.boundary)

/-- The remaining time of a FRAME or BEACON command (R156). -/
def remaining (h : Held) (s : State) : Nat := h.slotEnd - s.clk.slot

/-- LATE_LIMIT_US in ticks. -/
def lateLimit (n : Nat) (s : State) : Nat := s.getF (F.RFP_TXLIM_LATE_LIMIT_US n) * us

/-- REASON of a LATE outcome (R159). -/
def lateReason (n : Nat) (h : Held) (s : State) : Nat :=
  if !lockOk n h s then 1 else if !grantsOk n h s then 2 else 8

/-- Airtime in ticks over the rolling window (R168). -/
def dutyUsed (n : Nat) (s : State) : Nat := (s.port n).duty.sum

/-- A launch of this airtime would exceed the duty budget (R168). -/
def dutyExceeded (n airtime : Nat) (s : State) : Bool :=
  s.getF (F.RFP_DUTY_LIMIT n) * s.getF (F.RFP_DUTY_WINDOW_S n) * sec < (dutyUsed n s + airtime) * 1000

/-- RFPn_DUTY_USED as the window stands. -/
def syncDuty (n : Nat) (s : State) : State := s.setF (F.RFP_DUTY_USED_USED_US n) (dutyUsed n s / us)

/-- Airtime booked to the current sub-window (R168). -/
def bookDuty (n airtime : Nat) (s : State) : State :=
  syncDuty n (s.updPort n fun p => { p with duty := match p.duty with
    | [] => [airtime]
    | a :: r => (a + airtime) :: r })

/-- Notice DUTY_LIMIT on the first refusal in the sub-window (R168). -/
def noteDuty (n : Nat) (s : State) : State :=
  if (s.port n).dutyNoticed then s
  else notify (N.DUTY_LIMIT n) scDenied n (s.getF (F.RFP_DUTY_USED_USED_US n)) (s.updPort n fun p => { p with dutyNoticed := true })

/-- An entry word of a compensation table as a correction (R165). -/
def compEntry (n off : Nat) (s : State) : Int := toSigned 8 ((s.tab 0 (0x4000 * n + off)).toNat % 256)

/-- The temperature correction in tenths of a step (R164). -/
def tempCorr (n : Nat) (hiBand : Bool) (s : State) : Int :=
  let b := if hiBand then 0x40 else 0
  let t := (s.port n).tj
  if t ≤ -40 then 10 * compEntry n b s
  else if 110 ≤ t then 10 * compEntry n (b + 60) s
  else
    let i := ((t + 40) / 10).toNat
    let e := compEntry n (b + 4 * i) s
    10 * e + (t + 40 - 10 * i) * (compEntry n (b + 4 * i + 4) s - e)

/-- The VIN points of the supply tables in mV (R164). -/
def vinPoints : List Nat := [1650, 1800, 2100, 2400, 2700, 3000, 3300, 3600]

/-- The supply correction in 300ths of a step (R164). -/
def supCorr (n : Nat) (hiBand : Bool) (s : State) : Int :=
  let b := if hiBand then 0xA0 else 0x80
  let v := s.radio.vinMv
  if v ≤ 1650 then 300 * compEntry n b s
  else if 3600 ≤ v then 300 * compEntry n (b + 28) s
  else
    let i := (vinPoints.filter fun p => p ≤ v).length - 1
    let e := compEntry n (b + 4 * i) s
    300 * e + (v - vinPoints.getD i 0 : Int) * (if i = 0 then 2 else 1) * (compEntry n (b + 4 * i + 4) s - e)

/-- Whether a frequency lies in the 2.4 GHz band. -/
def hiBand (khz : Nat) : Bool := 2400000 ≤ khz

/-- Corrections of a port in RFPn_COMP_STATUS, with the tables of the band of its receive centre (R164). -/
def syncComp (n : Nat) (s : State) : State :=
  let b := hiBand (centre n s)
  let s := s.setF (F.RFP_COMP_STATUS_VIN n) (s.radio.vinMv / 20)
  let s := s.setF (F.RFP_COMP_STATUS_TEMP_CORR n) (ofSigned 8 ((tempCorr n b s * 4).tdiv 10))
  s.setF (F.RFP_COMP_STATUS_SUP_CORR n) (ofSigned 8 ((supCorr n b s * 4).tdiv 300))

/-- The applied setting of a launch (R163): request and corrections summed, rounded with a half going to the lower step, and clamped to −80 and MAX. -/
def appliedSetting (n : Nat) (c : TxCmd) (s : State) : Int :=
  let req := c.setting.getD (toSigned 8 (s.getF (F.RFP_TXPWR_DEFAULT n)))
  let sum := 300 * req + 30 * tempCorr n (hiBand c.khz) s + supCorr n (hiBand c.khz) s
  max (-80) (min ((sum + 149) / 300) (toSigned 8 (s.getF (F.RFP_TXPWR_MAX n))))

/-- The launch sequence begins: TRSW_n to transmit, the setting fixed, the airtime booked; the first PPDU bit leaves TRSW_LEAD later (R155, R161, R163, R168). -/
def beginLaunch (n : Nat) (h : Held) (s : State) : State :=
  let s := setPstate n psTx (s.updPort n fun p => { p with begun := some s.clk.slot, sent := false, overCnt := 0, holdEnd := none })
  let s := s.setF (F.RFP_TX_LAST_APPLIED n) (ofSigned 8 (appliedSetting n h.cmd s))
  let air := (s.port n).airRest + h.cmd.airtime
  let s := ((bookDuty n h.cmd.airtime s).updPort n fun p => { p with airRest := air % ms }).satF (F.RFP_CNT_COUNT n 9) (air / ms)
  let s := s.emit (.ppdu n (match h.cmd.kind with | .frame => 0 | .beacon => 1 | .ack => 2) h.cmd.channel (s.clk.slot + trswLead n s))
  onLaunch n h (s.clk.slot + trswLead n s) s

/-- Whether the launch waits: no lock, a grant missing, a calibration, an ack reservation, or an ack's release that waits for the journal (R155, R160, R248, R474). -/
def launchReady (n : Nat) (h : Held) (s : State) : Bool :=
  lockOk n h s && grantsOk n h s && !calHolds n h s && !ackReserved n h s && !releaseWaits h s

/-- Checks 1 to 3 at the start of the launch sequence, then the launch (R158). -/
def checkedLaunch (n : Nat) (h : Held) (s : State) : State :=
  if s.pstate n = psQuiet then endHeld n scSafeHold 5 s
  else if !permitted n h.cmd.khz s then failHeld n scDenied 4 s
  else if dutyExceeded n h.cmd.airtime s then noteDuty n (failHeld n scDenied 3 s)
  else beginLaunch n h s

/-- A command held for a missing grant is counted once. -/
def noteGrant (n : Nat) (h : Held) (s : State) : State :=
  if grantsActive n h s || h.grantHeld then s
  else (s.updPort n fun p => { p with held := some { h with grantHeld := true } }).incF (F.RFP_CNT_COUNT n 8)

/-- The command of a port at or after its start point: withdrawn, launched, failed LATE, or held on (R155 to R158, R247). -/
def tryLaunch (n : Nat) (s : State) : State :=
  match (s.port n).held with
  | none => s
  | some h =>
    let st := startPoint n h s
    if (s.port n).begun.isSome || s.clk.slot < st then s
    else if !ackReleased h s then failHeld n scCancelled 0 s
    else if h.cmd.kind == .beacon && lockOk n h s && grantsOk n h s && ackReserved n h s then failHeld n scLate 8 s
    else if launchReady n h s then
      match h.cmd.kind with
      | .ack => if st + 20 * us < s.clk.slot then failHeld n scLate (lateReason n h s) s else checkedLaunch n h s
      | _ => if st < s.clk.slot && decide (remaining h s < lateLimit n s) then failHeld n scLate (lateReason n h s) s else checkedLaunch n h s
    else if h.cmd.kind != .ack && decide (remaining h s < lateLimit n s) then failHeld n scLate (lateReason n h s) (noteGrant n h s)
    else noteGrant n h s

/-- The port starts toward a held command's frequency, unless it is locked there (R154). -/
def settleFor (n : Nat) (h : Held) (s : State) : State :=
  if lockOk n h s then s.updPort n fun p => { p with holdEnd := none }
  else settle n h.cmd.khz s

/-- Slot clock at which a timed command's settle starts (R154). -/
def settleAt (n : Nat) (l : Nat) (s : State) : Nat := l - trswLead n s - 80 * us

/-- Pairs whose request is due at acceptance: all for an as-soon-as-possible command, those whose LEAD_US has begun for a timed one (R169). -/
def dueReqs (n : Nat) (h : Held) (s : State) : List Nat :=
  (boundPairs n s).filter fun k => h.cmd.launch.isNone || startPoint n h s ≤ s.clk.slot + s.getF (F.COEX_PAIR_LEAD_US k) * us

/-- The moment of acceptance, and the slot that holds it for an as-soon-as-possible command; a wait that counts toward R156 keeps its own (R154, R156, R548). -/
def acceptedNow (h : Held) (s : State) : Held :=
  if h.waits then h
  else { h with accepted := s.clk.slot, slotEnd := if h.cmd.launch.isNone then slotEndAfter s.clk.slot s else h.slotEnd }

/-- The port accepts a command (R154, R158): checks 1 and 2, then the settle where it is due. -/
def acceptCmd (n : Nat) (h : Held) (s : State) : State :=
  let h := acceptedNow h s
  let s := s.updPort n fun p => { p with held := some h, begun := none, sent := false }
  if s.pstate n = psQuiet then endHeld n scSafeHold 5 s
  else if !permitted n h.cmd.khz s then failHeld n scDenied 4 s
  else
    let s := assertReq n (dueReqs n h s) s
    let s := match h.cmd.launch with
      | none => if calHolds n h s then s else settleFor n h s
      | some l => if settleAt n l s ≤ s.clk.slot && !calHolds n h s then settleFor n h s else s
    if startPoint n h s ≤ s.clk.slot then tryLaunch n s else s

/-- Whether an ACK takes the port from the command it holds (R548). -/
def ackTakes (new old : Held) : Bool :=
  new.cmd.kind == .ack && (old.cmd.kind != .ack || decide (new.cmd.launch.getD 0 < old.cmd.launch.getD 0))

/-- A command issued to a port: accepted, held back in the exchange engine, or ended at once (R154, R159, R172, R548). -/
def issueCmd (n : Nat) (h : Held) (s : State) : State :=
  if s.pstate n = psOff then onTxEnd n h false scCancelled (recordOutcome n scCancelled 7 s)
  else if calHolds n h s && s.pstate n != psQuiet then s.updPort n fun p => { p with waiting := p.waiting ++ [{ h with waits := true }] }
  else match (s.port n).held with
  | none => acceptCmd n h s
  | some o =>
    if ackTakes h o && (s.port n).begun.isNone then
      acceptCmd n h (dropReq n (s.updPort n fun p => { p with waiting := p.waiting ++ [{ o with handed := true, waits := true }] }))
    else s.updPort n fun p => { p with waiting := p.waiting ++ [h] }

/-- The command that goes first of those that wait: the ACK with the earliest L, otherwise the one that has waited longest (R154, R248). -/
def firstWaiting (l : List Held) : Option Held :=
  let acks := l.filter fun h => h.cmd.kind == .ack
  match acks with
  | [] => l.head?
  | a :: r => some (r.foldl (fun b h => if h.cmd.launch.getD 0 < b.cmd.launch.getD 0 then h else b) a)

/-- A free port that a calibration keeps from a waiting command: its wait counts toward R156 from here (R548). -/
def markWait (n : Nat) (s : State) (h : Held) : Held :=
  if h.waits || !calHolds n h s then h else { acceptedNow h s with waits := true }

/-- The next command that has waited for the port to be free is accepted (R154). -/
def acceptNext (n : Nat) (s : State) : State :=
  match (s.port n).held, firstWaiting ((s.port n).waiting.filter fun h => !h.handed && !calHolds n h s) with
  | none, some h => issueCmd n h (s.updPort n fun p => { p with waiting := p.waiting.erase h })
  | none, none => s.updPort n fun p => { p with waiting := p.waiting.map (markWait n s) }
  | _, _ => s

/-- Commands that wait for a port in QUIET are accepted and end SAFE_HOLD; one handed back is issued again first (R154, R158, R548). -/
def drainQuiet (n : Nat) (s : State) : State :=
  ((s.port n).waiting.filter fun h => !h.handed).foldl (fun s h => endWaiting n h scSafeHold 5 s) s


/-- A port is OFF: its command and the commands that wait for it end CANCELLED with REASON 0x7 OFF (R151, R153, R159). -/
def portOff (n : Nat) (s : State) : State :=
  let s := endHeld n scCancelled 7 s
  let s := (s.port n).waiting.foldl (fun s h => endWaiting n h scCancelled 7 s) s
  let s := blankPort n (setPstate n psOff s)
  let s := ((s.setF (F.RFP_STATUS_LOCK n) 0).setF (F.RFP_STATUS_BLANK n) 1).setF (F.RFP_CAL_STATUS_PENDING n) 0
  (s.setF (F.RFP_CAL_STATUS_RUNNING n) 0).updPort n fun p =>
    { p with locked := none, holdEnd := none, stopping := false, req := [], cal := { p.cal with phase := 0 } }

/-- A port enters QUIET (R151, R547); one in CAL goes on, one whose boundary has come returns to pending, and one whose PPDU alone kept it in service goes OFF (R151). -/
def quietPort (n : Nat) (s : State) : State :=
  let st := s.pstate n
  if st = psOff ∨ st = psQuiet ∨ st = psCal then s
  else
    let s := if (s.port n).cal.phase = 2 then
        ((s.updPort n fun p => { p with cal := { p.cal with phase := 1 } }).setF (F.RFP_CAL_STATUS_RUNNING n) 0).setF (F.RFP_CAL_STATUS_PENDING n) 1
      else s
    let s := drainQuiet n (dropReq n (endHeld n scSafeHold 5 s))
    if (s.port n).stopping then portOff n s
    else if st = psRx then setPstate n psQuiet s else setPstate n psQuiet (retune n (centre n s) s)

/-- Every port enters QUIET (R491). -/
def quietPorts (s : State) : State := (List.range 16).foldl (fun s n => quietPort n s) s

/-- A port leaves QUIET for RX (R151, R547); CAL_MAX_DEFER_MS of a pending calibration counts from here. -/
def resumePort (n : Nat) (s : State) : State :=
  if s.pstate n = psQuiet then
    towardRx n (s.updPort n fun p => { p with cal := { p.cal with since := s.clk.now } })
  else s

/-- Every port leaves QUIET (R494). -/
def resumePorts (s : State) : State := (List.range 16).foldl (fun s n => resumePort n s) s

/-- Every port that is not OFF goes OFF, and the RF domain with them (R153). -/
def portsOff (s : State) : State :=
  ((List.range 16).foldl (fun s n => if s.pstate n = psOff then s else portOff n s) s).setF F.TOP_STATUS_RF_UP 0

/-- A calibration starts now, as when ENABLE takes effect, at takeover and for a failed port (R170, R171). -/
def startCal (n : Nat) (s : State) : State :=
  let s := setPstate n psCal (blankPort n s)
  let s := (((s.setF (F.RFP_CAL_STATUS_PENDING n) 0).setF (F.RFP_CAL_STATUS_RUNNING n) 1).setF (F.RFP_STATUS_BLANK n) 1).setF (F.RFP_STATUS_LOCK n) 0
  let s := (s.setF (F.RFP_CAL_STATUS_DEFER_MS n) 0).setF F.TOP_STATUS_RF_UP 1
  s.updPort n fun p => { p with locked := none, cal := { p.cal with phase := 3, start := s.clk.now, boundary := s.clk.slot } }

/-- A trigger that R172 defers: merged into a calibration pending or running (R170). -/
def pendCal (n : Nat) (s : State) : State :=
  if (s.port n).cal.phase ≠ 0 then s
  else (s.setF (F.RFP_CAL_STATUS_PENDING n) 1).updPort n fun p => { p with cal := { p.cal with phase := 1, since := s.clk.now } }

end Sys2Proof.Machine
end

