-- ==== Sys2Proof/Machine/SafeOps.lean ====
section
/-! DEFINITION. Entry into the safe state (R490 to R496) and into SAFE_HOLD at start-up (R86). -/

namespace Sys2Proof.Machine

/-- Whether a cause of SAF_STATUS.CAUSE is left only by reset (R486). -/
def causeResetOnly (i : Nat) : Bool := [2, 3, 4, 5, 9, 10].contains i

/-- The cause bit set, with RESET_ONLY where the cause requires it. -/
def addCause (i : Nat) (s : State) : State :=
  let s := s.setF ⟨0x170000, i, i⟩ 1
  if causeResetOnly i then s.setF F.SAF_STATUS_RESET_ONLY 1 else s

/-- The freeze delay that a masked cause starts; of two, the one that ends first freezes (R507, R514). -/
def armFreeze (i : Nat) (s : State) : State :=
  if s.getF F.FRZ_CFG_CAUSE_MASK / 2 ^ i % 2 = 1 then
    let d := s.clk.now + s.getF F.FRZ_CFG_DELAY_US * us
    { s with frz := { s.frz with delayEnd := some (min d (s.frz.delayEnd.getD d)) } }
  else s

/-- SAFE_N asserted with TOP_STATUS.SAFE, and STATE at SAFE_HOLD (R491, R495); SAFE_HOLD has no power mode (R99). -/
def assertSafe (s : State) : State :=
  let s := ((s.setF F.TOP_STATUS_SAFE 1).setF F.TOP_STATUS_STATE stSafeHold).setF F.PWR_STATUS_MODE 0
  { s with pins := { s.pins with safeN := true } }

/-- The safe state is entered (R491). -/
def enterSafeFresh (i : Nat) (s : State) : State :=
  let auto := s.mode == stAutonomous
  let s := quietPorts (addCause i s)
  let s := (assertSafe s).setF F.SAF_STATUS_SAFE 1
  let s := { s with saf := { s.saf with fromAuto := auto } }
  let s := requestTakeover s
  let s := if s.fuses.pairRoot then releaseOwnN s else s
  let s := abandonTakeover (s.incF (F.SAF_CNT_COUNT 0))
  let s := discardTxn s
  let s := notify N.SAFE_ENTER scSafeHold 0 (s.getF F.SAF_STATUS_CAUSE) s
  armFreeze i s

/-- A detection that leads to the safe state: entry from AUTONOMOUS, from RESERVE and in a takeover; while it is in force only the cause is added (R490, R503). -/
def enterSafe (i : Nat) (s : State) : State :=
  if s.getF F.SAF_STATUS_SAFE = 1 then armFreeze i (addCause i s)
  else if s.mode = stAutonomous ∨ s.mode = stReserve then enterSafeFresh i s
  else s

/-- The reaction that SAF_CFG selects: REPORT counts and goes on, otherwise the safe state (R496). -/
def safeOrReport (report : Bool) (i : Nat) (s : State) : State :=
  if report then s.incF (F.SAF_CNT_COUNT 3) else enterSafe i s

/-- FAIL codes of CFG_STATUS. -/
def fcIdentity : Nat := 0x01
def fcPll : Nat := 0x02
def fcDramTrain : Nat := 0x03
def fcBist : Nat := 0x04
def fcNoImage : Nat := 0x05
def fcAmbiguous : Nat := 0x06
def fcApply : Nat := 0x07
def fcCalAll : Nat := 0x08
def fcCatDigest : Nat := 0x09
def fcCatRange : Nat := 0x0A
def fcLcsVoid : Nat := 0x0B
def fcNvm : Nat := 0x0C
def fcFuse : Nat := 0x0D
def fcTamper : Nat := 0x0E

/-- Start-up ends in SAFE_HOLD with a FAIL code (R86): transmitters off, SAFE_N asserted, the failure logged; ownership starts (R118). -/
def startFail (code result : Nat) (s : State) : State :=
  let s := (s.setF F.CFG_STATUS_FAIL code).setF F.CFG_STATUS_RESULT result
  let s := assertSafe (portsOff s)
  let s := notify N.START_FAIL scSafeHold 0 code s
  startupEnd s

end Sys2Proof.Machine
end

