-- ==== Sys2Proof/Machine/CipherOps.lean ====
section
/-! DEFINITION. The cipher engine's operations (R362 to R386): arguments, checks at dispatch, nonces and counters, results, and what a lane fault does. -/

namespace Sys2Proof.Machine

/-- Arguments of a CPH job (R367). -/
structure CphArg where
  op : Nat
  tag : Nat
  nsrc : Nat
  level : Nat
  aofs : Nat
  alen : Nat
  mlen : Nat
  keyNode : Bool
  kslot : Nat
  nix : Nat
  fcofs : Nat
  aux : Nat
  addr : Nat
  deriving DecidableEq, Repr

/-- The arguments of a job (R367). -/
def cphArgOf (j : Job) : CphArg :=
  let a := fit 16 j.args
  ⟨entBits a 0 7 4, entBits a 0 1 0, entBits a 1 7 4, entBits a 1 2 0, entNat a 2 2, entNat a 4 2, entNat a 6 2, entBits a 11 7 7 == 1,
   entNat a 8 4 / 2 ^ 17 % 256, entNat a 8 4 % 2 ^ 17, entNat a 12 2, entNat a 14 2, entNat a 12 4⟩

/-- OP and NSRC codes (R366, R370). -/
def opOpen : Nat := 1
def opSeal : Nat := 2
def opGen : Nat := 3
def opCheck : Nat := 4
def nsNodeIn : Nat := 0
def nsNodeOut : Nat := 1
def nsBeacon : Nat := 2
def nsPeer : Nat := 3
def nsLocal : Nat := 4

/-- Tag length in bytes of a TAGLEN code. -/
def tagBytes (t : Nat) : Nat := [0, 4, 8, 16].getD t 0

/-- The frame that TXL holds for an engine's SEAL, where the message is no buffer. -/
def engineFrame (w : Work) (s : State) : Option (List Byte) :=
  match w with
  | .cipher (.sealAck a) => (s.acc a).map (·.ackFrame)
  | .cipher (.sealDl d) => (s.dl d).map (·.frame)
  | .beacon n => Sparse.get (fun _ => none) s.slt.bcnPsdu n
  | _ => none

/-- Check 2 of R368: codes valid and consistent. -/
def cphCodesOk (j : Job) (a : CphArg) (own : Bool) : Bool :=
  if a.op = opGen ∨ a.op = opCheck then a.tag == 3 && a.alen == 0
  else
    let src := if a.op = opOpen then a.nsrc == nsNodeIn || a.nsrc == nsPeer
      else a.op == opSeal && (a.nsrc == nsNodeOut || a.nsrc == nsBeacon || a.nsrc == nsLocal)
    src && (a.nsrc == nsLocal || (5 ≤ a.level && a.tag == a.level - 4)) && (own || j.buf0 != noHandle || a.nsrc == nsLocal)

/-- Bytes of the operation with its tag: what must fit (R377). -/
def cphSpan (a : CphArg) : Nat := a.alen + a.mlen + (if a.op = opGen ∨ a.op = opCheck then 16 else tagBytes a.tag)

/-- Check 3 of R368: lengths, and where the message and tag lie. -/
def cphPlaceOk (j : Job) (a : CphArg) (own : Bool) (s : State) : Bool :=
  (if a.op = opGen ∨ a.op = opCheck then decide (1 ≤ a.mlen) && decide (a.mlen ≤ 2032) else decide (cphSpan a ≤ 2048))
    && (own || (if j.buf0 = noHandle then inDram (a.addr + a.aofs) (cphSpan a) s
                else handleOk j.buf0 s && decide (a.aofs + cphSpan a ≤ 2048)))

/-- The slot of a job's key: the node's cache slot, which its key load has pinned, or a general slot KSLOT (R367, R388, R399). -/
def cphSlot (j : Job) (a : CphArg) (s : State) : Option Nat :=
  if a.keyNode then (match j.pins with | k :: _ => some k | [] => cacheSlot a.nix s) else if a.kslot < 64 then some a.kslot else none

/-- The permission that an operation needs (R368). -/
def cphPerm (a : CphArg) : Nat := if a.op = opOpen then permDecrypt else if a.op = opSeal then permEncrypt else permCmac

/-- The counter to be taken is available (R373). -/
def cphCounterOk (a : CphArg) (s : State) : Bool :=
  if a.op ≠ opSeal then true
  else if a.nsrc = nsNodeOut then !sendRefused a.nix s
  else if a.nsrc = nsBeacon then s.getF F.CPH_BCN_FC_FC != 0xFFFFFFFF
  else s.getF F.CPH_LOCAL_FC_FC != 0xFFFFFFFF

/-- The first check of R368 that fails, as status and DETAIL. -/
def cphRefusal (j : Job) (s : State) : Option (Nat × Nat) :=
  let a := cphArgOf j
  let own := (engineFrame j.work s).isSome
  if s.getF F.CPH_STATUS_STATE = 2 then some (scSafeHold, 0)
  else if !cphCodesOk j a own then some (scDenied, 1)
  else if !cphPlaceOk j a own s then some (scDenied, 2)
  else if j.submitted.isSome && (a.op == opOpen || (a.op == opSeal && a.nsrc != nsLocal) || a.keyNode) then some (scDenied, 3)
  else if !keysUsable s then some (scDenied, 4)
  else match cphSlot j a s with
  | none => some (scDenied, 4)
  | some k => match keyRefusal k (cphPerm a) s with
    | some r => some r
    | none => if cphCounterOk a s then none else some (scDenied, 6)

/-- A counter's mark raised by 65,536 when the counter comes within 32,768 of it (R372). -/
def raiseMarks (s : State) : State :=
  let b := s.getF F.CPH_BCN_FC_FC
  let l := s.getF F.CPH_LOCAL_FC_FC
  s.updTamp fun t => { t with
    bcnMark := if t.bcnMark ≤ b + 32768 then t.bcnMark + 65536 else t.bcnMark
    localMark := if t.localMark ≤ l + 32768 then t.localMark + 65536 else t.localMark }

/-- FC_END when the beacon or local counter has reached its end (R373). -/
def noteFcEnd (s : State) : State :=
  let s := if s.getF F.CPH_BCN_FC_FC = 0xFFFFFFFF && !s.cph.bcnEnd then notify N.FC_END scDenied 0 0 (s.updCph fun c => { c with bcnEnd := true }) else s
  if s.getF F.CPH_LOCAL_FC_FC = 0xFFFFFFFF && !s.cph.localEnd then notify N.FC_END scDenied 0 1 (s.updCph fun c => { c with localEnd := true }) else s

/-- A DEVCTR record every 65,536 values of a device counter (R472). -/
def journalDev (now : Nat) (s : State) : State :=
  if now % 65536 = 0 then journalRec [8, s.getF F.CPH_BCN_FC_FC, s.getF F.CPH_LOCAL_FC_FC] 16 s else s

/-- The counter that a SEAL takes (R371). -/
def takeCounter (a : CphArg) (s : State) : Nat × State :=
  if a.nsrc = nsNodeOut then
    let (fc, s) := takeOutFc a.nix s
    (fc.getD 0xFFFFFFFF, s)
  else if a.nsrc = nsBeacon then
    let fc := s.getF F.CPH_BCN_FC_FC
    (fc, journalDev (fc + 1) (noteFcEnd (raiseMarks (s.incF F.CPH_BCN_FC_FC))))
  else
    let fc := s.getF F.CPH_LOCAL_FC_FC
    (fc, journalDev (fc + 1) (noteFcEnd (raiseMarks (s.incF F.CPH_LOCAL_FC_FC))))

/-- Where a job's message lies in DRAM. -/
def cphBase (j : Job) (a : CphArg) (s : State) : Nat := if j.buf0 = noHandle then a.addr else bufferAddr j.buf0 s

/-- Bytes that the engine reads: the message, with the received tag for an OPEN or a CMAC_CHECK. -/
def cphReadLen (a : CphArg) : Nat :=
  a.alen + a.mlen + (if a.op = opOpen then tagBytes a.tag else if a.op = opCheck then 16 else 0)

/-- The message of a job, or the uncorrectable word that its read met (R379). -/
def cphFetch (j : Job) (a : CphArg) (s : State) : Except Nat (List Byte) × State :=
  match engineFrame j.work s with
  | some f => (.ok f, s)
  | none => dramRead (cphBase j a s + a.aofs) (cphReadLen a) s

/-- The lowest free hold buffer, 0 to 6 (R375), and context store (R378). -/
def freeHold (s : State) : Nat := ((List.range 7).find? fun h => !(s.inFlight.any fun e => e.2.hold == some h)).getD 0
def freeStore (s : State) : Nat :=
  ((List.range 4).find? fun k => !(s.inFlight.any fun e => e.2.cls == ecCPH && e.2.state == jsSuspended && entNat e.2.context 2 1 == k)).getD 0

/-- Big-endian bytes at a place of a buffer, as the frame holds them little-endian. -/
def frameNat (base ofs n : Nat) (s : State) : Nat := ofLe (s.bytes (base + ofs) n)

/-- The nonce of a frame operation (R370): address, counter, level byte, each most significant octet first. -/
def cphNonce (j : Job) (a : CphArg) (fc : Nat) (s : State) : List Byte :=
  let addr := if a.nsrc = nsNodeIn then entNat (s.entry a.nix) 0 8
    else if a.nsrc = nsPeer then frameNat (cphBase j a s) a.aux 8 s
    else s.get64 F.SLT_EUI_LO_EUI F.SLT_EUI_HI_EUI
  beBytes 8 addr ++ beBytes 4 fc ++ [BitVec.ofNat 8 (if a.nsrc = nsLocal then 0x80 + a.tag else a.level)]

/-- Bytes replaced from an offset on. -/
def overlay (l : List Byte) (ofs : Nat) (b : List Byte) : List Byte := l.take ofs ++ b ++ l.drop (ofs + b.length)

/-- A job's first dispatch passes the checks (R369, R371, R375): slot pinned, use counted, counter taken, message in a hold buffer; a bad read ends it (R379). -/
def cphStart (i : Nat) (j : Job) (s : State) : State :=
  let a := cphArgOf j
  let k := (cphSlot j a s).getD 0
  let h := freeHold s
  let s := useKey k s
  let (fc, s) := if a.op = opSeal then takeCounter a s
    else if a.op = opOpen then (frameNat (cphBase j a s) a.fcofs 4 s, s) else (0, s)
  let s := match j.work with
    | .cipher (.sealDl d) => s.updDl d fun x => { x with fc := some fc, waitPos := waitFor s }
    | _ => s
  let j := { j with pins := [k], hold := some h, fc := fc }
  let (m, s) := cphFetch j a s
  match m with
  | .error _ => cipherEnd i j scFaultEcc 0 (leBytes 4 fc ++ [0, 0, BitVec.ofNat 8 h, 0] ++ leBytes 4 0) [] s
  | .ok m =>
    -- Offsets of the auxiliary fields count from the start of the buffer (R367), those of the hold buffer from the message.
    let hasHdr := decide (a.op = opSeal) && decide (j.buf0 ≠ noHandle ∨ (engineFrame j.work s).isSome)
    let m := if hasHdr then overlay (overlay m (a.fcofs - a.aofs) (leBytes 4 fc)) (a.aux - a.aofs) [BitVec.ofNat 8 fc] else m
    syncCph (s.setJob i (some { j with message := m }))

/-- Blocks that the pipeline computes for a job: the chained blocks of R382 and, for CCM*, the counter stream. -/
def cphBlocks (a : CphArg) : Nat :=
  if a.op = opGen ∨ a.op = opCheck then (a.mlen + 15) / 16
  else 1 + (if a.alen = 0 then 0 else (2 + a.alen + 15) / 16) + (a.mlen + 15) / 16 + 1 + (a.mlen + 15) / 16

/-- Bytewise exclusive or. -/
def xorBytes (a b : List Byte) : List Byte := List.zipWith (· ^^^ ·) a b

/-- The outcome of a job's computation: status, digest of R240, and the bytes released with their offset in the message (R366, R376). -/
def cphCompute (j : Job) (a : CphArg) (s : State) : Nat × Nat × Option (Nat × List Byte) :=
  let k := (s.slotOf (j.pins.headD 0)).material
  let t := tagBytes a.tag
  let nonce := cphNonce j a j.fc s
  if a.op = opOpen then
    let ad := j.message.take a.alen
    let body := (j.message.drop a.alen).take a.mlen
    let mic := (j.message.drop (a.alen + a.mlen)).take t
    let plain := xorBytes body (fit a.mlen (Config.ccmStream k nonce a.mlen))
    let dig := ofLe (mic.take 2)
    if fit t (Config.ccmTag k nonce ad plain t) = mic then (scOk, dig, some (a.alen, plain)) else (scAuthFail, dig, none)
  else if a.op = opSeal then
    let ad := j.message.take a.alen
    let body := (j.message.drop a.alen).take a.mlen
    let mic := fit t (Config.ccmTag k nonce ad body t)
    let crypt := xorBytes body (fit a.mlen (Config.ccmStream k nonce a.mlen))
    (scOk, ofLe (mic.take 2), some (0, ad ++ crypt ++ mic))
  else
    let m := j.message.take a.mlen
    let tag := fit 16 (Config.cmac k m)
    if a.op = opGen then (scOk, 0, some (a.mlen, tag))
    else if (j.message.drop a.mlen).take 16 = tag then (scOk, 0, none) else (scAuthFail, 0, none)

/-- Bytes 36 to 47 of the descriptor of a job that was dispatched (R381). -/
def cphResult (j : Job) (a : CphArg) (dig : Nat) (s : State) : List Byte :=
  let fc := if a.op = opGen ∨ a.op = opCheck then 0 else j.fc
  let cyc := ((s.clk.stamp + 2 ^ 40 - j.firstAt.getD 0) % 2 ^ 40) / 2
  leBytes 4 fc ++ leBytes 2 dig ++ [BitVec.ofNat 8 (j.hold.getD 0), BitVec.ofNat 8 j.pauses] ++ leBytes 4 cyc

/-- A RUNNING job's last block and comparison have passed (R376): output released and the job completed; a cancel that waited wins (R321). -/
def cphFinish (i : Nat) (j : Job) (s : State) : State :=
  let a := cphArgOf j
  let s := s.addF (F.CPH_CNT_COUNT 10) (cphBlocks a)
  if j.cancel.isSome then cipherEnd i j scCancelled 0 (cphResult j a 0 s) [] s
  else
    let (st, dig, out) := cphCompute j a s
    let s := match out, engineFrame j.work s with
      | some (ofs, bs), none => if st = scOk then writeDram (cphBase j a s + a.aofs + ofs) bs s else s
      | _, _ => s
    cipherEnd i j st 0 (cphResult j a dig s) ((out.map (·.2)).getD []) s

/-- Every CPH job in flight ends ABORTED_ERASE (R365). -/
def abortCipherJobs (s : State) : State :=
  s.inFlight.foldl (fun s e =>
    if e.2.cls == ecCPH && e.2.state != jsComplete then
      cipherEnd e.1 e.2 scAbortedErase 0 (List.replicate 12 0) [] (if e.2.state == jsRunning then s else leaveReady e.1 e.2 s)
    else s) s

/-- The engine halts at a failed comparison or known-answer run (R365, R384): jobs ended, alarm erase, notice, and the safe state of class DF-C. -/
def laneFault (k : NoticeKind) (arg cause : Nat) (s : State) : State :=
  let s := (abortCipherJobs s).setF F.CPH_STATUS_STATE 2
  let s := alarmErase cause (s.updCph fun c => { c with kat := none, inject := false })
  enterSafe 2 (syncCph (notify k scSafeHold 0 arg s))

/-- A lane mismatch in job `id`, or in a known-answer run (0xFFF); `injected` by R385. -/
def laneMismatch (id : Nat) (injected : Bool) (s : State) : State :=
  let s := s.setF F.CPH_LANE_FAULT_MISMATCH 1
  let s := if injected then s.setF F.CPH_LANE_FAULT_INJECTED 1 else s
  laneFault N.LANE_MISMATCH id (if injected then 3 else 1) s

/-- CPH jobs wait: a known-answer run has, or must first have, the pipeline to itself (R383). -/
def cphWaits (s : State) : Bool :=
  s.getF F.CPH_STATUS_STATE != 2 && (s.cph.katFirst || (match s.cph.kat with | some (_, b) => b | none => false))

/-- Dispatch of a CPH job: refused, started, or continued (R368, R369, R378), with the waiting injection of R385 in its first block. -/
def cphDispatch (i : Nat) (j : Job) (s : State) : State :=
  if j.saved then (if s.cph.inject then laneMismatch i true s else syncCph s)
  else match cphRefusal j s with
  | some (st, d) =>
    let s := if d = 2 ∧ j.buf0 ≠ noHandle ∧ !handleOk j.buf0 s then s.incF (F.BMP_CNT_COUNT 4) else s
    cipherEnd i j st d (List.replicate 12 0) [] s
  | none =>
    let s := cphStart i j s
    if s.cph.inject ∧ ((s.job i).map (·.state)) = some jsRunning then laneMismatch i true s else s

end Sys2Proof.Machine
end

