-- ==== Sys2Proof/Machine/DmaOps.lean ====
section
/-! DEFINITION. DMA jobs and host windows as parts of other events (R352 to R360). -/

namespace Sys2Proof.Machine

/-- Arguments of an HDM or MDM job (R355). -/
structure DmaArg where
  src : Nat
  dst : Nat
  ctx : Nat
  wofs : Nat
  toDevice : Bool
  fill : Bool
  len : Nat
  deriving DecidableEq, Repr

/-- The arguments of a job (R355): for HDM, `src` is DEV. -/
def dmaArgOf (j : Job) : DmaArg :=
  let a := fit 16 j.args
  let d := entNat a 4 4
  ⟨entNat a 0 4, d, d / 2 ^ 28, d % 2 ^ 28, entBits a 11 7 7 == 1, entBits a 11 6 6 == 1, entNat a 8 3⟩

/-- Whether a class is one of the two DMA engines, and whether a job is an HDM job. -/
def isDma (c : Nat) : Bool := c == ecHDM || c == ecMDM

/-- The device address of a place in a transfer: an address, or an offset in a buffer (R355). -/
def devAddr (buf at_ : Nat) (s : State) : Nat := if buf = noHandle then at_ else bufferAddr buf s + at_ % 2048

/-- The bytes that a host ring's job carries itself, in place of device memory: the record toward the host, or the slot that is being fetched. -/
def ownBytes (w : Work) : Option (List Byte) :=
  match w with
  | .hostRx _ b _ => some b
  | .hostTx _ => some []
  | _ => none

/-- A transfer leaves its buffer, or its handle fails R348. -/
def badBuffer (buf at_ n : Nat) (s : State) : Bool := buf != noHandle && (!handleOk buf s || decide (2048 < at_ % 2048 + n))

/-- The first failing check of R357 at the first dispatch, as DETAIL. -/
def dmaRefusal (j : Job) (s : State) : Option Nat :=
  let a := dmaArgOf j
  let hdm := j.cls == ecHDM
  let dev := if hdm then [(j.buf0, a.src)] else (if a.fill then [] else [(j.buf0, a.src)]) ++ [(j.buf1, a.dst)]
  let writes := if hdm then (if a.toDevice then [a.src] else []) else [a.dst]
  if j.submitted.isSome && (j.buf0 != noHandle || j.buf1 != noHandle) then some 0x20
  else if a.len = 0 || (hdm && decide (2 ^ 28 < a.wofs + a.len))
      || ((ownBytes j.work).isNone && dev.any fun e => e.1 == noHandle && !inDram e.2 a.len s) then some 0x21
  else if j.submitted.isSome && writes.any fun w => hitsCatalogue w a.len s then some 0x22
  else if dev.any fun e => badBuffer e.1 e.2 a.len s then some 0x23
  else none

/-- Bytes of the next chunk (R356): up to the next 256-byte boundary of the host or destination address, or the end. -/
def chunkLen (j : Job) (s : State) : Nat :=
  let a := dmaArgOf j
  let at_ := if j.cls = ecHDM then a.wofs + j.done else devAddr j.buf1 a.dst s + j.done
  min (256 - at_ % 256) (a.len - j.done)

/-- The map entry of a window offset as it stands now, none for a context that is not enabled (R352, R353). -/
def mapEntry (w wofs : Nat) (s : State) : Option Nat :=
  if s.getF (F.BMP_HWIN_CTRL_EN w) = 1 then some (s.leAt (s.getF (F.BMP_HWIN_CTRL_MAP_BASE w) * 2 ^ 19 + 8 * (wofs / 4096)) 8) else none

/-- The next chunk of an HDM job starts: its map entry is read (R353). -/
def startChunk (i : Nat) (s : State) : State :=
  match s.job i with
  | some j =>
    let a := dmaArgOf j
    if j.cls = ecHDM ∧ j.done < a.len then s.setJob i (some { j with entry := mapEntry a.ctx (a.wofs + j.done) s }) else s
  | none => s

/-- A chunk of a job has ended: no fence waits for it any longer (R354). -/
def chunkEnded (i : Nat) (s : State) : State :=
  { s with mem := { s.mem with
      fence := (List.range 16).foldl (fun f w => Sparse.set (fun _ => []) f w ((Sparse.get (fun _ => []) f w).filter fun k => k != i)) s.mem.fence } }

/-- The RESULT of a DMA job (R360). -/
def dmaResult (j : Job) : List Byte := leBytes 4 j.done ++ List.replicate 8 0

/-- A chunk meets a parking fault (R357, R358). -/
def dmaPark (i : Nat) (j : Job) (ecc : Bool) (detail faultAt : Nat) (s : State) : State :=
  let s := chunkEnded i (s.incF (F.BMP_CNT_COUNT (if ecc then 7 else 6)))
  parkJob i j (if ecc then scFaultEcc else scFaultMap) detail (leBytes 4 j.done ++ leBytes 4 faultAt ++ leBytes 4 0) s

/-- The fault of a chunk's map entry at its start (R353, R357), as DETAIL. -/
def mapFault (j : Job) (a : DmaArg) : Option Nat :=
  match j.entry with
  | none => some 5
  | some e => if e % 2 = 0 then some 1 else if !a.toDevice && e / 2 % 2 = 0 then some 2 else none

/-- The 32-bit pattern of a FILL over `n` bytes from byte `k` of the transfer. -/
def fillBytes (pat k : Nat) : Nat → List Byte
  | 0 => []
  | n + 1 => BitVec.ofNat 8 (pat / 2 ^ (8 * (k % 4))) :: fillBytes pat (k + 1) n

/-- A chunk's data once it has been read, or its fault: ECC, DETAIL and FAULT_AT (R356, R357). -/
def chunkRead (j : Job) (n : Nat) (hostData : List Byte) (hostErr : Option Bool) (s : State) : Except (Bool × Nat × Nat) (List Byte) × State :=
  let a := dmaArgOf j
  let ctxAt := a.ctx * 2 ^ 28 + (a.wofs + j.done) % 2 ^ 28
  if j.cls = ecHDM then
    match mapFault j a with
    | some d => (.error (false, d, ctxAt), s)
    | none =>
      if a.toDevice then
        match hostErr with
        | some late => (.error (false, if late then 4 else 3, ctxAt), s)
        | none => (.ok (fit n hostData), s)
      else match ownBytes j.work with
        | some b => (.ok (fit n (b.drop j.done)), s)
        | none => withRead (devAddr j.buf0 a.src s + j.done) n s (fun w s => (.error (true, 0x10, 8 * w), s)) fun b s => (.ok b, s)
  else if a.fill then (.ok (fillBytes a.src j.done n), s)
  else withRead (devAddr j.buf0 a.src s + j.done) n s (fun w s => (.error (true, 0x10, 8 * w), s)) fun b s => (.ok b, s)

/-- A chunk's data written to its destination, or the word that a partial write could not merge with (R343, R356). -/
def chunkWrite (i : Nat) (j : Job) (n : Nat) (b : List Byte) (s : State) : Option Nat × State :=
  let a := dmaArgOf j
  if j.cls = ecHDM && !a.toDevice then
    let host := ((j.entry.getD 0) / 2 ^ 12 * 2 ^ 12) + (a.wofs + j.done) % 4096
    (none, s.emit (.hostWrite a.ctx host b))
  else if (ownBytes j.work).isSome then (none, s.setJob i (some { j with message := j.message ++ b }))
  else
    let at_ := (if j.cls = ecHDM then devAddr j.buf0 a.src s else devAddr j.buf1 a.dst s) + j.done
    match badPartial at_ n s with
    | some w => (some w, foundUe w false s)
    | none => (none, writeDram at_ b s)

/-- One chunk of a RUNNING job (R356 to R359): its data moved and DONE advanced, or the job parked; at its end a cancel that waits stops the job. -/
def dmaChunk (i : Nat) (j : Job) (hostData : List Byte) (hostErr : Option Bool) (s : State) : State :=
  let n := chunkLen j s
  match chunkRead j n hostData hostErr s with
  | (.error (ecc, d, at_), s) =>
    if j.cancel.isSome then completeJob i j scCancelled 0 (dmaResult j) (chunkEnded i s) else dmaPark i j ecc d at_ s
  | (.ok b, s) =>
    match chunkWrite i j n b s with
    | (some w, s) =>
      if j.cancel.isSome then completeJob i j scCancelled 0 (dmaResult j) (chunkEnded i s) else dmaPark i j true 0x11 (8 * w) s
    | (none, s) =>
      let j := { ((s.job i).getD j) with done := j.done + n }
      let s := chunkEnded i (s.setJob i (some j))
      if j.cancel.isSome && decide (j.done < (dmaArgOf j).len) then completeJob i j scCancelled 0 (dmaResult j) s else startChunk i s

/-- Dispatch of a DMA job (R357, R359): refused at its first dispatch, or its next chunk starts. -/
def dmaDispatch (i : Nat) (j : Job) (s : State) : State :=
  if j.saved then startChunk i s
  else match dmaRefusal j s with
  | some d =>
    let s := if d = 0x23 ∧ (badBuffer j.buf0 0 0 s ∨ badBuffer j.buf1 0 0 s) then s.incF (F.BMP_CNT_COUNT 4) else s
    completeJob i j scDenied d (dmaResult j) s
  | none => startChunk i s

end Sys2Proof.Machine
end

