-- ==== Sys2Proof/Machine/BhlOps.lean ====
section
/-! DEFINITION. The backhaul and host link as parts of other events: records, tags, encapsulation, inbound stages and host rings (R435 to R451). -/

namespace Sys2Proof.Machine

/-- The backhaul part of the state changed. -/
def State.updBhl (s : State) (f : Backhaul → Backhaul) : State := { s with bhl := f s.bhl }

/-- BOOTS as records carry it (R443), and the next outbound SEQ. -/
def bootsField (s : State) : Nat := min s.tamp.boots 0xFFFF
def seqNext (s : State) : Nat := bootsField s * 2 ^ 48 + s.bhl.seq % 2 ^ 48

/-- A number in the byte order of the backhaul (big) or of a host ring (R439). -/
def recNum (big : Bool) (n v : Nat) : List Byte := if big then beBytes n v else leBytes n v

/-- Widths of the numbers in ARG by record type (R440). -/
def argWidths (type : Nat) : List Nat :=
  match type with
  | 1 => [5, 1, 2]
  | 2 => [4]
  | 4 => [4]
  | 5 => [2]
  | 6 => [5]
  | _ => []

/-- Groups of bytes reversed: little-endian numbers to network order, or back. -/
def flipWidths : List Nat → List Byte → List Byte
  | [], l => l
  | w :: r, l => (l.take w).reverse ++ flipWidths r (l.drop w)

/-- ARG in the byte order of the link. -/
def argBytes (big : Bool) (type : Nat) (a : List Byte) : List Byte := if big then flipWidths (argWidths type) (fit 8 a) else fit 8 a

/-- Record types (R440). -/
def rtUplink : Nat := 1
def rtDlStatus : Nat := 2
def rtConfirm : Nat := 3
def rtDownlink : Nat := 4
def rtFlood : Nat := 5
def rtHello : Nat := 6
def rtEthTx : Nat := 7
def rtEthRx : Nat := 8

/-- A record without its tag (R439), with its part, SEQ and key selection. -/
def recHead (big : Bool) (r : Rec) (part last : Nat) (body : List Byte) (s : State) : List Byte :=
  let w := s.getF F.BHL_CFG_TX_KEYSEL * 2 ^ 14 + bit s.pair.id * 2 ^ 13 + r.cls % 8 * 2 ^ 10 + s.getF F.SLT_ADDR_RID
  [1, BitVec.ofNat 8 r.type] ++ recNum big 2 (48 + body.length) ++ recNum big 2 w ++ [BitVec.ofNat 8 (part * 16 + last), BitVec.ofNat 8 r.flags]
    ++ recNum big 8 (seqNext s) ++ recNum big 4 (r.port % 16 * 2 ^ 28 + r.nix % 2 ^ 17) ++ recNum big 4 r.fc ++ argBytes big r.type r.arg ++ body

/-- A record tag computed in a general slot (R442), or the status that refuses it. -/
def recTag (slot : Nat) (m : List Byte) (s : State) : Except Nat (List Byte) × State :=
  if s.getF F.CPH_STATUS_STATE = 2 then (.error scSafeHold, s)
  else match keyRefusal slot permCmac s with
  | some (st, _) => (.error st, s)
  | none => (.ok (fit 16 (Config.cmac (s.slotOf slot).material m)), useKey slot s)

/-- The outbound tag: in host rings only while HOST_TAG is 1 (R442). -/
def txTag (host : Bool) (m : List Byte) (s : State) : Except Nat (List Byte) × State :=
  if host && s.getF F.BHL_CFG_HOST_TAG = 0 then (.ok (List.replicate 16 0), s)
  else recTag (if s.getF F.BHL_CFG_TX_KEYSEL = 1 then s.getF F.BHL_KEYS_TX_SLOT1 else s.getF F.BHL_KEYS_TX_SLOT0) m s

/-- The parts of a frame as records with their tags and SEQ, in order (R441 to R443). -/
def buildParts (big host : Bool) (r : Rec) (last : Nat) : Nat → Nat → State → Except Nat (List (List Byte)) × State
  | 0, _, s => (.ok [], s)
  | n + 1, k, s =>
    let mb := s.getF F.BHL_CFG_MAX_BODY
    let h := recHead big r k last ((r.body.drop (mb * k)).take mb) s
    match txTag host h s with
    | (.error e, s) => (.error e, s)
    | (.ok t, s) =>
      match buildParts big host r last n (k + 1) (s.updBhl fun b => { b with seq := b.seq + 1 }) with
      | (.ok l, s) => (.ok ((h ++ t) :: l), s)
      | (.error e, s) => (.error e, s)

/-- A record's parts (R441). -/
def recBuild (big host : Bool) (r : Rec) (s : State) : Except Nat (List (List Byte)) × State :=
  let n := recParts r.body.length s
  buildParts big host r (n - 1) n 0 s

/-- A tag that cannot be computed: the record is not sent (R442). -/
def tagFail (r : Rec) (status : Nat) (s : State) : State :=
  let s := s.incF (F.BHL_CNT_COUNT 10)
  if !aSecondPast s.bhl.tagAt s then s else notify N.TAG_FAIL status 0 r.nix (s.updBhl fun b => { b with tagAt := some s.clk.slot })

/-- Addresses as their registers hold them, in transmission order. -/
def macBytes (lo hi : Nat) (s : State) : List Byte := leBytes 4 (s.reg lo).toNat ++ leBytes 2 (s.reg hi).toNat
def ipBytes (base : Nat) (s : State) : List Byte := ((List.range 4).map fun k => leBytes 4 (s.reg (base + 4 * k)).toNat).flatten
def devMac (s : State) : List Byte := macBytes 0x150040 0x150044 s
def nhMac (s : State) : List Byte := macBytes 0x150048 0x15004c s
def devIp (s : State) : List Byte := ipBytes 0x150050 s
def headIp (s : State) : List Byte := ipBytes 0x150060 s

/-- The one's complement checksum of UDP over IPv6. -/
def onesSum : Nat → List Byte → Nat
  | acc, a :: b :: r => onesSum (acc + a.toNat * 256 + b.toNat) r
  | acc, [a] => acc + a.toNat * 256
  | acc, [] => acc
def foldSum (n : Nat) : Nat := let m := n % 65536 + n / 65536; m % 65536 + m / 65536
def udpSum (src dst udp : List Byte) : Nat :=
  let c := 65535 - foldSum (foldSum (onesSum 0 (src ++ dst ++ beBytes 4 udp.length ++ [0, 0, 0, 17] ++ udp)))
  if c = 0 then 65535 else c

/-- PCP of a class (BHL_CLASS_PCP). -/
def classPcp (c : Nat) (s : State) : Nat := bitsOf (s.reg 0x150008) (4 * c + 2) (4 * c)

/-- The 802.1Q tag of a port, where it has one (R435). -/
def vlanTag (b pcp : Nat) (s : State) : List Byte :=
  if s.getF (F.BHL_PORT_CFG_VLAN b) = 1 then [0x81, 0x00] ++ beBytes 2 (pcp * 8192 + s.getF (F.BHL_PORT_CFG_VID b)) else []

/-- A record in its Ethernet frame, without FCS, padded to the minimum size (R438). -/
def encapsulate (b cls : Nat) (r : List Byte) (s : State) : List Byte :=
  let pcp := classPcp cls s
  let head := nhMac s ++ devMac s ++ vlanTag b pcp s
  let f := if s.getF F.BHL_CFG_ENCAP = 1 then
      let ports := beBytes 2 ((s.reg 0x150070).toNat / 65536) ++ beBytes 2 ((s.reg 0x150070).toNat % 65536)
      let len := 8 + r.length
      let sum := udpSum (devIp s) (headIp s) (ports ++ beBytes 2 len ++ [0, 0] ++ r)
      head ++ [0x86, 0xDD] ++ beBytes 4 (6 * 2 ^ 28 + pcp * 32 * 2 ^ 20) ++ beBytes 2 len ++ [17, 64] ++ devIp s ++ headIp s
        ++ ports ++ beBytes 2 len ++ beBytes 2 sum ++ r
    else head ++ [0x88, 0xB5] ++ r
  if f.length < 60 then fit 60 f else f

/-- A record sent on an Ethernet port: its parts back to back (R438, R441). -/
def sendRecord (b : Nat) (r : Rec) (s : State) : State :=
  match recBuild true false r s with
  | (.error e, s) => tagFail r e s
  | (.ok ps, s) =>
    let s := if 1 < ps.length then s.incF (F.BHL_CNT_COUNT 7) else s
    let s := if r.type = rtHello then s.incF (F.BHL_CNT_COUNT 13) else s
    ps.foldl (fun s p => (s.emit (.bh b (encapsulate b r.cls p s))).incF (F.BHL_CNT_COUNT b)) s

/-- Frames of a failed port move to the other one: port, in order, with class, subscriber and the start tags of both levels (R437, R294). A frame joins the tail of a queue that is already there. -/
def moveQueues (p q : Nat) (s : State) : State :=
  let s := s.updShp fun x => { x with entering := x.entering.map fun f => if f.port = p then { f with port := q } else f }
  (s.shp.queues.filter fun k => k.port == p).foldl (fun s k =>
    let s := if classFrames q k.cls s = 0 then setClassTag q k.cls (classTag p k.cls s) s else s
    let fs := k.frames.map fun f => { f with port := q }
    let s := putQueue { k with frames := [] } s
    match findQueue q k.cls k.sub s with
    | some o => putQueue { o with frames := o.frames ++ fs } s
    | none => putQueue { k with port := q, frames := fs } s) s

/-- A received PAUSE is no longer in force (R435). -/
def clearPause (b : Nat) (s : State) : State :=
  (s.updBhl fun x => { x with pauseEnd := Sparse.set (fun _ => none) x.pauseEnd b none }).setF (F.BHL_PORT_STATUS_PAUSED b) 0

/-- The link of a port goes up, in its configured mode, or down (R436), with the failover of R437. -/
def setLink (b : Nat) (up : Bool) (s : State) : State :=
  if (s.getF (F.BHL_PORT_STATUS_LINK b) == 1) == up then s
  else
    let s := (s.setF (F.BHL_PORT_STATUS_LINK b) (bit up)).satF (F.BHL_PORT_STATUS_CHANGES b) 1
    let s := if up then s.setF (F.BHL_PORT_STATUS_MODE b) (s.getF (F.BHL_PORT_CFG_MODE b)) else clearPause b s
    let s := notify N.LINK scOk 0 (256 * b + bit up) s
    if !up && s.getF F.BHL_CFG_FAILOVER == 1 && s.getF (F.BHL_PORT_STATUS_LINK (1 - b)) == 1 then
      notify N.FAILOVER scOk 0 (1 - b) (moveQueues (16 + b) (17 - b) s)
    else s

/-- A BHL job's work: a record with its parts, or a host's Ethernet frame unchanged (R441, R445); a record's buffer returns to the pool. -/
def sendLoad (b : Nat) (l : Load) (s : State) : State :=
  match l with
  | .record r buffer => poolFree? buffer (sendRecord b r s)
  | .ether f => s.emit (.bh b f)
  | .downlink _ => s

/-- Host ring fields (R450, R451): the ring of a class, slots in use, and the window offset of a slot. -/
def ringOf (c : Nat) (s : State) : Nat := bitsOf (s.reg 0x150600) (4 * c + 3) (4 * c)
def rxSize (r : Nat) (s : State) : Nat := 2 ^ s.getF (F.BHL_HRX_CFG_LOG2N r)
def rxUsed (r : Nat) (s : State) : Nat := (s.getF (F.BHL_HRX_WR_VALUE r) + 2 ^ 32 - s.getF (F.BHL_HRX_RD_VALUE r)) % 2 ^ 32
def txSize (t : Nat) (s : State) : Nat := 2 ^ s.getF (F.BHL_HTX_CFG_LOG2N t)
def rxSlot (r : Nat) (s : State) : Nat := s.getF (F.BHL_HRX_BASE_VALUE r) * 2048 + 2048 * (s.getF (F.BHL_HRX_WR_VALUE r) % rxSize r s)
def txSlot (t : Nat) (s : State) : Nat := s.getF (F.BHL_HTX_BASE_VALUE t) * 2048 + 2048 * (s.getF (F.BHL_HTX_RD_VALUE t) % txSize t s)

/-- A frame is on its way into RX ring `r`; later records for it queue behind (R450, R357). -/
def rxBusy (r : Nat) (s : State) : Bool := s.inFlight.any fun e => match e.2.work with | .hostRx q _ _ => q == r | _ => false

/-- Class `c` of port 18 is eligible for a frame of `n` body octets: its ring enabled, idle, and with free slots for the parts (R450). -/
def ringFree (c n : Nat) (s : State) : Bool :=
  let r := ringOf c s
  s.getF (F.BHL_HRX_CFG_EN r) == 1 && !rxBusy r s && decide (rxUsed r s + recParts n s ≤ rxSize r s)

/-- Arguments of an HDM job (R355). -/
def hdmArgs (dev ctx wofs : Nat) (toDevice : Bool) (len : Nat) : List Byte :=
  leBytes 4 dev ++ leBytes 4 (ctx * 2 ^ 28 + wofs % 2 ^ 28) ++ leBytes 4 (bit toDevice * 2 ^ 31 + len) ++ leBytes 4 0

/-- A record handed to the host: one HDM job sends its parts back to back (R294, R441, R450). -/
def sendHost (r : Rec) (buffer : Option Nat) (s : State) : State :=
  match recBuild false true r s with
  | (.error e, s) => tagFail r e (poolFree? buffer s)
  | (.ok [], s) => s
  | (.ok (p :: ps), s) =>
    let s := if ps.isEmpty then s else s.incF (F.BHL_CNT_COUNT 7)
    let q := ringOf r.cls s
    createJob (fun s => newJob ecHDM (svcPrio r.cls s) (ecSHP * 4096) (buffer.getD noHandle) noHandle
      (hdmArgs 0 (s.getF (F.BHL_HRX_CFG_CTX q)) (rxSlot q s) false p.length) (.hostRx q p ps)) s

/-- The fetch of the next record of TX ring `t` starts, when the ring is enabled, holds one, and no fetch runs (R451). -/
def startFetchTx (t : Nat) (s : State) : State :=
  let busy := s.inFlight.any fun e => e.2.work == .hostTx t
  if s.getF (F.BHL_HTX_CFG_EN t) = 1 ∧ s.getF (F.BHL_HTX_WR_VALUE t) ≠ s.getF (F.BHL_HTX_RD_VALUE t) ∧ !busy then
    createJob (fun s => newJob ecHDM (engPrio ecHDM s) (8 * 4096) noHandle noHandle
      (hdmArgs 0 (s.getF (F.BHL_HTX_CFG_CTX t)) (txSlot t s) true 2048) (.hostTx t)) s
  else s

/-- A TX slot is done with: RD increments, and vector 48 + t is raised when RD reaches WR (R451). -/
def advanceTx (t : Nat) (s : State) : State :=
  let s := s.incF (F.BHL_HTX_RD_VALUE t)
  if s.getF (F.BHL_HTX_RD_VALUE t) = s.getF (F.BHL_HTX_WR_VALUE t) then raiseVector (48 + t) s else startFetchTx t s

/-- An inbound record dropped at a stage (R444): source 0, 1 for BH0 and BH1, 2 + t for TX ring t. -/
def rxDrop (src status reason : Nat) (s : State) : State :=
  let so := min src 2
  let s := s.setReg 0x1500a0 (BitVec.ofNat 32 (status * 2 ^ 24 + reason * 2 ^ 20 + so * 2 ^ 16 + (if 2 ≤ src then src - 2 else 0)))
  let s := if status = scAuthFail then s.incF (F.BHL_CNT_COUNT 4)
    else if status = scReplay then s.incF (F.BHL_CNT_COUNT 5)
    else if status = scDenied then s.incF (F.BHL_CNT_COUNT 6) else s
  if !aSecondPast s.bhl.dropAt s then s
  else notify N.RX_DROP status 0 (reason * 65536 + so) (s.updBhl fun b => { b with dropAt := some s.clk.slot })

/-- A number of an inbound record. -/
def recGet (big : Bool) (b : List Byte) (ofs n : Nat) : Nat := let l := (b.drop ofs).take n; ofLe (if big then l.reverse else l)

/-- Words of a body in the byte order of the link, as little-endian bytes. -/
def bodyWords (big : Bool) : Nat → List Byte → List Byte
  | 0, l => l
  | n + 1, l => if l.isEmpty then [] else (if big then (l.take 4).reverse else l.take 4) ++ bodyWords big n (l.drop 4)

/-- An inbound record's stages 2 to 6 (R444); an accepted one waits for its processing. Sources as in `rxDrop`. -/
def inboundRecord (src : Nat) (b : List Byte) (s : State) : State :=
  let host := decide (2 ≤ src)
  let big := !host
  let len := recGet big b 2 2
  let type := recGet big b 1 1
  let w := recGet big b 4 2
  let part := recGet big b 6 1
  if recGet big b 0 1 ≠ 1 ∨ w / 2 ^ 15 ≠ 1 ∨ len < 48 ∨ 2048 < len ∨ b.length < len ∨ w / 2 ^ 13 % 2 ≠ 0 ∨ recGet big b 7 1 / 8 ≠ 0
      ∨ recGet big b 16 4 / 2 ^ 17 % 2 ^ 11 ≠ 0 then rxDrop src scDenied 1 s
  else if !((3 ≤ type && type ≤ 5 && part == 0) || (host && type == 7)) then rxDrop src scDenied 2 s
  else if w % 1024 ≠ s.getF F.SLT_ADDR_RID then rxDrop src scDenied 3 s
  else
    let slot := if w / 2 ^ 14 % 2 = 1 then s.getF F.BHL_KEYS_RX_SLOT1 else s.getF F.BHL_KEYS_RX_SLOT0
    let (tag, s) := if host && s.getF F.BHL_CFG_HOST_TAG = 0 then ((.ok ((b.drop (len - 16)).take 16) : Except Nat (List Byte)), s)
      else recTag slot (b.take (len - 16)) s
    match tag with
    | .error e => rxDrop src e 0 s
    | .ok t =>
      let seq := recGet big b 8 8
      let key := if host then src - 1 else 0
      if t ≠ (b.drop (len - 16)).take 16 then rxDrop src scAuthFail 0 s
      else if seq / 2 ^ 48 ≠ bootsField s ∨ seq ≤ Sparse.get (fun _ => 0) s.bhl.lastSeq key then rxDrop src scReplay 0 s
      else
        let arg := argBytes big type ((b.drop 24).take 8)
        let body := (b.drop 32).take (len - 48)
        let r : Rec := ⟨type, w / 2 ^ 10 % 8, recGet big b 7 1, recGet big b 16 4 / 2 ^ 28, recGet big b 16 4 % 2 ^ 17, recGet big b 20 4, arg,
          if type = 3 then bodyWords big 600 body else body⟩
        s.updBhl fun x => { x with lastSeq := Sparse.set (fun _ => 0) x.lastSeq key seq, inbound := x.inbound ++ [(src, r)] }

/-- The first accepted inbound record of a type, taken for its processing (R445). -/
def takeInbound (type : Nat) (s : State) : Option (Nat × Rec) × State :=
  match s.bhl.inbound.find? fun e => e.2.type == type with
  | some e => (some e, s.updBhl fun x => { x with inbound := x.inbound.erase e })
  | none => (none, s)

/-- A job of a host ring ended (R450, R451): a record handed over lets the ring's WR advance, and its next part follow; a fetched record passes its stages,
a cancelled fetch skips its slot. Answers whether the job goes on with a next part. -/
def hostJobEnd (i : Nat) (j : Job) (status : Nat) (s : State) : Bool × State :=
  match j.work with
  | .hostRx r _ rest =>
    if status ≠ scOk then (false, poolFree j.buf0 s)
    else
      let s := raiseVector (32 + r) ((s.incF (F.BHL_CNT_COUNT 2)).incF (F.BHL_HRX_WR_VALUE r))
      match rest with
      | p :: ps =>
        let a := hdmArgs 0 (s.getF (F.BHL_HRX_CFG_CTX r)) (rxSlot r s) false p.length
        (true, startChunk i (s.setJob i (some { j with args := a, done := 0, work := .hostRx r p ps })))
      | [] => (false, poolFree j.buf0 s)
  | .hostTx t =>
    let s := if status = scOk then inboundRecord (2 + t) j.message s else s.incF (F.BHL_CNT_COUNT 6)
    (false, advanceTx t (s.setJob i (some { j with work := .none })))
  | _ => (false, s)

end Sys2Proof.Machine
end

