-- ==== Sys2Proof/Machine/TxlOps.lean ====
section
/-! DEFINITION. What completed jobs do, and how the fabric dispatches, ends and cancels them (R246, R250, R312 to R325). -/

namespace Sys2Proof.Machine

/-- The current SGEN of an association (R211, R237). -/
def entSgen (e : List Byte) : Nat := blkSgen (entSched e)

/-- The payload of a device ack (R246) for an acceptance. -/
def ackPayload (x : Accept) (s : State) : List Byte :=
  let e := x.sfd + x.delta
  [0x30, BitVec.ofNat 8 (bit x.dup * 128 + entSgen (s.entry x.nix))] ++ leBytes 4 x.fc ++ leBytes 2 (senAt e s) ++ leBytes 2 ((e - boundAt e s) / us)

/-- The payload of a device frame with the current SGEN in its second byte where R237 puts it. -/
def dlPayload (d : Dl) (s : State) : List Byte :=
  match d.payload with
  | t :: b :: r => if t = 0x31#8 ∨ t = 0x32#8 then t :: BitVec.ofNat 8 (entSgen (s.entry d.nix) * 16 + b.toNat % 16) :: r else d.payload
  | l => l

/-- A frame built by TXL for an ack or a downlink (R235); its counter comes with the SEAL. -/
def buildFrame (u : KeyUse) (s : State) : State :=
  match u with
  | .openAcc _ => s
  | .sealAck a => match s.acc a with
    | some x => s.setAcc a (some { x with ackFrame := deviceFrame 0x284A x.seq (leBytes 2 (entNat (s.entry x.nix) 8 2)) 5 (ackPayload x s) })
    | none => s
  | .sealDl d => match s.dl d with
    | some x =>
      let ext := x.source == .response
      let e := s.entry x.nix
      let dest := if ext then e.take 8 else leBytes 2 (entNat e 8 2)
      s.setDl d (some { x with frame := deviceFrame (if ext then 0x2C69 else 0x2869) 0 dest (secLevel x.nix s) (dlPayload x s) })
    | none => s

/-- The node whose key a use needs. -/
def useNix (u : KeyUse) (s : State) : Nat := (useNode u s).getD 0

/-- A TXL job ends: its frame is built, and the key load that its SEAL needs is created (R246, R399). -/
def buildDone (i : Nat) (u : KeyUse) (s : State) : State :=
  let s := buildFrame u s
  createKld (useNix u s) (svcPrio (useClass u s) s) (ecTXL * 4096 + i) u s

/-- The consumer of an engine's completed job reads its result, and the ID is freed (R325); an OPEN waits for its acceptance. -/
def consumeJob (i : Nat) (s : State) : State :=
  match s.job i with
  | some j =>
    if j.state = jsComplete ∧ j.submitted.isNone then
      match j.work with
      | .cipher (.openAcc _) => s
      | .openBcn _ => s
      | _ => freeJob i (if j.status = scOk then s else (hostJobEnd i j j.status s).2)
    else s
  | none => s

/-- Start of a job's work at its dispatch, by engine. -/
def engineStart (i : Nat) (j : Job) (s : State) : State :=
  if j.cls = ecCPH then cphDispatch i j s
  else if isDma j.cls then consumeJob i (dmaDispatch i j s)
  else s

/-- The head of a class's most urgent list taken by a free unit (R313). -/
def dispatchTo (c u i : Nat) (j : Job) (s : State) : State :=
  let j' := { j with state := jsRunning, unit := u, stamp := s.clk.stamp, firstAt := some (j.firstAt.getD s.clk.stamp) }
  let s := syncJobs ((leaveReady i j s).setJob i (some j'))
  let s := trace c i j.prio 8 (bit j.saved * 32768 + u) (s.incF (F.JOB_CNT_COUNT 1))
  engineStart i j' s

/-- One dispatch decision of a class (R313): CPH jobs wait while a known-answer run has the pipeline (R383). -/
def dispatch (c : Nat) (s : State) : State :=
  match freeUnit c s, topPrio c s with
  | some u, some p =>
    match s.readyList c p with
    | i :: _ => match s.job i with
      | some j => if c = ecCPH ∧ cphWaits s then s else dispatchTo c u i j s
      | none => s
    | [] => s
  | _, _ => s

/-- A job ends CANCELLED, through its engine where it has one (R321, R379). -/
def cancelNow (i : Nat) (j : Job) (s : State) : State :=
  if j.cls = ecCPH then
    cipherEnd i j scCancelled 0 (if j.firstAt.isSome then cphResult j (cphArgOf j) 0 s else List.replicate 12 0) [] s
  else
    let s := completeJob i j scCancelled 0 (if isDma j.cls then dmaResult j else List.replicate 12 0) (chunkEnded i s)
    consumeJob i s

/-- A cancel by state (R321), from a source (1 host, 2 curator); none where it is refused. -/
def cancelJob (i src : Nat) (s : State) : Option State :=
  match s.job i with
  | none => none
  | some j =>
    let jc := { j with cancel := some src }
    if j.state = jsComplete then none
    else if j.state = jsRunning then some (s.setJob i (some jc))
    else if j.state = jsFaulted then some (cancelNow i jc s)
    else some (cancelNow i jc (leaveReady i j s))

/-- A RESUME by state (R320). -/
def resumeJob (i : Nat) (m : Master) (s : State) : Option State :=
  match s.job i with
  | some j =>
    if j.state = jsFaulted then
      let s := trace j.cls i j.prio 2 m.bit (s.incF (F.JOB_CNT_COUNT 7))
      some (makeReady i { j with resumed := true } s)
    else none
  | none => none

/-- A pre-emption point of a RUNNING job (R316, R317): a waiting cancel stops it; otherwise, where the rules of R316 hold, it is suspended and its unit taken at once. -/
def suspendJob (i : Nat) (j : Job) (progress : List Byte) (s : State) : State :=
  let ctx := if j.cls = ecCPH then (fit 2 progress) ++ [BitVec.ofNat 8 (freeStore s), BitVec.ofNat 8 (j.hold.getD 0)] ++ List.replicate 8 0
    else if isDma j.cls then leBytes 4 j.done ++ List.replicate 8 0
    else fit 12 progress
  match topPrio j.cls s with
  | some p => match s.readyList j.cls p with
    | t :: _ => match s.job t with
      | some jt =>
        let j' := { j with state := jsSuspended, saved := true, context := ctx, preempts := min (j.preempts + 1) 65535 }
        let s := (s.setJob i (some j')).incF (F.JOB_CNT_COUNT 5)
        let s := if j.cls = ecCPH then s.incF (F.CPH_CNT_COUNT 7) else s
        let s := syncReady j.cls (s.setReady j.cls j.prio (i :: s.readyList j.cls j.prio))
        let s := dispatchTo j.cls j.unit t jt (trace j.cls i j.prio 7 t s)
        if j.cls = ecCPH then syncCph s else s
      | none => s
    | [] => s
  | none => s

/-- The conditions of R316 at a pre-emption point. -/
def preempts (i : Nat) (j : Job) (s : State) : Bool :=
  decide (0 < suspendLimit j.cls) && (freeUnit j.cls s).isNone
    && (match topPrio j.cls s with | some p => decide (p < j.prio) | none => false)
    && victimOf j.cls s == some i && decide (suspendedOf j.cls s < suspendLimit j.cls)
    && !(j.cls == ecCPH && cphWaits s)

/-- A RUNNING job reaches a pre-emption point. -/
def preemptPoint (i : Nat) (j : Job) (progress : List Byte) (s : State) : State :=
  if suspendLimit j.cls = 0 then s
  else if j.cancel.isSome then cancelNow i j s
  else if preempts i j s then suspendJob i j progress s
  else s

/-- A RUNNING job's engine has finished it (R324): by class, with the result of its own rules; a job of another engine ends as its engine says. -/
def finishJob (i : Nat) (j : Job) (status detail : Nat) (result : List Byte) (s : State) : State :=
  if j.cls = ecCPH then (if cphWaits s then s else cphFinish i j s)
  else if isDma j.cls then
    if j.done < (dmaArgOf j).len then s
    else if j.cancel.isSome then cancelNow i j s
    else
      let (more, s) := hostJobEnd i j scOk s
      if more then s else consumeJob i (completeJob i ((s.job i).getD j) scOk 0 (dmaResult j) (chunkEnded i s))
  else match j.work with
  | .rxa _ => s
  | .kld _ _ => s
  | .catCmd => s
  | .build u => buildDone i u (consumeJob i (completeJob i j scOk 0 [] s))
  | .bhl b l => consumeJob i (completeJob i j scOk 0 [] (sendLoad b l s))
  | _ => consumeJob i (completeJob i j (if j.cancel.isSome then scCancelled else status) detail result s)

end Sys2Proof.Machine
end

