-- ==== Sys2Proof/Machine/ExchOps.lean ====
section
/-! DEFINITION. Uplink acceptance, floods and receipts (R235 to R264, R279, R285, R286). -/

namespace Sys2Proof.Machine

/-- The clear fields of a node's frame (R235): form, AR, extended or short source, place of the auxiliary header. -/
structure Mac where
  form : Nat
  ar : Bool
  source : Nat
  seq : Nat
  level : Nat
  fc : Nat
  hdrLen : Nat
  deriving DecidableEq, Repr

/-- The frame control of a beacon frame (R216). -/
def isBeaconFrame (f : List Byte) : Bool := entNat f 0 2 == 0xD008 || entNat f 0 2 == 0xD000

/-- A frame in a form that R235 lists for a node sender; none otherwise. The security control byte holds the level alone. -/
def parseMac (f : List Byte) (n : Nat) (s : State) : Option Mac :=
  let fctl := entNat f 0 2
  let pan := entNat f 3 2 == s.getF F.SLT_ADDR_PAN_ID
  let mk (form : Nat) (ar : Bool) (src aux : Nat) : Option Mac :=
    let lv := entNat f aux 1
    if pan && lv < 8 && decide (aux + 5 + micLen lv < n) then some ⟨form, ar, src, entNat f 2 1, lv, entNat f (aux + 1) 4, aux + 5⟩ else none
  if fctl = 0xA009 ∨ fctl = 0xA029 then mk 0 (fctl == 0xA029) (entNat f 5 2) 7
  else if fctl = 0xE009 ∨ fctl = 0xE029 then mk 1 (fctl == 0xE029) (entNat f 5 8) 13
  else if fctl = 0xA849 ∧ entNat f 5 2 = 0xFFFF then mk 2 false (entNat f 7 2) 9
  else if fctl = 0xA00A then mk 3 false (entNat f 5 2) 7
  else none

/-- An acceptance as its receive record gives it, before its frame is read (R196, R239). -/
def newAccept (h : Nat) (s : State) : Accept :=
  let r := recordAddr h s
  let fl := s.leAt (r + 12) 2
  { buffer := h, port := s.leAt (r + 15) 1 / 16, channel := s.leAt (r + 14) 1 % 128, mode := s.leAt (r + 15) 1 % 16, cls := s.leAt (r + 27) 1 % 8,
    fec := fl / 2 ^ 12 % 2 == 1, fcs32 := fl / 2 ^ 11 % 2 == 1, form := 0, ar := false, nix := 0, fc := 0, digest := 0, seq := 0, level := 0, hdrLen := 0,
    psduLen := fl % 2 ^ 11, sfd := s.leAt r 8, delta := s.leAt (r + 8) 4, lqi := s.leAt (r + 18) 1, rssi := s.leAt (r + 16) 2,
    decided := false, flag := false, waitPos := none, outcomeOk := false, dup := false, ackFrame := [], ack := none, ackOver := true, refused := false }

/-- Octets of the PSDU without FCS and MIC. -/
def Accept.bodyEnd (a : Accept) : Nat := a.psduLen - (if a.fcs32 then 4 else 2) - micLen a.level

/-- The counter decision (R240, R279): 0 OK, 1 DUP_ACKED, 2 REPLAY, 3 REPLAY above RSYNC_TOP. -/
def counterDecision (e : List Byte) (fc dig : Nat) : Nat :=
  let last := entLastFc e
  if !entSeen e || decide (last < fc) then
    (if entRsync e = 1 ∧ entNat e 28 4 < fc then 3 else 0)
  else if fc = last ∧ dig = entNat e 20 2 then 1 else 2

/-- The counter decision of a frame from a node: once a counter of the node has ended, only a repeat of the last accepted frame is no REPLAY (R240, R244, R279). -/
def acceptDecision (nix fc dig : Nat) (s : State) : Nat :=
  let d := counterDecision (s.entry nix) fc dig
  if d = 0 && countersEnded nix s then 2 else d

/-- The entry after a frame accepted with OK (R241, R279). -/
def acceptedEntry (e : List Byte) (fc dig : Nat) : List Byte :=
  let e := entPut (entPut e 16 4 fc) 20 2 dig
  let e := entPutBits e 23 0 0 1
  let e := entPut e 168 4 (entNat e 168 4 + 1)
  if entRsync e ≠ 0 ∧ entNat e 28 4 ≤ fc then entPutBits e 22 1 0 0 else e

/-- The ack of an acceptance (R245): the command for its port, held until its release. -/
def ackCommand (i : Nat) (a : Accept) (s : State) : TxCmd :=
  let e := a.sfd + a.delta
  ⟨.ack, a.channel, chanKhz a.port a.channel s, a.mode, airtime a.mode a.fec (s.getF F.XCH_CFG_PREAMBLE_OCT) (if a.fcs32 then 28 else 26), none, some (e + 1000 * us), e, .ack i⟩

/-- The ack is built by TXL while verification runs (R247); a node whose counters have ended, or whose entry is FAULTY, gets none (R244, R273). -/
def startAck (i : Nat) (a : Accept) (s : State) : State :=
  if sendRefused a.nix s then dropReserve a.port (a.sfd + a.delta) (s.setAcc i (some { a with ackOver := true, refused := true }))
  else
    let s := prepare a.port (ackCommand i a s) s
    createJob (fun s => newJob ecTXL (svcPrio a.cls s) (ecRXA * 4096) noHandle noHandle (List.replicate 16 0) (.build (.sealAck i))) s

/-- Stages 3 and 4 (R239): level and key; pre-decision, ack, and the OPEN with its key load. -/
def acceptStage3 (i : Nat) (a : Accept) (s : State) : State :=
  let relay := a.form == 2
  let min := if relay then s.getF F.FLD_CFG_SEC_LEVEL else secLevel a.nix s
  if a.level < 5 ∨ a.level < min then accFail i scDenied 3 s
  else match (if relay then keyRefusal (s.getF F.FLD_CFG_KEY_SLOT) permDecrypt s else none) with
  | some (st, _) => accFail i st 0 s
  | none =>
    let pre := acceptDecision a.nix a.fc a.digest s
    let a := { a with dup := pre == 1, ackOver := !(a.ar && decide (pre ≤ 1)) }
    let s := s.setAcc i (some a)
    let s := if a.ackOver then dropReserve a.port (a.sfd + a.delta) s else startAck i a s
    let prio := svcPrio a.cls s
    if relay then createJob (useJob (.openAcc i)) s else createKld a.nix prio (ecRXA * 4096) (.openAcc i) s

/-- Stage 2 (R239, R269): the source resolved to a NIX. -/
def acceptStage2 (i : Nat) (a : Accept) (m : Mac) (s : State) : State :=
  match (if m.form = 1 then byEui m.source s else byShort m.source (groupOf a.port s) s) with
  | none =>
    let s := s.incF (F.CAT_CNT_COUNT 3)
    accFail i scDenied 2 (if m.form = 1 then s.incF (F.ASC_CNT_COUNT 1) else s)
  | some nix =>
    let s := fetchEntry nix s
    let a := { a with nix := nix }
    let s := s.setAcc i (some a)
    if entFaulty (s.entry nix) then accFail i scFaultEcc 6 s else acceptStage3 i a s

/-- A receive record taken by RXA (R239): stages 1 to 4. -/
def acceptRecord (h : Nat) (s : State) : State :=
  let i := s.xch.nextAcc
  let a := newAccept h s
  let f := s.bytes (bufferAddr h s) a.psduLen
  let s := (s.updXch fun x => { x with nextAcc := i + 1 }).incF (F.XCH_CNT_COUNT 0)
  let s := s.setAcc i (some a)
  match parseMac f (a.psduLen - (if a.fcs32 then 4 else 2)) s with
  | none => accFail i scDenied 1 s
  | some m =>
    let a := { a with form := m.form, ar := m.ar, seq := m.seq, level := m.level, fc := m.fc, hdrLen := m.hdrLen }
    let a := { a with digest := entNat f a.bodyEnd 2 }
    acceptStage2 i a m (s.setAcc i (some a))

/-- UTYPE values accepted in a form (R236, R243). -/
def utypeOk (form ut : Nat) : Bool :=
  match form with
  | 0 => ut == 0x23 || ut == 0x31 || ut == 0x32 || ut == 0x33
  | 1 => ut == 0x20
  | 2 => ut == 0x33
  | _ => ut == 0x30

/-- A UTYPE whose payload carries CLASS (R237, R238, R255). -/
def carriesClass (ut : Nat) : Bool := ut == 0x31 || ut == 0x32 || ut == 0x33

/-- The lowest free receipt entry (R263). -/
def freeReceipt (s : State) : Option Nat := (List.range 1024).find? fun i => (Sparse.get (fun _ => none) s.xch.receipts i).isNone

/-- A receipt entry taken, with its timer (R262). -/
def takeReceipt (i : Nat) (a : Accept) (rcpt : Bool) (s : State) : State :=
  setReceipt i (some ⟨a.nix, a.fc, s.clk.now + s.getF F.XCH_RCPT_CFG_TIMER_MS * ms, false, rcpt, false⟩) s

/-- RCPT_FULL at most once per slot (R263). -/
def noteRcptFull (port : Nat) (s : State) : State :=
  if s.xch.rcptFull then s else notify N.RCPT_FULL scNoBuffer 0 port (s.updXch fun x => { x with rcptFull := true })

/-- The UPLINK record of a frame (R440). -/
def uplinkRec (a : Accept) (cls flags : Nat) (p : List Byte) (s : State) : Rec :=
  ⟨1, cls, flags, a.port, a.nix, a.fc, leBytes 5 (senAt (a.sfd + a.delta) s) ++ [BitVec.ofNat 8 a.lqi] ++ leBytes 2 a.rssi, p⟩

/-- The attempt in progress that a node ack answers (R250). -/
def ackedDl (a : Accept) (fc : Nat) (s : State) : Option (Nat × Dl) :=
  (s.xch.dls.filterMap fun e => e.2.map fun d => (e.1, d)).find? fun e =>
    e.2.nix == a.nix && e.2.fc == some fc && e.2.port == a.port && (match e.2.attempt with
      | some (ch, some t) => ch == a.channel && decide (t + 950 * us ≤ a.sfd) && decide (a.sfd ≤ t + 1000 * us + s.getF F.XCH_CFG_ACK_WAIT_US * us)
      | _ => false)

/-- An accepted node ack (R225, R237, R243, R250, R281). -/
def nodeAck (a : Accept) (p : List Byte) (s : State) : State :=
  let sgen := entBits p 1 3 0
  let st := entAssoc (s.entry a.nix)
  let s := if st = asNone then s
    else if st = asPending then assocActive a.nix s
    else (assocUplink a (some sgen) s).2
  match ackedDl a (entNat p 2 4) s with
  | none => s
  | some (i, d) =>
    let pr := entProfile (s.entry a.nix)
    let s := charge a.nix (itCharge (profTx pr s) (upTime a.nix a.mode a.delta s)) s
    let copy := airtime (nodeMode d.nix s) (nodeFec d.nix s) (s.getF F.XCH_CFG_PREAMBLE_OCT) ((d.psdu.map (·.length)).getD 0 + 2)
    let s := if d.relay then charge a.nix (itCharge (profTx pr s) copy) s else s
    if d.source == .response || d.source == .leave02 then dropResponse a.nix s else dlEnd i scOk s

/-- Accession entries in use (R257, R261). -/
def syncAccession (s : State) : State := s.setF F.FLD_STATUS_CACHE_USED s.xch.accession.length

/-- The unexpired entry of a flood. -/
def findAccession (origin fseq : Nat) (s : State) : Bool :=
  s.xch.accession.any fun e => match e.2 with
    | some x => x.origin == origin && x.fseq == fseq && decide (s.clk.now < x.expiry)
    | none => false

/-- Where an insertion goes: an empty entry, else the one nearest its expiry (R258). -/
def accessionPlace (s : State) : Nat :=
  if s.xch.accession.length < 65536 then
    ((List.range (s.xch.accession.length + 1)).find? fun i => (Sparse.get (fun _ => none) s.xch.accession i).isNone).getD 0
  else ((s.xch.accession.filterMap fun e => e.2.map fun x => (e.1, x.expiry)).foldl (fun (b : Option (Nat × Nat)) e => match b with
    | none => some e
    | some v => if e.2 < v.2 then some e else some v) none).map (·.1) |>.getD 0

/-- A flood inserted into the accession cache, with its journal record (R257, R258, R472). -/
def insertAccession (origin fseq : Nat) (s : State) : State :=
  let i := accessionPlace s
  let s := match Sparse.get (fun _ => none) s.xch.accession i with
    | some x =>
      if s.clk.now < x.expiry then
        let s := s.incF (F.FLD_CNT_COUNT 3)
        if !aSecondPast s.xch.evictAt s then s
        else notify N.FLD_EVICT scOk 0 (s.getF (F.FLD_CNT_COUNT 3)) (s.updXch fun x => { x with evictAt := some s.clk.slot })
      else s
    | none => s
  let a : Accession := ⟨origin, fseq, s.clk.now + s.getF F.FLD_CFG_LIFETIME_S * sec, s.sen⟩
  let s := syncAccession ((s.updXch fun x => { x with accession := Sparse.set (fun _ => none) x.accession i (some a) }).incF (F.FLD_CNT_COUNT 2))
  journalRec [7, origin, fseq, s.getF F.FLD_CFG_LIFETIME_S] 16 s

/-- A candidate of R285 with the order in which candidates are taken. -/
def relayBefore (a b : Nat × Nat × Nat) : Bool :=
  decide (a.1 < b.1) || (a.1 == b.1 && (decide (a.2.1 < b.2.1) || (a.2.1 == b.2.1 && decide (a.2.2 < b.2.2))))
def insertRelay (a : Nat × Nat × Nat) : List (Nat × Nat × Nat) → List (Nat × Nat × Nat)
  | [] => [a]
  | b :: r => if relayBefore a b then a :: b :: r else b :: insertRelay a r

/-- The relay nodes for a flood (R285): their strain is read with its decay. -/
def chooseRelays (leave : List Nat) (s : State) : List Nat × State :=
  let (l, s) := (s.cat.roster.filter fun n => !leave.contains n).foldl (fun (acc : List (Nat × Nat × Nat) × State) n =>
    let (st, s) := readLedger n acc.2
    (if st ≤ weight 0x410 s then insertRelay (st, entNat (s.entry n) 144 4, n) acc.1 else acc.1, s)) ([], s)
  let fan := s.getF F.FLD_CFG_FANOUT
  let s := s.incF (F.NRG_CNT_COUNT 3)
  ((l.take fan).map (·.2.2), if l.length < fan then s.incF (F.NRG_CNT_COUNT 4) else s)

/-- A flood relayed into the cell with TTL − 1, as a copy to each relay node (R257, R259). -/
def relayFlood (payload : List Byte) (cls : Nat) (leave : List Nat) (s : State) : State :=
  if s.getF F.FLD_CFG_FANOUT = 0 then s
  else
    let p := entPutBits payload 1 7 4 (entBits payload 1 7 4 - 1)
    let (ns, s) := chooseRelays leave s
    ns.foldl (fun s n => sendNode n cls .relay p true s) s

/-- ORIGIN and FSEQ of a flood, and the originating node where it is one of this cell (R255). -/
def floodOrigin (p : List Byte) : Nat := entNat p 2 4 % 2 ^ 28
def floodSeq (p : List Byte) : Nat := entNat p 6 2
def floodNode (p : List Byte) (s : State) : Option Nat :=
  let o := floodOrigin p
  if o / 2 ^ 27 = 1 ∧ o / 2 ^ 17 % 1024 = s.getF F.SLT_ADDR_RID then some (o % 2 ^ 17) else none

/-- How an inserted flood arrived, recorded in its originator's entry (R286). -/
def noteParent (f : Flood) (s : State) : State :=
  match floodNode f.payload s, f.from_ with
  | some n, some src => if entValid (s.entry n) then setEntry n (entPut (s.entry n) 140 4 (2 ^ 31 + src)) s else s
  | _, _ => s

/-- A flood relayed, or counted at TTL 1 (R257, R285). -/
def spreadFlood (f : Flood) (s : State) : State :=
  if entBits f.payload 1 7 4 ≤ 1 then s.incF (F.FLD_CNT_COUNT 5)
  else
    let leave := (match floodNode f.payload s with | some n => [n] | none => []) ++ (match f.from_ with | some n => if f.relay then [n] else [] | none => [])
    relayFlood f.payload f.cls leave s

/-- The flood engine looks up an accepted flood (R257): dropped as seen, or inserted, delivered and relayed. -/
def floodLookup (f : Flood) (s : State) : State :=
  if findAccession (floodOrigin f.payload) (floodSeq f.payload) s then s.incF (F.FLD_CNT_COUNT 1)
  else
    let s := noteParent f (insertAccession (floodOrigin f.payload) (floodSeq f.payload) s)
    let s := match f.acc with
      | some r =>
        let node := if floodOrigin f.payload / 2 ^ 27 = 1 then floodOrigin f.payload % 2 ^ 17 else r.nix
        if s.getF F.FLD_CFG_DELIVER = 1 then queueRecFor (upPort s) node r none none s else s
      | none => s
    spreadFlood f s

/-- A confirmation of an alarm frame (R262, R264); answers whether an entry matched. -/
def confirmReceipt (nix fc : Nat) (s : State) : Bool × State :=
  match (s.xch.receipts.filterMap fun e => e.2.map fun r => (e.1, r)).find? fun e => e.2.nix == nix && e.2.fc == fc && !e.2.owed with
  | none => (false, s)
  | some (i, r) =>
    let s := if r.expired then s else s.incF (F.XCH_CNT_COUNT 15)
    if r.rcpt then
      let s := setReceipt i (some { r with owed := true }) s
      (true, sendNode nix 0 (.receipt i) ([0x34, BitVec.ofNat 8 (bit r.expired)] ++ leBytes 4 fc) false s)
    else (true, setReceipt i none s)

/-- An accepted uplink dispatched by UTYPE (R225, R228, R243, R256); answers whether its buffer is kept for its record. -/
def dispatchUplink (a : Accept) (ut cls : Nat) (p : List Byte) (flags : Nat) (wait : Option Nat) (s : State) : Bool × State :=
  if ut = 0x20 then (false, assocRequest a p s)
  else if ut = 0x30 then (false, nodeAck a p s)
  else
    let sgen := if ut = 0x31 ∨ ut = 0x32 then some (entBits p 1 7 4) else none
    let (go, s) := assocUplink a sgen s
    if !go then (false, s)
    else if ut = 0x23 then (false, nodeLeaves a.nix (entNat p 1 1) s)
    else if ut = 0x33 then
      let r : Rec := uplinkRec a cls flags p s
      (false, (s.updXch fun x => { x with floods := x.floods ++ [⟨p, cls, some a.nix, a.form == 2, some r⟩] }).incF (F.FLD_CNT_COUNT 0))
    else (true, queueRec (upPort s) (uplinkRec a cls (flags + (if ut = 0x32 then 4 else 0)) p s) (some a.buffer) wait s)

/-- The ack of an acceptance released (R247), rebuilt first where its DUP bit no longer fits the outcome. A frame accepted after its
ack was withdrawn has a missed ack, which is charged for a new frame (R281). -/
def releaseAck (i : Nat) (a : Accept) (dup : Bool) (s : State) : State :=
  if a.ackOver then
    if a.ar && !a.refused then
      let s := s.incF (F.XCH_CNT_COUNT 8)
      if dup then s else chargeGuard a.nix s
    else s
  else if a.dup = dup then s
  else
    let s := s.setAcc i (some { a with dup := dup, ackFrame := [], ack := none })
    createJob (fun s => newJob ecTXL (svcPrio a.cls s) (ecRXA * 4096) noHandle noHandle (List.replicate 16 0) (.build (.sealAck i))) s

/-- Stage 9 with OK (R239, R241): entry, ledger, ack, dispatch. -/
def acceptOk (i : Nat) (a : Accept) (ut cls : Nat) (p : List Byte) (receipt : Option Nat) (s : State) : State :=
  let e := s.entry a.nix
  let resync := entRsync e ≠ 0 ∧ a.fc ≤ entNat e 28 4
  let s := journalCtr a.nix (setEntry a.nix (acceptedEntry e a.fc a.digest) s)
  let s := if a.fc = 0xFFFFFFFF then noteCounter a.nix false s else s
  let wait := waitFor s
  let s := match receipt with
    | some k => takeReceipt k a (entBits p 1 3 3 == 1 && ut != 0x33) s
    | none => s
  let s := if cls = 0 then s.incF (F.XCH_CNT_COUNT 14) else s
  let pr := entProfile (s.entry a.nix)
  let s := if a.form ≤ 1 then charge a.nix (profWake pr s + itCharge (profTx pr s) (upTime a.nix a.mode a.delta s)) s else s
  let s := releaseAck i a false (s.incF (F.XCH_CNT_COUNT 1))
  let s := match s.acc i with
    | some a => s.setAcc i (some { a with decided := true, flag := true, outcomeOk := true, waitPos := wait })
    | none => s
  let flags := (if resync then 1 else 0) + (if receipt.isSome then 2 else 0)
  let s := if resync ∧ carriesClass ut then s.incF (F.CAT_CNT_COUNT 5) else s
  let (keep, s) := dispatchUplink a ut cls p flags wait s
  closeAcc i (if keep then s else poolFree a.buffer s)

/-- Stage 9 with DUP_ACKED (R240, R241): acknowledged again, nothing stored or delivered. -/
def acceptDup (i : Nat) (a : Accept) (s : State) : State :=
  let s := assocRepeat a.nix (releaseAck i a true (s.incF (F.XCH_CNT_COUNT 2)))
  let s := match s.acc i with
    | some a => s.setAcc i (some { a with decided := true, flag := true, dup := true })
    | none => s
  closeAcc i (poolFree a.buffer s)

/-- Stages 6 to 9 after a verification that passed (R239, R240, R243, R263). -/
def acceptVerified (i : Nat) (a : Accept) (s : State) : State :=
  let d := acceptDecision a.nix a.fc a.digest s
  let p := s.bytes (bufferAddr a.buffer s + a.hdrLen) (a.bodyEnd - a.hdrLen)
  let ut := entNat p 0 1
  if 2 ≤ d then accFail i scReplay 0 (if d = 3 then s.incF (F.CAT_CNT_COUNT 6) else s)
  else if !utypeOk a.form ut || (ut == 0x33 && entBits p 1 7 4 == 0) then accFail i scDenied 4 s
  else if d = 1 then acceptDup i a s
  else
    let cls := if carriesClass ut then max a.cls (entBits p 1 2 0) else a.cls
    if cls = 0 ∧ carriesClass ut then
      match freeReceipt s with
      | some k => acceptOk i a ut cls p (some k) s
      | none => accFail i scNoBuffer 5 (noteRcptFull a.port s)
    else acceptOk i a ut cls p none s

/-- An earlier acceptance of the same node is still undecided (R242). -/
def mustWait (i : Nat) (a : Accept) (s : State) : Bool :=
  let key (x : Accept) : Nat × Nat × Nat := (x.sfd + x.delta, x.port, x.channel)
  s.xch.accs.any fun e => match e.2 with
    | some x => e.1 != i && x.nix == a.nix && !x.decided && relayBefore (key x) (key a)
    | none => false

end Sys2Proof.Machine
end

