-- ==== Sys2Proof/Machine/PowerOps.lean ====
section
/-! DEFINITION. Power modes and resets as parts of other events (R90, R99, R108, R513). -/

namespace Sys2Proof.Machine

/-- PWR_STATUS.MODE as the device state and the policy's choice give it, with PWR_BANKS (R99, R102). -/
def syncMode (s : State) : State :=
  let mode := if s.mode = stAutonomous then (if s.power.ql then 2 else 1) else if s.mode = stReserve then 3 else 0
  let changed := mode != s.getF F.PWR_STATUS_MODE
  let s := { s with power := { s.power with epfMixed := s.power.epfMixed || changed } }
  let s := s.setF F.PWR_STATUS_MODE mode
  if mode = 1 then s.setF F.PWR_BANKS_AWAKE 0xFFFFFFFF else if mode = 2 && changed then s.setF F.PWR_BANKS_AWAKE 0 else s

/-- Registers that a reset under R90 leaves: TAM_* of the TAMP domain, and FRZ_STATUS (R90, R513). -/
def survivesReset (a : Nat) : Bool := (0x138000 ≤ a && a < 0x139000) || a == 0x178000

/-- The device after a reset under R90, before its step 2: every domain but TAMP, the safety log and FRZ_STATUS at its reset value. -/
def resetDevice (s : State) : State :=
  { State.reset with
    clk := { State.reset.clk with now := s.clk.now, vinAt := s.clk.vinAt }
    pins := { s.pins with safeN := false }
    fuses := s.fuses
    regs := s.regs.filter fun e => survivesReset e.1
    tamp := s.tamp
    saf := { State.reset.saf with log := s.saf.log, logWr := s.saf.logWr, safeWr := s.saf.safeWr, starts := min (s.saf.starts + 1) 65535 }
    boot := { State.reset.boot with tamperHib := s.boot.tamperHib, vbatLost := s.boot.vbatLost }
    out := s.out
    draws := s.draws
    pending := s.pending }

/-- A restart under R90: start-up begins again at step 2. -/
def restart (s : State) : State := (resetDevice s).setF F.CFG_STATUS_STEP 2

/-- CORE and RF powered off (R108): their registers and tables lose their content, DRAM is not kept. -/
def coreOff (s : State) : State :=
  { State.reset with
    clk := { State.reset.clk with now := s.clk.now, vinAt := s.clk.vinAt }
    pins := s.pins
    fuses := s.fuses
    regs := s.regs.filter fun e => aonReg e.1
    tamp := s.tamp
    saf := { State.reset.saf with log := s.saf.log, logWr := s.saf.logWr, safeWr := s.saf.safeWr, starts := s.saf.starts }
    ctl := { State.reset.ctl with lease := s.ctl.lease }
    cur := s.cur
    boot := { State.reset.boot with ended := s.boot.ended, tamperHib := s.boot.tamperHib, vbatLost := s.boot.vbatLost }
    frz := { s.frz with delayEnd := none }
    out := s.out
    draws := s.draws
    pending := s.pending }

end Sys2Proof.Machine
end

