-- ==== Sys2Proof/Machine/Values.lean ====
section
/-! DEFINITION. Which values a register or table word takes (R11, and the field tables of the chapters), the layout of the tables behind the windows (R41 to R43), and the
checks that the chapters state at commit (R129). -/

namespace Sys2Proof.Machine

/-- `lo ≤ v ≤ hi`. -/
def within (lo hi v : Nat) : Bool := decide (lo ≤ v) && decide (v ≤ hi)

/-- The same for a signed field. -/
def withinInt (lo hi v : Int) : Bool := decide (lo ≤ v) && decide (v ≤ hi)

/-- Values of the registers of a port block, by offset. -/
def portValueOk (off : Nat) (w : Word) : Bool :=
  let f := bitsOf w
  match off with
  | 0x000 => f 30 29 ≤ 1 && f 26 16 ≤ 2000
  | 0x00C => withinInt (-80) 64 (toSigned 8 (f 23 16)) && withinInt (-80) 64 (toSigned 8 (f 7 0))
  | 0x010 => within 1 1000 (f 31 22) && f 15 0 ≤ 40000
  | 0x028 => within 1 1000 (f 25 16) && within 1 3600 (f 11 0)
  | 0x030 => within 10 10000 (f 31 18) && f 6 0 ≤ 100
  | 0x0E0 | 0x0E4 | 0x0E8 | 0x0EC => f 25 16 ≤ 1000
  | 0x100 => f 29 28 ≠ 3
  | 0x104 => within 1 128 (f 23 16)
  | 0x108 => 1 ≤ f 15 10 && within 16 1023 (f 9 0)
  | 0x10C => withinInt (-256) 255 (toSigned 16 (f 15 0))
  | _ => true

/-- Values of the registers of the host rings, by offset from 0x15_0400: LOG2N of the CFG registers. -/
def ringValueOk (off : Nat) (w : Word) : Bool := if off % 16 = 0 then within 4 12 (bitsOf w 4 0) else true

/-- Values of the other registers that refuse some. -/
def plainValueOk (a : Nat) (w : Word) : Bool :=
  let f := bitsOf w
  match a with
  | 0x44 => within 6 16 (f 4 0)
  | 0x10104 => f 31 30 ≠ 3 && f 29 20 ≠ 0 && decide (f 9 0 < f 19 10)
  | 0x20810 => within 100 60000 (f 15 0)
  | 0x30008 => within 100 60000 (f 15 0)
  | 0x30104 => within 100 10000 (f 15 0)
  | 0x30010 => within 1 32 (f 29 24) && f 21 16 ≤ 31 && decide (f 21 16 < f 29 24) && within 1 64 (f 14 8) && f 6 0 ≤ 63 && decide (f 6 0 < f 14 8)
  | 0xC0000 => f 23 16 ≤ 200 && within 5 80 (f 6 0)
  | 0xC0040 => [0, 5, 6, 7].contains (f 23 21) && within 1 15 (f 19 16) && within 1 4096 (f 12 0)
  | 0xC0048 => within 1 4096 (f 12 0)
  | 0xC8000 => 1 ≤ f 31 16 && 2 ≤ f 15 8
  | 0xD0000 => within 4 32 (f 23 16) && within 100 20000 (f 15 0)
  | 0xD0004 => within 1 8 (f 23 20) && within 1 8 (f 19 16)
  | 0xD0008 => within 10 100 (f 7 0)
  | 0xD8000 => within 5 7 (f 23 21) && 1 ≤ f 15 8
  | 0xE0014 => f 5 0 = 0
  | 0xE0018 => within 1 4096 (f 12 0)
  | 0xF0104 => within 1 1000 (f 25 16) && within 6 20 (f 4 0)
  | 0x100004 => f 10 0 ≤ 1024
  | 0x108004 => within 8 24 (f 20 16)
  | 0x108014 => f 25 24 ≠ 3
  | 0x110004 => within 1 1024 (f 31 21)
  | 0x118004 => 1 ≤ f 15 0
  | 0x120004 => within 1 3600 (f 11 0)
  | 0x14001C => within 1 999999999 (f 29 0)
  | 0x140044 => within 1 500 (f 9 0)
  | 0x140140 | 0x140240 => f 3 0 ≤ 8
  | 0x140150 | 0x140250 => 1 ≤ f 31 0
  | 0x140158 | 0x140258 => within 1 3600 (f 31 0)
  | 0x148014 => within 6 16 (f 4 0)
  | 0x150000 => within 256 2000 (f 26 16)
  | 0x150010 | 0x150014 => f 30 29 ≠ 3
  | 0x160000 => within 1 12 (f 19 16) && within 5 600 (f 9 0)
  | 0x178004 => f 25 16 ≤ 1000
  | _ => true

/-- Whether a register takes a value, by its address. -/
def valueOk (a : Nat) (w : Word) : Bool :=
  if 0x40000 ≤ a ∧ a < 0xC0000 then portValueOk ((a - 0x40000) % 0x8000) w
  else if 0x150400 ≤ a ∧ a < 0x150600 then ringValueOk (a - 0x150400) w
  else if 0xF0000 ≤ a ∧ a < 0xF004C then bitsOf w 30 16 ≤ 10000
  else plainValueOk a w

/-- The table pages behind each window (R41); a window without paging shows one. -/
def windowPages (w : Nat) : Nat := [1, 2, 256, 1, 4, 1, 5, 1].getD w 0

/-- The writable bits of a type T table word, by window and table offset (page × 0x40000 + offset); none for reserved words (R165, R181, R208, R209, R280, R304). -/
def tabMask (w off : Nat) : Option Word :=
  match w with
  | 0 =>
    let o := off % 0x4000
    if o < 0xC0 then some 0xFF#32 else if 0x100 ≤ o ∧ o < 0x300 then some 0xF00000FF#32 else none
  | 1 =>
    if off < 0x20 then some 0x8000FFFF#32
    else if 0x100 ≤ off ∧ off < 0x180 then some 0x9FFFFFFF#32
    else if 0x40000 ≤ off ∧ off < 0x40400 then
      (if off % 64 = 0 then some 0x87F0FFFF#32 else if off % 64 ≤ 32 then some 0xFFFFFFFF#32 else none)
    else none
  | 3 =>
    if off < 0x400 then
      (match off % 64 with | 0 => some 0x80FFFFFF#32 | 4 | 8 => some 0xFFFFF#32 | 12 => some 0xFFFF#32 | 16 => some 0xFFFFFFFF#32 | _ => none)
    else if off = 0x40C then some 0xFFFF003F#32
    else if off < 0x418 then some 0xFFFF#32 else none
  | 4 =>
    if off < 0x980 then (match off % 16 with | 0 => some 0x8000FFFF#32 | 4 => some 0x3FFFF#32 | _ => none)
    else if 0x40000 ≤ off ∧ off < 0xC0000 then some 0xFFC0FFFF#32
    else if 0xC0000 ≤ off ∧ off < 0xC1000 then some 0xFFFF#32 else none
  | _ => none

/-- A word that a window shows as read-only (R43): the noise floors of R182, and every word behind windows 2, 5, 6 and 7. -/
def tabReadOnly (w off : Nat) : Bool :=
  (w == 0 && within 0x300 0x4FC (off % 0x4000)) || w == 2 || w == 5 || w == 6 || w == 7

/-- Whether a table word takes a value. -/
def tabValueOk (w off : Nat) (v : Word) : Bool :=
  match w with
  | 0 => if off % 0x4000 < 0xC0 then withinInt (-32) 31 (toSigned 8 (bitsOf v 7 0)) else true
  | 1 => if off < 0x20 then within 1 16384 (bitsOf v 15 0) else true
  | 3 => if off = 0x40C then bitsOf v 5 0 ≤ 32 else if off = 0x414 then within 1 8760 (bitsOf v 15 0) else true
  | 4 => if off < 0x980 ∧ off % 16 = 4 then true else 1 ≤ bitsOf v 15 0
  | _ => true

/-! Checks at commit, on the state `s` as it would be, and beside `o`, the state before. -/

/-- All of the ports. -/
def allPorts (f : Nat → Bool) : Bool := (List.range 16).all f

/-- The receive span and the usable span, as half widths in kHz (R175). -/
def spanHalf (n : Nat) (s : State) : Nat := [3500, 7000, 14000].getD (s.getF (F.RFP_CHAN_CFG_SPAN n)) 0
def usableHalf (n : Nat) (s : State) : Nat := [3000, 6500, 13000].getD (s.getF (F.RFP_CHAN_CFG_SPAN n)) 0

/-- `lo` to `hi` kHz lies within the tuning range of port `n`. -/
def tunable (n lo hi : Nat) : Bool :=
  (decide (150000 ≤ lo) && decide (hi ≤ 960000)) || (decide (12 ≤ n) && decide (2400000 ≤ lo) && decide (hi ≤ 2483500))

/-- R162: the front-end times. -/
def feTimingOk (n : Nat) (s : State) : Bool :=
  let ramp := s.getF (F.RFP_FE_TIMING_RAMP n)
  let pa := s.getF (F.RFP_FE_TIMING_PA_LEAD n)
  decide (pa ≤ s.getF (F.RFP_FE_TIMING_TRSW_LEAD n)) && decide (ramp ≤ pa) && within 2 32 ramp
    && decide (s.getF (F.RFP_FE_TIMING_PA_LAG n) ≤ s.getF (F.RFP_FE_TIMING_TRSW_LAG n))

/-- R166: the permitted range. -/
def permitOk (n : Nat) (s : State) : Bool :=
  let lo := s.getF (F.RFP_PERMIT_LO_KHZ n)
  let hi := s.getF (F.RFP_PERMIT_HI_KHZ n)
  decide (lo ≤ hi) && (lo == 0 || tunable n lo lo) && (hi == 0 || tunable n hi hi)

/-- ENABLE of a port. -/
def portOn (n : Nat) (s : State) : Bool := s.getF (F.RFP_CTRL_ENABLE n) == 1

/-- The receive span of an enabled port lies in its tuning range (RFPn_RXTUNE). -/
def spanOk (n : Nat) (s : State) : Bool := tunable n (centre n s - spanHalf n s) (centre n s + spanHalf n s)

/-- Least SPACING of a PHY mode in kHz (R178). -/
def minSpacing (m : Nat) : Nat := [100, 200, 400, 400, 600, 400, 800, 5000].getD m 0

/-- R183 for one channel of an enabled port. -/
def channelOk (n c : Nat) (s : State) : Bool :=
  let sp := spacingKhz (s.getF (F.RFP_CHAN_CFG_SPACING n))
  let k := 2 * chanKhz n c s
  let modes := chanModes n c s
  let high := decide (2400000 ≤ centre n s)
  decide (2 * (centre n s - usableHalf n s) ≤ k - sp) && decide (k + sp ≤ 2 * (centre n s + usableHalf n s)) && modes != 0
    && (List.range 8).all fun m => modes / 2 ^ m % 2 == 0 || (decide (minSpacing m ≤ sp) && (m == 7) == high && (m != 7 || decide (12 ≤ n)))

/-- R183: the grid of a port in the 2.4 GHz band. -/
def highGridOk (n : Nat) (s : State) : Bool :=
  let ch0 := s.getF (F.RFP_CHAN_CFG_CH0_KHZ n)
  centre n s < 2400000 || (spacingKhz (s.getF (F.RFP_CHAN_CFG_SPACING n)) == 5000 && decide (2405000 ≤ ch0) && (ch0 - 2405000) % 5000 == 0)

/-- The checks of a port (R162, R163, R166, R183). -/
def portCommitOk (s : State) (n : Nat) : Bool :=
  feTimingOk n s && permitOk n s
    && decide (toSigned 8 (s.getF (F.RFP_TXPWR_DEFAULT n)) ≤ toSigned 8 (s.getF (F.RFP_TXPWR_MAX n)))
    && (!portOn n s || (spanOk n s && highGridOk n s && (List.range 128).all fun c => !chanOn n c s || channelOk n c s))

/-- R267: enabled ports whose receive spans overlap belong to one group. -/
def groupsOk (s : State) : Bool :=
  allPorts fun a => allPorts fun b =>
    !(decide (a < b) && portOn a s && portOn b s && decide (centre a s < centre b s + spanHalf a s + spanHalf b s)
      && decide (centre b s < centre a s + spanHalf a s + spanHalf b s)) || groupOf a s == groupOf b s

/-- Some association of the states `st` has `p`. -/
def anyAssoc (o : State) (st : List Nat) (p : List Byte → Bool) : Bool :=
  o.cat.valid.any fun n => st.contains (entAssoc (o.entry n)) && p (o.entry n)

/-- Slot length in µs. -/
def slotUs (s : State) : Nat := s.getF F.SLT_CONFIG_SLOT_CODE * 500

/-- R207: the slot length stays while an association is PENDING or ACTIVE. -/
def slotCodeOk (o s : State) : Bool :=
  o.getF F.SLT_CONFIG_SLOT_CODE == s.getF F.SLT_CONFIG_SLOT_CODE || !anyAssoc o [asPending, asActive] fun _ => true

/-- R208: LEN and EN of a slotframe to which an association belongs stay. -/
def slotframesOk (o s : State) : Bool :=
  (List.range 8).all fun k => o.tab 1 (4 * k) == s.tab 1 (4 * k) || !anyAssoc o [asPending, asActive, asUncertain] fun e => blkSfid (entSched e) == k

/-- R209: an enabled template. -/
def templateOk (s : State) (p : Nat) : Bool :=
  let w := (s.tab 1 (0x40000 + 64 * p)).toNat
  let k := w / 2 ^ 24 % 8
  let count := w / 2 ^ 20 % 16
  let es := (List.range count).map fun i => (s.tab 1 (0x40000 + 64 * p + 4 + 4 * i)).toNat
  w < 2 ^ 31 || (sfEn k s && within 1 8 count && es.all (schedEntryOk (sfLen k s)) && es.any fun e => seKind e == 1)

/-- R220: an enabled own cell. -/
def ownCellOk (s : State) (i : Nat) : Bool :=
  let w := (s.tab 1 (0x100 + 4 * i)).toNat
  w < 2 ^ 31 || (decide (w / 2 ^ 17 % 4096 < s.getF F.SLT_RES_CFG_RES_FRAME) && (List.range 16).any fun n => portOn n s && onPort n (25 * (w % 2 ^ 17)) s)

/-- SLT_BCN_PORTn: the channels used. -/
def bcnPortOk (s : State) (n : Nat) : Bool :=
  let w := s.reg (0xC0080 + 4 * n)
  bitsOf w 31 31 == 0 || (List.range (bitsOf w 29 28 + 1)).all fun i => chanOn n (bitsOf w (7 * i + 6) (7 * i)) s

/-- SLT_BCN_TIME and XCH_DL_CFG. -/
def launchOk (s : State) : Bool :=
  decide (s.getF F.SLT_BCN_TIME_LAUNCH_US < slotUs s) && decide (s.getF F.SLT_BCN_TIME_PHASE < s.getF F.SLT_BCN_CFG_BCN_PERIOD)
    && decide (s.getF F.XCH_DL_CFG_BE_MIN ≤ s.getF F.XCH_DL_CFG_BE_MAX) && decide (s.getF F.XCH_DL_CFG_LAUNCH_US < slotUs s)

/-- R280: an enabled profile, and one that VALID entries name. -/
def profileOk (o s : State) (p : Nat) : Bool :=
  if profEn p s then
    within 4 32 (profPre p s) && profGuard p s ≤ 10000 && profTx p s ≤ 1000000 && profRx p s ≤ 1000000 && decide (0 < profAllow p s)
  else !profEn p o || !(o.cat.valid.any fun n => entProfile (o.entry n) == p)

/-- R267: CAT_BASE and CAT_GROUPS stay while any entry is VALID. -/
def catalogueOk (o s : State) : Bool := o.cat.valid.isEmpty || (o.reg 0xE0000 == s.reg 0xE0000 && o.reg 0xE0004 == s.reg 0xE0004)

/-- R296 and SHP_PORTp. -/
def shpPortOk (o s : State) (p : Nat) : Bool :=
  (16 ≤ p || (!subMode p s && s.getF (F.SHP_PORT_RATE_MBPS p) == 0)) && (subMode p o == subMode p s || !(o.shp.queues.any fun q => q.port == p))

/-- SHP_WATCHk. -/
def watchOk (s : State) (k : Nat) : Bool :=
  let p := s.getF (F.SHP_WATCH_PORT k)
  let sub := s.getF (F.SHP_WATCH_SUB k)
  s.getF (F.SHP_WATCH_EN k) == 0 || (p ≤ 18 && if 16 ≤ p && subMode p s then sub ≤ 1023 else sub ≤ 131071)

/-- R450: host rings inside their window. -/
def hostRingsOk (s : State) : Bool :=
  allPorts fun r => decide (s.getF (F.BHL_HRX_BASE_VALUE r) * 2048 + 2048 * rxSize' (s.getF (F.BHL_HRX_CFG_LOG2N r)) ≤ 2 ^ 28)
    && decide (s.getF (F.BHL_HTX_BASE_VALUE r) * 2048 + 2048 * rxSize' (s.getF (F.BHL_HTX_CFG_LOG2N r)) ≤ 2 ^ 28)
where
  rxSize' (n : Nat) : Nat := 2 ^ n

/-- A ring of records of `size` bytes: its region when it is enabled (R45, R339). -/
def ringRegion (en : Bool) (base log size : Nat) : List (Nat × Nat) :=
  if en then [(base / (size * 2 ^ log) * (size * 2 ^ log), size * 2 ^ log)] else []

/-- The checked regions of R339. -/
def regions (s : State) : List (Nat × Nat) :=
  [(catBase s, 68 * 2 ^ 20), (poolBase s, 2080 * poolCount s), (blobBase s, 80 * 2 ^ 20)]
    ++ ((List.range 16).filter fun w => s.getF (F.BMP_HWIN_CTRL_EN w) == 1).map (fun w => (s.getF (F.BMP_HWIN_CTRL_MAP_BASE w) * 2 ^ 19, 2 ^ 19))
    ++ ringRegion (s.getF F.TOP_NRING_CTRL_EN == 1) (s.getF F.TOP_NRING_BASE_BASE) (s.getF F.TOP_NRING_CTRL_LOG2N) 16
    ++ ringRegion (s.getF F.SHP_SRING_CTRL_EN == 1) (s.getF F.SHP_SRING_BASE_BASE) (s.getF F.SHP_SRING_CTRL_LOG2N) 32
    ++ ringRegion (s.getF F.TRC_RING_CTRL_EN == 1) (s.getF F.TRC_RING_BASE_BASE) (s.getF F.TRC_RING_CTRL_LOG2N) 16
    ++ ringRegion (s.getF F.TSU_RING_CTRL_EN == 1) (s.getF F.TSU_RING_BASE_BASE) (s.getF F.TSU_RING_CTRL_LOG2N) 64
    ++ (if s.fuses.pairRoot then [(0x10000000, 528 * 2 ^ 20)] else [])

/-- No two of the regions overlap. -/
def apart : List (Nat × Nat) → Bool
  | [] => true
  | r :: rs => rs.all (fun q => !overlaps r.1 r.2 q.1 q.2) && apart rs

/-- R339. -/
def regionsOk (o s : State) : Bool :=
  apart (regions s) && (regions s).all (fun r => inDram r.1 r.2 s)
    && (poolUsed o == 0 || (poolBase o == poolBase s && poolCount o == poolCount s))
    && (List.range 16).all fun w => s.getF (F.BMP_HWIN_CTRL_EN w) == 0 || o.getF (F.BMP_HWIN_CTRL_EN w) == 0
        || o.getF (F.BMP_HWIN_CTRL_MAP_BASE w) == s.getF (F.BMP_HWIN_CTRL_MAP_BASE w)

/-- Every check that the chapters state at commit, with the values as they would be in effect (R129, R339). -/
def commitOk (o s : State) : Bool :=
  (List.range 16).all (portCommitOk s) && groupsOk s && slotCodeOk o s && slotframesOk o s && (List.range 16).all (templateOk s)
    && (List.range 32).all (ownCellOk s) && (List.range 16).all (bcnPortOk s) && launchOk s && (List.range 16).all (profileOk o s) && catalogueOk o s
    && (List.range 19).all (shpPortOk o s) && (List.range 16).all (watchOk s) && hostRingsOk s && regionsOk o s
    && decide (s.getF F.BMP_POOL_CFG_RESERVE < poolCount s)

end Sys2Proof.Machine
end

