-- ==== Sys2Proof/Machine/SlotOps.lean ====
section
/-! DEFINITION. The slot engine as part of other events: ideal boundaries, beacons, placement on radio ports, and what a boundary does (R101 to R103, R200 to R220,
R249, R283, R298). -/

namespace Sys2Proof.Machine

/-- The domain epoch and a slot in units of 2^−32 ns (R200, R202). -/
def epochUnits (s : State) : Int := (s.get64 F.SLT_EPOCH_LO_SECONDS F.SLT_EPOCH_HI_SECONDS * unitsPerSec : Nat)
def slotUnits (s : State) : Int := (s.getF F.SLT_CONFIG_SLOT_CODE * 500000 * 2 ^ 32 : Nat)

/-- INC of the selected domain, the units of a slot clock tick. -/
def tickUnits (s : State) : Int := (max (s.domain (selDomain s)).inc 1 : Nat)

/-- Ticks until a duration in units has passed: the least whole number not below it. -/
def ceilTicks (u : Int) (s : State) : Int := -((-u) / tickUnits s)

/-- The ideal boundary at or after slot clock value `x`, and its number n (R203). -/
def idealFrom (x : Nat) (s : State) : Int × Int :=
  let r := refAt x s - epochUnits s
  let n := -((-r) / slotUnits s)
  ((x : Int) + ceilTicks (n * slotUnits s - r) s, n)

/-- The ideal boundary before the one at or after `x`. -/
def idealBefore (x : Nat) (s : State) : Int × Int :=
  let r := refAt x s - epochUnits s
  let n := -((-r) / slotUnits s) - 1
  ((x : Int) + ceilTicks (n * slotUnits s - r) s, n)

/-- The ideal boundary nearest to `x`; halfway, the earlier (R203). -/
def idealNear (x : Nat) (s : State) : Int × Int :=
  let a := idealBefore x s
  let b := idealFrom x s
  if (x : Int) - a.1 ≤ b.1 - x then a else b

/-- The next boundary and its SEN placed by the slot engine, and with them the checker's (R202, R206). -/
def placeNext (at_ sen : Nat) (s : State) : State :=
  s.updSlt fun x => { x with next := some at_, nextSen := sen, chkNext := at_, chkNextSen := sen }

/-- The first boundary placed (R202): on an ideal boundary at least 1 ms ahead, or 1 ms ahead with SEN 0 before the epoch. -/
def firstBoundary (s : State) : State :=
  let s := s.updSlt fun x => { x with first := true, bcnIdx := [], bcnCell := [], past := [] }
  if refAt s.clk.slot s < epochUnits s then placeNext (s.clk.slot + ms) 0 s
  else
    let (b, n) := idealFrom (s.clk.slot + ms) s
    placeNext b.toNat (n.toNat % 2 ^ 40) s

/-- A difference as SLT_SEN_DIFF shows it: 32 bits, signed, saturating. -/
def satDiff (d : Int) : Nat := ofSigned 32 (max (-(2 ^ 31)) (min (2 ^ 31 - 1) d))

/-- ALIGN_FAR when the error at a boundary exceeds 100 µs, once per second (R203). -/
def noteAlign (err : Int) (s : State) : State :=
  if err.natAbs ≤ 100 * us ∨ !aSecondPast s.slt.alignAt s then s
  else notify N.ALIGN_FAR scOk 0 (ofSigned 32 (err.tdiv us)) (s.updSlt fun x => { x with alignAt := some s.clk.slot })

/-- The alignment at the boundary just issued, and the next boundary with its trim (R201, R203). -/
def alignNext (s : State) : State :=
  let b := s.bound
  let (i, n) := idealNear b s
  let err := (b : Int) - i
  let trim := max (-(s.getF F.SLT_CONFIG_TRIM_MAX : Int)) (min (s.getF F.SLT_CONFIG_TRIM_MAX : Int) err)
  let s := (s.setF F.SLT_ALIGN_VALUE (ofSigned 32 err)).setF F.SLT_SEN_DIFF_VALUE (satDiff ((s.sen : Int) - n))
  placeNext (((b : Int) + nominal s - trim).toNat) ((s.sen + 1) % 2 ^ 40) (noteAlign err s)

/-- Occupancy of the slot that ends at `b`, in parts per thousand (R101). -/
def occupancy (b : Nat) (s : State) : Nat :=
  let live := (s.demods.filterMap fun e => e.2.map fun x => b - max x.claimed s.bound).sum
  (s.power.busyTicks + live) * 1000 / max (1024 * nominal s) 1

/-- PWR_OCC (R101). -/
def putOcc (o : Nat) (s : State) : State :=
  let s := s.setF F.PWR_OCC_LAST (min o 1023)
  if s.getF F.PWR_OCC_PEAK < min o 1023 then s.setF F.PWR_OCC_PEAK (min o 1023) else s

/-- Whether QUIET_LISTEN is chosen after a slot of occupancy `o`, the last of `low` slots at or below ENTER (R102). -/
def choosesQl (o low : Nat) (s : State) : Bool :=
  let p := s.getF F.PWR_MODE_CTRL_POLICY
  if p = 1 then false
  else if p = 2 then true
  else if s.power.ql then !(decide (s.getF F.PWR_MODE_CTRL_EXIT < o) || s.power.bank3)
  else decide (s.getF F.PWR_MODE_CTRL_DWELL ≤ low)

/-- Banks of a port with a busy demodulator now, as bits. -/
def busyBanks (n : Nat) (s : State) : Nat :=
  ((List.range 4).filter fun b => (List.range 16).any fun d => (s.demod n (16 * b + d)).isSome).foldl (fun a b => a + 2 ^ b) 0

/-- The highest bank up to `top` that a mask names, 0 where it names none. -/
def topBank (mask : Nat) : Nat → Nat
  | 0 => 0
  | b + 1 => if mask / 2 ^ (b + 1) % 2 = 1 then b + 1 else topBank mask b

/-- Woken banks without a busy demodulator in the whole slot return to gating (R103); on entry to QUIET_LISTEN only those with a busy demodulator stay awake. -/
def gateBanks (entered : Bool) (s : State) : State :=
  let s := (List.range 16).foldl (fun s n =>
    let now := busyBanks n s
    let mask := if entered then now else Sparse.get (fun _ => 0) s.power.bankUsed n
    let s := if s.power.ql then s.setF ⟨0x1010c, 2 * n + 1, 2 * n⟩ (topBank mask (if entered then 3 else bitsOf (s.reg 0x1010c) (2 * n + 1) (2 * n))) else s
    { s with power := { s.power with bankUsed := Sparse.set (fun _ => 0) s.power.bankUsed n now } }) s
  { s with power := { s.power with bank3 := false, busyTicks := 0 } }

/-- The power decisions of a boundary `b` (R101 to R103); only AUTONOMOUS has the two modes. -/
def powerAtBoundary (b : Nat) (s : State) : State :=
  let o := occupancy b s
  let s := putOcc o s
  let low := if o ≤ s.getF F.PWR_MODE_CTRL_ENTER then s.power.lowSlots + 1 else 0
  let ql := s.mode == stAutonomous && choosesQl o low s
  let moved := ql != s.power.ql
  let s := { s with power := { s.power with ql := ql, lowSlots := if moved then 0 else low } }
  if moved then
    let s := syncMode s
    gateBanks ql (notify N.MODE scOk 0 (s.getF F.PWR_STATUS_MODE) s)
  else gateBanks false s

/-- Cells that neighbours hold (R232). -/
def Neighbour.holds (x : Neighbour) (cell : Nat) : Bool := x.cells.any fun e => e.2 == some cell
def trackedNbrs (s : State) : List Neighbour := s.slt.nbrs.filterMap (·.2)

/-- Slot `sen` is blocked at a frequency by a neighbour's cell (R232). -/
def nbrBlocks (khz sen : Nat) (s : State) : Bool :=
  khz % 25 == 0 && (trackedNbrs s).any fun x => x.holds (sen % max (s.getF F.SLT_RES_CFG_RES_FRAME) 1 * 2 ^ 17 + khz / 25)

/-- Own cells given way (R232): a cell that a neighbour of lower RID holds gives way from this slot on, and returns when no neighbour holds it. -/
def settleCell (i : Nat) (s : State) : State :=
  let w := (s.tab 1 (0x100 + 4 * i)).toNat
  let cell := w % 2 ^ 29
  let own := decide (2 ^ 31 ≤ w)
  let set := s.getF F.SLT_RES_CONFLICT_CELL / 2 ^ i % 2 == 1
  let held := (trackedNbrs s).filter fun x => x.holds cell
  let f : Field := ⟨0xc00c8, i, i⟩
  if own && !set then
    match held.find? fun x => decide (x.rid < s.getF F.SLT_ADDR_RID) with
    | some x => notify N.RES_CONFLICT scOk 0 (i * 65536 + x.rid) (s.setF f 1)
    | none => s
  else if set && (!own || held.isEmpty) then s.setF f 0
  else s
def settleCells (s : State) : State := (List.range 32).foldl (fun s i => settleCell i s) s

/-- The own cells that are announced, in order (R218, R232). -/
def announced (s : State) : List Nat := (List.range 32).filterMap fun i => (ownCell i s).map fun c => c.1 * 2 ^ 17 + c.2

/-- `k` cells from index `i` on, wrapping. -/
def cellsFrom (l : List Nat) (i k : Nat) : List Nat := (List.range k).map fun j => l.getD ((i + j) % max l.length 1) 0

/-- Octets of a beacon without its cells: header, open fields, payload, MIC and FCS (R216, R218). -/
def beaconBase (level join mode : Nat) : Nat := 13 + (if level = 0 then 0 else 5 + micLen level) + 4 + 21 + 4 * join + beaconFcs mode

/-- The Ulvo beacon payload (R218): `first` and `n` cells, and the join channels of the port. -/
def beaconPayload (n first count : Nat) (s : State) : List Byte :=
  let cells := announced s
  let joins := (List.range (s.getF (F.SLT_BCN_PORT_COUNT n) + 1)).map fun k => beaconChan n k s
  let align := (toSigned 32 (s.getF F.SLT_ALIGN_VALUE)).natAbs
  let w := bit (decide (100 * us < align)) * 4096 + bit s.fuses.pairRoot * 2048 + s.getF F.SLT_BCN_CFG_JOIN_OPEN * 1024 + s.getF F.SLT_ADDR_RID
  [1, 1] ++ leBytes 2 w ++ leBytes 5 s.sen ++ [BitVec.ofNat 8 (s.getF F.SLT_CONFIG_SLOT_CODE)] ++ leBytes 2 (s.getF F.SLT_BCN_CFG_BCN_PERIOD)
    ++ leBytes 2 (s.getF F.SLT_RES_CFG_RES_FRAME) ++ leBytes 2 (s.getF F.SLT_BCN_TIME_LAUNCH_US)
    ++ [BitVec.ofNat 8 (s.getF F.SLT_BCN_CFG_RSP_SLOTS), BitVec.ofNat 8 joins.length, BitVec.ofNat 8 cells.length, BitVec.ofNat 8 first, BitVec.ofNat 8 count]
    ++ (joins.map fun c => leBytes 4 (beaconMode n c s * 2 ^ 28 + chanKhz n c s / 25 % 2 ^ 17)).flatten
    ++ ((cellsFrom cells first count).map (leBytes 4)).flatten

/-- A beacon frame without MIC and FCS (R216): `seq` and `fc` are filled in by the SEAL of a secured beacon. -/
def beaconFrame (seq : Nat) (p : List Byte) (s : State) : List Byte :=
  let level := s.getF F.SLT_BCN_CFG_SEC_LEVEL
  leBytes 2 (if level = 0 then 0xD000 else 0xD008) ++ [BitVec.ofNat 8 seq] ++ leBytes 2 (s.getF F.SLT_ADDR_PAN_ID)
    ++ leBytes 8 (s.get64 F.SLT_EUI_LO_EUI F.SLT_EUI_HI_EUI) ++ (if level = 0 then [] else BitVec.ofNat 8 level :: leBytes 4 0)
    ++ leBytes 2 (if s.getF F.SLT_BCN_CFG_JOIN_OPEN = 1 then 0xCFFF else 0x4FFF) ++ [0, 0] ++ p

/-- The beacon of a port built at the boundary that begins its slot (R217). -/
def buildBeacon (n : Nat) (s : State) : State :=
  let j := Sparse.get (fun _ => 0) s.slt.bcnIdx n
  let s := s.updSlt fun x => { x with bcnIdx := Sparse.set (fun _ => 0) x.bcnIdx n (j + 1) }
  let level := s.getF F.SLT_BCN_CFG_SEC_LEVEL
  let cells := (announced s).length
  let mode := beaconMode n (beaconNow n s) s
  let room := ((if mode = 7 then 127 else 2047) - beaconBase level (s.getF (F.SLT_BCN_PORT_COUNT n) + 1) mode) / 4
  let start := Sparse.get (fun _ => 0) s.slt.bcnCell n
  let first := if cells ≤ room then 0 else start % max cells 1
  let count := min cells room
  if s.getF F.CPH_BCN_FC_FC = 0xFFFFFFFF then bcnSkipped n scDenied s
  else
    let s := s.updSlt fun x => { x with bcnNext := Sparse.set (fun _ => 0) x.bcnNext n ((first + count) % max cells 1) }
    let p := beaconPayload n first count s
    if level = 0 then
      let (fc, s) := takeCounter ⟨opSeal, 0, nsBeacon, 0, 0, 0, 0, false, 0, 0, 0, 0, 0⟩ s
      sendBeacon n (beaconFrame fc p s) s
    else
      let f := beaconFrame 0 p s
      let s := s.updSlt fun x => { x with bcnPsdu := Sparse.set (fun _ => none) x.bcnPsdu n (some f) }
      createJob (fun s => newJob ecCPH (engPrio ecCPH s) (ecSLT * 4096) noHandle noHandle
        (cphArgs 2 (level - 4) 2 level 0 22 (f.length - 22) false (s.getF F.SLT_BCN_CFG_KEY_SLOT) 0 14 2) (.beacon n)) s

/-- The slot is a beacon slot of the port (R217). -/
def isBeaconSlot (n : Nat) (first : Bool) (sen : Nat) (s : State) : Bool := beaconSlot n sen s || (first && s.getF (F.SLT_BCN_PORT_EN n) == 1)

/-- The windows of a downlink's kind that hold a slot, once the schedule has taken effect (R212, R213, R249, R259). -/
def dlWindows (d : Dl) (sen : Nat) (s : State) : List Nat :=
  let e := s.entry d.nix
  if sen < entNat e 40 5 then [] else windowsAt (entSched e) (if d.relay then 2 else 1) sen

/-- The channel of a slot that qualifies for a downlink under R249 and R259. -/
def qualifies (n : Nat) (first : Bool) (d : Dl) (sen : Nat) (s : State) : Option (Nat × Nat) :=
  let e := s.entry d.nix
  if isBeaconSlot n first sen s || entAssoc e != asActive || decide (2 ≤ (s.port n).cal.phase) then none
  else match dlWindows d sen s with
  | w :: _ => match windowChannel e w sen with
    | some c => if nbrBlocks (chanKhz n c s) sen s then none else some (w, c)
    | none => none
  | [] => none

/-- No later slot of the window qualifies (R283). -/
def lastQualifying (n : Nat) (d : Dl) (w sen : Nat) (s : State) : Bool :=
  let b := entSched (s.entry d.nix)
  let pos := (sen % max (blkLen b) 1 + blkLen b - seOffset w) % max (blkLen b) 1
  (List.range (seLength w - 1 - pos)).all fun k => (qualifies n false d (sen + 1 + k) s).isNone

/-- An earlier segment of the same message has still to end OK (R254). -/
def segWaits (i : Nat) (d : Dl) (s : State) : Bool :=
  match segId d with
  | some m => s.downlinks.any fun e => e.1 != i && e.2.nix == d.nix && e.2.source == d.source && segId e.2 == some m && decide (entNat e.2.payload 4 1 < entNat d.payload 4 1)
  | none => false

/-- Head frames of a port's queues of a class, with their downlinks. -/
def heads (n c : Nat) (s : State) : List (SFrame × Nat × Dl) :=
  (classQueues n c s).filterMap fun q => match q.frames.head? with
    | some f => match f.load with
      | .downlink i => (s.dl i).map fun d => (f, i, d)
      | _ => none
    | none => none

/-- A retry's slots counted down: a slot that qualifies before the drawn one is passed over (R251). -/
def passRetries (n : Nat) (first : Bool) (s : State) : State :=
  ((List.range 8).map fun c => heads n c s).flatten.foldl (fun s h =>
    let (_, i, d) := h
    if d.attempt.isNone && decide (0 < d.skip) && decide (d.notBefore ≤ s.sen) && (qualifies n first d s.sen s).isSome then
      s.updDl i fun d => { d with skip := d.skip - 1, notBefore := s.sen + 1 }
    else s) s

/-- The candidates of a class in the slot that has begun (R299): frame, number, downlink, window and channel. -/
def candidates (n c : Nat) (first : Bool) (s : State) : List (SFrame × Nat × Dl × Nat × Nat) :=
  (heads n c s).filterMap fun h =>
    let (f, i, d) := h
    if d.attempt.isSome || decide (0 < d.skip) || decide (s.sen < d.notBefore) || d.doomed || segWaits i d s then none
    else (qualifies n first d s.sen s).map fun wc => (f, i, d, wc.1, wc.2)

/-- A candidate's score (R283), with the ledger read. -/
def scoreOf (n : Nat) (d : Dl) (w : Nat) (s : State) : Nat × Bool × State :=
  let (st, s) := readLedger d.nix s
  let age := min (s.sen - d.eligibleAt.getD s.sen) 65535
  let l := lastQualifying n d w s.sen s
  (weight 0x400 s * st + weight 0x404 s * age + weight 0x408 s * bit l, l, s)

/-- The candidate with the highest score, and L of it; equal scores go to the lower NIX (R283). -/
def placed (n : Nat) (cs : List (SFrame × Nat × Dl × Nat × Nat)) (s : State) : Option (Nat × Bool × SFrame × Nat × Dl × Nat) × State :=
  cs.foldl (fun (acc : Option (Nat × Bool × SFrame × Nat × Dl × Nat) × State) x =>
    let (f, i, d, w, ch) := x
    let (sc, l, s) := scoreOf n d w acc.2
    match acc.1 with
    | none => (some (sc, l, f, i, d, ch), s)
    | some b => if b.1 < sc ∨ (b.1 = sc ∧ d.nix < b.2.2.2.2.1.nix) then (some (sc, l, f, i, d, ch), s) else (some b, s)) (none, s)

/-- An attempt of the frame chosen for the slot: built and sealed before its first one, and sent again as it is (R250, R294 step 3). -/
def startAttempt (i : Nat) (d : Dl) (ch : Nat) (s : State) : State :=
  let d := { d with attempt := some (ch, none) }
  match d.psdu with
  | some _ => dlCommand i d ch (if d.relay then .relay i else .downlink i) (dlLaunch s) (s.setDl i (some d))
  | none =>
    if d.building then s.setDl i (some d)
    else createJob (fun s => newJob ecTXL (svcPrio d.cls s) (ecSHP * 4096) noHandle noHandle (List.replicate 16 0) (.build (.sealDl i)))
      (s.setDl i (some { d with building := true }))

/-- Candidates that became eligible in this slot (R283). -/
def markEligible (cs : List (SFrame × Nat × Dl × Nat × Nat)) (s : State) : State :=
  cs.foldl (fun s x => s.updDl x.2.1 fun d => { d with eligibleAt := some (d.eligibleAt.getD s.sen) }) s

/-- The decision of a radio port at a slot boundary (R298). -/
def radioDecision (n : Nat) (first : Bool) (s : State) : State :=
  let cand := (List.range 8).map fun c => (c, candidates n c first s)
  let s := passRetries n first s
  let s := cand.foldl (fun s x => markEligible x.2 s) s
  match chooseClass n ((cand.filter fun x => !x.2.isEmpty).map (·.1)) s with
  | none => s.incF (F.SHP_CNT_COUNT 7)
  | some c =>
    let cs := ((cand.find? fun x => x.1 == c).map (·.2)).getD []
    match placed n cs s with
    | (none, s) => s
    | (some (_, l, f, i, _, ch), s) =>
      let s := if 1 < cs.length then s.incF (F.NRG_CNT_COUNT 1) else s
      let s := if 1 < cs.length ∧ l then s.incF (F.NRG_CNT_COUNT 2) else s
      let s := payClass n c (f.len + s.getF (F.SHP_PORT_OVH n)) s
      let s := noteServed n c ((s.incF (F.SHP_CNT_COUNT 1)).incF (F.SHP_CNT_COUNT 2))
      match s.dl i with
      | some d => startAttempt i d ch s
      | none => s


/-- The boundary `b` is issued (R201): the SEN advances, the checker follows, and the work of the boundary is done. -/
def boundary (b : Nat) (s : State) : State :=
  let first := s.slt.first
  let s := powerAtBoundary b s
  let sen := s.slt.nextSen
  let s := (s.set64 F.SLT_SEN_LO_SEN F.SLT_SEN_HI_SEN sen).set64 F.SLT_BOUND_LO_TICKS F.SLT_BOUND_HI_TICKS b
  let s := s.updSlt fun x => { x with chkBound := x.chkNext, chkSen := x.chkNextSen, first := false, past := ((b, sen) :: x.past).take 256 }
  let s := alignNext s
  let s := settleCells ({ s with rxFlags := [] }.updXch fun x => { x with rcptFull := false })
  let s := (List.range 16).foldl (fun s n => if isBeaconSlot n first sen s then buildBeacon n s else s) s
  (List.range 16).foldl (fun s n => if portOn n s then radioDecision n first s else s) s

end Sys2Proof.Machine
end

