-- ==== Sys2Proof/Machine/Assoc.lean ====
section
/-! DEFINITION. Associations as commands: responses, supervision, schedule updates and leaves (R223 to R228). -/

namespace Sys2Proof.Machine

/-- An attempt of a response in the slot in progress: built and sealed before its first one (R223, R246). -/
def responseAttempt (r : Response) (k : Nat) (s : State) : State :=
  let s := s.updSlt fun x => { x with responses := x.responses.map fun q => if q.nix == r.nix then { q with tries := k } else q }
  match s.dl r.dl with
  | none => s
  | some d =>
    let d := { d with attempt := some (r.channel, none) }
    match d.psdu with
    | some _ => dlCommand r.dl d r.channel (.response r.nix) (s.bound + s.getF F.SLT_BCN_TIME_LAUNCH_US * us) (s.setDl r.dl (some d))
    | none =>
      if d.building then s.setDl r.dl (some d)
      else createJob (fun s => newJob ecTXL (svcPrio d.cls s) (ecSLT * 4096) noHandle noHandle (List.replicate 16 0) (.build (.sealDl r.dl)))
        (s.setDl r.dl (some { d with building := true }))

/-- Attempts that a response, or a LEAVE with REASON 0x02, makes (R223, R225). -/
def maxTries (r : Response) : Nat := if r.result = 3 then 1 else 3

/-- ASSOC_RESPONSE_ATTEMPT: the slot in progress is S + kR of a response that still has attempt k to make (R223). -/
def execAssocResponseAttempt (dt : Nat) (nix : BitVec 17) (s : State) : Host.Outcome State Fault Refusal :=
  let s := s.elapse dt
  if !s.clk.running then .next s else
  match s.slt.responses.find? fun r => r.nix == nix.toNat with
  | some r =>
    let k := (s.sen - r.sen) / max r.step 1
    if r.tries < k ∧ k ≤ maxTries r ∧ s.sen = r.sen + k * r.step then .next (responseAttempt r k s) else .next s
  | none => .next s

/-- ASSOC_FAIL: every attempt of a response is over without an acknowledgement (R225). -/
def execAssocFail (dt : Nat) (nix : BitVec 17) (s : State) : Host.Outcome State Fault Refusal :=
  let s := s.elapse dt
  if !s.clk.running then .next s else
  match s.slt.responses.find? fun r => r.nix == nix.toNat with
  | some r =>
    let busy : Bool := match s.dl r.dl with
      | some d => d.attempt.isSome
      | none => false
    if busy ∨ s.sen ≤ r.sen + maxTries r * r.step then .next s
    else
      let s := dropResponse r.nix s
      if r.result = 0 ∧ entAssoc (s.entry r.nix) = asPending then
        .next (notify N.ASSOC_FAIL scTimeout 0 r.nix ((assocNone r.nix scDenied s).incF (F.ASC_CNT_COUNT 5)))
      else .next s
  | none => .next s

/-- A node whose supervision timer has run out is lost (R226). -/
def superviseNode (nix : Nat) (s : State) : State :=
  let e := s.entry nix
  if 2 ≤ entAssoc e ∧ entNat e 36 4 < s.clk.slot / sec then
    notify N.NODE_LOST scTimeout 0 nix ((assocEnd nix scTimeout s).incF (F.ASC_CNT_COUNT 6))
  else s

/-- SUPERVISION_CHECK: the timers of all associations are checked (R226). -/
def execSupervisionCheck (dt : Nat) (s : State) : Host.Outcome State Fault Refusal :=
  let s := s.elapse dt
  if !s.clk.running then .next s else .next (s.cat.valid.foldl (fun s n => superviseNode n s) s)

/-- ASC_UPD_STATUS as the queue stands. -/
def syncUpd (s : State) : State := s.setF F.ASC_UPD_STATUS_QUEUED s.slt.updQueue.length

/-- A write of ASC_UPD_CTRL (R227). -/
def writeUpdCtrl (m : Master) (w : Word) (s : State) : State :=
  if !s.owns m then ignored m 0xc8008 s
  else if bitsOf w 31 31 = 0 then s
  else if 256 ≤ s.slt.updQueue.length then ignored m 0xc8008 s
  else syncUpd (s.updSlt fun x => { x with updQueue := x.updQueue ++ [(bitsOf w 16 0, s.getF F.ASC_UPD_ADDR_ADDR)] })

/-- ASC_UPD_GO. -/
def execAscUpdGo (dt : Nat) (m : Master) (w : Word) (s : State) : Host.Outcome State Fault Refusal :=
  .next (gatedWrite m 0xc8008 (writeUpdCtrl m w) (s.elapse dt))

/-- An update that ends DENIED before it has started; one already in progress is left alone (R227). -/
def updRefused (nix : Nat) (s : State) : State := notify N.SCHED_DONE scDenied 0 nix (s.incF (F.ASC_CNT_COUNT 8))

/-- SUP_S, map and schedule block of an update (R227, R338): from the request block, or from the node's template. -/
def updContent (nix addr : Nat) (s : State) : Option (Nat × List Byte × List Byte) × State :=
  if addr = 0 then
    let e := s.entry nix
    ((templBlock (entProfile e) nix (entBits e 10 4 4 == 1) s).map fun b => (0, List.replicate 16 0, b), s)
  else if !inDram addr 22 s then (none, s)
  else
    let n := 22 + 4 * (s.byte (addr + 21)).toNat
    if !inDram addr n s then (none, s)
    else withRead addr n s (fun _ s => (none, s)) fun b s =>
      (if blockOk (entPutBits (b.drop 18) 0 7 4 0) s then some (entNat b 0 2, (b.drop 2).take 16, b.drop 18) else none, s)

/-- The SEN of the slotframe start at which EVENT will have advanced by INSTANT_LEAD (R213, R227). -/
def instantSen (e : List Byte) (s : State) : Nat :=
  let len := max (blkLen (entSched e)) 1
  (s.sen / len + s.getF F.ASC_CFG_INSTANT_LEAD) * len

/-- A queued update starts (R227, R228): SCHED_UPD carries the SUP_S and the map that will hold, the current ones where the request keeps them. -/
def startUpdate (nix addr : Nat) (s : State) : State :=
  let e := s.entry nix
  if !entValid e ∨ entAssoc e ≠ asActive ∨ (s.slt.updates.any fun u => u.nix == nix) then updRefused nix s
  else match updContent nix addr s with
  | (none, s) => updRefused nix s
  | (some (sup, map, block), s) =>
    let b := entPutBits block 0 7 4 (blkSgen (entSched e) + 1)
    let at_ := instantSen e s
    let s := s.updSlt fun x => { x with updates := x.updates ++ [⟨nix, b, sup, map, at_, false⟩] }
    let newSup := if sup = 0 then supOf e s else sup
    let newMap := if map.all (· == 0) then (e.drop 52).take 16 else map
    sendNode nix 5 .schedUpd ([0x22] ++ leBytes 2 (eventAt e at_) ++ leBytes 2 newSup ++ newMap ++ b) false s

/-- SCHED_UPD_START: the oldest queued update is taken. -/
def execSchedUpdStart (dt : Nat) (s : State) : Host.Outcome State Fault Refusal :=
  let s := s.elapse dt
  if !s.clk.running then .next s else
  match s.slt.updQueue with
  | (nix, addr) :: r => .next (startUpdate nix addr (syncUpd (s.updSlt fun x => { x with updQueue := r })))
  | [] => .next s

/-- SCHED_UPD_INSTANT: the slotframe start of an update has come: its schedule takes effect, or the association is ACTIVE_UNCERTAIN (R227). -/
def execSchedUpdInstant (dt : Nat) (nix : BitVec 17) (s : State) : Host.Outcome State Fault Refusal :=
  let s := s.elapse dt
  if !s.clk.running then .next s else
  match s.slt.updates.find? fun u => u.nix == nix.toNat with
  | some u =>
    if s.sen < u.instantSen ∨ entAssoc (s.entry u.nix) ≠ asActive then .next s
    else if u.acked then .next (adoptSched u s)
    else .next (putEntry u.nix (entPutBits (s.entry u.nix) 32 1 0 asUncertain) s)
  | none => .next s

/-- A write of ASC_LEAVE (R228). -/
def writeLeave (m : Master) (w : Word) (s : State) : State :=
  if !s.owns m then ignored m 0xc8010 s
  else if bitsOf w 31 31 = 1 then sendNode (bitsOf w 16 0) 5 .leave [0x23, 1] false s
  else s

/-- ASC_LEAVE. -/
def execAscLeave (dt : Nat) (m : Master) (w : Word) (s : State) : Host.Outcome State Fault Refusal :=
  .next (gatedWrite m 0xc8010 (writeLeave m w) (s.elapse dt))

end Sys2Proof.Machine
end

