-- ==== Sys2Proof/Machine/Backhaul.lean ====
section
/-! DEFINITION. Backhaul and host link as commands: links, Ethernet frames, inbound records, host rings and BAR2 (R435 to R451). -/

namespace Sys2Proof.Machine

/-- LINK: a port's link goes up or down; in RESERVE both are down, and a port that is not enabled has none (R436). -/
def execLink (dt : Nat) (port : Fin 2) (up : Bool) (s : State) : Host.Outcome State Fault Refusal :=
  let s := s.elapse dt
  if !s.clk.running then .next s else
  if up && (s.mode == stReserve || s.getF (F.BHL_PORT_CFG_EN port) == 0) then .next s else .next (setLink port up s)

/-- A number of an Ethernet frame in network order. -/
def beAt (f : List Byte) (ofs n : Nat) : Nat := ofLe ((f.drop ofs).take n).reverse

/-- Where the EtherType of a received frame stands: untagged, or behind one tag with the port's VID (R435). -/
def typeOffset (b : Nat) (f : List Byte) (s : State) : Option Nat :=
  if beAt f 12 2 ≠ 0x8100 then some 12
  else if s.getF (F.BHL_PORT_CFG_VLAN b) = 1 ∧ beAt f 14 2 % 4096 = s.getF (F.BHL_PORT_CFG_VID b) then some 16
  else none

/-- A PAUSE frame of Annex 31B: its quanta. -/
def pauseQuanta (f : List Byte) (s : State) : Option Nat :=
  if beAt f 12 2 = 0x8808 ∧ beAt f 14 2 = 1 ∧ (f.take 6 = [0x01, 0x80, 0xC2, 0x00, 0x00, 0x01] ∨ f.take 6 = devMac s) then some (beAt f 16 2) else none

/-- Ticks of a pause of `q` quanta of 512 bit times at the rate of a mode, rounded up. -/
def pauseTicks (mode q : Nat) : Nat :=
  if mode = 2 then (512 * q + 49) / 50 else if mode = 1 then (1024 * q + 24) / 25 else (512 * q + 4) / 5

/-- A received PAUSE is honoured when PAUSE_RX is 1 (R435). -/
def takePause (b q : Nat) (s : State) : State :=
  if s.getF (F.BHL_PORT_CFG_PAUSE_RX b) = 0 then s
  else if q = 0 then clearPause b s
  else
    let e := s.clk.now + pauseTicks (s.getF (F.BHL_PORT_STATUS_MODE b)) q
    (s.updBhl fun x => { x with pauseEnd := Sparse.set (fun _ => none) x.pauseEnd b (some e) }).setF (F.BHL_PORT_STATUS_PAUSED b) 1

/-- Stage 1 of R444: the record of a frame whose encapsulation matches R438. -/
def stage1 (f : List Byte) (o : Nat) (s : State) : Option (List Byte) :=
  let p := f.drop (o + 2)
  if s.getF F.BHL_CFG_ENCAP = 0 then
    if beAt f o 2 = 0x88B5 ∧ f.take 6 = devMac s then some p else none
  else if beAt f o 2 = 0x86DD ∧ beAt p 0 1 / 16 = 6 ∧ beAt p 6 1 = 17 ∧ (p.drop 24).take 16 = devIp s ∧ beAt p 42 2 = (s.reg 0x150070).toNat / 65536 then
    some ((p.drop 48).take (beAt p 44 2 - 8))
  else none

/-- The PTP transport of a frame under R425. -/
def ptpTransport (f : List Byte) (o : Nat) : Option Nat :=
  let p := f.drop (o + 2)
  let udp (at_ : Nat) : Bool := beAt p (at_ + 2) 2 == 319 || beAt p (at_ + 2) 2 == 320
  if beAt f o 2 = 0x88F7 then some 0
  else if beAt f o 2 = 0x0800 ∧ beAt p 9 1 = 17 ∧ udp (4 * (beAt p 0 1 % 16)) then some 1
  else if beAt f o 2 = 0x86DD ∧ beAt p 6 1 = 17 ∧ udp 40 then some 2
  else none

/-- A frame that is no record goes to the host, or is dropped (R444). The spec gives its class no value: a free value. -/
def otherFrame (b : Nat) (f : List Byte) (o : Nat) (s : State) : State :=
  let ptp := match ptpTransport f o with
    | some t => tsuTakes b t s
    | none => false
  if ptp || s.getF F.BHL_CFG_PASS_OTHER == 1 then
    queueRec 18 ⟨rtEthRx, s.draw % 8, 0, 0, 0, 0, [BitVec.ofNat 8 b], f⟩ none none (s.drawn.incF (F.BHL_CNT_COUNT 11))
  else s.incF (F.BHL_CNT_COUNT 12)

/-- BH_FRAME_RX: an Ethernet frame, given from DA without its FCS, arrives on a port whose link is up (R435, R438, R444). -/
def execBhFrameRx (dt : Nat) (port : Fin 2) (frame : List Byte) (s : State) : Host.Outcome State Fault Refusal :=
  let s := s.elapse dt
  if !s.clk.running ∨ s.getF (F.BHL_PORT_STATUS_LINK port) = 0 then .next s
  else if frame.length < 60 ∨ 2114 < frame.length then .next (s.incF (F.BHL_CNT_COUNT 12))
  else match pauseQuanta frame s with
  | some q => .next (takePause port q s)
  | none => match typeOffset port frame s with
    | none => .next (s.incF (F.BHL_CNT_COUNT 12))
    | some o => match stage1 frame o s with
      | some r => .next (inboundRecord port r s)
      | none => .next (otherFrame port frame o s)

/-- PAUSE_END: the pause time of a received PAUSE runs out (R435). -/
def execPauseEnd (dt : Nat) (port : Fin 2) (s : State) : Host.Outcome State Fault Refusal :=
  let s := s.elapse dt
  if !s.clk.running then .next s else
  match Sparse.get (fun _ => none) s.bhl.pauseEnd port with
  | some e => if e ≤ s.clk.now then .next (clearPause port s) else .next s
  | none => .next s

/-- A DOWNLINK record refused: its DL_STATUS at once (R445). -/
def refuseDownlink (src : Nat) (d : Dl) (s : State) : State :=
  dlStatus d scDenied (rxDrop src scDenied 4 (s.incF (F.BHL_CNT_COUNT 8)))

/-- An accepted DOWNLINK record (R445). -/
def downlinkRecord (src : Nat) (r : Rec) (s : State) : State :=
  let s := fetchEntry r.nix s
  let p := [BitVec.ofNat 8 (entNat r.arg 4 1), BitVec.ofNat 8 r.cls] ++ r.body
  let d := newDl r.nix (entHome (s.entry r.nix)) r.cls (if src < 2 then .backhaul else .host) (entNat r.arg 0 4) p false
  let n := dlPsduLen r.nix p.length false s
  if (entNat r.arg 4 1 ≠ 0x31 ∧ entNat r.arg 4 1 ≠ 0x32) ∨ (if nodeMode r.nix s = 7 then 127 else 2047) < n then refuseDownlink src d s
  else addDl d n (s.incF (F.BHL_CNT_COUNT 3))

/-- DOWNLINK: the oldest accepted DOWNLINK record acts. -/
def execDownlink (dt : Nat) (s : State) : Host.Outcome State Fault Refusal :=
  let s := s.elapse dt
  if !s.clk.running then .next s else
  match takeInbound rtDownlink s with
  | (some (src, r), s) => .next (downlinkRecord src r s)
  | (none, s) => .next s

/-- An accepted FLOOD record: originated with this router as its origin, inserted, and relayed (R260, R445). -/
def floodRecord (src : Nat) (r : Rec) (s : State) : State :=
  let ttl := entNat r.arg 2 1
  let fseq := entNat r.arg 0 2
  let origin := s.getF F.SLT_ADDR_RID * 2 ^ 17
  if ttl = 0 ∨ 15 < ttl then rxDrop src scDenied 4 s
  else
    let p := [0x33, BitVec.ofNat 8 (ttl * 16 + r.cls)] ++ leBytes 4 origin ++ leBytes 2 fseq ++ r.body
    let s := insertAccession origin fseq ((s.incF (F.BHL_CNT_COUNT 3)).incF (F.FLD_CNT_COUNT 6))
    spreadFlood ⟨p, r.cls, none, false, none⟩ s

/-- FLOOD: the oldest accepted FLOOD record acts. -/
def execFlood (dt : Nat) (s : State) : Host.Outcome State Fault Refusal :=
  let s := s.elapse dt
  if !s.clk.running then .next s else
  match takeInbound rtFlood s with
  | (some (src, r), s) => .next (floodRecord src r s)
  | (none, s) => .next s

/-- The entries of a CONFIRM body: NIX and FC (R440). -/
def confirmEntries : Nat → List Byte → List (Nat × Nat)
  | 0, _ => []
  | n + 1, b => (entNat b 0 4, entNat b 4 4) :: confirmEntries n (b.drop 8)

/-- An accepted CONFIRM record (R262, R264, R445). -/
def confirmRecord (src : Nat) (r : Rec) (s : State) : State :=
  if r.body.length % 8 ≠ 0 then rxDrop src scDenied 4 s
  else (confirmEntries (r.body.length / 8) r.body).foldl (fun s e =>
    match confirmReceipt e.1 e.2 s with
    | (true, s) => s
    | (false, s) => s.incF (F.BHL_CNT_COUNT 9)) (s.incF (F.BHL_CNT_COUNT 3))

/-- CONFIRM: the oldest accepted CONFIRM record acts. -/
def execConfirm (dt : Nat) (s : State) : Host.Outcome State Fault Refusal :=
  let s := s.elapse dt
  if !s.clk.running then .next s else
  match takeInbound rtConfirm s with
  | (some (src, r), s) => .next (confirmRecord src r s)
  | (none, s) => .next s

/-- ETH_TX: the oldest accepted ETH_TX record of the host enters the shaper on the port that it names (R290, R445). -/
def execEthTx (dt : Nat) (s : State) : Host.Outcome State Fault Refusal :=
  let s := s.elapse dt
  if !s.clk.running then .next s else
  match takeInbound rtEthTx s with
  | (some (_, r), s) =>
    let p := 16 + entNat r.arg 0 1 % 2
    let f : SFrame := ⟨p, r.cls, 0, 0, r.body.length + 4, s.clk.slot, .ether r.body, none⟩
    .next ((s.incF (F.BHL_CNT_COUNT 3)).updShp fun x => { x with entering := x.entering ++ [f] })
  | (none, s) => .next s

/-- HELLO: every HELLO_S seconds a HELLO record in class MGMT toward the head-end (R440). -/
def execHello (dt : Nat) (s : State) : Host.Outcome State Fault Refusal :=
  let s := s.elapse dt
  let h := s.getF F.BHL_CFG_HELLO_S
  if !s.clk.running ∨ s.mode = stReserve ∨ h = 0 ∨ s.clk.now < s.bhl.helloAt + h * sec then .next s
  else .next (queueRec (bhPort s) ⟨rtHello, 5, 0, 0, 0, 0, leBytes 5 s.sen, []⟩ none none (s.updBhl fun x => { x with helloAt := s.clk.now }))

/-- A write of BHL_HTX_WRt, by the host alone and within the ring (R451). -/
def writeHtxWr (m : Master) (t : Nat) (w : Word) (s : State) : State :=
  if m = .curator ∨ txSize t s < (w.toNat + 2 ^ 32 - s.getF (F.BHL_HTX_RD_VALUE t)) % 2 ^ 32 then ignored m (0x150508 + 16 * t) s
  else startFetchTx t (s.setF (F.BHL_HTX_WR_VALUE t) w.toNat)

/-- HOST_TX_WR_WRITE. -/
def execHostTxWrWrite (dt : Nat) (m : Master) (ring : Fin 16) (w : Word) (s : State) : Host.Outcome State Fault Refusal :=
  .next (gatedWrite m (0x150508 + 16 * ring) (writeHtxWr m ring w) (s.elapse dt))

/-- HOST_TX_FETCH: the HDM job that fetches the record of a ring has all its bytes, and ends: the record passes its stages and RD advances. With no job under way
the fetch of the next record starts (R451). -/
def execHostTxFetch (dt : Nat) (ring : Fin 16) (s : State) : Host.Outcome State Fault Refusal :=
  let s := s.elapse dt
  if !s.clk.running then .next s else
  match s.inFlight.find? fun e => e.2.work == .hostTx ring with
  | some (i, j) => if j.state = jsRunning then .next (finishJob i j scOk 0 [] s) else .next s
  | none => .next (startFetchTx ring s)

/-- A write of BHL_HRX_RDr, by the host alone and within the ring (R451). -/
def writeHrxRd (m : Master) (r : Nat) (w : Word) (s : State) : State :=
  if m = .curator then ignored m (0x15040c + 16 * r) s
  else writeRingRd m (0x15040c + 16 * r) (F.BHL_HRX_RD_VALUE r) (s.getF (F.BHL_HRX_WR_VALUE r)) (rxSize r s) w s

/-- HOST_RX_RD_WRITE. -/
def execHostRxRdWrite (dt : Nat) (m : Master) (ring : Fin 16) (w : Word) (s : State) : Host.Outcome State Fault Refusal :=
  .next (gatedWrite m (0x15040c + 16 * ring) (writeHrxRd m ring w) (s.elapse dt))

/-- The MSI-X table and PBA of BAR0 at their reset values (R447, R449): words of table 15. -/
def clearMsix (s : State) : State := { s with tabs := s.tabs.filter fun e => e.1 / 2 ^ 28 != 15 }

/-- PCIE_RESET: an FLR, a hot reset or a link-down (R449). Without CORE there is no link, and in FROZEN the registers keep their values (R512). -/
def execPcieReset (dt : Nat) (s : State) : Host.Outcome State Fault Refusal :=
  let s := s.elapse dt
  if !noticesRun s then .next s else
  let s := (List.range 16).foldl (fun s k => (s.setF (F.BHL_HRX_CFG_EN k) 0).setF (F.BHL_HTX_CFG_EN k) 0) s
  let s := clearMsix (s.setReg 0x64 0)
  .next (s.inFlight.foldl (fun s e => match e.2.work with
    | .hostTx _ => (cancelJob e.1 0 s).getD s
    | _ => s) s)

/-- An access at or above U is recorded once (R448). -/
def hostErr (write : Bool) (a : Nat) (s : State) : State :=
  if s.getF F.BHL_HOST_ERR_VALID = 1 then s else s.setReg 0x1500a4 (BitVec.ofNat 32 (2 ^ 31 + bit write * 2 ^ 30 + a / 4 % 2 ^ 30))

/-- A BAR2 write: ignored at or above U and in the catalogue area; a partly written uncorrectable word is not written and the error found (R266, R343, R448). -/
def bar2Write (a : Nat) (b : List Byte) (s : State) : State :=
  if !inDram a b.length s then hostErr true a s
  else if hitsCatalogue a b.length s then ignored .host (a % 2 ^ 24) s
  else
    let s := match badPartial a b.length s with
      | some w => foundUe w false s
      | none => s
    writeDram a b s

/-- A BAR2 read: zeros at or above U, and a poisoned completion where it meets an uncorrectable error (R342, R448). -/
def bar2Read (a n : Nat) (s : State) : State :=
  if !inDram a n s then (hostErr false a s).emit (.bar2 (List.replicate n 0) false)
  else match badWord a n s with
    | some w => (foundUe w false s).emit (.bar2 (s.bytes a n) true)
    | none => s.emit (.bar2 (s.bytes a n) false)

/-- BAR2_ACCESS: the host reads `n` bytes, or writes bytes, at a BAR2 offset. -/
def execBar2Access (dt : Nat) (a : Word) (n : BitVec 13) (write : Option (List Byte)) (s : State) : Host.Outcome State Fault Refusal :=
  let s := s.elapse dt
  if !s.clk.running then .next s else
  match write with
  | some b => .next (bar2Write a.toNat b s)
  | none => .next (bar2Read a.toNat n.toNat s)

end Sys2Proof.Machine
end

