-- ==== Sys2Proof/Machine/Cipher.lean ====
section
/-! DEFINITION. Lane faults, known-answer runs and injection (R364, R365, R383 to R385). -/

namespace Sys2Proof.Machine

/-- LANE_MISMATCH: the lanes disagree in a RUNNING job, or in a known-answer run (R365). -/
def execLaneMismatch (dt : Nat) (job : Option (BitVec 12)) (s : State) : Host.Outcome State Fault Refusal :=
  let s := s.elapse dt
  if !s.clk.running then .next s else
  match job with
  | some i => match s.job i.toNat with
    | some j => if j.cls = ecCPH ∧ j.state = jsRunning ∧ s.getF F.CPH_STATUS_STATE ≠ 2 then .next (laneMismatch i.toNat false s) else .next s
    | none => .next s
  | none => if s.cph.kat.isSome then .next (laneMismatch 0xFFF false s) else .next s

/-- A known-answer run is due: before the first job of a start-up or takeover, then every PERIOD_S seconds (R383). -/
def katDue (s : State) : Bool :=
  s.clk.running && s.cph.kat.isNone && s.getF F.CPH_STATUS_STATE != 2
    && (s.cph.katFirst || decide (s.cph.katAt + s.getF F.CPH_KAT_CFG_PERIOD_S * sec ≤ s.clk.now))

/-- KAT_RUN_START: the run starts, alone when it is the first; a waiting injection strikes its first block (R383, R385). -/
def execKatRunStart (dt : Nat) (s : State) : Host.Outcome State Fault Refusal :=
  let s := s.elapse dt
  if !s.clk.running then .next s else
  if katDue s then
    let s := (s.updCph fun c => { c with kat := some (s.clk.now, c.katFirst), katAt := s.clk.now }).incF (F.CPH_CNT_COUNT 8)
    if s.cph.inject then .next (laneMismatch 0xFFF true s) else .next (syncCph s)
  else .next s

/-- KAT_EXCLUSIVE_TAKE: a periodic run not done within 10 ms takes the pipeline; the running job is paused (R383). -/
def execKatExclusiveTake (dt : Nat) (s : State) : Host.Outcome State Fault Refusal :=
  let s := s.elapse dt
  if !s.clk.running then .next s else
  match s.cph.kat with
  | some (t, false) =>
    if t + 10 * ms ≤ s.clk.now then
      let s := (s.updCph fun c => { c with kat := some (t, true) }).incF (F.CPH_CNT_COUNT 9)
      .next (syncCph ((runningOf ecCPH s).foldl (fun s e => s.setJob e.1 (some { e.2 with pauses := min (e.2.pauses + 1) 255 })) s))
    else .next s
  | _ => .next s

/-- KAT_RUN_END: the run has computed its 96 blocks and passed, or failed at a vector (R383, R384). -/
def execKatRunEnd (dt : Nat) (failed : Option (Fin 16)) (s : State) : Host.Outcome State Fault Refusal :=
  let s := s.elapse dt
  if !s.clk.running then .next s else
  if s.cph.kat.isSome then
    let s := (s.updCph fun c => { c with kat := none, katFirst := false }).addF (F.CPH_CNT_COUNT 10) 96
    match failed with
    | none => .next (syncCph (s.setF F.CPH_STATUS_KAT_OK 1))
    | some v => .next (laneFault N.KAT_FAIL v 2 ((s.setF F.CPH_STATUS_KAT_OK 0).setF F.CPH_LANE_FAULT_KAT_FAIL 1))
  else .next s

/-- A write of CPH_INJECT (R385): by the owner with 0x7183; a running job or run computes the next block at once. -/
def writeInject (m : Master) (w : Word) (s : State) : State :=
  if !s.owns m || bitsOf w 15 0 != 0x7183 then ignored m 0x12000c s
  else
    let s := s.updCph fun c => { c with inject := true }
    if s.getF F.CPH_STATUS_STATE = 2 then s
    else if s.cph.kat.isSome then laneMismatch 0xFFF true s
    else match (runningOf ecCPH s).head? with
    | some e => laneMismatch e.1 true s
    | none => s

/-- CPH_INJECT. -/
def execCphInject (dt : Nat) (m : Master) (w : Word) (s : State) : Host.Outcome State Fault Refusal :=
  .next (gatedWrite m 0x12000c (writeInject m w) (s.elapse dt))

end Sys2Proof.Machine
end

