-- ==== Sys2Proof/Machine/Dma.lean ====
section
/-! DEFINITION. DRAM initialisation and scrubbing, DMA chunks and fences (R341 to R360, R449). -/

namespace Sys2Proof.Machine

/-- DRAM_INIT_BLOCK: the initialiser completes a block, zeros with valid check bits; after the last, the first scrub pass starts (R344, R345).
A block that has not been done reads as zeros, so its bytes do not change here. -/
def execDramInitBlock (dt : Nat) (block : BitVec 16) (s : State) : Host.Outcome State Fault Refusal :=
  let s := s.elapse dt
  if !s.clk.running then .next s else
  if s.getF F.DRM_STATUS_TRAINED = 1 ∧ block.toNat < blockCount s then
    let s := s.markBlock block.toNat
    if initDone s then
      let s := s.setF F.DRM_STATUS_INIT_DONE 1
      .next { s with mem := { s.mem with passStart := some (s.mem.passStart.getD s.clk.now) } }
    else .next s
  else .next s

/-- Words that an upset has made uncorrectable (R342). -/
def poisonWords (ws : List Nat) (s : State) : State :=
  { s with mem := { s.mem with poisoned := ws.foldl (fun p w => Sparse.set (fun _ => false) p w true) s.mem.poisoned } }

/-- The words of a burst that a mask names. -/
def burstWords (a : Nat) (m : BitVec 8) : List Nat := ((List.range 8).filter fun k => m.toNat / 2 ^ k % 2 == 1).map (a / 8 + ·)

/-- The scrubber moves to its next burst; at U a pass ends and the next starts (R345). -/
def scrubNext (s : State) : State :=
  let a := s.getF F.DRM_SCRUB_POS_ADDR * 64 + 64
  if a < usableBytes s then s.setF F.DRM_SCRUB_POS_ADDR (a / 64)
  else
    let s := (s.setF F.DRM_SCRUB_POS_ADDR 0).incF F.DRM_SCRUB_PASSES_VALUE
    let s := s.setF F.DRM_SCRUB_LAST_MS_VALUE ((s.clk.now - s.mem.passStart.getD s.clk.now) / ms)
    { s with mem := { s.mem with passStart := some s.clk.now, passLate := false } }

/-- SCRUB_READ: the scrubber reads its next burst; `ue` and `ce` name the words in which it finds an uncorrectable or a correctable error (R345). -/
def execScrubRead (dt : Nat) (ue ce : BitVec 8) (s : State) : Host.Outcome State Fault Refusal :=
  let s := s.elapse dt
  if !s.clk.running then .next s else
  if s.getF F.DRM_STATUS_INIT_DONE = 1 then
    let a := s.getF F.DRM_SCRUB_POS_ADDR * 64
    let s := poisonWords (burstWords a ue) s
    let bad := (burstWords a 0xFF#8).filter fun w => s.poisonedWord w
    let s := bad.foldl (fun s w => foundUe w true s) s
    let s := ((burstWords a ce).filter fun w => !bad.contains w).foldl (fun s w => foundCe w true s) s
    .next (scrubNext s)
  else .next s

/-- SCRUB_LATE: a pass has not ended within 8 s of its start (R346); the safe state follows (R486). -/
def execScrubLate (dt : Nat) (s : State) : Host.Outcome State Fault Refusal :=
  let s := s.elapse dt
  if !s.clk.running then .next s else
  match s.mem.passStart with
  | some t =>
    if t + 8 * sec ≤ s.clk.now ∧ s.mem.passLate = false then
      let s := { s with mem := { s.mem with passLate := true } }
      .next (enterSafe 5 (notify N.SCRUB_LATE scTimeout 0 ((s.clk.now - t) / ms) s))
    else .next s
  | none => .next s

/-- CE_RATE: a second of the slot clock has ended with more than CE_LIMIT correctable errors (R341). -/
def execCeRate (dt : Nat) (s : State) : Host.Outcome State Fault Refusal :=
  let s := s.elapse dt
  if !s.clk.running then .next s else
  if s.mem.ceSecond < s.clk.slot / sec ∧ s.getF F.DRM_ECC_CFG_CE_LIMIT < s.mem.ceCount then
    let n := s.mem.ceCount
    .next (notify N.CE_RATE scOk 0 n { s with mem := { s.mem with ceCount := 0 } })
  else .next s

/-- DMA_CHUNK: the chunk of a RUNNING job ends (R356); `hostData` and `hostErr` (late: no completion) are what a host read gives, `upset` the words that have become uncorrectable. -/
def execDmaChunk (dt : Nat) (id : BitVec 12) (hostData : List Byte) (hostErr : Option Bool) (upset : List (BitVec 29)) (s : State) : Host.Outcome State Fault Refusal :=
  let s := poisonWords (upset.map (·.toNat)) (s.elapse dt)
  if !s.clk.running then .next s else
  match s.job id.toNat with
  | some j =>
    if j.state = jsRunning ∧ isDma j.cls ∧ j.done < (dmaArgOf j).len then .next (consumeJob id.toNat (dmaChunk id.toNat j hostData hostErr s))
    else .next s
  | none => .next s

/-- HOST_READ_TIMEOUT: a host read of a RUNNING HDM job gets no completion within 50 ms (R449). -/
def execHostReadTimeout (dt : Nat) (id : BitVec 12) (s : State) : Host.Outcome State Fault Refusal :=
  let s := s.elapse dt
  if !s.clk.running then .next s else
  match s.job id.toNat with
  | some j =>
    if j.state = jsRunning ∧ j.cls = ecHDM ∧ (dmaArgOf j).toDevice ∧ j.done < (dmaArgOf j).len then
      .next (consumeJob id.toNat (dmaChunk id.toNat j [] (some true) s))
    else .next s
  | none => .next s

/-- HDM jobs whose chunk on a context is in progress. -/
def chunksOn (w : Nat) (s : State) : List Nat :=
  ((runningOf ecHDM s).filter fun e => (dmaArgOf e.2).ctx == w && decide (e.2.done < (dmaArgOf e.2).len)).map (·.1)

/-- A write of BMP_HWIN_FENCE (R354). -/
def writeFence (w : Word) (s : State) : State :=
  (List.range 16).foldl (fun s c =>
    if bitsOf w c c = 0 then s
    else
      let s := (s.setF ⟨0x110084, c, c⟩ 1).incF (F.BMP_CNT_COUNT 5)
      { s with mem := { s.mem with fence := Sparse.set (fun _ => []) s.mem.fence c (chunksOn c s) } }) s

/-- BMP_HWIN_FENCE, by either master. -/
def execBmpHwinFence (dt : Nat) (m : Master) (w : Word) (s : State) : Host.Outcome State Fault Refusal :=
  .next (gatedWrite m 0x110080 (writeFence w) (s.elapse dt))

/-- FENCE_DONE: every chunk on a context that started before the fence has ended (R354). -/
def execFenceDone (dt : Nat) (ctx : Fin 16) (s : State) : Host.Outcome State Fault Refusal :=
  let s := s.elapse dt
  if !s.clk.running then .next s else
  if (Sparse.get (fun _ => []) s.mem.fence ctx).isEmpty then .next (s.setF ⟨0x110084, ctx, ctx⟩ 0) else .next s

end Sys2Proof.Machine
end

