-- ==== Sys2Proof/Machine/Freeze.lean ====
section
/-! DEFINITION. Freeze and the vitrine read-out (R507 to R521). -/

namespace Sys2Proof.Machine

/-- Sources of a freeze (FRZ_STATUS.SOURCE). -/
def fzPin : Nat := 1
def fzCause : Nat := 2
def fzHost : Nat := 3
def fzCurator : Nat := 4

/-- States in which freeze is taken (R507). -/
def mayFreeze (s : State) : Bool :=
  s.pins.vinValid && ((s.mode == stStarting && 2 ≤ s.getF F.CFG_STATUS_STEP) || s.mode == stAutonomous || s.mode == stReserve
    || s.mode == stSafeHold || s.mode == stTamperHold)

/-- Notice FREEZE (R521): to the safety log only, because DRAM and MSI-X are stopped. -/
def nkFreeze : NoticeKind := ⟨0x17, 0x81, 64, true, 0xB⟩

/-- The freeze sequence of R508 to R511: the record latched, the divided clocks stopped, coexistence requests deasserted, SAFE_N, OWN_N, zeroisation of R510 and the
log entry. FROZEN has no power mode, and PWR_STATUS.MODE reads 0 in it (R99). -/
def freeze (source : Nat) (edgeOk : Bool) (s : State) : State :=
  if !mayFreeze s then s
  else
    let s := (s.setF F.FRZ_STATUS_FROZEN 1).setF F.FRZ_STATUS_EDGE_OK (bit (edgeOk && s.clk.running))
    let s := (s.setF F.FRZ_STATUS_SOURCE source).setF F.FRZ_STATUS_CAUSE (s.getF F.SAF_STATUS_CAUSE)
    let s := s.set64 F.FRZ_SC_LO_VALUE F.FRZ_SC_HI_VALUE s.clk.slot
    let s := s.set64 F.FRZ_STAMP_LO_VALUE F.FRZ_STAMP_HI_VALUE s.clk.stamp
    let s := { s with
      clk := { s.clk with running := false }
      frz := { delayEnd := none, corePowered := s.clk.core, fetching := false }
      power := { s.power with hibEntry := false }
      pins := { s.pins with safeN := true } }
    let s := (List.range 16).foldl (fun s n => dropReq n s) (((s.setF F.TOP_STATUS_SAFE 1).setF F.TOP_STATUS_STATE stFrozen).setF F.PWR_STATUS_MODE 0)
    let s := requestTakeover s
    let s := if s.fuses.pairRoot then releaseOwnN s else s
    let s := zeroiseAll (abandonTakeover s)
    logEntry nkFreeze scSafeHold 0 (s.reg 0x178000).toNat s

/-- FREEZE_N_ASSERT: FREEZE_N has been low for 5 monitor cycles; `edgeOk`: an alignment edge arrives within 100 ns (R507, R509). -/
def execFreezeNAssert (dt : Nat) (edgeOk : Bool) (s : State) : Host.Outcome State Fault Refusal :=
  .next (freeze fzPin edgeOk (s.elapse dt))

/-- A write of FRZ_CMD: by the owner, or by the curator whatever the ownership; other values and masters are recorded (R507). -/
def writeFrzCmd (m : Master) (w : Word) (edgeOk : Bool) (s : State) : State :=
  if (m == .curator || s.owns m) && bitsOf w 15 0 == 0x7185 then
    freeze (match m with | .host => fzHost | .curator => fzCurator) edgeOk s
  else ignored m 0x178008 s

/-- FRZ_CMD. -/
def execFrzCmd (dt : Nat) (m : Master) (w : Word) (edgeOk : Bool) (s : State) : Host.Outcome State Fault Refusal :=
  .next (gatedWrite m 0x178008 (writeFrzCmd m w edgeOk) (s.elapse dt))

/-- FREEZE_DELAY_EXPIRE: DELAY_US has passed since a masked safe-state cause (R507). -/
def execFreezeDelayExpire (dt : Nat) (edgeOk : Bool) (s : State) : Host.Outcome State Fault Refusal :=
  let s := s.elapse dt
  match s.frz.delayEnd with
  | some d => if d ≤ s.clk.now then .next (freeze fzCause edgeOk { s with frz := { s.frz with delayEnd := none } }) else .next s
  | none => .next s

/-- The fetch of the chunk that FRZ_VSEL selects starts (R516). -/
def startFetch (s : State) : State :=
  { s.setF F.FRZ_VSTATUS_READY 0 with frz := { s.frz with fetching := true } }

/-- A write of FRZ_VSEL: the curator alone, in FROZEN (R516). -/
def writeFrzVsel (m : Master) (w : Word) (s : State) : State :=
  if m = .curator ∧ s.mode = stFrozen then startFetch (s.setReg 0x178020 w) else ignored m 0x178020 s

/-- FRZ_VSEL_WRITE. -/
def execFrzVselWrite (dt : Nat) (m : Master) (w : Word) (s : State) : Host.Outcome State Fault Refusal :=
  .next (gatedWrite m 0x178020 (writeFrzVsel m w) (s.elapse dt))

/-- Region sizes in chunks (R517). -/
def regionSize (r : Nat) (s : State) : Nat :=
  if r = 0 then 4
  else if !s.frz.corePowered then 0
  else match r with
  | 1 => 4096
  | 2 => 36864
  | 3 => 1024
  | 4 => 131072
  | 5 => 8192
  | 6 => usableBytes s / 64
  | _ => 0

/-- A word of the directory (R518). -/
def dirWord (i : Nat) (s : State) : Word :=
  match i with
  | 0 => 0x52544956#32
  | 1 => 1
  | 2 => s.reg 0x0
  | 3 => s.reg 0x178000
  | 4 => s.reg 0x17800c
  | 5 => s.reg 0x178010
  | 6 => s.reg 0x178014
  | 7 => s.reg 0x178018
  | 8 => s.reg 0x134004
  | 9 => s.reg 0x134008
  | _ =>
    if i < 16 then 0
    else
      let r := (i - 16) / 4
      if i % 4 = 0 then BitVec.ofNat 32 (r * 2 ^ 28 + (if r ≤ 2 ∨ r = 6 then 1 else 2))
      else if i % 4 = 1 then BitVec.ofNat 32 (regionSize r s)
      else 0

/-- Sixteen words from 64 bytes. -/
def wordsOf : Nat → List Byte → List Word
  | 0, _ => []
  | n + 1, bs => BitVec.ofNat 32 (ofLe (bs.take 4)) :: wordsOf n (bs.drop 4)

/-- The words of a chunk (R517): the directory, a job's descriptor, a cache line, DRAM; the raw regions have no stated layout and read free values. -/
def chunkWords (r c : Nat) (s : State) : List Word :=
  match r with
  | 0 => (List.range 16).map fun i => dirWord (16 * c + i) s
  | 1 => wordsOf 16 (jobImage c s)
  | 2 => cacheChunk (c / 9) (c % 9) s
  | 6 => wordsOf 16 (s.bytes (64 * c) 64)
  | _ => (List.range 16).map fun i => Config.rawVitrine r c i

/-- A chunk of region 6 holds a word with an uncorrectable error (R515). -/
def chunkUe (r c : Nat) (s : State) : Bool :=
  r == 6 && s.mem.poisoned.any fun e => decide (8 * c ≤ e.1) && decide (e.1 < 8 * c + 8)

/-- The chunk's words in FRZ_VDATA0 to FRZ_VDATA15. -/
def putChunk (k : Nat) : List Word → State → State
  | [], s => s
  | w :: r, s => putChunk (k + 1) r (s.setReg (0x178040 + 4 * k) w)

/-- The fetch completes; a chunk beyond its region reads as zeros and sets END (R516). -/
def fetchDone (s : State) : State :=
  let r := s.getF F.FRZ_VSEL_REGION
  let c := s.getF F.FRZ_VSEL_CHUNK
  let s := { s.setF F.FRZ_VSTATUS_READY 1 with frz := { s.frz with fetching := false } }
  if c < regionSize r s then
    let ue := chunkUe r c s
    let s := putChunk 0 (chunkWords r c s) (s.setF F.FRZ_VSTATUS_UE (bit ue))
    if ue then s.satF F.FRZ_VSTATUS_UE_CNT 1 else s
  else putChunk 0 (List.replicate 16 0) ((s.setF F.FRZ_VSTATUS_UE 0).setF F.FRZ_VSTATUS_END 1)

/-- CHUNK_FETCH_DONE (R516). -/
def execChunkFetchDone (dt : Nat) (s : State) : Host.Outcome State Fault Refusal :=
  let s := s.elapse dt
  .next (if s.frz.fetching && s.mode == stFrozen then fetchDone s else s)

/-- A read of FRZ_VDATA0 waits until the chunk is ready; outside FROZEN FRZ_VDATAk reads 0 (R516). -/
def readVdata0 (s : State) : Word × State :=
  if s.mode = stFrozen then
    let s := if s.frz.fetching then fetchDone s else s
    (s.reg 0x178040, s)
  else (0, s)

/-- A read of FRZ_VDATA15 advances CHUNK and starts the next fetch; outside FROZEN FRZ_VDATAk reads 0 (R516). -/
def readVdata15 (s : State) : Word × State :=
  if s.mode = stFrozen then (s.reg 0x17807c, startFetch (s.incF F.FRZ_VSEL_CHUNK)) else (0, s)

/-- FRZ_VDATA15_READ. -/
def execFrzVdata15Read (dt : Nat) (m : Master) (s : State) : Host.Outcome State Fault Refusal :=
  let (w, s) := readVdata15 (s.elapse dt)
  .next (s.emit (.value m.bit w))

end Sys2Proof.Machine
end

