-- ==== Sys2Proof/Machine/Jobs.lean ====
section
/-! DEFINITION. The job fabric and its trace (R306 to R333). -/

namespace Sys2Proof.Machine

/-- JOB_CREATE: an engine creates a job (R306, R310): with the priority of a frame's service class, or of its engine class. `creator` is the ARG of CREATE. -/
def execJobCreate (dt : Nat) (cls : Fin 16) (svc : Option (Fin 8)) (creator : BitVec 16) (buf0 buf1 : Word) (args : List Byte) (s : State) : Host.Outcome State Fault Refusal :=
  let s := s.elapse dt
  if !s.clk.running then .next s else
  let prio := match svc with | some c => svcPrio c s | none => engPrio cls s
  .next (createJob (fun _ => newJob cls prio creator.toNat buf0.toNat buf1.toNat (fit 16 args) .none) s)

/-- JOB_DISPATCH of an engine class (R313). -/
def execJobDispatch (dt : Nat) (cls : Fin 16) (s : State) : Host.Outcome State Fault Refusal :=
  let s := s.elapse dt
  if !s.clk.running then .next s else .next (dispatch cls s)

/-- JOB_PREEMPT: a RUNNING job reaches a pre-emption point; `progress` is what its engine saves beyond what the state shows (R316, R317). -/
def execJobPreempt (dt : Nat) (id : BitVec 12) (progress : List Byte) (s : State) : Host.Outcome State Fault Refusal :=
  let s := s.elapse dt
  if !s.clk.running then .next s else
  match s.job id.toNat with
  | some j => if j.state = jsRunning then .next (preemptPoint id.toNat j progress s) else .next s
  | none => .next s

/-- JOB_FAULT: a RUNNING DMA job, the only kind whose engine defines parking faults, meets one (R319, R357). -/
def execJobFault (dt : Nat) (id : BitVec 12) (ecc : Bool) (detail : BitVec 8) (faultAt : Word) (s : State) : Host.Outcome State Fault Refusal :=
  let s := s.elapse dt
  if !s.clk.running then .next s else
  match s.job id.toNat with
  | some j =>
    if j.state = jsRunning ∧ isDma j.cls ∧ (if ecc then [0x10, 0x11] else [1, 2, 3, 4, 5]).contains detail.toNat then
      if j.cancel.isSome then .next (cancelNow id.toNat j s) else .next (dmaPark id.toNat j ecc detail.toNat faultAt.toNat s)
    else .next s
  | none => .next s

/-- JOB_STALL: a RUNNING job has worked `ns` nanoseconds without a pre-emption point or its end (R315). -/
def execJobStall (dt : Nat) (id : BitVec 12) (ns : Nat) (s : State) : Host.Outcome State Fault Refusal :=
  let s := s.elapse dt
  if !s.clk.running then .next s else
  match s.job id.toNat with
  | some j =>
    if j.state = jsRunning ∧ 4 * longestRun j.cls < ns then
      .next (enterSafe 9 (notify N.JOB_STALL scTimeout 0 (j.cls * 4096 + id.toNat) (s.incF (F.JOB_CNT_COUNT 11))))
    else .next s
  | none => .next s

/-- JOB_COMPLETE: a RUNNING job's engine has finished it (R324). -/
def execJobComplete (dt : Nat) (id : BitVec 12) (status detail : BitVec 8) (result : List Byte) (s : State) : Host.Outcome State Fault Refusal :=
  let s := s.elapse dt
  if !s.clk.running then .next s else
  match s.job id.toNat with
  | some j => if j.state = jsRunning then .next (finishJob id.toNat j status.toNat detail.toNat (fit 12 result) s) else .next s
  | none => .next s

/-- JOB_WRITEBACK: a submitted job's descriptor is written back, its ID freed, and JOB_DONE raised when NOTIFY is 1 (R325). -/
def execJobWriteback (dt : Nat) (id : BitVec 12) (s : State) : Host.Outcome State Fault Refusal :=
  let s := s.elapse dt
  if !s.clk.running then .next s else
  match s.job id.toNat with
  | some j =>
    match j.submitted with
    | some (_, a) =>
      if j.state = jsComplete then
        let bad := badPartial a 64 s
        let st := if bad.isSome then scFaultEcc else j.status
        let s := match bad with
          | some w => foundUe w false s
          | none => writeDram a (descriptor id.toNat j) s
        let s := freeJob id.toNat s
        .next (if j.notify then notify N.JOB_DONE st 0 (j.cls * 4096 + id.toNat) s else s)
      else .next s
    | none => .next s
  | none => .next s

/-- Registers of a master's own submission and control (R322, R323): host first. -/
def subAddr (m : Master) : Nat := 0x100040 + 4 * m.bit
def subStatusAddr (m : Master) : Nat := 0x100048 + 4 * m.bit
def ctrlAddr (m : Master) : Nat := 0x100050 + 4 * m.bit
def ctrlResAddr (m : Master) : Nat := 0x100060 + 4 * m.bit

/-- The outcome of a submission (R322). -/
def subOutcome (m : Master) (status reason id : Nat) (s : State) : State :=
  let s := s.incF (F.JOB_CNT_COUNT (if status = scOk then 8 else 9))
  s.setReg (subStatusAddr m) (BitVec.ofNat 32 (2 ^ 30 + status * 2 ^ 16 + reason * 2 ^ 12 + id))

/-- Check 2 of R322 on a descriptor. -/
def descriptorOk (b : List Byte) : Bool :=
  let w := entNat b 0 4
  [ecHDM, ecMDM, ecCPH].contains (w % 16) && w / 2 ^ 28 == 0 && w / 2 ^ 19 % 32 == 0 && w / 2 ^ 10 % 64 == 0 && entNat b 4 4 / 2 ^ 12 == 0
    && (b.drop 32).all (· == 0)

/-- Submitted jobs in flight. -/
def submittedCount (s : State) : Nat := (s.inFlight.filter fun e => e.2.submitted.isSome).length

/-- A submission of the descriptor at `a` (R322). -/
def submit (m : Master) (a : Nat) (s : State) : State :=
  if !inDram a 64 s then subOutcome m scDenied 2 0 s
  else withRead a 64 s (fun _ s => subOutcome m scFaultEcc 1 0 s) fun b s =>
    let w := entNat b 0 4
    let prio := w / 16 % 64
    if !descriptorOk b then subOutcome m scDenied 2 0 s
    else if prio < s.getF F.JOB_SUB_CFG_MIN_PRIO then subOutcome m scDenied 3 0 s
    else match freeId s with
    | none => subOutcome m scNoBuffer 4 0 s
    | some i =>
      if s.getF F.JOB_SUB_CFG_MAX_SUB ≤ submittedCount s then subOutcome m scNoBuffer 4 0 s
      else
        let arg := match m with | .host => 0xFFFF | .curator => 0xFFFE
        let j := newJob (w % 16) prio arg (entNat b 8 4) (entNat b 12 4) ((b.drop 16).take 16) .none
        subOutcome m scOk 0 i (createWith i { j with submitted := some (m.bit, a), notify := w / 2 ^ 16 % 2 == 1 } s)

/-- A write of the master's submit register (R322). -/
def writeSubmit (m : Master) (w : Word) (s : State) : State :=
  let s := s.setReg (subAddr m) (w &&& 0xFFFFFFC0#32)
  if bitsOf w 0 0 = 1 then submit m (w.toNat / 64 * 64) s else s

/-- JOB_SUBMIT: a master writes its submit register. -/
def execJobSubmit (dt : Nat) (m : Master) (w : Word) (s : State) : Host.Outcome State Fault Refusal :=
  .next (gatedWrite m (subAddr m) (writeSubmit m w) (s.elapse dt))

/-- Whether a master may cancel or resume a job (R323). -/
def mayControl (m : Master) (j : Job) (s : State) : Bool :=
  match j.submitted with
  | some (k, _) => k == m.bit || s.owns m
  | none => s.owns m && j.state == jsFaulted

/-- The result of a control command, with the job as it stood (R323). -/
def ctrlResult (m : Master) (cmd i status : Nat) (j : Option Job) (s : State) : State :=
  s.setReg (ctrlResAddr m) (BitVec.ofNat 32 (cmd * 2 ^ 28 + ((j.map (·.state)).getD 0) * 2 ^ 24 + status * 2 ^ 16 + ((j.map (·.cls)).getD 0) * 2 ^ 12 + i))

/-- CANCEL (R321, R323). -/
def ctrlCancel (m : Master) (i : Nat) (s : State) : State :=
  match s.job i with
  | some j =>
    if mayControl m j s then
      match cancelJob i (m.bit + 1) s with
      | some s' => ctrlResult m 1 i scOk (some j) s'
      | none => ctrlResult m 1 i scDenied (some j) s
    else ctrlResult m 1 i scDenied (some j) s
  | none => ctrlResult m 1 i scDenied none s

/-- RESUME (R320, R323). -/
def ctrlResume (m : Master) (i : Nat) (s : State) : State :=
  match s.job i with
  | some j =>
    if mayControl m j s then
      match resumeJob i m s with
      | some s' => ctrlResult m 2 i scOk (some j) s'
      | none => ctrlResult m 2 i scDenied (some j) s
    else ctrlResult m 2 i scDenied (some j) s
  | none => ctrlResult m 2 i scDenied none s

/-- COPY (R323, R338): the descriptor to the master's JOB_CTRL_ADDR, or the result register alone for an address of 0. -/
def ctrlCopy (m : Master) (i : Nat) (s : State) : State :=
  match s.job i with
  | some j =>
    let a := (s.reg (0x100058 + 4 * m.bit)).toNat / 64 * 64
    if a = 0 then ctrlResult m 3 i scOk (some j) s
    else if !inDram a 64 s || hitsCatalogue a 64 s then ctrlResult m 3 i scDenied (some j) s
    else ctrlResult m 3 i scOk (some j) (writeDram a (descriptor i j) s)
  | none => ctrlResult m 3 i scDenied none s

/-- A write of the master's control register (R323). -/
def writeCtrl (m : Master) (w : Word) (s : State) : State :=
  let i := bitsOf w 11 0
  match bitsOf w 31 28 with
  | 1 => ctrlCancel m i s
  | 2 => ctrlResume m i s
  | 3 => ctrlCopy m i s
  | _ => s

/-- JOB_CANCEL. -/
def execJobCancel (dt : Nat) (m : Master) (id : BitVec 12) (s : State) : Host.Outcome State Fault Refusal :=
  .next (gatedWrite m (ctrlAddr m) (ctrlCancel m id.toNat) (s.elapse dt))

/-- JOB_RESUME. -/
def execJobResume (dt : Nat) (m : Master) (id : BitVec 12) (s : State) : Host.Outcome State Fault Refusal :=
  .next (gatedWrite m (ctrlAddr m) (ctrlResume m id.toNat) (s.elapse dt))

/-- JOB_COPY. -/
def execJobCopy (dt : Nat) (m : Master) (id : BitVec 12) (s : State) : Host.Outcome State Fault Refusal :=
  .next (gatedWrite m (ctrlAddr m) (ctrlCopy m id.toNat) (s.elapse dt))

/-- A write of TRC_MARK: a MARK record, and the slot clock latched (R332). -/
def writeMark (w : Word) (s : State) : State :=
  let s := trace 0 0 0 0xF1 (bitsOf w 15 0) s
  s.set64 F.TRC_MARK_SLOT_LO_TICKS F.TRC_MARK_SLOT_HI_TICKS s.clk.slot

/-- TRC_MARK, by either master. -/
def execTrcMark (dt : Nat) (m : Master) (w : Word) (s : State) : Host.Outcome State Fault Refusal :=
  .next (gatedWrite m 0x10801c (writeMark w) (s.elapse dt))

/-- TRC_RING_RD_WRITE: a write of TRC_RING_RD by either master (R329). -/
def execTrcRingRdWrite (dt : Nat) (m : Master) (w : Word) (s : State) : Host.Outcome State Fault Refusal :=
  .next (gatedWrite m 0x10800c (fun s => writeRingRd m 0x10800c F.TRC_RING_RD_COUNT (s.getF F.TRC_RING_WR_COUNT) (traceSize s) w s) (s.elapse dt))

end Sys2Proof.Machine
end

