-- ==== Sys2Proof/Machine/Keys.lean ====
section
/-! DEFINITION. Key commands, their deferral, and node keys loaded on demand (R388 to R404). -/

namespace Sys2Proof.Machine

/-- Refusal reasons of KEY_CMD_STATUS (R396). -/
def krRange : Nat := 1
def krInvalid : Nat := 2
def krPerm : Nat := 3
def krEmpty : Nat := 4
def krBusy : Nat := 5
def krGenEnd : Nat := 6

/-- The KEY record of a general slot: its generation, attributes, and its key wrapped under the pair storage key (R472); a key with XNR set is never carried (R398). -/
def journalKey (i : Nat) (s : State) : State :=
  let k := s.slotOf i
  let k := if k.xnr then KeySlot.empty else k
  let wrapped := if k.full then Config.kwWrap pairStorageKey k.material else []
  journalRec ([4, i, slotGen i s, bit k.full, bit k.klen, bit k.expired, k.origin, k.perms, k.depth, k.uses, k.parent, k.parentGen, k.nix] ++ wrapped.map (·.toNat)) 96 s

/-- A key command ends with a status, DETAIL and REASON; one that changed a general slot is journalled (R472). -/
def keyDone (c : KeyCmd) (status detail reason : Nat) (s : State) : State :=
  let s := if status = scOk ∧ [1, 2, 3, 5, 6].contains c.cmd then journalKey c.slot s else s
  keyCmdEnd c.cmd c.slot status detail reason s

/-- The generation of a slot one further (R390). -/
def bumpGen (i : Nat) (s : State) : State := s.updTamp fun t => { t with gens := Sparse.set (fun _ => 0) t.gens i (slotGen i s + 1) }

/-- A command would increment a generation that stands at 0xFFFF (R390). -/
def genEnds (i : Nat) (s : State) : Bool := (s.slotOf i).full && slotGen i s == 0xFFFF

/-- A key put into the target slot: its generation increments when the slot held one (R390). -/
def writeKey (c : KeyCmd) (k : KeySlot) (s : State) : State :=
  let s := if (s.slotOf c.slot).full then bumpGen c.slot s else s
  keyDone c scOk 0 0 (s.setSlot c.slot k)

/-- Attributes of KEY_CMD_ATTR: KLEN, XNR, PERMS, and a reserved bit set (R396). -/
def attrKlen (c : KeyCmd) : Bool := c.attr / 2 ^ 31 % 2 == 1
def attrXnr (c : KeyCmd) : Bool := c.attr / 2 ^ 30 % 2 == 1
def attrPerms (c : KeyCmd) : Nat := c.attr / 2 ^ 24 % 32
def attrBad (c : KeyCmd) : Bool := c.attr / 2 ^ 29 % 2 == 1 || c.attr % 2 ^ 24 != 0

/-- WRITE_CLEAR (R395). -/
def runWriteClear (c : KeyCmd) (s : State) : State :=
  if attrBad c then keyDone c scDenied 0 krInvalid s
  else if genEnds c.slot s then keyDone c scDenied 0 krGenEnd s
  else writeKey c ⟨true, attrKlen c, attrXnr c, false, 0, false, attrPerms c, 0, c.uses, 0xFF, 0, 0, c.stage.take (if attrKlen c then 32 else 16), 0, false⟩ s

/-- UNWRAP (R394, R395). -/
def runUnwrap (c : KeyCmd) (s : State) : State :=
  if 2 ^ 20 ≤ c.arg % 2 ^ 21 then keyDone c scDenied 0 krRange s
  else if genEnds c.slot s then keyDone c scDenied 0 krGenEnd s
  else match unwrapBlob (c.arg % 2 ^ 20) s with
  | (.error (st, d), s) => keyDone c st d 0 (s.incF (F.KEY_CNT_COUNT 2))
  | (.ok k, s) => writeKey c k s

/-- The label and context of a DERIVE (R397), or the status and REASON that end it. -/
def deriveData (c : KeyCmd) (s : State) : Except (Nat × Nat) (List Byte × List Byte) × State :=
  if !inDram c.addr 4 s then (.error (scDenied, krRange), s)
  else withRead c.addr 4 s (fun _ s => (.error (scFaultEcc, 0), s)) fun h s =>
    let a := entNat h 0 2
    let b := entNat h 2 2
    if a + b = 0 ∨ 240 < a + b then (.error (scDenied, krInvalid), s)
    else if !inDram (c.addr + 4) (a + b) s then (.error (scDenied, krRange), s)
    else withRead (c.addr + 4) (a + b) s (fun _ s => (.error (scFaultEcc, 0), s)) fun d s => (.ok (d.take a, d.drop a), s)

/-- DERIVE (R396, R397). -/
def runDerive (c : KeyCmd) (s : State) : State :=
  let p := s.slotOf c.src
  if 64 ≤ c.src then keyDone c scDenied 0 krRange s
  else if attrBad c ∨ 3 ≤ p.depth then keyDone c scDenied 0 krInvalid s
  else if !p.full then keyDone c scDenied 0 krEmpty s
  else if !p.may permDerive ∨ attrPerms c &&& p.perms ≠ attrPerms c then keyDone c scDenied 0 krPerm s
  else if keyStale 4 p s then keyDone c scKeyStale 0 0 s
  else if keyOver p then keyDone c scKeyExpired 0 0 s
  else if genEnds c.slot s then keyDone c scDenied 0 krGenEnd s
  else match deriveData c s with
  | (.error (st, r), s) => keyDone c st 0 r s
  | (.ok (label, ctx), s) =>
    let m := kdf p.material label ctx (if attrKlen c then 256 else 128)
    let k : KeySlot := ⟨true, attrKlen c, attrXnr c || p.xnr, false, 2, false, attrPerms c, p.depth + 1, c.uses, c.src, slotGen c.src s, 0, m, 0, false⟩
    writeKey c k (useKey c.src s)

/-- The blob of a key under a wrapper (R393): header, label 0, and the wrap of the header with the padded key. -/
def blobOf (k : KeySlot) (wrapper h : Nat) (wk : List Byte) (s : State) : List Byte :=
  let head := blobHeader k wrapper (if wrapper = 0xFF then 0 else slotGen wrapper s) h
  head ++ List.replicate 8 0 ++ fit 56 (Config.kwWrap wk (head ++ fit 32 k.material))

/-- WRAP (R393, R395, R396). -/
def runWrap (c : KeyCmd) (s : State) : State :=
  let k := s.slotOf c.src
  let w := s.slotOf c.slot
  let kek := c.slot == 0xFF
  if 64 ≤ c.src ∨ (kek = false ∧ 64 ≤ c.slot) ∨ 2 ^ 20 ≤ c.arg % 2 ^ 21 then keyDone c scDenied 0 krRange s
  else if !k.full ∨ (kek = false ∧ w.full = false) then keyDone c scDenied 0 krEmpty s
  else if k.xnr ∨ c.src = c.slot ∨ (kek = false ∧ !(w.klen && w.may permWrap)) then keyDone c scDenied 0 krPerm s
  else if keyStale 4 k s ∨ (kek = false ∧ keyStale 4 w s) then keyDone c scKeyStale 0 0 s
  else if kek = false ∧ keyOver w then keyDone c scKeyExpired 0 0 s
  else
    let h := c.arg % 2 ^ 20
    let b := blobOf k c.slot h (if kek then deviceKek s else w.material) s
    let s := if kek then s else useKey c.slot s
    keyDone c scOk 0 0 (writeDram (blobBase s + 80 * h) b s)

/-- ERASE (R390, R395). -/
def runErase (c : KeyCmd) (s : State) : State :=
  if genEnds c.slot s then keyDone c scDenied 0 krGenEnd s
  else
    let s := if (s.slotOf c.slot).full then bumpGen c.slot s else s
    keyDone c scOk 0 0 (s.setSlot c.slot KeySlot.empty)

/-- EXPIRE of a key (R391, R401). -/
def runExpire (c : KeyCmd) (s : State) : State :=
  let k := s.slotOf c.slot
  keyDone c scOk 0 0 (if k.full then s.setSlot c.slot { k with expired := true } else s)

/-- FLUSH_NODE: the cache entry of the node, or of every node, unlinked; an unlinked slot is zeroised when its last pin drops (R399). -/
def runFlush (c : KeyCmd) (s : State) : State :=
  let all := c.arg / 2 ^ 20 % 2 == 1
  let s := s.updKey fun x => { x with slots := x.slots.map fun e =>
    if 64 ≤ e.1 && (all || e.2.nix == c.arg % 2 ^ 17) then (e.1, { e.2 with linked := false }) else e }
  keyDone c scOk 0 0 ((sweepCache s).incF (F.KEY_CNT_COUNT 7))

/-- A command takes effect: RETURNED and VOID refuse every one (R409), and commands on a target outside the general slots end with RANGE (R396). -/
def runKeyCmd (c : KeyCmd) (s : State) : State :=
  if !keysUsable s then keyDone c scDenied 0 0 s
  else if c.cmd = 4 then runWrap c s
  else if c.cmd = 7 then runFlush c s
  else if 64 ≤ c.slot then keyDone c scDenied 0 krRange s
  else if (s.slotOf c.slot).closing then keyDone c scDenied 0 krBusy s
  else match c.cmd with
  | 1 => runWriteClear c s
  | 2 => runUnwrap c s
  | 3 => runDerive c s
  | 5 => runErase c s
  | _ => runExpire c s

/-- A command on a pinned general slot is deferred (R401). -/
def mustDefer (c : KeyCmd) (s : State) : Bool :=
  keysUsable s && (c.cmd == 1 || c.cmd == 2 || c.cmd == 3 || c.cmd == 5) && decide (c.slot < 64) && slotPins c.slot s != 0

/-- The command with its arguments as the registers hold them. -/
def keyCmdOf (cmd slot src : Nat) (s : State) : KeyCmd :=
  ⟨cmd, slot, src, s.getF F.KEY_CMD_ARG_VALUE, (s.reg 0x130018).toNat, s.getF F.KEY_CMD_USES_VALUE, s.getF F.KEY_CMD_ADDR_VALUE / 4 * 4,
    ((List.range 8).map fun n => leBytes 4 (s.getF (F.KEY_STAGE_KEY n))).flatten⟩

/-- A write of KEY_CMD (R395, R401); other values of CMD are ignored. -/
def writeKeyCmd (m : Master) (cmd slot src : Nat) (s : State) : State :=
  if !s.owns m || s.getF F.KEY_CMD_STATUS_BUSY == 1 then ignored m 0x130010 s
  else if cmd = 0 ∨ 7 < cmd then s
  else
    let c := keyCmdOf cmd slot src s
    if mustDefer c s then
      let s := s.setReg 0x130024 (BitVec.ofNat 32 (2 ^ 31 + s.getF F.KEY_CMD_STATUS_DONE * 2 ^ 30 + scDeferred * 2 ^ 16))
      let s := (s.setSlot slot { s.slotOf slot with closing := true }).incF (F.KEY_CNT_COUNT 4)
      s.updKey fun x => { x with deferred := some c }
    else runKeyCmd c s

/-- WRITE_CLEAR. -/
def execWriteClear (dt : Nat) (m : Master) (slot src : BitVec 8) (s : State) : Host.Outcome State Fault Refusal :=
  .next (gatedWrite m 0x130010 (writeKeyCmd m 1 slot.toNat src.toNat) (s.elapse dt))

/-- UNWRAP. -/
def execUnwrap (dt : Nat) (m : Master) (slot src : BitVec 8) (s : State) : Host.Outcome State Fault Refusal :=
  .next (gatedWrite m 0x130010 (writeKeyCmd m 2 slot.toNat src.toNat) (s.elapse dt))

/-- DERIVE. -/
def execDerive (dt : Nat) (m : Master) (slot src : BitVec 8) (s : State) : Host.Outcome State Fault Refusal :=
  .next (gatedWrite m 0x130010 (writeKeyCmd m 3 slot.toNat src.toNat) (s.elapse dt))

/-- WRAP. -/
def execWrap (dt : Nat) (m : Master) (slot src : BitVec 8) (s : State) : Host.Outcome State Fault Refusal :=
  .next (gatedWrite m 0x130010 (writeKeyCmd m 4 slot.toNat src.toNat) (s.elapse dt))

/-- ERASE. -/
def execErase (dt : Nat) (m : Master) (slot src : BitVec 8) (s : State) : Host.Outcome State Fault Refusal :=
  .next (gatedWrite m 0x130010 (writeKeyCmd m 5 slot.toNat src.toNat) (s.elapse dt))

/-- EXPIRE. -/
def execExpire (dt : Nat) (m : Master) (slot src : BitVec 8) (s : State) : Host.Outcome State Fault Refusal :=
  .next (gatedWrite m 0x130010 (writeKeyCmd m 6 slot.toNat src.toNat) (s.elapse dt))

/-- FLUSH_NODE. -/
def execFlushNode (dt : Nat) (m : Master) (slot src : BitVec 8) (s : State) : Host.Outcome State Fault Refusal :=
  .next (gatedWrite m 0x130010 (writeKeyCmd m 7 slot.toNat src.toNat) (s.elapse dt))

/-- KEY_CMD_DEFERRED_APPLY: the last pin of a closing slot has dropped, and the deferred command takes effect (R401). -/
def execKeyCmdDeferredApply (dt : Nat) (s : State) : Host.Outcome State Fault Refusal :=
  let s := s.elapse dt
  if !s.clk.running then .next s else
  match s.key.deferred with
  | some c =>
    if slotPins c.slot s = 0 then
      let s := s.updKey fun x => { x with deferred := none }
      .next (runKeyCmd c (s.setSlot c.slot { s.slotOf c.slot with closing := false }))
    else .next s
  | none => .next s

/-- The consequence of a failed key load for what needed the key (R400); an ack that gets no seal is withdrawn at its start point (R247). -/
def loadFailed (u : KeyUse) (status : Nat) (s : State) : State :=
  match u with
  | .openAcc a => accFail a scKeyStale 0 s
  | .sealAck _ => s
  | .sealDl d => dlEnd d status s

/-- A KLD job ends with its own status (R400); a failure is counted and noted at most once per second. -/
def kldFail (i : Nat) (j : Job) (u : KeyUse) (h status detail : Nat) (s : State) : State :=
  let s := freeJob i (completeJob i j status detail (List.replicate 12 0) (s.incF (F.KEY_CNT_COUNT 2)))
  let t := s.clk.slot / sec
  let s := if s.key.blobFailAt = some t then s else notify N.BLOB_FAIL status 0 h (s.updKey fun x => { x with blobFailAt := some t })
  loadFailed u status s

/-- A KLD job has its key in slot `k`: the slot is pinned for the CPH job that consumes it (R399). -/
def kldDone (i : Nat) (j : Job) (u : KeyUse) (k : Nat) (s : State) : State :=
  let s := s.updKey fun x => { x with tick := x.tick + 1 }
  let s := s.setSlot k { s.slotOf k with lastUse := s.key.tick }
  let s := createJob (fun s => { useJob u s with pins := [k] }) s
  freeJob i (completeJob i j scOk 0 (List.replicate 12 0) s)

/-- A miss: the blob of the node unwrapped into the cache slot chosen (R399). -/
def kldMiss (i : Nat) (j : Job) (nix : Nat) (u : KeyUse) (v : Nat) (s : State) : State :=
  let h := entNat (s.entry nix) 12 4 % 2 ^ 20
  match unwrapBlob h (s.incF (F.KEY_CNT_COUNT 1)) with
  | (.error (st, d), s) => kldFail i j u h st d s
  | (.ok k, s) =>
    if k.may permEncrypt && k.may permDecrypt then
      kldDone i j u v (s.setSlot v { k with origin := 3, uses := 0xFFFFFFFF, nix := nix, linked := true })
    else kldFail i j u h scDenied 0x15 s

/-- No cache slot can be taken: the job waits, counted once, with the notice at most once per second (R399). -/
def kldWait (i : Nat) (j : Job) (s : State) : State :=
  let s := if j.pauses = 0 then (s.setJob i (some { j with pauses := 1 })).incF (F.KEY_CNT_COUNT 5) else s
  if !aSecondPast s.key.cacheWaitAt s then s
  else notify N.CACHE_WAIT scOk 0 (s.getF (F.KEY_CNT_COUNT 5)) (s.updKey fun x => { x with cacheWaitAt := some s.clk.slot })

/-- KLD_LOAD: a RUNNING KLD job finds its node's key in the cache or loads it (R399, R400). -/
def execKldLoad (dt : Nat) (id : BitVec 12) (s : State) : Host.Outcome State Fault Refusal :=
  let s := s.elapse dt
  if !s.clk.running then .next s else
  match s.job id.toNat with
  | some j =>
    match j.work with
    | .kld nix u =>
      if j.state ≠ jsRunning then .next s
      else match cacheSlot nix s with
      | some k => .next (kldDone id.toNat j u k (s.incF (F.KEY_CNT_COUNT 0)))
      | none => match cacheVictim s with
        | some v => .next (kldMiss id.toNat j nix u v s)
        | none => .next (kldWait id.toNat j s)
    | _ => .next s
  | none => .next s

end Sys2Proof.Machine
end

