-- ==== Sys2Proof/Machine/Ownership.lean ====
section
/-! DEFINITION. Ownership of configuration (R118 to R123). -/

namespace Sys2Proof.Machine

/-- The lease period of a master in ms (R121). -/
def leaseMs (m : Master) (s : State) : Nat :=
  match m with
  | .curator => s.getF F.CUR_LEASE_CFG_PERIOD_MS
  | _ => s.getF F.HST_LEASE_CFG_PERIOD_MS

/-- The lease starts anew (R121). -/
def startLease (m : Master) (s : State) : State :=
  { s with ctl := { s.ctl with lease := some (s.clk.now + leaseMs m s * ms) } }

/-- The lease ends with its owner. -/
def endLease (s : State) : State := { s with ctl := { s.ctl with lease := none } }

/-- Whether an ownership command of a master is accepted (R119). -/
def ownAccepts (m : Master) (cmd epoch : Nat) (s : State) : Bool :=
  let owner := s.getF F.CUR_OWN_STATUS_OWNER
  epoch == s.getF F.CUR_OWN_STATUS_EPOCH &&
    match cmd with
    | 1 => owner == 0
    | 2 => s.owns m
    | 3 => s.owns m
    | 4 => m == .curator && (owner == 1 || owner == 0)
    | _ => false

/-- The effect of an accepted ownership command (R119, R121, R123). -/
def ownEffect (m : Master) (cmd : Nat) (s : State) : State :=
  match cmd with
  | 1 => startLease m (changeOwner m.code s)
  | 2 => startLease m s
  | 3 => endLease (changeOwner 0 s)
  | 4 =>
    let s := startLease m (changeOwner m.code s)
    notify N.FORCED scOk 0 (s.getF F.CUR_OWN_STATUS_EPOCH) s
  | _ => s

/-- LAST_CMD and RESULT of the issuing master's command register (R120). -/
def ownResult (m : Master) (cmd result : Nat) (s : State) : State :=
  match m with
  | .curator => (s.setF F.CUR_OWN_CMD_LAST_CMD cmd).setF F.CUR_OWN_CMD_RESULT result
  | _ => (s.setF F.HST_OWN_CMD_LAST_CMD cmd).setF F.HST_OWN_CMD_RESULT result

/-- An ownership command resolved (R119, R120). -/
def ownCommand (m : Master) (cmd epoch : Nat) (s : State) : State :=
  if ownAccepts m cmd epoch s then ownResult m cmd scOk (ownEffect m cmd s) else { ownResult m cmd scDenied s with detail := 10 }

/-- CLAIM: the host's command 0x1. -/
def execClaim (dt : Nat) (epoch : BitVec 16) (s : State) : Host.Outcome State Fault Refusal :=
  .next (ownCommand .host 1 epoch.toNat (s.elapse dt))

/-- TAKE: the curator's command 0x1. -/
def execTake (dt : Nat) (epoch : BitVec 16) (s : State) : Host.Outcome State Fault Refusal :=
  .next (ownCommand .curator 1 epoch.toNat (s.elapse dt))

/-- REFRESH: command 0x2 of either master. -/
def execRefresh (dt : Nat) (m : Master) (epoch : BitVec 16) (s : State) : Host.Outcome State Fault Refusal :=
  .next (ownCommand m 2 epoch.toNat (s.elapse dt))

/-- RELEASE: command 0x3 of either master. -/
def execRelease (dt : Nat) (m : Master) (epoch : BitVec 16) (s : State) : Host.Outcome State Fault Refusal :=
  .next (ownCommand m 3 epoch.toNat (s.elapse dt))

/-- FORCE: the curator's command 0x4. -/
def execForce (dt : Nat) (epoch : BitVec 16) (s : State) : Host.Outcome State Fault Refusal :=
  .next (ownCommand .curator 4 epoch.toNat (s.elapse dt))

/-- The lease lapses (R121 to R123): the owner becomes NONE, the notice of class DF-H, and the reaction that SAF_CFG.ACT_H selects (R496); in FROZEN
there is no further effect (R511). -/
def leaseLapse (s : State) : State :=
  let old := s.getF F.CUR_OWN_STATUS_OWNER
  let s := endLease (changeOwner 0 s)
  let s := s.setF F.CUR_ALERT_STATUS_LAPSE 1
  let s := notify N.LEASE_LAPSE scTimeout 0 (old * 2 ^ 16 + s.getF F.CUR_OWN_STATUS_EPOCH) s
  if s.mode = stFrozen then s else safeOrReport (s.getF F.SAF_CFG_ACT_H == 1) 6 s

/-- LEASE_LAPSE: the deadline has passed without a REFRESH. Before the deadline nothing lapses. -/
def execLeaseLapse (dt : Nat) (s : State) : Host.Outcome State Fault Refusal :=
  let s := s.elapse dt
  match s.ctl.lease with
  | some d => if d ≤ s.clk.now then .next (leaseLapse s) else .next s
  | none => .next s

end Sys2Proof.Machine
end

