-- ==== Sys2Proof/Machine/Neighbour.lean ====
section
/-! DEFINITION. Neighbour border routers as commands (R229 to R233). -/

namespace Sys2Proof.Machine

/-- A neighbour table entry, and the table changed (R233). -/
def State.nbr (s : State) (i : Nat) : Option Neighbour := Sparse.get (fun _ => none) s.slt.nbrs i
def syncNbrs (s : State) : State :=
  let l := trackedNbrs s
  (s.setF F.SLT_NBR_STATUS_SILENT (l.filter (·.silent)).length).setF F.SLT_NBR_STATUS_ACTIVE (l.filter fun x => !x.silent).length
def setNbr (i : Nat) (x : Option Neighbour) (s : State) : State :=
  syncNbrs (s.updSlt fun t => { t with nbrs := Sparse.set (fun _ => none) t.nbrs i x, fullRids := if x.isNone then [] else t.fullRids })

/-- Slots in 100 ms, rounded up (R231). -/
def graceSlots (s : State) : Nat := (100 * ms + nominal s - 1) / max (nominal s) 1

/-- ARG of the neighbour notices (R234). -/
def nbrArg (i : Nat) (x : Neighbour) : Nat := i * 65536 + x.rid

/-- A beacon frame's clear fields (R216): level (0 unsecured), counter, PAN, EUI, and where its payload starts. -/
structure BeaconHdr where
  level : Nat
  fc : Nat
  pan : Nat
  eui : Nat
  at_ : Nat
  deriving DecidableEq, Repr

/-- The header of a beacon frame in the form of R216. -/
def beaconHdr (f : List Byte) : Option BeaconHdr :=
  let pan := entNat f 3 2
  let eui := entNat f 5 8
  if entNat f 0 2 = 0xD000 then some ⟨0, 0, pan, eui, 17⟩
  else if entNat f 0 2 = 0xD008 ∧ entNat f 13 1 < 8 then some ⟨entNat f 13 1, entNat f 14 4, pan, eui, 22⟩
  else none

/-- The RXA job of a beacon frame is done with: completed and its ID freed. -/
def endRxa (i : Nat) (j : Job) (s : State) : State := freeJob i (completeJob i j scOk 0 (List.replicate 12 0) s)

/-- A beacon dropped (R229), counted in SLT_CNT_k; its buffer returns to the pool. -/
def dropBeacon (h k : Nat) (s : State) : State := poolFree h (s.incF (F.SLT_CNT_COUNT k))

/-- The cells that a beacon carries, at their indices; those at or above TOTAL are discarded (R218, R230). -/
def beaconCells (p : List Byte) (old : Sparse (Option Nat)) : Sparse (Option Nat) :=
  let total := entNat p 18 1
  let first := entNat p 19 1
  let at_ := 21 + 4 * entNat p 17 1
  let m := old.filter fun e => decide (e.1 < total)
  (List.range (entNat p 20 1)).foldl (fun m k =>
    Sparse.set (fun _ => none) m ((first + k) % max total 1) (some (entNat p (at_ + 4 * k) 4 % 2 ^ 29))) m

/-- The layout of R218 holds. -/
def beaconForm (p : List Byte) : Bool :=
  let j := entNat p 17 1
  decide (1 ≤ j) && decide (j ≤ 4) && decide (entNat p 18 1 ≤ 32) && decide (entNat p 20 1 ≤ entNat p 18 1)
    && (entNat p 18 1 == 0 || decide (entNat p 19 1 < entNat p 18 1)) && decide (21 + 4 * j + 4 * entNat p 20 1 ≤ p.length)

/-- SFD time less the time expected from the beacon's SEN, LAUNCH_US and this device's boundaries, in µs (R233). -/
def nbrOffset (sfd sen launch : Nat) (s : State) : Int :=
  let slot := ((s.slt.past.find? fun e => e.2 == sen).map fun e => (e.1 : Int)).getD ((s.bound : Int) + ((sen : Int) - s.sen) * nominal s)
  max (-32768) (min 32767 (((sfd : Int) - (slot + launch * us)).tdiv us))

/-- A verified beacon put in place `i` of the table, with the cells known there (R230). -/
def putNbr (h : Nat) (b : BeaconHdr) (p : List Byte) (i : Nat) (cells : Sparse (Option Nat)) (s : State) : State :=
  let r := recordAddr h s
  let sen := entNat p 4 5
  let period := entNat p 10 2
  let x : Neighbour := ⟨false, 0, entNat p 2 2 % 1024, b.pan, b.eui, sen, entNat p 14 2, period, b.fc, toSigned 16 (s.leAt (r + 16) 2),
    nbrOffset (s.leAt r 8) sen (entNat p 14 2) s, sen + period, entNat p 18 1, beaconCells p cells⟩
  poolFree h (setNbr i (some x) (s.incF (F.SLT_CNT_COUNT 2)))

/-- A verified beacon that passed every check enters the table (R230). -/
def takeBeacon (h : Nat) (b : BeaconHdr) (p : List Byte) (s : State) : State :=
  let rid := entNat p 2 2 % 1024
  match s.slt.nbrs.find? fun e => match e.2 with | some x => x.rid == rid | none => false with
  | some (i, some x) => putNbr h b p i x.cells s
  | _ => match (List.range 64).find? fun i => (s.nbr i).isNone with
    | some i => notify N.NBR_NEW scOk 0 (i * 65536 + rid) (putNbr h b p i [] s)
    | none =>
      let s := dropBeacon h 6 s
      if s.slt.fullRids.contains rid then s
      else notify N.NBR_FULL scDenied 0 rid (s.updSlt fun x => { x with fullRids := rid :: x.fullRids })

/-- DUP_RID at most once per second (R229). -/
def noteDupRid (port : Nat) (s : State) : State :=
  if !aSecondPast s.slt.dupAt s then s else notify N.DUP_RID scDenied 0 port (s.updSlt fun x => { x with dupAt := some s.clk.slot })

/-- The checks of R229 after verification, in the payload from UTYPE on. -/
def checkBeacon (h : Nat) (b : BeaconHdr) (p : List Byte) (s : State) : State :=
  let rid := entNat p 2 2 % 1024
  let last := (trackedNbrs s).find? fun x => x.rid == rid
  if entNat p 0 1 ≠ 1 ∨ entNat p 1 1 ≠ 1 ∨ !beaconForm p then dropBeacon h 5 s
  else if entNat p 9 1 ≠ s.getF F.SLT_CONFIG_SLOT_CODE ∨ entNat p 12 2 ≠ s.getF F.SLT_RES_CFG_RES_FRAME then dropBeacon h 5 s
  else if rid = s.getF F.SLT_ADDR_RID then noteDupRid (s.leAt (recordAddr h s + 15) 1 / 16) (dropBeacon h 5 s)
  else if b.level != 0 && last.any fun x => decide (b.fc ≤ x.fc) then dropBeacon h 4 s
  else takeBeacon h b p s

/-- The frame in a receive buffer without FCS, as its record gives its length. -/
def frameOf (h : Nat) (s : State) : List Byte :=
  let fl := s.leAt (recordAddr h s + 12) 2
  s.bytes (bufferAddr h s) (fl % 2 ^ 11 - (if fl / 2 ^ 11 % 2 = 1 then 4 else 2))

/-- A beacon frame taken from RXA: an unsecured one is checked at once, a secured one is opened under the beacon key (R229). -/
def beaconFrameRx (h : Nat) (s : State) : State :=
  let f := frameOf h s
  let need := s.getF F.SLT_BCN_CFG_SEC_LEVEL
  match beaconHdr f with
  | none => dropBeacon h 5 s
  | some b =>
    if b.level < need ∨ (b.level ≠ 0 ∧ b.level < 5) then dropBeacon h 5 s
    else if b.level = 0 then checkBeacon h b (f.drop b.at_) s
    else
      let mic := micLen b.level
      if f.length < b.at_ + mic then dropBeacon h 5 s
      else createJob (fun s => newJob ecCPH (engPrio ecCPH s) (ecSLT * 4096) h noHandle
        (cphArgs 1 (b.level - 4) 3 b.level 0 22 (f.length - mic - 22) false (s.getF F.SLT_BCN_CFG_KEY_SLOT) 0 14 5) (.openBcn h)) s

/-- The outcome of the OPEN of a beacon (R229). -/
def beaconOpened (h status : Nat) (s : State) : State :=
  let f := frameOf h s
  match beaconHdr f with
  | some b =>
    if status = scOk then checkBeacon h b ((f.drop b.at_).take (f.length - micLen b.level - b.at_)) s
    else dropBeacon h (if status = scAuthFail then 3 else 5) s
  | none => dropBeacon h 5 s

/-- NBR_BEACON_RX: a beacon frame that a RUNNING RXA job holds goes to the slot engine, or the OPEN of one is COMPLETE (R229). -/
def execNbrBeaconRx (dt : Nat) (id : BitVec 12) (s : State) : Host.Outcome State Fault Refusal :=
  let s := s.elapse dt
  if !s.clk.running then .next s else
  match s.job id.toNat with
  | some j =>
    match j.work with
    | .rxa h => if j.state = jsRunning ∧ isBeaconFrame (s.bytes (bufferAddr h s) 2) then .next (endRxa id.toNat j (beaconFrameRx h s)) else .next s
    | .openBcn h => if j.state = jsComplete then .next (beaconOpened h j.status (freeJob id.toNat s)) else .next s
    | _ => .next s
  | none => .next s

/-- BEACON_MISS: slot EXP_SEN + G has ended without the beacon of an ACTIVE entry (R231). -/
def execBeaconMiss (dt : Nat) (i : Fin 64) (s : State) : Host.Outcome State Fault Refusal :=
  let s := s.elapse dt
  if !s.clk.running then .next s else
  match s.nbr i with
  | some x =>
    if x.silent ∨ s.sen ≤ x.exp + graceSlots s then .next s
    else
      let s := s.incF (F.SLT_CNT_COUNT 7)
      if x.missed + 1 < 3 then .next (setNbr i (some { x with missed := x.missed + 1, exp := x.exp + x.period }) s)
      else .next (notify N.NBR_SILENT scOk 0 (nbrArg i x) (setNbr i (some { x with missed := 3, silent := true, exp := x.exp + 2 * x.period }) s))
  | none => .next s

/-- NBR_RELEASE: slot RELEASE_SEN + G of a SILENT entry has ended (R231). -/
def execNbrRelease (dt : Nat) (i : Fin 64) (s : State) : Host.Outcome State Fault Refusal :=
  let s := s.elapse dt
  if !s.clk.running then .next s else
  match s.nbr i with
  | some x =>
    if x.silent ∧ x.exp + graceSlots s < s.sen then .next (notify N.NBR_RELEASED scOk 0 (nbrArg i x) (setNbr i none s)) else .next s
  | none => .next s

/-- A write of SLT_NBR_CLEAR (R233). -/
def writeNbrClear (m : Master) (w : Word) (s : State) : State :=
  if !s.owns m then ignored m 0xc00c0 s
  else if bitsOf w 31 31 = 1 then setNbr (bitsOf w 5 0) none s
  else s

/-- SLT_NBR_CLEAR. -/
def execSltNbrClear (dt : Nat) (m : Master) (w : Word) (s : State) : Host.Outcome State Fault Refusal :=
  .next (gatedWrite m 0xc00c0 (writeNbrClear m w) (s.elapse dt))

end Sys2Proof.Machine
end

