-- ==== Sys2Proof/Machine/CatCmd.lean ====
section
/-! DEFINITION. Catalogue commands and write-back (R272 to R276). -/

namespace Sys2Proof.Machine

/-- Bytes of an image put into an entry. -/
def copyBytes (off n : Nat) (img e : List Byte) : List Byte := e.take off ++ (img.drop off).take n ++ e.drop (off + n)

/-- Bits of a byte of an image put into an entry. -/
def copyBits (off hi lo : Nat) (img e : List Byte) : List Byte := entPutBits e off hi lo (entBits img off hi lo)

/-- The fields of a group taken from an image (R270, R276). -/
def withG0 (img e : List Byte) : List Byte :=
  let e := copyBits 11 3 0 img (copyBits 11 7 5 img (copyBits 10 7 6 img (copyBytes 0 10 img e)))
  entPut e 12 4 (entNat e 12 4 / 2 ^ 20 * 2 ^ 20 + entNat img 12 4 % 2 ^ 20)
def withG1 (img e : List Byte) : List Byte :=
  entPutBits (copyBytes 24 4 img (copyBits 23 0 0 img (copyBytes 16 6 img e))) 22 1 0 0
def withG2 (img e : List Byte) : List Byte :=
  copyBytes 68 36 img (copyBytes 48 20 img (copyBytes 45 1 img (copyBytes 34 2 img (copyBits 33 3 0 img (copyBits 10 1 0 img e)))))
def withG3 (img e : List Byte) (s : State) : List Byte :=
  let e := entPut (copyBytes 156 4 img (copyBytes 148 5 img e)) 160 4 (hourNow s)
  entPut e 164 2 (strainOf e s)
def withG4 (img e : List Byte) : List Byte := copyBytes 256 256 img e

/-- A group is set in MASK. -/
def inMask (mask g : Nat) : Bool := mask / 2 ^ g % 2 == 1

/-- The entry after a WRITE (R274, R276); FAULTY clears when G0 to G3 are replaced together (R273). -/
def writtenEntry (mask : Nat) (img e : List Byte) (s : State) : List Byte :=
  let e := if inMask mask 0 then withG0 img e else e
  let e := if inMask mask 1 then withG1 img e else e
  let e := if inMask mask 2 then withG2 img e else e
  let e := if inMask mask 3 then withG3 img e s else e
  let e := if inMask mask 4 then withG4 img e else e
  if mask % 16 = 15 then entPutBits e 10 5 5 0 else e

/-- REASON of CAT_CMD_STATUS. -/
def crAssociated : Nat := 1
def crDuplicate : Nat := 2
def crInvalid : Nat := 3
def crNoCounters : Nat := 4
def crRange : Nat := 5

/-- R268 for an entry `e` of node `nix`. -/
def entryUnique (nix : Nat) (e : List Byte) (s : State) : Bool :=
  decide (entNat e 8 2 < 0xFFFE) && s.cat.valid.all fun n =>
    n == nix || (entNat (s.entry n) 0 8 != entNat e 0 8 && !(entNat (s.entry n) 8 2 == entNat e 8 2 && entGroup (s.entry n) s == entGroup e s))

/-- Check 4 of R275. -/
def entrySane (e : List Byte) (s : State) : Bool :=
  let tx := entNat e 45 1
  decide (5 ≤ entBits e 11 7 5) && (decide (tx ≤ 0x40) || decide (0xB0 ≤ tx) || tx == 0x80 || tx == 0x81) && decide (entNat e 8 2 < 0xFFFE)
    && profEn (entProfile e) s && (entBits e 10 1 1 == 0 || blockOk ((e.drop 68).take 36) s)

/-- The first check of R275 that fails for an entry that would change from `e` to `b`: status and REASON. -/
def entryRefused (nix cmd mask : Nat) (e b : List Byte) (badImage : Bool) (s : State) : Option (Nat × Nat) :=
  let none? := entAssoc e == asNone
  if (cmd == 3 || (inMask mask 0 && !entValid b)) && !none? then some (scDenied, crAssociated)
  else if cmd = 3 then none
  else if (entNat e 0 8 != entNat b 0 8 || entNat e 8 2 != entNat b 8 2 || entGroup e s != entGroup b s) && !none? then some (scDenied, crAssociated)
  else if entValid b && !entryUnique nix b s then some (scDenied, crDuplicate)
  else if entValid b && !entrySane b s then some (scDenied, crInvalid)
  else if entNat e 12 4 % 2 ^ 20 ≠ entNat b 12 4 % 2 ^ 20 ∧ !inMask mask 1 then some (scDenied, crNoCounters)
  else if badImage then some (scFaultEcc, 0)
  else none

/-- The job of the command in progress. -/
def catJob (s : State) : Option (Nat × Job) := s.inFlight.find? fun e => e.2.work == .catCmd

/-- The end of a command (R275): DONE, its status, the notice, and its job. -/
def catEnd (status reason done : Nat) (s : State) : State :=
  let s := s.updCat fun c => { c with cmd := none }
  let s := s.setReg 0xe001c (BitVec.ofNat 32 (2 ^ 30 + status * 2 ^ 16 + reason * 2 ^ 13 + done))
  let s := notify N.CMD_DONE status 0 (reason * 2 ^ 13 + done) s
  match catJob s with
  | some (i, j) => freeJob i (completeJob i j status 0 (List.replicate 12 0) s)
  | none => s

/-- A DRAM range that a command may not use (R338): beyond U, or for a READ the catalogue, its index and the pair area. -/
def catRangeBad (cmd addr count : Nat) (s : State) : Bool :=
  cmd != 3 && (!inDram addr (512 * count) s || (cmd == 2 && (hitsCatalogue addr (512 * count) s || (s.fuses.pairRoot && hitsPairArea addr (512 * count)))))

/-- A write of CAT_CMD (R274). -/
def writeCatCmd (m : Master) (cmd mask nix : Nat) (s : State) : State :=
  if s.getF F.CAT_CMD_STATUS_BUSY = 1 ∨ !s.owns m then ignored m 0xe0010 s
  else
    let count := s.getF F.CAT_CMD_COUNT_COUNT
    let addr := s.getF F.CAT_CMD_ADDR_ADDR
    if 131072 < nix + count ∨ catRangeBad cmd addr count s then catEnd scDenied crRange 0 s
    else
      let s := s.updCat fun c => { c with cmd := some ⟨cmd, mask, nix, count, 0, addr⟩ }
      let s := s.setReg 0xe001c (BitVec.ofNat 32 (2 ^ 31 + s.getF F.CAT_CMD_STATUS_DONE * 2 ^ 30))
      createJob (fun s => newJob ecMNT (engPrio ecMNT s) (ecCAT * 4096) noHandle noHandle (List.replicate 16 0) .catCmd) s

/-- CAT_CMD_WRITE. -/
def execCatCmdWrite (dt : Nat) (m : Master) (mask : BitVec 5) (nix : BitVec 17) (s : State) : Host.Outcome State Fault Refusal :=
  .next (gatedWrite m 0xe0010 (writeCatCmd m 1 mask.toNat nix.toNat) (s.elapse dt))

/-- CAT_CMD_READ. -/
def execCatCmdRead (dt : Nat) (m : Master) (nix : BitVec 17) (s : State) : Host.Outcome State Fault Refusal :=
  .next (gatedWrite m 0xe0010 (writeCatCmd m 2 0 nix.toNat) (s.elapse dt))

/-- CAT_CMD_CLEAR. -/
def execCatCmdClear (dt : Nat) (m : Master) (nix : BitVec 17) (s : State) : Host.Outcome State Fault Refusal :=
  .next (gatedWrite m 0xe0010 (writeCatCmd m 3 0 nix.toNat) (s.elapse dt))

/-- An entry written or cleared (R275, R276). -/
def changeEntry (nix cmd mask : Nat) (b : List Byte) (s : State) : State :=
  let s := (putEntry nix b s).incF (F.CAT_CNT_COUNT 7)
  let s := if cmd = 1 ∧ inMask mask 3 ∧ s.getF F.NRG_STATUS_PEAK_STRAIN < entNat b 164 2 then s.setF F.NRG_STATUS_PEAK_STRAIN (entNat b 164 2) else s
  if cmd = 3 ∨ inMask mask 1 then s.updXch fun x => { x with counterEnd := Sparse.set (fun _ => 0) x.counterEnd nix 0 } else s

/-- An entry of the command is done: the count, and the command's end after the last (R275). -/
def catNext (c : CatCmd) (s : State) : State :=
  let s := (s.updCat fun x => { x with cmd := some { c with done := c.done + 1 } }).setF F.CAT_CMD_STATUS_ENTRIES (c.done + 1)
  if c.done + 1 = c.count then catEnd scOk 0 c.count s else s

/-- One entry of the command checked and processed (R275); a fetch that meets an uncorrectable error ends the command FAULT_ECC (R273). -/
def catStep (c : CatCmd) (s : State) : State :=
  let nix := c.nix + c.done
  let at_ := c.addr + 512 * c.done
  let lost := (s.line nix).isNone && (badWord (entAddr nix s) 512 s).isSome
  let s := fetchEntry nix s
  let e := s.entry nix
  if lost then catEnd scFaultEcc 0 c.done s
  else if c.cmd = 2 then catNext c (writeDram at_ e s)
  else
    let b := if c.cmd = 3 then List.replicate 512 0 else writtenEntry c.mask (s.bytes at_ 512) e s
    let bad := if c.cmd = 1 then badWord at_ 512 s else none
    match entryRefused nix c.cmd c.mask e b bad.isSome s with
    | some (st, r) => catEnd st r c.done (match bad with | some w => if st = scFaultEcc then foundUe w false s else s | none => s)
    | none => catNext c (changeEntry nix c.cmd c.mask b s)

/-- CAT_CMD_ENTRY: the next entry of the command, once it is not pinned, while the command's job runs. -/
def execCatCmdEntry (dt : Nat) (s : State) : Host.Outcome State Fault Refusal :=
  let s := s.elapse dt
  if !s.clk.running then .next s else
  match s.cat.cmd, catJob s with
  | some c, some (_, j) => if j.state = jsRunning ∧ entPins (c.nix + c.done) s = 0 then .next (catStep c s) else .next s
  | _, _ => .next s

/-- CAT_WRITEBACK: a modified cache entry is written back (R272). -/
def execCatWriteback (dt : Nat) (nix : BitVec 17) (s : State) : Host.Outcome State Fault Refusal :=
  let s := s.elapse dt
  if !s.clk.running then .next s else .next (writeBack nix.toNat s)

end Sys2Proof.Machine
end

