-- ==== Sys2Proof/Machine/CommitOps.lean ====
section
/-! DEFINITION. What a transaction does when it applies: its shadows become the values in effect, with the checks at commit and what the chapters attach to a commit
boundary (R127 to R134). -/

namespace Sys2Proof.Machine

/-- The key of a shadow of a table word; a register's shadow has the register's address (R127). -/
def tabKey (w off : Nat) : Nat := 2 ^ 32 + w * 2 ^ 28 + off

/-- A shadow of the open transaction: it replaces an earlier one for the same word (R127). -/
def putShadow (k : Nat) (w : Word) (s : State) : State :=
  { s with ctl := { s.ctl with shadows := s.ctl.shadows.filter (fun e => e.1 != k) ++ [(k, w)] } }

/-- One shadow becomes the value in effect. -/
def applyShadow (s : State) (e : Nat × Word) : State :=
  if e.1 < 2 ^ 32 then s.setReg e.1 e.2 else { s with tabs := Sparse.set tabDefault s.tabs (e.1 - 2 ^ 32) e.2 }

/-- Every shadow becomes the value in effect (R131). -/
def applyShadows (s : State) : State := s.ctl.shadows.foldl applyShadow s

/-- A ring whose base or control register changes starts anew (R49, R303, R329, R427). -/
def restartRing (base ctrl : Nat) (wr rd : Field) (o s : State) : State :=
  if o.reg base = s.reg base ∧ o.reg ctrl = s.reg ctrl then s else (s.setF wr 0).setF rd 0

/-- A change of the receive centre or the channel grid retunes the port (R195, R547): QUIET keeps its state; a port that is transmitting, or settles for a command,
turns to the new centre when it returns to receive. -/
def regridPort (n : Nat) (s : State) : State :=
  let st := s.pstate n
  if st = psOff ∨ st = psCal then s
  else if st = psQuiet then retune n (centre n s) s
  else if st = psRx ∨ (st = psSettle ∧ (s.port n).held.all (fun h => (s.port n).target != h.cmd.khz)) then settle n (centre n s) s
  else blankPort n s

/-- Whether the receive centre or the grid of a port changes (R195). -/
def regridded (n : Nat) (o s : State) : Bool :=
  centre n o != centre n s || o.reg (0x40100 + 32768 * n) != s.reg (0x40100 + 32768 * n)
    || o.getF (F.RFP_PHY_CFG_CH_COUNT n) != s.getF (F.RFP_PHY_CFG_CH_COUNT n) || o.getF (F.RFP_PHY_CFG_MOD_IDX n) != s.getF (F.RFP_PHY_CFG_MOD_IDX n)

/-- Receptions without their SFD on channels that the commit disables end DISABLED (R195). -/
def dropDisabled (n : Nat) (o s : State) : State :=
  (List.range 64).foldl (fun s d => match s.demod n d with
    | some x => if x.sfd = none ∧ bitsOf (chanWord n x.channel o) 31 31 = 1 ∧ bitsOf (chanWord n x.channel s) 31 31 = 0 then failRx n d roDisabled s else s
    | none => s) s

/-- ENABLE of a port takes effect: calibration when it becomes 1, OFF when it becomes 0 and no PPDU is in progress (R151). In step 8 of start-up it waits for step 9. -/
def enablePort (boot : Bool) (n : Nat) (o s : State) : State :=
  if boot ∨ portOn n o = portOn n s then s
  else if portOn n s then
    (if s.pstate n = psOff then startCal n s else s.updPort n fun p => { p with stopping := false })
  else if s.pstate n = psTx ∧ (s.port n).begun.isSome then s.updPort n fun p => { p with stopping := true }
  else if s.pstate n = psOff then s
  else portOff n s

/-- RF_UP while a port is not OFF (R35). -/
def syncRf (s : State) : State := s.setF F.TOP_STATUS_RF_UP (bit ((List.range 16).any fun n => s.pstate n != psOff))

/-- What a commit does at one port. -/
def commitPort (boot : Bool) (o : State) (s : State) (n : Nat) : State :=
  let s := enablePort boot n o s
  let s := if regridded n o s then regridPort n s else s
  let s := dropDisabled n o s
  let s := if o.getF (F.RFP_DUTY_WINDOW_S n) = s.getF (F.RFP_DUTY_WINDOW_S n) then s
    else syncDuty n (s.updPort n fun p => { p with duty := [], dutyAt := s.clk.now, dutyNoticed := false })
  syncComp n s

/-- What a commit does in the time unit (R424, R428, R432). -/
def commitTime (o s : State) : State :=
  let s := if selDomain o = selDomain s then s else notify N.DOM_SWITCH scOk 0 (selDomain s) (s.setF F.TIM_STATUS_SEL (selDomain s))
  let s := [0, 1].foldl (fun s n =>
    if o.getF (F.TIM_D_PTP_CFG_EN n) = 0 ∧ s.getF (F.TIM_D_PTP_CFG_EN n) = 1 then
      (s.setF (F.TIM_D_EXCH_STATUS_VALID n) 0).updDomain n fun d => { d with fresh := true, prevMpd := none, req := none, sync := none, known := none }
    else s) s
  if s.getF F.TIM_PPSOUT_CFG_EN = 0 then { s with time := { s.time with ppsOut := none } } else s

/-- What a commit does in the shaper (R302). -/
def commitShaper (o s : State) : State :=
  if s.getF F.SHP_SRING_CTRL_EN = 1 ∧ (o.getF F.SHP_SRING_CTRL_EN = 0 ∨ o.getF F.SHP_SRING_CTRL_PERIOD_MS ≠ s.getF F.SHP_SRING_CTRL_PERIOD_MS) then
    s.updShp fun x => { x with epoch := s.clk.slot }
  else s

/-- What a commit does on the backhaul and the host link: a port that is disabled loses its link, and a TX ring that is enabled fetches (R435, R451). -/
def commitLinks (o s : State) : State :=
  let s := [0, 1].foldl (fun s b => if s.getF (F.BHL_PORT_CFG_EN b) = 0 then setLink b false s else s) s
  (List.range 16).foldl (fun s t => if o.getF (F.BHL_HTX_CFG_EN t) = 0 then startFetchTx t s else s) s

/-- What a commit does to the areas in DRAM that it moves: a moved catalogue starts with an empty cache, and a moved or resized pool with every buffer free (R266, R347, R349). -/
def commitMemory (o s : State) : State :=
  let s := s.updCat fun c => { c with cache := if catBase o = catBase s then c.cache else [] }
  { s with mem := if poolBase o = poolBase s ∧ poolCount o = poolCount s then s.mem else { s.mem with used := [], freed := [], minFree := none } }

/-- Everything that a commit does beside the values themselves, from the state before it. -/
def commitEffects (boot : Bool) (o s : State) : State :=
  let s := restartRing 0x40 0x44 F.TOP_NRING_WR_WR F.TOP_NRING_RD_RD o s
  let s := restartRing 0xF0100 0xF0104 F.SHP_SRING_WR_COUNT F.SHP_SRING_RD_COUNT o s
  let s := restartRing 0x108000 0x108004 F.TRC_RING_WR_COUNT F.TRC_RING_RD_COUNT o s
  let s := restartRing 0x148010 0x148014 F.TSU_RING_WR_COUNT F.TSU_RING_RD_COUNT o s
  let s := commitMemory o (commitShaper o s)
  let s := (List.range 16).foldl (commitPort boot o) s
  commitLinks o (commitTime o (syncRf s))

/-- The state with the transaction's values in effect, when every check at commit holds. -/
def tryCommit (boot : Bool) (s : State) : Option State :=
  let n := applyShadows s
  if commitOk s n then some (commitEffects boot s n) else none

/-- The REGS records of a commit, at most 508 pairs of address and value in each (R472). -/
def journalRegs (tag : Nat) : Nat → List (Nat × Word) → State → State
  | 0, _, s => s
  | n + 1, l, s =>
    let now := l.take 508
    let rest := l.drop 508
    let body := [3, 1 + (now.length + 1) / 2, tag, bit rest.isEmpty] ++ (now.map fun e => [e.1, e.2.toNat]).flatten
    let s := journalRec body (16 + 16 * ((now.length + 1) / 2)) s
    if rest.isEmpty then s else journalRegs tag n rest s

/-- The commit boundary (R131), or the rollback of a poisoned transaction (R129). -/
def commitNow (s : State) : State :=
  match (if s.getF F.TXN_STATUS_POISONED = 1 then none else tryCommit false s) with
  | none => rollback scDenied (s.setF F.TXN_STATUS_POISONED 1)
  | some t =>
    let tag := t.getF F.TXN_STATUS_TAG
    let t := journalRegs tag (s.ctl.shadows.length + 1) s.ctl.shadows t
    let t := (closeTxn scOk t).set64 F.TXN_APPLIED_SEN_LO_SEN F.TXN_APPLIED_SEN_HI_SEN t.slt.nextSen
    notify N.TXN_COMMITTED scOk 0 (t.slt.nextSen % 2 ^ 24 * 256 + tag) t

end Sys2Proof.Machine
end

