-- ==== Sys2Proof/Machine/Lifecycle.lean ====
section
/-! DEFINITION. Attestation, lifecycle and tamper (R405 to R413). -/

namespace Sys2Proof.Machine

/-- The lifecycle part of the state changed. -/
def State.updLcs (s : State) (f : Lcs → Lcs) : State := { s with lcs := f s.lcs }

/-- The words captured for a master (R17). -/
def State.setCap (s : State) (m : Master) (c : Capture) : State := match m with | .host => { s with cap0 := c } | .curator => { s with cap1 := c }

/-- What a master has captured, and words captured in the place of earlier ones at the same places (R17). -/
def State.cap (s : State) (m : Master) : Capture := match m with | .host => s.cap0 | .curator => s.cap1
def State.addCap (s : State) (m : Master) (ws : List (Nat × Word)) : State :=
  s.setCap m ⟨ws ++ (s.cap m).words.filter fun e => !(ws.any fun x => x.1 == e.1)⟩

/-- A read of LCS_CHAL0 (R410): a fresh challenge, captured for the master, in the place of the previous one. -/
def readChal (m : Master) (s : State) : Word × State :=
  let w (k : Nat) : Word := BitVec.ofNat 32 (Config.freeValue (s.draws + k))
  let s := (List.range 4).foldl (fun s k => s.setReg (0x134010 + 4 * k) (w k)) { s with draws := s.draws + 4 }
  let s := s.addCap m [(0x134014, w 1), (0x134018, w 2), (0x13401c, w 3)]
  (w 0, s.updLcs fun l => { l with chalAt := some s.clk.now })

/-- What a read of a register that does not answer returns (R36). -/
def gatedValue : Word := 0x0FF00FF0#32

/-- LCS_CHAL_READ; in FROZEN the words of the freeze edge are read, with their capture (R17, R512). -/
def execLcsChalRead (dt : Nat) (m : Master) (s : State) : Host.Outcome State Fault Refusal :=
  let s := s.elapse dt
  if s.mode = stFrozen ∧ answers 0x134010 s then
    .next ((s.addCap m [(0x134014, s.reg 0x134014), (0x134018, s.reg 0x134018), (0x13401c, s.reg 0x13401c)]).emit (.value m.bit (s.reg 0x134010)))
  else if answers 0x134010 s then
    let (w, s) := readChal m s
    .next (s.emit (.value m.bit w))
  else .next ((accessErr m errGated 0x134010 s).emit (.value m.bit gatedValue))

/-- LCS_CHAL_EXPIRE: a challenge is valid for 600 s (R410). -/
def execLcsChalExpire (dt : Nat) (s : State) : Host.Outcome State Fault Refusal :=
  let s := s.elapse dt
  match s.lcs.chalAt with
  | some t => if t + 600 * sec ≤ s.clk.now then .next (s.updLcs fun l => { l with chalAt := none }) else .next s
  | none => .next s

/-- A number in the order of SEC 1 and SHA-512, most significant byte first (R66). -/
def ofBe (l : List Byte) : Nat := ofLe l.reverse

/-- A part of a block of bytes. -/
def part (b : List Byte) (ofs n : Nat) : List Byte := (b.drop ofs).take n

/-- The challenge in force, none when it has expired after 600 s or been used (R410). -/
def chalNow (s : State) : Option (List Byte) :=
  (s.lcs.chalAt.filter fun t => decide (s.clk.now < t + 600 * sec)).map fun _ => ((List.range 4).map fun k => leBytes 4 (s.reg (0x134010 + 4 * k)).toNat).flatten

/-- The states that may follow a state by a token (R409); MAKER is entered at Tuiwald only. -/
def lcsNext (a : Nat) : List Nat := [[], [2, 5], [3, 4, 5], [4, 5], [5], []].getD a []

/-- The key hash that images must carry in a state (R67, R409). -/
def refHash (lc : Nat) (s : State) : Option Nat :=
  if lc = 0 ∨ lc = 1 ∨ lc = 4 then some Config.makerHash else if lc = 2 ∨ lc = 3 then some s.fuses.ownerHash else none

/-- Check 4 of R411. -/
def lcsKeyOk (t : List Byte) (target : Nat) (s : State) : Bool :=
  let h := Config.sha512 (part t 0x60 133)
  if target = 2 then h == ofBe (part t 0x20 64)
  else if target = 3 then h == s.fuses.ownerHash
  else if target = 4 then h == Config.makerHash
  else refHash s.fuses.lifecycle s == some h

/-- Checks 2 to 5 of R411 on a token, with the challenge it must carry: status and REASON of the first that fails. -/
def tokenRefusal (t : List Byte) (chal : Option (List Byte)) (s : State) : Option (Nat × Nat) :=
  let target := entNat t 4 1
  let zero (ofs n : Nat) : Bool := part t ofs n == List.replicate n 0
  if part t 0 4 ≠ [0x4C, 0x43, 0x53, 0x54] ∨ !zero 5 3 ∨ !zero 0xE5 3 ∨ !zero 0x16C 4 ∨ entNat t 8 8 ≠ s.fuses.serial ∨ chal ≠ some (part t 0x10 16) then some (scDenied, 2)
  else if !(lcsNext s.fuses.lifecycle).contains target ∨ (target = 3 ∧ s.fuses.partEv) then some (scDenied, 3)
  else if !lcsKeyOk t target s then some (scDenied, 4)
  else if !Config.ecdsaOk (part t 0x60 133) (t.take 0xE8) (part t 0xE8 66) (part t 0x12A 66) then some (scAuthFail, 5)
  else none

/-- The end of an LCS_CMD. -/
def lcsEnd (status reason : Nat) (s : State) : State := s.setReg 0x134024 (BitVec.ofNat 32 (2 ^ 30 + status * 2 ^ 16 + reason))

/-- A change of state that has passed the checks (R411): seed cleared, alarm erase, owner hash fuses; its state fuse is still to be blown. -/
def lcsAct (t : List Byte) (s : State) : State :=
  let target := entNat t 4 1
  -- ARG of ALARM_ERASE has no code for this cause: a free value.
  let s := alarmErase (s.draw % 16) (clearSeed s.drawn)
  let new := ofBe (part t 0x20 64)
  let blown := s.fuses.ownerHash ||| new
  if target = 2 ∧ blown ≠ new then lcsEnd scDenied 0 { s with fuses := { s.fuses with ownerHash := blown } }
  else
    let s := if target = 2 then { s with fuses := { s.fuses with ownerHash := new } } else s
    s.updLcs fun l => { l with change := some target }

/-- LCS_CMD with GO = 1 (R338, R410, R411): the token is read and checked; the challenge serves one command. -/
def startLcs (a : Nat) (s : State) : State :=
  let chal := chalNow s
  let s := s.updLcs fun l => { l with chalAt := none }
  if !inDram a 368 s then lcsEnd scDenied 2 s
  else withRead a 368 s (fun _ s => lcsEnd scFaultEcc 1 s) fun t s =>
    match tokenRefusal t chal s with
    | some (st, r) => lcsEnd st r s
    | none => lcsAct t (s.setReg 0x134024 (BitVec.ofNat 32 (2 ^ 31 + s.getF F.LCS_CMD_STATUS_DONE * 2 ^ 30)))

/-- A write of LCS_CMD (R411). -/
def writeLcsCmd (m : Master) (w : Word) (s : State) : State :=
  let busy := s.getF F.LCS_CMD_STATUS_BUSY == 1
  let state := s.mode == stAutonomous || s.mode == stReserve || s.mode == stSafeHold
  if !s.owns m || busy || !state then ignored m 0x134020 s
  else
    let s := s.setReg 0x134020 (w &&& 0xFFFFFFC0#32)
    if bitsOf w 0 0 = 1 then startLcs (w.toNat / 64 * 64) s else s

/-- LCS_CMD. -/
def execLcsCmd (dt : Nat) (m : Master) (w : Word) (s : State) : Host.Outcome State Fault Refusal :=
  .next (gatedWrite m 0x134020 (writeLcsCmd m w) (s.elapse dt))

/-- LCS_CHANGE: the state fuse is blown; the notice, and the restart (R411). Entry to VOID disables the identity key. In FROZEN a blow that has begun completes, and the
device stays FROZEN (R513, R514). -/
def execLcsChange (dt : Nat) (s : State) : Host.Outcome State Fault Refusal :=
  let s := s.elapse dt
  match s.lcs.change with
  | some t =>
    let s := { s with fuses := { s.fuses with lifecycle := t, identity := s.fuses.identity && t != 5 } }
    if s.mode = stFrozen then .next (s.updLcs fun l => { l with change := none }) else
    .next (restart (notify N.LCS_CHANGE scOk 0 t (lcsEnd scOk 0 (s.updLcs fun l => { l with change := none }))))
  | none => .next s

/-- The end of an attestation. -/
def attestEnd (status : Nat) (s : State) : State := s.setReg 0x13402c (BitVec.ofNat 32 (2 ^ 30 + status * 2 ^ 16))

/-- A write of LCS_ATTEST (R338, R407, R408): the nonce is taken, or the request refused; one report runs at a time. -/
def writeAttest (m : Master) (w : Word) (s : State) : State :=
  if s.getF F.LCS_ATTEST_STATUS_BUSY = 1 then ignored m 0x134028 s
  else
    let s := s.setReg 0x134028 (w &&& 0xFFFFFFC0#32)
    let a := w.toNat / 64 * 64
    if bitsOf w 0 0 = 0 then s
    else if !s.fuses.identity || !inDram a 512 s then attestEnd scDenied s
    else withRead (a + 16) 32 s (fun _ s => attestEnd scFaultEcc s) fun n s => (s.setReg 0x13402c (BitVec.ofNat 32 (2 ^ 31 + s.getF F.LCS_ATTEST_STATUS_DONE * 2 ^ 30))).updLcs fun l => { l with attest := some (a, n) }

/-- ATTEST_REQUEST. -/
def execAttestRequest (dt : Nat) (m : Master) (w : Word) (s : State) : Host.Outcome State Fault Refusal :=
  .next (gatedWrite m 0x134028 (writeAttest m w) (s.elapse dt))

/-- The signed part of an attestation report, bytes 0x000 to 0x147 (R408). -/
def attestBody (nonce : List Byte) (s : State) : List Byte :=
  let reserve := s.mode == stReserve
  let img := if reserve then List.replicate 64 0 else ((List.range 16).map fun n => leBytes 4 (s.getF (F.CFG_DIGEST_DIGEST n))).flatten
  let flags := s.getF F.CFG_STATUS_TAMPER_SEEN + 2 * s.getF F.PWR_STATUS_VBAT_LOST + 4 * s.getF F.LCS_STATUS_NEW_SEED + 8 * bit reserve
  [0x48, 0x5A, 0x41, 0x54] ++ leBytes 2 1 ++ [BitVec.ofNat 8 (s.getF F.TOP_ID_REV), BitVec.ofNat 8 s.fuses.lifecycle] ++ leBytes 8 s.fuses.serial ++ fit 32 nonce
    ++ img ++ leBytes 2 ((s.boot.image.map (·.secVer)).getD 0) ++ [BitVec.ofNat 8 s.fuses.arb, BitVec.ofNat 8 flags]
    ++ leBytes 4 (min s.tamp.boots 0xFFFFFFFF) ++ beBytes 64 s.fuses.ownerHash ++ leBytes 8 s.clk.slot ++ fit 133 Config.identityPublic ++ [0, 0, 0]

/-- The report with its signature (R408). -/
def attestReport (nonce : List Byte) (s : State) : List Byte :=
  let b := attestBody nonce s
  b ++ fit 132 (Config.identitySign b) ++ List.replicate 52 0

/-- ATTEST_DONE: the report is written over its area (R408). -/
def execAttestDone (dt : Nat) (s : State) : Host.Outcome State Fault Refusal :=
  let s := s.elapse dt
  if !s.clk.running then .next s else
  match s.lcs.attest with
  | some (a, n) =>
    let s := attestEnd scOk (writeDram a (attestReport n s) s)
    .next (notify N.ATTEST_DONE scOk 0 0 (s.updLcs fun l => { l with attest := none }))
  | none => .next s

/-- TAMPER_HOLD (R88): keys and seed cleared, an open transaction rolled back, transmitters off, SAFE_N asserted, and the log entry. -/
def tamperHold (s : State) : State :=
  let s := clearSeed (zeroiseAll (discardTxn s))
  let s := (assertSafe (portsOff s)).setF F.TOP_STATUS_STATE stTamperHold
  let s := if s.clk.core then s.setF F.CFG_STATUS_FAIL fcTamper else s
  startupEnd (notify N.START_FAIL scSafeHold 0 fcTamper s)

/-- A tamper event latched with the state in which it fell (R413). -/
def latchTamper (inputs whence : Nat) (s : State) : State :=
  ((s.setF F.TAM_STATUS_SEEN 1).setF F.TAM_STATUS_LATCHED inputs).setF F.TAM_STATUS_WHERE whence

/-- An LCS_CMD whose state fuse is still to be blown ends with ABORTED_ERASE (R413). -/
def abortLcs (s : State) : State :=
  if s.lcs.change.isSome then lcsEnd scAbortedErase 0 (s.updLcs fun l => { l with change := none }) else s

/-- What a tamper event does, by the state in which it falls (R88, R413). -/
def tamperEvent (inputs : Nat) (s : State) : State :=
  if !s.pins.vinValid || s.mode == stHibernate then
    let s := clearSeed (latchTamper inputs 2 s)
    { s with boot := { s.boot with tamperHib := true } }
  else if s.mode = stFrozen then clearSeed (latchTamper inputs 3 s)
  else if s.mode = stStarting then tamperHold (latchTamper inputs 0 s)
  else if s.mode = stTamperHold then s
  else
    let s := clearSeed (alarmErase 4 (abortLcs (latchTamper inputs 1 s)))
    tamperHold (notify N.TAMPER scAbortedErase 0 inputs s)

/-- TAMPER_EVENT: the inputs at their active level for FILTER samples; those with EN = 1 are active (R412, R413). -/
def execTamperEvent (dt : Nat) (inputs : BitVec 4) (s : State) : Host.Outcome State Fault Refusal :=
  let s := s.elapse dt
  let s := { s with pins := { s.pins with tamper := inputs.toNat } }
  let act := inputs.toNat &&& s.getF F.TAM_CFG_EN
  let new := act ^^^ (act &&& s.getF F.TAM_STATUS_LIVE)
  let s := s.setF F.TAM_STATUS_LIVE act
  .next (if new = 0 then s else tamperEvent act s)

/-- A write of TAM_CFG: by the owner, while LOCK is 0 (R412). -/
def writeTamCfg (m : Master) (w : Word) (s : State) : State :=
  if !s.owns m || s.getF F.TAM_CFG_LOCK == 1 then ignored m 0x138000 s else s.setReg 0x138000 (w &&& 0x800F00FF#32)

/-- TAM_CFG_WRITE. -/
def execTamCfgWrite (dt : Nat) (m : Master) (w : Word) (s : State) : Host.Outcome State Fault Refusal :=
  .next (gatedWrite m 0x138000 (writeTamCfg m w) (s.elapse dt))

end Sys2Proof.Machine
end

