-- ==== Sys2Proof/Machine/BootOps.lean ====
section
/-! DEFINITION. What the steps of start-up do (R54 to R92): the checks of the Kiln image, step 8 as one transaction, the calibrations of step 9, the warm-load, the entry
to AUTONOMOUS and to RESERVE. -/

namespace Sys2Proof.Machine

/-- CFG_STATUS.STEP, the last step started (R74). -/
def State.step (s : State) : Nat := s.getF F.CFG_STATUS_STEP

/-- A step starts. -/
def toStep (n : Nat) (s : State) : State := s.setF F.CFG_STATUS_STEP n

/-- The boot part of the state changed. -/
def State.updBoot (s : State) (f : Boot → Boot) : State := { s with boot := f s.boot }

/-- Start-up is in step `n`. -/
def inStep (n : Nat) (s : State) : Bool := s.mode == stStarting && s.clk.core && s.step == n

/-- Bits of OWN_N as this unit drives it and reads it (R456). -/
def assertOwnN (s : State) : State := (s.setF F.PAR_HB_STATUS_OWN_DRIVE 1).setF F.PAR_HB_STATUS_OWN_LINE 1

/-- Registers that RESERVE keeps: those of type D in the blocks that R37 leaves running (R84, R85). -/
def keptInReserve (a : Nat) : Bool :=
  (aonReg a || (0x10000 ≤ a && a < 0x20800) || (0x118000 ≤ a && a < 0x120000) || (0x134000 ≤ a && a < 0x138000) || (0x160000 ≤ a && a < 0x180000))
    && !(match regSpec? a with | some r => r.isT | none => false)

/-- Memory state that RESERVE keeps: what stands in DRAM, and no buffer, fence or pool (R37). -/
def reserveMem (m : Mem) : Mem :=
  { m with gens := [], holders := [], used := [], freed := [], minFree := none, lowArmed := true, fence := [] }

/-- What RESERVE leaves of the state: every register that a configuration wrote is at its reset value (R84, R85, R459). -/
def reserveState (s : State) : State :=
  { State.reset with
    clk := s.clk, pins := s.pins, fuses := s.fuses, dram := s.dram, mem := reserveMem s.mem, tamp := s.tamp, saf := s.saf
    boot := { s.boot with image := none, listenEnd := none, calLeft := [] }
    ctl := { State.reset.ctl with lease := s.ctl.lease, nextTag := s.ctl.nextTag }
    power := { State.reset.power with nrgFrac := s.power.nrgFrac, epf := s.power.epf, epfMixed := s.power.epfMixed }
    regs := s.regs.filter fun e => keptInReserve e.1
    cur := s.cur, lcs := s.lcs, frz := s.frz, time := { State.reset.time with d0 := s.time.d0, d1 := s.time.d1 }
    pair := { s.pair with claimAt := none, takeover := none, tkoBeacon := none, snap := none, snapKept := false, jackWait := [] }
    cph := { State.reset.cph with fcReset := s.cph.fcReset }
    cap0 := s.cap0, cap1 := s.cap1, out := s.out, draws := s.draws, lossPending := s.lossPending, detail := s.detail, pending := s.pending }

/-- RESERVE entered (R84, R85, R459): an applied configuration is discarded, and nothing transmits. -/
def enterReserve (s : State) : State :=
  let t := reserveState (discardTxn (portsOff s))
  let t := releaseOwnN ((t.setF F.CFG_STATUS_SEL 0).setF F.PAR_SNAP_BUSY 0)
  let t := (List.range 16).foldl (fun t n => t.setF (F.CFG_DIGEST_DIGEST n) 0) t
  let t := ((t.setF F.TOP_STATUS_STATE stReserve).setF F.TOP_STATUS_ROLE 1).setF F.TOP_STATUS_RF_UP 0
  startupEnd (syncMode (t.setF F.PAR_STATUS_JOURNAL 0))

/-- AUTONOMOUS entered at step 11 (R81, R72): the first boundary is placed, ownership begins, and a fuse raise is owed where the copy asks for it. -/
def enterAutonomous (s : State) : State :=
  let s := ((s.setF F.TOP_STATUS_STATE stAutonomous).setF F.CFG_STATUS_RESULT scOk).setF F.CFG_T_AUTO_TIME (aonMicros 0 s)
  let s := startupEnd (firstBoundary (syncMode s))
  let s := match s.boot.image with
    | some v => if v.arbAdvance && s.fuses.arb < v.secVer then ((s.setF F.CFG_ARB_TARGET v.secVer).setF F.CFG_STATUS_ARB_PENDING 1) else s
    | none => s
  if (List.range 16).any fun n => s.getF (F.SLT_BCN_PORT_EN n) == 1 then s else toStep 0xF s

/-- Enabled ports, in order (R79). -/
def enabledPorts (s : State) : List Nat := (List.range 16).filter fun n => portOn n s

/-- The ports of the group of `n` that are still to calibrate (R74, step 9). -/
def groupLeft (n : Nat) (l : List Nat) : List Nat := l.filter fun m => m / 4 == n / 4

/-- The next group of step 9 starts to calibrate (R74). -/
def startGroup (s : State) : State :=
  match s.boot.calLeft with
  | [] => s
  | n :: r => (groupLeft n (n :: r)).foldl (fun s m => startCal m s) s

/-- Step 9 ends once no calibration is left (R79). -/
def endCals (s : State) : State :=
  let on := enabledPorts s
  if !on.isEmpty && on.all (fun n => s.getF (F.RFP_STATUS_CAL_OK n) == 0) then startFail fcCalAll scSafeHold s else toStep 10 s

/-- Step 9 starts (R74, R79, R96). -/
def startCals (s : State) : State :=
  let s := toStep 9 s
  if !s.pins.vddFe then startFail fcCalAll scSafeHold s
  else
    let s := s.updBoot fun b => { b with calLeft := enabledPorts s }
    if s.boot.calLeft.isEmpty then endCals s else startGroup s

/-- The calibration of a port in step 9 has ended (R79). -/
def bootCalEnded (n : Nat) (ok : Bool) (s : State) : State :=
  if !inStep 9 s || !s.boot.calLeft.contains n then s
  else
    let s := s.updBoot fun b => { b with calLeft := b.calLeft.filter fun m => m != n }
    let s := if ok then s else s.setF F.CFG_STATUS_CAL_PARTIAL 1
    if s.boot.calLeft.isEmpty then endCals s
    else if (groupLeft n s.boot.calLeft).isEmpty then startGroup s
    else s

/-- Verdicts of R68. -/
def vdValid : Nat := 1

/-- The verdict on a copy by the checks of R68, in their order. -/
def verdict (c : Option CopyView) (s : State) : Nat :=
  match c with
  | none => 2
  | some v =>
    if !v.magicOk then 2
    else if v.imageLen < 1024 || 8388608 < v.imageLen || v.imageLen % 4 != 0 || v.sectionCount < 1 || 1024 < v.sectionCount || !v.bodiesInside then 3
    else if v.targetRev ≠ s.getF F.TOP_ID_REV then 4
    else if v.lcsMask / 2 ^ s.fuses.lifecycle % 2 = 0 then 5
    else if 64 < v.secVer ∨ v.secVer < s.fuses.arb then 8
    else if refHash s.fuses.lifecycle s ≠ some v.keyHash then 6
    else if !v.signatureOk then 7
    else vdValid

/-- The copy that R69 selects: its code of CFG_STATUS.SEL, or the FAIL code. -/
def selectCopy (a b : Option CopyView) (s : State) : Except Nat (Nat × CopyView) :=
  match (if verdict a s = vdValid then a else none), (if verdict b s = vdValid then b else none) with
  | some x, none => .ok (1, x)
  | none, some y => .ok (2, y)
  | some x, some y =>
    if y.secVer < x.secVer then .ok (1, x)
    else if x.secVer < y.secVer then .ok (2, y)
    else if x.digest = y.digest then .ok (1, x)
    else .error fcAmbiguous
  | none, none => .error fcNoImage

/-- CFG_DIGEST0 to CFG_DIGEST15 (R70). -/
def putDigest (digest : Nat) (s : State) : State :=
  let b := beBytes 64 digest
  (List.range 16).foldl (fun s n => s.setF (F.CFG_DIGEST_DIGEST n) (ofLe ((b.drop (4 * n)).take 4))) s

/-- A word of a register entry that step 8 refuses (R77). -/
def entryRefused8 (a : Nat) (w : Word) : Bool :=
  match regSpec? a with
  | some r => !r.isT || (w &&& ~~~r.assigned) != 0#32 || !valueOk a (w &&& r.rw)
  | none => true

/-- The entries of a REGS section from body offset `pos` on put into shadows; the offset of one that is refused (R77). -/
def applyRegs : Nat → List (Word × Word) → State → Except Nat State
  | _, [], s => .ok s
  | pos, (a, w) :: r, s =>
    if entryRefused8 a.toNat w then .error pos
    else applyRegs (pos + 8) r (putShadow a.toNat (match regSpec? a.toNat with | some q => w &&& q.rw | none => w) s)

/-- The data of a TABLE section from table offset `off` on put into shadows; the offset of a word that is refused (R77). -/
def applyTable (w : Nat) : Nat → Nat → List Word → State → Except Nat State
  | _, _, [], s => .ok s
  | pos, off, v :: r, s =>
    match tabMask w off with
    | none => .error pos
    | some m => if !tabValueOk w off (v &&& m) then .error pos else applyTable w (pos + 4) (off + 4) r (putShadow (tabKey w off) (v &&& m) s)

/-- Section `i` at its place in the order (R64, R77). -/
def applySection (i : Nat) (x : ImageSection) (s : State) : Except Nat State :=
  match x.body with
  | .regs es => applyRegs x.offset es s
  | .table w page off data =>
    if windowPages w ≤ page ∨ 0x40000 < off + 4 * data.length ∨ off % 4 ≠ 0 then .error x.offset
    else applyTable w (x.offset + 8) (page * 0x40000 + off) data s
  | .blobs _ _ => .ok s
  | .note => .ok s
  | .other => .error (256 + 16 * i)

/-- The sections from `i` on in table order. -/
def applySections : Nat → List ImageSection → State → Except Nat State
  | _, [], s => .ok s
  | i, x :: r, s => match applySection i x s with | .error p => .error p | .ok s => applySections (i + 1) r s

/-- The blobs of a section placed from a handle on, after the transaction has committed (R392). -/
def putBlobs : Nat → List (List Byte) → State → State
  | _, [], s => s
  | h, b :: r, s => putBlobs (h + 1) r (if h < 2 ^ 20 then s.setBytes (blobBase s + 80 * h) (fit 80 b) else s)

/-- The BLOBS sections of an image. -/
def putAllBlobs (l : List ImageSection) (s : State) : State :=
  l.foldl (fun s x => match x.body with | .blobs h bs => putBlobs h bs s | _ => s) s

/-- The store breaks R61. -/
def storeOutside (v : CopyView) (s : State) : Bool :=
  v.catPresent && (v.catOffset % 0x10000 != 0 || decide (v.catOffset < 0x1000000) || decide (131072 < v.catEntries)
    || decide (2 ^ s.getF F.CFG_NVM_STATUS_SIZE_LOG2 < v.catOffset + 512 * v.catEntries))

/-- The end of the tag-0 transaction: its result, and no notice (R126). -/
def closeTag0 (result : Nat) (s : State) : State :=
  let s := (s.setF F.TXN_STATUS_LAST_TAG 0).setF F.TXN_STATUS_LAST_RESULT result
  { s with ctl := { s.ctl with shadows := [] } }

/-- A copy that fails to apply: rolled back, with the place and the FAIL code (R77). -/
def applyFail (code pos : Nat) (s : State) : State :=
  startFail code scSafeHold (closeTag0 scDenied (s.setF F.CFG_FAIL_POS_OFFSET pos))

/-- Step 8 (R77). -/
def applyImage (v : CopyView) (s : State) : State :=
  match applySections 0 v.sections s with
  | .error p => applyFail fcApply p s
  | .ok t =>
    if storeOutside v s then applyFail fcCatRange 0 s
    else match tryCommit true t with
      | none => applyFail fcApply 0 s
      | some t => startCals (putAllBlobs v.sections (closeTag0 scOk t))

/-- The bytes of an entry that is empty. -/
def emptyEntry : List Byte := List.replicate 512 0

/-- A store entry that breaks R268 (R277). -/
def storeDup (nix : Nat) (e : List Byte) (s : State) : Bool := !entryUnique nix e s

/-- A VALID store entry as the load makes it (R277). -/
def loadedEntry (img : List Byte) (s : State) : List Byte :=
  let e := withG4 img (withG2 img (withG1 img (withG0 img emptyEntry)))
  let e := withG3 img e s
  let e := entPut e 24 4 (min (entNat img 24 4 + 2 ^ 20 * s.tamp.loads) 0xFFFFFFFF)
  let e := entPut e 28 4 (min (entNat img 16 4 + 2 ^ 16) 0xFFFFFFFF)
  entPutBits e 22 1 0 2

/-- One store entry loaded; a VALID one that breaks R268 with VALID = 0 (R277). The first such NIX is kept. -/
def loadEntry (acc : State × Option Nat) (x : Nat × List Byte) : State × Option Nat :=
  let (s, dup) := acc
  let img := fit 512 x.2
  if !entValid img then (s, dup)
  else
    let e := loadedEntry img s
    if storeDup x.1 e s then
      (s.incF (F.CAT_CNT_COUNT 8) |>.setBytes (entAddr x.1 s) (entPutBits e 10 7 7 0), some (dup.getD x.1))
    else (recount x.1 emptyEntry e (s.setBytes (entAddr x.1 s) e), dup)

/-- The entries of the store in order of their NIX. -/
def loadStore (es : List (Nat × List Byte)) (s : State) : State × Option Nat := es.foldl loadEntry (s, none)

/-- LOADS one further, and shown (R277). -/
def countLoad (s : State) : State :=
  let s := s.updTamp fun t => { t with loads := min (t.loads + 1) 4095 }
  s.setF F.CAT_STATUS_LOADS s.tamp.loads

/-- Step 10 with a store (R80, R277). -/
def warmLoad (v : CopyView) (es : List (Nat × List Byte)) (digestOk : Bool) (s : State) : State :=
  if !v.catPresent then toStep 11 s
  else if !digestOk then startFail fcCatDigest scSafeHold s
  else
    let (s, dup) := loadStore (es.filter fun x => x.1 < v.catEntries) s
    let s := countLoad s
    toStep 11 (match dup with | some n => notify N.LOAD_DUP scDenied 0 n s | none => s)

end Sys2Proof.Machine
end

