-- ==== Sys2Proof/Machine/Radio.lean ====
section
/-! DEFINITION. Radio ports: transmit commands, front-end timing, emission monitors, coexistence and calibration (R150 to R174, R547, R548). -/

namespace Sys2Proof.Machine

/-- A command as the exchange engine issues it now. -/
def newHeld (c : TxCmd) (s : State) : Held :=
  ⟨c, s.clk.slot, slotEndAfter (c.launch.getD s.clk.slot) s, false, false, 0, false⟩

/-- TX_COMMAND: the exchange engine issues a transmit command to a port (R154, R158 to R160, R172, R548). -/
def execTxCommand (dt : Nat) (n : Fin 16) (c : TxCmd) (s : State) : Host.Outcome State Fault Refusal :=
  let s := s.elapse dt
  if !s.clk.running then .next s else
  let s := s.updXch fun x => { x with ready := x.ready.erase (n.val, c) }
  let (h, s) := preCharge n (newHeld c s) s
  .next (issueCmd n h s)

/-- The ACK that took a port has neither launched nor failed (R548). -/
def ackPending (n : Nat) (s : State) : Bool :=
  match (s.port n).held with
  | some o => o.cmd.kind == .ack && (s.port n).begun.isNone
  | none => false

/-- HANDED_BACK_REISSUE: a command that the port handed back is issued again once the ACK has launched or failed (R548). -/
def execHandedBackReissue (dt : Nat) (n : Fin 16) (s : State) : Host.Outcome State Fault Refusal :=
  let s := s.elapse dt
  if !s.clk.running then .next s else
  if ackPending n s then .next s else
  match (s.port n).waiting.find? (·.handed) with
  | some h => .next (issueCmd n { h with handed := false } (s.updPort n fun p => { p with waiting := p.waiting.erase h }))
  | none => .next s

/-- SETTLE_START: L − TRSW_LEAD − 80 µs of the held command is reached (R154). -/
def execSettleStart (dt : Nat) (n : Fin 16) (s : State) : Host.Outcome State Fault Refusal :=
  let s := s.elapse dt
  if !s.clk.running then .next s else
  match (s.port n).held with
  | some h =>
    match h.cmd.launch with
    | some l =>
      if (s.pstate n = psRx ∨ s.pstate n = psTxReady ∨ (s.pstate n = psSettle ∧ (s.port n).target ≠ h.cmd.khz)) ∧ settleAt n l s ≤ s.clk.slot ∧ !calHolds n h s then
        .next (settleFor n h s)
      else .next s
    | none => .next s
  | none => .next s

/-- The synthesiser of a port locks at its target (R151, R547). -/
def synthLock (n : Nat) (s : State) : State :=
  let st := s.pstate n
  if st = psSettle ∨ (st = psQuiet ∧ (s.port n).locked = none) then
    let s := (s.setF (F.RFP_STATUS_LOCK n) 1).updPort n fun p => { p with locked := some p.target }
    if st = psQuiet then s.setF (F.RFP_STATUS_BLANK n) 0
    else match (s.port n).held with
    | some h =>
      if (s.port n).target = h.cmd.khz then tryLaunch n (setPstate n psTxReady s)
      else setPstate n psRx (s.setF (F.RFP_STATUS_BLANK n) 0)
    | none => setPstate n psRx (s.setF (F.RFP_STATUS_BLANK n) 0)
  else s

/-- SYNTH_LOCK. -/
def execSynthLock (dt : Nat) (n : Fin 16) (s : State) : Host.Outcome State Fault Refusal :=
  let s := s.elapse dt
  if !s.clk.running then .next s else .next (synthLock n s)

/-- LAUNCH_START: the start point of the held command is reached (R155 to R158). -/
def execLaunchStart (dt : Nat) (n : Fin 16) (s : State) : Host.Outcome State Fault Refusal :=
  let s := s.elapse dt
  if !s.clk.running then .next s else .next (acceptNext n (tryLaunch n s))

/-- COEX_REQ_ASSERT: S − LEAD_US of a held timed command is reached for pair `k` (R169). -/
def execCoexReqAssert (dt : Nat) (n : Fin 16) (k : Fin 4) (s : State) : Host.Outcome State Fault Refusal :=
  let s := s.elapse dt
  if !s.clk.running then .next s else
  match (s.port n).held with
  | some h => if (dueReqs n h s).contains k.val then .next (assertReq n [k.val] s) else .next s
  | none => .next s

/-- COEX_GNT_CHANGE: the level of COEX_GNTk changes, which may give held commands their ready point (R169). -/
def execCoexGntChange (dt : Nat) (k : Fin 4) (level : Bool) (s : State) : Host.Outcome State Fault Refusal :=
  let s := s.elapse dt
  if !s.clk.running then .next s else
  let g := s.radio.gnt - s.radio.gnt / 2 ^ k.val % 2 * 2 ^ k.val + bit level * 2 ^ k.val
  let s := { s with radio := { s.radio with gnt := g } }
  .next ((List.range 16).foldl (fun s n => if (boundPairs n s).contains k.val then tryLaunch n s else s) s)

/-- COEX_LEAD_ELAPSED: LEAD_US has passed since a request of an as-soon-as-possible command (R169). -/
def execCoexLeadElapsed (dt : Nat) (n : Fin 16) (s : State) : Host.Outcome State Fault Refusal :=
  let s := s.elapse dt
  if !s.clk.running then .next s else .next (tryLaunch n s)

/-- Whether a FRAME or BEACON has passed R156, or an ACK R157. -/
def waitLate (n : Nat) (h : Held) (s : State) : Bool :=
  match h.cmd.kind with
  | .ack => decide (startPoint n h s + 20 * us < s.clk.slot)
  | _ => decide (startPoint n h s ≤ s.clk.slot ∧ remaining h s < lateLimit n s)

/-- TX_LATE: a FRAME or BEACON command that is held, or that waits for its port, has less than LATE_LIMIT_US left (R156, R548). -/
def execTxLate (dt : Nat) (n : Fin 16) (s : State) : Host.Outcome State Fault Refusal :=
  let s := s.elapse dt
  if !s.clk.running then .next s else
  match (s.port n).held with
  | some h =>
    if h.cmd.kind != .ack && (s.port n).begun.isNone && waitLate n h s then
      .next (acceptNext n (failHeld n scLate (lateReason n h s) s))
    else match (s.port n).waiting.find? fun w => w.cmd.kind != .ack && w.waits && waitLate n w s with
      | some w => .next (endWaiting n w scLate 8 s)
      | none => .next s
  | none =>
    match (s.port n).waiting.find? fun w => w.cmd.kind != .ack && w.waits && waitLate n w s with
    | some w => .next (endWaiting n w scLate 8 s)
    | none => .next s

/-- ACK_LATE: an ACK has not reached its ready point 20 µs after S (R157). -/
def execAckLate (dt : Nat) (n : Fin 16) (s : State) : Host.Outcome State Fault Refusal :=
  let s := s.elapse dt
  if !s.clk.running then .next s else
  match (s.port n).held with
  | some h =>
    if h.cmd.kind == .ack && (s.port n).begun.isNone && waitLate n h s then
      .next (acceptNext n (failHeld n scLate (lateReason n h s) s))
    else match (s.port n).waiting.find? fun w => w.cmd.kind == .ack && waitLate n w s with
      | some w => .next (endWaiting n w scLate 8 s)
      | none => .next s
  | none =>
    match (s.port n).waiting.find? fun w => w.cmd.kind == .ack && waitLate n w s with
    | some w => .next (endWaiting n w scLate 8 s)
    | none => .next s

/-- E of the PPDU in progress, on the slot clock. -/
def ppduEnd (n : Nat) (h : Held) (s : State) : Nat := (s.port n).begun.getD 0 + trswLead n s + h.cmd.airtime

/-- PPDU_END: the last PPDU bit leaves; the command ends with OK (R159, R161). -/
def execPpduEnd (dt : Nat) (n : Fin 16) (s : State) : Host.Outcome State Fault Refusal :=
  let s := s.elapse dt
  if !s.clk.running then .next s else
  match (s.port n).held with
  | some h =>
    if s.pstate n = psTx ∧ (s.port n).sent = false ∧ ppduEnd n h s ≤ s.clk.slot then
      let s := recordOutcome n scOk 0 (s.updPort n fun p => { p with sent := true })
      .next (onTxEnd n h true scOk s)
    else .next s
  | none => .next s

/-- TX_SEQUENCE_END: TRSW_n returns to receive at E + RAMP + TRSW_LAG and the return state is entered (R152, R161, R169). -/
def execTxSequenceEnd (dt : Nat) (n : Fin 16) (s : State) : Host.Outcome State Fault Refusal :=
  let s := s.elapse dt
  if !s.clk.running then .next s else
  match (s.port n).held with
  | some h =>
    if s.pstate n = psTx ∧ (s.port n).sent ∧ ppduEnd n h s + (s.getF (F.RFP_FE_TIMING_RAMP n) + s.getF (F.RFP_FE_TIMING_TRSW_LAG n)) * us ≤ s.clk.slot then
      let s := dropReq n (s.updPort n fun p => { p with held := none, begun := none, sent := false, overCnt := 0 })
      if (s.port n).stopping then .next (portOff n s) else .next (acceptNext n (toReturnState n h.cmd.khz s))
    else .next s
  | none => .next s

/-- TXR_HOLD_EXPIRE: TXR_HOLD ends in TX_READY without a command (R152). -/
def execTxrHoldExpire (dt : Nat) (n : Fin 16) (s : State) : Host.Outcome State Fault Refusal :=
  let s := s.elapse dt
  if !s.clk.running then .next s else
  match (s.port n).holdEnd with
  | some e => if s.pstate n = psTxReady ∧ (s.port n).held = none ∧ e ≤ s.clk.slot then .next (towardRx n s) else .next s
  | none => .next s

/-- TX_COMMAND_WITHDRAW: the exchange engine withdraws the held command, which ends CANCELLED with REASON 0x0 (R159). -/
def execTxCommandWithdraw (dt : Nat) (n : Fin 16) (s : State) : Host.Outcome State Fault Refusal :=
  let s := s.elapse dt
  if !s.clk.running then .next s else
  if (s.port n).begun.isNone then .next (acceptNext n (failHeld n scCancelled 0 s)) else .next s

/-- An emission fault (R167): the driver forced off, the PPDU cut, the port in QUIET, and the device-wide reaction of class DF-B. -/
def emitFault (n b : Nat) (s : State) : State :=
  let s := (s.setF ⟨0x40040 + 32768 * n, b, b⟩ 1).incF (F.RFP_CNT_COUNT n 4)
  let s := endHeld n scSafeHold 6 s
  let s := quietPort n s
  let s := notify (N.EMIT_FAULT n) scSafeHold n (s.reg (0x40040 + 32768 * n)).toNat s
  enterSafe 1 s

/-- EMIT_POWER_CHECK: the 50 µs measurement of the driver output in quarter dB during the PPDU (R167). -/
def execEmitPowerCheck (dt : Nat) (n : Fin 16) (meas : Int) (s : State) : Host.Outcome State Fault Refusal :=
  let s := s.elapse dt
  if !s.clk.running then .next s else
  if s.pstate n = psTx ∧ (s.port n).sent = false ∧ (s.port n).begun.getD 0 + trswLead n s ≤ s.clk.slot then
    let tooMuch := decide (toSigned 8 (s.getF (F.RFP_TX_LAST_APPLIED n)) + 8 < meas ∨ toSigned 8 (s.getF (F.RFP_TXPWR_MAX n)) + 4 < meas)
    if !tooMuch then .next (s.updPort n fun p => { p with overCnt := 0 })
    else if (s.port n).overCnt = 0 then .next (s.updPort n fun p => { p with overCnt := 1 })
    else .next (emitFault n 0 s)
  else .next s

/-- EMIT_FREQ_CHECK: the 100 µs comparison in TX_READY or TX: lock, and the measured frequency in Hz (R167). -/
def execEmitFreqCheck (dt : Nat) (n : Fin 16) (locked : Bool) (hz : Nat) (s : State) : Host.Outcome State Fault Refusal :=
  let s := s.elapse dt
  if !s.clk.running then .next s else
  if s.pstate n = psTxReady ∨ s.pstate n = psTx then
    let want := 1000 * (match (s.port n).held with | some h => h.cmd.khz | none => (s.port n).target)
    let bad := !locked || decide (want + 50000 < hz ∨ hz + 50000 < want) || decide (hz < 1000 * s.getF (F.RFP_PERMIT_LO_KHZ n) ∨ 1000 * s.getF (F.RFP_PERMIT_HI_KHZ n) < hz)
    if bad then .next (emitFault n 1 s) else .next s
  else .next s

/-- EMIT_DURATION_EXPIRE: L + TIMEOUT_MS is reached with the PPDU still in progress (R167). -/
def execEmitDurationExpire (dt : Nat) (n : Fin 16) (s : State) : Host.Outcome State Fault Refusal :=
  let s := s.elapse dt
  if !s.clk.running then .next s else
  match (s.port n).held with
  | some h =>
    let l := (s.port n).begun.getD 0 + trswLead n s
    if s.pstate n = psTx ∧ (s.port n).sent = false ∧ l + s.getF (F.RFP_TXLIM_TIMEOUT_MS n) * ms ≤ s.clk.slot ∧ s.clk.slot < ppduEnd n h s then
      .next (emitFault n 2 s)
    else .next s
  | none => .next s

/-- Sub-windows of WINDOW_S / 64 that have ended since the current one began (R168). -/
def dutySub (n : Nat) (s : State) : Nat := s.getF (F.RFP_DUTY_WINDOW_S n) * (sec / 64)
def dutyPassed (n : Nat) (s : State) : Nat := (s.clk.now - (s.port n).dutyAt) / dutySub n s

/-- DUTY_SUBWINDOW: the current sub-window has ended, and a new one begins (R168). -/
def execDutySubwindow (dt : Nat) (n : Fin 16) (s : State) : Host.Outcome State Fault Refusal :=
  let s := s.elapse dt
  if !s.clk.running then .next s else
  let k := dutyPassed n s
  if k = 0 then .next s else
  .next (syncDuty n (s.updPort n fun p => { p with duty := (List.replicate (min k 64) 0 ++ p.duty).take 64, dutyAt := p.dutyAt + k * dutySub n s, dutyNoticed := false }))

/-- TJ_SAMPLE: the port's sensor in °C (R164). -/
def execTjSample (dt : Nat) (n : Fin 16) (t : Int) (s : State) : Host.Outcome State Fault Refusal :=
  let s := s.elapse dt
  if !s.clk.running then .next s else
  .next (syncComp n ((s.updPort n fun p => { p with tj := t }).setF (F.RFP_STATUS_TJ n) (ofSigned 8 t)))

/-- VIN_SAMPLE: VIN in mV (R164). -/
def execVinSample (dt : Nat) (mv : Nat) (s : State) : Host.Outcome State Fault Refusal :=
  let s := s.elapse dt
  if !s.clk.running then .next s else
  let s := { s with radio := { s.radio with vinMv := mv } }
  .next ((List.range 16).foldl (fun s n => syncComp n s) s)

/-- A write of RFPn_CAL_CTRL (R170, R171, R173). -/
def writeCalCtrl (m : Master) (n : Nat) (w : Word) (s : State) : State :=
  if !s.owns m then ignored m (0x40034 + 32768 * n) s
  else if bitsOf w 0 0 = 0 ∨ s.getF (F.RFP_CTRL_ENABLE n) = 0 then s
  else if s.pstate n = psOff then (if s.getF (F.RFP_CAL_STATUS_LAST n) = 2 then startCal n s else s)
  else pendCal n s

/-- CAL_REQ. -/
def execCalReq (dt : Nat) (m : Master) (n : Fin 16) (w : Word) (s : State) : Host.Outcome State Fault Refusal :=
  .next (gatedWrite m (0x40034 + 32768 * n) (writeCalCtrl m n w) (s.elapse dt))

/-- CAL_TEMP_CHECK: |Tj − TJ_CAL| has reached DELTA_C; 0 disables (R170). -/
def execCalTempCheck (dt : Nat) (n : Fin 16) (s : State) : Host.Outcome State Fault Refusal :=
  let s := s.elapse dt
  if !s.clk.running then .next s else
  let d := s.getF (F.RFP_CAL_CFG_DELTA_C n)
  let diff := ((s.port n).tj - toSigned 8 (s.getF (F.RFP_CAL_STATUS_TJ_CAL n))).natAbs
  if d ≠ 0 ∧ d ≤ diff ∧ s.pstate n ≠ psOff ∧ (s.port n).cal.lastOk.isSome then .next (pendCal n s) else .next s

/-- CAL_PERIOD_EXPIRE: PERIOD_H hours have passed since the last success; 0 disables (R170). -/
def execCalPeriodExpire (dt : Nat) (n : Fin 16) (s : State) : Host.Outcome State Fault Refusal :=
  let s := s.elapse dt
  if !s.clk.running then .next s else
  let p := s.getF (F.RFP_CAL_CFG_PERIOD_H n)
  match (s.port n).cal.lastOk with
  | some t => if p ≠ 0 ∧ s.pstate n ≠ psOff ∧ t + p * 3600 * sec ≤ s.clk.now then .next (pendCal n s) else .next s
  | none => .next s

/-- The deferral of a pending calibration in ms. -/
def deferral (n : Nat) (s : State) : Nat := (s.clk.now - (s.port n).cal.since) / ms

/-- CAL_START: the slot boundary at which a pending calibration starts: no boundary came within CAL_MAX_DEFER_MS of the trigger and it is forced, or the slots of the next 6 ms are free on the port (R172). -/
def execCalStart (dt : Nat) (n : Fin 16) (s : State) : Host.Outcome State Fault Refusal :=
  let s := s.elapse dt
  if !s.clk.running then .next s else
  let forced := decide ((s.port n).cal.since + s.getF (F.RFP_CAL_CFG_CAL_MAX_DEFER_MS n) * ms < s.clk.now)
  let free := portFree n s.clk.slot (6 * ms) s
  if (s.port n).cal.phase = 1 ∧ s.clk.slot = s.bound ∧ s.pstate n ≠ psQuiet ∧ s.pstate n ≠ psOff ∧ (forced ∨ free) then
    let d := min (deferral n s) 0xFFFF
    let s := ((s.setF (F.RFP_CAL_STATUS_PENDING n) 0).setF (F.RFP_CAL_STATUS_RUNNING n) 1).setF (F.RFP_CAL_STATUS_DEFER_MS n) d
    let s := if forced then notify (N.CAL_FORCED n) scOk n d (s.incF (F.RFP_CNT_COUNT n 7)) else s
    let s := blankPort n (s.setF (F.RFP_STATUS_BLANK n) 1)
    .next (s.updPort n fun p => { p with cal := { p.cal with phase := 2, boundary := s.clk.slot } })
  else .next s

/-- CAL_ENTER: the PPDU and the acks in progress at the chosen boundary are complete (R172). -/
def execCalEnter (dt : Nat) (n : Fin 16) (s : State) : Host.Outcome State Fault Refusal :=
  let s := s.elapse dt
  if !s.clk.running then .next s else
  let busy := (s.port n).begun.isSome || (match (s.port n).held with | some h => !calHolds n h s | none => false)
  if (s.port n).cal.phase = 2 ∧ busy = false then
    let s := setPstate n psCal (s.setF (F.RFP_STATUS_LOCK n) 0)
    .next (s.updPort n fun p => { p with locked := none, holdEnd := none, cal := { p.cal with phase := 3, start := s.clk.now } })
  else .next s

/-- A calibration succeeded (R151, R171, R547): QUIET while the safe state is in force, otherwise on toward a held command or the receive centre. -/
def calOk (n : Nat) (s : State) : State :=
  let t := (s.clk.now - (s.port n).cal.start) / us
  let s := ((s.setF (F.RFP_CAL_STATUS_LAST n) 1).setF (F.RFP_CAL_STATUS_REASON n) 0).setF (F.RFP_CAL_STATUS_TJ_CAL n) (ofSigned 8 (s.port n).tj)
  let s := ((s.setF (F.RFP_STATUS_CAL_OK n) 1).setF (F.RFP_CAL_STATUS_RUNNING n) 0).incF (F.RFP_CNT_COUNT n 5)
  let s := s.updPort n fun p => { p with cal := { p.cal with phase := 0, lastOk := some s.clk.now } }
  let s := notify (N.CAL_DONE n) scOk n (ofSigned 8 (s.port n).tj * 2 ^ 16 + t) s
  if s.getF F.SAF_STATUS_SAFE = 1 then setPstate n psQuiet (retune n (centre n s) (drainQuiet n (endHeld n scSafeHold 5 s)))
  else match (s.port n).held with
  | some h => if (match h.cmd.launch with | some l => decide (settleAt n l s ≤ s.clk.slot) | none => true) then settleFor n h s else settle n (centre n s) s
  | none => acceptNext n (settle n (centre n s) s)

/-- A calibration failed at a step: the port enters OFF and stays there (R171). -/
def calFail (n step : Nat) (s : State) : State :=
  let s := portOff n s
  let s := ((s.setF (F.RFP_CAL_STATUS_LAST n) 2).setF (F.RFP_CAL_STATUS_REASON n) step).setF (F.RFP_STATUS_CAL_OK n) 0
  notify (N.CAL_FAIL n) scTimeout n step (s.incF (F.RFP_CNT_COUNT n 6))

/-- CAL_END: the calibration converged, or failed at step 1 to 3 (R171); in step 9 of start-up it may end the step (R79). -/
def execCalEnd (dt : Nat) (n : Fin 16) (failed : Option (Fin 3)) (s : State) : Host.Outcome State Fault Refusal :=
  let s := s.elapse dt
  if !s.clk.running then .next s else
  if s.pstate n = psCal ∧ (s.port n).cal.phase = 3 then
    match failed with
    | none => .next (bootCalEnded n true (calOk n s))
    | some i => .next (bootCalEnded n false (calFail n (i.val + 1) s))
  else .next s

end Sys2Proof.Machine
end

