-- ==== Sys2Proof/Machine/Time.lean ====
section
/-! DEFINITION. Network time: increments, steps, holdover, IEEE 1588 exchanges, divergence and pulse per second (R415 to R434). -/

namespace Sys2Proof.Machine

/-- The step counter base of a domain in TIM_CNT_k. -/
def timCnt (n k : Nat) : Field := F.TIM_CNT_COUNT (4 * n + k)

/-- A write of TIM_Dn_INC_HI: both words apply together; an INC of zero is refused (R418, R419). -/
def writeIncHi (m : Master) (n : Nat) (w : Word) (s : State) : State :=
  let addr := 0x140124 + 256 * n
  if !s.owns m then ignored m addr s
  else
    let inc := s.getF (F.TIM_D_INC_LO_INC n) + bitsOf w 2 0 * 2 ^ 32
    if inc = 0 then ignored m addr s
    else
      let s := (s.setF (F.TIM_D_INC_HI_INC n) (bitsOf w 2 0)).setF (F.TIM_D_EXCH_STATUS_HOLDOVER n) 0
      s.updDomain n fun d => { d with inc := inc, incAt := s.clk.now }

/-- TIM_INC_WRITE. -/
def execTimIncWrite (dt : Nat) (m : Master) (n : Fin 2) (w : Word) (s : State) : Host.Outcome State Fault Refusal :=
  .next (gatedWrite m (0x140124 + 256 * n) (writeIncHi m n w) (s.elapse dt))

/-- HOLDOVER: INC has not been written for HOLD_S seconds (R419). -/
def execHoldover (dt : Nat) (n : Fin 2) (s : State) : Host.Outcome State Fault Refusal :=
  let s := s.elapse dt
  if !s.clk.running then .next s else
  if timRuns s ∧ s.getF (F.TIM_D_EXCH_STATUS_HOLDOVER n) = 0 ∧ (s.domain n).incAt + s.getF (F.TIM_D_HOLD_VALUE n) * sec ≤ s.clk.now then
    .next (notify N.HOLDOVER scTimeout 0 n (s.setF (F.TIM_D_EXCH_STATUS_HOLDOVER n) 1))
  else .next s

/-- STEP_STATUS.STATE set, with the ARMED bit of TIM_STATUS. -/
def stepState (n st : Nat) (s : State) : State :=
  (s.setF (F.TIM_D_STEP_STATUS_STATE n) st).setF ⟨0x140020, 4 + n, 4 + n⟩ (bit (s.domain n).armed.isSome)

/-- The alignment offset set, with TIM_OFS (R423). -/
def setOfs (v : Int) (s : State) : State :=
  { s with time := { s.time with ofs := toSigned 64 (ofSigned 64 v) } }.set64 F.TIM_OFS_LO_OFS F.TIM_OFS_HI_OFS (ofSigned 64 v)

/-- An applied step (R421). -/
def applyStep (n : Nat) (ns : Int) (s : State) : State :=
  let s := s.updDomain n fun d => { d with t := ((d.t : Int) + ns * 2 ^ 32).toNat, epoch := (d.epoch + 1) % 65536, armed := none }
  let s := stepState n 1 s
  let s := if selDomain s = n then setOfs (s.time.ofs + ns) s else s
  notify N.STEP scOk 0 (n * 2 ^ 16 + (s.domain n).epoch) (s.incF (timCnt n 3))

/-- A write of TIM_Dn_STEP_NS (R420): NS kept, and with GO the step refused, with NS as it was, armed or applied. -/
def writeStepNs (m : Master) (n : Nat) (w : Word) (s : State) : State :=
  let addr := 0x14012c + 256 * n
  if !s.owns m then ignored m addr s
  else
    let old := s.getF (F.TIM_D_STEP_NS_NS n)
    let s := s.setF (F.TIM_D_STEP_NS_NS n) (bitsOf w 29 0)
    if bitsOf w 31 31 = 0 then s
    else
      let ns : Int := toSigned 32 (s.getF (F.TIM_D_STEP_SEC_SEC n)) * 1000000000 + (bitsOf w 29 0 : Nat)
      let armed := match (s.domain n).armed with
        | some (v, at_) => decide (v = ns) && decide (s.clk.slot < at_ + sec)
        | none => false
      let s := s.updDomain n fun d => { d with armed := none }
      let res : Int := ((s.domain n).t : Int) + ns * 2 ^ 32
      if 999999999 < bitsOf w 29 0 ∨ ns = 0 ∨ res < 0 ∨ (2 ^ 64 * unitsPerSec : Nat) ≤ res then ignored m addr (stepState n 3 (s.setF (F.TIM_D_STEP_NS_NS n) old))
      else if ns < -(s.getF F.TIM_STEP_CFG_BACK_LIMIT_MS * 1000000 : Nat) ∧ armed = false then
        let s := s.updDomain n fun d => { d with armed := some (ns, s.clk.slot) }
        notify N.STEP_ARMED scOk 0 (n * 2 ^ 16) (stepState n 2 s)
      else applyStep n ns s

/-- TIM_STEP. -/
def execTimStep (dt : Nat) (m : Master) (n : Fin 2) (w : Word) (s : State) : Host.Outcome State Fault Refusal :=
  .next (gatedWrite m (0x14012c + 256 * n) (writeStepNs m n w) (s.elapse dt))

/-- STEP_ARM_EXPIRE: an armed step is not confirmed within 1 s on the slot clock (R420). -/
def execStepArmExpire (dt : Nat) (n : Fin 2) (s : State) : Host.Outcome State Fault Refusal :=
  let s := s.elapse dt
  if !s.clk.running then .next s else
  match (s.domain n).armed with
  | some (_, at_) => if at_ + sec ≤ s.clk.slot then .next (voidArm n s) else .next s
  | none => .next s

/-- A write of TIM_CMD (R423). -/
def writeTimCmd (m : Master) (w : Word) (s : State) : State :=
  if !s.owns m then ignored m 0x14000c s else if bitsOf w 0 0 = 1 then setOfs 0 s else s

/-- CLR_OFS. -/
def execClrOfs (dt : Nat) (m : Master) (w : Word) (s : State) : Host.Outcome State Fault Refusal :=
  .next (gatedWrite m 0x14000c (writeTimCmd m w) (s.elapse dt))

/-- A 64-byte TSU record (R427). -/
def tsuRecord (port : Nat) (tx oneStep : Bool) (p : PtpMsg) (s : State) : List Byte :=
  let n := 2 ^ s.getF F.TSU_RING_CTRL_LOG2N
  let phase := s.getF F.TSU_RING_WR_COUNT / n % 2
  let dom (d : Domain) : List Byte := leBytes 6 (d.t / unitsPerSec) ++ leBytes 2 d.epoch ++ leBytes 4 (d.t % unitsPerSec / 2 ^ 32)
  leBytes 8 s.clk.slot ++ leBytes 2 p.seq.toNat
    ++ [BitVec.ofNat 8 (16 * p.msg.val), BitVec.ofNat 8 (bit tx * 128 + port * 64 + bit oneStep * 32 + phase * 16), p.domain, 0]
    ++ leBytes 10 p.spid.toNat ++ dom s.time.d0 ++ dom s.time.d1 ++ leBytes 8 (ofSigned 64 p.corr) ++ leBytes 8 0

/-- A TSU record written to its ring, or lost (R427). -/
def tsuWrite (rec : List Byte) (s : State) : State :=
  let n := 2 ^ s.getF F.TSU_RING_CTRL_LOG2N
  let full := (s.getF F.TSU_RING_WR_COUNT + 2 ^ 32 - s.getF F.TSU_RING_RD_COUNT) % 2 ^ 32 == n
  if s.getF F.TSU_RING_CTRL_EN = 0 then s
  else if full then
    let s := s.satF F.TSU_LOST_LOST 1
    if s.time.tsuLost then s
    else notify N.TSU_LOST scOk 0 (s.getF F.TSU_LOST_LOST) { s with time := { s.time with tsuLost := true } }
  else
    let base := s.getF F.TSU_RING_BASE_BASE / (64 * n) * (64 * n)
    let s := (s.setBytes (base + 64 * (s.getF F.TSU_RING_WR_COUNT % n)) rec).incF F.TSU_RING_WR_COUNT
    { s with time := { s.time with tsuLost := false } }

/-- The sourcePortIdentity of a domain's master, first byte lowest, portNumber big-endian as in the message (TIM_Dn_MASTER). -/
def masterSpid (n : Nat) (s : State) : Nat :=
  let p := s.getF (F.TIM_D_MASTER_PORT_ID n)
  s.getF (F.TIM_D_MASTER_LO_ID n) + s.getF (F.TIM_D_MASTER_HI_ID n) * 2 ^ 32 + (p / 256) * 2 ^ 64 + (p % 256) * 2 ^ 72

/-- A received message takes part in domain `n`'s exchange (R428). -/
def ptpFor (n port : Nat) (p : PtpMsg) (rx : Bool) (s : State) : Bool :=
  s.getF (F.TIM_D_PTP_CFG_EN n) == 1 && s.getF (F.TIM_D_PTP_CFG_PORT n) == port && s.getF (F.TIM_D_PTP_CFG_DOMAIN_NUM n) == p.domain.toNat
    && (!rx || p.spid.toNat == masterSpid n s)

/-- A value in ns put into a signed register of 32 bits. -/
def putNs (f : Field) (v : Int) (s : State) : State := s.setF f (ofSigned 32 v)

/-- The OFFSET of a Sync under the estimate in force (R428). -/
def putOffset (n : Nat) (y : SyncInfo) (s : State) : State :=
  match y.t1 with
  | none => s
  | some t1 =>
    let est := toSigned 32 (s.getF (F.TIM_D_DELAY_EST_VALUE n))
    let asym := toSigned 32 (s.getF (F.TIM_D_ASYM_VALUE n))
    let off := ((y.t2 - t1) * 65536 - y.corr).tdiv 65536 - est - asym
    s.set64 (F.TIM_D_OFFSET_LO_VALUE n) (F.TIM_D_OFFSET_HI_VALUE n) (ofSigned 64 off)

/-- DELAY_EST after an exchange with raw MPD `mpd` (R429). -/
def delayEst (n : Nat) (mpd : Int) (s : State) : State :=
  if s.getF (F.TIM_D_EXCH_STATUS_FROZEN n) = 1 then s
  else
    let est := toSigned 32 (s.getF (F.TIM_D_DELAY_EST_VALUE n))
    if (s.domain n).fresh then putNs (F.TIM_D_DELAY_EST_VALUE n) mpd (s.updDomain n fun d => { d with fresh := false })
    else putNs (F.TIM_D_DELAY_EST_VALUE n) (est + (mpd - est).tdiv (2 ^ s.getF (F.TIM_D_PTP_CFG_AVG_LOG2 n))) s

/-- The comparison of PATH_STEP with the previous exchange (R429). -/
def pathStep (n : Nat) (mpd : Int) (s : State) : State :=
  let d := match (s.domain n).prevMpd with | some p => (mpd - p).natAbs | none => 0
  let s := s.updDomain n fun x => { x with prevMpd := some mpd }
  if s.getF (F.TIM_D_PATH_THRESH_VALUE n) < d then
    let s := (s.setF (F.TIM_D_EXCH_STATUS_PATH_STEP n) 1).setF (F.TIM_D_EXCH_STATUS_FROZEN n) 1
    notify N.PATH_STEP scOk 0 (n * 2 ^ 31 + min d (2 ^ 31 - 1)) (s.incF (timCnt n 2))
  else s

/-- A complete exchange (R428, R429). -/
def completeExchange (n : Nat) (mpd : Int) (y : Option SyncInfo) (s : State) : State :=
  let s := putNs (F.TIM_D_MPD_VALUE n) mpd (s.incF (timCnt n 0))
  let s := delayEst n mpd (pathStep n mpd s)
  let s := s.setF (F.TIM_D_EXCH_STATUS_VALID n) 1
  let s := s.updDomain n fun d => { d with req := none }
  match y with
  | some y => putOffset n y (s.setF (F.TIM_D_EXCH_STATUS_SEQ n) y.seq)
  | none => s

/-- An event message in domain `n`'s exchange (R428): Sync and Pdelay_Resp received, Delay_Req and Pdelay_Req transmitted. -/
def ptpEvent (n port : Nat) (tx : Bool) (p : PtpMsg) (s : State) : State :=
  if !ptpFor n port p (!tx) s then s
  else
    let t := (s.domain n).ns
    let e2e := s.getF (F.TIM_D_PTP_CFG_MECH n) == 0
    if p.msg = 0 ∧ tx = false then
      let y : SyncInfo := ⟨p.seq.toNat, if p.twoStep then none else some p.body, t, p.corr, s.clk.now⟩
      s.updDomain n fun d => { d with sync := some y, known := if p.twoStep then d.known else some y }
    else if p.msg = 1 ∧ tx ∧ e2e then
      s.updDomain n fun d => { d with req := some ⟨p.seq.toNat, t, d.known, none, 0, match d.known with | some y => y.at_ | none => s.clk.now⟩ }
    else if p.msg = 2 ∧ tx ∧ !e2e then
      s.updDomain n fun d => { d with req := some ⟨p.seq.toNat, t, none, none, 0, s.clk.now⟩ }
    else if p.msg = 3 ∧ tx = false ∧ !e2e then
      match (s.domain n).req with
      | some r => if r.seq = p.seq.toNat then s.updDomain n fun d => { d with req := some { r with answered := some (p.body, t), corr := p.corr } } else s
      | none => s
    else s

/-- PTP_EVENT_TIMESTAMP: an event message received (`tx` false) or transmitted on BH0 or BH1 is timestamped into a TSU record (R425 to R428). -/
def execPtpEventTimestamp (dt : Nat) (port : Fin 2) (tx : Bool) (p : PtpMsg) (s : State) : Host.Outcome State Fault Refusal :=
  let s := s.elapse dt
  if !timRuns s then .next s else
  if tsuTakes port p.transport s && decide (p.msg.val ≤ 3) then
    let oneStep := tx && p.msg == 0 && s.getF (F.TSU_PORT_CFG_ONE_STEP port) == 1
    let s := tsuWrite (tsuRecord port tx oneStep p s) s
    .next (ptpEvent 1 port tx p (ptpEvent 0 port tx p s))
  else .next s

/-- A general message in domain `n`'s exchange (R428). -/
def ptpGeneral (n port : Nat) (p : PtpMsg) (s : State) : State :=
  if !ptpFor n port p true s then s
  else if p.msg = 8 then
    match (s.domain n).sync with
    | some y =>
      if y.seq = p.seq.toNat ∧ y.t1 = none then
        let y' := { y with t1 := some p.body, corr := y.corr + p.corr }
        s.updDomain n fun d => { d with sync := some y', known := some y' }
      else s
    | none => s
  else match (s.domain n).req with
  | none => s
  | some r =>
    if r.seq ≠ p.seq.toNat then s
    else if p.msg = 9 then
      match r.sync with
      | some y =>
        let t1 := y.t1.getD 0
        completeExchange n ((((y.t2 - t1) + (p.body - r.sent)) * 65536 - y.corr - p.corr).tdiv 131072) (some y) s
      | none => s
    else if p.msg = 10 then
      match r.answered with
      | some (t2, t4) => completeExchange n ((((t4 - r.sent) - (p.body - t2)) * 65536 - r.corr - p.corr).tdiv 131072) (s.domain n).known s
      | none => s
    else s

/-- PTP_GENERAL_MESSAGE: a Follow_Up, Delay_Resp or Pdelay_Resp_Follow_Up received on BH0 or BH1 (R428, R429). -/
def execPtpGeneralMessage (dt : Nat) (port : Fin 2) (p : PtpMsg) (s : State) : Host.Outcome State Fault Refusal :=
  let s := s.elapse dt
  if !timRuns s then .next s else
  .next (ptpGeneral 1 port p (ptpGeneral 0 port p s))

/-- PTP_EXCHANGE_DISCARD: an exchange is not complete 1 s after its first message (R428). -/
def execPtpExchangeDiscard (dt : Nat) (n : Fin 2) (s : State) : Host.Outcome State Fault Refusal :=
  let s := s.elapse dt
  if !timRuns s then .next s else
  match (s.domain n).req with
  | some r => if r.first + sec ≤ s.clk.now then .next ((s.incF (timCnt n 1)).updDomain n fun d => { d with req := none }) else .next s
  | none => .next s

/-- A write of TIM_Dn_EXCH_STATUS: the owner clears PATH_STEP, and FROZEN with it (R429). -/
def writeExchStatus (m : Master) (n : Nat) (w : Word) (s : State) : State :=
  if !s.owns m then ignored m (0x140170 + 256 * n) s
  else if bitsOf w 31 31 = 1 ∧ s.getF (F.TIM_D_EXCH_STATUS_PATH_STEP n) = 1 then
    ((s.setF (F.TIM_D_EXCH_STATUS_PATH_STEP n) 0).setF (F.TIM_D_EXCH_STATUS_FROZEN n) 0).updDomain n fun d => { d with fresh := true }
  else s

/-- PATH_STEP_CLEAR. -/
def execPathStepClear (dt : Nat) (m : Master) (n : Fin 2) (w : Word) (s : State) : Host.Outcome State Fault Refusal :=
  .next (gatedWrite m (0x140170 + 256 * n) (writeExchStatus m n w) (s.elapse dt))

/-- A signed value that stays within 32 bits. -/
def sat32s (v : Int) : Int := max (-(2 ^ 31)) (min (2 ^ 31 - 1) v)

/-- DOMAIN_COMPARE: the 1 ms comparison of D0 with D1 (R430). -/
def execDomainCompare (dt : Nat) (s : State) : Host.Outcome State Fault Refusal :=
  let s := s.elapse dt
  if !timRuns s then .next s else
  if s.getF F.TIM_DIV_CFG_EN = 0 then .next s
  else
    let diff : Int := (s.time.d0.t : Int) - s.time.d1.t
    let thr := s.getF F.TIM_DIV_CFG_THRESH_NS
    if s.getF F.TIM_STATUS_DIVERGE_LIVE = 1 then
      .next (if 2 * diff.natAbs ≤ thr * 2 ^ 32 then s.setF F.TIM_STATUS_DIVERGE_LIVE 0 else s)
    else if thr * 2 ^ 32 < diff.natAbs then
      let s := (s.setF F.TIM_STATUS_DIVERGE_LIVE 1).setF F.TIM_STATUS_DIVERGE 1
      .next (notify N.DOM_DIVERGE scOk 0 (ofSigned 32 (sat32s (diff.tdiv (2 ^ 32)))) s)
    else .next s

/-- PPS_IN_EDGE: an active edge captures the slot clock, D0 and D1 (R431). -/
def execPpsInEdge (dt : Nat) (s : State) : Host.Outcome State Fault Refusal :=
  let s := s.elapse dt
  if !timRuns s then .next s else
  if s.getF F.TIM_PPSIN_CFG_EN = 0 then .next s
  else
    let s := s.set64 F.TIM_PPSIN_SC_LO_VALUE F.TIM_PPSIN_SC_HI_VALUE s.clk.slot
    let s := (s.setF F.TIM_PPSIN_D0_SEC_VALUE (s.time.d0.t / unitsPerSec)).setF F.TIM_PPSIN_D0_NS_VALUE (s.time.d0.t % unitsPerSec / 2 ^ 32)
    let s := (s.setF F.TIM_PPSIN_D1_SEC_VALUE (s.time.d1.t / unitsPerSec)).setF F.TIM_PPSIN_D1_NS_VALUE (s.time.d1.t % unitsPerSec / 2 ^ 32)
    .next { s.incF F.TIM_PPSIN_COUNT_VALUE with time := { s.time with ppsIn := some s.clk.now, ppsLost := false } }

/-- PPS_LOST: no edge within 1.1 s of the previous one; raised once until an edge arrives (R431). -/
def execPpsLost (dt : Nat) (s : State) : Host.Outcome State Fault Refusal :=
  let s := s.elapse dt
  if !timRuns s then .next s else
  match s.time.ppsIn with
  | some t =>
    if s.getF F.TIM_PPSIN_CFG_EN = 1 ∧ s.time.ppsLost = false ∧ t + 220000000 ≤ s.clk.now then
      .next (notify N.PPS_LOST scTimeout 0 0 { s with time := { s.time with ppsLost := true } })
    else .next s
  | none => .next s

/-- The nanoseconds of a domain have carried into its seconds in this cycle. -/
def carried (d : Domain) : Bool := decide (d.inc ≤ d.t) && decide (d.t % unitsPerSec < d.inc)

/-- PPS_OUT_PULSE: in the cycle of the carry of domain DOM, PPS_OUT goes active for WIDTH_MS; a carry within a pulse restarts it (R432). -/
def execPpsOutPulse (dt : Nat) (s : State) : Host.Outcome State Fault Refusal :=
  let s := s.elapse dt
  if !timRuns s then .next s else
  if s.getF F.TIM_PPSOUT_CFG_EN = 1 ∧ s.mode ≠ stReserve ∧ carried (s.domain (s.getF F.TIM_PPSOUT_CFG_DOM)) then
    .next { s with time := { s.time with ppsOut := some (s.clk.slot + s.getF F.TIM_PPSOUT_CFG_WIDTH_MS * ms) } }
  else .next s

/-- PPS_OUT_END: the width has passed (R432). -/
def execPpsOutEnd (dt : Nat) (s : State) : Host.Outcome State Fault Refusal :=
  let s := s.elapse dt
  if !s.clk.running then .next s else
  match s.time.ppsOut with
  | some e => if e ≤ s.clk.slot then .next { s with time := { s.time with ppsOut := none } } else .next s
  | none => .next s

/-- TSU_RING_RD_WRITE: a write of TSU_RING_RD by either master (R427). -/
def execTsuRingRdWrite (dt : Nat) (m : Master) (w : Word) (s : State) : Host.Outcome State Fault Refusal :=
  .next (gatedWrite m 0x14801c
    (fun s => writeRingRd m 0x14801c F.TSU_RING_RD_COUNT (s.getF F.TSU_RING_WR_COUNT) (2 ^ s.getF F.TSU_RING_CTRL_LOG2N) w s) (s.elapse dt))

end Sys2Proof.Machine
end

