-- ==== Sys2Proof/Machine/Startup.lean ====
section
/-! DEFINITION. Start-up and the claim of OWN_N (R54 to R92, R456, R457). -/

namespace Sys2Proof.Machine

/-- VIN becomes valid: step 1 (R74, R95, R524). -/
def vinUp (resetLow nvm fe ddr vbat pairId : Bool) (s : State) : State :=
  let s := { s with
    pins := { s.pins with vinValid := true, vbatOk := vbat, vddNvm := nvm, vddFe := fe, vddDdr := ddr, resetLow := resetLow, pairId := pairId }
    clk := { s.clk with vinAt := s.clk.now }
    saf := { s.saf with starts := 1 } }
  toStep 1 s

/-- VIN_VALID: the supplies, VBAT and PAIR_ID as they stand, and whether RESET_N is low. While VIN is valid nothing rises above the threshold. -/
def execVinValid (dt : Nat) (resetLow nvm fe ddr vbat pairId : Bool) (s : State) : Host.Outcome State Fault Refusal :=
  let s := s.elapse dt
  if s.pins.vinValid then .next s else .next (vinUp resetLow nvm fe ddr vbat pairId s)

/-- RESET_N_PULSE: a pulse, or the rising edge that ends a low level present since VIN became valid (R89, R90, R109, R513, R524). -/
def execResetNPulse (dt : Nat) (s : State) : Host.Outcome State Fault Refusal :=
  let s := s.elapse dt
  if !s.pins.vinValid || s.mode == stTamperHold then .next s
  else if s.pins.resetLow then .next (toStep 2 { s with pins := { s.pins with resetLow := false } })
  else .next (restart s)

/-- Whether a master may write CFG_RESTART, or CFG_NVM_CTRL (R87, R89, R92). -/
def mayCfg (nvm : Bool) (m : Master) (s : State) : Bool :=
  if s.mode = stStarting then false
  else if s.mode = stSafeHold then true
  else if s.mode = stTamperHold then nvm
  else s.owns m

/-- A write of CFG_RESTART (R87, R90, R92). -/
def writeRestart (m : Master) (w : Word) (s : State) : State :=
  if !mayCfg false m s then ignored m 0x20018 s else if bitsOf w 15 0 = 0x7180 then restart s else s

/-- CFG_RESTART. -/
def execCfgRestart (dt : Nat) (m : Master) (w : Word) (s : State) : Host.Outcome State Fault Refusal :=
  .next (gatedWrite m 0x20018 (writeRestart m w) (s.elapse dt))

/-- CFG_NVM_STATUS.MODE once the pins are taken back: what discovery had found. -/
def nvmMode (s : State) : Nat := if s.getF F.CFG_NVM_STATUS_SIZE_LOG2 = 0 then 0 else if s.getF F.CFG_STATUS_NVM_SLOW = 1 then 1 else 2

/-- A write of CFG_NVM_CTRL (R59, R87, R89, R92). -/
def writeNvmCtrl (m : Master) (w : Word) (s : State) : State :=
  if !mayCfg true m s then ignored m 0x20014 s
  else
    let r := bitsOf w 0 0
    (s.setF F.CFG_NVM_CTRL_RELEASE r).setF F.CFG_NVM_STATUS_MODE (if r = 1 then 3 else nvmMode s)

/-- CFG_NVM_RELEASE. -/
def execCfgNvmRelease (dt : Nat) (m : Master) (w : Word) (s : State) : Host.Outcome State Fault Refusal :=
  .next (gatedWrite m 0x20014 (writeNvmCtrl m w) (s.elapse dt))

/-- AON_UP: step 2 ends (R74, R88, R454); an active tamper input stops the device. -/
def execAonUp (dt : Nat) (s : State) : Host.Outcome State Fault Refusal :=
  let s := s.elapse dt
  if !s.pins.vinValid || s.pins.resetLow || s.mode != stStarting || s.clk.core || decide (2 < s.step) then .next s
  else
    let act := s.pins.tamper &&& s.getF F.TAM_CFG_EN
    let s := (s.setF F.TAM_STATUS_LIVE act).setF F.PAR_HB_STATUS_PAIR_ID (bit s.pins.pairId)
    let s := toStep 2 (s.updPair fun p => { p with id := s.pins.pairId })
    if act ≠ 0 then .next (tamperEvent act s) else .next (toStep 3 s)

/-- A new unlock seed where there is none (R372, R406, R412). -/
def renewSeed (s : State) : State :=
  if s.tamp.seed.isSome then s
  else
    let s := { (s.updTamp fun _ => ⟨some s.draws, [], 0, 0, 0, 0⟩).drawn with cph := { s.cph with fcReset := true } }
    ((s.setF F.LCS_STATUS_NEW_SEED 1).setF F.CPH_STATUS_FC_RESET 1).setF F.TAM_CFG_LOCK 0

/-- The beacon and the local counter start at their marks, and the marks are raised (R372); the start-up is counted (R408, R443). -/
def startCounters (s : State) : State :=
  let s := (s.setF F.CPH_BCN_FC_FC (min s.tamp.bcnMark 0xFFFFFFFF)).setF F.CPH_LOCAL_FC_FC (min s.tamp.localMark 0xFFFFFFFF)
  s.updTamp fun t => { t with bcnMark := t.bcnMark + 65536, localMark := t.localMark + 65536, boots := t.boots + 1 }

/-- What fuses show in registers (R71, R407, R409, R453). -/
def showFuses (s : State) : State :=
  let s := ((s.setF F.LCS_STATUS_STATE s.fuses.lifecycle).setF F.LCS_STATUS_IDENTITY (bit s.fuses.identity)).setF F.LCS_STATUS_PAIR_ROOT (bit s.fuses.pairRoot)
  let s := (s.set64 F.LCS_SERIAL_LO_SERIAL F.LCS_SERIAL_HI_SERIAL s.fuses.serial).setF F.CFG_ARB_COUNT s.fuses.arb
  let s := s.setF F.CFG_ARB_TARGET s.fuses.arb
  if s.fuses.pairRoot then
    (s.set64 F.PAR_PEER_SERIAL_LO_SERIAL F.PAR_PEER_SERIAL_HI_SERIAL Config.peerSerial).setF F.PAR_STATUS_PAIR pairAlone
  else s

/-- CORE powered at the end of step 3 (R76, R90, R98, R406). -/
def coreStart (s : State) : State :=
  let s := { s with clk := { s.clk with core := true } }.setF F.TOP_STATUS_CORE_UP 1
  let s := (s.setF F.CFG_STATUS_TAMPER_SEEN (bit s.boot.tamperHib)).setF F.PWR_STATUS_VBAT_LOST (bit s.boot.vbatLost)
  let s := s.updBoot fun b => { b with tamperHib := false, vbatLost := false }
  let s := startCounters (renewSeed (showFuses s))
  s.setF F.CAT_STATUS_LOADS s.tamp.loads

/-- FUSE_LOAD: step 3 ends, with the fuse words sound or not (R76). A unit without an identity key, BLANK or VOID, skips step 4. -/
def execFuseLoad (dt : Nat) (sound : Bool) (s : State) : Host.Outcome State Fault Refusal :=
  let s := s.elapse dt
  if s.mode ≠ stStarting ∨ s.clk.core = true ∨ s.step ≠ 3 then .next s
  else if !sound then .next (startFail fcFuse scSafeHold s)
  else .next (toStep (if s.fuses.lifecycle = 0 ∨ s.fuses.lifecycle = 5 then 5 else 4) (coreStart s))

/-- IDENTITY_SELF_TEST: step 4 ends (R76). -/
def execIdentitySelfTest (dt : Nat) (passed : Bool) (s : State) : Host.Outcome State Fault Refusal :=
  let s := s.elapse dt
  if !inStep 4 s then .next s
  else if passed then .next (toStep 5 s)
  else .next (startFail fcIdentity scSafeHold s)

/-- ROOT_PLL_LOCK: step 5 ends; the clocks run from slot clock 0 and the monitor is enabled (R28, R33, R76). -/
def execRootPllLock (dt : Nat) (s : State) : Host.Outcome State Fault Refusal :=
  let s := s.elapse dt
  if !inStep 5 s then .next s
  else
    let s := { s with
      clk := { s.clk with running := true, slot := 0, stamp := 0, monitor := true }
      time := { s.time with d0 := { s.time.d0 with incAt := s.clk.now }, d1 := { s.time.d1 with incAt := s.clk.now } } }
    let s := ((s.setF F.CLK_STATUS_ROOT_LOCK 1).setF F.CLK_STATUS_REF_OK 1).setF F.CLK_STATUS_DIV_OK 0x3F
    .next (toStep 6 s)

/-- ROOT_PLL_LOCK_TIMEOUT: no lock within 1 ms (R76). -/
def execRootPllLockTimeout (dt : Nat) (s : State) : Host.Outcome State Fault Refusal :=
  let s := s.elapse dt
  if inStep 5 s then .next (startFail fcPll scSafeHold s) else .next s

/-- DRM_STATUS after training (R336, R337): 1, 2 or 4 GiB installed, of which seven eighths are usable. -/
def trainedDram (size : Nat) (twoRanks : Bool) (s : State) : State :=
  let s := ((s.setF F.DRM_STATUS_TRAINED 1).setF F.DRM_STATUS_RANKS (if twoRanks then 2 else 1)).setF F.DRM_STATUS_SIZE (size + 1)
  s.setF F.DRM_STATUS_USABLE_MIB (896 * 2 ^ size)

/-- DRAM_TRAINING: step 6 ends (R67, R76, R83, R96, R336). -/
def execDramTraining (dt : Nat) (size : Fin 3) (twoRanks trained tested : Bool) (s : State) : Host.Outcome State Fault Refusal :=
  let s := s.elapse dt
  if !inStep 6 s then .next s
  else if !trained || !s.pins.vddDdr then .next (startFail fcDramTrain scSafeHold s)
  else
    let s := trainedDram size twoRanks s
    if !tested then .next (startFail fcBist scSafeHold s)
    else if s.fuses.lifecycle = 5 then .next (startFail fcLcsVoid scSafeHold s)
    else
      let s := if s.fuses.pairRoot then s.updBoot fun b => { b with listenEnd := some (s.clk.now + 10 * ms), leadWire := 0, leadLane := 0 } else s
      .next (toStep 7 s)

/-- HB_LISTEN_WINDOW_END: the 10 ms have passed, with OWN_N held by the partner or not (R83). -/
def execHbListenWindowEnd (dt : Nat) (held : Bool) (s : State) : Host.Outcome State Fault Refusal :=
  let s := s.elapse dt
  match s.boot.listenEnd with
  | some t =>
    if s.clk.now < t then .next s
    else
      let lead := 3 ≤ s.boot.leadWire ∨ 3 ≤ s.boot.leadLane
      let s := (s.updBoot fun b => { b with listenEnd := none }).updPair fun p => { p with otherHolds := held }
      if inStep 7 s ∧ lead ∧ held then .next (enterReserve s) else .next s
  | none => .next s

/-- CFG_COPY_A or CFG_COPY_B after the examination (R68). -/
def putCopy (secVer vd : Field) (c : Option CopyView) (s : State) : State :=
  (s.setF secVer ((c.map (·.secVer)).getD 0)).setF vd (verdict c s)

/-- Step 7 with a flash that answers (R54, R57, R68 to R70). -/
def selectImage (log : Nat) (octal : Bool) (a b : Option CopyView) (s : State) : State :=
  let s := ((s.setF F.CFG_NVM_STATUS_SIZE_LOG2 (26 + log)).setF F.CFG_NVM_STATUS_MODE (if octal then 2 else 1)).setF F.CFG_STATUS_NVM_SLOW (bit !octal)
  let s := putCopy F.CFG_COPY_B_SEC_VER F.CFG_COPY_B_VERDICT b (putCopy F.CFG_COPY_A_SEC_VER F.CFG_COPY_A_VERDICT a s)
  match selectCopy a b s with
  | .error code => startFail code (if code = fcAmbiguous then scCfgAmbiguous else scSafeHold) s
  | .ok (sel, v) => toStep 8 (putDigest v.digest ((s.setF F.CFG_STATUS_SEL sel).updBoot fun x => { x with image := some v }))

/-- COPY_SELECTION: the flash's answer to the SFDP read, its size of 2^(26 + `log`) bytes, whether 8D-8D-8D is in use, and the copies read (R57, R58, R68 to R70). -/
def execCopySelection (dt : Nat) (answered : Bool) (log : Fin 4) (octal : Bool) (a b : Option CopyView) (s : State) : Host.Outcome State Fault Refusal :=
  let s := s.elapse dt
  if !inStep 7 s then .next s
  else if !answered || !s.pins.vddNvm then .next (startFail fcNvm scSafeHold s)
  else .next (selectImage log octal a b s)

/-- IMAGE_APPLY: step 8 (R77), and the start of step 9. -/
def execImageApply (dt : Nat) (s : State) : Host.Outcome State Fault Refusal :=
  let s := s.elapse dt
  match s.boot.image with
  | some v => if inStep 8 s then .next (applyImage v s) else .next s
  | none => .next s

/-- CATALOGUE_WARM_LOAD: step 10, with the store's entries by NIX and whether its digest is CAT_DIGEST (R80, R277). -/
def execCatalogueWarmLoad (dt : Nat) (entries : List (BitVec 17 × List Byte)) (digestOk : Bool) (s : State) : Host.Outcome State Fault Refusal :=
  let s := s.elapse dt
  match s.boot.image with
  | some v => if inStep 10 s then .next (warmLoad v (entries.map fun e => (e.1.toNat, e.2)) digestOk s) else .next s
  | none => .next s

/-- The follower count of the reserve (R480). -/
def follower (s : State) : Nat :=
  match s.pair.lead with
  | some l => wrap64 (l.slot + Config.laneLatency + (s.clk.now - l.at_))
  | none => s.clk.slot

/-- A domain loaded from the lead's last heartbeat: its time in ns advanced by the elapsed ticks, its epoch one further (R480). -/
def loadDomain (n ns epoch inc ticks : Nat) (s : State) : State :=
  let s := (s.setF (F.TIM_D_INC_LO_INC n) inc).setF (F.TIM_D_INC_HI_INC n) (inc / 2 ^ 32)
  s.updDomain n fun d => { d with t := wrapDomain (ns * 2 ^ 32 + ticks * inc), epoch := (epoch + 1) % 65536, inc := inc, incAt := s.clk.now }

/-- OWN_N claimed for a takeover: the clocks run, the slot clock, the domains and OFS are loaded, and a known-answer run is due (R383, R477, R480). -/
def takeClaim (s : State) : State :=
  let s := { s with clk := { s.clk with slot := follower s }, cph := { s.cph with katFirst := true } }
  let s := match s.pair.lead with
    | some l =>
      let ticks := s.clk.now - l.at_
      setOfs l.ofs (loadDomain 1 l.d1 l.e1 l.inc1 ticks (loadDomain 0 l.d0 l.e0 l.inc0 ticks s))
    | none => s
  assertOwnN (s.updPair fun p => { p with claimAt := none })

/-- A valid lead heartbeat has arrived in the last 3 ms (R457). -/
def leadRecent (s : State) : Bool := match s.pair.leadAt with | some t => decide (s.clk.now ≤ t + 3 * ms) | none => false

/-- TAKEOVER_BLOCKED (R457, R484). -/
def takeoverBlocked (s : State) : State :=
  notify N.TAKEOVER_BLOCKED scDenied 0 0 ((s.updPair fun p => { p with takeover := none, claimAt := none }).incF (F.PAR_CNT_COUNT 11))

/-- OWN_N taken at step 11, or for a takeover. -/
def claimNow (s : State) : State := if s.mode = stReserve then takeClaim s else enterAutonomous (assertOwnN (s.updPair fun p => { p with claimAt := none }))

/-- A claim is due: step 11 of start-up, or a declared failure (R457, R465). -/
def claimDue (s : State) : Bool :=
  s.getF F.PAR_STATUS_CONFLICT == 0 && s.pair.claimAt.isNone && !s.drivesOwn && (inStep 11 s || (s.mode == stReserve && s.pair.takeover.isSome))

/-- OWN_N_CLAIM (R81, R453, R457): a unit with PAIR_ID 0 asserts at once, one with PAIR_ID 1 samples the line 8 ms later. A unit in step 11 that hears a lead enters RESERVE. -/
def execOwnNClaim (dt : Nat) (s : State) : Host.Outcome State Fault Refusal :=
  let s := s.elapse dt
  if !claimDue s then .next s
  else if !s.fuses.pairRoot then .next (claimNow s)
  else if leadRecent s then .next (if s.mode = stReserve then s else enterReserve s)
  else if s.pair.id then .next (s.updPair fun p => { p with claimAt := some (s.clk.now + 8 * ms) })
  else .next (claimNow s)

/-- OWN_N_SAMPLE: the 8 ms have passed, and the line reads held or released (R84, R457). -/
def execOwnNSample (dt : Nat) (held : Bool) (s : State) : Host.Outcome State Fault Refusal :=
  let s := s.elapse dt
  match s.pair.claimAt with
  | some t =>
    if s.clk.now < t then .next s
    else
      let s := (s.updPair fun p => { p with claimAt := none, otherHolds := held }).setF F.PAR_HB_STATUS_OWN_LINE (bit held)
      if s.mode ≠ stReserve ∧ inStep 11 s = false then .next s
      else if !held then .next (claimNow s)
      else if s.mode = stReserve then .next (takeoverBlocked s)
      else .next (enterReserve s)
  | none => .next s

/-- The fuse raise stops (R72). -/
def arbStop (s : State) : State :=
  let sought := s.getF F.CFG_ARB_TARGET
  let s := ((s.setF F.CFG_ARB_TARGET s.fuses.arb).setF F.CFG_STATUS_ARB_PENDING 0).setF F.CFG_STATUS_ARB_FAIL 1
  notify N.ARB_FAIL scTimeout 0 (sought * 256 + s.fuses.arb) (s.updBoot fun b => { b with arbTries := 0 })

/-- ARB_FUSE_BLOW: a fuse has been blown and reads back as blown or not (R72). -/
def execArbFuseBlow (dt : Nat) (blown : Bool) (s : State) : Host.Outcome State Fault Refusal :=
  let s := s.elapse dt
  if s.getF F.CFG_STATUS_ARB_PENDING = 0 ∨ s.step ≠ 0xF ∨ s.mode = stReserve ∨ s.mode = stFrozen ∨ !s.clk.core then .next s
  else if blown then
    let n := s.fuses.arb + 1
    let s := { s with fuses := { s.fuses with arb := n } }.setF F.CFG_ARB_COUNT n
    let s := s.updBoot fun b => { b with arbTries := 0 }
    .next (if s.getF F.CFG_ARB_TARGET ≤ n then s.setF F.CFG_STATUS_ARB_PENDING 0 else s)
  else if s.boot.arbTries = 0 then .next (s.updBoot fun b => { b with arbTries := 1 })
  else .next (arbStop s)

end Sys2Proof.Machine
end

