-- ==== Sys2Proof/Machine/Pair.lean ====
section
/-! DEFINITION. The redundant pair: heartbeats, OWN_N probes, the pair lane, snapshots, and the takeover (R453 to R485). -/

namespace Sys2Proof.Machine

/-- The unit pairs, and its pair logic works: CORE is powered and the device is not in HIBERNATE (R108, R453). -/
def pairs (s : State) : Bool := s.fuses.pairRoot && s.clk.core

/-- A PAR counter; in FROZEN the registers of CORE hold their values (R512). -/
def cntPar (k : Nat) (s : State) : State := if s.mode = stFrozen then s else s.incF (F.PAR_CNT_COUNT k)

/-- A PAR notice; there is none in FROZEN (R511). -/
def notifyPar (k : NoticeKind) (status arg : Nat) (s : State) : State := if s.mode = stFrozen then s else notify k status 0 arg s

/-- ROLE as heartbeats carry it (R460). -/
def pairRole (s : State) : Nat :=
  if s.mode = stStarting then 0 else if s.mode = stAutonomous then 1 else if s.mode = stReserve then 2 else 3

/-- CRC-4 with x^4 + x + 1 and initial value 0b1111 over `n` bits of `w`, most significant first (R460). -/
def crc4 (w : Nat) : Nat → Nat → Nat
  | 0, c => c
  | n + 1, c =>
    let fb := (c / 8 + w / 2 ^ n) % 2
    crc4 w n ((2 * c % 16) ^^^ (if fb = 1 then 3 else 0))

/-- A wire frame from its bits [15:4] (R460). -/
def wireFrame (top : Nat) : Nat := top * 16 + crc4 top 12 15

/-- HB_WIRE_SEND: every 32 AON cycles (R460, R511); none in HIBERNATE (R108). -/
def execHbWireSend (dt : Nat) (s : State) : Host.Outcome State Fault Refusal :=
  let s := s.elapse dt
  if !pairs s then .next s
  else
    let top := 2 * 2 ^ 10 + bit s.pair.id * 2 ^ 9 + pairRole s * 2 ^ 7 + bit s.pair.request * 2 ^ 6 + s.getF F.PAR_HB_STATUS_LANE_UP * 2 ^ 5 + s.pair.wireSeq
    let s := cntPar 1 (s.updPair fun p => { p with wireSeq := (p.wireSeq + 1) % 32 })
    .next (s.emit (.hbWire (beBytes 2 (wireFrame top))))

/-- Seconds, nanoseconds and epoch of a domain as a heartbeat carries them (R461). -/
def hbDomain (d : Domain) : List Nat := [d.t / unitsPerSec, d.t % unitsPerSec / 2 ^ 32, d.epoch]

/-- The fields of a lane heartbeat in the order of R461. -/
def hbFields (s : State) : List Nat :=
  let lead := s.mode == stAutonomous
  let reserve := s.mode == stReserve
  let l (v : Nat) : Nat := if lead then v else 0
  let seq (x : Option (Nat × Nat)) : Nat := if reserve then (x.map (·.1)).getD 0 else 0
  [pairRole s, bit s.pair.id + 2 * bit s.pair.request + 4 * l (bit (s.journal == 1)), s.pair.laneSeq, s.fuses.serial, l s.clk.slot, l s.bound, l s.sen,
    l (s.getF F.SLT_CONFIG_SLOT_CODE), l (selDomain s), if lead then s.jposWr else if reserve then s.jposAck else 0]
    ++ (hbDomain s.time.d0 ++ hbDomain s.time.d1 ++ [s.time.d0.inc, s.time.d1.inc, ofSigned 64 s.time.ofs]).map l
    ++ [seq s.pair.slotA, seq s.pair.slotB, if reserve then s.getF F.PAR_STATUS_SYNC else 0]

/-- HB_LANE_SEND: every 1 ms in a session (R461). -/
def execHbLaneSend (dt : Nat) (s : State) : Host.Outcome State Fault Refusal :=
  let s := s.elapse dt
  if !pairs s || !s.pair.session || s.mode == stFrozen then .next s
  else .next (cntPar 0 (sendLane 2 (hbFields s) (s.updPair fun p => { p with laneSeq := (p.laneSeq + 1) % 2 ^ 32 })))

/-- A path shown UP or DOWN, and the pair state with it (R462, R463); in FROZEN PAR_STATUS keeps its value and PAR_HB_STATUS is live (R512). -/
def setPath (lane up : Bool) (s : State) : State :=
  let s := s.setF (if lane then F.PAR_HB_STATUS_LANE_UP else F.PAR_HB_STATUS_WIRE_UP) (bit up)
  if s.mode = stFrozen then s else
  let s := s.setF (if lane then F.PAR_STATUS_LANE_UP else F.PAR_STATUS_WIRE_UP) (bit up)
  let n := s.getF F.PAR_STATUS_LANE_UP + s.getF F.PAR_STATUS_WIRE_UP
  s.setF F.PAR_STATUS_PAIR (if n = 2 then pairOk else if n = 1 then pairDegraded else pairAlone)

/-- The reserve declares failure of the lead (R463, R464, R479). -/
def declareFailure (request : Bool) (s : State) : State :=
  if s.mode ≠ stReserve ∨ s.pair.takeover.isSome ∨ s.drivesOwn then s
  else
    let loss := s.pair.laneLost || !((s.pair.lead.map (·.jvalid)).getD false)
    notify N.PARTNER_FAILED scTimeout 0 (bit request) (s.updPair fun p => { p with takeover := some ⟨s.clk.now, request, none, loss⟩ })

/-- A path goes DOWN (R463, R476). -/
def pathDown (lane : Bool) (s : State) : State :=
  let s := notifyPar N.PATH_DOWN scTimeout (bit lane) (setPath lane false s)
  let both := s.pairState == pairAlone
  if s.mode = stReserve then
    let s := if lane && !both then s.updPair fun p => { p with laneLost := true } else s
    if both then declareFailure false s else s
  else if s.mode = stAutonomous then
    let s := if lane then invalidateJournal 1 s else s
    if both then notify N.PARTNER_LOST scTimeout 0 0 s else s
  else s

/-- A path comes UP with a valid heartbeat; at the lead a journal that is not valid starts a full snapshot (R462, R463, R476, R482). -/
def pathUp (lane : Bool) (s : State) : State :=
  let s := s.setF (if lane then F.PAR_HB_STATUS_LANE_MISS else F.PAR_HB_STATUS_WIRE_MISS) 0
  let s := s.updPair fun p => if lane then { p with laneGot := true } else { p with wireGot := true }
  if s.getF (if lane then F.PAR_HB_STATUS_LANE_UP else F.PAR_HB_STATUS_WIRE_UP) = 1 then s
  else
    let s := notifyPar N.PATH_UP scOk (bit lane) (setPath lane true s)
    if lane && s.mode == stAutonomous && s.journal != 1 then triggerSnap (rebaseJournal (s.setF F.PAR_STATUS_JOURNAL 2)) else s

/-- A heartbeat with the receiver's own PAIR_ID (R465); in FROZEN PAR_STATUS keeps its value (R512). -/
def pairConflict (s : State) : State :=
  if s.mode = stFrozen then s else
  let s := s.setF F.PAR_STATUS_CONFLICT 1
  if s.pair.conflictSeen then s
  else notifyPar N.PAIR_CONFLICT scDenied (bit s.pair.id) (s.updPair fun p => { p with conflictSeen := true })

/-- A lead heartbeat counted in the listening window of R83. -/
def countListen (lane : Bool) (s : State) : State :=
  match s.boot.listenEnd with
  | some t =>
    if t < s.clk.now then s
    else s.updBoot fun b => if lane then { b with leadLane := b.leadLane + 1 } else { b with leadWire := b.leadWire + 1 }
  | none => s

/-- A valid heartbeat with ROLE LEAD: a claim that waits to sample after a failure is abandoned (R83, R457, R484). -/
def leadHeard (lane : Bool) (s : State) : State :=
  let s := countListen lane (s.updPair fun p => { p with leadAt := some s.clk.now })
  if s.mode = stReserve ∧ s.pair.claimAt.isSome then takeoverBlocked s else s

/-- Consecutive requests on a path; the third declares failure (R464). -/
def countReq (lane req : Bool) (s : State) : State :=
  let n := if req then (if lane then s.pair.laneReq else s.pair.wireReq) + 1 else 0
  let s := s.updPair fun p => if lane then { p with laneReq := n } else { p with wireReq := n }
  if 3 ≤ n then declareFailure true s else s

/-- What a valid heartbeat of either path does (R462 to R464). -/
def heartbeat (lane : Bool) (role : Nat) (req : Bool) (s : State) : State :=
  let s := (s.setF F.PAR_HB_STATUS_PEER_ROLE role).setF F.PAR_HB_STATUS_PEER_REQ (bit req)
  let s := if role = 1 then leadHeard lane s else s
  countReq lane req (pathUp lane s)

/-- HB_WIRE_RX: a frame of 16 bits (R460, R465). -/
def execHbWireRx (dt : Nat) (frame : BitVec 16) (s : State) : Host.Outcome State Fault Refusal :=
  let s := s.elapse dt
  let w := frame.toNat
  if !pairs s then .next s
  else if w / 2 ^ 14 ≠ 2 ∨ wireFrame (w / 16) ≠ w then .next (cntPar 4 s)
  else if (w / 2 ^ 13 % 2 == 1) = s.pair.id then .next (pairConflict s)
  else .next (heartbeat false (w / 2 ^ 11 % 4) (w / 2 ^ 10 % 2 == 1) (cntPar 3 s))

/-- A lane frame that is dropped (R466, R467). -/
def laneDropped (s : State) : State := cntPar 5 s

/-- A sealed lane frame is accepted: its tag verifies and its FSEQ is above the last (R466). -/
def laneTakes (tagOk : Bool) (fseq : Nat) (s : State) : Bool := s.pair.session && tagOk && decide (s.pair.fseqRx < fseq)

/-- The last accepted FSEQ. -/
def laneSeen (fseq : Nat) (s : State) : State := s.updPair fun p => { p with fseqRx := fseq }

/-- Registers of a slot: valid bit and SEQ. -/
def showSlot (b : Bool) (v : Option (Nat × Nat)) (s : State) : State :=
  let s := s.setF (if b then F.PAR_STATUS_B_VALID else F.PAR_STATUS_A_VALID) (bit v.isSome)
  let seq := (v.map (·.1)).getD 0
  if b then s.set64 F.PAR_SEQ_B_LO_SEQ F.PAR_SEQ_B_HI_SEQ seq else s.set64 F.PAR_SEQ_A_LO_SEQ F.PAR_SEQ_A_HI_SEQ seq

/-- A slot known, or not, with its registers. -/
def putSlot (b : Bool) (v : Option (Nat × Nat)) (s : State) : State :=
  showSlot b v (s.updPair fun p => if b then { p with slotB := v } else { p with slotA := v })

/-- The rewind mark: JPOS_START of the oldest valid slot (R475). -/
def syncMark (s : State) : State :=
  match s.pair.slotA, s.pair.slotB with
  | none, none => s
  | some (_, j), none => s.set64 F.PAR_JMARK_LO_JPOS F.PAR_JMARK_HI_JPOS j
  | none, some (_, j) => s.set64 F.PAR_JMARK_LO_JPOS F.PAR_JMARK_HI_JPOS j
  | some (_, j), some (_, k) => s.set64 F.PAR_JMARK_LO_JPOS F.PAR_JMARK_HI_JPOS (min j k)

/-- The lead's knowledge of a slot from the reserve's heartbeat (R461, R471). -/
def peerSlot (b : Bool) (seq : Nat) (s : State) : State :=
  let old := if b then s.pair.slotB else s.pair.slotA
  if seq = 0 then (if old.isNone then s else putSlot b none s)
  else match old with
    | some (q, _) => if q = seq then s else putSlot b (some (seq, s.jmark)) s
    | none => putSlot b (some (seq, match s.pair.snap with | some (q, j) => if q = seq then j else s.jmark | none => s.jmark)) s

/-- The snapshot in progress is complete when the heartbeat shows its SEQ (R471, R476). -/
def snapDone (seqA seqB : Nat) (s : State) : State :=
  match s.pair.snap with
  | some (q, _) =>
    if (if s.getF F.PAR_SNAP_SLOT = 1 then seqB else seqA) ≠ q then s
    else
      let kept := s.pair.snapKept
      let s := s.updPair fun p => { p with snap := none, snapKept := false }
      let s := ((s.setF F.PAR_SNAP_BUSY 0).setF F.PAR_SNAP_DONE_MIB 152).setF F.PAR_STATUS_JOURNAL 1
      let s := notify N.SNAP_DONE scOk 0 (q % 2 ^ 32) (syncMark (s.incF (F.PAR_CNT_COUNT 6)))
      if kept then triggerSnap s else s
  | none => s

/-- What the lead takes from a reserve's heartbeat. -/
def fromReserve (h : LaneHb) (s : State) : State :=
  if s.mode ≠ stAutonomous then s
  else
    let s := peerSlot true h.seqB.toNat (peerSlot false h.seqA.toNat s)
    snapDone h.seqA.toNat h.seqB.toNat ((syncMark s).setF F.PAR_STATUS_SYNC h.sync)

/-- What the reserve keeps of a lead's heartbeat (R461, R480). -/
def fromLead (h : LaneHb) (s : State) : State :=
  if s.mode ≠ stReserve then s
  else
    let l : LeadHb := ⟨s.clk.now, h.jvalid, h.slot.toNat, h.bound.toNat, h.sen.toNat, h.slotCode.toNat, bit h.sel, h.jpos.toNat, h.d0, h.e0.toNat, h.d1, h.e1.toNat,
      h.inc0.toNat, h.inc1.toNat, h.ofs⟩
    s.updPair fun p => { p with lead := some l, laneLost := false }

/-- HB_LANE_RX: a lane heartbeat, whether its tag verifies, and its FSEQ (R461, R465, R466). -/
def execHbLaneRx (dt : Nat) (h : LaneHb) (tagOk : Bool) (fseq : Word) (s : State) : Host.Outcome State Fault Refusal :=
  let s := s.elapse dt
  if !pairs s || s.mode == stFrozen then .next s
  else if !laneTakes tagOk fseq.toNat s then .next (laneDropped s)
  else
    let s := laneSeen fseq.toNat s
    if h.pairId = s.pair.id then .next (pairConflict s)
    else if h.serial.toNat ≠ s.get64 F.PAR_PEER_SERIAL_LO_SERIAL F.PAR_PEER_SERIAL_HI_SERIAL then .next (laneDropped s)
    else
      let s := s.incF (F.PAR_CNT_COUNT 2)
      let s := if h.role = 1 then fromLead h s else if h.role = 2 then fromReserve h s else s
      .next (heartbeat true h.role h.req s)

/-- HB_PATH_CHECK: a path's check (R462); a heartbeat in time counts and no miss is recorded (R484). -/
def execHbPathCheck (dt : Nat) (lane : Bool) (s : State) : Host.Outcome State Fault Refusal :=
  let s := s.elapse dt
  if !pairs s then .next s
  else
    let miss := if lane then F.PAR_HB_STATUS_LANE_MISS else F.PAR_HB_STATUS_WIRE_MISS
    if (if lane then s.pair.laneGot else s.pair.wireGot) then
      .next (s.updPair fun p => if lane then { p with laneGot := false } else { p with wireGot := false })
    else
      let n := min 8 (s.getF miss + 1)
      let s := s.setF miss n
      if n = 8 ∧ s.getF (if lane then F.PAR_HB_STATUS_LANE_UP else F.PAR_HB_STATUS_WIRE_UP) = 1 then .next (pathDown lane s) else .next s

/-- A port has its PPDU on air. -/
def onAir (s : State) : Bool := (List.range 16).any fun n => s.pstate n == psTx && (s.port n).begun.isSome && !(s.port n).sent

/-- A unit with PAIR_ID 1 yields (R459). -/
def yieldPair (s : State) : State := notify N.YIELD scDenied 0 0 (enterReserve s)

/-- OWN_N_PROBE: the line reads held or released while this unit does not drive it (R458, R459); in FROZEN PAR_STATUS and the counters keep their values (R512). -/
def execOwnNProbe (dt : Nat) (held : Bool) (s : State) : Host.Outcome State Fault Refusal :=
  let s := s.elapse dt
  if !s.drivesOwn then .next s
  else
    let s := s.updPair fun p => { p with otherHolds := held }
    if s.mode = stFrozen then .next s
    else if !held then .next ((s.setF F.PAR_STATUS_CONFIRMED 1).updPair fun p => { p with unconfAt := none, unconfTx := none })
    else
      let s := (s.setF F.PAR_STATUS_CONFIRMED 0).incF (F.PAR_CNT_COUNT 12)
      if !s.fuses.pairRoot then .next s
      else if s.pair.id then .next (yieldPair s)
      else .next (s.updPair fun p =>
        { p with
          unconfAt := some (p.unconfAt.getD s.clk.now)
          unconfTx := if p.unconfAt.isNone && onAir s then some s.clk.now else p.unconfTx })

/-- DUAL_ACTIVE: 20 ms unconfirmed while transmitting (R459). -/
def execDualActive (dt : Nat) (s : State) : Host.Outcome State Fault Refusal :=
  let s := s.elapse dt
  match s.pair.unconfAt, s.pair.unconfTx with
  | some u, some t =>
    if s.clk.now < t + 20 * ms ∨ s.pair.id = true ∨ !s.drivesOwn then .next s
    else
      let s := releaseOwnN (quietPorts s)
      .next (enterSafe 10 (notify N.DUAL_ACTIVE scSafeHold 0 ((s.clk.now - u) / ms) s))
  | _, _ => .next s

/-- LANE_LINK_UP: the lane links up and the partner's HELLO arrives with its nonce, its CMAC right or not (R466). -/
def execLaneLinkUp (dt : Nat) (nonce : BitVec 128) (macOk : Bool) (s : State) : Host.Outcome State Fault Refusal :=
  let s := s.elapse dt
  if !pairs s || s.mode == stFrozen then .next s
  else
    let s := (sendHello s).updPair fun p => { p with linkUp := true, session := macOk, nonceRx := nonce.toNat }
    .next (if macOk then s else laneDropped s)

/-- LANE_HELLO_RX: a HELLO in a session renews the session key (R466). -/
def execLaneHelloRx (dt : Nat) (nonce : BitVec 128) (macOk : Bool) (s : State) : Host.Outcome State Fault Refusal :=
  let s := s.elapse dt
  if !pairs s || !s.pair.linkUp || s.mode == stFrozen then .next s
  else if !macOk then .next (laneDropped s)
  else .next ((sendHello s).updPair fun p => { p with session := true, nonceRx := nonce.toNat })

/-- Bytes that the digest of a slot covers, and the place of the trailer (R469, R470). -/
def coveredLen : Nat := 159383552
def trailerAt : Nat := 0xFFFFF80

/-- Base of a slot (R468). -/
def slotBase (b : Bool) : Nat := if b then 0x20000000 else 0x10000000

/-- PAR_STATUS.SYNC as the slots stand: a snapshot being written shows SYNCING until a slot is valid (R482). -/
def syncState (writing : Bool) (s : State) : State :=
  s.setF F.PAR_STATUS_SYNC (if s.pair.slotA.isSome || s.pair.slotB.isSome then 2 else if writing then 1 else 0)

/-- A slot becomes invalid at the reserve, with the position from which it would fill (R470). -/
def slotBroken (b writing : Bool) (pos : Nat) (s : State) : State :=
  syncState writing ((putSlot b none s).updPair fun p => if b then { p with posB := pos } else { p with posA := pos })

/-- A trailer that makes its slot valid (R470): MAGIC, SEQ as in the header, LEN, and the digest of the covered bytes. -/
def trailerOk (b : Bool) (t : List Byte) (s : State) : Bool :=
  t.take 4 == [0x53, 0x4E, 0x41, 0x50] && entNat t 4 8 == s.leAt (slotBase b) 8 && entNat t 12 4 == coveredLen
    && (t.drop 16).take 64 == beBytes 64 (Config.sha512 (s.bytes (slotBase b) coveredLen))

/-- The trailer of a slot written (R470, R482). -/
def writeTrailer (b : Bool) (t : List Byte) (pos : Nat) (s : State) : State :=
  if pos = coveredLen ∧ trailerOk b t s then
    let was := s.getF F.PAR_STATUS_SYNC
    let s := syncState false (putSlot b (some (entNat t 4 8, s.leAt (slotBase b + 8) 8)) s)
    if was = 2 then s else notify N.SYNC_READY scOk 0 (bit b) s
  else slotBroken b (t.any (· != 0) == false) 0 s

/-- A WRITE into a slot at its offset (R470): in ascending order, or the slot is invalid. -/
def writeSlot (b : Bool) (ofs : Nat) (d : List Byte) (s : State) : State :=
  let pos := if b then s.pair.posB else s.pair.posA
  let s := s.setBytes (slotBase b + ofs) d
  if trailerAt ≤ ofs then writeTrailer b d pos s
  else if coveredLen ≤ ofs then s
  else if ofs = pos then s.updPair fun p => if b then { p with posB := ofs + d.length } else { p with posA := ofs + d.length }
  else slotBroken b true (if ofs = 0 then d.length else 0) s

/-- The header of a new snapshot tells the reserve where its journal starts (R469, R476): earlier records are no longer needed. -/
def headerPos (b : Bool) (ofs : Nat) (s : State) : State :=
  if ofs ≠ 0 then s
  else
    let j := s.leAt (slotBase b + 8) 8
    if s.jposAck < j then s.set64 F.PAR_JPOS_ACK_LO_JPOS F.PAR_JPOS_ACK_HI_JPOS j else s

/-- A WRITE into the journal: JPOS_ACK follows records that arrive without a gap, and a JACK returns (R467). -/
def writeJournal (ofs : Nat) (d : List Byte) (s : State) : State :=
  let s := s.setBytes (0x30000000 + ofs) d
  let at_ := s.jposAck
  let s := if at_ % jring = ofs then s.set64 F.PAR_JPOS_ACK_LO_JPOS F.PAR_JPOS_ACK_HI_JPOS (at_ + d.length) else s
  sendLane 4 [s.jposAck] s

/-- A WRITE frame's data put into the pair area (R467, R468). -/
def pairWrite (a : Nat) (d : List Byte) (s : State) : State :=
  if 0x30000000 ≤ a then writeJournal (a - 0x30000000) d s
  else
    let b := decide (0x20000000 ≤ a)
    headerPos b (a - slotBase b) (writeSlot b (a - slotBase b) d s)

/-- Data that lies inside one region of the pair area (R467, R468). -/
def inPairArea (a n : Nat) : Bool :=
  (decide (0x10000000 ≤ a) && decide (a + n ≤ 0x20000000)) || (decide (0x20000000 ≤ a) && decide (a + n ≤ 0x30000000)) || (decide (0x30000000 ≤ a) && decide (a + n ≤ 0x31000000))

/-- LANE_WRITE_RX: a WRITE frame at the reserve (R466, R467). -/
def execLaneWriteRx (dt : Nat) (a : Word) (data : List Byte) (tagOk : Bool) (fseq : Word) (s : State) : Host.Outcome State Fault Refusal :=
  let s := s.elapse dt
  if !pairs s || s.mode != stReserve then .next s
  else if !laneTakes tagOk fseq.toNat s then .next (laneDropped s)
  else if !inPairArea a.toNat data.length then .next (laneDropped (laneSeen fseq.toNat s))
  else .next (pairWrite a.toNat data (laneSeen fseq.toNat s))

/-- LANE_JACK_RX: the journal position up to which the reserve has every record (R474). -/
def execLaneJackRx (dt : Nat) (pos : BitVec 64) (tagOk : Bool) (fseq : Word) (s : State) : Host.Outcome State Fault Refusal :=
  let s := s.elapse dt
  if !pairs s || s.mode == stFrozen then .next s
  else if !laneTakes tagOk fseq.toNat s then .next (laneDropped s)
  else
    let s := laneSeen fseq.toNat s
    let p := pos.toNat
    let late := (s.pair.jackWait.filter fun e => decide (e.1 ≤ p) && decide (e.2 + 20 * us < s.clk.now)).length
    let s := (s.addF (F.PAR_CNT_COUNT 13) late).updPair fun x => { x with jackWait := x.jackWait.filter fun e => decide (p < e.1) }
    .next (s.set64 F.PAR_JPOS_ACK_LO_JPOS F.PAR_JPOS_ACK_HI_JPOS (max s.jposAck p))

/-- JACK_TIMEOUT: a JACK is more than 200 µs beyond the 20 µs in which it is due; the lane is DOWN and what waited proceeds (R474). -/
def execJackTimeout (dt : Nat) (s : State) : Host.Outcome State Fault Refusal :=
  let s := s.elapse dt
  if s.mode ≠ stAutonomous ∨ s.getF F.PAR_STATUS_LANE_UP = 0 then .next s
  else match s.pair.jackWait with
  | (_, t) :: _ => if t + 220 * us < s.clk.now then .next (pathDown true s) else .next s
  | [] => .next s

/-- SNAP_TIMER: SNAP_S seconds after the start of the previous snapshot (R471). -/
def execSnapTimer (dt : Nat) (s : State) : Host.Outcome State Fault Refusal :=
  let s := s.elapse dt
  if !pairs s ∨ s.clk.now < s.pair.snapAt + s.getF F.PAR_CFG_SNAP_S * sec then .next s else .next (triggerSnap s)

/-- A write of PAR_CMD (R471). -/
def writeSnapNow (m : Master) (w : Word) (s : State) : State :=
  if !s.owns m then ignored m 0x160040 s else if bitsOf w 0 0 = 1 then triggerSnap s else s

/-- SNAP_NOW. -/
def execSnapNow (dt : Nat) (m : Master) (w : Word) (s : State) : Host.Outcome State Fault Refusal :=
  .next (gatedWrite m 0x160040 (writeSnapNow m w) (s.elapse dt))

/-! The takeover (R477 to R481). -/

/-- An address and value pair of a snapshot or a REGS record as a shadow: a type T register, or a word of window 0, 1, 3 or 4 with its page in bits [31:24]. -/
def carriedShadow (a : Nat) (w : Word) : Option (Nat × Word) :=
  let o := a % 2 ^ 24
  if 0x200000 ≤ o ∧ o < 0x400000 then
    let win := (o - 0x200000) / 0x40000
    let off := a / 2 ^ 24 * 0x40000 + (o - 0x200000) % 0x40000
    match tabMask win off with
    | some m => if tabValueOk win off (w &&& m) then some (tabKey win off, w &&& m) else none
    | none => none
  else if entryRefused8 a w then none
  else some (a, match regSpec? a with | some r => w &&& r.rw | none => w)

/-- The pairs of a list of bytes; unused pairs are 0. -/
def carriedPairs (base n : Nat) (s : State) : List (Nat × Word) :=
  ((List.range n).map fun k => (s.leAt (base + 8 * k) 4, BitVec.ofNat 32 (s.leAt (base + 8 * k + 4) 4))).filter fun e => e.1 != 0 || e.2 != 0#32

/-- Every pair as a shadow; none when one is refused under R77 (R478). -/
def carriedShadows : List (Nat × Word) → State → Option State
  | [], s => some s
  | (a, w) :: r, s => match carriedShadow a w with | some e => carriedShadows r (putShadow e.1 e.2 s) | none => none

/-- A key unwrapped into its slot, with its generation (R477). -/
def carryKey (s : State) (k : CarriedKey) : State :=
  let s := s.updTamp fun t => { t with gens := Sparse.set (fun _ => 0) t.gens k.slot.val k.gen.toNat }
  match (if k.full then Config.kwUnwrap pairStorageKey k.wrapped else none) with
  | some m => s.setSlot k.slot.val ⟨true, k.klen, false, k.expired, k.origin, false, k.perms, k.depth, k.uses, k.parent, k.parentGen, k.nix, m, 0, false⟩
  | none => s.setSlot k.slot.val KeySlot.empty

/-- A receipt entry put into the first free place. -/
def carryRcpt (s : State) (r : CarriedRcpt) : State :=
  match (List.range 1024).find? fun i => (Sparse.get (fun _ => none) s.xch.receipts i).isNone with
  | some i => setReceipt i (some ⟨r.nix.toNat, r.fc.toNat, s.clk.now + r.leftMs * ms, r.expired, r.rcpt, r.owed⟩) s
  | none => s

/-- An accession entry inserted. -/
def carryFlood (s : State) (f : CarriedFlood) : State :=
  let a : Accession := ⟨f.origin, f.fseq.toNat, s.clk.now + f.left * sec, f.sen.toNat⟩
  syncAccession (s.updXch fun x => { x with accession := Sparse.set (fun _ => none) x.accession (accessionPlace s) (some a) })

/-- A neighbour put into its place. -/
def carryNbr (s : State) (x : CarriedNbr) : State :=
  setNbr x.place.val (some ⟨x.silent, x.missed, x.rid.toNat, x.pan.toNat, x.eui.toNat, x.lastSen.toNat, x.launchUs, x.period, x.fc.toNat, x.rssi, x.offset, x.exp.toNat, x.total,
    x.cells.foldl (fun c e => Sparse.set (fun _ => none) c e.1 (some e.2)) []⟩) s

/-- An entry of the catalogue area set as it stands in DRAM, with the counts. -/
def storeEntry (nix : Nat) (e : List Byte) (s : State) : State := recount nix (s.entry nix) e (s.setBytes (entAddr nix s) e)

/-- The node index and the counts after the catalogue area has been copied (R266, R477). -/
def indexCatalogue (s : State) : State :=
  (List.range 131072).foldl (fun s n => let e := s.bytes (entAddr n s) 512; if entValid e then recount n emptyEntry e s else s) s

/-- The registers and tables of a slot applied as one transaction with tag 0 (R77, R477); none when they fail to apply, or the slot meets an uncorrectable error (R478). -/
def restoreRegs (b : Bool) (s : State) : Option State :=
  if (badWord (slotBase b) coveredLen s).isSome then none
  else
    match carriedShadows (carriedPairs (slotBase b + 0x1000) 262144 s) s with
    | some t => (tryCommit true t).map (closeTag0 scOk)
    | none => none

/-- One port's calibration in the takeover (R170, R477). -/
def carryCal (failed : List (Fin 16 × Fin 3)) (s : State) (n : Nat) : State :=
  if !portOn n s then s
  else
    let s := startCal n s
    match failed.find? fun e => e.1.val == n with
    | some e => calFail n (e.2.val + 1) s
    | none => calOk n s

/-- The areas of a slot copied into place, and its other state (R469, R477). -/
def restoreAreas (b : Bool) (v : SlotView) (s : State) : State :=
  let s := s.setBytes (catBase s) (s.bytes (slotBase b + 0x400000) (68 * 2 ^ 20))
  let s := s.setBytes (blobBase s) (s.bytes (slotBase b + 0x4800000) (80 * 2 ^ 20))
  let s := indexCatalogue (s.updCat fun c => { c with cache := [], valid := [], roster := [] })
  v.nbrs.foldl carryNbr (v.floods.foldl carryFlood (v.receipts.foldl carryRcpt s))

/-- A record that the spec does not lay out, replayed; the device counters are kept aside. -/
def replayCarried (r : CarriedRec) (c : Nat × Nat) (s : State) : (Nat × Nat) × State :=
  match r with
  | .key k => (c, carryKey s k)
  | .receipt true nix fc left => (c, carryRcpt s ⟨nix, fc, left, false, true, false⟩)
  | .receipt false nix fc _ =>
    match s.xch.receipts.find? fun e => match e.2 with | some x => x.nix == nix.toNat && x.fc == fc.toNat | none => false with
    | some e => (c, setReceipt e.1 none s)
    | none => (c, s)
  | .flood f => (c, if findAccession f.origin f.fseq.toNat s then s else carryFlood s f)
  | .counters a b => ((a.toNat, b.toNat), s)

/-- The bytes of a journal record of a KIND at a position; 0 for a byte that is no KIND (R472). -/
def recordLen (kind len16 pos : Nat) : Nat :=
  match kind with
  | 1 => 16
  | 2 => 528
  | 3 => 16 * len16
  | 4 => 96
  | 5 => 96
  | 6 => 16
  | 7 => 16
  | 8 => 16
  | 15 => jring - pos % jring
  | _ => 0

/-- A CTR record's effect (R473). -/
def replayCtr (b : List Byte) (s : State) : State :=
  let nix := entNat b 4 4 % 2 ^ 17
  let e := s.entry nix
  let e := entPut (entPut (entPut e 20 2 (entNat b 2 2)) 16 4 (entNat b 8 4)) 24 4 (entNat b 12 4)
  storeEntry nix (entPutBits e 23 0 0 (entBits b 1 7 7)) s

/-- A REGS record's effect (R472): the values of a commit, with what a commit does beside them. -/
def replayRegs (b : List Byte) (s : State) : State :=
  let ps := (List.range ((b.length - 16) / 8)).map fun k => (entNat b (16 + 8 * k) 4, BitVec.ofNat 32 (entNat b (20 + 8 * k) 4))
  let es := ps.filterMap fun p => if p.1 = 0 then none else carriedShadow p.1 p.2
  commitEffects true s (es.foldl applyShadow s)

/-- A record replayed, with the records and device counters that are kept aside. -/
def replayOne (kind : Nat) (b : List Byte) (rs : List CarriedRec) (c : Nat × Nat) (s : State) : List CarriedRec × (Nat × Nat) × State :=
  match kind with
  | 1 => (rs, c, replayCtr b s)
  | 2 => (rs, c, storeEntry (entNat b 4 4 % 2 ^ 17) (b.drop 16) s)
  | 3 => (rs, c, replayRegs b s)
  | 5 => (rs, c, s.setBytes (blobBase s + 80 * (entNat b 4 4 % 2 ^ 20)) (b.drop 16))
  | 15 => (rs, c, s)
  | _ => match rs with
    | r :: rs => let (c, s) := replayCarried r c s; (rs, c, s)
    | [] => (rs, c, s)

/-- The journal replayed from a position up to JPOS_ACK: the device counters as last recorded, whether an uncorrectable error stopped it, and the state (R472, R477, R479). -/
def replay (stop : Nat) : Nat → Nat → List CarriedRec → Nat × Nat → State → (Nat × Nat) × Bool × State
  | 0, _, _, c, s => (c, false, s)
  | k + 1, pos, rs, c, s =>
    if stop ≤ pos then (c, false, s)
    else withRead (0x30000000 + pos % jring) 16 s (fun _ s => (c, true, s)) fun h s =>
      let n := recordLen (entNat h 0 1) (entNat h 1 1) pos
      if n = 0 then (c, false, s)
      else withRead (0x30000000 + pos % jring) n s (fun _ s => (c, true, s)) fun b s =>
        let (rs, c, s) := replayOne (entNat h 0 1) b rs c s
        replay stop k (pos + n) rs c s

/-- A device counter after a takeover (R372). -/
def carryCounters (c : Nat × Nat) (s : State) : State :=
  let b := max s.tamp.bcnMark (c.1 + 2 ^ 20)
  let l := max s.tamp.localMark (c.2 + 2 ^ 20)
  let s := s.updTamp fun t => { t with bcnMark := b + 65536, localMark := l + 65536 }
  noteFcEnd ((s.setF F.CPH_BCN_FC_FC (min b 0xFFFFFFFF)).setF F.CPH_LOCAL_FC_FC (min l 0xFFFFFFFF))

/-- A VALID entry that a takeover with STATE_LOSS affects (R279, R479). -/
def lossEntry (e : List Byte) : List Byte :=
  let e := entPut e 28 4 (min (entLastFc e + 2 ^ 16) 0xFFFFFFFF)
  entPutBits (entPut e 24 4 (min (entOutFc e + 2 ^ 20) 0xFFFFFFFF)) 22 1 0 1

/-- A node's entry after the replay (R226, R279, R479): supervision restarts, an update in progress leaves the node ACTIVE_UNCERTAIN, and state loss marks it. -/
def carryNode (loss : Bool) (updating : List Nat) (s : State) (nix : Nat) : State :=
  let e := s.entry nix
  let e := if loss then lossEntry e else e
  let e := if updating.contains nix && entAssoc e == asActive then entPutBits e 32 1 0 asUncertain else e
  let e := if 2 ≤ entAssoc e then withSup e s else e
  let s := storeEntry nix e s
  if decide (2 ≤ entAssoc e) && canRelay e then joinRoster nix s else s

/-- The first boundary after a takeover (R481). -/
def takeoverBoundary (s : State) : State :=
  let s := s.updSlt fun x => { x with first := true, bcnIdx := [], bcnCell := [], past := [] }
  match s.pair.lead with
  | some l =>
    let n := max (nominal s) 1
    let k := (s.clk.slot + ms - l.bound + n - 1) / n
    placeNext (wrap64 (l.bound + k * n)) ((l.sen + k) % 2 ^ 40) s
  | none => firstBoundary s

/-- AUTONOMOUS at the end of a takeover (R477, R479, R481). -/
def takeoverEnd (b : Bool) (t : Takeover) (loss : Bool) (v : SlotView) (s : State) : State :=
  let s := putDigest v.digest (s.setF F.CFG_STATUS_SEL v.sel)
  let sel := (s.pair.lead.map (·.sel)).getD (selDomain s)
  let s := (s.setF F.TIM_SEL_SEL sel).setF F.TIM_STATUS_SEL sel
  let s := ((s.setF F.TOP_STATUS_STATE stAutonomous).setF F.TOP_STATUS_ROLE 0).setF F.CAT_STATUS_LOADS s.tamp.loads
  let s := takeoverBoundary (syncMode s)
  let s := ((s.incF (F.PAR_CNT_COUNT 10)).setF F.PAR_TKO_LAST_CAUSE (bit t.request)).setF F.PAR_TKO_LAST_SLOT (bit b)
  let s := (putSlot true none (putSlot false none s)).setF F.PAR_STATUS_SYNC 0
  let s := s.updPair fun p => { p with takeover := none, tkoBeacon := some (t.declared, loss), request := false }
  if (List.range 16).any fun n => s.getF (F.SLT_BCN_PORT_EN n) == 1 then s
  else
    let st := if loss then scStateLoss else scOk
    let gap := (s.clk.now - t.declared) / ms
    notify N.TAKEOVER_DONE st 0 gap (((s.setF F.PAR_TKO_LAST_STATUS st).setF F.PAR_TKO_LAST_GAP_MS gap).updPair fun p => { p with tkoBeacon := none })

/-- The takeover from slot `b` once its registers have applied (R477). -/
def restoreFrom (b : Bool) (jpos : Nat) (t : Takeover) (v : SlotView) (failed : List (Fin 16 × Fin 3)) (s : State) : State :=
  let s := v.keys.foldl carryKey s
  let s := (List.range 16).foldl (carryCal failed) s
  let s := restoreAreas b v s
  let (c, ue, s) := replay s.jposAck (jring / 16) jpos v.records (v.beacon.toNat, v.localFc.toNat) s
  let loss := t.stateLoss || ue
  let s := s.cat.valid.foldl (carryNode loss (v.updating.map (·.toNat))) (carryCounters c s)
  takeoverEnd b t loss v s

/-- The valid slots, newest first: its place and JPOS_START (R470, R478). -/
def validSlots (s : State) : List (Bool × Nat) :=
  match newestSnap s with
  | some (_, b, j) =>
    (b, j) :: (match (if b then s.pair.slotA else s.pair.slotB) with | some (_, k) => [(!b, k)] | none => [])
  | none => []

/-- The takeover from the first slot whose registers apply; with none, NO_SNAPSHOT and a restart (R478). -/
def restoreFirst (t : Takeover) (va vb : SlotView) (failed : List (Fin 16 × Fin 3)) : List (Bool × Nat) → State → State
  | [], s => restart (notify N.NO_SNAPSHOT scSafeHold 0 0 s)
  | (b, j) :: r, s =>
    match restoreRegs b s with
    | some u => restoreFrom b j t (if b then vb else va) failed u
    | none => restoreFirst t va vb failed r s

/-- TAKEOVER_RESTORE: what slots A and B hold beside the bytes that R469 lays out, and the calibrations that failed with their step (R477 to R481). -/
def execTakeoverRestore (dt : Nat) (a b : SlotView) (failed : List (Fin 16 × Fin 3)) (s : State) : Host.Outcome State Fault Refusal :=
  let s := s.elapse dt
  match s.pair.takeover with
  | some t => if s.mode = stReserve ∧ s.drivesOwn then .next (restoreFirst t a b failed (validSlots s) s) else .next s
  | none => .next s

end Sys2Proof.Machine
end

