-- ==== Sys2Proof/Machine/Power.lean ====
section
/-! DEFINITION. Supplies, HIBERNATE and energy accounting (R93 to R115). -/

namespace Sys2Proof.Machine

/-- VIN below 1.52 V: every domain except TAMP loses power and the device is OFF; without VIN, TAMP keeps its content only on VBAT (R95, R98). -/
def powerOff (s : State) : State :=
  let t := { State.reset with
    clk := { State.reset.clk with now := s.clk.now }
    pins := { s.pins with vinValid := false, safeN := false }
    fuses := s.fuses
    regs := s.regs.filter fun e => 0x138000 ≤ e.1 && e.1 < 0x139000
    tamp := s.tamp
    boot := { State.reset.boot with tamperHib := s.boot.tamperHib, vbatLost := s.boot.vbatLost }
    out := s.out
    draws := s.draws
    pending := s.pending }
  if s.pins.vbatOk then t else loseTamp t

/-- VIN_POWER_OFF. -/
def execVinPowerOff (dt : Nat) (s : State) : Host.Outcome State Fault Refusal :=
  .next (powerOff (s.elapse dt))

/-- VIN_LOW: VIN is still valid and has stayed below 1.60 V for more than 10 µs, at `mv` (R95). Without CORE, and in FROZEN, PWR_STATUS takes nothing (R35, R512). -/
def execVinLow (dt : Nat) (mv : Nat) (s : State) : Host.Outcome State Fault Refusal :=
  let s := s.elapse dt
  if s.pins.vinValid && noticesRun s then .next (notify N.VIN_LOW scOk 0 mv (s.setF F.PWR_STATUS_VIN_LOW 1)) else .next s

/-- VBAT_LOSS: with VIN absent the unlock seed is lost; with VIN valid TAMP draws from VIN (R98). -/
def execVbatLoss (dt : Nat) (s : State) : Host.Outcome State Fault Refusal :=
  let s := s.elapse dt
  let s := { s with pins := { s.pins with vbatOk := false } }
  if s.pins.vinValid then .next s else .next (loseTamp s)

/-- Whether a master may write PWR_HIB (R107, R503). -/
def mayHibernate (m : Master) (s : State) : Bool :=
  if s.mode = stAutonomous ∨ s.mode = stReserve then s.owns m
  else if s.mode = stSafeHold then (if s.getF F.SAF_STATUS_SAFE = 1 then s.owns m else true)
  else false

/-- Entry to HIBERNATE up to the notice (R108): transmissions cut, transaction and jobs ended, OWN_N and the heartbeats off. -/
def enterHibernate (m : Master) (s : State) : State :=
  let s := cancelAllJobs (discardTxn (portsOff s))
  let s := { releaseOwnN s with power := { s.power with hibEntry := true } }
  let s := notify N.HIB_ENTER scOk 0 m.bit s
  logEntry N.HIB_ENTER scOk 0 m.bit s

/-- A write of PWR_HIB (R107). -/
def writePwrHib (m : Master) (w : Word) (s : State) : State :=
  if !mayHibernate m s then ignored m 0x10110 s
  else if bitsOf w 15 0 = 0x7181 then enterHibernate m s
  else s

/-- PWR_HIB_ENTER. -/
def execPwrHibEnter (dt : Nat) (m : Master) (w : Word) (s : State) : Host.Outcome State Fault Refusal :=
  .next (gatedWrite m 0x10110 (writePwrHib m w) (s.elapse dt))

/-- HIBERNATE_POWER_OFF: entry completes (R108), unless a freeze came first (R110). -/
def execHibernatePowerOff (dt : Nat) (s : State) : Host.Outcome State Fault Refusal :=
  let s := s.elapse dt
  if s.power.hibEntry && s.mode != stFrozen then
    let s := (((coreOff s).setF F.TOP_STATUS_STATE stHibernate).setF F.TOP_STATUS_CORE_UP 0).setF F.TOP_STATUS_RF_UP 0
    let s := { s with pins := { s.pins with safeN := false } }.setF F.TOP_STATUS_SAFE 0
    .next { s with power := { s.power with hibAt := s.clk.now } }
  else .next s

/-- A write of CUR_WAKE: outside HIBERNATE it is ignored (R109). -/
def writeCurWake (w : Word) (s : State) : State :=
  if s.mode = stHibernate ∧ bitsOf w 15 0 = 0x7181 then restart s else s

/-- CUR_WAKE. In HIBERNATE only the Curator port answers (R109). -/
def execCurWake (dt : Nat) (m : Master) (w : Word) (s : State) : Host.Outcome State Fault Refusal :=
  let s := s.elapse dt
  .next (if m = .curator then writeCurWake w s else ignored m 0x30F04 s)

/-- CUR_HIB_TIMER_EXPIRE: the count-down reaches 0 in HIBERNATE (R109); a value of 0 disables it. -/
def execCurHibTimerExpire (dt : Nat) (s : State) : Host.Outcome State Fault Refusal :=
  let s := s.elapse dt
  let n := s.getF F.CUR_HIB_TIMER_SECONDS
  if s.mode = stHibernate ∧ n ≠ 0 ∧ s.power.hibAt + n * sec ≤ s.clk.now then .next (restart s) else .next s

/-- Energy in nJ added to counter `k` of R100, whole µJ in the register pair and the fraction kept (R111). -/
def addEnergy (k nj : Nat) (s : State) : State :=
  let t := Sparse.get (fun _ => 0) s.power.nrgFrac k + nj
  let s := { s with power := { s.power with nrgFrac := Sparse.set (fun _ => 0) s.power.nrgFrac k (t % 1000) } }
  s.set64 (F.PWR_NRG_LO_NRG k) (F.PWR_NRG_HI_NRG k) (wrap64 (s.get64 (F.PWR_NRG_LO_NRG k) (F.PWR_NRG_HI_NRG k) + t / 1000))

/-- Increments of blocks `k` on (R111). -/
def addEnergies (k : Nat) : List Nat → State → State
  | [], s => s
  | nj :: r, s => addEnergies (k + 1) r (addEnergy k nj s)

/-- ENERGY_COUNTER_UPDATE with the increments of the update in nJ: VIN, and blocks 0 to 8; Miscellaneous takes the rest of VIN (R111). The counters run in FULL,
QUIET_LISTEN and RESERVE (R112). -/
def execEnergyCounterUpdate (dt : Nat) (vin : Nat) (blocks : List Nat) (s : State) : Host.Outcome State Fault Refusal :=
  let s := s.elapse dt
  if s.getF F.PWR_STATUS_MODE = 0 then .next s
  else
    let bs := blocks.take 9
    let s := addEnergy 10 vin (addEnergy 9 (vin - bs.sum) (addEnergies 0 bs s))
    .next { s with power := { s.power with epf := s.power.epf.map fun e => (e.1, e.2 + vin) } }

/-- All eleven counters and their fractions at 0 (R112). -/
def clearEnergy (s : State) : State :=
  let s := { s with power := { s.power with nrgFrac := [] } }
  (List.range 11).foldl (fun s k => s.set64 (F.PWR_NRG_LO_NRG k) (F.PWR_NRG_HI_NRG k) 0) s

/-- PWR_NRG_CLEAR: a write of PWR_NRG_CTRL by either master (R112). -/
def execPwrNrgClear (dt : Nat) (m : Master) (w : Word) (s : State) : Host.Outcome State Fault Refusal :=
  .next (gatedWrite m 0x10120 (fun s => if bitsOf w 0 0 = 1 then clearEnergy s else s) (s.elapse dt))

/-- A window starts in the next CLK_TIM cycle and lasts WIN_MS ms on the slot clock (R113). -/
def startEpf (s : State) : State :=
  let s := ((s.setF F.PWR_EPF_CTRL_BUSY 1).setF F.PWR_EPF_FRAMES_VALUE 0).setF F.PWR_EPF_ENERGY_VALUE 0
  { s with power := { s.power with epf := some (s.clk.slot + 1 + s.getF F.PWR_EPF_CTRL_WIN_MS * ms, 0), epfMixed := false } }

/-- A write of PWR_EPF_CTRL by either master (R113, R114). -/
def writeEpfCtrl (m : Master) (w : Word) (s : State) : State :=
  let busy := s.getF F.PWR_EPF_CTRL_BUSY = 1
  let win := bitsOf w 13 0
  if ¬busy ∧ (win < 10 ∨ 10000 < win) then ignored m 0x10200 s
  else
    let s := if bitsOf w 29 29 = 1 then s.setF F.PWR_EPF_CTRL_DONE 0 else s
    let s := if bitsOf w 28 28 = 1 then s.setF F.PWR_EPF_CTRL_MIXED 0 else s
    let s := if busy then s else s.setF F.PWR_EPF_CTRL_WIN_MS win
    if bitsOf w 31 31 = 0 then s
    else if busy then ignored m 0x10200 s
    else startEpf s

/-- EPF_START. -/
def execEpfStart (dt : Nat) (m : Master) (w : Word) (s : State) : Host.Outcome State Fault Refusal :=
  .next (gatedWrite m 0x10200 (writeEpfCtrl m w) (s.elapse dt))

/-- A 32-bit value that stays at its maximum. -/
def sat32 (n : Nat) : Nat := min n 0xFFFFFFFF

/-- The window's results (R113). -/
def endEpf (nj : Nat) (s : State) : State :=
  let frames := s.getF F.PWR_EPF_FRAMES_VALUE
  let energy := nj / 1000
  let s := s.setF F.PWR_EPF_ENERGY_VALUE (sat32 energy)
  let s := s.setF F.PWR_EPF_NJ_VALUE (if frames = 0 then 0xFFFFFFFF else sat32 (energy * 1000 / frames))
  let s := s.setF F.PWR_EPF_POWER_VALUE (sat32 (energy / s.getF F.PWR_EPF_CTRL_WIN_MS))
  let s := (s.setF F.PWR_EPF_CTRL_DONE 1).setF F.PWR_EPF_CTRL_BUSY 0
  let s := if s.power.epfMixed then s.setF F.PWR_EPF_CTRL_MIXED 1 else s
  notify N.EPF_DONE scOk 0 frames { s with power := { s.power with epf := none } }

/-- EPF_DONE: the window's end on the slot clock is reached (R113). -/
def execEpfDone (dt : Nat) (s : State) : Host.Outcome State Fault Refusal :=
  let s := s.elapse dt
  match s.power.epf with
  | some (e, nj) => if s.clk.running ∧ e ≤ s.clk.slot then .next (endEpf nj s) else .next s
  | none => .next s

end Sys2Proof.Machine
end

