-- ==== Sys2Proof/Machine/SafetyMon.lean ====
section
/-! DEFINITION. The monitors of functional safety, exit from the safe state, and monitor tests (R34, R53, R488, R489, R494, R501). -/

namespace Sys2Proof.Machine

/-- Monitored clocks in the bit order of CLK_STATUS, then REFCLK at bit 6: nominal count in a window of 100 monitor cycles, and period in root cycles (R29, R34). -/
def monClocks : List (Nat × Nat × Nat) :=
  [(0, 3200, 3), (1, 800, 12), (2, 1200, 8), (3, 600, 16), (4, 400, 24), (5, 200, 48), (6, 80, 120)]

/-- The clocks monitored in a device state (R502). -/
def monitored (b : Nat) (s : State) : Bool :=
  if s.mode = stReserve then b != 3 && b != 4 else s.mode != stHibernate && s.mode != stFrozen

/-- Whether a count and the shortest pulse in ps pass the checks of R34. -/
def clockOk (nominal root count pulse : Nat) : Bool :=
  100 * count ≤ 105 * nominal && 95 * nominal ≤ 100 * count && 250 * root ≤ 3 * pulse

/-- The bits of the monitored clocks that fail their checks in a window. -/
def clockFaults (counts pulses : List Nat) (s : State) : Nat :=
  (monClocks.filter fun c => monitored c.1 s && !clockOk c.2.1 c.2.2 (counts.getD c.1 c.2.1) (pulses.getD c.1 (c.2.2 * 100))).foldl (fun n c => n ||| 2 ^ c.1) 0

/-- CLK_MON_WINDOW: a window of 100 monitor cycles ends with a count and a shortest pulse in ps per clock (CLK_STATUS order, REFCLK at 6) and the lock of the
root PLL. A fault that was not live is latched, logged and leads to the safe state (R34, R53). -/
def execClkMonWindow (dt : Nat) (counts pulses : List Nat) (locked : Bool) (s : State) : Host.Outcome State Fault Refusal :=
  let s := s.elapse dt
  if s.clk.monitor = false ∨ s.mode = stHibernate ∨ s.mode = stFrozen then .next s
  else
    let bad := clockFaults counts pulses s + (if locked then 0 else 256)
    let live := bad &&& (s.reg 0x10000).toNat
    let s := ((s.setF F.CLK_STATUS_DIV_OK (0x3F - bad % 64)).setF F.CLK_STATUS_REF_OK (1 - bad / 64 % 2)).setF F.CLK_STATUS_ROOT_LOCK (bit locked)
    let s := if locked then s else s.setF F.TOP_STATUS_CORE_UP 0
    if live = 0 then .next s
    else
      let s := s.setReg 0x10004 (s.reg 0x10004 ||| BitVec.ofNat 32 live)
      let s := notify N.CLOCK_FAULT scSafeHold 0 (s.reg 0x10004).toNat s
      .next (enterSafe 4 s)

/-- SAF_STATUS.EXIT_OK (R494). -/
def exitOk (s : State) : Bool :=
  s.getF F.SAF_STATUS_SAFE == 1 && !s.fuses.pairRoot && s.saf.fromAuto && s.getF F.SAF_STATUS_RESET_ONLY == 0
    && s.getF F.SAF_MON_SUP_FAULT == 0 && s.getF F.SAF_MON_TEMP_FAULT == 0

/-- The safe state is left (R494). -/
def leaveSafe (s : State) : State :=
  let s := ((s.setF F.SAF_STATUS_CAUSE 0).setF F.SAF_STATUS_SAFE 0).setF F.TOP_STATUS_SAFE 0
  let s := syncMode ({ s with pins := { s.pins with safeN := false } }.setF F.TOP_STATUS_STATE stAutonomous)
  notify N.SAFE_EXIT scOk 0 0 ((resumePorts s).incF (F.SAF_CNT_COUNT 1))

/-- SAFE_EXIT: a write of SAF_CMD (R494). -/
def writeSafCmd (m : Master) (w : Word) (s : State) : State :=
  if !s.owns m then ignored m 0x17000c s
  else if bitsOf w 15 0 != 0x7184 then s
  else if exitOk s then leaveSafe s
  else ignored m 0x17000c (s.incF (F.SAF_CNT_COUNT 2))

/-- SAFE_EXIT. -/
def execSafeExit (dt : Nat) (m : Master) (w : Word) (s : State) : Host.Outcome State Fault Refusal :=
  .next (gatedWrite m 0x17000c (writeSafCmd m w) (s.elapse dt))

/-- Whether the supply and temperature monitors run (R502). -/
def monitorsRun (s : State) : Bool := s.mode != stHibernate && s.mode != stFrozen && s.mode != stTamperHold

/-- SUPPLY_FAULT: supply `i` of SAF_MON has been out of range for more than 5 µs (R489, R97). -/
def execSupplyFault (dt : Nat) (i : Fin 4) (s : State) : Host.Outcome State Fault Refusal :=
  let s := s.elapse dt
  if !monitorsRun s || s.getF ⟨0x170008, i.val, i.val⟩ = 1 then .next s
  else
    let s := s.setF ⟨0x170008, i.val, i.val⟩ 1
    if s.mode = stStarting && 2 ≤ i.val then .next s
    else
      let s := notify N.SUPPLY_FAULT scSafeHold 0 (s.getF F.SAF_MON_SUP_FAULT) (s.incF (F.SAF_CNT_COUNT 5))
      .next (enterSafe 7 s)

/-- SUPPLY_IN_RANGE: supply `i` is within its range again (R489); in FROZEN SAF_MON keeps its value (R512). -/
def execSupplyInRange (dt : Nat) (i : Fin 4) (s : State) : Host.Outcome State Fault Refusal :=
  let s := s.elapse dt
  if s.mode = stFrozen then .next s else .next (s.setF ⟨0x170008, i.val, i.val⟩ 0)

/-- The hottest of some readings. -/
def hottest (ts : List Int) : Int := ts.foldl max (-128)

/-- TEMP_SAMPLE: the readings of the 1 ms sample (R489). -/
def execTempSample (dt : Nat) (ts : List Int) (s : State) : Host.Outcome State Fault Refusal :=
  let s := s.elapse dt
  if !monitorsRun s then .next s
  else
    let t := hottest ts
    let hot := if 115 < t then s.saf.hot + 1 else 0
    let cool := if t ≤ 105 then s.saf.cool + 1 else 0
    let s := { s with saf := { s.saf with hot := hot, cool := cool } }.setF F.SAF_MON_TJ_MAX (ofSigned 8 t)
    if s.getF F.SAF_MON_TEMP_FAULT = 1 then
      .next (if 1000 ≤ cool then s.setF F.SAF_MON_TEMP_FAULT 0 else s)
    else if 10 ≤ hot then
      let s := (s.setF F.SAF_MON_TEMP_FAULT 1).incF (F.SAF_CNT_COUNT 6)
      .next (enterSafe 8 (notify N.TEMP_FAULT scSafeHold 0 (ofSigned 32 t) s))
    else .next s

/-- One parity error (R488): at a register or table word, or at a key slot, which is also erased. -/
def parityError (a : ParityAt) (s : State) : State :=
  let s := s.incF (F.SAF_CNT_COUNT 4)
  match a with
  | .word addr => enterSafe 5 (notify N.CFG_PARITY scSafeHold 0 addr.toNat s)
  | .key slot => enterSafe 5 (alarmErase 0 (notify N.CFG_PARITY scSafeHold 0 (0x130000 + slot.val) s))

/-- PARITY_WALK: the background walk's parity errors, if any (R488). -/
def execParityWalk (dt : Nat) (bad : List ParityAt) (s : State) : Host.Outcome State Fault Refusal :=
  let s := s.elapse dt
  if monitorsRun s then .next (bad.foldl (fun s a => parityError a s) s) else .next s

/-- A write of SAF_TEST (R501). -/
def writeSafTest (m : Master) (w : Word) (s : State) : State :=
  if !s.owns m || s.mode != stAutonomous || s.getF F.SAF_TEST_BUSY == 1 || 6 < bitsOf w 3 0 then ignored m 0x170010 s
  else
    let s := s.setF F.SAF_TEST_TARGET (bitsOf w 3 0)
    if bitsOf w 31 31 = 1 then { s.setF F.SAF_TEST_BUSY 1 with saf := { s.saf with test := some (bitsOf w 3 0, s.clk.now) } } else s

/-- SAF_TEST. -/
def execSafTest (dt : Nat) (m : Master) (w : Word) (s : State) : Host.Outcome State Fault Refusal :=
  .next (gatedWrite m 0x170010 (writeSafTest m w) (s.elapse dt))

/-- The class of R499 that a test target covers. -/
def testClass (t : Nat) : Nat := [6, 9, 9, 5, 7, 1, 1].getD t 0

/-- SAF_TEST_DONE: the running test ends, its test channel having detected within its bound or not (R501); in FROZEN nothing ends (R512). -/
def execSafTestDone (dt : Nat) (detected : Bool) (s : State) : Host.Outcome State Fault Refusal :=
  let s := s.elapse dt
  if s.mode = stFrozen then .next s else
  match s.saf.test with
  | none => .next s
  | some (t, _) =>
    let s := { s.setF F.SAF_TEST_BUSY 0 with saf := { s.saf with test := none } }
    if detected then .next (((s.setF ⟨0x170014, t, t⟩ 1).setF ⟨0x170014, 8 + t, 8 + t⟩ 0).incF (F.SAF_CNT_COUNT 7))
    else
      let s := ((s.setF ⟨0x170014, 8 + t, 8 + t⟩ 1).setF ⟨0x170014, t, t⟩ 0).incF (F.SAF_CNT_COUNT 8)
      .next (notify (N.TEST_FAIL (testClass t)) scTimeout 0 t s)

end Sys2Proof.Machine
end

