-- ==== Sys2Proof/Machine/Shaper.lean ====
section
/-! DEFINITION. The shaper as commands: entry, decisions on ports 16 to 18, and sampling (R292 to R303). -/

namespace Sys2Proof.Machine

/-- A frame refused at entry ends with its status, reported to its source (R292). -/
def endEntry (f : SFrame) (status : Nat) (s : State) : State :=
  match f.load with
  | .downlink i =>
    let bh : Bool := match s.dl i with
      | some d => d.source == .backhaul || d.source == .host
      | none => false
    dlEnd i status (if bh then s.incF (F.BHL_CNT_COUNT 8) else s)
  | .record _ b => poolFree? b s
  | .ether _ => s

/-- A frame enters or is refused (R292). -/
def enterFrame (f : SFrame) (s : State) : State :=
  let s := s.updShp fun x => { x with entering := x.entering.erase f }
  match entryRefusal f s with
  | some (order, st) => endEntry f st (refuseEntry f order s)
  | none => enterQueue f s

/-- SHAPER_ENTRY: the oldest frame on its way into the shaper whose journal position is covered enters (R292, R474). -/
def execShaperEntry (dt : Nat) (s : State) : Host.Outcome State Fault Refusal :=
  let s := s.elapse dt
  if !s.clk.running then .next s else
  match s.shp.entering.find? fun f => covered f.waitPos s with
  | some f => .next (enterFrame f s)
  | none => .next s

/-- Octets of a frame's record body. -/
def bodyOctets (f : SFrame) : Nat := match f.load with | .record r _ => r.body.length | _ => 0

/-- Port 16, 17 or 18 can accept a frame: its link up and not paused, and no BHL job of it under way (R297, R435, R436). -/
def portOpen (p : Nat) (s : State) : Bool :=
  p == 18 || (s.getF (F.BHL_PORT_STATUS_LINK (p - 16)) == 1 && s.getF (F.BHL_PORT_STATUS_PAUSED (p - 16)) == 0
    && !(s.inFlight.any fun e => match e.2.work with | .bhl b _ => b + 16 == p | _ => false))

/-- The pacing time of a port has come (R297). -/
def paceTime (p : Nat) (s : State) : Nat := Sparse.get (fun _ => 0) s.shp.pace p
def paced (p : Nat) (s : State) : Bool := s.getF (F.SHP_PORT_RATE_MBPS p) == 0 || paceTime p s ≤ s.clk.slot

/-- A class holds a frame that the port can take; toward the host its ring has the slots that the frame's parts need (R297, R450). -/
def classEligible (p c : Nat) (s : State) : Bool :=
  match chooseQueue p c s with
  | some q => match q.frames.head? with
    | some f => p != 18 || ringFree c (bodyOctets f) s
    | none => false
  | none => false

/-- T after a dispatch (R297). -/
def payPace (p len : Nat) (s : State) : State :=
  let rate := s.getF (F.SHP_PORT_RATE_MBPS p)
  if rate = 0 then s
  else
    let t := max (paceTime p s) s.clk.slot + (len * 1600 + rate - 1) / rate
    s.updShp fun x => { x with pace := Sparse.set (fun _ => 0) x.pace p t }

/-- The frame handed to a BHL or HDM job (R294 step 3). -/
def handOn (p : Nat) (f : SFrame) (s : State) : State :=
  match f.load with
  | .record r b =>
    if p = 18 then sendHost r b s
    else createJob (fun s => newJob ecBHL (svcPrio f.cls s) (ecSHP * 4096) (b.getD noHandle) noHandle (List.replicate 16 0) (.bhl (p - 16) f.load)) s
  | _ => createJob (fun s => newJob ecBHL (svcPrio f.cls s) (ecSHP * 4096) noHandle noHandle (List.replicate 16 0) (.bhl (p - 16) f.load)) s

/-- The head frame `f` of the chosen queue is dispatched: tags and virtual times pay its length, and it is handed on (R293, R294). -/
def dispatchFrame (p c : Nat) (q : Queue) (f : SFrame) (s : State) : State :=
  let len := f.len + s.getF (F.SHP_PORT_OVH p)
  let s := setClassV p c q.tag (payClass p c len s)
  let s := dropHead { q with tag := (q.tag + cost len (subWeight p q.sub s)) % 2 ^ 48 } s
  let s := noteServed p c ((s.incF (F.SHP_CNT_COUNT 1)).incF (F.SHP_CNT_COUNT 2))
  handOn p f (payPace p len s)

/-- SHAPER_DECISION on port 16 + `port` (R294, R297). -/
def execShaperDecision (dt : Nat) (port : Fin 3) (s : State) : Host.Outcome State Fault Refusal :=
  let s := s.elapse dt
  let p := 16 + port.val
  if !s.clk.running ∨ !portOpen p s ∨ !paced p s then .next s
  else match chooseClass p ((List.range 8).filter fun c => classEligible p c s) s with
    | some c => match chooseQueue p c s with
      | some q => match q.frames.head? with
        | some f => .next (dispatchFrame p c q f s)
        | none => .next s
      | none => .next s
    | none => .next s

/-- What a sample record shows of some queued frames (R303): frames, their octets, and the delay of the oldest. -/
def depthBytes (fs : List SFrame) (s : State) : List Byte :=
  let head := match fs with
    | [] => 0
    | f :: r => (s.clk.slot - r.foldl (fun m g => min m g.arrived) f.arrived) / us
  leBytes 4 fs.length ++ leBytes 4 ((fs.map (·.len)).sum) ++ leBytes 4 (min head (2 ^ 32 - 1))

/-- Bytes 8 to 11 of a sample record but for LOSS and PHASE. -/
def sampleId (watch : Bool) (p c sub : Nat) : Nat := bit watch * 2 ^ 31 + p * 2 ^ 26 + c * 2 ^ 23 + sub % 2 ^ 18

/-- The sample ring's size, and whether it is full (R303). -/
def sringSize (s : State) : Nat := 2 ^ s.getF F.SHP_SRING_CTRL_LOG2N
def sringFull (s : State) : Bool := (s.getF F.SHP_SRING_WR_COUNT + 2 ^ 32 - s.getF F.SHP_SRING_RD_COUNT) % 2 ^ 32 == sringSize s

/-- A sample record written, or lost (R303). -/
def putSample (id : Nat) (body : List Byte) (s : State) : State :=
  if sringFull s then
    let s := s.satF F.SHP_SAMPLE_LOST_LOST 1
    if s.shp.lost then s else notify N.SAMPLE_LOST scOk 0 (s.getF F.SHP_SAMPLE_LOST_LOST) (s.updShp fun x => { x with lost := true })
  else
    let n := sringSize s
    let wr := s.getF F.SHP_SRING_WR_COUNT
    let base := s.getF F.SHP_SRING_BASE_BASE / (32 * n) * (32 * n)
    let w := id + bit s.shp.lost * 2 ^ 22 + wr / n % 2 * 2 ^ 21
    let s := s.setBytes (base + 32 * (wr % n)) (leBytes 8 s.clk.slot ++ leBytes 4 w ++ body)
    (s.incF F.SHP_SRING_WR_COUNT).updShp fun x => { x with lost := false }

/-- The record of a port and class (R303). -/
def classSample (p c : Nat) (s : State) : State :=
  let fs := ((classQueues p c s).map (·.frames)).flatten
  let k := 8 * p + c
  putSample (sampleId false p c 0) (depthBytes fs s ++ leBytes 4 (Sparse.get (fun _ => 0) s.shp.served k)
    ++ leBytes 2 (min (Sparse.get (fun _ => 0) s.shp.drops k) 65535) ++ leBytes 2 s.shp.sets) s

/-- The record of an enabled SHP_WATCHk (R303). -/
def watchSample (k : Nat) (s : State) : State :=
  let p := s.getF (F.SHP_WATCH_PORT k)
  let c := s.getF (F.SHP_WATCH_CLASS k)
  let sub := s.getF (F.SHP_WATCH_SUB k)
  let body := match findQueue p c sub s with
    | some q => depthBytes q.frames s ++ leBytes 4 q.served ++ leBytes 2 (min q.drops 65535)
    | none => List.replicate 18 0
  putSample (sampleId true p c sub) (body ++ leBytes 2 s.shp.sets) s

/-- A sample set (R302); the counts since the previous set start anew. -/
def sampleSet (s : State) : State :=
  let s := s.updShp fun x => { x with sets := x.sets + 1, lastSet := some s.clk.slot }
  let s := (List.range 19).foldl (fun s p => (List.range 8).foldl (fun s c =>
    if s.getF (F.SHP_PORT_SAMPLE p) / 2 ^ c % 2 = 1 then classSample p c s else s) s) s
  let s := (List.range 16).foldl (fun s k => if s.getF (F.SHP_WATCH_EN k) = 1 then watchSample k s else s) s
  s.updShp fun x => { x with served := [], drops := [], queues := x.queues.map fun q => { q with served := 0, drops := 0 } }

/-- SHP_SAMPLE_SET: the slot clock is at a whole multiple of PERIOD_MS from the boundary of R302. -/
def execShpSampleSet (dt : Nat) (s : State) : Host.Outcome State Fault Refusal :=
  let s := s.elapse dt
  let p := s.getF F.SHP_SRING_CTRL_PERIOD_MS * ms
  if s.clk.running ∧ s.getF F.SHP_SRING_CTRL_EN = 1 ∧ s.shp.epoch < s.clk.slot ∧ (s.clk.slot - s.shp.epoch) % max p 1 = 0 ∧ s.shp.lastSet ≠ some s.clk.slot then
    .next (sampleSet s)
  else .next s

/-- SHP_SRING_RD_WRITE, by either master (R48, R303). -/
def execShpSringRdWrite (dt : Nat) (m : Master) (w : Word) (s : State) : Host.Outcome State Fault Refusal :=
  .next (gatedWrite m 0xf010c (fun s => writeRingRd m 0xf010c F.SHP_SRING_RD_COUNT (s.getF F.SHP_SRING_WR_COUNT) (sringSize s) w s) (s.elapse dt))

end Sys2Proof.Machine
end

