-- ==== Sys2Proof/Machine/Slots.lean ====
section
/-! DEFINITION. Slot boundaries, realignment and the boundary checker as commands (R201 to R206). -/

namespace Sys2Proof.Machine

/-- A pending transaction whose boundary this is applies before the work of the boundary (R131, R134, R301). -/
def commitFirst (b : Nat) (s : State) : State := if s.txn = txPending ∧ s.ctl.commitFrom ≤ b then commitNow s else s

/-- SLOT_BOUNDARY: the slot clock has reached the next boundary (R201). -/
def execSlotBoundary (dt : Nat) (s : State) : Host.Outcome State Fault Refusal :=
  let s := s.elapse dt
  match s.slt.next with
  | some b => if s.clk.running ∧ b ≤ s.clk.slot then .next (boundary b (commitFirst b s)) else .next s
  | none => .next s

/-- A write of SLT_CMD (R205): the slot in progress is lengthened onto the ideal boundary at or after its end. -/
def writeSltCmd (m : Master) (w : Word) (s : State) : State :=
  if bitsOf w 0 0 = 0 then (if s.owns m then s else ignored m 0xc0028 s)
  else match s.slt.next with
  | none => ignored m 0xc0028 s
  | some b =>
    let (i, n) := idealFrom b s
    if !s.owns m ∨ 0 ≤ toSigned 32 (s.getF F.SLT_SEN_DIFF_VALUE) ∨ n < s.slt.nextSen then ignored m 0xc0028 s
    else
      let s := (placeNext i.toNat (n.toNat % 2 ^ 40) s).incF (F.SLT_CNT_COUNT 9)
      notify N.REALIGNED scOk 0 (n.toNat - s.sen - 1) s

/-- SLT_REALIGN. -/
def execSltRealign (dt : Nat) (m : Master) (w : Word) (s : State) : Host.Outcome State Fault Refusal :=
  .next (gatedWrite m 0xc0028 (writeSltCmd m w) (s.elapse dt))

/-- A slot timing fault of a kind with its measure: class DF-E (R206, R234). -/
def slotFault (kind v : Nat) (s : State) : State :=
  enterSafe 3 (notify N.SLOT_FAULT scSafeHold 0 (kind * 2 ^ 30 + min v 0x3FFFFFFF) (s.incF (F.SLT_CNT_COUNT 8)))

/-- What the checker finds wrong with the boundary `b` and SEN that the slot engine has issued (R206). -/
def checkSlot (b sen : Nat) (s : State) : Option (Nat × Nat) :=
  if s.slt.chkNext + 100 * us < s.clk.slot then some (1, (s.clk.slot - s.slt.chkNext) / us)
  else if 100 * us < ((b : Int) - s.slt.chkBound).natAbs then some (0, ((b : Int) - s.slt.chkBound).natAbs / us)
  else if sen ≠ s.slt.chkSen then some (2, 0)
  else none

/-- SLOT_CHECK: the checker compares. `upset` is the boundary and SEN that a faulty slot engine shows in the place of its own. -/
def execSlotCheck (dt : Nat) (upset : Option (BitVec 64 × BitVec 40)) (s : State) : Host.Outcome State Fault Refusal :=
  let s := s.elapse dt
  if !s.clk.running ∨ s.slt.next.isNone ∨ s.slt.past.isEmpty then .next s
  else
    let (b, sen) := match upset with
      | some (b, n) => (b.toNat, n.toNat)
      | none => (s.bound, s.sen)
    match checkSlot b sen s with
    | some (k, v) => .next (slotFault k v s)
    | none => .next s

end Sys2Proof.Machine
end

