-- ==== Sys2Proof/Machine/TxnCmds.lean ====
section
/-! DEFINITION. Transactions: BEGIN, COMMIT, ROLLBACK, the commit boundary and the timeout (R124 to R133). -/

namespace Sys2Proof.Machine

/-- The value that a refused BEGIN returns (TXN_BEGIN). -/
def beginDenied (reason : Nat) : Word := BitVec.ofNat 32 (scDenied * 2 ^ 16 + reason * 256)

/-- Why a BEGIN by a master is refused, if it is (R125). -/
def beginRefusal (m : Master) (s : State) : Option Nat :=
  if !s.owns m then some rsNotOwner else if s.txn ≠ txIdle then some rsBusy else if s.mode ≠ stAutonomous then some rsState else none

/-- A read of TXN_BEGIN (R125, R126). -/
def readBegin (m : Master) (s : State) : Word × State :=
  match beginRefusal m s with
  | some r => (beginDenied r, deny m r 0x20800 s)
  | none =>
    let tag := s.ctl.nextTag
    let s := ((s.setF F.TXN_STATUS_STATE txOpen).setF F.TXN_STATUS_TAG tag).setF F.TXN_STATUS_MASTER m.bit
    let s := s.setF F.TXN_STATUS_POISONED 0
    (BitVec.ofNat 32 tag, { s with ctl := { s.ctl with
      nextTag := if tag = 255 then 1 else tag + 1
      txnEnd := s.clk.slot + s.getF F.TXN_TIMEOUT_MS * ms
      shadows := [] } })

/-- TXN_BEGIN: a master reads the register. -/
def execTxnBegin (dt : Nat) (m : Master) (s : State) : Host.Outcome State Fault Refusal :=
  let s := { s.elapse dt with detail := 0 }
  if answers 0x20800 s ∧ s.mode ≠ stFrozen then
    let (w, s) := readBegin m s
    .next (s.emit (.value m.bit w))
  else if s.mode = stFrozen then .next (s.emit (.value m.bit (s.reg 0x20800)))
  else .next ((accessErr m errGated 0x20800 s).emit (.value m.bit gatedValue))

/-- A write of TXN_COMMIT (R130). -/
def writeCommit (m : Master) (w : Word) (s : State) : State :=
  if !s.owns m then deny m rsNotOwner 0x20804 s
  else if s.txn ≠ txOpen then deny m rsNoTxn 0x20804 s
  else if bitsOf w 7 0 ≠ s.getF F.TXN_STATUS_TAG then deny m rsBadTag 0x20804 s
  else
    let s := s.setF F.TXN_STATUS_STATE txPending
    { s with ctl := { s.ctl with commitFrom := s.clk.slot + 20 * us } }

/-- TXN_COMMIT. -/
def execTxnCommit (dt : Nat) (m : Master) (w : Word) (s : State) : Host.Outcome State Fault Refusal :=
  .next (gatedWrite m 0x20804 (writeCommit m w) { s.elapse dt with detail := 0 })

/-- TXN_COMMIT_BOUNDARY: the slot boundary that has come is at least 20 µs after the COMMIT (R131). -/
def execTxnCommitBoundary (dt : Nat) (s : State) : Host.Outcome State Fault Refusal :=
  let s := s.elapse dt
  match s.slt.next with
  | some b => if s.clk.running ∧ s.txn = txPending ∧ b ≤ s.clk.slot ∧ s.ctl.commitFrom ≤ b then .next (commitNow s) else .next s
  | none => .next s

/-- A write of TXN_ROLLBACK (R132). -/
def writeRollback (m : Master) (w : Word) (s : State) : State :=
  if !s.owns m then deny m rsNotOwner 0x20808 s
  else if s.txn ≠ txOpen then deny m rsNoTxn 0x20808 s
  else if bitsOf w 7 0 ≠ s.getF F.TXN_STATUS_TAG then deny m rsBadTag 0x20808 s
  else rollback scCancelled s

/-- TXN_ROLLBACK. -/
def execTxnRollback (dt : Nat) (m : Master) (w : Word) (s : State) : Host.Outcome State Fault Refusal :=
  .next (gatedWrite m 0x20808 (writeRollback m w) { s.elapse dt with detail := 0 })

/-- TXN_TIMEOUT: the time since BEGIN has passed on the slot clock (R132). -/
def execTxnTimeout (dt : Nat) (s : State) : Host.Outcome State Fault Refusal :=
  let s := s.elapse dt
  if s.clk.running ∧ s.txn = txOpen ∧ s.ctl.txnEnd ≤ s.clk.slot then .next (rollback scTimeout s) else .next s

end Sys2Proof.Machine
end

