-- ==== Sys2Proof/Machine/Bus.lean ====
section
/-! DEFINITION. The register bus as both masters use it: reads with their views, captures and clears, windows, and writes (R9 to R20, R36 to R43, R127, R148, R512). -/

namespace Sys2Proof.Machine

/-! Views: register words that show other state. -/

/-- CUR_OWN_REMAIN: whole ms to the lease deadline. -/
def ownRemain (s : State) : Nat :=
  match s.ctl.lease with
  | some d => (d - s.clk.now) / ms
  | none => 0

/-- CUR_FIFO_STATUS with its live bits. -/
def fifoStatus (s : State) : Word :=
  s.reg 0x30014 ||| BitVec.ofNat 32
    (bit s.cur.busy * 2 ^ 23 + bit s.cur.attn * 2 ^ 22 + s.cur.cmd.length * 2 ^ 16 + s.cur.rsp.length % 128 * 2 ^ 8 + s.cur.rsp.length % 128)

/-- CUR_HIB_TIMER: it counts down once per second in HIBERNATE. -/
def hibTimer (s : State) : Nat :=
  if s.mode = stHibernate then s.getF F.CUR_HIB_TIMER_SECONDS - (s.clk.now - s.power.hibAt) / sec else s.getF F.CUR_HIB_TIMER_SECONDS

/-- The seven words of TIM_Dn at one CLK_TIM cycle: seconds, nanoseconds, fraction, epoch and slot clock. -/
def domainWord (n k : Nat) (s : State) : Nat :=
  let d := s.domain n
  match k with
  | 0 => d.t / unitsPerSec
  | 1 => d.t / unitsPerSec / 2 ^ 32
  | 2 => d.t % unitsPerSec / 2 ^ 32
  | 3 => d.t % 2 ^ 32
  | 4 => d.epoch
  | 5 => s.clk.slot
  | _ => s.clk.slot / 2 ^ 32

/-- ARM_LEFT_MS: the time left on an armed step (R420). -/
def armLeft (n : Nat) (s : State) : Nat :=
  match (s.domain n).armed with
  | some (_, at_) => (at_ + sec - s.clk.slot) / ms
  | none => 0

/-- The word of a register as it stands, views computed. -/
def liveReg (a : Nat) (s : State) : Word :=
  match a with
  | 0x3000C => BitVec.ofNat 32 (ownRemain s)
  | 0x30014 => fifoStatus s
  | 0x30F00 => BitVec.ofNat 32 (hibTimer s)
  | 0x11000C => BitVec.ofNat 32 (poolFreeCount s)
  | 0x110010 => BitVec.ofNat 32 (s.mem.minFree.getD (poolFreeCount s))
  | 0x140000 => BitVec.ofNat 32 s.clk.slot
  | 0x140004 => BitVec.ofNat 32 (s.clk.slot / 2 ^ 32)
  | 0x140130 => putBits (s.reg a) 9 0 (armLeft 0 s)
  | 0x140230 => putBits (s.reg a) 9 0 (armLeft 1 s)
  | 0x150080 => BitVec.ofNat 32 (seqNext s)
  | 0x150084 => BitVec.ofNat 32 (seqNext s / 2 ^ 32)
  | 0x150088 => BitVec.ofNat 32 (Sparse.get (fun _ => 0) s.bhl.lastSeq 0)
  | 0x15008C => BitVec.ofNat 32 (Sparse.get (fun _ => 0) s.bhl.lastSeq 0 / 2 ^ 32)
  | 0x170000 => putBits (s.reg a) 30 30 (bit (exitOk s))
  | _ =>
    if 0x140100 ≤ a ∧ a < 0x14011C then BitVec.ofNat 32 (domainWord 0 ((a - 0x140100) / 4) s)
    else if 0x140200 ≤ a ∧ a < 0x14021C then BitVec.ofNat 32 (domainWord 1 ((a - 0x140200) / 4) s)
    else s.reg a

/-- What a read of an assigned register shows: reserved and WO bits read as 0 (R10, R11). -/
def shownReg (a : Nat) (s : State) : Word :=
  match regSpec? a with
  | some r => liveReg a s &&& r.assigned &&& ~~~r.wo
  | none => 0

/-! Wide values (R17). -/

/-- The number of words of the wide value whose lowest-addressed word is at an address; 0 elsewhere. -/
def wideWords (a : Nat) : Nat :=
  if [0x20814, 0xC0004, 0xC0010, 0xC0018, 0xC0050, 0x108020, 0x134004, 0x140000, 0x140010, 0x140120, 0x140144, 0x140168, 0x140220, 0x140244, 0x140268,
      0x150040, 0x150048, 0x150080, 0x150088, 0x160008, 0x160018, 0x160020, 0x160028, 0x160030, 0x160038, 0x17800C, 0x178014].contains a then 2
  else if 0x10140 ≤ a ∧ a < 0x10198 ∧ (a - 0x10140) % 8 = 0 then 2
  else if a = 0x150050 ∨ a = 0x150060 ∨ a = 0x134010 then 4
  else if a = 0x140048 then 6
  else if a = 0x140100 ∨ a = 0x140200 then 7
  else if a = 0x20040 then 16
  else 0

/-- The words above the lowest one of a wide value, captured at their addresses. -/
def wideCapture (a : Nat) (s : State) : List (Nat × Word) :=
  (List.range (wideWords a - 1)).map fun i => (a + 4 + 4 * i, shownReg (a + 4 + 4 * i) s)

/-- A captured word of a master. -/
def State.captured (s : State) (m : Master) (k : Nat) : Option Word := ((s.cap m).words.find? fun e => e.1 == k).map (·.2)

/-- RC fields cleared by a read (R11, R19); BMP_POOL_MIN and the PEAK of RFPn_POOL_STATUS start again from the present count. -/
def clearOnRead (a : Nat) (rc : Word) (s : State) : State :=
  if rc = 0 then s
  else if a = 0x110010 then { s with mem := { s.mem with minFree := some (poolFreeCount s) } }
  else if rc = 0x7F0000#32 then s.setReg a (s.reg a &&& ~~~rc ||| s.reg a <<< 16 &&& rc)
  else s.setReg a (s.reg a &&& ~~~rc)

/-- A read of an assigned register that answers: the captured word or the value shown, with the capture and the clear; nothing clears in FROZEN (R17, R512). -/
def readPlain (m : Master) (a : Nat) (r : RegSpec) (s : State) : Word × State :=
  let w := (s.captured m a).getD (shownReg a s)
  let s := if wideWords a = 0 then s else s.addCap m (wideCapture a s)
  (w, if s.mode = stFrozen then s else clearOnRead a r.rc s)

/-- COEX_PAIR0 to COEX_PAIR3 are shared by the 16 port blocks (R39). -/
def canonAddr (a : Nat) : Nat :=
  if 0x40000 ≤ a ∧ a < 0xC0000 ∧ 0xE0 ≤ (a - 0x40000) % 0x8000 ∧ (a - 0x40000) % 0x8000 < 0xF0 then 0x40000 + (a - 0x40000) % 0x8000 else a

/-- A register read, with the reads that act (R125, R410, R516). -/
def readReg (m : Master) (a : Nat) (r : RegSpec) (s : State) : Word × State :=
  if a = 0x20800 ∧ s.mode ≠ stFrozen then readBegin m s
  else if a = 0x134010 ∧ s.mode ≠ stFrozen then readChal m s
  else if a = 0x178040 then readVdata0 s
  else if a = 0x17807C then readVdata15 s
  else if 0x178040 ≤ a ∧ a < 0x178080 ∧ s.mode ≠ stFrozen then (0, s)
  else readPlain m a r s

/-! Windows (R41 to R43). -/

/-- The page of a window that a master sees (R42). -/
def windowPage (m : Master) (w : Nat) (s : State) : Nat :=
  if windowPages w = 1 then 0
  else match m with
    | .host => s.getF (F.TOP_WPAGE_H_PAGE w)
    | .curator => s.getF (F.TOP_WPAGE_C_PAGE w)

/-- Word `k` of some bytes. -/
def wordAt (b : List Byte) (k : Nat) : Word := BitVec.ofNat 32 (ofLe ((b.drop (4 * k)).take 4))

/-- Words of a key slot's attributes (R389). -/
def slotWord (i k : Nat) (s : State) : Word :=
  let x := s.slotOf i
  BitVec.ofNat 32 (match k with
    | 0 => bit x.full * 2 ^ 31 + bit x.klen * 2 ^ 30 + bit x.xnr * 2 ^ 29 + bit x.expired * 2 ^ 28 + x.origin % 4 * 2 ^ 26 + bit x.closing * 2 ^ 25
        + x.perms % 32 * 2 ^ 20 + x.depth % 16 * 2 ^ 16 + (if i < 64 then slotGen i s % 65536 else 0)
    | 1 => x.uses
    | 2 => x.parent % 256 * 2 ^ 24 + x.parentGen % 65536
    | _ => min (slotPins i s) 255 * 2 ^ 24 + (if i < 64 then 0 else x.nix % 2 ^ 17))

/-- Words of a neighbour table entry (R233). -/
def nbrWord (i k : Nat) (s : State) : Word :=
  match s.nbr i with
  | none => 0
  | some x =>
    let cell (j : Nat) := Sparse.get (fun _ => none) x.cells j
    BitVec.ofNat 32 (match k with
      | 0 => (if x.silent then 2 else 1) * 2 ^ 30 + x.missed % 4 * 2 ^ 28 + x.rid % 1024 * 2 ^ 16 + x.pan % 65536
      | 1 => x.eui
      | 2 => x.eui / 2 ^ 32
      | 3 => x.lastSen
      | 4 => x.lastSen / 2 ^ 32 % 256
      | 5 => x.launchUs % 65536 * 2 ^ 16 + x.period % 8192
      | 6 => x.fc
      | 7 => ofSigned 16 x.rssi * 2 ^ 16 + ofSigned 16 x.offset
      | 8 => x.exp
      | 9 => x.exp / 2 ^ 32 % 256
      | 10 => x.total % 64
      | 11 => ((List.range 32).map fun j => bit (cell j).isSome * 2 ^ j).sum
      | _ => if 32 ≤ k then (cell (k - 32)).getD 0 % 2 ^ 29 else 0)

/-- Words of an accession cache entry (R261). -/
def accWord (i k : Nat) (s : State) : Word :=
  match Sparse.get (fun _ => none) s.xch.accession i with
  | none => 0
  | some x => BitVec.ofNat 32 (match k with
      | 0 => x.origin
      | 1 => x.fseq % 65536 * 2 ^ 16 + min ((x.expiry - s.clk.now) / sec) 255 * 2 ^ 8 + 1
      | 2 => x.sen
      | _ => 0)

/-- Words of a safety log entry (R499). -/
def logWord (i k : Nat) (s : State) : Word :=
  let e := Sparse.get (fun _ => LogEntry.zero) s.saf.log i
  BitVec.ofNat 32 (match k with
    | 0 => (e.cls % 16 * 16 + e.port % 16) * 2 ^ 24 + e.status % 256 * 2 ^ 16 + e.block % 256 * 2 ^ 8 + e.event % 256
    | 1 => e.arg
    | 2 => e.aonT
    | _ => bit e.entered * 2 ^ 24 + e.state % 16 * 2 ^ 16 + min e.starts 65535)

/-- A word behind a window, by page × 0x40000 + offset. -/
def windowWord (w off : Nat) (s : State) : Word :=
  match w with
  | 2 => wordAt (s.entry (off / 512)) (off % 512 / 4)
  | 5 =>
    if off < 0x1000 then slotWord (off / 16) (off % 16 / 4) s
    else if off < 0x1088 then wordAt (fit 136 (fit 133 Config.identityPublic)) ((off - 0x1000) / 4)
    else 0
  | 6 =>
    if off < 0x4000 then nbrWord (off / 256) (off % 256 / 4) s
    else if off < 0x40000 then 0
    else accWord ((off - 0x40000) / 16) (off % 16 / 4) s
  | 7 =>
    if off = 0 then BitVec.ofNat 32 s.saf.logWr
    else if off = 4 then BitVec.ofNat 32 s.saf.safeWr
    else if 0x100 ≤ off ∧ off < 0x1100 then logWord ((off - 0x100) / 16) (off % 16 / 4) s
    else 0
  | _ => if (tabMask w off).isSome || tabReadOnly w off then s.tab w off else 0

/-- The words of the entry whose word 0 stands at an offset; 0 elsewhere (R233, R261, R271, R389, R499). -/
def entryWords (w off : Nat) : Nat :=
  match w with
  | 2 => if off % 512 = 0 then 128 else 0
  | 5 => if off < 0x1000 ∧ off % 16 = 0 then 4 else 0
  | 6 => if off < 0x4000 then (if off % 256 = 0 then 64 else 0) else if 0x40000 ≤ off ∧ off % 16 = 0 then 4 else 0
  | 7 => if 0x100 ≤ off ∧ off < 0x1100 ∧ off % 16 = 0 then 4 else 0
  | _ => 0

/-- A read of word 0 captures the entry in the place of the one captured before through that window (R233). -/
def captureEntry (m : Master) (w off : Nat) (s : State) : State :=
  let n := entryWords w off
  if n = 0 then s
  else
    let keep := (s.cap m).words.filter fun e => !(decide (tabKey w 0 ≤ e.1) && decide (e.1 < tabKey (w + 1) 0))
    s.setCap m ⟨(List.range (n - 1)).map (fun i => (tabKey w (off + 4 + 4 * i), windowWord w (off + 4 + 4 * i) s)) ++ keep⟩

/-- A read through window `w` (R42, R512). -/
def readWindow (m : Master) (a : Nat) (s : State) : Word × State :=
  let w := (a - 0x200000) / 0x40000
  let page := windowPage m w s
  let off := page * 0x40000 + a % 0x40000
  if !answers a s then (gatedValue, accessErr m errGated a s)
  else if s.mode = stFrozen ∧ w ≠ 7 then (gatedValue, s)
  else if windowPages w ≤ page then (0, s)
  else if entryWords w off = 0 then ((s.captured m (tabKey w off)).getD (windowWord w off s), s)
  else (windowWord w off s, captureEntry m w off s)

/-! Reads and writes as a whole. -/

/-- The unassigned ranges of R40. -/
def unassigned (a : Nat) : Bool := (0x180000 ≤ a && a < 0x200000) || 0x400000 ≤ a

/-- The MSI-X table and its pending bit array, which the host's PCI Express access reaches (R449). -/
def msixAddr (a : Nat) : Bool := (0x15C000 ≤ a && a < 0x15C400) || (0x15D000 ≤ a && a < 0x15D008)

/-- A 32-bit read by a master at an aligned address. -/
def readWord (m : Master) (a : Nat) (s : State) : Word × State :=
  let c := canonAddr a
  if unassigned a then (0, accessErr m errUnassigned a s)
  else if 0x200000 ≤ a then readWindow m a s
  else if m = .host ∧ msixAddr a then (if answers a s then (s.tab 15 (a - 0x15C000), s) else (gatedValue, accessErr m errGated a s))
  else match regSpec? c with
    | none => (0, s)
    | some r => if !answers a s then (gatedValue, accessErr m errGated a s) else readReg m c r s

/-- A read by a master; an unaligned one returns 0 and is recorded (R9). -/
def busRead (m : Master) (a : Nat) (s : State) : Word × State :=
  let s := { s with detail := 0 }
  if a % 4 ≠ 0 then (0, accessErr m errNarrow a s) else readWord m a s

/-- A write that is ignored without a record (R10, R11). -/
def passed (s : State) : State := { s with detail := if s.detail = 0 then 16 else s.detail }

/-- A write to a type T word (R127 to R129): the shadow, or a refusal for ownership, state or value, in that order. -/
def writeT (m : Master) (key a : Nat) (ok : Bool) (w : Word) (s : State) : State :=
  if !s.owns m then deny m rsNotOwner a s
  else if s.txn ≠ txOpen then deny m rsNoTxn a s
  else if !ok then accessErr m errInvalid a (deny m rsInvalid a (s.setF F.TXN_STATUS_POISONED 1))
  else putShadow key w s

/-- A write through window `w` (R42, R43, R127). -/
def writeWindow (m : Master) (a : Nat) (v : Word) (s : State) : State :=
  let w := (a - 0x200000) / 0x40000
  let page := windowPage m w s
  let off := page * 0x40000 + a % 0x40000
  if !answers a s || frozenShut a s then accessErr m errGated a s
  else if windowPages w ≤ page || tabReadOnly w off then ignored m a s
  else match tabMask w off with
    | none => passed s
    | some k => writeT m (tabKey w off) a (tabValueOk w off (v &&& k)) (v &&& k) s

/-- A write to a type D register without a rule of its own (R11, R16): W1C bits by either master, every other field by the owner, which keeps its value where the
register refuses the new one. -/
def writeD (m : Master) (a : Nat) (r : RegSpec) (w : Word) (s : State) : State :=
  let k := r.rw ||| r.wo ||| r.w1s
  if k = 0 then (if r.w1c = 0 then passed s else s.setReg a (s.reg a &&& ~~~(w &&& r.w1c)))
  else if !s.owns m || !valueOk a (w &&& k) then ignored m a s
  else s.setReg a ((s.reg a &&& ~~~k) ||| (w &&& k))

/-- A write that one master alone may make (R148). -/
def onlyBy (who m : Master) (a : Nat) (f : State → State) (s : State) : State := if m = who then f s else ignored m a s

/-- A value put into the RW bits, where the register takes it. -/
def putD (m : Master) (a : Nat) (r : RegSpec) (w : Word) (s : State) : State :=
  if valueOk a (w &&& r.rw) then s.setReg a ((s.reg a &&& ~~~r.rw) ||| (w &&& r.rw)) else ignored m a s

/-- A write of TXN_TIMEOUT (R128, R148). -/
def writeTimeout (m : Master) (w : Word) (s : State) : State :=
  if !s.owns m then deny m rsNotOwner 0x20810 s
  else if valueOk 0x20810 (w &&& 0xFFFF#32) then s.setReg 0x20810 (w &&& 0xFFFF#32)
  else accessErr m errInvalid 0x20810 (deny m rsInvalid 0x20810 s)

/-- A write of CUR_HIB_TIMER: by the owner outside HIBERNATE, by the curator in HIBERNATE, where the count starts from the new value (R109). -/
def writeHibTimer (m : Master) (w : Word) (s : State) : State :=
  if s.mode = stHibernate then
    (if m = .curator then { s.setReg 0x30F00 w with power := { s.power with hibAt := s.clk.now } } else ignored m 0x30F00 s)
  else if s.owns m then s.setReg 0x30F00 w else ignored m 0x30F00 s

/-- A write of TOP_WPAGE_Hw or TOP_WPAGE_Cw; the other master's is ignored. -/
def writePage (who m : Master) (a : Nat) (w : Word) (s : State) : State := if m = who then s.setReg a (w &&& 0xFFF#32) else passed s

/-- The size of the TSU ring (R427). -/
def tsuSize (s : State) : Nat := 2 ^ s.getF F.TSU_RING_CTRL_LOG2N

/-- A command code that the register ignores. -/
def codeIn (lo hi code : Nat) (f : State → State) (s : State) : State := if within lo hi code then f s else passed s

/-- Writes of the registers of the TOP, CLK, PWR, CFG, TXN, CUR and HST blocks that have a rule of their own. -/
def writeLow (m : Master) (a : Nat) (r : RegSpec) (w : Word) (s : State) : State :=
  match a with
  | 0x4C => writeRingRd m a F.TOP_NRING_RD_RD (s.getF F.TOP_NRING_WR_WR) (nringSize s) w s
  | 0x10110 => writePwrHib m w s
  | 0x10120 => if bitsOf w 0 0 = 1 then clearEnergy s else s
  | 0x10200 => writeEpfCtrl m w s
  | 0x20014 => writeNvmCtrl m w s
  | 0x20018 => writeRestart m w s
  | 0x20804 => writeCommit m w s
  | 0x20808 => writeRollback m w s
  | 0x20810 => writeTimeout m w s
  | 0x30004 => onlyBy .curator m a (ownCommand m (bitsOf w 31 28) (bitsOf w 15 0)) s
  | 0x30100 => onlyBy .host m a (ownCommand m (bitsOf w 31 28) (bitsOf w 15 0)) s
  | 0x30008 | 0x30010 | 0x30044 => onlyBy .curator m a (putD m a r w) s
  | 0x30104 => onlyBy .host m a (putD m a r w) s
  | 0x30014 | 0x30040 => onlyBy .curator m a (fun s => s.setReg a (s.reg a &&& ~~~(w &&& r.w1c))) s
  | 0x30F00 => writeHibTimer m w s
  | 0x30F04 => onlyBy .curator m a (writeCurWake w) s
  | _ =>
    if 0x100 ≤ a ∧ a < 0x120 then writePage .host m a w s
    else if 0x120 ≤ a ∧ a < 0x140 then writePage .curator m a w s
    else writeD m a r w s

/-- Writes of the registers from the slot engine to the cipher engine that have a rule of their own. -/
def writeMid (m : Master) (a : Nat) (r : RegSpec) (w : Word) (s : State) : State :=
  match a with
  | 0xC0028 => writeSltCmd m w s
  | 0xC00C0 => writeNbrClear m w s
  | 0xC8008 => writeUpdCtrl m w s
  | 0xC8010 => writeLeave m w s
  | 0xE0010 => codeIn 1 3 (bitsOf w 31 28) (writeCatCmd m (bitsOf w 31 28) (bitsOf w 27 23) (bitsOf w 16 0)) s
  | 0xF010C => writeRingRd m a F.SHP_SRING_RD_COUNT (s.getF F.SHP_SRING_WR_COUNT) (sringSize s) w s
  | 0x100040 => onlyBy .host m a (writeSubmit m w) s
  | 0x100044 => onlyBy .curator m a (writeSubmit m w) s
  | 0x100050 => onlyBy .host m a (codeIn 1 3 (bitsOf w 31 28) (writeCtrl m w)) s
  | 0x100054 => onlyBy .curator m a (codeIn 1 3 (bitsOf w 31 28) (writeCtrl m w)) s
  | 0x100058 => onlyBy .host m a (putD m a r w) s
  | 0x10005C => onlyBy .curator m a (putD m a r w) s
  | 0x10800C => writeRingRd m a F.TRC_RING_RD_COUNT (s.getF F.TRC_RING_WR_COUNT) (traceSize s) w s
  | 0x10801C => writeMark w s
  | 0x110080 => writeFence w s
  | 0x12000C => writeInject m w s
  | _ =>
    if a < 0xC0000 ∧ (a - 0x40000) % 0x8000 = 0x34 then writeCalCtrl m ((a - 0x40000) / 0x8000) w s
    else writeD m a r w s

/-- Writes of the registers of the KEY block and above that have a rule of their own. -/
def writeHigh (m : Master) (a : Nat) (r : RegSpec) (w : Word) (s : State) : State :=
  match a with
  | 0x130010 => codeIn 1 7 (bitsOf w 31 28) (writeKeyCmd m (bitsOf w 31 28) (bitsOf w 15 8) (bitsOf w 7 0)) s
  | 0x130018 => if s.owns m then s.setReg a w else ignored m a s
  | 0x134020 => writeLcsCmd m w s
  | 0x134028 => writeAttest m w s
  | 0x138000 => writeTamCfg m w s
  | 0x138004 => if s.owns m then s.setReg a (s.reg a &&& ~~~(w &&& r.w1c)) else ignored m a s
  | 0x14000C => writeTimCmd m w s
  | 0x140124 => writeIncHi m 0 w s
  | 0x140224 => writeIncHi m 1 w s
  | 0x14012C => writeStepNs m 0 w s
  | 0x14022C => writeStepNs m 1 w s
  | 0x140170 => writeExchStatus m 0 w s
  | 0x140270 => writeExchStatus m 1 w s
  | 0x14801C => writeRingRd m a F.TSU_RING_RD_COUNT (s.getF F.TSU_RING_WR_COUNT) (tsuSize s) w s
  | 0x160040 => writeSnapNow m w s
  | 0x17000C => writeSafCmd m w s
  | 0x170010 => writeSafTest m w s
  -- An alignment edge comes every 10 ns while the divided clocks run (R30).
  | 0x178008 => writeFrzCmd m w s.clk.running s
  | 0x178020 => writeFrzVsel m w s
  | _ =>
    if 0x150400 ≤ a ∧ a < 0x150500 ∧ a % 16 = 12 then writeHrxRd m ((a - 0x150400) / 16) w s
    else if 0x150500 ≤ a ∧ a < 0x150600 ∧ a % 16 = 8 then writeHtxWr m ((a - 0x150500) / 16) w s
    else writeD m a r w s

/-- A write of an assigned register that its block takes (R14, R127). -/
def writeReg (m : Master) (a : Nat) (r : RegSpec) (w : Word) (s : State) : State :=
  if r.isT then writeT m a a (valueOk a (w &&& r.rw)) ((s.reg a &&& ~~~r.rw) ||| (w &&& r.rw)) s
  else if a < 0x40000 then writeLow m a r w s
  else if a < 0x130000 then writeMid m a r w s
  else writeHigh m a r w s

/-- A 32-bit write by a master at an aligned address. -/
def writeWord (m : Master) (a : Nat) (w : Word) (s : State) : State :=
  let c := canonAddr a
  if unassigned a then accessErr m errUnassigned a s
  else if 0x200000 ≤ a then writeWindow m a w s
  else if m = .host ∧ msixAddr a then gatedWrite m a (fun s => s.setTab 15 (a - 0x15C000) w) s
  else match regSpec? c with
    | none => passed s
    | some r => gatedWrite m a (writeReg m c r w) s

/-- A write by a master; an unaligned one is ignored and recorded (R9). `detail` says afterwards whether it took effect. -/
def busWrite (m : Master) (a : Nat) (w : Word) (s : State) : State :=
  let s := { s with detail := 0 }
  if a % 4 ≠ 0 then accessErr m errNarrow a s else writeWord m a w s

/-- Whether an address holds a type T word, whose bytes carry parity (R488). -/
def parityAt (m : Master) (a : Nat) (s : State) : Bool :=
  if 0x200000 ≤ a ∧ a < 0x400000 then
    (tabMask ((a - 0x200000) / 0x40000) (windowPage m ((a - 0x200000) / 0x40000) s * 0x40000 + a % 0x40000)).isSome
  else ((regSpec? (canonAddr a)).map (·.isT)).getD false

/-- A parity error met at a type T word that an access reads (R488). -/
def parityMet (m : Master) (a : BitVec 24) (bad : Bool) (s : State) : State :=
  if bad && answers a.toNat s && parityAt m a.toNat s then parityError (.word a) s else s

/-- REGISTER_WRITE: a write by a master, 32 bits wide or narrower, and whether the word's parity is found wrong (R9, R127, R488). -/
def execRegisterWrite (dt : Nat) (m : Master) (a : BitVec 24) (w : Word) (narrow bad : Bool) (s : State) : Host.Outcome State Fault Refusal :=
  let s := { s.elapse dt with detail := 0 }
  if narrow then .next (accessErr m errNarrow a.toNat s)
  else .next (busWrite m a.toNat w (parityMet m a bad s))

end Sys2Proof.Machine
end

