-- ==== Sys2Proof/Machine/Curator.lean ====
section
/-! DEFINITION. The Curator port: transfers, the two FIFOs, the command executor, watermarks and pins (R135 to R147). -/

namespace Sys2Proof.Machine

/-- CUR_BUSY follows CMD_LEVEL with hysteresis; a change is a crossing (R145, R146). -/
def busyPin (s : State) : State :=
  let lvl := s.cur.cmd.length
  if !s.cur.busy && s.getF F.CUR_FIFO_CFG_CMD_HIGH ≤ lvl then
    ({ s with cur := { s.cur with busy := true } }.setF F.CUR_FIFO_STATUS_CMD_HI_X 1).incF (F.CUR_XCNT_COUNT 0)
  else if s.cur.busy && lvl ≤ s.getF F.CUR_FIFO_CFG_CMD_LOW then
    ({ s with cur := { s.cur with busy := false } }.setF F.CUR_FIFO_STATUS_CMD_LO_X 1).incF (F.CUR_XCNT_COUNT 1)
  else s

/-- CUR_ATTN follows RSP_READY with hysteresis; a change is a crossing (R145, R146). -/
def attnPin (s : State) : State :=
  let lvl := s.cur.rsp.length
  if !s.cur.attn && s.getF F.CUR_FIFO_CFG_RSP_HIGH ≤ lvl then
    ({ s with cur := { s.cur with attn := true } }.setF F.CUR_FIFO_STATUS_RSP_HI_X 1).incF (F.CUR_XCNT_COUNT 2)
  else if s.cur.attn && lvl ≤ s.getF F.CUR_FIFO_CFG_RSP_LOW then
    ({ s with cur := { s.cur with attn := false } }.setF F.CUR_FIFO_STATUS_RSP_LO_X 1).incF (F.CUR_XCNT_COUNT 3)
  else s

/-- Both pins re-evaluated. -/
def curPins (s : State) : State := attnPin (busyPin s)

/-- One complete MOSI word of a PUSH (R135, R144). -/
def pushWord (w : Word) (s : State) : State :=
  if s.cur.discard then s
  else if s.cur.overrun then s.incF F.CUR_OVR_CNT_COUNT
  else if s.cur.cmd.length < 32 then { s with cur := { s.cur with cmd := s.cur.cmd ++ [(w, s.cur.push)] } }
  else
    let s := { s with cur := { s.cur with overrun := true } }.incF F.CUR_OVR_CNT_COUNT
    let s := (s.setF F.CUR_FIFO_STATUS_CMD_OVR 1).setF F.CUR_ALERT_STATUS_CMD_OVR 1
    notify N.CMD_OVR scOk 0 (s.getF F.CUR_OVR_CNT_COUNT) s

/-- The words of a PUSH in order. -/
def pushWords : List Word → State → State
  | [], s => s
  | w :: r, s => pushWords r (pushWord w s)

/-- PUSH: MISO carries CUR_FIFO_STATUS during the opcode, then each word enters the command FIFO. -/
def execPush (dt : Nat) (ws : List Word) (s : State) : Host.Outcome State Fault Refusal :=
  let s := s.elapse dt
  .next (curPins (pushWords ws (s.emit (.miso (fifoStatus s)))))

/-- The idle item of R143. -/
def idleItem : Word := 0x1D1E1D1E#32

/-- `n` words of a PULL: the head of the response FIFO, or the idle item, which takes nothing (R143). -/
def pullWords : Nat → State → State
  | 0, s => s
  | n + 1, s =>
    match s.cur.rsp with
    | w :: r => pullWords n ({ s with cur := { s.cur with rsp := r } }.emit (.miso w))
    | [] => pullWords n (s.emit (.miso idleItem))

/-- PULL of `n` words. -/
def execPull (dt : Nat) (n : Nat) (s : State) : Host.Outcome State Fault Refusal :=
  let s := s.elapse dt
  .next (curPins (pullWords n (s.emit (.miso (fifoStatus s)))))

/-- A transfer with an opcode that is neither PUSH nor PULL sets BAD_OP and takes no payload (R135). -/
def execCurBadOp (dt : Nat) (op : BitVec 8) (s : State) : Host.Outcome State Fault Refusal :=
  let s := s.elapse dt
  let s := s.emit (.miso (fifoStatus s))
  if op = 0x5A#8 ∨ op = 0xA5#8 then .next s else .next (s.setF F.CUR_FIFO_STATUS_BAD_OP 1)

/-- Fields of a command header (R137). -/
def hdrCmd (h : Word) : Nat := bitsOf h 31 24
def hdrTag (h : Word) : Nat := bitsOf h 23 16
def hdrCount (h : Word) : Nat := bitsOf h 15 8

/-- Whether a header word keeps R137. -/
def hdrOk (h : Word) : Bool := (hdrCmd h == 1 || hdrCmd h == 2) && 1 ≤ hdrCount h && hdrCount h ≤ 16 && bitsOf h 7 0 == 0

/-- Whether an address word keeps R137. -/
def addrOk (a : Word) : Bool := bitsOf a 31 24 == 0 && bitsOf a 1 0 == 0

/-- The words a command with this header has. -/
def cmdLen (h : Word) : Nat := if hdrCmd h = 2 then 2 + hdrCount h else 2

/-- The words of the complete commands at the front of a PUSH; an invalid header takes the rest with it (R138, R139). -/
def wholeWords : Nat → List Word → Nat
  | 0, _ => 0
  | _, [] => 0
  | fuel + 1, h :: r =>
    if !hdrOk h then (h :: r).length
    else match r with
      | [] => 0
      | a :: _ =>
        if !addrOk a then (h :: r).length
        else if cmdLen h ≤ (h :: r).length then cmdLen h + wholeWords fuel ((h :: r).drop (cmdLen h))
        else 0

/-- CUR_CS_N rises: an incomplete command at the tail is removed and the PUSH ends (R139). -/
def execCurCsRise (dt : Nat) (s : State) : Host.Outcome State Fault Refusal :=
  let s := s.elapse dt
  let tail := (s.cur.cmd.filter fun e => e.2 == s.cur.push).map (·.1)
  let keep := wholeWords 32 tail
  let whole := s.cur.cmd.take (s.cur.cmd.length - (tail.length - keep))
  let s' := { s with cur := { s.cur with cmd := whole, push := s.cur.push + 1, overrun := false, discard := false } }
  if keep < tail.length then .next (curPins ((s'.setF F.CUR_FIFO_STATUS_CMD_FRAG 1).incF F.CUR_FRAG_CNT_COUNT))
  else .next (curPins s')

/-- A response of R141 put into the response FIFO. -/
def respond (h : Word) (status detail index : Nat) (data : List Word) (s : State) : State :=
  let w0 : Word := BitVec.ofNat 32 (2 + data.length)
  let w1 : Word := BitVec.ofNat 32 (hdrCmd h * 2 ^ 24 + hdrTag h * 2 ^ 16 + status * 2 ^ 8 + detail * 2 ^ 4 + index)
  { s with cur := { s.cur with rsp := s.cur.rsp ++ w0 :: w1 :: data } }

/-- The head command, when it is valid and all its words are there: header, address, data. -/
def headCmd (s : State) : Option (Word × Nat × List Word) :=
  match s.cur.cmd with
  | (h, p) :: (a, _) :: r =>
    let body := ((r.filter fun e => e.2 == p).map (·.1)).take (cmdLen h - 2)
    if hdrOk h && addrOk a && body.length + 2 == cmdLen h then some (h, a.toNat, body) else none
  | _ => none

/-- The response FIFO has room for `n` words (R140). -/
def rspRoom (n : Nat) (s : State) : Bool := s.cur.rsp.length + n ≤ 64

/-- The command's words leave the command FIFO. -/
def dropCmd (n : Nat) (s : State) : State := { s with cur := { s.cur with cmd := s.cur.cmd.drop n } }

/-- COUNT register reads by the curator, in order. -/
def readMany (a : Nat) : Nat → State → List Word × State
  | 0, s => ([], s)
  | n + 1, s =>
    let (w, s) := busRead .curator a s
    let (ws, s) := readMany (a + 4) n s
    (w :: ws, s)

/-- The executor takes a READ command and returns COUNT values with STATUS OK (R140). -/
def execCurCmdRead (dt : Nat) (s : State) : Host.Outcome State Fault Refusal :=
  let s := s.elapse dt
  match headCmd s with
  | some (h, a, _) =>
    if hdrCmd h = 1 && rspRoom (2 + hdrCount h) s then
      let (ws, s) := readMany a (hdrCount h) (dropCmd 2 s)
      .next (curPins (respond h scOk 0 0 ws s))
    else .next s
  | none => .next s

/-- Register writes by the curator in order, up to the first one refused or ignored: the position and DETAIL of that one (R140, R141). -/
def writeMany (a i : Nat) : List Word → State → Option (Nat × Nat) × State
  | [], s => (none, s)
  | w :: r, s =>
    let s := busWrite .curator a w s
    if s.detail = 0 then writeMany (a + 4) (i + 1) r s else (some (i, s.detail), s)

/-- The executor takes a WRITE command (R140). -/
def execCurCmdWrite (dt : Nat) (s : State) : Host.Outcome State Fault Refusal :=
  let s := s.elapse dt
  match headCmd s with
  | some (h, a, body) =>
    if hdrCmd h = 2 && rspRoom 2 s then
      match writeMany a 0 body (dropCmd (2 + body.length) s) with
      | (none, s) => .next (curPins (respond h scOk 0 0 [] s))
      | (some (i, d), s) =>
        -- A word ignored without a record has no DETAIL, and whether STATUS is then OK or DENIED is left open.
        if d = 16 then .next (curPins (respond h (if s.draw % 2 = 0 then scOk else scDenied) 0 0 [] s.drawn))
        else .next (curPins (respond h scDenied d i [] s))
    else .next s
  | none => .next s

/-- The head of the command FIFO is an invalid header, alone or with its address word (R138). -/
def headInvalid (s : State) : Option (Word × Nat) :=
  match s.cur.cmd with
  | (h, p) :: r =>
    if !hdrOk h then some (h, p)
    else match r with
      | (a, _) :: _ => if !addrOk a then some (h, p) else none
      | [] => none
  | [] => none

/-- The executor meets an invalid header: the rest of its PUSH is discarded and the answer is DENIED with DETAIL 0x8 (R138). -/
def execCurInvalidHeader (dt : Nat) (s : State) : Host.Outcome State Fault Refusal :=
  let s := s.elapse dt
  match headInvalid s with
  | some (h, p) =>
    if rspRoom 2 s then
      let s := { s with cur := { s.cur with cmd := s.cur.cmd.filter (fun e => e.2 != p), discard := s.cur.discard || p == s.cur.push } }
      .next (curPins (respond h scDenied 8 0 [] s))
    else .next s
  | none => .next s

/-- A write to CUR_FIFO_CFG (R146, R148). -/
def execCurFifoCfgWrite (dt : Nat) (m : Master) (w : Word) (s : State) : Host.Outcome State Fault Refusal :=
  .next (curPins (busWrite m 0x30010 w (s.elapse dt)))

end Sys2Proof.Machine
end

