-- ==== Sys2Proof/Machine/Demod.lean ====
section
/-! DEFINITION. Detection, demodulators and the receive record (R184 to R198), with the wake of demodulator banks (R103). -/

namespace Sys2Proof.Machine

/-- Awake banks of a port: all four in FULL (R99, PWR_BANKS). -/
def awakeBanks (n : Nat) (s : State) : Nat :=
  if s.power.ql then bitsOf (s.reg 0x1010c) (2 * n + 1) (2 * n) + 1 else 4

/-- The lowest free demodulator in the awake banks (R188). -/
def freeDemod (n : Nat) (s : State) : Option Nat := (List.range (16 * awakeBanks n s)).find? fun d => (s.demod n d).isNone

/-- The next bank of a port wakes (R103). -/
def wakeBank (n : Nat) (s : State) : State :=
  let a := awakeBanks n s
  let s := s.setF ⟨0x1010c, 2 * n + 1, 2 * n⟩ a
  if a = 3 then { s with power := { s.power with bank3 := true } } else s

/-- Whether demodulator `a` is a better victim than `b`: lower service class, then the earlier claim (R189). -/
def victimBefore (n : Nat) (s : State) (a b : Nat × Demod) : Bool :=
  decide (chanClass n b.2.channel s < chanClass n a.2.channel s)
    || (chanClass n a.2.channel s == chanClass n b.2.channel s && decide (a.2.claimed < b.2.claimed))

/-- The demodulator that a detection of class `cls` takes from a full pool (R189). -/
def victim (n cls : Nat) (s : State) : Option Nat :=
  let busy := (List.range 64).filterMap fun d => (s.demod n d).map fun x => (d, x)
  let lower := busy.filter fun e => decide (cls < chanClass n e.2.channel s)
  (lower.foldl (fun (b : Option (Nat × Demod)) e => match b with
    | none => some e
    | some v => if victimBefore n s e v then some e else some v) none).map (·.1)

/-- A demodulator claimed for a detection (R188). -/
def claim (n d channel mode : Nat) (power : Int) (s : State) : State :=
  let noise := toSigned 16 ((s.tab 0 (0x4000 * n + 0x300 + 4 * channel)).toNat % 65536)
  let x : Demod := ⟨channel, mode, chanClass n channel s, s.clk.slot, s.clk.slot, power, noise, none, 0, 0, false, false, false, 0, 0, 0, none⟩
  let s := syncPool n (s.setDemod n d (some x))
  let used := Sparse.get (fun _ => 0) s.power.bankUsed n
  if used / 2 ^ (d / 16) % 2 = 1 then s
  else { s with power := { s.power with bankUsed := Sparse.set (fun _ => 0) s.power.bankUsed n (used + 2 ^ (d / 16)) } }

/-- The demodulator that holds a channel. -/
def holder (n channel : Nat) (s : State) : Option Nat :=
  (List.range 64).find? fun d => match s.demod n d with | some x => x.channel == channel | none => false

/-- A claim counted. -/
def countedClaim (n d channel mode : Nat) (power : Int) (s : State) : State :=
  claim n d channel mode power (s.incF (F.RFP_RXCNT_COUNT n 1))

/-- A detection that finds every demodulator busy and every bank awake (R189, R192). -/
def fullPool (n channel mode : Nat) (power : Int) (s : State) : State :=
  match victim n (chanClass n channel s) s with
  | some d => countedClaim n d channel mode power (failRx n d roPreempted s)
  | none =>
    let s := recordFail n roNotTaken channel mode 0 s
    if slotFlag n 1 s then s else notify (N.POOL_FULL n) scOk n channel (setSlotFlag n 1 s)

/-- A detection that counts (R186, R188, R189): a stronger preamble captures the demodulator of its channel; otherwise a free, woken or pre-empted one is claimed. -/
def detect (n channel mode : Nat) (power : Int) (s : State) : State :=
  match holder n channel s with
  | some d =>
    match s.demod n d with
    | some x =>
      if x.sfd.isNone && decide (x.power + 4 * s.getF (F.RFP_DET_CFG_CAPTURE_DB n) ≤ power) then
        let s := recordFail n roCaptured x.channel x.mode (rssiOf n x s) (s.incF (F.RFP_RXCNT_COUNT n 0))
        let noise := toSigned 16 ((s.tab 0 (0x4000 * n + 0x300 + 4 * channel)).toNat % 65536)
        s.setDemod n d (some { x with mode := mode, cls := chanClass n channel s, power := power, noise := noise, detected := s.clk.slot })
      else s
    | none => s
  | none =>
    let s := s.incF (F.RFP_RXCNT_COUNT n 0)
    match freeDemod n s with
    | some d => countedClaim n d channel mode power s
    | none =>
      if awakeBanks n s < 4 then
        let d := 16 * awakeBanks n s
        countedClaim n d channel mode power (wakeBank n s)
      else fullPool n channel mode power s

/-- The energy is MARGIN_Q above the noise floor, where one has been estimated, and the carrier offset is within bounds (R185). -/
def correlates (n channel : Nat) (power fofs : Int) (s : State) : Bool :=
  (!(s.port n).floors.contains channel
    || decide (toSigned 16 ((s.tab 0 (0x4000 * n + 0x300 + 4 * channel)).toNat % 65536) + s.getF (F.RFP_DET_CFG_MARGIN_Q n) ≤ power))
  && decide (fofs.natAbs ≤ min (300 * spacingKhz (s.getF (F.RFP_CHAN_CFG_SPACING n))) 150000)

/-- DETECTION: the energy and a preamble of a mode on a channel, at a received power in quarter dBm and a carrier offset in Hz (R185). Nothing is detected while the
receive path is blanked, on a channel that is not received, or for a mode not set in MODES (R187). -/
def execDetection (dt : Nat) (n : Fin 16) (channel : Fin 128) (mode : Fin 8) (power fofs : Int) (s : State) : Host.Outcome State Fault Refusal :=
  let s := s.elapse dt
  if !s.clk.running then .next s else
  let st := s.getF (F.RFP_STATUS_STATE n)
  if (st = 2 ∨ st = 6) ∧ s.getF (F.RFP_STATUS_BLANK n) = 0 ∧ chanOn n channel s ∧ chanModes n channel s / 2 ^ mode.val % 2 = 1 ∧ correlates n channel power fofs s then
    .next (detect n channel mode power s)
  else .next s

/-- The lower quartile of a channel's 1 ms energies (R184). -/
def lowerQuartile (es : List Int) : Option Int :=
  let sorted := es.mergeSort (fun a b => decide (a ≤ b))
  sorted[sorted.length / 4]?

/-- NOISE_FLOOR_REFRESH: for each channel the 1 ms energies of the last 100 ms in quarter dBm, those in which a demodulator held the channel left out (R184). -/
def execNoiseFloorRefresh (dt : Nat) (n : Fin 16) (energies : List (Fin 128 × List Int)) (s : State) : Host.Outcome State Fault Refusal :=
  let s := s.elapse dt
  if !s.clk.running then .next s else
  .next (energies.foldl (fun s e => match lowerQuartile e.2 with
    | some q => if chanOn n e.1 s then
        (s.setTab 0 (0x4000 * n + 0x300 + 4 * e.1) (BitVec.ofNat 32 (ofSigned 16 q))).updPort n fun p => { p with floors := insertNat e.1 p.floors }
      else s
    | none => s) s)

/-- Symbols per second in hundreds of a mode (R178). -/
def symbolRate (mode : Nat) : Nat := [500, 1000, 1500, 2000, 3000, 1000, 2000, 625].getD mode 1000

/-- SFD_FOUND: demodulator `d` finds an SFD, coded or uncoded, whose last bit arrived at slot clock `ts`; one that the port does not accept, of a mode no longer set in MODES, or later than SFD_WAIT_SYM symbols
after detection, counts as not found (R191). Later commits leave the reception its CLASS and OFFSET (R195). -/
def execSfdFound (dt : Nat) (n : Fin 16) (d : Fin 64) (coded : Bool) (ts : Nat) (s : State) : Host.Outcome State Fault Refusal :=
  let s := s.elapse dt
  if !s.clk.running then .next s else
  match s.demod n d with
  | some x =>
    let allowed := if coded then s.getF (F.RFP_PHY_CFG_FEC_ACCEPT n) else s.getF (F.RFP_PHY_CFG_UNCODED_ACCEPT n)
    if x.sfd.isNone ∧ allowed = 1 ∧ chanModes n x.channel s / 2 ^ x.mode % 2 = 1 ∧ s.clk.slot * symbolRate x.mode ≤ x.detected * symbolRate x.mode + s.getF (F.RFP_DET_CFG_SFD_WAIT_SYM n) * 2000000 then
      .next (s.setDemod n d (some { x with sfd := some ts, fec := coded, sfdCls := chanClass n x.channel s, sfdOffset := toSigned 16 (s.getF (F.RFP_RSSI_CFG_OFFSET n)) }))
    else .next s
  | none => .next s

/-- SFD_WAIT_EXPIRE: SFD_WAIT_SYM symbols have passed since detection without an allowed SFD (R191). -/
def execSfdWaitExpire (dt : Nat) (n : Fin 16) (d : Fin 64) (s : State) : Host.Outcome State Fault Refusal :=
  let s := s.elapse dt
  if !s.clk.running then .next s else
  match s.demod n d with
  | some x =>
    if x.sfd.isNone ∧ x.detected * symbolRate x.mode + s.getF (F.RFP_DET_CFG_SFD_WAIT_SYM n) * 2000000 ≤ s.clk.slot * symbolRate x.mode then
      .next (failRx n d roNoSfd s)
    else .next s
  | none => .next s

/-- The first NO_BUFFER of the slot on a port raises its notice (R192). -/
def noteNoBuffer (n channel : Nat) (s : State) : State :=
  if slotFlag n 0 s then s else notify (N.RX_NO_BUFFER n) scNoBuffer n channel (setSlotFlag n 0 s)

/-- The longest PSDU that a mode carries; O-QPSK has a 2-octet FCS and no whitening (R179). -/
def maxPsdu (mode : Nat) : Nat := if mode = 7 then 127 else 2047

/-- PHR_RECEIVED: the PHR's frame length, mode-switch mark, FCS type and whitening bit, with the LQI and the carrier offset measured so far (R191). -/
def execPhrReceived (dt : Nat) (n : Fin 16) (d : Fin 64) (len : Nat) (modeSwitch fcs32 whitened : Bool) (lqi : BitVec 8) (fofs : Int) (s : State) :
    Host.Outcome State Fault Refusal :=
  let s := s.elapse dt
  if !s.clk.running then .next s else
  match s.demod n d with
  | some x =>
    if x.sfd.isNone ∨ x.buffer.isSome then .next s
    else
      let fsk := x.mode != 7
      let x' := { x with len := len, fcs32 := fcs32 && fsk, whitened := whitened && fsk, lqi := lqi.toNat, fofs := fofs }
      let s := s.setDemod n d (some x')
      if len = 0 ∨ maxPsdu x.mode < len then .next (failRx n d roBadPhr s)
      else if modeSwitch && fsk then .next (failRx n d roModeSwitch s)
      else match poolAlloc (decide (x.sfdCls ≤ 1)) s with
      | (some h, s) => .next (s.setDemod n d (some { x' with buffer := some h }))
      | (none, s) => .next (noteNoBuffer n x.channel (failRx n d roNoBuffer s))
  | none => .next s

/-- The receive record of 32 bytes (R196). -/
def rxRecord (n d : Nat) (x : Demod) (delta : Nat) (s : State) : List Byte :=
  let sfd := x.sfd.getD 0
  leBytes 8 sfd ++ leBytes 4 delta
    ++ leBytes 2 (bit x.whitened * 2 ^ 13 + bit x.fec * 2 ^ 12 + bit x.fcs32 * 2 ^ 11 + x.len)
    ++ [BitVec.ofNat 8 x.channel, BitVec.ofNat 8 (16 * n + x.mode)]
    ++ leBytes 2 (ofSigned 16 (rssiOf n x s)) ++ [BitVec.ofNat 8 x.lqi, BitVec.ofNat 8 d]
    ++ leBytes 4 (ofSigned 32 x.fofs) ++ leBytes 2 (ofSigned 16 x.noise) ++ [0, BitVec.ofNat 8 x.cls]
    ++ leBytes 4 (senAt sfd s % 2 ^ 32)

/-- RX_PPDU_END: the last PPDU bit arrives `delta` ticks after the SFD with the decoded PSDU; its FCS passes or not (R191, R196). -/
def execRxPpduEnd (dt : Nat) (n : Fin 16) (d : Fin 64) (delta : Nat) (psdu : List Byte) (fcsOk : Bool) (s : State) : Host.Outcome State Fault Refusal :=
  let s := s.elapse dt
  if !s.clk.running then .next s else
  match s.demod n d with
  | some x =>
    match x.buffer with
    | some h =>
      let s := s.setBytes (bufferAddr h s) (psdu.take x.len)
      if !fcsOk then .next (failRx n d roFcsFail s)
      else
        let s := s.setBytes (recordAddr h s) (rxRecord n d x delta s)
        let s := releaseDemod n d true (s.incF (F.RFP_RXCNT_COUNT n 6))
        .next (createJob (rxaJob h) (reserveAck n x.channel (x.sfd.getD 0 + delta) s))
    | none => .next s
  | none => .next s

end Sys2Proof.Machine
end

