-- ==== Sys2Proof/Machine/Exchange.lean ====
section
/-! DEFINITION. Uplink acceptance, retransmission, floods and receipt timers as commands (R239 to R262). -/

namespace Sys2Proof.Machine

/-- UPLINK_ACCEPTANCE: a RUNNING RXA job takes its receive record through stages 1 to 4; the job then ends (R239). Beacon frames go to the slot engine (R229). -/
def execUplinkAcceptance (dt : Nat) (id : BitVec 12) (s : State) : Host.Outcome State Fault Refusal :=
  let s := s.elapse dt
  if !s.clk.running then .next s else
  match s.job id.toNat with
  | some j =>
    match j.work with
    | .rxa h =>
      if j.state ≠ jsRunning ∨ isBeaconFrame (s.bytes (bufferAddr h s) 2) then .next s
      else .next (freeJob id.toNat (completeJob id.toNat j scOk 0 (List.replicate 12 0) (acceptRecord h s)))
    | _ => .next s
  | none => .next s

/-- UPLINK_VERIFY_DONE: the COMPLETE OPEN job of an acceptance is read, its ID freed, and stages 5 to 9 follow (R239, R240, R242, R325). -/
def execUplinkVerifyDone (dt : Nat) (id : BitVec 12) (s : State) : Host.Outcome State Fault Refusal :=
  let s := s.elapse dt
  if !s.clk.running then .next s else
  match s.job id.toNat with
  | some j =>
    match j.work with
    | .cipher (.openAcc i) =>
      match s.acc i with
      | some a =>
        if j.state ≠ jsComplete ∨ mustWait i a s then .next s
        else
          let s := freeJob id.toNat s
          if j.status = scOk then .next (acceptVerified i a s) else .next (accFail i j.status 0 s)
      | none => if j.state = jsComplete then .next (freeJob id.toNat s) else .next s
    | _ => .next s
  | none => .next s

/-- The draw of R251 before retry `r`. -/
def backoff (r : Nat) (s : State) : Nat := s.draw % 2 ^ min (s.getF F.XCH_DL_CFG_BE_MIN + r - 1) (s.getF F.XCH_DL_CFG_BE_MAX)

/-- An attempt that is not acknowledged (R223, R251, R253, R300). -/
def unacked (i : Nat) (d : Dl) (s : State) : State :=
  if d.source = .response then s.setDl i (some { d with attempt := none })
  else if d.source = .leave02 then dropResponse d.nix s
  else if d.doomed then dlEnd i scCancelled (s.incF (F.SHP_CNT_COUNT 5))
  else if d.retries < s.getF F.XCH_DL_CFG_MAX_RETRY then
    let b := backoff (d.retries + 1) s
    s.drawn.setDl i (some { d with retries := d.retries + 1, attempt := none, eligibleAt := none, skip := b, notBefore := s.sen + 1 })
  else dlEnd i scTimeout s

/-- ACK_WAIT_EXPIRE: no node ack has come by E + 1,000 µs + ACK_WAIT_US (R250, R251). -/
def execAckWaitExpire (dt : Nat) (dl : Nat) (s : State) : Host.Outcome State Fault Refusal :=
  let s := s.elapse dt
  if !s.clk.running then .next s else
  match s.dl dl with
  | some d =>
    match d.attempt with
    | some (_, some e) => if e + (1000 + s.getF F.XCH_CFG_ACK_WAIT_US) * us ≤ s.clk.slot then .next (unacked dl d s) else .next s
    | _ => .next s
  | none => .next s

/-- FLOOD_LOOKUP: the flood engine takes the next accepted flood (R257). -/
def execFloodLookup (dt : Nat) (s : State) : Host.Outcome State Fault Refusal :=
  let s := s.elapse dt
  if !s.clk.running then .next s else
  match s.xch.floods with
  | f :: r => .next (floodLookup f (s.updXch fun x => { x with floods := r }))
  | [] => .next s

/-- ACCESSION_EXPIRY: entries whose lifetime has passed leave the cache (R257, R258). -/
def execAccessionExpiry (dt : Nat) (s : State) : Host.Outcome State Fault Refusal :=
  let s := s.elapse dt
  if !s.clk.running then .next s else
  .next (syncAccession (s.updXch fun x => { x with accession := x.accession.filter fun e => match e.2 with
    | some a => decide (s.clk.now < a.expiry)
    | none => false }))

/-- RCPT_TIMER_EXPIRE: a receipt timer runs out before the confirmation: class DF-A (R262, R486, R496). -/
def execRcptTimerExpire (dt : Nat) (i : Fin 1024) (s : State) : Host.Outcome State Fault Refusal :=
  let s := s.elapse dt
  if !s.clk.running then .next s else
  match Sparse.get (fun _ => none) s.xch.receipts i with
  | some r =>
    if r.expired ∨ r.owed ∨ s.clk.now < r.deadline then .next s
    else
      let s := s.updXch fun x => { x with receipts := Sparse.set (fun _ => none) x.receipts i (some { r with expired := true }) }
      .next (safeOrReport (s.getF F.SAF_CFG_ACT_A == 1) 0 (notify N.RCPT_LATE scTimeout 0 r.nix (s.incF (F.XCH_CNT_COUNT 16))))
  | none => .next s

end Sys2Proof.Machine
end

