-- ==== Sys2Proof/Machine/Reads.lean ====
section
/-! DEFINITION. Reads that act, as commands: the capture of a wide value or an entry, and the reads that clear (R11, R17, R233), with the write of TOP_NRING_RD (R48). -/

namespace Sys2Proof.Machine

/-- A read by a master, whose value goes to it. -/
def readOut (m : Master) (a : Nat) (s : State) : State :=
  let (w, s) := busRead m a s
  s.emit (.value m.bit w)

/-- TOP_NRING_RD_WRITE, by either master (R48). -/
def execTopNringRdWrite (dt : Nat) (m : Master) (w : Word) (s : State) : Host.Outcome State Fault Refusal :=
  .next (busWrite m 0x4C w (s.elapse dt))

/-- WIDE_VALUE_CAPTURE_READ: a read of a register, which captures the higher words of a wide value (R17); a narrow one returns 0 and is recorded (R9). -/
def execWideValueCaptureRead (dt : Nat) (m : Master) (a : BitVec 24) (narrow bad : Bool) (s : State) : Host.Outcome State Fault Refusal :=
  let s := s.elapse dt
  if narrow then .next ((accessErr m errNarrow a.toNat s).emit (.value m.bit 0))
  else .next (readOut m a.toNat (parityMet m a bad s))

/-- ENTRY_CAPTURE_READ: a read through a window, which at word 0 captures the entry (R233). -/
def execEntryCaptureRead (dt : Nat) (m : Master) (w : Fin 8) (ofs : BitVec 18) (s : State) : Host.Outcome State Fault Refusal :=
  .next (readOut m (0x200000 + w.val * 0x40000 + ofs.toNat) (s.elapse dt))

/-- TOP_NOTICE_LOST_READ (R47). -/
def execTopNoticeLostRead (dt : Nat) (m : Master) (s : State) : Host.Outcome State Fault Refusal :=
  .next (readOut m 0x50 (s.elapse dt))

/-- PWR_OCC_READ (R12). -/
def execPwrOccRead (dt : Nat) (m : Master) (s : State) : Host.Outcome State Fault Refusal :=
  .next (readOut m 0x10108 (s.elapse dt))

/-- POOL_STATUS_READ (R12). -/
def execPoolStatusRead (dt : Nat) (m : Master) (n : Fin 16) (s : State) : Host.Outcome State Fault Refusal :=
  .next (readOut m (0x40110 + 32768 * n) (s.elapse dt))

/-- NRG_STATUS_READ (R12). -/
def execNrgStatusRead (dt : Nat) (m : Master) (s : State) : Host.Outcome State Fault Refusal :=
  .next (readOut m 0xE8000 (s.elapse dt))

/-- SHP_SAMPLE_LOST_READ (R303). -/
def execShpSampleLostRead (dt : Nat) (m : Master) (s : State) : Host.Outcome State Fault Refusal :=
  .next (readOut m 0xF0110 (s.elapse dt))

/-- TRC_LOST_READ, or the read of TRC_PORT_LOST (R330, R331). -/
def execTrcLostRead (dt : Nat) (m : Master) (port : Bool) (s : State) : Host.Outcome State Fault Refusal :=
  .next (readOut m (if port then 0x108018 else 0x108010) (s.elapse dt))

/-- BMP_POOL_MIN_READ (R12). -/
def execBmpPoolMinRead (dt : Nat) (m : Master) (s : State) : Host.Outcome State Fault Refusal :=
  .next (readOut m 0x110010 (s.elapse dt))

/-- TSU_LOST_READ (R427). -/
def execTsuLostRead (dt : Nat) (m : Master) (s : State) : Host.Outcome State Fault Refusal :=
  .next (readOut m 0x148020 (s.elapse dt))

end Sys2Proof.Machine
end

