-- ==== Sys2Proof/Machine/Dispatch.lean ====
section
/-! DEFINITION. Dispatch: one arm per command, each a direct call of its meaning. -/

namespace Sys2Proof.Machine

/-- What a command does to everything but the queue. -/
def exec (i : Instr) (s : State) : Host.Outcome State Fault Refusal :=
  match i with
  | .vinValid dt resetLow nvm fe ddr vbat pairId => Sys2Proof.Machine.execVinValid dt resetLow nvm fe ddr vbat pairId s
  | .vinPowerOff dt => Sys2Proof.Machine.execVinPowerOff dt s
  | .vinLow dt mv => Sys2Proof.Machine.execVinLow dt mv s
  | .vbatLoss dt => Sys2Proof.Machine.execVbatLoss dt s
  | .resetNPulse dt => Sys2Proof.Machine.execResetNPulse dt s
  | .cfgRestart dt m w => Sys2Proof.Machine.execCfgRestart dt m w s
  | .cfgNvmRelease dt m w => Sys2Proof.Machine.execCfgNvmRelease dt m w s
  | .fuseLoad dt sound => Sys2Proof.Machine.execFuseLoad dt sound s
  | .identitySelfTest dt passed => Sys2Proof.Machine.execIdentitySelfTest dt passed s
  | .rootPllLock dt => Sys2Proof.Machine.execRootPllLock dt s
  | .dramTraining dt size twoRanks trained tested => Sys2Proof.Machine.execDramTraining dt size twoRanks trained tested s
  | .hbListenWindowEnd dt held => Sys2Proof.Machine.execHbListenWindowEnd dt held s
  | .copySelection dt answered log octal a b => Sys2Proof.Machine.execCopySelection dt answered log octal a b s
  | .imageApply dt => Sys2Proof.Machine.execImageApply dt s
  | .catalogueWarmLoad dt entries digestOk => Sys2Proof.Machine.execCatalogueWarmLoad dt entries digestOk s
  | .ownNClaim dt => Sys2Proof.Machine.execOwnNClaim dt s
  | .ownNSample dt held => Sys2Proof.Machine.execOwnNSample dt held s
  | .arbFuseBlow dt blown => Sys2Proof.Machine.execArbFuseBlow dt blown s
  | .tamperEvent dt inputs => Sys2Proof.Machine.execTamperEvent dt inputs s
  | .tamCfgWrite dt m w => Sys2Proof.Machine.execTamCfgWrite dt m w s
  | .slotBoundary dt => Sys2Proof.Machine.execSlotBoundary dt s
  | .pwrHibEnter dt m w => Sys2Proof.Machine.execPwrHibEnter dt m w s
  | .hibernatePowerOff dt => Sys2Proof.Machine.execHibernatePowerOff dt s
  | .curWake dt m w => Sys2Proof.Machine.execCurWake dt m w s
  | .curHibTimerExpire dt => Sys2Proof.Machine.execCurHibTimerExpire dt s
  | .energyCounterUpdate dt vin blocks => Sys2Proof.Machine.execEnergyCounterUpdate dt vin blocks s
  | .pwrNrgClear dt m w => Sys2Proof.Machine.execPwrNrgClear dt m w s
  | .epfStart dt m w => Sys2Proof.Machine.execEpfStart dt m w s
  | .epfDone dt => Sys2Proof.Machine.execEpfDone dt s
  | .claim dt epoch => Sys2Proof.Machine.execClaim dt epoch s
  | .take dt epoch => Sys2Proof.Machine.execTake dt epoch s
  | .refresh dt m epoch => Sys2Proof.Machine.execRefresh dt m epoch s
  | .release dt m epoch => Sys2Proof.Machine.execRelease dt m epoch s
  | .force dt epoch => Sys2Proof.Machine.execForce dt epoch s
  | .leaseLapse dt => Sys2Proof.Machine.execLeaseLapse dt s
  | .txnBegin dt m => Sys2Proof.Machine.execTxnBegin dt m s
  | .registerWrite dt m a w narrow bad => Sys2Proof.Machine.execRegisterWrite dt m a w narrow bad s
  | .txnCommit dt m w => Sys2Proof.Machine.execTxnCommit dt m w s
  | .txnCommitBoundary dt => Sys2Proof.Machine.execTxnCommitBoundary dt s
  | .txnRollback dt m w => Sys2Proof.Machine.execTxnRollback dt m w s
  | .txnTimeout dt => Sys2Proof.Machine.execTxnTimeout dt s
  | .push dt ws => Sys2Proof.Machine.execPush dt ws s
  | .pull dt n => Sys2Proof.Machine.execPull dt n s
  | .curBadOp dt op => Sys2Proof.Machine.execCurBadOp dt op s
  | .curCsRise dt => Sys2Proof.Machine.execCurCsRise dt s
  | .curCmdRead dt => Sys2Proof.Machine.execCurCmdRead dt s
  | .curCmdWrite dt => Sys2Proof.Machine.execCurCmdWrite dt s
  | .curInvalidHeader dt => Sys2Proof.Machine.execCurInvalidHeader dt s
  | .curFifoCfgWrite dt m w => Sys2Proof.Machine.execCurFifoCfgWrite dt m w s
  | .txCommand dt port c => Sys2Proof.Machine.execTxCommand dt port c s
  | .handedBackReissue dt port => Sys2Proof.Machine.execHandedBackReissue dt port s
  | .settleStart dt port => Sys2Proof.Machine.execSettleStart dt port s
  | .synthLock dt port => Sys2Proof.Machine.execSynthLock dt port s
  | .launchStart dt port => Sys2Proof.Machine.execLaunchStart dt port s
  | .coexReqAssert dt port pair => Sys2Proof.Machine.execCoexReqAssert dt port pair s
  | .coexGntChange dt pair level => Sys2Proof.Machine.execCoexGntChange dt pair level s
  | .txLate dt port => Sys2Proof.Machine.execTxLate dt port s
  | .ackLate dt port => Sys2Proof.Machine.execAckLate dt port s
  | .ppduEnd dt port => Sys2Proof.Machine.execPpduEnd dt port s
  | .txSequenceEnd dt port => Sys2Proof.Machine.execTxSequenceEnd dt port s
  | .txrHoldExpire dt port => Sys2Proof.Machine.execTxrHoldExpire dt port s
  | .txCommandWithdraw dt port => Sys2Proof.Machine.execTxCommandWithdraw dt port s
  | .calReq dt m port w => Sys2Proof.Machine.execCalReq dt m port w s
  | .calTempCheck dt port => Sys2Proof.Machine.execCalTempCheck dt port s
  | .calPeriodExpire dt port => Sys2Proof.Machine.execCalPeriodExpire dt port s
  | .calStart dt port => Sys2Proof.Machine.execCalStart dt port s
  | .calEnter dt port => Sys2Proof.Machine.execCalEnter dt port s
  | .calEnd dt port failed => Sys2Proof.Machine.execCalEnd dt port failed s
  | .emitPowerCheck dt port meas => Sys2Proof.Machine.execEmitPowerCheck dt port meas s
  | .emitFreqCheck dt port locked hz => Sys2Proof.Machine.execEmitFreqCheck dt port locked hz s
  | .emitDurationExpire dt port => Sys2Proof.Machine.execEmitDurationExpire dt port s
  | .dutySubwindow dt port => Sys2Proof.Machine.execDutySubwindow dt port s
  | .tjSample dt port t => Sys2Proof.Machine.execTjSample dt port t s
  | .vinSample dt mv => Sys2Proof.Machine.execVinSample dt mv s
  | .detection dt port channel mode power fofs => Sys2Proof.Machine.execDetection dt port channel mode power fofs s
  | .noiseFloorRefresh dt port energies => Sys2Proof.Machine.execNoiseFloorRefresh dt port energies s
  | .sfdFound dt port d coded ts => Sys2Proof.Machine.execSfdFound dt port d coded ts s
  | .sfdWaitExpire dt port d => Sys2Proof.Machine.execSfdWaitExpire dt port d s
  | .phrReceived dt port d len modeSwitch fcs32 whitened lqi fofs => Sys2Proof.Machine.execPhrReceived dt port d len modeSwitch fcs32 whitened lqi fofs s
  | .rxPpduEnd dt port d delta psdu fcsOk => Sys2Proof.Machine.execRxPpduEnd dt port d delta psdu fcsOk s
  | .sltRealign dt m w => Sys2Proof.Machine.execSltRealign dt m w s
  | .slotCheck dt upset => Sys2Proof.Machine.execSlotCheck dt upset s
  | .nbrBeaconRx dt id => Sys2Proof.Machine.execNbrBeaconRx dt id s
  | .beaconMiss dt idx => Sys2Proof.Machine.execBeaconMiss dt idx s
  | .nbrRelease dt idx => Sys2Proof.Machine.execNbrRelease dt idx s
  | .sltNbrClear dt m w => Sys2Proof.Machine.execSltNbrClear dt m w s
  | .assocResponseAttempt dt nix => Sys2Proof.Machine.execAssocResponseAttempt dt nix s
  | .assocFail dt nix => Sys2Proof.Machine.execAssocFail dt nix s
  | .supervisionCheck dt => Sys2Proof.Machine.execSupervisionCheck dt s
  | .ascUpdGo dt m w => Sys2Proof.Machine.execAscUpdGo dt m w s
  | .schedUpdStart dt => Sys2Proof.Machine.execSchedUpdStart dt s
  | .schedUpdInstant dt nix => Sys2Proof.Machine.execSchedUpdInstant dt nix s
  | .ascLeave dt m w => Sys2Proof.Machine.execAscLeave dt m w s
  | .uplinkAcceptance dt id => Sys2Proof.Machine.execUplinkAcceptance dt id s
  | .uplinkVerifyDone dt id => Sys2Proof.Machine.execUplinkVerifyDone dt id s
  | .ackWaitExpire dt dl => Sys2Proof.Machine.execAckWaitExpire dt dl s
  | .floodLookup dt => Sys2Proof.Machine.execFloodLookup dt s
  | .accessionExpiry dt => Sys2Proof.Machine.execAccessionExpiry dt s
  | .rcptTimerExpire dt idx => Sys2Proof.Machine.execRcptTimerExpire dt idx s
  | .catCmdWrite dt m mask nix => Sys2Proof.Machine.execCatCmdWrite dt m mask nix s
  | .catCmdRead dt m nix => Sys2Proof.Machine.execCatCmdRead dt m nix s
  | .catCmdClear dt m nix => Sys2Proof.Machine.execCatCmdClear dt m nix s
  | .catCmdEntry dt => Sys2Proof.Machine.execCatCmdEntry dt s
  | .catWriteback dt nix => Sys2Proof.Machine.execCatWriteback dt nix s
  | .shaperEntry dt => Sys2Proof.Machine.execShaperEntry dt s
  | .shaperDecision dt port => Sys2Proof.Machine.execShaperDecision dt port s
  | .shpSampleSet dt => Sys2Proof.Machine.execShpSampleSet dt s
  | .shpSringRdWrite dt m w => Sys2Proof.Machine.execShpSringRdWrite dt m w s
  | .jobCreate dt cls svc creator buf0 buf1 args => Sys2Proof.Machine.execJobCreate dt cls svc creator buf0 buf1 args s
  | .jobDispatch dt cls => Sys2Proof.Machine.execJobDispatch dt cls s
  | .jobPreempt dt id progress => Sys2Proof.Machine.execJobPreempt dt id progress s
  | .jobFault dt id ecc detail faultAt => Sys2Proof.Machine.execJobFault dt id ecc detail faultAt s
  | .jobStall dt id ns => Sys2Proof.Machine.execJobStall dt id ns s
  | .jobComplete dt id status detail result => Sys2Proof.Machine.execJobComplete dt id status detail result s
  | .jobWriteback dt id => Sys2Proof.Machine.execJobWriteback dt id s
  | .jobSubmit dt m w => Sys2Proof.Machine.execJobSubmit dt m w s
  | .jobCancel dt m id => Sys2Proof.Machine.execJobCancel dt m id s
  | .jobResume dt m id => Sys2Proof.Machine.execJobResume dt m id s
  | .jobCopy dt m id => Sys2Proof.Machine.execJobCopy dt m id s
  | .trcMark dt m w => Sys2Proof.Machine.execTrcMark dt m w s
  | .trcRingRdWrite dt m w => Sys2Proof.Machine.execTrcRingRdWrite dt m w s
  | .dramInitBlock dt block => Sys2Proof.Machine.execDramInitBlock dt block s
  | .scrubRead dt ue ce => Sys2Proof.Machine.execScrubRead dt ue ce s
  | .scrubLate dt => Sys2Proof.Machine.execScrubLate dt s
  | .ceRate dt => Sys2Proof.Machine.execCeRate dt s
  | .dmaChunk dt id hostData hostErr upset => Sys2Proof.Machine.execDmaChunk dt id hostData hostErr upset s
  | .bmpHwinFence dt m w => Sys2Proof.Machine.execBmpHwinFence dt m w s
  | .fenceDone dt ctx => Sys2Proof.Machine.execFenceDone dt ctx s
  | .laneMismatch dt job => Sys2Proof.Machine.execLaneMismatch dt job s
  | .katRunStart dt => Sys2Proof.Machine.execKatRunStart dt s
  | .katExclusiveTake dt => Sys2Proof.Machine.execKatExclusiveTake dt s
  | .katRunEnd dt failed => Sys2Proof.Machine.execKatRunEnd dt failed s
  | .cphInject dt m w => Sys2Proof.Machine.execCphInject dt m w s
  | .writeClear dt m slot src => Sys2Proof.Machine.execWriteClear dt m slot src s
  | .unwrap dt m slot src => Sys2Proof.Machine.execUnwrap dt m slot src s
  | .derive dt m slot src => Sys2Proof.Machine.execDerive dt m slot src s
  | .wrap dt m slot src => Sys2Proof.Machine.execWrap dt m slot src s
  | .erase dt m slot src => Sys2Proof.Machine.execErase dt m slot src s
  | .expire dt m slot src => Sys2Proof.Machine.execExpire dt m slot src s
  | .flushNode dt m slot src => Sys2Proof.Machine.execFlushNode dt m slot src s
  | .keyCmdDeferredApply dt => Sys2Proof.Machine.execKeyCmdDeferredApply dt s
  | .kldLoad dt id => Sys2Proof.Machine.execKldLoad dt id s
  | .lcsChalRead dt m => Sys2Proof.Machine.execLcsChalRead dt m s
  | .lcsChalExpire dt => Sys2Proof.Machine.execLcsChalExpire dt s
  | .lcsCmd dt m w => Sys2Proof.Machine.execLcsCmd dt m w s
  | .lcsChange dt => Sys2Proof.Machine.execLcsChange dt s
  | .attestRequest dt m w => Sys2Proof.Machine.execAttestRequest dt m w s
  | .attestDone dt => Sys2Proof.Machine.execAttestDone dt s
  | .timIncWrite dt m domain w => Sys2Proof.Machine.execTimIncWrite dt m domain w s
  | .holdover dt domain => Sys2Proof.Machine.execHoldover dt domain s
  | .timStep dt m domain w => Sys2Proof.Machine.execTimStep dt m domain w s
  | .stepArmExpire dt domain => Sys2Proof.Machine.execStepArmExpire dt domain s
  | .clrOfs dt m w => Sys2Proof.Machine.execClrOfs dt m w s
  | .ptpEventTimestamp dt port tx p => Sys2Proof.Machine.execPtpEventTimestamp dt port tx p s
  | .ptpGeneralMessage dt port p => Sys2Proof.Machine.execPtpGeneralMessage dt port p s
  | .ptpExchangeDiscard dt domain => Sys2Proof.Machine.execPtpExchangeDiscard dt domain s
  | .pathStepClear dt m domain w => Sys2Proof.Machine.execPathStepClear dt m domain w s
  | .domainCompare dt => Sys2Proof.Machine.execDomainCompare dt s
  | .ppsInEdge dt => Sys2Proof.Machine.execPpsInEdge dt s
  | .ppsLost dt => Sys2Proof.Machine.execPpsLost dt s
  | .ppsOutPulse dt => Sys2Proof.Machine.execPpsOutPulse dt s
  | .ppsOutEnd dt => Sys2Proof.Machine.execPpsOutEnd dt s
  | .tsuRingRdWrite dt m w => Sys2Proof.Machine.execTsuRingRdWrite dt m w s
  | .link dt port up => Sys2Proof.Machine.execLink dt port up s
  | .bhFrameRx dt port frame => Sys2Proof.Machine.execBhFrameRx dt port frame s
  | .downlink dt => Sys2Proof.Machine.execDownlink dt s
  | .flood dt => Sys2Proof.Machine.execFlood dt s
  | .confirm dt => Sys2Proof.Machine.execConfirm dt s
  | .ethTx dt => Sys2Proof.Machine.execEthTx dt s
  | .hello dt => Sys2Proof.Machine.execHello dt s
  | .hostTxWrWrite dt m ring w => Sys2Proof.Machine.execHostTxWrWrite dt m ring w s
  | .hostTxFetch dt ring => Sys2Proof.Machine.execHostTxFetch dt ring s
  | .hostRxRdWrite dt m ring w => Sys2Proof.Machine.execHostRxRdWrite dt m ring w s
  | .pcieReset dt => Sys2Proof.Machine.execPcieReset dt s
  | .hostReadTimeout dt id => Sys2Proof.Machine.execHostReadTimeout dt id s
  | .bar2Access dt a n write => Sys2Proof.Machine.execBar2Access dt a n write s
  | .hbWireSend dt => Sys2Proof.Machine.execHbWireSend dt s
  | .hbLaneSend dt => Sys2Proof.Machine.execHbLaneSend dt s
  | .hbWireRx dt frame => Sys2Proof.Machine.execHbWireRx dt frame s
  | .hbLaneRx dt h tagOk fseq => Sys2Proof.Machine.execHbLaneRx dt h tagOk fseq s
  | .hbPathCheck dt lane => Sys2Proof.Machine.execHbPathCheck dt lane s
  | .ownNProbe dt held => Sys2Proof.Machine.execOwnNProbe dt held s
  | .dualActive dt => Sys2Proof.Machine.execDualActive dt s
  | .laneLinkUp dt nonce macOk => Sys2Proof.Machine.execLaneLinkUp dt nonce macOk s
  | .laneWriteRx dt a data tagOk fseq => Sys2Proof.Machine.execLaneWriteRx dt a data tagOk fseq s
  | .laneJackRx dt pos tagOk fseq => Sys2Proof.Machine.execLaneJackRx dt pos tagOk fseq s
  | .jackTimeout dt => Sys2Proof.Machine.execJackTimeout dt s
  | .snapTimer dt => Sys2Proof.Machine.execSnapTimer dt s
  | .snapNow dt m w => Sys2Proof.Machine.execSnapNow dt m w s
  | .takeoverRestore dt a b failed => Sys2Proof.Machine.execTakeoverRestore dt a b failed s
  | .clkMonWindow dt counts pulses locked => Sys2Proof.Machine.execClkMonWindow dt counts pulses locked s
  | .safeExit dt m w => Sys2Proof.Machine.execSafeExit dt m w s
  | .supplyFault dt supply => Sys2Proof.Machine.execSupplyFault dt supply s
  | .tempSample dt readings => Sys2Proof.Machine.execTempSample dt readings s
  | .parityWalk dt bad => Sys2Proof.Machine.execParityWalk dt bad s
  | .safTest dt m w => Sys2Proof.Machine.execSafTest dt m w s
  | .safTestDone dt detected => Sys2Proof.Machine.execSafTestDone dt detected s
  | .freezeNAssert dt edgeOk => Sys2Proof.Machine.execFreezeNAssert dt edgeOk s
  | .frzCmd dt m w edgeOk => Sys2Proof.Machine.execFrzCmd dt m w edgeOk s
  | .freezeDelayExpire dt edgeOk => Sys2Proof.Machine.execFreezeDelayExpire dt edgeOk s
  | .frzVselWrite dt m w => Sys2Proof.Machine.execFrzVselWrite dt m w s
  | .frzVdata15Read dt m => Sys2Proof.Machine.execFrzVdata15Read dt m s
  | .topNringRdWrite dt m w => Sys2Proof.Machine.execTopNringRdWrite dt m w s
  | .wideValueCaptureRead dt m a narrow bad => Sys2Proof.Machine.execWideValueCaptureRead dt m a narrow bad s
  | .entryCaptureRead dt m w ofs => Sys2Proof.Machine.execEntryCaptureRead dt m w ofs s
  | .topNoticeLostRead dt m => Sys2Proof.Machine.execTopNoticeLostRead dt m s
  | .pwrOccRead dt m => Sys2Proof.Machine.execPwrOccRead dt m s
  | .poolStatusRead dt m n => Sys2Proof.Machine.execPoolStatusRead dt m n s
  | .nrgStatusRead dt m => Sys2Proof.Machine.execNrgStatusRead dt m s
  | .shpSampleLostRead dt m => Sys2Proof.Machine.execShpSampleLostRead dt m s
  | .trcLostRead dt m port => Sys2Proof.Machine.execTrcLostRead dt m port s
  | .bmpPoolMinRead dt m => Sys2Proof.Machine.execBmpPoolMinRead dt m s
  | .tsuLostRead dt m => Sys2Proof.Machine.execTsuLostRead dt m s
  | .aonUp dt => Sys2Proof.Machine.execAonUp dt s
  | .rootPllLockTimeout dt => Sys2Proof.Machine.execRootPllLockTimeout dt s
  | .coexLeadElapsed dt port => Sys2Proof.Machine.execCoexLeadElapsed dt port s
  | .supplyInRange dt supply => Sys2Proof.Machine.execSupplyInRange dt supply s
  | .chunkFetchDone dt => Sys2Proof.Machine.execChunkFetchDone dt s
  | .laneHelloRx dt nonce macOk => Sys2Proof.Machine.execLaneHelloRx dt nonce macOk s
  | .pauseEnd dt port => Sys2Proof.Machine.execPauseEnd dt port s

end Sys2Proof.Machine
end

