-- ==== Sys2Proof/Safety.lean ====
section
/-! DEFINITION. What claims call a sound state, and what no command may do to one. -/

namespace Sys2Proof.Machine

/-- The canonical form of device DRAM: addresses rise strictly, and no listed byte is 0. -/
def Memory.wf (m : List Host.Cell) : Bool := Sparse.wf dramDefault m

/-- The register file, the tables behind the windows and device DRAM in canonical form. -/
def State.wf (s : State) : Bool := Sparse.wf resetWord s.regs && Sparse.wf tabDefault s.tabs && Memory.wf s.dram

/-- The same of the three maps themselves. -/
def mapsWf (regs tabs : Sparse Word) (dram : List Host.Cell) : Prop := Sparse.wf resetWord regs = true ∧ Sparse.wf tabDefault tabs = true ∧ Memory.wf dram = true

/-- What nothing takes back: the queue as it was, sound maps still sound, time and the count of draws not lower, outputs only added, and the serial number, the part, the
pair root key and the blown anti-rollback fuses as they were (R71, R407). -/
structure Kept (s : State) (pending : List Instr) (regs tabs : Sparse Word) (dram : List Host.Cell) (now : Nat) (out : List Out) (fuses : Fuses) (draws : Nat) : Prop where
  queue : pending = s.pending
  maps : mapsWf s.regs s.tabs s.dram → mapsWf regs tabs dram
  time : s.clk.now ≤ now
  added : ∃ l, out = l ++ s.out
  serial : fuses.serial = s.fuses.serial
  part : fuses.partEv = s.fuses.partEv
  root : fuses.pairRoot = s.fuses.pairRoot
  arb : s.fuses.arb ≤ fuses.arb
  draws : s.draws ≤ draws

/-- `t` keeps what nothing takes back from `s`. -/
def Keeps (s t : State) : Prop := Kept s t.pending t.regs t.tabs t.dram t.clk.now t.out t.fuses t.draws

/-- The next state of an outcome, if there is one, keeps it. -/
def KeepsNext (s : State) (o : Host.Outcome State Fault Refusal) : Prop := ∀ t, o = .next t → Keeps s t

/-- The command completes: `exec` answers a next state, and `P` holds of it. -/
def Completes (c : Instr) (s : State) (P : State → Prop) : Prop := ∃ t, exec c s = .next t ∧ P t

/-- Of the registers only those listed may change. -/
def OnlyRegs (l : List Nat) (s t : State) : Prop := ∀ a, a ∉ l → t.reg a = s.reg a

/-- The registers that a notice may change: TOP_NRING_WR, TOP_NOTICE_LOST, the pending bits and CUR_ALERT_STATUS (R45, R47, R51, R147). -/
def noticeRegs : List Nat := [0x48, 0x50, 0x60, 0x64, 0x30040]

/-- A byte of the notice ring (R45). -/
def inNoticeRing (a : Nat) (s : State) : Prop :=
  let base := s.getF F.TOP_NRING_BASE_BASE / (16 * nringSize s) * (16 * nringSize s)
  base ≤ a ∧ a < base + 16 * nringSize s

/-- Every byte of device DRAM outside the notice ring is as it was. -/
def OnlyRing (s t : State) : Prop := ∀ a, ¬inNoticeRing a s → t.byte a = s.byte a

end Sys2Proof.Machine
end

