-- ==== Sys2Proof/Certificates/Slice0/Obligations.lean ====
section
/-! DEFINITION. The statements for the provers. -/

open Sys2Proof Sys2Proof.Machine

/-- A step runs the command at the front of the queue on the state with the rest of the queue (the model's queue, log entry 7). -/
def Obligations.StepRunsFront : Prop :=
  ∀ (c : Instr) (r : List Instr) (s : State), step { s with pending := c :: r } = exec c { s with pending := r }

/-- With an empty queue a step lets 5 ns pass and does nothing else, the model's choice of log entry 2. -/
def Obligations.IdleStep : Prop :=
  ∀ s : State, s.pending = [] → step s = .next (s.elapse 1)

/-- After reset the register file, the tables and device DRAM are in canonical form, and every register of the map reads as its reset value, the model's layout of log entries 5 and 6. -/
def Obligations.ResetSound : Prop :=
  State.reset.wf = true ∧ (∀ a, State.reset.reg a = resetWord a) ∧ (∀ a, State.reset.byte a = 0) ∧ State.reset.pending = []

/-- A step from a state whose register file, tables and DRAM are in canonical form leads to such a state, whatever the command, its operands and the rest of the state. -/
def Obligations.StepKeepsForm : Prop :=
  ∀ s t : State, s.wf = true → step s = .next t → t.wf = true

/-- A step on a queue that is not empty leaves exactly the rest of the queue; no command's meaning touches the queue (the model's queue, log entry 7). -/
def Obligations.QueueFirstInFirstOut : Prop :=
  ∀ (s t : State) (c : Instr) (r : List Instr), s.pending = c :: r → step s = .next t → t.pending = r

/-- No step takes real time back, withdraws an output, lowers the anti-rollback count, or changes the serial number, the part or the presence of the pair root key; R71 says that the count never decreases. -/
def Obligations.NothingTurnsBack : Prop :=
  ∀ s t : State, step s = .next t →
    s.clk.now ≤ t.clk.now ∧ (∃ l, t.out = l ++ s.out) ∧ s.fuses.arb ≤ t.fuses.arb ∧ t.fuses.serial = s.fuses.serial ∧ t.fuses.partEv = s.fuses.partEv ∧
      t.fuses.pairRoot = s.fuses.pairRoot

/-- Whatever the command and the state, exec answers a next state: what the spec ignores, refuses or denies is recorded in the state (the model's reading, log entry 4). -/
def Obligations.EveryCommandCompletes : Prop :=
  ∀ (c : Instr) (s : State), ∃ t, exec c s = .next t

/-- Either master writes TOP_NRING_RD, whether or not it owns configuration: where TOP_NRING_WR less the value, modulo 2^32, is at most 2^LOG2N the register takes it and no other register changes; where it is greater the register stands, an empty TOP_ACCESS_ERR records the access as an invalid value, and no other register changes; memory and tables stand. -/
def Obligations.NringRdWrite : Prop :=
  ∀ (dt : Nat) (m : Master) (w : Word) (s : State), s.clk.core = true → s.mode ≠ stFrozen →
    Completes (.topNringRdWrite dt m w) s fun t =>
      (if (s.getF F.TOP_NRING_WR_WR + 2 ^ 32 - w.toNat) % 2 ^ 32 ≤ 2 ^ s.getF F.TOP_NRING_CTRL_LOG2N then t.reg 0x4C = w ∧ OnlyRegs [0x4C] s t
        else (s.getF F.TOP_ACCESS_ERR_VALID = 0 → t.reg 0x8 = BitVec.ofNat 32 (2 ^ 31 + m.bit * 2 ^ 30 + 3 * 2 ^ 28 + 0x4C)) ∧
          (s.getF F.TOP_ACCESS_ERR_VALID = 1 → t.reg 0x8 = s.reg 0x8) ∧ OnlyRegs [0x8] s t) ∧
      t.dram = s.dram ∧ t.tabs = s.tabs ∧ t.clk.now = s.clk.now + dt

/-- A read of a register with an RC field gives the master its value and clears the field: the lost counts of the notice ring, the shaper samples, the trace ring, the trace port and the timestamp ring, and the peaks of occupancy, of a port's pool (which starts again from the demodulators busy now) and of strain; no other register, no table and no byte of memory changes. -/
def Obligations.ClearingReads : Prop :=
  ∀ (dt : Nat) (m : Master) (n : Fin 16) (s : State), s.clk.core = true → s.mode ≠ stFrozen → s.mode ≠ stReserve →
    ∀ p ∈ ([(.topNoticeLostRead dt m, 0x50, 0xFFFFFFFF#32, 0xFFFFFFFF#32), (.pwrOccRead dt m, 0x10108, 0x3FF03FF#32, 0x3FF0000#32),
        (.poolStatusRead dt m n, 0x40110 + 32768 * n.val, 0x7F007F#32, 0x7F0000#32), (.nrgStatusRead dt m, 0xE8000, 0x1FFFFFFF#32, 0xFFFF#32),
        (.shpSampleLostRead dt m, 0xF0110, 0xFFFFFFFF#32, 0xFFFFFFFF#32), (.trcLostRead dt m false, 0x108010, 0xFFFFFFFF#32, 0xFFFFFFFF#32),
        (.trcLostRead dt m true, 0x108018, 0xFFFFFFFF#32, 0xFFFFFFFF#32), (.tsuLostRead dt m, 0x148020, 0xFFFFFFFF#32, 0xFFFFFFFF#32)] : List (Instr × Nat × Word × Word)),
      s.captured m p.2.1 = none → Completes p.1 s fun t =>
        t.out = .value m.bit (s.reg p.2.1 &&& p.2.2.1) :: s.out ∧ t.reg p.2.1 = s.reg p.2.1 &&& ~~~p.2.2.2 ||| (if p.2.2.2 = 0x7F0000#32 then s.reg p.2.1 <<< 16 &&& 0x7F0000#32 else 0#32) ∧ OnlyRegs [p.2.1] s t ∧ t.dram = s.dram ∧ t.tabs = s.tabs

/-- A read of BMP_POOL_MIN gives the master the lowest count of free buffers since the read before it (the present count when none was kept) and starts again from the present count; no register, no table and no byte of memory changes. -/
def Obligations.PoolMinRead : Prop :=
  ∀ (dt : Nat) (m : Master) (s : State), s.clk.core = true → s.mode ≠ stFrozen → s.mode ≠ stReserve → s.captured m 0x110010 = none →
    Completes (.bmpPoolMinRead dt m) s fun t =>
      t.out = .value m.bit (BitVec.ofNat 32 (s.mem.minFree.getD (poolFreeCount s)) &&& 0x1FFFF#32) :: s.out ∧
        t.mem.minFree = some (poolFreeCount s) ∧ OnlyRegs [] s t ∧ t.dram = s.dram ∧ t.tabs = s.tabs

/-- A read of TIM_SLOTCLK_LO gives the low word of the slot clock and captures its high word for that master; while a capture holds, a read of TIM_SLOTCLK_HI gives the captured word, not the clock's; no register changes and the other master's capture stands. -/
def Obligations.WideCapture : Prop :=
  ∀ (dt : Nat) (m : Master) (s : State), s.clk.core = true → s.mode ≠ stFrozen → s.mode ≠ stReserve →
    (s.captured m 0x140000 = none →
      Completes (.wideValueCaptureRead dt m 0x140000#24 false false) s fun t =>
        t.out = .value m.bit (BitVec.ofNat 32 t.clk.slot) :: s.out ∧ t.captured m 0x140004 = some (BitVec.ofNat 32 (t.clk.slot / 2 ^ 32)) ∧
          (m = .host → t.cap1 = s.cap1) ∧ (m = .curator → t.cap0 = s.cap0) ∧ OnlyRegs [] s t) ∧
    (∀ w : Word, s.captured m 0x140004 = some w →
      Completes (.wideValueCaptureRead dt m 0x140004#24 false false) s fun t =>
        t.out = .value m.bit w :: s.out ∧ t.cap .host = s.cap .host ∧ t.cap .curator = s.cap .curator ∧ OnlyRegs [] s t)

/-- A narrow read gives 0 and a narrow write is ignored; an empty TOP_ACCESS_ERR records either with KIND 0b10, which is the model's reading of that field (log entry 10); no other register, no table and no byte of memory changes. -/
def Obligations.NarrowAccess : Prop :=
  ∀ (dt : Nat) (m : Master) (a : BitVec 24) (w : Word) (bad : Bool) (s : State), s.getF F.TOP_ACCESS_ERR_VALID = 0 →
    (Completes (.registerWrite dt m a w true bad) s fun t =>
      t.reg 0x8 = BitVec.ofNat 32 (2 ^ 31 + m.bit * 2 ^ 30 + 2 * 2 ^ 28 + a.toNat) ∧ OnlyRegs [0x8] s t ∧ t.dram = s.dram ∧ t.tabs = s.tabs ∧ t.out = s.out) ∧
    (Completes (.wideValueCaptureRead dt m a true bad) s fun t =>
      t.reg 0x8 = BitVec.ofNat 32 (2 ^ 31 + m.bit * 2 ^ 30 + 2 * 2 ^ 28 + a.toNat) ∧ OnlyRegs [0x8] s t ∧ t.dram = s.dram ∧ t.tabs = s.tabs ∧
        t.out = .value m.bit 0 :: s.out)

/-- A write of 1s to TOP_NVEC_PEND0 by either master clears those bits and changes no other register; a write of TOP_NRING_BASE, of type T, by the owner with a transaction open becomes a shadow and changes no register until the commit; memory and tables stand. -/
def Obligations.RegisterWrites : Prop :=
  ∀ (dt : Nat) (m : Master) (w : Word) (s : State), s.clk.core = true → s.mode ≠ stFrozen →
    (Completes (.registerWrite dt m 0x60#24 w false false) s fun t =>
      t.reg 0x60 = s.reg 0x60 &&& ~~~w ∧ OnlyRegs [0x60] s t ∧ t.dram = s.dram ∧ t.tabs = s.tabs) ∧
    (s.owns m = true → s.txn = txOpen →
      Completes (.registerWrite dt m 0x40#24 w false false) s fun t =>
        t.ctl.shadows.filter (fun e => e.1 == 0x40) = [(0x40, w)] ∧ OnlyRegs [] s t ∧ t.dram = s.dram ∧ t.tabs = s.tabs)

/-- A read through window 7 at offset 0 gives the count of log entries written; a read of word 0 of a log entry gives that word and captures words 1 to 3 of the entry for that master; nothing else changes but the capture. -/
def Obligations.EntryCapture : Prop :=
  ∀ (dt : Nat) (m : Master) (i : Fin 256) (s : State),
    (s.captured m (tabKey 7 0) = none → Completes (.entryCaptureRead dt m 7 0#18) s fun t => t.out = .value m.bit (BitVec.ofNat 32 s.saf.logWr) :: s.out ∧ OnlyRegs [] s t) ∧
    (Completes (.entryCaptureRead dt m 7 (BitVec.ofNat 18 (0x100 + 16 * i.val))) s fun t =>
      t.out = .value m.bit (logWord i.val 0 s) :: s.out ∧
        (∀ k, 1 ≤ k → k ≤ 3 → t.captured m (tabKey 7 (0x100 + 16 * i.val + 4 * k)) = some (logWord i.val k s)) ∧ OnlyRegs [] s t ∧ t.dram = s.dram ∧ t.saf = s.saf)

/-- VIN becoming valid starts step 1 of start-up and counts the first start, and changes no other register; VIN below its reset threshold leaves every register outside TAM at its reset value, and with VBAT present the TAM registers and the unlock seed as they were; a low VIN sets PWR_STATUS.VIN_LOW; VBAT lost while VIN is absent loses the unlock seed, and while VIN is valid loses nothing. DRAM and fuses stay but for the power cycle and the notice's record. -/
def Obligations.SupplyEvents : Prop :=
  ∀ (dt : Nat) (s : State),
    (∀ (low nvm fe ddr vbat id : Bool), s.pins.vinValid = false → Completes (.vinValid dt low nvm fe ddr vbat id) s fun t =>
      t.pins.vinValid = true ∧ t.pins.resetLow = low ∧ t.pins.vbatOk = vbat ∧ t.pins.pairId = id ∧ t.clk.vinAt = s.clk.now + dt ∧ t.saf.starts = 1 ∧
        t.step = 1 ∧ OnlyRegs [0x20000] s t ∧ t.dram = s.dram ∧ t.tabs = s.tabs ∧ t.fuses = s.fuses) ∧
    (Completes (.vinPowerOff dt) s fun t =>
      t.pins.vinValid = false ∧ (∀ a, a < 0x138000 ∨ 0x139000 ≤ a → t.reg a = resetWord a) ∧ (s.pins.vbatOk = true → ∀ a, 0x138000 ≤ a → a < 0x139000 → t.reg a = s.reg a) ∧
        (s.pins.vbatOk = true → t.tamp = s.tamp) ∧ (s.pins.vbatOk = false → t.tamp.seed = none) ∧ t.dram = [] ∧ t.clk.core = false ∧ t.fuses = s.fuses) ∧
    (∀ mv : Nat, (s.clk.core = false ∨ s.mode = stFrozen) → Completes (.vinLow dt mv) s fun t => OnlyRegs [] s t ∧ t.dram = s.dram) ∧
    (∀ mv : Nat, s.pins.vinValid = true → s.clk.core = true → s.mode ≠ stFrozen → Completes (.vinLow dt mv) s fun t =>
      t.getF F.PWR_STATUS_VIN_LOW = 1 ∧ OnlyRegs (0x10100 :: noticeRegs) s t ∧ OnlyRing s t ∧ t.tabs = s.tabs) ∧
    (Completes (.vbatLoss dt) s fun t =>
      t.pins.vbatOk = false ∧ (s.pins.vinValid = true → t.tamp = s.tamp ∧ OnlyRegs [] s t) ∧ (s.pins.vinValid = false → t.tamp.seed = none) ∧
        t.dram = s.dram ∧ t.fuses = s.fuses)

/-- A pulse on RESET_N outside TAMPER_HOLD, and a write of 0x7180 to CFG_RESTART by a master that may make it, leave every register at its reset value but those of TAM and FRZ_STATUS, which stand, and CFG_STATUS, which shows step 2; the safety log, the unlock seed, the fuses and real time stand, and DRAM is cleared as log entry 5 says; in SAFE_HOLD either master may make the write. -/
def Obligations.Restarts : Prop :=
  ∀ (dt : Nat) (s : State),
    ∀ p ∈ ([(.resetNPulse dt, s.pins.vinValid && !s.pins.resetLow && s.mode != stTamperHold),
        (.cfgRestart dt .host 0x7180#32, s.clk.core && (s.mode == stSafeHold || s.mode == stAutonomous && s.owns .host)),
        (.cfgRestart dt .curator 0x7180#32, s.clk.core && (s.mode == stSafeHold || s.mode == stAutonomous && s.owns .curator))] : List (Instr × Bool)),
      p.2 = true → Completes p.1 s fun t =>
        (∀ a, a ≠ 0x20000 → t.reg a = if 0x138000 ≤ a ∧ a < 0x139000 ∨ a = 0x178000 then s.reg a else resetWord a) ∧
          t.step = 2 ∧ t.mode = stStarting ∧ t.saf.log = s.saf.log ∧ t.saf.logWr = s.saf.logWr ∧ t.tamp = s.tamp ∧ t.fuses = s.fuses ∧
          t.clk.now = s.clk.now + dt ∧ t.dram = [] ∧ t.tabs = []

/-- With no tamper input active step 2 leads to step 3 with PAIR_ID latched; sound fuses start CORE and show the fused values; a passed self-test, a lock, and a training with its tests passed lead on to steps 5, 6 and 7, and only the named registers change; at the lock the clocks run and the slot clock starts at 0. -/
def Obligations.StartupSteps : Prop :=
  ∀ (dt : Nat) (s : State),
    (s.mode = stStarting → s.pins.vinValid = true → s.pins.resetLow = false → s.clk.core = false → s.step ≤ 2 → s.pins.tamper &&& s.getF F.TAM_CFG_EN = 0 →
      Completes (.aonUp dt) s fun t =>
        t.step = 3 ∧ t.pair.id = s.pins.pairId ∧ t.getF F.PAR_HB_STATUS_PAIR_ID = bit s.pins.pairId ∧ OnlyRegs [0x20000, F.TAM_STATUS_LIVE.addr, F.PAR_HB_STATUS_PAIR_ID.addr] s t ∧
          t.dram = s.dram ∧ t.clk.core = false) ∧
    (s.mode = stStarting → s.clk.core = false → s.step = 3 → Completes (.fuseLoad dt true) s fun t =>
      t.clk.core = true ∧ t.getF F.TOP_STATUS_CORE_UP = 1 ∧ t.getF F.CFG_ARB_COUNT = s.fuses.arb % 128 ∧ t.getF F.LCS_STATUS_STATE = s.fuses.lifecycle % 16 ∧
        t.getF F.LCS_SERIAL_LO_SERIAL = s.fuses.serial % 2 ^ 32 ∧ t.step = (if s.fuses.lifecycle = 0 ∨ s.fuses.lifecycle = 5 then 5 else 4) ∧
        t.tamp.bcnMark = (if s.tamp.seed.isSome then s.tamp.bcnMark else 0) + 65536 ∧ t.dram = s.dram ∧ t.tabs = s.tabs ∧ t.fuses = s.fuses) ∧
    (inStep 4 s = true → Completes (.identitySelfTest dt true) s fun t => t.step = 5 ∧ OnlyRegs [0x20000] s t ∧ t.dram = s.dram) ∧
    (inStep 5 s = true → Completes (.rootPllLock dt) s fun t =>
      t.step = 6 ∧ t.clk.running = true ∧ t.clk.slot = 0 ∧ t.clk.stamp = 0 ∧ t.clk.monitor = true ∧ t.getF F.CLK_STATUS_ROOT_LOCK = 1 ∧ t.getF F.CLK_STATUS_REF_OK = 1 ∧
        t.getF F.CLK_STATUS_DIV_OK = 0x3F ∧ OnlyRegs [0x20000, 0x10000] s t ∧ t.dram = s.dram) ∧
    (∀ (size : Fin 3) (two : Bool), inStep 6 s = true → s.pins.vddDdr = true → s.fuses.lifecycle ≠ 5 → Completes (.dramTraining dt size two true true) s fun t =>
      t.step = 7 ∧ t.getF F.DRM_STATUS_TRAINED = 1 ∧ t.getF F.DRM_STATUS_SIZE = size.val + 1 ∧ t.getF F.DRM_STATUS_RANKS = (if two then 2 else 1) ∧
        t.getF F.DRM_STATUS_USABLE_MIB = 896 * 2 ^ size.val ∧ OnlyRegs [0x20000, F.DRM_STATUS_TRAINED.addr] s t ∧ t.dram = s.dram)

/-- A fuse word that fails, a failed self-test, a root PLL that does not lock, DRAM that does not train, a BIST or line test that fails, lifecycle state VOID, and a flash that does not answer each end start-up in SAFE_HOLD with SAFE_N asserted, the FAIL code in CFG_STATUS and in the argument of the last safety log entry, and the owner NONE with epoch 1. -/
def Obligations.StartupFailures : Prop :=
  ∀ (dt : Nat) (size : Fin 3) (two o : Bool) (log : Fin 4) (a b : Option CopyView) (s : State), s.boot.ended = false →
    ∀ p ∈ ([(.fuseLoad dt false, 0x0D, s.mode == stStarting && !s.clk.core && s.step == 3), (.identitySelfTest dt false, 0x01, inStep 4 s),
        (.rootPllLockTimeout dt, 0x02, inStep 5 s), (.dramTraining dt size two false o, 0x03, inStep 6 s),
        (.dramTraining dt size two true false, 0x04, inStep 6 s && s.pins.vddDdr),
        (.dramTraining dt size two true true, 0x0B, inStep 6 s && s.pins.vddDdr && s.fuses.lifecycle == 5),
        (.copySelection dt false log o a b, 0x0C, inStep 7 s)] : List (Instr × Nat × Bool)),
      p.2.2 = true → Completes p.1 s fun t =>
        t.mode = stSafeHold ∧ t.getF F.TOP_STATUS_SAFE = 1 ∧ t.pins.safeN = true ∧ t.getF F.CFG_STATUS_FAIL = p.2.1 ∧ t.getF F.CFG_STATUS_RESULT = 0x0E ∧
          t.getF F.CUR_OWN_STATUS_OWNER = 0 ∧ t.getF F.CUR_OWN_STATUS_EPOCH = 1 ∧ 1 ≤ t.saf.logWr ∧
          (Sparse.get (fun _ => LogEntry.zero) t.saf.log ((t.saf.logWr - 1) % 256)).arg = p.2.1

/-- Where the two copies let R69 select one, step 7 shows its code in CFG_STATUS.SEL and both verdicts, and leads to step 8 with that image; step 8 ends the transaction of tag 0 with OK exactly where every section applies, the store lies in the flash and the checks at commit hold, and with DENIED otherwise; step 10 of an image with a catalogue whose digest is right leads to step 11 and counts the load, and changes no register outside the CAT block but CFG_STATUS and those of notices. -/
def Obligations.ImageSteps : Prop :=
  ∀ (dt : Nat) (s : State),
    (∀ (log : Fin 4) (octal : Bool) (a b : Option CopyView), inStep 7 s = true → s.pins.vddNvm = true → ∀ (sel : Nat) (v : CopyView), selectCopy a b s = .ok (sel, v) →
      Completes (.copySelection dt true log octal a b) s fun t =>
        t.step = 8 ∧ t.boot.image = some v ∧ t.getF F.CFG_STATUS_SEL = sel ∧ (sel = 1 → a = some v) ∧ (sel = 2 → b = some v) ∧
          t.getF F.CFG_COPY_A_VERDICT = verdict a s ∧ t.getF F.CFG_COPY_B_VERDICT = verdict b s ∧ t.getF F.CFG_NVM_STATUS_SIZE_LOG2 = 26 + log.val ∧
          t.getF F.CFG_NVM_STATUS_MODE = (if octal then 2 else 1) ∧ t.dram = s.dram ∧ t.tabs = s.tabs) ∧
    (∀ v : CopyView, s.boot.image = some v → inStep 8 s = true → Completes (.imageApply dt) s fun t =>
      t.getF F.TXN_STATUS_LAST_TAG = 0 ∧
        t.getF F.TXN_STATUS_LAST_RESULT =
          (match applySections 0 v.sections (s.elapse dt) with
           | .ok u => if storeOutside v (s.elapse dt) = false ∧ commitOk u (applyShadows u) = true then 0x00 else 0x0D
           | .error _ => 0x0D)) ∧
    (∀ v : CopyView, s.boot.image = some v → ∀ es : List (BitVec 17 × List Byte), inStep 10 s = true → v.catPresent = true → Completes (.catalogueWarmLoad dt es true) s fun t =>
      t.step = 11 ∧ t.tamp.loads = min (s.tamp.loads + 1) 4095 ∧ t.getF F.CAT_STATUS_LOADS = t.tamp.loads ∧
        (∀ a, a ≠ 0x20000 → a ∉ noticeRegs → (a < 0xE0000 ∨ 0xE8000 ≤ a) → t.reg a = s.reg a))

/-- In step 11 a unit with PAIR_ID 0 that hears no lead asserts OWN_N and enters AUTONOMOUS, one with PAIR_ID 1 first waits 8 ms, then enters AUTONOMOUS where the line is released and RESERVE where it is held; a lead heard in the listening window with OWN_N held leads to RESERVE; a fuse that reads back as blown raises the count by 1, and one that does not for the second time stops the raise with ARB_FAIL. -/
def Obligations.OwnLineAtStart : Prop :=
  ∀ (dt : Nat) (s : State),
    (inStep 11 s = true → claimDue s = true → s.pair.leadAt = none → (s.fuses.pairRoot = false ∨ s.pair.id = false) → Completes (.ownNClaim dt) s fun t =>
      t.mode = stAutonomous ∧ t.getF F.PAR_HB_STATUS_OWN_DRIVE = 1 ∧ t.dram = s.dram) ∧
    (claimDue s = true → s.pair.leadAt = none → s.fuses.pairRoot = true → s.pair.id = true → Completes (.ownNClaim dt) s fun t =>
      t.pair.claimAt = some (s.clk.now + dt + 8 * ms) ∧ OnlyRegs [] s t ∧ t.dram = s.dram) ∧
    (∀ c : Nat, inStep 11 s = true → s.pair.claimAt = some c → c ≤ s.clk.now + dt →
      (Completes (.ownNSample dt false) s fun t => t.mode = stAutonomous ∧ t.getF F.PAR_HB_STATUS_OWN_DRIVE = 1) ∧
      (Completes (.ownNSample dt true) s fun t => t.mode = stReserve ∧ t.getF F.TOP_STATUS_ROLE = 1 ∧ t.getF F.CFG_STATUS_SEL = 0)) ∧
    (∀ c : Nat, inStep 7 s = true → s.boot.listenEnd = some c → c ≤ s.clk.now + dt → (3 ≤ s.boot.leadWire ∨ 3 ≤ s.boot.leadLane) → Completes (.hbListenWindowEnd dt true) s fun t =>
      t.mode = stReserve ∧ t.getF F.TOP_STATUS_ROLE = 1 ∧ t.getF F.CFG_STATUS_SEL = 0) ∧
    (s.getF F.CFG_STATUS_ARB_PENDING = 1 → s.step = 0xF → s.mode = stAutonomous → s.clk.core = true → s.fuses.arb < 64 →
      (Completes (.arbFuseBlow dt true) s fun t =>
        t.fuses = { s.fuses with arb := s.fuses.arb + 1 } ∧ t.getF F.CFG_ARB_COUNT = s.fuses.arb + 1 ∧
          (t.getF F.CFG_STATUS_ARB_PENDING = 0 ↔ s.getF F.CFG_ARB_TARGET ≤ s.fuses.arb + 1) ∧ OnlyRegs [0x20000, 0x2000C] s t ∧ t.dram = s.dram) ∧
      (s.boot.arbTries ≠ 0 → Completes (.arbFuseBlow dt false) s fun t =>
        t.fuses = s.fuses ∧ t.getF F.CFG_STATUS_ARB_FAIL = 1 ∧ t.getF F.CFG_STATUS_ARB_PENDING = 0 ∧ t.getF F.CFG_ARB_TARGET = s.fuses.arb % 128 ∧
          OnlyRegs ([0x20000, 0x2000C] ++ noticeRegs) s t ∧ OnlyRing s t))

/-- A write of 0x7181 to PWR_HIB by the owner in AUTONOMOUS releases OWN_N and logs HIB_ENTER; at the end of the entry CORE is off, STATE reads HIBERNATE, DRAM is not kept, every register outside AON and TAMP is at its reset value and the others but TOP_STATUS stand; in HIBERNATE a write of 0x7181 to CUR_WAKE by the curator and the expiry of CUR_HIB_TIMER start the device at step 2. -/
def Obligations.Hibernation : Prop :=
  ∀ (dt : Nat) (s : State),
    (∀ m : Master, s.clk.core = true → s.mode = stAutonomous → s.owns m = true → Completes (.pwrHibEnter dt m 0x7181#32) s fun t =>
      t.power.hibEntry = true ∧ t.getF F.PAR_HB_STATUS_OWN_DRIVE = 0 ∧ 1 ≤ t.saf.logWr ∧
        (let e := Sparse.get (fun _ => LogEntry.zero) t.saf.log ((t.saf.logWr - 1) % 256); e.block = 0x01 ∧ e.event = 0x03 ∧ e.arg = m.bit)) ∧
    (s.power.hibEntry = true → s.mode ≠ stFrozen → Completes (.hibernatePowerOff dt) s fun t =>
      t.mode = stHibernate ∧ t.clk.core = false ∧ t.clk.running = false ∧ t.power.hibAt = t.clk.now ∧ t.dram = [] ∧ t.tabs = [] ∧
        (∀ a, a ≠ 4 → t.reg a = if aonReg a then s.reg a else resetWord a) ∧ t.tamp = s.tamp ∧ t.saf.log = s.saf.log ∧ t.fuses = s.fuses) ∧
    (s.mode = stHibernate → Completes (.curWake dt .curator 0x7181#32) s fun t => t.mode = stStarting ∧ t.step = 2 ∧ t.tamp = s.tamp ∧ t.fuses = s.fuses) ∧
    (s.mode = stHibernate → s.getF F.CUR_HIB_TIMER_SECONDS ≠ 0 → s.power.hibAt + s.getF F.CUR_HIB_TIMER_SECONDS * sec ≤ s.clk.now + dt →
      Completes (.curHibTimerExpire dt) s fun t => t.mode = stStarting ∧ t.step = 2 ∧ t.tamp = s.tamp ∧ t.fuses = s.fuses)

/-- In a power mode an update adds its increment in nJ to each counter with its fraction, modulo 2^64 uJ, where Miscellaneous takes what the other blocks leave of VIN and VIN takes its own; no register outside the counters, no table and no byte of memory changes. A write of 1 to PWR_NRG_CTRL by either master sets all eleven to 0. -/
def Obligations.EnergyCounters : Prop :=
  let nj (k : Nat) (s : State) := 1000 * s.get64 (F.PWR_NRG_LO_NRG k) (F.PWR_NRG_HI_NRG k) + Sparse.get (fun _ => 0) s.power.nrgFrac k
  ∀ (dt vin : Nat) (blocks : List Nat) (m : Master) (s : State),
    (s.getF F.PWR_STATUS_MODE ≠ 0 → Completes (.energyCounterUpdate dt vin blocks) s fun t =>
      (∀ k, k < 11 → nj k t = (nj k s + (if k = 10 then vin else if k = 9 then vin - (blocks.take 9).sum else (blocks.take 9).getD k 0)) % (1000 * 2 ^ 64)) ∧
        (∀ a, a < 0x10140 ∨ 0x10198 ≤ a → t.reg a = s.reg a) ∧ t.dram = s.dram ∧ t.tabs = s.tabs) ∧
    (s.clk.core = true → s.mode ≠ stFrozen → Completes (.pwrNrgClear dt m 1#32) s fun t =>
      (∀ k, k < 11 → nj k t = 0) ∧ (∀ a, a < 0x10140 ∨ 0x10198 ≤ a → t.reg a = s.reg a) ∧ t.dram = s.dram ∧ t.tabs = s.tabs)

/-- A START by either master with a window length in range and no window running starts one of that many ms from the next tick, with its counts at 0; at its end ENERGY, NJ and POWER take their values truncated, NJ is 0xFFFF_FFFF without a frame, DONE is set and BUSY cleared; only the PWR_EPF registers and those of the notice change. -/
def Obligations.EnergyPerFrame : Prop :=
  ∀ (dt : Nat) (s : State),
    (∀ (m : Master) (w : Word), s.clk.core = true → s.mode ≠ stFrozen → s.getF F.PWR_EPF_CTRL_BUSY = 0 → bitsOf w 31 31 = 1 → 10 ≤ bitsOf w 13 0 → bitsOf w 13 0 ≤ 10000 →
      Completes (.epfStart dt m w) s fun t =>
        t.getF F.PWR_EPF_CTRL_BUSY = 1 ∧ t.getF F.PWR_EPF_CTRL_WIN_MS = bitsOf w 13 0 ∧ t.reg 0x10204 = 0 ∧ t.reg 0x10208 = 0 ∧
          t.power.epf = some (t.clk.slot + 1 + bitsOf w 13 0 * ms, 0) ∧ OnlyRegs [0x10200, 0x10204, 0x10208] s t ∧ t.dram = s.dram ∧ t.tabs = s.tabs) ∧
    (∀ e nj : Nat, s.clk.running = true → s.power.epf = some (e, nj) → e ≤ (s.elapse dt).clk.slot → Completes (.epfDone dt) s fun t =>
      t.power.epf = none ∧ t.getF F.PWR_EPF_CTRL_BUSY = 0 ∧ t.getF F.PWR_EPF_CTRL_DONE = 1 ∧ t.reg 0x10204 = s.reg 0x10204 ∧
        t.getF F.PWR_EPF_ENERGY_VALUE = min (nj / 1000) 0xFFFFFFFF ∧
        t.getF F.PWR_EPF_NJ_VALUE = (if s.getF F.PWR_EPF_FRAMES_VALUE = 0 then 0xFFFFFFFF else min (nj / 1000 * 1000 / s.getF F.PWR_EPF_FRAMES_VALUE) 0xFFFFFFFF) ∧
        t.getF F.PWR_EPF_POWER_VALUE = min (nj / 1000 / s.getF F.PWR_EPF_CTRL_WIN_MS) 0xFFFFFFFF ∧
        OnlyRegs ([0x10200, 0x10208, 0x1020C, 0x10210] ++ noticeRegs) s t ∧ OnlyRing s t ∧ t.tabs = s.tabs)

/-- A write by a master to its own command register names a command and an epoch. Where the epoch is the current one and the table accepts the command - CLAIM or TAKE with owner NONE, REFRESH and RELEASE by the owner, FORCE by the curator with owner HOST or NONE - RESULT is OK, the owner is the issuing master (NONE after RELEASE), and the lease of a master that owns starts anew. Otherwise RESULT is DENIED and no register but LAST_CMD and RESULT of that command register changes, nor the lease, memory or a table. -/
def Obligations.OwnCommandWrites : Prop :=
  ∀ (dt : Nat) (m : Master) (w : Word) (s : State),
    let a : BitVec 24 := if m = .curator then 0x30004#24 else 0x30100#24
    let cmd := bitsOf w 31 28
    let owner := s.getF F.CUR_OWN_STATUS_OWNER
    Completes (.registerWrite dt m a w false false) s fun t =>
      bitsOf (t.reg a.toNat) 27 24 = cmd ∧
      (if bitsOf w 15 0 = s.getF F.CUR_OWN_STATUS_EPOCH ∧ (cmd = 1 ∧ owner = 0 ∨ (cmd = 2 ∨ cmd = 3) ∧ owner = m.code ∨ cmd = 4 ∧ m = .curator ∧ (owner = 1 ∨ owner = 0)) then
        bitsOf (t.reg a.toNat) 23 16 = 0x00 ∧ t.getF F.CUR_OWN_STATUS_OWNER = (if cmd = 3 then 0 else m.code) ∧
          t.ctl.lease = (if cmd = 3 then none else some (s.clk.now + dt + (if m = .curator then s.getF F.CUR_LEASE_CFG_PERIOD_MS else s.getF F.HST_LEASE_CFG_PERIOD_MS) * ms))
      else bitsOf (t.reg a.toNat) 23 16 = 0x0D ∧ t.ctl = s.ctl ∧ OnlyRegs [a.toNat] s t ∧ t.dram = s.dram ∧ t.tabs = s.tabs)

/-- At the current epoch CLAIM and TAKE with owner NONE and FORCE with owner HOST or NONE give the issuing master the configuration, RELEASE by the owner gives it back, and a lease whose deadline has passed lapses: each changes the epoch by 1, sets CUR_ALERT_STATUS.OWNER and zeroises key staging, and a lapse also sets LAPSE and, where SAF_CFG.ACT_H does not select REPORT, enters the safe state from AUTONOMOUS; REFRESH by the owner moves the deadline alone. -/
def Obligations.OwnershipCommands : Prop :=
  ∀ (dt : Nat) (s : State),
    let epoch := BitVec.ofNat 16 (s.getF F.CUR_OWN_STATUS_EPOCH)
    let owner := s.getF F.CUR_OWN_STATUS_OWNER
    let changed (new : Nat) (t : State) : Prop :=
      t.getF F.CUR_OWN_STATUS_OWNER = new ∧ t.getF F.CUR_OWN_STATUS_EPOCH = (s.getF F.CUR_OWN_STATUS_EPOCH + 1) % 65536 ∧ t.getF F.CUR_ALERT_STATUS_OWNER = 1 ∧
        (s.mode ≠ stFrozen → ∀ n, n < 8 → t.getF (F.KEY_STAGE_KEY n) = 0) ∧ (s.mode = stFrozen → t.dram = s.dram ∧ t.txn = s.txn ∧ t.ctl.shadows = s.ctl.shadows) ∧ t.tabs = s.tabs
    (owner = 0 → Completes (.claim dt epoch) s fun t =>
      changed 1 t ∧ t.getF F.HST_OWN_CMD_RESULT = 0 ∧ t.getF F.HST_OWN_CMD_LAST_CMD = 1 ∧ t.ctl.lease = some (s.clk.now + dt + s.getF F.HST_LEASE_CFG_PERIOD_MS * ms)) ∧
    (owner = 0 → Completes (.take dt epoch) s fun t =>
      changed 2 t ∧ t.getF F.CUR_OWN_CMD_RESULT = 0 ∧ t.getF F.CUR_OWN_CMD_LAST_CMD = 1 ∧ t.ctl.lease = some (s.clk.now + dt + s.getF F.CUR_LEASE_CFG_PERIOD_MS * ms)) ∧
    (owner = 0 ∨ owner = 1 → Completes (.force dt epoch) s fun t =>
      changed 2 t ∧ t.getF F.CUR_OWN_CMD_RESULT = 0 ∧ t.getF F.CUR_OWN_CMD_LAST_CMD = 4 ∧ t.ctl.lease = some (s.clk.now + dt + s.getF F.CUR_LEASE_CFG_PERIOD_MS * ms)) ∧
    (∀ m : Master, s.owns m = true →
      (Completes (.refresh dt m epoch) s fun t =>
        t.ctl.lease = some (s.clk.now + dt + (if m = .curator then s.getF F.CUR_LEASE_CFG_PERIOD_MS else s.getF F.HST_LEASE_CFG_PERIOD_MS) * ms) ∧
          OnlyRegs [if m = .curator then 0x30004 else 0x30100] s t ∧ t.dram = s.dram ∧ t.tabs = s.tabs) ∧
      (Completes (.release dt m epoch) s fun t => changed 0 t ∧ t.ctl.lease = none)) ∧
    (∀ d, s.ctl.lease = some d → d ≤ s.clk.now + dt → s.getF F.SAF_CFG_ACT_H = 1 → Completes (.leaseLapse dt) s fun t =>
      changed 0 t ∧ t.ctl.lease = none ∧ t.getF F.CUR_ALERT_STATUS_LAPSE = 1 ∧ t.mode = s.mode) ∧
    (∀ d, s.ctl.lease = some d → d ≤ s.clk.now + dt → s.getF F.SAF_CFG_ACT_H ≠ 1 → s.mode = stAutonomous → s.getF F.SAF_STATUS_SAFE = 0 → Completes (.leaseLapse dt) s fun t =>
      t.ctl.lease = none ∧ t.mode = stSafeHold ∧ t.getF F.SAF_STATUS_SAFE = 1 ∧ t.pins.safeN = true)

/-- In AUTONOMOUS with no transaction, a read of TXN_BEGIN by the owner returns the next tag and opens a transaction of it; a write of the open tag to TXN_COMMIT by the owner makes it COMMIT_PENDING, one to TXN_ROLLBACK ends it with CANCELLED, and the timeout on the slot clock ends it with TIMEOUT and sets CUR_ALERT_STATUS.TXN_ABORT; an end discards the shadows and changes only TXN_STATUS, that alert bit and the registers of the notice. -/
def Obligations.TransactionLife : Prop :=
  ∀ (dt : Nat) (m : Master) (s : State), s.clk.core = true → s.mode = stAutonomous →
    (s.owns m = true → s.txn = txIdle → Completes (.txnBegin dt m) s fun t =>
      t.out = .value m.bit (BitVec.ofNat 32 s.ctl.nextTag) :: s.out ∧ t.txn = txOpen ∧ t.getF F.TXN_STATUS_TAG = s.ctl.nextTag % 256 ∧ t.getF F.TXN_STATUS_MASTER = m.bit ∧
        t.getF F.TXN_STATUS_POISONED = 0 ∧ t.ctl.nextTag = (if s.ctl.nextTag = 255 then 1 else s.ctl.nextTag + 1) ∧ t.ctl.shadows = [] ∧
        t.ctl.txnEnd = t.clk.slot + s.getF F.TXN_TIMEOUT_MS * ms ∧ OnlyRegs [0x2080C] s t ∧ t.dram = s.dram ∧ t.tabs = s.tabs) ∧
    (∀ w : Word, s.owns m = true → s.txn = txOpen → bitsOf w 7 0 = s.getF F.TXN_STATUS_TAG →
      (Completes (.txnCommit dt m w) s fun t =>
        t.txn = txPending ∧ t.ctl.commitFrom = t.clk.slot + 20 * us ∧ t.ctl.shadows = s.ctl.shadows ∧ OnlyRegs [0x2080C] s t ∧ t.dram = s.dram ∧ t.tabs = s.tabs) ∧
      (Completes (.txnRollback dt m w) s fun t =>
        t.txn = txIdle ∧ t.getF F.TXN_STATUS_LAST_TAG = s.getF F.TXN_STATUS_TAG ∧ t.getF F.TXN_STATUS_LAST_RESULT = 0x01 ∧ t.ctl.shadows = [] ∧
          OnlyRegs (0x2080C :: noticeRegs) s t ∧ OnlyRing s t ∧ t.tabs = s.tabs)) ∧
    (s.clk.running = true → s.txn = txOpen → s.ctl.txnEnd ≤ (s.elapse dt).clk.slot → Completes (.txnTimeout dt) s fun t =>
      t.txn = txIdle ∧ t.getF F.TXN_STATUS_LAST_TAG = s.getF F.TXN_STATUS_TAG ∧ t.getF F.TXN_STATUS_LAST_RESULT = 0x0C ∧ t.getF F.CUR_ALERT_STATUS_TXN_ABORT = 1 ∧
        t.ctl.shadows = [] ∧ OnlyRegs (0x2080C :: noticeRegs) s t ∧ OnlyRing s t ∧ t.tabs = s.tabs)

/-- At the first slot boundary at least 20 us after its COMMIT a pending transaction ends: with OK, its tag's shadows gone and TXN_APPLIED_SEN at the SEN of the slot that begins, where it is not poisoned and every check at commit holds; with DENIED, poisoned and nothing applied, otherwise - and then only TXN_STATUS, the alert bit and the notice's registers change. -/
def Obligations.CommitBoundary : Prop :=
  ∀ (dt : Nat) (s : State), ∀ b, s.slt.next = some b → s.clk.running = true → s.txn = txPending → b ≤ (s.elapse dt).clk.slot → s.ctl.commitFrom ≤ b →
    Completes (.txnCommitBoundary dt) s fun t =>
      t.txn = txIdle ∧ t.ctl.shadows = [] ∧
      (if s.getF F.TXN_STATUS_POISONED = 0 ∧ commitOk (s.elapse dt) (applyShadows (s.elapse dt)) = true then
        t.getF F.TXN_STATUS_LAST_RESULT = 0x00 ∧ t.getF F.TXN_APPLIED_SEN_LO_SEN = t.slt.nextSen % 2 ^ 32 ∧ t.getF F.TXN_APPLIED_SEN_HI_SEN = t.slt.nextSen / 2 ^ 32 % 256
      else t.getF F.TXN_STATUS_LAST_RESULT = 0x0D ∧ t.getF F.TXN_STATUS_LAST_TAG = s.getF F.TXN_STATUS_TAG ∧ t.getF F.TXN_STATUS_POISONED = 1 ∧
        t.getF F.CUR_ALERT_STATUS_TXN_ABORT = 1 ∧ OnlyRegs (0x2080C :: noticeRegs) s t ∧ OnlyRing s t ∧ t.tabs = s.tabs)

/-- Every transfer puts CUR_FIFO_STATUS on MISO first. A PUSH whose words fit puts them in order at the tail of the command FIFO; a PULL takes the words at the head of the response FIFO and puts out the idle item for each word beyond them; an opcode that is neither sets BAD_OP; the rising edge of CUR_CS_N removes only words of the PUSH in progress. Registers other than those of the port's pins and counters stand. -/
def Obligations.CuratorTransfers : Prop :=
  let pins : List Nat := [0x30014, 0x30020, 0x30024, 0x30028, 0x3002C]
  ∀ (dt : Nat) (s : State),
    (∀ ws : List Word, s.cur.discard = false → s.cur.overrun = false → s.cur.cmd.length + ws.length ≤ 32 → Completes (.push dt ws) s fun t =>
      t.out = .miso (fifoStatus (s.elapse dt)) :: s.out ∧ t.cur.cmd = s.cur.cmd ++ ws.map (fun w => (w, s.cur.push)) ∧ t.cur.rsp = s.cur.rsp ∧
        OnlyRegs pins s t ∧ t.dram = s.dram ∧ t.tabs = s.tabs) ∧
    (∀ n : Nat, n ≤ 70 → Completes (.pull dt n) s fun t =>
      t.cur.rsp = s.cur.rsp.drop n ∧
        t.out = (s.cur.rsp.take n ++ List.replicate (n - s.cur.rsp.length) 0x1D1E1D1E#32).reverse.map Out.miso ++ .miso (fifoStatus (s.elapse dt)) :: s.out ∧
        t.cur.cmd = s.cur.cmd ∧ OnlyRegs pins s t ∧ t.dram = s.dram ∧ t.tabs = s.tabs) ∧
    (∀ op : BitVec 8, op ≠ 0x5A#8 → op ≠ 0xA5#8 → Completes (.curBadOp dt op) s fun t =>
      t.getF F.CUR_FIFO_STATUS_BAD_OP = 1 ∧ t.cur = s.cur ∧ t.out = .miso (fifoStatus (s.elapse dt)) :: s.out ∧ OnlyRegs [0x30014] s t ∧ t.dram = s.dram ∧ t.tabs = s.tabs) ∧
    (Completes (.curCsRise dt) s fun t =>
      t.cur.push = s.cur.push + 1 ∧ t.cur.overrun = false ∧ t.cur.discard = false ∧ t.cur.rsp = s.cur.rsp ∧
        (∃ k, t.cur.cmd = s.cur.cmd.take k) ∧ (s.cur.cmd.filter (fun e => e.2 == s.cur.push) = [] → t.cur.cmd = s.cur.cmd) ∧
        OnlyRegs (0x30034 :: pins) s t ∧ t.dram = s.dram ∧ t.tabs = s.tabs)

/-- A READ of CUR_OWN_STATUS at the head of the command FIFO, with room for its response, is answered with length, echo, STATUS OK and the register's value; a one-word WRITE that takes effect is answered with two words and STATUS OK; an invalid header is answered DENIED with DETAIL 0x8 and takes the words of its PUSH with it. The words of the command leave the command FIFO. -/
def Obligations.CuratorExecutor : Prop :=
  ∀ (dt p : Nat) (tag : BitVec 8) (r : List (Word × Nat)) (s : State),
    (let cmd := (0x01000100#32 ||| tag.setWidth 32 <<< 16, p) :: (0x30000#32, p) :: r
     ∀ s' : State, s' = { s with cur := { s.cur with cmd := cmd } } → rspRoom 3 s' = true → Completes (.curCmdRead dt) s' fun t =>
      t.cur.rsp = s.cur.rsp ++ [3#32, 0x01000000#32 ||| tag.setWidth 32 <<< 16, s.reg 0x30000 &&& 0xC000FFFF#32] ∧ t.cur.cmd = r ∧ t.dram = s.dram ∧ t.tabs = s.tabs ∧
        OnlyRegs [0x30014, 0x30020, 0x30024, 0x30028, 0x3002C] s t) ∧
    (∀ w : Word, 100 ≤ w.toNat → w.toNat ≤ 60000 →
     let cmd := (0x02000100#32 ||| tag.setWidth 32 <<< 16, p) :: (0x30008#32, p) :: (w, p) :: r
     ∀ s' : State, s' = { s with cur := { s.cur with cmd := cmd } } → rspRoom 2 s' = true → Completes (.curCmdWrite dt) s' fun t =>
      t.cur.rsp = s.cur.rsp ++ [2#32, 0x02000000#32 ||| tag.setWidth 32 <<< 16] ∧ t.cur.cmd = r ∧ t.getF F.CUR_LEASE_CFG_PERIOD_MS = w.toNat ∧ t.dram = s.dram ∧ t.tabs = s.tabs ∧
        OnlyRegs [0x30008, 0x30014, 0x30020, 0x30024, 0x30028, 0x3002C] s t) ∧
    (∀ (h : Word) (q : Nat), headInvalid s = some (h, q) → rspRoom 2 s = true → Completes (.curInvalidHeader dt) s fun t =>
      t.cur.rsp = s.cur.rsp ++ [2#32, (h &&& 0xFFFF0000#32) ||| 0x0D80#32] ∧ t.cur.cmd = s.cur.cmd.filter (fun e => e.2 != q) ∧ t.dram = s.dram ∧ t.tabs = s.tabs ∧
        OnlyRegs [0x30014, 0x30020, 0x30024, 0x30028, 0x3002C] s t)

/-- The curator's write of marks in range takes effect, and CUR_BUSY follows the new marks at once: a pin at or above CMD_HIGH asserts, and one at or below CMD_LOW deasserts, each with its sticky bit. The host's write changes no register but TOP_ACCESS_ERR, and no mark. -/
def Obligations.FifoWatermarks : Prop :=
  ∀ (dt ch cl rh rl : Nat) (s : State), 1 ≤ ch → ch ≤ 32 → cl < ch → 1 ≤ rh → rh ≤ 64 → rl < rh →
    let w : Word := BitVec.ofNat 32 (ch * 2 ^ 24 + cl * 2 ^ 16 + rh * 2 ^ 8 + rl)
    (Completes (.curFifoCfgWrite dt .curator w) s fun t =>
      t.reg 0x30010 = w ∧ t.cur.cmd = s.cur.cmd ∧ t.cur.rsp = s.cur.rsp ∧
        (ch ≤ s.cur.cmd.length → t.cur.busy = true ∧ (s.cur.busy = false → t.getF F.CUR_FIFO_STATUS_CMD_HI_X = 1)) ∧
        (s.cur.cmd.length ≤ cl → t.cur.busy = false ∧ (s.cur.busy = true → t.getF F.CUR_FIFO_STATUS_CMD_LO_X = 1)) ∧
        OnlyRegs [0x30010, 0x30014, 0x30020, 0x30024, 0x30028, 0x3002C] s t ∧ t.dram = s.dram ∧ t.tabs = s.tabs) ∧
    (busyPin s = s → attnPin s = s → Completes (.curFifoCfgWrite dt .host w) s fun t => OnlyRegs [0x8] s t ∧ t.cur = s.cur ∧ t.dram = s.dram ∧ t.tabs = s.tabs)

/-- A port in RX that holds no command and is in no calibration takes a timed command for a permitted frequency whose settle is still to come: it holds it with the moment of acceptance, stays in RX, and nothing launches; a beacon's command changes no register. A command issued to a port that is OFF ends at once CANCELLED with REASON OFF. -/
def Obligations.CommandAccepted : Prop :=
  ∀ (dt : Nat) (n : Fin 16) (c : TxCmd) (s : State), s.clk.running = true →
    (∀ L, c.launch = some L → s.pstate n = psRx → (s.port n).held = none → (s.port n).cal.phase < 2 → permitted n c.khz s = true → (s.elapse dt).clk.slot < settleAt n L s →
      Completes (.txCommand dt n c) s fun t =>
        (t.port n).held.map (fun h => (h.cmd.khz, h.cmd.launch, h.cmd.kind, h.cmd.airtime, h.accepted)) = some (c.khz, c.launch, c.kind, c.airtime, t.clk.slot) ∧
        (t.port n).begun = none ∧ t.pstate n = psRx ∧ t.out = s.out ∧ (c.ref = .beacon → OnlyRegs [] s t ∧ t.dram = s.dram ∧ t.tabs = s.tabs)) ∧
    (c.ref = .beacon → s.pstate n = psOff → Completes (.txCommand dt n c) s fun t =>
      t.getF (F.RFP_TX_LAST_STATUS n) = 0x01 ∧ t.getF (F.RFP_TX_LAST_REASON n) = 7 ∧ (t.port n).held = (s.port n).held ∧
        OnlyRegs [(F.RFP_TX_LAST_STATUS n).addr] s t ∧ t.dram = s.dram ∧ t.tabs = s.tabs)

/-- When the settle of a held timed command is due, a port in RX enters SETTLE toward its frequency with the receive path blanked. A port that locks in SETTLE without a command is in RX with the path open. A held command that is ready at its start point, on a permitted frequency and within the duty budget, launches at the start point or when LEAD_US of its request has passed: the port is in TX, the airtime is booked, and the PPDU's first bit leaves TRSW_LEAD later. A request that is due is asserted and changes no register. -/
def Obligations.SettleAndLaunch : Prop :=
  ∀ (dt : Nat) (n : Fin 16) (s : State), s.clk.running = true →
    (s.pstate n = psSettle → (s.port n).held = none → Completes (.synthLock dt n) s fun t =>
      t.pstate n = psRx ∧ t.getF (F.RFP_STATUS_LOCK n) = 1 ∧ t.getF (F.RFP_STATUS_BLANK n) = 0 ∧ (t.port n).locked = some (s.port n).target ∧
        OnlyRegs [(F.RFP_STATUS_STATE n).addr] s t ∧ t.dram = s.dram ∧ t.tabs = s.tabs) ∧
    (∀ h, (s.port n).held = some h →
      (∀ L, h.cmd.launch = some L → s.pstate n = psRx → lockOk n h s = false → settleAt n L s ≤ (s.elapse dt).clk.slot → calHolds n h s = false →
        Completes (.settleStart dt n) s fun t =>
          t.pstate n = psSettle ∧ t.getF (F.RFP_STATUS_LOCK n) = 0 ∧ t.getF (F.RFP_STATUS_BLANK n) = 1 ∧ (t.port n).target = h.cmd.khz ∧ (t.port n).locked = none ∧
            (t.port n).held = some h) ∧
      ((s.port n).begun = none → s.pstate n = psTxReady → startPoint n h (s.elapse dt) = (s.elapse dt).clk.slot → launchReady n h (s.elapse dt) = true → ackReleased h s = true →
        permitted n h.cmd.khz s = true → dutyExceeded n h.cmd.airtime s = false →
        ∀ c ∈ ([.launchStart dt n, .coexLeadElapsed dt n] : List Instr), (h.cmd.kind = .beacon → ackReserved n h (s.elapse dt) = false) → Completes c s fun t =>
          t.pstate n = psTx ∧ (t.port n).begun = some t.clk.slot ∧ (t.port n).held = some h ∧ dutyUsed n t = dutyUsed n s + h.cmd.airtime ∧
            t.getF (F.RFP_TX_LAST_APPLIED n) = ofSigned 8 (appliedSetting n h.cmd s) ∧
            .ppdu n (match h.cmd.kind with | .frame => 0 | .beacon => 1 | .ack => 2) h.cmd.channel (t.clk.slot + trswLead n s) ∈ t.out) ∧
      (∀ k : Fin 4, (dueReqs n h (s.elapse dt)).contains k.val = true → Completes (.coexReqAssert dt n k) s fun t =>
        (t.port n).req.any (fun r => r.1 == k.val) = true ∧ (t.port n).held = some h ∧ OnlyRegs [] s t ∧ t.dram = s.dram ∧ t.tabs = s.tabs))

/-- A held FRAME or BEACON that has less than LATE_LIMIT_US left, and a held ACK 20 us past its start point, end LATE with the reason of R159; a held command whose launch has not begun is withdrawn as CANCELLED with REASON 0; the last PPDU bit ends a command with OK; the end of the sequence frees the port for its return state. Each outcome stands in RFPn_TX_LAST; a beacon's end changes only the port's registers, the beacon counters and those of the notice. -/
def Obligations.CommandEnds : Prop :=
  ∀ (dt : Nat) (n : Fin 16) (s : State), s.clk.running = true →
    let ended (st reason : Nat) (t : State) : Prop :=
      t.getF (F.RFP_TX_LAST_STATUS n) = st ∧ t.getF (F.RFP_TX_LAST_REASON n) = reason ∧ (t.port n).held = none
    (∀ h, (s.port n).held = some h →
      ((s.port n).begun = none → (s.port n).sent = false → (s.port n).waiting = [] →
        (h.cmd.kind ≠ .ack → waitLate n h (s.elapse dt) = true → Completes (.txLate dt n) s (ended 0x02 (lateReason n h (s.elapse dt)))) ∧
        (h.cmd.kind = .ack → waitLate n h (s.elapse dt) = true → Completes (.ackLate dt n) s (ended 0x02 (lateReason n h (s.elapse dt)))) ∧
        (Completes (.txCommandWithdraw dt n) s (ended 0x01 0))) ∧
      (s.pstate n = psTx → (s.port n).sent = false → ppduEnd n h s ≤ (s.elapse dt).clk.slot → Completes (.ppduEnd dt n) s fun t =>
        t.getF (F.RFP_TX_LAST_STATUS n) = 0 ∧ t.getF (F.RFP_TX_LAST_REASON n) = 0 ∧ (t.port n).sent = true ∧
          t.getF (F.RFP_CNT_COUNT n 0) = (s.getF (F.RFP_CNT_COUNT n 0) + 1) % 2 ^ 32 ∧
          (h.cmd.ref = .beacon → OnlyRegs [(F.RFP_TX_LAST_STATUS n).addr, (F.RFP_CNT_COUNT n 0).addr, (F.SLT_CNT_COUNT 0).addr] s t ∧ t.dram = s.dram)) ∧
      (s.pstate n = psTx → (s.port n).sent = true → (s.port n).stopping = false → (s.port n).waiting = [] →
        ppduEnd n h s + (s.getF (F.RFP_FE_TIMING_RAMP n) + s.getF (F.RFP_FE_TIMING_TRSW_LAG n)) * us ≤ (s.elapse dt).clk.slot → Completes (.txSequenceEnd dt n) s fun t =>
        (t.port n).held = none ∧ (t.port n).begun = none ∧ (t.port n).req = [] ∧
          (t.pstate n = psRx ∨ t.pstate n = psSettle ∨ t.pstate n = psTxReady ∧ s.getF (F.RFP_CTRL_RET_STATE n) = 1) ∧ t.out = s.out)) ∧
    (∀ e, (s.port n).holdEnd = some e → s.pstate n = psTxReady → (s.port n).held = none → e ≤ (s.elapse dt).clk.slot → (s.port n).locked ≠ some (centre n s) →
      Completes (.txrHoldExpire dt n) s fun t => t.pstate n = psSettle ∧ (t.port n).target = centre n s ∧ t.getF (F.RFP_STATUS_BLANK n) = 1)

/-- A change of COEX_GNTk sets its level and leaves the other pairs' levels; where no port is bound to the pair nothing else changes. A command that an OFF port's exchange engine still holds as handed back ends CANCELLED with REASON OFF when it is issued again, and a port in RX that holds none takes it. -/
def Obligations.GrantAndReissue : Prop :=
  ∀ (dt : Nat) (s : State), s.clk.running = true →
    (∀ (k : Fin 4) (level : Bool), (∀ n : Fin 16, (boundPairs n s).contains k.val = false) → Completes (.coexGntChange dt k level) s fun t =>
      t.radio.gnt / 2 ^ k.val % 2 = bit level ∧ (∀ j : Fin 4, j ≠ k → t.radio.gnt / 2 ^ j.val % 2 = s.radio.gnt / 2 ^ j.val % 2) ∧ OnlyRegs [] s t ∧ t.ports = s.ports ∧
        t.dram = s.dram ∧ t.tabs = s.tabs) ∧
    (∀ n : Fin 16, ∀ h, (s.port n).waiting.find? (·.handed) = some h → ∀ L, h.cmd.launch = some L → s.pstate n = psRx → (s.port n).held = none → (s.port n).cal.phase < 2 →
      permitted n h.cmd.khz s = true → (s.elapse dt).clk.slot < settleAt n L s → Completes (.handedBackReissue dt n) s fun t =>
        (t.port n).held = some (acceptedNow { h with handed := false } t) ∧ (t.port n).waiting = (s.port n).waiting.erase h ∧ t.pstate n = psRx ∧ OnlyRegs [] s t ∧ t.dram = s.dram ∧ t.tabs = s.tabs)

/-- A second power measurement in a row that is too high, a frequency that is out of range or not locked, and a PPDU still under way at the end of its time each set their bit of RFPn_EMIT_FAULT, put the port in QUIET and enter the safe state from AUTONOMOUS, with SAFE_N asserted; a power measurement in range clears the count and changes no register. -/
def Obligations.EmissionMonitors : Prop :=
  ∀ (dt : Nat) (n : Fin 16) (s : State), s.clk.running = true → s.mode = stAutonomous → s.getF F.SAF_STATUS_SAFE = 0 → (s.port n).stopping = false →
    let faulted (b : Nat) (t : State) : Prop :=
      bitsOf (t.reg (F.RFP_EMIT_FAULT_POWER n).addr) b b = 1 ∧ t.pstate n = psQuiet ∧ t.mode = stSafeHold ∧ t.getF F.SAF_STATUS_SAFE = 1 ∧
        bitsOf (t.reg 0x170000) 1 1 = 1 ∧ t.pins.safeN = true
    (s.pstate n = psTx → (s.port n).sent = false → (s.port n).begun.getD 0 + trswLead n s ≤ (s.elapse dt).clk.slot → ∀ meas : Int,
      (toSigned 8 (s.getF (F.RFP_TXPWR_MAX n)) + 4 < meas → (s.port n).overCnt ≠ 0 → Completes (.emitPowerCheck dt n meas) s (faulted 0)) ∧
      (meas ≤ toSigned 8 (s.getF (F.RFP_TXPWR_MAX n)) + 4 → meas ≤ toSigned 8 (s.getF (F.RFP_TX_LAST_APPLIED n)) + 8 → Completes (.emitPowerCheck dt n meas) s fun t =>
        (t.port n).overCnt = 0 ∧ OnlyRegs [] s t ∧ t.dram = s.dram ∧ t.tabs = s.tabs)) ∧
    (∀ hz : Nat, s.pstate n = psTxReady ∨ s.pstate n = psTx → Completes (.emitFreqCheck dt n false hz) s (faulted 1)) ∧
    (∀ h, (s.port n).held = some h → s.pstate n = psTx → (s.port n).sent = false →
      (s.port n).begun.getD 0 + trswLead n s + s.getF (F.RFP_TXLIM_TIMEOUT_MS n) * ms ≤ (s.elapse dt).clk.slot → (s.elapse dt).clk.slot < ppduEnd n h s →
      Completes (.emitDurationExpire dt n) s (faulted 2))

/-- The end of duty sub-windows drops as many of the oldest of 64 and leaves DUTY_USED at the airtime of the rest in us; a sample of the port's sensor stands in RFPn_STATUS.TJ, and a sample of VIN in every port's COMP_STATUS in units of 20 mV; only those registers change. -/
def Obligations.PortSamples : Prop :=
  ∀ (dt : Nat) (n : Fin 16) (s : State), s.clk.running = true →
    (dutyPassed n (s.elapse dt) ≠ 0 → Completes (.dutySubwindow dt n) s fun t =>
      let d := (List.replicate (min (dutyPassed n (s.elapse dt)) 64) 0 ++ (s.port n).duty).take 64
      (t.port n).duty = d ∧ t.getF (F.RFP_DUTY_USED_USED_US n) = d.sum / us % 2 ^ 32 ∧ (t.port n).dutyNoticed = false ∧
        OnlyRegs [(F.RFP_DUTY_USED_USED_US n).addr] s t ∧ t.dram = s.dram ∧ t.tabs = s.tabs) ∧
    (∀ tj : Int, Completes (.tjSample dt n tj) s fun t =>
      (t.port n).tj = tj ∧ t.getF (F.RFP_STATUS_TJ n) = ofSigned 8 tj ∧ t.pstate n = s.pstate n ∧
        OnlyRegs [(F.RFP_STATUS_TJ n).addr, (F.RFP_COMP_STATUS_VIN n).addr] s t ∧ t.dram = s.dram ∧ t.tabs = s.tabs) ∧
    (∀ mv : Nat, Completes (.vinSample dt mv) s fun t =>
      t.radio.vinMv = mv ∧ t.getF (F.RFP_COMP_STATUS_VIN n) = mv / 20 % 256 ∧ (∀ a, (∀ k : Fin 16, a ≠ 0x4003C + 32768 * k.val) → t.reg a = s.reg a) ∧
        t.dram = s.dram ∧ t.tabs = s.tabs)

/-- A request by the owner, a temperature step of DELTA_C and the passing of PERIOD_H each set PENDING on an enabled port that has none pending or running; a request on a port that failed starts its calibration at once. Past CAL_MAX_DEFER_MS the calibration starts: RUNNING with its deferral, the path blanked; the port enters CAL when nothing is left to complete; success outside the safe state leaves CAL_OK and the port in SETTLE toward its receive centre, failure leaves it OFF with the step in REASON. -/
def Obligations.Calibration : Prop :=
  ∀ (dt : Nat) (m : Master) (n : Fin 16) (s : State), s.clk.running = true → s.mode = stAutonomous →
    let pending (t : State) : Prop := t.getF (F.RFP_CAL_STATUS_PENDING n) = 1 ∧ (t.port n).cal.phase = 1 ∧ (t.port n).cal.since = t.clk.now ∧
      OnlyRegs [(F.RFP_CAL_STATUS_PENDING n).addr] s t ∧ t.dram = s.dram ∧ t.tabs = s.tabs
    (s.clk.core = true → s.owns m = true → s.getF (F.RFP_CTRL_ENABLE n) = 1 →
      (s.pstate n ≠ psOff → (s.port n).cal.phase = 0 → Completes (.calReq dt m n 1#32) s pending) ∧
      (s.pstate n = psOff → s.getF (F.RFP_CAL_STATUS_LAST n) = 2 → Completes (.calReq dt m n 1#32) s fun t =>
        t.pstate n = psCal ∧ t.getF (F.RFP_CAL_STATUS_RUNNING n) = 1 ∧ (t.port n).cal.phase = 3 ∧ (t.port n).cal.start = t.clk.now)) ∧
    (∀ l, (s.port n).cal.lastOk = some l → s.pstate n ≠ psOff → (s.port n).cal.phase = 0 →
      (s.getF (F.RFP_CAL_CFG_DELTA_C n) ≠ 0 → s.getF (F.RFP_CAL_CFG_DELTA_C n) ≤ ((s.port n).tj - toSigned 8 (s.getF (F.RFP_CAL_STATUS_TJ_CAL n))).natAbs →
        Completes (.calTempCheck dt n) s pending) ∧
      (s.getF (F.RFP_CAL_CFG_PERIOD_H n) ≠ 0 → l + s.getF (F.RFP_CAL_CFG_PERIOD_H n) * 3600 * sec ≤ s.clk.now + dt → Completes (.calPeriodExpire dt n) s pending)) ∧
    ((s.port n).cal.phase = 1 → s.pstate n ≠ psQuiet → s.pstate n ≠ psOff → (s.elapse dt).clk.slot = s.bound → (s.port n).cal.since + s.getF (F.RFP_CAL_CFG_CAL_MAX_DEFER_MS n) * ms < (s.elapse dt).clk.now → Completes (.calStart dt n) s fun t =>
      (t.port n).cal.phase = 2 ∧ (t.port n).cal.boundary = t.clk.slot ∧ t.getF (F.RFP_CAL_STATUS_RUNNING n) = 1 ∧ t.getF (F.RFP_CAL_STATUS_PENDING n) = 0 ∧
        t.getF (F.RFP_CAL_STATUS_DEFER_MS n) = min (deferral n (s.elapse dt)) 0xFFFF ∧ t.getF (F.RFP_STATUS_BLANK n) = 1) ∧
    ((s.port n).cal.phase = 2 → (s.port n).begun = none → (s.port n).held = none → Completes (.calEnter dt n) s fun t =>
      t.pstate n = psCal ∧ (t.port n).cal.phase = 3 ∧ (t.port n).cal.start = t.clk.now ∧ (t.port n).locked = none ∧
        OnlyRegs [(F.RFP_STATUS_STATE n).addr] s t ∧ t.dram = s.dram ∧ t.tabs = s.tabs) ∧
    (s.pstate n = psCal → (s.port n).cal.phase = 3 → (s.port n).held = none →
      ((s.port n).waiting = [] → s.getF F.SAF_STATUS_SAFE = 0 → Completes (.calEnd dt n none) s fun t =>
        t.getF (F.RFP_STATUS_CAL_OK n) = 1 ∧ t.getF (F.RFP_CAL_STATUS_LAST n) = 1 ∧ t.getF (F.RFP_CAL_STATUS_RUNNING n) = 0 ∧ (t.port n).cal.phase = 0 ∧
          (t.port n).cal.lastOk = some t.clk.now ∧ t.pstate n = psSettle ∧ (t.port n).target = centre n s) ∧
      (∀ i : Fin 3, Completes (.calEnd dt n (some i)) s fun t =>
        t.pstate n = psOff ∧ t.getF (F.RFP_STATUS_CAL_OK n) = 0 ∧ t.getF (F.RFP_CAL_STATUS_LAST n) = 2 ∧ t.getF (F.RFP_CAL_STATUS_REASON n) = i.val + 1))

/-- A detection on a received channel of a port whose path is open, with the energy above the floor by MARGIN_Q and the carrier in range, counts in RXCNT_0. Where no demodulator holds the channel it claims the lowest free one of the awake banks and counts in RXCNT_1; in a full pool it takes the victim of R189, whose reception ends PREEMPTED, or is not taken: RXCNT_9 counts and RX_LASTFAIL holds NOT_TAKEN and the channel. Where a demodulator that has no SFD holds the channel and the new preamble is CAPTURE_DB stronger, the reception ends CAPTURED and the demodulator stays claimed, without counting a claim. -/
def Obligations.DetectionServed : Prop :=
  ∀ (dt : Nat) (n : Fin 16) (c : Fin 128) (mode : Fin 8) (power fofs : Int) (s : State), s.clk.running = true → s.pstate n = psRx ∨ s.pstate n = psQuiet →
    s.getF (F.RFP_STATUS_BLANK n) = 0 → chanOn n c s = true → chanModes n c s / 2 ^ mode.val % 2 = 1 → correlates n c power fofs s = true →
    let cnt (k : Nat) (u : State) : Nat := u.getF (F.RFP_RXCNT_COUNT n k)
    let one (k : Nat) (t : State) : Prop := cnt k t = (cnt k s + 1) % 2 ^ 32
    let regs : List Nat := [0, 1, 8, 9, 11].map (fun k => (F.RFP_RXCNT_COUNT n k).addr) ++
      [(F.RFP_POOL_STATUS_BUSY n).addr, (F.RFP_POOL_BUSY0_BUSY n).addr, (F.RFP_POOL_BUSY1_BUSY n).addr, 0x4011C + 32768 * n]
    let serves (d : Nat) (t : State) : Prop := (t.demod n d).map (fun x => (x.channel, x.mode, x.cls, x.power, x.detected, x.sfd.isNone)) =
      some (c.val, mode.val, chanClass n c s, power, t.clk.slot, true)
    (holder n c s = none →
      (∀ d, freeDemod n s = some d → Completes (.detection dt n c mode power fofs) s fun t =>
        serves d t ∧ one 0 t ∧ one 1 t ∧ OnlyRegs regs s t ∧ t.dram = s.dram ∧ t.tabs = s.tabs ∧ t.out = s.out) ∧
      (freeDemod n s = none → awakeBanks n s = 4 →
        (∀ d, victim n (chanClass n c s) s = some d → (s.demod n d).any (fun x => x.buffer.isNone) = true → Completes (.detection dt n c mode power fofs) s fun t =>
          serves d t ∧ one 0 t ∧ one 1 t ∧ one 8 t ∧ bitsOf (t.reg (0x4011C + 32768 * n)) 31 28 = roPreempted ∧ OnlyRegs regs s t ∧ t.dram = s.dram ∧ t.tabs = s.tabs) ∧
        (victim n (chanClass n c s) s = none → Completes (.detection dt n c mode power fofs) s fun t =>
          one 0 t ∧ one 9 t ∧ t.reg (0x4011C + 32768 * n) = BitVec.ofNat 32 (roNotTaken * 2 ^ 28 + c * 2 ^ 20 + mode * 2 ^ 16) ∧ t.demods = s.demods ∧
            OnlyRegs (regs ++ noticeRegs) s t ∧ OnlyRing s t ∧ t.tabs = s.tabs))) ∧
    (∀ d, holder n c s = some d → ∀ x, s.demod n d = some x → x.sfd = none → x.power + 4 * s.getF (F.RFP_DET_CFG_CAPTURE_DB n) ≤ power →
      Completes (.detection dt n c mode power fofs) s fun t =>
        (t.demod n d).map (fun y => (y.mode, y.power, y.detected, y.claimed)) = some (mode.val, power, t.clk.slot, x.claimed) ∧ one 0 t ∧ one 11 t ∧ cnt 1 t = cnt 1 s ∧
          bitsOf (t.reg (0x4011C + 32768 * n)) 31 28 = roCaptured ∧ OnlyRegs regs s t ∧ t.dram = s.dram ∧ t.tabs = s.tabs)

/-- A demodulator without an SFD takes an accepted one within SFD_WAIT_SYM symbols of its detection, and past them ends with NO_SFD. A PHR of length 0 or above what its mode carries ends it with BAD_PHR; a good one takes a buffer where the pool grants one. The end of the PPDU with a bad FCS ends it with FCS_FAIL; with a good one its receive record stands beside its buffer, RXCNT_6 counts, and an RXA job carries its handle. Every end leaves the demodulator free. The refresh of a channel's noise floor stores the lower quartile of its energies. -/
def Obligations.ReceptionStages : Prop :=
  ∀ (dt : Nat) (n : Fin 16) (d : Fin 64) (s : State), s.clk.running = true → ∀ x, s.demod n d = some x →
    let ended (o : Nat) (t : State) : Prop := t.demod n d = none ∧ bitsOf (t.reg (0x4011C + 32768 * n)) 31 28 = o ∧
      t.getF (F.RFP_RXCNT_COUNT n (roCounter o)) = (s.getF (F.RFP_RXCNT_COUNT n (roCounter o)) + 1) % 2 ^ 32
    let wait : Nat := x.detected * symbolRate x.mode + s.getF (F.RFP_DET_CFG_SFD_WAIT_SYM n) * 2000000
    let now : Nat := (s.elapse dt).clk.slot * symbolRate x.mode
    (x.sfd = none →
      (∀ (coded : Bool) (ts : Nat), s.getF (F.RFP_PHY_CFG_FEC_ACCEPT n) = 1 → s.getF (F.RFP_PHY_CFG_UNCODED_ACCEPT n) = 1 → chanModes n x.channel s / 2 ^ x.mode % 2 = 1 → now ≤ wait → Completes (.sfdFound dt n d coded ts) s fun t =>
        (t.demod n d).map (fun y => (y.sfd, y.fec, y.channel, y.claimed)) = some (some ts, coded, x.channel, x.claimed) ∧ OnlyRegs [] s t ∧ t.dram = s.dram ∧ t.tabs = s.tabs) ∧
      (wait ≤ now → Completes (.sfdWaitExpire dt n d) s (ended roNoSfd))) ∧
    (x.sfd ≠ none → x.buffer = none → ∀ (len : Nat) (fcs32 whitened : Bool) (lqi : BitVec 8) (fofs : Int),
      (len = 0 ∨ maxPsdu x.mode < len → Completes (.phrReceived dt n d len false fcs32 whitened lqi fofs) s (ended roBadPhr)) ∧
      (1 ≤ len → len ≤ maxPsdu x.mode → s.getF F.BMP_POOL_CFG_RESERVE < poolFreeCount s → (longestFree s).isSome = true → Completes (.phrReceived dt n d len false fcs32 whitened lqi fofs) s fun t =>
        (t.demod n d).map (fun y => (y.len, y.fcs32, y.whitened, y.buffer.map handleIndex)) = some (len, fcs32 && x.mode != 7, whitened && x.mode != 7, (longestFree s).map handleIndex))) ∧
    (∀ h, x.buffer = some h → ∀ (delta : Nat) (psdu : List Byte),
      (Completes (.rxPpduEnd dt n d delta psdu false) s (ended roFcsFail)) ∧
      (∀ i, freeId s = some i → s.getF F.TRC_RING_CTRL_EN = 0 → Completes (.rxPpduEnd dt n d delta psdu true) s fun t =>
        t.demod n d = none ∧ t.getF (F.RFP_RXCNT_COUNT n 6) = (s.getF (F.RFP_RXCNT_COUNT n 6) + 1) % 2 ^ 32 ∧
          (∀ k < 32, t.byte (recordAddr h s + k) = (rxRecord n d x delta (s.elapse dt)).getD k 0) ∧ (t.job i).map (fun j => (j.cls, j.buf0)) = some (ecRXA, h))) ∧
    (∀ (c : Fin 128) (es : List Int) (q : Int), chanOn n c s = true → lowerQuartile es = some q → Completes (.noiseFloorRefresh dt n [(c, es)]) s fun t =>
      t.tab 0 (0x4000 * n + 0x300 + 4 * c) = BitVec.ofNat 32 (ofSigned 16 q) ∧ OnlyRegs [] s t ∧ t.dram = s.dram)

/-- At the next boundary, with no transaction pending, the slot with the next SEN begins, and the boundary after it carries a SEN one higher. A realignment by the owner with SEN_DIFF negative moves the next boundary onto the ideal one at or after it with its number, counts in SLT_CNT_9, and changes no other register but the notice's. A check that finds nothing changes nothing; one that finds a difference enters the safe state with cause DF-E. -/
def Obligations.SlotBoundaries : Prop :=
  ∀ (dt : Nat) (s : State), ∀ b, s.slt.next = some b →
    (s.clk.running = true → s.txn ≠ txPending → b ≤ (s.elapse dt).clk.slot → Completes (.slotBoundary dt) s fun t =>
      t.slt.past.head? = some (b, s.slt.nextSen) ∧ t.slt.first = false ∧ t.slt.nextSen = (s.slt.nextSen + 1) % 2 ^ 40 ∧ t.slt.next ≠ none) ∧
    (∀ (m : Master) (w : Word), s.clk.core = true → s.mode = stAutonomous → s.owns m = true → bitsOf w 0 0 = 1 → toSigned 32 (s.getF F.SLT_SEN_DIFF_VALUE) < 0 →
      (s.slt.nextSen : Int) ≤ (idealFrom b (s.elapse dt)).2 → Completes (.sltRealign dt m w) s fun t =>
        t.slt.next = some (idealFrom b (s.elapse dt)).1.toNat ∧ t.slt.nextSen = (idealFrom b (s.elapse dt)).2.toNat % 2 ^ 40 ∧ t.slt.chkNext = (idealFrom b (s.elapse dt)).1.toNat ∧
          t.getF (F.SLT_CNT_COUNT 9) = (s.getF (F.SLT_CNT_COUNT 9) + 1) % 2 ^ 32 ∧ OnlyRegs ((F.SLT_CNT_COUNT 9).addr :: noticeRegs) s t ∧ OnlyRing s t ∧ t.tabs = s.tabs) ∧
    (s.clk.running = true → s.slt.past ≠ [] →
      (checkSlot s.bound s.sen (s.elapse dt) = none → Completes (.slotCheck dt none) s fun t => t = s.elapse dt) ∧
      (∀ k v, checkSlot s.bound s.sen (s.elapse dt) = some (k, v) → s.mode = stAutonomous → s.getF F.SAF_STATUS_SAFE = 0 → Completes (.slotCheck dt none) s fun t =>
        t.mode = stSafeHold ∧ t.getF F.SAF_STATUS_SAFE = 1 ∧ bitsOf (t.reg 0x170000) 3 3 = 1 ∧ t.pins.safeN = true))

/-- A secured beacon of a new RID whose OPEN ended OK and which passes the checks takes the lowest EMPTY entry as ACTIVE with MISSED 0 and EXP_SEN one period on; one whose OPEN ended AUTH_FAIL counts in SLT_CNT_3 and leaves the table. A missed beacon raises MISSED and moves EXP_SEN by a period, the third makes the entry SILENT with RELEASE_SEN two periods on, and RELEASE_SEN empties it. The owner's clear empties the entry at once; no register but SLT_NBR_STATUS changes with it. -/
def Obligations.NeighbourTable : Prop :=
  ∀ (dt : Nat) (s : State),
    (∀ (i : Fin 64), ∀ x, s.nbr i = some x → s.clk.running = true → x.exp + graceSlots s < s.sen →
      (x.silent = false → x.missed + 1 < 3 → Completes (.beaconMiss dt i) s fun t =>
        t.nbr i = some { x with missed := x.missed + 1, exp := x.exp + x.period } ∧ t.getF (F.SLT_CNT_COUNT 7) = (s.getF (F.SLT_CNT_COUNT 7) + 1) % 2 ^ 32 ∧
          OnlyRegs [(F.SLT_CNT_COUNT 7).addr, 0xC00C4] s t ∧ t.dram = s.dram ∧ t.tabs = s.tabs) ∧
      (x.silent = false → 2 ≤ x.missed → Completes (.beaconMiss dt i) s fun t =>
        t.nbr i = some { x with missed := 3, silent := true, exp := x.exp + 2 * x.period } ∧ OnlyRegs ([(F.SLT_CNT_COUNT 7).addr, 0xC00C4] ++ noticeRegs) s t ∧ OnlyRing s t) ∧
      (x.silent = true → Completes (.nbrRelease dt i) s fun t => t.nbr i = none ∧ OnlyRegs (0xC00C4 :: noticeRegs) s t ∧ OnlyRing s t ∧ t.tabs = s.tabs)) ∧
    (∀ (m : Master) (w : Word), s.clk.core = true → s.mode = stAutonomous → s.owns m = true → bitsOf w 31 31 = 1 → Completes (.sltNbrClear dt m w) s fun t =>
      t.nbr (bitsOf w 5 0) = none ∧ (∀ k : Fin 64, k.val ≠ bitsOf w 5 0 → t.nbr k = s.nbr k) ∧ OnlyRegs [0xC00C4] s t ∧ t.dram = s.dram ∧ t.tabs = s.tabs) ∧
    (∀ (id : BitVec 12), ∀ j, s.job id.toNat = some j → j.state = jsComplete → s.clk.running = true → s.fab.waiting = [] → s.getF F.TRC_RING_CTRL_EN = 0 → ∀ h, j.work = .openBcn h →
      (j.status = scAuthFail → (beaconHdr (frameOf h s)).isSome = true → Completes (.nbrBeaconRx dt id) s fun t =>
        t.job id.toNat = none ∧ t.getF (F.SLT_CNT_COUNT 3) = (s.getF (F.SLT_CNT_COUNT 3) + 1) % 2 ^ 32 ∧ t.slt.nbrs = s.slt.nbrs) ∧
      (j.status = scOk → ∀ b, beaconHdr (frameOf h s) = some b → ∀ p, p = ((frameOf h s).drop b.at_).take ((frameOf h s).length - micLen b.level - b.at_) →
        entNat p 0 1 = 1 → entNat p 1 1 = 1 → beaconForm p = true → entNat p 9 1 = s.getF F.SLT_CONFIG_SLOT_CODE → entNat p 12 2 = s.getF F.SLT_RES_CFG_RES_FRAME →
        entNat p 2 2 % 1024 ≠ s.getF F.SLT_ADDR_RID → (s.slt.nbrs.all fun e => e.2.all fun x => x.rid != entNat p 2 2 % 1024) = true →
        ∀ i, (List.range 64).find? (fun i => (s.nbr i).isNone) = some i → Completes (.nbrBeaconRx dt id) s fun t =>
          t.job id.toNat = none ∧ (t.nbr i).map (fun x => (x.silent, x.missed, x.rid, x.fc, x.lastSen, x.exp, x.period)) =
            some (false, 0, entNat p 2 2 % 1024, b.fc, entNat p 4 5, entNat p 4 5 + entNat p 10 2, entNat p 10 2)))

/-- In slot S + kR of a response whose frame is still to be built the device starts attempt k with a TXL job; when every attempt of a granted response is over, a PENDING association returns to NONE. The supervision check ends every association whose timer has run out. A schedule update is queued by the owner; one for a node that is not ACTIVE ends DENIED, and one from a template takes SGEN one above and the slotframe start INSTANT_LEAD ahead. At that start an unacknowledged update makes the association ACTIVE_UNCERTAIN. A LEAVE by the owner becomes a downlink of the node. -/
def Obligations.Associations : Prop :=
  ∀ (dt : Nat) (s : State), s.clk.running = true →
    let cached (nix : Nat) : Prop := (s.line nix).any (fun l => l.bytes.length == 512) = true
    (∀ nix : BitVec 17,
      (∀ r, s.slt.responses.find? (fun r => r.nix == nix.toNat) = some r →
        (∀ d k, s.dl r.dl = some d → d.psdu = none → d.building = false → 1 ≤ k → k ≤ maxTries r → r.tries < k → 0 < r.step → s.sen = r.sen + k * r.step →
          Completes (.assocResponseAttempt dt nix) s fun t =>
            (t.slt.responses.find? (fun r => r.nix == nix.toNat)).map (·.tries) = some k ∧ (t.dl r.dl).map (fun d => (d.attempt, d.building)) = some (some (r.channel, none), true)) ∧
        (r.result = 0 → ((s.dl r.dl).all fun d => d.attempt.isNone) = true → r.sen + 3 * r.step < s.sen → cached nix.toNat → entAssoc (s.entry nix.toNat) = asPending →
          Completes (.assocFail dt nix) s fun t =>
            entAssoc (t.entry nix.toNat) = asNone ∧ (t.slt.responses.all fun r => r.nix != nix.toNat) = true)) ∧
      (∀ u, s.slt.updates.find? (fun u => u.nix == nix.toNat) = some u → u.instantSen ≤ s.sen → u.acked = false → cached nix.toNat → entAssoc (s.entry nix.toNat) = asActive →
        Completes (.schedUpdInstant dt nix) s fun t => entAssoc (t.entry nix.toNat) = asUncertain ∧ t.slt.updates = s.slt.updates)) ∧
    (Completes (.supervisionCheck dt) s fun t => ∀ n ∈ s.cat.valid, cached n → 2 ≤ entAssoc (s.entry n) → entNat (s.entry n) 36 4 < (s.elapse dt).clk.slot / sec → entAssoc (t.entry n) = asNone) ∧
    (∀ (m : Master) (w : Word), s.clk.core = true → s.mode = stAutonomous → s.owns m = true → bitsOf w 31 31 = 1 →
      (s.slt.updQueue.length < 256 → Completes (.ascUpdGo dt m w) s fun t =>
        t.slt.updQueue = s.slt.updQueue ++ [(bitsOf w 16 0, s.getF F.ASC_UPD_ADDR_ADDR)] ∧ t.getF F.ASC_UPD_STATUS_QUEUED = t.slt.updQueue.length ∧ OnlyRegs [0xC800C] s t ∧
          t.dram = s.dram ∧ t.tabs = s.tabs) ∧
      (Completes (.ascLeave dt m w) s fun t =>
        (t.dl s.xch.nextDl).map (fun d => (d.nix, d.payload, d.attempts)) = some (bitsOf w 16 0, [0x23, 1], 0) ∧ (t.shp.entering.getLast?).map (·.load) = some (.downlink s.xch.nextDl) ∧
          OnlyRegs [] s t ∧ t.dram = s.dram ∧ t.tabs = s.tabs)) ∧
    (∀ nix addr r, s.slt.updQueue = (nix, addr) :: r →
      (entValid (s.entry nix) = false ∨ entAssoc (s.entry nix) ≠ asActive → Completes (.schedUpdStart dt) s fun t =>
        t.slt.updQueue = r ∧ t.slt.updates = s.slt.updates ∧ t.getF (F.ASC_CNT_COUNT 8) = (s.getF (F.ASC_CNT_COUNT 8) + 1) % 2 ^ 32 ∧
          OnlyRegs ([0xC800C, (F.ASC_CNT_COUNT 8).addr] ++ noticeRegs) s t ∧ OnlyRing s t ∧ t.tabs = s.tabs) ∧
      (addr = 0 → entValid (s.entry nix) = true → entAssoc (s.entry nix) = asActive → (s.slt.updates.any fun u => u.nix == nix) = false →
        ∀ b, templBlock (entProfile (s.entry nix)) nix (entBits (s.entry nix) 10 4 4 == 1) s = some b → Completes (.schedUpdStart dt) s fun t =>
          t.slt.updQueue = r ∧ t.slt.updates.map (fun u => (u.nix, u.block, u.instantSen, u.acked)) = s.slt.updates.map (fun u => (u.nix, u.block, u.instantSen, u.acked)) ++
            [(nix, entPutBits b 0 7 4 (blkSgen (entSched (s.entry nix)) + 1), instantSen (s.entry nix) s, false)] ∧
          (t.dl s.xch.nextDl).map (fun d => (d.nix, d.payload.head?)) = some (nix, some 0x22) ∧ OnlyRegs [0xC800C] s t ∧ t.dram = s.dram ∧ t.tabs = s.tabs))

/-- RXA takes the receive record of its job: a frame in no form of R235 ends DENIED with DROP FORM; one whose source resolves to a cached entry that is not FAULTY, at an allowed level, is an acceptance of that node with the frame's counter and digest. After its verification an acceptance ends AUTH_FAIL where it failed and REPLAY where its counter is refused, both without a change to the catalogue; with DUP_ACKED the entry keeps LAST_FC; a new DATA frame of an ACTIVE node stores its counter and digest. The job's ID is freed. -/
def Obligations.UplinkAcceptance : Prop :=
  ∀ (dt : Nat) (id : BitVec 12) (s : State), s.clk.running = true → ∀ j, s.job id.toNat = some j →
    (j.state = jsRunning → ∀ h, j.work = .rxa h → isBeaconFrame (s.bytes (bufferAddr h s) 2) = false →
      let a := newAccept h s
      let f := s.bytes (bufferAddr h s) a.psduLen
      let parsed := parseMac f (a.psduLen - (if a.fcs32 then 4 else 2)) s
      (parsed = none → Completes (.uplinkAcceptance dt id) s fun t =>
        t.reg 0xD0010 = BitVec.ofNat 32 (scDenied * 2 ^ 24 + 1 * 2 ^ 20) ∧ t.getF (F.XCH_CNT_COUNT 0) = (s.getF (F.XCH_CNT_COUNT 0) + 1) % 2 ^ 32 ∧
          t.getF (F.XCH_CNT_COUNT 6) = (s.getF (F.XCH_CNT_COUNT 6) + 1) % 2 ^ 32 ∧ t.job id.toNat = none ∧ t.cat = s.cat) ∧
      (∀ m, parsed = some m → ∀ nix, (if m.form = 1 then byEui m.source s else byShort m.source (groupOf a.port s) s) = some nix →
        (s.line nix).isSome = true → entFaulty (s.entry nix) = false → m.form ≠ 2 → 5 ≤ m.level → secLevel nix s ≤ m.level → s.fab.waiting = [] →
        Completes (.uplinkAcceptance dt id) s fun t =>
          (t.acc s.xch.nextAcc).map (fun x => (x.nix, x.form, x.ar, x.fc, x.decided)) = some (nix, m.form, m.ar, m.fc, false) ∧ t.job id.toNat = none ∧
            t.getF (F.XCH_CNT_COUNT 0) = (s.getF (F.XCH_CNT_COUNT 0) + 1) % 2 ^ 32)) ∧
    (∀ i a, j.work = .cipher (.openAcc i) → s.acc i = some a → j.state = jsComplete → mustWait i a s = false → s.fab.waiting = [] →
      let d := acceptDecision a.nix a.fc a.digest s
      let p := s.bytes (bufferAddr a.buffer s + a.hdrLen) (a.bodyEnd - a.hdrLen)
      let one (k : Nat) (t : State) : Prop := t.getF (F.XCH_CNT_COUNT k) = (s.getF (F.XCH_CNT_COUNT k) + 1) % 2 ^ 32
      (j.status = scAuthFail → Completes (.uplinkVerifyDone dt id) s fun t =>
        t.job id.toNat = none ∧ one 4 t ∧ t.reg 0xD0010 = BitVec.ofNat 32 (scAuthFail * 2 ^ 24 + a.nix) ∧ t.cat = s.cat) ∧
      (j.status = scOk →
        (d = 2 → Completes (.uplinkVerifyDone dt id) s fun t => t.job id.toNat = none ∧ one 3 t ∧ t.reg 0xD0010 = BitVec.ofNat 32 (scReplay * 2 ^ 24 + a.nix) ∧ t.cat = s.cat) ∧
        ((s.line a.nix).any (fun l => l.bytes.length == 512) = true → a.form = 0 → entNat p 0 1 = 0x31 →
          (d = 1 → Completes (.uplinkVerifyDone dt id) s fun t =>
            one 2 t ∧ entLastFc (t.entry a.nix) = entLastFc (s.entry a.nix) ∧ entNat (t.entry a.nix) 20 2 = entNat (s.entry a.nix) 20 2) ∧
          (d = 0 → entAssoc (s.entry a.nix) = asActive → a.cls ≠ 0 → Completes (.uplinkVerifyDone dt id) s fun t =>
            one 1 t ∧ entLastFc (t.entry a.nix) = a.fc % 2 ^ 32 ∧ entNat (t.entry a.nix) 20 2 = a.digest % 2 ^ 16 ∧ entSeen (t.entry a.nix) = true ∧
              t.shp.entering.length = s.shp.entering.length + 1))))

/-- An attempt that is not acknowledged by the end of the ack window is retried, with the next count and no attempt in progress, up to MAX_RETRY times, and after the last the downlink leaves with TIMEOUT. A flood that the accession cache holds is dropped and counted; one that it does not is inserted with the lifetime of FLD_CFG. Entries whose time has passed leave the cache. A receipt timer that runs out marks its entry and counts, and enters the safe state unless ACT_A makes it a report. -/
def Obligations.RetriesFloodsReceipts : Prop :=
  ∀ (dt : Nat) (s : State), s.clk.running = true →
    (∀ (i : Nat), ∀ d, s.dl i = some d → ∀ ch e, d.attempt = some (ch, some e) → e + (1000 + s.getF F.XCH_CFG_ACK_WAIT_US) * us ≤ (s.elapse dt).clk.slot →
      d.source = .backhaul ∨ d.source = .host → d.doomed = false →
      (d.retries < s.getF F.XCH_DL_CFG_MAX_RETRY → Completes (.ackWaitExpire dt i) s fun t =>
        (t.dl i).map (fun x => (x.retries, x.attempt, x.notBefore, x.payload)) = some (d.retries + 1, none, s.sen + 1, d.payload) ∧ OnlyRegs [] s t ∧ t.dram = s.dram ∧ t.tabs = s.tabs) ∧
      (s.getF F.XCH_DL_CFG_MAX_RETRY ≤ d.retries → segId d = none → Completes (.ackWaitExpire dt i) s fun t =>
        t.dl i = none ∧ t.getF (F.XCH_CNT_COUNT 12) = (s.getF (F.XCH_CNT_COUNT 12) + 1) % 2 ^ 32 ∧ OnlyRegs ((F.XCH_CNT_COUNT 12).addr :: noticeRegs) s t ∧ OnlyRing s t)) ∧
    (∀ f r, s.xch.floods = f :: r →
      (findAccession (floodOrigin f.payload) (floodSeq f.payload) (s.elapse dt) = true → Completes (.floodLookup dt) s fun t =>
        t.xch.floods = r ∧ t.xch.accession = s.xch.accession ∧ t.getF (F.FLD_CNT_COUNT 1) = (s.getF (F.FLD_CNT_COUNT 1) + 1) % 2 ^ 32 ∧
          OnlyRegs [(F.FLD_CNT_COUNT 1).addr] s t ∧ t.dram = s.dram ∧ t.tabs = s.tabs) ∧
      (findAccession (floodOrigin f.payload) (floodSeq f.payload) (s.elapse dt) = false → Completes (.floodLookup dt) s fun t =>
        t.xch.floods = r ∧ (t.xch.accession.any fun e => e.2.any fun x =>
          x.origin == floodOrigin f.payload && x.fseq == floodSeq f.payload && x.expiry == t.clk.now + s.getF F.FLD_CFG_LIFETIME_S * sec) = true)) ∧
    (Completes (.accessionExpiry dt) s fun t =>
      t.xch.accession = s.xch.accession.filter (fun e => e.2.any fun a => decide (t.clk.now < a.expiry)) ∧ t.getF F.FLD_STATUS_CACHE_USED = t.xch.accession.length % 2 ^ 17 ∧
        OnlyRegs [0xD8004] s t ∧ t.dram = s.dram ∧ t.tabs = s.tabs) ∧
    (∀ (i : Fin 1024), ∀ r, Sparse.get (fun _ => none) s.xch.receipts i.val = some r → r.expired = false → r.owed = false → r.deadline ≤ (s.elapse dt).clk.now →
      (s.getF F.SAF_CFG_ACT_A = 1 → Completes (.rcptTimerExpire dt i) s fun t =>
        Sparse.get (fun _ => none) t.xch.receipts i.val = some { r with expired := true } ∧ t.mode = s.mode ∧
          OnlyRegs ([(F.XCH_CNT_COUNT 16).addr, (F.SAF_CNT_COUNT 3).addr] ++ noticeRegs) s t ∧ OnlyRing s t ∧ t.tabs = s.tabs) ∧
      (s.getF F.SAF_CFG_ACT_A = 0 → s.mode = stAutonomous → s.getF F.SAF_STATUS_SAFE = 0 → Completes (.rcptTimerExpire dt i) s fun t =>
        Sparse.get (fun _ => none) t.xch.receipts i.val = some { r with expired := true } ∧ t.mode = stSafeHold ∧ t.pins.safeN = true ∧ bitsOf (t.reg 0x170000) 0 0 = 1))

/-- A WRITE, READ or CLEAR by the owner while none is in progress starts a command of the count and address that stand in the registers, with BUSY set and an MNT job of its own; one past NIX 131,071 ends DENIED with REASON RANGE. Each entry of a READ is copied whole to its place in DRAM; each entry of a WRITE or CLEAR that passes the checks becomes the written or the empty entry; after the last, the command ends OK with DONE and its count. A write-back puts a modified line into DRAM and leaves it clean. -/
def Obligations.CatalogueCommands : Prop :=
  ∀ (dt : Nat) (s : State),
    (∀ (m : Master) (mask : BitVec 5) (nix : BitVec 17), s.clk.core = true → s.mode = stAutonomous → s.owns m = true → s.getF F.CAT_CMD_STATUS_BUSY = 0 →
      let count := s.getF F.CAT_CMD_COUNT_COUNT
      let addr := s.getF F.CAT_CMD_ADDR_ADDR
      ∀ ck ∈ ([(.catCmdWrite dt m mask nix, 1, mask.toNat), (.catCmdRead dt m nix, 2, 0), (.catCmdClear dt m nix, 3, 0)] : List (Instr × Nat × Nat)),
        (nix.toNat + count ≤ 131072 → catRangeBad ck.2.1 addr count s = false → ∀ i, freeId s = some i → Completes ck.1 s fun t =>
          t.cat.cmd = some ⟨ck.2.1, ck.2.2, nix.toNat, count, 0, addr⟩ ∧ t.getF F.CAT_CMD_STATUS_BUSY = 1 ∧ (t.job i).map (fun j => (j.cls, j.work, j.state)) = some (ecMNT, .catCmd, jsReady)) ∧
        (131072 < nix.toNat + count → catJob s = none → Completes ck.1 s fun t =>
          t.reg 0xE001C = BitVec.ofNat 32 (2 ^ 30 + scDenied * 2 ^ 16 + crRange * 2 ^ 13) ∧ t.cat.cmd = none ∧ OnlyRegs (0xE001C :: noticeRegs) s t ∧ OnlyRing s t)) ∧
    (s.clk.running = true → ∀ c, s.cat.cmd = some c → ∀ i j, catJob s = some (i, j) → j.state = jsRunning →
      let nix := c.nix + c.done
      (s.line nix).any (fun l => l.bytes.length == 512) = true → entPins nix s = 0 →
        (c.cmd = 2 → c.done + 1 < c.count → c.addr % 8 = 0 → Completes (.catCmdEntry dt) s fun t =>
          (∀ k < 512, t.byte (c.addr + 512 * c.done + k) = (s.entry nix).getD k 0) ∧ t.cat.cmd = some { c with done := c.done + 1 } ∧ t.entry nix = s.entry nix) ∧
        (c.cmd = 1 ∨ c.cmd = 3 → c.done + 1 = c.count → badWord (c.addr + 512 * c.done) 512 s = none →
          ∀ b, b = (if c.cmd = 3 then List.replicate 512 0 else writtenEntry c.mask (s.bytes (c.addr + 512 * c.done) 512) (s.entry nix) (s.elapse dt)) →
            entryRefused nix c.cmd c.mask (s.entry nix) b false s = none → Completes (.catCmdEntry dt) s fun t =>
              t.entry nix = b ∧ t.cat.cmd = none ∧ t.reg 0xE001C = BitVec.ofNat 32 (2 ^ 30 + scOk * 2 ^ 16 + c.count))) ∧
    (s.clk.running = true → ∀ nix : BitVec 17, ∀ l, s.line nix.toNat = some l → l.dirty ≠ none → l.bytes.length = 512 → Completes (.catWriteback dt nix) s fun t =>
      (∀ k < 512, t.byte (entAddr nix.toNat s + k) = l.bytes.getD k 0) ∧ t.line nix.toNat = some { l with dirty := none } ∧ OnlyRegs [(F.CAT_CNT_COUNT 2).addr] s t ∧
        (∀ a, ¬(entAddr nix.toNat s ≤ a ∧ a < entAddr nix.toNat s + 512) → t.byte a = s.byte a) ∧ t.tabs = s.tabs)

/-- A frame that is not refused takes the tail of its queue, which exists from then on; one refused for its class's limit counts in SHP_CNT_4 and joins no queue. A decision on an open and paced port takes the head frame of the queue and class that R294 chooses, counts it, and raises the tag of a weighted class by the frame's cost while a strict class leaves every class tag as it was. A sample set advances the set count and starts the counts anew. Either master moves the sample ring's read count within the ring. -/
def Obligations.ShaperOrder : Prop :=
  ∀ (dt : Nat) (s : State),
    (s.clk.running = true → ∀ f, s.shp.entering.find? (fun f => covered f.waitPos s) = some f →
      (entryRefusal f s = none → Completes (.shaperEntry dt) s fun t =>
        (findQueue f.port f.cls f.sub t).map (·.frames) = some (((findQueue f.port f.cls f.sub s).map (·.frames)).getD [] ++ [{ f with arrived := t.clk.slot }]) ∧
          t.shp.entering = s.shp.entering.erase f ∧ t.getF (F.SHP_CNT_COUNT 0) = (s.getF (F.SHP_CNT_COUNT 0) + 1) % 2 ^ 32 ∧
          OnlyRegs [0xF0080, (F.SHP_CNT_COUNT 0).addr, (F.SHP_CNT_COUNT 8).addr] s t ∧ t.dram = s.dram ∧ t.tabs = s.tabs) ∧
      (entryRefusal f s = some (2, scNoBuffer) → ∀ r, f.load = .record r none → Completes (.shaperEntry dt) s fun t =>
        t.getF (F.SHP_CNT_COUNT 4) = (s.getF (F.SHP_CNT_COUNT 4) + 1) % 2 ^ 32 ∧ t.shp.entering = s.shp.entering.erase f ∧
          t.shp.queues.map (·.frames) = s.shp.queues.map (·.frames) ∧ OnlyRegs ((F.SHP_CNT_COUNT 4).addr :: noticeRegs) s t ∧ OnlyRing s t)) ∧
    (s.clk.running = true → ∀ (port : Fin 3) (c : Nat),
      let p := 16 + port.val
      portOpen p s = true → paced p (s.elapse dt) = true → chooseClass p ((List.range 8).filter fun c => classEligible p c s) s = some c →
      ∀ q, chooseQueue p c s = some q → ∀ f, q.frames.head? = some f → Completes (.shaperDecision dt port) s fun t =>
        (findQueue p c q.sub t).map (·.frames) = (if q.frames.tail = [] then none else some q.frames.tail) ∧
          t.getF (F.SHP_CNT_COUNT 1) = (s.getF (F.SHP_CNT_COUNT 1) + 1) % 2 ^ 32 ∧ classV p c t = q.tag % 2 ^ 48 ∧
          (clsStrict p c s = true → t.shp.classTag = s.shp.classTag ∧ portV p t = portV p s) ∧
          (clsStrict p c s = false → portV p t = effTag p c s % 2 ^ 48 ∧
            classTag p c t = (effTag p c s + cost (f.len + s.getF (F.SHP_PORT_OVH p)) (clsWeight p c s)) % 2 ^ 48)) ∧
    (s.clk.running = true → s.getF F.SHP_SRING_CTRL_EN = 1 → s.shp.epoch < (s.elapse dt).clk.slot →
      ((s.elapse dt).clk.slot - s.shp.epoch) % max (s.getF F.SHP_SRING_CTRL_PERIOD_MS * ms) 1 = 0 → s.shp.lastSet ≠ some (s.elapse dt).clk.slot →
      Completes (.shpSampleSet dt) s fun t =>
        t.shp.sets = s.shp.sets + 1 ∧ t.shp.lastSet = some t.clk.slot ∧ t.shp.served = [] ∧ t.shp.drops = [] ∧ t.shp.queues.map (·.frames) = s.shp.queues.map (·.frames) ∧
          t.tabs = s.tabs ∧ ((∀ p < 19, s.getF (F.SHP_PORT_SAMPLE p) = 0) → (∀ k < 16, s.getF (F.SHP_WATCH_EN k) = 0) → OnlyRegs [] s t ∧ t.dram = s.dram)) ∧
    (∀ (m : Master) (w : Word), s.clk.core = true → s.mode = stAutonomous →
      ((s.getF F.SHP_SRING_WR_COUNT + 2 ^ 32 - w.toNat) % 2 ^ 32 ≤ sringSize s → Completes (.shpSringRdWrite dt m w) s fun t =>
        t.reg 0xF010C = w ∧ OnlyRegs [0xF010C] s t ∧ t.dram = s.dram ∧ t.tabs = s.tabs) ∧
      (sringSize s < (s.getF F.SHP_SRING_WR_COUNT + 2 ^ 32 - w.toNat) % 2 ^ 32 → Completes (.shpSringRdWrite dt m w) s fun t =>
        OnlyRegs [8] s t ∧ t.dram = s.dram ∧ t.tabs = s.tabs))

/-- A created job takes the lowest free ID and the tail of its ready list, and with no free ID its creator waits. A dispatch gives the head of the most urgent list to the free unit and counts. A pre-emption under R316 suspends the job with one more suspension, at the cost of one count. A parking fault makes a DMA job FAULTED. A stall enters the safe state. Completion counts, frees the ID of an engine's job and leaves a submitted one COMPLETE, whose write-back puts its descriptor at its address and frees the ID. -/
def Obligations.FabricDecisions : Prop :=
  ∀ (dt : Nat) (s : State), s.clk.running = true →
    let one (k : Nat) (t : State) : Prop := t.getF (F.JOB_CNT_COUNT k) = (s.getF (F.JOB_CNT_COUNT k) + 1) % 2 ^ 32
    (∀ (cls : Fin 16) (creator : BitVec 16) (b0 b1 : Word) (args : List Byte),
      (∀ i, freeId s = some i → Completes (.jobCreate dt cls none creator b0 b1 args) s fun t =>
        (t.job i).map (fun j => (j.state, j.cls, j.prio, j.creator)) = some (jsReady, cls.val, engPrio cls s, creator.toNat) ∧
          t.readyList cls (engPrio cls s) = s.readyList cls (engPrio cls s) ++ [i] ∧ one 0 t) ∧
      (freeId s = none → Completes (.jobCreate dt cls none creator b0 b1 args) s fun t => t.fab.waiting.length = s.fab.waiting.length + 1 ∧ one 10 t ∧ t.fab.jobs = s.fab.jobs)) ∧
    (∀ (cls : Fin 16), ∀ u, freeUnit cls s = some u → ∀ p, topPrio cls s = some p → ∀ i r, s.readyList cls p = i :: r → ∀ j, s.job i = some j → j.cls = cls.val → j.prio = p →
      (cls.val = ecCPH → cphWaits s = false) → Completes (.jobDispatch dt cls) s fun t =>
        one 1 t ∧ (cls.val ≠ ecCPH → isDma cls = false → (t.job i).map (fun j => (j.state, j.unit)) = some (jsRunning, u) ∧ t.readyList cls p = (i :: r).filter (fun k => k != i)) ∧
          (isDma cls = true → j.saved = false → dmaRefusal j s = none → (t.job i).map (fun j => (j.state, j.unit)) = some (jsRunning, u))) ∧
    (∀ (id : BitVec 12), ∀ j, s.job id.toNat = some j →
      (j.state = jsRunning →
        (j.cancel = none → preempts id.toNat j s = true → ∀ p, topPrio j.cls s = some p → ∀ k r, s.readyList j.cls p = k :: r → k ≠ id.toNat → ∀ jk, s.job k = some jk → jk.cls = j.cls → j.cls ≠ ecCPH →
          Completes (.jobPreempt dt id []) s fun t =>
            (t.job id.toNat).map (fun x => (x.state, x.saved, x.preempts)) = some (jsSuspended, true, min (j.preempts + 1) 65535) ∧ one 5 t ∧ one 1 t) ∧
        (isDma j.cls = true → j.cancel = none → ∀ w : Word, Completes (.jobFault dt id true 0x10#8 w) s fun t =>
          (t.job id.toNat).map (fun x => (x.state, x.status, x.detail)) = some (jsFaulted, scFaultEcc, 0x10) ∧ one 6 t) ∧
        (∀ ns : Nat, 4 * longestRun j.cls < ns → s.mode = stAutonomous → s.getF F.SAF_STATUS_SAFE = 0 → Completes (.jobStall dt id ns) s fun t =>
          t.mode = stSafeHold ∧ t.pins.safeN = true ∧ bitsOf (t.reg 0x170000) 9 9 = 1) ∧
        (s.fab.waiting = [] → j.work = .none → j.cls ≠ ecCPH → j.cancel = none →
          (isDma j.cls = true → (dmaArgOf j).len ≤ j.done) → ∀ (st : BitVec 8) (res : List Byte), (isDma j.cls = true → st.toNat = scOk) → Completes (.jobComplete dt id st 0#8 res) s fun t =>
            one (completionCounter st.toNat) t ∧ (j.submitted = none → t.job id.toNat = none) ∧
              (j.submitted ≠ none → (t.job id.toNat).map (fun x => (x.state, x.status)) = some (jsComplete, st.toNat)))) ∧
      (j.state = jsComplete → s.fab.waiting = [] → ∀ k a, j.submitted = some (k, a) → a % 8 = 0 → Completes (.jobWriteback dt id) s fun t =>
        t.job id.toNat = none ∧ (j.notify = false → ∀ k < 64, t.byte (a + k) = (descriptor id.toNat j).getD k 0)))

/-- A submission whose descriptor passes the four checks is answered OK with the lowest free ID, under which a READY job stands; one more urgent than MIN_PRIO is answered DENIED with REASON 3. A CANCEL of a READY job by its submitter completes it with CANCELLED; a RESUME of a FAULTED one makes it READY and RESUMED; a COPY puts the descriptor at the master's address, or with address 0 changes its result register alone. A write of TRC_MARK latches the slot clock; the trace ring's read count moves within the ring. -/
def Obligations.MastersAndTrace : Prop :=
  ∀ (dt : Nat) (m : Master) (s : State), s.clk.core = true → s.mode = stAutonomous →
    let one (k : Nat) (t : State) : Prop := t.getF (F.JOB_CNT_COUNT k) = (s.getF (F.JOB_CNT_COUNT k) + 1) % 2 ^ 32
    (∀ (q : Fin 64),
      let a := 0x8000000 + 64 * q.val
      let w := BitVec.ofNat 32 (a + 1)
      let b := s.bytes a 64
      inDram a 64 s = true → badWord a 64 s = none → descriptorOk b = true →
      (entNat b 0 4 / 16 % 64 < s.getF F.JOB_SUB_CFG_MIN_PRIO → Completes (.jobSubmit dt m w) s fun t =>
        t.reg (subStatusAddr m) = BitVec.ofNat 32 (2 ^ 30 + scDenied * 2 ^ 16 + 3 * 2 ^ 12) ∧ one 9 t ∧ t.fab = s.fab) ∧
      (s.getF F.JOB_SUB_CFG_MIN_PRIO ≤ entNat b 0 4 / 16 % 64 → submittedCount s < s.getF F.JOB_SUB_CFG_MAX_SUB → ∀ i, freeId s = some i → Completes (.jobSubmit dt m w) s fun t =>
        t.reg (subStatusAddr m) = BitVec.ofNat 32 (2 ^ 30 + i) ∧ one 8 t ∧ one 0 t ∧
          (t.job i).map (fun j => (j.state, j.cls, j.prio, j.submitted)) = some (jsReady, entNat b 0 4 % 16, entNat b 0 4 / 16 % 64, some (m.bit, a)))) ∧
    (∀ (id : BitVec 12), ∀ j, s.job id.toNat = some j →
      (∀ a, j.submitted = some (m.bit, a) →
        (j.state = jsReady → j.cls ≠ ecCPH → Completes (.jobCancel dt m id) s fun t =>
          (t.job id.toNat).map (fun x => (x.state, x.status)) = some (jsComplete, scCancelled) ∧ one 4 t ∧
            t.reg (ctrlResAddr m) = BitVec.ofNat 32 (2 ^ 28 + jsReady * 2 ^ 24 + j.cls * 2 ^ 12 + id.toNat)) ∧
        (j.state = jsFaulted → Completes (.jobResume dt m id) s fun t =>
          (t.job id.toNat).map (fun x => (x.state, x.resumed)) = some (jsReady, true) ∧ one 7 t ∧ id.toNat ∈ t.readyList j.cls j.prio ∧
            t.reg (ctrlResAddr m) = BitVec.ofNat 32 (2 * 2 ^ 28 + jsFaulted * 2 ^ 24 + j.cls * 2 ^ 12 + id.toNat))) ∧
      (let a := (s.reg (0x100058 + 4 * m.bit)).toNat / 64 * 64
       (a = 0 → Completes (.jobCopy dt m id) s fun t => OnlyRegs [ctrlResAddr m] s t ∧ t.fab = s.fab ∧ t.dram = s.dram ∧ t.tabs = s.tabs) ∧
       (a ≠ 0 → inDram a 64 s = true → hitsCatalogue a 64 s = false → Completes (.jobCopy dt m id) s fun t =>
        (∀ k < 64, t.byte (a + k) = (descriptor id.toNat j).getD k 0) ∧ t.fab = s.fab ∧ bitsOf (t.reg (ctrlResAddr m)) 23 16 = scOk))) ∧
    (∀ w : Word,
      (Completes (.trcMark dt m w) s fun t =>
        t.getF F.TRC_MARK_SLOT_LO_TICKS = t.clk.slot % 2 ^ 32 ∧ t.getF F.TRC_MARK_SLOT_HI_TICKS = t.clk.slot / 2 ^ 32 % 2 ^ 32 ∧ t.fab.jobs = s.fab.jobs ∧
          (s.getF F.TRC_RING_CTRL_EN = 0 → s.getF F.TRC_PORT_CTRL_EN = 0 → OnlyRegs [0x108020, 0x108024] s t ∧ t.dram = s.dram)) ∧
      ((s.getF F.TRC_RING_WR_COUNT + 2 ^ 32 - w.toNat) % 2 ^ 32 ≤ traceSize s → Completes (.trcRingRdWrite dt m w) s fun t =>
        t.reg 0x10800C = w ∧ OnlyRegs [0x10800C] s t ∧ t.dram = s.dram ∧ t.tabs = s.tabs) ∧
      (traceSize s < (s.getF F.TRC_RING_WR_COUNT + 2 ^ 32 - w.toNat) % 2 ^ 32 → Completes (.trcRingRdWrite dt m w) s fun t => OnlyRegs [8] s t ∧ t.dram = s.dram))

/-- An initialised block is marked and no byte changes. The scrubber moves one burst, or starts again from 0 and counts a pass; an error that it finds is counted and, where none is recorded, recorded with SCRUB. A pass that is 8 s old enters the safe state. CE_RATE ends the count. A chunk that meets no fault writes its bytes and advances DONE; one that meets a fault parks its job with DONE as it was, the status, DETAIL and FAULT_AT that the table gives. A fence sets its bits and counts each; a context whose chunks have all ended loses its bit. -/
def Obligations.MemoryAndDma : Prop :=
  ∀ (dt : Nat) (s : State), s.clk.running = true →
    let pos := s.getF F.DRM_SCRUB_POS_ADDR
    let fence (k : Nat) (t : State) : Nat := t.getF ⟨0x110084, k, k⟩
    (∀ b : BitVec 16, s.getF F.DRM_STATUS_TRAINED = 1 → b.toNat < blockCount s → Completes (.dramInitBlock dt b) s fun t =>
      t.dram = s.dram ∧ OnlyRegs [0x118000] s t ∧ Sparse.get (fun _ => false) t.mem.inited b.toNat = true ∧
        (∀ k : Nat, k ≠ b.toNat → Sparse.get (fun _ => false) t.mem.inited k = Sparse.get (fun _ => false) s.mem.inited k) ∧ (initDone t = true → t.getF F.DRM_STATUS_INIT_DONE = 1)) ∧
    (s.getF F.DRM_STATUS_INIT_DONE = 1 → s.mem.poisoned = [] →
      (Completes (.scrubRead dt 0#8 0#8) s fun t => t.dram = s.dram ∧ OnlyRegs [0x118018, 0x11801C, 0x118020] s t ∧
        (pos * 64 + 64 < usableBytes s → t.getF F.DRM_SCRUB_POS_ADDR = pos + 1 ∧ t.getF F.DRM_SCRUB_PASSES_VALUE = s.getF F.DRM_SCRUB_PASSES_VALUE) ∧
        (usableBytes s ≤ pos * 64 + 64 → t.getF F.DRM_SCRUB_POS_ADDR = 0 ∧ t.getF F.DRM_SCRUB_PASSES_VALUE = (s.getF F.DRM_SCRUB_PASSES_VALUE + 1) % 2 ^ 32)) ∧
      (∀ k : Fin 8,
        (Completes (.scrubRead dt (BitVec.ofNat 8 (2 ^ k.val)) 0#8) s fun t =>
          t.getF F.DRM_UE_CNT_COUNT = min (s.getF F.DRM_UE_CNT_COUNT + 1) (2 ^ 32 - 1) ∧ t.poisonedWord (8 * pos + k) = true ∧
            t.reg 0x118014 = (if s.getF F.DRM_UE_ADDR_VALID = 1 then s.reg 0x118014 else BitVec.ofNat 32 (8 * (8 * pos + k) + 3)) ∧ OnlyRing s t) ∧
        (Completes (.scrubRead dt 0#8 (BitVec.ofNat 8 (2 ^ k.val))) s fun t =>
          t.getF F.DRM_CE_CNT_COUNT = min (s.getF F.DRM_CE_CNT_COUNT + 1) (2 ^ 32 - 1) ∧ t.dram = s.dram ∧
            t.reg 0x118010 = (if s.getF F.DRM_CE_ADDR_VALID = 1 then s.reg 0x118010 else BitVec.ofNat 32 (8 * (8 * pos + k) + 3))))) ∧
    (∀ t0, s.mem.passStart = some t0 → t0 + 8 * sec ≤ (s.elapse dt).clk.now → s.mem.passLate = false → s.mode = stAutonomous → s.getF F.SAF_STATUS_SAFE = 0 →
      Completes (.scrubLate dt) s fun t => t.mode = stSafeHold ∧ t.pins.safeN = true ∧ bitsOf (t.reg 0x170000) 5 5 = 1 ∧ t.mem.passLate = true) ∧
    (s.mem.ceSecond < (s.elapse dt).clk.slot / sec → s.getF F.DRM_ECC_CFG_CE_LIMIT < s.mem.ceCount → Completes (.ceRate dt) s fun t =>
      t.mem.ceCount = 0 ∧ OnlyRegs noticeRegs s t ∧ OnlyRing s t) ∧
    (∀ (id : BitVec 12), ∀ j, s.job id.toNat = some j → j.state = jsRunning → isDma j.cls = true → j.done < (dmaArgOf j).len → j.cancel = none → j.work = .none →
      let a := dmaArgOf j
      let n := chunkLen j s
      let ctxAt := a.ctx * 2 ^ 28 + (a.wofs + j.done) % 2 ^ 28
      let parked (st d at_ : Nat) (t : State) : Prop := (t.job id.toNat).map (fun x => (x.state, x.status, x.detail, x.done, x.context)) = some (jsFaulted, st, d, j.done, leBytes 4 j.done ++ leBytes 4 at_ ++ leBytes 4 0)
      let moved (t : State) : Prop := (t.job id.toNat).map (fun x => (x.state, x.done)) = some (jsRunning, j.done + n)
      (j.cls = ecMDM → j.buf1 = noHandle → badPartial (a.dst + j.done) n s = none →
        (a.fill = true → Completes (.dmaChunk dt id [] none []) s fun t => moved t ∧ OnlyRegs [] s t ∧
          (∀ k < n, t.byte (a.dst + j.done + k) = BitVec.ofNat 8 (a.src / 2 ^ (8 * ((j.done + k) % 4)))) ∧ (∀ b : Nat, b < a.dst + j.done ∨ a.dst + j.done + n ≤ b → t.byte b = s.byte b)) ∧
        (a.fill = false → j.buf0 = noHandle → badWord (a.src + j.done) n s = none → Completes (.dmaChunk dt id [] none []) s fun t => moved t ∧ OnlyRegs [] s t ∧
          (∀ k < n, t.byte (a.dst + j.done + k) = s.byte (a.src + j.done + k)) ∧ (∀ b : Nat, b < a.dst + j.done ∨ a.dst + j.done + n ≤ b → t.byte b = s.byte b))) ∧
      (j.cls = ecMDM → a.fill = false → j.buf0 = noHandle → ∀ w, badWord (a.src + j.done) n s = some w → Completes (.dmaChunk dt id [] none []) s fun t => parked scFaultEcc 0x10 (8 * w) t) ∧
      (j.cls = ecHDM →
        (∀ d, mapFault j a = some d → Completes (.dmaChunk dt id [] none []) s fun t => parked scFaultMap d ctxAt t) ∧
        (mapFault j a = none → a.toDevice = true → ∀ late : Bool, Completes (.dmaChunk dt id [] (some late) []) s fun t => parked scFaultMap (if late then 4 else 3) ctxAt t) ∧
        (∀ e, j.entry = some e → mapFault j a = none → a.toDevice = false → j.buf0 = noHandle → badWord (a.src + j.done) n s = none → Completes (.dmaChunk dt id [] none []) s fun t =>
          moved t ∧ t.dram = s.dram ∧ OnlyRegs [] s t ∧ t.out.head? = some (.hostWrite a.ctx (e / 2 ^ 12 * 2 ^ 12 + (a.wofs + j.done) % 4096) (s.bytes (a.src + j.done) n)) ∧
            (j.done + n < a.len → (t.job id.toNat).map (fun x => x.entry) = some (mapEntry a.ctx (a.wofs + j.done + n) s))))) ∧
    (s.clk.core = true → s.mode = stAutonomous → ∀ (m : Master) (w : Word), Completes (.bmpHwinFence dt m w) s fun t =>
      OnlyRegs [0x110084, 0x110114] s t ∧ t.dram = s.dram ∧
        ∀ k : Fin 16, (bitsOf w k k = 1 → fence k t = 1 ∧ Sparse.get (fun _ => []) t.mem.fence k = chunksOn k s) ∧
          (bitsOf w k k = 0 → fence k t = fence k s ∧ Sparse.get (fun _ => []) t.mem.fence k = Sparse.get (fun _ => []) s.mem.fence k)) ∧
    (∀ c : Fin 16, (Sparse.get (fun _ => []) s.mem.fence c).isEmpty = true → Completes (.fenceDone dt c) s fun t =>
      fence c t = 0 ∧ OnlyRegs [0x110084] s t ∧ (∀ k : Fin 16, k ≠ c → fence k t = fence k s) ∧ t.dram = s.dram)

/-- A lane mismatch in a running job or in a run, a run that fails, and an injection that meets a running run leave no key in any slot, no deferred command, no run and no injection waiting, with the seed as it was; the running job does not run on, and from AUTONOMOUS with no other job or command the device is in the safe state for cause 2 with the engine HALTED and the bit that names the fault. A due run starts and counts; one that has taken 10 ms takes the pipeline and pauses the running job; one that passes sets KAT_OK and counts its 96 blocks. An injection with no job or run in progress waits. -/
def Obligations.LanesAndKnownAnswers : Prop :=
  ∀ (dt : Nat) (s : State), s.clk.running = true →
    let wiped (t : State) : Prop := t.key.slots = [] ∧ t.key.deferred = none ∧ t.cph.kat = none ∧ t.cph.inject = false ∧ t.tamp.seed = s.tamp.seed
    let alone : Prop := s.fab.jobs = [] ∧ ((List.range 16).all fun n => (s.port n).held.isNone) = true ∧ s.mode = stAutonomous ∧ s.getF F.SAF_STATUS_SAFE = 0
    let halted (t : State) : Prop := t.getF F.CPH_STATUS_STATE = 2 ∧ t.mode = stSafeHold ∧ t.pins.safeN = true ∧ bitsOf (t.reg 0x170000) 2 2 = 1
    (∀ (id : BitVec 12), ∀ j, s.job id.toNat = some j → j.cls = ecCPH → j.state = jsRunning → s.getF F.CPH_STATUS_STATE ≠ 2 →
      Completes (.laneMismatch dt (some id)) s fun t => wiped t ∧ (j.work = .none → (t.job id.toNat).map (·.state) ≠ some jsRunning)) ∧
    (∀ k, s.cph.kat = some k →
      (Completes (.laneMismatch dt none) s fun t => wiped t ∧ (alone → halted t ∧ t.getF F.CPH_LANE_FAULT_MISMATCH = 1)) ∧
      (∀ v : Fin 16, Completes (.katRunEnd dt (some v)) s fun t => wiped t ∧ t.cph.katFirst = false ∧ (alone → halted t ∧ t.getF F.CPH_LANE_FAULT_KAT_FAIL = 1 ∧ t.getF F.CPH_STATUS_KAT_OK = 0)) ∧
      (Completes (.katRunEnd dt none) s fun t => t.cph.kat = none ∧ t.cph.katFirst = false ∧ t.getF F.CPH_STATUS_KAT_OK = 1 ∧
        t.getF (F.CPH_CNT_COUNT 10) = (s.getF (F.CPH_CNT_COUNT 10) + 96) % 2 ^ 32 ∧ OnlyRegs [0x120000, 0x120128] s t ∧ t.key = s.key ∧ t.fab = s.fab ∧ t.dram = s.dram) ∧
      (k.2 = false → k.1 + 10 * ms ≤ (s.elapse dt).clk.now → Completes (.katExclusiveTake dt) s fun t =>
        t.cph.kat = some (k.1, true) ∧ t.getF (F.CPH_CNT_COUNT 9) = (s.getF (F.CPH_CNT_COUNT 9) + 1) % 2 ^ 32 ∧ t.key = s.key ∧
          (∀ e r, runningOf ecCPH s = e :: r → r = [] → t.job e.1 = some { e.2 with pauses := min (e.2.pauses + 1) 255 })) ∧
      (∀ (m : Master) (w : Word), s.clk.core = true → s.mode = stAutonomous → s.owns m = true → bitsOf w 15 0 = 0x7183 → s.getF F.CPH_STATUS_STATE ≠ 2 →
        Completes (.cphInject dt m w) s fun t => wiped t ∧ (alone → halted t ∧ t.getF F.CPH_LANE_FAULT_INJECTED = 1 ∧ t.getF F.CPH_LANE_FAULT_MISMATCH = 1))) ∧
    (katDue (s.elapse dt) = true →
      (s.cph.inject = false → Completes (.katRunStart dt) s fun t => t.cph.kat = some (t.clk.now, s.cph.katFirst) ∧ t.cph.katAt = t.clk.now ∧
        t.getF (F.CPH_CNT_COUNT 8) = (s.getF (F.CPH_CNT_COUNT 8) + 1) % 2 ^ 32 ∧ OnlyRegs [0x120000, 0x120120] s t ∧ t.key = s.key ∧ t.fab = s.fab) ∧
      (s.cph.inject = true → Completes (.katRunStart dt) s fun t => wiped t ∧ (alone → halted t ∧ t.getF F.CPH_LANE_FAULT_INJECTED = 1))) ∧
    (∀ (m : Master) (w : Word), s.clk.core = true → s.mode = stAutonomous →
      (s.owns m = true → bitsOf w 15 0 = 0x7183 → s.cph.kat = none → runningOf ecCPH s = [] → Completes (.cphInject dt m w) s fun t =>
        t.cph = { s.cph with inject := true } ∧ OnlyRegs [] s t ∧ t.key = s.key ∧ t.fab = s.fab) ∧
      ((s.owns m = false ∨ bitsOf w 15 0 ≠ 0x7183) → Completes (.cphInject dt m w) s fun t => t.cph = s.cph ∧ OnlyRegs [0x8] s t ∧ t.key = s.key ∧ t.fab = s.fab))

/-- For the owner, with no command running, usable keys and an unpinned target in 0 to 63: WRITE_CLEAR, UNWRAP and DERIVE put the key that the rules give into the slot, ERASE empties it and EXPIRE marks it; the generation rises where a key was erased or replaced, and every other slot stays. A refused command changes no slot. WRAP writes the blob at its handle, and counts a use of a wrapper slot. FLUSH_NODE unlinks. On a pinned slot a command is deferred, and it takes effect once no pin is left. A key load that finds its node in the cache pins the slot for the CPH job; one that cannot take a slot waits. Any other write is ignored. -/
def Obligations.KeyCommands : Prop :=
  ∀ (dt : Nat) (s : State), s.clk.running = true → s.clk.core = true → s.mode = stAutonomous →
    let ends (st d r : Nat) (t : State) : Prop := t.reg 0x130024 = BitVec.ofNat 32 (2 ^ 30 + st * 2 ^ 16 + d * 2 ^ 8 + r) ∧
      t.getF (F.KEY_CNT_COUNT 3) = (s.getF (F.KEY_CNT_COUNT 3) + 1) % 2 ^ 32 ∧ ∀ n < 8, t.getF (F.KEY_STAGE_KEY n) = 0
    let same (t : State) : Prop := t.key.slots = s.key.slots ∧ t.tamp.gens = s.tamp.gens
    (∀ (m : Master) (slot src : BitVec 8), s.owns m = true → s.getF F.KEY_CMD_STATUS_BUSY = 0 → keysUsable s = true →
      let n := slot.toNat
      let h := s.getF F.KEY_CMD_ARG_VALUE % 2 ^ 20
      let put (k : KeySlot) (t : State) : Prop := t.slotOf n = k ∧ slotGen n t = slotGen n s + (if (s.slotOf n).full then 1 else 0) ∧
        (∀ i < 256, i ≠ n → i ≠ src.toNat → t.slotOf i = s.slotOf i ∧ slotGen i t = slotGen i s)
      (n < 64 → (s.slotOf n).closing = false →
        (slotPins n s = 0 →
          (genEnds n s = true → (attrBad (keyCmdOf 1 n src.toNat s) = false → Completes (.writeClear dt m slot src) s fun t => ends scDenied 0 krGenEnd t ∧ same t) ∧
            (Completes (.erase dt m slot src) s fun t => ends scDenied 0 krGenEnd t ∧ same t)) ∧
          (attrBad (keyCmdOf 1 n src.toNat s) = true → Completes (.writeClear dt m slot src) s fun t => ends scDenied 0 krInvalid t ∧ same t) ∧
          (genEnds n s = false →
            let c := keyCmdOf 1 n src.toNat s
            (attrBad c = false → Completes (.writeClear dt m slot src) s fun t => ends scOk 0 0 t ∧
              put ⟨true, attrKlen c, attrXnr c, false, 0, false, attrPerms c, 0, c.uses, 0xFF, 0, 0, c.stage.take (if attrKlen c then 32 else 16), 0, false⟩ t) ∧
            (Completes (.erase dt m slot src) s fun t => ends scOk 0 0 t ∧ put KeySlot.empty t) ∧
            (s.getF F.KEY_CMD_ARG_VALUE % 2 ^ 21 < 2 ^ 20 →
              (∀ st d, (unwrapBlob h s).1 = .error (st, d) → Completes (.unwrap dt m slot src) s fun t => ends st d 0 t ∧ same t) ∧
              (∀ k, (unwrapBlob h s).1 = .ok k → Completes (.unwrap dt m slot src) s fun t => ends scOk 0 0 t ∧ t.slotOf n = k)) ∧
            (let p := s.slotOf src.toNat
             src.toNat < 64 → attrBad c = false → p.full = true → p.depth < 3 → p.may permDerive = true → attrPerms c &&& p.perms = attrPerms c → keyStale 4 p s = false → keyOver p = false →
              ∀ label ctx, (deriveData c s).1 = .ok (label, ctx) → Completes (.derive dt m slot src) s fun t => ends scOk 0 0 t ∧
                put ⟨true, attrKlen c, attrXnr c || p.xnr, false, 2, false, attrPerms c, p.depth + 1, c.uses, src.toNat, slotGen src.toNat s, 0, kdf p.material label ctx (if attrKlen c then 256 else 128), 0, false⟩ t ∧
                (n ≠ src.toNat → (t.slotOf src.toNat).uses = if p.uses = 0xFFFFFFFF then p.uses else p.uses - 1)))) ∧
        (Completes (.expire dt m slot src) s fun t => ends scOk 0 0 t ∧ t.tamp.gens = s.tamp.gens ∧ ∀ i < 256, t.slotOf i = if i = n ∧ (s.slotOf n).full then { s.slotOf n with expired := true } else s.slotOf i) ∧
        (slotPins n s ≠ 0 →
          let waits (cmd : Nat) (t : State) : Prop := t.key.deferred = some (keyCmdOf cmd n src.toNat s) ∧ t.reg 0x130024 = BitVec.ofNat 32 (2 ^ 31 + s.getF F.KEY_CMD_STATUS_DONE * 2 ^ 30 + scDeferred * 2 ^ 16) ∧ t.slotOf n = { s.slotOf n with closing := true } ∧ t.tamp = s.tamp
          Completes (.writeClear dt m slot src) s (waits 1) ∧ Completes (.unwrap dt m slot src) s (waits 2) ∧ Completes (.derive dt m slot src) s (waits 3) ∧ Completes (.erase dt m slot src) s (waits 5))) ∧
      (let k := s.slotOf src.toNat
       let w := s.slotOf n
       src.toNat < 64 → n ≠ src.toNat → s.getF F.KEY_CMD_ARG_VALUE % 2 ^ 21 < 2 ^ 20 → k.full = true → k.xnr = false → keyStale 4 k s = false →
        (n = 0xFF ∨ (n < 64 ∧ w.full = true ∧ w.klen = true ∧ w.may permWrap = true ∧ keyStale 4 w s = false ∧ keyOver w = false)) →
          Completes (.wrap dt m slot src) s fun t => ends scOk 0 0 t ∧
            (n < 64 → (t.slotOf n).uses = if w.uses = 0xFFFFFFFF then w.uses else w.uses - 1) ∧
            (∀ x < 80, ¬inNoticeRing (blobBase s + 80 * h + x) s → t.byte (blobBase s + 80 * h + x) = (blobOf k n h (if n = 0xFF then deviceKek s else w.material) s).getD x 0)) ∧
      (Completes (.flushNode dt m slot src) s fun t => ends scOk 0 0 t ∧ (∀ i < 64, t.slotOf i = s.slotOf i) ∧
        (∀ i < 256, 64 ≤ i → (s.getF F.KEY_CMD_ARG_VALUE / 2 ^ 20 % 2 = 1 ∨ (s.slotOf i).nix = s.getF F.KEY_CMD_ARG_VALUE % 2 ^ 17) → (t.slotOf i).linked = false))) ∧
    (∀ (m : Master) (slot src : BitVec 8), (s.owns m = false ∨ s.getF F.KEY_CMD_STATUS_BUSY = 1) →
      let ignores (t : State) : Prop := OnlyRegs [0x8] s t ∧ t.key = s.key ∧ t.tamp = s.tamp ∧ t.dram = s.dram
      Completes (.writeClear dt m slot src) s ignores ∧ Completes (.unwrap dt m slot src) s ignores ∧ Completes (.derive dt m slot src) s ignores ∧ Completes (.wrap dt m slot src) s ignores ∧
        Completes (.erase dt m slot src) s ignores ∧ Completes (.expire dt m slot src) s ignores ∧ Completes (.flushNode dt m slot src) s ignores) ∧
    (∀ c, s.key.deferred = some c → slotPins c.slot s = 0 → Completes (.keyCmdDeferredApply dt) s fun t =>
      t.key.deferred = none ∧ t.getF F.KEY_CMD_STATUS_BUSY = 0 ∧ t.getF F.KEY_CMD_STATUS_DONE = 1 ∧
        (c.cmd = 5 → c.slot < 64 → keysUsable s = true → genEnds c.slot s = false → t.slotOf c.slot = KeySlot.empty ∧ ends scOk 0 0 t)) ∧
    (∀ (id : BitVec 12), ∀ j, s.job id.toNat = some j → j.state = jsRunning → ∀ nix u, j.work = .kld nix u →
      (∀ k, cacheSlot nix s = some k → s.fab.waiting = [] → ∀ i, freeId s = some i → Completes (.kldLoad dt id) s fun t =>
        t.job id.toNat = none ∧ (t.job i).map (fun x => (x.state, x.pins)) = some (jsReady, [k]) ∧ (t.slotOf k).lastUse = s.key.tick + 1) ∧
      (cacheSlot nix s = none → cacheVictim s = none → Completes (.kldLoad dt id) s fun t =>
        (t.job id.toNat).map (fun x => (x.state, x.pauses)) = some (jsRunning, if j.pauses = 0 then 1 else j.pauses) ∧ t.key.slots = s.key.slots ∧
          t.getF (F.KEY_CNT_COUNT 5) = (s.getF (F.KEY_CNT_COUNT 5) + if j.pauses = 0 then 1 else 0) % 2 ^ 32))

/-- A read of LCS_CHAL0 draws four words that nothing fixes and makes the challenge current, and 600 s later it is no longer. A lifecycle command whose token lies outside DRAM or fails a check ends with the status and the REASON of the rules and changes no fuse and no key; one that passes clears the seed and every slot, and the state follows with the fuse, after which the device starts again. Attestation takes the nonce, or is refused, and puts the report over its area. A tamper event clears the seed in every state, and from AUTONOMOUS it leads to TAMPER_HOLD with no key left. TAM_CFG takes the owner's writes until it is locked. -/
def Obligations.LifecycleAndTamper : Prop :=
  ∀ (dt : Nat) (m : Master) (s : State), s.clk.core = true →
    (s.mode = stFrozen → Completes (.lcsChalRead dt m) s fun t => t.out.head? = some (.value m.bit (s.reg 0x134010)) ∧ OnlyRegs [] s t ∧ t.lcs = s.lcs ∧ t.draws = s.draws) ∧
    (s.mode ≠ stFrozen → Completes (.lcsChalRead dt m) s fun t =>
      (∀ k < 4, t.reg (0x134010 + 4 * k) = BitVec.ofNat 32 (Config.freeValue (s.draws + k))) ∧ t.lcs.chalAt = some t.clk.now ∧ t.draws = s.draws + 4 ∧
        t.out.head? = some (.value m.bit (t.reg 0x134010)) ∧ OnlyRegs [0x134010, 0x134014, 0x134018, 0x13401C] s t ∧ t.key = s.key ∧ t.tamp = s.tamp) ∧
    (∀ t0, s.lcs.chalAt = some t0 → t0 + 600 * sec ≤ (s.elapse dt).clk.now → Completes (.lcsChalExpire dt) s fun t => t.lcs.chalAt = none ∧ OnlyRegs [] s t ∧ t.key = s.key) ∧
    (∀ w : Word, s.owns m = true → s.getF F.LCS_CMD_STATUS_BUSY = 0 → (s.mode = stAutonomous ∨ s.mode = stReserve ∨ s.mode = stSafeHold) →
      let a := w.toNat / 64 * 64
      let refused (st r : Nat) (t : State) : Prop := t.reg 0x134024 = BitVec.ofNat 32 (2 ^ 30 + st * 2 ^ 16 + r) ∧ t.lcs.chalAt = none ∧ t.lcs.change = s.lcs.change ∧ t.fuses = s.fuses ∧ t.key = s.key ∧ t.tamp = s.tamp
      (bitsOf w 0 0 = 0 → Completes (.lcsCmd dt m w) s fun t => OnlyRegs [0x134020] s t ∧ t.lcs = s.lcs ∧ t.key = s.key ∧ t.tamp = s.tamp) ∧
      (bitsOf w 0 0 = 1 →
        (inDram a 368 s = false → Completes (.lcsCmd dt m w) s (refused scDenied 2)) ∧
        (inDram a 368 s = true → ∀ x, badWord a 368 s = some x → Completes (.lcsCmd dt m w) s (refused scFaultEcc 1)) ∧
        (inDram a 368 s = true → badWord a 368 s = none →
          (∀ st r, tokenRefusal (s.bytes a 368) (chalNow (s.elapse dt)) s = some (st, r) → Completes (.lcsCmd dt m w) s (refused st r)) ∧
          (tokenRefusal (s.bytes a 368) (chalNow (s.elapse dt)) s = none → entNat (s.bytes a 368) 4 1 ≠ 2 → Completes (.lcsCmd dt m w) s fun t =>
            t.lcs.change = some (entNat (s.bytes a 368) 4 1) ∧ t.tamp.seed = none ∧ t.key.slots = [] ∧ t.fuses = s.fuses)))) ∧
    (∀ c, s.lcs.change = some c → s.mode = stFrozen → Completes (.lcsChange dt) s fun t =>
      t.fuses = { s.fuses with lifecycle := c, identity := s.fuses.identity && c != 5 } ∧ t.lcs.change = none ∧ OnlyRegs [] s t) ∧
    (∀ c, s.lcs.change = some c → s.mode ≠ stFrozen → Completes (.lcsChange dt) s fun t =>
      t.fuses = { s.fuses with lifecycle := c, identity := s.fuses.identity && c != 5 } ∧ t.step = 2 ∧ t.mode = stStarting ∧ t.lcs.change = none) ∧
    (∀ w : Word, s.mode = stAutonomous →
      let a := w.toNat / 64 * 64
      (s.getF F.LCS_ATTEST_STATUS_BUSY = 0 → bitsOf w 0 0 = 1 →
        ((s.fuses.identity = false ∨ inDram a 512 s = false) → Completes (.attestRequest dt m w) s fun t => t.reg 0x13402C = BitVec.ofNat 32 (2 ^ 30 + scDenied * 2 ^ 16) ∧ t.lcs = s.lcs ∧ t.dram = s.dram) ∧
        (s.fuses.identity = true → inDram a 512 s = true → badWord (a + 16) 32 s = none → Completes (.attestRequest dt m w) s fun t =>
          t.reg 0x13402C = BitVec.ofNat 32 (2 ^ 31 + s.getF F.LCS_ATTEST_STATUS_DONE * 2 ^ 30) ∧ t.lcs.attest = some (a, s.bytes (a + 16) 32) ∧ OnlyRegs [0x134028, 0x13402C] s t ∧ t.dram = s.dram)) ∧
      (s.getF F.LCS_ATTEST_STATUS_BUSY = 1 → Completes (.attestRequest dt m w) s fun t => OnlyRegs [0x8] s t ∧ t.lcs = s.lcs ∧ t.dram = s.dram)) ∧
    (s.clk.running = true → ∀ a n, s.lcs.attest = some (a, n) → a % 8 = 0 → Completes (.attestDone dt) s fun t =>
      t.lcs.attest = none ∧ t.reg 0x13402C = 0x40000000#32 ∧ t.fuses = s.fuses ∧ t.key = s.key ∧
        (∀ k < 512, ¬inNoticeRing (a + k) s → t.byte (a + k) = (attestReport n (s.elapse dt)).getD k 0)) ∧
    (∀ x : BitVec 4,
      let act := x.toNat &&& s.getF F.TAM_CFG_EN
      let new := act ^^^ (act &&& s.getF F.TAM_STATUS_LIVE)
      (new = 0 → Completes (.tamperEvent dt x) s fun t => t.getF F.TAM_STATUS_LIVE = act ∧ OnlyRegs [0x138004] s t ∧ t.tamp = s.tamp ∧ t.key = s.key) ∧
      (new ≠ 0 → s.pins.vinValid = true → s.mode = stAutonomous → Completes (.tamperEvent dt x) s fun t =>
        t.tamp.seed = none ∧ t.key.slots = [] ∧ t.mode = stTamperHold ∧ t.pins.safeN = true ∧ t.lcs.change = none ∧ t.fuses = s.fuses) ∧
      (new ≠ 0 → s.pins.vinValid = true → s.mode = stFrozen → Completes (.tamperEvent dt x) s fun t =>
        t.tamp.seed = none ∧ t.mode = stFrozen ∧ t.getF F.TAM_STATUS_SEEN = 1 ∧ t.getF F.TAM_STATUS_LATCHED = new ∧ t.getF F.TAM_STATUS_WHERE = 3 ∧ OnlyRegs [0x138004] s t) ∧
      (new ≠ 0 → (s.pins.vinValid = false ∨ s.mode = stHibernate) → Completes (.tamperEvent dt x) s fun t =>
        t.tamp.seed = none ∧ t.boot.tamperHib = true ∧ t.getF F.TAM_STATUS_SEEN = 1 ∧ t.getF F.TAM_STATUS_LATCHED = new ∧ t.getF F.TAM_STATUS_WHERE = 2 ∧ OnlyRegs [0x138004] s t)) ∧
    (∀ w : Word, s.mode = stAutonomous →
      (s.owns m = true → s.getF F.TAM_CFG_LOCK = 0 → Completes (.tamCfgWrite dt m w) s fun t => t.reg 0x138000 = w &&& 0x800F00FF#32 ∧ OnlyRegs [0x138000] s t ∧ t.key = s.key) ∧
      ((s.owns m = false ∨ s.getF F.TAM_CFG_LOCK = 1) → Completes (.tamCfgWrite dt m w) s fun t => OnlyRegs [0x8] s t ∧ t.key = s.key))

/-- The owner's write of TIM_Dn_INC_HI applies both words and ends holdover; an increment of zero and another master's write change nothing but TOP_ACCESS_ERR. Holdover sets its bit and no time. A step with GO is refused, armed or applied as the four conditions say: applied, it moves that domain's time, its epoch and, when it is the selected one, the alignment offset, and nothing of the other domain. An armed step expires after 1 s. CLR_OFS sets the offset to 0. The comparison sets and clears DIVERGE_LIVE at its two thresholds. -/
def Obligations.TimeDomains : Prop :=
  ∀ (dt : Nat) (s : State), s.clk.running = true → s.clk.core = true → s.mode = stAutonomous →
    let e := s.elapse dt
    let d (n : Fin 2) (k : Nat) : Nat := 0x140100 + 256 * n.val + k
    let armBit (n : Fin 2) (t : State) : Nat := t.getF ⟨0x140020, 4 + n, 4 + n⟩
    let other (n : Fin 2) (t : State) : Prop := t.domain (1 - n.val) = e.domain (1 - n.val)
    (∀ (m : Master) (n : Fin 2) (w : Word),
      let inc := s.getF (F.TIM_D_INC_LO_INC n) + bitsOf w 2 0 * 2 ^ 32
      (s.owns m = true → inc ≠ 0 → Completes (.timIncWrite dt m n w) s fun t =>
        t.domain n = { e.domain n with inc := inc, incAt := e.clk.now } ∧ other n t ∧ t.getF (F.TIM_D_INC_HI_INC n) = bitsOf w 2 0 ∧ t.getF (F.TIM_D_EXCH_STATUS_HOLDOVER n) = 0 ∧
          OnlyRegs [d n 0x24, d n 0x70] s t ∧ t.dram = s.dram) ∧
      ((s.owns m = false ∨ inc = 0) → Completes (.timIncWrite dt m n w) s fun t => t.time = e.time ∧ OnlyRegs [0x8] s t ∧ t.dram = s.dram)) ∧
    (∀ n : Fin 2, s.getF (F.TIM_D_EXCH_STATUS_HOLDOVER n) = 0 → (s.domain n).incAt + s.getF (F.TIM_D_HOLD_VALUE n) * sec ≤ e.clk.now → Completes (.holdover dt n) s fun t =>
      t.getF (F.TIM_D_EXCH_STATUS_HOLDOVER n) = 1 ∧ t.time = e.time ∧ OnlyRegs (d n 0x70 :: noticeRegs) s t ∧ OnlyRing s t) ∧
    (∀ (m : Master) (n : Fin 2) (w : Word),
      let ns : Int := toSigned 32 (s.getF (F.TIM_D_STEP_SEC_SEC n)) * 1000000000 + (bitsOf w 29 0 : Nat)
      let res : Int := ((e.domain n).t : Int) + ns * 2 ^ 32
      let bad : Prop := 999999999 < bitsOf w 29 0 ∨ ns = 0 ∨ res < 0 ∨ (2 ^ 64 * unitsPerSec : Nat) ≤ res
      let far : Prop := ns < -(s.getF F.TIM_STEP_CFG_BACK_LIMIT_MS * 1000000 : Nat)
      let again : Bool := match (s.domain n).armed with | some (v, at_) => decide (v = ns) && decide (e.clk.slot < at_ + sec) | none => false
      (s.owns m = false → Completes (.timStep dt m n w) s fun t => t.time = e.time ∧ OnlyRegs [0x8] s t) ∧
      (s.owns m = true → bitsOf w 31 31 = 0 → Completes (.timStep dt m n w) s fun t => t.time = e.time ∧ t.getF (F.TIM_D_STEP_NS_NS n) = bitsOf w 29 0 ∧ OnlyRegs [d n 0x2C] s t) ∧
      (s.owns m = true → bitsOf w 31 31 = 1 →
        (bad → Completes (.timStep dt m n w) s fun t => t.domain n = { e.domain n with armed := none } ∧ other n t ∧ t.time.ofs = s.time.ofs ∧ t.getF (F.TIM_D_STEP_STATUS_STATE n) = 3 ∧ armBit n t = 0 ∧
          OnlyRegs [0x8, d n 0x2C, d n 0x30, 0x140020] s t) ∧
        (¬bad → far → again = false → Completes (.timStep dt m n w) s fun t =>
          t.domain n = { e.domain n with armed := some (ns, e.clk.slot) } ∧ other n t ∧ t.time.ofs = s.time.ofs ∧ t.getF (F.TIM_D_STEP_STATUS_STATE n) = 2 ∧ armBit n t = 1 ∧
            OnlyRegs ([d n 0x2C, d n 0x30, 0x140020] ++ noticeRegs) s t ∧ OnlyRing s t) ∧
        (¬bad → (¬far ∨ again = true) → Completes (.timStep dt m n w) s fun t =>
          t.domain n = { e.domain n with t := res.toNat, epoch := ((s.domain n).epoch + 1) % 65536, armed := none } ∧ other n t ∧
            t.time.ofs = (if selDomain s = n.val then toSigned 64 (ofSigned 64 (s.time.ofs + ns)) else s.time.ofs) ∧ t.getF (F.TIM_D_STEP_STATUS_STATE n) = 1 ∧ armBit n t = 0 ∧
            t.getF (timCnt n 3) = (s.getF (timCnt n 3) + 1) % 2 ^ 32 ∧ OnlyRegs ([d n 0x2C, d n 0x30, 0x140020, 0x140010, 0x140014, 0x14008C + 16 * n.val] ++ noticeRegs) s t ∧ OnlyRing s t))) ∧
    (∀ n : Fin 2, ∀ v at_, (s.domain n).armed = some (v, at_) → at_ + sec ≤ e.clk.slot → Completes (.stepArmExpire dt n) s fun t =>
      t.domain n = { e.domain n with armed := none } ∧ other n t ∧ t.getF (F.TIM_D_STEP_STATUS_STATE n) = 0 ∧ armBit n t = 0 ∧ OnlyRegs [d n 0x30, 0x140020] s t) ∧
    (∀ (m : Master) (w : Word),
      (s.owns m = true → bitsOf w 0 0 = 1 → Completes (.clrOfs dt m w) s fun t => t.time = { e.time with ofs := 0 } ∧ t.reg 0x140010 = 0 ∧ t.reg 0x140014 = 0 ∧ OnlyRegs [0x140010, 0x140014] s t) ∧
      (s.owns m = true → bitsOf w 0 0 = 0 → Completes (.clrOfs dt m w) s fun t => t.time = e.time ∧ OnlyRegs [] s t) ∧
      (s.owns m = false → Completes (.clrOfs dt m w) s fun t => t.time = e.time ∧ OnlyRegs [0x8] s t)) ∧
    (s.getF F.TIM_DIV_CFG_EN = 1 →
      let gap := ((e.time.d0.t : Int) - e.time.d1.t).natAbs
      let thr := s.getF F.TIM_DIV_CFG_THRESH_NS * 2 ^ 32
      (s.getF F.TIM_STATUS_DIVERGE_LIVE = 0 → Completes (.domainCompare dt) s fun t => t.time = e.time ∧ OnlyRegs (0x140020 :: noticeRegs) s t ∧ OnlyRing s t ∧
        t.getF F.TIM_STATUS_DIVERGE_LIVE = (if thr < gap then 1 else 0) ∧ (thr < gap → t.getF F.TIM_STATUS_DIVERGE = 1) ∧ (gap ≤ thr → OnlyRegs [] s t)) ∧
      (s.getF F.TIM_STATUS_DIVERGE_LIVE = 1 → Completes (.domainCompare dt) s fun t => t.time = e.time ∧ OnlyRegs [0x140020] s t ∧ t.dram = s.dram ∧
        t.getF F.TIM_STATUS_DIVERGE_LIVE = if 2 * gap ≤ thr then 0 else 1))

/-- A timestamped event message writes the record of 64 bytes to the TSU ring, or is lost in a full ring; a Sync received, a Delay_Req or Pdelay_Req sent and a Pdelay_Resp received take their place in the exchange. A message that completes an exchange gives MPD, the estimate under the filter or its freeze, OFFSET, the counts and PATH_STEP; one that is 1 s old is discarded. The owner clears PATH_STEP and FROZEN. An edge of PPS_IN captures the slot clock and both domains; PPS_LOST follows once; PPS_OUT goes active at a carry for its width. The ring's read count moves within the ring. -/
def Obligations.PtpAndPulses : Prop :=
  ∀ (dt : Nat) (s : State), timRuns s = true →
    let e := s.elapse dt
    let size := tsuSize s
    let wr := s.getF F.TSU_RING_WR_COUNT
    let full : Prop := (wr + 2 ^ 32 - s.getF F.TSU_RING_RD_COUNT) % 2 ^ 32 = size
    let base := s.getF F.TSU_RING_BASE_BASE / (64 * size) * (64 * size)
    (∀ (port : Fin 2) (tx : Bool) (p : PtpMsg),
      ((tsuTakes port p.transport s = false ∨ 3 < p.msg.val) → Completes (.ptpEventTimestamp dt port tx p) s fun t => t.time = e.time ∧ OnlyRegs [] s t ∧ t.dram = s.dram) ∧
      (tsuTakes port p.transport s = true → p.msg.val ≤ 3 →
        (s.getF F.TSU_RING_CTRL_EN = 1 → ¬full → Completes (.ptpEventTimestamp dt port tx p) s fun t =>
          let a := base + 64 * (wr % size)
          t.getF F.TSU_RING_WR_COUNT = (wr + 1) % 2 ^ 32 ∧ OnlyRegs [0x148018] s t ∧ (∀ b : Nat, b < a ∨ a + 64 ≤ b → t.byte b = s.byte b) ∧
            (∀ k < 64, t.byte (a + k) = (tsuRecord port tx (tx && p.msg == 0 && s.getF (F.TSU_PORT_CFG_ONE_STEP port) == 1) p e).getD k 0)) ∧
        (s.getF F.TSU_RING_CTRL_EN = 1 → full → Completes (.ptpEventTimestamp dt port tx p) s fun t =>
          t.getF F.TSU_LOST_LOST = min (s.getF F.TSU_LOST_LOST + 1) (2 ^ 32 - 1) ∧ t.time.tsuLost = true ∧ OnlyRegs (0x148020 :: noticeRegs) s t ∧ OnlyRing s t) ∧
        (∀ n : Fin 2, ptpFor n port p (!tx) s = true →
          let e2e := s.getF (F.TIM_D_PTP_CFG_MECH n) = 0
          let at_ := (e.domain n).ns
          (p.msg = 0 → tx = false → Completes (.ptpEventTimestamp dt port tx p) s fun t =>
            (t.domain n).sync = some ⟨p.seq.toNat, if p.twoStep then none else some p.body, at_, p.corr, e.clk.now⟩ ∧ (t.domain n).req = (s.domain n).req) ∧
          (p.msg = 1 → tx = true → e2e → Completes (.ptpEventTimestamp dt port tx p) s fun t =>
            (t.domain n).req.map (fun r => (r.seq, r.sent, r.sync)) = some (p.seq.toNat, at_, (s.domain n).known) ∧ (t.domain n).sync = (s.domain n).sync) ∧
          (p.msg = 2 → tx = true → ¬e2e → Completes (.ptpEventTimestamp dt port tx p) s fun t =>
            (t.domain n).req.map (fun r => (r.seq, r.sent, r.answered)) = some (p.seq.toNat, at_, none) ∧ (t.domain n).sync = (s.domain n).sync) ∧
          (p.msg = 3 → tx = false → ¬e2e → ∀ r, (s.domain n).req = some r → r.seq = p.seq.toNat → Completes (.ptpEventTimestamp dt port tx p) s fun t =>
            (t.domain n).req = some { r with answered := some (p.body, at_), corr := p.corr })))) ∧
    (∀ (port : Fin 2) (n : Fin 2) (p : PtpMsg), ptpFor n port p true s = true → ptpFor (1 - n.val) port p true s = false →
      let done (mpd : Int) (y : Option SyncInfo) (t : State) : Prop :=
        let est := toSigned 32 (s.getF (F.TIM_D_DELAY_EST_VALUE n))
        let gap := match (s.domain n).prevMpd with | some q => (mpd - q).natAbs | none => 0
        let step : Bool := decide (s.getF (F.TIM_D_PATH_THRESH_VALUE n) < gap)
        t.getF (F.TIM_D_MPD_VALUE n) = ofSigned 32 mpd ∧ t.getF (timCnt n 0) = (s.getF (timCnt n 0) + 1) % 2 ^ 32 ∧ t.getF (F.TIM_D_EXCH_STATUS_VALID n) = 1 ∧
          (t.domain n).req = none ∧ (t.domain n).prevMpd = some mpd ∧ (t.domain n).t = (e.domain n).t ∧
          (step = true → t.getF (F.TIM_D_EXCH_STATUS_PATH_STEP n) = 1 ∧ t.getF (F.TIM_D_EXCH_STATUS_FROZEN n) = 1 ∧ t.getF (timCnt n 2) = (s.getF (timCnt n 2) + 1) % 2 ^ 32) ∧
          t.getF (F.TIM_D_DELAY_EST_VALUE n) = (if step = true ∨ s.getF (F.TIM_D_EXCH_STATUS_FROZEN n) = 1 then s.getF (F.TIM_D_DELAY_EST_VALUE n)
            else if (s.domain n).fresh then ofSigned 32 mpd else ofSigned 32 (est + (mpd - est).tdiv (2 ^ s.getF (F.TIM_D_PTP_CFG_AVG_LOG2 n)))) ∧
          (∀ x, y = some x → ∀ t1, x.t1 = some t1 → t.get64 (F.TIM_D_OFFSET_LO_VALUE n) (F.TIM_D_OFFSET_HI_VALUE n) = ofSigned 64 (((x.t2 - t1) * 65536 - x.corr).tdiv 65536
            - toSigned 32 (t.getF (F.TIM_D_DELAY_EST_VALUE n)) - toSigned 32 (s.getF (F.TIM_D_ASYM_VALUE n)))) ∧ OnlyRing s t
      (p.msg = 8 → ∀ y, (s.domain n).sync = some y → y.seq = p.seq.toNat → y.t1 = none → Completes (.ptpGeneralMessage dt port p) s fun t =>
        (t.domain n).known = some { y with t1 := some p.body, corr := y.corr + p.corr } ∧ (t.domain n).sync = (t.domain n).known ∧ OnlyRegs [] s t ∧ t.dram = s.dram) ∧
      (∀ r, (s.domain n).req = some r → r.seq = p.seq.toNat →
        (p.msg = 9 → ∀ y, r.sync = some y → Completes (.ptpGeneralMessage dt port p) s (done ((((y.t2 - y.t1.getD 0) + (p.body - r.sent)) * 65536 - y.corr - p.corr).tdiv 131072) (some y))) ∧
        (p.msg = 10 → ∀ t2 t4, r.answered = some (t2, t4) → Completes (.ptpGeneralMessage dt port p) s (done ((((t4 - r.sent) - (p.body - t2)) * 65536 - r.corr - p.corr).tdiv 131072) (s.domain n).known)))) ∧
    (∀ n : Fin 2, ∀ r, (s.domain n).req = some r → r.first + sec ≤ e.clk.now → Completes (.ptpExchangeDiscard dt n) s fun t =>
      (t.domain n).req = none ∧ t.getF (timCnt n 1) = (s.getF (timCnt n 1) + 1) % 2 ^ 32 ∧ OnlyRegs [0x140084 + 16 * n.val] s t ∧ t.domain (1 - n.val) = e.domain (1 - n.val)) ∧
    (∀ (m : Master) (n : Fin 2) (w : Word), s.clk.core = true → s.mode = stAutonomous →
      (s.owns m = true → bitsOf w 31 31 = 1 → s.getF (F.TIM_D_EXCH_STATUS_PATH_STEP n) = 1 → Completes (.pathStepClear dt m n w) s fun t =>
        t.getF (F.TIM_D_EXCH_STATUS_PATH_STEP n) = 0 ∧ t.getF (F.TIM_D_EXCH_STATUS_FROZEN n) = 0 ∧ t.domain n = { e.domain n with fresh := true } ∧ OnlyRegs [0x140170 + 256 * n.val] s t) ∧
      (s.owns m = true → bitsOf w 31 31 = 0 → Completes (.pathStepClear dt m n w) s fun t => t.time = e.time ∧ OnlyRegs [] s t) ∧
      (s.owns m = false → Completes (.pathStepClear dt m n w) s fun t => t.time = e.time ∧ OnlyRegs [0x8] s t)) ∧
    (s.getF F.TIM_PPSIN_CFG_EN = 1 →
      (Completes (.ppsInEdge dt) s fun t => t.get64 F.TIM_PPSIN_SC_LO_VALUE F.TIM_PPSIN_SC_HI_VALUE = e.clk.slot % 2 ^ 64 ∧ t.getF F.TIM_PPSIN_D0_SEC_VALUE = e.time.d0.t / unitsPerSec % 2 ^ 32 ∧
        t.getF F.TIM_PPSIN_D0_NS_VALUE = e.time.d0.t % unitsPerSec / 2 ^ 32 ∧ t.getF F.TIM_PPSIN_D1_SEC_VALUE = e.time.d1.t / unitsPerSec % 2 ^ 32 ∧
        t.getF F.TIM_PPSIN_D1_NS_VALUE = e.time.d1.t % unitsPerSec / 2 ^ 32 ∧ t.getF F.TIM_PPSIN_COUNT_VALUE = (s.getF F.TIM_PPSIN_COUNT_VALUE + 1) % 2 ^ 32 ∧
        t.time = { e.time with ppsIn := some e.clk.now, ppsLost := false } ∧ OnlyRegs [0x140048, 0x14004C, 0x140050, 0x140054, 0x140058, 0x14005C, 0x140060] s t) ∧
      (∀ x, s.time.ppsIn = some x → s.time.ppsLost = false → x + 220000000 ≤ e.clk.now → Completes (.ppsLost dt) s fun t =>
        t.time = { e.time with ppsLost := true } ∧ OnlyRegs noticeRegs s t ∧ OnlyRing s t)) ∧
    (s.getF F.TIM_PPSOUT_CFG_EN = 1 → s.mode ≠ stReserve → carried (e.domain (s.getF F.TIM_PPSOUT_CFG_DOM)) = true → Completes (.ppsOutPulse dt) s fun t =>
      t.time = { e.time with ppsOut := some (e.clk.slot + s.getF F.TIM_PPSOUT_CFG_WIDTH_MS * ms) } ∧ OnlyRegs [] s t) ∧
    (∀ x, s.time.ppsOut = some x → x ≤ e.clk.slot → Completes (.ppsOutEnd dt) s fun t => t.time = { e.time with ppsOut := none } ∧ OnlyRegs [] s t) ∧
    (∀ (m : Master) (w : Word), s.clk.core = true → s.mode = stAutonomous →
      ((wr + 2 ^ 32 - w.toNat) % 2 ^ 32 ≤ size → Completes (.tsuRingRdWrite dt m w) s fun t => t.reg 0x14801C = w ∧ OnlyRegs [0x14801C] s t ∧ t.dram = s.dram) ∧
      (size < (wr + 2 ^ 32 - w.toNat) % 2 ^ 32 → Completes (.tsuRingRdWrite dt m w) s fun t => OnlyRegs [0x8] s t ∧ t.dram = s.dram))

/-- A link change sets LINK, counts and, with FAILOVER, moves frames to the other port. A frame is dropped by its size or tag, pauses the port, goes to the host, or is a record: the first of the stages that fails ends it with its status and REASON, and one that passes all waits with its SEQ remembered. An accepted DOWNLINK enters the shaper or is refused with a DL_STATUS; a FLOOD is counted and relayed, or refused for its TTL; a CONFIRM closes the receipt of the same NIX and FC, or counts as unmatched; an ETH_TX frame enters on its port; a due HELLO enters; a pause ends at its time. -/
def Obligations.LinksAndRecords : Prop :=
  ∀ (dt : Nat) (s : State), s.clk.running = true →
    let e := s.elapse dt
    let one (k : Nat) (t : State) : Prop := t.getF (F.BHL_CNT_COUNT k) = (s.getF (F.BHL_CNT_COUNT k) + 1) % 2 ^ 32
    let dropped (src st why : Nat) (t : State) : Prop := t.reg 0x1500A0 = BitVec.ofNat 32 (st * 2 ^ 24 + why * 2 ^ 20 + min src 2 * 2 ^ 16 + (if 2 ≤ src then src - 2 else 0))
    (∀ b : Fin 2,
      (s.getF (F.BHL_PORT_STATUS_LINK b) = 0 → s.getF (F.BHL_PORT_CFG_EN b) = 1 → s.mode ≠ stReserve → Completes (.link dt b true) s fun t =>
        t.getF (F.BHL_PORT_STATUS_LINK b) = 1 ∧ t.getF (F.BHL_PORT_STATUS_MODE b) = s.getF (F.BHL_PORT_CFG_MODE b) ∧ t.getF (F.BHL_PORT_STATUS_CHANGES b) = min (s.getF (F.BHL_PORT_STATUS_CHANGES b) + 1) 65535 ∧
          OnlyRegs ((0x150018 + 4 * b.val) :: noticeRegs) s t ∧ OnlyRing s t ∧ t.shp = s.shp) ∧
      ((s.mode = stReserve ∨ s.getF (F.BHL_PORT_CFG_EN b) = 0) → Completes (.link dt b true) s fun t => OnlyRegs [] s t ∧ t.shp = s.shp) ∧
      (s.getF (F.BHL_PORT_STATUS_LINK b) = 1 → Completes (.link dt b false) s fun t =>
        t.getF (F.BHL_PORT_STATUS_LINK b) = 0 ∧ t.getF (F.BHL_PORT_STATUS_PAUSED b) = 0 ∧ OnlyRing s t ∧
          (if s.getF F.BHL_CFG_FAILOVER = 1 ∧ s.getF (F.BHL_PORT_STATUS_LINK (1 - b.val)) = 1 then t.shp.entering = s.shp.entering.map fun f => if f.port = 16 + b.val then { f with port := 17 - b.val } else f
            else t.shp = s.shp)) ∧
      (∀ x, Sparse.get (fun _ => none) s.bhl.pauseEnd b.val = some x → x ≤ e.clk.now → Completes (.pauseEnd dt b) s fun t => t.getF (F.BHL_PORT_STATUS_PAUSED b) = 0 ∧ OnlyRegs [0x150018 + 4 * b.val] s t)) ∧
    (∀ (b : Fin 2) (f : List Byte),
      (s.getF (F.BHL_PORT_STATUS_LINK b) = 0 → Completes (.bhFrameRx dt b f) s fun t => OnlyRegs [] s t ∧ t.bhl = s.bhl ∧ t.shp = s.shp) ∧
      (s.getF (F.BHL_PORT_STATUS_LINK b) = 1 →
        ((f.length < 60 ∨ 2114 < f.length) → Completes (.bhFrameRx dt b f) s fun t => one 12 t ∧ OnlyRegs [0x150130] s t ∧ t.bhl = s.bhl ∧ t.shp = s.shp) ∧
        (60 ≤ f.length → f.length ≤ 2114 →
          (∀ q, pauseQuanta f s = some q → s.getF (F.BHL_PORT_CFG_PAUSE_RX b) = 1 → Completes (.bhFrameRx dt b f) s fun t => OnlyRegs [0x150018 + 4 * b.val] s t ∧
            t.getF (F.BHL_PORT_STATUS_PAUSED b) = (if q = 0 then 0 else 1) ∧ (q ≠ 0 → Sparse.get (fun _ => none) t.bhl.pauseEnd b.val = some (e.clk.now + pauseTicks (s.getF (F.BHL_PORT_STATUS_MODE b)) q))) ∧
          (pauseQuanta f s = none →
            (typeOffset b f s = none → Completes (.bhFrameRx dt b f) s fun t => one 12 t ∧ t.bhl = s.bhl ∧ t.shp = s.shp) ∧
            (∀ o, typeOffset b f s = some o →
              (stage1 f o s = none → Completes (.bhFrameRx dt b f) s fun t => t.bhl = s.bhl ∧
                (if (∃ k, ptpTransport f o = some k ∧ tsuTakes b k s = true) ∨ s.getF F.BHL_CFG_PASS_OTHER = 1 then one 11 t ∧ t.shp.entering.length = s.shp.entering.length + 1 else one 12 t ∧ t.shp = s.shp)) ∧
              (∀ r, stage1 f o s = some r →
                let len := recGet true r 2 2
                let w := recGet true r 4 2
                let form : Prop := recGet true r 0 1 = 1 ∧ w / 2 ^ 15 = 1 ∧ 48 ≤ len ∧ len ≤ 2048 ∧ len ≤ r.length ∧ w / 2 ^ 13 % 2 = 0 ∧ recGet true r 7 1 / 8 = 0 ∧ recGet true r 16 4 / 2 ^ 17 % 2 ^ 11 = 0
                let kind : Prop := 3 ≤ recGet true r 1 1 ∧ recGet true r 1 1 ≤ 5 ∧ recGet true r 6 1 = 0
                let slot := if w / 2 ^ 14 % 2 = 1 then s.getF F.BHL_KEYS_RX_SLOT1 else s.getF F.BHL_KEYS_RX_SLOT0
                let seq := recGet true r 8 8
                (¬form → Completes (.bhFrameRx dt b f) s fun t => dropped b scDenied 1 t ∧ one 6 t ∧ t.bhl.inbound = s.bhl.inbound) ∧
                (form → ¬kind → Completes (.bhFrameRx dt b f) s fun t => dropped b scDenied 2 t ∧ one 6 t ∧ t.bhl.inbound = s.bhl.inbound) ∧
                (form → kind → w % 1024 ≠ s.getF F.SLT_ADDR_RID → Completes (.bhFrameRx dt b f) s fun t => dropped b scDenied 3 t ∧ one 6 t ∧ t.bhl.inbound = s.bhl.inbound) ∧
                (form → kind → w % 1024 = s.getF F.SLT_ADDR_RID → s.getF F.CPH_STATUS_STATE ≠ 2 →
                  (∀ st d, keyRefusal slot permCmac s = some (st, d) → Completes (.bhFrameRx dt b f) s fun t => dropped b st 0 t ∧ t.bhl.inbound = s.bhl.inbound) ∧
                  (keyRefusal slot permCmac s = none →
                    let good : Prop := fit 16 (Config.cmac (s.slotOf slot).material (r.take (len - 16))) = (r.drop (len - 16)).take 16
                    let fresh : Prop := seq / 2 ^ 48 = bootsField s ∧ Sparse.get (fun _ => 0) s.bhl.lastSeq 0 < seq
                    (¬good → Completes (.bhFrameRx dt b f) s fun t => dropped b scAuthFail 0 t ∧ one 4 t ∧ t.bhl.inbound = s.bhl.inbound) ∧
                    (good → ¬fresh → Completes (.bhFrameRx dt b f) s fun t => dropped b scReplay 0 t ∧ one 5 t ∧ t.bhl.inbound = s.bhl.inbound) ∧
                    (good → fresh → Completes (.bhFrameRx dt b f) s fun t => Sparse.get (fun _ => 0) t.bhl.lastSeq 0 = seq ∧ t.bhl.inbound.length = s.bhl.inbound.length + 1 ∧ t.shp = s.shp))))))))) ∧
    (∀ src r, s.bhl.inbound.find? (fun x => x.2.type == rtDownlink) = some (src, r) →
      let c := fetchEntry r.nix e
      let ok : Prop := (entNat r.arg 4 1 = 0x31 ∨ entNat r.arg 4 1 = 0x32) ∧ dlPsduLen r.nix (r.body.length + 2) false c ≤ (if nodeMode r.nix c = 7 then 127 else 2047)
      (ok → Completes (.downlink dt) s fun t => one 3 t ∧ t.xch.nextDl = s.xch.nextDl + 1 ∧ t.shp.entering.length = s.shp.entering.length + 1 ∧ t.bhl.inbound = s.bhl.inbound.erase (src, r) ∧
        (t.dl s.xch.nextDl).map (fun d => (d.nix, d.cls, d.dlId)) = some (r.nix, r.cls, entNat r.arg 0 4)) ∧
      (¬ok → Completes (.downlink dt) s fun t => dropped src scDenied 4 t ∧ one 8 t ∧ one 6 t ∧ t.xch.nextDl = s.xch.nextDl ∧ t.shp.entering.length = s.shp.entering.length + 1 ∧ t.bhl.inbound = s.bhl.inbound.erase (src, r))) ∧
    (∀ src r, s.bhl.inbound.find? (fun x => x.2.type == rtFlood) = some (src, r) →
      let ttl := entNat r.arg 2 1
      ((ttl = 0 ∨ 15 < ttl) → Completes (.flood dt) s fun t => dropped src scDenied 4 t ∧ one 6 t ∧ t.shp = s.shp ∧ t.xch = s.xch) ∧
      (0 < ttl → ttl ≤ 15 → Completes (.flood dt) s fun t => one 3 t ∧ t.getF (F.FLD_CNT_COUNT 6) = (s.getF (F.FLD_CNT_COUNT 6) + 1) % 2 ^ 32 ∧ t.bhl.inbound = s.bhl.inbound.erase (src, r) ∧
        (ttl = 1 → t.shp = s.shp))) ∧
    (∀ src r, s.bhl.inbound.find? (fun x => x.2.type == rtConfirm) = some (src, r) →
      let hit := (s.xch.receipts.filterMap fun x => x.2.map fun y => (x.1, y)).find? fun x => x.2.nix == entNat r.body 0 4 && x.2.fc == entNat r.body 4 4 && !x.2.owed
      (r.body.length % 8 ≠ 0 → Completes (.confirm dt) s fun t => dropped src scDenied 4 t ∧ one 6 t ∧ t.xch = s.xch) ∧
      (r.body.length = 8 →
        (hit = none → Completes (.confirm dt) s fun t => one 3 t ∧ one 9 t ∧ t.xch = s.xch) ∧
        (∀ i x, hit = some (i, x) → Completes (.confirm dt) s fun t => one 3 t ∧ t.getF (F.BHL_CNT_COUNT 9) = s.getF (F.BHL_CNT_COUNT 9) ∧
          Sparse.get (fun _ => none) t.xch.receipts i = if x.rcpt then some { x with owed := true } else none))) ∧
    (∀ src r, s.bhl.inbound.find? (fun x => x.2.type == rtEthTx) = some (src, r) → Completes (.ethTx dt) s fun t =>
      one 3 t ∧ OnlyRegs [0x15010C] s t ∧ t.bhl.inbound = s.bhl.inbound.erase (src, r) ∧
        t.shp.entering = s.shp.entering ++ [⟨16 + entNat r.arg 0 1 % 2, r.cls, 0, 0, r.body.length + 4, e.clk.slot, .ether r.body, none⟩]) ∧
    (0 < s.getF F.BHL_CFG_HELLO_S → s.mode ≠ stReserve → s.bhl.helloAt + s.getF F.BHL_CFG_HELLO_S * sec ≤ e.clk.now → Completes (.hello dt) s fun t =>
      t.bhl.helloAt = t.clk.now ∧ t.shp.entering.length = s.shp.entering.length + 1 ∧ OnlyRegs [] s t ∧ (t.shp.entering.getLast?.map fun f => (f.port, f.cls, f.load)) = some (bhPort s, 5, .record ⟨rtHello, 5, 0, 0, 0, 0, leBytes 5 e.sen, []⟩ none))

/-- A ring count moves only for the host and within the ring; a waiting slot of an enabled ring starts its fetch, and a fetch that has all its bytes advances RD. A reset of the link disables every ring, clears the second pending word and the MSI-X tables and cancels no other job. A host read without a completion parks its job with DETAIL 0x04. A BAR2 read gives the bytes, zeros at or above U, or poisoned data; a BAR2 write changes its bytes alone, or nothing at or above U, in the catalogue area or in an uncorrectable word that it covers in part. -/
def Obligations.HostRingsAndBar2 : Prop :=
  ∀ (dt : Nat) (s : State), s.clk.running = true → s.clk.core = true → s.mode = stAutonomous →
    let fetching (t : Fin 16) : Bool := s.inFlight.any fun x => x.2.work == .hostTx t.val
    let begun (t : Fin 16) (i : Nat) (u : State) : Prop := (u.job i).map (fun x => (x.state, x.cls, x.work)) = some (jsReady, ecHDM, .hostTx t.val)
    (∀ (ring : Fin 16) (w : Word),
      let rd := s.getF (F.BHL_HTX_RD_VALUE ring)
      let room : Prop := (w.toNat + 2 ^ 32 - rd) % 2 ^ 32 ≤ txSize ring s
      (room → Completes (.hostTxWrWrite dt .host ring w) s fun t => t.reg (0x150508 + 16 * ring.val) = w ∧ t.dram = s.dram ∧
        (if s.getF (F.BHL_HTX_CFG_EN ring) = 1 ∧ w.toNat ≠ rd ∧ fetching ring = false then ∀ i, freeId s = some i → begun ring i t
          else OnlyRegs [0x150508 + 16 * ring.val] s t ∧ t.fab = s.fab)) ∧
      (¬room → Completes (.hostTxWrWrite dt .host ring w) s fun t => OnlyRegs [0x8] s t ∧ t.fab = s.fab) ∧
      (Completes (.hostTxWrWrite dt .curator ring w) s fun t => OnlyRegs [0x8] s t ∧ t.fab = s.fab) ∧
      (let wr := s.getF (F.BHL_HRX_WR_VALUE ring)
       ((wr + 2 ^ 32 - w.toNat) % 2 ^ 32 ≤ rxSize ring s → Completes (.hostRxRdWrite dt .host ring w) s fun t => t.reg (0x15040C + 16 * ring.val) = w ∧ OnlyRegs [0x15040C + 16 * ring.val] s t) ∧
       (rxSize ring s < (wr + 2 ^ 32 - w.toNat) % 2 ^ 32 → Completes (.hostRxRdWrite dt .host ring w) s fun t => OnlyRegs [0x8] s t) ∧
       (Completes (.hostRxRdWrite dt .curator ring w) s fun t => OnlyRegs [0x8] s t))) ∧
    (∀ ring : Fin 16,
      (fetching ring = false → s.getF (F.BHL_HTX_CFG_EN ring) = 1 → s.getF (F.BHL_HTX_WR_VALUE ring) ≠ s.getF (F.BHL_HTX_RD_VALUE ring) → ∀ i, freeId s = some i → Completes (.hostTxFetch dt ring) s (begun ring i)) ∧
      (∀ i j, s.inFlight.find? (fun x => x.2.work == .hostTx ring.val) = some (i, j) → j.state = jsRunning → isDma j.cls = true → (dmaArgOf j).len ≤ j.done → j.cancel = none → s.fab.waiting = [] →
        Completes (.hostTxFetch dt ring) s fun t => t.getF (F.BHL_HTX_RD_VALUE ring) = (s.getF (F.BHL_HTX_RD_VALUE ring) + 1) % 2 ^ 32 ∧ OnlyRing s t)) ∧
    (Completes (.pcieReset dt) s fun t => (∀ k < 16, t.getF (F.BHL_HRX_CFG_EN k) = 0 ∧ t.getF (F.BHL_HTX_CFG_EN k) = 0) ∧ (∀ e ∈ t.tabs, e.1 / 2 ^ 28 ≠ 15) ∧ t.dram = s.dram ∧
      ((s.inFlight.any fun e => match e.2.work with | .hostTx _ => true | _ => false) = false →
        t.fab = s.fab ∧ OnlyRegs (0x64 :: ((List.range 16).map fun k => 0x150400 + 16 * k) ++ ((List.range 16).map fun k => 0x150500 + 16 * k)) s t ∧ t.reg 0x64 = 0)) ∧
    (∀ (id : BitVec 12), ∀ j, s.job id.toNat = some j → j.state = jsRunning → j.cls = ecHDM → (dmaArgOf j).toDevice = true → j.done < (dmaArgOf j).len → j.cancel = none → j.work = .none → mapFault j (dmaArgOf j) = none →
      Completes (.hostReadTimeout dt id) s fun t => (t.job id.toNat).map (fun x => (x.state, x.status, x.detail, x.done)) = some (jsFaulted, scFaultMap, 4, j.done)) ∧
    (∀ (a : Word) (n : BitVec 13),
      (inDram a.toNat n.toNat s = true →
        (badWord a.toNat n.toNat s = none → Completes (.bar2Access dt a n none) s fun t => t.out.head? = some (.bar2 (s.bytes a.toNat n.toNat) false) ∧ OnlyRegs [] s t ∧ t.dram = s.dram) ∧
        (∀ x, badWord a.toNat n.toNat s = some x → Completes (.bar2Access dt a n none) s fun t => t.out.head? = some (.bar2 (s.bytes a.toNat n.toNat) true) ∧
          t.getF F.DRM_UE_CNT_COUNT = min (s.getF F.DRM_UE_CNT_COUNT + 1) (2 ^ 32 - 1) ∧ OnlyRegs ([0x11800C, 0x118014] ++ noticeRegs) s t ∧ OnlyRing s t)) ∧
      (inDram a.toNat n.toNat s = false → Completes (.bar2Access dt a n none) s fun t => t.out.head? = some (.bar2 (List.replicate n.toNat 0) false) ∧ OnlyRegs [0x1500A4] s t ∧ t.dram = s.dram ∧
        (s.getF F.BHL_HOST_ERR_VALID = 0 → t.reg 0x1500A4 = BitVec.ofNat 32 (2 ^ 31 + a.toNat / 4)))) ∧
    (∀ (a : Word) (n : BitVec 13) (b : List Byte),
      (inDram a.toNat b.length s = false → Completes (.bar2Access dt a n (some b)) s fun t => OnlyRegs [0x1500A4] s t ∧ t.dram = s.dram ∧
        (s.getF F.BHL_HOST_ERR_VALID = 0 → t.reg 0x1500A4 = BitVec.ofNat 32 (2 ^ 31 + 2 ^ 30 + a.toNat / 4))) ∧
      (inDram a.toNat b.length s = true → hitsCatalogue a.toNat b.length s = true → Completes (.bar2Access dt a n (some b)) s fun t => OnlyRegs [0x8] s t ∧ t.dram = s.dram) ∧
      (inDram a.toNat b.length s = true → hitsCatalogue a.toNat b.length s = false →
        (badPartial a.toNat b.length s = none → Completes (.bar2Access dt a n (some b)) s fun t =>
          (∀ k < b.length, ¬inNoticeRing (a.toNat + k) s → t.byte (a.toNat + k) = b.getD k 0) ∧
            (∀ x : Nat, (x < a.toNat ∨ a.toNat + b.length ≤ x) → ¬inNoticeRing x s → t.byte x = s.byte x)) ∧
        (∀ x, badPartial a.toNat b.length s = some x → Completes (.bar2Access dt a n (some b)) s fun t => t.getF F.DRM_UE_CNT_COUNT = min (s.getF F.DRM_UE_CNT_COUNT + 1) (2 ^ 32 - 1) ∧
          (∀ k < 8, ¬inNoticeRing (8 * x + k) s → t.byte (8 * x + k) = s.byte (8 * x + k)))))

/-- A unit without a pair root key, or without CORE, takes no part. A wire frame carries the fields and the CRC, a lane heartbeat the fields of the role. A received heartbeat with the own PAIR_ID is a conflict; a valid one shows the partner's role and request, brings its path UP and counts; a third request declares failure. The 8th miss takes a path DOWN and the pair state with it; at the reserve the second path declares failure. A probe confirms or not, PAIR_ID 1 yields, and PAIR_ID 0 enters the safe state after 20 ms. -/
def Obligations.HeartbeatsAndOwnership : Prop :=
  ∀ (dt : Nat) (s : State),
    let e := s.elapse dt
    let same (t : State) : Prop := OnlyRegs [] s t ∧ t.pair = s.pair ∧ t.out = s.out ∧ t.dram = s.dram
    let cnt (k : Nat) (t : State) : Prop := t.getF (F.PAR_CNT_COUNT k) = if s.mode = stFrozen then s.getF (F.PAR_CNT_COUNT k) else (s.getF (F.PAR_CNT_COUNT k) + 1) % 2 ^ 32
    let conflict (t : State) : Prop := if s.mode = stFrozen then same t else t.getF F.PAR_STATUS_CONFLICT = 1 ∧ t.pair.conflictSeen = true ∧ OnlyRing s t ∧ OnlyRegs (0x160004 :: if s.pair.conflictSeen = true then [] else noticeRegs) s t
    let wireOf (o : Option Out) : Nat := match o with | some (.hbWire b) => b.foldl (fun x y => x * 256 + y.toNat) 0 | _ => 0
    let other (lane : Bool) : Nat := s.getF (if lane then F.PAR_STATUS_WIRE_UP else F.PAR_STATUS_LANE_UP)
    (pairs s = false → (∀ (h : LaneHb) (f : BitVec 16) (q : Word) (b : Bool), Completes (.hbWireSend dt) s same ∧ Completes (.hbLaneSend dt) s same ∧ Completes (.hbWireRx dt f) s same ∧ Completes (.hbLaneRx dt h b q) s same ∧ Completes (.hbPathCheck dt b) s same)) ∧
    (pairs s = true → s.pair.wireSeq < 32 → Completes (.hbWireSend dt) s fun t =>
      t.pair.wireSeq = (s.pair.wireSeq + 1) % 32 ∧ cnt 1 t ∧ OnlyRegs [0x160104] s t ∧
        let f := wireOf t.out.head?
        f < 2 ^ 16 ∧ f / 2 ^ 14 = 2 ∧ f / 2 ^ 13 % 2 = bit s.pair.id ∧ f / 2 ^ 11 % 4 = pairRole s ∧ f / 2 ^ 10 % 2 = bit s.pair.request ∧ f / 2 ^ 9 % 2 = s.getF F.PAR_HB_STATUS_LANE_UP ∧ f / 2 ^ 4 % 32 = s.pair.wireSeq ∧ f % 16 = crc4 (f / 16) 12 15) ∧
    (pairs s = true → s.pair.session = true → s.mode ≠ stFrozen → s.pair.fseqTx + 1 < 0xFFFFFFFF → Completes (.hbLaneSend dt) s fun t =>
      t.pair.laneSeq = (s.pair.laneSeq + 1) % 2 ^ 32 ∧ t.pair.fseqTx = s.pair.fseqTx + 1 ∧ cnt 0 t ∧ OnlyRegs [0x160100] s t ∧ t.out.head? = some (.lane 2 (s.pair.fseqTx + 1) (hbFields e)) ∧
        (hbFields e).length = 22 ∧ (hbFields e).take 4 = [pairRole s, bit s.pair.id + 2 * bit s.pair.request + 4 * (if s.mode = stAutonomous ∧ s.journal = 1 then 1 else 0), s.pair.laneSeq, s.fuses.serial] ∧
        (s.mode ≠ stAutonomous → (hbFields e).drop 4 = [0, 0, 0, 0, 0, if s.mode = stReserve then s.jposAck else 0] ++ List.replicate 9 0 ++ (hbFields e).drop 19) ∧
        (s.mode ≠ stReserve → (hbFields e).drop 19 = [0, 0, 0])) ∧
    (pairs s = true → (s.pair.session = false ∨ s.mode = stFrozen) → Completes (.hbLaneSend dt) s same) ∧
    (pairs s = true → ∀ f : BitVec 16,
      let w := f.toNat
      let req : Prop := w / 2 ^ 10 % 2 = 1
      ((w / 2 ^ 14 ≠ 2 ∨ wireFrame (w / 16) ≠ w) → Completes (.hbWireRx dt f) s fun t => cnt 4 t ∧ OnlyRegs [0x160110] s t ∧ t.pair = s.pair ∧ t.dram = s.dram) ∧
      (w / 2 ^ 14 = 2 → wireFrame (w / 16) = w → w / 2 ^ 13 % 2 = bit s.pair.id → Completes (.hbWireRx dt f) s conflict) ∧
      (w / 2 ^ 14 = 2 → wireFrame (w / 16) = w → w / 2 ^ 13 % 2 ≠ bit s.pair.id → Completes (.hbWireRx dt f) s fun t =>
        t.getF F.PAR_HB_STATUS_PEER_ROLE = w / 2 ^ 11 % 4 ∧ t.getF F.PAR_HB_STATUS_PEER_REQ = w / 2 ^ 10 % 2 ∧ t.getF F.PAR_HB_STATUS_WIRE_MISS = 0 ∧ t.pair.wireGot = true ∧ t.getF F.PAR_HB_STATUS_WIRE_UP = 1 ∧ cnt 3 t ∧
          (s.getF F.PAR_HB_STATUS_WIRE_UP = 0 → s.mode ≠ stFrozen → t.getF F.PAR_STATUS_WIRE_UP = 1 ∧ t.pairState = if s.getF F.PAR_STATUS_LANE_UP = 1 then pairOk else pairDegraded) ∧
          (s.mode = stFrozen → t.reg 0x160004 = s.reg 0x160004) ∧
          OnlyRegs ([0x160004, 0x168000, 0x16010C] ++ (if s.pair.claimAt.isSome = true then [0x16012C] else []) ++ noticeRegs) s t ∧ OnlyRing s t ∧
          (w / 2 ^ 11 % 4 = 1 → t.pair.leadAt = some e.clk.now ∧ (s.mode = stReserve → t.pair.claimAt = none)) ∧
          (w / 2 ^ 11 % 4 ≠ 1 → t.pair.leadAt = s.pair.leadAt ∧ t.pair.claimAt = s.pair.claimAt) ∧
          t.pair.wireReq = (if req then s.pair.wireReq + 1 else 0) ∧
          (req → 2 ≤ s.pair.wireReq → s.mode = stReserve → s.pair.takeover = none → s.drivesOwn = false → t.pair.takeover.map (fun x => (x.declared, x.request)) = some (e.clk.now, true)))) ∧
    (pairs s = true → s.mode ≠ stFrozen → ∀ (h : LaneHb) (ok : Bool) (q : Word),
      (laneTakes ok q.toNat s = false → Completes (.hbLaneRx dt h ok q) s fun t => cnt 5 t ∧ OnlyRegs [0x160114] s t ∧ t.pair = s.pair) ∧
      (laneTakes ok q.toNat s = true →
        (h.pairId = s.pair.id → Completes (.hbLaneRx dt h ok q) s fun t => conflict t ∧ t.pair.fseqRx = q.toNat) ∧
        (h.pairId ≠ s.pair.id → h.serial.toNat ≠ s.get64 F.PAR_PEER_SERIAL_LO_SERIAL F.PAR_PEER_SERIAL_HI_SERIAL → Completes (.hbLaneRx dt h ok q) s fun t => cnt 5 t ∧ OnlyRegs [0x160114] s t ∧ t.pair.fseqRx = q.toNat) ∧
        (h.pairId ≠ s.pair.id → h.serial.toNat = s.get64 F.PAR_PEER_SERIAL_LO_SERIAL F.PAR_PEER_SERIAL_HI_SERIAL → Completes (.hbLaneRx dt h ok q) s fun t =>
          cnt 2 t ∧ t.getF F.PAR_HB_STATUS_PEER_ROLE = h.role.val ∧ t.getF F.PAR_HB_STATUS_PEER_REQ = bit h.req ∧ t.getF F.PAR_HB_STATUS_LANE_MISS = 0 ∧ t.pair.laneGot = true ∧ t.getF F.PAR_HB_STATUS_LANE_UP = 1 ∧ (s.getF F.PAR_HB_STATUS_LANE_UP = 0 → t.getF F.PAR_STATUS_LANE_UP = 1) ∧ OnlyRing s t ∧
            t.pair.laneReq = (if h.req = true then s.pair.laneReq + 1 else 0) ∧
            (s.mode = stReserve → t.pair.fseqRx = q.toNat ∧ (h.role.val = 1 → t.pair.laneLost = false ∧ t.pair.lead.map (fun l => (l.at_, l.jvalid, l.slot, l.bound, l.sen)) = some (e.clk.now, h.jvalid, h.slot.toNat, h.bound.toNat, h.sen.toNat))) ∧
            (s.mode = stAutonomous → h.role.val = 2 → t.getF F.PAR_STATUS_SYNC = h.sync.val ∧
              (∀ p j, s.pair.snap = some (p, j) → (if s.getF F.PAR_SNAP_SLOT = 1 then h.seqB.toNat else h.seqA.toNat) = p → s.pair.snapKept = false → t.journal = 1 ∧ t.pair.snap = none ∧ t.getF F.PAR_SNAP_BUSY = 0 ∧ cnt 6 t))))) ∧
    (pairs s = true → ∀ lane : Bool,
      let up := s.getF (if lane then F.PAR_HB_STATUS_LANE_UP else F.PAR_HB_STATUS_WIRE_UP)
      let miss := s.getF (if lane then F.PAR_HB_STATUS_LANE_MISS else F.PAR_HB_STATUS_WIRE_MISS)
      let got := if lane then s.pair.laneGot else s.pair.wireGot
      (got = true → Completes (.hbPathCheck dt lane) s fun t => OnlyRegs [] s t ∧ (if lane then t.pair.laneGot else t.pair.wireGot) = false) ∧
      (got = false → Completes (.hbPathCheck dt lane) s fun t => t.getF (if lane then F.PAR_HB_STATUS_LANE_MISS else F.PAR_HB_STATUS_WIRE_MISS) = min 8 (miss + 1) ∧ t.mode = s.mode ∧
        ((miss + 1 < 8 ∨ up = 0) → OnlyRegs [0x168000] s t ∧ t.pair = s.pair) ∧
        (7 ≤ miss → up = 1 → s.mode = stFrozen → OnlyRegs [0x168000] s t ∧ t.getF (if lane then F.PAR_HB_STATUS_LANE_UP else F.PAR_HB_STATUS_WIRE_UP) = 0) ∧
        (7 ≤ miss → up = 1 → s.mode ≠ stFrozen → OnlyRing s t ∧ t.getF (if lane then F.PAR_HB_STATUS_LANE_UP else F.PAR_HB_STATUS_WIRE_UP) = 0 ∧ t.getF (if lane then F.PAR_STATUS_LANE_UP else F.PAR_STATUS_WIRE_UP) = 0 ∧ t.pairState = (if other lane = 1 then pairDegraded else pairAlone) ∧
          (s.mode = stReserve → s.pair.takeover = none → s.drivesOwn = false → t.pair.takeover.map (fun x => (x.declared, x.request)) = if other lane = 1 then none else some (e.clk.now, false)) ∧
          (s.mode = stAutonomous → lane = true → t.journal = 2 ∧ t.pair.snap = none ∧ t.pair.takeover = s.pair.takeover)))) ∧
    (s.drivesOwn = false → ∀ held, Completes (.ownNProbe dt held) s same) ∧
    (s.drivesOwn = true → s.mode = stFrozen → ∀ held, Completes (.ownNProbe dt held) s fun t => OnlyRegs [] s t ∧ t.pair = { s.pair with otherHolds := held }) ∧
    (s.drivesOwn = true → s.mode ≠ stFrozen →
      (Completes (.ownNProbe dt false) s fun t => t.getF F.PAR_STATUS_CONFIRMED = 1 ∧ OnlyRegs [0x160004] s t ∧ t.pair.otherHolds = false ∧ t.pair.unconfAt = none) ∧
      (s.fuses.pairRoot = true → s.pair.id = false → Completes (.ownNProbe dt true) s fun t =>
        t.getF F.PAR_STATUS_CONFIRMED = 0 ∧ t.getF (F.PAR_CNT_COUNT 12) = (s.getF (F.PAR_CNT_COUNT 12) + 1) % 2 ^ 32 ∧ OnlyRegs [0x160004, 0x160130] s t ∧ t.pair.otherHolds = true ∧ t.pair.unconfAt = some (s.pair.unconfAt.getD e.clk.now)) ∧
      (s.fuses.pairRoot = true → s.pair.id = true → Completes (.ownNProbe dt true) s fun t => t.mode = stReserve ∧ t.drivesOwn = false ∧ t.getF F.TOP_STATUS_ROLE = 1 ∧ t.getF F.PAR_STATUS_CONFIRMED = 0)) ∧
    (∀ u x, s.pair.unconfAt = some u → s.pair.unconfTx = some x → s.drivesOwn = true → s.pair.id = false →
      (x + 20 * ms ≤ e.clk.now → s.mode = stAutonomous → s.getF F.SAF_STATUS_SAFE = 0 → Completes (.dualActive dt) s fun t =>
        t.mode = stSafeHold ∧ t.pins.safeN = true ∧ t.drivesOwn = false ∧ bitsOf (t.reg 0x170000) 10 10 = 1 ∧ t.pair.unconfAt = none) ∧
      (e.clk.now < x + 20 * ms → Completes (.dualActive dt) s same))

/-- A link-up sends a HELLO with a new nonce, and the partner's HELLO opens the session when its CMAC verifies; a later one renews it. At the reserve a WRITE that verifies inside the pair area puts its bytes there and nothing else; in the journal it is acknowledged, in a slot it must be in ascending order, and the trailer makes the slot valid or not; any other is dropped and counted. A JACK moves the position and ends what waited for it, and a late one takes the lane DOWN. A snapshot starts by its time or the owner's command and is kept while one runs. A takeover restores the newest slot whose registers apply and enters AUTONOMOUS, and with none it restarts. -/
def Obligations.LaneAndTakeover : Prop :=
  ∀ (dt : Nat) (s : State),
    let e := s.elapse dt
    let same (t : State) : Prop := OnlyRegs [] s t ∧ t.pair = s.pair ∧ t.out = s.out ∧ t.dram = s.dram
    let one (k : Nat) (t : State) : Prop := t.getF (F.PAR_CNT_COUNT k) = (s.getF (F.PAR_CNT_COUNT k) + 1) % 2 ^ 32
    let hello (t : State) : Prop := t.out.head? = some (.lane 1 0 [s.fuses.serial, bit s.pair.id, t.pair.nonceTx]) ∧ t.pair.fseqTx = 0 ∧ t.pair.fseqRx = 0
    let slot (b : Bool) (t : State) : Option (Nat × Nat) := if b then t.pair.slotB else t.pair.slotA
    let pos (b : Bool) (t : State) : Nat := if b then t.pair.posB else t.pair.posA
    (pairs s = true → s.mode ≠ stFrozen → ∀ (n : BitVec 128) (ok : Bool),
      (Completes (.laneLinkUp dt n ok) s fun t => hello t ∧ t.pair.linkUp = true ∧ t.pair.session = ok ∧ t.pair.nonceRx = n.toNat ∧ (if ok then OnlyRegs [] s t else one 5 t ∧ OnlyRegs [0x160114] s t)) ∧
      (s.pair.linkUp = true → ok = true → Completes (.laneHelloRx dt n ok) s fun t => hello t ∧ t.pair.session = true ∧ t.pair.nonceRx = n.toNat ∧ OnlyRegs [] s t) ∧
      (s.pair.linkUp = true → ok = false → Completes (.laneHelloRx dt n ok) s fun t => one 5 t ∧ OnlyRegs [0x160114] s t ∧ t.pair = s.pair) ∧
      (s.pair.linkUp = false → Completes (.laneHelloRx dt n ok) s same)) ∧
    (∀ (a : Word) (d : List Byte) (ok : Bool) (q : Word),
      ((pairs s = false ∨ s.mode ≠ stReserve) → Completes (.laneWriteRx dt a d ok q) s same) ∧
      (pairs s = true → s.mode = stReserve →
        (laneTakes ok q.toNat s = false → Completes (.laneWriteRx dt a d ok q) s fun t => one 5 t ∧ OnlyRegs [0x160114] s t ∧ t.pair = s.pair ∧ t.dram = s.dram) ∧
        (laneTakes ok q.toNat s = true → inPairArea a.toNat d.length = false → Completes (.laneWriteRx dt a d ok q) s fun t => one 5 t ∧ OnlyRegs [0x160114] s t ∧ t.pair.fseqRx = q.toNat ∧ t.dram = s.dram) ∧
        (laneTakes ok q.toNat s = true → inPairArea a.toNat d.length = true →
          (Completes (.laneWriteRx dt a d ok q) s fun t =>
            (∀ k < d.length, ¬inNoticeRing (a.toNat + k) s → t.byte (a.toNat + k) = d.getD k 0) ∧ (∀ x : Nat, (x < a.toNat ∨ a.toNat + d.length ≤ x) → ¬inNoticeRing x s → t.byte x = s.byte x)) ∧
          (0x30000000 ≤ a.toNat → s.pair.fseqTx + 1 < 0xFFFFFFFF → Completes (.laneWriteRx dt a d ok q) s fun t => t.pair.fseqRx = q.toNat ∧
            t.jposAck = (if s.jposAck % jring = a.toNat - 0x30000000 then (s.jposAck + d.length) % 2 ^ 64 else s.jposAck) ∧ t.out.head? = some (.lane 4 (s.pair.fseqTx + 1) [t.jposAck]) ∧ OnlyRegs [0x160030, 0x160034] s t) ∧
          (∀ b : Bool, slotBase b ≤ a.toNat → a.toNat < slotBase b + 0x10000000 →
            let o := a.toNat - slotBase b
            (o < coveredLen → o = pos b s → Completes (.laneWriteRx dt a d ok q) s fun t => pos b t = o + d.length ∧ t.pair.slotA = s.pair.slotA ∧ t.pair.slotB = s.pair.slotB ∧ OnlyRegs [0x160030, 0x160034] s t) ∧
            (o < coveredLen → o ≠ pos b s → Completes (.laneWriteRx dt a d ok q) s fun t => slot b t = none ∧ slot (!b) t = slot (!b) s ∧ t.getF (if b then F.PAR_STATUS_B_VALID else F.PAR_STATUS_A_VALID) = 0) ∧
            (trailerAt ≤ o → pos b s = coveredLen → trailerOk b d s = true → Completes (.laneWriteRx dt a d ok q) s fun t =>
              slot b t = some (entNat d 4 8, s.leAt (slotBase b + 8) 8) ∧ t.getF (if b then F.PAR_STATUS_B_VALID else F.PAR_STATUS_A_VALID) = 1 ∧ t.getF F.PAR_STATUS_SYNC = 2 ∧ slot (!b) t = slot (!b) s) ∧
            (trailerAt ≤ o → pos b s ≠ coveredLen → Completes (.laneWriteRx dt a d ok q) s fun t => slot b t = none ∧ pos b t = 0 ∧ slot (!b) t = slot (!b) s))))) ∧
    (pairs s = true → s.mode ≠ stFrozen → ∀ (p : BitVec 64) (ok : Bool) (q : Word),
      (laneTakes ok q.toNat s = false → Completes (.laneJackRx dt p ok q) s fun t => one 5 t ∧ OnlyRegs [0x160114] s t ∧ t.pair = s.pair) ∧
      (laneTakes ok q.toNat s = true → Completes (.laneJackRx dt p ok q) s fun t => t.jposAck = max s.jposAck p.toNat ∧ t.pair.fseqRx = q.toNat ∧ OnlyRegs [0x160030, 0x160034, 0x160134] s t ∧
        t.pair.jackWait = s.pair.jackWait.filter (fun x => decide (p.toNat < x.1)) ∧
        t.getF (F.PAR_CNT_COUNT 13) = (s.getF (F.PAR_CNT_COUNT 13) + (s.pair.jackWait.filter fun x => decide (x.1 ≤ p.toNat) && decide (x.2 + 20 * us < e.clk.now)).length) % 2 ^ 32)) ∧
    (∀ x r, s.pair.jackWait = x :: r → s.mode = stAutonomous → s.getF F.PAR_STATUS_LANE_UP = 1 →
      (x.2 + 220 * us < e.clk.now → Completes (.jackTimeout dt) s fun t => t.getF F.PAR_STATUS_LANE_UP = 0 ∧ t.journal = 2 ∧ t.pair.jackWait = [] ∧ t.pair.snap = none ∧ t.mode = stAutonomous ∧ OnlyRing s t) ∧
      (e.clk.now ≤ x.2 + 220 * us → Completes (.jackTimeout dt) s same)) ∧
    (let ready : Prop := s.getF F.PAR_STATUS_LANE_UP = 1 ∧ s.mode = stAutonomous ∧ pairOk ≤ s.pairState
     let due : Prop := pairs s = true ∧ s.pair.snapAt + s.getF F.PAR_CFG_SNAP_S * sec ≤ e.clk.now
     let q := match newestSnap s with | some (q, _, _) => q + 1 | none => 1
     let b := match newestSnap s with | some (_, b, _) => !b | none => false
     let begun (t : State) : Prop := t.pair.snap = some (q, s.jposWr) ∧ t.pair.snapAt = e.clk.now ∧ slot b t = none ∧ slot (!b) t = slot (!b) s ∧ t.getF F.PAR_SNAP_BUSY = 1 ∧ t.getF F.PAR_SNAP_SLOT = bit b ∧ t.getF F.PAR_SNAP_DONE_MIB = 0 ∧
       OnlyRegs [0x160010] s t ∧ (s.pair.fseqTx + 1 < 0xFFFFFFFF → t.out.head? = some (.lane 3 (s.pair.fseqTx + 1) [slotBase b + trailerAt]))
     let kept (t : State) : Prop := t.pair.snapKept = true ∧ t.pair.snap = s.pair.snap ∧ OnlyRegs [] s t
     (due → ready → s.pair.snap = none → Completes (.snapTimer dt) s begun) ∧ (due → ready → s.pair.snap.isSome = true → Completes (.snapTimer dt) s kept) ∧ ((¬due ∨ ¬ready) → Completes (.snapTimer dt) s same) ∧
     (s.clk.core = true → ∀ (m : Master) (w : Word),
       (ready → s.owns m = true → w.getLsbD 0 = true → s.pair.snap = none → Completes (.snapNow dt m w) s begun) ∧ (ready → s.owns m = true → w.getLsbD 0 = true → s.pair.snap.isSome = true → Completes (.snapNow dt m w) s kept) ∧
       (s.mode = stAutonomous → s.owns m = true → w.getLsbD 0 = false → Completes (.snapNow dt m w) s same) ∧ (s.mode = stAutonomous → s.owns m = false → Completes (.snapNow dt m w) s fun t => OnlyRegs [0x8] s t ∧ t.pair = s.pair))) ∧
    (∀ (va vb : SlotView) (f : List (Fin 16 × Fin 3)),
      ((s.pair.takeover = none ∨ s.mode ≠ stReserve ∨ s.drivesOwn = false) → Completes (.takeoverRestore dt va vb f) s same) ∧
      (s.mode = stReserve → s.drivesOwn = true → ∀ x, s.pair.takeover = some x →
        let led (b : Bool) (t : State) : Prop := t.mode = stAutonomous ∧ t.getF F.TOP_STATUS_ROLE = 0 ∧ t.getF F.PAR_TKO_LAST_CAUSE = bit x.request ∧ t.getF F.PAR_TKO_LAST_SLOT = bit b ∧ t.pair.takeover = none ∧ t.pair.slotA = none ∧ t.pair.slotB = none ∧ t.pair.request = false ∧
          (t.pair.tkoBeacon = none ∨ t.pair.tkoBeacon.map (·.1) = some x.declared)
        (validSlots s = [] → Completes (.takeoverRestore dt va vb f) s fun t => t.mode = stStarting ∧ t.step = 2) ∧
        (∀ b j r, validSlots s = (b, j) :: r →
          ((restoreRegs b e).isSome = true → Completes (.takeoverRestore dt va vb f) s (led b)) ∧
          (restoreRegs b e = none → (∀ y ∈ r, (restoreRegs y.1 e).isSome = true → Completes (.takeoverRestore dt va vb f) s (led y.1)) ∧
            ((∀ y ∈ r, restoreRegs y.1 e = none) → Completes (.takeoverRestore dt va vb f) s fun t => t.mode = stStarting ∧ t.step = 2)))))

/-- A clock window shows which clocks pass their checks, and a clock that fails for the first time is latched and leads to the safe state. So do a supply out of range, ten hot samples in a row, and a parity error, which erases the key slots when it lies in one. A fault in the safe state adds its cause. The owner's exit is accepted under its conditions alone, and a monitor test of the owner runs and sets its result. -/
def Obligations.MonitorsAndSafeExit : Prop :=
  ∀ (dt : Nat) (s : State),
    let e := s.elapse dt
    let same (t : State) : Prop := OnlyRegs [] s t ∧ t.saf = s.saf ∧ t.key = s.key ∧ t.dram = s.dram
    let safe (c : Nat) (t : State) : Prop := t.mode = stSafeHold ∧ t.pins.safeN = true ∧ t.getF F.SAF_STATUS_SAFE = 1 ∧ bitsOf (t.reg 0x170000) c c = 1 ∧ (causeResetOnly c = true → t.getF F.SAF_STATUS_RESET_ONLY = 1)
    let react (c : Nat) (t : State) : Prop := (s.mode = stAutonomous → s.getF F.SAF_STATUS_SAFE = 0 → safe c t) ∧ (s.getF F.SAF_STATUS_SAFE = 1 → t.mode = s.mode ∧ t.pins = s.pins ∧ bitsOf (t.reg 0x170000) c c = 1)
    let one (k : Nat) (t : State) : Prop := t.getF (F.SAF_CNT_COUNT k) = (s.getF (F.SAF_CNT_COUNT k) + 1) % 2 ^ 32
    (∀ (counts pulses : List Nat) (locked : Bool),
      let bad := clockFaults counts pulses e + (if locked then 0 else 256)
      let live := bad &&& (s.reg 0x10000).toNat
      (∀ c ∈ monClocks, (bad / 2 ^ c.1 % 2 = 1 ↔ monitored c.1 s = true ∧ clockOk c.2.1 c.2.2 (counts.getD c.1 c.2.1) (pulses.getD c.1 (c.2.2 * 100)) = false)) ∧
      ((s.clk.monitor = false ∨ s.mode = stHibernate ∨ s.mode = stFrozen) → Completes (.clkMonWindow dt counts pulses locked) s same) ∧
      (s.clk.monitor = true → s.mode ≠ stHibernate → s.mode ≠ stFrozen → Completes (.clkMonWindow dt counts pulses locked) s fun t =>
        (live = 0 → OnlyRegs [0x10000, 0x4] s t ∧ t.saf = s.saf ∧ t.dram = s.dram ∧ t.getF F.CLK_STATUS_DIV_OK = 63 - bad % 64 ∧ t.getF F.CLK_STATUS_REF_OK = 1 - bad / 64 % 2 ∧ t.getF F.CLK_STATUS_ROOT_LOCK = bit locked) ∧
        (live ≠ 0 → react 4 t ∧ t.reg 0x10004 = s.reg 0x10004 ||| BitVec.ofNat 32 live))) ∧
    (s.clk.core = true → s.mode = stSafeHold → ∀ (m : Master) (w : Word),
      (s.owns m = true → bitsOf w 15 0 = 0x7184 → exitOk s = true → Completes (.safeExit dt m w) s fun t =>
        t.mode = stAutonomous ∧ t.pins.safeN = false ∧ t.getF F.SAF_STATUS_SAFE = 0 ∧ t.getF F.SAF_STATUS_CAUSE = 0 ∧ t.getF F.TOP_STATUS_SAFE = 0 ∧ one 1 t ∧ (∀ n : Fin 16, t.pstate n ≠ psQuiet)) ∧
      (s.owns m = true → bitsOf w 15 0 = 0x7184 → exitOk s = false → Completes (.safeExit dt m w) s fun t => one 2 t ∧ t.reg 0x8 ≠ 0 ∧ OnlyRegs [0x8, 0x170108] s t ∧ t.saf = s.saf ∧ t.pins = s.pins) ∧
      (s.owns m = true → bitsOf w 15 0 ≠ 0x7184 → Completes (.safeExit dt m w) s same) ∧
      (s.owns m = false → Completes (.safeExit dt m w) s fun t => OnlyRegs [0x8] s t ∧ t.saf = s.saf ∧ t.pins = s.pins)) ∧
    (∀ i : Fin 4,
      ((monitorsRun s = false ∨ s.getF ⟨0x170008, i.val, i.val⟩ = 1) → Completes (.supplyFault dt i) s same) ∧
      (monitorsRun s = true → s.getF ⟨0x170008, i.val, i.val⟩ = 0 → Completes (.supplyFault dt i) s fun t => t.getF ⟨0x170008, i.val, i.val⟩ = 1 ∧
        (if s.mode = stStarting ∧ 2 ≤ i.val then OnlyRegs [0x170008] s t else react 7 t ∧ one 5 t)) ∧
      (s.mode = stFrozen → Completes (.supplyInRange dt i) s same) ∧
      (s.mode ≠ stFrozen → Completes (.supplyInRange dt i) s fun t => t.getF ⟨0x170008, i.val, i.val⟩ = 0 ∧ OnlyRegs [0x170008] s t)) ∧
    (∀ ts : List Int,
      (monitorsRun s = false → Completes (.tempSample dt ts) s same) ∧
      (monitorsRun s = true → Completes (.tempSample dt ts) s fun t => t.getF F.SAF_MON_TJ_MAX = ofSigned 8 (hottest ts) ∧ t.saf.hot = (if 115 < hottest ts then s.saf.hot + 1 else 0) ∧ t.saf.cool = (if hottest ts ≤ 105 then s.saf.cool + 1 else 0) ∧
        (s.getF F.SAF_MON_TEMP_FAULT = 1 → OnlyRegs [0x170008] s t ∧ t.getF F.SAF_MON_TEMP_FAULT = (if hottest ts ≤ 105 ∧ 999 ≤ s.saf.cool then 0 else 1)) ∧
        (s.getF F.SAF_MON_TEMP_FAULT = 0 → (if 115 < hottest ts ∧ 9 ≤ s.saf.hot then t.getF F.SAF_MON_TEMP_FAULT = 1 ∧ one 6 t ∧ react 8 t else OnlyRegs [0x170008] s t)))) ∧
    (∀ bad : List ParityAt,
      ((monitorsRun s = false ∨ bad = []) → Completes (.parityWalk dt bad) s same) ∧
      (monitorsRun s = true → bad ≠ [] → s.mode = stAutonomous → s.getF F.SAF_STATUS_SAFE = 0 → Completes (.parityWalk dt bad) s (safe 5)) ∧
      (monitorsRun s = true → (bad.all fun x => match x with | .word _ => true | .key _ => false) = true → Completes (.parityWalk dt bad) s fun t => t.getF (F.SAF_CNT_COUNT 4) = (s.getF (F.SAF_CNT_COUNT 4) + bad.length) % 2 ^ 32) ∧
      (monitorsRun s = true → (bad.all fun x => match x with | .word _ => true | .key _ => false) = false → Completes (.parityWalk dt bad) s fun t => (List.range 256).all (fun k => (t.slotOf k).full = false) = true)) ∧
    (s.clk.core = true → ∀ (m : Master) (w : Word),
      let takes : Prop := s.owns m = true ∧ s.mode = stAutonomous ∧ s.getF F.SAF_TEST_BUSY = 0 ∧ bitsOf w 3 0 ≤ 6
      (takes → Completes (.safTest dt m w) s fun t => t.getF F.SAF_TEST_TARGET = bitsOf w 3 0 ∧ OnlyRegs [0x170010] s t ∧
        (if w.getLsbD 31 = true then t.getF F.SAF_TEST_BUSY = 1 ∧ t.saf.test = some (bitsOf w 3 0, e.clk.now) else t.getF F.SAF_TEST_BUSY = 0 ∧ t.saf = s.saf)) ∧
      (¬takes → Completes (.safTest dt m w) s fun t => OnlyRegs [0x8] s t ∧ t.saf = s.saf)) ∧
    (s.saf.test = none → ∀ d, Completes (.safTestDone dt d) s same) ∧
    (s.mode = stFrozen → ∀ d, Completes (.safTestDone dt d) s same) ∧
    (∀ k x, s.saf.test = some (k, x) → s.mode ≠ stFrozen → k ≤ 6 →
      (Completes (.safTestDone dt true) s fun t => t.saf.test = none ∧ t.getF F.SAF_TEST_BUSY = 0 ∧ bitsOf (t.reg 0x170014) k k = 1 ∧ bitsOf (t.reg 0x170014) (8 + k) (8 + k) = 0 ∧ one 7 t ∧ OnlyRegs [0x170010, 0x170014, 0x17011C] s t) ∧
      (Completes (.safTestDone dt false) s fun t => t.saf.test = none ∧ t.getF F.SAF_TEST_BUSY = 0 ∧ bitsOf (t.reg 0x170014) k k = 0 ∧ bitsOf (t.reg 0x170014) (8 + k) (8 + k) = 1 ∧ one 8 t ∧ t.mode = s.mode ∧ OnlyRegs ([0x170010, 0x170014, 0x170120] ++ noticeRegs) s t ∧ OnlyRing s t))

/-- Freeze latches its source, the causes, the slot clock and the stamp, stops the divided clocks, asserts SAFE_N, zeroises the keys and releases OWN_N, and keeps DRAM; a state that cannot freeze is unchanged. The curator alone selects a chunk, in FROZEN alone; its fetch puts the chunk's words into FRZ_VDATA or zeros beyond the region, and the read of FRZ_VDATA15 advances. CFG_NVM_CTRL releases and takes the flash for a master that may write it. -/
def Obligations.FreezeVitrineAndNvmRelease : Prop :=
  ∀ (dt : Nat) (s : State),
    let e := s.elapse dt
    let same (t : State) : Prop := OnlyRegs [] s t ∧ t.frz = s.frz ∧ t.key = s.key ∧ t.dram = s.dram
    let frozen (src : Nat) (edge : Bool) (t : State) : Prop := t.mode = stFrozen ∧ t.getF F.FRZ_STATUS_FROZEN = 1 ∧ t.getF F.FRZ_STATUS_EDGE_OK = bit (edge && s.clk.running) ∧ t.getF F.FRZ_STATUS_SOURCE = src ∧ t.getF F.FRZ_STATUS_CAUSE = s.getF F.SAF_STATUS_CAUSE ∧
      t.get64 F.FRZ_SC_LO_VALUE F.FRZ_SC_HI_VALUE = e.clk.slot % 2 ^ 64 ∧ t.get64 F.FRZ_STAMP_LO_VALUE F.FRZ_STAMP_HI_VALUE = e.clk.stamp % 2 ^ 40 ∧ t.clk.running = false ∧ t.pins.safeN = true ∧ t.getF F.TOP_STATUS_SAFE = 1 ∧ t.getF F.PWR_STATUS_MODE = 0 ∧ (∀ k, reqActive k t = false) ∧ t.frz.delayEnd = none ∧
      (s.fuses.pairRoot = true → t.drivesOwn = false ∧ (s.drivesOwn = true → t.pair.request = true)) ∧ (List.range 256).all (fun k => (t.slotOf k).full = false) = true ∧ t.saf.logWr = s.saf.logWr + 1 ∧ t.dram = s.dram
    (∀ edge : Bool,
      (mayFreeze s = true → Completes (.freezeNAssert dt edge) s (frozen 1 edge)) ∧ (mayFreeze s = false → Completes (.freezeNAssert dt edge) s same) ∧
      (∀ (m : Master) (w : Word),
        let takes : Prop := (m = .curator ∨ s.owns m = true) ∧ bitsOf w 15 0 = 0x7185
        (takes → mayFreeze s = true → Completes (.frzCmd dt m w edge) s (frozen (match m with | .host => 3 | .curator => 4) edge)) ∧
        (takes → mayFreeze s = false → Completes (.frzCmd dt m w edge) s same) ∧
        (¬takes → Completes (.frzCmd dt m w edge) s fun t => OnlyRegs [0x8] s t ∧ t.frz = s.frz ∧ t.key = s.key ∧ t.dram = s.dram)) ∧
      (∀ x, s.frz.delayEnd = some x →
        (x ≤ e.clk.now → mayFreeze s = true → Completes (.freezeDelayExpire dt edge) s (frozen 2 edge)) ∧
        (x ≤ e.clk.now → mayFreeze s = false → Completes (.freezeDelayExpire dt edge) s fun t => OnlyRegs [] s t ∧ t.frz.delayEnd = none ∧ t.mode = s.mode) ∧
        (e.clk.now < x → Completes (.freezeDelayExpire dt edge) s same)) ∧
      (s.frz.delayEnd = none → Completes (.freezeDelayExpire dt edge) s same)) ∧
    (∀ (m : Master) (w : Word),
      (m = .curator → s.mode = stFrozen → Completes (.frzVselWrite dt m w) s fun t => t.reg 0x178020 = w ∧ t.getF F.FRZ_VSTATUS_READY = 0 ∧ t.frz.fetching = true ∧ OnlyRegs [0x178020, 0x178024] s t ∧ t.dram = s.dram) ∧
      ((m = .host ∨ s.mode ≠ stFrozen) → Completes (.frzVselWrite dt m w) s fun t => OnlyRegs [0x8] s t ∧ t.frz = s.frz)) ∧
    (∀ m : Master,
      (s.mode = stFrozen → Completes (.frzVdata15Read dt m) s fun t => t.out.head? = some (.value m.bit (s.reg 0x17807C)) ∧ t.getF F.FRZ_VSEL_CHUNK = (s.getF F.FRZ_VSEL_CHUNK + 1) % 2 ^ 28 ∧ t.getF F.FRZ_VSEL_REGION = s.getF F.FRZ_VSEL_REGION ∧
        t.getF F.FRZ_VSTATUS_READY = 0 ∧ t.frz.fetching = true ∧ OnlyRegs [0x178020, 0x178024] s t) ∧
      (s.mode ≠ stFrozen → Completes (.frzVdata15Read dt m) s fun t => t.out.head? = some (.value m.bit 0) ∧ same t)) ∧
    ((s.frz.fetching = false ∨ s.mode ≠ stFrozen) → Completes (.chunkFetchDone dt) s same) ∧
    (s.frz.fetching = true → s.mode = stFrozen →
      let r := s.getF F.FRZ_VSEL_REGION
      let c := s.getF F.FRZ_VSEL_CHUNK
      (Completes (.chunkFetchDone dt) s fun t => t.getF F.FRZ_VSTATUS_READY = 1 ∧ t.frz.fetching = false ∧ t.dram = s.dram ∧ OnlyRegs (0x178024 :: (List.range 16).map fun k => 0x178040 + 4 * k) s t ∧
        (c < regionSize r s → (∀ k < 16, t.reg (0x178040 + 4 * k) = (chunkWords r c s).getD k 0) ∧ t.getF F.FRZ_VSTATUS_UE = bit (chunkUe r c s) ∧
          t.getF F.FRZ_VSTATUS_UE_CNT = min (s.getF F.FRZ_VSTATUS_UE_CNT + bit (chunkUe r c s)) 65535) ∧
        (regionSize r s ≤ c → (∀ k < 16, t.reg (0x178040 + 4 * k) = 0) ∧ t.getF F.FRZ_VSTATUS_END = 1) ∧
        (r = 0 → c = 0 → t.reg 0x178040 = 0x52544956 ∧ t.reg 0x178044 = 1 ∧ t.reg 0x178048 = s.reg 0 ∧ t.reg 0x17804C = s.reg 0x178000) ∧
        (r = 6 → c < regionSize 6 s → ∀ k < 64, bitsOf (t.reg (0x178040 + k / 4 * 4)) (8 * (k % 4) + 7) (8 * (k % 4)) = (s.byte (64 * c + k)).toNat))) ∧
    (s.clk.core = true → s.mode ≠ stReserve → s.mode ≠ stFrozen → ∀ (m : Master) (w : Word),
      (mayCfg true m s = true → Completes (.cfgNvmRelease dt m w) s fun t => t.getF F.CFG_NVM_CTRL_RELEASE = bitsOf w 0 0 ∧ t.getF F.CFG_NVM_STATUS_MODE = (if w.getLsbD 0 = true then 3 else nvmMode s) ∧ OnlyRegs [0x20010, 0x20014] s t ∧ t.dram = s.dram) ∧
      (mayCfg true m s = false → Completes (.cfgNvmRelease dt m w) s fun t => OnlyRegs [0x8] s t ∧ t.dram = s.dram))
end

