-- ==== Sys2Proof/Laws/Sparse.lean ====
section
/-! SUPPORT. Sparse maps: what a read gives after a write, and that every operation keeps the canonical form. -/

namespace Sys2Proof.Machine

variable {α : Type}

theorem Sparse.get_erase (d : Nat → α) (m : Sparse α) (k j : Nat) :
    Sparse.get d (Sparse.erase m k) j = if j = k then d k else Sparse.get d m j := by
  induction m with
  | nil => simp only [Sparse.erase, Sparse.get]; split <;> simp_all
  | cons e m ih =>
    obtain ⟨a, v⟩ := e
    simp only [Sparse.erase]
    split
    · subst a; rw [ih]; split
      · rfl
      · next h => simp [Sparse.get, Ne.symm h]
    · next h =>
      simp only [Sparse.get, ih]
      split
      · next h2 => subst a; simp [h]
      · rfl

theorem Sparse.get_ins (d : Nat → α) (m : Sparse α) (k j : Nat) (v : α) (h : ∀ e ∈ m, e.1 ≠ k) :
    Sparse.get d (Sparse.ins k v m) j = if j = k then v else Sparse.get d m j := by
  induction m with
  | nil => simp only [Sparse.ins, Sparse.get, eq_comm]
  | cons e m ih =>
    obtain ⟨a, w⟩ := e
    have ha : a ≠ k := h (a, w) (by simp)
    simp only [Sparse.ins]
    split
    · simp only [Sparse.get, eq_comm]
    · simp only [Sparse.get, ih (fun e he => h e (by simp [he]))]
      split
      · next h2 => subst a; simp [ha]
      · rfl

theorem Sparse.mem_erase {m : Sparse α} {k : Nat} {e : Nat × α} (h : e ∈ Sparse.erase m k) : e ∈ m ∧ e.1 ≠ k := by
  induction m with
  | nil => simp [Sparse.erase] at h
  | cons x m ih =>
    obtain ⟨a, v⟩ := x
    simp only [Sparse.erase] at h
    split at h
    · have := ih h; exact ⟨by simp [this.1], this.2⟩
    · next hne =>
      rcases List.mem_cons.1 h with rfl | h
      · exact ⟨by simp, hne⟩
      · have := ih h; exact ⟨by simp [this.1], this.2⟩

theorem Sparse.set_eq [DecidableEq α] (d : Nat → α) (m : Sparse α) (k : Nat) (v : α) :
    Sparse.set d m k v = if v = d k then Sparse.erase m k else Sparse.ins k v (Sparse.erase m k) := by
  unfold Sparse.set
  generalize Sparse.erase m k = x
  cases x <;> rfl

theorem Sparse.get_set [DecidableEq α] (d : Nat → α) (m : Sparse α) (k j : Nat) (v : α) :
    Sparse.get d (Sparse.set d m k v) j = if j = k then v else Sparse.get d m j := by
  rw [Sparse.set_eq]
  split
  · next h => rw [Sparse.get_erase, h]
  · rw [Sparse.get_ins _ _ _ _ _ (fun e he => (Sparse.mem_erase he).2), Sparse.get_erase]
    split <;> simp_all

@[simp] theorem Sparse.get_set_self [DecidableEq α] (d : Nat → α) (m : Sparse α) (k : Nat) (v : α) :
    Sparse.get d (Sparse.set d m k v) k = v := by simp [Sparse.get_set]

theorem Sparse.get_set_ne [DecidableEq α] (d : Nat → α) (m : Sparse α) {k j : Nat} (v : α) (h : j ≠ k) :
    Sparse.get d (Sparse.set d m k v) j = Sparse.get d m j := by simp [Sparse.get_set, h]

/-- The rising form said of pairs. -/
theorem Sparse.rising_iff (m : Sparse α) : Sparse.rising m = true ↔ m.Pairwise (fun a b => a.1 < b.1) := by
  induction m with
  | nil => simp [Sparse.rising]
  | cons e m ih =>
    cases m with
    | nil => simp [Sparse.rising]
    | cons f m =>
      obtain ⟨a, v⟩ := e
      obtain ⟨b, w⟩ := f
      simp only [Sparse.rising, Bool.and_eq_true, decide_eq_true_eq, ih]
      constructor
      · rintro ⟨hab, hp⟩
        refine List.pairwise_cons.2 ⟨fun x hx => ?_, hp⟩
        rcases List.mem_cons.1 hx with rfl | hx
        · exact hab
        · exact lt_trans hab ((List.pairwise_cons.1 hp).1 x hx)
      · intro hp
        exact ⟨(List.pairwise_cons.1 hp).1 (b, w) (by simp), (List.pairwise_cons.1 hp).2⟩

theorem Sparse.wf_iff [DecidableEq α] (d : Nat → α) (m : Sparse α) :
    Sparse.wf d m = true ↔ m.Pairwise (fun a b => a.1 < b.1) ∧ ∀ e ∈ m, e.2 ≠ d e.1 := by
  simp [Sparse.wf, Sparse.rising_iff]

theorem Sparse.erase_sublist (m : Sparse α) (k : Nat) : (Sparse.erase m k).Sublist m := by
  induction m with
  | nil => simp [Sparse.erase]
  | cons e m ih =>
    obtain ⟨a, v⟩ := e
    simp only [Sparse.erase]
    split
    · exact ih.trans (List.sublist_cons_self _ _)
    · exact ih.cons_cons _

theorem Sparse.wf_sublist [DecidableEq α] {d : Nat → α} {l m : Sparse α} (h : l.Sublist m) (hm : Sparse.wf d m = true) : Sparse.wf d l = true := by
  rw [Sparse.wf_iff] at *
  exact ⟨hm.1.sublist h, fun e he => hm.2 e (h.subset he)⟩

theorem Sparse.wf_erase [DecidableEq α] {d : Nat → α} {m : Sparse α} (k : Nat) (h : Sparse.wf d m = true) : Sparse.wf d (Sparse.erase m k) = true :=
  Sparse.wf_sublist (Sparse.erase_sublist m k) h

theorem Sparse.wf_filter [DecidableEq α] {d : Nat → α} {m : Sparse α} (p : Nat × α → Bool) (h : Sparse.wf d m = true) : Sparse.wf d (m.filter p) = true :=
  Sparse.wf_sublist List.filter_sublist h

theorem Sparse.mem_ins {m : Sparse α} {k : Nat} {v : α} {e : Nat × α} (h : e ∈ Sparse.ins k v m) : e = (k, v) ∨ e ∈ m := by
  induction m with
  | nil => simpa [Sparse.ins] using h
  | cons x m ih =>
    obtain ⟨a, w⟩ := x
    simp only [Sparse.ins] at h
    split at h
    · simpa using h
    · rcases List.mem_cons.1 h with rfl | h
      · simp
      · rcases ih h with h | h <;> simp [h]

theorem Sparse.wf_ins [DecidableEq α] {d : Nat → α} {m : Sparse α} {k : Nat} {v : α} (hv : v ≠ d k) (hk : ∀ e ∈ m, e.1 ≠ k)
    (h : Sparse.wf d m = true) : Sparse.wf d (Sparse.ins k v m) = true := by
  rw [Sparse.wf_iff] at *
  refine ⟨?_, fun e he => ?_⟩
  · induction m with
    | nil => simp [Sparse.ins]
    | cons x m ih =>
      obtain ⟨a, w⟩ := x
      have hp := List.pairwise_cons.1 h.1
      simp only [Sparse.ins]
      split
      · next hlt =>
        refine List.pairwise_cons.2 ⟨fun y hy => ?_, h.1⟩
        rcases List.mem_cons.1 hy with rfl | hy
        · exact hlt
        · exact lt_trans hlt (hp.1 y hy)
      · next hge =>
        have hak : a ≠ k := hk (a, w) (by simp)
        refine List.pairwise_cons.2 ⟨fun y hy => ?_, ih (fun e he => hk e (by simp [he])) ⟨hp.2, fun e he => h.2 e (by simp [he])⟩⟩
        rcases Sparse.mem_ins hy with rfl | hy
        · show a < k; omega
        · exact hp.1 y hy
  · rcases Sparse.mem_ins he with rfl | he
    · exact hv
    · exact h.2 e he

theorem Sparse.wf_set [DecidableEq α] {d : Nat → α} {m : Sparse α} (k : Nat) (v : α) (h : Sparse.wf d m = true) : Sparse.wf d (Sparse.set d m k v) = true := by
  rw [Sparse.set_eq]
  split
  · exact Sparse.wf_erase k h
  · next hv => exact Sparse.wf_ins hv (fun e he => (Sparse.mem_erase he).2) (Sparse.wf_erase k h)

@[simp] theorem Sparse.wf_nil [DecidableEq α] (d : Nat → α) : Sparse.wf d [] = true := rfl

end Sys2Proof.Machine
end

