-- ==== Sys2Proof/Laws/KeepsBase.lean ====
section
/-! SUPPORT. How Keeps goes through the shapes of a definition. -/

namespace Sys2Proof.Machine

theorem Keeps.refl (s : State) : Keeps s s := ⟨rfl, id, le_rfl, ⟨[], rfl⟩, rfl, rfl, rfl, le_rfl, le_rfl⟩

theorem Keeps.trans {a b c : State} (h : Keeps a b) (k : Keeps b c) : Keeps a c :=
  ⟨k.queue.trans h.queue, fun m => k.maps (h.maps m), h.time.trans k.time,
    by obtain ⟨l, hl⟩ := h.added; obtain ⟨r, hr⟩ := k.added; exact ⟨r ++ l, by rw [hr, hl, List.append_assoc]⟩,
    k.serial.trans h.serial, k.part.trans h.part, k.root.trans h.root, h.arb.trans k.arb, h.draws.trans k.draws⟩

/-- Keeps said of the parts of a state. -/
theorem Keeps.of {s0 s : State} (h : Keeps s0 s) : Kept s0 s.pending s.regs s.tabs s.dram s.clk.now s.out s.fuses s.draws := h

theorem Keeps.setTabs {s0 s : State} (h : Keeps s0 s) (k : Nat) (v : Word) : Keeps s0 { s with tabs := Sparse.set tabDefault s.tabs k v } :=
  ⟨h.queue, fun m => ⟨(h.maps m).1, Sparse.wf_set k v (h.maps m).2.1, (h.maps m).2.2⟩, h.time, h.added, h.serial, h.part, h.root, h.arb, h.draws⟩

theorem Keeps.cut {s0 x : State} {P : Prop} (a : Keeps s0 x) (b : Keeps s0 x → P) : P := b a

theorem Keeps.foldl {α : Type} {s0 s : State} {f : State → α → State} {l : List α} (hs : Keeps s0 s) (hf : ∀ t e, Keeps s0 t → Keeps s0 (f t e)) :
    Keeps s0 (l.foldl f s) := by
  induction l generalizing s with
  | nil => exact hs
  | cons e l ih => exact ih (hf s e hs)

/-- The state of a pair keeps, as the second or the first part. -/
def Keeps2 {α : Type} (s0 : State) (p : α × State) : Prop := Keeps s0 p.2
def Keeps1 {α : Type} (s0 : State) (p : State × α) : Prop := Keeps s0 p.1

theorem Keeps.of2 {α : Type} {s0 : State} {p : α × State} (h : Keeps2 s0 p) : Keeps s0 p.2 := h

theorem Keeps.tabsFilter {s0 s : State} (h : Keeps s0 s) (p : Nat × Word → Bool) : Keeps s0 { s with tabs := s.tabs.filter p } :=
  ⟨h.queue, fun m => ⟨(h.maps m).1, Sparse.wf_filter p (h.maps m).2.1, (h.maps m).2.2⟩, h.time, h.added, h.serial, h.part, h.root, h.arb, h.draws⟩

theorem Keeps.ite {s0 a b : State} {c : Prop} {_ : Decidable c} (h : Keeps s0 a) (k : Keeps s0 b) : Keeps s0 (if c then a else b) := by
  split <;> assumption

theorem Keeps.fuse {s0 s : State} (h : Keeps s0 s) (f : Fuses) (h1 : f.serial = s.fuses.serial) (h2 : f.partEv = s.fuses.partEv) (h3 : f.pairRoot = s.fuses.pairRoot)
    (h4 : s.fuses.arb ≤ f.arb) : Keeps s0 { s with fuses := f } :=
  ⟨h.queue, h.maps, h.time, h.added, h1.trans h.serial, h2.trans h.part, h3.trans h.root, h.arb.trans h4, h.draws⟩

theorem Keeps.draw {s0 s : State} (n : Nat) (h : Keeps s0 s) : Keeps s0 { s with draws := s.draws + n } :=
  ⟨h.queue, h.maps, h.time, h.added, h.serial, h.part, h.root, h.arb, Nat.le_add_right_of_le h.draws⟩

/-- The state of a triple keeps. -/
def Keeps3 {α β : Type} (s0 : State) (p : α × β × State) : Prop := Keeps s0 p.2.2

theorem Keeps2.mk {α : Type} {s0 s : State} {a : α} (h : Keeps s0 s) : Keeps2 s0 (a, s) := h
theorem Keeps2.snd {α : Type} {s0 s : State} {a : α} {p : α × State} (h : Keeps2 s0 p) (e : p = (a, s)) : Keeps s0 s := by subst e; exact h
theorem Keeps1.mk {α : Type} {s0 s : State} {a : α} (h : Keeps s0 s) : Keeps1 s0 (s, a) := h
theorem Keeps1.fst {α : Type} {s0 s : State} {a : α} {p : State × α} (h : Keeps1 s0 p) (e : p = (s, a)) : Keeps s0 s := by subst e; exact h

theorem Keeps2.ite {α : Type} {s0 : State} {c : Prop} {_ : Decidable c} {a b : α × State} (h : Keeps2 s0 a) (k : Keeps2 s0 b) : Keeps2 s0 (if c then a else b) := by
  split <;> assumption

/-- The state that is there, if any, keeps. -/
def KeepsOpt (s0 : State) (o : Option State) : Prop := ∀ t, o = some t → Keeps s0 t
theorem KeepsOpt.none {s0 : State} : KeepsOpt s0 Option.none := by intro t h; cases h
theorem KeepsOpt.mk {s0 s : State} (h : Keeps s0 s) : KeepsOpt s0 (Option.some s) := by intro t e; cases e; exact h
theorem KeepsOpt.some {s0 s : State} {o : Option State} (h : KeepsOpt s0 o) (e : o = Option.some s) : Keeps s0 s := h s e

theorem KeepsOpt.getD {s0 s : State} {o : Option State} (h : KeepsOpt s0 o) (k : Keeps s0 s) : Keeps s0 (o.getD s) := by
  cases o with
  | none => exact k
  | some t => exact h t rfl

def KeepsOk (s0 : State) (o : Except Nat State) : Prop := ∀ t, o = .ok t → Keeps s0 t
theorem KeepsOk.err {s0 : State} {n : Nat} : KeepsOk s0 (.error n) := by intro t h; cases h
theorem KeepsOk.mk {s0 s : State} (h : Keeps s0 s) : KeepsOk s0 (.ok s) := by intro t e; cases e; exact h
theorem KeepsOk.ok {s0 s : State} {o : Except Nat State} (h : KeepsOk s0 o) (e : o = .ok s) : Keeps s0 s := h s e

theorem KeepsNext.next {s0 s : State} (h : Keeps s0 s) : KeepsNext s0 (.next s) := by intro t e; cases e; exact h

end Sys2Proof.Machine
end

