-- ==== Sys2Proof/Laws/KeepsOps.lean ====
section
/-! SUPPORT. What the operations of Machine/Ops.lean keep. -/

set_option linter.unusedTactic false
set_option linter.unreachableTactic false
set_option linter.unusedVariables false

namespace Sys2Proof.Machine

theorem setReg_keeps {s0 s : State} {a : Nat} {w : Word} (h : Keeps s0 s) : Keeps s0 (State.setReg s a w) := by
  unfold State.setReg
  exact ⟨h.queue, fun m => ⟨Sparse.wf_set a w (h.maps m).1, (h.maps m).2.1, (h.maps m).2.2⟩, h.time, h.added, h.serial, h.part, h.root, h.arb, h.draws⟩
theorem setF_keeps {s0 s : State} {f : Field} {v : Nat} (hk0 : Keeps s0 s) : Keeps s0 (State.setF s f v) := by
  unfold State.setF
  repeat' (first | with_reducible assumption | with_reducible apply setReg_keeps)

theorem incF_keeps {s0 s : State} {f : Field} (hk0 : Keeps s0 s) : Keeps s0 (State.incF s f) := by
  unfold State.incF
  repeat' (first | with_reducible assumption | with_reducible apply setF_keeps)

theorem addF_keeps {s0 s : State} {f : Field} {n : Nat} (hk0 : Keeps s0 s) : Keeps s0 (State.addF s f n) := by
  unfold State.addF
  repeat' (first | with_reducible assumption | with_reducible apply setF_keeps)

theorem satF_keeps {s0 s : State} {f : Field} {n : Nat} (hk0 : Keeps s0 s) : Keeps s0 (State.satF s f n) := by
  unfold State.satF
  repeat' (first | with_reducible assumption | with_reducible apply setF_keeps)

theorem decF_keeps {s0 s : State} {f : Field} (hk0 : Keeps s0 s) : Keeps s0 (State.decF s f) := by
  unfold State.decF
  repeat' (first | with_reducible assumption | with_reducible apply setF_keeps)

theorem set64_keeps {s0 s : State} {lo hi : Field} {v : Nat} (hk0 : Keeps s0 s) : Keeps s0 (State.set64 s lo hi v) := by
  unfold State.set64
  repeat' (first | with_reducible assumption | with_reducible apply setF_keeps)

theorem setTab_keeps {s0 s : State} {w off : Nat} {v : Word} (h : Keeps s0 s) : Keeps s0 (State.setTab s w off v) := by
  unfold State.setTab
  exact h.setTabs _ _
theorem updPort_keeps {s0 s : State} {n : Nat} {f : Port → Port} (hk0 : Keeps s0 s) : Keeps s0 (State.updPort s n f) := by
  unfold State.updPort
  repeat' (first | with_reducible assumption | (extract_lets +onlyGivenNames s1; clear_value (hs : s1 = _); refine Keeps.cut (s0 := s0) (x := s1) ?_ (fun k1 => ?_); (on_goal 1 => subst hs); (on_goal 2 => clear hs)) | (extract_lets +onlyGivenNames v1; first | (have _ : Clocks := v1; subst v1) | (have _ : Fuses := v1; subst v1) | clear_value v1 | subst v1) | (unfold Keeps; dsimp only; with_reducible refine Keeps.of ?_))

theorem setByte_keeps {s0 s : State} {a : Nat} {b : Byte} (h : Keeps s0 s) : Keeps s0 (State.setByte s a b) := by
  unfold State.setByte
  exact ⟨h.queue, fun m => ⟨(h.maps m).1, (h.maps m).2.1, Sparse.wf_set a b (h.maps m).2.2⟩, h.time, h.added, h.serial, h.part, h.root, h.arb, h.draws⟩
theorem putBytes_keeps {s0 s : State} {base n a : Nat} {l : List Byte} (h : Keeps s0 s) : Keeps s0 (State.putBytes base n a l s) := by
  induction l generalizing a s with
  | nil => exact h
  | cons b r ih => unfold State.putBytes; apply ih; split; exacts [h, setByte_keeps h]
theorem markBlock_keeps {s0 s : State} {b : Nat} (hk0 : Keeps s0 s) : Keeps s0 (State.markBlock s b) := by
  unfold State.markBlock
  repeat' (first | with_reducible assumption | (extract_lets +onlyGivenNames s1; clear_value (hs : s1 = _); refine Keeps.cut (s0 := s0) (x := s1) ?_ (fun k1 => ?_); (on_goal 1 => subst hs); (on_goal 2 => clear hs)) | (extract_lets +onlyGivenNames v1; first | (have _ : Clocks := v1; subst v1) | (have _ : Fuses := v1; subst v1) | clear_value v1 | subst v1) | (unfold Keeps; dsimp only; with_reducible refine Keeps.of ?_))

theorem mendWords_keeps {s0 s : State} {a n k : Nat} (h : Keeps s0 s) : Keeps s0 (State.mendWords a n k s) := by
  induction k generalizing s with
  | zero => exact h
  | succ k ih => unfold State.mendWords; apply ih; dsimp only; split; exacts [h, h]
theorem setBytes_keeps {s0 s : State} {a : Nat} {bs : List Byte} (hk0 : Keeps s0 s) : Keeps s0 (State.setBytes s a bs) := by
  unfold State.setBytes
  repeat' (first | with_reducible assumption | with_reducible apply markBlock_keeps | with_reducible apply mendWords_keeps | with_reducible apply putBytes_keeps | (extract_lets +onlyGivenNames s1; clear_value (hs : s1 = _); refine Keeps.cut (s0 := s0) (x := s1) ?_ (fun k1 => ?_); (on_goal 1 => subst hs); (on_goal 2 => clear hs)) | (extract_lets +onlyGivenNames v1; first | (have _ : Clocks := v1; subst v1) | (have _ : Fuses := v1; subst v1) | clear_value v1 | subst v1) | split | (unfold Keeps; dsimp only; with_reducible refine Keeps.of ?_))

theorem setLe_keeps {s0 s : State} {a n v : Nat} (hk0 : Keeps s0 s) : Keeps s0 (State.setLe s a n v) := by
  unfold State.setLe
  repeat' (first | with_reducible assumption | with_reducible apply setBytes_keeps)

theorem emit_keeps {s0 s : State} {o : Out} (h : Keeps s0 s) : Keeps s0 (State.emit s o) := by
  unfold State.emit
  exact ⟨h.queue, h.maps, h.time, by obtain ⟨l, hl⟩ := h.added; exact ⟨o :: l, by simp [hl]⟩, h.serial, h.part, h.root, h.arb, h.draws⟩
theorem drawn_keeps {s0 s : State} (h : Keeps s0 s) : Keeps s0 (State.drawn s) := by
  unfold State.drawn
  exact ⟨h.queue, h.maps, h.time, h.added, h.serial, h.part, h.root, h.arb, Nat.le_succ_of_le h.draws⟩

end Sys2Proof.Machine
end

