-- ==== Sys2Proof/Laws/KeepsFlags.lean ====
section
/-! SUPPORT. What the operations of Machine/Flags.lean keep. -/

set_option linter.unusedTactic false
set_option linter.unreachableTactic false
set_option linter.unusedVariables false

namespace Sys2Proof.Machine

theorem accessErr_keeps {s0 s : State} {m : Master} {kind addr : Nat} (hk0 : Keeps s0 s) : Keeps s0 (accessErr m kind addr s) := by
  unfold accessErr
  repeat' (first | with_reducible assumption | with_reducible apply setReg_keeps | (extract_lets +onlyGivenNames s1; clear_value (hs : s1 = _); refine Keeps.cut (s0 := s0) (x := s1) ?_ (fun k1 => ?_); (on_goal 1 => subst hs); (on_goal 2 => clear hs)) | (extract_lets +onlyGivenNames v1; first | (have _ : Clocks := v1; subst v1) | (have _ : Fuses := v1; subst v1) | clear_value v1 | subst v1) | split | (unfold Keeps; dsimp only; with_reducible refine Keeps.of ?_))

theorem raiseVector_keeps {s0 s : State} {v : Nat} (hk0 : Keeps s0 s) : Keeps s0 (raiseVector v s) := by
  unfold raiseVector
  repeat' (first | with_reducible assumption | with_reducible apply setF_keeps | with_reducible apply emit_keeps | split)

theorem noticeLost_keeps {s0 s : State} (hk0 : Keeps s0 s) : Keeps s0 (noticeLost s) := by
  unfold noticeLost
  repeat' (first | with_reducible assumption | with_reducible apply raiseVector_keeps | with_reducible apply satF_keeps | (extract_lets +onlyGivenNames s1; clear_value (hs : s1 = _); refine Keeps.cut (s0 := s0) (x := s1) ?_ (fun k1 => ?_); (on_goal 1 => subst hs); (on_goal 2 => clear hs)) | (extract_lets +onlyGivenNames v1; first | (have _ : Clocks := v1; subst v1) | (have _ : Fuses := v1; subst v1) | clear_value v1 | subst v1) | (unfold Keeps; dsimp only; with_reducible refine Keeps.of ?_))

theorem noticeRing_keeps {s0 s : State} {k : NoticeKind} {status port arg : Nat} (hk0 : Keeps s0 s) : Keeps s0 (noticeRing k status port arg s) := by
  unfold noticeRing
  repeat' (first | with_reducible assumption | with_reducible apply noticeLost_keeps | with_reducible apply setBytes_keeps | with_reducible apply incF_keeps | (extract_lets +onlyGivenNames s1; clear_value (hs : s1 = _); refine Keeps.cut (s0 := s0) (x := s1) ?_ (fun k1 => ?_); (on_goal 1 => subst hs); (on_goal 2 => clear hs)) | (extract_lets +onlyGivenNames v1; first | (have _ : Clocks := v1; subst v1) | (have _ : Fuses := v1; subst v1) | clear_value v1 | subst v1) | split | (unfold Keeps; dsimp only; with_reducible refine Keeps.of ?_))

theorem logEntry_keeps {s0 s : State} {k : NoticeKind} {status port arg : Nat} (hk0 : Keeps s0 s) : Keeps s0 (logEntry k status port arg s) := by
  unfold logEntry
  repeat' (first | with_reducible assumption | with_reducible apply setF_keeps | (extract_lets +onlyGivenNames s1; clear_value (hs : s1 = _); refine Keeps.cut (s0 := s0) (x := s1) ?_ (fun k1 => ?_); (on_goal 1 => subst hs); (on_goal 2 => clear hs)) | (extract_lets +onlyGivenNames v1; first | (have _ : Clocks := v1; subst v1) | (have _ : Fuses := v1; subst v1) | clear_value v1 | subst v1) | split | (unfold Keeps; dsimp only; with_reducible refine Keeps.of ?_))

theorem notify_keeps {s0 s : State} {k : NoticeKind} {status port arg : Nat} (hk0 : Keeps s0 s) : Keeps s0 (notify k status port arg s) := by
  unfold notify
  repeat' (first | with_reducible assumption | with_reducible apply noticeRing_keeps | with_reducible apply logEntry_keeps | with_reducible apply raiseVector_keeps | (extract_lets +onlyGivenNames s1; clear_value (hs : s1 = _); refine Keeps.cut (s0 := s0) (x := s1) ?_ (fun k1 => ?_); (on_goal 1 => subst hs); (on_goal 2 => clear hs)) | (extract_lets +onlyGivenNames v1; first | (have _ : Clocks := v1; subst v1) | (have _ : Fuses := v1; subst v1) | clear_value v1 | subst v1) | split)


end Sys2Proof.Machine
end

