-- ==== Sys2Proof/Laws/KeepsTimeOps.lean ====
section
/-! SUPPORT. What the operations of Machine/TimeOps.lean keep. -/

set_option linter.unusedTactic false
set_option linter.unreachableTactic false
set_option linter.unusedVariables false

namespace Sys2Proof.Machine

theorem elapse_keeps {s0 s : State} {dt : Nat} (h : Keeps s0 s) : Keeps s0 (State.elapse s dt) := by
  unfold State.elapse
  exact ⟨h.queue, h.maps, Nat.le_add_right_of_le h.time, h.added, h.serial, h.part, h.root, h.arb, h.draws⟩
theorem setDomain_keeps {s0 s : State} {n : Nat} {d : Domain} (hk0 : Keeps s0 s) : Keeps s0 (State.setDomain s n d) := by
  unfold State.setDomain
  repeat' (first | with_reducible assumption | (extract_lets +onlyGivenNames s1; clear_value (hs : s1 = _); refine Keeps.cut (s0 := s0) (x := s1) ?_ (fun k1 => ?_); (on_goal 1 => subst hs); (on_goal 2 => clear hs)) | (extract_lets +onlyGivenNames v1; first | (have _ : Clocks := v1; subst v1) | (have _ : Fuses := v1; subst v1) | clear_value v1 | subst v1) | split | (unfold Keeps; dsimp only; with_reducible refine Keeps.of ?_))

theorem updDomain_keeps {s0 s : State} {n : Nat} {f : Domain → Domain} (hk0 : Keeps s0 s) : Keeps s0 (State.updDomain s n f) := by
  unfold State.updDomain
  repeat' (first | with_reducible assumption | with_reducible apply setDomain_keeps)

theorem voidArm_keeps {s0 s : State} {n : Nat} (hk0 : Keeps s0 s) : Keeps s0 (voidArm n s) := by
  unfold voidArm
  repeat' (first | with_reducible assumption | with_reducible apply updDomain_keeps | with_reducible apply setF_keeps | (extract_lets +onlyGivenNames s1; clear_value (hs : s1 = _); refine Keeps.cut (s0 := s0) (x := s1) ?_ (fun k1 => ?_); (on_goal 1 => subst hs); (on_goal 2 => clear hs)) | (extract_lets +onlyGivenNames v1; first | (have _ : Clocks := v1; subst v1) | (have _ : Fuses := v1; subst v1) | clear_value v1 | subst v1) | split | (unfold Keeps; dsimp only; with_reducible refine Keeps.of ?_))


end Sys2Proof.Machine
end

