-- ==== Sys2Proof/Laws/KeepsTxnOps.lean ====
section
/-! SUPPORT. What the operations of Machine/TxnOps.lean keep. -/

set_option linter.unusedTactic false
set_option linter.unreachableTactic false
set_option linter.unusedVariables false

namespace Sys2Proof.Machine

theorem deny_keeps {s0 s : State} {m : Master} {reason addr : Nat} (hk0 : Keeps s0 s) : Keeps s0 (deny m reason addr s) := by
  unfold deny
  repeat' (first | with_reducible assumption | with_reducible apply incF_keeps | with_reducible apply notify_keeps | with_reducible apply setReg_keeps | (extract_lets +onlyGivenNames s1; clear_value (hs : s1 = _); refine Keeps.cut (s0 := s0) (x := s1) ?_ (fun k1 => ?_); (on_goal 1 => subst hs); (on_goal 2 => clear hs)) | (extract_lets +onlyGivenNames v1; first | (have _ : Clocks := v1; subst v1) | (have _ : Fuses := v1; subst v1) | clear_value v1 | subst v1) | split | (unfold Keeps; dsimp only; with_reducible refine Keeps.of ?_))

theorem closeTxn_keeps {s0 s : State} {result : Nat} (hk0 : Keeps s0 s) : Keeps s0 (closeTxn result s) := by
  unfold closeTxn
  repeat' (first | with_reducible assumption | with_reducible apply setF_keeps | (extract_lets +onlyGivenNames s1; clear_value (hs : s1 = _); refine Keeps.cut (s0 := s0) (x := s1) ?_ (fun k1 => ?_); (on_goal 1 => subst hs); (on_goal 2 => clear hs)) | (extract_lets +onlyGivenNames v1; first | (have _ : Clocks := v1; subst v1) | (have _ : Fuses := v1; subst v1) | clear_value v1 | subst v1) | (unfold Keeps; dsimp only; with_reducible refine Keeps.of ?_))

theorem rollback_keeps {s0 s : State} {result : Nat} (hk0 : Keeps s0 s) : Keeps s0 (rollback result s) := by
  unfold rollback
  repeat' (first | with_reducible assumption | with_reducible apply closeTxn_keeps | with_reducible apply setF_keeps | with_reducible apply notify_keeps | (extract_lets +onlyGivenNames s1; clear_value (hs : s1 = _); refine Keeps.cut (s0 := s0) (x := s1) ?_ (fun k1 => ?_); (on_goal 1 => subst hs); (on_goal 2 => clear hs)) | (extract_lets +onlyGivenNames v1; first | (have _ : Clocks := v1; subst v1) | (have _ : Fuses := v1; subst v1) | clear_value v1 | subst v1) | split)

theorem rollbackOpen_keeps {s0 s : State} {result : Nat} (hk0 : Keeps s0 s) : Keeps s0 (rollbackOpen result s) := by
  unfold rollbackOpen
  repeat' (first | with_reducible assumption | with_reducible apply rollback_keeps | split)

theorem discardTxn_keeps {s0 s : State} (hk0 : Keeps s0 s) : Keeps s0 (discardTxn s) := by
  unfold discardTxn
  repeat' (first | with_reducible assumption | with_reducible apply rollback_keeps | split)

theorem changeOwner_keeps {s0 s : State} {new : Nat} (hk0 : Keeps s0 s) : Keeps s0 (changeOwner new s) := by
  unfold changeOwner
  repeat' (first | with_reducible assumption | with_reducible apply setF_keeps | with_reducible apply voidArm_keeps | with_reducible apply rollbackOpen_keeps | with_reducible apply incF_keeps | with_reducible apply notify_keeps | with_reducible apply Keeps.foldl | (extract_lets +onlyGivenNames s1; clear_value (hs : s1 = _); refine Keeps.cut (s0 := s0) (x := s1) ?_ (fun k1 => ?_); (on_goal 1 => subst hs); (on_goal 2 => clear hs)) | (extract_lets +onlyGivenNames v1; first | (have _ : Clocks := v1; subst v1) | (have _ : Fuses := v1; subst v1) | clear_value v1 | subst v1) | intro _ _ _ | intro _ _ | split)

theorem noteFcReset_keeps {s0 s : State} (hk0 : Keeps s0 s) : Keeps s0 (noteFcReset s) := by
  unfold noteFcReset
  repeat' (first | with_reducible assumption | with_reducible apply notify_keeps | (extract_lets +onlyGivenNames s1; clear_value (hs : s1 = _); refine Keeps.cut (s0 := s0) (x := s1) ?_ (fun k1 => ?_); (on_goal 1 => subst hs); (on_goal 2 => clear hs)) | (extract_lets +onlyGivenNames v1; first | (have _ : Clocks := v1; subst v1) | (have _ : Fuses := v1; subst v1) | clear_value v1 | subst v1) | split | (unfold Keeps; dsimp only; with_reducible refine Keeps.of ?_))

theorem startupEnd_keeps {s0 s : State} (hk0 : Keeps s0 s) : Keeps s0 (startupEnd s) := by
  unfold startupEnd
  repeat' (first | with_reducible assumption | with_reducible apply noteFcReset_keeps | with_reducible apply setF_keeps | (extract_lets +onlyGivenNames s1; clear_value (hs : s1 = _); refine Keeps.cut (s0 := s0) (x := s1) ?_ (fun k1 => ?_); (on_goal 1 => subst hs); (on_goal 2 => clear hs)) | (extract_lets +onlyGivenNames v1; first | (have _ : Clocks := v1; subst v1) | (have _ : Fuses := v1; subst v1) | clear_value v1 | subst v1) | split | (unfold Keeps; dsimp only; with_reducible refine Keeps.of ?_))

theorem ignored_keeps {s0 s : State} {m : Master} {addr : Nat} (hk0 : Keeps s0 s) : Keeps s0 (ignored m addr s) := by
  unfold ignored
  repeat' (first | with_reducible assumption | with_reducible apply accessErr_keeps)

theorem gatedWrite_keeps {s0 s : State} {m : Master} {a : Nat} {f : State → State} (hk0 : Keeps s0 s) (hf : ∀ t, Keeps s0 t → Keeps s0 (f t)) : Keeps s0 (gatedWrite m a f s) := by
  unfold gatedWrite
  repeat' (first | with_reducible assumption | with_reducible apply accessErr_keeps | with_reducible apply hf | split)

theorem writeRingRd_keeps {s0 s : State} {m : Master} {addr : Nat} {rd : Field} {wr size : Nat} {w : Word} (hk0 : Keeps s0 s) : Keeps s0 (writeRingRd m addr rd wr size w s) := by
  unfold writeRingRd
  repeat' (first | with_reducible assumption | with_reducible apply ignored_keeps | with_reducible apply setF_keeps | split)


end Sys2Proof.Machine
end

