-- ==== Sys2Proof/Laws/KeepsMemOps.lean ====
section
/-! SUPPORT. What the operations of Machine/MemOps.lean keep. -/

set_option linter.unusedTactic false
set_option linter.unreachableTactic false
set_option linter.unusedVariables false

namespace Sys2Proof.Machine

theorem foundUe_keeps {s0 s : State} {w : Nat} {scrub : Bool} (hk0 : Keeps s0 s) : Keeps s0 (foundUe w scrub s) := by
  unfold foundUe
  repeat' (first | with_reducible assumption | with_reducible apply satF_keeps | with_reducible apply setReg_keeps | with_reducible apply notify_keeps | (extract_lets +onlyGivenNames s1; clear_value (hs : s1 = _); refine Keeps.cut (s0 := s0) (x := s1) ?_ (fun k1 => ?_); (on_goal 1 => subst hs); (on_goal 2 => clear hs)) | (extract_lets +onlyGivenNames v1; first | (have _ : Clocks := v1; subst v1) | (have _ : Fuses := v1; subst v1) | clear_value v1 | subst v1) | split)

theorem countCe_keeps {s0 s : State} (hk0 : Keeps s0 s) : Keeps s0 (countCe s) := by
  unfold countCe
  repeat' (first | with_reducible assumption | (extract_lets +onlyGivenNames s1; clear_value (hs : s1 = _); refine Keeps.cut (s0 := s0) (x := s1) ?_ (fun k1 => ?_); (on_goal 1 => subst hs); (on_goal 2 => clear hs)) | (extract_lets +onlyGivenNames v1; first | (have _ : Clocks := v1; subst v1) | (have _ : Fuses := v1; subst v1) | clear_value v1 | subst v1) | split | (unfold Keeps; dsimp only; with_reducible refine Keeps.of ?_))

theorem foundCe_keeps {s0 s : State} {w : Nat} {scrub : Bool} (hk0 : Keeps s0 s) : Keeps s0 (foundCe w scrub s) := by
  unfold foundCe
  repeat' (first | with_reducible assumption | with_reducible apply countCe_keeps | with_reducible apply satF_keeps | with_reducible apply setReg_keeps | (extract_lets +onlyGivenNames s1; clear_value (hs : s1 = _); refine Keeps.cut (s0 := s0) (x := s1) ?_ (fun k1 => ?_); (on_goal 1 => subst hs); (on_goal 2 => clear hs)) | (extract_lets +onlyGivenNames v1; first | (have _ : Clocks := v1; subst v1) | (have _ : Fuses := v1; subst v1) | clear_value v1 | subst v1) | split | (unfold Keeps; dsimp only; with_reducible refine Keeps.of ?_))

theorem dramRead_keeps {s0 s : State} {a n : Nat} (hk0 : Keeps s0 s) : Keeps2 s0 (dramRead a n s) := by
  unfold dramRead
  repeat' (first | with_reducible assumption | with_reducible apply foundUe_keeps | (extract_lets +onlyGivenNames s1; clear_value (hs : s1 = _); refine Keeps.cut (s0 := s0) (x := s1) ?_ (fun k1 => ?_); (on_goal 1 => subst hs); (on_goal 2 => clear hs)) | (extract_lets +onlyGivenNames v1; first | (have _ : Clocks := v1; subst v1) | (have _ : Fuses := v1; subst v1) | clear_value v1 | subst v1) | split | with_reducible apply Keeps2.mk | (unfold Keeps; dsimp only; with_reducible refine Keeps.of ?_))

theorem withRead_of {α : Type} {s0 s : State} {a n : Nat} {bad : Nat → State → α} {good : List Byte → State → α} {P : α → Prop}
    (hk0 : Keeps s0 s) (hb : ∀ w t, Keeps s0 t → P (bad w t)) (hg : ∀ b t, Keeps s0 t → P (good b t)) : P (withRead a n s bad good) := by
  unfold withRead
  have k : Keeps2 s0 (dramRead a n s) := dramRead_keeps hk0
  revert k
  generalize dramRead a n s = y
  intro k
  obtain ⟨y, z⟩ := y
  cases y with
  | error e => exact hb _ _ k
  | ok b => exact hg _ _ k
theorem withRead_keeps {s0 s : State} {a n : Nat} {bad : Nat → State → State} {good : List Byte → State → State}
    (hk0 : Keeps s0 s) (hb : ∀ w t, Keeps s0 t → Keeps s0 (bad w t)) (hg : ∀ b t, Keeps s0 t → Keeps s0 (good b t)) : Keeps s0 (withRead a n s bad good) :=
  withRead_of (P := Keeps s0) hk0 hb hg
theorem withRead_keeps2 {α : Type} {s0 s : State} {a n : Nat} {bad : Nat → State → α × State} {good : List Byte → State → α × State}
    (hk0 : Keeps s0 s) (hb : ∀ w t, Keeps s0 t → Keeps2 s0 (bad w t)) (hg : ∀ b t, Keeps s0 t → Keeps2 s0 (good b t)) : Keeps2 s0 (withRead a n s bad good) :=
  withRead_of (P := Keeps2 s0) hk0 hb hg
theorem noteMin_keeps {s0 s : State} (hk0 : Keeps s0 s) : Keeps s0 (noteMin s) := by
  unfold noteMin
  repeat' (first | with_reducible assumption | (extract_lets +onlyGivenNames s1; clear_value (hs : s1 = _); refine Keeps.cut (s0 := s0) (x := s1) ?_ (fun k1 => ?_); (on_goal 1 => subst hs); (on_goal 2 => clear hs)) | (extract_lets +onlyGivenNames v1; first | (have _ : Clocks := v1; subst v1) | (have _ : Fuses := v1; subst v1) | clear_value v1 | subst v1) | (unfold Keeps; dsimp only; with_reducible refine Keeps.of ?_))

theorem noteLow_keeps {s0 s : State} (hk0 : Keeps s0 s) : Keeps s0 (noteLow s) := by
  unfold noteLow
  repeat' (first | with_reducible assumption | with_reducible apply notify_keeps | (extract_lets +onlyGivenNames s1; clear_value (hs : s1 = _); refine Keeps.cut (s0 := s0) (x := s1) ?_ (fun k1 => ?_); (on_goal 1 => subst hs); (on_goal 2 => clear hs)) | (extract_lets +onlyGivenNames v1; first | (have _ : Clocks := v1; subst v1) | (have _ : Fuses := v1; subst v1) | clear_value v1 | subst v1) | split | (unfold Keeps; dsimp only; with_reducible refine Keeps.of ?_))

theorem takeBuffer_keeps {s0 s : State} {i : Nat} (hk0 : Keeps s0 s) : Keeps2 s0 (takeBuffer i s) := by
  unfold takeBuffer
  repeat' (first | with_reducible assumption | with_reducible apply drawn_keeps | with_reducible apply noteLow_keeps | with_reducible apply noteMin_keeps | with_reducible apply incF_keeps | (extract_lets +onlyGivenNames s1; clear_value (hs : s1 = _); refine Keeps.cut (s0 := s0) (x := s1) ?_ (fun k1 => ?_); (on_goal 1 => subst hs); (on_goal 2 => clear hs)) | (extract_lets +onlyGivenNames v1; first | (have _ : Clocks := v1; subst v1) | (have _ : Fuses := v1; subst v1) | clear_value v1 | subst v1) | with_reducible apply Keeps2.mk | (unfold Keeps; dsimp only; with_reducible refine Keeps.of ?_))

theorem poolAlloc_keeps {s0 s : State} {any : Bool} (hk0 : Keeps s0 s) : Keeps2 s0 (poolAlloc any s) := by
  unfold poolAlloc
  repeat' (first | with_reducible assumption | with_reducible apply incF_keeps | with_reducible apply takeBuffer_keeps | (with_reducible refine Keeps2.snd (takeBuffer_keeps ?_) (by assumption)) | (with_reducible refine Keeps.of2 (takeBuffer_keeps ?_)) | (extract_lets +onlyGivenNames s1; clear_value (hs : s1 = _); refine Keeps.cut (s0 := s0) (x := s1) ?_ (fun k1 => ?_); (on_goal 1 => subst hs); (on_goal 2 => clear hs)) | (extract_lets +onlyGivenNames v1; first | (have _ : Clocks := v1; subst v1) | (have _ : Fuses := v1; subst v1) | clear_value v1 | subst v1) | split | (with_reducible refine Keeps2.snd ?_ (by assumption)) | with_reducible apply Keeps2.mk | (unfold Keeps; dsimp only; with_reducible refine Keeps.of ?_))

theorem poolFree_keeps {s0 s : State} {h : Nat} (hk0 : Keeps s0 s) : Keeps s0 (poolFree h s) := by
  unfold poolFree
  repeat' (first | with_reducible assumption | with_reducible apply noteLow_keeps | with_reducible apply incF_keeps | (extract_lets +onlyGivenNames s1; clear_value (hs : s1 = _); refine Keeps.cut (s0 := s0) (x := s1) ?_ (fun k1 => ?_); (on_goal 1 => subst hs); (on_goal 2 => clear hs)) | (extract_lets +onlyGivenNames v1; first | (have _ : Clocks := v1; subst v1) | (have _ : Fuses := v1; subst v1) | clear_value v1 | subst v1) | split | (unfold Keeps; dsimp only; with_reducible refine Keeps.of ?_))

theorem poolFreeOpt_keeps {s0 s : State} {h : Option Nat} (hk0 : Keeps s0 s) : Keeps s0 (poolFree? h s) := by
  unfold poolFree?
  repeat' (first | with_reducible assumption | with_reducible apply poolFree_keeps | (extract_lets +onlyGivenNames s1; clear_value (hs : s1 = _); refine Keeps.cut (s0 := s0) (x := s1) ?_ (fun k1 => ?_); (on_goal 1 => subst hs); (on_goal 2 => clear hs)) | (extract_lets +onlyGivenNames v1; first | (have _ : Clocks := v1; subst v1) | (have _ : Fuses := v1; subst v1) | clear_value v1 | subst v1) | split | (unfold Keeps; dsimp only; with_reducible refine Keeps.of ?_))

theorem poolHold_keeps {s0 s : State} {h : Nat} (hk0 : Keeps s0 s) : Keeps s0 (poolHold h s) := by
  unfold poolHold
  repeat' (first | with_reducible assumption | (extract_lets +onlyGivenNames s1; clear_value (hs : s1 = _); refine Keeps.cut (s0 := s0) (x := s1) ?_ (fun k1 => ?_); (on_goal 1 => subst hs); (on_goal 2 => clear hs)) | (extract_lets +onlyGivenNames v1; first | (have _ : Clocks := v1; subst v1) | (have _ : Fuses := v1; subst v1) | clear_value v1 | subst v1) | (unfold Keeps; dsimp only; with_reducible refine Keeps.of ?_))


end Sys2Proof.Machine
end

