-- ==== Sys2Proof/Laws/KeepsDemodOps.lean ====
section
/-! SUPPORT. What the operations of Machine/DemodOps.lean keep. -/

set_option linter.unusedTactic false
set_option linter.unreachableTactic false
set_option linter.unusedVariables false

namespace Sys2Proof.Machine

theorem setDemod_keeps {s0 s : State} {n d : Nat} {x : Option Demod} (hk0 : Keeps s0 s) : Keeps s0 (State.setDemod s n d x) := by
  unfold State.setDemod
  repeat' (first | with_reducible assumption | (extract_lets +onlyGivenNames s1; clear_value (hs : s1 = _); refine Keeps.cut (s0 := s0) (x := s1) ?_ (fun k1 => ?_); (on_goal 1 => subst hs); (on_goal 2 => clear hs)) | (extract_lets +onlyGivenNames v1; first | (have _ : Clocks := v1; subst v1) | (have _ : Fuses := v1; subst v1) | clear_value v1 | subst v1) | (unfold Keeps; dsimp only; with_reducible refine Keeps.of ?_))

theorem syncPool_keeps {s0 s : State} {n : Nat} (hk0 : Keeps s0 s) : Keeps s0 (syncPool n s) := by
  unfold syncPool
  repeat' (first | with_reducible assumption | with_reducible apply setF_keeps | (extract_lets +onlyGivenNames s1; clear_value (hs : s1 = _); refine Keeps.cut (s0 := s0) (x := s1) ?_ (fun k1 => ?_); (on_goal 1 => subst hs); (on_goal 2 => clear hs)) | (extract_lets +onlyGivenNames v1; first | (have _ : Clocks := v1; subst v1) | (have _ : Fuses := v1; subst v1) | clear_value v1 | subst v1) | split)

theorem addBusy_keeps {s0 s : State} {x : Demod} (hk0 : Keeps s0 s) : Keeps s0 (addBusy x s) := by
  unfold addBusy
  repeat' (first | with_reducible assumption | (extract_lets +onlyGivenNames s1; clear_value (hs : s1 = _); refine Keeps.cut (s0 := s0) (x := s1) ?_ (fun k1 => ?_); (on_goal 1 => subst hs); (on_goal 2 => clear hs)) | (extract_lets +onlyGivenNames v1; first | (have _ : Clocks := v1; subst v1) | (have _ : Fuses := v1; subst v1) | clear_value v1 | subst v1) | (unfold Keeps; dsimp only; with_reducible refine Keeps.of ?_))

theorem releaseDemod_keeps {s0 s : State} {n d : Nat} {handedOn : Bool} (hk0 : Keeps s0 s) : Keeps s0 (releaseDemod n d handedOn s) := by
  unfold releaseDemod
  repeat' (first | with_reducible assumption | with_reducible apply syncPool_keeps | with_reducible apply addBusy_keeps | with_reducible apply setDemod_keeps | with_reducible apply poolFree_keeps | (extract_lets +onlyGivenNames s1; clear_value (hs : s1 = _); refine Keeps.cut (s0 := s0) (x := s1) ?_ (fun k1 => ?_); (on_goal 1 => subst hs); (on_goal 2 => clear hs)) | (extract_lets +onlyGivenNames v1; first | (have _ : Clocks := v1; subst v1) | (have _ : Fuses := v1; subst v1) | clear_value v1 | subst v1) | split | (unfold Keeps; dsimp only; with_reducible refine Keeps.of ?_))

theorem recordFail_keeps {s0 s : State} {n o channel mode : Nat} {rssi : Int} (hk0 : Keeps s0 s) : Keeps s0 (recordFail n o channel mode rssi s) := by
  unfold recordFail
  repeat' (first | with_reducible assumption | with_reducible apply incF_keeps | with_reducible apply setReg_keeps)

theorem failRx_keeps {s0 s : State} {n d o : Nat} (hk0 : Keeps s0 s) : Keeps s0 (failRx n d o s) := by
  unfold failRx
  repeat' (first | with_reducible assumption | with_reducible apply releaseDemod_keeps | with_reducible apply recordFail_keeps | (extract_lets +onlyGivenNames s1; clear_value (hs : s1 = _); refine Keeps.cut (s0 := s0) (x := s1) ?_ (fun k1 => ?_); (on_goal 1 => subst hs); (on_goal 2 => clear hs)) | (extract_lets +onlyGivenNames v1; first | (have _ : Clocks := v1; subst v1) | (have _ : Fuses := v1; subst v1) | clear_value v1 | subst v1) | split | (unfold Keeps; dsimp only; with_reducible refine Keeps.of ?_))

theorem blankPort_keeps {s0 s : State} {n : Nat} (hk0 : Keeps s0 s) : Keeps s0 (blankPort n s) := by
  unfold blankPort
  repeat' (first | with_reducible assumption | with_reducible apply failRx_keeps | with_reducible apply Keeps.foldl | intro _ _ _ | intro _ _)

theorem setSlotFlag_keeps {s0 s : State} {n b : Nat} (hk0 : Keeps s0 s) : Keeps s0 (setSlotFlag n b s) := by
  unfold setSlotFlag
  repeat' (first | with_reducible assumption | (extract_lets +onlyGivenNames s1; clear_value (hs : s1 = _); refine Keeps.cut (s0 := s0) (x := s1) ?_ (fun k1 => ?_); (on_goal 1 => subst hs); (on_goal 2 => clear hs)) | (extract_lets +onlyGivenNames v1; first | (have _ : Clocks := v1; subst v1) | (have _ : Fuses := v1; subst v1) | clear_value v1 | subst v1) | split | (unfold Keeps; dsimp only; with_reducible refine Keeps.of ?_))


end Sys2Proof.Machine
end

