-- ==== Sys2Proof/Laws/KeepsPairOps.lean ====
section
/-! SUPPORT. What the operations of Machine/PairOps.lean keep. -/

set_option linter.unusedTactic false
set_option linter.unreachableTactic false
set_option linter.unusedVariables false

namespace Sys2Proof.Machine

theorem updPair_keeps {s0 s : State} {f : Pair → Pair} (hk0 : Keeps s0 s) : Keeps s0 (State.updPair s f) := by
  unfold State.updPair
  repeat' (first | with_reducible assumption | (extract_lets +onlyGivenNames s1; clear_value (hs : s1 = _); refine Keeps.cut (s0 := s0) (x := s1) ?_ (fun k1 => ?_); (on_goal 1 => subst hs); (on_goal 2 => clear hs)) | (extract_lets +onlyGivenNames v1; first | (have _ : Clocks := v1; subst v1) | (have _ : Fuses := v1; subst v1) | clear_value v1 | subst v1) | (unfold Keeps; dsimp only; with_reducible refine Keeps.of ?_))

theorem releaseOwnN_keeps {s0 s : State} (hk0 : Keeps s0 s) : Keeps s0 (releaseOwnN s) := by
  unfold releaseOwnN
  repeat' (first | with_reducible assumption | with_reducible apply setF_keeps | with_reducible apply updPair_keeps | (extract_lets +onlyGivenNames s1; clear_value (hs : s1 = _); refine Keeps.cut (s0 := s0) (x := s1) ?_ (fun k1 => ?_); (on_goal 1 => subst hs); (on_goal 2 => clear hs)) | (extract_lets +onlyGivenNames v1; first | (have _ : Clocks := v1; subst v1) | (have _ : Fuses := v1; subst v1) | clear_value v1 | subst v1) | split | (unfold Keeps; dsimp only; with_reducible refine Keeps.of ?_))

theorem requestTakeover_keeps {s0 s : State} (hk0 : Keeps s0 s) : Keeps s0 (requestTakeover s) := by
  unfold requestTakeover
  repeat' (first | with_reducible assumption | with_reducible apply updPair_keeps | (extract_lets +onlyGivenNames s1; clear_value (hs : s1 = _); refine Keeps.cut (s0 := s0) (x := s1) ?_ (fun k1 => ?_); (on_goal 1 => subst hs); (on_goal 2 => clear hs)) | (extract_lets +onlyGivenNames v1; first | (have _ : Clocks := v1; subst v1) | (have _ : Fuses := v1; subst v1) | clear_value v1 | subst v1) | split | (unfold Keeps; dsimp only; with_reducible refine Keeps.of ?_))

theorem abandonTakeover_keeps {s0 s : State} (hk0 : Keeps s0 s) : Keeps s0 (abandonTakeover s) := by
  unfold abandonTakeover
  repeat' (first | with_reducible assumption | with_reducible apply updPair_keeps | (extract_lets +onlyGivenNames s1; clear_value (hs : s1 = _); refine Keeps.cut (s0 := s0) (x := s1) ?_ (fun k1 => ?_); (on_goal 1 => subst hs); (on_goal 2 => clear hs)) | (extract_lets +onlyGivenNames v1; first | (have _ : Clocks := v1; subst v1) | (have _ : Fuses := v1; subst v1) | clear_value v1 | subst v1) | (unfold Keeps; dsimp only; with_reducible refine Keeps.of ?_))

theorem sendHello_keeps {s0 s : State} (hk0 : Keeps s0 s) : Keeps s0 (sendHello s) := by
  unfold sendHello
  repeat' (first | with_reducible assumption | with_reducible apply updPair_keeps | with_reducible apply emit_keeps | with_reducible apply drawn_keeps | (extract_lets +onlyGivenNames s1; clear_value (hs : s1 = _); refine Keeps.cut (s0 := s0) (x := s1) ?_ (fun k1 => ?_); (on_goal 1 => subst hs); (on_goal 2 => clear hs)) | (extract_lets +onlyGivenNames v1; first | (have _ : Clocks := v1; subst v1) | (have _ : Fuses := v1; subst v1) | clear_value v1 | subst v1) | (unfold Keeps; dsimp only; with_reducible refine Keeps.of ?_))

theorem sendLane_keeps {s0 s : State} {kind : Nat} {body : List Nat} (hk0 : Keeps s0 s) : Keeps s0 (sendLane kind body s) := by
  unfold sendLane
  repeat' (first | with_reducible assumption | with_reducible apply sendHello_keeps | with_reducible apply updPair_keeps | with_reducible apply emit_keeps | (extract_lets +onlyGivenNames s1; clear_value (hs : s1 = _); refine Keeps.cut (s0 := s0) (x := s1) ?_ (fun k1 => ?_); (on_goal 1 => subst hs); (on_goal 2 => clear hs)) | (extract_lets +onlyGivenNames v1; first | (have _ : Clocks := v1; subst v1) | (have _ : Fuses := v1; subst v1) | clear_value v1 | subst v1) | split | (unfold Keeps; dsimp only; with_reducible refine Keeps.of ?_))

theorem abandonSnap_keeps {s0 s : State} (hk0 : Keeps s0 s) : Keeps s0 (abandonSnap s) := by
  unfold abandonSnap
  repeat' (first | with_reducible assumption | with_reducible apply updPair_keeps | with_reducible apply setF_keeps | with_reducible apply incF_keeps | (extract_lets +onlyGivenNames s1; clear_value (hs : s1 = _); refine Keeps.cut (s0 := s0) (x := s1) ?_ (fun k1 => ?_); (on_goal 1 => subst hs); (on_goal 2 => clear hs)) | (extract_lets +onlyGivenNames v1; first | (have _ : Clocks := v1; subst v1) | (have _ : Fuses := v1; subst v1) | clear_value v1 | subst v1) | split | (unfold Keeps; dsimp only; with_reducible refine Keeps.of ?_))

theorem startSnap_keeps {s0 s : State} (hk0 : Keeps s0 s) : Keeps s0 (startSnap s) := by
  unfold startSnap
  repeat' (first | with_reducible assumption | with_reducible apply updPair_keeps | with_reducible apply setF_keeps | with_reducible apply sendLane_keeps | (extract_lets +onlyGivenNames s1; clear_value (hs : s1 = _); refine Keeps.cut (s0 := s0) (x := s1) ?_ (fun k1 => ?_); (on_goal 1 => subst hs); (on_goal 2 => clear hs)) | (extract_lets +onlyGivenNames v1; first | (have _ : Clocks := v1; subst v1) | (have _ : Fuses := v1; subst v1) | clear_value v1 | subst v1) | split | (with_reducible refine Keeps2.snd ?_ (by assumption)) | with_reducible apply Keeps2.mk | (unfold Keeps; dsimp only; with_reducible refine Keeps.of ?_))

theorem triggerSnap_keeps {s0 s : State} (hk0 : Keeps s0 s) : Keeps s0 (triggerSnap s) := by
  unfold triggerSnap
  repeat' (first | with_reducible assumption | with_reducible apply updPair_keeps | with_reducible apply startSnap_keeps | (extract_lets +onlyGivenNames s1; clear_value (hs : s1 = _); refine Keeps.cut (s0 := s0) (x := s1) ?_ (fun k1 => ?_); (on_goal 1 => subst hs); (on_goal 2 => clear hs)) | (extract_lets +onlyGivenNames v1; first | (have _ : Clocks := v1; subst v1) | (have _ : Fuses := v1; subst v1) | clear_value v1 | subst v1) | split | (unfold Keeps; dsimp only; with_reducible refine Keeps.of ?_))

theorem rebaseJournal_keeps {s0 s : State} (hk0 : Keeps s0 s) : Keeps s0 (rebaseJournal s) := by
  unfold rebaseJournal
  repeat' (first | with_reducible assumption | with_reducible apply updPair_keeps | with_reducible apply set64_keeps | (extract_lets +onlyGivenNames s1; clear_value (hs : s1 = _); refine Keeps.cut (s0 := s0) (x := s1) ?_ (fun k1 => ?_); (on_goal 1 => subst hs); (on_goal 2 => clear hs)) | (extract_lets +onlyGivenNames v1; first | (have _ : Clocks := v1; subst v1) | (have _ : Fuses := v1; subst v1) | clear_value v1 | subst v1) | (unfold Keeps; dsimp only; with_reducible refine Keeps.of ?_))

theorem invalidateJournal_keeps {s0 s : State} {why : Nat} (hk0 : Keeps s0 s) : Keeps s0 (invalidateJournal why s) := by
  unfold invalidateJournal
  repeat' (first | with_reducible assumption | with_reducible apply rebaseJournal_keeps | with_reducible apply abandonSnap_keeps | with_reducible apply setF_keeps | with_reducible apply notify_keeps | with_reducible apply incF_keeps | with_reducible apply triggerSnap_keeps | (extract_lets +onlyGivenNames s1; clear_value (hs : s1 = _); refine Keeps.cut (s0 := s0) (x := s1) ?_ (fun k1 => ?_); (on_goal 1 => subst hs); (on_goal 2 => clear hs)) | (extract_lets +onlyGivenNames v1; first | (have _ : Clocks := v1; subst v1) | (have _ : Fuses := v1; subst v1) | clear_value v1 | subst v1) | split)

theorem journalRec_keeps {s0 s : State} {body : List Nat} {n : Nat} (hk0 : Keeps s0 s) : Keeps s0 (journalRec body n s) := by
  unfold journalRec
  repeat' (first | with_reducible assumption | with_reducible apply invalidateJournal_keeps | with_reducible apply sendLane_keeps | with_reducible apply set64_keeps | with_reducible apply incF_keeps | with_reducible apply updPair_keeps | with_reducible apply triggerSnap_keeps | (extract_lets +onlyGivenNames s1; clear_value (hs : s1 = _); refine Keeps.cut (s0 := s0) (x := s1) ?_ (fun k1 => ?_); (on_goal 1 => subst hs); (on_goal 2 => clear hs)) | (extract_lets +onlyGivenNames v1; first | (have _ : Clocks := v1; subst v1) | (have _ : Fuses := v1; subst v1) | clear_value v1 | subst v1) | split | (unfold Keeps; dsimp only; with_reducible refine Keeps.of ?_))

theorem journalBlobs_keeps {s0 s : State} {a n : Nat} (hk0 : Keeps s0 s) : Keeps s0 (journalBlobs a n s) := by
  unfold journalBlobs
  repeat' (first | with_reducible assumption | with_reducible apply journalRec_keeps | with_reducible apply Keeps.foldl | (extract_lets +onlyGivenNames s1; clear_value (hs : s1 = _); refine Keeps.cut (s0 := s0) (x := s1) ?_ (fun k1 => ?_); (on_goal 1 => subst hs); (on_goal 2 => clear hs)) | (extract_lets +onlyGivenNames v1; first | (have _ : Clocks := v1; subst v1) | (have _ : Fuses := v1; subst v1) | clear_value v1 | subst v1) | intro _ _ _ | intro _ _ | split)

theorem writeDram_keeps {s0 s : State} {a : Nat} {b : List Byte} (hk0 : Keeps s0 s) : Keeps s0 (writeDram a b s) := by
  unfold writeDram
  repeat' (first | with_reducible assumption | with_reducible apply journalBlobs_keeps | with_reducible apply setBytes_keeps)


end Sys2Proof.Machine
end

