-- ==== Sys2Proof/Laws/KeepsJobOps.lean ====
section
/-! SUPPORT. What the operations of Machine/JobOps.lean keep. -/

set_option linter.unusedTactic false
set_option linter.unreachableTactic false
set_option linter.unusedVariables false

namespace Sys2Proof.Machine

theorem setJob_keeps {s0 s : State} {i : Nat} {j : Option Job} (hk0 : Keeps s0 s) : Keeps s0 (State.setJob s i j) := by
  unfold State.setJob
  repeat' (first | with_reducible assumption | (extract_lets +onlyGivenNames s1; clear_value (hs : s1 = _); refine Keeps.cut (s0 := s0) (x := s1) ?_ (fun k1 => ?_); (on_goal 1 => subst hs); (on_goal 2 => clear hs)) | (extract_lets +onlyGivenNames v1; first | (have _ : Clocks := v1; subst v1) | (have _ : Fuses := v1; subst v1) | clear_value v1 | subst v1) | (unfold Keeps; dsimp only; with_reducible refine Keeps.of ?_))

theorem setReady_keeps {s0 s : State} {c p : Nat} {l : List Nat} (hk0 : Keeps s0 s) : Keeps s0 (State.setReady s c p l) := by
  unfold State.setReady
  repeat' (first | with_reducible assumption | (extract_lets +onlyGivenNames s1; clear_value (hs : s1 = _); refine Keeps.cut (s0 := s0) (x := s1) ?_ (fun k1 => ?_); (on_goal 1 => subst hs); (on_goal 2 => clear hs)) | (extract_lets +onlyGivenNames v1; first | (have _ : Clocks := v1; subst v1) | (have _ : Fuses := v1; subst v1) | clear_value v1 | subst v1) | (unfold Keeps; dsimp only; with_reducible refine Keeps.of ?_))

theorem tracePut_keeps {s0 s : State} {bs : List Byte} (hk0 : Keeps s0 s) : Keeps s0 (tracePut bs s) := by
  unfold tracePut
  repeat' (first | with_reducible assumption | with_reducible apply setBytes_keeps | with_reducible apply incF_keeps | (extract_lets +onlyGivenNames s1; clear_value (hs : s1 = _); refine Keeps.cut (s0 := s0) (x := s1) ?_ (fun k1 => ?_); (on_goal 1 => subst hs); (on_goal 2 => clear hs)) | (extract_lets +onlyGivenNames v1; first | (have _ : Clocks := v1; subst v1) | (have _ : Fuses := v1; subst v1) | clear_value v1 | subst v1))

theorem traceRing_keeps {s0 s : State} {bs : List Byte} (hk0 : Keeps s0 s) : Keeps s0 (traceRing bs s) := by
  unfold traceRing
  repeat' (first | with_reducible assumption | with_reducible apply satF_keeps | with_reducible apply tracePut_keeps | (extract_lets +onlyGivenNames s1; clear_value (hs : s1 = _); refine Keeps.cut (s0 := s0) (x := s1) ?_ (fun k1 => ?_); (on_goal 1 => subst hs); (on_goal 2 => clear hs)) | (extract_lets +onlyGivenNames v1; first | (have _ : Clocks := v1; subst v1) | (have _ : Fuses := v1; subst v1) | clear_value v1 | subst v1) | split | (unfold Keeps; dsimp only; with_reducible refine Keeps.of ?_))

theorem tracePort_keeps {s0 s : State} {bs : List Byte} (hk0 : Keeps s0 s) : Keeps s0 (tracePort bs s) := by
  unfold tracePort
  repeat' (first | with_reducible assumption | with_reducible apply satF_keeps | with_reducible apply emit_keeps | with_reducible apply trace_keeps | (extract_lets +onlyGivenNames s1; clear_value (hs : s1 = _); refine Keeps.cut (s0 := s0) (x := s1) ?_ (fun k1 => ?_); (on_goal 1 => subst hs); (on_goal 2 => clear hs)) | (extract_lets +onlyGivenNames v1; first | (have _ : Clocks := v1; subst v1) | (have _ : Fuses := v1; subst v1) | clear_value v1 | subst v1) | split | (unfold Keeps; dsimp only; with_reducible refine Keeps.of ?_))

theorem trace_keeps {s0 s : State} {cls id prio event arg : Nat} (hk0 : Keeps s0 s) : Keeps s0 (trace cls id prio event arg s) := by
  unfold trace
  repeat' (first | with_reducible assumption | with_reducible apply traceRing_keeps | with_reducible apply tracePort_keeps | (extract_lets +onlyGivenNames s1; clear_value (hs : s1 = _); refine Keeps.cut (s0 := s0) (x := s1) ?_ (fun k1 => ?_); (on_goal 1 => subst hs); (on_goal 2 => clear hs)) | (extract_lets +onlyGivenNames v1; first | (have _ : Clocks := v1; subst v1) | (have _ : Fuses := v1; subst v1) | clear_value v1 | subst v1) | split)

theorem syncJobs_keeps {s0 s : State} (hk0 : Keeps s0 s) : Keeps s0 (syncJobs s) := by
  unfold syncJobs
  repeat' (first | with_reducible assumption | with_reducible apply setF_keeps)

theorem syncReady_keeps {s0 s : State} {c : Nat} (hk0 : Keeps s0 s) : Keeps s0 (syncReady c s) := by
  unfold syncReady
  repeat' (first | with_reducible assumption | with_reducible apply setReg_keeps | (extract_lets +onlyGivenNames s1; clear_value (hs : s1 = _); refine Keeps.cut (s0 := s0) (x := s1) ?_ (fun k1 => ?_); (on_goal 1 => subst hs); (on_goal 2 => clear hs)) | (extract_lets +onlyGivenNames v1; first | (have _ : Clocks := v1; subst v1) | (have _ : Fuses := v1; subst v1) | clear_value v1 | subst v1) | split | (unfold Keeps; dsimp only; with_reducible refine Keeps.of ?_))

theorem makeReady_keeps {s0 s : State} {i : Nat} {j : Job} (hk0 : Keeps s0 s) : Keeps s0 (makeReady i j s) := by
  unfold makeReady
  repeat' (first | with_reducible assumption | with_reducible apply setJob_keeps | with_reducible apply setReady_keeps | with_reducible apply trace_keeps | with_reducible apply syncJobs_keeps | with_reducible apply syncReady_keeps | (extract_lets +onlyGivenNames s1; clear_value (hs : s1 = _); refine Keeps.cut (s0 := s0) (x := s1) ?_ (fun k1 => ?_); (on_goal 1 => subst hs); (on_goal 2 => clear hs)) | (extract_lets +onlyGivenNames v1; first | (have _ : Clocks := v1; subst v1) | (have _ : Fuses := v1; subst v1) | clear_value v1 | subst v1) | (unfold Keeps; dsimp only; with_reducible refine Keeps.of ?_))

theorem createWith_keeps {s0 s : State} {i : Nat} {j : Job} (hk0 : Keeps s0 s) : Keeps s0 (createWith i j s) := by
  unfold createWith
  repeat' (first | with_reducible assumption | with_reducible apply makeReady_keeps | with_reducible apply trace_keeps | with_reducible apply incF_keeps)

theorem noteFull_keeps {s0 s : State} {cls : Nat} (hk0 : Keeps s0 s) : Keeps s0 (noteFull cls s) := by
  unfold noteFull
  repeat' (first | with_reducible assumption | with_reducible apply notify_keeps | (extract_lets +onlyGivenNames s1; clear_value (hs : s1 = _); refine Keeps.cut (s0 := s0) (x := s1) ?_ (fun k1 => ?_); (on_goal 1 => subst hs); (on_goal 2 => clear hs)) | (extract_lets +onlyGivenNames v1; first | (have _ : Clocks := v1; subst v1) | (have _ : Fuses := v1; subst v1) | clear_value v1 | subst v1) | split | (unfold Keeps; dsimp only; with_reducible refine Keeps.of ?_))

theorem createJob_keeps {s0 s : State} {mk : State → Job} (hk0 : Keeps s0 s) : Keeps s0 (createJob mk s) := by
  unfold createJob
  repeat' (first | with_reducible assumption | with_reducible apply createWith_keeps | with_reducible apply noteFull_keeps | with_reducible apply incF_keeps | (extract_lets +onlyGivenNames s1; clear_value (hs : s1 = _); refine Keeps.cut (s0 := s0) (x := s1) ?_ (fun k1 => ?_); (on_goal 1 => subst hs); (on_goal 2 => clear hs)) | (extract_lets +onlyGivenNames v1; first | (have _ : Clocks := v1; subst v1) | (have _ : Fuses := v1; subst v1) | clear_value v1 | subst v1) | split | (unfold Keeps; dsimp only; with_reducible refine Keeps.of ?_))

theorem freeJob_keeps {s0 s : State} {i : Nat} (hk0 : Keeps s0 s) : Keeps s0 (freeJob i s) := by
  unfold freeJob
  repeat' (first | with_reducible assumption | with_reducible apply syncJobs_keeps | with_reducible apply setJob_keeps | with_reducible apply createWith_keeps | (extract_lets +onlyGivenNames s1; clear_value (hs : s1 = _); refine Keeps.cut (s0 := s0) (x := s1) ?_ (fun k1 => ?_); (on_goal 1 => subst hs); (on_goal 2 => clear hs)) | (extract_lets +onlyGivenNames v1; first | (have _ : Clocks := v1; subst v1) | (have _ : Fuses := v1; subst v1) | clear_value v1 | subst v1) | split | (unfold Keeps; dsimp only; with_reducible refine Keeps.of ?_))

theorem leaveReady_keeps {s0 s : State} {i : Nat} {j : Job} (hk0 : Keeps s0 s) : Keeps s0 (leaveReady i j s) := by
  unfold leaveReady
  repeat' (first | with_reducible assumption | with_reducible apply syncReady_keeps | with_reducible apply setReady_keeps)

theorem completeJob_keeps {s0 s : State} {i : Nat} {j : Job} {status detail : Nat} {result : List Byte} (hk0 : Keeps s0 s) : Keeps s0 (completeJob i j status detail result s) := by
  unfold completeJob
  repeat' (first | with_reducible assumption | with_reducible apply syncJobs_keeps | with_reducible apply setJob_keeps | with_reducible apply incF_keeps | with_reducible apply trace_keeps | (extract_lets +onlyGivenNames s1; clear_value (hs : s1 = _); refine Keeps.cut (s0 := s0) (x := s1) ?_ (fun k1 => ?_); (on_goal 1 => subst hs); (on_goal 2 => clear hs)) | (extract_lets +onlyGivenNames v1; first | (have _ : Clocks := v1; subst v1) | (have _ : Fuses := v1; subst v1) | clear_value v1 | subst v1) | split | (unfold Keeps; dsimp only; with_reducible refine Keeps.of ?_))

theorem parkJob_keeps {s0 s : State} {i : Nat} {j : Job} {status detail : Nat} {context : List Byte} (hk0 : Keeps s0 s) : Keeps s0 (parkJob i j status detail context s) := by
  unfold parkJob
  repeat' (first | with_reducible assumption | with_reducible apply syncJobs_keeps | with_reducible apply setJob_keeps | with_reducible apply incF_keeps | with_reducible apply trace_keeps | with_reducible apply writeDram_keeps | with_reducible apply notify_keeps | (extract_lets +onlyGivenNames s1; clear_value (hs : s1 = _); refine Keeps.cut (s0 := s0) (x := s1) ?_ (fun k1 => ?_); (on_goal 1 => subst hs); (on_goal 2 => clear hs)) | (extract_lets +onlyGivenNames v1; first | (have _ : Clocks := v1; subst v1) | (have _ : Fuses := v1; subst v1) | clear_value v1 | subst v1) | split | (unfold Keeps; dsimp only; with_reducible refine Keeps.of ?_))

theorem cancelAllJobs_keeps {s0 s : State} (hk0 : Keeps s0 s) : Keeps s0 (cancelAllJobs s) := by
  unfold cancelAllJobs
  repeat' (first | with_reducible assumption | with_reducible apply syncJobs_keeps | with_reducible apply syncReady_keeps | with_reducible apply Keeps.foldl | (extract_lets +onlyGivenNames s1; clear_value (hs : s1 = _); refine Keeps.cut (s0 := s0) (x := s1) ?_ (fun k1 => ?_); (on_goal 1 => subst hs); (on_goal 2 => clear hs)) | (extract_lets +onlyGivenNames v1; first | (have _ : Clocks := v1; subst v1) | (have _ : Fuses := v1; subst v1) | clear_value v1 | subst v1) | intro _ _ _ | intro _ _ | (unfold Keeps; dsimp only; with_reducible refine Keeps.of ?_))


end Sys2Proof.Machine
end

