-- ==== Sys2Proof/Laws/KeepsCatOps.lean ====
section
/-! SUPPORT. What the operations of Machine/CatOps.lean keep. -/

set_option linter.unusedTactic false
set_option linter.unreachableTactic false
set_option linter.unusedVariables false

namespace Sys2Proof.Machine

theorem updCat_keeps {s0 s : State} {f : Catalogue → Catalogue} (hk0 : Keeps s0 s) : Keeps s0 (State.updCat s f) := by
  unfold State.updCat
  repeat' (first | with_reducible assumption | (extract_lets +onlyGivenNames s1; clear_value (hs : s1 = _); refine Keeps.cut (s0 := s0) (x := s1) ?_ (fun k1 => ?_); (on_goal 1 => subst hs); (on_goal 2 => clear hs)) | (extract_lets +onlyGivenNames v1; first | (have _ : Clocks := v1; subst v1) | (have _ : Fuses := v1; subst v1) | clear_value v1 | subst v1) | (unfold Keeps; dsimp only; with_reducible refine Keeps.of ?_))

theorem setLine_keeps {s0 s : State} {nix : Nat} {l : Option CacheLine} (hk0 : Keeps s0 s) : Keeps s0 (State.setLine s nix l) := by
  unfold State.setLine
  repeat' (first | with_reducible assumption | with_reducible apply updCat_keeps | (extract_lets +onlyGivenNames s1; clear_value (hs : s1 = _); refine Keeps.cut (s0 := s0) (x := s1) ?_ (fun k1 => ?_); (on_goal 1 => subst hs); (on_goal 2 => clear hs)) | (extract_lets +onlyGivenNames v1; first | (have _ : Clocks := v1; subst v1) | (have _ : Fuses := v1; subst v1) | clear_value v1 | subst v1) | (unfold Keeps; dsimp only; with_reducible refine Keeps.of ?_))

theorem writeBack_keeps {s0 s : State} {nix : Nat} (hk0 : Keeps s0 s) : Keeps s0 (writeBack nix s) := by
  unfold writeBack
  repeat' (first | with_reducible assumption | with_reducible apply setBytes_keeps | with_reducible apply setLine_keeps | with_reducible apply incF_keeps | (extract_lets +onlyGivenNames s1; clear_value (hs : s1 = _); refine Keeps.cut (s0 := s0) (x := s1) ?_ (fun k1 => ?_); (on_goal 1 => subst hs); (on_goal 2 => clear hs)) | (extract_lets +onlyGivenNames v1; first | (have _ : Clocks := v1; subst v1) | (have _ : Fuses := v1; subst v1) | clear_value v1 | subst v1) | split | (unfold Keeps; dsimp only; with_reducible refine Keeps.of ?_))

theorem evictLine_keeps {s0 s : State} (hk0 : Keeps s0 s) : Keeps s0 (evictLine s) := by
  unfold evictLine
  repeat' (first | with_reducible assumption | with_reducible apply writeBack_keeps | with_reducible apply setLine_keeps | with_reducible apply Keeps.foldl | (extract_lets +onlyGivenNames s1; clear_value (hs : s1 = _); refine Keeps.cut (s0 := s0) (x := s1) ?_ (fun k1 => ?_); (on_goal 1 => subst hs); (on_goal 2 => clear hs)) | (extract_lets +onlyGivenNames v1; first | (have _ : Clocks := v1; subst v1) | (have _ : Fuses := v1; subst v1) | clear_value v1 | subst v1) | intro _ _ _ | intro _ _ | split | (unfold Keeps; dsimp only; with_reducible refine Keeps.of ?_))

theorem fetchEntry_keeps {s0 s : State} {nix : Nat} (hk0 : Keeps s0 s) : Keeps s0 (fetchEntry nix s) := by
  unfold fetchEntry
  repeat' (first | with_reducible assumption | with_reducible apply setLine_keeps | with_reducible apply incF_keeps | with_reducible apply evictLine_keeps | with_reducible apply withRead_keeps | with_reducible apply notify_keeps | (extract_lets +onlyGivenNames s1; clear_value (hs : s1 = _); refine Keeps.cut (s0 := s0) (x := s1) ?_ (fun k1 => ?_); (on_goal 1 => subst hs); (on_goal 2 => clear hs)) | (extract_lets +onlyGivenNames v1; first | (have _ : Clocks := v1; subst v1) | (have _ : Fuses := v1; subst v1) | clear_value v1 | subst v1) | intro _ _ _ | intro _ _ | split | (unfold Keeps; dsimp only; with_reducible refine Keeps.of ?_))

theorem recount_keeps {s0 s : State} {nix : Nat} {a b : List Byte} (hk0 : Keeps s0 s) : Keeps s0 (recount nix a b s) := by
  unfold recount
  repeat' (first | with_reducible assumption | with_reducible apply updCat_keeps | with_reducible apply setF_keeps | (extract_lets +onlyGivenNames s1; clear_value (hs : s1 = _); refine Keeps.cut (s0 := s0) (x := s1) ?_ (fun k1 => ?_); (on_goal 1 => subst hs); (on_goal 2 => clear hs)) | (extract_lets +onlyGivenNames v1; first | (have _ : Clocks := v1; subst v1) | (have _ : Fuses := v1; subst v1) | clear_value v1 | subst v1) | split | (unfold Keeps; dsimp only; with_reducible refine Keeps.of ?_))

theorem setEntry_keeps {s0 s : State} {nix : Nat} {b : List Byte} (hk0 : Keeps s0 s) : Keeps s0 (setEntry nix b s) := by
  unfold setEntry
  repeat' (first | with_reducible assumption | with_reducible apply recount_keeps | with_reducible apply setLine_keeps | (extract_lets +onlyGivenNames s1; clear_value (hs : s1 = _); refine Keeps.cut (s0 := s0) (x := s1) ?_ (fun k1 => ?_); (on_goal 1 => subst hs); (on_goal 2 => clear hs)) | (extract_lets +onlyGivenNames v1; first | (have _ : Clocks := v1; subst v1) | (have _ : Fuses := v1; subst v1) | clear_value v1 | subst v1) | split | (unfold Keeps; dsimp only; with_reducible refine Keeps.of ?_))

theorem putEntry_keeps {s0 s : State} {nix : Nat} {b : List Byte} (hk0 : Keeps s0 s) : Keeps s0 (putEntry nix b s) := by
  unfold putEntry
  repeat' (first | with_reducible assumption | with_reducible apply journalRec_keeps | with_reducible apply setEntry_keeps)

theorem journalCtr_keeps {s0 s : State} {nix : Nat} (hk0 : Keeps s0 s) : Keeps s0 (journalCtr nix s) := by
  unfold journalCtr
  repeat' (first | with_reducible assumption | with_reducible apply journalRec_keeps | (extract_lets +onlyGivenNames s1; clear_value (hs : s1 = _); refine Keeps.cut (s0 := s0) (x := s1) ?_ (fun k1 => ?_); (on_goal 1 => subst hs); (on_goal 2 => clear hs)) | (extract_lets +onlyGivenNames v1; first | (have _ : Clocks := v1; subst v1) | (have _ : Fuses := v1; subst v1) | clear_value v1 | subst v1))

theorem withStrain_keeps {s0 s : State} {nix : Nat} {e : List Byte} (hk0 : Keeps s0 s) : Keeps s0 (withStrain nix e s) := by
  unfold withStrain
  repeat' (first | with_reducible assumption | with_reducible apply setEntry_keeps | with_reducible apply setF_keeps | (extract_lets +onlyGivenNames s1; clear_value (hs : s1 = _); refine Keeps.cut (s0 := s0) (x := s1) ?_ (fun k1 => ?_); (on_goal 1 => subst hs); (on_goal 2 => clear hs)) | (extract_lets +onlyGivenNames v1; first | (have _ : Clocks := v1; subst v1) | (have _ : Fuses := v1; subst v1) | clear_value v1 | subst v1) | split)

theorem readLedger_keeps {s0 s : State} {nix : Nat} (hk0 : Keeps s0 s) : Keeps2 s0 (readLedger nix s) := by
  unfold readLedger
  repeat' (first | with_reducible assumption | with_reducible apply withStrain_keeps | (extract_lets +onlyGivenNames s1; clear_value (hs : s1 = _); refine Keeps.cut (s0 := s0) (x := s1) ?_ (fun k1 => ?_); (on_goal 1 => subst hs); (on_goal 2 => clear hs)) | (extract_lets +onlyGivenNames v1; first | (have _ : Clocks := v1; subst v1) | (have _ : Fuses := v1; subst v1) | clear_value v1 | subst v1) | with_reducible apply Keeps2.mk | (unfold Keeps; dsimp only; with_reducible refine Keeps.of ?_))

theorem charge_keeps {s0 s : State} {nix nc : Nat} (hk0 : Keeps s0 s) : Keeps s0 (charge nix nc s) := by
  unfold charge
  repeat' (first | with_reducible assumption | with_reducible apply withStrain_keeps | with_reducible apply incF_keeps | (extract_lets +onlyGivenNames s1; clear_value (hs : s1 = _); refine Keeps.cut (s0 := s0) (x := s1) ?_ (fun k1 => ?_); (on_goal 1 => subst hs); (on_goal 2 => clear hs)) | (extract_lets +onlyGivenNames v1; first | (have _ : Clocks := v1; subst v1) | (have _ : Fuses := v1; subst v1) | clear_value v1 | subst v1) | (unfold Keeps; dsimp only; with_reducible refine Keeps.of ?_))

theorem settingOf_keeps {s0 s : State} {n nix : Nat} (hk0 : Keeps s0 s) : Keeps2 s0 (settingOf n nix s) := by
  unfold settingOf
  repeat' (first | with_reducible assumption | with_reducible apply readLedger_keeps | (with_reducible refine Keeps2.snd (readLedger_keeps ?_) (by assumption)) | (with_reducible refine Keeps.of2 (readLedger_keeps ?_)) | (extract_lets +onlyGivenNames s1; clear_value (hs : s1 = _); refine Keeps.cut (s0 := s0) (x := s1) ?_ (fun k1 => ?_); (on_goal 1 => subst hs); (on_goal 2 => clear hs)) | (extract_lets +onlyGivenNames v1; first | (have _ : Clocks := v1; subst v1) | (have _ : Fuses := v1; subst v1) | clear_value v1 | subst v1) | split | (with_reducible refine Keeps2.snd ?_ (by assumption)) | with_reducible apply Keeps2.mk)

theorem syncRoster_keeps {s0 s : State} (hk0 : Keeps s0 s) : Keeps s0 (syncRoster s) := by
  unfold syncRoster
  repeat' (first | with_reducible assumption | with_reducible apply setF_keeps)

theorem joinRoster_keeps {s0 s : State} {nix : Nat} (hk0 : Keeps s0 s) : Keeps s0 (joinRoster nix s) := by
  unfold joinRoster
  repeat' (first | with_reducible assumption | with_reducible apply syncRoster_keeps | with_reducible apply updCat_keeps | with_reducible apply incF_keeps | with_reducible apply notify_keeps | (extract_lets +onlyGivenNames s1; clear_value (hs : s1 = _); refine Keeps.cut (s0 := s0) (x := s1) ?_ (fun k1 => ?_); (on_goal 1 => subst hs); (on_goal 2 => clear hs)) | (extract_lets +onlyGivenNames v1; first | (have _ : Clocks := v1; subst v1) | (have _ : Fuses := v1; subst v1) | clear_value v1 | subst v1) | split | (unfold Keeps; dsimp only; with_reducible refine Keeps.of ?_))

theorem leaveRoster_keeps {s0 s : State} {nix : Nat} (hk0 : Keeps s0 s) : Keeps s0 (leaveRoster nix s) := by
  unfold leaveRoster
  repeat' (first | with_reducible assumption | with_reducible apply syncRoster_keeps | with_reducible apply updCat_keeps | (extract_lets +onlyGivenNames s1; clear_value (hs : s1 = _); refine Keeps.cut (s0 := s0) (x := s1) ?_ (fun k1 => ?_); (on_goal 1 => subst hs); (on_goal 2 => clear hs)) | (extract_lets +onlyGivenNames v1; first | (have _ : Clocks := v1; subst v1) | (have _ : Fuses := v1; subst v1) | clear_value v1 | subst v1) | (unfold Keeps; dsimp only; with_reducible refine Keeps.of ?_))


end Sys2Proof.Machine
end

