-- ==== Sys2Proof/Laws/KeepsShpOps.lean ====
section
/-! SUPPORT. What the operations of Machine/ShpOps.lean keep. -/

set_option linter.unusedTactic false
set_option linter.unreachableTactic false
set_option linter.unusedVariables false

namespace Sys2Proof.Machine

theorem updShp_keeps {s0 s : State} {f : Shaper → Shaper} (hk0 : Keeps s0 s) : Keeps s0 (State.updShp s f) := by
  unfold State.updShp
  repeat' (first | with_reducible assumption | (extract_lets +onlyGivenNames s1; clear_value (hs : s1 = _); refine Keeps.cut (s0 := s0) (x := s1) ?_ (fun k1 => ?_); (on_goal 1 => subst hs); (on_goal 2 => clear hs)) | (extract_lets +onlyGivenNames v1; first | (have _ : Clocks := v1; subst v1) | (have _ : Fuses := v1; subst v1) | clear_value v1 | subst v1) | (unfold Keeps; dsimp only; with_reducible refine Keeps.of ?_))

theorem setPortV_keeps {s0 s : State} {p v : Nat} (hk0 : Keeps s0 s) : Keeps s0 (setPortV p v s) := by
  unfold setPortV
  repeat' (first | with_reducible assumption | with_reducible apply updShp_keeps | (extract_lets +onlyGivenNames s1; clear_value (hs : s1 = _); refine Keeps.cut (s0 := s0) (x := s1) ?_ (fun k1 => ?_); (on_goal 1 => subst hs); (on_goal 2 => clear hs)) | (extract_lets +onlyGivenNames v1; first | (have _ : Clocks := v1; subst v1) | (have _ : Fuses := v1; subst v1) | clear_value v1 | subst v1) | (unfold Keeps; dsimp only; with_reducible refine Keeps.of ?_))

theorem setClassV_keeps {s0 s : State} {p c v : Nat} (hk0 : Keeps s0 s) : Keeps s0 (setClassV p c v s) := by
  unfold setClassV
  repeat' (first | with_reducible assumption | with_reducible apply updShp_keeps | (extract_lets +onlyGivenNames s1; clear_value (hs : s1 = _); refine Keeps.cut (s0 := s0) (x := s1) ?_ (fun k1 => ?_); (on_goal 1 => subst hs); (on_goal 2 => clear hs)) | (extract_lets +onlyGivenNames v1; first | (have _ : Clocks := v1; subst v1) | (have _ : Fuses := v1; subst v1) | clear_value v1 | subst v1) | (unfold Keeps; dsimp only; with_reducible refine Keeps.of ?_))

theorem setClassTag_keeps {s0 s : State} {p c v : Nat} (hk0 : Keeps s0 s) : Keeps s0 (setClassTag p c v s) := by
  unfold setClassTag
  repeat' (first | with_reducible assumption | with_reducible apply updShp_keeps | (extract_lets +onlyGivenNames s1; clear_value (hs : s1 = _); refine Keeps.cut (s0 := s0) (x := s1) ?_ (fun k1 => ?_); (on_goal 1 => subst hs); (on_goal 2 => clear hs)) | (extract_lets +onlyGivenNames v1; first | (have _ : Clocks := v1; subst v1) | (have _ : Fuses := v1; subst v1) | clear_value v1 | subst v1) | (unfold Keeps; dsimp only; with_reducible refine Keeps.of ?_))

theorem syncQueues_keeps {s0 s : State} (hk0 : Keeps s0 s) : Keeps s0 (syncQueues s) := by
  unfold syncQueues
  repeat' (first | with_reducible assumption | with_reducible apply setF_keeps)

theorem putQueue_keeps {s0 s : State} {q : Queue} (hk0 : Keeps s0 s) : Keeps s0 (putQueue q s) := by
  unfold putQueue
  repeat' (first | with_reducible assumption | with_reducible apply syncQueues_keeps | with_reducible apply updShp_keeps | (extract_lets +onlyGivenNames s1; clear_value (hs : s1 = _); refine Keeps.cut (s0 := s0) (x := s1) ?_ (fun k1 => ?_); (on_goal 1 => subst hs); (on_goal 2 => clear hs)) | (extract_lets +onlyGivenNames v1; first | (have _ : Clocks := v1; subst v1) | (have _ : Fuses := v1; subst v1) | clear_value v1 | subst v1) | split | (unfold Keeps; dsimp only; with_reducible refine Keeps.of ?_))

theorem noteLimit_keeps {s0 s : State} {k : NoticeKind} {p c : Nat} (hk0 : Keeps s0 s) : Keeps s0 (noteLimit k p c s) := by
  unfold noteLimit
  repeat' (first | with_reducible assumption | with_reducible apply notify_keeps | with_reducible apply updShp_keeps | (extract_lets +onlyGivenNames s1; clear_value (hs : s1 = _); refine Keeps.cut (s0 := s0) (x := s1) ?_ (fun k1 => ?_); (on_goal 1 => subst hs); (on_goal 2 => clear hs)) | (extract_lets +onlyGivenNames v1; first | (have _ : Clocks := v1; subst v1) | (have _ : Fuses := v1; subst v1) | clear_value v1 | subst v1) | split | (unfold Keeps; dsimp only; with_reducible refine Keeps.of ?_))

theorem noteDrop_keeps {s0 s : State} {f : SFrame} (hk0 : Keeps s0 s) : Keeps s0 (noteDrop f s) := by
  unfold noteDrop
  repeat' (first | with_reducible assumption | with_reducible apply updShp_keeps | (extract_lets +onlyGivenNames s1; clear_value (hs : s1 = _); refine Keeps.cut (s0 := s0) (x := s1) ?_ (fun k1 => ?_); (on_goal 1 => subst hs); (on_goal 2 => clear hs)) | (extract_lets +onlyGivenNames v1; first | (have _ : Clocks := v1; subst v1) | (have _ : Fuses := v1; subst v1) | clear_value v1 | subst v1) | split | (unfold Keeps; dsimp only; with_reducible refine Keeps.of ?_))

theorem refuseEntry_keeps {s0 s : State} {f : SFrame} {order : Nat} (hk0 : Keeps s0 s) : Keeps s0 (refuseEntry f order s) := by
  unfold refuseEntry
  repeat' (first | with_reducible assumption | with_reducible apply noteDrop_keeps | with_reducible apply incF_keeps | with_reducible apply noteLimit_keeps | (extract_lets +onlyGivenNames s1; clear_value (hs : s1 = _); refine Keeps.cut (s0 := s0) (x := s1) ?_ (fun k1 => ?_); (on_goal 1 => subst hs); (on_goal 2 => clear hs)) | (extract_lets +onlyGivenNames v1; first | (have _ : Clocks := v1; subst v1) | (have _ : Fuses := v1; subst v1) | clear_value v1 | subst v1) | split)

theorem enterQueue_keeps {s0 s : State} {f : SFrame} (hk0 : Keeps s0 s) : Keeps s0 (enterQueue f s) := by
  unfold enterQueue
  repeat' (first | with_reducible assumption | with_reducible apply incF_keeps | with_reducible apply setClassTag_keeps | with_reducible apply putQueue_keeps | (extract_lets +onlyGivenNames s1; clear_value (hs : s1 = _); refine Keeps.cut (s0 := s0) (x := s1) ?_ (fun k1 => ?_); (on_goal 1 => subst hs); (on_goal 2 => clear hs)) | (extract_lets +onlyGivenNames v1; first | (have _ : Clocks := v1; subst v1) | (have _ : Fuses := v1; subst v1) | clear_value v1 | subst v1) | split | (unfold Keeps; dsimp only; with_reducible refine Keeps.of ?_))

theorem payClass_keeps {s0 s : State} {p c len : Nat} (hk0 : Keeps s0 s) : Keeps s0 (payClass p c len s) := by
  unfold payClass
  repeat' (first | with_reducible assumption | with_reducible apply setClassTag_keeps | with_reducible apply setPortV_keeps | (extract_lets +onlyGivenNames s1; clear_value (hs : s1 = _); refine Keeps.cut (s0 := s0) (x := s1) ?_ (fun k1 => ?_); (on_goal 1 => subst hs); (on_goal 2 => clear hs)) | (extract_lets +onlyGivenNames v1; first | (have _ : Clocks := v1; subst v1) | (have _ : Fuses := v1; subst v1) | clear_value v1 | subst v1) | split)

theorem noteServed_keeps {s0 s : State} {p c : Nat} (hk0 : Keeps s0 s) : Keeps s0 (noteServed p c s) := by
  unfold noteServed
  repeat' (first | with_reducible assumption | with_reducible apply updShp_keeps | (extract_lets +onlyGivenNames s1; clear_value (hs : s1 = _); refine Keeps.cut (s0 := s0) (x := s1) ?_ (fun k1 => ?_); (on_goal 1 => subst hs); (on_goal 2 => clear hs)) | (extract_lets +onlyGivenNames v1; first | (have _ : Clocks := v1; subst v1) | (have _ : Fuses := v1; subst v1) | clear_value v1 | subst v1) | (unfold Keeps; dsimp only; with_reducible refine Keeps.of ?_))

theorem dropHead_keeps {s0 s : State} {q : Queue} (hk0 : Keeps s0 s) : Keeps s0 (dropHead q s) := by
  unfold dropHead
  repeat' (first | with_reducible assumption | with_reducible apply putQueue_keeps | (extract_lets +onlyGivenNames s1; clear_value (hs : s1 = _); refine Keeps.cut (s0 := s0) (x := s1) ?_ (fun k1 => ?_); (on_goal 1 => subst hs); (on_goal 2 => clear hs)) | (extract_lets +onlyGivenNames v1; first | (have _ : Clocks := v1; subst v1) | (have _ : Fuses := v1; subst v1) | clear_value v1 | subst v1) | (unfold Keeps; dsimp only; with_reducible refine Keeps.of ?_))

theorem unqueueDl_keeps {s0 s : State} {id : Nat} (hk0 : Keeps s0 s) : Keeps s0 (unqueueDl id s) := by
  unfold unqueueDl
  repeat' (first | with_reducible assumption | with_reducible apply syncQueues_keeps | with_reducible apply updShp_keeps | (extract_lets +onlyGivenNames s1; clear_value (hs : s1 = _); refine Keeps.cut (s0 := s0) (x := s1) ?_ (fun k1 => ?_); (on_goal 1 => subst hs); (on_goal 2 => clear hs)) | (extract_lets +onlyGivenNames v1; first | (have _ : Clocks := v1; subst v1) | (have _ : Fuses := v1; subst v1) | clear_value v1 | subst v1) | (unfold Keeps; dsimp only; with_reducible refine Keeps.of ?_))

theorem queueRecFor_keeps {s0 s : State} {p node : Nat} {r : Rec} {buffer wait : Option Nat} (hk0 : Keeps s0 s) : Keeps s0 (queueRecFor p node r buffer wait s) := by
  unfold queueRecFor
  repeat' (first | with_reducible assumption | with_reducible apply updShp_keeps | (extract_lets +onlyGivenNames s1; clear_value (hs : s1 = _); refine Keeps.cut (s0 := s0) (x := s1) ?_ (fun k1 => ?_); (on_goal 1 => subst hs); (on_goal 2 => clear hs)) | (extract_lets +onlyGivenNames v1; first | (have _ : Clocks := v1; subst v1) | (have _ : Fuses := v1; subst v1) | clear_value v1 | subst v1) | (unfold Keeps; dsimp only; with_reducible refine Keeps.of ?_))

theorem queueRec_keeps {s0 s : State} {p : Nat} {r : Rec} {buffer wait : Option Nat} (hk0 : Keeps s0 s) : Keeps s0 (queueRec p r buffer wait s) := by
  unfold queueRec
  repeat' (first | with_reducible assumption | with_reducible apply queueRecFor_keeps)


end Sys2Proof.Machine
end

