-- ==== Sys2Proof/Laws/KeepsXchOps.lean ====
section
/-! SUPPORT. What the operations of Machine/XchOps.lean keep. -/

set_option linter.unusedTactic false
set_option linter.unreachableTactic false
set_option linter.unusedVariables false

namespace Sys2Proof.Machine

theorem updXch_keeps {s0 s : State} {f : Exchange → Exchange} (hk0 : Keeps s0 s) : Keeps s0 (State.updXch s f) := by
  unfold State.updXch
  repeat' (first | with_reducible assumption | (extract_lets +onlyGivenNames s1; clear_value (hs : s1 = _); refine Keeps.cut (s0 := s0) (x := s1) ?_ (fun k1 => ?_); (on_goal 1 => subst hs); (on_goal 2 => clear hs)) | (extract_lets +onlyGivenNames v1; first | (have _ : Clocks := v1; subst v1) | (have _ : Fuses := v1; subst v1) | clear_value v1 | subst v1) | (unfold Keeps; dsimp only; with_reducible refine Keeps.of ?_))

theorem updSlt_keeps {s0 s : State} {f : Slots → Slots} (hk0 : Keeps s0 s) : Keeps s0 (State.updSlt s f) := by
  unfold State.updSlt
  repeat' (first | with_reducible assumption | (extract_lets +onlyGivenNames s1; clear_value (hs : s1 = _); refine Keeps.cut (s0 := s0) (x := s1) ?_ (fun k1 => ?_); (on_goal 1 => subst hs); (on_goal 2 => clear hs)) | (extract_lets +onlyGivenNames v1; first | (have _ : Clocks := v1; subst v1) | (have _ : Fuses := v1; subst v1) | clear_value v1 | subst v1) | (unfold Keeps; dsimp only; with_reducible refine Keeps.of ?_))

theorem setAcc_keeps {s0 s : State} {i : Nat} {a : Option Accept} (hk0 : Keeps s0 s) : Keeps s0 (State.setAcc s i a) := by
  unfold State.setAcc
  repeat' (first | with_reducible assumption | with_reducible apply updXch_keeps | (extract_lets +onlyGivenNames s1; clear_value (hs : s1 = _); refine Keeps.cut (s0 := s0) (x := s1) ?_ (fun k1 => ?_); (on_goal 1 => subst hs); (on_goal 2 => clear hs)) | (extract_lets +onlyGivenNames v1; first | (have _ : Clocks := v1; subst v1) | (have _ : Fuses := v1; subst v1) | clear_value v1 | subst v1) | (unfold Keeps; dsimp only; with_reducible refine Keeps.of ?_))

theorem setDl_keeps {s0 s : State} {i : Nat} {d : Option Dl} (hk0 : Keeps s0 s) : Keeps s0 (State.setDl s i d) := by
  unfold State.setDl
  repeat' (first | with_reducible assumption | with_reducible apply updXch_keeps | (extract_lets +onlyGivenNames s1; clear_value (hs : s1 = _); refine Keeps.cut (s0 := s0) (x := s1) ?_ (fun k1 => ?_); (on_goal 1 => subst hs); (on_goal 2 => clear hs)) | (extract_lets +onlyGivenNames v1; first | (have _ : Clocks := v1; subst v1) | (have _ : Fuses := v1; subst v1) | clear_value v1 | subst v1) | (unfold Keeps; dsimp only; with_reducible refine Keeps.of ?_))

theorem updDl_keeps {s0 s : State} {i : Nat} {f : Dl → Dl} (hk0 : Keeps s0 s) : Keeps s0 (State.updDl s i f) := by
  unfold State.updDl
  repeat' (first | with_reducible assumption | with_reducible apply setDl_keeps | (extract_lets +onlyGivenNames s1; clear_value (hs : s1 = _); refine Keeps.cut (s0 := s0) (x := s1) ?_ (fun k1 => ?_); (on_goal 1 => subst hs); (on_goal 2 => clear hs)) | (extract_lets +onlyGivenNames v1; first | (have _ : Clocks := v1; subst v1) | (have _ : Fuses := v1; subst v1) | clear_value v1 | subst v1) | split | (unfold Keeps; dsimp only; with_reducible refine Keeps.of ?_))

theorem schedDone_keeps {s0 s : State} {nix status : Nat} (hk0 : Keeps s0 s) : Keeps s0 (schedDone nix status s) := by
  unfold schedDone
  repeat' (first | with_reducible assumption | with_reducible apply updSlt_keeps | with_reducible apply notify_keeps | with_reducible apply incF_keeps | (extract_lets +onlyGivenNames s1; clear_value (hs : s1 = _); refine Keeps.cut (s0 := s0) (x := s1) ?_ (fun k1 => ?_); (on_goal 1 => subst hs); (on_goal 2 => clear hs)) | (extract_lets +onlyGivenNames v1; first | (have _ : Clocks := v1; subst v1) | (have _ : Fuses := v1; subst v1) | clear_value v1 | subst v1) | split | (unfold Keeps; dsimp only; with_reducible refine Keeps.of ?_))

theorem addDl_keeps {s0 s : State} {d : Dl} {len : Nat} (hk0 : Keeps s0 s) : Keeps s0 (addDl d len s) := by
  unfold addDl
  repeat' (first | with_reducible assumption | with_reducible apply updXch_keeps | with_reducible apply setDl_keeps | with_reducible apply updShp_keeps | (extract_lets +onlyGivenNames s1; clear_value (hs : s1 = _); refine Keeps.cut (s0 := s0) (x := s1) ?_ (fun k1 => ?_); (on_goal 1 => subst hs); (on_goal 2 => clear hs)) | (extract_lets +onlyGivenNames v1; first | (have _ : Clocks := v1; subst v1) | (have _ : Fuses := v1; subst v1) | clear_value v1 | subst v1) | (unfold Keeps; dsimp only; with_reducible refine Keeps.of ?_))

theorem sendNode_keeps {s0 s : State} {nix cls : Nat} {src : DlSource} {payload : List Byte} {relay : Bool} (hk0 : Keeps s0 s) : Keeps s0 (sendNode nix cls src payload relay s) := by
  unfold sendNode
  repeat' (first | with_reducible assumption | with_reducible apply addDl_keeps)

theorem syncReceipts_keeps {s0 s : State} (hk0 : Keeps s0 s) : Keeps s0 (syncReceipts s) := by
  unfold syncReceipts
  repeat' (first | with_reducible assumption | with_reducible apply setF_keeps)

theorem setReceipt_keeps {s0 s : State} {i : Nat} {r : Option Receipt} (hk0 : Keeps s0 s) : Keeps s0 (setReceipt i r s) := by
  unfold setReceipt
  repeat' (first | with_reducible assumption | with_reducible apply syncReceipts_keeps | with_reducible apply updXch_keeps | with_reducible apply journalRec_keeps | (extract_lets +onlyGivenNames s1; clear_value (hs : s1 = _); refine Keeps.cut (s0 := s0) (x := s1) ?_ (fun k1 => ?_); (on_goal 1 => subst hs); (on_goal 2 => clear hs)) | (extract_lets +onlyGivenNames v1; first | (have _ : Clocks := v1; subst v1) | (have _ : Fuses := v1; subst v1) | clear_value v1 | subst v1) | split | (unfold Keeps; dsimp only; with_reducible refine Keeps.of ?_))

theorem dlStatus_keeps {s0 s : State} {d : Dl} {status : Nat} (hk0 : Keeps s0 s) : Keeps s0 (dlStatus d status s) := by
  unfold dlStatus
  repeat' (first | with_reducible assumption | with_reducible apply queueRec_keeps | (extract_lets +onlyGivenNames s1; clear_value (hs : s1 = _); refine Keeps.cut (s0 := s0) (x := s1) ?_ (fun k1 => ?_); (on_goal 1 => subst hs); (on_goal 2 => clear hs)) | (extract_lets +onlyGivenNames v1; first | (have _ : Clocks := v1; subst v1) | (have _ : Fuses := v1; subst v1) | clear_value v1 | subst v1) | split | (unfold Keeps; dsimp only; with_reducible refine Keeps.of ?_))

theorem assocNone_keeps {s0 s : State} {nix updStatus : Nat} (hk0 : Keeps s0 s) : Keeps s0 (assocNone nix updStatus s) := by
  unfold assocNone
  repeat' (first | with_reducible assumption | with_reducible apply putEntry_keeps | with_reducible apply leaveRoster_keeps | with_reducible apply schedDone_keeps | (extract_lets +onlyGivenNames s1; clear_value (hs : s1 = _); refine Keeps.cut (s0 := s0) (x := s1) ?_ (fun k1 => ?_); (on_goal 1 => subst hs); (on_goal 2 => clear hs)) | (extract_lets +onlyGivenNames v1; first | (have _ : Clocks := v1; subst v1) | (have _ : Fuses := v1; subst v1) | clear_value v1 | subst v1) | split | (unfold Keeps; dsimp only; with_reducible refine Keeps.of ?_))

theorem dlReportBase_keeps {s0 s : State} {d : Dl} {status : Nat} (hk0 : Keeps s0 s) : Keeps s0 (dlReportBase d status s) := by
  unfold dlReportBase
  repeat' (first | with_reducible assumption | with_reducible apply incF_keeps | with_reducible apply setReceipt_keeps | with_reducible apply updSlt_keeps | with_reducible apply schedDone_keeps | with_reducible apply setEntry_keeps | with_reducible apply dlStatus_keeps | (extract_lets +onlyGivenNames s1; clear_value (hs : s1 = _); refine Keeps.cut (s0 := s0) (x := s1) ?_ (fun k1 => ?_); (on_goal 1 => subst hs); (on_goal 2 => clear hs)) | (extract_lets +onlyGivenNames v1; first | (have _ : Clocks := v1; subst v1) | (have _ : Fuses := v1; subst v1) | clear_value v1 | subst v1) | split | (unfold Keeps; dsimp only; with_reducible refine Keeps.of ?_))

theorem dlCount_keeps {s0 s : State} {i : Nat} {d : Dl} {status : Nat} (hk0 : Keeps s0 s) : Keeps s0 (dlCount i d status s) := by
  unfold dlCount
  repeat' (first | with_reducible assumption | with_reducible apply unqueueDl_keeps | with_reducible apply setDl_keeps | with_reducible apply incF_keeps | with_reducible apply setEntry_keeps | with_reducible apply notify_keeps | (extract_lets +onlyGivenNames s1; clear_value (hs : s1 = _); refine Keeps.cut (s0 := s0) (x := s1) ?_ (fun k1 => ?_); (on_goal 1 => subst hs); (on_goal 2 => clear hs)) | (extract_lets +onlyGivenNames v1; first | (have _ : Clocks := v1; subst v1) | (have _ : Fuses := v1; subst v1) | clear_value v1 | subst v1) | split)

theorem cancelNode_keeps {s0 s : State} {nix : Nat} (hk0 : Keeps s0 s) : Keeps s0 (cancelNode nix s) := by
  unfold cancelNode
  repeat' (first | with_reducible assumption | with_reducible apply updDl_keeps | with_reducible apply dlReportBase_keeps | with_reducible apply dlCount_keeps | with_reducible apply incF_keeps | with_reducible apply Keeps.foldl | (extract_lets +onlyGivenNames s1; clear_value (hs : s1 = _); refine Keeps.cut (s0 := s0) (x := s1) ?_ (fun k1 => ?_); (on_goal 1 => subst hs); (on_goal 2 => clear hs)) | (extract_lets +onlyGivenNames v1; first | (have _ : Clocks := v1; subst v1) | (have _ : Fuses := v1; subst v1) | clear_value v1 | subst v1) | intro _ _ _ | intro _ _ | split | (unfold Keeps; dsimp only; with_reducible refine Keeps.of ?_))

theorem assocEnd_keeps {s0 s : State} {nix updStatus : Nat} (hk0 : Keeps s0 s) : Keeps s0 (assocEnd nix updStatus s) := by
  unfold assocEnd
  repeat' (first | with_reducible assumption | with_reducible apply cancelNode_keeps | with_reducible apply assocNone_keeps)

theorem dlEndOne_keeps {s0 s : State} {i : Nat} {d : Dl} {status : Nat} (hk0 : Keeps s0 s) : Keeps s0 (dlEndOne i d status s) := by
  unfold dlEndOne
  repeat' (first | with_reducible assumption | with_reducible apply dlReportBase_keeps | with_reducible apply dlCount_keeps | with_reducible apply notify_keeps | with_reducible apply assocEnd_keeps | with_reducible apply incF_keeps | (extract_lets +onlyGivenNames s1; clear_value (hs : s1 = _); refine Keeps.cut (s0 := s0) (x := s1) ?_ (fun k1 => ?_); (on_goal 1 => subst hs); (on_goal 2 => clear hs)) | (extract_lets +onlyGivenNames v1; first | (have _ : Clocks := v1; subst v1) | (have _ : Fuses := v1; subst v1) | clear_value v1 | subst v1) | split)

theorem dlEnd_keeps {s0 s : State} {i status : Nat} (hk0 : Keeps s0 s) : Keeps s0 (dlEnd i status s) := by
  unfold dlEnd
  repeat' (first | with_reducible assumption | with_reducible apply dlEndOne_keeps | with_reducible apply Keeps.foldl | (extract_lets +onlyGivenNames s1; clear_value (hs : s1 = _); refine Keeps.cut (s0 := s0) (x := s1) ?_ (fun k1 => ?_); (on_goal 1 => subst hs); (on_goal 2 => clear hs)) | (extract_lets +onlyGivenNames v1; first | (have _ : Clocks := v1; subst v1) | (have _ : Fuses := v1; subst v1) | clear_value v1 | subst v1) | intro _ _ _ | intro _ _ | split | (unfold Keeps; dsimp only; with_reducible refine Keeps.of ?_))

theorem preCharge_keeps {s0 s : State} {n : Nat} {h : Held} (hk0 : Keeps s0 s) : Keeps2 s0 (preCharge n h s) := by
  unfold preCharge
  repeat' (first | with_reducible assumption | with_reducible apply settingOf_keeps | (with_reducible refine Keeps2.snd (settingOf_keeps ?_) (by assumption)) | (with_reducible refine Keeps.of2 (settingOf_keeps ?_)) | (extract_lets +onlyGivenNames s1; clear_value (hs : s1 = _); refine Keeps.cut (s0 := s0) (x := s1) ?_ (fun k1 => ?_); (on_goal 1 => subst hs); (on_goal 2 => clear hs)) | (extract_lets +onlyGivenNames v1; first | (have _ : Clocks := v1; subst v1) | (have _ : Fuses := v1; subst v1) | clear_value v1 | subst v1) | split | (with_reducible refine Keeps2.snd ?_ (by assumption)) | with_reducible apply Keeps2.mk | (unfold Keeps; dsimp only; with_reducible refine Keeps.of ?_))

theorem reserveAck_keeps {s0 s : State} {n _ch e : Nat} (hk0 : Keeps s0 s) : Keeps s0 (reserveAck n _ch e s) := by
  unfold reserveAck
  repeat' (first | with_reducible assumption | with_reducible apply updXch_keeps | (extract_lets +onlyGivenNames s1; clear_value (hs : s1 = _); refine Keeps.cut (s0 := s0) (x := s1) ?_ (fun k1 => ?_); (on_goal 1 => subst hs); (on_goal 2 => clear hs)) | (extract_lets +onlyGivenNames v1; first | (have _ : Clocks := v1; subst v1) | (have _ : Fuses := v1; subst v1) | clear_value v1 | subst v1) | (unfold Keeps; dsimp only; with_reducible refine Keeps.of ?_))

theorem dropReserve_keeps {s0 s : State} {n e : Nat} (hk0 : Keeps s0 s) : Keeps s0 (dropReserve n e s) := by
  unfold dropReserve
  repeat' (first | with_reducible assumption | with_reducible apply updXch_keeps | (extract_lets +onlyGivenNames s1; clear_value (hs : s1 = _); refine Keeps.cut (s0 := s0) (x := s1) ?_ (fun k1 => ?_); (on_goal 1 => subst hs); (on_goal 2 => clear hs)) | (extract_lets +onlyGivenNames v1; first | (have _ : Clocks := v1; subst v1) | (have _ : Fuses := v1; subst v1) | clear_value v1 | subst v1) | (unfold Keeps; dsimp only; with_reducible refine Keeps.of ?_))

theorem closeAcc_keeps {s0 s : State} {i : Nat} (hk0 : Keeps s0 s) : Keeps s0 (closeAcc i s) := by
  unfold closeAcc
  repeat' (first | with_reducible assumption | with_reducible apply setAcc_keeps | (extract_lets +onlyGivenNames s1; clear_value (hs : s1 = _); refine Keeps.cut (s0 := s0) (x := s1) ?_ (fun k1 => ?_); (on_goal 1 => subst hs); (on_goal 2 => clear hs)) | (extract_lets +onlyGivenNames v1; first | (have _ : Clocks := v1; subst v1) | (have _ : Fuses := v1; subst v1) | clear_value v1 | subst v1) | split | (unfold Keeps; dsimp only; with_reducible refine Keeps.of ?_))

theorem chargeGuard_keeps {s0 s : State} {nix : Nat} (hk0 : Keeps s0 s) : Keeps s0 (chargeGuard nix s) := by
  unfold chargeGuard
  repeat' (first | with_reducible assumption | with_reducible apply charge_keeps | (extract_lets +onlyGivenNames s1; clear_value (hs : s1 = _); refine Keeps.cut (s0 := s0) (x := s1) ?_ (fun k1 => ?_); (on_goal 1 => subst hs); (on_goal 2 => clear hs)) | (extract_lets +onlyGivenNames v1; first | (have _ : Clocks := v1; subst v1) | (have _ : Fuses := v1; subst v1) | clear_value v1 | subst v1))

theorem chargeHeard_keeps {s0 s : State} {nix t wake : Nat} (hk0 : Keeps s0 s) : Keeps s0 (chargeHeard nix t wake s) := by
  unfold chargeHeard
  repeat' (first | with_reducible assumption | with_reducible apply charge_keeps | (extract_lets +onlyGivenNames s1; clear_value (hs : s1 = _); refine Keeps.cut (s0 := s0) (x := s1) ?_ (fun k1 => ?_); (on_goal 1 => subst hs); (on_goal 2 => clear hs)) | (extract_lets +onlyGivenNames v1; first | (have _ : Clocks := v1; subst v1) | (have _ : Fuses := v1; subst v1) | clear_value v1 | subst v1))

theorem ackEnd_keeps {s0 s : State} {n a : Nat} {h : Held} {status : Nat} (hk0 : Keeps s0 s) : Keeps s0 (ackEnd n a h status s) := by
  unfold ackEnd
  repeat' (first | with_reducible assumption | with_reducible apply dropReserve_keeps | with_reducible apply setAcc_keeps | with_reducible apply chargeHeard_keeps | with_reducible apply incF_keeps | with_reducible apply chargeGuard_keeps | with_reducible apply closeAcc_keeps | (extract_lets +onlyGivenNames s1; clear_value (hs : s1 = _); refine Keeps.cut (s0 := s0) (x := s1) ?_ (fun k1 => ?_); (on_goal 1 => subst hs); (on_goal 2 => clear hs)) | (extract_lets +onlyGivenNames v1; first | (have _ : Clocks := v1; subst v1) | (have _ : Fuses := v1; subst v1) | clear_value v1 | subst v1) | split | (unfold Keeps; dsimp only; with_reducible refine Keeps.of ?_))

theorem attemptLost_keeps {s0 s : State} {n d status : Nat} (hk0 : Keeps s0 s) : Keeps s0 (attemptLost n d status s) := by
  unfold attemptLost
  repeat' (first | with_reducible assumption | with_reducible apply incF_keeps | with_reducible apply dlEnd_keeps | with_reducible apply setDl_keeps | (extract_lets +onlyGivenNames s1; clear_value (hs : s1 = _); refine Keeps.cut (s0 := s0) (x := s1) ?_ (fun k1 => ?_); (on_goal 1 => subst hs); (on_goal 2 => clear hs)) | (extract_lets +onlyGivenNames v1; first | (have _ : Clocks := v1; subst v1) | (have _ : Fuses := v1; subst v1) | clear_value v1 | subst v1) | split | (unfold Keeps; dsimp only; with_reducible refine Keeps.of ?_))

theorem bcnSkipped_keeps {s0 s : State} {n status : Nat} (hk0 : Keeps s0 s) : Keeps s0 (bcnSkipped n status s) := by
  unfold bcnSkipped
  repeat' (first | with_reducible assumption | with_reducible apply notify_keeps | with_reducible apply incF_keeps)

theorem onTxEnd_keeps {s0 s : State} {n : Nat} {h : Held} {begun : Bool} {status : Nat} (hk0 : Keeps s0 s) : Keeps s0 (onTxEnd n h begun status s) := by
  unfold onTxEnd
  repeat' (first | with_reducible assumption | with_reducible apply incF_keeps | with_reducible apply updSlt_keeps | with_reducible apply bcnSkipped_keeps | with_reducible apply ackEnd_keeps | with_reducible apply attemptLost_keeps | with_reducible apply updDl_keeps | with_reducible apply Keeps.foldl | (extract_lets +onlyGivenNames s1; clear_value (hs : s1 = _); refine Keeps.cut (s0 := s0) (x := s1) ?_ (fun k1 => ?_); (on_goal 1 => subst hs); (on_goal 2 => clear hs)) | (extract_lets +onlyGivenNames v1; first | (have _ : Clocks := v1; subst v1) | (have _ : Fuses := v1; subst v1) | clear_value v1 | subst v1) | intro _ _ _ | intro _ _ | split | (unfold Keeps; dsimp only; with_reducible refine Keeps.of ?_))

theorem dlLaunched_keeps {s0 s : State} {d L : Nat} {h : Held} (hk0 : Keeps s0 s) : Keeps s0 (dlLaunched d L h s) := by
  unfold dlLaunched
  repeat' (first | with_reducible assumption | with_reducible apply incF_keeps | with_reducible apply setDl_keeps | with_reducible apply chargeHeard_keeps | (extract_lets +onlyGivenNames s1; clear_value (hs : s1 = _); refine Keeps.cut (s0 := s0) (x := s1) ?_ (fun k1 => ?_); (on_goal 1 => subst hs); (on_goal 2 => clear hs)) | (extract_lets +onlyGivenNames v1; first | (have _ : Clocks := v1; subst v1) | (have _ : Fuses := v1; subst v1) | clear_value v1 | subst v1) | split | (unfold Keeps; dsimp only; with_reducible refine Keeps.of ?_))

theorem firstBeacon_keeps {s0 s : State} {L : Nat} (hk0 : Keeps s0 s) : Keeps s0 (firstBeacon L s) := by
  unfold firstBeacon
  repeat' (first | with_reducible assumption | with_reducible apply setF_keeps | with_reducible apply notify_keeps | with_reducible apply updPair_keeps | (extract_lets +onlyGivenNames s1; clear_value (hs : s1 = _); refine Keeps.cut (s0 := s0) (x := s1) ?_ (fun k1 => ?_); (on_goal 1 => subst hs); (on_goal 2 => clear hs)) | (extract_lets +onlyGivenNames v1; first | (have _ : Clocks := v1; subst v1) | (have _ : Fuses := v1; subst v1) | clear_value v1 | subst v1) | split | (unfold Keeps; dsimp only; with_reducible refine Keeps.of ?_))

theorem onLaunch_keeps {s0 s : State} {_n : Nat} {h : Held} {L : Nat} (hk0 : Keeps s0 s) : Keeps s0 (onLaunch _n h L s) := by
  unfold onLaunch
  repeat' (first | with_reducible assumption | with_reducible apply incF_keeps | with_reducible apply updPair_keeps | with_reducible apply firstBeacon_keeps | with_reducible apply dlLaunched_keeps | with_reducible apply chargeHeard_keeps | with_reducible apply updDl_keeps | (extract_lets +onlyGivenNames s1; clear_value (hs : s1 = _); refine Keeps.cut (s0 := s0) (x := s1) ?_ (fun k1 => ?_); (on_goal 1 => subst hs); (on_goal 2 => clear hs)) | (extract_lets +onlyGivenNames v1; first | (have _ : Clocks := v1; subst v1) | (have _ : Fuses := v1; subst v1) | clear_value v1 | subst v1) | split | (unfold Keeps; dsimp only; with_reducible refine Keeps.of ?_))

theorem noteCounter_keeps {s0 s : State} {nix : Nat} {out : Bool} (hk0 : Keeps s0 s) : Keeps s0 (noteCounter nix out s) := by
  unfold noteCounter
  repeat' (first | with_reducible assumption | with_reducible apply notify_keeps | with_reducible apply updXch_keeps | (extract_lets +onlyGivenNames s1; clear_value (hs : s1 = _); refine Keeps.cut (s0 := s0) (x := s1) ?_ (fun k1 => ?_); (on_goal 1 => subst hs); (on_goal 2 => clear hs)) | (extract_lets +onlyGivenNames v1; first | (have _ : Clocks := v1; subst v1) | (have _ : Fuses := v1; subst v1) | clear_value v1 | subst v1) | split | (unfold Keeps; dsimp only; with_reducible refine Keeps.of ?_))

theorem takeOutFc_keeps {s0 s : State} {nix : Nat} (hk0 : Keeps s0 s) : Keeps2 s0 (takeOutFc nix s) := by
  unfold takeOutFc
  repeat' (first | with_reducible assumption | with_reducible apply journalCtr_keeps | with_reducible apply setEntry_keeps | with_reducible apply noteCounter_keeps | (extract_lets +onlyGivenNames s1; clear_value (hs : s1 = _); refine Keeps.cut (s0 := s0) (x := s1) ?_ (fun k1 => ?_); (on_goal 1 => subst hs); (on_goal 2 => clear hs)) | (extract_lets +onlyGivenNames v1; first | (have _ : Clocks := v1; subst v1) | (have _ : Fuses := v1; subst v1) | clear_value v1 | subst v1) | split | with_reducible apply Keeps2.mk)


end Sys2Proof.Machine
end

