-- ==== Sys2Proof/Laws/KeepsKeyOps.lean ====
section
/-! SUPPORT. What the operations of Machine/KeyOps.lean keep. -/

set_option linter.unusedTactic false
set_option linter.unreachableTactic false
set_option linter.unusedVariables false

namespace Sys2Proof.Machine

theorem updKey_keeps {s0 s : State} {f : KeyStore → KeyStore} (hk0 : Keeps s0 s) : Keeps s0 (State.updKey s f) := by
  unfold State.updKey
  repeat' (first | with_reducible assumption | (extract_lets +onlyGivenNames s1; clear_value (hs : s1 = _); refine Keeps.cut (s0 := s0) (x := s1) ?_ (fun k1 => ?_); (on_goal 1 => subst hs); (on_goal 2 => clear hs)) | (extract_lets +onlyGivenNames v1; first | (have _ : Clocks := v1; subst v1) | (have _ : Fuses := v1; subst v1) | clear_value v1 | subst v1) | (unfold Keeps; dsimp only; with_reducible refine Keeps.of ?_))

theorem updCph_keeps {s0 s : State} {f : Cipher → Cipher} (hk0 : Keeps s0 s) : Keeps s0 (State.updCph s f) := by
  unfold State.updCph
  repeat' (first | with_reducible assumption | (extract_lets +onlyGivenNames s1; clear_value (hs : s1 = _); refine Keeps.cut (s0 := s0) (x := s1) ?_ (fun k1 => ?_); (on_goal 1 => subst hs); (on_goal 2 => clear hs)) | (extract_lets +onlyGivenNames v1; first | (have _ : Clocks := v1; subst v1) | (have _ : Fuses := v1; subst v1) | clear_value v1 | subst v1) | (unfold Keeps; dsimp only; with_reducible refine Keeps.of ?_))

theorem updTamp_keeps {s0 s : State} {f : Tamp → Tamp} (hk0 : Keeps s0 s) : Keeps s0 (State.updTamp s f) := by
  unfold State.updTamp
  repeat' (first | with_reducible assumption | (extract_lets +onlyGivenNames s1; clear_value (hs : s1 = _); refine Keeps.cut (s0 := s0) (x := s1) ?_ (fun k1 => ?_); (on_goal 1 => subst hs); (on_goal 2 => clear hs)) | (extract_lets +onlyGivenNames v1; first | (have _ : Clocks := v1; subst v1) | (have _ : Fuses := v1; subst v1) | clear_value v1 | subst v1) | (unfold Keeps; dsimp only; with_reducible refine Keeps.of ?_))

theorem syncSlots_keeps {s0 s : State} (hk0 : Keeps s0 s) : Keeps s0 (syncSlots s) := by
  unfold syncSlots
  repeat' (first | with_reducible assumption | with_reducible apply setF_keeps | (extract_lets +onlyGivenNames s1; clear_value (hs : s1 = _); refine Keeps.cut (s0 := s0) (x := s1) ?_ (fun k1 => ?_); (on_goal 1 => subst hs); (on_goal 2 => clear hs)) | (extract_lets +onlyGivenNames v1; first | (have _ : Clocks := v1; subst v1) | (have _ : Fuses := v1; subst v1) | clear_value v1 | subst v1))

theorem setSlot_keeps {s0 s : State} {i : Nat} {k : KeySlot} (hk0 : Keeps s0 s) : Keeps s0 (State.setSlot s i k) := by
  unfold State.setSlot
  repeat' (first | with_reducible assumption | with_reducible apply syncSlots_keeps | with_reducible apply updKey_keeps | (extract_lets +onlyGivenNames s1; clear_value (hs : s1 = _); refine Keeps.cut (s0 := s0) (x := s1) ?_ (fun k1 => ?_); (on_goal 1 => subst hs); (on_goal 2 => clear hs)) | (extract_lets +onlyGivenNames v1; first | (have _ : Clocks := v1; subst v1) | (have _ : Fuses := v1; subst v1) | clear_value v1 | subst v1) | (unfold Keeps; dsimp only; with_reducible refine Keeps.of ?_))

theorem useKey_keeps {s0 s : State} {i : Nat} (hk0 : Keeps s0 s) : Keeps s0 (useKey i s) := by
  unfold useKey
  repeat' (first | with_reducible assumption | with_reducible apply updKey_keeps | with_reducible apply setSlot_keeps | (extract_lets +onlyGivenNames s1; clear_value (hs : s1 = _); refine Keeps.cut (s0 := s0) (x := s1) ?_ (fun k1 => ?_); (on_goal 1 => subst hs); (on_goal 2 => clear hs)) | (extract_lets +onlyGivenNames v1; first | (have _ : Clocks := v1; subst v1) | (have _ : Fuses := v1; subst v1) | clear_value v1 | subst v1) | split | (unfold Keeps; dsimp only; with_reducible refine Keeps.of ?_))

theorem unwrapBlob_keeps {s0 s : State} {h : Nat} (hk0 : Keeps s0 s) : Keeps2 s0 (unwrapBlob h s) := by
  unfold unwrapBlob
  apply withRead_keeps2 hk0
  · exact fun _ _ k => Keeps2.mk k
  · intro b t k
    apply Keeps2.mk
    generalize blobSlot h b t = x
    cases x with
    | error e => exact k
    | ok c =>
      dsimp only
      split
      exacts [k, useKey_keeps k]
theorem sweepCache_keeps {s0 s : State} (hk0 : Keeps s0 s) : Keeps s0 (sweepCache s) := by
  unfold sweepCache
  repeat' (first | with_reducible assumption | with_reducible apply setSlot_keeps | with_reducible apply Keeps.foldl | (extract_lets +onlyGivenNames s1; clear_value (hs : s1 = _); refine Keeps.cut (s0 := s0) (x := s1) ?_ (fun k1 => ?_); (on_goal 1 => subst hs); (on_goal 2 => clear hs)) | (extract_lets +onlyGivenNames v1; first | (have _ : Clocks := v1; subst v1) | (have _ : Fuses := v1; subst v1) | clear_value v1 | subst v1) | intro _ _ _ | intro _ _ | split)

theorem accFail_keeps {s0 s : State} {i status drop : Nat} (hk0 : Keeps s0 s) : Keeps s0 (accFail i status drop s) := by
  unfold accFail
  repeat' (first | with_reducible assumption | with_reducible apply setReg_keeps | with_reducible apply incF_keeps | with_reducible apply updXch_keeps | with_reducible apply dropReserve_keeps | with_reducible apply poolFree_keeps | with_reducible apply closeAcc_keeps | with_reducible apply setAcc_keeps | (extract_lets +onlyGivenNames s1; clear_value (hs : s1 = _); refine Keeps.cut (s0 := s0) (x := s1) ?_ (fun k1 => ?_); (on_goal 1 => subst hs); (on_goal 2 => clear hs)) | (extract_lets +onlyGivenNames v1; first | (have _ : Clocks := v1; subst v1) | (have _ : Fuses := v1; subst v1) | clear_value v1 | subst v1) | split | (unfold Keeps; dsimp only; with_reducible refine Keeps.of ?_))

theorem syncCph_keeps {s0 s : State} (hk0 : Keeps s0 s) : Keeps s0 (syncCph s) := by
  unfold syncCph
  repeat' (first | with_reducible assumption | with_reducible apply setF_keeps | with_reducible apply Keeps.foldl | (extract_lets +onlyGivenNames s1; clear_value (hs : s1 = _); refine Keeps.cut (s0 := s0) (x := s1) ?_ (fun k1 => ?_); (on_goal 1 => subst hs); (on_goal 2 => clear hs)) | (extract_lets +onlyGivenNames v1; first | (have _ : Clocks := v1; subst v1) | (have _ : Fuses := v1; subst v1) | clear_value v1 | subst v1) | intro _ _ _ | intro _ _ | split | (unfold Keeps; dsimp only; with_reducible refine Keeps.of ?_))

theorem prepare_keeps {s0 s : State} {n : Nat} {c : TxCmd} (hk0 : Keeps s0 s) : Keeps s0 (prepare n c s) := by
  unfold prepare
  repeat' (first | with_reducible assumption | with_reducible apply updXch_keeps | (extract_lets +onlyGivenNames s1; clear_value (hs : s1 = _); refine Keeps.cut (s0 := s0) (x := s1) ?_ (fun k1 => ?_); (on_goal 1 => subst hs); (on_goal 2 => clear hs)) | (extract_lets +onlyGivenNames v1; first | (have _ : Clocks := v1; subst v1) | (have _ : Fuses := v1; subst v1) | clear_value v1 | subst v1) | (unfold Keeps; dsimp only; with_reducible refine Keeps.of ?_))

theorem dlCommand_keeps {s0 s : State} {_i : Nat} {d : Dl} {channel : Nat} {ref : TxRef} {launch : Nat} (hk0 : Keeps s0 s) : Keeps s0 (dlCommand _i d channel ref launch s) := by
  unfold dlCommand
  repeat' (first | with_reducible assumption | with_reducible apply prepare_keeps | (extract_lets +onlyGivenNames s1; clear_value (hs : s1 = _); refine Keeps.cut (s0 := s0) (x := s1) ?_ (fun k1 => ?_); (on_goal 1 => subst hs); (on_goal 2 => clear hs)) | (extract_lets +onlyGivenNames v1; first | (have _ : Clocks := v1; subst v1) | (have _ : Fuses := v1; subst v1) | clear_value v1 | subst v1) | split)

theorem sendBeacon_keeps {s0 s : State} {n : Nat} {frame : List Byte} (hk0 : Keeps s0 s) : Keeps s0 (sendBeacon n frame s) := by
  unfold sendBeacon
  repeat' (first | with_reducible assumption | with_reducible apply updSlt_keeps | with_reducible apply prepare_keeps | (extract_lets +onlyGivenNames s1; clear_value (hs : s1 = _); refine Keeps.cut (s0 := s0) (x := s1) ?_ (fun k1 => ?_); (on_goal 1 => subst hs); (on_goal 2 => clear hs)) | (extract_lets +onlyGivenNames v1; first | (have _ : Clocks := v1; subst v1) | (have _ : Fuses := v1; subst v1) | clear_value v1 | subst v1) | (unfold Keeps; dsimp only; with_reducible refine Keeps.of ?_))

theorem cipherConsume_keeps {s0 s : State} {w : Work} {status : Nat} {out : List Byte} (hk0 : Keeps s0 s) : Keeps s0 (cipherConsume w status out s) := by
  unfold cipherConsume
  repeat' (first | with_reducible assumption | with_reducible apply setAcc_keeps | with_reducible apply setDl_keeps | with_reducible apply dlCommand_keeps | with_reducible apply dlEnd_keeps | with_reducible apply sendBeacon_keeps | with_reducible apply bcnSkipped_keeps | with_reducible apply updSlt_keeps | (extract_lets +onlyGivenNames s1; clear_value (hs : s1 = _); refine Keeps.cut (s0 := s0) (x := s1) ?_ (fun k1 => ?_); (on_goal 1 => subst hs); (on_goal 2 => clear hs)) | (extract_lets +onlyGivenNames v1; first | (have _ : Clocks := v1; subst v1) | (have _ : Fuses := v1; subst v1) | clear_value v1 | subst v1) | split | (unfold Keeps; dsimp only; with_reducible refine Keeps.of ?_))

theorem cipherEnd_keeps {s0 s : State} {i : Nat} {j : Job} {status detail : Nat} {result out : List Byte} (hk0 : Keeps s0 s) : Keeps s0 (cipherEnd i j status detail result out s) := by
  unfold cipherEnd
  repeat' (first | with_reducible assumption | with_reducible apply incF_keeps | with_reducible apply sweepCache_keeps | with_reducible apply completeJob_keeps | with_reducible apply freeJob_keeps | with_reducible apply cipherConsume_keeps | with_reducible apply syncCph_keeps | (extract_lets +onlyGivenNames s1; clear_value (hs : s1 = _); refine Keeps.cut (s0 := s0) (x := s1) ?_ (fun k1 => ?_); (on_goal 1 => subst hs); (on_goal 2 => clear hs)) | (extract_lets +onlyGivenNames v1; first | (have _ : Clocks := v1; subst v1) | (have _ : Fuses := v1; subst v1) | clear_value v1 | subst v1) | split | (unfold Keeps; dsimp only; with_reducible refine Keeps.of ?_))

theorem keyCmdEnd_keeps {s0 s : State} {cmd slot status detail reason : Nat} (hk0 : Keeps s0 s) : Keeps s0 (keyCmdEnd cmd slot status detail reason s) := by
  unfold keyCmdEnd
  repeat' (first | with_reducible assumption | with_reducible apply setReg_keeps | with_reducible apply setF_keeps | with_reducible apply notify_keeps | with_reducible apply incF_keeps | with_reducible apply Keeps.foldl | (extract_lets +onlyGivenNames s1; clear_value (hs : s1 = _); refine Keeps.cut (s0 := s0) (x := s1) ?_ (fun k1 => ?_); (on_goal 1 => subst hs); (on_goal 2 => clear hs)) | (extract_lets +onlyGivenNames v1; first | (have _ : Clocks := v1; subst v1) | (have _ : Fuses := v1; subst v1) | clear_value v1 | subst v1) | intro _ _ _ | intro _ _)

theorem zeroiseAll_keeps {s0 s : State} (hk0 : Keeps s0 s) : Keeps s0 (zeroiseAll s) := by
  unfold zeroiseAll
  repeat' (first | with_reducible assumption | with_reducible apply syncSlots_keeps | with_reducible apply updKey_keeps | (extract_lets +onlyGivenNames s1; clear_value (hs : s1 = _); refine Keeps.cut (s0 := s0) (x := s1) ?_ (fun k1 => ?_); (on_goal 1 => subst hs); (on_goal 2 => clear hs)) | (extract_lets +onlyGivenNames v1; first | (have _ : Clocks := v1; subst v1) | (have _ : Fuses := v1; subst v1) | clear_value v1 | subst v1) | (unfold Keeps; dsimp only; with_reducible refine Keeps.of ?_))

theorem abortPinned_keeps {s0 s : State} (hk0 : Keeps s0 s) : Keeps s0 (abortPinned s) := by
  unfold abortPinned
  repeat' (first | with_reducible assumption | with_reducible apply leaveReady_keeps | with_reducible apply cipherEnd_keeps | with_reducible apply Keeps.foldl | (extract_lets +onlyGivenNames s1; clear_value (hs : s1 = _); refine Keeps.cut (s0 := s0) (x := s1) ?_ (fun k1 => ?_); (on_goal 1 => subst hs); (on_goal 2 => clear hs)) | (extract_lets +onlyGivenNames v1; first | (have _ : Clocks := v1; subst v1) | (have _ : Fuses := v1; subst v1) | clear_value v1 | subst v1) | intro _ _ _ | intro _ _ | split)

theorem alarmErase_keeps {s0 s : State} {cause : Nat} (hk0 : Keeps s0 s) : Keeps s0 (alarmErase cause s) := by
  unfold alarmErase
  repeat' (first | with_reducible assumption | with_reducible apply abortPinned_keeps | with_reducible apply zeroiseAll_keeps | with_reducible apply keyCmdEnd_keeps | with_reducible apply notify_keeps | with_reducible apply incF_keeps | (extract_lets +onlyGivenNames s1; clear_value (hs : s1 = _); refine Keeps.cut (s0 := s0) (x := s1) ?_ (fun k1 => ?_); (on_goal 1 => subst hs); (on_goal 2 => clear hs)) | (extract_lets +onlyGivenNames v1; first | (have _ : Clocks := v1; subst v1) | (have _ : Fuses := v1; subst v1) | clear_value v1 | subst v1) | split | (unfold Keeps; dsimp only; with_reducible refine Keeps.of ?_))

theorem clearSeed_keeps {s0 s : State} (hk0 : Keeps s0 s) : Keeps s0 (clearSeed s) := by
  unfold clearSeed
  repeat' (first | with_reducible assumption | with_reducible apply updTamp_keeps | (extract_lets +onlyGivenNames s1; clear_value (hs : s1 = _); refine Keeps.cut (s0 := s0) (x := s1) ?_ (fun k1 => ?_); (on_goal 1 => subst hs); (on_goal 2 => clear hs)) | (extract_lets +onlyGivenNames v1; first | (have _ : Clocks := v1; subst v1) | (have _ : Fuses := v1; subst v1) | clear_value v1 | subst v1) | (unfold Keeps; dsimp only; with_reducible refine Keeps.of ?_))

theorem loseTamp_keeps {s0 s : State} (hk0 : Keeps s0 s) : Keeps s0 (loseTamp s) := by
  unfold loseTamp
  exact ⟨hk0.queue, fun m => ⟨Sparse.wf_filter _ (hk0.maps m).1, (hk0.maps m).2⟩, hk0.time, hk0.added, hk0.serial, hk0.part, hk0.root, hk0.arb, hk0.draws⟩
theorem createKld_keeps {s0 s : State} {nix prio creator : Nat} {u : KeyUse} (hk0 : Keeps s0 s) : Keeps s0 (createKld nix prio creator u s) := by
  unfold createKld
  repeat' (first | with_reducible assumption | with_reducible apply createJob_keeps)


end Sys2Proof.Machine
end

