-- ==== Sys2Proof/Laws/KeepsAssocOps.lean ====
section
/-! SUPPORT. What the operations of Machine/AssocOps.lean keep. -/

set_option linter.unusedTactic false
set_option linter.unreachableTactic false
set_option linter.unusedVariables false

namespace Sys2Proof.Machine

theorem dropResponse_keeps {s0 s : State} {nix : Nat} (hk0 : Keeps s0 s) : Keeps s0 (dropResponse nix s) := by
  unfold dropResponse
  repeat' (first | with_reducible assumption | with_reducible apply setDl_keeps | with_reducible apply updSlt_keeps | with_reducible apply Keeps.foldl | (extract_lets +onlyGivenNames s1; clear_value (hs : s1 = _); refine Keeps.cut (s0 := s0) (x := s1) ?_ (fun k1 => ?_); (on_goal 1 => subst hs); (on_goal 2 => clear hs)) | (extract_lets +onlyGivenNames v1; first | (have _ : Clocks := v1; subst v1) | (have _ : Fuses := v1; subst v1) | clear_value v1 | subst v1) | intro _ _ _ | intro _ _ | (unfold Keeps; dsimp only; with_reducible refine Keeps.of ?_))

theorem assocActive_keeps {s0 s : State} {nix : Nat} (hk0 : Keeps s0 s) : Keeps s0 (assocActive nix s) := by
  unfold assocActive
  repeat' (first | with_reducible assumption | with_reducible apply putEntry_keeps | with_reducible apply dropResponse_keeps | with_reducible apply joinRoster_keeps | with_reducible apply incF_keeps | with_reducible apply notify_keeps | (extract_lets +onlyGivenNames s1; clear_value (hs : s1 = _); refine Keeps.cut (s0 := s0) (x := s1) ?_ (fun k1 => ?_); (on_goal 1 => subst hs); (on_goal 2 => clear hs)) | (extract_lets +onlyGivenNames v1; first | (have _ : Clocks := v1; subst v1) | (have _ : Fuses := v1; subst v1) | clear_value v1 | subst v1) | split)

theorem makeResponse_keeps {s0 s : State} {src : DlSource} {a : Accept} {result : Nat} {payload : List Byte} (hk0 : Keeps s0 s) : Keeps s0 (makeResponse src a result payload s) := by
  unfold makeResponse
  repeat' (first | with_reducible assumption | with_reducible apply dropResponse_keeps | with_reducible apply updXch_keeps | with_reducible apply setDl_keeps | with_reducible apply updSlt_keeps | (extract_lets +onlyGivenNames s1; clear_value (hs : s1 = _); refine Keeps.cut (s0 := s0) (x := s1) ?_ (fun k1 => ?_); (on_goal 1 => subst hs); (on_goal 2 => clear hs)) | (extract_lets +onlyGivenNames v1; first | (have _ : Clocks := v1; subst v1) | (have _ : Fuses := v1; subst v1) | clear_value v1 | subst v1) | (unfold Keeps; dsimp only; with_reducible refine Keeps.of ?_))

theorem assocRequest_keeps {s0 s : State} {a : Accept} {p : List Byte} (hk0 : Keeps s0 s) : Keeps s0 (assocRequest a p s) := by
  unfold assocRequest
  repeat' (first | with_reducible assumption | with_reducible apply incF_keeps | with_reducible apply makeResponse_keeps | with_reducible apply putEntry_keeps | with_reducible apply assocEnd_keeps | (extract_lets +onlyGivenNames s1; clear_value (hs : s1 = _); refine Keeps.cut (s0 := s0) (x := s1) ?_ (fun k1 => ?_); (on_goal 1 => subst hs); (on_goal 2 => clear hs)) | (extract_lets +onlyGivenNames v1; first | (have _ : Clocks := v1; subst v1) | (have _ : Fuses := v1; subst v1) | clear_value v1 | subst v1) | split | (unfold Keeps; dsimp only; with_reducible refine Keeps.of ?_))

theorem nodeLeaves_keeps {s0 s : State} {nix reason : Nat} (hk0 : Keeps s0 s) : Keeps s0 (nodeLeaves nix reason s) := by
  unfold nodeLeaves
  repeat' (first | with_reducible assumption | with_reducible apply assocEnd_keeps | with_reducible apply incF_keeps | with_reducible apply notify_keeps | (extract_lets +onlyGivenNames s1; clear_value (hs : s1 = _); refine Keeps.cut (s0 := s0) (x := s1) ?_ (fun k1 => ?_); (on_goal 1 => subst hs); (on_goal 2 => clear hs)) | (extract_lets +onlyGivenNames v1; first | (have _ : Clocks := v1; subst v1) | (have _ : Fuses := v1; subst v1) | clear_value v1 | subst v1))

theorem adoptSched_keeps {s0 s : State} {u : SchedUpd} (hk0 : Keeps s0 s) : Keeps s0 (adoptSched u s) := by
  unfold adoptSched
  repeat' (first | with_reducible assumption | with_reducible apply putEntry_keeps | with_reducible apply joinRoster_keeps | with_reducible apply leaveRoster_keeps | with_reducible apply schedDone_keeps | (extract_lets +onlyGivenNames s1; clear_value (hs : s1 = _); refine Keeps.cut (s0 := s0) (x := s1) ?_ (fun k1 => ?_); (on_goal 1 => subst hs); (on_goal 2 => clear hs)) | (extract_lets +onlyGivenNames v1; first | (have _ : Clocks := v1; subst v1) | (have _ : Fuses := v1; subst v1) | clear_value v1 | subst v1) | split)

theorem settleSched_keeps {s0 s : State} {nix sgen : Nat} (hk0 : Keeps s0 s) : Keeps s0 (settleSched nix sgen s) := by
  unfold settleSched
  repeat' (first | with_reducible assumption | with_reducible apply adoptSched_keeps | with_reducible apply schedDone_keeps | with_reducible apply putEntry_keeps | (extract_lets +onlyGivenNames s1; clear_value (hs : s1 = _); refine Keeps.cut (s0 := s0) (x := s1) ?_ (fun k1 => ?_); (on_goal 1 => subst hs); (on_goal 2 => clear hs)) | (extract_lets +onlyGivenNames v1; first | (have _ : Clocks := v1; subst v1) | (have _ : Fuses := v1; subst v1) | clear_value v1 | subst v1) | split | (unfold Keeps; dsimp only; with_reducible refine Keeps.of ?_))

theorem settleCarried_keeps {s0 s : State} {a : Accept} {sgen : Nat} (hk0 : Keeps s0 s) : Keeps s0 (settleCarried a sgen s) := by
  unfold settleCarried
  repeat' (first | with_reducible assumption | with_reducible apply schedDone_keeps | with_reducible apply putEntry_keeps | with_reducible apply makeResponse_keeps | with_reducible apply assocEnd_keeps | split)

theorem assocUplink_keeps {s0 s : State} {a : Accept} {sgen : Option Nat} (hk0 : Keeps s0 s) : Keeps2 s0 (assocUplink a sgen s) := by
  unfold assocUplink
  repeat' (first | with_reducible assumption | with_reducible apply makeResponse_keeps | with_reducible apply assocActive_keeps | with_reducible apply setEntry_keeps | with_reducible apply settleSched_keeps | with_reducible apply settleCarried_keeps | (extract_lets +onlyGivenNames s1; clear_value (hs : s1 = _); refine Keeps.cut (s0 := s0) (x := s1) ?_ (fun k1 => ?_); (on_goal 1 => subst hs); (on_goal 2 => clear hs)) | (extract_lets +onlyGivenNames v1; first | (have _ : Clocks := v1; subst v1) | (have _ : Fuses := v1; subst v1) | clear_value v1 | subst v1) | split | with_reducible apply Keeps2.mk | (unfold Keeps; dsimp only; with_reducible refine Keeps.of ?_))

theorem assocRepeat_keeps {s0 s : State} {nix : Nat} (hk0 : Keeps s0 s) : Keeps s0 (assocRepeat nix s) := by
  unfold assocRepeat
  repeat' (first | with_reducible assumption | with_reducible apply setEntry_keeps | split)


end Sys2Proof.Machine
end

