-- ==== Sys2Proof/Laws/KeepsPortOps.lean ====
section
/-! SUPPORT. What the operations of Machine/PortOps.lean keep. -/

set_option linter.unusedTactic false
set_option linter.unreachableTactic false
set_option linter.unusedVariables false

namespace Sys2Proof.Machine

theorem setPstate_keeps {s0 s : State} {n v : Nat} (hk0 : Keeps s0 s) : Keeps s0 (setPstate n v s) := by
  unfold setPstate
  repeat' (first | with_reducible assumption | with_reducible apply setF_keeps)

theorem retune_keeps {s0 s : State} {n khz : Nat} (hk0 : Keeps s0 s) : Keeps s0 (retune n khz s) := by
  unfold retune
  repeat' (first | with_reducible assumption | with_reducible apply setF_keeps | with_reducible apply blankPort_keeps | with_reducible apply updPort_keeps | (extract_lets +onlyGivenNames s1; clear_value (hs : s1 = _); refine Keeps.cut (s0 := s0) (x := s1) ?_ (fun k1 => ?_); (on_goal 1 => subst hs); (on_goal 2 => clear hs)) | (extract_lets +onlyGivenNames v1; first | (have _ : Clocks := v1; subst v1) | (have _ : Fuses := v1; subst v1) | clear_value v1 | subst v1) | (unfold Keeps; dsimp only; with_reducible refine Keeps.of ?_))

theorem settle_keeps {s0 s : State} {n khz : Nat} (hk0 : Keeps s0 s) : Keeps s0 (settle n khz s) := by
  unfold settle
  repeat' (first | with_reducible assumption | with_reducible apply setPstate_keeps | with_reducible apply retune_keeps)

theorem towardRx_keeps {s0 s : State} {n : Nat} (hk0 : Keeps s0 s) : Keeps s0 (towardRx n s) := by
  unfold towardRx
  repeat' (first | with_reducible assumption | with_reducible apply setPstate_keeps | with_reducible apply setF_keeps | with_reducible apply settle_keeps | split)

theorem dropReq_keeps {s0 s : State} {n : Nat} (hk0 : Keeps s0 s) : Keeps s0 (dropReq n s) := by
  unfold dropReq
  repeat' (first | with_reducible assumption | with_reducible apply updPort_keeps | (extract_lets +onlyGivenNames s1; clear_value (hs : s1 = _); refine Keeps.cut (s0 := s0) (x := s1) ?_ (fun k1 => ?_); (on_goal 1 => subst hs); (on_goal 2 => clear hs)) | (extract_lets +onlyGivenNames v1; first | (have _ : Clocks := v1; subst v1) | (have _ : Fuses := v1; subst v1) | clear_value v1 | subst v1) | (unfold Keeps; dsimp only; with_reducible refine Keeps.of ?_))

theorem recordOutcome_keeps {s0 s : State} {n status reason : Nat} (hk0 : Keeps s0 s) : Keeps s0 (recordOutcome n status reason s) := by
  unfold recordOutcome
  repeat' (first | with_reducible assumption | with_reducible apply setF_keeps | with_reducible apply incF_keeps | (extract_lets +onlyGivenNames s1; clear_value (hs : s1 = _); refine Keeps.cut (s0 := s0) (x := s1) ?_ (fun k1 => ?_); (on_goal 1 => subst hs); (on_goal 2 => clear hs)) | (extract_lets +onlyGivenNames v1; first | (have _ : Clocks := v1; subst v1) | (have _ : Fuses := v1; subst v1) | clear_value v1 | subst v1) | split | (unfold Keeps; dsimp only; with_reducible refine Keeps.of ?_))

theorem endHeld_keeps {s0 s : State} {n status reason : Nat} (hk0 : Keeps s0 s) : Keeps s0 (endHeld n status reason s) := by
  unfold endHeld
  repeat' (first | with_reducible assumption | with_reducible apply dropReq_keeps | with_reducible apply updPort_keeps | with_reducible apply onTxEnd_keeps | with_reducible apply recordOutcome_keeps | (extract_lets +onlyGivenNames s1; clear_value (hs : s1 = _); refine Keeps.cut (s0 := s0) (x := s1) ?_ (fun k1 => ?_); (on_goal 1 => subst hs); (on_goal 2 => clear hs)) | (extract_lets +onlyGivenNames v1; first | (have _ : Clocks := v1; subst v1) | (have _ : Fuses := v1; subst v1) | clear_value v1 | subst v1) | split | (unfold Keeps; dsimp only; with_reducible refine Keeps.of ?_))

theorem endWaiting_keeps {s0 s : State} {n : Nat} {h : Held} {status reason : Nat} (hk0 : Keeps s0 s) : Keeps s0 (endWaiting n h status reason s) := by
  unfold endWaiting
  repeat' (first | with_reducible assumption | with_reducible apply recordOutcome_keeps | with_reducible apply onTxEnd_keeps | with_reducible apply updPort_keeps | (extract_lets +onlyGivenNames s1; clear_value (hs : s1 = _); refine Keeps.cut (s0 := s0) (x := s1) ?_ (fun k1 => ?_); (on_goal 1 => subst hs); (on_goal 2 => clear hs)) | (extract_lets +onlyGivenNames v1; first | (have _ : Clocks := v1; subst v1) | (have _ : Fuses := v1; subst v1) | clear_value v1 | subst v1) | (unfold Keeps; dsimp only; with_reducible refine Keeps.of ?_))

theorem toReturnState_keeps {s0 s : State} {n : Nat} {khz : Nat} (hk0 : Keeps s0 s) : Keeps s0 (toReturnState n khz s) := by
  unfold toReturnState
  repeat' (first | with_reducible assumption | with_reducible apply setPstate_keeps | with_reducible apply updPort_keeps | with_reducible apply towardRx_keeps | (extract_lets +onlyGivenNames s1; clear_value (hs : s1 = _); refine Keeps.cut (s0 := s0) (x := s1) ?_ (fun k1 => ?_); (on_goal 1 => subst hs); (on_goal 2 => clear hs)) | (extract_lets +onlyGivenNames v1; first | (have _ : Clocks := v1; subst v1) | (have _ : Fuses := v1; subst v1) | clear_value v1 | subst v1) | split | (unfold Keeps; dsimp only; with_reducible refine Keeps.of ?_))

theorem failHeld_keeps {s0 s : State} {n status reason : Nat} (hk0 : Keeps s0 s) : Keeps s0 (failHeld n status reason s) := by
  unfold failHeld
  repeat' (first | with_reducible assumption | with_reducible apply toReturnState_keeps | with_reducible apply endHeld_keeps | (extract_lets +onlyGivenNames s1; clear_value (hs : s1 = _); refine Keeps.cut (s0 := s0) (x := s1) ?_ (fun k1 => ?_); (on_goal 1 => subst hs); (on_goal 2 => clear hs)) | (extract_lets +onlyGivenNames v1; first | (have _ : Clocks := v1; subst v1) | (have _ : Fuses := v1; subst v1) | clear_value v1 | subst v1) | split | (unfold Keeps; dsimp only; with_reducible refine Keeps.of ?_))

theorem assertReq_keeps {s0 s : State} {n : Nat} {ks : List Nat} (hk0 : Keeps s0 s) : Keeps s0 (assertReq n ks s) := by
  unfold assertReq
  repeat' (first | with_reducible assumption | with_reducible apply updPort_keeps | (extract_lets +onlyGivenNames s1; clear_value (hs : s1 = _); refine Keeps.cut (s0 := s0) (x := s1) ?_ (fun k1 => ?_); (on_goal 1 => subst hs); (on_goal 2 => clear hs)) | (extract_lets +onlyGivenNames v1; first | (have _ : Clocks := v1; subst v1) | (have _ : Fuses := v1; subst v1) | clear_value v1 | subst v1) | (unfold Keeps; dsimp only; with_reducible refine Keeps.of ?_))

theorem syncDuty_keeps {s0 s : State} {n : Nat} (hk0 : Keeps s0 s) : Keeps s0 (syncDuty n s) := by
  unfold syncDuty
  repeat' (first | with_reducible assumption | with_reducible apply setF_keeps)

theorem bookDuty_keeps {s0 s : State} {n airtime : Nat} (hk0 : Keeps s0 s) : Keeps s0 (bookDuty n airtime s) := by
  unfold bookDuty
  repeat' (first | with_reducible assumption | with_reducible apply syncDuty_keeps | with_reducible apply updPort_keeps | (extract_lets +onlyGivenNames s1; clear_value (hs : s1 = _); refine Keeps.cut (s0 := s0) (x := s1) ?_ (fun k1 => ?_); (on_goal 1 => subst hs); (on_goal 2 => clear hs)) | (extract_lets +onlyGivenNames v1; first | (have _ : Clocks := v1; subst v1) | (have _ : Fuses := v1; subst v1) | clear_value v1 | subst v1) | split | (unfold Keeps; dsimp only; with_reducible refine Keeps.of ?_))

theorem noteDuty_keeps {s0 s : State} {n : Nat} (hk0 : Keeps s0 s) : Keeps s0 (noteDuty n s) := by
  unfold noteDuty
  repeat' (first | with_reducible assumption | with_reducible apply notify_keeps | with_reducible apply updPort_keeps | (extract_lets +onlyGivenNames s1; clear_value (hs : s1 = _); refine Keeps.cut (s0 := s0) (x := s1) ?_ (fun k1 => ?_); (on_goal 1 => subst hs); (on_goal 2 => clear hs)) | (extract_lets +onlyGivenNames v1; first | (have _ : Clocks := v1; subst v1) | (have _ : Fuses := v1; subst v1) | clear_value v1 | subst v1) | split | (unfold Keeps; dsimp only; with_reducible refine Keeps.of ?_))

theorem syncComp_keeps {s0 s : State} {n : Nat} (hk0 : Keeps s0 s) : Keeps s0 (syncComp n s) := by
  unfold syncComp
  repeat' (first | with_reducible assumption | with_reducible apply setF_keeps | (extract_lets +onlyGivenNames s1; clear_value (hs : s1 = _); refine Keeps.cut (s0 := s0) (x := s1) ?_ (fun k1 => ?_); (on_goal 1 => subst hs); (on_goal 2 => clear hs)) | (extract_lets +onlyGivenNames v1; first | (have _ : Clocks := v1; subst v1) | (have _ : Fuses := v1; subst v1) | clear_value v1 | subst v1))

theorem beginLaunch_keeps {s0 s : State} {n : Nat} {h : Held} (hk0 : Keeps s0 s) : Keeps s0 (beginLaunch n h s) := by
  unfold beginLaunch
  repeat' (first | with_reducible assumption | with_reducible apply setPstate_keeps | with_reducible apply updPort_keeps | with_reducible apply setF_keeps | with_reducible apply bookDuty_keeps | with_reducible apply satF_keeps | with_reducible apply emit_keeps | with_reducible apply onLaunch_keeps | (extract_lets +onlyGivenNames s1; clear_value (hs : s1 = _); refine Keeps.cut (s0 := s0) (x := s1) ?_ (fun k1 => ?_); (on_goal 1 => subst hs); (on_goal 2 => clear hs)) | (extract_lets +onlyGivenNames v1; first | (have _ : Clocks := v1; subst v1) | (have _ : Fuses := v1; subst v1) | clear_value v1 | subst v1) | split | (unfold Keeps; dsimp only; with_reducible refine Keeps.of ?_))

theorem checkedLaunch_keeps {s0 s : State} {n : Nat} {h : Held} (hk0 : Keeps s0 s) : Keeps s0 (checkedLaunch n h s) := by
  unfold checkedLaunch
  repeat' (first | with_reducible assumption | with_reducible apply endHeld_keeps | with_reducible apply failHeld_keeps | with_reducible apply noteDuty_keeps | with_reducible apply beginLaunch_keeps | split)

theorem noteGrant_keeps {s0 s : State} {n : Nat} {h : Held} (hk0 : Keeps s0 s) : Keeps s0 (noteGrant n h s) := by
  unfold noteGrant
  repeat' (first | with_reducible assumption | with_reducible apply updPort_keeps | with_reducible apply incF_keeps | (extract_lets +onlyGivenNames s1; clear_value (hs : s1 = _); refine Keeps.cut (s0 := s0) (x := s1) ?_ (fun k1 => ?_); (on_goal 1 => subst hs); (on_goal 2 => clear hs)) | (extract_lets +onlyGivenNames v1; first | (have _ : Clocks := v1; subst v1) | (have _ : Fuses := v1; subst v1) | clear_value v1 | subst v1) | split | (unfold Keeps; dsimp only; with_reducible refine Keeps.of ?_))

theorem tryLaunch_keeps {s0 s : State} {n : Nat} (hk0 : Keeps s0 s) : Keeps s0 (tryLaunch n s) := by
  unfold tryLaunch
  repeat' (first | with_reducible assumption | with_reducible apply failHeld_keeps | with_reducible apply checkedLaunch_keeps | with_reducible apply noteGrant_keeps | (extract_lets +onlyGivenNames s1; clear_value (hs : s1 = _); refine Keeps.cut (s0 := s0) (x := s1) ?_ (fun k1 => ?_); (on_goal 1 => subst hs); (on_goal 2 => clear hs)) | (extract_lets +onlyGivenNames v1; first | (have _ : Clocks := v1; subst v1) | (have _ : Fuses := v1; subst v1) | clear_value v1 | subst v1) | split | (unfold Keeps; dsimp only; with_reducible refine Keeps.of ?_))

theorem settleFor_keeps {s0 s : State} {n : Nat} {h : Held} (hk0 : Keeps s0 s) : Keeps s0 (settleFor n h s) := by
  unfold settleFor
  repeat' (first | with_reducible assumption | with_reducible apply updPort_keeps | with_reducible apply settle_keeps | (extract_lets +onlyGivenNames s1; clear_value (hs : s1 = _); refine Keeps.cut (s0 := s0) (x := s1) ?_ (fun k1 => ?_); (on_goal 1 => subst hs); (on_goal 2 => clear hs)) | (extract_lets +onlyGivenNames v1; first | (have _ : Clocks := v1; subst v1) | (have _ : Fuses := v1; subst v1) | clear_value v1 | subst v1) | split | (unfold Keeps; dsimp only; with_reducible refine Keeps.of ?_))

theorem acceptCmd_keeps {s0 s : State} {n : Nat} {h : Held} (hk0 : Keeps s0 s) : Keeps s0 (acceptCmd n h s) := by
  unfold acceptCmd
  repeat' (first | with_reducible assumption | with_reducible apply updPort_keeps | with_reducible apply endHeld_keeps | with_reducible apply failHeld_keeps | with_reducible apply assertReq_keeps | with_reducible apply settleFor_keeps | with_reducible apply tryLaunch_keeps | (extract_lets +onlyGivenNames s1; clear_value (hs : s1 = _); refine Keeps.cut (s0 := s0) (x := s1) ?_ (fun k1 => ?_); (on_goal 1 => subst hs); (on_goal 2 => clear hs)) | (extract_lets +onlyGivenNames v1; first | (have _ : Clocks := v1; subst v1) | (have _ : Fuses := v1; subst v1) | clear_value v1 | subst v1) | split | (unfold Keeps; dsimp only; with_reducible refine Keeps.of ?_))

theorem issueCmd_keeps {s0 s : State} {n : Nat} {h : Held} (hk0 : Keeps s0 s) : Keeps s0 (issueCmd n h s) := by
  unfold issueCmd
  repeat' (first | with_reducible assumption | with_reducible apply onTxEnd_keeps | with_reducible apply recordOutcome_keeps | with_reducible apply updPort_keeps | with_reducible apply acceptCmd_keeps | with_reducible apply dropReq_keeps | (extract_lets +onlyGivenNames s1; clear_value (hs : s1 = _); refine Keeps.cut (s0 := s0) (x := s1) ?_ (fun k1 => ?_); (on_goal 1 => subst hs); (on_goal 2 => clear hs)) | (extract_lets +onlyGivenNames v1; first | (have _ : Clocks := v1; subst v1) | (have _ : Fuses := v1; subst v1) | clear_value v1 | subst v1) | split | (unfold Keeps; dsimp only; with_reducible refine Keeps.of ?_))

theorem acceptNext_keeps {s0 s : State} {n : Nat} (hk0 : Keeps s0 s) : Keeps s0 (acceptNext n s) := by
  unfold acceptNext
  repeat' (first | with_reducible assumption | with_reducible apply issueCmd_keeps | with_reducible apply updPort_keeps | (extract_lets +onlyGivenNames s1; clear_value (hs : s1 = _); refine Keeps.cut (s0 := s0) (x := s1) ?_ (fun k1 => ?_); (on_goal 1 => subst hs); (on_goal 2 => clear hs)) | (extract_lets +onlyGivenNames v1; first | (have _ : Clocks := v1; subst v1) | (have _ : Fuses := v1; subst v1) | clear_value v1 | subst v1) | split | (unfold Keeps; dsimp only; with_reducible refine Keeps.of ?_))

theorem drainQuiet_keeps {s0 s : State} {n : Nat} (hk0 : Keeps s0 s) : Keeps s0 (drainQuiet n s) := by
  unfold drainQuiet
  repeat' (first | with_reducible assumption | with_reducible apply endWaiting_keeps | with_reducible apply Keeps.foldl | intro _ _ _ | intro _ _)

theorem portOff_keeps {s0 s : State} {n : Nat} (hk0 : Keeps s0 s) : Keeps s0 (portOff n s) := by
  unfold portOff
  repeat' (first | with_reducible assumption | with_reducible apply endHeld_keeps | with_reducible apply endWaiting_keeps | with_reducible apply blankPort_keeps | with_reducible apply setPstate_keeps | with_reducible apply setF_keeps | with_reducible apply updPort_keeps | with_reducible apply Keeps.foldl | (extract_lets +onlyGivenNames s1; clear_value (hs : s1 = _); refine Keeps.cut (s0 := s0) (x := s1) ?_ (fun k1 => ?_); (on_goal 1 => subst hs); (on_goal 2 => clear hs)) | (extract_lets +onlyGivenNames v1; first | (have _ : Clocks := v1; subst v1) | (have _ : Fuses := v1; subst v1) | clear_value v1 | subst v1) | intro _ _ _ | intro _ _ | (unfold Keeps; dsimp only; with_reducible refine Keeps.of ?_))

theorem quietPort_keeps {s0 s : State} {n : Nat} (hk0 : Keeps s0 s) : Keeps s0 (quietPort n s) := by
  unfold quietPort
  repeat' (first | with_reducible assumption | with_reducible apply updPort_keeps | with_reducible apply setF_keeps | with_reducible apply drainQuiet_keeps | with_reducible apply dropReq_keeps | with_reducible apply endHeld_keeps | with_reducible apply portOff_keeps | with_reducible apply setPstate_keeps | with_reducible apply retune_keeps | (extract_lets +onlyGivenNames s1; clear_value (hs : s1 = _); refine Keeps.cut (s0 := s0) (x := s1) ?_ (fun k1 => ?_); (on_goal 1 => subst hs); (on_goal 2 => clear hs)) | (extract_lets +onlyGivenNames v1; first | (have _ : Clocks := v1; subst v1) | (have _ : Fuses := v1; subst v1) | clear_value v1 | subst v1) | split | (unfold Keeps; dsimp only; with_reducible refine Keeps.of ?_))

theorem quietPorts_keeps {s0 s : State} (hk0 : Keeps s0 s) : Keeps s0 (quietPorts s) := by
  unfold quietPorts
  repeat' (first | with_reducible assumption | with_reducible apply quietPort_keeps | with_reducible apply Keeps.foldl | intro _ _ _ | intro _ _)

theorem resumePort_keeps {s0 s : State} {n : Nat} (hk0 : Keeps s0 s) : Keeps s0 (resumePort n s) := by
  unfold resumePort
  repeat' (first | with_reducible assumption | with_reducible apply towardRx_keeps | with_reducible apply updPort_keeps | (extract_lets +onlyGivenNames s1; clear_value (hs : s1 = _); refine Keeps.cut (s0 := s0) (x := s1) ?_ (fun k1 => ?_); (on_goal 1 => subst hs); (on_goal 2 => clear hs)) | (extract_lets +onlyGivenNames v1; first | (have _ : Clocks := v1; subst v1) | (have _ : Fuses := v1; subst v1) | clear_value v1 | subst v1) | split | (unfold Keeps; dsimp only; with_reducible refine Keeps.of ?_))

theorem resumePorts_keeps {s0 s : State} (hk0 : Keeps s0 s) : Keeps s0 (resumePorts s) := by
  unfold resumePorts
  repeat' (first | with_reducible assumption | with_reducible apply resumePort_keeps | with_reducible apply Keeps.foldl | intro _ _ _ | intro _ _)

theorem portsOff_keeps {s0 s : State} (hk0 : Keeps s0 s) : Keeps s0 (portsOff s) := by
  unfold portsOff
  repeat' (first | with_reducible assumption | with_reducible apply portOff_keeps | with_reducible apply setF_keeps | with_reducible apply Keeps.foldl | intro _ _ _ | intro _ _ | split)

theorem startCal_keeps {s0 s : State} {n : Nat} (hk0 : Keeps s0 s) : Keeps s0 (startCal n s) := by
  unfold startCal
  repeat' (first | with_reducible assumption | with_reducible apply setPstate_keeps | with_reducible apply blankPort_keeps | with_reducible apply setF_keeps | with_reducible apply updPort_keeps | with_reducible apply boundary_keeps | (extract_lets +onlyGivenNames s1; clear_value (hs : s1 = _); refine Keeps.cut (s0 := s0) (x := s1) ?_ (fun k1 => ?_); (on_goal 1 => subst hs); (on_goal 2 => clear hs)) | (extract_lets +onlyGivenNames v1; first | (have _ : Clocks := v1; subst v1) | (have _ : Fuses := v1; subst v1) | clear_value v1 | subst v1) | (unfold Keeps; dsimp only; with_reducible refine Keeps.of ?_))

theorem pendCal_keeps {s0 s : State} {n : Nat} (hk0 : Keeps s0 s) : Keeps s0 (pendCal n s) := by
  unfold pendCal
  repeat' (first | with_reducible assumption | with_reducible apply setF_keeps | with_reducible apply updPort_keeps | (extract_lets +onlyGivenNames s1; clear_value (hs : s1 = _); refine Keeps.cut (s0 := s0) (x := s1) ?_ (fun k1 => ?_); (on_goal 1 => subst hs); (on_goal 2 => clear hs)) | (extract_lets +onlyGivenNames v1; first | (have _ : Clocks := v1; subst v1) | (have _ : Fuses := v1; subst v1) | clear_value v1 | subst v1) | split | (unfold Keeps; dsimp only; with_reducible refine Keeps.of ?_))


end Sys2Proof.Machine
end

