-- ==== Sys2Proof/Laws/KeepsSafeOps.lean ====
section
/-! SUPPORT. What the operations of Machine/SafeOps.lean keep. -/

set_option linter.unusedTactic false
set_option linter.unreachableTactic false
set_option linter.unusedVariables false

namespace Sys2Proof.Machine

theorem addCause_keeps {s0 s : State} {i : Nat} (hk0 : Keeps s0 s) : Keeps s0 (addCause i s) := by
  unfold addCause
  repeat' (first | with_reducible assumption | with_reducible apply setF_keeps | (extract_lets +onlyGivenNames s1; clear_value (hs : s1 = _); refine Keeps.cut (s0 := s0) (x := s1) ?_ (fun k1 => ?_); (on_goal 1 => subst hs); (on_goal 2 => clear hs)) | (extract_lets +onlyGivenNames v1; first | (have _ : Clocks := v1; subst v1) | (have _ : Fuses := v1; subst v1) | clear_value v1 | subst v1) | split)

theorem armFreeze_keeps {s0 s : State} {i : Nat} (hk0 : Keeps s0 s) : Keeps s0 (armFreeze i s) := by
  unfold armFreeze
  repeat' (first | with_reducible assumption | (extract_lets +onlyGivenNames s1; clear_value (hs : s1 = _); refine Keeps.cut (s0 := s0) (x := s1) ?_ (fun k1 => ?_); (on_goal 1 => subst hs); (on_goal 2 => clear hs)) | (extract_lets +onlyGivenNames v1; first | (have _ : Clocks := v1; subst v1) | (have _ : Fuses := v1; subst v1) | clear_value v1 | subst v1) | split | (unfold Keeps; dsimp only; with_reducible refine Keeps.of ?_))

theorem assertSafe_keeps {s0 s : State} (hk0 : Keeps s0 s) : Keeps s0 (assertSafe s) := by
  unfold assertSafe
  repeat' (first | with_reducible assumption | with_reducible apply setF_keeps | (extract_lets +onlyGivenNames s1; clear_value (hs : s1 = _); refine Keeps.cut (s0 := s0) (x := s1) ?_ (fun k1 => ?_); (on_goal 1 => subst hs); (on_goal 2 => clear hs)) | (extract_lets +onlyGivenNames v1; first | (have _ : Clocks := v1; subst v1) | (have _ : Fuses := v1; subst v1) | clear_value v1 | subst v1) | (unfold Keeps; dsimp only; with_reducible refine Keeps.of ?_))

theorem enterSafeFresh_keeps {s0 s : State} {i : Nat} (hk0 : Keeps s0 s) : Keeps s0 (enterSafeFresh i s) := by
  unfold enterSafeFresh
  have k2 : Keeps s0 ((assertSafe (quietPorts (addCause i s))).setF F.SAF_STATUS_SAFE 1) := setF_keeps (assertSafe_keeps (quietPorts_keeps (addCause_keeps hk0)))
  extract_lets auto s1 s2 s3 s4 s5 s6 s7 s8 s9
  have k4 : Keeps s0 s4 := Keeps.of k2
  have k5 := requestTakeover_keeps k4
  have k6 : Keeps s0 s6 := by
    unfold s6
    split
    exacts [releaseOwnN_keeps k5, k5]
  exact armFreeze_keeps (notify_keeps (discardTxn_keeps (abandonTakeover_keeps (incF_keeps k6))))
theorem enterSafe_keeps {s0 s : State} {i : Nat} (hk0 : Keeps s0 s) : Keeps s0 (enterSafe i s) := by
  unfold enterSafe
  repeat' (first | with_reducible assumption | with_reducible apply armFreeze_keeps | with_reducible apply addCause_keeps | with_reducible apply enterSafeFresh_keeps | split)

theorem safeOrReport_keeps {s0 s : State} {report : Bool} {i : Nat} (hk0 : Keeps s0 s) : Keeps s0 (safeOrReport report i s) := by
  unfold safeOrReport
  repeat' (first | with_reducible assumption | with_reducible apply incF_keeps | with_reducible apply enterSafe_keeps | split)

theorem startFail_keeps {s0 s : State} {code result : Nat} (hk0 : Keeps s0 s) : Keeps s0 (startFail code result s) := by
  unfold startFail
  repeat' (first | with_reducible assumption | with_reducible apply setF_keeps | with_reducible apply assertSafe_keeps | with_reducible apply portsOff_keeps | with_reducible apply notify_keeps | with_reducible apply startupEnd_keeps | (extract_lets +onlyGivenNames s1; clear_value (hs : s1 = _); refine Keeps.cut (s0 := s0) (x := s1) ?_ (fun k1 => ?_); (on_goal 1 => subst hs); (on_goal 2 => clear hs)) | (extract_lets +onlyGivenNames v1; first | (have _ : Clocks := v1; subst v1) | (have _ : Fuses := v1; subst v1) | clear_value v1 | subst v1))


end Sys2Proof.Machine
end

