-- ==== Sys2Proof/Laws/KeepsCipherOps.lean ====
section
/-! SUPPORT. What the operations of Machine/CipherOps.lean keep. -/

set_option linter.unusedTactic false
set_option linter.unreachableTactic false
set_option linter.unusedVariables false

namespace Sys2Proof.Machine

theorem raiseMarks_keeps {s0 s : State} (hk0 : Keeps s0 s) : Keeps s0 (raiseMarks s) := by
  unfold raiseMarks
  repeat' (first | with_reducible assumption | with_reducible apply updTamp_keeps | (extract_lets +onlyGivenNames s1; clear_value (hs : s1 = _); refine Keeps.cut (s0 := s0) (x := s1) ?_ (fun k1 => ?_); (on_goal 1 => subst hs); (on_goal 2 => clear hs)) | (extract_lets +onlyGivenNames v1; first | (have _ : Clocks := v1; subst v1) | (have _ : Fuses := v1; subst v1) | clear_value v1 | subst v1) | split | (unfold Keeps; dsimp only; with_reducible refine Keeps.of ?_))

theorem noteFcEnd_keeps {s0 s : State} (hk0 : Keeps s0 s) : Keeps s0 (noteFcEnd s) := by
  unfold noteFcEnd
  repeat' (first | with_reducible assumption | with_reducible apply notify_keeps | with_reducible apply updCph_keeps | (extract_lets +onlyGivenNames s1; clear_value (hs : s1 = _); refine Keeps.cut (s0 := s0) (x := s1) ?_ (fun k1 => ?_); (on_goal 1 => subst hs); (on_goal 2 => clear hs)) | (extract_lets +onlyGivenNames v1; first | (have _ : Clocks := v1; subst v1) | (have _ : Fuses := v1; subst v1) | clear_value v1 | subst v1) | split | (unfold Keeps; dsimp only; with_reducible refine Keeps.of ?_))

theorem journalDev_keeps {s0 s : State} {now : Nat} (hk0 : Keeps s0 s) : Keeps s0 (journalDev now s) := by
  unfold journalDev
  repeat' (first | with_reducible assumption | with_reducible apply journalRec_keeps | split)

theorem takeCounter_keeps {s0 s : State} {a : CphArg} (hk0 : Keeps s0 s) : Keeps2 s0 (takeCounter a s) := by
  unfold takeCounter
  repeat' (first | with_reducible assumption | with_reducible apply takeOutFc_keeps | (with_reducible refine Keeps2.snd (takeOutFc_keeps ?_) (by assumption)) | (with_reducible refine Keeps.of2 (takeOutFc_keeps ?_)) | with_reducible apply journalDev_keeps | with_reducible apply noteFcEnd_keeps | with_reducible apply raiseMarks_keeps | with_reducible apply incF_keeps | (extract_lets +onlyGivenNames s1; clear_value (hs : s1 = _); refine Keeps.cut (s0 := s0) (x := s1) ?_ (fun k1 => ?_); (on_goal 1 => subst hs); (on_goal 2 => clear hs)) | (extract_lets +onlyGivenNames v1; first | (have _ : Clocks := v1; subst v1) | (have _ : Fuses := v1; subst v1) | clear_value v1 | subst v1) | split | (with_reducible refine Keeps2.snd ?_ (by assumption)) | with_reducible apply Keeps2.mk)

theorem cphFetch_keeps {s0 s : State} {j : Job} {a : CphArg} (hk0 : Keeps s0 s) : Keeps2 s0 (cphFetch j a s) := by
  unfold cphFetch
  repeat' (first | with_reducible assumption | with_reducible apply dramRead_keeps | (with_reducible refine Keeps2.snd (dramRead_keeps ?_) (by assumption)) | (with_reducible refine Keeps.of2 (dramRead_keeps ?_)) | (extract_lets +onlyGivenNames s1; clear_value (hs : s1 = _); refine Keeps.cut (s0 := s0) (x := s1) ?_ (fun k1 => ?_); (on_goal 1 => subst hs); (on_goal 2 => clear hs)) | (extract_lets +onlyGivenNames v1; first | (have _ : Clocks := v1; subst v1) | (have _ : Fuses := v1; subst v1) | clear_value v1 | subst v1) | split | with_reducible apply Keeps2.mk | (unfold Keeps; dsimp only; with_reducible refine Keeps.of ?_))

theorem cphStart_keeps {s0 s : State} {i : Nat} {j : Job} (hk0 : Keeps s0 s) : Keeps s0 (cphStart i j s) := by
  unfold cphStart
  repeat' (first | with_reducible assumption | with_reducible apply useKey_keeps | with_reducible apply takeCounter_keeps | (with_reducible refine Keeps2.snd (takeCounter_keeps ?_) (by assumption)) | (with_reducible refine Keeps.of2 (takeCounter_keeps ?_)) | with_reducible apply updDl_keeps | with_reducible apply cphFetch_keeps | (with_reducible refine Keeps2.snd (cphFetch_keeps ?_) (by assumption)) | (with_reducible refine Keeps.of2 (cphFetch_keeps ?_)) | with_reducible apply cipherEnd_keeps | with_reducible apply syncCph_keeps | with_reducible apply setJob_keeps | (extract_lets +onlyGivenNames s1; clear_value (hs : s1 = _); refine Keeps.cut (s0 := s0) (x := s1) ?_ (fun k1 => ?_); (on_goal 1 => subst hs); (on_goal 2 => clear hs)) | (extract_lets +onlyGivenNames v1; first | (have _ : Clocks := v1; subst v1) | (have _ : Fuses := v1; subst v1) | clear_value v1 | subst v1) | split | (with_reducible refine Keeps2.snd ?_ (by assumption)) | with_reducible apply Keeps2.mk | (unfold Keeps; dsimp only; with_reducible refine Keeps.of ?_))

theorem cphFinish_keeps {s0 s : State} {i : Nat} {j : Job} (hk0 : Keeps s0 s) : Keeps s0 (cphFinish i j s) := by
  unfold cphFinish
  repeat' (first | with_reducible assumption | with_reducible apply addF_keeps | with_reducible apply cipherEnd_keeps | with_reducible apply writeDram_keeps | (extract_lets +onlyGivenNames s1; clear_value (hs : s1 = _); refine Keeps.cut (s0 := s0) (x := s1) ?_ (fun k1 => ?_); (on_goal 1 => subst hs); (on_goal 2 => clear hs)) | (extract_lets +onlyGivenNames v1; first | (have _ : Clocks := v1; subst v1) | (have _ : Fuses := v1; subst v1) | clear_value v1 | subst v1) | split | (with_reducible refine Keeps2.snd ?_ (by assumption)) | with_reducible apply Keeps2.mk | (unfold Keeps; dsimp only; with_reducible refine Keeps.of ?_))

theorem abortCipherJobs_keeps {s0 s : State} (hk0 : Keeps s0 s) : Keeps s0 (abortCipherJobs s) := by
  unfold abortCipherJobs
  repeat' (first | with_reducible assumption | with_reducible apply cipherEnd_keeps | with_reducible apply leaveReady_keeps | with_reducible apply Keeps.foldl | intro _ _ _ | intro _ _ | split)

theorem laneFault_keeps {s0 s : State} {k : NoticeKind} {arg cause : Nat} (hk0 : Keeps s0 s) : Keeps s0 (laneFault k arg cause s) := by
  unfold laneFault
  repeat' (first | with_reducible assumption | with_reducible apply abortCipherJobs_keeps | with_reducible apply setF_keeps | with_reducible apply alarmErase_keeps | with_reducible apply updCph_keeps | with_reducible apply enterSafe_keeps | with_reducible apply syncCph_keeps | with_reducible apply notify_keeps | (extract_lets +onlyGivenNames s1; clear_value (hs : s1 = _); refine Keeps.cut (s0 := s0) (x := s1) ?_ (fun k1 => ?_); (on_goal 1 => subst hs); (on_goal 2 => clear hs)) | (extract_lets +onlyGivenNames v1; first | (have _ : Clocks := v1; subst v1) | (have _ : Fuses := v1; subst v1) | clear_value v1 | subst v1) | (unfold Keeps; dsimp only; with_reducible refine Keeps.of ?_))

theorem laneMismatch_keeps {s0 s : State} {id : Nat} {injected : Bool} (hk0 : Keeps s0 s) : Keeps s0 (laneMismatch id injected s) := by
  unfold laneMismatch
  repeat' (first | with_reducible assumption | with_reducible apply setF_keeps | with_reducible apply laneFault_keeps | (extract_lets +onlyGivenNames s1; clear_value (hs : s1 = _); refine Keeps.cut (s0 := s0) (x := s1) ?_ (fun k1 => ?_); (on_goal 1 => subst hs); (on_goal 2 => clear hs)) | (extract_lets +onlyGivenNames v1; first | (have _ : Clocks := v1; subst v1) | (have _ : Fuses := v1; subst v1) | clear_value v1 | subst v1) | split)

theorem cphDispatch_keeps {s0 s : State} {i : Nat} {j : Job} (hk0 : Keeps s0 s) : Keeps s0 (cphDispatch i j s) := by
  unfold cphDispatch
  repeat' (first | with_reducible assumption | with_reducible apply laneMismatch_keeps | with_reducible apply syncCph_keeps | with_reducible apply incF_keeps | with_reducible apply cipherEnd_keeps | with_reducible apply cphStart_keeps | (extract_lets +onlyGivenNames s1; clear_value (hs : s1 = _); refine Keeps.cut (s0 := s0) (x := s1) ?_ (fun k1 => ?_); (on_goal 1 => subst hs); (on_goal 2 => clear hs)) | (extract_lets +onlyGivenNames v1; first | (have _ : Clocks := v1; subst v1) | (have _ : Fuses := v1; subst v1) | clear_value v1 | subst v1) | split | (unfold Keeps; dsimp only; with_reducible refine Keeps.of ?_))


end Sys2Proof.Machine
end

