-- ==== Sys2Proof/Laws/KeepsDmaOps.lean ====
section
/-! SUPPORT. What the operations of Machine/DmaOps.lean keep. -/

set_option linter.unusedTactic false
set_option linter.unreachableTactic false
set_option linter.unusedVariables false

namespace Sys2Proof.Machine

theorem startChunk_keeps {s0 s : State} {i : Nat} (hk0 : Keeps s0 s) : Keeps s0 (startChunk i s) := by
  unfold startChunk
  repeat' (first | with_reducible assumption | with_reducible apply setJob_keeps | (extract_lets +onlyGivenNames s1; clear_value (hs : s1 = _); refine Keeps.cut (s0 := s0) (x := s1) ?_ (fun k1 => ?_); (on_goal 1 => subst hs); (on_goal 2 => clear hs)) | (extract_lets +onlyGivenNames v1; first | (have _ : Clocks := v1; subst v1) | (have _ : Fuses := v1; subst v1) | clear_value v1 | subst v1) | split | (unfold Keeps; dsimp only; with_reducible refine Keeps.of ?_))

theorem chunkEnded_keeps {s0 s : State} {i : Nat} (hk0 : Keeps s0 s) : Keeps s0 (chunkEnded i s) := by
  unfold chunkEnded
  repeat' (first | with_reducible assumption | with_reducible apply Keeps.foldl | (extract_lets +onlyGivenNames s1; clear_value (hs : s1 = _); refine Keeps.cut (s0 := s0) (x := s1) ?_ (fun k1 => ?_); (on_goal 1 => subst hs); (on_goal 2 => clear hs)) | (extract_lets +onlyGivenNames v1; first | (have _ : Clocks := v1; subst v1) | (have _ : Fuses := v1; subst v1) | clear_value v1 | subst v1) | intro _ _ _ | intro _ _ | (unfold Keeps; dsimp only; with_reducible refine Keeps.of ?_))

theorem dmaPark_keeps {s0 s : State} {i : Nat} {j : Job} {ecc : Bool} {detail faultAt : Nat} (hk0 : Keeps s0 s) : Keeps s0 (dmaPark i j ecc detail faultAt s) := by
  unfold dmaPark
  repeat' (first | with_reducible assumption | with_reducible apply chunkEnded_keeps | with_reducible apply incF_keeps | with_reducible apply parkJob_keeps | (extract_lets +onlyGivenNames s1; clear_value (hs : s1 = _); refine Keeps.cut (s0 := s0) (x := s1) ?_ (fun k1 => ?_); (on_goal 1 => subst hs); (on_goal 2 => clear hs)) | (extract_lets +onlyGivenNames v1; first | (have _ : Clocks := v1; subst v1) | (have _ : Fuses := v1; subst v1) | clear_value v1 | subst v1) | split)

theorem chunkRead_keeps {s0 s : State} {j : Job} {n : Nat} {hostData : List Byte} {hostErr : Option Bool} (hk0 : Keeps s0 s) : Keeps2 s0 (chunkRead j n hostData hostErr s) := by
  unfold chunkRead
  repeat' (first | with_reducible assumption | with_reducible apply hostErr_keeps | with_reducible apply withRead_keeps | (with_reducible apply withRead_keeps2) | (extract_lets +onlyGivenNames s1; clear_value (hs : s1 = _); refine Keeps.cut (s0 := s0) (x := s1) ?_ (fun k1 => ?_); (on_goal 1 => subst hs); (on_goal 2 => clear hs)) | (extract_lets +onlyGivenNames v1; first | (have _ : Clocks := v1; subst v1) | (have _ : Fuses := v1; subst v1) | clear_value v1 | subst v1) | intro _ _ _ | intro _ _ | split | with_reducible apply Keeps2.mk | (unfold Keeps; dsimp only; with_reducible refine Keeps.of ?_))

theorem chunkWrite_keeps {s0 s : State} {i : Nat} {j : Job} {n : Nat} {b : List Byte} (hk0 : Keeps s0 s) : Keeps2 s0 (chunkWrite i j n b s) := by
  unfold chunkWrite
  repeat' (first | with_reducible assumption | with_reducible apply emit_keeps | with_reducible apply setJob_keeps | with_reducible apply foundUe_keeps | with_reducible apply writeDram_keeps | (extract_lets +onlyGivenNames s1; clear_value (hs : s1 = _); refine Keeps.cut (s0 := s0) (x := s1) ?_ (fun k1 => ?_); (on_goal 1 => subst hs); (on_goal 2 => clear hs)) | (extract_lets +onlyGivenNames v1; first | (have _ : Clocks := v1; subst v1) | (have _ : Fuses := v1; subst v1) | clear_value v1 | subst v1) | split | with_reducible apply Keeps2.mk | (unfold Keeps; dsimp only; with_reducible refine Keeps.of ?_))

theorem dmaChunk_keeps {s0 s : State} {i : Nat} {j : Job} {hostData : List Byte} {hostErr : Option Bool} (hk0 : Keeps s0 s) : Keeps s0 (dmaChunk i j hostData hostErr s) := by
  unfold dmaChunk
  repeat' (first | with_reducible assumption | with_reducible apply chunkRead_keeps | (with_reducible refine Keeps2.snd (chunkRead_keeps ?_) (by assumption)) | (with_reducible refine Keeps.of2 (chunkRead_keeps ?_)) | with_reducible apply hostErr_keeps | with_reducible apply completeJob_keeps | with_reducible apply chunkEnded_keeps | with_reducible apply dmaPark_keeps | with_reducible apply chunkWrite_keeps | (with_reducible refine Keeps2.snd (chunkWrite_keeps ?_) (by assumption)) | (with_reducible refine Keeps.of2 (chunkWrite_keeps ?_)) | with_reducible apply setJob_keeps | with_reducible apply startChunk_keeps | (extract_lets +onlyGivenNames s1; clear_value (hs : s1 = _); refine Keeps.cut (s0 := s0) (x := s1) ?_ (fun k1 => ?_); (on_goal 1 => subst hs); (on_goal 2 => clear hs)) | (extract_lets +onlyGivenNames v1; first | (have _ : Clocks := v1; subst v1) | (have _ : Fuses := v1; subst v1) | clear_value v1 | subst v1) | split | (unfold Keeps; dsimp only; with_reducible refine Keeps.of ?_))

theorem dmaDispatch_keeps {s0 s : State} {i : Nat} {j : Job} (hk0 : Keeps s0 s) : Keeps s0 (dmaDispatch i j s) := by
  unfold dmaDispatch
  repeat' (first | with_reducible assumption | with_reducible apply startChunk_keeps | with_reducible apply incF_keeps | with_reducible apply completeJob_keeps | (extract_lets +onlyGivenNames s1; clear_value (hs : s1 = _); refine Keeps.cut (s0 := s0) (x := s1) ?_ (fun k1 => ?_); (on_goal 1 => subst hs); (on_goal 2 => clear hs)) | (extract_lets +onlyGivenNames v1; first | (have _ : Clocks := v1; subst v1) | (have _ : Fuses := v1; subst v1) | clear_value v1 | subst v1) | split | (unfold Keeps; dsimp only; with_reducible refine Keeps.of ?_))


end Sys2Proof.Machine
end

