-- ==== Sys2Proof/Laws/KeepsBhlOps.lean ====
section
/-! SUPPORT. What the operations of Machine/BhlOps.lean keep. -/

set_option linter.unusedTactic false
set_option linter.unreachableTactic false
set_option linter.unusedVariables false

namespace Sys2Proof.Machine

theorem updBhl_keeps {s0 s : State} {f : Backhaul → Backhaul} (hk0 : Keeps s0 s) : Keeps s0 (State.updBhl s f) := by
  unfold State.updBhl
  repeat' (first | with_reducible assumption | (extract_lets +onlyGivenNames s1; clear_value (hs : s1 = _); refine Keeps.cut (s0 := s0) (x := s1) ?_ (fun k1 => ?_); (on_goal 1 => subst hs); (on_goal 2 => clear hs)) | (extract_lets +onlyGivenNames v1; first | (have _ : Clocks := v1; subst v1) | (have _ : Fuses := v1; subst v1) | clear_value v1 | subst v1) | (unfold Keeps; dsimp only; with_reducible refine Keeps.of ?_))

theorem recTag_keeps {s0 s : State} {slot : Nat} {m : List Byte} (hk0 : Keeps s0 s) : Keeps2 s0 (recTag slot m s) := by
  unfold recTag
  repeat' (first | with_reducible assumption | with_reducible apply useKey_keeps | (extract_lets +onlyGivenNames s1; clear_value (hs : s1 = _); refine Keeps.cut (s0 := s0) (x := s1) ?_ (fun k1 => ?_); (on_goal 1 => subst hs); (on_goal 2 => clear hs)) | (extract_lets +onlyGivenNames v1; first | (have _ : Clocks := v1; subst v1) | (have _ : Fuses := v1; subst v1) | clear_value v1 | subst v1) | split | with_reducible apply Keeps2.mk | (unfold Keeps; dsimp only; with_reducible refine Keeps.of ?_))

theorem txTag_keeps {s0 s : State} {host : Bool} {m : List Byte} (hk0 : Keeps s0 s) : Keeps2 s0 (txTag host m s) := by
  unfold txTag
  repeat' (first | with_reducible assumption | with_reducible apply recTag_keeps | (with_reducible refine Keeps2.snd (recTag_keeps ?_) (by assumption)) | (with_reducible refine Keeps.of2 (recTag_keeps ?_)) | split | with_reducible apply Keeps2.mk)

theorem buildParts_keeps {s0 s : State} {big host : Bool} {r : Rec} {last n k : Nat} (hk0 : Keeps s0 s) : Keeps2 s0 (buildParts big host r last n k s) := by
  induction n generalizing k s with
  | zero => exact hk0
  | succ n ih =>
    unfold buildParts
    extract_lets mb h
    split
    · exact Keeps2.mk (Keeps2.snd (txTag_keeps hk0) ‹_›)
    · have h1 := Keeps2.snd (txTag_keeps hk0) ‹_›
      split
      · exact Keeps2.mk (Keeps2.snd (ih (updBhl_keeps h1)) ‹_›)
      · exact Keeps2.mk (Keeps2.snd (ih (updBhl_keeps h1)) ‹_›)
theorem recBuild_keeps {s0 s : State} {big host : Bool} {r : Rec} (hk0 : Keeps s0 s) : Keeps2 s0 (recBuild big host r s) := by
  unfold recBuild
  repeat' (first | with_reducible assumption | with_reducible apply buildParts_keeps | (with_reducible refine Keeps2.snd (buildParts_keeps ?_) (by assumption)) | (with_reducible refine Keeps.of2 (buildParts_keeps ?_)) | (extract_lets +onlyGivenNames s1; clear_value (hs : s1 = _); refine Keeps.cut (s0 := s0) (x := s1) ?_ (fun k1 => ?_); (on_goal 1 => subst hs); (on_goal 2 => clear hs)) | (extract_lets +onlyGivenNames v1; first | (have _ : Clocks := v1; subst v1) | (have _ : Fuses := v1; subst v1) | clear_value v1 | subst v1) | with_reducible apply Keeps2.mk)

theorem tagFail_keeps {s0 s : State} {r : Rec} {status : Nat} (hk0 : Keeps s0 s) : Keeps s0 (tagFail r status s) := by
  unfold tagFail
  repeat' (first | with_reducible assumption | with_reducible apply incF_keeps | with_reducible apply notify_keeps | with_reducible apply updBhl_keeps | (extract_lets +onlyGivenNames s1; clear_value (hs : s1 = _); refine Keeps.cut (s0 := s0) (x := s1) ?_ (fun k1 => ?_); (on_goal 1 => subst hs); (on_goal 2 => clear hs)) | (extract_lets +onlyGivenNames v1; first | (have _ : Clocks := v1; subst v1) | (have _ : Fuses := v1; subst v1) | clear_value v1 | subst v1) | split | (unfold Keeps; dsimp only; with_reducible refine Keeps.of ?_))

theorem sendRecord_keeps {s0 s : State} {b : Nat} {r : Rec} (hk0 : Keeps s0 s) : Keeps s0 (sendRecord b r s) := by
  unfold sendRecord
  repeat' (first | with_reducible assumption | with_reducible apply recBuild_keeps | (with_reducible refine Keeps2.snd (recBuild_keeps ?_) (by assumption)) | (with_reducible refine Keeps.of2 (recBuild_keeps ?_)) | with_reducible apply tagFail_keeps | with_reducible apply incF_keeps | with_reducible apply emit_keeps | with_reducible apply Keeps.foldl | (extract_lets +onlyGivenNames s1; clear_value (hs : s1 = _); refine Keeps.cut (s0 := s0) (x := s1) ?_ (fun k1 => ?_); (on_goal 1 => subst hs); (on_goal 2 => clear hs)) | (extract_lets +onlyGivenNames v1; first | (have _ : Clocks := v1; subst v1) | (have _ : Fuses := v1; subst v1) | clear_value v1 | subst v1) | intro _ _ _ | intro _ _ | split | (unfold Keeps; dsimp only; with_reducible refine Keeps.of ?_))

theorem moveQueues_keeps {s0 s : State} {p q : Nat} (hk0 : Keeps s0 s) : Keeps s0 (moveQueues p q s) := by
  unfold moveQueues
  repeat' (first | with_reducible assumption | with_reducible apply updShp_keeps | with_reducible apply setClassTag_keeps | with_reducible apply putQueue_keeps | with_reducible apply Keeps.foldl | (extract_lets +onlyGivenNames s1; clear_value (hs : s1 = _); refine Keeps.cut (s0 := s0) (x := s1) ?_ (fun k1 => ?_); (on_goal 1 => subst hs); (on_goal 2 => clear hs)) | (extract_lets +onlyGivenNames v1; first | (have _ : Clocks := v1; subst v1) | (have _ : Fuses := v1; subst v1) | clear_value v1 | subst v1) | intro _ _ _ | intro _ _ | split | (unfold Keeps; dsimp only; with_reducible refine Keeps.of ?_))

theorem clearPause_keeps {s0 s : State} {b : Nat} (hk0 : Keeps s0 s) : Keeps s0 (clearPause b s) := by
  unfold clearPause
  repeat' (first | with_reducible assumption | with_reducible apply updBhl_keeps | with_reducible apply setF_keeps | (extract_lets +onlyGivenNames s1; clear_value (hs : s1 = _); refine Keeps.cut (s0 := s0) (x := s1) ?_ (fun k1 => ?_); (on_goal 1 => subst hs); (on_goal 2 => clear hs)) | (extract_lets +onlyGivenNames v1; first | (have _ : Clocks := v1; subst v1) | (have _ : Fuses := v1; subst v1) | clear_value v1 | subst v1) | (unfold Keeps; dsimp only; with_reducible refine Keeps.of ?_))

theorem setLink_keeps {s0 s : State} {b : Nat} {up : Bool} (hk0 : Keeps s0 s) : Keeps s0 (setLink b up s) := by
  unfold setLink
  repeat' (first | with_reducible assumption | with_reducible apply setF_keeps | with_reducible apply satF_keeps | with_reducible apply clearPause_keeps | with_reducible apply notify_keeps | with_reducible apply moveQueues_keeps | (extract_lets +onlyGivenNames s1; clear_value (hs : s1 = _); refine Keeps.cut (s0 := s0) (x := s1) ?_ (fun k1 => ?_); (on_goal 1 => subst hs); (on_goal 2 => clear hs)) | (extract_lets +onlyGivenNames v1; first | (have _ : Clocks := v1; subst v1) | (have _ : Fuses := v1; subst v1) | clear_value v1 | subst v1) | split)

theorem sendLoad_keeps {s0 s : State} {b : Nat} {l : Load} (hk0 : Keeps s0 s) : Keeps s0 (sendLoad b l s) := by
  unfold sendLoad
  repeat' (first | with_reducible assumption | with_reducible apply poolFreeOpt_keeps | with_reducible apply sendRecord_keeps | with_reducible apply emit_keeps | (extract_lets +onlyGivenNames s1; clear_value (hs : s1 = _); refine Keeps.cut (s0 := s0) (x := s1) ?_ (fun k1 => ?_); (on_goal 1 => subst hs); (on_goal 2 => clear hs)) | (extract_lets +onlyGivenNames v1; first | (have _ : Clocks := v1; subst v1) | (have _ : Fuses := v1; subst v1) | clear_value v1 | subst v1) | split | (unfold Keeps; dsimp only; with_reducible refine Keeps.of ?_))

theorem sendHost_keeps {s0 s : State} {r : Rec} {buffer : Option Nat} (hk0 : Keeps s0 s) : Keeps s0 (sendHost r buffer s) := by
  unfold sendHost
  repeat' (first | with_reducible assumption | with_reducible apply recBuild_keeps | (with_reducible refine Keeps2.snd (recBuild_keeps ?_) (by assumption)) | (with_reducible refine Keeps.of2 (recBuild_keeps ?_)) | with_reducible apply tagFail_keeps | with_reducible apply poolFreeOpt_keeps | with_reducible apply incF_keeps | with_reducible apply createJob_keeps | (extract_lets +onlyGivenNames s1; clear_value (hs : s1 = _); refine Keeps.cut (s0 := s0) (x := s1) ?_ (fun k1 => ?_); (on_goal 1 => subst hs); (on_goal 2 => clear hs)) | (extract_lets +onlyGivenNames v1; first | (have _ : Clocks := v1; subst v1) | (have _ : Fuses := v1; subst v1) | clear_value v1 | subst v1) | split | (unfold Keeps; dsimp only; with_reducible refine Keeps.of ?_))

theorem startFetchTx_keeps {s0 s : State} {t : Nat} (hk0 : Keeps s0 s) : Keeps s0 (startFetchTx t s) := by
  unfold startFetchTx
  repeat' (first | with_reducible assumption | with_reducible apply createJob_keeps | (extract_lets +onlyGivenNames s1; clear_value (hs : s1 = _); refine Keeps.cut (s0 := s0) (x := s1) ?_ (fun k1 => ?_); (on_goal 1 => subst hs); (on_goal 2 => clear hs)) | (extract_lets +onlyGivenNames v1; first | (have _ : Clocks := v1; subst v1) | (have _ : Fuses := v1; subst v1) | clear_value v1 | subst v1) | split)

theorem advanceTx_keeps {s0 s : State} {t : Nat} (hk0 : Keeps s0 s) : Keeps s0 (advanceTx t s) := by
  unfold advanceTx
  repeat' (first | with_reducible assumption | with_reducible apply incF_keeps | with_reducible apply raiseVector_keeps | with_reducible apply startFetchTx_keeps | (extract_lets +onlyGivenNames s1; clear_value (hs : s1 = _); refine Keeps.cut (s0 := s0) (x := s1) ?_ (fun k1 => ?_); (on_goal 1 => subst hs); (on_goal 2 => clear hs)) | (extract_lets +onlyGivenNames v1; first | (have _ : Clocks := v1; subst v1) | (have _ : Fuses := v1; subst v1) | clear_value v1 | subst v1) | split)

theorem rxDrop_keeps {s0 s : State} {src status reason : Nat} (hk0 : Keeps s0 s) : Keeps s0 (rxDrop src status reason s) := by
  unfold rxDrop
  repeat' (first | with_reducible assumption | with_reducible apply setReg_keeps | with_reducible apply incF_keeps | with_reducible apply notify_keeps | with_reducible apply updBhl_keeps | (extract_lets +onlyGivenNames s1; clear_value (hs : s1 = _); refine Keeps.cut (s0 := s0) (x := s1) ?_ (fun k1 => ?_); (on_goal 1 => subst hs); (on_goal 2 => clear hs)) | (extract_lets +onlyGivenNames v1; first | (have _ : Clocks := v1; subst v1) | (have _ : Fuses := v1; subst v1) | clear_value v1 | subst v1) | split | (unfold Keeps; dsimp only; with_reducible refine Keeps.of ?_))

theorem inboundRecord_keeps {s0 s : State} {src : Nat} {b : List Byte} (hk0 : Keeps s0 s) : Keeps s0 (inboundRecord src b s) := by
  unfold inboundRecord
  repeat' (first | with_reducible assumption | with_reducible apply rxDrop_keeps | with_reducible apply recTag_keeps | (with_reducible refine Keeps2.snd (recTag_keeps ?_) (by assumption)) | (with_reducible refine Keeps.of2 (recTag_keeps ?_)) | with_reducible apply updBhl_keeps | (extract_lets +onlyGivenNames s1; clear_value (hs : s1 = _); refine Keeps.cut (s0 := s0) (x := s1) ?_ (fun k1 => ?_); (on_goal 1 => subst hs); (on_goal 2 => clear hs)) | (extract_lets +onlyGivenNames v1; first | (have _ : Clocks := v1; subst v1) | (have _ : Fuses := v1; subst v1) | clear_value v1 | subst v1) | split | (with_reducible refine Keeps2.snd ?_ (by assumption)) | with_reducible apply Keeps2.mk | (unfold Keeps; dsimp only; with_reducible refine Keeps.of ?_))

theorem takeInbound_keeps {s0 s : State} {type : Nat} (hk0 : Keeps s0 s) : Keeps2 s0 (takeInbound type s) := by
  unfold takeInbound
  repeat' (first | with_reducible assumption | with_reducible apply updBhl_keeps | (extract_lets +onlyGivenNames s1; clear_value (hs : s1 = _); refine Keeps.cut (s0 := s0) (x := s1) ?_ (fun k1 => ?_); (on_goal 1 => subst hs); (on_goal 2 => clear hs)) | (extract_lets +onlyGivenNames v1; first | (have _ : Clocks := v1; subst v1) | (have _ : Fuses := v1; subst v1) | clear_value v1 | subst v1) | split | with_reducible apply Keeps2.mk | (unfold Keeps; dsimp only; with_reducible refine Keeps.of ?_))

theorem hostJobEnd_keeps {s0 s : State} {i : Nat} {j : Job} {status : Nat} (hk0 : Keeps s0 s) : Keeps2 s0 (hostJobEnd i j status s) := by
  unfold hostJobEnd
  repeat' (first | with_reducible assumption | with_reducible apply poolFree_keeps | with_reducible apply raiseVector_keeps | with_reducible apply incF_keeps | with_reducible apply startChunk_keeps | with_reducible apply setJob_keeps | with_reducible apply inboundRecord_keeps | with_reducible apply advanceTx_keeps | (extract_lets +onlyGivenNames s1; clear_value (hs : s1 = _); refine Keeps.cut (s0 := s0) (x := s1) ?_ (fun k1 => ?_); (on_goal 1 => subst hs); (on_goal 2 => clear hs)) | (extract_lets +onlyGivenNames v1; first | (have _ : Clocks := v1; subst v1) | (have _ : Fuses := v1; subst v1) | clear_value v1 | subst v1) | split | with_reducible apply Keeps2.mk | (unfold Keeps; dsimp only; with_reducible refine Keeps.of ?_))


end Sys2Proof.Machine
end

