-- ==== Sys2Proof/Laws/KeepsTxlOps.lean ====
section
/-! SUPPORT. What the operations of Machine/TxlOps.lean keep. -/

set_option linter.unusedTactic false
set_option linter.unreachableTactic false
set_option linter.unusedVariables false

namespace Sys2Proof.Machine

theorem buildFrame_keeps {s0 s : State} {u : KeyUse} (hk0 : Keeps s0 s) : Keeps s0 (buildFrame u s) := by
  unfold buildFrame
  repeat' (first | with_reducible assumption | with_reducible apply setAcc_keeps | with_reducible apply setDl_keeps | (extract_lets +onlyGivenNames s1; clear_value (hs : s1 = _); refine Keeps.cut (s0 := s0) (x := s1) ?_ (fun k1 => ?_); (on_goal 1 => subst hs); (on_goal 2 => clear hs)) | (extract_lets +onlyGivenNames v1; first | (have _ : Clocks := v1; subst v1) | (have _ : Fuses := v1; subst v1) | clear_value v1 | subst v1) | split | (unfold Keeps; dsimp only; with_reducible refine Keeps.of ?_))

theorem buildDone_keeps {s0 s : State} {i : Nat} {u : KeyUse} (hk0 : Keeps s0 s) : Keeps s0 (buildDone i u s) := by
  unfold buildDone
  repeat' (first | with_reducible assumption | with_reducible apply buildFrame_keeps | with_reducible apply createKld_keeps | (extract_lets +onlyGivenNames s1; clear_value (hs : s1 = _); refine Keeps.cut (s0 := s0) (x := s1) ?_ (fun k1 => ?_); (on_goal 1 => subst hs); (on_goal 2 => clear hs)) | (extract_lets +onlyGivenNames v1; first | (have _ : Clocks := v1; subst v1) | (have _ : Fuses := v1; subst v1) | clear_value v1 | subst v1))

theorem consumeJob_keeps {s0 s : State} {i : Nat} (hk0 : Keeps s0 s) : Keeps s0 (consumeJob i s) := by
  unfold consumeJob
  repeat' (first | with_reducible assumption | with_reducible apply freeJob_keeps | with_reducible apply hostJobEnd_keeps | (with_reducible refine Keeps2.snd (hostJobEnd_keeps ?_) (by assumption)) | (with_reducible refine Keeps.of2 (hostJobEnd_keeps ?_)) | (extract_lets +onlyGivenNames s1; clear_value (hs : s1 = _); refine Keeps.cut (s0 := s0) (x := s1) ?_ (fun k1 => ?_); (on_goal 1 => subst hs); (on_goal 2 => clear hs)) | (extract_lets +onlyGivenNames v1; first | (have _ : Clocks := v1; subst v1) | (have _ : Fuses := v1; subst v1) | clear_value v1 | subst v1) | split | (unfold Keeps; dsimp only; with_reducible refine Keeps.of ?_))

theorem engineStart_keeps {s0 s : State} {i : Nat} {j : Job} (hk0 : Keeps s0 s) : Keeps s0 (engineStart i j s) := by
  unfold engineStart
  repeat' (first | with_reducible assumption | with_reducible apply cphDispatch_keeps | with_reducible apply consumeJob_keeps | with_reducible apply dmaDispatch_keeps | split)

theorem dispatchTo_keeps {s0 s : State} {c u i : Nat} {j : Job} (hk0 : Keeps s0 s) : Keeps s0 (dispatchTo c u i j s) := by
  unfold dispatchTo
  repeat' (first | with_reducible assumption | with_reducible apply syncJobs_keeps | with_reducible apply leaveReady_keeps | with_reducible apply setJob_keeps | with_reducible apply trace_keeps | with_reducible apply incF_keeps | with_reducible apply engineStart_keeps | (extract_lets +onlyGivenNames s1; clear_value (hs : s1 = _); refine Keeps.cut (s0 := s0) (x := s1) ?_ (fun k1 => ?_); (on_goal 1 => subst hs); (on_goal 2 => clear hs)) | (extract_lets +onlyGivenNames v1; first | (have _ : Clocks := v1; subst v1) | (have _ : Fuses := v1; subst v1) | clear_value v1 | subst v1) | (unfold Keeps; dsimp only; with_reducible refine Keeps.of ?_))

theorem dispatch_keeps {s0 s : State} {c : Nat} (hk0 : Keeps s0 s) : Keeps s0 (dispatch c s) := by
  unfold dispatch
  repeat' (first | with_reducible assumption | with_reducible apply dispatchTo_keeps | (extract_lets +onlyGivenNames s1; clear_value (hs : s1 = _); refine Keeps.cut (s0 := s0) (x := s1) ?_ (fun k1 => ?_); (on_goal 1 => subst hs); (on_goal 2 => clear hs)) | (extract_lets +onlyGivenNames v1; first | (have _ : Clocks := v1; subst v1) | (have _ : Fuses := v1; subst v1) | clear_value v1 | subst v1) | split | (unfold Keeps; dsimp only; with_reducible refine Keeps.of ?_))

theorem cancelNow_keeps {s0 s : State} {i : Nat} {j : Job} (hk0 : Keeps s0 s) : Keeps s0 (cancelNow i j s) := by
  unfold cancelNow
  repeat' (first | with_reducible assumption | with_reducible apply cipherEnd_keeps | with_reducible apply completeJob_keeps | with_reducible apply chunkEnded_keeps | with_reducible apply consumeJob_keeps | (extract_lets +onlyGivenNames s1; clear_value (hs : s1 = _); refine Keeps.cut (s0 := s0) (x := s1) ?_ (fun k1 => ?_); (on_goal 1 => subst hs); (on_goal 2 => clear hs)) | (extract_lets +onlyGivenNames v1; first | (have _ : Clocks := v1; subst v1) | (have _ : Fuses := v1; subst v1) | clear_value v1 | subst v1) | split)

theorem cancelJob_keeps {s0 s : State} {i src : Nat} (hk0 : Keeps s0 s) : KeepsOpt s0 (cancelJob i src s) := by
  unfold cancelJob
  repeat' (first | with_reducible assumption | with_reducible apply setJob_keeps | with_reducible apply cancelNow_keeps | with_reducible apply leaveReady_keeps | with_reducible exact KeepsOpt.none | with_reducible apply KeepsOpt.mk | (extract_lets +onlyGivenNames s1; clear_value (hs : s1 = _); refine Keeps.cut (s0 := s0) (x := s1) ?_ (fun k1 => ?_); (on_goal 1 => subst hs); (on_goal 2 => clear hs)) | (extract_lets +onlyGivenNames v1; first | (have _ : Clocks := v1; subst v1) | (have _ : Fuses := v1; subst v1) | clear_value v1 | subst v1) | split | (unfold Keeps; dsimp only; with_reducible refine Keeps.of ?_))

theorem resumeJob_keeps {s0 s : State} {i : Nat} {m : Master} (hk0 : Keeps s0 s) : KeepsOpt s0 (resumeJob i m s) := by
  unfold resumeJob
  repeat' (first | with_reducible assumption | with_reducible apply trace_keeps | with_reducible apply incF_keeps | with_reducible apply makeReady_keeps | with_reducible exact KeepsOpt.none | with_reducible apply KeepsOpt.mk | (extract_lets +onlyGivenNames s1; clear_value (hs : s1 = _); refine Keeps.cut (s0 := s0) (x := s1) ?_ (fun k1 => ?_); (on_goal 1 => subst hs); (on_goal 2 => clear hs)) | (extract_lets +onlyGivenNames v1; first | (have _ : Clocks := v1; subst v1) | (have _ : Fuses := v1; subst v1) | clear_value v1 | subst v1) | split | (unfold Keeps; dsimp only; with_reducible refine Keeps.of ?_))

theorem suspendJob_keeps {s0 s : State} {i : Nat} {j : Job} {progress : List Byte} (hk0 : Keeps s0 s) : Keeps s0 (suspendJob i j progress s) := by
  unfold suspendJob
  repeat' (first | with_reducible assumption | with_reducible apply setJob_keeps | with_reducible apply incF_keeps | with_reducible apply syncReady_keeps | with_reducible apply setReady_keeps | with_reducible apply dispatchTo_keeps | with_reducible apply trace_keeps | with_reducible apply syncCph_keeps | (extract_lets +onlyGivenNames s1; clear_value (hs : s1 = _); refine Keeps.cut (s0 := s0) (x := s1) ?_ (fun k1 => ?_); (on_goal 1 => subst hs); (on_goal 2 => clear hs)) | (extract_lets +onlyGivenNames v1; first | (have _ : Clocks := v1; subst v1) | (have _ : Fuses := v1; subst v1) | clear_value v1 | subst v1) | split | (unfold Keeps; dsimp only; with_reducible refine Keeps.of ?_))

theorem preemptPoint_keeps {s0 s : State} {i : Nat} {j : Job} {progress : List Byte} (hk0 : Keeps s0 s) : Keeps s0 (preemptPoint i j progress s) := by
  unfold preemptPoint
  repeat' (first | with_reducible assumption | with_reducible apply cancelNow_keeps | with_reducible apply suspendJob_keeps | split)

theorem finishJob_keeps {s0 s : State} {i : Nat} {j : Job} {status detail : Nat} {result : List Byte} (hk0 : Keeps s0 s) : Keeps s0 (finishJob i j status detail result s) := by
  unfold finishJob
  repeat' (first | with_reducible assumption | with_reducible apply cphFinish_keeps | with_reducible apply cancelNow_keeps | with_reducible apply hostJobEnd_keeps | (with_reducible refine Keeps2.snd (hostJobEnd_keeps ?_) (by assumption)) | (with_reducible refine Keeps.of2 (hostJobEnd_keeps ?_)) | with_reducible apply consumeJob_keeps | with_reducible apply completeJob_keeps | with_reducible apply chunkEnded_keeps | with_reducible apply buildDone_keeps | with_reducible apply sendLoad_keeps | (extract_lets +onlyGivenNames s1; clear_value (hs : s1 = _); refine Keeps.cut (s0 := s0) (x := s1) ?_ (fun k1 => ?_); (on_goal 1 => subst hs); (on_goal 2 => clear hs)) | (extract_lets +onlyGivenNames v1; first | (have _ : Clocks := v1; subst v1) | (have _ : Fuses := v1; subst v1) | clear_value v1 | subst v1) | split | (with_reducible refine Keeps2.snd ?_ (by assumption)) | with_reducible apply Keeps2.mk | (unfold Keeps; dsimp only; with_reducible refine Keeps.of ?_))


end Sys2Proof.Machine
end

