-- ==== Sys2Proof/Laws/KeepsExchOps.lean ====
section
/-! SUPPORT. What the operations of Machine/ExchOps.lean keep. -/

set_option linter.unusedTactic false
set_option linter.unreachableTactic false
set_option linter.unusedVariables false

namespace Sys2Proof.Machine

theorem startAck_keeps {s0 s : State} {i : Nat} {a : Accept} (hk0 : Keeps s0 s) : Keeps s0 (startAck i a s) := by
  unfold startAck
  repeat' (first | with_reducible assumption | with_reducible apply dropReserve_keeps | with_reducible apply setAcc_keeps | with_reducible apply prepare_keeps | with_reducible apply createJob_keeps | (extract_lets +onlyGivenNames s1; clear_value (hs : s1 = _); refine Keeps.cut (s0 := s0) (x := s1) ?_ (fun k1 => ?_); (on_goal 1 => subst hs); (on_goal 2 => clear hs)) | (extract_lets +onlyGivenNames v1; first | (have _ : Clocks := v1; subst v1) | (have _ : Fuses := v1; subst v1) | clear_value v1 | subst v1) | split | (unfold Keeps; dsimp only; with_reducible refine Keeps.of ?_))

theorem acceptStage3_keeps {s0 s : State} {i : Nat} {a : Accept} (hk0 : Keeps s0 s) : Keeps s0 (acceptStage3 i a s) := by
  unfold acceptStage3
  repeat' (first | with_reducible assumption | with_reducible apply accFail_keeps | with_reducible apply setAcc_keeps | with_reducible apply dropReserve_keeps | with_reducible apply startAck_keeps | with_reducible apply createJob_keeps | with_reducible apply createKld_keeps | (extract_lets +onlyGivenNames s1; clear_value (hs : s1 = _); refine Keeps.cut (s0 := s0) (x := s1) ?_ (fun k1 => ?_); (on_goal 1 => subst hs); (on_goal 2 => clear hs)) | (extract_lets +onlyGivenNames v1; first | (have _ : Clocks := v1; subst v1) | (have _ : Fuses := v1; subst v1) | clear_value v1 | subst v1) | split | (unfold Keeps; dsimp only; with_reducible refine Keeps.of ?_))

theorem acceptStage2_keeps {s0 s : State} {i : Nat} {a : Accept} {m : Mac} (hk0 : Keeps s0 s) : Keeps s0 (acceptStage2 i a m s) := by
  unfold acceptStage2
  repeat' (first | with_reducible assumption | with_reducible apply incF_keeps | with_reducible apply accFail_keeps | with_reducible apply fetchEntry_keeps | with_reducible apply setAcc_keeps | with_reducible apply acceptStage3_keeps | (extract_lets +onlyGivenNames s1; clear_value (hs : s1 = _); refine Keeps.cut (s0 := s0) (x := s1) ?_ (fun k1 => ?_); (on_goal 1 => subst hs); (on_goal 2 => clear hs)) | (extract_lets +onlyGivenNames v1; first | (have _ : Clocks := v1; subst v1) | (have _ : Fuses := v1; subst v1) | clear_value v1 | subst v1) | split | (unfold Keeps; dsimp only; with_reducible refine Keeps.of ?_))

theorem acceptRecord_keeps {s0 s : State} {h : Nat} (hk0 : Keeps s0 s) : Keeps s0 (acceptRecord h s) := by
  unfold acceptRecord
  repeat' (first | with_reducible assumption | with_reducible apply updXch_keeps | with_reducible apply incF_keeps | with_reducible apply setAcc_keeps | with_reducible apply accFail_keeps | with_reducible apply acceptStage2_keeps | (extract_lets +onlyGivenNames s1; clear_value (hs : s1 = _); refine Keeps.cut (s0 := s0) (x := s1) ?_ (fun k1 => ?_); (on_goal 1 => subst hs); (on_goal 2 => clear hs)) | (extract_lets +onlyGivenNames v1; first | (have _ : Clocks := v1; subst v1) | (have _ : Fuses := v1; subst v1) | clear_value v1 | subst v1) | split | (unfold Keeps; dsimp only; with_reducible refine Keeps.of ?_))

theorem takeReceipt_keeps {s0 s : State} {i : Nat} {a : Accept} {rcpt : Bool} (hk0 : Keeps s0 s) : Keeps s0 (takeReceipt i a rcpt s) := by
  unfold takeReceipt
  repeat' (first | with_reducible assumption | with_reducible apply setReceipt_keeps)

theorem noteRcptFull_keeps {s0 s : State} {port : Nat} (hk0 : Keeps s0 s) : Keeps s0 (noteRcptFull port s) := by
  unfold noteRcptFull
  repeat' (first | with_reducible assumption | with_reducible apply notify_keeps | with_reducible apply updXch_keeps | (extract_lets +onlyGivenNames s1; clear_value (hs : s1 = _); refine Keeps.cut (s0 := s0) (x := s1) ?_ (fun k1 => ?_); (on_goal 1 => subst hs); (on_goal 2 => clear hs)) | (extract_lets +onlyGivenNames v1; first | (have _ : Clocks := v1; subst v1) | (have _ : Fuses := v1; subst v1) | clear_value v1 | subst v1) | split | (unfold Keeps; dsimp only; with_reducible refine Keeps.of ?_))

theorem nodeAck_keeps {s0 s : State} {a : Accept} {p : List Byte} (hk0 : Keeps s0 s) : Keeps s0 (nodeAck a p s) := by
  unfold nodeAck
  repeat' (first | with_reducible assumption | with_reducible apply assocActive_keeps | with_reducible apply assocUplink_keeps | (with_reducible refine Keeps2.snd (assocUplink_keeps ?_) (by assumption)) | (with_reducible refine Keeps.of2 (assocUplink_keeps ?_)) | with_reducible apply charge_keeps | with_reducible apply dropResponse_keeps | with_reducible apply dlEnd_keeps | (extract_lets +onlyGivenNames s1; clear_value (hs : s1 = _); refine Keeps.cut (s0 := s0) (x := s1) ?_ (fun k1 => ?_); (on_goal 1 => subst hs); (on_goal 2 => clear hs)) | (extract_lets +onlyGivenNames v1; first | (have _ : Clocks := v1; subst v1) | (have _ : Fuses := v1; subst v1) | clear_value v1 | subst v1) | split | (unfold Keeps; dsimp only; with_reducible refine Keeps.of ?_))

theorem syncAccession_keeps {s0 s : State} (hk0 : Keeps s0 s) : Keeps s0 (syncAccession s) := by
  unfold syncAccession
  repeat' (first | with_reducible assumption | with_reducible apply setF_keeps)

theorem insertAccession_keeps {s0 s : State} {origin fseq : Nat} (hk0 : Keeps s0 s) : Keeps s0 (insertAccession origin fseq s) := by
  unfold insertAccession
  repeat' (first | with_reducible assumption | with_reducible apply incF_keeps | with_reducible apply notify_keeps | with_reducible apply updXch_keeps | with_reducible apply syncAccession_keeps | with_reducible apply journalRec_keeps | (extract_lets +onlyGivenNames s1; clear_value (hs : s1 = _); refine Keeps.cut (s0 := s0) (x := s1) ?_ (fun k1 => ?_); (on_goal 1 => subst hs); (on_goal 2 => clear hs)) | (extract_lets +onlyGivenNames v1; first | (have _ : Clocks := v1; subst v1) | (have _ : Fuses := v1; subst v1) | clear_value v1 | subst v1) | split | (unfold Keeps; dsimp only; with_reducible refine Keeps.of ?_))

theorem chooseRelays_keeps {s0 s : State} {leave : List Nat} (hk0 : Keeps s0 s) : Keeps2 s0 (chooseRelays leave s) := by
  unfold chooseRelays
  have k (l : List Nat) (p : List (Nat × Nat × Nat) × State) (h : Keeps2 s0 p) : Keeps2 s0 (l.foldl (fun (acc : List (Nat × Nat × Nat) × State) n =>
      let (st, s) := readLedger n acc.2
      (if st ≤ weight 0x410 s then insertRelay (st, entNat (s.entry n) 144 4, n) acc.1 else acc.1, s)) p) := by
    induction l generalizing p with
    | nil => exact h
    | cons n l ih => exact ih _ (readLedger_keeps h)
  have k0 := k (s.cat.roster.filter fun n => !leave.contains n) ([], s) hk0
  revert k0
  clear k
  generalize List.foldl _ _ _ = y
  intro k0
  obtain ⟨l, z⟩ := y
  replace k0 : Keeps s0 z := k0
  apply Keeps2.mk
  split
  · exact incF_keeps (incF_keeps k0)
  · exact incF_keeps k0
theorem relayFlood_keeps {s0 s : State} {payload : List Byte} {cls : Nat} {leave : List Nat} (hk0 : Keeps s0 s) : Keeps s0 (relayFlood payload cls leave s) := by
  unfold relayFlood
  repeat' (first | with_reducible assumption | with_reducible apply chooseRelays_keeps | (with_reducible refine Keeps2.snd (chooseRelays_keeps ?_) (by assumption)) | (with_reducible refine Keeps.of2 (chooseRelays_keeps ?_)) | with_reducible apply sendNode_keeps | with_reducible apply Keeps.foldl | (extract_lets +onlyGivenNames s1; clear_value (hs : s1 = _); refine Keeps.cut (s0 := s0) (x := s1) ?_ (fun k1 => ?_); (on_goal 1 => subst hs); (on_goal 2 => clear hs)) | (extract_lets +onlyGivenNames v1; first | (have _ : Clocks := v1; subst v1) | (have _ : Fuses := v1; subst v1) | clear_value v1 | subst v1) | intro _ _ _ | intro _ _ | split | (with_reducible refine Keeps2.snd ?_ (by assumption)) | with_reducible apply Keeps2.mk)

theorem noteParent_keeps {s0 s : State} {f : Flood} (hk0 : Keeps s0 s) : Keeps s0 (noteParent f s) := by
  unfold noteParent
  repeat' (first | with_reducible assumption | with_reducible apply setEntry_keeps | (extract_lets +onlyGivenNames s1; clear_value (hs : s1 = _); refine Keeps.cut (s0 := s0) (x := s1) ?_ (fun k1 => ?_); (on_goal 1 => subst hs); (on_goal 2 => clear hs)) | (extract_lets +onlyGivenNames v1; first | (have _ : Clocks := v1; subst v1) | (have _ : Fuses := v1; subst v1) | clear_value v1 | subst v1) | split | (unfold Keeps; dsimp only; with_reducible refine Keeps.of ?_))

theorem spreadFlood_keeps {s0 s : State} {f : Flood} (hk0 : Keeps s0 s) : Keeps s0 (spreadFlood f s) := by
  unfold spreadFlood
  repeat' (first | with_reducible assumption | with_reducible apply incF_keeps | with_reducible apply relayFlood_keeps | (extract_lets +onlyGivenNames s1; clear_value (hs : s1 = _); refine Keeps.cut (s0 := s0) (x := s1) ?_ (fun k1 => ?_); (on_goal 1 => subst hs); (on_goal 2 => clear hs)) | (extract_lets +onlyGivenNames v1; first | (have _ : Clocks := v1; subst v1) | (have _ : Fuses := v1; subst v1) | clear_value v1 | subst v1) | split | (unfold Keeps; dsimp only; with_reducible refine Keeps.of ?_))

theorem floodLookup_keeps {s0 s : State} {f : Flood} (hk0 : Keeps s0 s) : Keeps s0 (floodLookup f s) := by
  unfold floodLookup
  repeat' (first | with_reducible assumption | with_reducible apply incF_keeps | with_reducible apply noteParent_keeps | with_reducible apply insertAccession_keeps | with_reducible apply queueRecFor_keeps | with_reducible apply spreadFlood_keeps | (extract_lets +onlyGivenNames s1; clear_value (hs : s1 = _); refine Keeps.cut (s0 := s0) (x := s1) ?_ (fun k1 => ?_); (on_goal 1 => subst hs); (on_goal 2 => clear hs)) | (extract_lets +onlyGivenNames v1; first | (have _ : Clocks := v1; subst v1) | (have _ : Fuses := v1; subst v1) | clear_value v1 | subst v1) | split | (unfold Keeps; dsimp only; with_reducible refine Keeps.of ?_))

theorem confirmReceipt_keeps {s0 s : State} {nix fc : Nat} (hk0 : Keeps s0 s) : Keeps2 s0 (confirmReceipt nix fc s) := by
  unfold confirmReceipt
  repeat' (first | with_reducible assumption | with_reducible apply incF_keeps | with_reducible apply setReceipt_keeps | with_reducible apply sendNode_keeps | (extract_lets +onlyGivenNames s1; clear_value (hs : s1 = _); refine Keeps.cut (s0 := s0) (x := s1) ?_ (fun k1 => ?_); (on_goal 1 => subst hs); (on_goal 2 => clear hs)) | (extract_lets +onlyGivenNames v1; first | (have _ : Clocks := v1; subst v1) | (have _ : Fuses := v1; subst v1) | clear_value v1 | subst v1) | split | with_reducible apply Keeps2.mk | (unfold Keeps; dsimp only; with_reducible refine Keeps.of ?_))

theorem dispatchUplink_keeps {s0 s : State} {a : Accept} {ut cls : Nat} {p : List Byte} {flags : Nat} {wait : Option Nat} (hk0 : Keeps s0 s) : Keeps2 s0 (dispatchUplink a ut cls p flags wait s) := by
  unfold dispatchUplink
  repeat' (first | with_reducible assumption | with_reducible apply assocRequest_keeps | with_reducible apply nodeAck_keeps | with_reducible apply assocUplink_keeps | (with_reducible refine Keeps2.snd (assocUplink_keeps ?_) (by assumption)) | (with_reducible refine Keeps.of2 (assocUplink_keeps ?_)) | with_reducible apply nodeLeaves_keeps | with_reducible apply updXch_keeps | with_reducible apply incF_keeps | with_reducible apply queueRec_keeps | (extract_lets +onlyGivenNames s1; clear_value (hs : s1 = _); refine Keeps.cut (s0 := s0) (x := s1) ?_ (fun k1 => ?_); (on_goal 1 => subst hs); (on_goal 2 => clear hs)) | (extract_lets +onlyGivenNames v1; first | (have _ : Clocks := v1; subst v1) | (have _ : Fuses := v1; subst v1) | clear_value v1 | subst v1) | split | (with_reducible refine Keeps2.snd ?_ (by assumption)) | with_reducible apply Keeps2.mk | (unfold Keeps; dsimp only; with_reducible refine Keeps.of ?_))

theorem releaseAck_keeps {s0 s : State} {i : Nat} {a : Accept} {dup : Bool} (hk0 : Keeps s0 s) : Keeps s0 (releaseAck i a dup s) := by
  unfold releaseAck
  repeat' (first | with_reducible assumption | with_reducible apply incF_keeps | with_reducible apply chargeGuard_keeps | with_reducible apply setAcc_keeps | with_reducible apply createJob_keeps | (extract_lets +onlyGivenNames s1; clear_value (hs : s1 = _); refine Keeps.cut (s0 := s0) (x := s1) ?_ (fun k1 => ?_); (on_goal 1 => subst hs); (on_goal 2 => clear hs)) | (extract_lets +onlyGivenNames v1; first | (have _ : Clocks := v1; subst v1) | (have _ : Fuses := v1; subst v1) | clear_value v1 | subst v1) | split | (unfold Keeps; dsimp only; with_reducible refine Keeps.of ?_))

theorem acceptOk_keeps {s0 s : State} {i : Nat} {a : Accept} {ut cls : Nat} {p : List Byte} {receipt : Option Nat} (hk0 : Keeps s0 s) :
    Keeps s0 (acceptOk i a ut cls p receipt s) := by
  unfold acceptOk
  extract_lets e resync s1 s2 wait s3 s4 pr s5 s6 s7 flags s8
  have k1 : Keeps s0 s1 := journalCtr_keeps (setEntry_keeps hk0)
  have k2 : Keeps s0 s2 := by unfold s2; split; exacts [noteCounter_keeps k1, k1]
  have k3 : Keeps s0 s3 := by unfold s3; split; exacts [takeReceipt_keeps k2, k2]
  have k4 : Keeps s0 s4 := by unfold s4; split; exacts [incF_keeps k3, k3]
  have k5 : Keeps s0 s5 := by unfold s5; split; exacts [charge_keeps k4, k4]
  have k6 : Keeps s0 s6 := releaseAck_keeps (incF_keeps k5)
  have k7 : Keeps s0 s7 := by unfold s7; split; exacts [setAcc_keeps k6, k6]
  have k8 : Keeps s0 s8 := by unfold s8; split; exacts [incF_keeps k7, k7]
  have k9 : Keeps2 s0 (dispatchUplink a ut cls p flags wait s8) := dispatchUplink_keeps k8
  revert k9
  generalize dispatchUplink a ut cls p flags wait s8 = y
  intro k9
  obtain ⟨b, z⟩ := y
  replace k9 : Keeps s0 z := k9
  dsimp only
  apply closeAcc_keeps
  split
  · exact k9
  · exact poolFree_keeps k9
theorem acceptDup_keeps {s0 s : State} {i : Nat} {a : Accept} (hk0 : Keeps s0 s) : Keeps s0 (acceptDup i a s) := by
  unfold acceptDup
  repeat' (first | with_reducible assumption | with_reducible apply assocRepeat_keeps | with_reducible apply releaseAck_keeps | with_reducible apply incF_keeps | with_reducible apply setAcc_keeps | with_reducible apply closeAcc_keeps | with_reducible apply poolFree_keeps | (extract_lets +onlyGivenNames s1; clear_value (hs : s1 = _); refine Keeps.cut (s0 := s0) (x := s1) ?_ (fun k1 => ?_); (on_goal 1 => subst hs); (on_goal 2 => clear hs)) | (extract_lets +onlyGivenNames v1; first | (have _ : Clocks := v1; subst v1) | (have _ : Fuses := v1; subst v1) | clear_value v1 | subst v1) | split | (unfold Keeps; dsimp only; with_reducible refine Keeps.of ?_))

theorem acceptVerified_keeps {s0 s : State} {i : Nat} {a : Accept} (hk0 : Keeps s0 s) : Keeps s0 (acceptVerified i a s) := by
  unfold acceptVerified
  repeat' (first | with_reducible assumption | with_reducible apply accFail_keeps | with_reducible apply incF_keeps | with_reducible apply acceptDup_keeps | with_reducible apply acceptOk_keeps | with_reducible apply noteRcptFull_keeps | (extract_lets +onlyGivenNames s1; clear_value (hs : s1 = _); refine Keeps.cut (s0 := s0) (x := s1) ?_ (fun k1 => ?_); (on_goal 1 => subst hs); (on_goal 2 => clear hs)) | (extract_lets +onlyGivenNames v1; first | (have _ : Clocks := v1; subst v1) | (have _ : Fuses := v1; subst v1) | clear_value v1 | subst v1) | split | (unfold Keeps; dsimp only; with_reducible refine Keeps.of ?_))


end Sys2Proof.Machine
end

