-- ==== Sys2Proof/Laws/KeepsPowerOps.lean ====
section
/-! SUPPORT. What the operations of Machine/PowerOps.lean keep. -/

set_option linter.unusedTactic false
set_option linter.unreachableTactic false
set_option linter.unusedVariables false

namespace Sys2Proof.Machine

theorem syncMode_keeps {s0 s : State} (hk0 : Keeps s0 s) : Keeps s0 (syncMode s) := by
  unfold syncMode
  repeat' (first | with_reducible assumption | with_reducible apply setF_keeps | (extract_lets +onlyGivenNames s1; clear_value (hs : s1 = _); refine Keeps.cut (s0 := s0) (x := s1) ?_ (fun k1 => ?_); (on_goal 1 => subst hs); (on_goal 2 => clear hs)) | (extract_lets +onlyGivenNames v1; first | (have _ : Clocks := v1; subst v1) | (have _ : Fuses := v1; subst v1) | clear_value v1 | subst v1) | split | (unfold Keeps; dsimp only; with_reducible refine Keeps.of ?_))

theorem resetDevice_keeps {s0 s : State} (hk0 : Keeps s0 s) : Keeps s0 (resetDevice s) := by
  unfold resetDevice
  exact ⟨hk0.queue, fun m => ⟨Sparse.wf_filter _ (hk0.maps m).1, rfl, rfl⟩, hk0.time, hk0.added, hk0.serial, hk0.part, hk0.root, hk0.arb, hk0.draws⟩
theorem restart_keeps {s0 s : State} (hk0 : Keeps s0 s) : Keeps s0 (restart s) := by
  unfold restart
  repeat' (first | with_reducible assumption | with_reducible apply resetDevice_keeps | with_reducible apply setF_keeps)

theorem coreOff_keeps {s0 s : State} (hk0 : Keeps s0 s) : Keeps s0 (coreOff s) := by
  unfold coreOff
  exact ⟨hk0.queue, fun m => ⟨Sparse.wf_filter _ (hk0.maps m).1, rfl, rfl⟩, hk0.time, hk0.added, hk0.serial, hk0.part, hk0.root, hk0.arb, hk0.draws⟩

end Sys2Proof.Machine
end

