-- ==== Sys2Proof/Laws/KeepsValues.lean ====
section
/-! SUPPORT. What the operations of Machine/Values.lean keep. -/

set_option linter.unusedTactic false
set_option linter.unreachableTactic false
set_option linter.unusedVariables false

namespace Sys2Proof.Machine



end Sys2Proof.Machine
end

