-- ==== Sys2Proof/Laws/KeepsSlotOps.lean ====
section
/-! SUPPORT. What the operations of Machine/SlotOps.lean keep. -/

set_option linter.unusedTactic false
set_option linter.unreachableTactic false
set_option linter.unusedVariables false

namespace Sys2Proof.Machine

theorem placeNext_keeps {s0 s : State} {at_ sen : Nat} (hk0 : Keeps s0 s) : Keeps s0 (placeNext at_ sen s) := by
  unfold placeNext
  repeat' (first | with_reducible assumption | with_reducible apply updSlt_keeps | (extract_lets +onlyGivenNames s1; clear_value (hs : s1 = _); refine Keeps.cut (s0 := s0) (x := s1) ?_ (fun k1 => ?_); (on_goal 1 => subst hs); (on_goal 2 => clear hs)) | (extract_lets +onlyGivenNames v1; first | (have _ : Clocks := v1; subst v1) | (have _ : Fuses := v1; subst v1) | clear_value v1 | subst v1) | (unfold Keeps; dsimp only; with_reducible refine Keeps.of ?_))

theorem firstBoundary_keeps {s0 s : State} (hk0 : Keeps s0 s) : Keeps s0 (firstBoundary s) := by
  unfold firstBoundary
  repeat' (first | with_reducible assumption | with_reducible apply updSlt_keeps | with_reducible apply placeNext_keeps | (extract_lets +onlyGivenNames s1; clear_value (hs : s1 = _); refine Keeps.cut (s0 := s0) (x := s1) ?_ (fun k1 => ?_); (on_goal 1 => subst hs); (on_goal 2 => clear hs)) | (extract_lets +onlyGivenNames v1; first | (have _ : Clocks := v1; subst v1) | (have _ : Fuses := v1; subst v1) | clear_value v1 | subst v1) | split | (with_reducible refine Keeps2.snd ?_ (by assumption)) | with_reducible apply Keeps2.mk | (unfold Keeps; dsimp only; with_reducible refine Keeps.of ?_))

theorem noteAlign_keeps {s0 s : State} {err : Int} (hk0 : Keeps s0 s) : Keeps s0 (noteAlign err s) := by
  unfold noteAlign
  repeat' (first | with_reducible assumption | with_reducible apply notify_keeps | with_reducible apply updSlt_keeps | (extract_lets +onlyGivenNames s1; clear_value (hs : s1 = _); refine Keeps.cut (s0 := s0) (x := s1) ?_ (fun k1 => ?_); (on_goal 1 => subst hs); (on_goal 2 => clear hs)) | (extract_lets +onlyGivenNames v1; first | (have _ : Clocks := v1; subst v1) | (have _ : Fuses := v1; subst v1) | clear_value v1 | subst v1) | split | (unfold Keeps; dsimp only; with_reducible refine Keeps.of ?_))

theorem alignNext_keeps {s0 s : State} (hk0 : Keeps s0 s) : Keeps s0 (alignNext s) := by
  unfold alignNext
  repeat' (first | with_reducible assumption | with_reducible apply setF_keeps | with_reducible apply placeNext_keeps | with_reducible apply noteAlign_keeps | (extract_lets +onlyGivenNames s1; clear_value (hs : s1 = _); refine Keeps.cut (s0 := s0) (x := s1) ?_ (fun k1 => ?_); (on_goal 1 => subst hs); (on_goal 2 => clear hs)) | (extract_lets +onlyGivenNames v1; first | (have _ : Clocks := v1; subst v1) | (have _ : Fuses := v1; subst v1) | clear_value v1 | subst v1) | split | (with_reducible refine Keeps2.snd ?_ (by assumption)) | with_reducible apply Keeps2.mk)

theorem putOcc_keeps {s0 s : State} {o : Nat} (hk0 : Keeps s0 s) : Keeps s0 (putOcc o s) := by
  unfold putOcc
  repeat' (first | with_reducible assumption | with_reducible apply setF_keeps | (extract_lets +onlyGivenNames s1; clear_value (hs : s1 = _); refine Keeps.cut (s0 := s0) (x := s1) ?_ (fun k1 => ?_); (on_goal 1 => subst hs); (on_goal 2 => clear hs)) | (extract_lets +onlyGivenNames v1; first | (have _ : Clocks := v1; subst v1) | (have _ : Fuses := v1; subst v1) | clear_value v1 | subst v1) | split)

theorem gateBanks_keeps {s0 s : State} {entered : Bool} (hk0 : Keeps s0 s) : Keeps s0 (gateBanks entered s) := by
  unfold gateBanks
  repeat' (first | with_reducible assumption | with_reducible apply setF_keeps | with_reducible apply Keeps.foldl | (extract_lets +onlyGivenNames s1; clear_value (hs : s1 = _); refine Keeps.cut (s0 := s0) (x := s1) ?_ (fun k1 => ?_); (on_goal 1 => subst hs); (on_goal 2 => clear hs)) | (extract_lets +onlyGivenNames v1; first | (have _ : Clocks := v1; subst v1) | (have _ : Fuses := v1; subst v1) | clear_value v1 | subst v1) | intro _ _ _ | intro _ _ | split | (unfold Keeps; dsimp only; with_reducible refine Keeps.of ?_))

theorem powerAtBoundary_keeps {s0 s : State} {b : Nat} (hk0 : Keeps s0 s) : Keeps s0 (powerAtBoundary b s) := by
  unfold powerAtBoundary
  repeat' (first | with_reducible assumption | with_reducible apply putOcc_keeps | with_reducible apply syncMode_keeps | with_reducible apply gateBanks_keeps | with_reducible apply notify_keeps | (extract_lets +onlyGivenNames s1; clear_value (hs : s1 = _); refine Keeps.cut (s0 := s0) (x := s1) ?_ (fun k1 => ?_); (on_goal 1 => subst hs); (on_goal 2 => clear hs)) | (extract_lets +onlyGivenNames v1; first | (have _ : Clocks := v1; subst v1) | (have _ : Fuses := v1; subst v1) | clear_value v1 | subst v1) | split | (unfold Keeps; dsimp only; with_reducible refine Keeps.of ?_))

theorem settleCell_keeps {s0 s : State} {i : Nat} (hk0 : Keeps s0 s) : Keeps s0 (settleCell i s) := by
  unfold settleCell
  repeat' (first | with_reducible assumption | with_reducible apply notify_keeps | with_reducible apply setF_keeps | (extract_lets +onlyGivenNames s1; clear_value (hs : s1 = _); refine Keeps.cut (s0 := s0) (x := s1) ?_ (fun k1 => ?_); (on_goal 1 => subst hs); (on_goal 2 => clear hs)) | (extract_lets +onlyGivenNames v1; first | (have _ : Clocks := v1; subst v1) | (have _ : Fuses := v1; subst v1) | clear_value v1 | subst v1) | split | (unfold Keeps; dsimp only; with_reducible refine Keeps.of ?_))

theorem settleCells_keeps {s0 s : State} (hk0 : Keeps s0 s) : Keeps s0 (settleCells s) := by
  unfold settleCells
  repeat' (first | with_reducible assumption | with_reducible apply settleCell_keeps | with_reducible apply Keeps.foldl | intro _ _ _ | intro _ _)

theorem buildBeacon_keeps {s0 s : State} {n : Nat} (hk0 : Keeps s0 s) : Keeps s0 (buildBeacon n s) := by
  unfold buildBeacon
  repeat' (first | with_reducible assumption | with_reducible apply updSlt_keeps | with_reducible apply bcnSkipped_keeps | with_reducible apply takeCounter_keeps | (with_reducible refine Keeps2.snd (takeCounter_keeps ?_) (by assumption)) | (with_reducible refine Keeps.of2 (takeCounter_keeps ?_)) | with_reducible apply sendBeacon_keeps | with_reducible apply createJob_keeps | (extract_lets +onlyGivenNames s1; clear_value (hs : s1 = _); refine Keeps.cut (s0 := s0) (x := s1) ?_ (fun k1 => ?_); (on_goal 1 => subst hs); (on_goal 2 => clear hs)) | (extract_lets +onlyGivenNames v1; first | (have _ : Clocks := v1; subst v1) | (have _ : Fuses := v1; subst v1) | clear_value v1 | subst v1) | split | (with_reducible refine Keeps2.snd ?_ (by assumption)) | with_reducible apply Keeps2.mk | (unfold Keeps; dsimp only; with_reducible refine Keeps.of ?_))

theorem passRetries_keeps {s0 s : State} {n : Nat} {first : Bool} (hk0 : Keeps s0 s) : Keeps s0 (passRetries n first s) := by
  unfold passRetries
  repeat' (first | with_reducible assumption | with_reducible apply updDl_keeps | with_reducible apply Keeps.foldl | (extract_lets +onlyGivenNames s1; clear_value (hs : s1 = _); refine Keeps.cut (s0 := s0) (x := s1) ?_ (fun k1 => ?_); (on_goal 1 => subst hs); (on_goal 2 => clear hs)) | (extract_lets +onlyGivenNames v1; first | (have _ : Clocks := v1; subst v1) | (have _ : Fuses := v1; subst v1) | clear_value v1 | subst v1) | intro _ _ _ | intro _ _ | split | (with_reducible refine Keeps2.snd ?_ (by assumption)) | with_reducible apply Keeps2.mk | (unfold Keeps; dsimp only; with_reducible refine Keeps.of ?_))

theorem scoreOf_keeps {s0 s : State} {n : Nat} {d : Dl} {w : Nat} (hk0 : Keeps s0 s) : Keeps3 s0 (scoreOf n d w s) := readLedger_keeps hk0
theorem placed_keeps {s0 s : State} {n : Nat} {cs : List (SFrame × Nat × Dl × Nat × Nat)} (hk0 : Keeps s0 s) : Keeps2 s0 (placed n cs s) := by
  unfold placed
  have k (p : Option (Nat × Bool × SFrame × Nat × Dl × Nat) × State) (h : Keeps2 s0 p) : Keeps2 s0 (cs.foldl (fun (acc : Option (Nat × Bool × SFrame × Nat × Dl × Nat) × State) x =>
      let (f, i, d, w, ch) := x
      let (sc, l, s) := scoreOf n d w acc.2
      match acc.1 with
      | none => (some (sc, l, f, i, d, ch), s)
      | some b => if b.1 < sc ∨ (b.1 = sc ∧ d.nix < b.2.2.2.2.1.nix) then (some (sc, l, f, i, d, ch), s) else (some b, s)) p) := by
    induction cs generalizing p with
    | nil => exact h
    | cons x cs ih =>
      apply ih
      obtain ⟨f, i, d, w, ch⟩ := x
      have k3 : Keeps3 s0 (scoreOf n d w p.2) := scoreOf_keeps h
      revert k3
      dsimp only
      generalize scoreOf n d w p.2 = y
      intro k3
      split
      · exact k3
      · split <;> exact k3
  exact k (none, s) hk0
theorem startAttempt_keeps {s0 s : State} {i : Nat} {d : Dl} {ch : Nat} (hk0 : Keeps s0 s) : Keeps s0 (startAttempt i d ch s) := by
  unfold startAttempt
  repeat' (first | with_reducible assumption | with_reducible apply dlCommand_keeps | with_reducible apply setDl_keeps | with_reducible apply createJob_keeps | (extract_lets +onlyGivenNames s1; clear_value (hs : s1 = _); refine Keeps.cut (s0 := s0) (x := s1) ?_ (fun k1 => ?_); (on_goal 1 => subst hs); (on_goal 2 => clear hs)) | (extract_lets +onlyGivenNames v1; first | (have _ : Clocks := v1; subst v1) | (have _ : Fuses := v1; subst v1) | clear_value v1 | subst v1) | split | (unfold Keeps; dsimp only; with_reducible refine Keeps.of ?_))

theorem markEligible_keeps {s0 s : State} {cs : List (SFrame × Nat × Dl × Nat × Nat)} (hk0 : Keeps s0 s) : Keeps s0 (markEligible cs s) := by
  unfold markEligible
  repeat' (first | with_reducible assumption | with_reducible apply updDl_keeps | with_reducible apply Keeps.foldl | (extract_lets +onlyGivenNames s1; clear_value (hs : s1 = _); refine Keeps.cut (s0 := s0) (x := s1) ?_ (fun k1 => ?_); (on_goal 1 => subst hs); (on_goal 2 => clear hs)) | (extract_lets +onlyGivenNames v1; first | (have _ : Clocks := v1; subst v1) | (have _ : Fuses := v1; subst v1) | clear_value v1 | subst v1) | intro _ _ _ | intro _ _ | (unfold Keeps; dsimp only; with_reducible refine Keeps.of ?_))

theorem radioDecision_keeps {s0 s : State} {n : Nat} {first : Bool} (hk0 : Keeps s0 s) : Keeps s0 (radioDecision n first s) := by
  unfold radioDecision
  repeat' (first | with_reducible assumption | with_reducible apply passRetries_keeps | with_reducible apply markEligible_keeps | with_reducible apply incF_keeps | with_reducible apply placed_keeps | (with_reducible refine Keeps2.snd (placed_keeps ?_) (by assumption)) | (with_reducible refine Keeps.of2 (placed_keeps ?_)) | with_reducible apply payClass_keeps | with_reducible apply noteServed_keeps | with_reducible apply startAttempt_keeps | with_reducible apply Keeps.foldl | (extract_lets +onlyGivenNames s1; clear_value (hs : s1 = _); refine Keeps.cut (s0 := s0) (x := s1) ?_ (fun k1 => ?_); (on_goal 1 => subst hs); (on_goal 2 => clear hs)) | (extract_lets +onlyGivenNames v1; first | (have _ : Clocks := v1; subst v1) | (have _ : Fuses := v1; subst v1) | clear_value v1 | subst v1) | intro _ _ _ | intro _ _ | split | (unfold Keeps; dsimp only; with_reducible refine Keeps.of ?_))

theorem boundary_keeps {s0 s : State} {b : Nat} (hk0 : Keeps s0 s) : Keeps s0 (boundary b s) := by
  unfold boundary
  repeat' (first | with_reducible assumption | with_reducible apply powerAtBoundary_keeps | with_reducible apply set64_keeps | with_reducible apply updSlt_keeps | with_reducible apply alignNext_keeps | with_reducible apply settleCells_keeps | with_reducible apply updXch_keeps | with_reducible apply buildBeacon_keeps | with_reducible apply radioDecision_keeps | with_reducible apply Keeps.foldl | (extract_lets +onlyGivenNames s1; clear_value (hs : s1 = _); refine Keeps.cut (s0 := s0) (x := s1) ?_ (fun k1 => ?_); (on_goal 1 => subst hs); (on_goal 2 => clear hs)) | (extract_lets +onlyGivenNames v1; first | (have _ : Clocks := v1; subst v1) | (have _ : Fuses := v1; subst v1) | clear_value v1 | subst v1) | intro _ _ _ | intro _ _ | split | (unfold Keeps; dsimp only; with_reducible refine Keeps.of ?_))


end Sys2Proof.Machine
end

