-- ==== Sys2Proof/Laws/KeepsAssoc.lean ====
section
/-! SUPPORT. What the operations of Machine/Assoc.lean keep. -/

set_option linter.unusedTactic false
set_option linter.unreachableTactic false
set_option linter.unusedVariables false

namespace Sys2Proof.Machine

theorem responseAttempt_keeps {s0 s : State} {r : Response} {k : Nat} (hk0 : Keeps s0 s) : Keeps s0 (responseAttempt r k s) := by
  unfold responseAttempt
  repeat' (first | with_reducible assumption | with_reducible apply updSlt_keeps | with_reducible apply dlCommand_keeps | with_reducible apply setDl_keeps | with_reducible apply createJob_keeps | (extract_lets +onlyGivenNames s1; clear_value (hs : s1 = _); refine Keeps.cut (s0 := s0) (x := s1) ?_ (fun k1 => ?_); (on_goal 1 => subst hs); (on_goal 2 => clear hs)) | (extract_lets +onlyGivenNames v1; first | (have _ : Clocks := v1; subst v1) | (have _ : Fuses := v1; subst v1) | clear_value v1 | subst v1) | split | (unfold Keeps; dsimp only; with_reducible refine Keeps.of ?_))

theorem execAssocResponseAttempt_keeps {s0 s : State} {dt : Nat} {nix : BitVec 17} (hk0 : Keeps s0 s) : KeepsNext s0 (execAssocResponseAttempt dt nix s) := by
  unfold execAssocResponseAttempt
  repeat' (first | with_reducible assumption | with_reducible apply elapse_keeps | with_reducible apply responseAttempt_keeps | with_reducible apply KeepsNext.next | (extract_lets +onlyGivenNames s1; clear_value (hs : s1 = _); refine Keeps.cut (s0 := s0) (x := s1) ?_ (fun k1 => ?_); (on_goal 1 => subst hs); (on_goal 2 => clear hs)) | (extract_lets +onlyGivenNames v1; first | (have _ : Clocks := v1; subst v1) | (have _ : Fuses := v1; subst v1) | clear_value v1 | subst v1) | split | (unfold Keeps; dsimp only; with_reducible refine Keeps.of ?_))

theorem execAssocFail_keeps {s0 s : State} {dt : Nat} {nix : BitVec 17} (hk0 : Keeps s0 s) : KeepsNext s0 (execAssocFail dt nix s) := by
  unfold execAssocFail
  repeat' (first | with_reducible assumption | with_reducible apply elapse_keeps | with_reducible apply dropResponse_keeps | with_reducible apply notify_keeps | with_reducible apply assocNone_keeps | with_reducible apply incF_keeps | with_reducible apply KeepsNext.next | (extract_lets +onlyGivenNames s1; clear_value (hs : s1 = _); refine Keeps.cut (s0 := s0) (x := s1) ?_ (fun k1 => ?_); (on_goal 1 => subst hs); (on_goal 2 => clear hs)) | (extract_lets +onlyGivenNames v1; first | (have _ : Clocks := v1; subst v1) | (have _ : Fuses := v1; subst v1) | clear_value v1 | subst v1) | split | (unfold Keeps; dsimp only; with_reducible refine Keeps.of ?_))

theorem superviseNode_keeps {s0 s : State} {nix : Nat} (hk0 : Keeps s0 s) : Keeps s0 (superviseNode nix s) := by
  unfold superviseNode
  repeat' (first | with_reducible assumption | with_reducible apply notify_keeps | with_reducible apply assocEnd_keeps | with_reducible apply incF_keeps | (extract_lets +onlyGivenNames s1; clear_value (hs : s1 = _); refine Keeps.cut (s0 := s0) (x := s1) ?_ (fun k1 => ?_); (on_goal 1 => subst hs); (on_goal 2 => clear hs)) | (extract_lets +onlyGivenNames v1; first | (have _ : Clocks := v1; subst v1) | (have _ : Fuses := v1; subst v1) | clear_value v1 | subst v1) | split)

theorem execSupervisionCheck_keeps {s0 s : State} {dt : Nat} (hk0 : Keeps s0 s) : KeepsNext s0 (execSupervisionCheck dt s) := by
  unfold execSupervisionCheck
  repeat' (first | with_reducible assumption | with_reducible apply elapse_keeps | with_reducible apply superviseNode_keeps | with_reducible apply KeepsNext.next | with_reducible apply Keeps.foldl | (extract_lets +onlyGivenNames s1; clear_value (hs : s1 = _); refine Keeps.cut (s0 := s0) (x := s1) ?_ (fun k1 => ?_); (on_goal 1 => subst hs); (on_goal 2 => clear hs)) | (extract_lets +onlyGivenNames v1; first | (have _ : Clocks := v1; subst v1) | (have _ : Fuses := v1; subst v1) | clear_value v1 | subst v1) | split | intro _ _ _ | intro _ _)

theorem syncUpd_keeps {s0 s : State} (hk0 : Keeps s0 s) : Keeps s0 (syncUpd s) := by
  unfold syncUpd
  repeat' (first | with_reducible assumption | with_reducible apply setF_keeps)

theorem writeUpdCtrl_keeps {s0 s : State} {m : Master} {w : Word} (hk0 : Keeps s0 s) : Keeps s0 (writeUpdCtrl m w s) := by
  unfold writeUpdCtrl
  repeat' (first | with_reducible assumption | with_reducible apply ignored_keeps | with_reducible apply syncUpd_keeps | with_reducible apply updSlt_keeps | (extract_lets +onlyGivenNames s1; clear_value (hs : s1 = _); refine Keeps.cut (s0 := s0) (x := s1) ?_ (fun k1 => ?_); (on_goal 1 => subst hs); (on_goal 2 => clear hs)) | (extract_lets +onlyGivenNames v1; first | (have _ : Clocks := v1; subst v1) | (have _ : Fuses := v1; subst v1) | clear_value v1 | subst v1) | split | (unfold Keeps; dsimp only; with_reducible refine Keeps.of ?_))

theorem execAscUpdGo_keeps {s0 s : State} {dt : Nat} {m : Master} {w : Word} (hk0 : Keeps s0 s) : KeepsNext s0 (execAscUpdGo dt m w s) := by
  unfold execAscUpdGo
  repeat' (first | with_reducible assumption | with_reducible apply gatedWrite_keeps | with_reducible apply writeUpdCtrl_keeps | with_reducible apply elapse_keeps | with_reducible apply KeepsNext.next | intro _ _ _ | intro _ _)

theorem updRefused_keeps {s0 s : State} {nix : Nat} (hk0 : Keeps s0 s) : Keeps s0 (updRefused nix s) := by
  unfold updRefused
  repeat' (first | with_reducible assumption | with_reducible apply notify_keeps | with_reducible apply incF_keeps)

theorem updContent_keeps {s0 s : State} {nix addr : Nat} (hk0 : Keeps s0 s) : Keeps2 s0 (updContent nix addr s) := by
  unfold updContent
  repeat' (first | with_reducible assumption | with_reducible apply withRead_keeps | (with_reducible apply withRead_keeps2) | (extract_lets +onlyGivenNames s1; clear_value (hs : s1 = _); refine Keeps.cut (s0 := s0) (x := s1) ?_ (fun k1 => ?_); (on_goal 1 => subst hs); (on_goal 2 => clear hs)) | (extract_lets +onlyGivenNames v1; first | (have _ : Clocks := v1; subst v1) | (have _ : Fuses := v1; subst v1) | clear_value v1 | subst v1) | intro _ _ _ | intro _ _ | split | with_reducible apply Keeps2.mk | (unfold Keeps; dsimp only; with_reducible refine Keeps.of ?_))

theorem startUpdate_keeps {s0 s : State} {nix addr : Nat} (hk0 : Keeps s0 s) : Keeps s0 (startUpdate nix addr s) := by
  unfold startUpdate
  repeat' (first | with_reducible assumption | with_reducible apply updRefused_keeps | with_reducible apply updContent_keeps | (with_reducible refine Keeps2.snd (updContent_keeps ?_) (by assumption)) | (with_reducible refine Keeps.of2 (updContent_keeps ?_)) | with_reducible apply updSlt_keeps | with_reducible apply sendNode_keeps | (extract_lets +onlyGivenNames s1; clear_value (hs : s1 = _); refine Keeps.cut (s0 := s0) (x := s1) ?_ (fun k1 => ?_); (on_goal 1 => subst hs); (on_goal 2 => clear hs)) | (extract_lets +onlyGivenNames v1; first | (have _ : Clocks := v1; subst v1) | (have _ : Fuses := v1; subst v1) | clear_value v1 | subst v1) | split | (unfold Keeps; dsimp only; with_reducible refine Keeps.of ?_))

theorem execSchedUpdStart_keeps {s0 s : State} {dt : Nat} (hk0 : Keeps s0 s) : KeepsNext s0 (execSchedUpdStart dt s) := by
  unfold execSchedUpdStart
  repeat' (first | with_reducible assumption | with_reducible apply elapse_keeps | with_reducible apply startUpdate_keeps | with_reducible apply syncUpd_keeps | with_reducible apply updSlt_keeps | with_reducible apply KeepsNext.next | (extract_lets +onlyGivenNames s1; clear_value (hs : s1 = _); refine Keeps.cut (s0 := s0) (x := s1) ?_ (fun k1 => ?_); (on_goal 1 => subst hs); (on_goal 2 => clear hs)) | (extract_lets +onlyGivenNames v1; first | (have _ : Clocks := v1; subst v1) | (have _ : Fuses := v1; subst v1) | clear_value v1 | subst v1) | split | (unfold Keeps; dsimp only; with_reducible refine Keeps.of ?_))

theorem execSchedUpdInstant_keeps {s0 s : State} {dt : Nat} {nix : BitVec 17} (hk0 : Keeps s0 s) : KeepsNext s0 (execSchedUpdInstant dt nix s) := by
  unfold execSchedUpdInstant
  repeat' (first | with_reducible assumption | with_reducible apply elapse_keeps | with_reducible apply adoptSched_keeps | with_reducible apply putEntry_keeps | with_reducible apply KeepsNext.next | (extract_lets +onlyGivenNames s1; clear_value (hs : s1 = _); refine Keeps.cut (s0 := s0) (x := s1) ?_ (fun k1 => ?_); (on_goal 1 => subst hs); (on_goal 2 => clear hs)) | (extract_lets +onlyGivenNames v1; first | (have _ : Clocks := v1; subst v1) | (have _ : Fuses := v1; subst v1) | clear_value v1 | subst v1) | split | (unfold Keeps; dsimp only; with_reducible refine Keeps.of ?_))

theorem writeLeave_keeps {s0 s : State} {m : Master} {w : Word} (hk0 : Keeps s0 s) : Keeps s0 (writeLeave m w s) := by
  unfold writeLeave
  repeat' (first | with_reducible assumption | with_reducible apply ignored_keeps | with_reducible apply sendNode_keeps | split)

theorem execAscLeave_keeps {s0 s : State} {dt : Nat} {m : Master} {w : Word} (hk0 : Keeps s0 s) : KeepsNext s0 (execAscLeave dt m w s) := by
  unfold execAscLeave
  repeat' (first | with_reducible assumption | with_reducible apply gatedWrite_keeps | with_reducible apply writeLeave_keeps | with_reducible apply elapse_keeps | with_reducible apply KeepsNext.next | intro _ _ _ | intro _ _)


end Sys2Proof.Machine
end

