-- ==== Sys2Proof/Laws/KeepsBackhaul.lean ====
section
/-! SUPPORT. What the operations of Machine/Backhaul.lean keep. -/

set_option linter.unusedTactic false
set_option linter.unreachableTactic false
set_option linter.unusedVariables false

namespace Sys2Proof.Machine

theorem execLink_keeps {s0 s : State} {dt : Nat} {port : Fin 2} {up : Bool} (hk0 : Keeps s0 s) : KeepsNext s0 (execLink dt port up s) := by
  unfold execLink
  repeat' (first | with_reducible assumption | with_reducible apply elapse_keeps | with_reducible apply setLink_keeps | with_reducible apply KeepsNext.next | (extract_lets +onlyGivenNames s1; clear_value (hs : s1 = _); refine Keeps.cut (s0 := s0) (x := s1) ?_ (fun k1 => ?_); (on_goal 1 => subst hs); (on_goal 2 => clear hs)) | (extract_lets +onlyGivenNames v1; first | (have _ : Clocks := v1; subst v1) | (have _ : Fuses := v1; subst v1) | clear_value v1 | subst v1) | split)

theorem takePause_keeps {s0 s : State} {b q : Nat} (hk0 : Keeps s0 s) : Keeps s0 (takePause b q s) := by
  unfold takePause
  repeat' (first | with_reducible assumption | with_reducible apply clearPause_keeps | with_reducible apply updBhl_keeps | with_reducible apply setF_keeps | (extract_lets +onlyGivenNames s1; clear_value (hs : s1 = _); refine Keeps.cut (s0 := s0) (x := s1) ?_ (fun k1 => ?_); (on_goal 1 => subst hs); (on_goal 2 => clear hs)) | (extract_lets +onlyGivenNames v1; first | (have _ : Clocks := v1; subst v1) | (have _ : Fuses := v1; subst v1) | clear_value v1 | subst v1) | split | (unfold Keeps; dsimp only; with_reducible refine Keeps.of ?_))

theorem otherFrame_keeps {s0 s : State} {b : Nat} {f : List Byte} {o : Nat} (hk0 : Keeps s0 s) : Keeps s0 (otherFrame b f o s) := by
  unfold otherFrame
  repeat' (first | with_reducible assumption | with_reducible apply queueRec_keeps | with_reducible apply incF_keeps | with_reducible apply drawn_keeps | (extract_lets +onlyGivenNames s1; clear_value (hs : s1 = _); refine Keeps.cut (s0 := s0) (x := s1) ?_ (fun k1 => ?_); (on_goal 1 => subst hs); (on_goal 2 => clear hs)) | (extract_lets +onlyGivenNames v1; first | (have _ : Clocks := v1; subst v1) | (have _ : Fuses := v1; subst v1) | clear_value v1 | subst v1) | split | (unfold Keeps; dsimp only; with_reducible refine Keeps.of ?_))

theorem execBhFrameRx_keeps {s0 s : State} {dt : Nat} {port : Fin 2} {frame : List Byte} (hk0 : Keeps s0 s) : KeepsNext s0 (execBhFrameRx dt port frame s) := by
  unfold execBhFrameRx
  repeat' (first | with_reducible assumption | with_reducible apply elapse_keeps | with_reducible apply incF_keeps | with_reducible apply takePause_keeps | with_reducible apply inboundRecord_keeps | with_reducible apply otherFrame_keeps | with_reducible apply KeepsNext.next | (extract_lets +onlyGivenNames s1; clear_value (hs : s1 = _); refine Keeps.cut (s0 := s0) (x := s1) ?_ (fun k1 => ?_); (on_goal 1 => subst hs); (on_goal 2 => clear hs)) | (extract_lets +onlyGivenNames v1; first | (have _ : Clocks := v1; subst v1) | (have _ : Fuses := v1; subst v1) | clear_value v1 | subst v1) | split | (unfold Keeps; dsimp only; with_reducible refine Keeps.of ?_))

theorem execPauseEnd_keeps {s0 s : State} {dt : Nat} {port : Fin 2} (hk0 : Keeps s0 s) : KeepsNext s0 (execPauseEnd dt port s) := by
  unfold execPauseEnd
  repeat' (first | with_reducible assumption | with_reducible apply elapse_keeps | with_reducible apply clearPause_keeps | with_reducible apply KeepsNext.next | (extract_lets +onlyGivenNames s1; clear_value (hs : s1 = _); refine Keeps.cut (s0 := s0) (x := s1) ?_ (fun k1 => ?_); (on_goal 1 => subst hs); (on_goal 2 => clear hs)) | (extract_lets +onlyGivenNames v1; first | (have _ : Clocks := v1; subst v1) | (have _ : Fuses := v1; subst v1) | clear_value v1 | subst v1) | split | (unfold Keeps; dsimp only; with_reducible refine Keeps.of ?_))

theorem refuseDownlink_keeps {s0 s : State} {src : Nat} {d : Dl} (hk0 : Keeps s0 s) : Keeps s0 (refuseDownlink src d s) := by
  unfold refuseDownlink
  repeat' (first | with_reducible assumption | with_reducible apply dlStatus_keeps | with_reducible apply rxDrop_keeps | with_reducible apply incF_keeps)

theorem downlinkRecord_keeps {s0 s : State} {src : Nat} {r : Rec} (hk0 : Keeps s0 s) : Keeps s0 (downlinkRecord src r s) := by
  unfold downlinkRecord
  repeat' (first | with_reducible assumption | with_reducible apply fetchEntry_keeps | with_reducible apply refuseDownlink_keeps | with_reducible apply addDl_keeps | with_reducible apply incF_keeps | (extract_lets +onlyGivenNames s1; clear_value (hs : s1 = _); refine Keeps.cut (s0 := s0) (x := s1) ?_ (fun k1 => ?_); (on_goal 1 => subst hs); (on_goal 2 => clear hs)) | (extract_lets +onlyGivenNames v1; first | (have _ : Clocks := v1; subst v1) | (have _ : Fuses := v1; subst v1) | clear_value v1 | subst v1) | split)

theorem execDownlink_keeps {s0 s : State} {dt : Nat} (hk0 : Keeps s0 s) : KeepsNext s0 (execDownlink dt s) := by
  unfold execDownlink
  repeat' (first | with_reducible assumption | with_reducible apply elapse_keeps | with_reducible apply takeInbound_keeps | (with_reducible refine Keeps2.snd (takeInbound_keeps ?_) (by assumption)) | (with_reducible refine Keeps.of2 (takeInbound_keeps ?_)) | with_reducible apply downlinkRecord_keeps | with_reducible apply KeepsNext.next | (extract_lets +onlyGivenNames s1; clear_value (hs : s1 = _); refine Keeps.cut (s0 := s0) (x := s1) ?_ (fun k1 => ?_); (on_goal 1 => subst hs); (on_goal 2 => clear hs)) | (extract_lets +onlyGivenNames v1; first | (have _ : Clocks := v1; subst v1) | (have _ : Fuses := v1; subst v1) | clear_value v1 | subst v1) | split | (unfold Keeps; dsimp only; with_reducible refine Keeps.of ?_))

theorem floodRecord_keeps {s0 s : State} {src : Nat} {r : Rec} (hk0 : Keeps s0 s) : Keeps s0 (floodRecord src r s) := by
  unfold floodRecord
  repeat' (first | with_reducible assumption | with_reducible apply rxDrop_keeps | with_reducible apply insertAccession_keeps | with_reducible apply incF_keeps | with_reducible apply spreadFlood_keeps | (extract_lets +onlyGivenNames s1; clear_value (hs : s1 = _); refine Keeps.cut (s0 := s0) (x := s1) ?_ (fun k1 => ?_); (on_goal 1 => subst hs); (on_goal 2 => clear hs)) | (extract_lets +onlyGivenNames v1; first | (have _ : Clocks := v1; subst v1) | (have _ : Fuses := v1; subst v1) | clear_value v1 | subst v1) | split)

theorem execFlood_keeps {s0 s : State} {dt : Nat} (hk0 : Keeps s0 s) : KeepsNext s0 (execFlood dt s) := by
  unfold execFlood
  repeat' (first | with_reducible assumption | with_reducible apply elapse_keeps | with_reducible apply takeInbound_keeps | (with_reducible refine Keeps2.snd (takeInbound_keeps ?_) (by assumption)) | (with_reducible refine Keeps.of2 (takeInbound_keeps ?_)) | with_reducible apply floodRecord_keeps | with_reducible apply KeepsNext.next | (extract_lets +onlyGivenNames s1; clear_value (hs : s1 = _); refine Keeps.cut (s0 := s0) (x := s1) ?_ (fun k1 => ?_); (on_goal 1 => subst hs); (on_goal 2 => clear hs)) | (extract_lets +onlyGivenNames v1; first | (have _ : Clocks := v1; subst v1) | (have _ : Fuses := v1; subst v1) | clear_value v1 | subst v1) | split | (unfold Keeps; dsimp only; with_reducible refine Keeps.of ?_))

theorem confirmRecord_keeps {s0 s : State} {src : Nat} {r : Rec} (hk0 : Keeps s0 s) : Keeps s0 (confirmRecord src r s) := by
  unfold confirmRecord
  repeat' (first | with_reducible assumption | with_reducible apply rxDrop_keeps | with_reducible apply confirmReceipt_keeps | (with_reducible refine Keeps2.snd (confirmReceipt_keeps ?_) (by assumption)) | (with_reducible refine Keeps.of2 (confirmReceipt_keeps ?_)) | with_reducible apply incF_keeps | with_reducible apply Keeps.foldl | (extract_lets +onlyGivenNames s1; clear_value (hs : s1 = _); refine Keeps.cut (s0 := s0) (x := s1) ?_ (fun k1 => ?_); (on_goal 1 => subst hs); (on_goal 2 => clear hs)) | (extract_lets +onlyGivenNames v1; first | (have _ : Clocks := v1; subst v1) | (have _ : Fuses := v1; subst v1) | clear_value v1 | subst v1) | intro _ _ _ | intro _ _ | split | (unfold Keeps; dsimp only; with_reducible refine Keeps.of ?_))

theorem execConfirm_keeps {s0 s : State} {dt : Nat} (hk0 : Keeps s0 s) : KeepsNext s0 (execConfirm dt s) := by
  unfold execConfirm
  repeat' (first | with_reducible assumption | with_reducible apply elapse_keeps | with_reducible apply takeInbound_keeps | (with_reducible refine Keeps2.snd (takeInbound_keeps ?_) (by assumption)) | (with_reducible refine Keeps.of2 (takeInbound_keeps ?_)) | with_reducible apply confirmRecord_keeps | with_reducible apply KeepsNext.next | (extract_lets +onlyGivenNames s1; clear_value (hs : s1 = _); refine Keeps.cut (s0 := s0) (x := s1) ?_ (fun k1 => ?_); (on_goal 1 => subst hs); (on_goal 2 => clear hs)) | (extract_lets +onlyGivenNames v1; first | (have _ : Clocks := v1; subst v1) | (have _ : Fuses := v1; subst v1) | clear_value v1 | subst v1) | split | (unfold Keeps; dsimp only; with_reducible refine Keeps.of ?_))

theorem execEthTx_keeps {s0 s : State} {dt : Nat} (hk0 : Keeps s0 s) : KeepsNext s0 (execEthTx dt s) := by
  unfold execEthTx
  repeat' (first | with_reducible assumption | with_reducible apply elapse_keeps | with_reducible apply takeInbound_keeps | (with_reducible refine Keeps2.snd (takeInbound_keeps ?_) (by assumption)) | (with_reducible refine Keeps.of2 (takeInbound_keeps ?_)) | with_reducible apply incF_keeps | with_reducible apply updShp_keeps | with_reducible apply KeepsNext.next | (extract_lets +onlyGivenNames s1; clear_value (hs : s1 = _); refine Keeps.cut (s0 := s0) (x := s1) ?_ (fun k1 => ?_); (on_goal 1 => subst hs); (on_goal 2 => clear hs)) | (extract_lets +onlyGivenNames v1; first | (have _ : Clocks := v1; subst v1) | (have _ : Fuses := v1; subst v1) | clear_value v1 | subst v1) | split | (unfold Keeps; dsimp only; with_reducible refine Keeps.of ?_))

theorem execHello_keeps {s0 s : State} {dt : Nat} (hk0 : Keeps s0 s) : KeepsNext s0 (execHello dt s) := by
  unfold execHello
  repeat' (first | with_reducible assumption | with_reducible apply elapse_keeps | with_reducible apply queueRec_keeps | with_reducible apply updBhl_keeps | with_reducible apply KeepsNext.next | (extract_lets +onlyGivenNames s1; clear_value (hs : s1 = _); refine Keeps.cut (s0 := s0) (x := s1) ?_ (fun k1 => ?_); (on_goal 1 => subst hs); (on_goal 2 => clear hs)) | (extract_lets +onlyGivenNames v1; first | (have _ : Clocks := v1; subst v1) | (have _ : Fuses := v1; subst v1) | clear_value v1 | subst v1) | split | (unfold Keeps; dsimp only; with_reducible refine Keeps.of ?_))

theorem writeHtxWr_keeps {s0 s : State} {m : Master} {t : Nat} {w : Word} (hk0 : Keeps s0 s) : Keeps s0 (writeHtxWr m t w s) := by
  unfold writeHtxWr
  repeat' (first | with_reducible assumption | with_reducible apply ignored_keeps | with_reducible apply startFetchTx_keeps | with_reducible apply setF_keeps | split)

theorem execHostTxWrWrite_keeps {s0 s : State} {dt : Nat} {m : Master} {ring : Fin 16} {w : Word} (hk0 : Keeps s0 s) : KeepsNext s0 (execHostTxWrWrite dt m ring w s) := by
  unfold execHostTxWrWrite
  repeat' (first | with_reducible assumption | with_reducible apply gatedWrite_keeps | with_reducible apply writeHtxWr_keeps | with_reducible apply elapse_keeps | with_reducible apply KeepsNext.next | intro _ _ _ | intro _ _)

theorem execHostTxFetch_keeps {s0 s : State} {dt : Nat} {ring : Fin 16} (hk0 : Keeps s0 s) : KeepsNext s0 (execHostTxFetch dt ring s) := by
  unfold execHostTxFetch
  repeat' (first | with_reducible assumption | with_reducible apply elapse_keeps | with_reducible apply finishJob_keeps | with_reducible apply startFetchTx_keeps | with_reducible apply KeepsNext.next | (extract_lets +onlyGivenNames s1; clear_value (hs : s1 = _); refine Keeps.cut (s0 := s0) (x := s1) ?_ (fun k1 => ?_); (on_goal 1 => subst hs); (on_goal 2 => clear hs)) | (extract_lets +onlyGivenNames v1; first | (have _ : Clocks := v1; subst v1) | (have _ : Fuses := v1; subst v1) | clear_value v1 | subst v1) | split | (unfold Keeps; dsimp only; with_reducible refine Keeps.of ?_))

theorem writeHrxRd_keeps {s0 s : State} {m : Master} {r : Nat} {w : Word} (hk0 : Keeps s0 s) : Keeps s0 (writeHrxRd m r w s) := by
  unfold writeHrxRd
  repeat' (first | with_reducible assumption | with_reducible apply ignored_keeps | with_reducible apply writeRingRd_keeps | split)

theorem execHostRxRdWrite_keeps {s0 s : State} {dt : Nat} {m : Master} {ring : Fin 16} {w : Word} (hk0 : Keeps s0 s) : KeepsNext s0 (execHostRxRdWrite dt m ring w s) := by
  unfold execHostRxRdWrite
  repeat' (first | with_reducible assumption | with_reducible apply gatedWrite_keeps | with_reducible apply writeHrxRd_keeps | with_reducible apply elapse_keeps | with_reducible apply KeepsNext.next | intro _ _ _ | intro _ _)

theorem clearMsix_keeps {s0 s : State} (hk0 : Keeps s0 s) : Keeps s0 (clearMsix s) := by
  unfold clearMsix
  repeat' (first | with_reducible assumption | (extract_lets +onlyGivenNames s1; clear_value (hs : s1 = _); refine Keeps.cut (s0 := s0) (x := s1) ?_ (fun k1 => ?_); (on_goal 1 => subst hs); (on_goal 2 => clear hs)) | (extract_lets +onlyGivenNames v1; first | (have _ : Clocks := v1; subst v1) | (have _ : Fuses := v1; subst v1) | clear_value v1 | subst v1) | (with_reducible refine Keeps.tabsFilter ?_ _) | (with_reducible refine Keeps.setTabs ?_ _ _) | (unfold Keeps; dsimp only; with_reducible refine Keeps.of ?_))

theorem execPcieReset_keeps {s0 s : State} {dt : Nat} (hk0 : Keeps s0 s) : KeepsNext s0 (execPcieReset dt s) := by
  unfold execPcieReset
  repeat' (first | with_reducible assumption | with_reducible apply elapse_keeps | with_reducible apply setF_keeps | with_reducible apply clearMsix_keeps | with_reducible apply setReg_keeps | with_reducible apply cancelJob_keeps | (with_reducible refine KeepsOpt.getD (cancelJob_keeps ?_) ?_) | (with_reducible refine KeepsOpt.some (cancelJob_keeps ?_) (by assumption)) | with_reducible apply KeepsNext.next | with_reducible apply Keeps.foldl | (extract_lets +onlyGivenNames s1; clear_value (hs : s1 = _); refine Keeps.cut (s0 := s0) (x := s1) ?_ (fun k1 => ?_); (on_goal 1 => subst hs); (on_goal 2 => clear hs)) | (extract_lets +onlyGivenNames v1; first | (have _ : Clocks := v1; subst v1) | (have _ : Fuses := v1; subst v1) | clear_value v1 | subst v1) | split | intro _ _ _ | intro _ _ | (unfold Keeps; dsimp only; with_reducible refine Keeps.of ?_))

theorem hostErr_keeps {s0 s : State} {write : Bool} {a : Nat} (hk0 : Keeps s0 s) : Keeps s0 (hostErr write a s) := by
  unfold hostErr
  repeat' (first | with_reducible assumption | with_reducible apply setReg_keeps | split)

theorem bar2Write_keeps {s0 s : State} {a : Nat} {b : List Byte} (hk0 : Keeps s0 s) : Keeps s0 (bar2Write a b s) := by
  unfold bar2Write
  repeat' (first | with_reducible assumption | with_reducible apply hostErr_keeps | with_reducible apply ignored_keeps | with_reducible apply foundUe_keeps | with_reducible apply writeDram_keeps | (extract_lets +onlyGivenNames s1; clear_value (hs : s1 = _); refine Keeps.cut (s0 := s0) (x := s1) ?_ (fun k1 => ?_); (on_goal 1 => subst hs); (on_goal 2 => clear hs)) | (extract_lets +onlyGivenNames v1; first | (have _ : Clocks := v1; subst v1) | (have _ : Fuses := v1; subst v1) | clear_value v1 | subst v1) | split | (unfold Keeps; dsimp only; with_reducible refine Keeps.of ?_))

theorem bar2Read_keeps {s0 s : State} {a n : Nat} (hk0 : Keeps s0 s) : Keeps s0 (bar2Read a n s) := by
  unfold bar2Read
  repeat' (first | with_reducible assumption | with_reducible apply hostErr_keeps | with_reducible apply emit_keeps | with_reducible apply foundUe_keeps | (extract_lets +onlyGivenNames s1; clear_value (hs : s1 = _); refine Keeps.cut (s0 := s0) (x := s1) ?_ (fun k1 => ?_); (on_goal 1 => subst hs); (on_goal 2 => clear hs)) | (extract_lets +onlyGivenNames v1; first | (have _ : Clocks := v1; subst v1) | (have _ : Fuses := v1; subst v1) | clear_value v1 | subst v1) | split | (unfold Keeps; dsimp only; with_reducible refine Keeps.of ?_))

theorem execBar2Access_keeps {s0 s : State} {dt : Nat} {a : Word} {n : BitVec 13} {write : Option (List Byte)} (hk0 : Keeps s0 s) : KeepsNext s0 (execBar2Access dt a n write s) := by
  unfold execBar2Access
  repeat' (first | with_reducible assumption | with_reducible apply elapse_keeps | with_reducible apply bar2Write_keeps | with_reducible apply bar2Read_keeps | with_reducible apply KeepsNext.next | (extract_lets +onlyGivenNames s1; clear_value (hs : s1 = _); refine Keeps.cut (s0 := s0) (x := s1) ?_ (fun k1 => ?_); (on_goal 1 => subst hs); (on_goal 2 => clear hs)) | (extract_lets +onlyGivenNames v1; first | (have _ : Clocks := v1; subst v1) | (have _ : Fuses := v1; subst v1) | clear_value v1 | subst v1) | split | (unfold Keeps; dsimp only; with_reducible refine Keeps.of ?_))


end Sys2Proof.Machine
end

