-- ==== Sys2Proof/Laws/KeepsCatCmd.lean ====
section
/-! SUPPORT. What the operations of Machine/CatCmd.lean keep. -/

set_option linter.unusedTactic false
set_option linter.unreachableTactic false
set_option linter.unusedVariables false

namespace Sys2Proof.Machine

theorem catEnd_keeps {s0 s : State} {status reason done : Nat} (hk0 : Keeps s0 s) : Keeps s0 (catEnd status reason done s) := by
  unfold catEnd
  repeat' (first | with_reducible assumption | with_reducible apply updCat_keeps | with_reducible apply setReg_keeps | with_reducible apply notify_keeps | with_reducible apply freeJob_keeps | with_reducible apply completeJob_keeps | (extract_lets +onlyGivenNames s1; clear_value (hs : s1 = _); refine Keeps.cut (s0 := s0) (x := s1) ?_ (fun k1 => ?_); (on_goal 1 => subst hs); (on_goal 2 => clear hs)) | (extract_lets +onlyGivenNames v1; first | (have _ : Clocks := v1; subst v1) | (have _ : Fuses := v1; subst v1) | clear_value v1 | subst v1) | split | (unfold Keeps; dsimp only; with_reducible refine Keeps.of ?_))

theorem writeCatCmd_keeps {s0 s : State} {m : Master} {cmd mask nix : Nat} (hk0 : Keeps s0 s) : Keeps s0 (writeCatCmd m cmd mask nix s) := by
  unfold writeCatCmd
  repeat' (first | with_reducible assumption | with_reducible apply ignored_keeps | with_reducible apply catEnd_keeps | with_reducible apply updCat_keeps | with_reducible apply setReg_keeps | with_reducible apply createJob_keeps | (extract_lets +onlyGivenNames s1; clear_value (hs : s1 = _); refine Keeps.cut (s0 := s0) (x := s1) ?_ (fun k1 => ?_); (on_goal 1 => subst hs); (on_goal 2 => clear hs)) | (extract_lets +onlyGivenNames v1; first | (have _ : Clocks := v1; subst v1) | (have _ : Fuses := v1; subst v1) | clear_value v1 | subst v1) | split | (unfold Keeps; dsimp only; with_reducible refine Keeps.of ?_))

theorem execCatCmdWrite_keeps {s0 s : State} {dt : Nat} {m : Master} {mask : BitVec 5} {nix : BitVec 17} (hk0 : Keeps s0 s) : KeepsNext s0 (execCatCmdWrite dt m mask nix s) := by
  unfold execCatCmdWrite
  repeat' (first | with_reducible assumption | with_reducible apply gatedWrite_keeps | with_reducible apply writeCatCmd_keeps | with_reducible apply elapse_keeps | with_reducible apply KeepsNext.next | intro _ _ _ | intro _ _)

theorem execCatCmdRead_keeps {s0 s : State} {dt : Nat} {m : Master} {nix : BitVec 17} (hk0 : Keeps s0 s) : KeepsNext s0 (execCatCmdRead dt m nix s) := by
  unfold execCatCmdRead
  repeat' (first | with_reducible assumption | with_reducible apply gatedWrite_keeps | with_reducible apply writeCatCmd_keeps | with_reducible apply elapse_keeps | with_reducible apply KeepsNext.next | intro _ _ _ | intro _ _)

theorem execCatCmdClear_keeps {s0 s : State} {dt : Nat} {m : Master} {nix : BitVec 17} (hk0 : Keeps s0 s) : KeepsNext s0 (execCatCmdClear dt m nix s) := by
  unfold execCatCmdClear
  repeat' (first | with_reducible assumption | with_reducible apply gatedWrite_keeps | with_reducible apply writeCatCmd_keeps | with_reducible apply elapse_keeps | with_reducible apply KeepsNext.next | intro _ _ _ | intro _ _)

theorem changeEntry_keeps {s0 s : State} {nix cmd mask : Nat} {b : List Byte} (hk0 : Keeps s0 s) : Keeps s0 (changeEntry nix cmd mask b s) := by
  unfold changeEntry
  repeat' (first | with_reducible assumption | with_reducible apply putEntry_keeps | with_reducible apply incF_keeps | with_reducible apply setF_keeps | with_reducible apply updXch_keeps | (extract_lets +onlyGivenNames s1; clear_value (hs : s1 = _); refine Keeps.cut (s0 := s0) (x := s1) ?_ (fun k1 => ?_); (on_goal 1 => subst hs); (on_goal 2 => clear hs)) | (extract_lets +onlyGivenNames v1; first | (have _ : Clocks := v1; subst v1) | (have _ : Fuses := v1; subst v1) | clear_value v1 | subst v1) | split | (unfold Keeps; dsimp only; with_reducible refine Keeps.of ?_))

theorem catNext_keeps {s0 s : State} {c : CatCmd} (hk0 : Keeps s0 s) : Keeps s0 (catNext c s) := by
  unfold catNext
  repeat' (first | with_reducible assumption | with_reducible apply updCat_keeps | with_reducible apply setF_keeps | with_reducible apply catEnd_keeps | (extract_lets +onlyGivenNames s1; clear_value (hs : s1 = _); refine Keeps.cut (s0 := s0) (x := s1) ?_ (fun k1 => ?_); (on_goal 1 => subst hs); (on_goal 2 => clear hs)) | (extract_lets +onlyGivenNames v1; first | (have _ : Clocks := v1; subst v1) | (have _ : Fuses := v1; subst v1) | clear_value v1 | subst v1) | split | (unfold Keeps; dsimp only; with_reducible refine Keeps.of ?_))

theorem catStep_keeps {s0 s : State} {c : CatCmd} (hk0 : Keeps s0 s) : Keeps s0 (catStep c s) := by
  unfold catStep
  repeat' (first | with_reducible assumption | with_reducible apply fetchEntry_keeps | with_reducible apply catEnd_keeps | with_reducible apply catNext_keeps | with_reducible apply writeDram_keeps | with_reducible apply foundUe_keeps | with_reducible apply changeEntry_keeps | (extract_lets +onlyGivenNames s1; clear_value (hs : s1 = _); refine Keeps.cut (s0 := s0) (x := s1) ?_ (fun k1 => ?_); (on_goal 1 => subst hs); (on_goal 2 => clear hs)) | (extract_lets +onlyGivenNames v1; first | (have _ : Clocks := v1; subst v1) | (have _ : Fuses := v1; subst v1) | clear_value v1 | subst v1) | split | (unfold Keeps; dsimp only; with_reducible refine Keeps.of ?_))

theorem execCatCmdEntry_keeps {s0 s : State} {dt : Nat} (hk0 : Keeps s0 s) : KeepsNext s0 (execCatCmdEntry dt s) := by
  unfold execCatCmdEntry
  repeat' (first | with_reducible assumption | with_reducible apply elapse_keeps | with_reducible apply catStep_keeps | with_reducible apply KeepsNext.next | (extract_lets +onlyGivenNames s1; clear_value (hs : s1 = _); refine Keeps.cut (s0 := s0) (x := s1) ?_ (fun k1 => ?_); (on_goal 1 => subst hs); (on_goal 2 => clear hs)) | (extract_lets +onlyGivenNames v1; first | (have _ : Clocks := v1; subst v1) | (have _ : Fuses := v1; subst v1) | clear_value v1 | subst v1) | split | (unfold Keeps; dsimp only; with_reducible refine Keeps.of ?_))

theorem execCatWriteback_keeps {s0 s : State} {dt : Nat} {nix : BitVec 17} (hk0 : Keeps s0 s) : KeepsNext s0 (execCatWriteback dt nix s) := by
  unfold execCatWriteback
  repeat' (first | with_reducible assumption | with_reducible apply elapse_keeps | with_reducible apply writeBack_keeps | with_reducible apply KeepsNext.next | (extract_lets +onlyGivenNames s1; clear_value (hs : s1 = _); refine Keeps.cut (s0 := s0) (x := s1) ?_ (fun k1 => ?_); (on_goal 1 => subst hs); (on_goal 2 => clear hs)) | (extract_lets +onlyGivenNames v1; first | (have _ : Clocks := v1; subst v1) | (have _ : Fuses := v1; subst v1) | clear_value v1 | subst v1) | split)


end Sys2Proof.Machine
end

