-- ==== Sys2Proof/Laws/KeepsCommitOps.lean ====
section
/-! SUPPORT. What the operations of Machine/CommitOps.lean keep. -/

set_option linter.unusedTactic false
set_option linter.unreachableTactic false
set_option linter.unusedVariables false

namespace Sys2Proof.Machine

theorem putShadow_keeps {s0 s : State} {k : Nat} {w : Word} (hk0 : Keeps s0 s) : Keeps s0 (putShadow k w s) := by
  unfold putShadow
  repeat' (first | with_reducible assumption | (extract_lets +onlyGivenNames s1; clear_value (hs : s1 = _); refine Keeps.cut (s0 := s0) (x := s1) ?_ (fun k1 => ?_); (on_goal 1 => subst hs); (on_goal 2 => clear hs)) | (extract_lets +onlyGivenNames v1; first | (have _ : Clocks := v1; subst v1) | (have _ : Fuses := v1; subst v1) | clear_value v1 | subst v1) | (unfold Keeps; dsimp only; with_reducible refine Keeps.of ?_))

theorem applyShadow_keeps {s0 s : State} {e : Nat × Word} (hk0 : Keeps s0 s) : Keeps s0 (applyShadow s e) := by
  unfold applyShadow
  repeat' (first | with_reducible assumption | with_reducible apply setReg_keeps | (extract_lets +onlyGivenNames s1; clear_value (hs : s1 = _); refine Keeps.cut (s0 := s0) (x := s1) ?_ (fun k1 => ?_); (on_goal 1 => subst hs); (on_goal 2 => clear hs)) | (extract_lets +onlyGivenNames v1; first | (have _ : Clocks := v1; subst v1) | (have _ : Fuses := v1; subst v1) | clear_value v1 | subst v1) | split | (with_reducible refine Keeps.tabsFilter ?_ _) | (with_reducible refine Keeps.setTabs ?_ _ _) | (unfold Keeps; dsimp only; with_reducible refine Keeps.of ?_))

theorem applyShadows_keeps {s0 s : State} (hk0 : Keeps s0 s) : Keeps s0 (applyShadows s) := by
  unfold applyShadows
  repeat' (first | with_reducible assumption | with_reducible apply applyShadow_keeps | with_reducible apply Keeps.foldl | intro _ _ _ | intro _ _)

theorem restartRing_keeps {s0 s : State} {base ctrl : Nat} {wr rd : Field} {o : State} (hk0 : Keeps s0 s) : Keeps s0 (restartRing base ctrl wr rd o s) := by
  unfold restartRing
  repeat' (first | with_reducible assumption | with_reducible apply setF_keeps | split)

theorem regridPort_keeps {s0 s : State} {n : Nat} (hk0 : Keeps s0 s) : Keeps s0 (regridPort n s) := by
  unfold regridPort
  repeat' (first | with_reducible assumption | with_reducible apply retune_keeps | with_reducible apply settle_keeps | with_reducible apply blankPort_keeps | (extract_lets +onlyGivenNames s1; clear_value (hs : s1 = _); refine Keeps.cut (s0 := s0) (x := s1) ?_ (fun k1 => ?_); (on_goal 1 => subst hs); (on_goal 2 => clear hs)) | (extract_lets +onlyGivenNames v1; first | (have _ : Clocks := v1; subst v1) | (have _ : Fuses := v1; subst v1) | clear_value v1 | subst v1) | split)

theorem dropDisabled_keeps {s0 s : State} {n : Nat} {o : State} (hk0 : Keeps s0 s) : Keeps s0 (dropDisabled n o s) := by
  unfold dropDisabled
  repeat' (first | with_reducible assumption | with_reducible apply failRx_keeps | with_reducible apply Keeps.foldl | (extract_lets +onlyGivenNames s1; clear_value (hs : s1 = _); refine Keeps.cut (s0 := s0) (x := s1) ?_ (fun k1 => ?_); (on_goal 1 => subst hs); (on_goal 2 => clear hs)) | (extract_lets +onlyGivenNames v1; first | (have _ : Clocks := v1; subst v1) | (have _ : Fuses := v1; subst v1) | clear_value v1 | subst v1) | intro _ _ _ | intro _ _ | split | (unfold Keeps; dsimp only; with_reducible refine Keeps.of ?_))

theorem enablePort_keeps {s0 s : State} {boot : Bool} {n : Nat} {o : State} (hk0 : Keeps s0 s) : Keeps s0 (enablePort boot n o s) := by
  unfold enablePort
  repeat' (first | with_reducible assumption | with_reducible apply startCal_keeps | with_reducible apply updPort_keeps | with_reducible apply portOff_keeps | (extract_lets +onlyGivenNames s1; clear_value (hs : s1 = _); refine Keeps.cut (s0 := s0) (x := s1) ?_ (fun k1 => ?_); (on_goal 1 => subst hs); (on_goal 2 => clear hs)) | (extract_lets +onlyGivenNames v1; first | (have _ : Clocks := v1; subst v1) | (have _ : Fuses := v1; subst v1) | clear_value v1 | subst v1) | split | (unfold Keeps; dsimp only; with_reducible refine Keeps.of ?_))

theorem syncRf_keeps {s0 s : State} (hk0 : Keeps s0 s) : Keeps s0 (syncRf s) := by
  unfold syncRf
  repeat' (first | with_reducible assumption | with_reducible apply setF_keeps)

theorem commitPort_keeps {s0 s : State} {boot : Bool} {n : Nat} (hk0 : Keeps s0 s) : Keeps s0 (commitPort boot o s n) := by
  unfold commitPort
  repeat' (first | with_reducible assumption | with_reducible apply enablePort_keeps | with_reducible apply regridPort_keeps | with_reducible apply dropDisabled_keeps | with_reducible apply syncDuty_keeps | with_reducible apply updPort_keeps | with_reducible apply syncComp_keeps | (extract_lets +onlyGivenNames s1; clear_value (hs : s1 = _); refine Keeps.cut (s0 := s0) (x := s1) ?_ (fun k1 => ?_); (on_goal 1 => subst hs); (on_goal 2 => clear hs)) | (extract_lets +onlyGivenNames v1; first | (have _ : Clocks := v1; subst v1) | (have _ : Fuses := v1; subst v1) | clear_value v1 | subst v1) | split | (unfold Keeps; dsimp only; with_reducible refine Keeps.of ?_))

theorem commitTime_keeps {s0 s : State} {o : State} (hk0 : Keeps s0 s) : Keeps s0 (commitTime o s) := by
  unfold commitTime
  repeat' (first | with_reducible assumption | with_reducible apply notify_keeps | with_reducible apply setF_keeps | with_reducible apply updDomain_keeps | with_reducible apply Keeps.foldl | (extract_lets +onlyGivenNames s1; clear_value (hs : s1 = _); refine Keeps.cut (s0 := s0) (x := s1) ?_ (fun k1 => ?_); (on_goal 1 => subst hs); (on_goal 2 => clear hs)) | (extract_lets +onlyGivenNames v1; first | (have _ : Clocks := v1; subst v1) | (have _ : Fuses := v1; subst v1) | clear_value v1 | subst v1) | intro _ _ _ | intro _ _ | split | (unfold Keeps; dsimp only; with_reducible refine Keeps.of ?_))

theorem commitShaper_keeps {s0 s : State} {o : State} (hk0 : Keeps s0 s) : Keeps s0 (commitShaper o s) := by
  unfold commitShaper
  repeat' (first | with_reducible assumption | with_reducible apply updShp_keeps | (extract_lets +onlyGivenNames s1; clear_value (hs : s1 = _); refine Keeps.cut (s0 := s0) (x := s1) ?_ (fun k1 => ?_); (on_goal 1 => subst hs); (on_goal 2 => clear hs)) | (extract_lets +onlyGivenNames v1; first | (have _ : Clocks := v1; subst v1) | (have _ : Fuses := v1; subst v1) | clear_value v1 | subst v1) | split | (unfold Keeps; dsimp only; with_reducible refine Keeps.of ?_))

theorem commitLinks_keeps {s0 s : State} {o : State} (hk0 : Keeps s0 s) : Keeps s0 (commitLinks o s) := by
  unfold commitLinks
  repeat' (first | with_reducible assumption | with_reducible apply setLink_keeps | with_reducible apply startFetchTx_keeps | with_reducible apply Keeps.foldl | (extract_lets +onlyGivenNames s1; clear_value (hs : s1 = _); refine Keeps.cut (s0 := s0) (x := s1) ?_ (fun k1 => ?_); (on_goal 1 => subst hs); (on_goal 2 => clear hs)) | (extract_lets +onlyGivenNames v1; first | (have _ : Clocks := v1; subst v1) | (have _ : Fuses := v1; subst v1) | clear_value v1 | subst v1) | intro _ _ _ | intro _ _ | split)

theorem commitMemory_keeps {s0 o s : State} (hk0 : Keeps s0 s) : Keeps s0 (commitMemory o s) := by
  have k (t : State) (m : Mem) (h : Keeps s0 t) : Keeps s0 { t with mem := m } := h
  unfold commitMemory
  exact k _ _ (updCat_keeps hk0)
theorem commitEffects_keeps {s0 s : State} {boot : Bool} {o : State} (hk0 : Keeps s0 s) : Keeps s0 (commitEffects boot o s) := by
  unfold commitEffects
  repeat' (first | with_reducible assumption | with_reducible apply restartRing_keeps | with_reducible apply commitMemory_keeps | with_reducible apply commitShaper_keeps | with_reducible apply commitPort_keeps | with_reducible apply commitLinks_keeps | with_reducible apply commitTime_keeps | with_reducible apply syncRf_keeps | with_reducible apply Keeps.foldl | (extract_lets +onlyGivenNames s1; clear_value (hs : s1 = _); refine Keeps.cut (s0 := s0) (x := s1) ?_ (fun k1 => ?_); (on_goal 1 => subst hs); (on_goal 2 => clear hs)) | (extract_lets +onlyGivenNames v1; first | (have _ : Clocks := v1; subst v1) | (have _ : Fuses := v1; subst v1) | clear_value v1 | subst v1) | intro _ _ _ | intro _ _)

theorem tryCommit_keeps {s0 s : State} {boot : Bool} (hk0 : Keeps s0 s) : KeepsOpt s0 (tryCommit boot s) := by
  unfold tryCommit
  repeat' (first | with_reducible assumption | with_reducible apply applyShadows_keeps | with_reducible apply commitEffects_keeps | with_reducible exact KeepsOpt.none | with_reducible apply KeepsOpt.mk | (extract_lets +onlyGivenNames s1; clear_value (hs : s1 = _); refine Keeps.cut (s0 := s0) (x := s1) ?_ (fun k1 => ?_); (on_goal 1 => subst hs); (on_goal 2 => clear hs)) | (extract_lets +onlyGivenNames v1; first | (have _ : Clocks := v1; subst v1) | (have _ : Fuses := v1; subst v1) | clear_value v1 | subst v1) | split)

theorem journalRegs_keeps {s0 s : State} {tag n : Nat} {l : List (Nat × Word)} (hk0 : Keeps s0 s) : Keeps s0 (journalRegs tag n l s) := by
  induction n generalizing l s with
  | zero => exact hk0
  | succ n ih =>
    unfold journalRegs
    extract_lets now rest body s1
    have k1 : Keeps s0 s1 := journalRec_keeps hk0
    split
    · exact k1
    · exact ih k1
theorem commitNow_keeps {s0 s : State} (hk0 : Keeps s0 s) : Keeps s0 (commitNow s) := by
  unfold commitNow
  have k : KeepsOpt s0 (if s.getF F.TXN_STATUS_POISONED = 1 then none else tryCommit false s) := by
    split
    exacts [KeepsOpt.none, tryCommit_keeps hk0]
  revert k
  generalize (if s.getF F.TXN_STATUS_POISONED = 1 then none else tryCommit false s) = y
  intro k
  cases y with
  | none => exact rollback_keeps (setF_keeps hk0)
  | some t => exact notify_keeps (set64_keeps (closeTxn_keeps (journalRegs_keeps (k t rfl))))

end Sys2Proof.Machine
end

