-- ==== Sys2Proof/Laws/KeepsLifecycle.lean ====
section
/-! SUPPORT. What the operations of Machine/Lifecycle.lean keep. -/

set_option linter.unusedTactic false
set_option linter.unreachableTactic false
set_option linter.unusedVariables false

namespace Sys2Proof.Machine

theorem updLcs_keeps {s0 s : State} {f : Lcs → Lcs} (hk0 : Keeps s0 s) : Keeps s0 (State.updLcs s f) := by
  unfold State.updLcs
  repeat' (first | with_reducible assumption | (extract_lets +onlyGivenNames s1; clear_value (hs : s1 = _); refine Keeps.cut (s0 := s0) (x := s1) ?_ (fun k1 => ?_); (on_goal 1 => subst hs); (on_goal 2 => clear hs)) | (extract_lets +onlyGivenNames v1; first | (have _ : Clocks := v1; subst v1) | (have _ : Fuses := v1; subst v1) | clear_value v1 | subst v1) | (unfold Keeps; dsimp only; with_reducible refine Keeps.of ?_))

theorem setCap_keeps {s0 s : State} {m : Master} {c : Capture} (hk0 : Keeps s0 s) : Keeps s0 (State.setCap s m c) := by
  unfold State.setCap
  repeat' (first | with_reducible assumption | (extract_lets +onlyGivenNames s1; clear_value (hs : s1 = _); refine Keeps.cut (s0 := s0) (x := s1) ?_ (fun k1 => ?_); (on_goal 1 => subst hs); (on_goal 2 => clear hs)) | (extract_lets +onlyGivenNames v1; first | (have _ : Clocks := v1; subst v1) | (have _ : Fuses := v1; subst v1) | clear_value v1 | subst v1) | split | (unfold Keeps; dsimp only; with_reducible refine Keeps.of ?_))

theorem addCap_keeps {s0 s : State} {m : Master} {ws : List (Nat × Word)} (hk0 : Keeps s0 s) : Keeps s0 (State.addCap s m ws) := by
  unfold State.addCap
  repeat' (first | with_reducible assumption | with_reducible apply setCap_keeps)

theorem readChal_keeps {s0 s : State} {m : Master} (hk0 : Keeps s0 s) : Keeps2 s0 (readChal m s) := by
  unfold readChal
  repeat' (first | with_reducible assumption | with_reducible apply setReg_keeps | with_reducible apply addCap_keeps | with_reducible apply updLcs_keeps | with_reducible apply drawn_keeps | with_reducible apply Keeps.foldl | (extract_lets +onlyGivenNames s1; clear_value (hs : s1 = _); refine Keeps.cut (s0 := s0) (x := s1) ?_ (fun k1 => ?_); (on_goal 1 => subst hs); (on_goal 2 => clear hs)) | (extract_lets +onlyGivenNames v1; first | (have _ : Clocks := v1; subst v1) | (have _ : Fuses := v1; subst v1) | clear_value v1 | subst v1) | intro _ _ _ | intro _ _ | with_reducible apply Keeps2.mk | (with_reducible refine Keeps.draw _ ?_) | (unfold Keeps; dsimp only; with_reducible refine Keeps.of ?_))

theorem execLcsChalRead_keeps {s0 s : State} {dt : Nat} {m : Master} (hk0 : Keeps s0 s) : KeepsNext s0 (execLcsChalRead dt m s) := by
  unfold execLcsChalRead
  repeat' (first | with_reducible assumption | with_reducible apply elapse_keeps | with_reducible apply addCap_keeps | with_reducible apply emit_keeps | with_reducible apply readChal_keeps | (with_reducible refine Keeps2.snd (readChal_keeps ?_) (by assumption)) | (with_reducible refine Keeps.of2 (readChal_keeps ?_)) | with_reducible apply accessErr_keeps | with_reducible apply KeepsNext.next | (extract_lets +onlyGivenNames s1; clear_value (hs : s1 = _); refine Keeps.cut (s0 := s0) (x := s1) ?_ (fun k1 => ?_); (on_goal 1 => subst hs); (on_goal 2 => clear hs)) | (extract_lets +onlyGivenNames v1; first | (have _ : Clocks := v1; subst v1) | (have _ : Fuses := v1; subst v1) | clear_value v1 | subst v1) | split | (with_reducible refine Keeps2.snd ?_ (by assumption)) | with_reducible apply Keeps2.mk)

theorem execLcsChalExpire_keeps {s0 s : State} {dt : Nat} (hk0 : Keeps s0 s) : KeepsNext s0 (execLcsChalExpire dt s) := by
  unfold execLcsChalExpire
  repeat' (first | with_reducible assumption | with_reducible apply elapse_keeps | with_reducible apply updLcs_keeps | with_reducible apply KeepsNext.next | (extract_lets +onlyGivenNames s1; clear_value (hs : s1 = _); refine Keeps.cut (s0 := s0) (x := s1) ?_ (fun k1 => ?_); (on_goal 1 => subst hs); (on_goal 2 => clear hs)) | (extract_lets +onlyGivenNames v1; first | (have _ : Clocks := v1; subst v1) | (have _ : Fuses := v1; subst v1) | clear_value v1 | subst v1) | split | (unfold Keeps; dsimp only; with_reducible refine Keeps.of ?_))

theorem lcsEnd_keeps {s0 s : State} {status reason : Nat} (hk0 : Keeps s0 s) : Keeps s0 (lcsEnd status reason s) := by
  unfold lcsEnd
  repeat' (first | with_reducible assumption | with_reducible apply setReg_keeps)

theorem lcsAct_keeps {s0 s : State} {t : List Byte} (hk0 : Keeps s0 s) : Keeps s0 (lcsAct t s) := by
  unfold lcsAct
  repeat' (first | with_reducible assumption | with_reducible apply alarmErase_keeps | with_reducible apply clearSeed_keeps | with_reducible apply drawn_keeps | with_reducible apply lcsEnd_keeps | with_reducible apply updLcs_keeps | (extract_lets +onlyGivenNames s1; clear_value (hs : s1 = _); refine Keeps.cut (s0 := s0) (x := s1) ?_ (fun k1 => ?_); (on_goal 1 => subst hs); (on_goal 2 => clear hs)) | (extract_lets +onlyGivenNames v1; first | (have _ : Clocks := v1; subst v1) | (have _ : Fuses := v1; subst v1) | clear_value v1 | subst v1) | split | (with_reducible refine Keeps.fuse ?_ _ rfl rfl rfl le_rfl) | (unfold Keeps; dsimp only; with_reducible refine Keeps.of ?_))

theorem startLcs_keeps {s0 s : State} {a : Nat} (hk0 : Keeps s0 s) : Keeps s0 (startLcs a s) := by
  unfold startLcs
  repeat' (first | with_reducible assumption | with_reducible apply updLcs_keeps | with_reducible apply lcsEnd_keeps | with_reducible apply withRead_keeps | with_reducible apply lcsAct_keeps | with_reducible apply setReg_keeps | (extract_lets +onlyGivenNames s1; clear_value (hs : s1 = _); refine Keeps.cut (s0 := s0) (x := s1) ?_ (fun k1 => ?_); (on_goal 1 => subst hs); (on_goal 2 => clear hs)) | (extract_lets +onlyGivenNames v1; first | (have _ : Clocks := v1; subst v1) | (have _ : Fuses := v1; subst v1) | clear_value v1 | subst v1) | intro _ _ _ | intro _ _ | split | (unfold Keeps; dsimp only; with_reducible refine Keeps.of ?_))

theorem writeLcsCmd_keeps {s0 s : State} {m : Master} {w : Word} (hk0 : Keeps s0 s) : Keeps s0 (writeLcsCmd m w s) := by
  unfold writeLcsCmd
  repeat' (first | with_reducible assumption | with_reducible apply ignored_keeps | with_reducible apply setReg_keeps | with_reducible apply startLcs_keeps | (extract_lets +onlyGivenNames s1; clear_value (hs : s1 = _); refine Keeps.cut (s0 := s0) (x := s1) ?_ (fun k1 => ?_); (on_goal 1 => subst hs); (on_goal 2 => clear hs)) | (extract_lets +onlyGivenNames v1; first | (have _ : Clocks := v1; subst v1) | (have _ : Fuses := v1; subst v1) | clear_value v1 | subst v1) | split)

theorem execLcsCmd_keeps {s0 s : State} {dt : Nat} {m : Master} {w : Word} (hk0 : Keeps s0 s) : KeepsNext s0 (execLcsCmd dt m w s) := by
  unfold execLcsCmd
  repeat' (first | with_reducible assumption | with_reducible apply gatedWrite_keeps | with_reducible apply writeLcsCmd_keeps | with_reducible apply elapse_keeps | with_reducible apply KeepsNext.next | intro _ _ _ | intro _ _)

theorem execLcsChange_keeps {s0 s : State} {dt : Nat} (hk0 : Keeps s0 s) : KeepsNext s0 (execLcsChange dt s) := by
  unfold execLcsChange
  repeat' (first | with_reducible assumption | with_reducible apply elapse_keeps | with_reducible apply updLcs_keeps | with_reducible apply restart_keeps | with_reducible apply notify_keeps | with_reducible apply lcsEnd_keeps | with_reducible apply KeepsNext.next | (extract_lets +onlyGivenNames s1; clear_value (hs : s1 = _); refine Keeps.cut (s0 := s0) (x := s1) ?_ (fun k1 => ?_); (on_goal 1 => subst hs); (on_goal 2 => clear hs)) | (extract_lets +onlyGivenNames v1; first | (have _ : Clocks := v1; subst v1) | (have _ : Fuses := v1; subst v1) | clear_value v1 | subst v1) | split | (with_reducible refine Keeps.fuse ?_ _ rfl rfl rfl le_rfl) | (unfold Keeps; dsimp only; with_reducible refine Keeps.of ?_))

theorem attestEnd_keeps {s0 s : State} {status : Nat} (hk0 : Keeps s0 s) : Keeps s0 (attestEnd status s) := by
  unfold attestEnd
  repeat' (first | with_reducible assumption | with_reducible apply setReg_keeps)

theorem writeAttest_keeps {s0 s : State} {m : Master} {w : Word} (hk0 : Keeps s0 s) : Keeps s0 (writeAttest m w s) := by
  unfold writeAttest
  repeat' (first | with_reducible assumption | with_reducible apply ignored_keeps | with_reducible apply setReg_keeps | with_reducible apply attestEnd_keeps | with_reducible apply withRead_keeps | with_reducible apply updLcs_keeps | (extract_lets +onlyGivenNames s1; clear_value (hs : s1 = _); refine Keeps.cut (s0 := s0) (x := s1) ?_ (fun k1 => ?_); (on_goal 1 => subst hs); (on_goal 2 => clear hs)) | (extract_lets +onlyGivenNames v1; first | (have _ : Clocks := v1; subst v1) | (have _ : Fuses := v1; subst v1) | clear_value v1 | subst v1) | intro _ _ _ | intro _ _ | split | (unfold Keeps; dsimp only; with_reducible refine Keeps.of ?_))

theorem execAttestRequest_keeps {s0 s : State} {dt : Nat} {m : Master} {w : Word} (hk0 : Keeps s0 s) : KeepsNext s0 (execAttestRequest dt m w s) := by
  unfold execAttestRequest
  repeat' (first | with_reducible assumption | with_reducible apply gatedWrite_keeps | with_reducible apply writeAttest_keeps | with_reducible apply elapse_keeps | with_reducible apply KeepsNext.next | intro _ _ _ | intro _ _)

theorem execAttestDone_keeps {s0 s : State} {dt : Nat} (hk0 : Keeps s0 s) : KeepsNext s0 (execAttestDone dt s) := by
  unfold execAttestDone
  repeat' (first | with_reducible assumption | with_reducible apply elapse_keeps | with_reducible apply attestEnd_keeps | with_reducible apply writeDram_keeps | with_reducible apply notify_keeps | with_reducible apply updLcs_keeps | with_reducible apply KeepsNext.next | (extract_lets +onlyGivenNames s1; clear_value (hs : s1 = _); refine Keeps.cut (s0 := s0) (x := s1) ?_ (fun k1 => ?_); (on_goal 1 => subst hs); (on_goal 2 => clear hs)) | (extract_lets +onlyGivenNames v1; first | (have _ : Clocks := v1; subst v1) | (have _ : Fuses := v1; subst v1) | clear_value v1 | subst v1) | split | (unfold Keeps; dsimp only; with_reducible refine Keeps.of ?_))

theorem tamperHold_keeps {s0 s : State} (hk0 : Keeps s0 s) : Keeps s0 (tamperHold s) := by
  unfold tamperHold
  repeat' (first | with_reducible assumption | with_reducible apply clearSeed_keeps | with_reducible apply zeroiseAll_keeps | with_reducible apply discardTxn_keeps | with_reducible apply assertSafe_keeps | with_reducible apply portsOff_keeps | with_reducible apply setF_keeps | with_reducible apply startupEnd_keeps | with_reducible apply notify_keeps | (extract_lets +onlyGivenNames s1; clear_value (hs : s1 = _); refine Keeps.cut (s0 := s0) (x := s1) ?_ (fun k1 => ?_); (on_goal 1 => subst hs); (on_goal 2 => clear hs)) | (extract_lets +onlyGivenNames v1; first | (have _ : Clocks := v1; subst v1) | (have _ : Fuses := v1; subst v1) | clear_value v1 | subst v1) | split)

theorem latchTamper_keeps {s0 s : State} {inputs whence : Nat} (hk0 : Keeps s0 s) : Keeps s0 (latchTamper inputs whence s) := by
  unfold latchTamper
  repeat' (first | with_reducible assumption | with_reducible apply setF_keeps)

theorem abortLcs_keeps {s0 s : State} (hk0 : Keeps s0 s) : Keeps s0 (abortLcs s) := by
  unfold abortLcs
  repeat' (first | with_reducible assumption | with_reducible apply lcsEnd_keeps | with_reducible apply updLcs_keeps | (extract_lets +onlyGivenNames s1; clear_value (hs : s1 = _); refine Keeps.cut (s0 := s0) (x := s1) ?_ (fun k1 => ?_); (on_goal 1 => subst hs); (on_goal 2 => clear hs)) | (extract_lets +onlyGivenNames v1; first | (have _ : Clocks := v1; subst v1) | (have _ : Fuses := v1; subst v1) | clear_value v1 | subst v1) | split | (unfold Keeps; dsimp only; with_reducible refine Keeps.of ?_))

theorem tamperEvent_keeps {s0 s : State} {inputs : Nat} (hk0 : Keeps s0 s) : Keeps s0 (tamperEvent inputs s) := by
  unfold tamperEvent
  repeat' (first | with_reducible assumption | with_reducible apply clearSeed_keeps | with_reducible apply latchTamper_keeps | with_reducible apply tamperHold_keeps | with_reducible apply alarmErase_keeps | with_reducible apply abortLcs_keeps | with_reducible apply notify_keeps | (extract_lets +onlyGivenNames s1; clear_value (hs : s1 = _); refine Keeps.cut (s0 := s0) (x := s1) ?_ (fun k1 => ?_); (on_goal 1 => subst hs); (on_goal 2 => clear hs)) | (extract_lets +onlyGivenNames v1; first | (have _ : Clocks := v1; subst v1) | (have _ : Fuses := v1; subst v1) | clear_value v1 | subst v1) | split | (unfold Keeps; dsimp only; with_reducible refine Keeps.of ?_))

theorem execTamperEvent_keeps {s0 s : State} {dt : Nat} {inputs : BitVec 4} (hk0 : Keeps s0 s) : KeepsNext s0 (execTamperEvent dt inputs s) := by
  unfold execTamperEvent
  extract_lets s1 p s2 act new s3
  have k2 : Keeps s0 s2 := Keeps.of (elapse_keeps (dt := dt) hk0)
  have k3 : Keeps s0 s3 := setF_keeps k2
  apply KeepsNext.next
  split
  · exact k3
  · exact tamperEvent_keeps k3
theorem writeTamCfg_keeps {s0 s : State} {m : Master} {w : Word} (hk0 : Keeps s0 s) : Keeps s0 (writeTamCfg m w s) := by
  unfold writeTamCfg
  repeat' (first | with_reducible assumption | with_reducible apply ignored_keeps | with_reducible apply setReg_keeps | split)

theorem execTamCfgWrite_keeps {s0 s : State} {dt : Nat} {m : Master} {w : Word} (hk0 : Keeps s0 s) : KeepsNext s0 (execTamCfgWrite dt m w s) := by
  unfold execTamCfgWrite
  repeat' (first | with_reducible assumption | with_reducible apply gatedWrite_keeps | with_reducible apply writeTamCfg_keeps | with_reducible apply elapse_keeps | with_reducible apply KeepsNext.next | intro _ _ _ | intro _ _)


end Sys2Proof.Machine
end

