-- ==== Sys2Proof/Laws/KeepsBootOps.lean ====
section
/-! SUPPORT. What the operations of Machine/BootOps.lean keep. -/

set_option linter.unusedTactic false
set_option linter.unreachableTactic false
set_option linter.unusedVariables false

namespace Sys2Proof.Machine

theorem toStep_keeps {s0 s : State} {n : Nat} (hk0 : Keeps s0 s) : Keeps s0 (toStep n s) := by
  unfold toStep
  repeat' (first | with_reducible assumption | with_reducible apply setF_keeps)

theorem updBoot_keeps {s0 s : State} {f : Boot → Boot} (hk0 : Keeps s0 s) : Keeps s0 (State.updBoot s f) := by
  unfold State.updBoot
  repeat' (first | with_reducible assumption | (extract_lets +onlyGivenNames s1; clear_value (hs : s1 = _); refine Keeps.cut (s0 := s0) (x := s1) ?_ (fun k1 => ?_); (on_goal 1 => subst hs); (on_goal 2 => clear hs)) | (extract_lets +onlyGivenNames v1; first | (have _ : Clocks := v1; subst v1) | (have _ : Fuses := v1; subst v1) | clear_value v1 | subst v1) | (unfold Keeps; dsimp only; with_reducible refine Keeps.of ?_))

theorem assertOwnN_keeps {s0 s : State} (hk0 : Keeps s0 s) : Keeps s0 (assertOwnN s) := by
  unfold assertOwnN
  repeat' (first | with_reducible assumption | with_reducible apply setF_keeps)

theorem reserveState_keeps {s0 s : State} (hk0 : Keeps s0 s) : Keeps s0 (reserveState s) := by
  unfold reserveState
  exact ⟨hk0.queue, fun m => ⟨Sparse.wf_filter _ (hk0.maps m).1, rfl, (hk0.maps m).2.2⟩, hk0.time, hk0.added, hk0.serial, hk0.part, hk0.root, hk0.arb, hk0.draws⟩
theorem enterReserve_keeps {s0 s : State} (hk0 : Keeps s0 s) : Keeps s0 (enterReserve s) := by
  unfold enterReserve
  repeat' (first | with_reducible assumption | with_reducible apply reserveState_keeps | with_reducible apply discardTxn_keeps | with_reducible apply portsOff_keeps | with_reducible apply releaseOwnN_keeps | with_reducible apply setF_keeps | with_reducible apply startupEnd_keeps | with_reducible apply syncMode_keeps | with_reducible apply Keeps.foldl | (extract_lets +onlyGivenNames s1; clear_value (hs : s1 = _); refine Keeps.cut (s0 := s0) (x := s1) ?_ (fun k1 => ?_); (on_goal 1 => subst hs); (on_goal 2 => clear hs)) | (extract_lets +onlyGivenNames v1; first | (have _ : Clocks := v1; subst v1) | (have _ : Fuses := v1; subst v1) | clear_value v1 | subst v1) | intro _ _ _ | intro _ _)

theorem enterAutonomous_keeps {s0 s : State} (hk0 : Keeps s0 s) : Keeps s0 (enterAutonomous s) := by
  unfold enterAutonomous
  repeat' (first | with_reducible assumption | with_reducible apply setF_keeps | with_reducible apply startupEnd_keeps | with_reducible apply firstBoundary_keeps | with_reducible apply syncMode_keeps | with_reducible apply toStep_keeps | (extract_lets +onlyGivenNames s1; clear_value (hs : s1 = _); refine Keeps.cut (s0 := s0) (x := s1) ?_ (fun k1 => ?_); (on_goal 1 => subst hs); (on_goal 2 => clear hs)) | (extract_lets +onlyGivenNames v1; first | (have _ : Clocks := v1; subst v1) | (have _ : Fuses := v1; subst v1) | clear_value v1 | subst v1) | split | (unfold Keeps; dsimp only; with_reducible refine Keeps.of ?_))

theorem startGroup_keeps {s0 s : State} (hk0 : Keeps s0 s) : Keeps s0 (startGroup s) := by
  unfold startGroup
  repeat' (first | with_reducible assumption | with_reducible apply startCal_keeps | with_reducible apply Keeps.foldl | (extract_lets +onlyGivenNames s1; clear_value (hs : s1 = _); refine Keeps.cut (s0 := s0) (x := s1) ?_ (fun k1 => ?_); (on_goal 1 => subst hs); (on_goal 2 => clear hs)) | (extract_lets +onlyGivenNames v1; first | (have _ : Clocks := v1; subst v1) | (have _ : Fuses := v1; subst v1) | clear_value v1 | subst v1) | intro _ _ _ | intro _ _ | split | (unfold Keeps; dsimp only; with_reducible refine Keeps.of ?_))

theorem endCals_keeps {s0 s : State} (hk0 : Keeps s0 s) : Keeps s0 (endCals s) := by
  unfold endCals
  repeat' (first | with_reducible assumption | with_reducible apply startFail_keeps | with_reducible apply toStep_keeps | (extract_lets +onlyGivenNames s1; clear_value (hs : s1 = _); refine Keeps.cut (s0 := s0) (x := s1) ?_ (fun k1 => ?_); (on_goal 1 => subst hs); (on_goal 2 => clear hs)) | (extract_lets +onlyGivenNames v1; first | (have _ : Clocks := v1; subst v1) | (have _ : Fuses := v1; subst v1) | clear_value v1 | subst v1) | split)

theorem startCals_keeps {s0 s : State} (hk0 : Keeps s0 s) : Keeps s0 (startCals s) := by
  unfold startCals
  repeat' (first | with_reducible assumption | with_reducible apply toStep_keeps | with_reducible apply startFail_keeps | with_reducible apply updBoot_keeps | with_reducible apply endCals_keeps | with_reducible apply startGroup_keeps | (extract_lets +onlyGivenNames s1; clear_value (hs : s1 = _); refine Keeps.cut (s0 := s0) (x := s1) ?_ (fun k1 => ?_); (on_goal 1 => subst hs); (on_goal 2 => clear hs)) | (extract_lets +onlyGivenNames v1; first | (have _ : Clocks := v1; subst v1) | (have _ : Fuses := v1; subst v1) | clear_value v1 | subst v1) | split | (unfold Keeps; dsimp only; with_reducible refine Keeps.of ?_))

theorem bootCalEnded_keeps {s0 s : State} {n : Nat} {ok : Bool} (hk0 : Keeps s0 s) : Keeps s0 (bootCalEnded n ok s) := by
  unfold bootCalEnded
  repeat' (first | with_reducible assumption | with_reducible apply updBoot_keeps | with_reducible apply setF_keeps | with_reducible apply endCals_keeps | with_reducible apply startGroup_keeps | (extract_lets +onlyGivenNames s1; clear_value (hs : s1 = _); refine Keeps.cut (s0 := s0) (x := s1) ?_ (fun k1 => ?_); (on_goal 1 => subst hs); (on_goal 2 => clear hs)) | (extract_lets +onlyGivenNames v1; first | (have _ : Clocks := v1; subst v1) | (have _ : Fuses := v1; subst v1) | clear_value v1 | subst v1) | split | (unfold Keeps; dsimp only; with_reducible refine Keeps.of ?_))

theorem putDigest_keeps {s0 s : State} {digest : Nat} (hk0 : Keeps s0 s) : Keeps s0 (putDigest digest s) := by
  unfold putDigest
  repeat' (first | with_reducible assumption | with_reducible apply setF_keeps | with_reducible apply Keeps.foldl | (extract_lets +onlyGivenNames s1; clear_value (hs : s1 = _); refine Keeps.cut (s0 := s0) (x := s1) ?_ (fun k1 => ?_); (on_goal 1 => subst hs); (on_goal 2 => clear hs)) | (extract_lets +onlyGivenNames v1; first | (have _ : Clocks := v1; subst v1) | (have _ : Fuses := v1; subst v1) | clear_value v1 | subst v1) | intro _ _ _ | intro _ _)

theorem applyRegs_keeps {s0 s : State} {pos : Nat} {l : List (Word × Word)} (hk0 : Keeps s0 s) : KeepsOk s0 (applyRegs pos l s) := by
  induction l generalizing pos s with
  | nil => exact KeepsOk.mk hk0
  | cons e r ih =>
    unfold applyRegs
    split
    · exact KeepsOk.err
    · exact ih (putShadow_keeps hk0)
theorem applyTable_keeps {s0 s : State} {w pos off : Nat} {l : List Word} (hk0 : Keeps s0 s) : KeepsOk s0 (applyTable w pos off l s) := by
  induction l generalizing pos off s with
  | nil => exact KeepsOk.mk hk0
  | cons e r ih =>
    unfold applyTable
    split
    · exact KeepsOk.err
    · split
      · exact KeepsOk.err
      · exact ih (putShadow_keeps hk0)
theorem applySection_keeps {s0 s : State} {i : Nat} {x : ImageSection} (hk0 : Keeps s0 s) : KeepsOk s0 (applySection i x s) := by
  unfold applySection
  repeat' (first | with_reducible assumption | with_reducible apply applyRegs_keeps | (with_reducible refine KeepsOk.ok (applyRegs_keeps ?_) (by assumption)) | with_reducible apply applyTable_keeps | (with_reducible refine KeepsOk.ok (applyTable_keeps ?_) (by assumption)) | with_reducible exact KeepsOk.err | with_reducible apply KeepsOk.mk | (extract_lets +onlyGivenNames s1; clear_value (hs : s1 = _); refine Keeps.cut (s0 := s0) (x := s1) ?_ (fun k1 => ?_); (on_goal 1 => subst hs); (on_goal 2 => clear hs)) | (extract_lets +onlyGivenNames v1; first | (have _ : Clocks := v1; subst v1) | (have _ : Fuses := v1; subst v1) | clear_value v1 | subst v1) | split | (unfold Keeps; dsimp only; with_reducible refine Keeps.of ?_))

theorem applySections_keeps {s0 s : State} {i : Nat} {l : List ImageSection} (hk0 : Keeps s0 s) : KeepsOk s0 (applySections i l s) := by
  induction l generalizing i s with
  | nil => exact KeepsOk.mk hk0
  | cons e r ih =>
    unfold applySections
    split
    · exact KeepsOk.err
    · exact ih (KeepsOk.ok (applySection_keeps hk0) ‹_›)
theorem putBlobs_keeps {s0 s : State} {h : Nat} {l : List (List Byte)} (hk0 : Keeps s0 s) : Keeps s0 (putBlobs h l s) := by
  induction l generalizing h s with
  | nil => exact hk0
  | cons e r ih =>
    unfold putBlobs
    apply ih
    split
    · exact setBytes_keeps hk0
    · exact hk0
theorem putAllBlobs_keeps {s0 s : State} {l : List ImageSection} (hk0 : Keeps s0 s) : Keeps s0 (putAllBlobs l s) := by
  unfold putAllBlobs
  repeat' (first | with_reducible assumption | with_reducible apply putBlobs_keeps | with_reducible apply Keeps.foldl | (extract_lets +onlyGivenNames s1; clear_value (hs : s1 = _); refine Keeps.cut (s0 := s0) (x := s1) ?_ (fun k1 => ?_); (on_goal 1 => subst hs); (on_goal 2 => clear hs)) | (extract_lets +onlyGivenNames v1; first | (have _ : Clocks := v1; subst v1) | (have _ : Fuses := v1; subst v1) | clear_value v1 | subst v1) | intro _ _ _ | intro _ _ | split | (unfold Keeps; dsimp only; with_reducible refine Keeps.of ?_))

theorem closeTag0_keeps {s0 s : State} {result : Nat} (hk0 : Keeps s0 s) : Keeps s0 (closeTag0 result s) := by
  unfold closeTag0
  repeat' (first | with_reducible assumption | with_reducible apply setF_keeps | (extract_lets +onlyGivenNames s1; clear_value (hs : s1 = _); refine Keeps.cut (s0 := s0) (x := s1) ?_ (fun k1 => ?_); (on_goal 1 => subst hs); (on_goal 2 => clear hs)) | (extract_lets +onlyGivenNames v1; first | (have _ : Clocks := v1; subst v1) | (have _ : Fuses := v1; subst v1) | clear_value v1 | subst v1) | (unfold Keeps; dsimp only; with_reducible refine Keeps.of ?_))

theorem applyFail_keeps {s0 s : State} {code pos : Nat} (hk0 : Keeps s0 s) : Keeps s0 (applyFail code pos s) := by
  unfold applyFail
  repeat' (first | with_reducible assumption | with_reducible apply startFail_keeps | with_reducible apply closeTag0_keeps | with_reducible apply setF_keeps)

theorem applyImage_keeps {s0 s : State} {v : CopyView} (hk0 : Keeps s0 s) : Keeps s0 (applyImage v s) := by
  unfold applyImage
  repeat' (first | with_reducible assumption | with_reducible apply applySections_keeps | (with_reducible refine KeepsOk.ok (applySections_keeps ?_) (by assumption)) | with_reducible apply applyFail_keeps | with_reducible apply tryCommit_keeps | (with_reducible refine KeepsOpt.getD (tryCommit_keeps ?_) ?_) | (with_reducible refine KeepsOpt.some (tryCommit_keeps ?_) (by assumption)) | with_reducible apply startCals_keeps | with_reducible apply putAllBlobs_keeps | with_reducible apply closeTag0_keeps | (extract_lets +onlyGivenNames s1; clear_value (hs : s1 = _); refine Keeps.cut (s0 := s0) (x := s1) ?_ (fun k1 => ?_); (on_goal 1 => subst hs); (on_goal 2 => clear hs)) | (extract_lets +onlyGivenNames v1; first | (have _ : Clocks := v1; subst v1) | (have _ : Fuses := v1; subst v1) | clear_value v1 | subst v1) | split | (unfold Keeps; dsimp only; with_reducible refine Keeps.of ?_))

theorem loadEntry_keeps {s0 : State} {p : State × Option Nat} {x : Nat × List Byte} (hk0 : Keeps1 s0 p) : Keeps1 s0 (loadEntry p x) := by
  obtain ⟨s, dup⟩ := p
  unfold loadEntry
  have h : Keeps s0 s := hk0
  dsimp only
  split
  · exact hk0
  · split
    · exact Keeps1.mk (setBytes_keeps (incF_keeps h))
    · exact Keeps1.mk (recount_keeps (setBytes_keeps h))
theorem loadStore_keeps {s0 s : State} {es : List (Nat × List Byte)} (hk0 : Keeps s0 s) : Keeps1 s0 (loadStore es s) := by
  unfold loadStore
  have k (p : State × Option Nat) (h : Keeps1 s0 p) : Keeps1 s0 (es.foldl loadEntry p) := by
    induction es generalizing p with
    | nil => exact h
    | cons e es ih => exact ih _ (loadEntry_keeps h)
  exact k _ hk0
theorem countLoad_keeps {s0 s : State} (hk0 : Keeps s0 s) : Keeps s0 (countLoad s) := by
  unfold countLoad
  repeat' (first | with_reducible assumption | with_reducible apply updTamp_keeps | with_reducible apply setF_keeps | (extract_lets +onlyGivenNames s1; clear_value (hs : s1 = _); refine Keeps.cut (s0 := s0) (x := s1) ?_ (fun k1 => ?_); (on_goal 1 => subst hs); (on_goal 2 => clear hs)) | (extract_lets +onlyGivenNames v1; first | (have _ : Clocks := v1; subst v1) | (have _ : Fuses := v1; subst v1) | clear_value v1 | subst v1) | (unfold Keeps; dsimp only; with_reducible refine Keeps.of ?_))

theorem warmLoad_keeps {s0 s : State} {v : CopyView} {es : List (Nat × List Byte)} {digestOk : Bool} (hk0 : Keeps s0 s) : Keeps s0 (warmLoad v es digestOk s) := by
  unfold warmLoad
  split
  · exact toStep_keeps hk0
  · split
    · exact startFail_keeps hk0
    · have k1 : Keeps1 s0 (loadStore (es.filter fun x => decide (x.1 < v.catEntries)) s) := loadStore_keeps hk0
      revert k1
      generalize loadStore (es.filter fun x => decide (x.1 < v.catEntries)) s = y
      intro k1
      obtain ⟨z, d⟩ := y
      replace k1 : Keeps s0 z := k1
      dsimp only
      apply toStep_keeps
      cases d with
      | none => exact countLoad_keeps k1
      | some n => exact notify_keeps (countLoad_keeps k1)

end Sys2Proof.Machine
end

