-- ==== Sys2Proof/Laws/KeepsCipher.lean ====
section
/-! SUPPORT. What the operations of Machine/Cipher.lean keep. -/

set_option linter.unusedTactic false
set_option linter.unreachableTactic false
set_option linter.unusedVariables false

namespace Sys2Proof.Machine

theorem execLaneMismatch_keeps {s0 s : State} {dt : Nat} {job : Option (BitVec 12)} (hk0 : Keeps s0 s) : KeepsNext s0 (execLaneMismatch dt job s) := by
  unfold execLaneMismatch
  repeat' (first | with_reducible assumption | with_reducible apply elapse_keeps | with_reducible apply laneMismatch_keeps | with_reducible apply KeepsNext.next | (extract_lets +onlyGivenNames s1; clear_value (hs : s1 = _); refine Keeps.cut (s0 := s0) (x := s1) ?_ (fun k1 => ?_); (on_goal 1 => subst hs); (on_goal 2 => clear hs)) | (extract_lets +onlyGivenNames v1; first | (have _ : Clocks := v1; subst v1) | (have _ : Fuses := v1; subst v1) | clear_value v1 | subst v1) | split | (unfold Keeps; dsimp only; with_reducible refine Keeps.of ?_))

theorem execKatRunStart_keeps {s0 s : State} {dt : Nat} (hk0 : Keeps s0 s) : KeepsNext s0 (execKatRunStart dt s) := by
  unfold execKatRunStart
  repeat' (first | with_reducible assumption | with_reducible apply elapse_keeps | with_reducible apply updCph_keeps | with_reducible apply incF_keeps | with_reducible apply laneMismatch_keeps | with_reducible apply syncCph_keeps | with_reducible apply KeepsNext.next | (extract_lets +onlyGivenNames s1; clear_value (hs : s1 = _); refine Keeps.cut (s0 := s0) (x := s1) ?_ (fun k1 => ?_); (on_goal 1 => subst hs); (on_goal 2 => clear hs)) | (extract_lets +onlyGivenNames v1; first | (have _ : Clocks := v1; subst v1) | (have _ : Fuses := v1; subst v1) | clear_value v1 | subst v1) | split | (unfold Keeps; dsimp only; with_reducible refine Keeps.of ?_))

theorem execKatExclusiveTake_keeps {s0 s : State} {dt : Nat} (hk0 : Keeps s0 s) : KeepsNext s0 (execKatExclusiveTake dt s) := by
  unfold execKatExclusiveTake
  repeat' (first | with_reducible assumption | with_reducible apply elapse_keeps | with_reducible apply updCph_keeps | with_reducible apply incF_keeps | with_reducible apply syncCph_keeps | with_reducible apply setJob_keeps | with_reducible apply KeepsNext.next | with_reducible apply Keeps.foldl | (extract_lets +onlyGivenNames s1; clear_value (hs : s1 = _); refine Keeps.cut (s0 := s0) (x := s1) ?_ (fun k1 => ?_); (on_goal 1 => subst hs); (on_goal 2 => clear hs)) | (extract_lets +onlyGivenNames v1; first | (have _ : Clocks := v1; subst v1) | (have _ : Fuses := v1; subst v1) | clear_value v1 | subst v1) | split | intro _ _ _ | intro _ _ | (unfold Keeps; dsimp only; with_reducible refine Keeps.of ?_))

theorem execKatRunEnd_keeps {s0 s : State} {dt : Nat} {failed : Option (Fin 16)} (hk0 : Keeps s0 s) : KeepsNext s0 (execKatRunEnd dt failed s) := by
  unfold execKatRunEnd
  repeat' (first | with_reducible assumption | with_reducible apply elapse_keeps | with_reducible apply updCph_keeps | with_reducible apply addF_keeps | with_reducible apply syncCph_keeps | with_reducible apply setF_keeps | with_reducible apply laneFault_keeps | with_reducible apply KeepsNext.next | (extract_lets +onlyGivenNames s1; clear_value (hs : s1 = _); refine Keeps.cut (s0 := s0) (x := s1) ?_ (fun k1 => ?_); (on_goal 1 => subst hs); (on_goal 2 => clear hs)) | (extract_lets +onlyGivenNames v1; first | (have _ : Clocks := v1; subst v1) | (have _ : Fuses := v1; subst v1) | clear_value v1 | subst v1) | split | (unfold Keeps; dsimp only; with_reducible refine Keeps.of ?_))

theorem writeInject_keeps {s0 s : State} {m : Master} {w : Word} (hk0 : Keeps s0 s) : Keeps s0 (writeInject m w s) := by
  unfold writeInject
  repeat' (first | with_reducible assumption | with_reducible apply ignored_keeps | with_reducible apply updCph_keeps | with_reducible apply laneMismatch_keeps | (extract_lets +onlyGivenNames s1; clear_value (hs : s1 = _); refine Keeps.cut (s0 := s0) (x := s1) ?_ (fun k1 => ?_); (on_goal 1 => subst hs); (on_goal 2 => clear hs)) | (extract_lets +onlyGivenNames v1; first | (have _ : Clocks := v1; subst v1) | (have _ : Fuses := v1; subst v1) | clear_value v1 | subst v1) | split | (unfold Keeps; dsimp only; with_reducible refine Keeps.of ?_))

theorem execCphInject_keeps {s0 s : State} {dt : Nat} {m : Master} {w : Word} (hk0 : Keeps s0 s) : KeepsNext s0 (execCphInject dt m w s) := by
  unfold execCphInject
  repeat' (first | with_reducible assumption | with_reducible apply gatedWrite_keeps | with_reducible apply writeInject_keeps | with_reducible apply elapse_keeps | with_reducible apply KeepsNext.next | intro _ _ _ | intro _ _)


end Sys2Proof.Machine
end

