-- ==== Sys2Proof/Laws/KeepsDma.lean ====
section
/-! SUPPORT. What the operations of Machine/Dma.lean keep. -/

set_option linter.unusedTactic false
set_option linter.unreachableTactic false
set_option linter.unusedVariables false

namespace Sys2Proof.Machine

theorem execDramInitBlock_keeps {s0 s : State} {dt : Nat} {block : BitVec 16} (hk0 : Keeps s0 s) : KeepsNext s0 (execDramInitBlock dt block s) := by
  unfold execDramInitBlock
  repeat' (first | with_reducible assumption | with_reducible apply elapse_keeps | with_reducible apply markBlock_keeps | with_reducible apply setF_keeps | with_reducible apply KeepsNext.next | (extract_lets +onlyGivenNames s1; clear_value (hs : s1 = _); refine Keeps.cut (s0 := s0) (x := s1) ?_ (fun k1 => ?_); (on_goal 1 => subst hs); (on_goal 2 => clear hs)) | (extract_lets +onlyGivenNames v1; first | (have _ : Clocks := v1; subst v1) | (have _ : Fuses := v1; subst v1) | clear_value v1 | subst v1) | split | (unfold Keeps; dsimp only; with_reducible refine Keeps.of ?_))

theorem poisonWords_keeps {s0 s : State} {ws : List Nat} (hk0 : Keeps s0 s) : Keeps s0 (poisonWords ws s) := by
  unfold poisonWords
  repeat' (first | with_reducible assumption | with_reducible apply Keeps.foldl | (extract_lets +onlyGivenNames s1; clear_value (hs : s1 = _); refine Keeps.cut (s0 := s0) (x := s1) ?_ (fun k1 => ?_); (on_goal 1 => subst hs); (on_goal 2 => clear hs)) | (extract_lets +onlyGivenNames v1; first | (have _ : Clocks := v1; subst v1) | (have _ : Fuses := v1; subst v1) | clear_value v1 | subst v1) | intro _ _ _ | intro _ _ | (unfold Keeps; dsimp only; with_reducible refine Keeps.of ?_))

theorem scrubNext_keeps {s0 s : State} (hk0 : Keeps s0 s) : Keeps s0 (scrubNext s) := by
  unfold scrubNext
  repeat' (first | with_reducible assumption | with_reducible apply setF_keeps | with_reducible apply incF_keeps | (extract_lets +onlyGivenNames s1; clear_value (hs : s1 = _); refine Keeps.cut (s0 := s0) (x := s1) ?_ (fun k1 => ?_); (on_goal 1 => subst hs); (on_goal 2 => clear hs)) | (extract_lets +onlyGivenNames v1; first | (have _ : Clocks := v1; subst v1) | (have _ : Fuses := v1; subst v1) | clear_value v1 | subst v1) | split | (unfold Keeps; dsimp only; with_reducible refine Keeps.of ?_))

theorem execScrubRead_keeps {s0 s : State} {dt : Nat} {ue ce : BitVec 8} (hk0 : Keeps s0 s) : KeepsNext s0 (execScrubRead dt ue ce s) := by
  unfold execScrubRead
  repeat' (first | with_reducible assumption | with_reducible apply elapse_keeps | with_reducible apply poisonWords_keeps | with_reducible apply foundUe_keeps | with_reducible apply foundCe_keeps | with_reducible apply scrubNext_keeps | with_reducible apply KeepsNext.next | with_reducible apply Keeps.foldl | (extract_lets +onlyGivenNames s1; clear_value (hs : s1 = _); refine Keeps.cut (s0 := s0) (x := s1) ?_ (fun k1 => ?_); (on_goal 1 => subst hs); (on_goal 2 => clear hs)) | (extract_lets +onlyGivenNames v1; first | (have _ : Clocks := v1; subst v1) | (have _ : Fuses := v1; subst v1) | clear_value v1 | subst v1) | split | intro _ _ _ | intro _ _)

theorem execScrubLate_keeps {s0 s : State} {dt : Nat} (hk0 : Keeps s0 s) : KeepsNext s0 (execScrubLate dt s) := by
  unfold execScrubLate
  repeat' (first | with_reducible assumption | with_reducible apply elapse_keeps | with_reducible apply enterSafe_keeps | with_reducible apply notify_keeps | with_reducible apply KeepsNext.next | (extract_lets +onlyGivenNames s1; clear_value (hs : s1 = _); refine Keeps.cut (s0 := s0) (x := s1) ?_ (fun k1 => ?_); (on_goal 1 => subst hs); (on_goal 2 => clear hs)) | (extract_lets +onlyGivenNames v1; first | (have _ : Clocks := v1; subst v1) | (have _ : Fuses := v1; subst v1) | clear_value v1 | subst v1) | split | (unfold Keeps; dsimp only; with_reducible refine Keeps.of ?_))

theorem execCeRate_keeps {s0 s : State} {dt : Nat} (hk0 : Keeps s0 s) : KeepsNext s0 (execCeRate dt s) := by
  unfold execCeRate
  repeat' (first | with_reducible assumption | with_reducible apply elapse_keeps | with_reducible apply notify_keeps | with_reducible apply KeepsNext.next | (extract_lets +onlyGivenNames s1; clear_value (hs : s1 = _); refine Keeps.cut (s0 := s0) (x := s1) ?_ (fun k1 => ?_); (on_goal 1 => subst hs); (on_goal 2 => clear hs)) | (extract_lets +onlyGivenNames v1; first | (have _ : Clocks := v1; subst v1) | (have _ : Fuses := v1; subst v1) | clear_value v1 | subst v1) | split | (unfold Keeps; dsimp only; with_reducible refine Keeps.of ?_))

theorem execDmaChunk_keeps {s0 s : State} {dt : Nat} {id : BitVec 12} {hostData : List Byte} {hostErr : Option Bool} {upset : List (BitVec 29)} (hk0 : Keeps s0 s) : KeepsNext s0 (execDmaChunk dt id hostData hostErr upset s) := by
  unfold execDmaChunk
  repeat' (first | with_reducible assumption | with_reducible apply poisonWords_keeps | with_reducible apply elapse_keeps | with_reducible apply consumeJob_keeps | with_reducible apply dmaChunk_keeps | with_reducible apply hostErr_keeps | with_reducible apply KeepsNext.next | (extract_lets +onlyGivenNames s1; clear_value (hs : s1 = _); refine Keeps.cut (s0 := s0) (x := s1) ?_ (fun k1 => ?_); (on_goal 1 => subst hs); (on_goal 2 => clear hs)) | (extract_lets +onlyGivenNames v1; first | (have _ : Clocks := v1; subst v1) | (have _ : Fuses := v1; subst v1) | clear_value v1 | subst v1) | split | (unfold Keeps; dsimp only; with_reducible refine Keeps.of ?_))

theorem execHostReadTimeout_keeps {s0 s : State} {dt : Nat} {id : BitVec 12} (hk0 : Keeps s0 s) : KeepsNext s0 (execHostReadTimeout dt id s) := by
  unfold execHostReadTimeout
  repeat' (first | with_reducible assumption | with_reducible apply elapse_keeps | with_reducible apply consumeJob_keeps | with_reducible apply dmaChunk_keeps | with_reducible apply KeepsNext.next | (extract_lets +onlyGivenNames s1; clear_value (hs : s1 = _); refine Keeps.cut (s0 := s0) (x := s1) ?_ (fun k1 => ?_); (on_goal 1 => subst hs); (on_goal 2 => clear hs)) | (extract_lets +onlyGivenNames v1; first | (have _ : Clocks := v1; subst v1) | (have _ : Fuses := v1; subst v1) | clear_value v1 | subst v1) | split | (unfold Keeps; dsimp only; with_reducible refine Keeps.of ?_))

theorem writeFence_keeps {s0 s : State} {w : Word} (hk0 : Keeps s0 s) : Keeps s0 (writeFence w s) := by
  unfold writeFence
  repeat' (first | with_reducible assumption | with_reducible apply setF_keeps | with_reducible apply incF_keeps | with_reducible apply Keeps.foldl | (extract_lets +onlyGivenNames s1; clear_value (hs : s1 = _); refine Keeps.cut (s0 := s0) (x := s1) ?_ (fun k1 => ?_); (on_goal 1 => subst hs); (on_goal 2 => clear hs)) | (extract_lets +onlyGivenNames v1; first | (have _ : Clocks := v1; subst v1) | (have _ : Fuses := v1; subst v1) | clear_value v1 | subst v1) | intro _ _ _ | intro _ _ | split | (unfold Keeps; dsimp only; with_reducible refine Keeps.of ?_))

theorem execBmpHwinFence_keeps {s0 s : State} {dt : Nat} {m : Master} {w : Word} (hk0 : Keeps s0 s) : KeepsNext s0 (execBmpHwinFence dt m w s) := by
  unfold execBmpHwinFence
  repeat' (first | with_reducible assumption | with_reducible apply gatedWrite_keeps | with_reducible apply writeFence_keeps | with_reducible apply elapse_keeps | with_reducible apply KeepsNext.next | intro _ _ _ | intro _ _)

theorem execFenceDone_keeps {s0 s : State} {dt : Nat} {ctx : Fin 16} (hk0 : Keeps s0 s) : KeepsNext s0 (execFenceDone dt ctx s) := by
  unfold execFenceDone
  repeat' (first | with_reducible assumption | with_reducible apply elapse_keeps | with_reducible apply setF_keeps | with_reducible apply KeepsNext.next | (extract_lets +onlyGivenNames s1; clear_value (hs : s1 = _); refine Keeps.cut (s0 := s0) (x := s1) ?_ (fun k1 => ?_); (on_goal 1 => subst hs); (on_goal 2 => clear hs)) | (extract_lets +onlyGivenNames v1; first | (have _ : Clocks := v1; subst v1) | (have _ : Fuses := v1; subst v1) | clear_value v1 | subst v1) | split)


end Sys2Proof.Machine
end

