-- ==== Sys2Proof/Laws/KeepsFreeze.lean ====
section
/-! SUPPORT. What the operations of Machine/Freeze.lean keep. -/

set_option linter.unusedTactic false
set_option linter.unreachableTactic false
set_option linter.unusedVariables false

namespace Sys2Proof.Machine

theorem freeze_keeps {s0 s : State} {source : Nat} {edgeOk : Bool} (hk0 : Keeps s0 s) : Keeps s0 (freeze source edgeOk s) := by
  unfold freeze
  repeat' (first | with_reducible assumption | with_reducible apply setF_keeps | with_reducible apply set64_keeps | with_reducible apply dropReq_keeps | with_reducible apply requestTakeover_keeps | with_reducible apply releaseOwnN_keeps | with_reducible apply zeroiseAll_keeps | with_reducible apply abandonTakeover_keeps | with_reducible apply logEntry_keeps | with_reducible apply Keeps.foldl | (extract_lets +onlyGivenNames s1; clear_value (hs : s1 = _); refine Keeps.cut (s0 := s0) (x := s1) ?_ (fun k1 => ?_); (on_goal 1 => subst hs); (on_goal 2 => clear hs)) | (extract_lets +onlyGivenNames v1; first | (have _ : Clocks := v1; subst v1) | (have _ : Fuses := v1; subst v1) | clear_value v1 | subst v1) | intro _ _ _ | intro _ _ | split | (unfold Keeps; dsimp only; with_reducible refine Keeps.of ?_))

theorem execFreezeNAssert_keeps {s0 s : State} {dt : Nat} {edgeOk : Bool} (hk0 : Keeps s0 s) : KeepsNext s0 (execFreezeNAssert dt edgeOk s) := by
  unfold execFreezeNAssert
  repeat' (first | with_reducible assumption | with_reducible apply freeze_keeps | with_reducible apply elapse_keeps | with_reducible apply KeepsNext.next)

theorem writeFrzCmd_keeps {s0 s : State} {m : Master} {w : Word} {edgeOk : Bool} (hk0 : Keeps s0 s) : Keeps s0 (writeFrzCmd m w edgeOk s) := by
  unfold writeFrzCmd
  repeat' (first | with_reducible assumption | with_reducible apply freeze_keeps | with_reducible apply ignored_keeps | (extract_lets +onlyGivenNames s1; clear_value (hs : s1 = _); refine Keeps.cut (s0 := s0) (x := s1) ?_ (fun k1 => ?_); (on_goal 1 => subst hs); (on_goal 2 => clear hs)) | (extract_lets +onlyGivenNames v1; first | (have _ : Clocks := v1; subst v1) | (have _ : Fuses := v1; subst v1) | clear_value v1 | subst v1) | split | (unfold Keeps; dsimp only; with_reducible refine Keeps.of ?_))

theorem execFrzCmd_keeps {s0 s : State} {dt : Nat} {m : Master} {w : Word} {edgeOk : Bool} (hk0 : Keeps s0 s) : KeepsNext s0 (execFrzCmd dt m w edgeOk s) := by
  unfold execFrzCmd
  repeat' (first | with_reducible assumption | with_reducible apply gatedWrite_keeps | with_reducible apply writeFrzCmd_keeps | with_reducible apply elapse_keeps | with_reducible apply KeepsNext.next | intro _ _ _ | intro _ _)

theorem execFreezeDelayExpire_keeps {s0 s : State} {dt : Nat} {edgeOk : Bool} (hk0 : Keeps s0 s) : KeepsNext s0 (execFreezeDelayExpire dt edgeOk s) := by
  unfold execFreezeDelayExpire
  repeat' (first | with_reducible assumption | with_reducible apply elapse_keeps | with_reducible apply freeze_keeps | with_reducible apply KeepsNext.next | (extract_lets +onlyGivenNames s1; clear_value (hs : s1 = _); refine Keeps.cut (s0 := s0) (x := s1) ?_ (fun k1 => ?_); (on_goal 1 => subst hs); (on_goal 2 => clear hs)) | (extract_lets +onlyGivenNames v1; first | (have _ : Clocks := v1; subst v1) | (have _ : Fuses := v1; subst v1) | clear_value v1 | subst v1) | split | (unfold Keeps; dsimp only; with_reducible refine Keeps.of ?_))

theorem startFetch_keeps {s0 s : State} (hk0 : Keeps s0 s) : Keeps s0 (startFetch s) := by
  unfold startFetch
  repeat' (first | with_reducible assumption | with_reducible apply setF_keeps | (extract_lets +onlyGivenNames s1; clear_value (hs : s1 = _); refine Keeps.cut (s0 := s0) (x := s1) ?_ (fun k1 => ?_); (on_goal 1 => subst hs); (on_goal 2 => clear hs)) | (extract_lets +onlyGivenNames v1; first | (have _ : Clocks := v1; subst v1) | (have _ : Fuses := v1; subst v1) | clear_value v1 | subst v1) | (unfold Keeps; dsimp only; with_reducible refine Keeps.of ?_))

theorem writeFrzVsel_keeps {s0 s : State} {m : Master} {w : Word} (hk0 : Keeps s0 s) : Keeps s0 (writeFrzVsel m w s) := by
  unfold writeFrzVsel
  repeat' (first | with_reducible assumption | with_reducible apply startFetch_keeps | with_reducible apply setReg_keeps | with_reducible apply ignored_keeps | split)

theorem execFrzVselWrite_keeps {s0 s : State} {dt : Nat} {m : Master} {w : Word} (hk0 : Keeps s0 s) : KeepsNext s0 (execFrzVselWrite dt m w s) := by
  unfold execFrzVselWrite
  repeat' (first | with_reducible assumption | with_reducible apply gatedWrite_keeps | with_reducible apply writeFrzVsel_keeps | with_reducible apply elapse_keeps | with_reducible apply KeepsNext.next | intro _ _ _ | intro _ _)

theorem putChunk_keeps {s0 s : State} {k : Nat} {l : List Word} (hk0 : Keeps s0 s) : Keeps s0 (putChunk k l s) := by
  induction l generalizing k s with
  | nil => exact hk0
  | cons e r ih => unfold putChunk; exact ih (setReg_keeps hk0)
theorem fetchDone_keeps {s0 s : State} (hk0 : Keeps s0 s) : Keeps s0 (fetchDone s) := by
  unfold fetchDone
  repeat' (first | with_reducible assumption | with_reducible apply setF_keeps | with_reducible apply putChunk_keeps | with_reducible apply satF_keeps | (extract_lets +onlyGivenNames s1; clear_value (hs : s1 = _); refine Keeps.cut (s0 := s0) (x := s1) ?_ (fun k1 => ?_); (on_goal 1 => subst hs); (on_goal 2 => clear hs)) | (extract_lets +onlyGivenNames v1; first | (have _ : Clocks := v1; subst v1) | (have _ : Fuses := v1; subst v1) | clear_value v1 | subst v1) | split | (unfold Keeps; dsimp only; with_reducible refine Keeps.of ?_))

theorem execChunkFetchDone_keeps {s0 s : State} {dt : Nat} (hk0 : Keeps s0 s) : KeepsNext s0 (execChunkFetchDone dt s) := by
  unfold execChunkFetchDone
  repeat' (first | with_reducible assumption | with_reducible apply elapse_keeps | with_reducible apply fetchDone_keeps | with_reducible apply KeepsNext.next | (extract_lets +onlyGivenNames s1; clear_value (hs : s1 = _); refine Keeps.cut (s0 := s0) (x := s1) ?_ (fun k1 => ?_); (on_goal 1 => subst hs); (on_goal 2 => clear hs)) | (extract_lets +onlyGivenNames v1; first | (have _ : Clocks := v1; subst v1) | (have _ : Fuses := v1; subst v1) | clear_value v1 | subst v1) | split)

theorem readVdata0_keeps {s0 s : State} (hk0 : Keeps s0 s) : Keeps2 s0 (readVdata0 s) := by
  unfold readVdata0
  repeat' (first | with_reducible assumption | with_reducible apply fetchDone_keeps | (extract_lets +onlyGivenNames s1; clear_value (hs : s1 = _); refine Keeps.cut (s0 := s0) (x := s1) ?_ (fun k1 => ?_); (on_goal 1 => subst hs); (on_goal 2 => clear hs)) | (extract_lets +onlyGivenNames v1; first | (have _ : Clocks := v1; subst v1) | (have _ : Fuses := v1; subst v1) | clear_value v1 | subst v1) | split | with_reducible apply Keeps2.mk)

theorem readVdata15_keeps {s0 s : State} (hk0 : Keeps s0 s) : Keeps2 s0 (readVdata15 s) := by
  unfold readVdata15
  repeat' (first | with_reducible assumption | with_reducible apply startFetch_keeps | with_reducible apply incF_keeps | split | with_reducible apply Keeps2.mk)

theorem execFrzVdata15Read_keeps {s0 s : State} {dt : Nat} {m : Master} (hk0 : Keeps s0 s) : KeepsNext s0 (execFrzVdata15Read dt m s) := by
  unfold execFrzVdata15Read
  repeat' (first | with_reducible assumption | with_reducible apply readVdata15_keeps | (with_reducible refine Keeps2.snd (readVdata15_keeps ?_) (by assumption)) | (with_reducible refine Keeps.of2 (readVdata15_keeps ?_)) | with_reducible apply elapse_keeps | with_reducible apply emit_keeps | with_reducible apply KeepsNext.next | (extract_lets +onlyGivenNames s1; clear_value (hs : s1 = _); refine Keeps.cut (s0 := s0) (x := s1) ?_ (fun k1 => ?_); (on_goal 1 => subst hs); (on_goal 2 => clear hs)) | (extract_lets +onlyGivenNames v1; first | (have _ : Clocks := v1; subst v1) | (have _ : Fuses := v1; subst v1) | clear_value v1 | subst v1) | split | (with_reducible refine Keeps2.snd ?_ (by assumption)) | with_reducible apply Keeps2.mk)


end Sys2Proof.Machine
end

