-- ==== Sys2Proof/Laws/KeepsJobs.lean ====
section
/-! SUPPORT. What the operations of Machine/Jobs.lean keep. -/

set_option linter.unusedTactic false
set_option linter.unreachableTactic false
set_option linter.unusedVariables false

namespace Sys2Proof.Machine

theorem execJobCreate_keeps {s0 s : State} {dt : Nat} {cls : Fin 16} {svc : Option (Fin 8)} {creator : BitVec 16} {buf0 buf1 : Word} {args : List Byte} (hk0 : Keeps s0 s) : KeepsNext s0 (execJobCreate dt cls svc creator buf0 buf1 args s) := by
  unfold execJobCreate
  repeat' (first | with_reducible assumption | with_reducible apply elapse_keeps | with_reducible apply createJob_keeps | with_reducible apply KeepsNext.next | (extract_lets +onlyGivenNames s1; clear_value (hs : s1 = _); refine Keeps.cut (s0 := s0) (x := s1) ?_ (fun k1 => ?_); (on_goal 1 => subst hs); (on_goal 2 => clear hs)) | (extract_lets +onlyGivenNames v1; first | (have _ : Clocks := v1; subst v1) | (have _ : Fuses := v1; subst v1) | clear_value v1 | subst v1) | split | (unfold Keeps; dsimp only; with_reducible refine Keeps.of ?_))

theorem execJobDispatch_keeps {s0 s : State} {dt : Nat} {cls : Fin 16} (hk0 : Keeps s0 s) : KeepsNext s0 (execJobDispatch dt cls s) := by
  unfold execJobDispatch
  repeat' (first | with_reducible assumption | with_reducible apply elapse_keeps | with_reducible apply dispatch_keeps | with_reducible apply KeepsNext.next | (extract_lets +onlyGivenNames s1; clear_value (hs : s1 = _); refine Keeps.cut (s0 := s0) (x := s1) ?_ (fun k1 => ?_); (on_goal 1 => subst hs); (on_goal 2 => clear hs)) | (extract_lets +onlyGivenNames v1; first | (have _ : Clocks := v1; subst v1) | (have _ : Fuses := v1; subst v1) | clear_value v1 | subst v1) | split)

theorem execJobPreempt_keeps {s0 s : State} {dt : Nat} {id : BitVec 12} {progress : List Byte} (hk0 : Keeps s0 s) : KeepsNext s0 (execJobPreempt dt id progress s) := by
  unfold execJobPreempt
  repeat' (first | with_reducible assumption | with_reducible apply elapse_keeps | with_reducible apply preemptPoint_keeps | with_reducible apply KeepsNext.next | (extract_lets +onlyGivenNames s1; clear_value (hs : s1 = _); refine Keeps.cut (s0 := s0) (x := s1) ?_ (fun k1 => ?_); (on_goal 1 => subst hs); (on_goal 2 => clear hs)) | (extract_lets +onlyGivenNames v1; first | (have _ : Clocks := v1; subst v1) | (have _ : Fuses := v1; subst v1) | clear_value v1 | subst v1) | split | (unfold Keeps; dsimp only; with_reducible refine Keeps.of ?_))

theorem execJobFault_keeps {s0 s : State} {dt : Nat} {id : BitVec 12} {ecc : Bool} {detail : BitVec 8} {faultAt : Word} (hk0 : Keeps s0 s) : KeepsNext s0 (execJobFault dt id ecc detail faultAt s) := by
  unfold execJobFault
  repeat' (first | with_reducible assumption | with_reducible apply elapse_keeps | with_reducible apply cancelNow_keeps | with_reducible apply dmaPark_keeps | with_reducible apply KeepsNext.next | (extract_lets +onlyGivenNames s1; clear_value (hs : s1 = _); refine Keeps.cut (s0 := s0) (x := s1) ?_ (fun k1 => ?_); (on_goal 1 => subst hs); (on_goal 2 => clear hs)) | (extract_lets +onlyGivenNames v1; first | (have _ : Clocks := v1; subst v1) | (have _ : Fuses := v1; subst v1) | clear_value v1 | subst v1) | split | (unfold Keeps; dsimp only; with_reducible refine Keeps.of ?_))

theorem execJobStall_keeps {s0 s : State} {dt : Nat} {id : BitVec 12} {ns : Nat} (hk0 : Keeps s0 s) : KeepsNext s0 (execJobStall dt id ns s) := by
  unfold execJobStall
  repeat' (first | with_reducible assumption | with_reducible apply elapse_keeps | with_reducible apply enterSafe_keeps | with_reducible apply notify_keeps | with_reducible apply incF_keeps | with_reducible apply KeepsNext.next | (extract_lets +onlyGivenNames s1; clear_value (hs : s1 = _); refine Keeps.cut (s0 := s0) (x := s1) ?_ (fun k1 => ?_); (on_goal 1 => subst hs); (on_goal 2 => clear hs)) | (extract_lets +onlyGivenNames v1; first | (have _ : Clocks := v1; subst v1) | (have _ : Fuses := v1; subst v1) | clear_value v1 | subst v1) | split | (unfold Keeps; dsimp only; with_reducible refine Keeps.of ?_))

theorem execJobComplete_keeps {s0 s : State} {dt : Nat} {id : BitVec 12} {status detail : BitVec 8} {result : List Byte} (hk0 : Keeps s0 s) : KeepsNext s0 (execJobComplete dt id status detail result s) := by
  unfold execJobComplete
  repeat' (first | with_reducible assumption | with_reducible apply elapse_keeps | with_reducible apply finishJob_keeps | with_reducible apply KeepsNext.next | (extract_lets +onlyGivenNames s1; clear_value (hs : s1 = _); refine Keeps.cut (s0 := s0) (x := s1) ?_ (fun k1 => ?_); (on_goal 1 => subst hs); (on_goal 2 => clear hs)) | (extract_lets +onlyGivenNames v1; first | (have _ : Clocks := v1; subst v1) | (have _ : Fuses := v1; subst v1) | clear_value v1 | subst v1) | split | (unfold Keeps; dsimp only; with_reducible refine Keeps.of ?_))

theorem execJobWriteback_keeps {s0 s : State} {dt : Nat} {id : BitVec 12} (hk0 : Keeps s0 s) : KeepsNext s0 (execJobWriteback dt id s) := by
  unfold execJobWriteback
  repeat' (first | with_reducible assumption | with_reducible apply elapse_keeps | with_reducible apply foundUe_keeps | with_reducible apply writeDram_keeps | with_reducible apply freeJob_keeps | with_reducible apply notify_keeps | with_reducible apply KeepsNext.next | (extract_lets +onlyGivenNames s1; clear_value (hs : s1 = _); refine Keeps.cut (s0 := s0) (x := s1) ?_ (fun k1 => ?_); (on_goal 1 => subst hs); (on_goal 2 => clear hs)) | (extract_lets +onlyGivenNames v1; first | (have _ : Clocks := v1; subst v1) | (have _ : Fuses := v1; subst v1) | clear_value v1 | subst v1) | split | (unfold Keeps; dsimp only; with_reducible refine Keeps.of ?_))

theorem subOutcome_keeps {s0 s : State} {m : Master} {status reason id : Nat} (hk0 : Keeps s0 s) : Keeps s0 (subOutcome m status reason id s) := by
  unfold subOutcome
  repeat' (first | with_reducible assumption | with_reducible apply incF_keeps | with_reducible apply setReg_keeps | (extract_lets +onlyGivenNames s1; clear_value (hs : s1 = _); refine Keeps.cut (s0 := s0) (x := s1) ?_ (fun k1 => ?_); (on_goal 1 => subst hs); (on_goal 2 => clear hs)) | (extract_lets +onlyGivenNames v1; first | (have _ : Clocks := v1; subst v1) | (have _ : Fuses := v1; subst v1) | clear_value v1 | subst v1) | split)

theorem submit_keeps {s0 s : State} {m : Master} {a : Nat} (hk0 : Keeps s0 s) : Keeps s0 (submit m a s) := by
  unfold submit
  repeat' (first | with_reducible assumption | with_reducible apply subOutcome_keeps | with_reducible apply withRead_keeps | with_reducible apply createWith_keeps | with_reducible apply notify_keeps | (extract_lets +onlyGivenNames s1; clear_value (hs : s1 = _); refine Keeps.cut (s0 := s0) (x := s1) ?_ (fun k1 => ?_); (on_goal 1 => subst hs); (on_goal 2 => clear hs)) | (extract_lets +onlyGivenNames v1; first | (have _ : Clocks := v1; subst v1) | (have _ : Fuses := v1; subst v1) | clear_value v1 | subst v1) | intro _ _ _ | intro _ _ | split | (unfold Keeps; dsimp only; with_reducible refine Keeps.of ?_))

theorem writeSubmit_keeps {s0 s : State} {m : Master} {w : Word} (hk0 : Keeps s0 s) : Keeps s0 (writeSubmit m w s) := by
  unfold writeSubmit
  repeat' (first | with_reducible assumption | with_reducible apply setReg_keeps | with_reducible apply submit_keeps | (extract_lets +onlyGivenNames s1; clear_value (hs : s1 = _); refine Keeps.cut (s0 := s0) (x := s1) ?_ (fun k1 => ?_); (on_goal 1 => subst hs); (on_goal 2 => clear hs)) | (extract_lets +onlyGivenNames v1; first | (have _ : Clocks := v1; subst v1) | (have _ : Fuses := v1; subst v1) | clear_value v1 | subst v1) | split)

theorem execJobSubmit_keeps {s0 s : State} {dt : Nat} {m : Master} {w : Word} (hk0 : Keeps s0 s) : KeepsNext s0 (execJobSubmit dt m w s) := by
  unfold execJobSubmit
  repeat' (first | with_reducible assumption | with_reducible apply gatedWrite_keeps | with_reducible apply writeSubmit_keeps | with_reducible apply elapse_keeps | with_reducible apply KeepsNext.next | intro _ _ _ | intro _ _)

theorem ctrlResult_keeps {s0 s : State} {m : Master} {cmd i status : Nat} {j : Option Job} (hk0 : Keeps s0 s) : Keeps s0 (ctrlResult m cmd i status j s) := by
  unfold ctrlResult
  repeat' (first | with_reducible assumption | with_reducible apply setReg_keeps)

theorem ctrlCancel_keeps {s0 s : State} {m : Master} {i : Nat} (hk0 : Keeps s0 s) : Keeps s0 (ctrlCancel m i s) := by
  unfold ctrlCancel
  repeat' (first | with_reducible assumption | with_reducible apply cancelJob_keeps | (with_reducible refine KeepsOpt.getD (cancelJob_keeps ?_) ?_) | (with_reducible refine KeepsOpt.some (cancelJob_keeps ?_) (by assumption)) | with_reducible apply ctrlResult_keeps | (extract_lets +onlyGivenNames s1; clear_value (hs : s1 = _); refine Keeps.cut (s0 := s0) (x := s1) ?_ (fun k1 => ?_); (on_goal 1 => subst hs); (on_goal 2 => clear hs)) | (extract_lets +onlyGivenNames v1; first | (have _ : Clocks := v1; subst v1) | (have _ : Fuses := v1; subst v1) | clear_value v1 | subst v1) | split | (unfold Keeps; dsimp only; with_reducible refine Keeps.of ?_))

theorem ctrlResume_keeps {s0 s : State} {m : Master} {i : Nat} (hk0 : Keeps s0 s) : Keeps s0 (ctrlResume m i s) := by
  unfold ctrlResume
  repeat' (first | with_reducible assumption | with_reducible apply resumeJob_keeps | (with_reducible refine KeepsOpt.getD (resumeJob_keeps ?_) ?_) | (with_reducible refine KeepsOpt.some (resumeJob_keeps ?_) (by assumption)) | with_reducible apply ctrlResult_keeps | (extract_lets +onlyGivenNames s1; clear_value (hs : s1 = _); refine Keeps.cut (s0 := s0) (x := s1) ?_ (fun k1 => ?_); (on_goal 1 => subst hs); (on_goal 2 => clear hs)) | (extract_lets +onlyGivenNames v1; first | (have _ : Clocks := v1; subst v1) | (have _ : Fuses := v1; subst v1) | clear_value v1 | subst v1) | split | (unfold Keeps; dsimp only; with_reducible refine Keeps.of ?_))

theorem ctrlCopy_keeps {s0 s : State} {m : Master} {i : Nat} (hk0 : Keeps s0 s) : Keeps s0 (ctrlCopy m i s) := by
  unfold ctrlCopy
  repeat' (first | with_reducible assumption | with_reducible apply ctrlResult_keeps | with_reducible apply writeDram_keeps | (extract_lets +onlyGivenNames s1; clear_value (hs : s1 = _); refine Keeps.cut (s0 := s0) (x := s1) ?_ (fun k1 => ?_); (on_goal 1 => subst hs); (on_goal 2 => clear hs)) | (extract_lets +onlyGivenNames v1; first | (have _ : Clocks := v1; subst v1) | (have _ : Fuses := v1; subst v1) | clear_value v1 | subst v1) | split | (unfold Keeps; dsimp only; with_reducible refine Keeps.of ?_))

theorem writeCtrl_keeps {s0 s : State} {m : Master} {w : Word} (hk0 : Keeps s0 s) : Keeps s0 (writeCtrl m w s) := by
  unfold writeCtrl
  repeat' (first | with_reducible assumption | with_reducible apply ctrlCancel_keeps | with_reducible apply ctrlResume_keeps | with_reducible apply ctrlCopy_keeps | (extract_lets +onlyGivenNames s1; clear_value (hs : s1 = _); refine Keeps.cut (s0 := s0) (x := s1) ?_ (fun k1 => ?_); (on_goal 1 => subst hs); (on_goal 2 => clear hs)) | (extract_lets +onlyGivenNames v1; first | (have _ : Clocks := v1; subst v1) | (have _ : Fuses := v1; subst v1) | clear_value v1 | subst v1) | split | (unfold Keeps; dsimp only; with_reducible refine Keeps.of ?_))

theorem execJobCancel_keeps {s0 s : State} {dt : Nat} {m : Master} {id : BitVec 12} (hk0 : Keeps s0 s) : KeepsNext s0 (execJobCancel dt m id s) := by
  unfold execJobCancel
  repeat' (first | with_reducible assumption | with_reducible apply gatedWrite_keeps | with_reducible apply ctrlCancel_keeps | with_reducible apply elapse_keeps | with_reducible apply KeepsNext.next | intro _ _ _ | intro _ _)

theorem execJobResume_keeps {s0 s : State} {dt : Nat} {m : Master} {id : BitVec 12} (hk0 : Keeps s0 s) : KeepsNext s0 (execJobResume dt m id s) := by
  unfold execJobResume
  repeat' (first | with_reducible assumption | with_reducible apply gatedWrite_keeps | with_reducible apply ctrlResume_keeps | with_reducible apply elapse_keeps | with_reducible apply KeepsNext.next | intro _ _ _ | intro _ _)

theorem execJobCopy_keeps {s0 s : State} {dt : Nat} {m : Master} {id : BitVec 12} (hk0 : Keeps s0 s) : KeepsNext s0 (execJobCopy dt m id s) := by
  unfold execJobCopy
  repeat' (first | with_reducible assumption | with_reducible apply gatedWrite_keeps | with_reducible apply ctrlCopy_keeps | with_reducible apply elapse_keeps | with_reducible apply KeepsNext.next | intro _ _ _ | intro _ _)

theorem writeMark_keeps {s0 s : State} {w : Word} (hk0 : Keeps s0 s) : Keeps s0 (writeMark w s) := by
  unfold writeMark
  repeat' (first | with_reducible assumption | with_reducible apply trace_keeps | with_reducible apply set64_keeps | (extract_lets +onlyGivenNames s1; clear_value (hs : s1 = _); refine Keeps.cut (s0 := s0) (x := s1) ?_ (fun k1 => ?_); (on_goal 1 => subst hs); (on_goal 2 => clear hs)) | (extract_lets +onlyGivenNames v1; first | (have _ : Clocks := v1; subst v1) | (have _ : Fuses := v1; subst v1) | clear_value v1 | subst v1))

theorem execTrcMark_keeps {s0 s : State} {dt : Nat} {m : Master} {w : Word} (hk0 : Keeps s0 s) : KeepsNext s0 (execTrcMark dt m w s) := by
  unfold execTrcMark
  repeat' (first | with_reducible assumption | with_reducible apply gatedWrite_keeps | with_reducible apply writeMark_keeps | with_reducible apply elapse_keeps | with_reducible apply KeepsNext.next | intro _ _ _ | intro _ _)

theorem execTrcRingRdWrite_keeps {s0 s : State} {dt : Nat} {m : Master} {w : Word} (hk0 : Keeps s0 s) : KeepsNext s0 (execTrcRingRdWrite dt m w s) := by
  unfold execTrcRingRdWrite
  repeat' (first | with_reducible assumption | with_reducible apply gatedWrite_keeps | with_reducible apply writeRingRd_keeps | with_reducible apply elapse_keeps | with_reducible apply KeepsNext.next | intro _ _ _ | intro _ _)


end Sys2Proof.Machine
end

