-- ==== Sys2Proof/Laws/KeepsKeys.lean ====
section
/-! SUPPORT. What the operations of Machine/Keys.lean keep. -/

set_option linter.unusedTactic false
set_option linter.unreachableTactic false
set_option linter.unusedVariables false

namespace Sys2Proof.Machine

theorem journalKey_keeps {s0 s : State} {i : Nat} (hk0 : Keeps s0 s) : Keeps s0 (journalKey i s) := by
  unfold journalKey
  repeat' (first | with_reducible assumption | with_reducible apply journalRec_keeps | (extract_lets +onlyGivenNames s1; clear_value (hs : s1 = _); refine Keeps.cut (s0 := s0) (x := s1) ?_ (fun k1 => ?_); (on_goal 1 => subst hs); (on_goal 2 => clear hs)) | (extract_lets +onlyGivenNames v1; first | (have _ : Clocks := v1; subst v1) | (have _ : Fuses := v1; subst v1) | clear_value v1 | subst v1) | split)

theorem keyDone_keeps {s0 s : State} {c : KeyCmd} {status detail reason : Nat} (hk0 : Keeps s0 s) : Keeps s0 (keyDone c status detail reason s) := by
  unfold keyDone
  repeat' (first | with_reducible assumption | with_reducible apply journalKey_keeps | with_reducible apply keyCmdEnd_keeps | (extract_lets +onlyGivenNames s1; clear_value (hs : s1 = _); refine Keeps.cut (s0 := s0) (x := s1) ?_ (fun k1 => ?_); (on_goal 1 => subst hs); (on_goal 2 => clear hs)) | (extract_lets +onlyGivenNames v1; first | (have _ : Clocks := v1; subst v1) | (have _ : Fuses := v1; subst v1) | clear_value v1 | subst v1) | split)

theorem bumpGen_keeps {s0 s : State} {i : Nat} (hk0 : Keeps s0 s) : Keeps s0 (bumpGen i s) := by
  unfold bumpGen
  repeat' (first | with_reducible assumption | with_reducible apply updTamp_keeps | (extract_lets +onlyGivenNames s1; clear_value (hs : s1 = _); refine Keeps.cut (s0 := s0) (x := s1) ?_ (fun k1 => ?_); (on_goal 1 => subst hs); (on_goal 2 => clear hs)) | (extract_lets +onlyGivenNames v1; first | (have _ : Clocks := v1; subst v1) | (have _ : Fuses := v1; subst v1) | clear_value v1 | subst v1) | (unfold Keeps; dsimp only; with_reducible refine Keeps.of ?_))

theorem writeKey_keeps {s0 s : State} {c : KeyCmd} {k : KeySlot} (hk0 : Keeps s0 s) : Keeps s0 (writeKey c k s) := by
  unfold writeKey
  repeat' (first | with_reducible assumption | with_reducible apply bumpGen_keeps | with_reducible apply keyDone_keeps | with_reducible apply setSlot_keeps | (extract_lets +onlyGivenNames s1; clear_value (hs : s1 = _); refine Keeps.cut (s0 := s0) (x := s1) ?_ (fun k1 => ?_); (on_goal 1 => subst hs); (on_goal 2 => clear hs)) | (extract_lets +onlyGivenNames v1; first | (have _ : Clocks := v1; subst v1) | (have _ : Fuses := v1; subst v1) | clear_value v1 | subst v1) | split)

theorem runWriteClear_keeps {s0 s : State} {c : KeyCmd} (hk0 : Keeps s0 s) : Keeps s0 (runWriteClear c s) := by
  unfold runWriteClear
  repeat' (first | with_reducible assumption | with_reducible apply keyDone_keeps | with_reducible apply writeKey_keeps | split)

theorem runUnwrap_keeps {s0 s : State} {c : KeyCmd} (hk0 : Keeps s0 s) : Keeps s0 (runUnwrap c s) := by
  unfold runUnwrap
  repeat' (first | with_reducible assumption | with_reducible apply keyDone_keeps | with_reducible apply unwrapBlob_keeps | (with_reducible refine Keeps2.snd (unwrapBlob_keeps ?_) (by assumption)) | (with_reducible refine Keeps.of2 (unwrapBlob_keeps ?_)) | with_reducible apply incF_keeps | with_reducible apply writeKey_keeps | (extract_lets +onlyGivenNames s1; clear_value (hs : s1 = _); refine Keeps.cut (s0 := s0) (x := s1) ?_ (fun k1 => ?_); (on_goal 1 => subst hs); (on_goal 2 => clear hs)) | (extract_lets +onlyGivenNames v1; first | (have _ : Clocks := v1; subst v1) | (have _ : Fuses := v1; subst v1) | clear_value v1 | subst v1) | split | (unfold Keeps; dsimp only; with_reducible refine Keeps.of ?_))

theorem deriveData_keeps {s0 s : State} {c : KeyCmd} (hk0 : Keeps s0 s) : Keeps2 s0 (deriveData c s) := by
  unfold deriveData
  repeat' (first | with_reducible assumption | with_reducible apply withRead_keeps | (with_reducible apply withRead_keeps2) | (extract_lets +onlyGivenNames s1; clear_value (hs : s1 = _); refine Keeps.cut (s0 := s0) (x := s1) ?_ (fun k1 => ?_); (on_goal 1 => subst hs); (on_goal 2 => clear hs)) | (extract_lets +onlyGivenNames v1; first | (have _ : Clocks := v1; subst v1) | (have _ : Fuses := v1; subst v1) | clear_value v1 | subst v1) | intro _ _ _ | intro _ _ | split | with_reducible apply Keeps2.mk | (unfold Keeps; dsimp only; with_reducible refine Keeps.of ?_))

theorem runDerive_keeps {s0 s : State} {c : KeyCmd} (hk0 : Keeps s0 s) : Keeps s0 (runDerive c s) := by
  unfold runDerive
  repeat' (first | with_reducible assumption | with_reducible apply keyDone_keeps | with_reducible apply deriveData_keeps | (with_reducible refine Keeps2.snd (deriveData_keeps ?_) (by assumption)) | (with_reducible refine Keeps.of2 (deriveData_keeps ?_)) | with_reducible apply writeKey_keeps | with_reducible apply useKey_keeps | (extract_lets +onlyGivenNames s1; clear_value (hs : s1 = _); refine Keeps.cut (s0 := s0) (x := s1) ?_ (fun k1 => ?_); (on_goal 1 => subst hs); (on_goal 2 => clear hs)) | (extract_lets +onlyGivenNames v1; first | (have _ : Clocks := v1; subst v1) | (have _ : Fuses := v1; subst v1) | clear_value v1 | subst v1) | split | (unfold Keeps; dsimp only; with_reducible refine Keeps.of ?_))

theorem runWrap_keeps {s0 s : State} {c : KeyCmd} (hk0 : Keeps s0 s) : Keeps s0 (runWrap c s) := by
  unfold runWrap
  repeat' (first | with_reducible assumption | with_reducible apply keyDone_keeps | with_reducible apply useKey_keeps | with_reducible apply writeDram_keeps | (extract_lets +onlyGivenNames s1; clear_value (hs : s1 = _); refine Keeps.cut (s0 := s0) (x := s1) ?_ (fun k1 => ?_); (on_goal 1 => subst hs); (on_goal 2 => clear hs)) | (extract_lets +onlyGivenNames v1; first | (have _ : Clocks := v1; subst v1) | (have _ : Fuses := v1; subst v1) | clear_value v1 | subst v1) | split)

theorem runErase_keeps {s0 s : State} {c : KeyCmd} (hk0 : Keeps s0 s) : Keeps s0 (runErase c s) := by
  unfold runErase
  repeat' (first | with_reducible assumption | with_reducible apply keyDone_keeps | with_reducible apply bumpGen_keeps | with_reducible apply setSlot_keeps | (extract_lets +onlyGivenNames s1; clear_value (hs : s1 = _); refine Keeps.cut (s0 := s0) (x := s1) ?_ (fun k1 => ?_); (on_goal 1 => subst hs); (on_goal 2 => clear hs)) | (extract_lets +onlyGivenNames v1; first | (have _ : Clocks := v1; subst v1) | (have _ : Fuses := v1; subst v1) | clear_value v1 | subst v1) | split)

theorem runExpire_keeps {s0 s : State} {c : KeyCmd} (hk0 : Keeps s0 s) : Keeps s0 (runExpire c s) := by
  unfold runExpire
  repeat' (first | with_reducible assumption | with_reducible apply keyDone_keeps | with_reducible apply setSlot_keeps | (extract_lets +onlyGivenNames s1; clear_value (hs : s1 = _); refine Keeps.cut (s0 := s0) (x := s1) ?_ (fun k1 => ?_); (on_goal 1 => subst hs); (on_goal 2 => clear hs)) | (extract_lets +onlyGivenNames v1; first | (have _ : Clocks := v1; subst v1) | (have _ : Fuses := v1; subst v1) | clear_value v1 | subst v1) | split | (unfold Keeps; dsimp only; with_reducible refine Keeps.of ?_))

theorem runFlush_keeps {s0 s : State} {c : KeyCmd} (hk0 : Keeps s0 s) : Keeps s0 (runFlush c s) := by
  unfold runFlush
  repeat' (first | with_reducible assumption | with_reducible apply updKey_keeps | with_reducible apply keyDone_keeps | with_reducible apply sweepCache_keeps | with_reducible apply incF_keeps | (extract_lets +onlyGivenNames s1; clear_value (hs : s1 = _); refine Keeps.cut (s0 := s0) (x := s1) ?_ (fun k1 => ?_); (on_goal 1 => subst hs); (on_goal 2 => clear hs)) | (extract_lets +onlyGivenNames v1; first | (have _ : Clocks := v1; subst v1) | (have _ : Fuses := v1; subst v1) | clear_value v1 | subst v1) | split | (unfold Keeps; dsimp only; with_reducible refine Keeps.of ?_))

theorem runKeyCmd_keeps {s0 s : State} {c : KeyCmd} (hk0 : Keeps s0 s) : Keeps s0 (runKeyCmd c s) := by
  unfold runKeyCmd
  repeat' (first | with_reducible assumption | with_reducible apply keyDone_keeps | with_reducible apply runWrap_keeps | with_reducible apply runFlush_keeps | with_reducible apply runWriteClear_keeps | with_reducible apply runUnwrap_keeps | with_reducible apply runDerive_keeps | with_reducible apply runErase_keeps | with_reducible apply runExpire_keeps | (extract_lets +onlyGivenNames s1; clear_value (hs : s1 = _); refine Keeps.cut (s0 := s0) (x := s1) ?_ (fun k1 => ?_); (on_goal 1 => subst hs); (on_goal 2 => clear hs)) | (extract_lets +onlyGivenNames v1; first | (have _ : Clocks := v1; subst v1) | (have _ : Fuses := v1; subst v1) | clear_value v1 | subst v1) | split | (unfold Keeps; dsimp only; with_reducible refine Keeps.of ?_))

theorem writeKeyCmd_keeps {s0 s : State} {m : Master} {cmd slot src : Nat} (hk0 : Keeps s0 s) : Keeps s0 (writeKeyCmd m cmd slot src s) := by
  unfold writeKeyCmd
  repeat' (first | with_reducible assumption | with_reducible apply ignored_keeps | with_reducible apply setReg_keeps | with_reducible apply setSlot_keeps | with_reducible apply incF_keeps | with_reducible apply updKey_keeps | with_reducible apply runKeyCmd_keeps | (extract_lets +onlyGivenNames s1; clear_value (hs : s1 = _); refine Keeps.cut (s0 := s0) (x := s1) ?_ (fun k1 => ?_); (on_goal 1 => subst hs); (on_goal 2 => clear hs)) | (extract_lets +onlyGivenNames v1; first | (have _ : Clocks := v1; subst v1) | (have _ : Fuses := v1; subst v1) | clear_value v1 | subst v1) | split | (unfold Keeps; dsimp only; with_reducible refine Keeps.of ?_))

theorem execWriteClear_keeps {s0 s : State} {dt : Nat} {m : Master} {slot src : BitVec 8} (hk0 : Keeps s0 s) : KeepsNext s0 (execWriteClear dt m slot src s) := by
  unfold execWriteClear
  repeat' (first | with_reducible assumption | with_reducible apply gatedWrite_keeps | with_reducible apply writeKeyCmd_keeps | with_reducible apply elapse_keeps | with_reducible apply KeepsNext.next | intro _ _ _ | intro _ _)

theorem execUnwrap_keeps {s0 s : State} {dt : Nat} {m : Master} {slot src : BitVec 8} (hk0 : Keeps s0 s) : KeepsNext s0 (execUnwrap dt m slot src s) := by
  unfold execUnwrap
  repeat' (first | with_reducible assumption | with_reducible apply gatedWrite_keeps | with_reducible apply writeKeyCmd_keeps | with_reducible apply elapse_keeps | with_reducible apply KeepsNext.next | intro _ _ _ | intro _ _)

theorem execDerive_keeps {s0 s : State} {dt : Nat} {m : Master} {slot src : BitVec 8} (hk0 : Keeps s0 s) : KeepsNext s0 (execDerive dt m slot src s) := by
  unfold execDerive
  repeat' (first | with_reducible assumption | with_reducible apply gatedWrite_keeps | with_reducible apply writeKeyCmd_keeps | with_reducible apply elapse_keeps | with_reducible apply KeepsNext.next | intro _ _ _ | intro _ _)

theorem execWrap_keeps {s0 s : State} {dt : Nat} {m : Master} {slot src : BitVec 8} (hk0 : Keeps s0 s) : KeepsNext s0 (execWrap dt m slot src s) := by
  unfold execWrap
  repeat' (first | with_reducible assumption | with_reducible apply gatedWrite_keeps | with_reducible apply writeKeyCmd_keeps | with_reducible apply elapse_keeps | with_reducible apply KeepsNext.next | intro _ _ _ | intro _ _)

theorem execErase_keeps {s0 s : State} {dt : Nat} {m : Master} {slot src : BitVec 8} (hk0 : Keeps s0 s) : KeepsNext s0 (execErase dt m slot src s) := by
  unfold execErase
  repeat' (first | with_reducible assumption | with_reducible apply gatedWrite_keeps | with_reducible apply writeKeyCmd_keeps | with_reducible apply elapse_keeps | with_reducible apply KeepsNext.next | intro _ _ _ | intro _ _)

theorem execExpire_keeps {s0 s : State} {dt : Nat} {m : Master} {slot src : BitVec 8} (hk0 : Keeps s0 s) : KeepsNext s0 (execExpire dt m slot src s) := by
  unfold execExpire
  repeat' (first | with_reducible assumption | with_reducible apply gatedWrite_keeps | with_reducible apply writeKeyCmd_keeps | with_reducible apply elapse_keeps | with_reducible apply KeepsNext.next | intro _ _ _ | intro _ _)

theorem execFlushNode_keeps {s0 s : State} {dt : Nat} {m : Master} {slot src : BitVec 8} (hk0 : Keeps s0 s) : KeepsNext s0 (execFlushNode dt m slot src s) := by
  unfold execFlushNode
  repeat' (first | with_reducible assumption | with_reducible apply gatedWrite_keeps | with_reducible apply writeKeyCmd_keeps | with_reducible apply elapse_keeps | with_reducible apply KeepsNext.next | intro _ _ _ | intro _ _)

theorem execKeyCmdDeferredApply_keeps {s0 s : State} {dt : Nat} (hk0 : Keeps s0 s) : KeepsNext s0 (execKeyCmdDeferredApply dt s) := by
  unfold execKeyCmdDeferredApply
  repeat' (first | with_reducible assumption | with_reducible apply elapse_keeps | with_reducible apply updKey_keeps | with_reducible apply runKeyCmd_keeps | with_reducible apply setSlot_keeps | with_reducible apply KeepsNext.next | (extract_lets +onlyGivenNames s1; clear_value (hs : s1 = _); refine Keeps.cut (s0 := s0) (x := s1) ?_ (fun k1 => ?_); (on_goal 1 => subst hs); (on_goal 2 => clear hs)) | (extract_lets +onlyGivenNames v1; first | (have _ : Clocks := v1; subst v1) | (have _ : Fuses := v1; subst v1) | clear_value v1 | subst v1) | split | (unfold Keeps; dsimp only; with_reducible refine Keeps.of ?_))

theorem loadFailed_keeps {s0 s : State} {u : KeyUse} {status : Nat} (hk0 : Keeps s0 s) : Keeps s0 (loadFailed u status s) := by
  unfold loadFailed
  repeat' (first | with_reducible assumption | with_reducible apply accFail_keeps | with_reducible apply dlEnd_keeps | (extract_lets +onlyGivenNames s1; clear_value (hs : s1 = _); refine Keeps.cut (s0 := s0) (x := s1) ?_ (fun k1 => ?_); (on_goal 1 => subst hs); (on_goal 2 => clear hs)) | (extract_lets +onlyGivenNames v1; first | (have _ : Clocks := v1; subst v1) | (have _ : Fuses := v1; subst v1) | clear_value v1 | subst v1) | split | (unfold Keeps; dsimp only; with_reducible refine Keeps.of ?_))

theorem kldFail_keeps {s0 s : State} {i : Nat} {j : Job} {u : KeyUse} {h status detail : Nat} (hk0 : Keeps s0 s) : Keeps s0 (kldFail i j u h status detail s) := by
  unfold kldFail
  repeat' (first | with_reducible assumption | with_reducible apply freeJob_keeps | with_reducible apply completeJob_keeps | with_reducible apply incF_keeps | with_reducible apply notify_keeps | with_reducible apply updKey_keeps | with_reducible apply loadFailed_keeps | (extract_lets +onlyGivenNames s1; clear_value (hs : s1 = _); refine Keeps.cut (s0 := s0) (x := s1) ?_ (fun k1 => ?_); (on_goal 1 => subst hs); (on_goal 2 => clear hs)) | (extract_lets +onlyGivenNames v1; first | (have _ : Clocks := v1; subst v1) | (have _ : Fuses := v1; subst v1) | clear_value v1 | subst v1) | split | (unfold Keeps; dsimp only; with_reducible refine Keeps.of ?_))

theorem kldDone_keeps {s0 s : State} {i : Nat} {j : Job} {u : KeyUse} {k : Nat} (hk0 : Keeps s0 s) : Keeps s0 (kldDone i j u k s) := by
  unfold kldDone
  repeat' (first | with_reducible assumption | with_reducible apply updKey_keeps | with_reducible apply setSlot_keeps | with_reducible apply createJob_keeps | with_reducible apply freeJob_keeps | with_reducible apply completeJob_keeps | (extract_lets +onlyGivenNames s1; clear_value (hs : s1 = _); refine Keeps.cut (s0 := s0) (x := s1) ?_ (fun k1 => ?_); (on_goal 1 => subst hs); (on_goal 2 => clear hs)) | (extract_lets +onlyGivenNames v1; first | (have _ : Clocks := v1; subst v1) | (have _ : Fuses := v1; subst v1) | clear_value v1 | subst v1) | (unfold Keeps; dsimp only; with_reducible refine Keeps.of ?_))

theorem kldMiss_keeps {s0 s : State} {i : Nat} {j : Job} {nix : Nat} {u : KeyUse} {v : Nat} (hk0 : Keeps s0 s) : Keeps s0 (kldMiss i j nix u v s) := by
  unfold kldMiss
  extract_lets h
  clear_value h
  have k : Keeps2 s0 (unwrapBlob h (s.incF (F.KEY_CNT_COUNT 1))) := unwrapBlob_keeps (incF_keeps hk0)
  revert k
  generalize unwrapBlob h _ = y
  intro k
  obtain ⟨y, z⟩ := y
  replace k : Keeps s0 z := k
  cases y with
  | error e => exact kldFail_keeps k
  | ok x =>
    dsimp only
    split
    · exact kldDone_keeps (setSlot_keeps k)
    · exact kldFail_keeps k
theorem kldWait_keeps {s0 s : State} {i : Nat} {j : Job} (hk0 : Keeps s0 s) : Keeps s0 (kldWait i j s) := by
  unfold kldWait
  repeat' (first | with_reducible assumption | with_reducible apply setJob_keeps | with_reducible apply incF_keeps | with_reducible apply notify_keeps | with_reducible apply updKey_keeps | (extract_lets +onlyGivenNames s1; clear_value (hs : s1 = _); refine Keeps.cut (s0 := s0) (x := s1) ?_ (fun k1 => ?_); (on_goal 1 => subst hs); (on_goal 2 => clear hs)) | (extract_lets +onlyGivenNames v1; first | (have _ : Clocks := v1; subst v1) | (have _ : Fuses := v1; subst v1) | clear_value v1 | subst v1) | split | (unfold Keeps; dsimp only; with_reducible refine Keeps.of ?_))

theorem execKldLoad_keeps {s0 s : State} {dt : Nat} {id : BitVec 12} (hk0 : Keeps s0 s) : KeepsNext s0 (execKldLoad dt id s) := by
  unfold execKldLoad
  repeat' (first | with_reducible assumption | with_reducible apply elapse_keeps | with_reducible apply kldDone_keeps | with_reducible apply incF_keeps | with_reducible apply kldMiss_keeps | with_reducible apply kldWait_keeps | with_reducible apply KeepsNext.next | (extract_lets +onlyGivenNames s1; clear_value (hs : s1 = _); refine Keeps.cut (s0 := s0) (x := s1) ?_ (fun k1 => ?_); (on_goal 1 => subst hs); (on_goal 2 => clear hs)) | (extract_lets +onlyGivenNames v1; first | (have _ : Clocks := v1; subst v1) | (have _ : Fuses := v1; subst v1) | clear_value v1 | subst v1) | split | (unfold Keeps; dsimp only; with_reducible refine Keeps.of ?_))


end Sys2Proof.Machine
end

