-- ==== Sys2Proof/Laws/KeepsOwnership.lean ====
section
/-! SUPPORT. What the operations of Machine/Ownership.lean keep. -/

set_option linter.unusedTactic false
set_option linter.unreachableTactic false
set_option linter.unusedVariables false

namespace Sys2Proof.Machine

theorem startLease_keeps {s0 s : State} {m : Master} (hk0 : Keeps s0 s) : Keeps s0 (startLease m s) := by
  unfold startLease
  repeat' (first | with_reducible assumption | (extract_lets +onlyGivenNames s1; clear_value (hs : s1 = _); refine Keeps.cut (s0 := s0) (x := s1) ?_ (fun k1 => ?_); (on_goal 1 => subst hs); (on_goal 2 => clear hs)) | (extract_lets +onlyGivenNames v1; first | (have _ : Clocks := v1; subst v1) | (have _ : Fuses := v1; subst v1) | clear_value v1 | subst v1) | (unfold Keeps; dsimp only; with_reducible refine Keeps.of ?_))

theorem endLease_keeps {s0 s : State} (hk0 : Keeps s0 s) : Keeps s0 (endLease s) := by
  unfold endLease
  repeat' (first | with_reducible assumption | (extract_lets +onlyGivenNames s1; clear_value (hs : s1 = _); refine Keeps.cut (s0 := s0) (x := s1) ?_ (fun k1 => ?_); (on_goal 1 => subst hs); (on_goal 2 => clear hs)) | (extract_lets +onlyGivenNames v1; first | (have _ : Clocks := v1; subst v1) | (have _ : Fuses := v1; subst v1) | clear_value v1 | subst v1) | (unfold Keeps; dsimp only; with_reducible refine Keeps.of ?_))

theorem ownEffect_keeps {s0 s : State} {m : Master} {cmd : Nat} (hk0 : Keeps s0 s) : Keeps s0 (ownEffect m cmd s) := by
  unfold ownEffect
  repeat' (first | with_reducible assumption | with_reducible apply startLease_keeps | with_reducible apply changeOwner_keeps | with_reducible apply endLease_keeps | with_reducible apply notify_keeps | (extract_lets +onlyGivenNames s1; clear_value (hs : s1 = _); refine Keeps.cut (s0 := s0) (x := s1) ?_ (fun k1 => ?_); (on_goal 1 => subst hs); (on_goal 2 => clear hs)) | (extract_lets +onlyGivenNames v1; first | (have _ : Clocks := v1; subst v1) | (have _ : Fuses := v1; subst v1) | clear_value v1 | subst v1) | split | (unfold Keeps; dsimp only; with_reducible refine Keeps.of ?_))

theorem ownResult_keeps {s0 s : State} {m : Master} {cmd result : Nat} (hk0 : Keeps s0 s) : Keeps s0 (ownResult m cmd result s) := by
  unfold ownResult
  repeat' (first | with_reducible assumption | with_reducible apply setF_keeps | (extract_lets +onlyGivenNames s1; clear_value (hs : s1 = _); refine Keeps.cut (s0 := s0) (x := s1) ?_ (fun k1 => ?_); (on_goal 1 => subst hs); (on_goal 2 => clear hs)) | (extract_lets +onlyGivenNames v1; first | (have _ : Clocks := v1; subst v1) | (have _ : Fuses := v1; subst v1) | clear_value v1 | subst v1) | split | (unfold Keeps; dsimp only; with_reducible refine Keeps.of ?_))

theorem ownCommand_keeps {s0 s : State} {m : Master} {cmd epoch : Nat} (hk0 : Keeps s0 s) : Keeps s0 (ownCommand m cmd epoch s) := by
  unfold ownCommand
  repeat' (first | with_reducible assumption | with_reducible apply ownResult_keeps | with_reducible apply ownEffect_keeps | (extract_lets +onlyGivenNames s1; clear_value (hs : s1 = _); refine Keeps.cut (s0 := s0) (x := s1) ?_ (fun k1 => ?_); (on_goal 1 => subst hs); (on_goal 2 => clear hs)) | (extract_lets +onlyGivenNames v1; first | (have _ : Clocks := v1; subst v1) | (have _ : Fuses := v1; subst v1) | clear_value v1 | subst v1) | split | (unfold Keeps; dsimp only; with_reducible refine Keeps.of ?_))

theorem execClaim_keeps {s0 s : State} {dt : Nat} {epoch : BitVec 16} (hk0 : Keeps s0 s) : KeepsNext s0 (execClaim dt epoch s) := by
  unfold execClaim
  repeat' (first | with_reducible assumption | with_reducible apply ownCommand_keeps | with_reducible apply elapse_keeps | with_reducible apply KeepsNext.next)

theorem execTake_keeps {s0 s : State} {dt : Nat} {epoch : BitVec 16} (hk0 : Keeps s0 s) : KeepsNext s0 (execTake dt epoch s) := by
  unfold execTake
  repeat' (first | with_reducible assumption | with_reducible apply ownCommand_keeps | with_reducible apply elapse_keeps | with_reducible apply KeepsNext.next)

theorem execRefresh_keeps {s0 s : State} {dt : Nat} {m : Master} {epoch : BitVec 16} (hk0 : Keeps s0 s) : KeepsNext s0 (execRefresh dt m epoch s) := by
  unfold execRefresh
  repeat' (first | with_reducible assumption | with_reducible apply ownCommand_keeps | with_reducible apply elapse_keeps | with_reducible apply KeepsNext.next)

theorem execRelease_keeps {s0 s : State} {dt : Nat} {m : Master} {epoch : BitVec 16} (hk0 : Keeps s0 s) : KeepsNext s0 (execRelease dt m epoch s) := by
  unfold execRelease
  repeat' (first | with_reducible assumption | with_reducible apply ownCommand_keeps | with_reducible apply elapse_keeps | with_reducible apply KeepsNext.next)

theorem execForce_keeps {s0 s : State} {dt : Nat} {epoch : BitVec 16} (hk0 : Keeps s0 s) : KeepsNext s0 (execForce dt epoch s) := by
  unfold execForce
  repeat' (first | with_reducible assumption | with_reducible apply ownCommand_keeps | with_reducible apply elapse_keeps | with_reducible apply KeepsNext.next)

theorem leaseLapse_keeps {s0 s : State} (hk0 : Keeps s0 s) : Keeps s0 (leaseLapse s) := by
  unfold leaseLapse
  repeat' (first | with_reducible assumption | with_reducible apply endLease_keeps | with_reducible apply changeOwner_keeps | with_reducible apply setF_keeps | with_reducible apply notify_keeps | with_reducible apply safeOrReport_keeps | (extract_lets +onlyGivenNames s1; clear_value (hs : s1 = _); refine Keeps.cut (s0 := s0) (x := s1) ?_ (fun k1 => ?_); (on_goal 1 => subst hs); (on_goal 2 => clear hs)) | (extract_lets +onlyGivenNames v1; first | (have _ : Clocks := v1; subst v1) | (have _ : Fuses := v1; subst v1) | clear_value v1 | subst v1) | split)

theorem execLeaseLapse_keeps {s0 s : State} {dt : Nat} (hk0 : Keeps s0 s) : KeepsNext s0 (execLeaseLapse dt s) := by
  unfold execLeaseLapse
  repeat' (first | with_reducible assumption | with_reducible apply elapse_keeps | with_reducible apply leaseLapse_keeps | with_reducible apply KeepsNext.next | (extract_lets +onlyGivenNames s1; clear_value (hs : s1 = _); refine Keeps.cut (s0 := s0) (x := s1) ?_ (fun k1 => ?_); (on_goal 1 => subst hs); (on_goal 2 => clear hs)) | (extract_lets +onlyGivenNames v1; first | (have _ : Clocks := v1; subst v1) | (have _ : Fuses := v1; subst v1) | clear_value v1 | subst v1) | split | (unfold Keeps; dsimp only; with_reducible refine Keeps.of ?_))


end Sys2Proof.Machine
end

