-- ==== Sys2Proof/Laws/KeepsNeighbour.lean ====
section
/-! SUPPORT. What the operations of Machine/Neighbour.lean keep. -/

set_option linter.unusedTactic false
set_option linter.unreachableTactic false
set_option linter.unusedVariables false

namespace Sys2Proof.Machine

theorem syncNbrs_keeps {s0 s : State} (hk0 : Keeps s0 s) : Keeps s0 (syncNbrs s) := by
  unfold syncNbrs
  repeat' (first | with_reducible assumption | with_reducible apply setF_keeps | (extract_lets +onlyGivenNames s1; clear_value (hs : s1 = _); refine Keeps.cut (s0 := s0) (x := s1) ?_ (fun k1 => ?_); (on_goal 1 => subst hs); (on_goal 2 => clear hs)) | (extract_lets +onlyGivenNames v1; first | (have _ : Clocks := v1; subst v1) | (have _ : Fuses := v1; subst v1) | clear_value v1 | subst v1))

theorem setNbr_keeps {s0 s : State} {i : Nat} {x : Option Neighbour} (hk0 : Keeps s0 s) : Keeps s0 (setNbr i x s) := by
  unfold setNbr
  repeat' (first | with_reducible assumption | with_reducible apply syncNbrs_keeps | with_reducible apply updSlt_keeps | (extract_lets +onlyGivenNames s1; clear_value (hs : s1 = _); refine Keeps.cut (s0 := s0) (x := s1) ?_ (fun k1 => ?_); (on_goal 1 => subst hs); (on_goal 2 => clear hs)) | (extract_lets +onlyGivenNames v1; first | (have _ : Clocks := v1; subst v1) | (have _ : Fuses := v1; subst v1) | clear_value v1 | subst v1) | split | (unfold Keeps; dsimp only; with_reducible refine Keeps.of ?_))

theorem endRxa_keeps {s0 s : State} {i : Nat} {j : Job} (hk0 : Keeps s0 s) : Keeps s0 (endRxa i j s) := by
  unfold endRxa
  repeat' (first | with_reducible assumption | with_reducible apply freeJob_keeps | with_reducible apply completeJob_keeps)

theorem dropBeacon_keeps {s0 s : State} {h k : Nat} (hk0 : Keeps s0 s) : Keeps s0 (dropBeacon h k s) := by
  unfold dropBeacon
  repeat' (first | with_reducible assumption | with_reducible apply poolFree_keeps | with_reducible apply incF_keeps)

theorem putNbr_keeps {s0 s : State} {h : Nat} {b : BeaconHdr} {p : List Byte} {i : Nat} {cells : Sparse (Option Nat)} (hk0 : Keeps s0 s) : Keeps s0 (putNbr h b p i cells s) := by
  unfold putNbr
  repeat' (first | with_reducible assumption | with_reducible apply poolFree_keeps | with_reducible apply setNbr_keeps | with_reducible apply incF_keeps | (extract_lets +onlyGivenNames s1; clear_value (hs : s1 = _); refine Keeps.cut (s0 := s0) (x := s1) ?_ (fun k1 => ?_); (on_goal 1 => subst hs); (on_goal 2 => clear hs)) | (extract_lets +onlyGivenNames v1; first | (have _ : Clocks := v1; subst v1) | (have _ : Fuses := v1; subst v1) | clear_value v1 | subst v1))

theorem takeBeacon_keeps {s0 s : State} {h : Nat} {b : BeaconHdr} {p : List Byte} (hk0 : Keeps s0 s) : Keeps s0 (takeBeacon h b p s) := by
  unfold takeBeacon
  repeat' (first | with_reducible assumption | with_reducible apply putNbr_keeps | with_reducible apply notify_keeps | with_reducible apply dropBeacon_keeps | with_reducible apply updSlt_keeps | (extract_lets +onlyGivenNames s1; clear_value (hs : s1 = _); refine Keeps.cut (s0 := s0) (x := s1) ?_ (fun k1 => ?_); (on_goal 1 => subst hs); (on_goal 2 => clear hs)) | (extract_lets +onlyGivenNames v1; first | (have _ : Clocks := v1; subst v1) | (have _ : Fuses := v1; subst v1) | clear_value v1 | subst v1) | split | (unfold Keeps; dsimp only; with_reducible refine Keeps.of ?_))

theorem noteDupRid_keeps {s0 s : State} {port : Nat} (hk0 : Keeps s0 s) : Keeps s0 (noteDupRid port s) := by
  unfold noteDupRid
  repeat' (first | with_reducible assumption | with_reducible apply notify_keeps | with_reducible apply updSlt_keeps | (extract_lets +onlyGivenNames s1; clear_value (hs : s1 = _); refine Keeps.cut (s0 := s0) (x := s1) ?_ (fun k1 => ?_); (on_goal 1 => subst hs); (on_goal 2 => clear hs)) | (extract_lets +onlyGivenNames v1; first | (have _ : Clocks := v1; subst v1) | (have _ : Fuses := v1; subst v1) | clear_value v1 | subst v1) | split | (unfold Keeps; dsimp only; with_reducible refine Keeps.of ?_))

theorem checkBeacon_keeps {s0 s : State} {h : Nat} {b : BeaconHdr} {p : List Byte} (hk0 : Keeps s0 s) : Keeps s0 (checkBeacon h b p s) := by
  unfold checkBeacon
  repeat' (first | with_reducible assumption | with_reducible apply dropBeacon_keeps | with_reducible apply noteDupRid_keeps | with_reducible apply takeBeacon_keeps | (extract_lets +onlyGivenNames s1; clear_value (hs : s1 = _); refine Keeps.cut (s0 := s0) (x := s1) ?_ (fun k1 => ?_); (on_goal 1 => subst hs); (on_goal 2 => clear hs)) | (extract_lets +onlyGivenNames v1; first | (have _ : Clocks := v1; subst v1) | (have _ : Fuses := v1; subst v1) | clear_value v1 | subst v1) | split)

theorem beaconFrameRx_keeps {s0 s : State} {h : Nat} (hk0 : Keeps s0 s) : Keeps s0 (beaconFrameRx h s) := by
  unfold beaconFrameRx
  repeat' (first | with_reducible assumption | with_reducible apply dropBeacon_keeps | with_reducible apply checkBeacon_keeps | with_reducible apply createJob_keeps | (extract_lets +onlyGivenNames s1; clear_value (hs : s1 = _); refine Keeps.cut (s0 := s0) (x := s1) ?_ (fun k1 => ?_); (on_goal 1 => subst hs); (on_goal 2 => clear hs)) | (extract_lets +onlyGivenNames v1; first | (have _ : Clocks := v1; subst v1) | (have _ : Fuses := v1; subst v1) | clear_value v1 | subst v1) | split | (unfold Keeps; dsimp only; with_reducible refine Keeps.of ?_))

theorem beaconOpened_keeps {s0 s : State} {h status : Nat} (hk0 : Keeps s0 s) : Keeps s0 (beaconOpened h status s) := by
  unfold beaconOpened
  repeat' (first | with_reducible assumption | with_reducible apply checkBeacon_keeps | with_reducible apply dropBeacon_keeps | (extract_lets +onlyGivenNames s1; clear_value (hs : s1 = _); refine Keeps.cut (s0 := s0) (x := s1) ?_ (fun k1 => ?_); (on_goal 1 => subst hs); (on_goal 2 => clear hs)) | (extract_lets +onlyGivenNames v1; first | (have _ : Clocks := v1; subst v1) | (have _ : Fuses := v1; subst v1) | clear_value v1 | subst v1) | split | (unfold Keeps; dsimp only; with_reducible refine Keeps.of ?_))

theorem execNbrBeaconRx_keeps {s0 s : State} {dt : Nat} {id : BitVec 12} (hk0 : Keeps s0 s) : KeepsNext s0 (execNbrBeaconRx dt id s) := by
  unfold execNbrBeaconRx
  repeat' (first | with_reducible assumption | with_reducible apply elapse_keeps | with_reducible apply endRxa_keeps | with_reducible apply beaconFrameRx_keeps | with_reducible apply beaconOpened_keeps | with_reducible apply freeJob_keeps | with_reducible apply KeepsNext.next | (extract_lets +onlyGivenNames s1; clear_value (hs : s1 = _); refine Keeps.cut (s0 := s0) (x := s1) ?_ (fun k1 => ?_); (on_goal 1 => subst hs); (on_goal 2 => clear hs)) | (extract_lets +onlyGivenNames v1; first | (have _ : Clocks := v1; subst v1) | (have _ : Fuses := v1; subst v1) | clear_value v1 | subst v1) | split | (unfold Keeps; dsimp only; with_reducible refine Keeps.of ?_))

theorem execBeaconMiss_keeps {s0 s : State} {dt : Nat} {i : Fin 64} (hk0 : Keeps s0 s) : KeepsNext s0 (execBeaconMiss dt i s) := by
  unfold execBeaconMiss
  repeat' (first | with_reducible assumption | with_reducible apply elapse_keeps | with_reducible apply incF_keeps | with_reducible apply setNbr_keeps | with_reducible apply notify_keeps | with_reducible apply KeepsNext.next | (extract_lets +onlyGivenNames s1; clear_value (hs : s1 = _); refine Keeps.cut (s0 := s0) (x := s1) ?_ (fun k1 => ?_); (on_goal 1 => subst hs); (on_goal 2 => clear hs)) | (extract_lets +onlyGivenNames v1; first | (have _ : Clocks := v1; subst v1) | (have _ : Fuses := v1; subst v1) | clear_value v1 | subst v1) | split | (unfold Keeps; dsimp only; with_reducible refine Keeps.of ?_))

theorem execNbrRelease_keeps {s0 s : State} {dt : Nat} {i : Fin 64} (hk0 : Keeps s0 s) : KeepsNext s0 (execNbrRelease dt i s) := by
  unfold execNbrRelease
  repeat' (first | with_reducible assumption | with_reducible apply elapse_keeps | with_reducible apply notify_keeps | with_reducible apply setNbr_keeps | with_reducible apply KeepsNext.next | (extract_lets +onlyGivenNames s1; clear_value (hs : s1 = _); refine Keeps.cut (s0 := s0) (x := s1) ?_ (fun k1 => ?_); (on_goal 1 => subst hs); (on_goal 2 => clear hs)) | (extract_lets +onlyGivenNames v1; first | (have _ : Clocks := v1; subst v1) | (have _ : Fuses := v1; subst v1) | clear_value v1 | subst v1) | split | (unfold Keeps; dsimp only; with_reducible refine Keeps.of ?_))

theorem writeNbrClear_keeps {s0 s : State} {m : Master} {w : Word} (hk0 : Keeps s0 s) : Keeps s0 (writeNbrClear m w s) := by
  unfold writeNbrClear
  repeat' (first | with_reducible assumption | with_reducible apply ignored_keeps | with_reducible apply setNbr_keeps | split)

theorem execSltNbrClear_keeps {s0 s : State} {dt : Nat} {m : Master} {w : Word} (hk0 : Keeps s0 s) : KeepsNext s0 (execSltNbrClear dt m w s) := by
  unfold execSltNbrClear
  repeat' (first | with_reducible assumption | with_reducible apply gatedWrite_keeps | with_reducible apply writeNbrClear_keeps | with_reducible apply elapse_keeps | with_reducible apply KeepsNext.next | intro _ _ _ | intro _ _)


end Sys2Proof.Machine
end

