-- ==== Sys2Proof/Laws/KeepsRadio.lean ====
section
/-! SUPPORT. What the operations of Machine/Radio.lean keep. -/

set_option linter.unusedTactic false
set_option linter.unreachableTactic false
set_option linter.unusedVariables false

namespace Sys2Proof.Machine

theorem execTxCommand_keeps {s0 s : State} {dt : Nat} {n : Fin 16} {c : TxCmd} (hk0 : Keeps s0 s) : KeepsNext s0 (execTxCommand dt n c s) := by
  unfold execTxCommand
  repeat' (first | with_reducible assumption | with_reducible apply elapse_keeps | with_reducible apply updXch_keeps | with_reducible apply preCharge_keeps | (with_reducible refine Keeps2.snd (preCharge_keeps ?_) (by assumption)) | (with_reducible refine Keeps.of2 (preCharge_keeps ?_)) | with_reducible apply issueCmd_keeps | with_reducible apply KeepsNext.next | (extract_lets +onlyGivenNames s1; clear_value (hs : s1 = _); refine Keeps.cut (s0 := s0) (x := s1) ?_ (fun k1 => ?_); (on_goal 1 => subst hs); (on_goal 2 => clear hs)) | (extract_lets +onlyGivenNames v1; first | (have _ : Clocks := v1; subst v1) | (have _ : Fuses := v1; subst v1) | clear_value v1 | subst v1) | split | (with_reducible refine Keeps2.snd ?_ (by assumption)) | with_reducible apply Keeps2.mk | (unfold Keeps; dsimp only; with_reducible refine Keeps.of ?_))

theorem execHandedBackReissue_keeps {s0 s : State} {dt : Nat} {n : Fin 16} (hk0 : Keeps s0 s) : KeepsNext s0 (execHandedBackReissue dt n s) := by
  unfold execHandedBackReissue
  repeat' (first | with_reducible assumption | with_reducible apply elapse_keeps | with_reducible apply issueCmd_keeps | with_reducible apply updPort_keeps | with_reducible apply KeepsNext.next | (extract_lets +onlyGivenNames s1; clear_value (hs : s1 = _); refine Keeps.cut (s0 := s0) (x := s1) ?_ (fun k1 => ?_); (on_goal 1 => subst hs); (on_goal 2 => clear hs)) | (extract_lets +onlyGivenNames v1; first | (have _ : Clocks := v1; subst v1) | (have _ : Fuses := v1; subst v1) | clear_value v1 | subst v1) | split | (unfold Keeps; dsimp only; with_reducible refine Keeps.of ?_))

theorem execSettleStart_keeps {s0 s : State} {dt : Nat} {n : Fin 16} (hk0 : Keeps s0 s) : KeepsNext s0 (execSettleStart dt n s) := by
  unfold execSettleStart
  repeat' (first | with_reducible assumption | with_reducible apply elapse_keeps | with_reducible apply settleFor_keeps | with_reducible apply KeepsNext.next | (extract_lets +onlyGivenNames s1; clear_value (hs : s1 = _); refine Keeps.cut (s0 := s0) (x := s1) ?_ (fun k1 => ?_); (on_goal 1 => subst hs); (on_goal 2 => clear hs)) | (extract_lets +onlyGivenNames v1; first | (have _ : Clocks := v1; subst v1) | (have _ : Fuses := v1; subst v1) | clear_value v1 | subst v1) | split | (unfold Keeps; dsimp only; with_reducible refine Keeps.of ?_))

theorem synthLock_keeps {s0 s : State} {n : Nat} (hk0 : Keeps s0 s) : Keeps s0 (synthLock n s) := by
  unfold synthLock
  repeat' (first | with_reducible assumption | with_reducible apply setF_keeps | with_reducible apply updPort_keeps | with_reducible apply tryLaunch_keeps | with_reducible apply setPstate_keeps | (extract_lets +onlyGivenNames s1; clear_value (hs : s1 = _); refine Keeps.cut (s0 := s0) (x := s1) ?_ (fun k1 => ?_); (on_goal 1 => subst hs); (on_goal 2 => clear hs)) | (extract_lets +onlyGivenNames v1; first | (have _ : Clocks := v1; subst v1) | (have _ : Fuses := v1; subst v1) | clear_value v1 | subst v1) | split | (unfold Keeps; dsimp only; with_reducible refine Keeps.of ?_))

theorem execSynthLock_keeps {s0 s : State} {dt : Nat} {n : Fin 16} (hk0 : Keeps s0 s) : KeepsNext s0 (execSynthLock dt n s) := by
  unfold execSynthLock
  repeat' (first | with_reducible assumption | with_reducible apply elapse_keeps | with_reducible apply synthLock_keeps | with_reducible apply KeepsNext.next | (extract_lets +onlyGivenNames s1; clear_value (hs : s1 = _); refine Keeps.cut (s0 := s0) (x := s1) ?_ (fun k1 => ?_); (on_goal 1 => subst hs); (on_goal 2 => clear hs)) | (extract_lets +onlyGivenNames v1; first | (have _ : Clocks := v1; subst v1) | (have _ : Fuses := v1; subst v1) | clear_value v1 | subst v1) | split)

theorem execLaunchStart_keeps {s0 s : State} {dt : Nat} {n : Fin 16} (hk0 : Keeps s0 s) : KeepsNext s0 (execLaunchStart dt n s) := by
  unfold execLaunchStart
  repeat' (first | with_reducible assumption | with_reducible apply elapse_keeps | with_reducible apply acceptNext_keeps | with_reducible apply tryLaunch_keeps | with_reducible apply KeepsNext.next | (extract_lets +onlyGivenNames s1; clear_value (hs : s1 = _); refine Keeps.cut (s0 := s0) (x := s1) ?_ (fun k1 => ?_); (on_goal 1 => subst hs); (on_goal 2 => clear hs)) | (extract_lets +onlyGivenNames v1; first | (have _ : Clocks := v1; subst v1) | (have _ : Fuses := v1; subst v1) | clear_value v1 | subst v1) | split)

theorem execCoexReqAssert_keeps {s0 s : State} {dt : Nat} {n : Fin 16} {k : Fin 4} (hk0 : Keeps s0 s) : KeepsNext s0 (execCoexReqAssert dt n k s) := by
  unfold execCoexReqAssert
  repeat' (first | with_reducible assumption | with_reducible apply elapse_keeps | with_reducible apply assertReq_keeps | with_reducible apply KeepsNext.next | (extract_lets +onlyGivenNames s1; clear_value (hs : s1 = _); refine Keeps.cut (s0 := s0) (x := s1) ?_ (fun k1 => ?_); (on_goal 1 => subst hs); (on_goal 2 => clear hs)) | (extract_lets +onlyGivenNames v1; first | (have _ : Clocks := v1; subst v1) | (have _ : Fuses := v1; subst v1) | clear_value v1 | subst v1) | split | (unfold Keeps; dsimp only; with_reducible refine Keeps.of ?_))

theorem execCoexGntChange_keeps {s0 s : State} {dt : Nat} {k : Fin 4} {level : Bool} (hk0 : Keeps s0 s) : KeepsNext s0 (execCoexGntChange dt k level s) := by
  unfold execCoexGntChange
  repeat' (first | with_reducible assumption | with_reducible apply elapse_keeps | with_reducible apply tryLaunch_keeps | with_reducible apply KeepsNext.next | with_reducible apply Keeps.foldl | (extract_lets +onlyGivenNames s1; clear_value (hs : s1 = _); refine Keeps.cut (s0 := s0) (x := s1) ?_ (fun k1 => ?_); (on_goal 1 => subst hs); (on_goal 2 => clear hs)) | (extract_lets +onlyGivenNames v1; first | (have _ : Clocks := v1; subst v1) | (have _ : Fuses := v1; subst v1) | clear_value v1 | subst v1) | split | intro _ _ _ | intro _ _ | (unfold Keeps; dsimp only; with_reducible refine Keeps.of ?_))

theorem execCoexLeadElapsed_keeps {s0 s : State} {dt : Nat} {n : Fin 16} (hk0 : Keeps s0 s) : KeepsNext s0 (execCoexLeadElapsed dt n s) := by
  unfold execCoexLeadElapsed
  repeat' (first | with_reducible assumption | with_reducible apply elapse_keeps | with_reducible apply tryLaunch_keeps | with_reducible apply KeepsNext.next | (extract_lets +onlyGivenNames s1; clear_value (hs : s1 = _); refine Keeps.cut (s0 := s0) (x := s1) ?_ (fun k1 => ?_); (on_goal 1 => subst hs); (on_goal 2 => clear hs)) | (extract_lets +onlyGivenNames v1; first | (have _ : Clocks := v1; subst v1) | (have _ : Fuses := v1; subst v1) | clear_value v1 | subst v1) | split)

theorem execTxLate_keeps {s0 s : State} {dt : Nat} {n : Fin 16} (hk0 : Keeps s0 s) : KeepsNext s0 (execTxLate dt n s) := by
  unfold execTxLate
  repeat' (first | with_reducible assumption | with_reducible apply elapse_keeps | with_reducible apply acceptNext_keeps | with_reducible apply failHeld_keeps | with_reducible apply endWaiting_keeps | with_reducible apply KeepsNext.next | (extract_lets +onlyGivenNames s1; clear_value (hs : s1 = _); refine Keeps.cut (s0 := s0) (x := s1) ?_ (fun k1 => ?_); (on_goal 1 => subst hs); (on_goal 2 => clear hs)) | (extract_lets +onlyGivenNames v1; first | (have _ : Clocks := v1; subst v1) | (have _ : Fuses := v1; subst v1) | clear_value v1 | subst v1) | split | (unfold Keeps; dsimp only; with_reducible refine Keeps.of ?_))

theorem execAckLate_keeps {s0 s : State} {dt : Nat} {n : Fin 16} (hk0 : Keeps s0 s) : KeepsNext s0 (execAckLate dt n s) := by
  unfold execAckLate
  repeat' (first | with_reducible assumption | with_reducible apply elapse_keeps | with_reducible apply acceptNext_keeps | with_reducible apply failHeld_keeps | with_reducible apply endWaiting_keeps | with_reducible apply KeepsNext.next | (extract_lets +onlyGivenNames s1; clear_value (hs : s1 = _); refine Keeps.cut (s0 := s0) (x := s1) ?_ (fun k1 => ?_); (on_goal 1 => subst hs); (on_goal 2 => clear hs)) | (extract_lets +onlyGivenNames v1; first | (have _ : Clocks := v1; subst v1) | (have _ : Fuses := v1; subst v1) | clear_value v1 | subst v1) | split | (unfold Keeps; dsimp only; with_reducible refine Keeps.of ?_))

theorem execPpduEnd_keeps {s0 s : State} {dt : Nat} {n : Fin 16} (hk0 : Keeps s0 s) : KeepsNext s0 (execPpduEnd dt n s) := by
  unfold execPpduEnd
  repeat' (first | with_reducible assumption | with_reducible apply elapse_keeps | with_reducible apply recordOutcome_keeps | with_reducible apply updPort_keeps | with_reducible apply onTxEnd_keeps | with_reducible apply KeepsNext.next | (extract_lets +onlyGivenNames s1; clear_value (hs : s1 = _); refine Keeps.cut (s0 := s0) (x := s1) ?_ (fun k1 => ?_); (on_goal 1 => subst hs); (on_goal 2 => clear hs)) | (extract_lets +onlyGivenNames v1; first | (have _ : Clocks := v1; subst v1) | (have _ : Fuses := v1; subst v1) | clear_value v1 | subst v1) | split | (unfold Keeps; dsimp only; with_reducible refine Keeps.of ?_))

theorem execTxSequenceEnd_keeps {s0 s : State} {dt : Nat} {n : Fin 16} (hk0 : Keeps s0 s) : KeepsNext s0 (execTxSequenceEnd dt n s) := by
  unfold execTxSequenceEnd
  repeat' (first | with_reducible assumption | with_reducible apply elapse_keeps | with_reducible apply dropReq_keeps | with_reducible apply updPort_keeps | with_reducible apply portOff_keeps | with_reducible apply acceptNext_keeps | with_reducible apply toReturnState_keeps | with_reducible apply KeepsNext.next | (extract_lets +onlyGivenNames s1; clear_value (hs : s1 = _); refine Keeps.cut (s0 := s0) (x := s1) ?_ (fun k1 => ?_); (on_goal 1 => subst hs); (on_goal 2 => clear hs)) | (extract_lets +onlyGivenNames v1; first | (have _ : Clocks := v1; subst v1) | (have _ : Fuses := v1; subst v1) | clear_value v1 | subst v1) | split | (unfold Keeps; dsimp only; with_reducible refine Keeps.of ?_))

theorem execTxrHoldExpire_keeps {s0 s : State} {dt : Nat} {n : Fin 16} (hk0 : Keeps s0 s) : KeepsNext s0 (execTxrHoldExpire dt n s) := by
  unfold execTxrHoldExpire
  repeat' (first | with_reducible assumption | with_reducible apply elapse_keeps | with_reducible apply towardRx_keeps | with_reducible apply KeepsNext.next | (extract_lets +onlyGivenNames s1; clear_value (hs : s1 = _); refine Keeps.cut (s0 := s0) (x := s1) ?_ (fun k1 => ?_); (on_goal 1 => subst hs); (on_goal 2 => clear hs)) | (extract_lets +onlyGivenNames v1; first | (have _ : Clocks := v1; subst v1) | (have _ : Fuses := v1; subst v1) | clear_value v1 | subst v1) | split | (unfold Keeps; dsimp only; with_reducible refine Keeps.of ?_))

theorem execTxCommandWithdraw_keeps {s0 s : State} {dt : Nat} {n : Fin 16} (hk0 : Keeps s0 s) : KeepsNext s0 (execTxCommandWithdraw dt n s) := by
  unfold execTxCommandWithdraw
  repeat' (first | with_reducible assumption | with_reducible apply elapse_keeps | with_reducible apply acceptNext_keeps | with_reducible apply failHeld_keeps | with_reducible apply KeepsNext.next | (extract_lets +onlyGivenNames s1; clear_value (hs : s1 = _); refine Keeps.cut (s0 := s0) (x := s1) ?_ (fun k1 => ?_); (on_goal 1 => subst hs); (on_goal 2 => clear hs)) | (extract_lets +onlyGivenNames v1; first | (have _ : Clocks := v1; subst v1) | (have _ : Fuses := v1; subst v1) | clear_value v1 | subst v1) | split)

theorem emitFault_keeps {s0 s : State} {n b : Nat} (hk0 : Keeps s0 s) : Keeps s0 (emitFault n b s) := by
  unfold emitFault
  repeat' (first | with_reducible assumption | with_reducible apply setF_keeps | with_reducible apply incF_keeps | with_reducible apply endHeld_keeps | with_reducible apply quietPort_keeps | with_reducible apply notify_keeps | with_reducible apply enterSafe_keeps | (extract_lets +onlyGivenNames s1; clear_value (hs : s1 = _); refine Keeps.cut (s0 := s0) (x := s1) ?_ (fun k1 => ?_); (on_goal 1 => subst hs); (on_goal 2 => clear hs)) | (extract_lets +onlyGivenNames v1; first | (have _ : Clocks := v1; subst v1) | (have _ : Fuses := v1; subst v1) | clear_value v1 | subst v1))

theorem execEmitPowerCheck_keeps {s0 s : State} {dt : Nat} {n : Fin 16} {meas : Int} (hk0 : Keeps s0 s) : KeepsNext s0 (execEmitPowerCheck dt n meas s) := by
  unfold execEmitPowerCheck
  repeat' (first | with_reducible assumption | with_reducible apply elapse_keeps | with_reducible apply updPort_keeps | with_reducible apply emitFault_keeps | with_reducible apply KeepsNext.next | (extract_lets +onlyGivenNames s1; clear_value (hs : s1 = _); refine Keeps.cut (s0 := s0) (x := s1) ?_ (fun k1 => ?_); (on_goal 1 => subst hs); (on_goal 2 => clear hs)) | (extract_lets +onlyGivenNames v1; first | (have _ : Clocks := v1; subst v1) | (have _ : Fuses := v1; subst v1) | clear_value v1 | subst v1) | split | (unfold Keeps; dsimp only; with_reducible refine Keeps.of ?_))

theorem execEmitFreqCheck_keeps {s0 s : State} {dt : Nat} {n : Fin 16} {locked : Bool} {hz : Nat} (hk0 : Keeps s0 s) : KeepsNext s0 (execEmitFreqCheck dt n locked hz s) := by
  unfold execEmitFreqCheck
  repeat' (first | with_reducible assumption | with_reducible apply elapse_keeps | with_reducible apply emitFault_keeps | with_reducible apply KeepsNext.next | (extract_lets +onlyGivenNames s1; clear_value (hs : s1 = _); refine Keeps.cut (s0 := s0) (x := s1) ?_ (fun k1 => ?_); (on_goal 1 => subst hs); (on_goal 2 => clear hs)) | (extract_lets +onlyGivenNames v1; first | (have _ : Clocks := v1; subst v1) | (have _ : Fuses := v1; subst v1) | clear_value v1 | subst v1) | split | (unfold Keeps; dsimp only; with_reducible refine Keeps.of ?_))

theorem execEmitDurationExpire_keeps {s0 s : State} {dt : Nat} {n : Fin 16} (hk0 : Keeps s0 s) : KeepsNext s0 (execEmitDurationExpire dt n s) := by
  unfold execEmitDurationExpire
  repeat' (first | with_reducible assumption | with_reducible apply elapse_keeps | with_reducible apply emitFault_keeps | with_reducible apply KeepsNext.next | (extract_lets +onlyGivenNames s1; clear_value (hs : s1 = _); refine Keeps.cut (s0 := s0) (x := s1) ?_ (fun k1 => ?_); (on_goal 1 => subst hs); (on_goal 2 => clear hs)) | (extract_lets +onlyGivenNames v1; first | (have _ : Clocks := v1; subst v1) | (have _ : Fuses := v1; subst v1) | clear_value v1 | subst v1) | split | (unfold Keeps; dsimp only; with_reducible refine Keeps.of ?_))

theorem execDutySubwindow_keeps {s0 s : State} {dt : Nat} {n : Fin 16} (hk0 : Keeps s0 s) : KeepsNext s0 (execDutySubwindow dt n s) := by
  unfold execDutySubwindow
  repeat' (first | with_reducible assumption | with_reducible apply elapse_keeps | with_reducible apply syncDuty_keeps | with_reducible apply updPort_keeps | with_reducible apply KeepsNext.next | (extract_lets +onlyGivenNames s1; clear_value (hs : s1 = _); refine Keeps.cut (s0 := s0) (x := s1) ?_ (fun k1 => ?_); (on_goal 1 => subst hs); (on_goal 2 => clear hs)) | (extract_lets +onlyGivenNames v1; first | (have _ : Clocks := v1; subst v1) | (have _ : Fuses := v1; subst v1) | clear_value v1 | subst v1) | split | (unfold Keeps; dsimp only; with_reducible refine Keeps.of ?_))

theorem execTjSample_keeps {s0 s : State} {dt : Nat} {n : Fin 16} {t : Int} (hk0 : Keeps s0 s) : KeepsNext s0 (execTjSample dt n t s) := by
  unfold execTjSample
  repeat' (first | with_reducible assumption | with_reducible apply elapse_keeps | with_reducible apply syncComp_keeps | with_reducible apply updPort_keeps | with_reducible apply setF_keeps | with_reducible apply KeepsNext.next | (extract_lets +onlyGivenNames s1; clear_value (hs : s1 = _); refine Keeps.cut (s0 := s0) (x := s1) ?_ (fun k1 => ?_); (on_goal 1 => subst hs); (on_goal 2 => clear hs)) | (extract_lets +onlyGivenNames v1; first | (have _ : Clocks := v1; subst v1) | (have _ : Fuses := v1; subst v1) | clear_value v1 | subst v1) | split | (unfold Keeps; dsimp only; with_reducible refine Keeps.of ?_))

theorem execVinSample_keeps {s0 s : State} {dt : Nat} {mv : Nat} (hk0 : Keeps s0 s) : KeepsNext s0 (execVinSample dt mv s) := by
  unfold execVinSample
  repeat' (first | with_reducible assumption | with_reducible apply elapse_keeps | with_reducible apply syncComp_keeps | with_reducible apply KeepsNext.next | with_reducible apply Keeps.foldl | (extract_lets +onlyGivenNames s1; clear_value (hs : s1 = _); refine Keeps.cut (s0 := s0) (x := s1) ?_ (fun k1 => ?_); (on_goal 1 => subst hs); (on_goal 2 => clear hs)) | (extract_lets +onlyGivenNames v1; first | (have _ : Clocks := v1; subst v1) | (have _ : Fuses := v1; subst v1) | clear_value v1 | subst v1) | split | intro _ _ _ | intro _ _ | (unfold Keeps; dsimp only; with_reducible refine Keeps.of ?_))

theorem writeCalCtrl_keeps {s0 s : State} {m : Master} {n : Nat} {w : Word} (hk0 : Keeps s0 s) : Keeps s0 (writeCalCtrl m n w s) := by
  unfold writeCalCtrl
  repeat' (first | with_reducible assumption | with_reducible apply ignored_keeps | with_reducible apply startCal_keeps | with_reducible apply pendCal_keeps | split)

theorem execCalReq_keeps {s0 s : State} {dt : Nat} {m : Master} {n : Fin 16} {w : Word} (hk0 : Keeps s0 s) : KeepsNext s0 (execCalReq dt m n w s) := by
  unfold execCalReq
  repeat' (first | with_reducible assumption | with_reducible apply gatedWrite_keeps | with_reducible apply writeCalCtrl_keeps | with_reducible apply elapse_keeps | with_reducible apply KeepsNext.next | intro _ _ _ | intro _ _)

theorem execCalTempCheck_keeps {s0 s : State} {dt : Nat} {n : Fin 16} (hk0 : Keeps s0 s) : KeepsNext s0 (execCalTempCheck dt n s) := by
  unfold execCalTempCheck
  repeat' (first | with_reducible assumption | with_reducible apply elapse_keeps | with_reducible apply pendCal_keeps | with_reducible apply KeepsNext.next | (extract_lets +onlyGivenNames s1; clear_value (hs : s1 = _); refine Keeps.cut (s0 := s0) (x := s1) ?_ (fun k1 => ?_); (on_goal 1 => subst hs); (on_goal 2 => clear hs)) | (extract_lets +onlyGivenNames v1; first | (have _ : Clocks := v1; subst v1) | (have _ : Fuses := v1; subst v1) | clear_value v1 | subst v1) | split)

theorem execCalPeriodExpire_keeps {s0 s : State} {dt : Nat} {n : Fin 16} (hk0 : Keeps s0 s) : KeepsNext s0 (execCalPeriodExpire dt n s) := by
  unfold execCalPeriodExpire
  repeat' (first | with_reducible assumption | with_reducible apply elapse_keeps | with_reducible apply pendCal_keeps | with_reducible apply KeepsNext.next | (extract_lets +onlyGivenNames s1; clear_value (hs : s1 = _); refine Keeps.cut (s0 := s0) (x := s1) ?_ (fun k1 => ?_); (on_goal 1 => subst hs); (on_goal 2 => clear hs)) | (extract_lets +onlyGivenNames v1; first | (have _ : Clocks := v1; subst v1) | (have _ : Fuses := v1; subst v1) | clear_value v1 | subst v1) | split | (unfold Keeps; dsimp only; with_reducible refine Keeps.of ?_))

theorem execCalStart_keeps {s0 s : State} {dt : Nat} {n : Fin 16} (hk0 : Keeps s0 s) : KeepsNext s0 (execCalStart dt n s) := by
  unfold execCalStart
  extract_lets s1 forced free d s2 s3 s4
  have k1 : Keeps s0 s1 := elapse_keeps hk0
  have k2 : Keeps s0 s2 := setF_keeps (setF_keeps (setF_keeps k1))
  have k3 : Keeps s0 s3 := Keeps.ite (notify_keeps (incF_keeps k2)) k2
  have k4 : Keeps s0 s4 := blankPort_keeps (setF_keeps k3)
  split
  · exact KeepsNext.next k1
  · split
    · exact KeepsNext.next (updPort_keeps k4)
    · exact KeepsNext.next k1
theorem execCalEnter_keeps {s0 s : State} {dt : Nat} {n : Fin 16} (hk0 : Keeps s0 s) : KeepsNext s0 (execCalEnter dt n s) := by
  unfold execCalEnter
  repeat' (first | with_reducible assumption | with_reducible apply elapse_keeps | with_reducible apply setPstate_keeps | with_reducible apply setF_keeps | with_reducible apply updPort_keeps | with_reducible apply KeepsNext.next | (extract_lets +onlyGivenNames s1; clear_value (hs : s1 = _); refine Keeps.cut (s0 := s0) (x := s1) ?_ (fun k1 => ?_); (on_goal 1 => subst hs); (on_goal 2 => clear hs)) | (extract_lets +onlyGivenNames v1; first | (have _ : Clocks := v1; subst v1) | (have _ : Fuses := v1; subst v1) | clear_value v1 | subst v1) | split | (unfold Keeps; dsimp only; with_reducible refine Keeps.of ?_))

theorem calOk_keeps {s0 s : State} {n : Nat} (hk0 : Keeps s0 s) : Keeps s0 (calOk n s) := by
  unfold calOk
  repeat' (first | with_reducible assumption | with_reducible apply setF_keeps | with_reducible apply incF_keeps | with_reducible apply updPort_keeps | with_reducible apply notify_keeps | with_reducible apply setPstate_keeps | with_reducible apply retune_keeps | with_reducible apply drainQuiet_keeps | with_reducible apply endHeld_keeps | with_reducible apply settleFor_keeps | with_reducible apply settle_keeps | with_reducible apply acceptNext_keeps | (extract_lets +onlyGivenNames s1; clear_value (hs : s1 = _); refine Keeps.cut (s0 := s0) (x := s1) ?_ (fun k1 => ?_); (on_goal 1 => subst hs); (on_goal 2 => clear hs)) | (extract_lets +onlyGivenNames v1; first | (have _ : Clocks := v1; subst v1) | (have _ : Fuses := v1; subst v1) | clear_value v1 | subst v1) | split | (unfold Keeps; dsimp only; with_reducible refine Keeps.of ?_))

theorem calFail_keeps {s0 s : State} {n step : Nat} (hk0 : Keeps s0 s) : Keeps s0 (calFail n step s) := by
  unfold calFail
  repeat' (first | with_reducible assumption | with_reducible apply portOff_keeps | with_reducible apply setF_keeps | with_reducible apply notify_keeps | with_reducible apply incF_keeps | (extract_lets +onlyGivenNames s1; clear_value (hs : s1 = _); refine Keeps.cut (s0 := s0) (x := s1) ?_ (fun k1 => ?_); (on_goal 1 => subst hs); (on_goal 2 => clear hs)) | (extract_lets +onlyGivenNames v1; first | (have _ : Clocks := v1; subst v1) | (have _ : Fuses := v1; subst v1) | clear_value v1 | subst v1))

theorem execCalEnd_keeps {s0 s : State} {dt : Nat} {n : Fin 16} {failed : Option (Fin 3)} (hk0 : Keeps s0 s) : KeepsNext s0 (execCalEnd dt n failed s) := by
  unfold execCalEnd
  repeat' (first | with_reducible assumption | with_reducible apply elapse_keeps | with_reducible apply bootCalEnded_keeps | with_reducible apply calOk_keeps | with_reducible apply calFail_keeps | with_reducible apply KeepsNext.next | (extract_lets +onlyGivenNames s1; clear_value (hs : s1 = _); refine Keeps.cut (s0 := s0) (x := s1) ?_ (fun k1 => ?_); (on_goal 1 => subst hs); (on_goal 2 => clear hs)) | (extract_lets +onlyGivenNames v1; first | (have _ : Clocks := v1; subst v1) | (have _ : Fuses := v1; subst v1) | clear_value v1 | subst v1) | split | (unfold Keeps; dsimp only; with_reducible refine Keeps.of ?_))


end Sys2Proof.Machine
end

