-- ==== Sys2Proof/Laws/KeepsTime.lean ====
section
/-! SUPPORT. What the operations of Machine/Time.lean keep. -/

set_option linter.unusedTactic false
set_option linter.unreachableTactic false
set_option linter.unusedVariables false

namespace Sys2Proof.Machine

theorem writeIncHi_keeps {s0 s : State} {m : Master} {n : Nat} {w : Word} (hk0 : Keeps s0 s) : Keeps s0 (writeIncHi m n w s) := by
  unfold writeIncHi
  repeat' (first | with_reducible assumption | with_reducible apply ignored_keeps | with_reducible apply setF_keeps | with_reducible apply updDomain_keeps | (extract_lets +onlyGivenNames s1; clear_value (hs : s1 = _); refine Keeps.cut (s0 := s0) (x := s1) ?_ (fun k1 => ?_); (on_goal 1 => subst hs); (on_goal 2 => clear hs)) | (extract_lets +onlyGivenNames v1; first | (have _ : Clocks := v1; subst v1) | (have _ : Fuses := v1; subst v1) | clear_value v1 | subst v1) | split | (unfold Keeps; dsimp only; with_reducible refine Keeps.of ?_))

theorem execTimIncWrite_keeps {s0 s : State} {dt : Nat} {m : Master} {n : Fin 2} {w : Word} (hk0 : Keeps s0 s) : KeepsNext s0 (execTimIncWrite dt m n w s) := by
  unfold execTimIncWrite
  repeat' (first | with_reducible assumption | with_reducible apply gatedWrite_keeps | with_reducible apply writeIncHi_keeps | with_reducible apply elapse_keeps | with_reducible apply KeepsNext.next | intro _ _ _ | intro _ _)

theorem execHoldover_keeps {s0 s : State} {dt : Nat} {n : Fin 2} (hk0 : Keeps s0 s) : KeepsNext s0 (execHoldover dt n s) := by
  unfold execHoldover
  repeat' (first | with_reducible assumption | with_reducible apply elapse_keeps | with_reducible apply notify_keeps | with_reducible apply setF_keeps | with_reducible apply KeepsNext.next | (extract_lets +onlyGivenNames s1; clear_value (hs : s1 = _); refine Keeps.cut (s0 := s0) (x := s1) ?_ (fun k1 => ?_); (on_goal 1 => subst hs); (on_goal 2 => clear hs)) | (extract_lets +onlyGivenNames v1; first | (have _ : Clocks := v1; subst v1) | (have _ : Fuses := v1; subst v1) | clear_value v1 | subst v1) | split)

theorem stepState_keeps {s0 s : State} {n st : Nat} (hk0 : Keeps s0 s) : Keeps s0 (stepState n st s) := by
  unfold stepState
  repeat' (first | with_reducible assumption | with_reducible apply setF_keeps)

theorem setOfs_keeps {s0 s : State} {v : Int} (hk0 : Keeps s0 s) : Keeps s0 (setOfs v s) := by
  unfold setOfs
  repeat' (first | with_reducible assumption | with_reducible apply set64_keeps | (extract_lets +onlyGivenNames s1; clear_value (hs : s1 = _); refine Keeps.cut (s0 := s0) (x := s1) ?_ (fun k1 => ?_); (on_goal 1 => subst hs); (on_goal 2 => clear hs)) | (extract_lets +onlyGivenNames v1; first | (have _ : Clocks := v1; subst v1) | (have _ : Fuses := v1; subst v1) | clear_value v1 | subst v1) | (unfold Keeps; dsimp only; with_reducible refine Keeps.of ?_))

theorem applyStep_keeps {s0 s : State} {n : Nat} {ns : Int} (hk0 : Keeps s0 s) : Keeps s0 (applyStep n ns s) := by
  unfold applyStep
  repeat' (first | with_reducible assumption | with_reducible apply updDomain_keeps | with_reducible apply stepState_keeps | with_reducible apply setOfs_keeps | with_reducible apply notify_keeps | with_reducible apply incF_keeps | (extract_lets +onlyGivenNames s1; clear_value (hs : s1 = _); refine Keeps.cut (s0 := s0) (x := s1) ?_ (fun k1 => ?_); (on_goal 1 => subst hs); (on_goal 2 => clear hs)) | (extract_lets +onlyGivenNames v1; first | (have _ : Clocks := v1; subst v1) | (have _ : Fuses := v1; subst v1) | clear_value v1 | subst v1) | split | (unfold Keeps; dsimp only; with_reducible refine Keeps.of ?_))

theorem writeStepNs_keeps {s0 s : State} {m : Master} {n : Nat} {w : Word} (hk0 : Keeps s0 s) : Keeps s0 (writeStepNs m n w s) := by
  unfold writeStepNs
  repeat' (first | with_reducible assumption | with_reducible apply ignored_keeps | with_reducible apply setF_keeps | with_reducible apply updDomain_keeps | with_reducible apply stepState_keeps | with_reducible apply notify_keeps | with_reducible apply applyStep_keeps | (extract_lets +onlyGivenNames s1; clear_value (hs : s1 = _); refine Keeps.cut (s0 := s0) (x := s1) ?_ (fun k1 => ?_); (on_goal 1 => subst hs); (on_goal 2 => clear hs)) | (extract_lets +onlyGivenNames v1; first | (have _ : Clocks := v1; subst v1) | (have _ : Fuses := v1; subst v1) | clear_value v1 | subst v1) | split | (unfold Keeps; dsimp only; with_reducible refine Keeps.of ?_))

theorem execTimStep_keeps {s0 s : State} {dt : Nat} {m : Master} {n : Fin 2} {w : Word} (hk0 : Keeps s0 s) : KeepsNext s0 (execTimStep dt m n w s) := by
  unfold execTimStep
  repeat' (first | with_reducible assumption | with_reducible apply gatedWrite_keeps | with_reducible apply writeStepNs_keeps | with_reducible apply elapse_keeps | with_reducible apply KeepsNext.next | intro _ _ _ | intro _ _)

theorem execStepArmExpire_keeps {s0 s : State} {dt : Nat} {n : Fin 2} (hk0 : Keeps s0 s) : KeepsNext s0 (execStepArmExpire dt n s) := by
  unfold execStepArmExpire
  repeat' (first | with_reducible assumption | with_reducible apply elapse_keeps | with_reducible apply voidArm_keeps | with_reducible apply KeepsNext.next | (extract_lets +onlyGivenNames s1; clear_value (hs : s1 = _); refine Keeps.cut (s0 := s0) (x := s1) ?_ (fun k1 => ?_); (on_goal 1 => subst hs); (on_goal 2 => clear hs)) | (extract_lets +onlyGivenNames v1; first | (have _ : Clocks := v1; subst v1) | (have _ : Fuses := v1; subst v1) | clear_value v1 | subst v1) | split | (unfold Keeps; dsimp only; with_reducible refine Keeps.of ?_))

theorem writeTimCmd_keeps {s0 s : State} {m : Master} {w : Word} (hk0 : Keeps s0 s) : Keeps s0 (writeTimCmd m w s) := by
  unfold writeTimCmd
  repeat' (first | with_reducible assumption | with_reducible apply ignored_keeps | with_reducible apply setOfs_keeps | split)

theorem execClrOfs_keeps {s0 s : State} {dt : Nat} {m : Master} {w : Word} (hk0 : Keeps s0 s) : KeepsNext s0 (execClrOfs dt m w s) := by
  unfold execClrOfs
  repeat' (first | with_reducible assumption | with_reducible apply gatedWrite_keeps | with_reducible apply writeTimCmd_keeps | with_reducible apply elapse_keeps | with_reducible apply KeepsNext.next | intro _ _ _ | intro _ _)

theorem tsuWrite_keeps {s0 s : State} {rec : List Byte} (hk0 : Keeps s0 s) : Keeps s0 (tsuWrite rec s) := by
  unfold tsuWrite
  repeat' (first | with_reducible assumption | with_reducible apply satF_keeps | with_reducible apply notify_keeps | with_reducible apply setBytes_keeps | with_reducible apply incF_keeps | (extract_lets +onlyGivenNames s1; clear_value (hs : s1 = _); refine Keeps.cut (s0 := s0) (x := s1) ?_ (fun k1 => ?_); (on_goal 1 => subst hs); (on_goal 2 => clear hs)) | (extract_lets +onlyGivenNames v1; first | (have _ : Clocks := v1; subst v1) | (have _ : Fuses := v1; subst v1) | clear_value v1 | subst v1) | split | (unfold Keeps; dsimp only; with_reducible refine Keeps.of ?_))

theorem putNs_keeps {s0 s : State} {f : Field} {v : Int} (hk0 : Keeps s0 s) : Keeps s0 (putNs f v s) := by
  unfold putNs
  repeat' (first | with_reducible assumption | with_reducible apply setF_keeps)

theorem putOffset_keeps {s0 s : State} {n : Nat} {y : SyncInfo} (hk0 : Keeps s0 s) : Keeps s0 (putOffset n y s) := by
  unfold putOffset
  repeat' (first | with_reducible assumption | with_reducible apply set64_keeps | (extract_lets +onlyGivenNames s1; clear_value (hs : s1 = _); refine Keeps.cut (s0 := s0) (x := s1) ?_ (fun k1 => ?_); (on_goal 1 => subst hs); (on_goal 2 => clear hs)) | (extract_lets +onlyGivenNames v1; first | (have _ : Clocks := v1; subst v1) | (have _ : Fuses := v1; subst v1) | clear_value v1 | subst v1) | split | (unfold Keeps; dsimp only; with_reducible refine Keeps.of ?_))

theorem delayEst_keeps {s0 s : State} {n : Nat} {mpd : Int} (hk0 : Keeps s0 s) : Keeps s0 (delayEst n mpd s) := by
  unfold delayEst
  repeat' (first | with_reducible assumption | with_reducible apply putNs_keeps | with_reducible apply updDomain_keeps | (extract_lets +onlyGivenNames s1; clear_value (hs : s1 = _); refine Keeps.cut (s0 := s0) (x := s1) ?_ (fun k1 => ?_); (on_goal 1 => subst hs); (on_goal 2 => clear hs)) | (extract_lets +onlyGivenNames v1; first | (have _ : Clocks := v1; subst v1) | (have _ : Fuses := v1; subst v1) | clear_value v1 | subst v1) | split | (unfold Keeps; dsimp only; with_reducible refine Keeps.of ?_))

theorem pathStep_keeps {s0 s : State} {n : Nat} {mpd : Int} (hk0 : Keeps s0 s) : Keeps s0 (pathStep n mpd s) := by
  unfold pathStep
  repeat' (first | with_reducible assumption | with_reducible apply updDomain_keeps | with_reducible apply setF_keeps | with_reducible apply notify_keeps | with_reducible apply incF_keeps | (extract_lets +onlyGivenNames s1; clear_value (hs : s1 = _); refine Keeps.cut (s0 := s0) (x := s1) ?_ (fun k1 => ?_); (on_goal 1 => subst hs); (on_goal 2 => clear hs)) | (extract_lets +onlyGivenNames v1; first | (have _ : Clocks := v1; subst v1) | (have _ : Fuses := v1; subst v1) | clear_value v1 | subst v1) | split | (unfold Keeps; dsimp only; with_reducible refine Keeps.of ?_))

theorem completeExchange_keeps {s0 s : State} {n : Nat} {mpd : Int} {y : Option SyncInfo} (hk0 : Keeps s0 s) : Keeps s0 (completeExchange n mpd y s) := by
  unfold completeExchange
  repeat' (first | with_reducible assumption | with_reducible apply putNs_keeps | with_reducible apply incF_keeps | with_reducible apply delayEst_keeps | with_reducible apply pathStep_keeps | with_reducible apply setF_keeps | with_reducible apply updDomain_keeps | with_reducible apply putOffset_keeps | (extract_lets +onlyGivenNames s1; clear_value (hs : s1 = _); refine Keeps.cut (s0 := s0) (x := s1) ?_ (fun k1 => ?_); (on_goal 1 => subst hs); (on_goal 2 => clear hs)) | (extract_lets +onlyGivenNames v1; first | (have _ : Clocks := v1; subst v1) | (have _ : Fuses := v1; subst v1) | clear_value v1 | subst v1) | split | (unfold Keeps; dsimp only; with_reducible refine Keeps.of ?_))

theorem ptpEvent_keeps {s0 s : State} {n port : Nat} {tx : Bool} {p : PtpMsg} (hk0 : Keeps s0 s) : Keeps s0 (ptpEvent n port tx p s) := by
  unfold ptpEvent
  repeat' (first | with_reducible assumption | with_reducible apply updDomain_keeps | (extract_lets +onlyGivenNames s1; clear_value (hs : s1 = _); refine Keeps.cut (s0 := s0) (x := s1) ?_ (fun k1 => ?_); (on_goal 1 => subst hs); (on_goal 2 => clear hs)) | (extract_lets +onlyGivenNames v1; first | (have _ : Clocks := v1; subst v1) | (have _ : Fuses := v1; subst v1) | clear_value v1 | subst v1) | split | (unfold Keeps; dsimp only; with_reducible refine Keeps.of ?_))

theorem execPtpEventTimestamp_keeps {s0 s : State} {dt : Nat} {port : Fin 2} {tx : Bool} {p : PtpMsg} (hk0 : Keeps s0 s) : KeepsNext s0 (execPtpEventTimestamp dt port tx p s) := by
  unfold execPtpEventTimestamp
  repeat' (first | with_reducible assumption | with_reducible apply elapse_keeps | with_reducible apply tsuWrite_keeps | with_reducible apply ptpEvent_keeps | with_reducible apply KeepsNext.next | (extract_lets +onlyGivenNames s1; clear_value (hs : s1 = _); refine Keeps.cut (s0 := s0) (x := s1) ?_ (fun k1 => ?_); (on_goal 1 => subst hs); (on_goal 2 => clear hs)) | (extract_lets +onlyGivenNames v1; first | (have _ : Clocks := v1; subst v1) | (have _ : Fuses := v1; subst v1) | clear_value v1 | subst v1) | split)

theorem ptpGeneral_keeps {s0 s : State} {n port : Nat} {p : PtpMsg} (hk0 : Keeps s0 s) : Keeps s0 (ptpGeneral n port p s) := by
  unfold ptpGeneral
  repeat' (first | with_reducible assumption | with_reducible apply updDomain_keeps | with_reducible apply completeExchange_keeps | (extract_lets +onlyGivenNames s1; clear_value (hs : s1 = _); refine Keeps.cut (s0 := s0) (x := s1) ?_ (fun k1 => ?_); (on_goal 1 => subst hs); (on_goal 2 => clear hs)) | (extract_lets +onlyGivenNames v1; first | (have _ : Clocks := v1; subst v1) | (have _ : Fuses := v1; subst v1) | clear_value v1 | subst v1) | split | (unfold Keeps; dsimp only; with_reducible refine Keeps.of ?_))

theorem execPtpGeneralMessage_keeps {s0 s : State} {dt : Nat} {port : Fin 2} {p : PtpMsg} (hk0 : Keeps s0 s) : KeepsNext s0 (execPtpGeneralMessage dt port p s) := by
  unfold execPtpGeneralMessage
  repeat' (first | with_reducible assumption | with_reducible apply elapse_keeps | with_reducible apply ptpGeneral_keeps | with_reducible apply KeepsNext.next | (extract_lets +onlyGivenNames s1; clear_value (hs : s1 = _); refine Keeps.cut (s0 := s0) (x := s1) ?_ (fun k1 => ?_); (on_goal 1 => subst hs); (on_goal 2 => clear hs)) | (extract_lets +onlyGivenNames v1; first | (have _ : Clocks := v1; subst v1) | (have _ : Fuses := v1; subst v1) | clear_value v1 | subst v1) | split)

theorem execPtpExchangeDiscard_keeps {s0 s : State} {dt : Nat} {n : Fin 2} (hk0 : Keeps s0 s) : KeepsNext s0 (execPtpExchangeDiscard dt n s) := by
  unfold execPtpExchangeDiscard
  repeat' (first | with_reducible assumption | with_reducible apply elapse_keeps | with_reducible apply incF_keeps | with_reducible apply updDomain_keeps | with_reducible apply KeepsNext.next | (extract_lets +onlyGivenNames s1; clear_value (hs : s1 = _); refine Keeps.cut (s0 := s0) (x := s1) ?_ (fun k1 => ?_); (on_goal 1 => subst hs); (on_goal 2 => clear hs)) | (extract_lets +onlyGivenNames v1; first | (have _ : Clocks := v1; subst v1) | (have _ : Fuses := v1; subst v1) | clear_value v1 | subst v1) | split | (unfold Keeps; dsimp only; with_reducible refine Keeps.of ?_))

theorem writeExchStatus_keeps {s0 s : State} {m : Master} {n : Nat} {w : Word} (hk0 : Keeps s0 s) : Keeps s0 (writeExchStatus m n w s) := by
  unfold writeExchStatus
  repeat' (first | with_reducible assumption | with_reducible apply ignored_keeps | with_reducible apply setF_keeps | with_reducible apply updDomain_keeps | (extract_lets +onlyGivenNames s1; clear_value (hs : s1 = _); refine Keeps.cut (s0 := s0) (x := s1) ?_ (fun k1 => ?_); (on_goal 1 => subst hs); (on_goal 2 => clear hs)) | (extract_lets +onlyGivenNames v1; first | (have _ : Clocks := v1; subst v1) | (have _ : Fuses := v1; subst v1) | clear_value v1 | subst v1) | split | (unfold Keeps; dsimp only; with_reducible refine Keeps.of ?_))

theorem execPathStepClear_keeps {s0 s : State} {dt : Nat} {m : Master} {n : Fin 2} {w : Word} (hk0 : Keeps s0 s) : KeepsNext s0 (execPathStepClear dt m n w s) := by
  unfold execPathStepClear
  repeat' (first | with_reducible assumption | with_reducible apply gatedWrite_keeps | with_reducible apply writeExchStatus_keeps | with_reducible apply elapse_keeps | with_reducible apply KeepsNext.next | intro _ _ _ | intro _ _)

theorem execDomainCompare_keeps {s0 s : State} {dt : Nat} (hk0 : Keeps s0 s) : KeepsNext s0 (execDomainCompare dt s) := by
  unfold execDomainCompare
  repeat' (first | with_reducible assumption | with_reducible apply elapse_keeps | with_reducible apply setF_keeps | with_reducible apply notify_keeps | with_reducible apply KeepsNext.next | (extract_lets +onlyGivenNames s1; clear_value (hs : s1 = _); refine Keeps.cut (s0 := s0) (x := s1) ?_ (fun k1 => ?_); (on_goal 1 => subst hs); (on_goal 2 => clear hs)) | (extract_lets +onlyGivenNames v1; first | (have _ : Clocks := v1; subst v1) | (have _ : Fuses := v1; subst v1) | clear_value v1 | subst v1) | split)

theorem execPpsInEdge_keeps {s0 s : State} {dt : Nat} (hk0 : Keeps s0 s) : KeepsNext s0 (execPpsInEdge dt s) := by
  unfold execPpsInEdge
  repeat' (first | with_reducible assumption | with_reducible apply elapse_keeps | with_reducible apply set64_keeps | with_reducible apply setF_keeps | with_reducible apply incF_keeps | with_reducible apply KeepsNext.next | (extract_lets +onlyGivenNames s1; clear_value (hs : s1 = _); refine Keeps.cut (s0 := s0) (x := s1) ?_ (fun k1 => ?_); (on_goal 1 => subst hs); (on_goal 2 => clear hs)) | (extract_lets +onlyGivenNames v1; first | (have _ : Clocks := v1; subst v1) | (have _ : Fuses := v1; subst v1) | clear_value v1 | subst v1) | split | (unfold Keeps; dsimp only; with_reducible refine Keeps.of ?_))

theorem execPpsLost_keeps {s0 s : State} {dt : Nat} (hk0 : Keeps s0 s) : KeepsNext s0 (execPpsLost dt s) := by
  unfold execPpsLost
  repeat' (first | with_reducible assumption | with_reducible apply elapse_keeps | with_reducible apply notify_keeps | with_reducible apply KeepsNext.next | (extract_lets +onlyGivenNames s1; clear_value (hs : s1 = _); refine Keeps.cut (s0 := s0) (x := s1) ?_ (fun k1 => ?_); (on_goal 1 => subst hs); (on_goal 2 => clear hs)) | (extract_lets +onlyGivenNames v1; first | (have _ : Clocks := v1; subst v1) | (have _ : Fuses := v1; subst v1) | clear_value v1 | subst v1) | split | (unfold Keeps; dsimp only; with_reducible refine Keeps.of ?_))

theorem execPpsOutPulse_keeps {s0 s : State} {dt : Nat} (hk0 : Keeps s0 s) : KeepsNext s0 (execPpsOutPulse dt s) := by
  unfold execPpsOutPulse
  repeat' (first | with_reducible assumption | with_reducible apply elapse_keeps | with_reducible apply KeepsNext.next | (extract_lets +onlyGivenNames s1; clear_value (hs : s1 = _); refine Keeps.cut (s0 := s0) (x := s1) ?_ (fun k1 => ?_); (on_goal 1 => subst hs); (on_goal 2 => clear hs)) | (extract_lets +onlyGivenNames v1; first | (have _ : Clocks := v1; subst v1) | (have _ : Fuses := v1; subst v1) | clear_value v1 | subst v1) | split | (unfold Keeps; dsimp only; with_reducible refine Keeps.of ?_))

theorem execPpsOutEnd_keeps {s0 s : State} {dt : Nat} (hk0 : Keeps s0 s) : KeepsNext s0 (execPpsOutEnd dt s) := by
  unfold execPpsOutEnd
  repeat' (first | with_reducible assumption | with_reducible apply elapse_keeps | with_reducible apply KeepsNext.next | (extract_lets +onlyGivenNames s1; clear_value (hs : s1 = _); refine Keeps.cut (s0 := s0) (x := s1) ?_ (fun k1 => ?_); (on_goal 1 => subst hs); (on_goal 2 => clear hs)) | (extract_lets +onlyGivenNames v1; first | (have _ : Clocks := v1; subst v1) | (have _ : Fuses := v1; subst v1) | clear_value v1 | subst v1) | split | (unfold Keeps; dsimp only; with_reducible refine Keeps.of ?_))

theorem execTsuRingRdWrite_keeps {s0 s : State} {dt : Nat} {m : Master} {w : Word} (hk0 : Keeps s0 s) : KeepsNext s0 (execTsuRingRdWrite dt m w s) := by
  unfold execTsuRingRdWrite
  repeat' (first | with_reducible assumption | with_reducible apply gatedWrite_keeps | with_reducible apply writeRingRd_keeps | with_reducible apply elapse_keeps | with_reducible apply KeepsNext.next | intro _ _ _ | intro _ _)


end Sys2Proof.Machine
end

