-- ==== Sys2Proof/Laws/KeepsStartup.lean ====
section
/-! SUPPORT. What the operations of Machine/Startup.lean keep. -/

set_option linter.unusedTactic false
set_option linter.unreachableTactic false
set_option linter.unusedVariables false

namespace Sys2Proof.Machine

theorem vinUp_keeps {s0 s : State} {resetLow nvm fe ddr vbat pairId : Bool} (hk0 : Keeps s0 s) : Keeps s0 (vinUp resetLow nvm fe ddr vbat pairId s) := by
  unfold vinUp
  repeat' (first | with_reducible assumption | with_reducible apply toStep_keeps | (extract_lets +onlyGivenNames s1; clear_value (hs : s1 = _); refine Keeps.cut (s0 := s0) (x := s1) ?_ (fun k1 => ?_); (on_goal 1 => subst hs); (on_goal 2 => clear hs)) | (extract_lets +onlyGivenNames v1; first | (have _ : Clocks := v1; subst v1) | (have _ : Fuses := v1; subst v1) | clear_value v1 | subst v1) | (unfold Keeps; dsimp only; with_reducible refine Keeps.of ?_))

theorem execVinValid_keeps {s0 s : State} {dt : Nat} {resetLow nvm fe ddr vbat pairId : Bool} (hk0 : Keeps s0 s) : KeepsNext s0 (execVinValid dt resetLow nvm fe ddr vbat pairId s) := by
  unfold execVinValid
  repeat' (first | with_reducible assumption | with_reducible apply elapse_keeps | with_reducible apply vinUp_keeps | with_reducible apply KeepsNext.next | (extract_lets +onlyGivenNames s1; clear_value (hs : s1 = _); refine Keeps.cut (s0 := s0) (x := s1) ?_ (fun k1 => ?_); (on_goal 1 => subst hs); (on_goal 2 => clear hs)) | (extract_lets +onlyGivenNames v1; first | (have _ : Clocks := v1; subst v1) | (have _ : Fuses := v1; subst v1) | clear_value v1 | subst v1) | split)

theorem execResetNPulse_keeps {s0 s : State} {dt : Nat} (hk0 : Keeps s0 s) : KeepsNext s0 (execResetNPulse dt s) := by
  unfold execResetNPulse
  repeat' (first | with_reducible assumption | with_reducible apply elapse_keeps | with_reducible apply toStep_keeps | with_reducible apply restart_keeps | with_reducible apply KeepsNext.next | (extract_lets +onlyGivenNames s1; clear_value (hs : s1 = _); refine Keeps.cut (s0 := s0) (x := s1) ?_ (fun k1 => ?_); (on_goal 1 => subst hs); (on_goal 2 => clear hs)) | (extract_lets +onlyGivenNames v1; first | (have _ : Clocks := v1; subst v1) | (have _ : Fuses := v1; subst v1) | clear_value v1 | subst v1) | split | (unfold Keeps; dsimp only; with_reducible refine Keeps.of ?_))

theorem writeRestart_keeps {s0 s : State} {m : Master} {w : Word} (hk0 : Keeps s0 s) : Keeps s0 (writeRestart m w s) := by
  unfold writeRestart
  repeat' (first | with_reducible assumption | with_reducible apply ignored_keeps | with_reducible apply restart_keeps | split)

theorem execCfgRestart_keeps {s0 s : State} {dt : Nat} {m : Master} {w : Word} (hk0 : Keeps s0 s) : KeepsNext s0 (execCfgRestart dt m w s) := by
  unfold execCfgRestart
  repeat' (first | with_reducible assumption | with_reducible apply gatedWrite_keeps | with_reducible apply writeRestart_keeps | with_reducible apply elapse_keeps | with_reducible apply KeepsNext.next | intro _ _ _ | intro _ _)

theorem writeNvmCtrl_keeps {s0 s : State} {m : Master} {w : Word} (hk0 : Keeps s0 s) : Keeps s0 (writeNvmCtrl m w s) := by
  unfold writeNvmCtrl
  repeat' (first | with_reducible assumption | with_reducible apply ignored_keeps | with_reducible apply setF_keeps | (extract_lets +onlyGivenNames s1; clear_value (hs : s1 = _); refine Keeps.cut (s0 := s0) (x := s1) ?_ (fun k1 => ?_); (on_goal 1 => subst hs); (on_goal 2 => clear hs)) | (extract_lets +onlyGivenNames v1; first | (have _ : Clocks := v1; subst v1) | (have _ : Fuses := v1; subst v1) | clear_value v1 | subst v1) | split)

theorem execCfgNvmRelease_keeps {s0 s : State} {dt : Nat} {m : Master} {w : Word} (hk0 : Keeps s0 s) : KeepsNext s0 (execCfgNvmRelease dt m w s) := by
  unfold execCfgNvmRelease
  repeat' (first | with_reducible assumption | with_reducible apply gatedWrite_keeps | with_reducible apply writeNvmCtrl_keeps | with_reducible apply elapse_keeps | with_reducible apply KeepsNext.next | intro _ _ _ | intro _ _)

theorem execAonUp_keeps {s0 s : State} {dt : Nat} (hk0 : Keeps s0 s) : KeepsNext s0 (execAonUp dt s) := by
  unfold execAonUp
  repeat' (first | with_reducible assumption | with_reducible apply elapse_keeps | with_reducible apply setF_keeps | with_reducible apply toStep_keeps | with_reducible apply updPair_keeps | with_reducible apply tamperEvent_keeps | with_reducible apply KeepsNext.next | (extract_lets +onlyGivenNames s1; clear_value (hs : s1 = _); refine Keeps.cut (s0 := s0) (x := s1) ?_ (fun k1 => ?_); (on_goal 1 => subst hs); (on_goal 2 => clear hs)) | (extract_lets +onlyGivenNames v1; first | (have _ : Clocks := v1; subst v1) | (have _ : Fuses := v1; subst v1) | clear_value v1 | subst v1) | split | (unfold Keeps; dsimp only; with_reducible refine Keeps.of ?_))

theorem renewSeed_keeps {s0 s : State} (hk0 : Keeps s0 s) : Keeps s0 (renewSeed s) := by
  unfold renewSeed
  repeat' (first | with_reducible assumption | with_reducible apply updTamp_keeps | with_reducible apply drawn_keeps | with_reducible apply setF_keeps | (extract_lets +onlyGivenNames s1; clear_value (hs : s1 = _); refine Keeps.cut (s0 := s0) (x := s1) ?_ (fun k1 => ?_); (on_goal 1 => subst hs); (on_goal 2 => clear hs)) | (extract_lets +onlyGivenNames v1; first | (have _ : Clocks := v1; subst v1) | (have _ : Fuses := v1; subst v1) | clear_value v1 | subst v1) | split | (unfold Keeps; dsimp only; with_reducible refine Keeps.of ?_))

theorem startCounters_keeps {s0 s : State} (hk0 : Keeps s0 s) : Keeps s0 (startCounters s) := by
  unfold startCounters
  repeat' (first | with_reducible assumption | with_reducible apply setF_keeps | with_reducible apply updTamp_keeps | (extract_lets +onlyGivenNames s1; clear_value (hs : s1 = _); refine Keeps.cut (s0 := s0) (x := s1) ?_ (fun k1 => ?_); (on_goal 1 => subst hs); (on_goal 2 => clear hs)) | (extract_lets +onlyGivenNames v1; first | (have _ : Clocks := v1; subst v1) | (have _ : Fuses := v1; subst v1) | clear_value v1 | subst v1) | (unfold Keeps; dsimp only; with_reducible refine Keeps.of ?_))

theorem showFuses_keeps {s0 s : State} (hk0 : Keeps s0 s) : Keeps s0 (showFuses s) := by
  unfold showFuses
  repeat' (first | with_reducible assumption | with_reducible apply setF_keeps | with_reducible apply set64_keeps | (extract_lets +onlyGivenNames s1; clear_value (hs : s1 = _); refine Keeps.cut (s0 := s0) (x := s1) ?_ (fun k1 => ?_); (on_goal 1 => subst hs); (on_goal 2 => clear hs)) | (extract_lets +onlyGivenNames v1; first | (have _ : Clocks := v1; subst v1) | (have _ : Fuses := v1; subst v1) | clear_value v1 | subst v1) | split)

theorem coreStart_keeps {s0 s : State} (hk0 : Keeps s0 s) : Keeps s0 (coreStart s) := by
  unfold coreStart
  repeat' (first | with_reducible assumption | with_reducible apply setF_keeps | with_reducible apply updBoot_keeps | with_reducible apply startCounters_keeps | with_reducible apply renewSeed_keeps | with_reducible apply showFuses_keeps | (extract_lets +onlyGivenNames s1; clear_value (hs : s1 = _); refine Keeps.cut (s0 := s0) (x := s1) ?_ (fun k1 => ?_); (on_goal 1 => subst hs); (on_goal 2 => clear hs)) | (extract_lets +onlyGivenNames v1; first | (have _ : Clocks := v1; subst v1) | (have _ : Fuses := v1; subst v1) | clear_value v1 | subst v1) | (unfold Keeps; dsimp only; with_reducible refine Keeps.of ?_))

theorem execFuseLoad_keeps {s0 s : State} {dt : Nat} {sound : Bool} (hk0 : Keeps s0 s) : KeepsNext s0 (execFuseLoad dt sound s) := by
  unfold execFuseLoad
  repeat' (first | with_reducible assumption | with_reducible apply elapse_keeps | with_reducible apply startFail_keeps | with_reducible apply toStep_keeps | with_reducible apply coreStart_keeps | with_reducible apply KeepsNext.next | (extract_lets +onlyGivenNames s1; clear_value (hs : s1 = _); refine Keeps.cut (s0 := s0) (x := s1) ?_ (fun k1 => ?_); (on_goal 1 => subst hs); (on_goal 2 => clear hs)) | (extract_lets +onlyGivenNames v1; first | (have _ : Clocks := v1; subst v1) | (have _ : Fuses := v1; subst v1) | clear_value v1 | subst v1) | split)

theorem execIdentitySelfTest_keeps {s0 s : State} {dt : Nat} {passed : Bool} (hk0 : Keeps s0 s) : KeepsNext s0 (execIdentitySelfTest dt passed s) := by
  unfold execIdentitySelfTest
  repeat' (first | with_reducible assumption | with_reducible apply elapse_keeps | with_reducible apply passed_keeps | with_reducible apply toStep_keeps | with_reducible apply startFail_keeps | with_reducible apply KeepsNext.next | (extract_lets +onlyGivenNames s1; clear_value (hs : s1 = _); refine Keeps.cut (s0 := s0) (x := s1) ?_ (fun k1 => ?_); (on_goal 1 => subst hs); (on_goal 2 => clear hs)) | (extract_lets +onlyGivenNames v1; first | (have _ : Clocks := v1; subst v1) | (have _ : Fuses := v1; subst v1) | clear_value v1 | subst v1) | split)

theorem execRootPllLock_keeps {s0 s : State} {dt : Nat} (hk0 : Keeps s0 s) : KeepsNext s0 (execRootPllLock dt s) := by
  unfold execRootPllLock
  repeat' (first | with_reducible assumption | with_reducible apply elapse_keeps | with_reducible apply setF_keeps | with_reducible apply toStep_keeps | with_reducible apply KeepsNext.next | (extract_lets +onlyGivenNames s1; clear_value (hs : s1 = _); refine Keeps.cut (s0 := s0) (x := s1) ?_ (fun k1 => ?_); (on_goal 1 => subst hs); (on_goal 2 => clear hs)) | (extract_lets +onlyGivenNames v1; first | (have _ : Clocks := v1; subst v1) | (have _ : Fuses := v1; subst v1) | clear_value v1 | subst v1) | split | (unfold Keeps; dsimp only; with_reducible refine Keeps.of ?_))

theorem execRootPllLockTimeout_keeps {s0 s : State} {dt : Nat} (hk0 : Keeps s0 s) : KeepsNext s0 (execRootPllLockTimeout dt s) := by
  unfold execRootPllLockTimeout
  repeat' (first | with_reducible assumption | with_reducible apply elapse_keeps | with_reducible apply startFail_keeps | with_reducible apply KeepsNext.next | (extract_lets +onlyGivenNames s1; clear_value (hs : s1 = _); refine Keeps.cut (s0 := s0) (x := s1) ?_ (fun k1 => ?_); (on_goal 1 => subst hs); (on_goal 2 => clear hs)) | (extract_lets +onlyGivenNames v1; first | (have _ : Clocks := v1; subst v1) | (have _ : Fuses := v1; subst v1) | clear_value v1 | subst v1) | split)

theorem trainedDram_keeps {s0 s : State} {size : Nat} {twoRanks : Bool} (hk0 : Keeps s0 s) : Keeps s0 (trainedDram size twoRanks s) := by
  unfold trainedDram
  repeat' (first | with_reducible assumption | with_reducible apply setF_keeps | (extract_lets +onlyGivenNames s1; clear_value (hs : s1 = _); refine Keeps.cut (s0 := s0) (x := s1) ?_ (fun k1 => ?_); (on_goal 1 => subst hs); (on_goal 2 => clear hs)) | (extract_lets +onlyGivenNames v1; first | (have _ : Clocks := v1; subst v1) | (have _ : Fuses := v1; subst v1) | clear_value v1 | subst v1) | split)

theorem execDramTraining_keeps {s0 s : State} {dt : Nat} {size : Fin 3} {twoRanks trained tested : Bool} (hk0 : Keeps s0 s) : KeepsNext s0 (execDramTraining dt size twoRanks trained tested s) := by
  unfold execDramTraining
  repeat' (first | with_reducible assumption | with_reducible apply elapse_keeps | with_reducible apply startFail_keeps | with_reducible apply trainedDram_keeps | with_reducible apply updBoot_keeps | with_reducible apply toStep_keeps | with_reducible apply KeepsNext.next | (extract_lets +onlyGivenNames s1; clear_value (hs : s1 = _); refine Keeps.cut (s0 := s0) (x := s1) ?_ (fun k1 => ?_); (on_goal 1 => subst hs); (on_goal 2 => clear hs)) | (extract_lets +onlyGivenNames v1; first | (have _ : Clocks := v1; subst v1) | (have _ : Fuses := v1; subst v1) | clear_value v1 | subst v1) | split | (unfold Keeps; dsimp only; with_reducible refine Keeps.of ?_))

theorem execHbListenWindowEnd_keeps {s0 s : State} {dt : Nat} {held : Bool} (hk0 : Keeps s0 s) : KeepsNext s0 (execHbListenWindowEnd dt held s) := by
  unfold execHbListenWindowEnd
  repeat' (first | with_reducible assumption | with_reducible apply elapse_keeps | with_reducible apply updBoot_keeps | with_reducible apply updPair_keeps | with_reducible apply enterReserve_keeps | with_reducible apply KeepsNext.next | (extract_lets +onlyGivenNames s1; clear_value (hs : s1 = _); refine Keeps.cut (s0 := s0) (x := s1) ?_ (fun k1 => ?_); (on_goal 1 => subst hs); (on_goal 2 => clear hs)) | (extract_lets +onlyGivenNames v1; first | (have _ : Clocks := v1; subst v1) | (have _ : Fuses := v1; subst v1) | clear_value v1 | subst v1) | split | (unfold Keeps; dsimp only; with_reducible refine Keeps.of ?_))

theorem putCopy_keeps {s0 s : State} {secVer vd : Field} {c : Option CopyView} (hk0 : Keeps s0 s) : Keeps s0 (putCopy secVer vd c s) := by
  unfold putCopy
  repeat' (first | with_reducible assumption | with_reducible apply setF_keeps)

theorem selectImage_keeps {s0 s : State} {log : Nat} {octal : Bool} {a b : Option CopyView} (hk0 : Keeps s0 s) : Keeps s0 (selectImage log octal a b s) := by
  unfold selectImage
  repeat' (first | with_reducible assumption | with_reducible apply setF_keeps | with_reducible apply putCopy_keeps | with_reducible apply startFail_keeps | with_reducible apply toStep_keeps | with_reducible apply putDigest_keeps | with_reducible apply updBoot_keeps | (extract_lets +onlyGivenNames s1; clear_value (hs : s1 = _); refine Keeps.cut (s0 := s0) (x := s1) ?_ (fun k1 => ?_); (on_goal 1 => subst hs); (on_goal 2 => clear hs)) | (extract_lets +onlyGivenNames v1; first | (have _ : Clocks := v1; subst v1) | (have _ : Fuses := v1; subst v1) | clear_value v1 | subst v1) | split | (unfold Keeps; dsimp only; with_reducible refine Keeps.of ?_))

theorem execCopySelection_keeps {s0 s : State} {dt : Nat} {answered : Bool} {log : Fin 4} {octal : Bool} {a b : Option CopyView} (hk0 : Keeps s0 s) : KeepsNext s0 (execCopySelection dt answered log octal a b s) := by
  unfold execCopySelection
  repeat' (first | with_reducible assumption | with_reducible apply elapse_keeps | with_reducible apply startFail_keeps | with_reducible apply selectImage_keeps | with_reducible apply KeepsNext.next | (extract_lets +onlyGivenNames s1; clear_value (hs : s1 = _); refine Keeps.cut (s0 := s0) (x := s1) ?_ (fun k1 => ?_); (on_goal 1 => subst hs); (on_goal 2 => clear hs)) | (extract_lets +onlyGivenNames v1; first | (have _ : Clocks := v1; subst v1) | (have _ : Fuses := v1; subst v1) | clear_value v1 | subst v1) | split)

theorem execImageApply_keeps {s0 s : State} {dt : Nat} (hk0 : Keeps s0 s) : KeepsNext s0 (execImageApply dt s) := by
  unfold execImageApply
  repeat' (first | with_reducible assumption | with_reducible apply elapse_keeps | with_reducible apply applyImage_keeps | with_reducible apply KeepsNext.next | (extract_lets +onlyGivenNames s1; clear_value (hs : s1 = _); refine Keeps.cut (s0 := s0) (x := s1) ?_ (fun k1 => ?_); (on_goal 1 => subst hs); (on_goal 2 => clear hs)) | (extract_lets +onlyGivenNames v1; first | (have _ : Clocks := v1; subst v1) | (have _ : Fuses := v1; subst v1) | clear_value v1 | subst v1) | split | (unfold Keeps; dsimp only; with_reducible refine Keeps.of ?_))

theorem execCatalogueWarmLoad_keeps {s0 s : State} {dt : Nat} {entries : List (BitVec 17 × List Byte)} {digestOk : Bool} (hk0 : Keeps s0 s) : KeepsNext s0 (execCatalogueWarmLoad dt entries digestOk s) := by
  unfold execCatalogueWarmLoad
  repeat' (first | with_reducible assumption | with_reducible apply elapse_keeps | with_reducible apply warmLoad_keeps | with_reducible apply KeepsNext.next | (extract_lets +onlyGivenNames s1; clear_value (hs : s1 = _); refine Keeps.cut (s0 := s0) (x := s1) ?_ (fun k1 => ?_); (on_goal 1 => subst hs); (on_goal 2 => clear hs)) | (extract_lets +onlyGivenNames v1; first | (have _ : Clocks := v1; subst v1) | (have _ : Fuses := v1; subst v1) | clear_value v1 | subst v1) | split | (unfold Keeps; dsimp only; with_reducible refine Keeps.of ?_))

theorem loadDomain_keeps {s0 s : State} {n ns epoch inc ticks : Nat} (hk0 : Keeps s0 s) : Keeps s0 (loadDomain n ns epoch inc ticks s) := by
  unfold loadDomain
  repeat' (first | with_reducible assumption | with_reducible apply setF_keeps | with_reducible apply updDomain_keeps | (extract_lets +onlyGivenNames s1; clear_value (hs : s1 = _); refine Keeps.cut (s0 := s0) (x := s1) ?_ (fun k1 => ?_); (on_goal 1 => subst hs); (on_goal 2 => clear hs)) | (extract_lets +onlyGivenNames v1; first | (have _ : Clocks := v1; subst v1) | (have _ : Fuses := v1; subst v1) | clear_value v1 | subst v1) | (unfold Keeps; dsimp only; with_reducible refine Keeps.of ?_))

theorem takeClaim_keeps {s0 s : State} (hk0 : Keeps s0 s) : Keeps s0 (takeClaim s) := by
  unfold takeClaim
  repeat' (first | with_reducible assumption | with_reducible apply setOfs_keeps | with_reducible apply loadDomain_keeps | with_reducible apply assertOwnN_keeps | with_reducible apply updPair_keeps | (extract_lets +onlyGivenNames s1; clear_value (hs : s1 = _); refine Keeps.cut (s0 := s0) (x := s1) ?_ (fun k1 => ?_); (on_goal 1 => subst hs); (on_goal 2 => clear hs)) | (extract_lets +onlyGivenNames v1; first | (have _ : Clocks := v1; subst v1) | (have _ : Fuses := v1; subst v1) | clear_value v1 | subst v1) | split | (unfold Keeps; dsimp only; with_reducible refine Keeps.of ?_))

theorem takeoverBlocked_keeps {s0 s : State} (hk0 : Keeps s0 s) : Keeps s0 (takeoverBlocked s) := by
  unfold takeoverBlocked
  repeat' (first | with_reducible assumption | with_reducible apply notify_keeps | with_reducible apply updPair_keeps | with_reducible apply incF_keeps | (extract_lets +onlyGivenNames s1; clear_value (hs : s1 = _); refine Keeps.cut (s0 := s0) (x := s1) ?_ (fun k1 => ?_); (on_goal 1 => subst hs); (on_goal 2 => clear hs)) | (extract_lets +onlyGivenNames v1; first | (have _ : Clocks := v1; subst v1) | (have _ : Fuses := v1; subst v1) | clear_value v1 | subst v1) | (unfold Keeps; dsimp only; with_reducible refine Keeps.of ?_))

theorem claimNow_keeps {s0 s : State} (hk0 : Keeps s0 s) : Keeps s0 (claimNow s) := by
  unfold claimNow
  repeat' (first | with_reducible assumption | with_reducible apply takeClaim_keeps | with_reducible apply enterAutonomous_keeps | with_reducible apply assertOwnN_keeps | with_reducible apply updPair_keeps | (extract_lets +onlyGivenNames s1; clear_value (hs : s1 = _); refine Keeps.cut (s0 := s0) (x := s1) ?_ (fun k1 => ?_); (on_goal 1 => subst hs); (on_goal 2 => clear hs)) | (extract_lets +onlyGivenNames v1; first | (have _ : Clocks := v1; subst v1) | (have _ : Fuses := v1; subst v1) | clear_value v1 | subst v1) | split | (unfold Keeps; dsimp only; with_reducible refine Keeps.of ?_))

theorem execOwnNClaim_keeps {s0 s : State} {dt : Nat} (hk0 : Keeps s0 s) : KeepsNext s0 (execOwnNClaim dt s) := by
  unfold execOwnNClaim
  repeat' (first | with_reducible assumption | with_reducible apply elapse_keeps | with_reducible apply claimNow_keeps | with_reducible apply enterReserve_keeps | with_reducible apply updPair_keeps | with_reducible apply KeepsNext.next | (extract_lets +onlyGivenNames s1; clear_value (hs : s1 = _); refine Keeps.cut (s0 := s0) (x := s1) ?_ (fun k1 => ?_); (on_goal 1 => subst hs); (on_goal 2 => clear hs)) | (extract_lets +onlyGivenNames v1; first | (have _ : Clocks := v1; subst v1) | (have _ : Fuses := v1; subst v1) | clear_value v1 | subst v1) | split | (unfold Keeps; dsimp only; with_reducible refine Keeps.of ?_))

theorem execOwnNSample_keeps {s0 s : State} {dt : Nat} {held : Bool} (hk0 : Keeps s0 s) : KeepsNext s0 (execOwnNSample dt held s) := by
  unfold execOwnNSample
  repeat' (first | with_reducible assumption | with_reducible apply elapse_keeps | with_reducible apply updPair_keeps | with_reducible apply setF_keeps | with_reducible apply claimNow_keeps | with_reducible apply takeoverBlocked_keeps | with_reducible apply enterReserve_keeps | with_reducible apply KeepsNext.next | (extract_lets +onlyGivenNames s1; clear_value (hs : s1 = _); refine Keeps.cut (s0 := s0) (x := s1) ?_ (fun k1 => ?_); (on_goal 1 => subst hs); (on_goal 2 => clear hs)) | (extract_lets +onlyGivenNames v1; first | (have _ : Clocks := v1; subst v1) | (have _ : Fuses := v1; subst v1) | clear_value v1 | subst v1) | split | (unfold Keeps; dsimp only; with_reducible refine Keeps.of ?_))

theorem arbStop_keeps {s0 s : State} (hk0 : Keeps s0 s) : Keeps s0 (arbStop s) := by
  unfold arbStop
  repeat' (first | with_reducible assumption | with_reducible apply setF_keeps | with_reducible apply notify_keeps | with_reducible apply updBoot_keeps | (extract_lets +onlyGivenNames s1; clear_value (hs : s1 = _); refine Keeps.cut (s0 := s0) (x := s1) ?_ (fun k1 => ?_); (on_goal 1 => subst hs); (on_goal 2 => clear hs)) | (extract_lets +onlyGivenNames v1; first | (have _ : Clocks := v1; subst v1) | (have _ : Fuses := v1; subst v1) | clear_value v1 | subst v1) | (unfold Keeps; dsimp only; with_reducible refine Keeps.of ?_))

theorem execArbFuseBlow_keeps {s0 s : State} {dt : Nat} {blown : Bool} (hk0 : Keeps s0 s) : KeepsNext s0 (execArbFuseBlow dt blown s) := by
  unfold execArbFuseBlow
  extract_lets s1 n f s2 s3
  have k1 : Keeps s0 s1 := elapse_keeps hk0
  have k2 : Keeps s0 s2 := setF_keeps (Keeps.fuse k1 _ rfl rfl rfl (Nat.le_succ _))
  have k3 : Keeps s0 s3 := updBoot_keeps k2
  split
  · exact KeepsNext.next k1
  · split
    · exact KeepsNext.next (Keeps.ite (setF_keeps k3) k3)
    · split
      · exact KeepsNext.next (updBoot_keeps k1)
      · exact KeepsNext.next (arbStop_keeps k1)

end Sys2Proof.Machine
end

