-- ==== Sys2Proof/Laws/KeepsPair.lean ====
section
/-! SUPPORT. What the operations of Machine/Pair.lean keep. -/

set_option linter.unusedTactic false
set_option linter.unreachableTactic false
set_option linter.unusedVariables false

namespace Sys2Proof.Machine

theorem cntPar_keeps {s0 s : State} {k : Nat} (hk0 : Keeps s0 s) : Keeps s0 (cntPar k s) := by
  unfold cntPar
  repeat' (first | with_reducible assumption | with_reducible apply incF_keeps | split)

theorem notifyPar_keeps {s0 s : State} {k : NoticeKind} {status arg : Nat} (hk0 : Keeps s0 s) : Keeps s0 (notifyPar k status arg s) := by
  unfold notifyPar
  repeat' (first | with_reducible assumption | with_reducible apply notify_keeps | split)

theorem execHbWireSend_keeps {s0 s : State} {dt : Nat} (hk0 : Keeps s0 s) : KeepsNext s0 (execHbWireSend dt s) := by
  unfold execHbWireSend
  repeat' (first | with_reducible assumption | with_reducible apply elapse_keeps | with_reducible apply cntPar_keeps | with_reducible apply updPair_keeps | with_reducible apply emit_keeps | with_reducible apply KeepsNext.next | (extract_lets +onlyGivenNames s1; clear_value (hs : s1 = _); refine Keeps.cut (s0 := s0) (x := s1) ?_ (fun k1 => ?_); (on_goal 1 => subst hs); (on_goal 2 => clear hs)) | (extract_lets +onlyGivenNames v1; first | (have _ : Clocks := v1; subst v1) | (have _ : Fuses := v1; subst v1) | clear_value v1 | subst v1) | split | (unfold Keeps; dsimp only; with_reducible refine Keeps.of ?_))

theorem execHbLaneSend_keeps {s0 s : State} {dt : Nat} (hk0 : Keeps s0 s) : KeepsNext s0 (execHbLaneSend dt s) := by
  unfold execHbLaneSend
  repeat' (first | with_reducible assumption | with_reducible apply elapse_keeps | with_reducible apply cntPar_keeps | with_reducible apply sendLane_keeps | with_reducible apply updPair_keeps | with_reducible apply KeepsNext.next | (extract_lets +onlyGivenNames s1; clear_value (hs : s1 = _); refine Keeps.cut (s0 := s0) (x := s1) ?_ (fun k1 => ?_); (on_goal 1 => subst hs); (on_goal 2 => clear hs)) | (extract_lets +onlyGivenNames v1; first | (have _ : Clocks := v1; subst v1) | (have _ : Fuses := v1; subst v1) | clear_value v1 | subst v1) | split | (unfold Keeps; dsimp only; with_reducible refine Keeps.of ?_))

theorem setPath_keeps {s0 s : State} {lane up : Bool} (hk0 : Keeps s0 s) : Keeps s0 (setPath lane up s) := by
  unfold setPath
  repeat' (first | with_reducible assumption | with_reducible apply setF_keeps | (extract_lets +onlyGivenNames s1; clear_value (hs : s1 = _); refine Keeps.cut (s0 := s0) (x := s1) ?_ (fun k1 => ?_); (on_goal 1 => subst hs); (on_goal 2 => clear hs)) | (extract_lets +onlyGivenNames v1; first | (have _ : Clocks := v1; subst v1) | (have _ : Fuses := v1; subst v1) | clear_value v1 | subst v1) | split)

theorem declareFailure_keeps {s0 s : State} {request : Bool} (hk0 : Keeps s0 s) : Keeps s0 (declareFailure request s) := by
  unfold declareFailure
  repeat' (first | with_reducible assumption | with_reducible apply notify_keeps | with_reducible apply updPair_keeps | (extract_lets +onlyGivenNames s1; clear_value (hs : s1 = _); refine Keeps.cut (s0 := s0) (x := s1) ?_ (fun k1 => ?_); (on_goal 1 => subst hs); (on_goal 2 => clear hs)) | (extract_lets +onlyGivenNames v1; first | (have _ : Clocks := v1; subst v1) | (have _ : Fuses := v1; subst v1) | clear_value v1 | subst v1) | split | (unfold Keeps; dsimp only; with_reducible refine Keeps.of ?_))

theorem pathDown_keeps {s0 s : State} {lane : Bool} (hk0 : Keeps s0 s) : Keeps s0 (pathDown lane s) := by
  unfold pathDown
  repeat' (first | with_reducible assumption | with_reducible apply notifyPar_keeps | with_reducible apply setPath_keeps | with_reducible apply updPair_keeps | with_reducible apply declareFailure_keeps | with_reducible apply invalidateJournal_keeps | with_reducible apply notify_keeps | (extract_lets +onlyGivenNames s1; clear_value (hs : s1 = _); refine Keeps.cut (s0 := s0) (x := s1) ?_ (fun k1 => ?_); (on_goal 1 => subst hs); (on_goal 2 => clear hs)) | (extract_lets +onlyGivenNames v1; first | (have _ : Clocks := v1; subst v1) | (have _ : Fuses := v1; subst v1) | clear_value v1 | subst v1) | split | (unfold Keeps; dsimp only; with_reducible refine Keeps.of ?_))

theorem pathUp_keeps {s0 s : State} {lane : Bool} (hk0 : Keeps s0 s) : Keeps s0 (pathUp lane s) := by
  unfold pathUp
  repeat' (first | with_reducible assumption | with_reducible apply setF_keeps | with_reducible apply updPair_keeps | with_reducible apply notifyPar_keeps | with_reducible apply setPath_keeps | with_reducible apply triggerSnap_keeps | with_reducible apply rebaseJournal_keeps | (extract_lets +onlyGivenNames s1; clear_value (hs : s1 = _); refine Keeps.cut (s0 := s0) (x := s1) ?_ (fun k1 => ?_); (on_goal 1 => subst hs); (on_goal 2 => clear hs)) | (extract_lets +onlyGivenNames v1; first | (have _ : Clocks := v1; subst v1) | (have _ : Fuses := v1; subst v1) | clear_value v1 | subst v1) | split | (unfold Keeps; dsimp only; with_reducible refine Keeps.of ?_))

theorem pairConflict_keeps {s0 s : State} (hk0 : Keeps s0 s) : Keeps s0 (pairConflict s) := by
  unfold pairConflict
  repeat' (first | with_reducible assumption | with_reducible apply setF_keeps | with_reducible apply notifyPar_keeps | with_reducible apply updPair_keeps | (extract_lets +onlyGivenNames s1; clear_value (hs : s1 = _); refine Keeps.cut (s0 := s0) (x := s1) ?_ (fun k1 => ?_); (on_goal 1 => subst hs); (on_goal 2 => clear hs)) | (extract_lets +onlyGivenNames v1; first | (have _ : Clocks := v1; subst v1) | (have _ : Fuses := v1; subst v1) | clear_value v1 | subst v1) | split | (unfold Keeps; dsimp only; with_reducible refine Keeps.of ?_))

theorem countListen_keeps {s0 s : State} {lane : Bool} (hk0 : Keeps s0 s) : Keeps s0 (countListen lane s) := by
  unfold countListen
  repeat' (first | with_reducible assumption | with_reducible apply updBoot_keeps | (extract_lets +onlyGivenNames s1; clear_value (hs : s1 = _); refine Keeps.cut (s0 := s0) (x := s1) ?_ (fun k1 => ?_); (on_goal 1 => subst hs); (on_goal 2 => clear hs)) | (extract_lets +onlyGivenNames v1; first | (have _ : Clocks := v1; subst v1) | (have _ : Fuses := v1; subst v1) | clear_value v1 | subst v1) | split | (unfold Keeps; dsimp only; with_reducible refine Keeps.of ?_))

theorem leadHeard_keeps {s0 s : State} {lane : Bool} (hk0 : Keeps s0 s) : Keeps s0 (leadHeard lane s) := by
  unfold leadHeard
  repeat' (first | with_reducible assumption | with_reducible apply countListen_keeps | with_reducible apply updPair_keeps | with_reducible apply takeoverBlocked_keeps | (extract_lets +onlyGivenNames s1; clear_value (hs : s1 = _); refine Keeps.cut (s0 := s0) (x := s1) ?_ (fun k1 => ?_); (on_goal 1 => subst hs); (on_goal 2 => clear hs)) | (extract_lets +onlyGivenNames v1; first | (have _ : Clocks := v1; subst v1) | (have _ : Fuses := v1; subst v1) | clear_value v1 | subst v1) | split | (unfold Keeps; dsimp only; with_reducible refine Keeps.of ?_))

theorem countReq_keeps {s0 s : State} {lane req : Bool} (hk0 : Keeps s0 s) : Keeps s0 (countReq lane req s) := by
  unfold countReq
  repeat' (first | with_reducible assumption | with_reducible apply updPair_keeps | with_reducible apply declareFailure_keeps | (extract_lets +onlyGivenNames s1; clear_value (hs : s1 = _); refine Keeps.cut (s0 := s0) (x := s1) ?_ (fun k1 => ?_); (on_goal 1 => subst hs); (on_goal 2 => clear hs)) | (extract_lets +onlyGivenNames v1; first | (have _ : Clocks := v1; subst v1) | (have _ : Fuses := v1; subst v1) | clear_value v1 | subst v1) | split | (unfold Keeps; dsimp only; with_reducible refine Keeps.of ?_))

theorem heartbeat_keeps {s0 s : State} {lane : Bool} {role : Nat} {req : Bool} (hk0 : Keeps s0 s) : Keeps s0 (heartbeat lane role req s) := by
  unfold heartbeat
  repeat' (first | with_reducible assumption | with_reducible apply setF_keeps | with_reducible apply leadHeard_keeps | with_reducible apply countReq_keeps | with_reducible apply pathUp_keeps | (extract_lets +onlyGivenNames s1; clear_value (hs : s1 = _); refine Keeps.cut (s0 := s0) (x := s1) ?_ (fun k1 => ?_); (on_goal 1 => subst hs); (on_goal 2 => clear hs)) | (extract_lets +onlyGivenNames v1; first | (have _ : Clocks := v1; subst v1) | (have _ : Fuses := v1; subst v1) | clear_value v1 | subst v1) | split)

theorem execHbWireRx_keeps {s0 s : State} {dt : Nat} {frame : BitVec 16} (hk0 : Keeps s0 s) : KeepsNext s0 (execHbWireRx dt frame s) := by
  unfold execHbWireRx
  repeat' (first | with_reducible assumption | with_reducible apply elapse_keeps | with_reducible apply cntPar_keeps | with_reducible apply pairConflict_keeps | with_reducible apply heartbeat_keeps | with_reducible apply KeepsNext.next | (extract_lets +onlyGivenNames s1; clear_value (hs : s1 = _); refine Keeps.cut (s0 := s0) (x := s1) ?_ (fun k1 => ?_); (on_goal 1 => subst hs); (on_goal 2 => clear hs)) | (extract_lets +onlyGivenNames v1; first | (have _ : Clocks := v1; subst v1) | (have _ : Fuses := v1; subst v1) | clear_value v1 | subst v1) | split)

theorem laneDropped_keeps {s0 s : State} (hk0 : Keeps s0 s) : Keeps s0 (laneDropped s) := by
  unfold laneDropped
  repeat' (first | with_reducible assumption | with_reducible apply cntPar_keeps)

theorem laneSeen_keeps {s0 s : State} {fseq : Nat} (hk0 : Keeps s0 s) : Keeps s0 (laneSeen fseq s) := by
  unfold laneSeen
  repeat' (first | with_reducible assumption | with_reducible apply updPair_keeps | (extract_lets +onlyGivenNames s1; clear_value (hs : s1 = _); refine Keeps.cut (s0 := s0) (x := s1) ?_ (fun k1 => ?_); (on_goal 1 => subst hs); (on_goal 2 => clear hs)) | (extract_lets +onlyGivenNames v1; first | (have _ : Clocks := v1; subst v1) | (have _ : Fuses := v1; subst v1) | clear_value v1 | subst v1) | (unfold Keeps; dsimp only; with_reducible refine Keeps.of ?_))

theorem showSlot_keeps {s0 s : State} {b : Bool} {v : Option (Nat × Nat)} (hk0 : Keeps s0 s) : Keeps s0 (showSlot b v s) := by
  unfold showSlot
  repeat' (first | with_reducible assumption | with_reducible apply setF_keeps | with_reducible apply set64_keeps | (extract_lets +onlyGivenNames s1; clear_value (hs : s1 = _); refine Keeps.cut (s0 := s0) (x := s1) ?_ (fun k1 => ?_); (on_goal 1 => subst hs); (on_goal 2 => clear hs)) | (extract_lets +onlyGivenNames v1; first | (have _ : Clocks := v1; subst v1) | (have _ : Fuses := v1; subst v1) | clear_value v1 | subst v1) | split)

theorem putSlot_keeps {s0 s : State} {b : Bool} {v : Option (Nat × Nat)} (hk0 : Keeps s0 s) : Keeps s0 (putSlot b v s) := by
  unfold putSlot
  repeat' (first | with_reducible assumption | with_reducible apply showSlot_keeps | with_reducible apply updPair_keeps | (extract_lets +onlyGivenNames s1; clear_value (hs : s1 = _); refine Keeps.cut (s0 := s0) (x := s1) ?_ (fun k1 => ?_); (on_goal 1 => subst hs); (on_goal 2 => clear hs)) | (extract_lets +onlyGivenNames v1; first | (have _ : Clocks := v1; subst v1) | (have _ : Fuses := v1; subst v1) | clear_value v1 | subst v1) | split | (unfold Keeps; dsimp only; with_reducible refine Keeps.of ?_))

theorem syncMark_keeps {s0 s : State} (hk0 : Keeps s0 s) : Keeps s0 (syncMark s) := by
  unfold syncMark
  repeat' (first | with_reducible assumption | with_reducible apply set64_keeps | (extract_lets +onlyGivenNames s1; clear_value (hs : s1 = _); refine Keeps.cut (s0 := s0) (x := s1) ?_ (fun k1 => ?_); (on_goal 1 => subst hs); (on_goal 2 => clear hs)) | (extract_lets +onlyGivenNames v1; first | (have _ : Clocks := v1; subst v1) | (have _ : Fuses := v1; subst v1) | clear_value v1 | subst v1) | split | (unfold Keeps; dsimp only; with_reducible refine Keeps.of ?_))

theorem peerSlot_keeps {s0 s : State} {b : Bool} {seq : Nat} (hk0 : Keeps s0 s) : Keeps s0 (peerSlot b seq s) := by
  unfold peerSlot
  repeat' (first | with_reducible assumption | with_reducible apply putSlot_keeps | (extract_lets +onlyGivenNames s1; clear_value (hs : s1 = _); refine Keeps.cut (s0 := s0) (x := s1) ?_ (fun k1 => ?_); (on_goal 1 => subst hs); (on_goal 2 => clear hs)) | (extract_lets +onlyGivenNames v1; first | (have _ : Clocks := v1; subst v1) | (have _ : Fuses := v1; subst v1) | clear_value v1 | subst v1) | split | (unfold Keeps; dsimp only; with_reducible refine Keeps.of ?_))

theorem snapDone_keeps {s0 s : State} {seqA seqB : Nat} (hk0 : Keeps s0 s) : Keeps s0 (snapDone seqA seqB s) := by
  unfold snapDone
  repeat' (first | with_reducible assumption | with_reducible apply updPair_keeps | with_reducible apply setF_keeps | with_reducible apply notify_keeps | with_reducible apply syncMark_keeps | with_reducible apply incF_keeps | with_reducible apply triggerSnap_keeps | (extract_lets +onlyGivenNames s1; clear_value (hs : s1 = _); refine Keeps.cut (s0 := s0) (x := s1) ?_ (fun k1 => ?_); (on_goal 1 => subst hs); (on_goal 2 => clear hs)) | (extract_lets +onlyGivenNames v1; first | (have _ : Clocks := v1; subst v1) | (have _ : Fuses := v1; subst v1) | clear_value v1 | subst v1) | split | (unfold Keeps; dsimp only; with_reducible refine Keeps.of ?_))

theorem fromReserve_keeps {s0 s : State} {h : LaneHb} (hk0 : Keeps s0 s) : Keeps s0 (fromReserve h s) := by
  unfold fromReserve
  repeat' (first | with_reducible assumption | with_reducible apply peerSlot_keeps | with_reducible apply snapDone_keeps | with_reducible apply syncMark_keeps | with_reducible apply setF_keeps | (extract_lets +onlyGivenNames s1; clear_value (hs : s1 = _); refine Keeps.cut (s0 := s0) (x := s1) ?_ (fun k1 => ?_); (on_goal 1 => subst hs); (on_goal 2 => clear hs)) | (extract_lets +onlyGivenNames v1; first | (have _ : Clocks := v1; subst v1) | (have _ : Fuses := v1; subst v1) | clear_value v1 | subst v1) | split)

theorem fromLead_keeps {s0 s : State} {h : LaneHb} (hk0 : Keeps s0 s) : Keeps s0 (fromLead h s) := by
  unfold fromLead
  repeat' (first | with_reducible assumption | with_reducible apply updPair_keeps | (extract_lets +onlyGivenNames s1; clear_value (hs : s1 = _); refine Keeps.cut (s0 := s0) (x := s1) ?_ (fun k1 => ?_); (on_goal 1 => subst hs); (on_goal 2 => clear hs)) | (extract_lets +onlyGivenNames v1; first | (have _ : Clocks := v1; subst v1) | (have _ : Fuses := v1; subst v1) | clear_value v1 | subst v1) | split | (unfold Keeps; dsimp only; with_reducible refine Keeps.of ?_))

theorem execHbLaneRx_keeps {s0 s : State} {dt : Nat} {h : LaneHb} {tagOk : Bool} {fseq : Word} (hk0 : Keeps s0 s) : KeepsNext s0 (execHbLaneRx dt h tagOk fseq s) := by
  unfold execHbLaneRx
  repeat' (first | with_reducible assumption | with_reducible apply elapse_keeps | with_reducible apply laneDropped_keeps | with_reducible apply laneSeen_keeps | with_reducible apply pairConflict_keeps | with_reducible apply incF_keeps | with_reducible apply fromLead_keeps | with_reducible apply fromReserve_keeps | with_reducible apply heartbeat_keeps | with_reducible apply KeepsNext.next | (extract_lets +onlyGivenNames s1; clear_value (hs : s1 = _); refine Keeps.cut (s0 := s0) (x := s1) ?_ (fun k1 => ?_); (on_goal 1 => subst hs); (on_goal 2 => clear hs)) | (extract_lets +onlyGivenNames v1; first | (have _ : Clocks := v1; subst v1) | (have _ : Fuses := v1; subst v1) | clear_value v1 | subst v1) | split)

theorem execHbPathCheck_keeps {s0 s : State} {dt : Nat} {lane : Bool} (hk0 : Keeps s0 s) : KeepsNext s0 (execHbPathCheck dt lane s) := by
  unfold execHbPathCheck
  repeat' (first | with_reducible assumption | with_reducible apply elapse_keeps | with_reducible apply updPair_keeps | with_reducible apply setF_keeps | with_reducible apply pathDown_keeps | with_reducible apply KeepsNext.next | (extract_lets +onlyGivenNames s1; clear_value (hs : s1 = _); refine Keeps.cut (s0 := s0) (x := s1) ?_ (fun k1 => ?_); (on_goal 1 => subst hs); (on_goal 2 => clear hs)) | (extract_lets +onlyGivenNames v1; first | (have _ : Clocks := v1; subst v1) | (have _ : Fuses := v1; subst v1) | clear_value v1 | subst v1) | split | (unfold Keeps; dsimp only; with_reducible refine Keeps.of ?_))

theorem yieldPair_keeps {s0 s : State} (hk0 : Keeps s0 s) : Keeps s0 (yieldPair s) := by
  unfold yieldPair
  repeat' (first | with_reducible assumption | with_reducible apply notify_keeps | with_reducible apply enterReserve_keeps)

theorem execOwnNProbe_keeps {s0 s : State} {dt : Nat} {held : Bool} (hk0 : Keeps s0 s) : KeepsNext s0 (execOwnNProbe dt held s) := by
  unfold execOwnNProbe
  repeat' (first | with_reducible assumption | with_reducible apply elapse_keeps | with_reducible apply updPair_keeps | with_reducible apply setF_keeps | with_reducible apply incF_keeps | with_reducible apply yieldPair_keeps | with_reducible apply KeepsNext.next | (extract_lets +onlyGivenNames s1; clear_value (hs : s1 = _); refine Keeps.cut (s0 := s0) (x := s1) ?_ (fun k1 => ?_); (on_goal 1 => subst hs); (on_goal 2 => clear hs)) | (extract_lets +onlyGivenNames v1; first | (have _ : Clocks := v1; subst v1) | (have _ : Fuses := v1; subst v1) | clear_value v1 | subst v1) | split | (unfold Keeps; dsimp only; with_reducible refine Keeps.of ?_))

theorem execDualActive_keeps {s0 s : State} {dt : Nat} (hk0 : Keeps s0 s) : KeepsNext s0 (execDualActive dt s) := by
  unfold execDualActive
  repeat' (first | with_reducible assumption | with_reducible apply elapse_keeps | with_reducible apply releaseOwnN_keeps | with_reducible apply quietPorts_keeps | with_reducible apply enterSafe_keeps | with_reducible apply notify_keeps | with_reducible apply KeepsNext.next | (extract_lets +onlyGivenNames s1; clear_value (hs : s1 = _); refine Keeps.cut (s0 := s0) (x := s1) ?_ (fun k1 => ?_); (on_goal 1 => subst hs); (on_goal 2 => clear hs)) | (extract_lets +onlyGivenNames v1; first | (have _ : Clocks := v1; subst v1) | (have _ : Fuses := v1; subst v1) | clear_value v1 | subst v1) | split | (unfold Keeps; dsimp only; with_reducible refine Keeps.of ?_))

theorem execLaneLinkUp_keeps {s0 s : State} {dt : Nat} {nonce : BitVec 128} {macOk : Bool} (hk0 : Keeps s0 s) : KeepsNext s0 (execLaneLinkUp dt nonce macOk s) := by
  unfold execLaneLinkUp
  repeat' (first | with_reducible assumption | with_reducible apply elapse_keeps | with_reducible apply sendHello_keeps | with_reducible apply updPair_keeps | with_reducible apply laneDropped_keeps | with_reducible apply KeepsNext.next | (extract_lets +onlyGivenNames s1; clear_value (hs : s1 = _); refine Keeps.cut (s0 := s0) (x := s1) ?_ (fun k1 => ?_); (on_goal 1 => subst hs); (on_goal 2 => clear hs)) | (extract_lets +onlyGivenNames v1; first | (have _ : Clocks := v1; subst v1) | (have _ : Fuses := v1; subst v1) | clear_value v1 | subst v1) | split | (unfold Keeps; dsimp only; with_reducible refine Keeps.of ?_))

theorem execLaneHelloRx_keeps {s0 s : State} {dt : Nat} {nonce : BitVec 128} {macOk : Bool} (hk0 : Keeps s0 s) : KeepsNext s0 (execLaneHelloRx dt nonce macOk s) := by
  unfold execLaneHelloRx
  repeat' (first | with_reducible assumption | with_reducible apply elapse_keeps | with_reducible apply laneDropped_keeps | with_reducible apply sendHello_keeps | with_reducible apply updPair_keeps | with_reducible apply KeepsNext.next | (extract_lets +onlyGivenNames s1; clear_value (hs : s1 = _); refine Keeps.cut (s0 := s0) (x := s1) ?_ (fun k1 => ?_); (on_goal 1 => subst hs); (on_goal 2 => clear hs)) | (extract_lets +onlyGivenNames v1; first | (have _ : Clocks := v1; subst v1) | (have _ : Fuses := v1; subst v1) | clear_value v1 | subst v1) | split | (unfold Keeps; dsimp only; with_reducible refine Keeps.of ?_))

theorem syncState_keeps {s0 s : State} {writing : Bool} (hk0 : Keeps s0 s) : Keeps s0 (syncState writing s) := by
  unfold syncState
  repeat' (first | with_reducible assumption | with_reducible apply setF_keeps | split)

theorem slotBroken_keeps {s0 s : State} {b writing : Bool} {pos : Nat} (hk0 : Keeps s0 s) : Keeps s0 (slotBroken b writing pos s) := by
  unfold slotBroken
  repeat' (first | with_reducible assumption | with_reducible apply syncState_keeps | with_reducible apply putSlot_keeps | with_reducible apply updPair_keeps | (extract_lets +onlyGivenNames s1; clear_value (hs : s1 = _); refine Keeps.cut (s0 := s0) (x := s1) ?_ (fun k1 => ?_); (on_goal 1 => subst hs); (on_goal 2 => clear hs)) | (extract_lets +onlyGivenNames v1; first | (have _ : Clocks := v1; subst v1) | (have _ : Fuses := v1; subst v1) | clear_value v1 | subst v1) | split | (unfold Keeps; dsimp only; with_reducible refine Keeps.of ?_))

theorem writeTrailer_keeps {s0 s : State} {b : Bool} {t : List Byte} {pos : Nat} (hk0 : Keeps s0 s) : Keeps s0 (writeTrailer b t pos s) := by
  unfold writeTrailer
  repeat' (first | with_reducible assumption | with_reducible apply syncState_keeps | with_reducible apply putSlot_keeps | with_reducible apply notify_keeps | with_reducible apply slotBroken_keeps | (extract_lets +onlyGivenNames s1; clear_value (hs : s1 = _); refine Keeps.cut (s0 := s0) (x := s1) ?_ (fun k1 => ?_); (on_goal 1 => subst hs); (on_goal 2 => clear hs)) | (extract_lets +onlyGivenNames v1; first | (have _ : Clocks := v1; subst v1) | (have _ : Fuses := v1; subst v1) | clear_value v1 | subst v1) | split)

theorem writeSlot_keeps {s0 s : State} {b : Bool} {ofs : Nat} {d : List Byte} (hk0 : Keeps s0 s) : Keeps s0 (writeSlot b ofs d s) := by
  unfold writeSlot
  repeat' (first | with_reducible assumption | with_reducible apply setBytes_keeps | with_reducible apply writeTrailer_keeps | with_reducible apply updPair_keeps | with_reducible apply slotBroken_keeps | (extract_lets +onlyGivenNames s1; clear_value (hs : s1 = _); refine Keeps.cut (s0 := s0) (x := s1) ?_ (fun k1 => ?_); (on_goal 1 => subst hs); (on_goal 2 => clear hs)) | (extract_lets +onlyGivenNames v1; first | (have _ : Clocks := v1; subst v1) | (have _ : Fuses := v1; subst v1) | clear_value v1 | subst v1) | split | (unfold Keeps; dsimp only; with_reducible refine Keeps.of ?_))

theorem headerPos_keeps {s0 s : State} {b : Bool} {ofs : Nat} (hk0 : Keeps s0 s) : Keeps s0 (headerPos b ofs s) := by
  unfold headerPos
  repeat' (first | with_reducible assumption | with_reducible apply set64_keeps | (extract_lets +onlyGivenNames s1; clear_value (hs : s1 = _); refine Keeps.cut (s0 := s0) (x := s1) ?_ (fun k1 => ?_); (on_goal 1 => subst hs); (on_goal 2 => clear hs)) | (extract_lets +onlyGivenNames v1; first | (have _ : Clocks := v1; subst v1) | (have _ : Fuses := v1; subst v1) | clear_value v1 | subst v1) | split)

theorem writeJournal_keeps {s0 s : State} {ofs : Nat} {d : List Byte} (hk0 : Keeps s0 s) : Keeps s0 (writeJournal ofs d s) := by
  unfold writeJournal
  repeat' (first | with_reducible assumption | with_reducible apply setBytes_keeps | with_reducible apply set64_keeps | with_reducible apply sendLane_keeps | (extract_lets +onlyGivenNames s1; clear_value (hs : s1 = _); refine Keeps.cut (s0 := s0) (x := s1) ?_ (fun k1 => ?_); (on_goal 1 => subst hs); (on_goal 2 => clear hs)) | (extract_lets +onlyGivenNames v1; first | (have _ : Clocks := v1; subst v1) | (have _ : Fuses := v1; subst v1) | clear_value v1 | subst v1) | split)

theorem pairWrite_keeps {s0 s : State} {a : Nat} {d : List Byte} (hk0 : Keeps s0 s) : Keeps s0 (pairWrite a d s) := by
  unfold pairWrite
  repeat' (first | with_reducible assumption | with_reducible apply writeJournal_keeps | with_reducible apply headerPos_keeps | with_reducible apply writeSlot_keeps | (extract_lets +onlyGivenNames s1; clear_value (hs : s1 = _); refine Keeps.cut (s0 := s0) (x := s1) ?_ (fun k1 => ?_); (on_goal 1 => subst hs); (on_goal 2 => clear hs)) | (extract_lets +onlyGivenNames v1; first | (have _ : Clocks := v1; subst v1) | (have _ : Fuses := v1; subst v1) | clear_value v1 | subst v1) | split)

theorem execLaneWriteRx_keeps {s0 s : State} {dt : Nat} {a : Word} {data : List Byte} {tagOk : Bool} {fseq : Word} (hk0 : Keeps s0 s) : KeepsNext s0 (execLaneWriteRx dt a data tagOk fseq s) := by
  unfold execLaneWriteRx
  repeat' (first | with_reducible assumption | with_reducible apply elapse_keeps | with_reducible apply laneDropped_keeps | with_reducible apply laneSeen_keeps | with_reducible apply pairWrite_keeps | with_reducible apply KeepsNext.next | (extract_lets +onlyGivenNames s1; clear_value (hs : s1 = _); refine Keeps.cut (s0 := s0) (x := s1) ?_ (fun k1 => ?_); (on_goal 1 => subst hs); (on_goal 2 => clear hs)) | (extract_lets +onlyGivenNames v1; first | (have _ : Clocks := v1; subst v1) | (have _ : Fuses := v1; subst v1) | clear_value v1 | subst v1) | split)

theorem execLaneJackRx_keeps {s0 s : State} {dt : Nat} {pos : BitVec 64} {tagOk : Bool} {fseq : Word} (hk0 : Keeps s0 s) : KeepsNext s0 (execLaneJackRx dt pos tagOk fseq s) := by
  unfold execLaneJackRx
  repeat' (first | with_reducible assumption | with_reducible apply elapse_keeps | with_reducible apply laneDropped_keeps | with_reducible apply laneSeen_keeps | with_reducible apply addF_keeps | with_reducible apply updPair_keeps | with_reducible apply set64_keeps | with_reducible apply KeepsNext.next | (extract_lets +onlyGivenNames s1; clear_value (hs : s1 = _); refine Keeps.cut (s0 := s0) (x := s1) ?_ (fun k1 => ?_); (on_goal 1 => subst hs); (on_goal 2 => clear hs)) | (extract_lets +onlyGivenNames v1; first | (have _ : Clocks := v1; subst v1) | (have _ : Fuses := v1; subst v1) | clear_value v1 | subst v1) | split | (unfold Keeps; dsimp only; with_reducible refine Keeps.of ?_))

theorem execJackTimeout_keeps {s0 s : State} {dt : Nat} (hk0 : Keeps s0 s) : KeepsNext s0 (execJackTimeout dt s) := by
  unfold execJackTimeout
  repeat' (first | with_reducible assumption | with_reducible apply elapse_keeps | with_reducible apply pathDown_keeps | with_reducible apply KeepsNext.next | (extract_lets +onlyGivenNames s1; clear_value (hs : s1 = _); refine Keeps.cut (s0 := s0) (x := s1) ?_ (fun k1 => ?_); (on_goal 1 => subst hs); (on_goal 2 => clear hs)) | (extract_lets +onlyGivenNames v1; first | (have _ : Clocks := v1; subst v1) | (have _ : Fuses := v1; subst v1) | clear_value v1 | subst v1) | split | (unfold Keeps; dsimp only; with_reducible refine Keeps.of ?_))

theorem execSnapTimer_keeps {s0 s : State} {dt : Nat} (hk0 : Keeps s0 s) : KeepsNext s0 (execSnapTimer dt s) := by
  unfold execSnapTimer
  repeat' (first | with_reducible assumption | with_reducible apply elapse_keeps | with_reducible apply triggerSnap_keeps | with_reducible apply KeepsNext.next | (extract_lets +onlyGivenNames s1; clear_value (hs : s1 = _); refine Keeps.cut (s0 := s0) (x := s1) ?_ (fun k1 => ?_); (on_goal 1 => subst hs); (on_goal 2 => clear hs)) | (extract_lets +onlyGivenNames v1; first | (have _ : Clocks := v1; subst v1) | (have _ : Fuses := v1; subst v1) | clear_value v1 | subst v1) | split)

theorem writeSnapNow_keeps {s0 s : State} {m : Master} {w : Word} (hk0 : Keeps s0 s) : Keeps s0 (writeSnapNow m w s) := by
  unfold writeSnapNow
  repeat' (first | with_reducible assumption | with_reducible apply ignored_keeps | with_reducible apply triggerSnap_keeps | split)

theorem execSnapNow_keeps {s0 s : State} {dt : Nat} {m : Master} {w : Word} (hk0 : Keeps s0 s) : KeepsNext s0 (execSnapNow dt m w s) := by
  unfold execSnapNow
  repeat' (first | with_reducible assumption | with_reducible apply gatedWrite_keeps | with_reducible apply writeSnapNow_keeps | with_reducible apply elapse_keeps | with_reducible apply KeepsNext.next | intro _ _ _ | intro _ _)

theorem carriedShadows_keeps {s0 s : State} {l : List (Nat × Word)} (hk0 : Keeps s0 s) : KeepsOpt s0 (carriedShadows l s) := by
  induction l generalizing s with
  | nil => exact KeepsOpt.mk hk0
  | cons e r ih =>
    unfold carriedShadows
    split
    · exact ih (putShadow_keeps hk0)
    · exact KeepsOpt.none
theorem carryKey_keeps {s0 s : State} {k : CarriedKey} (hk0 : Keeps s0 s) : Keeps s0 (carryKey s k) := by
  unfold carryKey
  repeat' (first | with_reducible assumption | with_reducible apply updTamp_keeps | with_reducible apply setSlot_keeps | (extract_lets +onlyGivenNames s1; clear_value (hs : s1 = _); refine Keeps.cut (s0 := s0) (x := s1) ?_ (fun k1 => ?_); (on_goal 1 => subst hs); (on_goal 2 => clear hs)) | (extract_lets +onlyGivenNames v1; first | (have _ : Clocks := v1; subst v1) | (have _ : Fuses := v1; subst v1) | clear_value v1 | subst v1) | split | (unfold Keeps; dsimp only; with_reducible refine Keeps.of ?_))

theorem carryRcpt_keeps {s0 s : State} {r : CarriedRcpt} (hk0 : Keeps s0 s) : Keeps s0 (carryRcpt s r) := by
  unfold carryRcpt
  repeat' (first | with_reducible assumption | with_reducible apply setReceipt_keeps | (extract_lets +onlyGivenNames s1; clear_value (hs : s1 = _); refine Keeps.cut (s0 := s0) (x := s1) ?_ (fun k1 => ?_); (on_goal 1 => subst hs); (on_goal 2 => clear hs)) | (extract_lets +onlyGivenNames v1; first | (have _ : Clocks := v1; subst v1) | (have _ : Fuses := v1; subst v1) | clear_value v1 | subst v1) | split | (unfold Keeps; dsimp only; with_reducible refine Keeps.of ?_))

theorem carryFlood_keeps {s0 s : State} {f : CarriedFlood} (hk0 : Keeps s0 s) : Keeps s0 (carryFlood s f) := by
  unfold carryFlood
  repeat' (first | with_reducible assumption | with_reducible apply syncAccession_keeps | with_reducible apply updXch_keeps | (extract_lets +onlyGivenNames s1; clear_value (hs : s1 = _); refine Keeps.cut (s0 := s0) (x := s1) ?_ (fun k1 => ?_); (on_goal 1 => subst hs); (on_goal 2 => clear hs)) | (extract_lets +onlyGivenNames v1; first | (have _ : Clocks := v1; subst v1) | (have _ : Fuses := v1; subst v1) | clear_value v1 | subst v1) | (unfold Keeps; dsimp only; with_reducible refine Keeps.of ?_))

theorem carryNbr_keeps {s0 s : State} {x : CarriedNbr} (hk0 : Keeps s0 s) : Keeps s0 (carryNbr s x) := by
  unfold carryNbr
  repeat' (first | with_reducible assumption | with_reducible apply setNbr_keeps | with_reducible apply Keeps.foldl | intro _ _ _ | intro _ _)

theorem storeEntry_keeps {s0 s : State} {nix : Nat} {e : List Byte} (hk0 : Keeps s0 s) : Keeps s0 (storeEntry nix e s) := by
  unfold storeEntry
  repeat' (first | with_reducible assumption | with_reducible apply recount_keeps | with_reducible apply setBytes_keeps)

theorem indexCatalogue_keeps {s0 s : State} (hk0 : Keeps s0 s) : Keeps s0 (indexCatalogue s) := by
  unfold indexCatalogue
  repeat' (first | with_reducible assumption | with_reducible apply recount_keeps | with_reducible apply Keeps.foldl | (extract_lets +onlyGivenNames s1; clear_value (hs : s1 = _); refine Keeps.cut (s0 := s0) (x := s1) ?_ (fun k1 => ?_); (on_goal 1 => subst hs); (on_goal 2 => clear hs)) | (extract_lets +onlyGivenNames v1; first | (have _ : Clocks := v1; subst v1) | (have _ : Fuses := v1; subst v1) | clear_value v1 | subst v1) | intro _ _ _ | intro _ _ | split)

theorem restoreRegs_keeps {s0 s : State} {b : Bool} (hk0 : Keeps s0 s) : KeepsOpt s0 (restoreRegs b s) := by
  unfold restoreRegs
  split
  · exact KeepsOpt.none
  · split
    · intro t h
      obtain ⟨u, hu, rfl⟩ := Option.map_eq_some_iff.mp h
      exact closeTag0_keeps (tryCommit_keeps (KeepsOpt.some (carriedShadows_keeps hk0) ‹_›) u hu)
    · exact KeepsOpt.none
theorem carryCal_keeps {s0 s : State} {failed : List (Fin 16 × Fin 3)} {n : Nat} (hk0 : Keeps s0 s) : Keeps s0 (carryCal failed s n) := by
  unfold carryCal
  repeat' (first | with_reducible assumption | with_reducible apply startCal_keeps | with_reducible apply calFail_keeps | with_reducible apply calOk_keeps | (extract_lets +onlyGivenNames s1; clear_value (hs : s1 = _); refine Keeps.cut (s0 := s0) (x := s1) ?_ (fun k1 => ?_); (on_goal 1 => subst hs); (on_goal 2 => clear hs)) | (extract_lets +onlyGivenNames v1; first | (have _ : Clocks := v1; subst v1) | (have _ : Fuses := v1; subst v1) | clear_value v1 | subst v1) | split | (unfold Keeps; dsimp only; with_reducible refine Keeps.of ?_))

theorem restoreAreas_keeps {s0 s : State} {b : Bool} {v : SlotView} (hk0 : Keeps s0 s) : Keeps s0 (restoreAreas b v s) := by
  unfold restoreAreas
  repeat' (first | with_reducible assumption | with_reducible apply setBytes_keeps | with_reducible apply indexCatalogue_keeps | with_reducible apply updCat_keeps | with_reducible apply carryNbr_keeps | with_reducible apply carryFlood_keeps | with_reducible apply carryRcpt_keeps | with_reducible apply Keeps.foldl | (extract_lets +onlyGivenNames s1; clear_value (hs : s1 = _); refine Keeps.cut (s0 := s0) (x := s1) ?_ (fun k1 => ?_); (on_goal 1 => subst hs); (on_goal 2 => clear hs)) | (extract_lets +onlyGivenNames v1; first | (have _ : Clocks := v1; subst v1) | (have _ : Fuses := v1; subst v1) | clear_value v1 | subst v1) | intro _ _ _ | intro _ _ | (unfold Keeps; dsimp only; with_reducible refine Keeps.of ?_))

theorem replayCarried_keeps {s0 s : State} {r : CarriedRec} {c : Nat × Nat} (hk0 : Keeps s0 s) : Keeps2 s0 (replayCarried r c s) := by
  unfold replayCarried
  repeat' (first | with_reducible assumption | with_reducible apply carryKey_keeps | with_reducible apply carryRcpt_keeps | with_reducible apply setReceipt_keeps | with_reducible apply carryFlood_keeps | (extract_lets +onlyGivenNames s1; clear_value (hs : s1 = _); refine Keeps.cut (s0 := s0) (x := s1) ?_ (fun k1 => ?_); (on_goal 1 => subst hs); (on_goal 2 => clear hs)) | (extract_lets +onlyGivenNames v1; first | (have _ : Clocks := v1; subst v1) | (have _ : Fuses := v1; subst v1) | clear_value v1 | subst v1) | split | with_reducible apply Keeps2.mk | (unfold Keeps; dsimp only; with_reducible refine Keeps.of ?_))

theorem replayCtr_keeps {s0 s : State} {b : List Byte} (hk0 : Keeps s0 s) : Keeps s0 (replayCtr b s) := by
  unfold replayCtr
  repeat' (first | with_reducible assumption | with_reducible apply storeEntry_keeps | (extract_lets +onlyGivenNames s1; clear_value (hs : s1 = _); refine Keeps.cut (s0 := s0) (x := s1) ?_ (fun k1 => ?_); (on_goal 1 => subst hs); (on_goal 2 => clear hs)) | (extract_lets +onlyGivenNames v1; first | (have _ : Clocks := v1; subst v1) | (have _ : Fuses := v1; subst v1) | clear_value v1 | subst v1))

theorem replayRegs_keeps {s0 s : State} {b : List Byte} (hk0 : Keeps s0 s) : Keeps s0 (replayRegs b s) := by
  unfold replayRegs
  repeat' (first | with_reducible assumption | with_reducible apply commitEffects_keeps | with_reducible apply applyShadow_keeps | with_reducible apply Keeps.foldl | (extract_lets +onlyGivenNames s1; clear_value (hs : s1 = _); refine Keeps.cut (s0 := s0) (x := s1) ?_ (fun k1 => ?_); (on_goal 1 => subst hs); (on_goal 2 => clear hs)) | (extract_lets +onlyGivenNames v1; first | (have _ : Clocks := v1; subst v1) | (have _ : Fuses := v1; subst v1) | clear_value v1 | subst v1) | intro _ _ _ | intro _ _ | split)

theorem replayOne_keeps {s0 s : State} {kind : Nat} {b : List Byte} {rs : List CarriedRec} {c : Nat × Nat} (hk0 : Keeps s0 s) : Keeps3 s0 (replayOne kind b rs c s) := by
  unfold replayOne
  split
  · exact replayCtr_keeps hk0
  · exact storeEntry_keeps hk0
  · exact replayRegs_keeps hk0
  · exact setBytes_keeps hk0
  · exact hk0
  · split
    · exact replayCarried_keeps hk0
    · exact hk0
theorem replay_keeps {s0 s : State} {stop n pos : Nat} {rs : List CarriedRec} {c : Nat × Nat} (hk0 : Keeps s0 s) : Keeps3 s0 (replay stop n pos rs c s) := by
  induction n generalizing pos rs c s with
  | zero => exact hk0
  | succ n ih =>
    unfold replay
    split
    · exact hk0
    · apply withRead_of (P := Keeps3 s0) hk0
      · exact fun _ _ k => k
      · intro b t k
        dsimp only
        split
        · exact k
        · apply withRead_of (P := Keeps3 s0) k
          · exact fun _ _ k => k
          · intro b t k
            exact ih (replayOne_keeps k)
theorem carryCounters_keeps {s0 s : State} {c : Nat × Nat} (hk0 : Keeps s0 s) : Keeps s0 (carryCounters c s) := by
  unfold carryCounters
  repeat' (first | with_reducible assumption | with_reducible apply updTamp_keeps | with_reducible apply noteFcEnd_keeps | with_reducible apply setF_keeps | (extract_lets +onlyGivenNames s1; clear_value (hs : s1 = _); refine Keeps.cut (s0 := s0) (x := s1) ?_ (fun k1 => ?_); (on_goal 1 => subst hs); (on_goal 2 => clear hs)) | (extract_lets +onlyGivenNames v1; first | (have _ : Clocks := v1; subst v1) | (have _ : Fuses := v1; subst v1) | clear_value v1 | subst v1) | (unfold Keeps; dsimp only; with_reducible refine Keeps.of ?_))

theorem carryNode_keeps {s0 s : State} {loss : Bool} {updating : List Nat} {nix : Nat} (hk0 : Keeps s0 s) : Keeps s0 (carryNode loss updating s nix) := by
  unfold carryNode
  repeat' (first | with_reducible assumption | with_reducible apply storeEntry_keeps | with_reducible apply joinRoster_keeps | (extract_lets +onlyGivenNames s1; clear_value (hs : s1 = _); refine Keeps.cut (s0 := s0) (x := s1) ?_ (fun k1 => ?_); (on_goal 1 => subst hs); (on_goal 2 => clear hs)) | (extract_lets +onlyGivenNames v1; first | (have _ : Clocks := v1; subst v1) | (have _ : Fuses := v1; subst v1) | clear_value v1 | subst v1) | split | (unfold Keeps; dsimp only; with_reducible refine Keeps.of ?_))

theorem takeoverBoundary_keeps {s0 s : State} (hk0 : Keeps s0 s) : Keeps s0 (takeoverBoundary s) := by
  unfold takeoverBoundary
  repeat' (first | with_reducible assumption | with_reducible apply updSlt_keeps | with_reducible apply placeNext_keeps | with_reducible apply firstBoundary_keeps | (extract_lets +onlyGivenNames s1; clear_value (hs : s1 = _); refine Keeps.cut (s0 := s0) (x := s1) ?_ (fun k1 => ?_); (on_goal 1 => subst hs); (on_goal 2 => clear hs)) | (extract_lets +onlyGivenNames v1; first | (have _ : Clocks := v1; subst v1) | (have _ : Fuses := v1; subst v1) | clear_value v1 | subst v1) | split | (unfold Keeps; dsimp only; with_reducible refine Keeps.of ?_))

theorem takeoverEnd_keeps {s0 s : State} {b : Bool} {t : Takeover} {loss : Bool} {v : SlotView} (hk0 : Keeps s0 s) : Keeps s0 (takeoverEnd b t loss v s) := by
  unfold takeoverEnd
  repeat' (first | with_reducible assumption | with_reducible apply putDigest_keeps | with_reducible apply setF_keeps | with_reducible apply takeoverBoundary_keeps | with_reducible apply syncMode_keeps | with_reducible apply incF_keeps | with_reducible apply putSlot_keeps | with_reducible apply updPair_keeps | with_reducible apply notify_keeps | (extract_lets +onlyGivenNames s1; clear_value (hs : s1 = _); refine Keeps.cut (s0 := s0) (x := s1) ?_ (fun k1 => ?_); (on_goal 1 => subst hs); (on_goal 2 => clear hs)) | (extract_lets +onlyGivenNames v1; first | (have _ : Clocks := v1; subst v1) | (have _ : Fuses := v1; subst v1) | clear_value v1 | subst v1) | split | (unfold Keeps; dsimp only; with_reducible refine Keeps.of ?_))

theorem restoreFrom_keeps {s0 s : State} {b : Bool} {jpos : Nat} {t : Takeover} {v : SlotView} {failed : List (Fin 16 × Fin 3)} (hk0 : Keeps s0 s) :
    Keeps s0 (restoreFrom b jpos t v failed s) := by
  unfold restoreFrom
  extract_lets s1 s2 s3
  have k1 : Keeps s0 s1 := Keeps.foldl hk0 fun _ _ h => carryKey_keeps h
  have k2 : Keeps s0 s2 := Keeps.foldl k1 fun _ _ h => carryCal_keeps h
  have k3 : Keeps s0 s3 := restoreAreas_keeps k2
  have k4 : Keeps3 s0 (replay s3.jposAck (jring / 16) jpos v.records (v.beacon.toNat, v.localFc.toNat) s3) := replay_keeps k3
  revert k4
  generalize replay s3.jposAck (jring / 16) jpos v.records (v.beacon.toNat, v.localFc.toNat) s3 = y
  intro k4
  obtain ⟨c, ue, z⟩ := y
  replace k4 : Keeps s0 z := k4
  exact takeoverEnd_keeps (Keeps.foldl (carryCounters_keeps k4) fun _ _ h => carryNode_keeps h)
theorem restoreFirst_keeps {s0 s : State} {t : Takeover} {va vb : SlotView} {failed : List (Fin 16 × Fin 3)} {l : List (Bool × Nat)} (hk0 : Keeps s0 s) :
    Keeps s0 (restoreFirst t va vb failed l s) := by
  induction l generalizing s with
  | nil => exact restart_keeps (notify_keeps hk0)
  | cons e r ih =>
    unfold restoreFirst
    split
    · exact restoreFrom_keeps (KeepsOpt.some (restoreRegs_keeps hk0) ‹_›)
    · exact ih hk0
theorem execTakeoverRestore_keeps {s0 s : State} {dt : Nat} {a b : SlotView} {failed : List (Fin 16 × Fin 3)} (hk0 : Keeps s0 s) : KeepsNext s0 (execTakeoverRestore dt a b failed s) := by
  unfold execTakeoverRestore
  repeat' (first | with_reducible assumption | with_reducible apply elapse_keeps | with_reducible apply restoreFirst_keeps | with_reducible apply KeepsNext.next | (extract_lets +onlyGivenNames s1; clear_value (hs : s1 = _); refine Keeps.cut (s0 := s0) (x := s1) ?_ (fun k1 => ?_); (on_goal 1 => subst hs); (on_goal 2 => clear hs)) | (extract_lets +onlyGivenNames v1; first | (have _ : Clocks := v1; subst v1) | (have _ : Fuses := v1; subst v1) | clear_value v1 | subst v1) | split | (unfold Keeps; dsimp only; with_reducible refine Keeps.of ?_))


end Sys2Proof.Machine
end

