-- ==== Sys2Proof/Laws/KeepsPower.lean ====
section
/-! SUPPORT. What the operations of Machine/Power.lean keep. -/

set_option linter.unusedTactic false
set_option linter.unreachableTactic false
set_option linter.unusedVariables false

namespace Sys2Proof.Machine

theorem powerOff_keeps {s0 s : State} (hk0 : Keeps s0 s) : Keeps s0 (powerOff s) := by
  unfold powerOff
  have k : ∀ t : State, t.pending = s.pending → t.regs = (s.regs.filter fun e => decide (0x138000 ≤ e.1) && decide (e.1 < 0x139000)) → t.tabs = [] → t.dram = [] →
      t.clk.now = s.clk.now → t.out = s.out → t.fuses = s.fuses → t.draws = s.draws → Keeps s0 t := by
    intro t h1 h2 h3 h4 h5 h6 h7 h8
    refine ⟨h1.trans hk0.queue, fun m => ?_, h5 ▸ hk0.time, h6 ▸ hk0.added, h7 ▸ hk0.serial, h7 ▸ hk0.part, h7 ▸ hk0.root, h7 ▸ hk0.arb, h8 ▸ hk0.draws⟩
    rw [h2, h3, h4]
    exact ⟨Sparse.wf_filter _ (hk0.maps m).1, rfl, rfl⟩
  split
  · exact k _ rfl rfl rfl rfl rfl rfl rfl rfl
  · exact loseTamp_keeps (k _ rfl rfl rfl rfl rfl rfl rfl rfl)
theorem execVinPowerOff_keeps {s0 s : State} {dt : Nat} (hk0 : Keeps s0 s) : KeepsNext s0 (execVinPowerOff dt s) := by
  unfold execVinPowerOff
  repeat' (first | with_reducible assumption | with_reducible apply powerOff_keeps | with_reducible apply elapse_keeps | with_reducible apply KeepsNext.next)

theorem execVinLow_keeps {s0 s : State} {dt : Nat} {mv : Nat} (hk0 : Keeps s0 s) : KeepsNext s0 (execVinLow dt mv s) := by
  unfold execVinLow
  repeat' (first | with_reducible assumption | with_reducible apply elapse_keeps | with_reducible apply notify_keeps | with_reducible apply setF_keeps | with_reducible apply KeepsNext.next | (extract_lets +onlyGivenNames s1; clear_value (hs : s1 = _); refine Keeps.cut (s0 := s0) (x := s1) ?_ (fun k1 => ?_); (on_goal 1 => subst hs); (on_goal 2 => clear hs)) | (extract_lets +onlyGivenNames v1; first | (have _ : Clocks := v1; subst v1) | (have _ : Fuses := v1; subst v1) | clear_value v1 | subst v1) | split)

theorem execVbatLoss_keeps {s0 s : State} {dt : Nat} (hk0 : Keeps s0 s) : KeepsNext s0 (execVbatLoss dt s) := by
  unfold execVbatLoss
  repeat' (first | with_reducible assumption | with_reducible apply elapse_keeps | with_reducible apply loseTamp_keeps | with_reducible apply KeepsNext.next | (extract_lets +onlyGivenNames s1; clear_value (hs : s1 = _); refine Keeps.cut (s0 := s0) (x := s1) ?_ (fun k1 => ?_); (on_goal 1 => subst hs); (on_goal 2 => clear hs)) | (extract_lets +onlyGivenNames v1; first | (have _ : Clocks := v1; subst v1) | (have _ : Fuses := v1; subst v1) | clear_value v1 | subst v1) | split | (unfold Keeps; dsimp only; with_reducible refine Keeps.of ?_))

theorem enterHibernate_keeps {s0 s : State} {m : Master} (hk0 : Keeps s0 s) : Keeps s0 (enterHibernate m s) := by
  unfold enterHibernate
  repeat' (first | with_reducible assumption | with_reducible apply cancelAllJobs_keeps | with_reducible apply discardTxn_keeps | with_reducible apply portsOff_keeps | with_reducible apply releaseOwnN_keeps | with_reducible apply notify_keeps | with_reducible apply logEntry_keeps | (extract_lets +onlyGivenNames s1; clear_value (hs : s1 = _); refine Keeps.cut (s0 := s0) (x := s1) ?_ (fun k1 => ?_); (on_goal 1 => subst hs); (on_goal 2 => clear hs)) | (extract_lets +onlyGivenNames v1; first | (have _ : Clocks := v1; subst v1) | (have _ : Fuses := v1; subst v1) | clear_value v1 | subst v1) | (unfold Keeps; dsimp only; with_reducible refine Keeps.of ?_))

theorem writePwrHib_keeps {s0 s : State} {m : Master} {w : Word} (hk0 : Keeps s0 s) : Keeps s0 (writePwrHib m w s) := by
  unfold writePwrHib
  repeat' (first | with_reducible assumption | with_reducible apply ignored_keeps | with_reducible apply enterHibernate_keeps | split)

theorem execPwrHibEnter_keeps {s0 s : State} {dt : Nat} {m : Master} {w : Word} (hk0 : Keeps s0 s) : KeepsNext s0 (execPwrHibEnter dt m w s) := by
  unfold execPwrHibEnter
  repeat' (first | with_reducible assumption | with_reducible apply gatedWrite_keeps | with_reducible apply writePwrHib_keeps | with_reducible apply elapse_keeps | with_reducible apply KeepsNext.next | intro _ _ _ | intro _ _)

theorem execHibernatePowerOff_keeps {s0 s : State} {dt : Nat} (hk0 : Keeps s0 s) : KeepsNext s0 (execHibernatePowerOff dt s) := by
  unfold execHibernatePowerOff
  repeat' (first | with_reducible assumption | with_reducible apply elapse_keeps | with_reducible apply coreOff_keeps | with_reducible apply setF_keeps | with_reducible apply KeepsNext.next | (extract_lets +onlyGivenNames s1; clear_value (hs : s1 = _); refine Keeps.cut (s0 := s0) (x := s1) ?_ (fun k1 => ?_); (on_goal 1 => subst hs); (on_goal 2 => clear hs)) | (extract_lets +onlyGivenNames v1; first | (have _ : Clocks := v1; subst v1) | (have _ : Fuses := v1; subst v1) | clear_value v1 | subst v1) | split | (unfold Keeps; dsimp only; with_reducible refine Keeps.of ?_))

theorem writeCurWake_keeps {s0 s : State} {w : Word} (hk0 : Keeps s0 s) : Keeps s0 (writeCurWake w s) := by
  unfold writeCurWake
  repeat' (first | with_reducible assumption | with_reducible apply restart_keeps | split)

theorem execCurWake_keeps {s0 s : State} {dt : Nat} {m : Master} {w : Word} (hk0 : Keeps s0 s) : KeepsNext s0 (execCurWake dt m w s) := by
  unfold execCurWake
  repeat' (first | with_reducible assumption | with_reducible apply elapse_keeps | with_reducible apply writeCurWake_keeps | with_reducible apply ignored_keeps | with_reducible apply KeepsNext.next | (extract_lets +onlyGivenNames s1; clear_value (hs : s1 = _); refine Keeps.cut (s0 := s0) (x := s1) ?_ (fun k1 => ?_); (on_goal 1 => subst hs); (on_goal 2 => clear hs)) | (extract_lets +onlyGivenNames v1; first | (have _ : Clocks := v1; subst v1) | (have _ : Fuses := v1; subst v1) | clear_value v1 | subst v1) | split)

theorem execCurHibTimerExpire_keeps {s0 s : State} {dt : Nat} (hk0 : Keeps s0 s) : KeepsNext s0 (execCurHibTimerExpire dt s) := by
  unfold execCurHibTimerExpire
  repeat' (first | with_reducible assumption | with_reducible apply elapse_keeps | with_reducible apply restart_keeps | with_reducible apply KeepsNext.next | (extract_lets +onlyGivenNames s1; clear_value (hs : s1 = _); refine Keeps.cut (s0 := s0) (x := s1) ?_ (fun k1 => ?_); (on_goal 1 => subst hs); (on_goal 2 => clear hs)) | (extract_lets +onlyGivenNames v1; first | (have _ : Clocks := v1; subst v1) | (have _ : Fuses := v1; subst v1) | clear_value v1 | subst v1) | split)

theorem addEnergy_keeps {s0 s : State} {k nj : Nat} (hk0 : Keeps s0 s) : Keeps s0 (addEnergy k nj s) := by
  unfold addEnergy
  repeat' (first | with_reducible assumption | with_reducible apply set64_keeps | (extract_lets +onlyGivenNames s1; clear_value (hs : s1 = _); refine Keeps.cut (s0 := s0) (x := s1) ?_ (fun k1 => ?_); (on_goal 1 => subst hs); (on_goal 2 => clear hs)) | (extract_lets +onlyGivenNames v1; first | (have _ : Clocks := v1; subst v1) | (have _ : Fuses := v1; subst v1) | clear_value v1 | subst v1) | (unfold Keeps; dsimp only; with_reducible refine Keeps.of ?_))

theorem addEnergies_keeps {s0 s : State} {k : Nat} {l : List Nat} (hk0 : Keeps s0 s) : Keeps s0 (addEnergies k l s) := by
  induction l generalizing k s with
  | nil => exact hk0
  | cons e r ih => unfold addEnergies; exact ih (addEnergy_keeps hk0)
theorem execEnergyCounterUpdate_keeps {s0 s : State} {dt : Nat} {vin : Nat} {blocks : List Nat} (hk0 : Keeps s0 s) : KeepsNext s0 (execEnergyCounterUpdate dt vin blocks s) := by
  unfold execEnergyCounterUpdate
  repeat' (first | with_reducible assumption | with_reducible apply elapse_keeps | with_reducible apply addEnergy_keeps | with_reducible apply addEnergies_keeps | with_reducible apply KeepsNext.next | (extract_lets +onlyGivenNames s1; clear_value (hs : s1 = _); refine Keeps.cut (s0 := s0) (x := s1) ?_ (fun k1 => ?_); (on_goal 1 => subst hs); (on_goal 2 => clear hs)) | (extract_lets +onlyGivenNames v1; first | (have _ : Clocks := v1; subst v1) | (have _ : Fuses := v1; subst v1) | clear_value v1 | subst v1) | split | (unfold Keeps; dsimp only; with_reducible refine Keeps.of ?_))

theorem clearEnergy_keeps {s0 s : State} (hk0 : Keeps s0 s) : Keeps s0 (clearEnergy s) := by
  unfold clearEnergy
  repeat' (first | with_reducible assumption | with_reducible apply set64_keeps | with_reducible apply Keeps.foldl | (extract_lets +onlyGivenNames s1; clear_value (hs : s1 = _); refine Keeps.cut (s0 := s0) (x := s1) ?_ (fun k1 => ?_); (on_goal 1 => subst hs); (on_goal 2 => clear hs)) | (extract_lets +onlyGivenNames v1; first | (have _ : Clocks := v1; subst v1) | (have _ : Fuses := v1; subst v1) | clear_value v1 | subst v1) | intro _ _ _ | intro _ _ | (unfold Keeps; dsimp only; with_reducible refine Keeps.of ?_))

theorem execPwrNrgClear_keeps {s0 s : State} {dt : Nat} {m : Master} {w : Word} (hk0 : Keeps s0 s) : KeepsNext s0 (execPwrNrgClear dt m w s) := by
  unfold execPwrNrgClear
  repeat' (first | with_reducible assumption | with_reducible apply gatedWrite_keeps | with_reducible apply clearEnergy_keeps | with_reducible apply elapse_keeps | with_reducible apply KeepsNext.next | split | intro _ _ _ | intro _ _)

theorem startEpf_keeps {s0 s : State} (hk0 : Keeps s0 s) : Keeps s0 (startEpf s) := by
  unfold startEpf
  repeat' (first | with_reducible assumption | with_reducible apply setF_keeps | (extract_lets +onlyGivenNames s1; clear_value (hs : s1 = _); refine Keeps.cut (s0 := s0) (x := s1) ?_ (fun k1 => ?_); (on_goal 1 => subst hs); (on_goal 2 => clear hs)) | (extract_lets +onlyGivenNames v1; first | (have _ : Clocks := v1; subst v1) | (have _ : Fuses := v1; subst v1) | clear_value v1 | subst v1) | (unfold Keeps; dsimp only; with_reducible refine Keeps.of ?_))

theorem writeEpfCtrl_keeps {s0 s : State} {m : Master} {w : Word} (hk0 : Keeps s0 s) : Keeps s0 (writeEpfCtrl m w s) := by
  unfold writeEpfCtrl
  repeat' (first | with_reducible assumption | with_reducible apply ignored_keeps | with_reducible apply setF_keeps | with_reducible apply startEpf_keeps | (extract_lets +onlyGivenNames s1; clear_value (hs : s1 = _); refine Keeps.cut (s0 := s0) (x := s1) ?_ (fun k1 => ?_); (on_goal 1 => subst hs); (on_goal 2 => clear hs)) | (extract_lets +onlyGivenNames v1; first | (have _ : Clocks := v1; subst v1) | (have _ : Fuses := v1; subst v1) | clear_value v1 | subst v1) | split)

theorem execEpfStart_keeps {s0 s : State} {dt : Nat} {m : Master} {w : Word} (hk0 : Keeps s0 s) : KeepsNext s0 (execEpfStart dt m w s) := by
  unfold execEpfStart
  repeat' (first | with_reducible assumption | with_reducible apply gatedWrite_keeps | with_reducible apply writeEpfCtrl_keeps | with_reducible apply elapse_keeps | with_reducible apply KeepsNext.next | intro _ _ _ | intro _ _)

theorem endEpf_keeps {s0 s : State} {nj : Nat} (hk0 : Keeps s0 s) : Keeps s0 (endEpf nj s) := by
  unfold endEpf
  repeat' (first | with_reducible assumption | with_reducible apply setF_keeps | with_reducible apply notify_keeps | (extract_lets +onlyGivenNames s1; clear_value (hs : s1 = _); refine Keeps.cut (s0 := s0) (x := s1) ?_ (fun k1 => ?_); (on_goal 1 => subst hs); (on_goal 2 => clear hs)) | (extract_lets +onlyGivenNames v1; first | (have _ : Clocks := v1; subst v1) | (have _ : Fuses := v1; subst v1) | clear_value v1 | subst v1) | split | (unfold Keeps; dsimp only; with_reducible refine Keeps.of ?_))

theorem execEpfDone_keeps {s0 s : State} {dt : Nat} (hk0 : Keeps s0 s) : KeepsNext s0 (execEpfDone dt s) := by
  unfold execEpfDone
  repeat' (first | with_reducible assumption | with_reducible apply elapse_keeps | with_reducible apply endEpf_keeps | with_reducible apply KeepsNext.next | (extract_lets +onlyGivenNames s1; clear_value (hs : s1 = _); refine Keeps.cut (s0 := s0) (x := s1) ?_ (fun k1 => ?_); (on_goal 1 => subst hs); (on_goal 2 => clear hs)) | (extract_lets +onlyGivenNames v1; first | (have _ : Clocks := v1; subst v1) | (have _ : Fuses := v1; subst v1) | clear_value v1 | subst v1) | split | (unfold Keeps; dsimp only; with_reducible refine Keeps.of ?_))


end Sys2Proof.Machine
end

