-- ==== Sys2Proof/Laws/KeepsSafetyMon.lean ====
section
/-! SUPPORT. What the operations of Machine/SafetyMon.lean keep. -/

set_option linter.unusedTactic false
set_option linter.unreachableTactic false
set_option linter.unusedVariables false

namespace Sys2Proof.Machine

theorem execClkMonWindow_keeps {s0 s : State} {dt : Nat} {counts pulses : List Nat} {locked : Bool} (hk0 : Keeps s0 s) : KeepsNext s0 (execClkMonWindow dt counts pulses locked s) := by
  unfold execClkMonWindow
  repeat' (first | with_reducible assumption | with_reducible apply elapse_keeps | with_reducible apply setF_keeps | with_reducible apply setReg_keeps | with_reducible apply notify_keeps | with_reducible apply enterSafe_keeps | with_reducible apply KeepsNext.next | (extract_lets +onlyGivenNames s1; clear_value (hs : s1 = _); refine Keeps.cut (s0 := s0) (x := s1) ?_ (fun k1 => ?_); (on_goal 1 => subst hs); (on_goal 2 => clear hs)) | (extract_lets +onlyGivenNames v1; first | (have _ : Clocks := v1; subst v1) | (have _ : Fuses := v1; subst v1) | clear_value v1 | subst v1) | split)

theorem leaveSafe_keeps {s0 s : State} (hk0 : Keeps s0 s) : Keeps s0 (leaveSafe s) := by
  unfold leaveSafe
  repeat' (first | with_reducible assumption | with_reducible apply setF_keeps | with_reducible apply syncMode_keeps | with_reducible apply notify_keeps | with_reducible apply resumePorts_keeps | with_reducible apply incF_keeps | (extract_lets +onlyGivenNames s1; clear_value (hs : s1 = _); refine Keeps.cut (s0 := s0) (x := s1) ?_ (fun k1 => ?_); (on_goal 1 => subst hs); (on_goal 2 => clear hs)) | (extract_lets +onlyGivenNames v1; first | (have _ : Clocks := v1; subst v1) | (have _ : Fuses := v1; subst v1) | clear_value v1 | subst v1) | (unfold Keeps; dsimp only; with_reducible refine Keeps.of ?_))

theorem writeSafCmd_keeps {s0 s : State} {m : Master} {w : Word} (hk0 : Keeps s0 s) : Keeps s0 (writeSafCmd m w s) := by
  unfold writeSafCmd
  repeat' (first | with_reducible assumption | with_reducible apply ignored_keeps | with_reducible apply leaveSafe_keeps | with_reducible apply incF_keeps | split)

theorem execSafeExit_keeps {s0 s : State} {dt : Nat} {m : Master} {w : Word} (hk0 : Keeps s0 s) : KeepsNext s0 (execSafeExit dt m w s) := by
  unfold execSafeExit
  repeat' (first | with_reducible assumption | with_reducible apply gatedWrite_keeps | with_reducible apply writeSafCmd_keeps | with_reducible apply elapse_keeps | with_reducible apply KeepsNext.next | intro _ _ _ | intro _ _)

theorem execSupplyFault_keeps {s0 s : State} {dt : Nat} {i : Fin 4} (hk0 : Keeps s0 s) : KeepsNext s0 (execSupplyFault dt i s) := by
  unfold execSupplyFault
  repeat' (first | with_reducible assumption | with_reducible apply elapse_keeps | with_reducible apply setF_keeps | with_reducible apply notify_keeps | with_reducible apply incF_keeps | with_reducible apply enterSafe_keeps | with_reducible apply KeepsNext.next | (extract_lets +onlyGivenNames s1; clear_value (hs : s1 = _); refine Keeps.cut (s0 := s0) (x := s1) ?_ (fun k1 => ?_); (on_goal 1 => subst hs); (on_goal 2 => clear hs)) | (extract_lets +onlyGivenNames v1; first | (have _ : Clocks := v1; subst v1) | (have _ : Fuses := v1; subst v1) | clear_value v1 | subst v1) | split)

theorem execSupplyInRange_keeps {s0 s : State} {dt : Nat} {i : Fin 4} (hk0 : Keeps s0 s) : KeepsNext s0 (execSupplyInRange dt i s) := by
  unfold execSupplyInRange
  repeat' (first | with_reducible assumption | with_reducible apply elapse_keeps | with_reducible apply setF_keeps | with_reducible apply KeepsNext.next | (extract_lets +onlyGivenNames s1; clear_value (hs : s1 = _); refine Keeps.cut (s0 := s0) (x := s1) ?_ (fun k1 => ?_); (on_goal 1 => subst hs); (on_goal 2 => clear hs)) | (extract_lets +onlyGivenNames v1; first | (have _ : Clocks := v1; subst v1) | (have _ : Fuses := v1; subst v1) | clear_value v1 | subst v1) | split)

theorem execTempSample_keeps {s0 s : State} {dt : Nat} {ts : List Int} (hk0 : Keeps s0 s) : KeepsNext s0 (execTempSample dt ts s) := by
  unfold execTempSample
  extract_lets s1 t hot cool saf s2 s3
  have k1 : Keeps s0 s1 := elapse_keeps hk0
  have k2 : Keeps s0 s2 := setF_keeps (Keeps.of k1)
  split
  · exact KeepsNext.next k1
  · split
    · apply KeepsNext.next
      split
      · exact setF_keeps k2
      · exact k2
    · split
      · exact KeepsNext.next (enterSafe_keeps (notify_keeps (incF_keeps (setF_keeps k2))))
      · exact KeepsNext.next k2
theorem parityError_keeps {s0 s : State} {a : ParityAt} (hk0 : Keeps s0 s) : Keeps s0 (parityError a s) := by
  unfold parityError
  repeat' (first | with_reducible assumption | with_reducible apply incF_keeps | with_reducible apply enterSafe_keeps | with_reducible apply notify_keeps | with_reducible apply alarmErase_keeps | (extract_lets +onlyGivenNames s1; clear_value (hs : s1 = _); refine Keeps.cut (s0 := s0) (x := s1) ?_ (fun k1 => ?_); (on_goal 1 => subst hs); (on_goal 2 => clear hs)) | (extract_lets +onlyGivenNames v1; first | (have _ : Clocks := v1; subst v1) | (have _ : Fuses := v1; subst v1) | clear_value v1 | subst v1) | split | (unfold Keeps; dsimp only; with_reducible refine Keeps.of ?_))

theorem execParityWalk_keeps {s0 s : State} {dt : Nat} {bad : List ParityAt} (hk0 : Keeps s0 s) : KeepsNext s0 (execParityWalk dt bad s) := by
  unfold execParityWalk
  repeat' (first | with_reducible assumption | with_reducible apply elapse_keeps | with_reducible apply parityError_keeps | with_reducible apply KeepsNext.next | with_reducible apply Keeps.foldl | (extract_lets +onlyGivenNames s1; clear_value (hs : s1 = _); refine Keeps.cut (s0 := s0) (x := s1) ?_ (fun k1 => ?_); (on_goal 1 => subst hs); (on_goal 2 => clear hs)) | (extract_lets +onlyGivenNames v1; first | (have _ : Clocks := v1; subst v1) | (have _ : Fuses := v1; subst v1) | clear_value v1 | subst v1) | split | intro _ _ _ | intro _ _)

theorem writeSafTest_keeps {s0 s : State} {m : Master} {w : Word} (hk0 : Keeps s0 s) : Keeps s0 (writeSafTest m w s) := by
  unfold writeSafTest
  repeat' (first | with_reducible assumption | with_reducible apply ignored_keeps | with_reducible apply setF_keeps | (extract_lets +onlyGivenNames s1; clear_value (hs : s1 = _); refine Keeps.cut (s0 := s0) (x := s1) ?_ (fun k1 => ?_); (on_goal 1 => subst hs); (on_goal 2 => clear hs)) | (extract_lets +onlyGivenNames v1; first | (have _ : Clocks := v1; subst v1) | (have _ : Fuses := v1; subst v1) | clear_value v1 | subst v1) | split | (unfold Keeps; dsimp only; with_reducible refine Keeps.of ?_))

theorem execSafTest_keeps {s0 s : State} {dt : Nat} {m : Master} {w : Word} (hk0 : Keeps s0 s) : KeepsNext s0 (execSafTest dt m w s) := by
  unfold execSafTest
  repeat' (first | with_reducible assumption | with_reducible apply gatedWrite_keeps | with_reducible apply writeSafTest_keeps | with_reducible apply elapse_keeps | with_reducible apply KeepsNext.next | intro _ _ _ | intro _ _)

theorem execSafTestDone_keeps {s0 s : State} {dt : Nat} {detected : Bool} (hk0 : Keeps s0 s) : KeepsNext s0 (execSafTestDone dt detected s) := by
  unfold execSafTestDone
  repeat' (first | with_reducible assumption | with_reducible apply elapse_keeps | with_reducible apply setF_keeps | with_reducible apply incF_keeps | with_reducible apply notify_keeps | with_reducible apply KeepsNext.next | (extract_lets +onlyGivenNames s1; clear_value (hs : s1 = _); refine Keeps.cut (s0 := s0) (x := s1) ?_ (fun k1 => ?_); (on_goal 1 => subst hs); (on_goal 2 => clear hs)) | (extract_lets +onlyGivenNames v1; first | (have _ : Clocks := v1; subst v1) | (have _ : Fuses := v1; subst v1) | clear_value v1 | subst v1) | split | (unfold Keeps; dsimp only; with_reducible refine Keeps.of ?_))


end Sys2Proof.Machine
end

