-- ==== Sys2Proof/Laws/KeepsShaper.lean ====
section
/-! SUPPORT. What the operations of Machine/Shaper.lean keep. -/

set_option linter.unusedTactic false
set_option linter.unreachableTactic false
set_option linter.unusedVariables false

namespace Sys2Proof.Machine

theorem endEntry_keeps {s0 s : State} {f : SFrame} {status : Nat} (hk0 : Keeps s0 s) : Keeps s0 (endEntry f status s) := by
  unfold endEntry
  repeat' (first | with_reducible assumption | with_reducible apply dlEnd_keeps | with_reducible apply incF_keeps | with_reducible apply poolFreeOpt_keeps | (extract_lets +onlyGivenNames s1; clear_value (hs : s1 = _); refine Keeps.cut (s0 := s0) (x := s1) ?_ (fun k1 => ?_); (on_goal 1 => subst hs); (on_goal 2 => clear hs)) | (extract_lets +onlyGivenNames v1; first | (have _ : Clocks := v1; subst v1) | (have _ : Fuses := v1; subst v1) | clear_value v1 | subst v1) | split | (unfold Keeps; dsimp only; with_reducible refine Keeps.of ?_))

theorem enterFrame_keeps {s0 s : State} {f : SFrame} (hk0 : Keeps s0 s) : Keeps s0 (enterFrame f s) := by
  unfold enterFrame
  repeat' (first | with_reducible assumption | with_reducible apply updShp_keeps | with_reducible apply endEntry_keeps | with_reducible apply refuseEntry_keeps | with_reducible apply enterQueue_keeps | (extract_lets +onlyGivenNames s1; clear_value (hs : s1 = _); refine Keeps.cut (s0 := s0) (x := s1) ?_ (fun k1 => ?_); (on_goal 1 => subst hs); (on_goal 2 => clear hs)) | (extract_lets +onlyGivenNames v1; first | (have _ : Clocks := v1; subst v1) | (have _ : Fuses := v1; subst v1) | clear_value v1 | subst v1) | split | (unfold Keeps; dsimp only; with_reducible refine Keeps.of ?_))

theorem execShaperEntry_keeps {s0 s : State} {dt : Nat} (hk0 : Keeps s0 s) : KeepsNext s0 (execShaperEntry dt s) := by
  unfold execShaperEntry
  repeat' (first | with_reducible assumption | with_reducible apply elapse_keeps | with_reducible apply enterFrame_keeps | with_reducible apply KeepsNext.next | (extract_lets +onlyGivenNames s1; clear_value (hs : s1 = _); refine Keeps.cut (s0 := s0) (x := s1) ?_ (fun k1 => ?_); (on_goal 1 => subst hs); (on_goal 2 => clear hs)) | (extract_lets +onlyGivenNames v1; first | (have _ : Clocks := v1; subst v1) | (have _ : Fuses := v1; subst v1) | clear_value v1 | subst v1) | split | (unfold Keeps; dsimp only; with_reducible refine Keeps.of ?_))

theorem payPace_keeps {s0 s : State} {p len : Nat} (hk0 : Keeps s0 s) : Keeps s0 (payPace p len s) := by
  unfold payPace
  repeat' (first | with_reducible assumption | with_reducible apply updShp_keeps | (extract_lets +onlyGivenNames s1; clear_value (hs : s1 = _); refine Keeps.cut (s0 := s0) (x := s1) ?_ (fun k1 => ?_); (on_goal 1 => subst hs); (on_goal 2 => clear hs)) | (extract_lets +onlyGivenNames v1; first | (have _ : Clocks := v1; subst v1) | (have _ : Fuses := v1; subst v1) | clear_value v1 | subst v1) | split | (unfold Keeps; dsimp only; with_reducible refine Keeps.of ?_))

theorem handOn_keeps {s0 s : State} {p : Nat} {f : SFrame} (hk0 : Keeps s0 s) : Keeps s0 (handOn p f s) := by
  unfold handOn
  repeat' (first | with_reducible assumption | with_reducible apply sendHost_keeps | with_reducible apply createJob_keeps | (extract_lets +onlyGivenNames s1; clear_value (hs : s1 = _); refine Keeps.cut (s0 := s0) (x := s1) ?_ (fun k1 => ?_); (on_goal 1 => subst hs); (on_goal 2 => clear hs)) | (extract_lets +onlyGivenNames v1; first | (have _ : Clocks := v1; subst v1) | (have _ : Fuses := v1; subst v1) | clear_value v1 | subst v1) | split | (unfold Keeps; dsimp only; with_reducible refine Keeps.of ?_))

theorem dispatchFrame_keeps {s0 s : State} {p c : Nat} {q : Queue} {f : SFrame} (hk0 : Keeps s0 s) : Keeps s0 (dispatchFrame p c q f s) := by
  unfold dispatchFrame
  repeat' (first | with_reducible assumption | with_reducible apply setClassV_keeps | with_reducible apply payClass_keeps | with_reducible apply dropHead_keeps | with_reducible apply noteServed_keeps | with_reducible apply incF_keeps | with_reducible apply handOn_keeps | with_reducible apply payPace_keeps | (extract_lets +onlyGivenNames s1; clear_value (hs : s1 = _); refine Keeps.cut (s0 := s0) (x := s1) ?_ (fun k1 => ?_); (on_goal 1 => subst hs); (on_goal 2 => clear hs)) | (extract_lets +onlyGivenNames v1; first | (have _ : Clocks := v1; subst v1) | (have _ : Fuses := v1; subst v1) | clear_value v1 | subst v1) | (unfold Keeps; dsimp only; with_reducible refine Keeps.of ?_))

theorem execShaperDecision_keeps {s0 s : State} {dt : Nat} {port : Fin 3} (hk0 : Keeps s0 s) : KeepsNext s0 (execShaperDecision dt port s) := by
  unfold execShaperDecision
  repeat' (first | with_reducible assumption | with_reducible apply elapse_keeps | with_reducible apply dispatchFrame_keeps | with_reducible apply KeepsNext.next | (extract_lets +onlyGivenNames s1; clear_value (hs : s1 = _); refine Keeps.cut (s0 := s0) (x := s1) ?_ (fun k1 => ?_); (on_goal 1 => subst hs); (on_goal 2 => clear hs)) | (extract_lets +onlyGivenNames v1; first | (have _ : Clocks := v1; subst v1) | (have _ : Fuses := v1; subst v1) | clear_value v1 | subst v1) | split | (unfold Keeps; dsimp only; with_reducible refine Keeps.of ?_))

theorem putSample_keeps {s0 s : State} {id : Nat} {body : List Byte} (hk0 : Keeps s0 s) : Keeps s0 (putSample id body s) := by
  unfold putSample
  repeat' (first | with_reducible assumption | with_reducible apply satF_keeps | with_reducible apply notify_keeps | with_reducible apply updShp_keeps | with_reducible apply setBytes_keeps | with_reducible apply incF_keeps | (extract_lets +onlyGivenNames s1; clear_value (hs : s1 = _); refine Keeps.cut (s0 := s0) (x := s1) ?_ (fun k1 => ?_); (on_goal 1 => subst hs); (on_goal 2 => clear hs)) | (extract_lets +onlyGivenNames v1; first | (have _ : Clocks := v1; subst v1) | (have _ : Fuses := v1; subst v1) | clear_value v1 | subst v1) | split | (unfold Keeps; dsimp only; with_reducible refine Keeps.of ?_))

theorem classSample_keeps {s0 s : State} {p c : Nat} (hk0 : Keeps s0 s) : Keeps s0 (classSample p c s) := by
  unfold classSample
  repeat' (first | with_reducible assumption | with_reducible apply putSample_keeps | (extract_lets +onlyGivenNames s1; clear_value (hs : s1 = _); refine Keeps.cut (s0 := s0) (x := s1) ?_ (fun k1 => ?_); (on_goal 1 => subst hs); (on_goal 2 => clear hs)) | (extract_lets +onlyGivenNames v1; first | (have _ : Clocks := v1; subst v1) | (have _ : Fuses := v1; subst v1) | clear_value v1 | subst v1))

theorem watchSample_keeps {s0 s : State} {k : Nat} (hk0 : Keeps s0 s) : Keeps s0 (watchSample k s) := by
  unfold watchSample
  repeat' (first | with_reducible assumption | with_reducible apply putSample_keeps | (extract_lets +onlyGivenNames s1; clear_value (hs : s1 = _); refine Keeps.cut (s0 := s0) (x := s1) ?_ (fun k1 => ?_); (on_goal 1 => subst hs); (on_goal 2 => clear hs)) | (extract_lets +onlyGivenNames v1; first | (have _ : Clocks := v1; subst v1) | (have _ : Fuses := v1; subst v1) | clear_value v1 | subst v1) | split | (unfold Keeps; dsimp only; with_reducible refine Keeps.of ?_))

theorem sampleSet_keeps {s0 s : State} (hk0 : Keeps s0 s) : Keeps s0 (sampleSet s) := by
  unfold sampleSet
  repeat' (first | with_reducible assumption | with_reducible apply updShp_keeps | with_reducible apply classSample_keeps | with_reducible apply watchSample_keeps | with_reducible apply Keeps.foldl | (extract_lets +onlyGivenNames s1; clear_value (hs : s1 = _); refine Keeps.cut (s0 := s0) (x := s1) ?_ (fun k1 => ?_); (on_goal 1 => subst hs); (on_goal 2 => clear hs)) | (extract_lets +onlyGivenNames v1; first | (have _ : Clocks := v1; subst v1) | (have _ : Fuses := v1; subst v1) | clear_value v1 | subst v1) | intro _ _ _ | intro _ _ | split | (unfold Keeps; dsimp only; with_reducible refine Keeps.of ?_))

theorem execShpSampleSet_keeps {s0 s : State} {dt : Nat} (hk0 : Keeps s0 s) : KeepsNext s0 (execShpSampleSet dt s) := by
  unfold execShpSampleSet
  repeat' (first | with_reducible assumption | with_reducible apply elapse_keeps | with_reducible apply sampleSet_keeps | with_reducible apply KeepsNext.next | (extract_lets +onlyGivenNames s1; clear_value (hs : s1 = _); refine Keeps.cut (s0 := s0) (x := s1) ?_ (fun k1 => ?_); (on_goal 1 => subst hs); (on_goal 2 => clear hs)) | (extract_lets +onlyGivenNames v1; first | (have _ : Clocks := v1; subst v1) | (have _ : Fuses := v1; subst v1) | clear_value v1 | subst v1) | split)

theorem execShpSringRdWrite_keeps {s0 s : State} {dt : Nat} {m : Master} {w : Word} (hk0 : Keeps s0 s) : KeepsNext s0 (execShpSringRdWrite dt m w s) := by
  unfold execShpSringRdWrite
  repeat' (first | with_reducible assumption | with_reducible apply gatedWrite_keeps | with_reducible apply writeRingRd_keeps | with_reducible apply elapse_keeps | with_reducible apply KeepsNext.next | intro _ _ _ | intro _ _)


end Sys2Proof.Machine
end

