-- ==== Sys2Proof/Laws/KeepsSlots.lean ====
section
/-! SUPPORT. What the operations of Machine/Slots.lean keep. -/

set_option linter.unusedTactic false
set_option linter.unreachableTactic false
set_option linter.unusedVariables false

namespace Sys2Proof.Machine

theorem commitFirst_keeps {s0 s : State} {b : Nat} (hk0 : Keeps s0 s) : Keeps s0 (commitFirst b s) := by
  unfold commitFirst
  repeat' (first | with_reducible assumption | with_reducible apply commitNow_keeps | split)

theorem execSlotBoundary_keeps {s0 s : State} {dt : Nat} (hk0 : Keeps s0 s) : KeepsNext s0 (execSlotBoundary dt s) := by
  unfold execSlotBoundary
  repeat' (first | with_reducible assumption | with_reducible apply elapse_keeps | with_reducible apply boundary_keeps | with_reducible apply commitFirst_keeps | with_reducible apply KeepsNext.next | (extract_lets +onlyGivenNames s1; clear_value (hs : s1 = _); refine Keeps.cut (s0 := s0) (x := s1) ?_ (fun k1 => ?_); (on_goal 1 => subst hs); (on_goal 2 => clear hs)) | (extract_lets +onlyGivenNames v1; first | (have _ : Clocks := v1; subst v1) | (have _ : Fuses := v1; subst v1) | clear_value v1 | subst v1) | split | (unfold Keeps; dsimp only; with_reducible refine Keeps.of ?_))

theorem writeSltCmd_keeps {s0 s : State} {m : Master} {w : Word} (hk0 : Keeps s0 s) : Keeps s0 (writeSltCmd m w s) := by
  unfold writeSltCmd
  repeat' (first | with_reducible assumption | with_reducible apply ignored_keeps | with_reducible apply placeNext_keeps | with_reducible apply incF_keeps | with_reducible apply notify_keeps | (extract_lets +onlyGivenNames s1; clear_value (hs : s1 = _); refine Keeps.cut (s0 := s0) (x := s1) ?_ (fun k1 => ?_); (on_goal 1 => subst hs); (on_goal 2 => clear hs)) | (extract_lets +onlyGivenNames v1; first | (have _ : Clocks := v1; subst v1) | (have _ : Fuses := v1; subst v1) | clear_value v1 | subst v1) | split | (with_reducible refine Keeps2.snd ?_ (by assumption)) | with_reducible apply Keeps2.mk | (unfold Keeps; dsimp only; with_reducible refine Keeps.of ?_))

theorem execSltRealign_keeps {s0 s : State} {dt : Nat} {m : Master} {w : Word} (hk0 : Keeps s0 s) : KeepsNext s0 (execSltRealign dt m w s) := by
  unfold execSltRealign
  repeat' (first | with_reducible assumption | with_reducible apply gatedWrite_keeps | with_reducible apply writeSltCmd_keeps | with_reducible apply elapse_keeps | with_reducible apply KeepsNext.next | intro _ _ _ | intro _ _)

theorem slotFault_keeps {s0 s : State} {kind v : Nat} (hk0 : Keeps s0 s) : Keeps s0 (slotFault kind v s) := by
  unfold slotFault
  repeat' (first | with_reducible assumption | with_reducible apply enterSafe_keeps | with_reducible apply notify_keeps | with_reducible apply incF_keeps)

theorem execSlotCheck_keeps {s0 s : State} {dt : Nat} {upset : Option (BitVec 64 × BitVec 40)} (hk0 : Keeps s0 s) : KeepsNext s0 (execSlotCheck dt upset s) := by
  unfold execSlotCheck
  repeat' (first | with_reducible assumption | with_reducible apply elapse_keeps | with_reducible apply slotFault_keeps | with_reducible apply KeepsNext.next | (extract_lets +onlyGivenNames s1; clear_value (hs : s1 = _); refine Keeps.cut (s0 := s0) (x := s1) ?_ (fun k1 => ?_); (on_goal 1 => subst hs); (on_goal 2 => clear hs)) | (extract_lets +onlyGivenNames v1; first | (have _ : Clocks := v1; subst v1) | (have _ : Fuses := v1; subst v1) | clear_value v1 | subst v1) | split | (with_reducible refine Keeps2.snd ?_ (by assumption)) | with_reducible apply Keeps2.mk | (unfold Keeps; dsimp only; with_reducible refine Keeps.of ?_))


end Sys2Proof.Machine
end

