-- ==== Sys2Proof/Laws/KeepsBus.lean ====
section
/-! SUPPORT. What the operations of Machine/Bus.lean keep. -/

set_option linter.unusedTactic false
set_option linter.unreachableTactic false
set_option linter.unusedVariables false

namespace Sys2Proof.Machine

theorem clearOnRead_keeps {s0 s : State} {a : Nat} {rc : Word} (hk0 : Keeps s0 s) : Keeps s0 (clearOnRead a rc s) := by
  unfold clearOnRead
  repeat' (first | with_reducible assumption | with_reducible apply setReg_keeps | (extract_lets +onlyGivenNames s1; clear_value (hs : s1 = _); refine Keeps.cut (s0 := s0) (x := s1) ?_ (fun k1 => ?_); (on_goal 1 => subst hs); (on_goal 2 => clear hs)) | (extract_lets +onlyGivenNames v1; first | (have _ : Clocks := v1; subst v1) | (have _ : Fuses := v1; subst v1) | clear_value v1 | subst v1) | split | (unfold Keeps; dsimp only; with_reducible refine Keeps.of ?_))

theorem readPlain_keeps {s0 s : State} {m : Master} {a : Nat} {r : RegSpec} (hk0 : Keeps s0 s) : Keeps2 s0 (readPlain m a r s) := by
  unfold readPlain
  repeat' (first | with_reducible assumption | with_reducible apply addCap_keeps | with_reducible apply clearOnRead_keeps | (extract_lets +onlyGivenNames s1; clear_value (hs : s1 = _); refine Keeps.cut (s0 := s0) (x := s1) ?_ (fun k1 => ?_); (on_goal 1 => subst hs); (on_goal 2 => clear hs)) | (extract_lets +onlyGivenNames v1; first | (have _ : Clocks := v1; subst v1) | (have _ : Fuses := v1; subst v1) | clear_value v1 | subst v1) | split | with_reducible apply Keeps2.mk)

theorem readReg_keeps {s0 s : State} {m : Master} {a : Nat} {r : RegSpec} (hk0 : Keeps s0 s) : Keeps2 s0 (readReg m a r s) := by
  unfold readReg
  repeat' (first | with_reducible assumption | with_reducible apply readBegin_keeps | (with_reducible refine Keeps2.snd (readBegin_keeps ?_) (by assumption)) | (with_reducible refine Keeps.of2 (readBegin_keeps ?_)) | with_reducible apply readChal_keeps | (with_reducible refine Keeps2.snd (readChal_keeps ?_) (by assumption)) | (with_reducible refine Keeps.of2 (readChal_keeps ?_)) | with_reducible apply readVdata0_keeps | (with_reducible refine Keeps2.snd (readVdata0_keeps ?_) (by assumption)) | (with_reducible refine Keeps.of2 (readVdata0_keeps ?_)) | with_reducible apply readVdata15_keeps | (with_reducible refine Keeps2.snd (readVdata15_keeps ?_) (by assumption)) | (with_reducible refine Keeps.of2 (readVdata15_keeps ?_)) | with_reducible apply readPlain_keeps | (with_reducible refine Keeps2.snd (readPlain_keeps ?_) (by assumption)) | (with_reducible refine Keeps.of2 (readPlain_keeps ?_)) | split | with_reducible apply Keeps2.mk)

theorem captureEntry_keeps {s0 s : State} {m : Master} {w off : Nat} (hk0 : Keeps s0 s) : Keeps s0 (captureEntry m w off s) := by
  unfold captureEntry
  repeat' (first | with_reducible assumption | with_reducible apply setCap_keeps | (extract_lets +onlyGivenNames s1; clear_value (hs : s1 = _); refine Keeps.cut (s0 := s0) (x := s1) ?_ (fun k1 => ?_); (on_goal 1 => subst hs); (on_goal 2 => clear hs)) | (extract_lets +onlyGivenNames v1; first | (have _ : Clocks := v1; subst v1) | (have _ : Fuses := v1; subst v1) | clear_value v1 | subst v1) | split)

theorem readWindow_keeps {s0 s : State} {m : Master} {a : Nat} (hk0 : Keeps s0 s) : Keeps2 s0 (readWindow m a s) := by
  unfold readWindow
  repeat' (first | with_reducible assumption | with_reducible apply accessErr_keeps | with_reducible apply captureEntry_keeps | (extract_lets +onlyGivenNames s1; clear_value (hs : s1 = _); refine Keeps.cut (s0 := s0) (x := s1) ?_ (fun k1 => ?_); (on_goal 1 => subst hs); (on_goal 2 => clear hs)) | (extract_lets +onlyGivenNames v1; first | (have _ : Clocks := v1; subst v1) | (have _ : Fuses := v1; subst v1) | clear_value v1 | subst v1) | split | with_reducible apply Keeps2.mk)

theorem readWord_keeps {s0 s : State} {m : Master} {a : Nat} (hk0 : Keeps s0 s) : Keeps2 s0 (readWord m a s) := by
  unfold readWord
  repeat' (first | with_reducible assumption | with_reducible apply accessErr_keeps | with_reducible apply readWindow_keeps | (with_reducible refine Keeps2.snd (readWindow_keeps ?_) (by assumption)) | (with_reducible refine Keeps.of2 (readWindow_keeps ?_)) | with_reducible apply readReg_keeps | (with_reducible refine Keeps2.snd (readReg_keeps ?_) (by assumption)) | (with_reducible refine Keeps.of2 (readReg_keeps ?_)) | (extract_lets +onlyGivenNames s1; clear_value (hs : s1 = _); refine Keeps.cut (s0 := s0) (x := s1) ?_ (fun k1 => ?_); (on_goal 1 => subst hs); (on_goal 2 => clear hs)) | (extract_lets +onlyGivenNames v1; first | (have _ : Clocks := v1; subst v1) | (have _ : Fuses := v1; subst v1) | clear_value v1 | subst v1) | split | with_reducible apply Keeps2.mk | (unfold Keeps; dsimp only; with_reducible refine Keeps.of ?_))

theorem busRead_keeps {s0 s : State} {m : Master} {a : Nat} (hk0 : Keeps s0 s) : Keeps2 s0 (busRead m a s) := by
  unfold busRead
  repeat' (first | with_reducible assumption | with_reducible apply accessErr_keeps | with_reducible apply readWord_keeps | (with_reducible refine Keeps2.snd (readWord_keeps ?_) (by assumption)) | (with_reducible refine Keeps.of2 (readWord_keeps ?_)) | (extract_lets +onlyGivenNames s1; clear_value (hs : s1 = _); refine Keeps.cut (s0 := s0) (x := s1) ?_ (fun k1 => ?_); (on_goal 1 => subst hs); (on_goal 2 => clear hs)) | (extract_lets +onlyGivenNames v1; first | (have _ : Clocks := v1; subst v1) | (have _ : Fuses := v1; subst v1) | clear_value v1 | subst v1) | split | with_reducible apply Keeps2.mk | (unfold Keeps; dsimp only; with_reducible refine Keeps.of ?_))

theorem passed_keeps {s0 s : State} (hk0 : Keeps s0 s) : Keeps s0 (passed s) := by
  unfold passed
  repeat' (first | with_reducible assumption | (extract_lets +onlyGivenNames s1; clear_value (hs : s1 = _); refine Keeps.cut (s0 := s0) (x := s1) ?_ (fun k1 => ?_); (on_goal 1 => subst hs); (on_goal 2 => clear hs)) | (extract_lets +onlyGivenNames v1; first | (have _ : Clocks := v1; subst v1) | (have _ : Fuses := v1; subst v1) | clear_value v1 | subst v1) | split | (unfold Keeps; dsimp only; with_reducible refine Keeps.of ?_))

theorem writeT_keeps {s0 s : State} {m : Master} {key a : Nat} {ok : Bool} {w : Word} (hk0 : Keeps s0 s) : Keeps s0 (writeT m key a ok w s) := by
  unfold writeT
  repeat' (first | with_reducible assumption | with_reducible apply deny_keeps | with_reducible apply accessErr_keeps | with_reducible apply setF_keeps | with_reducible apply putShadow_keeps | split)

theorem writeWindow_keeps {s0 s : State} {m : Master} {a : Nat} {v : Word} (hk0 : Keeps s0 s) : Keeps s0 (writeWindow m a v s) := by
  unfold writeWindow
  repeat' (first | with_reducible assumption | with_reducible apply accessErr_keeps | with_reducible apply ignored_keeps | with_reducible apply passed_keeps | with_reducible apply writeT_keeps | (extract_lets +onlyGivenNames s1; clear_value (hs : s1 = _); refine Keeps.cut (s0 := s0) (x := s1) ?_ (fun k1 => ?_); (on_goal 1 => subst hs); (on_goal 2 => clear hs)) | (extract_lets +onlyGivenNames v1; first | (have _ : Clocks := v1; subst v1) | (have _ : Fuses := v1; subst v1) | clear_value v1 | subst v1) | split | (unfold Keeps; dsimp only; with_reducible refine Keeps.of ?_))

theorem writeD_keeps {s0 s : State} {m : Master} {a : Nat} {r : RegSpec} {w : Word} (hk0 : Keeps s0 s) : Keeps s0 (writeD m a r w s) := by
  unfold writeD
  repeat' (first | with_reducible assumption | with_reducible apply passed_keeps | with_reducible apply setReg_keeps | with_reducible apply ignored_keeps | (extract_lets +onlyGivenNames s1; clear_value (hs : s1 = _); refine Keeps.cut (s0 := s0) (x := s1) ?_ (fun k1 => ?_); (on_goal 1 => subst hs); (on_goal 2 => clear hs)) | (extract_lets +onlyGivenNames v1; first | (have _ : Clocks := v1; subst v1) | (have _ : Fuses := v1; subst v1) | clear_value v1 | subst v1) | split)

theorem onlyBy_keeps {s0 s : State} {who m : Master} {a : Nat} {f : State → State} (hk0 : Keeps s0 s) (hf : ∀ t, Keeps s0 t → Keeps s0 (f t)) : Keeps s0 (onlyBy who m a f s) := by
  unfold onlyBy
  repeat' (first | with_reducible assumption | with_reducible apply ignored_keeps | with_reducible apply hf | split)

theorem putD_keeps {s0 s : State} {m : Master} {a : Nat} {r : RegSpec} {w : Word} (hk0 : Keeps s0 s) : Keeps s0 (putD m a r w s) := by
  unfold putD
  repeat' (first | with_reducible assumption | with_reducible apply setReg_keeps | with_reducible apply ignored_keeps | split)

theorem writeTimeout_keeps {s0 s : State} {m : Master} {w : Word} (hk0 : Keeps s0 s) : Keeps s0 (writeTimeout m w s) := by
  unfold writeTimeout
  repeat' (first | with_reducible assumption | with_reducible apply deny_keeps | with_reducible apply setReg_keeps | with_reducible apply accessErr_keeps | split)

theorem writeHibTimer_keeps {s0 s : State} {m : Master} {w : Word} (hk0 : Keeps s0 s) : Keeps s0 (writeHibTimer m w s) := by
  unfold writeHibTimer
  repeat' (first | with_reducible assumption | with_reducible apply setReg_keeps | with_reducible apply ignored_keeps | (extract_lets +onlyGivenNames s1; clear_value (hs : s1 = _); refine Keeps.cut (s0 := s0) (x := s1) ?_ (fun k1 => ?_); (on_goal 1 => subst hs); (on_goal 2 => clear hs)) | (extract_lets +onlyGivenNames v1; first | (have _ : Clocks := v1; subst v1) | (have _ : Fuses := v1; subst v1) | clear_value v1 | subst v1) | split | (unfold Keeps; dsimp only; with_reducible refine Keeps.of ?_))

theorem writePage_keeps {s0 s : State} {who m : Master} {a : Nat} {w : Word} (hk0 : Keeps s0 s) : Keeps s0 (writePage who m a w s) := by
  unfold writePage
  repeat' (first | with_reducible assumption | with_reducible apply setReg_keeps | with_reducible apply passed_keeps | split)

theorem codeIn_keeps {s0 s : State} {lo hi code : Nat} {f : State → State} (hk0 : Keeps s0 s) (hf : ∀ t, Keeps s0 t → Keeps s0 (f t)) : Keeps s0 (codeIn lo hi code f s) := by
  unfold codeIn
  repeat' (first | with_reducible assumption | with_reducible apply passed_keeps | (extract_lets +onlyGivenNames s1; clear_value (hs : s1 = _); refine Keeps.cut (s0 := s0) (x := s1) ?_ (fun k1 => ?_); (on_goal 1 => subst hs); (on_goal 2 => clear hs)) | (extract_lets +onlyGivenNames v1; first | (have _ : Clocks := v1; subst v1) | (have _ : Fuses := v1; subst v1) | clear_value v1 | subst v1) | with_reducible apply hf | split | (unfold Keeps; dsimp only; with_reducible refine Keeps.of ?_))

theorem writeLow_keeps {s0 s : State} {m : Master} {a : Nat} {r : RegSpec} {w : Word} (hk0 : Keeps s0 s) : Keeps s0 (writeLow m a r w s) := by
  unfold writeLow
  repeat' (first | with_reducible assumption | with_reducible apply writeRingRd_keeps | with_reducible apply writePwrHib_keeps | with_reducible apply clearEnergy_keeps | with_reducible apply writeEpfCtrl_keeps | with_reducible apply writeNvmCtrl_keeps | with_reducible apply writeRestart_keeps | with_reducible apply writeCommit_keeps | with_reducible apply writeRollback_keeps | with_reducible apply writeTimeout_keeps | with_reducible apply onlyBy_keeps | with_reducible apply ownCommand_keeps | with_reducible apply putD_keeps | with_reducible apply setReg_keeps | with_reducible apply writeHibTimer_keeps | with_reducible apply writeCurWake_keeps | with_reducible apply writePage_keeps | with_reducible apply writeD_keeps | (extract_lets +onlyGivenNames s1; clear_value (hs : s1 = _); refine Keeps.cut (s0 := s0) (x := s1) ?_ (fun k1 => ?_); (on_goal 1 => subst hs); (on_goal 2 => clear hs)) | (extract_lets +onlyGivenNames v1; first | (have _ : Clocks := v1; subst v1) | (have _ : Fuses := v1; subst v1) | clear_value v1 | subst v1) | intro _ _ _ | intro _ _ | split | (unfold Keeps; dsimp only; with_reducible refine Keeps.of ?_))

theorem writeMid_keeps {s0 s : State} {m : Master} {a : Nat} {r : RegSpec} {w : Word} (hk0 : Keeps s0 s) : Keeps s0 (writeMid m a r w s) := by
  unfold writeMid
  repeat' (first | with_reducible assumption | with_reducible apply writeSltCmd_keeps | with_reducible apply writeNbrClear_keeps | with_reducible apply writeUpdCtrl_keeps | with_reducible apply writeLeave_keeps | with_reducible apply codeIn_keeps | with_reducible apply writeCatCmd_keeps | with_reducible apply writeRingRd_keeps | with_reducible apply onlyBy_keeps | with_reducible apply writeSubmit_keeps | with_reducible apply writeCtrl_keeps | with_reducible apply putD_keeps | with_reducible apply writeMark_keeps | with_reducible apply writeFence_keeps | with_reducible apply writeInject_keeps | with_reducible apply writeCalCtrl_keeps | with_reducible apply writeD_keeps | (extract_lets +onlyGivenNames s1; clear_value (hs : s1 = _); refine Keeps.cut (s0 := s0) (x := s1) ?_ (fun k1 => ?_); (on_goal 1 => subst hs); (on_goal 2 => clear hs)) | (extract_lets +onlyGivenNames v1; first | (have _ : Clocks := v1; subst v1) | (have _ : Fuses := v1; subst v1) | clear_value v1 | subst v1) | intro _ _ _ | intro _ _ | split | (unfold Keeps; dsimp only; with_reducible refine Keeps.of ?_))

theorem writeHigh_keeps {s0 s : State} {m : Master} {a : Nat} {r : RegSpec} {w : Word} (hk0 : Keeps s0 s) : Keeps s0 (writeHigh m a r w s) := by
  unfold writeHigh
  repeat' (first | with_reducible assumption | with_reducible apply codeIn_keeps | with_reducible apply writeKeyCmd_keeps | with_reducible apply setReg_keeps | with_reducible apply ignored_keeps | with_reducible apply writeLcsCmd_keeps | with_reducible apply writeAttest_keeps | with_reducible apply writeTamCfg_keeps | with_reducible apply writeTimCmd_keeps | with_reducible apply writeIncHi_keeps | with_reducible apply writeStepNs_keeps | with_reducible apply writeExchStatus_keeps | with_reducible apply writeRingRd_keeps | with_reducible apply writeSnapNow_keeps | with_reducible apply writeSafCmd_keeps | with_reducible apply writeSafTest_keeps | with_reducible apply writeFrzCmd_keeps | with_reducible apply writeFrzVsel_keeps | with_reducible apply writeHrxRd_keeps | with_reducible apply writeHtxWr_keeps | with_reducible apply writeD_keeps | (extract_lets +onlyGivenNames s1; clear_value (hs : s1 = _); refine Keeps.cut (s0 := s0) (x := s1) ?_ (fun k1 => ?_); (on_goal 1 => subst hs); (on_goal 2 => clear hs)) | (extract_lets +onlyGivenNames v1; first | (have _ : Clocks := v1; subst v1) | (have _ : Fuses := v1; subst v1) | clear_value v1 | subst v1) | intro _ _ _ | intro _ _ | split | (unfold Keeps; dsimp only; with_reducible refine Keeps.of ?_))

theorem writeReg_keeps {s0 s : State} {m : Master} {a : Nat} {r : RegSpec} {w : Word} (hk0 : Keeps s0 s) : Keeps s0 (writeReg m a r w s) := by
  unfold writeReg
  repeat' (first | with_reducible assumption | with_reducible apply writeT_keeps | with_reducible apply writeLow_keeps | with_reducible apply writeMid_keeps | with_reducible apply writeHigh_keeps | split)

theorem writeWord_keeps {s0 s : State} {m : Master} {a : Nat} {w : Word} (hk0 : Keeps s0 s) : Keeps s0 (writeWord m a w s) := by
  unfold writeWord
  repeat' (first | with_reducible assumption | with_reducible apply accessErr_keeps | with_reducible apply writeWindow_keeps | with_reducible apply gatedWrite_keeps | with_reducible apply setTab_keeps | with_reducible apply passed_keeps | with_reducible apply writeReg_keeps | (extract_lets +onlyGivenNames s1; clear_value (hs : s1 = _); refine Keeps.cut (s0 := s0) (x := s1) ?_ (fun k1 => ?_); (on_goal 1 => subst hs); (on_goal 2 => clear hs)) | (extract_lets +onlyGivenNames v1; first | (have _ : Clocks := v1; subst v1) | (have _ : Fuses := v1; subst v1) | clear_value v1 | subst v1) | intro _ _ _ | intro _ _ | split | (unfold Keeps; dsimp only; with_reducible refine Keeps.of ?_))

theorem busWrite_keeps {s0 s : State} {m : Master} {a : Nat} {w : Word} (hk0 : Keeps s0 s) : Keeps s0 (busWrite m a w s) := by
  unfold busWrite
  repeat' (first | with_reducible assumption | with_reducible apply accessErr_keeps | with_reducible apply writeWord_keeps | (extract_lets +onlyGivenNames s1; clear_value (hs : s1 = _); refine Keeps.cut (s0 := s0) (x := s1) ?_ (fun k1 => ?_); (on_goal 1 => subst hs); (on_goal 2 => clear hs)) | (extract_lets +onlyGivenNames v1; first | (have _ : Clocks := v1; subst v1) | (have _ : Fuses := v1; subst v1) | clear_value v1 | subst v1) | split | (unfold Keeps; dsimp only; with_reducible refine Keeps.of ?_))

theorem parityMet_keeps {s0 s : State} {m : Master} {a : BitVec 24} {bad : Bool} (hk0 : Keeps s0 s) : Keeps s0 (parityMet m a bad s) := by
  unfold parityMet
  repeat' (first | with_reducible assumption | with_reducible apply parityError_keeps | split)

theorem execRegisterWrite_keeps {s0 s : State} {dt : Nat} {m : Master} {a : BitVec 24} {w : Word} {narrow bad : Bool} (hk0 : Keeps s0 s) : KeepsNext s0 (execRegisterWrite dt m a w narrow bad s) := by
  unfold execRegisterWrite
  repeat' (first | with_reducible assumption | with_reducible apply elapse_keeps | with_reducible apply accessErr_keeps | with_reducible apply busWrite_keeps | with_reducible apply parityMet_keeps | with_reducible apply KeepsNext.next | (extract_lets +onlyGivenNames s1; clear_value (hs : s1 = _); refine Keeps.cut (s0 := s0) (x := s1) ?_ (fun k1 => ?_); (on_goal 1 => subst hs); (on_goal 2 => clear hs)) | (extract_lets +onlyGivenNames v1; first | (have _ : Clocks := v1; subst v1) | (have _ : Fuses := v1; subst v1) | clear_value v1 | subst v1) | split | (unfold Keeps; dsimp only; with_reducible refine Keeps.of ?_))


end Sys2Proof.Machine
end

