-- ==== Sys2Proof/Laws/KeepsCurator.lean ====
section
/-! SUPPORT. What the operations of Machine/Curator.lean keep. -/

set_option linter.unusedTactic false
set_option linter.unreachableTactic false
set_option linter.unusedVariables false

namespace Sys2Proof.Machine

theorem busyPin_keeps {s0 s : State} (hk0 : Keeps s0 s) : Keeps s0 (busyPin s) := by
  unfold busyPin
  repeat' (first | with_reducible assumption | with_reducible apply setF_keeps | with_reducible apply incF_keeps | (extract_lets +onlyGivenNames s1; clear_value (hs : s1 = _); refine Keeps.cut (s0 := s0) (x := s1) ?_ (fun k1 => ?_); (on_goal 1 => subst hs); (on_goal 2 => clear hs)) | (extract_lets +onlyGivenNames v1; first | (have _ : Clocks := v1; subst v1) | (have _ : Fuses := v1; subst v1) | clear_value v1 | subst v1) | split | (unfold Keeps; dsimp only; with_reducible refine Keeps.of ?_))

theorem attnPin_keeps {s0 s : State} (hk0 : Keeps s0 s) : Keeps s0 (attnPin s) := by
  unfold attnPin
  repeat' (first | with_reducible assumption | with_reducible apply setF_keeps | with_reducible apply incF_keeps | (extract_lets +onlyGivenNames s1; clear_value (hs : s1 = _); refine Keeps.cut (s0 := s0) (x := s1) ?_ (fun k1 => ?_); (on_goal 1 => subst hs); (on_goal 2 => clear hs)) | (extract_lets +onlyGivenNames v1; first | (have _ : Clocks := v1; subst v1) | (have _ : Fuses := v1; subst v1) | clear_value v1 | subst v1) | split | (unfold Keeps; dsimp only; with_reducible refine Keeps.of ?_))

theorem curPins_keeps {s0 s : State} (hk0 : Keeps s0 s) : Keeps s0 (curPins s) := by
  unfold curPins
  repeat' (first | with_reducible assumption | with_reducible apply attnPin_keeps | with_reducible apply busyPin_keeps)

theorem pushWord_keeps {s0 s : State} {w : Word} (hk0 : Keeps s0 s) : Keeps s0 (pushWord w s) := by
  unfold pushWord
  repeat' (first | with_reducible assumption | with_reducible apply incF_keeps | with_reducible apply setF_keeps | with_reducible apply notify_keeps | (extract_lets +onlyGivenNames s1; clear_value (hs : s1 = _); refine Keeps.cut (s0 := s0) (x := s1) ?_ (fun k1 => ?_); (on_goal 1 => subst hs); (on_goal 2 => clear hs)) | (extract_lets +onlyGivenNames v1; first | (have _ : Clocks := v1; subst v1) | (have _ : Fuses := v1; subst v1) | clear_value v1 | subst v1) | split | (unfold Keeps; dsimp only; with_reducible refine Keeps.of ?_))

theorem pushWords_keeps {s0 s : State} {l : List Word} (hk0 : Keeps s0 s) : Keeps s0 (pushWords l s) := by
  induction l generalizing s with
  | nil => exact hk0
  | cons e r ih => unfold pushWords; exact ih (pushWord_keeps hk0)
theorem execPush_keeps {s0 s : State} {dt : Nat} {ws : List Word} (hk0 : Keeps s0 s) : KeepsNext s0 (execPush dt ws s) := by
  unfold execPush
  repeat' (first | with_reducible assumption | with_reducible apply elapse_keeps | with_reducible apply curPins_keeps | with_reducible apply pushWords_keeps | with_reducible apply emit_keeps | with_reducible apply KeepsNext.next | (extract_lets +onlyGivenNames s1; clear_value (hs : s1 = _); refine Keeps.cut (s0 := s0) (x := s1) ?_ (fun k1 => ?_); (on_goal 1 => subst hs); (on_goal 2 => clear hs)) | (extract_lets +onlyGivenNames v1; first | (have _ : Clocks := v1; subst v1) | (have _ : Fuses := v1; subst v1) | clear_value v1 | subst v1))

theorem pullWords_keeps {s0 s : State} {n : Nat} (hk0 : Keeps s0 s) : Keeps s0 (pullWords n s) := by
  induction n generalizing s with
  | zero => exact hk0
  | succ n ih =>
    unfold pullWords
    split
    · exact ih (emit_keeps (Keeps.of hk0))
    · exact ih (emit_keeps hk0)
theorem execPull_keeps {s0 s : State} {dt : Nat} {n : Nat} (hk0 : Keeps s0 s) : KeepsNext s0 (execPull dt n s) := by
  unfold execPull
  repeat' (first | with_reducible assumption | with_reducible apply elapse_keeps | with_reducible apply curPins_keeps | with_reducible apply pullWords_keeps | with_reducible apply emit_keeps | with_reducible apply KeepsNext.next | (extract_lets +onlyGivenNames s1; clear_value (hs : s1 = _); refine Keeps.cut (s0 := s0) (x := s1) ?_ (fun k1 => ?_); (on_goal 1 => subst hs); (on_goal 2 => clear hs)) | (extract_lets +onlyGivenNames v1; first | (have _ : Clocks := v1; subst v1) | (have _ : Fuses := v1; subst v1) | clear_value v1 | subst v1))

theorem execCurBadOp_keeps {s0 s : State} {dt : Nat} {op : BitVec 8} (hk0 : Keeps s0 s) : KeepsNext s0 (execCurBadOp dt op s) := by
  unfold execCurBadOp
  repeat' (first | with_reducible assumption | with_reducible apply elapse_keeps | with_reducible apply emit_keeps | with_reducible apply setF_keeps | with_reducible apply KeepsNext.next | (extract_lets +onlyGivenNames s1; clear_value (hs : s1 = _); refine Keeps.cut (s0 := s0) (x := s1) ?_ (fun k1 => ?_); (on_goal 1 => subst hs); (on_goal 2 => clear hs)) | (extract_lets +onlyGivenNames v1; first | (have _ : Clocks := v1; subst v1) | (have _ : Fuses := v1; subst v1) | clear_value v1 | subst v1) | split)

theorem execCurCsRise_keeps {s0 s : State} {dt : Nat} (hk0 : Keeps s0 s) : KeepsNext s0 (execCurCsRise dt s) := by
  unfold execCurCsRise
  repeat' (first | with_reducible assumption | with_reducible apply elapse_keeps | with_reducible apply curPins_keeps | with_reducible apply setF_keeps | with_reducible apply incF_keeps | with_reducible apply KeepsNext.next | (extract_lets +onlyGivenNames s1; clear_value (hs : s1 = _); refine Keeps.cut (s0 := s0) (x := s1) ?_ (fun k1 => ?_); (on_goal 1 => subst hs); (on_goal 2 => clear hs)) | (extract_lets +onlyGivenNames v1; first | (have _ : Clocks := v1; subst v1) | (have _ : Fuses := v1; subst v1) | clear_value v1 | subst v1) | split | (unfold Keeps; dsimp only; with_reducible refine Keeps.of ?_))

theorem respond_keeps {s0 s : State} {h : Word} {status detail index : Nat} {data : List Word} (hk0 : Keeps s0 s) : Keeps s0 (respond h status detail index data s) := by
  unfold respond
  repeat' (first | with_reducible assumption | (extract_lets +onlyGivenNames s1; clear_value (hs : s1 = _); refine Keeps.cut (s0 := s0) (x := s1) ?_ (fun k1 => ?_); (on_goal 1 => subst hs); (on_goal 2 => clear hs)) | (extract_lets +onlyGivenNames v1; first | (have _ : Clocks := v1; subst v1) | (have _ : Fuses := v1; subst v1) | clear_value v1 | subst v1) | (unfold Keeps; dsimp only; with_reducible refine Keeps.of ?_))

theorem dropCmd_keeps {s0 s : State} {n : Nat} (hk0 : Keeps s0 s) : Keeps s0 (dropCmd n s) := by
  unfold dropCmd
  repeat' (first | with_reducible assumption | (extract_lets +onlyGivenNames s1; clear_value (hs : s1 = _); refine Keeps.cut (s0 := s0) (x := s1) ?_ (fun k1 => ?_); (on_goal 1 => subst hs); (on_goal 2 => clear hs)) | (extract_lets +onlyGivenNames v1; first | (have _ : Clocks := v1; subst v1) | (have _ : Fuses := v1; subst v1) | clear_value v1 | subst v1) | (unfold Keeps; dsimp only; with_reducible refine Keeps.of ?_))

theorem readMany_keeps {s0 s : State} {a n : Nat} (hk0 : Keeps s0 s) : Keeps2 s0 (readMany a n s) := by
  induction n generalizing a s with
  | zero => exact hk0
  | succ n ih => exact ih (busRead_keeps hk0)
theorem execCurCmdRead_keeps {s0 s : State} {dt : Nat} (hk0 : Keeps s0 s) : KeepsNext s0 (execCurCmdRead dt s) := by
  unfold execCurCmdRead
  repeat' (first | with_reducible assumption | with_reducible apply elapse_keeps | with_reducible apply readMany_keeps | (with_reducible refine Keeps2.snd (readMany_keeps ?_) (by assumption)) | (with_reducible refine Keeps.of2 (readMany_keeps ?_)) | with_reducible apply dropCmd_keeps | with_reducible apply curPins_keeps | with_reducible apply respond_keeps | with_reducible apply KeepsNext.next | (extract_lets +onlyGivenNames s1; clear_value (hs : s1 = _); refine Keeps.cut (s0 := s0) (x := s1) ?_ (fun k1 => ?_); (on_goal 1 => subst hs); (on_goal 2 => clear hs)) | (extract_lets +onlyGivenNames v1; first | (have _ : Clocks := v1; subst v1) | (have _ : Fuses := v1; subst v1) | clear_value v1 | subst v1) | split | (with_reducible refine Keeps2.snd ?_ (by assumption)) | with_reducible apply Keeps2.mk | (unfold Keeps; dsimp only; with_reducible refine Keeps.of ?_))

theorem writeMany_keeps {s0 s : State} {a i : Nat} {l : List Word} (hk0 : Keeps s0 s) : Keeps2 s0 (writeMany a i l s) := by
  induction l generalizing a i s with
  | nil => exact hk0
  | cons e r ih =>
    unfold writeMany
    have k := busWrite_keeps (m := .curator) (a := a) (w := e) hk0
    dsimp only
    split
    · exact ih k
    · exact k
theorem execCurCmdWrite_keeps {s0 s : State} {dt : Nat} (hk0 : Keeps s0 s) : KeepsNext s0 (execCurCmdWrite dt s) := by
  unfold execCurCmdWrite
  repeat' (first | with_reducible assumption | with_reducible apply elapse_keeps | with_reducible apply writeMany_keeps | (with_reducible refine Keeps2.snd (writeMany_keeps ?_) (by assumption)) | (with_reducible refine Keeps.of2 (writeMany_keeps ?_)) | with_reducible apply dropCmd_keeps | with_reducible apply curPins_keeps | with_reducible apply respond_keeps | with_reducible apply ignored_keeps | with_reducible apply drawn_keeps | with_reducible apply KeepsNext.next | (extract_lets +onlyGivenNames s1; clear_value (hs : s1 = _); refine Keeps.cut (s0 := s0) (x := s1) ?_ (fun k1 => ?_); (on_goal 1 => subst hs); (on_goal 2 => clear hs)) | (extract_lets +onlyGivenNames v1; first | (have _ : Clocks := v1; subst v1) | (have _ : Fuses := v1; subst v1) | clear_value v1 | subst v1) | split | (unfold Keeps; dsimp only; with_reducible refine Keeps.of ?_))

theorem execCurInvalidHeader_keeps {s0 s : State} {dt : Nat} (hk0 : Keeps s0 s) : KeepsNext s0 (execCurInvalidHeader dt s) := by
  unfold execCurInvalidHeader
  repeat' (first | with_reducible assumption | with_reducible apply elapse_keeps | with_reducible apply curPins_keeps | with_reducible apply respond_keeps | with_reducible apply KeepsNext.next | (extract_lets +onlyGivenNames s1; clear_value (hs : s1 = _); refine Keeps.cut (s0 := s0) (x := s1) ?_ (fun k1 => ?_); (on_goal 1 => subst hs); (on_goal 2 => clear hs)) | (extract_lets +onlyGivenNames v1; first | (have _ : Clocks := v1; subst v1) | (have _ : Fuses := v1; subst v1) | clear_value v1 | subst v1) | split | (unfold Keeps; dsimp only; with_reducible refine Keeps.of ?_))

theorem execCurFifoCfgWrite_keeps {s0 s : State} {dt : Nat} {m : Master} {w : Word} (hk0 : Keeps s0 s) : KeepsNext s0 (execCurFifoCfgWrite dt m w s) := by
  unfold execCurFifoCfgWrite
  repeat' (first | with_reducible assumption | with_reducible apply curPins_keeps | with_reducible apply busWrite_keeps | with_reducible apply elapse_keeps | with_reducible apply KeepsNext.next)


end Sys2Proof.Machine
end

