-- ==== Sys2Proof/Laws/KeepsDemod.lean ====
section
/-! SUPPORT. What the operations of Machine/Demod.lean keep. -/

set_option linter.unusedTactic false
set_option linter.unreachableTactic false
set_option linter.unusedVariables false

namespace Sys2Proof.Machine

theorem wakeBank_keeps {s0 s : State} {n : Nat} (hk0 : Keeps s0 s) : Keeps s0 (wakeBank n s) := by
  unfold wakeBank
  repeat' (first | with_reducible assumption | with_reducible apply setF_keeps | (extract_lets +onlyGivenNames s1; clear_value (hs : s1 = _); refine Keeps.cut (s0 := s0) (x := s1) ?_ (fun k1 => ?_); (on_goal 1 => subst hs); (on_goal 2 => clear hs)) | (extract_lets +onlyGivenNames v1; first | (have _ : Clocks := v1; subst v1) | (have _ : Fuses := v1; subst v1) | clear_value v1 | subst v1) | split | (unfold Keeps; dsimp only; with_reducible refine Keeps.of ?_))

theorem claim_keeps {s0 s : State} {n d channel mode : Nat} {power : Int} (hk0 : Keeps s0 s) : Keeps s0 (claim n d channel mode power s) := by
  unfold claim
  repeat' (first | with_reducible assumption | with_reducible apply syncPool_keeps | with_reducible apply setDemod_keeps | (extract_lets +onlyGivenNames s1; clear_value (hs : s1 = _); refine Keeps.cut (s0 := s0) (x := s1) ?_ (fun k1 => ?_); (on_goal 1 => subst hs); (on_goal 2 => clear hs)) | (extract_lets +onlyGivenNames v1; first | (have _ : Clocks := v1; subst v1) | (have _ : Fuses := v1; subst v1) | clear_value v1 | subst v1) | split | (unfold Keeps; dsimp only; with_reducible refine Keeps.of ?_))

theorem countedClaim_keeps {s0 s : State} {n d channel mode : Nat} {power : Int} (hk0 : Keeps s0 s) : Keeps s0 (countedClaim n d channel mode power s) := by
  unfold countedClaim
  repeat' (first | with_reducible assumption | with_reducible apply claim_keeps | with_reducible apply incF_keeps)

theorem fullPool_keeps {s0 s : State} {n channel mode : Nat} {power : Int} (hk0 : Keeps s0 s) : Keeps s0 (fullPool n channel mode power s) := by
  unfold fullPool
  repeat' (first | with_reducible assumption | with_reducible apply countedClaim_keeps | with_reducible apply failRx_keeps | with_reducible apply recordFail_keeps | with_reducible apply notify_keeps | with_reducible apply setSlotFlag_keeps | (extract_lets +onlyGivenNames s1; clear_value (hs : s1 = _); refine Keeps.cut (s0 := s0) (x := s1) ?_ (fun k1 => ?_); (on_goal 1 => subst hs); (on_goal 2 => clear hs)) | (extract_lets +onlyGivenNames v1; first | (have _ : Clocks := v1; subst v1) | (have _ : Fuses := v1; subst v1) | clear_value v1 | subst v1) | split | (unfold Keeps; dsimp only; with_reducible refine Keeps.of ?_))

theorem detect_keeps {s0 s : State} {n channel mode : Nat} {power : Int} (hk0 : Keeps s0 s) : Keeps s0 (detect n channel mode power s) := by
  unfold detect
  repeat' (first | with_reducible assumption | with_reducible apply recordFail_keeps | with_reducible apply incF_keeps | with_reducible apply setDemod_keeps | with_reducible apply countedClaim_keeps | with_reducible apply wakeBank_keeps | with_reducible apply fullPool_keeps | (extract_lets +onlyGivenNames s1; clear_value (hs : s1 = _); refine Keeps.cut (s0 := s0) (x := s1) ?_ (fun k1 => ?_); (on_goal 1 => subst hs); (on_goal 2 => clear hs)) | (extract_lets +onlyGivenNames v1; first | (have _ : Clocks := v1; subst v1) | (have _ : Fuses := v1; subst v1) | clear_value v1 | subst v1) | split | (unfold Keeps; dsimp only; with_reducible refine Keeps.of ?_))

theorem execDetection_keeps {s0 s : State} {dt : Nat} {n : Fin 16} {channel : Fin 128} {mode : Fin 8} {power fofs : Int} (hk0 : Keeps s0 s) : KeepsNext s0 (execDetection dt n channel mode power fofs s) := by
  unfold execDetection
  repeat' (first | with_reducible assumption | with_reducible apply elapse_keeps | with_reducible apply detect_keeps | with_reducible apply KeepsNext.next | (extract_lets +onlyGivenNames s1; clear_value (hs : s1 = _); refine Keeps.cut (s0 := s0) (x := s1) ?_ (fun k1 => ?_); (on_goal 1 => subst hs); (on_goal 2 => clear hs)) | (extract_lets +onlyGivenNames v1; first | (have _ : Clocks := v1; subst v1) | (have _ : Fuses := v1; subst v1) | clear_value v1 | subst v1) | split)

theorem execNoiseFloorRefresh_keeps {s0 s : State} {dt : Nat} {n : Fin 16} {energies : List (Fin 128 × List Int)} (hk0 : Keeps s0 s) : KeepsNext s0 (execNoiseFloorRefresh dt n energies s) := by
  unfold execNoiseFloorRefresh
  repeat' (first | with_reducible assumption | with_reducible apply elapse_keeps | with_reducible apply setTab_keeps | with_reducible apply updPort_keeps | with_reducible apply KeepsNext.next | with_reducible apply Keeps.foldl | (extract_lets +onlyGivenNames s1; clear_value (hs : s1 = _); refine Keeps.cut (s0 := s0) (x := s1) ?_ (fun k1 => ?_); (on_goal 1 => subst hs); (on_goal 2 => clear hs)) | (extract_lets +onlyGivenNames v1; first | (have _ : Clocks := v1; subst v1) | (have _ : Fuses := v1; subst v1) | clear_value v1 | subst v1) | split | intro _ _ _ | intro _ _ | (unfold Keeps; dsimp only; with_reducible refine Keeps.of ?_))

theorem execSfdFound_keeps {s0 s : State} {dt : Nat} {n : Fin 16} {d : Fin 64} {coded : Bool} {ts : Nat} (hk0 : Keeps s0 s) : KeepsNext s0 (execSfdFound dt n d coded ts s) := by
  unfold execSfdFound
  repeat' (first | with_reducible assumption | with_reducible apply elapse_keeps | with_reducible apply setDemod_keeps | with_reducible apply KeepsNext.next | (extract_lets +onlyGivenNames s1; clear_value (hs : s1 = _); refine Keeps.cut (s0 := s0) (x := s1) ?_ (fun k1 => ?_); (on_goal 1 => subst hs); (on_goal 2 => clear hs)) | (extract_lets +onlyGivenNames v1; first | (have _ : Clocks := v1; subst v1) | (have _ : Fuses := v1; subst v1) | clear_value v1 | subst v1) | split | (unfold Keeps; dsimp only; with_reducible refine Keeps.of ?_))

theorem execSfdWaitExpire_keeps {s0 s : State} {dt : Nat} {n : Fin 16} {d : Fin 64} (hk0 : Keeps s0 s) : KeepsNext s0 (execSfdWaitExpire dt n d s) := by
  unfold execSfdWaitExpire
  repeat' (first | with_reducible assumption | with_reducible apply elapse_keeps | with_reducible apply failRx_keeps | with_reducible apply KeepsNext.next | (extract_lets +onlyGivenNames s1; clear_value (hs : s1 = _); refine Keeps.cut (s0 := s0) (x := s1) ?_ (fun k1 => ?_); (on_goal 1 => subst hs); (on_goal 2 => clear hs)) | (extract_lets +onlyGivenNames v1; first | (have _ : Clocks := v1; subst v1) | (have _ : Fuses := v1; subst v1) | clear_value v1 | subst v1) | split | (unfold Keeps; dsimp only; with_reducible refine Keeps.of ?_))

theorem noteNoBuffer_keeps {s0 s : State} {n channel : Nat} (hk0 : Keeps s0 s) : Keeps s0 (noteNoBuffer n channel s) := by
  unfold noteNoBuffer
  repeat' (first | with_reducible assumption | with_reducible apply notify_keeps | with_reducible apply setSlotFlag_keeps | split)

theorem execPhrReceived_keeps {s0 s : State} {dt : Nat} {n : Fin 16} {d : Fin 64} {len : Nat} {modeSwitch fcs32 whitened : Bool} {lqi : BitVec 8} {fofs : Int} (hk0 : Keeps s0 s) : KeepsNext s0 (execPhrReceived dt n d len modeSwitch fcs32 whitened lqi fofs s) := by
  unfold execPhrReceived
  repeat' (first | with_reducible assumption | with_reducible apply elapse_keeps | with_reducible apply setDemod_keeps | with_reducible apply failRx_keeps | with_reducible apply poolAlloc_keeps | (with_reducible refine Keeps2.snd (poolAlloc_keeps ?_) (by assumption)) | (with_reducible refine Keeps.of2 (poolAlloc_keeps ?_)) | with_reducible apply noteNoBuffer_keeps | with_reducible apply KeepsNext.next | (extract_lets +onlyGivenNames s1; clear_value (hs : s1 = _); refine Keeps.cut (s0 := s0) (x := s1) ?_ (fun k1 => ?_); (on_goal 1 => subst hs); (on_goal 2 => clear hs)) | (extract_lets +onlyGivenNames v1; first | (have _ : Clocks := v1; subst v1) | (have _ : Fuses := v1; subst v1) | clear_value v1 | subst v1) | split | (unfold Keeps; dsimp only; with_reducible refine Keeps.of ?_))

theorem execRxPpduEnd_keeps {s0 s : State} {dt : Nat} {n : Fin 16} {d : Fin 64} {delta : Nat} {psdu : List Byte} {fcsOk : Bool} (hk0 : Keeps s0 s) : KeepsNext s0 (execRxPpduEnd dt n d delta psdu fcsOk s) := by
  unfold execRxPpduEnd
  repeat' (first | with_reducible assumption | with_reducible apply elapse_keeps | with_reducible apply setBytes_keeps | with_reducible apply failRx_keeps | with_reducible apply releaseDemod_keeps | with_reducible apply incF_keeps | with_reducible apply createJob_keeps | with_reducible apply reserveAck_keeps | with_reducible apply KeepsNext.next | (extract_lets +onlyGivenNames s1; clear_value (hs : s1 = _); refine Keeps.cut (s0 := s0) (x := s1) ?_ (fun k1 => ?_); (on_goal 1 => subst hs); (on_goal 2 => clear hs)) | (extract_lets +onlyGivenNames v1; first | (have _ : Clocks := v1; subst v1) | (have _ : Fuses := v1; subst v1) | clear_value v1 | subst v1) | split | (unfold Keeps; dsimp only; with_reducible refine Keeps.of ?_))


end Sys2Proof.Machine
end

