-- ==== Sys2Proof/Laws/KeepsExchange.lean ====
section
/-! SUPPORT. What the operations of Machine/Exchange.lean keep. -/

set_option linter.unusedTactic false
set_option linter.unreachableTactic false
set_option linter.unusedVariables false

namespace Sys2Proof.Machine

theorem execUplinkAcceptance_keeps {s0 s : State} {dt : Nat} {id : BitVec 12} (hk0 : Keeps s0 s) : KeepsNext s0 (execUplinkAcceptance dt id s) := by
  unfold execUplinkAcceptance
  repeat' (first | with_reducible assumption | with_reducible apply elapse_keeps | with_reducible apply freeJob_keeps | with_reducible apply completeJob_keeps | with_reducible apply acceptRecord_keeps | with_reducible apply KeepsNext.next | (extract_lets +onlyGivenNames s1; clear_value (hs : s1 = _); refine Keeps.cut (s0 := s0) (x := s1) ?_ (fun k1 => ?_); (on_goal 1 => subst hs); (on_goal 2 => clear hs)) | (extract_lets +onlyGivenNames v1; first | (have _ : Clocks := v1; subst v1) | (have _ : Fuses := v1; subst v1) | clear_value v1 | subst v1) | split | (unfold Keeps; dsimp only; with_reducible refine Keeps.of ?_))

theorem execUplinkVerifyDone_keeps {s0 s : State} {dt : Nat} {id : BitVec 12} (hk0 : Keeps s0 s) : KeepsNext s0 (execUplinkVerifyDone dt id s) := by
  unfold execUplinkVerifyDone
  repeat' (first | with_reducible assumption | with_reducible apply elapse_keeps | with_reducible apply freeJob_keeps | with_reducible apply acceptVerified_keeps | with_reducible apply accFail_keeps | with_reducible apply KeepsNext.next | (extract_lets +onlyGivenNames s1; clear_value (hs : s1 = _); refine Keeps.cut (s0 := s0) (x := s1) ?_ (fun k1 => ?_); (on_goal 1 => subst hs); (on_goal 2 => clear hs)) | (extract_lets +onlyGivenNames v1; first | (have _ : Clocks := v1; subst v1) | (have _ : Fuses := v1; subst v1) | clear_value v1 | subst v1) | split | (unfold Keeps; dsimp only; with_reducible refine Keeps.of ?_))

theorem unacked_keeps {s0 s : State} {i : Nat} {d : Dl} (hk0 : Keeps s0 s) : Keeps s0 (unacked i d s) := by
  unfold unacked
  repeat' (first | with_reducible assumption | with_reducible apply setDl_keeps | with_reducible apply dropResponse_keeps | with_reducible apply dlEnd_keeps | with_reducible apply incF_keeps | with_reducible apply drawn_keeps | (extract_lets +onlyGivenNames s1; clear_value (hs : s1 = _); refine Keeps.cut (s0 := s0) (x := s1) ?_ (fun k1 => ?_); (on_goal 1 => subst hs); (on_goal 2 => clear hs)) | (extract_lets +onlyGivenNames v1; first | (have _ : Clocks := v1; subst v1) | (have _ : Fuses := v1; subst v1) | clear_value v1 | subst v1) | split | (unfold Keeps; dsimp only; with_reducible refine Keeps.of ?_))

theorem execAckWaitExpire_keeps {s0 s : State} {dt : Nat} {dl : Nat} (hk0 : Keeps s0 s) : KeepsNext s0 (execAckWaitExpire dt dl s) := by
  unfold execAckWaitExpire
  repeat' (first | with_reducible assumption | with_reducible apply elapse_keeps | with_reducible apply unacked_keeps | with_reducible apply KeepsNext.next | (extract_lets +onlyGivenNames s1; clear_value (hs : s1 = _); refine Keeps.cut (s0 := s0) (x := s1) ?_ (fun k1 => ?_); (on_goal 1 => subst hs); (on_goal 2 => clear hs)) | (extract_lets +onlyGivenNames v1; first | (have _ : Clocks := v1; subst v1) | (have _ : Fuses := v1; subst v1) | clear_value v1 | subst v1) | split | (unfold Keeps; dsimp only; with_reducible refine Keeps.of ?_))

theorem execFloodLookup_keeps {s0 s : State} {dt : Nat} (hk0 : Keeps s0 s) : KeepsNext s0 (execFloodLookup dt s) := by
  unfold execFloodLookup
  repeat' (first | with_reducible assumption | with_reducible apply elapse_keeps | with_reducible apply floodLookup_keeps | with_reducible apply updXch_keeps | with_reducible apply KeepsNext.next | (extract_lets +onlyGivenNames s1; clear_value (hs : s1 = _); refine Keeps.cut (s0 := s0) (x := s1) ?_ (fun k1 => ?_); (on_goal 1 => subst hs); (on_goal 2 => clear hs)) | (extract_lets +onlyGivenNames v1; first | (have _ : Clocks := v1; subst v1) | (have _ : Fuses := v1; subst v1) | clear_value v1 | subst v1) | split | (unfold Keeps; dsimp only; with_reducible refine Keeps.of ?_))

theorem execAccessionExpiry_keeps {s0 s : State} {dt : Nat} (hk0 : Keeps s0 s) : KeepsNext s0 (execAccessionExpiry dt s) := by
  unfold execAccessionExpiry
  repeat' (first | with_reducible assumption | with_reducible apply elapse_keeps | with_reducible apply syncAccession_keeps | with_reducible apply updXch_keeps | with_reducible apply KeepsNext.next | (extract_lets +onlyGivenNames s1; clear_value (hs : s1 = _); refine Keeps.cut (s0 := s0) (x := s1) ?_ (fun k1 => ?_); (on_goal 1 => subst hs); (on_goal 2 => clear hs)) | (extract_lets +onlyGivenNames v1; first | (have _ : Clocks := v1; subst v1) | (have _ : Fuses := v1; subst v1) | clear_value v1 | subst v1) | split | (unfold Keeps; dsimp only; with_reducible refine Keeps.of ?_))

theorem execRcptTimerExpire_keeps {s0 s : State} {dt : Nat} {i : Fin 1024} (hk0 : Keeps s0 s) : KeepsNext s0 (execRcptTimerExpire dt i s) := by
  unfold execRcptTimerExpire
  repeat' (first | with_reducible assumption | with_reducible apply elapse_keeps | with_reducible apply updXch_keeps | with_reducible apply safeOrReport_keeps | with_reducible apply notify_keeps | with_reducible apply incF_keeps | with_reducible apply KeepsNext.next | (extract_lets +onlyGivenNames s1; clear_value (hs : s1 = _); refine Keeps.cut (s0 := s0) (x := s1) ?_ (fun k1 => ?_); (on_goal 1 => subst hs); (on_goal 2 => clear hs)) | (extract_lets +onlyGivenNames v1; first | (have _ : Clocks := v1; subst v1) | (have _ : Fuses := v1; subst v1) | clear_value v1 | subst v1) | split | (unfold Keeps; dsimp only; with_reducible refine Keeps.of ?_))


end Sys2Proof.Machine
end

