-- ==== Sys2Proof/Laws/KeepsReads.lean ====
section
/-! SUPPORT. What the operations of Machine/Reads.lean keep. -/

set_option linter.unusedTactic false
set_option linter.unreachableTactic false
set_option linter.unusedVariables false

namespace Sys2Proof.Machine

theorem readOut_keeps {s0 s : State} {m : Master} {a : Nat} (hk0 : Keeps s0 s) : Keeps s0 (readOut m a s) := by
  unfold readOut
  repeat' (first | with_reducible assumption | with_reducible apply busRead_keeps | (with_reducible refine Keeps2.snd (busRead_keeps ?_) (by assumption)) | (with_reducible refine Keeps.of2 (busRead_keeps ?_)) | with_reducible apply emit_keeps | (extract_lets +onlyGivenNames s1; clear_value (hs : s1 = _); refine Keeps.cut (s0 := s0) (x := s1) ?_ (fun k1 => ?_); (on_goal 1 => subst hs); (on_goal 2 => clear hs)) | (extract_lets +onlyGivenNames v1; first | (have _ : Clocks := v1; subst v1) | (have _ : Fuses := v1; subst v1) | clear_value v1 | subst v1) | split | (with_reducible refine Keeps2.snd ?_ (by assumption)) | with_reducible apply Keeps2.mk)

theorem execTopNringRdWrite_keeps {s0 s : State} {dt : Nat} {m : Master} {w : Word} (hk0 : Keeps s0 s) : KeepsNext s0 (execTopNringRdWrite dt m w s) := by
  unfold execTopNringRdWrite
  repeat' (first | with_reducible assumption | with_reducible apply busWrite_keeps | with_reducible apply elapse_keeps | with_reducible apply KeepsNext.next)

theorem execWideValueCaptureRead_keeps {s0 s : State} {dt : Nat} {m : Master} {a : BitVec 24} {narrow bad : Bool} (hk0 : Keeps s0 s) : KeepsNext s0 (execWideValueCaptureRead dt m a narrow bad s) := by
  unfold execWideValueCaptureRead
  repeat' (first | with_reducible assumption | with_reducible apply elapse_keeps | with_reducible apply accessErr_keeps | with_reducible apply emit_keeps | with_reducible apply readOut_keeps | with_reducible apply parityMet_keeps | with_reducible apply KeepsNext.next | (extract_lets +onlyGivenNames s1; clear_value (hs : s1 = _); refine Keeps.cut (s0 := s0) (x := s1) ?_ (fun k1 => ?_); (on_goal 1 => subst hs); (on_goal 2 => clear hs)) | (extract_lets +onlyGivenNames v1; first | (have _ : Clocks := v1; subst v1) | (have _ : Fuses := v1; subst v1) | clear_value v1 | subst v1) | split)

theorem execEntryCaptureRead_keeps {s0 s : State} {dt : Nat} {m : Master} {w : Fin 8} {ofs : BitVec 18} (hk0 : Keeps s0 s) : KeepsNext s0 (execEntryCaptureRead dt m w ofs s) := by
  unfold execEntryCaptureRead
  repeat' (first | with_reducible assumption | with_reducible apply readOut_keeps | with_reducible apply elapse_keeps | with_reducible apply KeepsNext.next)

theorem execTopNoticeLostRead_keeps {s0 s : State} {dt : Nat} {m : Master} (hk0 : Keeps s0 s) : KeepsNext s0 (execTopNoticeLostRead dt m s) := by
  unfold execTopNoticeLostRead
  repeat' (first | with_reducible assumption | with_reducible apply readOut_keeps | with_reducible apply elapse_keeps | with_reducible apply KeepsNext.next)

theorem execPwrOccRead_keeps {s0 s : State} {dt : Nat} {m : Master} (hk0 : Keeps s0 s) : KeepsNext s0 (execPwrOccRead dt m s) := by
  unfold execPwrOccRead
  repeat' (first | with_reducible assumption | with_reducible apply readOut_keeps | with_reducible apply elapse_keeps | with_reducible apply KeepsNext.next)

theorem execPoolStatusRead_keeps {s0 s : State} {dt : Nat} {m : Master} {n : Fin 16} (hk0 : Keeps s0 s) : KeepsNext s0 (execPoolStatusRead dt m n s) := by
  unfold execPoolStatusRead
  repeat' (first | with_reducible assumption | with_reducible apply readOut_keeps | with_reducible apply elapse_keeps | with_reducible apply KeepsNext.next)

theorem execNrgStatusRead_keeps {s0 s : State} {dt : Nat} {m : Master} (hk0 : Keeps s0 s) : KeepsNext s0 (execNrgStatusRead dt m s) := by
  unfold execNrgStatusRead
  repeat' (first | with_reducible assumption | with_reducible apply readOut_keeps | with_reducible apply elapse_keeps | with_reducible apply KeepsNext.next)

theorem execShpSampleLostRead_keeps {s0 s : State} {dt : Nat} {m : Master} (hk0 : Keeps s0 s) : KeepsNext s0 (execShpSampleLostRead dt m s) := by
  unfold execShpSampleLostRead
  repeat' (first | with_reducible assumption | with_reducible apply readOut_keeps | with_reducible apply elapse_keeps | with_reducible apply KeepsNext.next)

theorem execTrcLostRead_keeps {s0 s : State} {dt : Nat} {m : Master} {port : Bool} (hk0 : Keeps s0 s) : KeepsNext s0 (execTrcLostRead dt m port s) := by
  unfold execTrcLostRead
  repeat' (first | with_reducible assumption | with_reducible apply readOut_keeps | with_reducible apply elapse_keeps | with_reducible apply KeepsNext.next | split)

theorem execBmpPoolMinRead_keeps {s0 s : State} {dt : Nat} {m : Master} (hk0 : Keeps s0 s) : KeepsNext s0 (execBmpPoolMinRead dt m s) := by
  unfold execBmpPoolMinRead
  repeat' (first | with_reducible assumption | with_reducible apply readOut_keeps | with_reducible apply elapse_keeps | with_reducible apply KeepsNext.next)

theorem execTsuLostRead_keeps {s0 s : State} {dt : Nat} {m : Master} (hk0 : Keeps s0 s) : KeepsNext s0 (execTsuLostRead dt m s) := by
  unfold execTsuLostRead
  repeat' (first | with_reducible assumption | with_reducible apply readOut_keeps | with_reducible apply elapse_keeps | with_reducible apply KeepsNext.next)


end Sys2Proof.Machine
end

