-- ==== Sys2Proof/Laws/State.lean ====
section
/-! SUPPORT. What each field of the state is after each update of the state. -/

namespace Sys2Proof.Machine

variable (s : State)

@[simp] theorem State.setReg_tabs (a : Nat) (w : Word) : (s.setReg a w).tabs = s.tabs := rfl
@[simp] theorem State.setReg_dram (a : Nat) (w : Word) : (s.setReg a w).dram = s.dram := rfl
@[simp] theorem State.setReg_clk (a : Nat) (w : Word) : (s.setReg a w).clk = s.clk := rfl
@[simp] theorem State.setReg_pins (a : Nat) (w : Word) : (s.setReg a w).pins = s.pins := rfl
@[simp] theorem State.setReg_fuses (a : Nat) (w : Word) : (s.setReg a w).fuses = s.fuses := rfl
@[simp] theorem State.setReg_boot (a : Nat) (w : Word) : (s.setReg a w).boot = s.boot := rfl
@[simp] theorem State.setReg_power (a : Nat) (w : Word) : (s.setReg a w).power = s.power := rfl
@[simp] theorem State.setReg_ctl (a : Nat) (w : Word) : (s.setReg a w).ctl = s.ctl := rfl
@[simp] theorem State.setReg_cur (a : Nat) (w : Word) : (s.setReg a w).cur = s.cur := rfl
@[simp] theorem State.setReg_saf (a : Nat) (w : Word) : (s.setReg a w).saf = s.saf := rfl
@[simp] theorem State.setReg_ports (a : Nat) (w : Word) : (s.setReg a w).ports = s.ports := rfl
@[simp] theorem State.setReg_radio (a : Nat) (w : Word) : (s.setReg a w).radio = s.radio := rfl
@[simp] theorem State.setReg_demods (a : Nat) (w : Word) : (s.setReg a w).demods = s.demods := rfl
@[simp] theorem State.setReg_rxFlags (a : Nat) (w : Word) : (s.setReg a w).rxFlags = s.rxFlags := rfl
@[simp] theorem State.setReg_time (a : Nat) (w : Word) : (s.setReg a w).time = s.time := rfl
@[simp] theorem State.setReg_frz (a : Nat) (w : Word) : (s.setReg a w).frz = s.frz := rfl
@[simp] theorem State.setReg_tamp (a : Nat) (w : Word) : (s.setReg a w).tamp = s.tamp := rfl
@[simp] theorem State.setReg_mem (a : Nat) (w : Word) : (s.setReg a w).mem = s.mem := rfl
@[simp] theorem State.setReg_fab (a : Nat) (w : Word) : (s.setReg a w).fab = s.fab := rfl
@[simp] theorem State.setReg_key (a : Nat) (w : Word) : (s.setReg a w).key = s.key := rfl
@[simp] theorem State.setReg_cph (a : Nat) (w : Word) : (s.setReg a w).cph = s.cph := rfl
@[simp] theorem State.setReg_lcs (a : Nat) (w : Word) : (s.setReg a w).lcs = s.lcs := rfl
@[simp] theorem State.setReg_cat (a : Nat) (w : Word) : (s.setReg a w).cat = s.cat := rfl
@[simp] theorem State.setReg_xch (a : Nat) (w : Word) : (s.setReg a w).xch = s.xch := rfl
@[simp] theorem State.setReg_shp (a : Nat) (w : Word) : (s.setReg a w).shp = s.shp := rfl
@[simp] theorem State.setReg_slt (a : Nat) (w : Word) : (s.setReg a w).slt = s.slt := rfl
@[simp] theorem State.setReg_bhl (a : Nat) (w : Word) : (s.setReg a w).bhl = s.bhl := rfl
@[simp] theorem State.setReg_pair (a : Nat) (w : Word) : (s.setReg a w).pair = s.pair := rfl
@[simp] theorem State.setReg_cap0 (a : Nat) (w : Word) : (s.setReg a w).cap0 = s.cap0 := rfl
@[simp] theorem State.setReg_cap1 (a : Nat) (w : Word) : (s.setReg a w).cap1 = s.cap1 := rfl
@[simp] theorem State.setReg_out (a : Nat) (w : Word) : (s.setReg a w).out = s.out := rfl
@[simp] theorem State.setReg_draws (a : Nat) (w : Word) : (s.setReg a w).draws = s.draws := rfl
@[simp] theorem State.setReg_lossPending (a : Nat) (w : Word) : (s.setReg a w).lossPending = s.lossPending := rfl
@[simp] theorem State.setReg_detail (a : Nat) (w : Word) : (s.setReg a w).detail = s.detail := rfl
@[simp] theorem State.setReg_pending (a : Nat) (w : Word) : (s.setReg a w).pending = s.pending := rfl

@[simp] theorem State.setF_tabs (f : Field) (v : Nat) : (s.setF f v).tabs = s.tabs := rfl
@[simp] theorem State.setF_dram (f : Field) (v : Nat) : (s.setF f v).dram = s.dram := rfl
@[simp] theorem State.setF_clk (f : Field) (v : Nat) : (s.setF f v).clk = s.clk := rfl
@[simp] theorem State.setF_pins (f : Field) (v : Nat) : (s.setF f v).pins = s.pins := rfl
@[simp] theorem State.setF_fuses (f : Field) (v : Nat) : (s.setF f v).fuses = s.fuses := rfl
@[simp] theorem State.setF_boot (f : Field) (v : Nat) : (s.setF f v).boot = s.boot := rfl
@[simp] theorem State.setF_power (f : Field) (v : Nat) : (s.setF f v).power = s.power := rfl
@[simp] theorem State.setF_ctl (f : Field) (v : Nat) : (s.setF f v).ctl = s.ctl := rfl
@[simp] theorem State.setF_cur (f : Field) (v : Nat) : (s.setF f v).cur = s.cur := rfl
@[simp] theorem State.setF_saf (f : Field) (v : Nat) : (s.setF f v).saf = s.saf := rfl
@[simp] theorem State.setF_ports (f : Field) (v : Nat) : (s.setF f v).ports = s.ports := rfl
@[simp] theorem State.setF_radio (f : Field) (v : Nat) : (s.setF f v).radio = s.radio := rfl
@[simp] theorem State.setF_demods (f : Field) (v : Nat) : (s.setF f v).demods = s.demods := rfl
@[simp] theorem State.setF_rxFlags (f : Field) (v : Nat) : (s.setF f v).rxFlags = s.rxFlags := rfl
@[simp] theorem State.setF_time (f : Field) (v : Nat) : (s.setF f v).time = s.time := rfl
@[simp] theorem State.setF_frz (f : Field) (v : Nat) : (s.setF f v).frz = s.frz := rfl
@[simp] theorem State.setF_tamp (f : Field) (v : Nat) : (s.setF f v).tamp = s.tamp := rfl
@[simp] theorem State.setF_mem (f : Field) (v : Nat) : (s.setF f v).mem = s.mem := rfl
@[simp] theorem State.setF_fab (f : Field) (v : Nat) : (s.setF f v).fab = s.fab := rfl
@[simp] theorem State.setF_key (f : Field) (v : Nat) : (s.setF f v).key = s.key := rfl
@[simp] theorem State.setF_cph (f : Field) (v : Nat) : (s.setF f v).cph = s.cph := rfl
@[simp] theorem State.setF_lcs (f : Field) (v : Nat) : (s.setF f v).lcs = s.lcs := rfl
@[simp] theorem State.setF_cat (f : Field) (v : Nat) : (s.setF f v).cat = s.cat := rfl
@[simp] theorem State.setF_xch (f : Field) (v : Nat) : (s.setF f v).xch = s.xch := rfl
@[simp] theorem State.setF_shp (f : Field) (v : Nat) : (s.setF f v).shp = s.shp := rfl
@[simp] theorem State.setF_slt (f : Field) (v : Nat) : (s.setF f v).slt = s.slt := rfl
@[simp] theorem State.setF_bhl (f : Field) (v : Nat) : (s.setF f v).bhl = s.bhl := rfl
@[simp] theorem State.setF_pair (f : Field) (v : Nat) : (s.setF f v).pair = s.pair := rfl
@[simp] theorem State.setF_cap0 (f : Field) (v : Nat) : (s.setF f v).cap0 = s.cap0 := rfl
@[simp] theorem State.setF_cap1 (f : Field) (v : Nat) : (s.setF f v).cap1 = s.cap1 := rfl
@[simp] theorem State.setF_out (f : Field) (v : Nat) : (s.setF f v).out = s.out := rfl
@[simp] theorem State.setF_draws (f : Field) (v : Nat) : (s.setF f v).draws = s.draws := rfl
@[simp] theorem State.setF_lossPending (f : Field) (v : Nat) : (s.setF f v).lossPending = s.lossPending := rfl
@[simp] theorem State.setF_detail (f : Field) (v : Nat) : (s.setF f v).detail = s.detail := rfl
@[simp] theorem State.setF_pending (f : Field) (v : Nat) : (s.setF f v).pending = s.pending := rfl

@[simp] theorem State.incF_tabs (f : Field) : (s.incF f).tabs = s.tabs := rfl
@[simp] theorem State.incF_dram (f : Field) : (s.incF f).dram = s.dram := rfl
@[simp] theorem State.incF_clk (f : Field) : (s.incF f).clk = s.clk := rfl
@[simp] theorem State.incF_pins (f : Field) : (s.incF f).pins = s.pins := rfl
@[simp] theorem State.incF_fuses (f : Field) : (s.incF f).fuses = s.fuses := rfl
@[simp] theorem State.incF_boot (f : Field) : (s.incF f).boot = s.boot := rfl
@[simp] theorem State.incF_power (f : Field) : (s.incF f).power = s.power := rfl
@[simp] theorem State.incF_ctl (f : Field) : (s.incF f).ctl = s.ctl := rfl
@[simp] theorem State.incF_cur (f : Field) : (s.incF f).cur = s.cur := rfl
@[simp] theorem State.incF_saf (f : Field) : (s.incF f).saf = s.saf := rfl
@[simp] theorem State.incF_ports (f : Field) : (s.incF f).ports = s.ports := rfl
@[simp] theorem State.incF_radio (f : Field) : (s.incF f).radio = s.radio := rfl
@[simp] theorem State.incF_demods (f : Field) : (s.incF f).demods = s.demods := rfl
@[simp] theorem State.incF_rxFlags (f : Field) : (s.incF f).rxFlags = s.rxFlags := rfl
@[simp] theorem State.incF_time (f : Field) : (s.incF f).time = s.time := rfl
@[simp] theorem State.incF_frz (f : Field) : (s.incF f).frz = s.frz := rfl
@[simp] theorem State.incF_tamp (f : Field) : (s.incF f).tamp = s.tamp := rfl
@[simp] theorem State.incF_mem (f : Field) : (s.incF f).mem = s.mem := rfl
@[simp] theorem State.incF_fab (f : Field) : (s.incF f).fab = s.fab := rfl
@[simp] theorem State.incF_key (f : Field) : (s.incF f).key = s.key := rfl
@[simp] theorem State.incF_cph (f : Field) : (s.incF f).cph = s.cph := rfl
@[simp] theorem State.incF_lcs (f : Field) : (s.incF f).lcs = s.lcs := rfl
@[simp] theorem State.incF_cat (f : Field) : (s.incF f).cat = s.cat := rfl
@[simp] theorem State.incF_xch (f : Field) : (s.incF f).xch = s.xch := rfl
@[simp] theorem State.incF_shp (f : Field) : (s.incF f).shp = s.shp := rfl
@[simp] theorem State.incF_slt (f : Field) : (s.incF f).slt = s.slt := rfl
@[simp] theorem State.incF_bhl (f : Field) : (s.incF f).bhl = s.bhl := rfl
@[simp] theorem State.incF_pair (f : Field) : (s.incF f).pair = s.pair := rfl
@[simp] theorem State.incF_cap0 (f : Field) : (s.incF f).cap0 = s.cap0 := rfl
@[simp] theorem State.incF_cap1 (f : Field) : (s.incF f).cap1 = s.cap1 := rfl
@[simp] theorem State.incF_out (f : Field) : (s.incF f).out = s.out := rfl
@[simp] theorem State.incF_draws (f : Field) : (s.incF f).draws = s.draws := rfl
@[simp] theorem State.incF_lossPending (f : Field) : (s.incF f).lossPending = s.lossPending := rfl
@[simp] theorem State.incF_detail (f : Field) : (s.incF f).detail = s.detail := rfl
@[simp] theorem State.incF_pending (f : Field) : (s.incF f).pending = s.pending := rfl

@[simp] theorem State.addF_tabs (f : Field) (v : Nat) : (s.addF f v).tabs = s.tabs := rfl
@[simp] theorem State.addF_dram (f : Field) (v : Nat) : (s.addF f v).dram = s.dram := rfl
@[simp] theorem State.addF_clk (f : Field) (v : Nat) : (s.addF f v).clk = s.clk := rfl
@[simp] theorem State.addF_pins (f : Field) (v : Nat) : (s.addF f v).pins = s.pins := rfl
@[simp] theorem State.addF_fuses (f : Field) (v : Nat) : (s.addF f v).fuses = s.fuses := rfl
@[simp] theorem State.addF_boot (f : Field) (v : Nat) : (s.addF f v).boot = s.boot := rfl
@[simp] theorem State.addF_power (f : Field) (v : Nat) : (s.addF f v).power = s.power := rfl
@[simp] theorem State.addF_ctl (f : Field) (v : Nat) : (s.addF f v).ctl = s.ctl := rfl
@[simp] theorem State.addF_cur (f : Field) (v : Nat) : (s.addF f v).cur = s.cur := rfl
@[simp] theorem State.addF_saf (f : Field) (v : Nat) : (s.addF f v).saf = s.saf := rfl
@[simp] theorem State.addF_ports (f : Field) (v : Nat) : (s.addF f v).ports = s.ports := rfl
@[simp] theorem State.addF_radio (f : Field) (v : Nat) : (s.addF f v).radio = s.radio := rfl
@[simp] theorem State.addF_demods (f : Field) (v : Nat) : (s.addF f v).demods = s.demods := rfl
@[simp] theorem State.addF_rxFlags (f : Field) (v : Nat) : (s.addF f v).rxFlags = s.rxFlags := rfl
@[simp] theorem State.addF_time (f : Field) (v : Nat) : (s.addF f v).time = s.time := rfl
@[simp] theorem State.addF_frz (f : Field) (v : Nat) : (s.addF f v).frz = s.frz := rfl
@[simp] theorem State.addF_tamp (f : Field) (v : Nat) : (s.addF f v).tamp = s.tamp := rfl
@[simp] theorem State.addF_mem (f : Field) (v : Nat) : (s.addF f v).mem = s.mem := rfl
@[simp] theorem State.addF_fab (f : Field) (v : Nat) : (s.addF f v).fab = s.fab := rfl
@[simp] theorem State.addF_key (f : Field) (v : Nat) : (s.addF f v).key = s.key := rfl
@[simp] theorem State.addF_cph (f : Field) (v : Nat) : (s.addF f v).cph = s.cph := rfl
@[simp] theorem State.addF_lcs (f : Field) (v : Nat) : (s.addF f v).lcs = s.lcs := rfl
@[simp] theorem State.addF_cat (f : Field) (v : Nat) : (s.addF f v).cat = s.cat := rfl
@[simp] theorem State.addF_xch (f : Field) (v : Nat) : (s.addF f v).xch = s.xch := rfl
@[simp] theorem State.addF_shp (f : Field) (v : Nat) : (s.addF f v).shp = s.shp := rfl
@[simp] theorem State.addF_slt (f : Field) (v : Nat) : (s.addF f v).slt = s.slt := rfl
@[simp] theorem State.addF_bhl (f : Field) (v : Nat) : (s.addF f v).bhl = s.bhl := rfl
@[simp] theorem State.addF_pair (f : Field) (v : Nat) : (s.addF f v).pair = s.pair := rfl
@[simp] theorem State.addF_cap0 (f : Field) (v : Nat) : (s.addF f v).cap0 = s.cap0 := rfl
@[simp] theorem State.addF_cap1 (f : Field) (v : Nat) : (s.addF f v).cap1 = s.cap1 := rfl
@[simp] theorem State.addF_out (f : Field) (v : Nat) : (s.addF f v).out = s.out := rfl
@[simp] theorem State.addF_draws (f : Field) (v : Nat) : (s.addF f v).draws = s.draws := rfl
@[simp] theorem State.addF_lossPending (f : Field) (v : Nat) : (s.addF f v).lossPending = s.lossPending := rfl
@[simp] theorem State.addF_detail (f : Field) (v : Nat) : (s.addF f v).detail = s.detail := rfl
@[simp] theorem State.addF_pending (f : Field) (v : Nat) : (s.addF f v).pending = s.pending := rfl

@[simp] theorem State.satF_tabs (f : Field) (v : Nat) : (s.satF f v).tabs = s.tabs := rfl
@[simp] theorem State.satF_dram (f : Field) (v : Nat) : (s.satF f v).dram = s.dram := rfl
@[simp] theorem State.satF_clk (f : Field) (v : Nat) : (s.satF f v).clk = s.clk := rfl
@[simp] theorem State.satF_pins (f : Field) (v : Nat) : (s.satF f v).pins = s.pins := rfl
@[simp] theorem State.satF_fuses (f : Field) (v : Nat) : (s.satF f v).fuses = s.fuses := rfl
@[simp] theorem State.satF_boot (f : Field) (v : Nat) : (s.satF f v).boot = s.boot := rfl
@[simp] theorem State.satF_power (f : Field) (v : Nat) : (s.satF f v).power = s.power := rfl
@[simp] theorem State.satF_ctl (f : Field) (v : Nat) : (s.satF f v).ctl = s.ctl := rfl
@[simp] theorem State.satF_cur (f : Field) (v : Nat) : (s.satF f v).cur = s.cur := rfl
@[simp] theorem State.satF_saf (f : Field) (v : Nat) : (s.satF f v).saf = s.saf := rfl
@[simp] theorem State.satF_ports (f : Field) (v : Nat) : (s.satF f v).ports = s.ports := rfl
@[simp] theorem State.satF_radio (f : Field) (v : Nat) : (s.satF f v).radio = s.radio := rfl
@[simp] theorem State.satF_demods (f : Field) (v : Nat) : (s.satF f v).demods = s.demods := rfl
@[simp] theorem State.satF_rxFlags (f : Field) (v : Nat) : (s.satF f v).rxFlags = s.rxFlags := rfl
@[simp] theorem State.satF_time (f : Field) (v : Nat) : (s.satF f v).time = s.time := rfl
@[simp] theorem State.satF_frz (f : Field) (v : Nat) : (s.satF f v).frz = s.frz := rfl
@[simp] theorem State.satF_tamp (f : Field) (v : Nat) : (s.satF f v).tamp = s.tamp := rfl
@[simp] theorem State.satF_mem (f : Field) (v : Nat) : (s.satF f v).mem = s.mem := rfl
@[simp] theorem State.satF_fab (f : Field) (v : Nat) : (s.satF f v).fab = s.fab := rfl
@[simp] theorem State.satF_key (f : Field) (v : Nat) : (s.satF f v).key = s.key := rfl
@[simp] theorem State.satF_cph (f : Field) (v : Nat) : (s.satF f v).cph = s.cph := rfl
@[simp] theorem State.satF_lcs (f : Field) (v : Nat) : (s.satF f v).lcs = s.lcs := rfl
@[simp] theorem State.satF_cat (f : Field) (v : Nat) : (s.satF f v).cat = s.cat := rfl
@[simp] theorem State.satF_xch (f : Field) (v : Nat) : (s.satF f v).xch = s.xch := rfl
@[simp] theorem State.satF_shp (f : Field) (v : Nat) : (s.satF f v).shp = s.shp := rfl
@[simp] theorem State.satF_slt (f : Field) (v : Nat) : (s.satF f v).slt = s.slt := rfl
@[simp] theorem State.satF_bhl (f : Field) (v : Nat) : (s.satF f v).bhl = s.bhl := rfl
@[simp] theorem State.satF_pair (f : Field) (v : Nat) : (s.satF f v).pair = s.pair := rfl
@[simp] theorem State.satF_cap0 (f : Field) (v : Nat) : (s.satF f v).cap0 = s.cap0 := rfl
@[simp] theorem State.satF_cap1 (f : Field) (v : Nat) : (s.satF f v).cap1 = s.cap1 := rfl
@[simp] theorem State.satF_out (f : Field) (v : Nat) : (s.satF f v).out = s.out := rfl
@[simp] theorem State.satF_draws (f : Field) (v : Nat) : (s.satF f v).draws = s.draws := rfl
@[simp] theorem State.satF_lossPending (f : Field) (v : Nat) : (s.satF f v).lossPending = s.lossPending := rfl
@[simp] theorem State.satF_detail (f : Field) (v : Nat) : (s.satF f v).detail = s.detail := rfl
@[simp] theorem State.satF_pending (f : Field) (v : Nat) : (s.satF f v).pending = s.pending := rfl

@[simp] theorem State.decF_tabs (f : Field) : (s.decF f).tabs = s.tabs := rfl
@[simp] theorem State.decF_dram (f : Field) : (s.decF f).dram = s.dram := rfl
@[simp] theorem State.decF_clk (f : Field) : (s.decF f).clk = s.clk := rfl
@[simp] theorem State.decF_pins (f : Field) : (s.decF f).pins = s.pins := rfl
@[simp] theorem State.decF_fuses (f : Field) : (s.decF f).fuses = s.fuses := rfl
@[simp] theorem State.decF_boot (f : Field) : (s.decF f).boot = s.boot := rfl
@[simp] theorem State.decF_power (f : Field) : (s.decF f).power = s.power := rfl
@[simp] theorem State.decF_ctl (f : Field) : (s.decF f).ctl = s.ctl := rfl
@[simp] theorem State.decF_cur (f : Field) : (s.decF f).cur = s.cur := rfl
@[simp] theorem State.decF_saf (f : Field) : (s.decF f).saf = s.saf := rfl
@[simp] theorem State.decF_ports (f : Field) : (s.decF f).ports = s.ports := rfl
@[simp] theorem State.decF_radio (f : Field) : (s.decF f).radio = s.radio := rfl
@[simp] theorem State.decF_demods (f : Field) : (s.decF f).demods = s.demods := rfl
@[simp] theorem State.decF_rxFlags (f : Field) : (s.decF f).rxFlags = s.rxFlags := rfl
@[simp] theorem State.decF_time (f : Field) : (s.decF f).time = s.time := rfl
@[simp] theorem State.decF_frz (f : Field) : (s.decF f).frz = s.frz := rfl
@[simp] theorem State.decF_tamp (f : Field) : (s.decF f).tamp = s.tamp := rfl
@[simp] theorem State.decF_mem (f : Field) : (s.decF f).mem = s.mem := rfl
@[simp] theorem State.decF_fab (f : Field) : (s.decF f).fab = s.fab := rfl
@[simp] theorem State.decF_key (f : Field) : (s.decF f).key = s.key := rfl
@[simp] theorem State.decF_cph (f : Field) : (s.decF f).cph = s.cph := rfl
@[simp] theorem State.decF_lcs (f : Field) : (s.decF f).lcs = s.lcs := rfl
@[simp] theorem State.decF_cat (f : Field) : (s.decF f).cat = s.cat := rfl
@[simp] theorem State.decF_xch (f : Field) : (s.decF f).xch = s.xch := rfl
@[simp] theorem State.decF_shp (f : Field) : (s.decF f).shp = s.shp := rfl
@[simp] theorem State.decF_slt (f : Field) : (s.decF f).slt = s.slt := rfl
@[simp] theorem State.decF_bhl (f : Field) : (s.decF f).bhl = s.bhl := rfl
@[simp] theorem State.decF_pair (f : Field) : (s.decF f).pair = s.pair := rfl
@[simp] theorem State.decF_cap0 (f : Field) : (s.decF f).cap0 = s.cap0 := rfl
@[simp] theorem State.decF_cap1 (f : Field) : (s.decF f).cap1 = s.cap1 := rfl
@[simp] theorem State.decF_out (f : Field) : (s.decF f).out = s.out := rfl
@[simp] theorem State.decF_draws (f : Field) : (s.decF f).draws = s.draws := rfl
@[simp] theorem State.decF_lossPending (f : Field) : (s.decF f).lossPending = s.lossPending := rfl
@[simp] theorem State.decF_detail (f : Field) : (s.decF f).detail = s.detail := rfl
@[simp] theorem State.decF_pending (f : Field) : (s.decF f).pending = s.pending := rfl

@[simp] theorem State.set64_tabs (l h : Field) (v : Nat) : (s.set64 l h v).tabs = s.tabs := by unfold State.set64; simp only [State.setF_tabs]
@[simp] theorem State.set64_dram (l h : Field) (v : Nat) : (s.set64 l h v).dram = s.dram := by unfold State.set64; simp only [State.setF_dram]
@[simp] theorem State.set64_clk (l h : Field) (v : Nat) : (s.set64 l h v).clk = s.clk := by unfold State.set64; simp only [State.setF_clk]
@[simp] theorem State.set64_pins (l h : Field) (v : Nat) : (s.set64 l h v).pins = s.pins := by unfold State.set64; simp only [State.setF_pins]
@[simp] theorem State.set64_fuses (l h : Field) (v : Nat) : (s.set64 l h v).fuses = s.fuses := by unfold State.set64; simp only [State.setF_fuses]
@[simp] theorem State.set64_boot (l h : Field) (v : Nat) : (s.set64 l h v).boot = s.boot := by unfold State.set64; simp only [State.setF_boot]
@[simp] theorem State.set64_power (l h : Field) (v : Nat) : (s.set64 l h v).power = s.power := by unfold State.set64; simp only [State.setF_power]
@[simp] theorem State.set64_ctl (l h : Field) (v : Nat) : (s.set64 l h v).ctl = s.ctl := by unfold State.set64; simp only [State.setF_ctl]
@[simp] theorem State.set64_cur (l h : Field) (v : Nat) : (s.set64 l h v).cur = s.cur := by unfold State.set64; simp only [State.setF_cur]
@[simp] theorem State.set64_saf (l h : Field) (v : Nat) : (s.set64 l h v).saf = s.saf := by unfold State.set64; simp only [State.setF_saf]
@[simp] theorem State.set64_ports (l h : Field) (v : Nat) : (s.set64 l h v).ports = s.ports := by unfold State.set64; simp only [State.setF_ports]
@[simp] theorem State.set64_radio (l h : Field) (v : Nat) : (s.set64 l h v).radio = s.radio := by unfold State.set64; simp only [State.setF_radio]
@[simp] theorem State.set64_demods (l h : Field) (v : Nat) : (s.set64 l h v).demods = s.demods := by unfold State.set64; simp only [State.setF_demods]
@[simp] theorem State.set64_rxFlags (l h : Field) (v : Nat) : (s.set64 l h v).rxFlags = s.rxFlags := by unfold State.set64; simp only [State.setF_rxFlags]
@[simp] theorem State.set64_time (l h : Field) (v : Nat) : (s.set64 l h v).time = s.time := by unfold State.set64; simp only [State.setF_time]
@[simp] theorem State.set64_frz (l h : Field) (v : Nat) : (s.set64 l h v).frz = s.frz := by unfold State.set64; simp only [State.setF_frz]
@[simp] theorem State.set64_tamp (l h : Field) (v : Nat) : (s.set64 l h v).tamp = s.tamp := by unfold State.set64; simp only [State.setF_tamp]
@[simp] theorem State.set64_mem (l h : Field) (v : Nat) : (s.set64 l h v).mem = s.mem := by unfold State.set64; simp only [State.setF_mem]
@[simp] theorem State.set64_fab (l h : Field) (v : Nat) : (s.set64 l h v).fab = s.fab := by unfold State.set64; simp only [State.setF_fab]
@[simp] theorem State.set64_key (l h : Field) (v : Nat) : (s.set64 l h v).key = s.key := by unfold State.set64; simp only [State.setF_key]
@[simp] theorem State.set64_cph (l h : Field) (v : Nat) : (s.set64 l h v).cph = s.cph := by unfold State.set64; simp only [State.setF_cph]
@[simp] theorem State.set64_lcs (l h : Field) (v : Nat) : (s.set64 l h v).lcs = s.lcs := by unfold State.set64; simp only [State.setF_lcs]
@[simp] theorem State.set64_cat (l h : Field) (v : Nat) : (s.set64 l h v).cat = s.cat := by unfold State.set64; simp only [State.setF_cat]
@[simp] theorem State.set64_xch (l h : Field) (v : Nat) : (s.set64 l h v).xch = s.xch := by unfold State.set64; simp only [State.setF_xch]
@[simp] theorem State.set64_shp (l h : Field) (v : Nat) : (s.set64 l h v).shp = s.shp := by unfold State.set64; simp only [State.setF_shp]
@[simp] theorem State.set64_slt (l h : Field) (v : Nat) : (s.set64 l h v).slt = s.slt := by unfold State.set64; simp only [State.setF_slt]
@[simp] theorem State.set64_bhl (l h : Field) (v : Nat) : (s.set64 l h v).bhl = s.bhl := by unfold State.set64; simp only [State.setF_bhl]
@[simp] theorem State.set64_pair (l h : Field) (v : Nat) : (s.set64 l h v).pair = s.pair := by unfold State.set64; simp only [State.setF_pair]
@[simp] theorem State.set64_cap0 (l h : Field) (v : Nat) : (s.set64 l h v).cap0 = s.cap0 := by unfold State.set64; simp only [State.setF_cap0]
@[simp] theorem State.set64_cap1 (l h : Field) (v : Nat) : (s.set64 l h v).cap1 = s.cap1 := by unfold State.set64; simp only [State.setF_cap1]
@[simp] theorem State.set64_out (l h : Field) (v : Nat) : (s.set64 l h v).out = s.out := by unfold State.set64; simp only [State.setF_out]
@[simp] theorem State.set64_draws (l h : Field) (v : Nat) : (s.set64 l h v).draws = s.draws := by unfold State.set64; simp only [State.setF_draws]
@[simp] theorem State.set64_lossPending (l h : Field) (v : Nat) : (s.set64 l h v).lossPending = s.lossPending := by unfold State.set64; simp only [State.setF_lossPending]
@[simp] theorem State.set64_detail (l h : Field) (v : Nat) : (s.set64 l h v).detail = s.detail := by unfold State.set64; simp only [State.setF_detail]
@[simp] theorem State.set64_pending (l h : Field) (v : Nat) : (s.set64 l h v).pending = s.pending := by unfold State.set64; simp only [State.setF_pending]

@[simp] theorem State.setTab_regs (k o : Nat) (w : Word) : (s.setTab k o w).regs = s.regs := rfl
@[simp] theorem State.setTab_dram (k o : Nat) (w : Word) : (s.setTab k o w).dram = s.dram := rfl
@[simp] theorem State.setTab_clk (k o : Nat) (w : Word) : (s.setTab k o w).clk = s.clk := rfl
@[simp] theorem State.setTab_pins (k o : Nat) (w : Word) : (s.setTab k o w).pins = s.pins := rfl
@[simp] theorem State.setTab_fuses (k o : Nat) (w : Word) : (s.setTab k o w).fuses = s.fuses := rfl
@[simp] theorem State.setTab_boot (k o : Nat) (w : Word) : (s.setTab k o w).boot = s.boot := rfl
@[simp] theorem State.setTab_power (k o : Nat) (w : Word) : (s.setTab k o w).power = s.power := rfl
@[simp] theorem State.setTab_ctl (k o : Nat) (w : Word) : (s.setTab k o w).ctl = s.ctl := rfl
@[simp] theorem State.setTab_cur (k o : Nat) (w : Word) : (s.setTab k o w).cur = s.cur := rfl
@[simp] theorem State.setTab_saf (k o : Nat) (w : Word) : (s.setTab k o w).saf = s.saf := rfl
@[simp] theorem State.setTab_ports (k o : Nat) (w : Word) : (s.setTab k o w).ports = s.ports := rfl
@[simp] theorem State.setTab_radio (k o : Nat) (w : Word) : (s.setTab k o w).radio = s.radio := rfl
@[simp] theorem State.setTab_demods (k o : Nat) (w : Word) : (s.setTab k o w).demods = s.demods := rfl
@[simp] theorem State.setTab_rxFlags (k o : Nat) (w : Word) : (s.setTab k o w).rxFlags = s.rxFlags := rfl
@[simp] theorem State.setTab_time (k o : Nat) (w : Word) : (s.setTab k o w).time = s.time := rfl
@[simp] theorem State.setTab_frz (k o : Nat) (w : Word) : (s.setTab k o w).frz = s.frz := rfl
@[simp] theorem State.setTab_tamp (k o : Nat) (w : Word) : (s.setTab k o w).tamp = s.tamp := rfl
@[simp] theorem State.setTab_mem (k o : Nat) (w : Word) : (s.setTab k o w).mem = s.mem := rfl
@[simp] theorem State.setTab_fab (k o : Nat) (w : Word) : (s.setTab k o w).fab = s.fab := rfl
@[simp] theorem State.setTab_key (k o : Nat) (w : Word) : (s.setTab k o w).key = s.key := rfl
@[simp] theorem State.setTab_cph (k o : Nat) (w : Word) : (s.setTab k o w).cph = s.cph := rfl
@[simp] theorem State.setTab_lcs (k o : Nat) (w : Word) : (s.setTab k o w).lcs = s.lcs := rfl
@[simp] theorem State.setTab_cat (k o : Nat) (w : Word) : (s.setTab k o w).cat = s.cat := rfl
@[simp] theorem State.setTab_xch (k o : Nat) (w : Word) : (s.setTab k o w).xch = s.xch := rfl
@[simp] theorem State.setTab_shp (k o : Nat) (w : Word) : (s.setTab k o w).shp = s.shp := rfl
@[simp] theorem State.setTab_slt (k o : Nat) (w : Word) : (s.setTab k o w).slt = s.slt := rfl
@[simp] theorem State.setTab_bhl (k o : Nat) (w : Word) : (s.setTab k o w).bhl = s.bhl := rfl
@[simp] theorem State.setTab_pair (k o : Nat) (w : Word) : (s.setTab k o w).pair = s.pair := rfl
@[simp] theorem State.setTab_cap0 (k o : Nat) (w : Word) : (s.setTab k o w).cap0 = s.cap0 := rfl
@[simp] theorem State.setTab_cap1 (k o : Nat) (w : Word) : (s.setTab k o w).cap1 = s.cap1 := rfl
@[simp] theorem State.setTab_out (k o : Nat) (w : Word) : (s.setTab k o w).out = s.out := rfl
@[simp] theorem State.setTab_draws (k o : Nat) (w : Word) : (s.setTab k o w).draws = s.draws := rfl
@[simp] theorem State.setTab_lossPending (k o : Nat) (w : Word) : (s.setTab k o w).lossPending = s.lossPending := rfl
@[simp] theorem State.setTab_detail (k o : Nat) (w : Word) : (s.setTab k o w).detail = s.detail := rfl
@[simp] theorem State.setTab_pending (k o : Nat) (w : Word) : (s.setTab k o w).pending = s.pending := rfl

@[simp] theorem State.updPort_regs (n : Nat) (f : Port → Port) : (s.updPort n f).regs = s.regs := rfl
@[simp] theorem State.updPort_tabs (n : Nat) (f : Port → Port) : (s.updPort n f).tabs = s.tabs := rfl
@[simp] theorem State.updPort_dram (n : Nat) (f : Port → Port) : (s.updPort n f).dram = s.dram := rfl
@[simp] theorem State.updPort_clk (n : Nat) (f : Port → Port) : (s.updPort n f).clk = s.clk := rfl
@[simp] theorem State.updPort_pins (n : Nat) (f : Port → Port) : (s.updPort n f).pins = s.pins := rfl
@[simp] theorem State.updPort_fuses (n : Nat) (f : Port → Port) : (s.updPort n f).fuses = s.fuses := rfl
@[simp] theorem State.updPort_boot (n : Nat) (f : Port → Port) : (s.updPort n f).boot = s.boot := rfl
@[simp] theorem State.updPort_power (n : Nat) (f : Port → Port) : (s.updPort n f).power = s.power := rfl
@[simp] theorem State.updPort_ctl (n : Nat) (f : Port → Port) : (s.updPort n f).ctl = s.ctl := rfl
@[simp] theorem State.updPort_cur (n : Nat) (f : Port → Port) : (s.updPort n f).cur = s.cur := rfl
@[simp] theorem State.updPort_saf (n : Nat) (f : Port → Port) : (s.updPort n f).saf = s.saf := rfl
@[simp] theorem State.updPort_radio (n : Nat) (f : Port → Port) : (s.updPort n f).radio = s.radio := rfl
@[simp] theorem State.updPort_demods (n : Nat) (f : Port → Port) : (s.updPort n f).demods = s.demods := rfl
@[simp] theorem State.updPort_rxFlags (n : Nat) (f : Port → Port) : (s.updPort n f).rxFlags = s.rxFlags := rfl
@[simp] theorem State.updPort_time (n : Nat) (f : Port → Port) : (s.updPort n f).time = s.time := rfl
@[simp] theorem State.updPort_frz (n : Nat) (f : Port → Port) : (s.updPort n f).frz = s.frz := rfl
@[simp] theorem State.updPort_tamp (n : Nat) (f : Port → Port) : (s.updPort n f).tamp = s.tamp := rfl
@[simp] theorem State.updPort_mem (n : Nat) (f : Port → Port) : (s.updPort n f).mem = s.mem := rfl
@[simp] theorem State.updPort_fab (n : Nat) (f : Port → Port) : (s.updPort n f).fab = s.fab := rfl
@[simp] theorem State.updPort_key (n : Nat) (f : Port → Port) : (s.updPort n f).key = s.key := rfl
@[simp] theorem State.updPort_cph (n : Nat) (f : Port → Port) : (s.updPort n f).cph = s.cph := rfl
@[simp] theorem State.updPort_lcs (n : Nat) (f : Port → Port) : (s.updPort n f).lcs = s.lcs := rfl
@[simp] theorem State.updPort_cat (n : Nat) (f : Port → Port) : (s.updPort n f).cat = s.cat := rfl
@[simp] theorem State.updPort_xch (n : Nat) (f : Port → Port) : (s.updPort n f).xch = s.xch := rfl
@[simp] theorem State.updPort_shp (n : Nat) (f : Port → Port) : (s.updPort n f).shp = s.shp := rfl
@[simp] theorem State.updPort_slt (n : Nat) (f : Port → Port) : (s.updPort n f).slt = s.slt := rfl
@[simp] theorem State.updPort_bhl (n : Nat) (f : Port → Port) : (s.updPort n f).bhl = s.bhl := rfl
@[simp] theorem State.updPort_pair (n : Nat) (f : Port → Port) : (s.updPort n f).pair = s.pair := rfl
@[simp] theorem State.updPort_cap0 (n : Nat) (f : Port → Port) : (s.updPort n f).cap0 = s.cap0 := rfl
@[simp] theorem State.updPort_cap1 (n : Nat) (f : Port → Port) : (s.updPort n f).cap1 = s.cap1 := rfl
@[simp] theorem State.updPort_out (n : Nat) (f : Port → Port) : (s.updPort n f).out = s.out := rfl
@[simp] theorem State.updPort_draws (n : Nat) (f : Port → Port) : (s.updPort n f).draws = s.draws := rfl
@[simp] theorem State.updPort_lossPending (n : Nat) (f : Port → Port) : (s.updPort n f).lossPending = s.lossPending := rfl
@[simp] theorem State.updPort_detail (n : Nat) (f : Port → Port) : (s.updPort n f).detail = s.detail := rfl
@[simp] theorem State.updPort_pending (n : Nat) (f : Port → Port) : (s.updPort n f).pending = s.pending := rfl

@[simp] theorem State.setByte_regs (a : Nat) (b : Byte) : (s.setByte a b).regs = s.regs := rfl
@[simp] theorem State.setByte_tabs (a : Nat) (b : Byte) : (s.setByte a b).tabs = s.tabs := rfl
@[simp] theorem State.setByte_clk (a : Nat) (b : Byte) : (s.setByte a b).clk = s.clk := rfl
@[simp] theorem State.setByte_pins (a : Nat) (b : Byte) : (s.setByte a b).pins = s.pins := rfl
@[simp] theorem State.setByte_fuses (a : Nat) (b : Byte) : (s.setByte a b).fuses = s.fuses := rfl
@[simp] theorem State.setByte_boot (a : Nat) (b : Byte) : (s.setByte a b).boot = s.boot := rfl
@[simp] theorem State.setByte_power (a : Nat) (b : Byte) : (s.setByte a b).power = s.power := rfl
@[simp] theorem State.setByte_ctl (a : Nat) (b : Byte) : (s.setByte a b).ctl = s.ctl := rfl
@[simp] theorem State.setByte_cur (a : Nat) (b : Byte) : (s.setByte a b).cur = s.cur := rfl
@[simp] theorem State.setByte_saf (a : Nat) (b : Byte) : (s.setByte a b).saf = s.saf := rfl
@[simp] theorem State.setByte_ports (a : Nat) (b : Byte) : (s.setByte a b).ports = s.ports := rfl
@[simp] theorem State.setByte_radio (a : Nat) (b : Byte) : (s.setByte a b).radio = s.radio := rfl
@[simp] theorem State.setByte_demods (a : Nat) (b : Byte) : (s.setByte a b).demods = s.demods := rfl
@[simp] theorem State.setByte_rxFlags (a : Nat) (b : Byte) : (s.setByte a b).rxFlags = s.rxFlags := rfl
@[simp] theorem State.setByte_time (a : Nat) (b : Byte) : (s.setByte a b).time = s.time := rfl
@[simp] theorem State.setByte_frz (a : Nat) (b : Byte) : (s.setByte a b).frz = s.frz := rfl
@[simp] theorem State.setByte_tamp (a : Nat) (b : Byte) : (s.setByte a b).tamp = s.tamp := rfl
@[simp] theorem State.setByte_mem (a : Nat) (b : Byte) : (s.setByte a b).mem = s.mem := rfl
@[simp] theorem State.setByte_fab (a : Nat) (b : Byte) : (s.setByte a b).fab = s.fab := rfl
@[simp] theorem State.setByte_key (a : Nat) (b : Byte) : (s.setByte a b).key = s.key := rfl
@[simp] theorem State.setByte_cph (a : Nat) (b : Byte) : (s.setByte a b).cph = s.cph := rfl
@[simp] theorem State.setByte_lcs (a : Nat) (b : Byte) : (s.setByte a b).lcs = s.lcs := rfl
@[simp] theorem State.setByte_cat (a : Nat) (b : Byte) : (s.setByte a b).cat = s.cat := rfl
@[simp] theorem State.setByte_xch (a : Nat) (b : Byte) : (s.setByte a b).xch = s.xch := rfl
@[simp] theorem State.setByte_shp (a : Nat) (b : Byte) : (s.setByte a b).shp = s.shp := rfl
@[simp] theorem State.setByte_slt (a : Nat) (b : Byte) : (s.setByte a b).slt = s.slt := rfl
@[simp] theorem State.setByte_bhl (a : Nat) (b : Byte) : (s.setByte a b).bhl = s.bhl := rfl
@[simp] theorem State.setByte_pair (a : Nat) (b : Byte) : (s.setByte a b).pair = s.pair := rfl
@[simp] theorem State.setByte_cap0 (a : Nat) (b : Byte) : (s.setByte a b).cap0 = s.cap0 := rfl
@[simp] theorem State.setByte_cap1 (a : Nat) (b : Byte) : (s.setByte a b).cap1 = s.cap1 := rfl
@[simp] theorem State.setByte_out (a : Nat) (b : Byte) : (s.setByte a b).out = s.out := rfl
@[simp] theorem State.setByte_draws (a : Nat) (b : Byte) : (s.setByte a b).draws = s.draws := rfl
@[simp] theorem State.setByte_lossPending (a : Nat) (b : Byte) : (s.setByte a b).lossPending = s.lossPending := rfl
@[simp] theorem State.setByte_detail (a : Nat) (b : Byte) : (s.setByte a b).detail = s.detail := rfl
@[simp] theorem State.setByte_pending (a : Nat) (b : Byte) : (s.setByte a b).pending = s.pending := rfl

@[simp] theorem State.emit_regs (o : Out) : (s.emit o).regs = s.regs := rfl
@[simp] theorem State.emit_tabs (o : Out) : (s.emit o).tabs = s.tabs := rfl
@[simp] theorem State.emit_dram (o : Out) : (s.emit o).dram = s.dram := rfl
@[simp] theorem State.emit_clk (o : Out) : (s.emit o).clk = s.clk := rfl
@[simp] theorem State.emit_pins (o : Out) : (s.emit o).pins = s.pins := rfl
@[simp] theorem State.emit_fuses (o : Out) : (s.emit o).fuses = s.fuses := rfl
@[simp] theorem State.emit_boot (o : Out) : (s.emit o).boot = s.boot := rfl
@[simp] theorem State.emit_power (o : Out) : (s.emit o).power = s.power := rfl
@[simp] theorem State.emit_ctl (o : Out) : (s.emit o).ctl = s.ctl := rfl
@[simp] theorem State.emit_cur (o : Out) : (s.emit o).cur = s.cur := rfl
@[simp] theorem State.emit_saf (o : Out) : (s.emit o).saf = s.saf := rfl
@[simp] theorem State.emit_ports (o : Out) : (s.emit o).ports = s.ports := rfl
@[simp] theorem State.emit_radio (o : Out) : (s.emit o).radio = s.radio := rfl
@[simp] theorem State.emit_demods (o : Out) : (s.emit o).demods = s.demods := rfl
@[simp] theorem State.emit_rxFlags (o : Out) : (s.emit o).rxFlags = s.rxFlags := rfl
@[simp] theorem State.emit_time (o : Out) : (s.emit o).time = s.time := rfl
@[simp] theorem State.emit_frz (o : Out) : (s.emit o).frz = s.frz := rfl
@[simp] theorem State.emit_tamp (o : Out) : (s.emit o).tamp = s.tamp := rfl
@[simp] theorem State.emit_mem (o : Out) : (s.emit o).mem = s.mem := rfl
@[simp] theorem State.emit_fab (o : Out) : (s.emit o).fab = s.fab := rfl
@[simp] theorem State.emit_key (o : Out) : (s.emit o).key = s.key := rfl
@[simp] theorem State.emit_cph (o : Out) : (s.emit o).cph = s.cph := rfl
@[simp] theorem State.emit_lcs (o : Out) : (s.emit o).lcs = s.lcs := rfl
@[simp] theorem State.emit_cat (o : Out) : (s.emit o).cat = s.cat := rfl
@[simp] theorem State.emit_xch (o : Out) : (s.emit o).xch = s.xch := rfl
@[simp] theorem State.emit_shp (o : Out) : (s.emit o).shp = s.shp := rfl
@[simp] theorem State.emit_slt (o : Out) : (s.emit o).slt = s.slt := rfl
@[simp] theorem State.emit_bhl (o : Out) : (s.emit o).bhl = s.bhl := rfl
@[simp] theorem State.emit_pair (o : Out) : (s.emit o).pair = s.pair := rfl
@[simp] theorem State.emit_cap0 (o : Out) : (s.emit o).cap0 = s.cap0 := rfl
@[simp] theorem State.emit_cap1 (o : Out) : (s.emit o).cap1 = s.cap1 := rfl
@[simp] theorem State.emit_draws (o : Out) : (s.emit o).draws = s.draws := rfl
@[simp] theorem State.emit_lossPending (o : Out) : (s.emit o).lossPending = s.lossPending := rfl
@[simp] theorem State.emit_detail (o : Out) : (s.emit o).detail = s.detail := rfl
@[simp] theorem State.emit_pending (o : Out) : (s.emit o).pending = s.pending := rfl

@[simp] theorem State.drawn_regs : (s.drawn).regs = s.regs := rfl
@[simp] theorem State.drawn_tabs : (s.drawn).tabs = s.tabs := rfl
@[simp] theorem State.drawn_dram : (s.drawn).dram = s.dram := rfl
@[simp] theorem State.drawn_clk : (s.drawn).clk = s.clk := rfl
@[simp] theorem State.drawn_pins : (s.drawn).pins = s.pins := rfl
@[simp] theorem State.drawn_fuses : (s.drawn).fuses = s.fuses := rfl
@[simp] theorem State.drawn_boot : (s.drawn).boot = s.boot := rfl
@[simp] theorem State.drawn_power : (s.drawn).power = s.power := rfl
@[simp] theorem State.drawn_ctl : (s.drawn).ctl = s.ctl := rfl
@[simp] theorem State.drawn_cur : (s.drawn).cur = s.cur := rfl
@[simp] theorem State.drawn_saf : (s.drawn).saf = s.saf := rfl
@[simp] theorem State.drawn_ports : (s.drawn).ports = s.ports := rfl
@[simp] theorem State.drawn_radio : (s.drawn).radio = s.radio := rfl
@[simp] theorem State.drawn_demods : (s.drawn).demods = s.demods := rfl
@[simp] theorem State.drawn_rxFlags : (s.drawn).rxFlags = s.rxFlags := rfl
@[simp] theorem State.drawn_time : (s.drawn).time = s.time := rfl
@[simp] theorem State.drawn_frz : (s.drawn).frz = s.frz := rfl
@[simp] theorem State.drawn_tamp : (s.drawn).tamp = s.tamp := rfl
@[simp] theorem State.drawn_mem : (s.drawn).mem = s.mem := rfl
@[simp] theorem State.drawn_fab : (s.drawn).fab = s.fab := rfl
@[simp] theorem State.drawn_key : (s.drawn).key = s.key := rfl
@[simp] theorem State.drawn_cph : (s.drawn).cph = s.cph := rfl
@[simp] theorem State.drawn_lcs : (s.drawn).lcs = s.lcs := rfl
@[simp] theorem State.drawn_cat : (s.drawn).cat = s.cat := rfl
@[simp] theorem State.drawn_xch : (s.drawn).xch = s.xch := rfl
@[simp] theorem State.drawn_shp : (s.drawn).shp = s.shp := rfl
@[simp] theorem State.drawn_slt : (s.drawn).slt = s.slt := rfl
@[simp] theorem State.drawn_bhl : (s.drawn).bhl = s.bhl := rfl
@[simp] theorem State.drawn_pair : (s.drawn).pair = s.pair := rfl
@[simp] theorem State.drawn_cap0 : (s.drawn).cap0 = s.cap0 := rfl
@[simp] theorem State.drawn_cap1 : (s.drawn).cap1 = s.cap1 := rfl
@[simp] theorem State.drawn_out : (s.drawn).out = s.out := rfl
@[simp] theorem State.drawn_lossPending : (s.drawn).lossPending = s.lossPending := rfl
@[simp] theorem State.drawn_detail : (s.drawn).detail = s.detail := rfl
@[simp] theorem State.drawn_pending : (s.drawn).pending = s.pending := rfl

@[simp] theorem State.elapse_regs (dt : Nat) : (s.elapse dt).regs = s.regs := rfl
@[simp] theorem State.elapse_tabs (dt : Nat) : (s.elapse dt).tabs = s.tabs := rfl
@[simp] theorem State.elapse_dram (dt : Nat) : (s.elapse dt).dram = s.dram := rfl
@[simp] theorem State.elapse_pins (dt : Nat) : (s.elapse dt).pins = s.pins := rfl
@[simp] theorem State.elapse_fuses (dt : Nat) : (s.elapse dt).fuses = s.fuses := rfl
@[simp] theorem State.elapse_boot (dt : Nat) : (s.elapse dt).boot = s.boot := rfl
@[simp] theorem State.elapse_power (dt : Nat) : (s.elapse dt).power = s.power := rfl
@[simp] theorem State.elapse_ctl (dt : Nat) : (s.elapse dt).ctl = s.ctl := rfl
@[simp] theorem State.elapse_cur (dt : Nat) : (s.elapse dt).cur = s.cur := rfl
@[simp] theorem State.elapse_saf (dt : Nat) : (s.elapse dt).saf = s.saf := rfl
@[simp] theorem State.elapse_ports (dt : Nat) : (s.elapse dt).ports = s.ports := rfl
@[simp] theorem State.elapse_radio (dt : Nat) : (s.elapse dt).radio = s.radio := rfl
@[simp] theorem State.elapse_demods (dt : Nat) : (s.elapse dt).demods = s.demods := rfl
@[simp] theorem State.elapse_rxFlags (dt : Nat) : (s.elapse dt).rxFlags = s.rxFlags := rfl
@[simp] theorem State.elapse_frz (dt : Nat) : (s.elapse dt).frz = s.frz := rfl
@[simp] theorem State.elapse_tamp (dt : Nat) : (s.elapse dt).tamp = s.tamp := rfl
@[simp] theorem State.elapse_mem (dt : Nat) : (s.elapse dt).mem = s.mem := rfl
@[simp] theorem State.elapse_fab (dt : Nat) : (s.elapse dt).fab = s.fab := rfl
@[simp] theorem State.elapse_key (dt : Nat) : (s.elapse dt).key = s.key := rfl
@[simp] theorem State.elapse_cph (dt : Nat) : (s.elapse dt).cph = s.cph := rfl
@[simp] theorem State.elapse_lcs (dt : Nat) : (s.elapse dt).lcs = s.lcs := rfl
@[simp] theorem State.elapse_cat (dt : Nat) : (s.elapse dt).cat = s.cat := rfl
@[simp] theorem State.elapse_xch (dt : Nat) : (s.elapse dt).xch = s.xch := rfl
@[simp] theorem State.elapse_shp (dt : Nat) : (s.elapse dt).shp = s.shp := rfl
@[simp] theorem State.elapse_slt (dt : Nat) : (s.elapse dt).slt = s.slt := rfl
@[simp] theorem State.elapse_bhl (dt : Nat) : (s.elapse dt).bhl = s.bhl := rfl
@[simp] theorem State.elapse_pair (dt : Nat) : (s.elapse dt).pair = s.pair := rfl
@[simp] theorem State.elapse_cap0 (dt : Nat) : (s.elapse dt).cap0 = s.cap0 := rfl
@[simp] theorem State.elapse_cap1 (dt : Nat) : (s.elapse dt).cap1 = s.cap1 := rfl
@[simp] theorem State.elapse_out (dt : Nat) : (s.elapse dt).out = s.out := rfl
@[simp] theorem State.elapse_draws (dt : Nat) : (s.elapse dt).draws = s.draws := rfl
@[simp] theorem State.elapse_lossPending (dt : Nat) : (s.elapse dt).lossPending = s.lossPending := rfl
@[simp] theorem State.elapse_detail (dt : Nat) : (s.elapse dt).detail = s.detail := rfl
@[simp] theorem State.elapse_pending (dt : Nat) : (s.elapse dt).pending = s.pending := rfl

@[simp] theorem State.updBhl_regs (f : Backhaul → Backhaul) : (s.updBhl f).regs = s.regs := rfl
@[simp] theorem State.updBhl_tabs (f : Backhaul → Backhaul) : (s.updBhl f).tabs = s.tabs := rfl
@[simp] theorem State.updBhl_dram (f : Backhaul → Backhaul) : (s.updBhl f).dram = s.dram := rfl
@[simp] theorem State.updBhl_clk (f : Backhaul → Backhaul) : (s.updBhl f).clk = s.clk := rfl
@[simp] theorem State.updBhl_pins (f : Backhaul → Backhaul) : (s.updBhl f).pins = s.pins := rfl
@[simp] theorem State.updBhl_fuses (f : Backhaul → Backhaul) : (s.updBhl f).fuses = s.fuses := rfl
@[simp] theorem State.updBhl_boot (f : Backhaul → Backhaul) : (s.updBhl f).boot = s.boot := rfl
@[simp] theorem State.updBhl_power (f : Backhaul → Backhaul) : (s.updBhl f).power = s.power := rfl
@[simp] theorem State.updBhl_ctl (f : Backhaul → Backhaul) : (s.updBhl f).ctl = s.ctl := rfl
@[simp] theorem State.updBhl_cur (f : Backhaul → Backhaul) : (s.updBhl f).cur = s.cur := rfl
@[simp] theorem State.updBhl_saf (f : Backhaul → Backhaul) : (s.updBhl f).saf = s.saf := rfl
@[simp] theorem State.updBhl_ports (f : Backhaul → Backhaul) : (s.updBhl f).ports = s.ports := rfl
@[simp] theorem State.updBhl_radio (f : Backhaul → Backhaul) : (s.updBhl f).radio = s.radio := rfl
@[simp] theorem State.updBhl_demods (f : Backhaul → Backhaul) : (s.updBhl f).demods = s.demods := rfl
@[simp] theorem State.updBhl_rxFlags (f : Backhaul → Backhaul) : (s.updBhl f).rxFlags = s.rxFlags := rfl
@[simp] theorem State.updBhl_time (f : Backhaul → Backhaul) : (s.updBhl f).time = s.time := rfl
@[simp] theorem State.updBhl_frz (f : Backhaul → Backhaul) : (s.updBhl f).frz = s.frz := rfl
@[simp] theorem State.updBhl_tamp (f : Backhaul → Backhaul) : (s.updBhl f).tamp = s.tamp := rfl
@[simp] theorem State.updBhl_mem (f : Backhaul → Backhaul) : (s.updBhl f).mem = s.mem := rfl
@[simp] theorem State.updBhl_fab (f : Backhaul → Backhaul) : (s.updBhl f).fab = s.fab := rfl
@[simp] theorem State.updBhl_key (f : Backhaul → Backhaul) : (s.updBhl f).key = s.key := rfl
@[simp] theorem State.updBhl_cph (f : Backhaul → Backhaul) : (s.updBhl f).cph = s.cph := rfl
@[simp] theorem State.updBhl_lcs (f : Backhaul → Backhaul) : (s.updBhl f).lcs = s.lcs := rfl
@[simp] theorem State.updBhl_cat (f : Backhaul → Backhaul) : (s.updBhl f).cat = s.cat := rfl
@[simp] theorem State.updBhl_xch (f : Backhaul → Backhaul) : (s.updBhl f).xch = s.xch := rfl
@[simp] theorem State.updBhl_shp (f : Backhaul → Backhaul) : (s.updBhl f).shp = s.shp := rfl
@[simp] theorem State.updBhl_slt (f : Backhaul → Backhaul) : (s.updBhl f).slt = s.slt := rfl
@[simp] theorem State.updBhl_pair (f : Backhaul → Backhaul) : (s.updBhl f).pair = s.pair := rfl
@[simp] theorem State.updBhl_cap0 (f : Backhaul → Backhaul) : (s.updBhl f).cap0 = s.cap0 := rfl
@[simp] theorem State.updBhl_cap1 (f : Backhaul → Backhaul) : (s.updBhl f).cap1 = s.cap1 := rfl
@[simp] theorem State.updBhl_out (f : Backhaul → Backhaul) : (s.updBhl f).out = s.out := rfl
@[simp] theorem State.updBhl_draws (f : Backhaul → Backhaul) : (s.updBhl f).draws = s.draws := rfl
@[simp] theorem State.updBhl_lossPending (f : Backhaul → Backhaul) : (s.updBhl f).lossPending = s.lossPending := rfl
@[simp] theorem State.updBhl_detail (f : Backhaul → Backhaul) : (s.updBhl f).detail = s.detail := rfl
@[simp] theorem State.updBhl_pending (f : Backhaul → Backhaul) : (s.updBhl f).pending = s.pending := rfl
@[simp] theorem State.updBhl_bhl (f : Backhaul → Backhaul) : (s.updBhl f).bhl = f s.bhl := rfl

@[simp] theorem State.updBoot_regs (f : Boot → Boot) : (s.updBoot f).regs = s.regs := rfl
@[simp] theorem State.updBoot_tabs (f : Boot → Boot) : (s.updBoot f).tabs = s.tabs := rfl
@[simp] theorem State.updBoot_dram (f : Boot → Boot) : (s.updBoot f).dram = s.dram := rfl
@[simp] theorem State.updBoot_clk (f : Boot → Boot) : (s.updBoot f).clk = s.clk := rfl
@[simp] theorem State.updBoot_pins (f : Boot → Boot) : (s.updBoot f).pins = s.pins := rfl
@[simp] theorem State.updBoot_fuses (f : Boot → Boot) : (s.updBoot f).fuses = s.fuses := rfl
@[simp] theorem State.updBoot_power (f : Boot → Boot) : (s.updBoot f).power = s.power := rfl
@[simp] theorem State.updBoot_ctl (f : Boot → Boot) : (s.updBoot f).ctl = s.ctl := rfl
@[simp] theorem State.updBoot_cur (f : Boot → Boot) : (s.updBoot f).cur = s.cur := rfl
@[simp] theorem State.updBoot_saf (f : Boot → Boot) : (s.updBoot f).saf = s.saf := rfl
@[simp] theorem State.updBoot_ports (f : Boot → Boot) : (s.updBoot f).ports = s.ports := rfl
@[simp] theorem State.updBoot_radio (f : Boot → Boot) : (s.updBoot f).radio = s.radio := rfl
@[simp] theorem State.updBoot_demods (f : Boot → Boot) : (s.updBoot f).demods = s.demods := rfl
@[simp] theorem State.updBoot_rxFlags (f : Boot → Boot) : (s.updBoot f).rxFlags = s.rxFlags := rfl
@[simp] theorem State.updBoot_time (f : Boot → Boot) : (s.updBoot f).time = s.time := rfl
@[simp] theorem State.updBoot_frz (f : Boot → Boot) : (s.updBoot f).frz = s.frz := rfl
@[simp] theorem State.updBoot_tamp (f : Boot → Boot) : (s.updBoot f).tamp = s.tamp := rfl
@[simp] theorem State.updBoot_mem (f : Boot → Boot) : (s.updBoot f).mem = s.mem := rfl
@[simp] theorem State.updBoot_fab (f : Boot → Boot) : (s.updBoot f).fab = s.fab := rfl
@[simp] theorem State.updBoot_key (f : Boot → Boot) : (s.updBoot f).key = s.key := rfl
@[simp] theorem State.updBoot_cph (f : Boot → Boot) : (s.updBoot f).cph = s.cph := rfl
@[simp] theorem State.updBoot_lcs (f : Boot → Boot) : (s.updBoot f).lcs = s.lcs := rfl
@[simp] theorem State.updBoot_cat (f : Boot → Boot) : (s.updBoot f).cat = s.cat := rfl
@[simp] theorem State.updBoot_xch (f : Boot → Boot) : (s.updBoot f).xch = s.xch := rfl
@[simp] theorem State.updBoot_shp (f : Boot → Boot) : (s.updBoot f).shp = s.shp := rfl
@[simp] theorem State.updBoot_slt (f : Boot → Boot) : (s.updBoot f).slt = s.slt := rfl
@[simp] theorem State.updBoot_bhl (f : Boot → Boot) : (s.updBoot f).bhl = s.bhl := rfl
@[simp] theorem State.updBoot_pair (f : Boot → Boot) : (s.updBoot f).pair = s.pair := rfl
@[simp] theorem State.updBoot_cap0 (f : Boot → Boot) : (s.updBoot f).cap0 = s.cap0 := rfl
@[simp] theorem State.updBoot_cap1 (f : Boot → Boot) : (s.updBoot f).cap1 = s.cap1 := rfl
@[simp] theorem State.updBoot_out (f : Boot → Boot) : (s.updBoot f).out = s.out := rfl
@[simp] theorem State.updBoot_draws (f : Boot → Boot) : (s.updBoot f).draws = s.draws := rfl
@[simp] theorem State.updBoot_lossPending (f : Boot → Boot) : (s.updBoot f).lossPending = s.lossPending := rfl
@[simp] theorem State.updBoot_detail (f : Boot → Boot) : (s.updBoot f).detail = s.detail := rfl
@[simp] theorem State.updBoot_pending (f : Boot → Boot) : (s.updBoot f).pending = s.pending := rfl
@[simp] theorem State.updBoot_boot (f : Boot → Boot) : (s.updBoot f).boot = f s.boot := rfl

@[simp] theorem State.updCat_regs (f : Catalogue → Catalogue) : (s.updCat f).regs = s.regs := rfl
@[simp] theorem State.updCat_tabs (f : Catalogue → Catalogue) : (s.updCat f).tabs = s.tabs := rfl
@[simp] theorem State.updCat_dram (f : Catalogue → Catalogue) : (s.updCat f).dram = s.dram := rfl
@[simp] theorem State.updCat_clk (f : Catalogue → Catalogue) : (s.updCat f).clk = s.clk := rfl
@[simp] theorem State.updCat_pins (f : Catalogue → Catalogue) : (s.updCat f).pins = s.pins := rfl
@[simp] theorem State.updCat_fuses (f : Catalogue → Catalogue) : (s.updCat f).fuses = s.fuses := rfl
@[simp] theorem State.updCat_boot (f : Catalogue → Catalogue) : (s.updCat f).boot = s.boot := rfl
@[simp] theorem State.updCat_power (f : Catalogue → Catalogue) : (s.updCat f).power = s.power := rfl
@[simp] theorem State.updCat_ctl (f : Catalogue → Catalogue) : (s.updCat f).ctl = s.ctl := rfl
@[simp] theorem State.updCat_cur (f : Catalogue → Catalogue) : (s.updCat f).cur = s.cur := rfl
@[simp] theorem State.updCat_saf (f : Catalogue → Catalogue) : (s.updCat f).saf = s.saf := rfl
@[simp] theorem State.updCat_ports (f : Catalogue → Catalogue) : (s.updCat f).ports = s.ports := rfl
@[simp] theorem State.updCat_radio (f : Catalogue → Catalogue) : (s.updCat f).radio = s.radio := rfl
@[simp] theorem State.updCat_demods (f : Catalogue → Catalogue) : (s.updCat f).demods = s.demods := rfl
@[simp] theorem State.updCat_rxFlags (f : Catalogue → Catalogue) : (s.updCat f).rxFlags = s.rxFlags := rfl
@[simp] theorem State.updCat_time (f : Catalogue → Catalogue) : (s.updCat f).time = s.time := rfl
@[simp] theorem State.updCat_frz (f : Catalogue → Catalogue) : (s.updCat f).frz = s.frz := rfl
@[simp] theorem State.updCat_tamp (f : Catalogue → Catalogue) : (s.updCat f).tamp = s.tamp := rfl
@[simp] theorem State.updCat_mem (f : Catalogue → Catalogue) : (s.updCat f).mem = s.mem := rfl
@[simp] theorem State.updCat_fab (f : Catalogue → Catalogue) : (s.updCat f).fab = s.fab := rfl
@[simp] theorem State.updCat_key (f : Catalogue → Catalogue) : (s.updCat f).key = s.key := rfl
@[simp] theorem State.updCat_cph (f : Catalogue → Catalogue) : (s.updCat f).cph = s.cph := rfl
@[simp] theorem State.updCat_lcs (f : Catalogue → Catalogue) : (s.updCat f).lcs = s.lcs := rfl
@[simp] theorem State.updCat_xch (f : Catalogue → Catalogue) : (s.updCat f).xch = s.xch := rfl
@[simp] theorem State.updCat_shp (f : Catalogue → Catalogue) : (s.updCat f).shp = s.shp := rfl
@[simp] theorem State.updCat_slt (f : Catalogue → Catalogue) : (s.updCat f).slt = s.slt := rfl
@[simp] theorem State.updCat_bhl (f : Catalogue → Catalogue) : (s.updCat f).bhl = s.bhl := rfl
@[simp] theorem State.updCat_pair (f : Catalogue → Catalogue) : (s.updCat f).pair = s.pair := rfl
@[simp] theorem State.updCat_cap0 (f : Catalogue → Catalogue) : (s.updCat f).cap0 = s.cap0 := rfl
@[simp] theorem State.updCat_cap1 (f : Catalogue → Catalogue) : (s.updCat f).cap1 = s.cap1 := rfl
@[simp] theorem State.updCat_out (f : Catalogue → Catalogue) : (s.updCat f).out = s.out := rfl
@[simp] theorem State.updCat_draws (f : Catalogue → Catalogue) : (s.updCat f).draws = s.draws := rfl
@[simp] theorem State.updCat_lossPending (f : Catalogue → Catalogue) : (s.updCat f).lossPending = s.lossPending := rfl
@[simp] theorem State.updCat_detail (f : Catalogue → Catalogue) : (s.updCat f).detail = s.detail := rfl
@[simp] theorem State.updCat_pending (f : Catalogue → Catalogue) : (s.updCat f).pending = s.pending := rfl
@[simp] theorem State.updCat_cat (f : Catalogue → Catalogue) : (s.updCat f).cat = f s.cat := rfl

@[simp] theorem State.updKey_regs (f : KeyStore → KeyStore) : (s.updKey f).regs = s.regs := rfl
@[simp] theorem State.updKey_tabs (f : KeyStore → KeyStore) : (s.updKey f).tabs = s.tabs := rfl
@[simp] theorem State.updKey_dram (f : KeyStore → KeyStore) : (s.updKey f).dram = s.dram := rfl
@[simp] theorem State.updKey_clk (f : KeyStore → KeyStore) : (s.updKey f).clk = s.clk := rfl
@[simp] theorem State.updKey_pins (f : KeyStore → KeyStore) : (s.updKey f).pins = s.pins := rfl
@[simp] theorem State.updKey_fuses (f : KeyStore → KeyStore) : (s.updKey f).fuses = s.fuses := rfl
@[simp] theorem State.updKey_boot (f : KeyStore → KeyStore) : (s.updKey f).boot = s.boot := rfl
@[simp] theorem State.updKey_power (f : KeyStore → KeyStore) : (s.updKey f).power = s.power := rfl
@[simp] theorem State.updKey_ctl (f : KeyStore → KeyStore) : (s.updKey f).ctl = s.ctl := rfl
@[simp] theorem State.updKey_cur (f : KeyStore → KeyStore) : (s.updKey f).cur = s.cur := rfl
@[simp] theorem State.updKey_saf (f : KeyStore → KeyStore) : (s.updKey f).saf = s.saf := rfl
@[simp] theorem State.updKey_ports (f : KeyStore → KeyStore) : (s.updKey f).ports = s.ports := rfl
@[simp] theorem State.updKey_radio (f : KeyStore → KeyStore) : (s.updKey f).radio = s.radio := rfl
@[simp] theorem State.updKey_demods (f : KeyStore → KeyStore) : (s.updKey f).demods = s.demods := rfl
@[simp] theorem State.updKey_rxFlags (f : KeyStore → KeyStore) : (s.updKey f).rxFlags = s.rxFlags := rfl
@[simp] theorem State.updKey_time (f : KeyStore → KeyStore) : (s.updKey f).time = s.time := rfl
@[simp] theorem State.updKey_frz (f : KeyStore → KeyStore) : (s.updKey f).frz = s.frz := rfl
@[simp] theorem State.updKey_tamp (f : KeyStore → KeyStore) : (s.updKey f).tamp = s.tamp := rfl
@[simp] theorem State.updKey_mem (f : KeyStore → KeyStore) : (s.updKey f).mem = s.mem := rfl
@[simp] theorem State.updKey_fab (f : KeyStore → KeyStore) : (s.updKey f).fab = s.fab := rfl
@[simp] theorem State.updKey_cph (f : KeyStore → KeyStore) : (s.updKey f).cph = s.cph := rfl
@[simp] theorem State.updKey_lcs (f : KeyStore → KeyStore) : (s.updKey f).lcs = s.lcs := rfl
@[simp] theorem State.updKey_cat (f : KeyStore → KeyStore) : (s.updKey f).cat = s.cat := rfl
@[simp] theorem State.updKey_xch (f : KeyStore → KeyStore) : (s.updKey f).xch = s.xch := rfl
@[simp] theorem State.updKey_shp (f : KeyStore → KeyStore) : (s.updKey f).shp = s.shp := rfl
@[simp] theorem State.updKey_slt (f : KeyStore → KeyStore) : (s.updKey f).slt = s.slt := rfl
@[simp] theorem State.updKey_bhl (f : KeyStore → KeyStore) : (s.updKey f).bhl = s.bhl := rfl
@[simp] theorem State.updKey_pair (f : KeyStore → KeyStore) : (s.updKey f).pair = s.pair := rfl
@[simp] theorem State.updKey_cap0 (f : KeyStore → KeyStore) : (s.updKey f).cap0 = s.cap0 := rfl
@[simp] theorem State.updKey_cap1 (f : KeyStore → KeyStore) : (s.updKey f).cap1 = s.cap1 := rfl
@[simp] theorem State.updKey_out (f : KeyStore → KeyStore) : (s.updKey f).out = s.out := rfl
@[simp] theorem State.updKey_draws (f : KeyStore → KeyStore) : (s.updKey f).draws = s.draws := rfl
@[simp] theorem State.updKey_lossPending (f : KeyStore → KeyStore) : (s.updKey f).lossPending = s.lossPending := rfl
@[simp] theorem State.updKey_detail (f : KeyStore → KeyStore) : (s.updKey f).detail = s.detail := rfl
@[simp] theorem State.updKey_pending (f : KeyStore → KeyStore) : (s.updKey f).pending = s.pending := rfl
@[simp] theorem State.updKey_key (f : KeyStore → KeyStore) : (s.updKey f).key = f s.key := rfl

@[simp] theorem State.updCph_regs (f : Cipher → Cipher) : (s.updCph f).regs = s.regs := rfl
@[simp] theorem State.updCph_tabs (f : Cipher → Cipher) : (s.updCph f).tabs = s.tabs := rfl
@[simp] theorem State.updCph_dram (f : Cipher → Cipher) : (s.updCph f).dram = s.dram := rfl
@[simp] theorem State.updCph_clk (f : Cipher → Cipher) : (s.updCph f).clk = s.clk := rfl
@[simp] theorem State.updCph_pins (f : Cipher → Cipher) : (s.updCph f).pins = s.pins := rfl
@[simp] theorem State.updCph_fuses (f : Cipher → Cipher) : (s.updCph f).fuses = s.fuses := rfl
@[simp] theorem State.updCph_boot (f : Cipher → Cipher) : (s.updCph f).boot = s.boot := rfl
@[simp] theorem State.updCph_power (f : Cipher → Cipher) : (s.updCph f).power = s.power := rfl
@[simp] theorem State.updCph_ctl (f : Cipher → Cipher) : (s.updCph f).ctl = s.ctl := rfl
@[simp] theorem State.updCph_cur (f : Cipher → Cipher) : (s.updCph f).cur = s.cur := rfl
@[simp] theorem State.updCph_saf (f : Cipher → Cipher) : (s.updCph f).saf = s.saf := rfl
@[simp] theorem State.updCph_ports (f : Cipher → Cipher) : (s.updCph f).ports = s.ports := rfl
@[simp] theorem State.updCph_radio (f : Cipher → Cipher) : (s.updCph f).radio = s.radio := rfl
@[simp] theorem State.updCph_demods (f : Cipher → Cipher) : (s.updCph f).demods = s.demods := rfl
@[simp] theorem State.updCph_rxFlags (f : Cipher → Cipher) : (s.updCph f).rxFlags = s.rxFlags := rfl
@[simp] theorem State.updCph_time (f : Cipher → Cipher) : (s.updCph f).time = s.time := rfl
@[simp] theorem State.updCph_frz (f : Cipher → Cipher) : (s.updCph f).frz = s.frz := rfl
@[simp] theorem State.updCph_tamp (f : Cipher → Cipher) : (s.updCph f).tamp = s.tamp := rfl
@[simp] theorem State.updCph_mem (f : Cipher → Cipher) : (s.updCph f).mem = s.mem := rfl
@[simp] theorem State.updCph_fab (f : Cipher → Cipher) : (s.updCph f).fab = s.fab := rfl
@[simp] theorem State.updCph_key (f : Cipher → Cipher) : (s.updCph f).key = s.key := rfl
@[simp] theorem State.updCph_lcs (f : Cipher → Cipher) : (s.updCph f).lcs = s.lcs := rfl
@[simp] theorem State.updCph_cat (f : Cipher → Cipher) : (s.updCph f).cat = s.cat := rfl
@[simp] theorem State.updCph_xch (f : Cipher → Cipher) : (s.updCph f).xch = s.xch := rfl
@[simp] theorem State.updCph_shp (f : Cipher → Cipher) : (s.updCph f).shp = s.shp := rfl
@[simp] theorem State.updCph_slt (f : Cipher → Cipher) : (s.updCph f).slt = s.slt := rfl
@[simp] theorem State.updCph_bhl (f : Cipher → Cipher) : (s.updCph f).bhl = s.bhl := rfl
@[simp] theorem State.updCph_pair (f : Cipher → Cipher) : (s.updCph f).pair = s.pair := rfl
@[simp] theorem State.updCph_cap0 (f : Cipher → Cipher) : (s.updCph f).cap0 = s.cap0 := rfl
@[simp] theorem State.updCph_cap1 (f : Cipher → Cipher) : (s.updCph f).cap1 = s.cap1 := rfl
@[simp] theorem State.updCph_out (f : Cipher → Cipher) : (s.updCph f).out = s.out := rfl
@[simp] theorem State.updCph_draws (f : Cipher → Cipher) : (s.updCph f).draws = s.draws := rfl
@[simp] theorem State.updCph_lossPending (f : Cipher → Cipher) : (s.updCph f).lossPending = s.lossPending := rfl
@[simp] theorem State.updCph_detail (f : Cipher → Cipher) : (s.updCph f).detail = s.detail := rfl
@[simp] theorem State.updCph_pending (f : Cipher → Cipher) : (s.updCph f).pending = s.pending := rfl
@[simp] theorem State.updCph_cph (f : Cipher → Cipher) : (s.updCph f).cph = f s.cph := rfl

@[simp] theorem State.updTamp_regs (f : Tamp → Tamp) : (s.updTamp f).regs = s.regs := rfl
@[simp] theorem State.updTamp_tabs (f : Tamp → Tamp) : (s.updTamp f).tabs = s.tabs := rfl
@[simp] theorem State.updTamp_dram (f : Tamp → Tamp) : (s.updTamp f).dram = s.dram := rfl
@[simp] theorem State.updTamp_clk (f : Tamp → Tamp) : (s.updTamp f).clk = s.clk := rfl
@[simp] theorem State.updTamp_pins (f : Tamp → Tamp) : (s.updTamp f).pins = s.pins := rfl
@[simp] theorem State.updTamp_fuses (f : Tamp → Tamp) : (s.updTamp f).fuses = s.fuses := rfl
@[simp] theorem State.updTamp_boot (f : Tamp → Tamp) : (s.updTamp f).boot = s.boot := rfl
@[simp] theorem State.updTamp_power (f : Tamp → Tamp) : (s.updTamp f).power = s.power := rfl
@[simp] theorem State.updTamp_ctl (f : Tamp → Tamp) : (s.updTamp f).ctl = s.ctl := rfl
@[simp] theorem State.updTamp_cur (f : Tamp → Tamp) : (s.updTamp f).cur = s.cur := rfl
@[simp] theorem State.updTamp_saf (f : Tamp → Tamp) : (s.updTamp f).saf = s.saf := rfl
@[simp] theorem State.updTamp_ports (f : Tamp → Tamp) : (s.updTamp f).ports = s.ports := rfl
@[simp] theorem State.updTamp_radio (f : Tamp → Tamp) : (s.updTamp f).radio = s.radio := rfl
@[simp] theorem State.updTamp_demods (f : Tamp → Tamp) : (s.updTamp f).demods = s.demods := rfl
@[simp] theorem State.updTamp_rxFlags (f : Tamp → Tamp) : (s.updTamp f).rxFlags = s.rxFlags := rfl
@[simp] theorem State.updTamp_time (f : Tamp → Tamp) : (s.updTamp f).time = s.time := rfl
@[simp] theorem State.updTamp_frz (f : Tamp → Tamp) : (s.updTamp f).frz = s.frz := rfl
@[simp] theorem State.updTamp_mem (f : Tamp → Tamp) : (s.updTamp f).mem = s.mem := rfl
@[simp] theorem State.updTamp_fab (f : Tamp → Tamp) : (s.updTamp f).fab = s.fab := rfl
@[simp] theorem State.updTamp_key (f : Tamp → Tamp) : (s.updTamp f).key = s.key := rfl
@[simp] theorem State.updTamp_cph (f : Tamp → Tamp) : (s.updTamp f).cph = s.cph := rfl
@[simp] theorem State.updTamp_lcs (f : Tamp → Tamp) : (s.updTamp f).lcs = s.lcs := rfl
@[simp] theorem State.updTamp_cat (f : Tamp → Tamp) : (s.updTamp f).cat = s.cat := rfl
@[simp] theorem State.updTamp_xch (f : Tamp → Tamp) : (s.updTamp f).xch = s.xch := rfl
@[simp] theorem State.updTamp_shp (f : Tamp → Tamp) : (s.updTamp f).shp = s.shp := rfl
@[simp] theorem State.updTamp_slt (f : Tamp → Tamp) : (s.updTamp f).slt = s.slt := rfl
@[simp] theorem State.updTamp_bhl (f : Tamp → Tamp) : (s.updTamp f).bhl = s.bhl := rfl
@[simp] theorem State.updTamp_pair (f : Tamp → Tamp) : (s.updTamp f).pair = s.pair := rfl
@[simp] theorem State.updTamp_cap0 (f : Tamp → Tamp) : (s.updTamp f).cap0 = s.cap0 := rfl
@[simp] theorem State.updTamp_cap1 (f : Tamp → Tamp) : (s.updTamp f).cap1 = s.cap1 := rfl
@[simp] theorem State.updTamp_out (f : Tamp → Tamp) : (s.updTamp f).out = s.out := rfl
@[simp] theorem State.updTamp_draws (f : Tamp → Tamp) : (s.updTamp f).draws = s.draws := rfl
@[simp] theorem State.updTamp_lossPending (f : Tamp → Tamp) : (s.updTamp f).lossPending = s.lossPending := rfl
@[simp] theorem State.updTamp_detail (f : Tamp → Tamp) : (s.updTamp f).detail = s.detail := rfl
@[simp] theorem State.updTamp_pending (f : Tamp → Tamp) : (s.updTamp f).pending = s.pending := rfl
@[simp] theorem State.updTamp_tamp (f : Tamp → Tamp) : (s.updTamp f).tamp = f s.tamp := rfl

@[simp] theorem State.updLcs_regs (f : Lcs → Lcs) : (s.updLcs f).regs = s.regs := rfl
@[simp] theorem State.updLcs_tabs (f : Lcs → Lcs) : (s.updLcs f).tabs = s.tabs := rfl
@[simp] theorem State.updLcs_dram (f : Lcs → Lcs) : (s.updLcs f).dram = s.dram := rfl
@[simp] theorem State.updLcs_clk (f : Lcs → Lcs) : (s.updLcs f).clk = s.clk := rfl
@[simp] theorem State.updLcs_pins (f : Lcs → Lcs) : (s.updLcs f).pins = s.pins := rfl
@[simp] theorem State.updLcs_fuses (f : Lcs → Lcs) : (s.updLcs f).fuses = s.fuses := rfl
@[simp] theorem State.updLcs_boot (f : Lcs → Lcs) : (s.updLcs f).boot = s.boot := rfl
@[simp] theorem State.updLcs_power (f : Lcs → Lcs) : (s.updLcs f).power = s.power := rfl
@[simp] theorem State.updLcs_ctl (f : Lcs → Lcs) : (s.updLcs f).ctl = s.ctl := rfl
@[simp] theorem State.updLcs_cur (f : Lcs → Lcs) : (s.updLcs f).cur = s.cur := rfl
@[simp] theorem State.updLcs_saf (f : Lcs → Lcs) : (s.updLcs f).saf = s.saf := rfl
@[simp] theorem State.updLcs_ports (f : Lcs → Lcs) : (s.updLcs f).ports = s.ports := rfl
@[simp] theorem State.updLcs_radio (f : Lcs → Lcs) : (s.updLcs f).radio = s.radio := rfl
@[simp] theorem State.updLcs_demods (f : Lcs → Lcs) : (s.updLcs f).demods = s.demods := rfl
@[simp] theorem State.updLcs_rxFlags (f : Lcs → Lcs) : (s.updLcs f).rxFlags = s.rxFlags := rfl
@[simp] theorem State.updLcs_time (f : Lcs → Lcs) : (s.updLcs f).time = s.time := rfl
@[simp] theorem State.updLcs_frz (f : Lcs → Lcs) : (s.updLcs f).frz = s.frz := rfl
@[simp] theorem State.updLcs_tamp (f : Lcs → Lcs) : (s.updLcs f).tamp = s.tamp := rfl
@[simp] theorem State.updLcs_mem (f : Lcs → Lcs) : (s.updLcs f).mem = s.mem := rfl
@[simp] theorem State.updLcs_fab (f : Lcs → Lcs) : (s.updLcs f).fab = s.fab := rfl
@[simp] theorem State.updLcs_key (f : Lcs → Lcs) : (s.updLcs f).key = s.key := rfl
@[simp] theorem State.updLcs_cph (f : Lcs → Lcs) : (s.updLcs f).cph = s.cph := rfl
@[simp] theorem State.updLcs_cat (f : Lcs → Lcs) : (s.updLcs f).cat = s.cat := rfl
@[simp] theorem State.updLcs_xch (f : Lcs → Lcs) : (s.updLcs f).xch = s.xch := rfl
@[simp] theorem State.updLcs_shp (f : Lcs → Lcs) : (s.updLcs f).shp = s.shp := rfl
@[simp] theorem State.updLcs_slt (f : Lcs → Lcs) : (s.updLcs f).slt = s.slt := rfl
@[simp] theorem State.updLcs_bhl (f : Lcs → Lcs) : (s.updLcs f).bhl = s.bhl := rfl
@[simp] theorem State.updLcs_pair (f : Lcs → Lcs) : (s.updLcs f).pair = s.pair := rfl
@[simp] theorem State.updLcs_cap0 (f : Lcs → Lcs) : (s.updLcs f).cap0 = s.cap0 := rfl
@[simp] theorem State.updLcs_cap1 (f : Lcs → Lcs) : (s.updLcs f).cap1 = s.cap1 := rfl
@[simp] theorem State.updLcs_out (f : Lcs → Lcs) : (s.updLcs f).out = s.out := rfl
@[simp] theorem State.updLcs_draws (f : Lcs → Lcs) : (s.updLcs f).draws = s.draws := rfl
@[simp] theorem State.updLcs_lossPending (f : Lcs → Lcs) : (s.updLcs f).lossPending = s.lossPending := rfl
@[simp] theorem State.updLcs_detail (f : Lcs → Lcs) : (s.updLcs f).detail = s.detail := rfl
@[simp] theorem State.updLcs_pending (f : Lcs → Lcs) : (s.updLcs f).pending = s.pending := rfl
@[simp] theorem State.updLcs_lcs (f : Lcs → Lcs) : (s.updLcs f).lcs = f s.lcs := rfl

@[simp] theorem State.updPair_regs (f : Pair → Pair) : (s.updPair f).regs = s.regs := rfl
@[simp] theorem State.updPair_tabs (f : Pair → Pair) : (s.updPair f).tabs = s.tabs := rfl
@[simp] theorem State.updPair_dram (f : Pair → Pair) : (s.updPair f).dram = s.dram := rfl
@[simp] theorem State.updPair_clk (f : Pair → Pair) : (s.updPair f).clk = s.clk := rfl
@[simp] theorem State.updPair_pins (f : Pair → Pair) : (s.updPair f).pins = s.pins := rfl
@[simp] theorem State.updPair_fuses (f : Pair → Pair) : (s.updPair f).fuses = s.fuses := rfl
@[simp] theorem State.updPair_boot (f : Pair → Pair) : (s.updPair f).boot = s.boot := rfl
@[simp] theorem State.updPair_power (f : Pair → Pair) : (s.updPair f).power = s.power := rfl
@[simp] theorem State.updPair_ctl (f : Pair → Pair) : (s.updPair f).ctl = s.ctl := rfl
@[simp] theorem State.updPair_cur (f : Pair → Pair) : (s.updPair f).cur = s.cur := rfl
@[simp] theorem State.updPair_saf (f : Pair → Pair) : (s.updPair f).saf = s.saf := rfl
@[simp] theorem State.updPair_ports (f : Pair → Pair) : (s.updPair f).ports = s.ports := rfl
@[simp] theorem State.updPair_radio (f : Pair → Pair) : (s.updPair f).radio = s.radio := rfl
@[simp] theorem State.updPair_demods (f : Pair → Pair) : (s.updPair f).demods = s.demods := rfl
@[simp] theorem State.updPair_rxFlags (f : Pair → Pair) : (s.updPair f).rxFlags = s.rxFlags := rfl
@[simp] theorem State.updPair_time (f : Pair → Pair) : (s.updPair f).time = s.time := rfl
@[simp] theorem State.updPair_frz (f : Pair → Pair) : (s.updPair f).frz = s.frz := rfl
@[simp] theorem State.updPair_tamp (f : Pair → Pair) : (s.updPair f).tamp = s.tamp := rfl
@[simp] theorem State.updPair_mem (f : Pair → Pair) : (s.updPair f).mem = s.mem := rfl
@[simp] theorem State.updPair_fab (f : Pair → Pair) : (s.updPair f).fab = s.fab := rfl
@[simp] theorem State.updPair_key (f : Pair → Pair) : (s.updPair f).key = s.key := rfl
@[simp] theorem State.updPair_cph (f : Pair → Pair) : (s.updPair f).cph = s.cph := rfl
@[simp] theorem State.updPair_lcs (f : Pair → Pair) : (s.updPair f).lcs = s.lcs := rfl
@[simp] theorem State.updPair_cat (f : Pair → Pair) : (s.updPair f).cat = s.cat := rfl
@[simp] theorem State.updPair_xch (f : Pair → Pair) : (s.updPair f).xch = s.xch := rfl
@[simp] theorem State.updPair_shp (f : Pair → Pair) : (s.updPair f).shp = s.shp := rfl
@[simp] theorem State.updPair_slt (f : Pair → Pair) : (s.updPair f).slt = s.slt := rfl
@[simp] theorem State.updPair_bhl (f : Pair → Pair) : (s.updPair f).bhl = s.bhl := rfl
@[simp] theorem State.updPair_cap0 (f : Pair → Pair) : (s.updPair f).cap0 = s.cap0 := rfl
@[simp] theorem State.updPair_cap1 (f : Pair → Pair) : (s.updPair f).cap1 = s.cap1 := rfl
@[simp] theorem State.updPair_out (f : Pair → Pair) : (s.updPair f).out = s.out := rfl
@[simp] theorem State.updPair_draws (f : Pair → Pair) : (s.updPair f).draws = s.draws := rfl
@[simp] theorem State.updPair_lossPending (f : Pair → Pair) : (s.updPair f).lossPending = s.lossPending := rfl
@[simp] theorem State.updPair_detail (f : Pair → Pair) : (s.updPair f).detail = s.detail := rfl
@[simp] theorem State.updPair_pending (f : Pair → Pair) : (s.updPair f).pending = s.pending := rfl
@[simp] theorem State.updPair_pair (f : Pair → Pair) : (s.updPair f).pair = f s.pair := rfl

@[simp] theorem State.updShp_regs (f : Shaper → Shaper) : (s.updShp f).regs = s.regs := rfl
@[simp] theorem State.updShp_tabs (f : Shaper → Shaper) : (s.updShp f).tabs = s.tabs := rfl
@[simp] theorem State.updShp_dram (f : Shaper → Shaper) : (s.updShp f).dram = s.dram := rfl
@[simp] theorem State.updShp_clk (f : Shaper → Shaper) : (s.updShp f).clk = s.clk := rfl
@[simp] theorem State.updShp_pins (f : Shaper → Shaper) : (s.updShp f).pins = s.pins := rfl
@[simp] theorem State.updShp_fuses (f : Shaper → Shaper) : (s.updShp f).fuses = s.fuses := rfl
@[simp] theorem State.updShp_boot (f : Shaper → Shaper) : (s.updShp f).boot = s.boot := rfl
@[simp] theorem State.updShp_power (f : Shaper → Shaper) : (s.updShp f).power = s.power := rfl
@[simp] theorem State.updShp_ctl (f : Shaper → Shaper) : (s.updShp f).ctl = s.ctl := rfl
@[simp] theorem State.updShp_cur (f : Shaper → Shaper) : (s.updShp f).cur = s.cur := rfl
@[simp] theorem State.updShp_saf (f : Shaper → Shaper) : (s.updShp f).saf = s.saf := rfl
@[simp] theorem State.updShp_ports (f : Shaper → Shaper) : (s.updShp f).ports = s.ports := rfl
@[simp] theorem State.updShp_radio (f : Shaper → Shaper) : (s.updShp f).radio = s.radio := rfl
@[simp] theorem State.updShp_demods (f : Shaper → Shaper) : (s.updShp f).demods = s.demods := rfl
@[simp] theorem State.updShp_rxFlags (f : Shaper → Shaper) : (s.updShp f).rxFlags = s.rxFlags := rfl
@[simp] theorem State.updShp_time (f : Shaper → Shaper) : (s.updShp f).time = s.time := rfl
@[simp] theorem State.updShp_frz (f : Shaper → Shaper) : (s.updShp f).frz = s.frz := rfl
@[simp] theorem State.updShp_tamp (f : Shaper → Shaper) : (s.updShp f).tamp = s.tamp := rfl
@[simp] theorem State.updShp_mem (f : Shaper → Shaper) : (s.updShp f).mem = s.mem := rfl
@[simp] theorem State.updShp_fab (f : Shaper → Shaper) : (s.updShp f).fab = s.fab := rfl
@[simp] theorem State.updShp_key (f : Shaper → Shaper) : (s.updShp f).key = s.key := rfl
@[simp] theorem State.updShp_cph (f : Shaper → Shaper) : (s.updShp f).cph = s.cph := rfl
@[simp] theorem State.updShp_lcs (f : Shaper → Shaper) : (s.updShp f).lcs = s.lcs := rfl
@[simp] theorem State.updShp_cat (f : Shaper → Shaper) : (s.updShp f).cat = s.cat := rfl
@[simp] theorem State.updShp_xch (f : Shaper → Shaper) : (s.updShp f).xch = s.xch := rfl
@[simp] theorem State.updShp_slt (f : Shaper → Shaper) : (s.updShp f).slt = s.slt := rfl
@[simp] theorem State.updShp_bhl (f : Shaper → Shaper) : (s.updShp f).bhl = s.bhl := rfl
@[simp] theorem State.updShp_pair (f : Shaper → Shaper) : (s.updShp f).pair = s.pair := rfl
@[simp] theorem State.updShp_cap0 (f : Shaper → Shaper) : (s.updShp f).cap0 = s.cap0 := rfl
@[simp] theorem State.updShp_cap1 (f : Shaper → Shaper) : (s.updShp f).cap1 = s.cap1 := rfl
@[simp] theorem State.updShp_out (f : Shaper → Shaper) : (s.updShp f).out = s.out := rfl
@[simp] theorem State.updShp_draws (f : Shaper → Shaper) : (s.updShp f).draws = s.draws := rfl
@[simp] theorem State.updShp_lossPending (f : Shaper → Shaper) : (s.updShp f).lossPending = s.lossPending := rfl
@[simp] theorem State.updShp_detail (f : Shaper → Shaper) : (s.updShp f).detail = s.detail := rfl
@[simp] theorem State.updShp_pending (f : Shaper → Shaper) : (s.updShp f).pending = s.pending := rfl
@[simp] theorem State.updShp_shp (f : Shaper → Shaper) : (s.updShp f).shp = f s.shp := rfl

@[simp] theorem State.updXch_regs (f : Exchange → Exchange) : (s.updXch f).regs = s.regs := rfl
@[simp] theorem State.updXch_tabs (f : Exchange → Exchange) : (s.updXch f).tabs = s.tabs := rfl
@[simp] theorem State.updXch_dram (f : Exchange → Exchange) : (s.updXch f).dram = s.dram := rfl
@[simp] theorem State.updXch_clk (f : Exchange → Exchange) : (s.updXch f).clk = s.clk := rfl
@[simp] theorem State.updXch_pins (f : Exchange → Exchange) : (s.updXch f).pins = s.pins := rfl
@[simp] theorem State.updXch_fuses (f : Exchange → Exchange) : (s.updXch f).fuses = s.fuses := rfl
@[simp] theorem State.updXch_boot (f : Exchange → Exchange) : (s.updXch f).boot = s.boot := rfl
@[simp] theorem State.updXch_power (f : Exchange → Exchange) : (s.updXch f).power = s.power := rfl
@[simp] theorem State.updXch_ctl (f : Exchange → Exchange) : (s.updXch f).ctl = s.ctl := rfl
@[simp] theorem State.updXch_cur (f : Exchange → Exchange) : (s.updXch f).cur = s.cur := rfl
@[simp] theorem State.updXch_saf (f : Exchange → Exchange) : (s.updXch f).saf = s.saf := rfl
@[simp] theorem State.updXch_ports (f : Exchange → Exchange) : (s.updXch f).ports = s.ports := rfl
@[simp] theorem State.updXch_radio (f : Exchange → Exchange) : (s.updXch f).radio = s.radio := rfl
@[simp] theorem State.updXch_demods (f : Exchange → Exchange) : (s.updXch f).demods = s.demods := rfl
@[simp] theorem State.updXch_rxFlags (f : Exchange → Exchange) : (s.updXch f).rxFlags = s.rxFlags := rfl
@[simp] theorem State.updXch_time (f : Exchange → Exchange) : (s.updXch f).time = s.time := rfl
@[simp] theorem State.updXch_frz (f : Exchange → Exchange) : (s.updXch f).frz = s.frz := rfl
@[simp] theorem State.updXch_tamp (f : Exchange → Exchange) : (s.updXch f).tamp = s.tamp := rfl
@[simp] theorem State.updXch_mem (f : Exchange → Exchange) : (s.updXch f).mem = s.mem := rfl
@[simp] theorem State.updXch_fab (f : Exchange → Exchange) : (s.updXch f).fab = s.fab := rfl
@[simp] theorem State.updXch_key (f : Exchange → Exchange) : (s.updXch f).key = s.key := rfl
@[simp] theorem State.updXch_cph (f : Exchange → Exchange) : (s.updXch f).cph = s.cph := rfl
@[simp] theorem State.updXch_lcs (f : Exchange → Exchange) : (s.updXch f).lcs = s.lcs := rfl
@[simp] theorem State.updXch_cat (f : Exchange → Exchange) : (s.updXch f).cat = s.cat := rfl
@[simp] theorem State.updXch_shp (f : Exchange → Exchange) : (s.updXch f).shp = s.shp := rfl
@[simp] theorem State.updXch_slt (f : Exchange → Exchange) : (s.updXch f).slt = s.slt := rfl
@[simp] theorem State.updXch_bhl (f : Exchange → Exchange) : (s.updXch f).bhl = s.bhl := rfl
@[simp] theorem State.updXch_pair (f : Exchange → Exchange) : (s.updXch f).pair = s.pair := rfl
@[simp] theorem State.updXch_cap0 (f : Exchange → Exchange) : (s.updXch f).cap0 = s.cap0 := rfl
@[simp] theorem State.updXch_cap1 (f : Exchange → Exchange) : (s.updXch f).cap1 = s.cap1 := rfl
@[simp] theorem State.updXch_out (f : Exchange → Exchange) : (s.updXch f).out = s.out := rfl
@[simp] theorem State.updXch_draws (f : Exchange → Exchange) : (s.updXch f).draws = s.draws := rfl
@[simp] theorem State.updXch_lossPending (f : Exchange → Exchange) : (s.updXch f).lossPending = s.lossPending := rfl
@[simp] theorem State.updXch_detail (f : Exchange → Exchange) : (s.updXch f).detail = s.detail := rfl
@[simp] theorem State.updXch_pending (f : Exchange → Exchange) : (s.updXch f).pending = s.pending := rfl
@[simp] theorem State.updXch_xch (f : Exchange → Exchange) : (s.updXch f).xch = f s.xch := rfl

@[simp] theorem State.updSlt_regs (f : Slots → Slots) : (s.updSlt f).regs = s.regs := rfl
@[simp] theorem State.updSlt_tabs (f : Slots → Slots) : (s.updSlt f).tabs = s.tabs := rfl
@[simp] theorem State.updSlt_dram (f : Slots → Slots) : (s.updSlt f).dram = s.dram := rfl
@[simp] theorem State.updSlt_clk (f : Slots → Slots) : (s.updSlt f).clk = s.clk := rfl
@[simp] theorem State.updSlt_pins (f : Slots → Slots) : (s.updSlt f).pins = s.pins := rfl
@[simp] theorem State.updSlt_fuses (f : Slots → Slots) : (s.updSlt f).fuses = s.fuses := rfl
@[simp] theorem State.updSlt_boot (f : Slots → Slots) : (s.updSlt f).boot = s.boot := rfl
@[simp] theorem State.updSlt_power (f : Slots → Slots) : (s.updSlt f).power = s.power := rfl
@[simp] theorem State.updSlt_ctl (f : Slots → Slots) : (s.updSlt f).ctl = s.ctl := rfl
@[simp] theorem State.updSlt_cur (f : Slots → Slots) : (s.updSlt f).cur = s.cur := rfl
@[simp] theorem State.updSlt_saf (f : Slots → Slots) : (s.updSlt f).saf = s.saf := rfl
@[simp] theorem State.updSlt_ports (f : Slots → Slots) : (s.updSlt f).ports = s.ports := rfl
@[simp] theorem State.updSlt_radio (f : Slots → Slots) : (s.updSlt f).radio = s.radio := rfl
@[simp] theorem State.updSlt_demods (f : Slots → Slots) : (s.updSlt f).demods = s.demods := rfl
@[simp] theorem State.updSlt_rxFlags (f : Slots → Slots) : (s.updSlt f).rxFlags = s.rxFlags := rfl
@[simp] theorem State.updSlt_time (f : Slots → Slots) : (s.updSlt f).time = s.time := rfl
@[simp] theorem State.updSlt_frz (f : Slots → Slots) : (s.updSlt f).frz = s.frz := rfl
@[simp] theorem State.updSlt_tamp (f : Slots → Slots) : (s.updSlt f).tamp = s.tamp := rfl
@[simp] theorem State.updSlt_mem (f : Slots → Slots) : (s.updSlt f).mem = s.mem := rfl
@[simp] theorem State.updSlt_fab (f : Slots → Slots) : (s.updSlt f).fab = s.fab := rfl
@[simp] theorem State.updSlt_key (f : Slots → Slots) : (s.updSlt f).key = s.key := rfl
@[simp] theorem State.updSlt_cph (f : Slots → Slots) : (s.updSlt f).cph = s.cph := rfl
@[simp] theorem State.updSlt_lcs (f : Slots → Slots) : (s.updSlt f).lcs = s.lcs := rfl
@[simp] theorem State.updSlt_cat (f : Slots → Slots) : (s.updSlt f).cat = s.cat := rfl
@[simp] theorem State.updSlt_xch (f : Slots → Slots) : (s.updSlt f).xch = s.xch := rfl
@[simp] theorem State.updSlt_shp (f : Slots → Slots) : (s.updSlt f).shp = s.shp := rfl
@[simp] theorem State.updSlt_bhl (f : Slots → Slots) : (s.updSlt f).bhl = s.bhl := rfl
@[simp] theorem State.updSlt_pair (f : Slots → Slots) : (s.updSlt f).pair = s.pair := rfl
@[simp] theorem State.updSlt_cap0 (f : Slots → Slots) : (s.updSlt f).cap0 = s.cap0 := rfl
@[simp] theorem State.updSlt_cap1 (f : Slots → Slots) : (s.updSlt f).cap1 = s.cap1 := rfl
@[simp] theorem State.updSlt_out (f : Slots → Slots) : (s.updSlt f).out = s.out := rfl
@[simp] theorem State.updSlt_draws (f : Slots → Slots) : (s.updSlt f).draws = s.draws := rfl
@[simp] theorem State.updSlt_lossPending (f : Slots → Slots) : (s.updSlt f).lossPending = s.lossPending := rfl
@[simp] theorem State.updSlt_detail (f : Slots → Slots) : (s.updSlt f).detail = s.detail := rfl
@[simp] theorem State.updSlt_pending (f : Slots → Slots) : (s.updSlt f).pending = s.pending := rfl
@[simp] theorem State.updSlt_slt (f : Slots → Slots) : (s.updSlt f).slt = f s.slt := rfl

@[simp] theorem State.emit_out (o : Out) : (s.emit o).out = o :: s.out := rfl
@[simp] theorem State.drawn_draws : s.drawn.draws = s.draws + 1 := rfl
@[simp] theorem State.elapse_now (dt : Nat) : (s.elapse dt).clk.now = s.clk.now + dt := rfl
@[simp] theorem State.elapse_running (dt : Nat) : (s.elapse dt).clk.running = s.clk.running := rfl
@[simp] theorem State.elapse_core (dt : Nat) : (s.elapse dt).clk.core = s.clk.core := rfl

end Sys2Proof.Machine
end

