-- ==== Sys2Proof/Laws/Registers.lean ====
section
/-! SUPPORT. What a read of a register gives after an update, and what notices, records of faulty accesses and refusals leave as it was. -/

namespace Sys2Proof.Machine

theorem State.reg_setReg (s : State) (a b : Nat) (w : Word) : (s.setReg a w).reg b = if b = a then w else s.reg b := by
  unfold State.setReg State.reg
  exact Sparse.get_set _ _ _ _ _

@[simp] theorem State.reg_setReg_self (s : State) (a : Nat) (w : Word) : (s.setReg a w).reg a = w := by simp [State.reg_setReg]

theorem State.reg_setReg_ne (s : State) {a b : Nat} (w : Word) (h : b ≠ a) : (s.setReg a w).reg b = s.reg b := by simp [State.reg_setReg, h]

theorem State.reg_setF_ne (s : State) {f : Field} {b : Nat} (v : Nat) (h : b ≠ f.addr) : (s.setF f v).reg b = s.reg b := State.reg_setReg_ne s _ h

theorem State.reg_incF_ne (s : State) {f : Field} {b : Nat} (h : b ≠ f.addr) : (s.incF f).reg b = s.reg b := State.reg_setReg_ne s _ h

theorem State.reg_satF_ne (s : State) {f : Field} {b : Nat} (v : Nat) (h : b ≠ f.addr) : (s.satF f v).reg b = s.reg b := State.reg_setReg_ne s _ h

theorem getLsbD_putBits (w : Word) (hi lo v i : Nat) (h1 : lo ≤ hi) (h2 : hi < 32) :
    (putBits w hi lo v).getLsbD i = if lo ≤ i ∧ i ≤ hi then v.testBit (i - lo) else w.getLsbD i := by
  unfold putBits
  simp only [BitVec.getLsbD_or, BitVec.getLsbD_and, BitVec.getLsbD_not, BitVec.getLsbD_ofNat, Nat.testBit_mul_two_pow, Nat.testBit_mod_two_pow]
  by_cases hb : i < 32
  · by_cases hl : lo ≤ i
    · by_cases hh : i ≤ hi
      · have b : i - lo < hi + 1 - lo := by omega
        simp [hb, hl, hh, b]
      · have b : ¬ i - lo < hi + 1 - lo := by omega
        simp [hb, hl, hh, b]
    · simp [hb, hl]
  · have hh : ¬ i ≤ hi := by omega
    have : w.getLsbD i = false := BitVec.getLsbD_of_ge w i (by omega)
    simp [hb, hh, this]

theorem testBit_bitsOf (w : Word) (hi lo i : Nat) : (bitsOf w hi lo).testBit i = (decide (i < hi + 1 - lo) && w.getLsbD (lo + i)) := by
  unfold bitsOf
  rw [Nat.testBit_mod_two_pow, Nat.testBit_div_two_pow, Nat.add_comm i lo]
  rfl

theorem bitsOf_putBits (w : Word) {hi lo : Nat} (v : Nat) (h1 : lo ≤ hi) (h2 : hi < 32) : bitsOf (putBits w hi lo v) hi lo = v % 2 ^ (hi + 1 - lo) := by
  apply Nat.eq_of_testBit_eq
  intro i
  rw [testBit_bitsOf, getLsbD_putBits _ _ _ _ _ h1 h2, Nat.testBit_mod_two_pow]
  by_cases h : i < hi + 1 - lo
  · have a : lo ≤ lo + i ∧ lo + i ≤ hi := by omega
    simp [a]
  · simp [h]

theorem bitsOf_putBits_ne (w : Word) {hi lo hi' lo' : Nat} (v : Nat) (h1 : lo ≤ hi) (h2 : hi < 32) (h : hi < lo' ∨ hi' < lo) :
    bitsOf (putBits w hi lo v) hi' lo' = bitsOf w hi' lo' := by
  apply Nat.eq_of_testBit_eq
  intro i
  rw [testBit_bitsOf, testBit_bitsOf, getLsbD_putBits _ _ _ _ _ h1 h2]
  by_cases hc : i < hi' + 1 - lo'
  · have a : ¬ (lo ≤ lo' + i ∧ lo' + i ≤ hi) := by omega
    rw [if_neg a]
  · simp [hc]
theorem State.getF_setF (s : State) {f : Field} (v : Nat) (h1 : f.lo ≤ f.hi) (h2 : f.hi < 32) : (s.setF f v).getF f = v % 2 ^ (f.hi + 1 - f.lo) := by
  unfold State.setF State.getF
  rw [State.reg_setReg_self]
  exact bitsOf_putBits _ _ h1 h2

theorem State.getF_of_reg {s t : State} {f : Field} (h : t.reg f.addr = s.reg f.addr) : t.getF f = s.getF f := by
  unfold State.getF
  rw [h]

theorem State.getF_setF_ne (s : State) {f g : Field} (v : Nat) (h : g.addr ≠ f.addr) : (s.setF f v).getF g = s.getF g := State.getF_of_reg (State.reg_setF_ne s v h)

theorem State.getF_setF_disj (s : State) {f g : Field} (v : Nat) (h1 : f.lo ≤ f.hi) (h2 : f.hi < 32) (h : f.hi < g.lo ∨ g.hi < f.lo) : (s.setF f v).getF g = s.getF g := by
  by_cases ha : g.addr = f.addr
  · unfold State.getF State.setF
    rw [ha, State.reg_setReg_self]
    exact bitsOf_putBits_ne _ _ h1 h2 h
  · exact State.getF_setF_ne s v ha

/-- What the registers, the memory and the record of outputs hold after a notice may differ; every other part stands. -/
theorem raiseVector_reg {v : Nat} {s : State} {a : Nat} (h : a ≠ 0x60) (h' : a ≠ 0x64) : (raiseVector v s).reg a = s.reg a := by
  unfold raiseVector
  split
  · rfl
  · split
    · rfl
    · exact State.reg_setF_ne s _ (by unfold vectorField; split <;> assumption)

theorem State.reg_putBytes {s : State} {base n a : Nat} {l : List Byte} : (State.putBytes base n a l s).regs = s.regs := by
  induction l generalizing a s with
  | nil => rfl
  | cons c l ih => unfold State.putBytes; rw [ih]; split <;> rfl

/-- The state without its registers, its memory, the safety log and the record of outputs, which a notice may change. -/
def State.rest (s : State) : State :=
  { s with regs := [], dram := [], mem := State.reset.mem, saf := State.reset.saf, out := [], lossPending := false }

theorem State.rest_putBytes {s : State} {base n a : Nat} {l : List Byte} : (State.putBytes base n a l s).rest = s.rest := by
  induction l generalizing a s with
  | nil => rfl
  | cons c l ih => unfold State.putBytes; rw [ih]; split <;> rfl

theorem State.reg_mendWords {s : State} {a n k : Nat} : (State.mendWords a n k s).regs = s.regs := by
  induction k generalizing s with
  | zero => rfl
  | succ k ih => unfold State.mendWords; rw [ih]; dsimp only; split <;> rfl

theorem State.rest_mendWords {s : State} {a n k : Nat} : (State.mendWords a n k s).rest = s.rest := by
  induction k generalizing s with
  | zero => rfl
  | succ k ih => unfold State.mendWords; rw [ih]; dsimp only; split <;> rfl

theorem State.regs_setBytes (s : State) (a : Nat) (l : List Byte) : (s.setBytes a l).regs = s.regs := by
  unfold State.setBytes
  split
  · rfl
  · dsimp only
    rw [State.reg_mendWords, State.reg_putBytes]
    rfl

theorem State.rest_setBytes (s : State) (a : Nat) (l : List Byte) : (s.setBytes a l).rest = s.rest := by
  unfold State.setBytes
  split
  · rfl
  · dsimp only
    rw [State.rest_mendWords, State.rest_putBytes]
    rfl

theorem raiseVector_rest {v : Nat} {s : State} : (raiseVector v s).rest = s.rest := by
  unfold raiseVector
  split
  · rfl
  · split <;> rfl

theorem noticeRing_rest {k : NoticeKind} {status port arg : Nat} {s : State} : (noticeRing k status port arg s).rest = s.rest := by
  unfold noticeRing
  split
  · exact raiseVector_rest
  · exact State.rest_setBytes _ _ _

theorem noticeRing_reg {k : NoticeKind} {status port arg : Nat} {s : State} {a : Nat} (h : a ∉ [0x48, 0x50, 0x60, 0x64]) :
    (noticeRing k status port arg s).reg a = s.reg a := by
  simp only [List.mem_cons, List.not_mem_nil, or_false, not_or] at h
  unfold noticeRing
  split
  · exact (raiseVector_reg h.2.2.1 h.2.2.2).trans (State.reg_satF_ne s 1 h.2.1)
  · have k1 := State.reg_incF_ne (s.setBytes (s.getF F.TOP_NRING_BASE_BASE / (16 * nringSize s) * (16 * nringSize s) + 16 * (s.getF F.TOP_NRING_WR_WR % nringSize s)) (noticeBytes k status port arg s))
      (f := F.TOP_NRING_WR_WR) (b := a) h.1
    refine k1.trans ?_
    unfold State.reg
    rw [State.regs_setBytes]

/-- A notice changes no register but those of the ring, the pending bits and CUR_ALERT_STATUS. -/
theorem notify_reg {k : NoticeKind} {status port arg : Nat} {s : State} {a : Nat} (h : a ∉ [0x48, 0x50, 0x60, 0x64, 0x30040]) :
    (notify k status port arg s).reg a = s.reg a := by
  have h1 : a ∉ [0x48, 0x50, 0x60, 0x64] := fun m => h (List.mem_append_left [0x30040] m)
  simp only [List.mem_cons, List.not_mem_nil, or_false, not_or] at h
  unfold notify
  dsimp only
  have hl : ∀ u : State, u.reg a = s.reg a → (if k.safety = true then logEntry k status port arg u else u).reg a = s.reg a := by
    intro u hu
    split
    · exact (State.reg_setF_ne _ 1 h.2.2.2.2).trans hu
    · exact hu
  split
  · rw [raiseVector_reg h.2.2.1 h.2.2.2.1]
    exact hl _ (noticeRing_reg h1)
  · exact hl _ rfl

theorem notify_getF {k : NoticeKind} {status port arg : Nat} {s : State} {f : Field} (h : f.addr ∉ [0x48, 0x50, 0x60, 0x64, 0x30040]) :
    (notify k status port arg s).getF f = s.getF f := State.getF_of_reg (notify_reg h)

theorem notify_rest {k : NoticeKind} {status port arg : Nat} {s : State} : (notify k status port arg s).rest = s.rest := by
  unfold notify
  dsimp only
  have hl : ∀ u : State, u.rest = s.rest → (if k.safety = true then logEntry k status port arg u else u).rest = s.rest := by
    intro u hu
    split
    · exact hu
    · exact hu
  split
  · rw [raiseVector_rest]
    exact hl _ noticeRing_rest
  · exact hl _ rfl

/-- What the record of a faulty access changes: DETAIL, and TOP_ACCESS_ERR when it holds none. -/
theorem accessErr_cases (m : Master) (kind addr : Nat) (s : State) :
    ∃ d, accessErr m kind addr s = { s with detail := d } ∨ ∃ w, accessErr m kind addr s = ({ s with detail := d } : State).setReg 8 w := by
  refine ⟨if s.detail = 0 then 9 else s.detail, ?_⟩
  unfold accessErr
  extract_lets s1
  split
  · exact .inl rfl
  · exact .inr ⟨_, rfl⟩

theorem accessErr_reg {m : Master} {kind addr : Nat} {s : State} {a : Nat} (h : a ≠ 8) : (accessErr m kind addr s).reg a = s.reg a := by
  obtain ⟨d, e | ⟨w, e⟩⟩ := accessErr_cases m kind addr s <;> rw [e]
  · rfl
  · exact State.reg_setReg_ne _ _ h

@[simp] theorem notify_tabs (k : NoticeKind) (status port arg : Nat) (s : State) : (notify k status port arg s).tabs = s.tabs := by
  have h := congrArg State.tabs (notify_rest (k := k) (status := status) (port := port) (arg := arg) (s := s))
  exact h
@[simp] theorem notify_clk (k : NoticeKind) (status port arg : Nat) (s : State) : (notify k status port arg s).clk = s.clk := by
  have h := congrArg State.clk (notify_rest (k := k) (status := status) (port := port) (arg := arg) (s := s))
  exact h
@[simp] theorem notify_pins (k : NoticeKind) (status port arg : Nat) (s : State) : (notify k status port arg s).pins = s.pins := by
  have h := congrArg State.pins (notify_rest (k := k) (status := status) (port := port) (arg := arg) (s := s))
  exact h
@[simp] theorem notify_fuses (k : NoticeKind) (status port arg : Nat) (s : State) : (notify k status port arg s).fuses = s.fuses := by
  have h := congrArg State.fuses (notify_rest (k := k) (status := status) (port := port) (arg := arg) (s := s))
  exact h
@[simp] theorem notify_boot (k : NoticeKind) (status port arg : Nat) (s : State) : (notify k status port arg s).boot = s.boot := by
  have h := congrArg State.boot (notify_rest (k := k) (status := status) (port := port) (arg := arg) (s := s))
  exact h
@[simp] theorem notify_power (k : NoticeKind) (status port arg : Nat) (s : State) : (notify k status port arg s).power = s.power := by
  have h := congrArg State.power (notify_rest (k := k) (status := status) (port := port) (arg := arg) (s := s))
  exact h
@[simp] theorem notify_ctl (k : NoticeKind) (status port arg : Nat) (s : State) : (notify k status port arg s).ctl = s.ctl := by
  have h := congrArg State.ctl (notify_rest (k := k) (status := status) (port := port) (arg := arg) (s := s))
  exact h
@[simp] theorem notify_cur (k : NoticeKind) (status port arg : Nat) (s : State) : (notify k status port arg s).cur = s.cur := by
  have h := congrArg State.cur (notify_rest (k := k) (status := status) (port := port) (arg := arg) (s := s))
  exact h
@[simp] theorem notify_ports (k : NoticeKind) (status port arg : Nat) (s : State) : (notify k status port arg s).ports = s.ports := by
  have h := congrArg State.ports (notify_rest (k := k) (status := status) (port := port) (arg := arg) (s := s))
  exact h
@[simp] theorem notify_radio (k : NoticeKind) (status port arg : Nat) (s : State) : (notify k status port arg s).radio = s.radio := by
  have h := congrArg State.radio (notify_rest (k := k) (status := status) (port := port) (arg := arg) (s := s))
  exact h
@[simp] theorem notify_demods (k : NoticeKind) (status port arg : Nat) (s : State) : (notify k status port arg s).demods = s.demods := by
  have h := congrArg State.demods (notify_rest (k := k) (status := status) (port := port) (arg := arg) (s := s))
  exact h
@[simp] theorem notify_rxFlags (k : NoticeKind) (status port arg : Nat) (s : State) : (notify k status port arg s).rxFlags = s.rxFlags := by
  have h := congrArg State.rxFlags (notify_rest (k := k) (status := status) (port := port) (arg := arg) (s := s))
  exact h
@[simp] theorem notify_time (k : NoticeKind) (status port arg : Nat) (s : State) : (notify k status port arg s).time = s.time := by
  have h := congrArg State.time (notify_rest (k := k) (status := status) (port := port) (arg := arg) (s := s))
  exact h
@[simp] theorem notify_frz (k : NoticeKind) (status port arg : Nat) (s : State) : (notify k status port arg s).frz = s.frz := by
  have h := congrArg State.frz (notify_rest (k := k) (status := status) (port := port) (arg := arg) (s := s))
  exact h
@[simp] theorem notify_tamp (k : NoticeKind) (status port arg : Nat) (s : State) : (notify k status port arg s).tamp = s.tamp := by
  have h := congrArg State.tamp (notify_rest (k := k) (status := status) (port := port) (arg := arg) (s := s))
  exact h
@[simp] theorem notify_fab (k : NoticeKind) (status port arg : Nat) (s : State) : (notify k status port arg s).fab = s.fab := by
  have h := congrArg State.fab (notify_rest (k := k) (status := status) (port := port) (arg := arg) (s := s))
  exact h
@[simp] theorem notify_key (k : NoticeKind) (status port arg : Nat) (s : State) : (notify k status port arg s).key = s.key := by
  have h := congrArg State.key (notify_rest (k := k) (status := status) (port := port) (arg := arg) (s := s))
  exact h
@[simp] theorem notify_cph (k : NoticeKind) (status port arg : Nat) (s : State) : (notify k status port arg s).cph = s.cph := by
  have h := congrArg State.cph (notify_rest (k := k) (status := status) (port := port) (arg := arg) (s := s))
  exact h
@[simp] theorem notify_lcs (k : NoticeKind) (status port arg : Nat) (s : State) : (notify k status port arg s).lcs = s.lcs := by
  have h := congrArg State.lcs (notify_rest (k := k) (status := status) (port := port) (arg := arg) (s := s))
  exact h
@[simp] theorem notify_cat (k : NoticeKind) (status port arg : Nat) (s : State) : (notify k status port arg s).cat = s.cat := by
  have h := congrArg State.cat (notify_rest (k := k) (status := status) (port := port) (arg := arg) (s := s))
  exact h
@[simp] theorem notify_xch (k : NoticeKind) (status port arg : Nat) (s : State) : (notify k status port arg s).xch = s.xch := by
  have h := congrArg State.xch (notify_rest (k := k) (status := status) (port := port) (arg := arg) (s := s))
  exact h
@[simp] theorem notify_shp (k : NoticeKind) (status port arg : Nat) (s : State) : (notify k status port arg s).shp = s.shp := by
  have h := congrArg State.shp (notify_rest (k := k) (status := status) (port := port) (arg := arg) (s := s))
  exact h
@[simp] theorem notify_slt (k : NoticeKind) (status port arg : Nat) (s : State) : (notify k status port arg s).slt = s.slt := by
  have h := congrArg State.slt (notify_rest (k := k) (status := status) (port := port) (arg := arg) (s := s))
  exact h
@[simp] theorem notify_bhl (k : NoticeKind) (status port arg : Nat) (s : State) : (notify k status port arg s).bhl = s.bhl := by
  have h := congrArg State.bhl (notify_rest (k := k) (status := status) (port := port) (arg := arg) (s := s))
  exact h
@[simp] theorem notify_pair (k : NoticeKind) (status port arg : Nat) (s : State) : (notify k status port arg s).pair = s.pair := by
  have h := congrArg State.pair (notify_rest (k := k) (status := status) (port := port) (arg := arg) (s := s))
  exact h
@[simp] theorem notify_cap0 (k : NoticeKind) (status port arg : Nat) (s : State) : (notify k status port arg s).cap0 = s.cap0 := by
  have h := congrArg State.cap0 (notify_rest (k := k) (status := status) (port := port) (arg := arg) (s := s))
  exact h
@[simp] theorem notify_cap1 (k : NoticeKind) (status port arg : Nat) (s : State) : (notify k status port arg s).cap1 = s.cap1 := by
  have h := congrArg State.cap1 (notify_rest (k := k) (status := status) (port := port) (arg := arg) (s := s))
  exact h
@[simp] theorem notify_draws (k : NoticeKind) (status port arg : Nat) (s : State) : (notify k status port arg s).draws = s.draws := by
  have h := congrArg State.draws (notify_rest (k := k) (status := status) (port := port) (arg := arg) (s := s))
  exact h
@[simp] theorem notify_detail (k : NoticeKind) (status port arg : Nat) (s : State) : (notify k status port arg s).detail = s.detail := by
  have h := congrArg State.detail (notify_rest (k := k) (status := status) (port := port) (arg := arg) (s := s))
  exact h
@[simp] theorem notify_pending (k : NoticeKind) (status port arg : Nat) (s : State) : (notify k status port arg s).pending = s.pending := by
  have h := congrArg State.pending (notify_rest (k := k) (status := status) (port := port) (arg := arg) (s := s))
  exact h

@[simp] theorem accessErr_tabs (m : Master) (kind addr : Nat) (s : State) : (accessErr m kind addr s).tabs = s.tabs := by
  obtain ⟨d, e | ⟨w, e⟩⟩ := accessErr_cases m kind addr s <;> simp [e]
@[simp] theorem accessErr_clk (m : Master) (kind addr : Nat) (s : State) : (accessErr m kind addr s).clk = s.clk := by
  obtain ⟨d, e | ⟨w, e⟩⟩ := accessErr_cases m kind addr s <;> simp [e]
@[simp] theorem accessErr_pins (m : Master) (kind addr : Nat) (s : State) : (accessErr m kind addr s).pins = s.pins := by
  obtain ⟨d, e | ⟨w, e⟩⟩ := accessErr_cases m kind addr s <;> simp [e]
@[simp] theorem accessErr_fuses (m : Master) (kind addr : Nat) (s : State) : (accessErr m kind addr s).fuses = s.fuses := by
  obtain ⟨d, e | ⟨w, e⟩⟩ := accessErr_cases m kind addr s <;> simp [e]
@[simp] theorem accessErr_boot (m : Master) (kind addr : Nat) (s : State) : (accessErr m kind addr s).boot = s.boot := by
  obtain ⟨d, e | ⟨w, e⟩⟩ := accessErr_cases m kind addr s <;> simp [e]
@[simp] theorem accessErr_power (m : Master) (kind addr : Nat) (s : State) : (accessErr m kind addr s).power = s.power := by
  obtain ⟨d, e | ⟨w, e⟩⟩ := accessErr_cases m kind addr s <;> simp [e]
@[simp] theorem accessErr_ctl (m : Master) (kind addr : Nat) (s : State) : (accessErr m kind addr s).ctl = s.ctl := by
  obtain ⟨d, e | ⟨w, e⟩⟩ := accessErr_cases m kind addr s <;> simp [e]
@[simp] theorem accessErr_cur (m : Master) (kind addr : Nat) (s : State) : (accessErr m kind addr s).cur = s.cur := by
  obtain ⟨d, e | ⟨w, e⟩⟩ := accessErr_cases m kind addr s <;> simp [e]
@[simp] theorem accessErr_ports (m : Master) (kind addr : Nat) (s : State) : (accessErr m kind addr s).ports = s.ports := by
  obtain ⟨d, e | ⟨w, e⟩⟩ := accessErr_cases m kind addr s <;> simp [e]
@[simp] theorem accessErr_radio (m : Master) (kind addr : Nat) (s : State) : (accessErr m kind addr s).radio = s.radio := by
  obtain ⟨d, e | ⟨w, e⟩⟩ := accessErr_cases m kind addr s <;> simp [e]
@[simp] theorem accessErr_demods (m : Master) (kind addr : Nat) (s : State) : (accessErr m kind addr s).demods = s.demods := by
  obtain ⟨d, e | ⟨w, e⟩⟩ := accessErr_cases m kind addr s <;> simp [e]
@[simp] theorem accessErr_rxFlags (m : Master) (kind addr : Nat) (s : State) : (accessErr m kind addr s).rxFlags = s.rxFlags := by
  obtain ⟨d, e | ⟨w, e⟩⟩ := accessErr_cases m kind addr s <;> simp [e]
@[simp] theorem accessErr_time (m : Master) (kind addr : Nat) (s : State) : (accessErr m kind addr s).time = s.time := by
  obtain ⟨d, e | ⟨w, e⟩⟩ := accessErr_cases m kind addr s <;> simp [e]
@[simp] theorem accessErr_frz (m : Master) (kind addr : Nat) (s : State) : (accessErr m kind addr s).frz = s.frz := by
  obtain ⟨d, e | ⟨w, e⟩⟩ := accessErr_cases m kind addr s <;> simp [e]
@[simp] theorem accessErr_tamp (m : Master) (kind addr : Nat) (s : State) : (accessErr m kind addr s).tamp = s.tamp := by
  obtain ⟨d, e | ⟨w, e⟩⟩ := accessErr_cases m kind addr s <;> simp [e]
@[simp] theorem accessErr_fab (m : Master) (kind addr : Nat) (s : State) : (accessErr m kind addr s).fab = s.fab := by
  obtain ⟨d, e | ⟨w, e⟩⟩ := accessErr_cases m kind addr s <;> simp [e]
@[simp] theorem accessErr_key (m : Master) (kind addr : Nat) (s : State) : (accessErr m kind addr s).key = s.key := by
  obtain ⟨d, e | ⟨w, e⟩⟩ := accessErr_cases m kind addr s <;> simp [e]
@[simp] theorem accessErr_cph (m : Master) (kind addr : Nat) (s : State) : (accessErr m kind addr s).cph = s.cph := by
  obtain ⟨d, e | ⟨w, e⟩⟩ := accessErr_cases m kind addr s <;> simp [e]
@[simp] theorem accessErr_lcs (m : Master) (kind addr : Nat) (s : State) : (accessErr m kind addr s).lcs = s.lcs := by
  obtain ⟨d, e | ⟨w, e⟩⟩ := accessErr_cases m kind addr s <;> simp [e]
@[simp] theorem accessErr_cat (m : Master) (kind addr : Nat) (s : State) : (accessErr m kind addr s).cat = s.cat := by
  obtain ⟨d, e | ⟨w, e⟩⟩ := accessErr_cases m kind addr s <;> simp [e]
@[simp] theorem accessErr_xch (m : Master) (kind addr : Nat) (s : State) : (accessErr m kind addr s).xch = s.xch := by
  obtain ⟨d, e | ⟨w, e⟩⟩ := accessErr_cases m kind addr s <;> simp [e]
@[simp] theorem accessErr_shp (m : Master) (kind addr : Nat) (s : State) : (accessErr m kind addr s).shp = s.shp := by
  obtain ⟨d, e | ⟨w, e⟩⟩ := accessErr_cases m kind addr s <;> simp [e]
@[simp] theorem accessErr_slt (m : Master) (kind addr : Nat) (s : State) : (accessErr m kind addr s).slt = s.slt := by
  obtain ⟨d, e | ⟨w, e⟩⟩ := accessErr_cases m kind addr s <;> simp [e]
@[simp] theorem accessErr_bhl (m : Master) (kind addr : Nat) (s : State) : (accessErr m kind addr s).bhl = s.bhl := by
  obtain ⟨d, e | ⟨w, e⟩⟩ := accessErr_cases m kind addr s <;> simp [e]
@[simp] theorem accessErr_pair (m : Master) (kind addr : Nat) (s : State) : (accessErr m kind addr s).pair = s.pair := by
  obtain ⟨d, e | ⟨w, e⟩⟩ := accessErr_cases m kind addr s <;> simp [e]
@[simp] theorem accessErr_cap0 (m : Master) (kind addr : Nat) (s : State) : (accessErr m kind addr s).cap0 = s.cap0 := by
  obtain ⟨d, e | ⟨w, e⟩⟩ := accessErr_cases m kind addr s <;> simp [e]
@[simp] theorem accessErr_cap1 (m : Master) (kind addr : Nat) (s : State) : (accessErr m kind addr s).cap1 = s.cap1 := by
  obtain ⟨d, e | ⟨w, e⟩⟩ := accessErr_cases m kind addr s <;> simp [e]
@[simp] theorem accessErr_draws (m : Master) (kind addr : Nat) (s : State) : (accessErr m kind addr s).draws = s.draws := by
  obtain ⟨d, e | ⟨w, e⟩⟩ := accessErr_cases m kind addr s <;> simp [e]
@[simp] theorem accessErr_pending (m : Master) (kind addr : Nat) (s : State) : (accessErr m kind addr s).pending = s.pending := by
  obtain ⟨d, e | ⟨w, e⟩⟩ := accessErr_cases m kind addr s <;> simp [e]
@[simp] theorem accessErr_dram (m : Master) (kind addr : Nat) (s : State) : (accessErr m kind addr s).dram = s.dram := by
  obtain ⟨d, e | ⟨w, e⟩⟩ := accessErr_cases m kind addr s <;> simp [e]
@[simp] theorem accessErr_mem (m : Master) (kind addr : Nat) (s : State) : (accessErr m kind addr s).mem = s.mem := by
  obtain ⟨d, e | ⟨w, e⟩⟩ := accessErr_cases m kind addr s <;> simp [e]
@[simp] theorem accessErr_saf (m : Master) (kind addr : Nat) (s : State) : (accessErr m kind addr s).saf = s.saf := by
  obtain ⟨d, e | ⟨w, e⟩⟩ := accessErr_cases m kind addr s <;> simp [e]
@[simp] theorem accessErr_lossPending (m : Master) (kind addr : Nat) (s : State) : (accessErr m kind addr s).lossPending = s.lossPending := by
  obtain ⟨d, e | ⟨w, e⟩⟩ := accessErr_cases m kind addr s <;> simp [e]
@[simp] theorem accessErr_out (m : Master) (kind addr : Nat) (s : State) : (accessErr m kind addr s).out = s.out := by
  obtain ⟨d, e | ⟨w, e⟩⟩ := accessErr_cases m kind addr s <;> simp [e]

end Sys2Proof.Machine
end

