-- ==== Sys2Proof/Tests/Slice0.lean ====
section
/-! SUPPORT. Tests: states that meet the hypotheses of the statements, ill-formed commands that WellFormed refuses, and the commands that no word spells. -/

set_option maxRecDepth 20000

namespace Sys2Proof.Tests
open Sys2Proof Sys2Proof.Machine

/-- A state with fields at values. -/
def fldsOf (l : List (Field × Nat)) (s : State) : State := l.foldl (fun s e => s.setF e.1 e.2) s

/-- The machine after reset, powered, trained and clocked, in a device state, with fields at values. -/
def up (mode : Nat) (l : List (Field × Nat)) : State :=
  fldsOf ((F.DRM_STATUS_USABLE_MIB, 896) :: (F.TOP_STATUS_STATE, mode) :: l)
    { State.reset with
      clk := { State.reset.clk with core := true, running := true }
      pins := { State.reset.pins with vinValid := true, vddFe := true, vddDdr := true, vddNvm := true } }

/-- A held command for 868 MHz with an airtime, a launch time, the end of its slot, and whether it was handed back. -/
def hold (k : TxKind) (air L slotEnd : Nat) (handed : Bool) : Held := ⟨⟨k, 3, 868000, 1, air, none, some L, 0, .beacon⟩, 0, slotEnd, handed, false, 0, handed⟩

/-- A frame with 2 octets of FCS in buffer `h`, received on channel 3 of port 0 in mode 1 with a class. -/
def withFrame (h cls : Nat) (f : List Byte) (s : State) : State :=
  ((s.setBytes (recordAddr h s + 12) [BitVec.ofNat 8 f.length, 0, 3, 1]).setBytes (recordAddr h s + 27) [BitVec.ofNat 8 cls]).setBytes (bufferAddr h s) f

/-- An entry of 512 bytes, VALID, with fields of one byte at values. -/
def entryOf (l : List (Nat × Nat)) : List Byte := l.foldl (fun e x => entPut e x.1 1 x.2) (entPut (List.replicate 512 0) 10 1 0x80)

/-- A state whose catalogue holds a cached entry for a node. -/
def withEntry (nix : Nat) (e : List Byte) (s : State) : State :=
  { s with cat := { s.cat with valid := insertNat nix s.cat.valid, cache := Sparse.set (fun _ => none) s.cat.cache nix (some ⟨e, none, 0⟩) } }

/-- A job in flight. -/
def withJob (i : Nat) (j : Job) (s : State) : State := s.setJob i (some j)

theorem test_IdleStep_idle :
    State.reset.pending = [] := by decide

theorem test_StepKeepsForm_step :
    let s : State := { up 1 [] with pending := [.topNringRdWrite 5 .host 0] }; s.wf = true ∧ (match step s with | .next t => t.clk.now == 5 | _ => false) = true := by decide

theorem test_QueueFirstInFirstOut_step :
    let s : State := { up 1 [] with pending := [.topNringRdWrite 5 .host 0, .hbWireSend 7] }; s.pending = .topNringRdWrite 5 .host 0 :: [.hbWireSend 7] ∧ (match step s with | .next t => decide (t.pending = [.hbWireSend 7]) | _ => false) = true := by decide

theorem test_NothingTurnsBack_step :
    (match step { up 1 [] with pending := [.bmpPoolMinRead 3 .curator] } with | .next t => t.out.length == 1 | _ => false) = true := by decide

theorem test_NringRdWrite_fits :
    let s := up 1 []; s.clk.core = true ∧ s.mode ≠ stFrozen ∧ (s.getF F.TOP_NRING_WR_WR + 2 ^ 32 - 0) % 2 ^ 32 ≤ 2 ^ s.getF F.TOP_NRING_CTRL_LOG2N := by decide

theorem test_NringRdWrite_exceeds :
    let s := up 1 []; ¬(s.getF F.TOP_NRING_WR_WR + 2 ^ 32 - 1) % 2 ^ 32 ≤ 2 ^ s.getF F.TOP_NRING_CTRL_LOG2N ∧ s.getF F.TOP_ACCESS_ERR_VALID = 0 := by decide

theorem test_ClearingReads_reads :
    let s := up 1 []; s.clk.core = true ∧ s.mode ≠ stFrozen ∧ s.mode ≠ stReserve ∧ ∀ a ∈ [0x50, 0x10108, 0x40110, 0xE8000, 0xF0110, 0x108010, 0x108018, 0x148020], s.captured .host a = none := by decide

theorem test_PoolMinRead_read :
    (up 1 []).captured .curator 0x110010 = none := by decide

theorem test_WideCapture_low :
    (up 1 []).captured .host 0x140000 = none := by decide

theorem test_WideCapture_high :
    (match exec (.wideValueCaptureRead 9 .host 0x140000 false false) (up 1 []) with | .next t => t.captured .host 0x140004 == some 0#32 && t.mode == stAutonomous && t.clk.core | _ => false) = true := by decide

theorem test_NarrowAccess_empty :
    (up 1 []).getF F.TOP_ACCESS_ERR_VALID = 0 := by decide

theorem test_RegisterWrites_open :
    let s := up 1 [(F.CUR_OWN_STATUS_OWNER, 1), (F.TXN_STATUS_STATE, 1)]; s.clk.core = true ∧ s.owns .host = true ∧ s.txn = txOpen := by decide

theorem test_EntryCapture_count :
    (up 1 []).captured .host (tabKey 7 0) = none := by decide

theorem test_SupplyEvents_valid :
    let s : State := { State.reset with pins := { State.reset.pins with vinValid := false } }; s.pins.vinValid = false := by decide

theorem test_SupplyEvents_low :
    (up 1 []).pins.vinValid = true ∧ (up 1 []).clk.core = true ∧ (up 1 []).mode ≠ stFrozen := by decide

theorem test_Restarts_pulse :
    (up 3 []).pins.vinValid = true ∧ (up 3 []).pins.resetLow = false ∧ (up 3 []).mode ≠ stTamperHold := by decide

theorem test_Restarts_hold :
    (up 3 []).clk.core = true ∧ (up 3 []).mode = stSafeHold := by decide

theorem test_Restarts_owner :
    (up 1 [(F.CUR_OWN_STATUS_OWNER, 1)]).mode = stAutonomous ∧ (up 1 [(F.CUR_OWN_STATUS_OWNER, 1)]).owns .host = true := by decide

theorem test_StartupSteps_two :
    let s : State := { up 0 [(F.CFG_STATUS_STEP, 2)] with clk := State.reset.clk }; s.mode = stStarting ∧ s.pins.vinValid = true ∧ s.pins.resetLow = false ∧ s.clk.core = false ∧ s.step ≤ 2 ∧ s.pins.tamper &&& s.getF F.TAM_CFG_EN = 0 := by decide

theorem test_StartupSteps_three :
    let s : State := { up 0 [(F.CFG_STATUS_STEP, 3)] with clk := State.reset.clk }; s.mode = stStarting ∧ s.clk.core = false ∧ s.step = 3 := by decide

theorem test_StartupSteps_four :
    inStep 4 (up 0 [(F.CFG_STATUS_STEP, 4)]) = true := by decide

theorem test_StartupSteps_five :
    inStep 5 (up 0 [(F.CFG_STATUS_STEP, 5)]) = true := by decide

theorem test_StartupSteps_six :
    let s : State := { up 0 [(F.CFG_STATUS_STEP, 6)] with fuses := { State.reset.fuses with lifecycle := 3 } }; inStep 6 s = true ∧ s.pins.vddDdr = true ∧ s.fuses.lifecycle ≠ 5 := by decide

theorem test_StartupFailures_fuse :
    let s : State := { up 0 [(F.CFG_STATUS_STEP, 3)] with clk := State.reset.clk }; s.boot.ended = false ∧ s.mode = stStarting ∧ s.clk.core = false ∧ s.step = 3 := by decide

theorem test_StartupFailures_rest :
    (up 0 [(F.CFG_STATUS_STEP, 4)]).boot.ended = false ∧ inStep 4 (up 0 [(F.CFG_STATUS_STEP, 4)]) = true ∧ inStep 5 (up 0 [(F.CFG_STATUS_STEP, 5)]) = true ∧ inStep 6 (up 0 [(F.CFG_STATUS_STEP, 6)]) = true ∧ inStep 7 (up 0 [(F.CFG_STATUS_STEP, 7)]) = true := by decide

theorem test_StartupFailures_void :
    let s : State := { up 0 [(F.CFG_STATUS_STEP, 6)] with fuses := { State.reset.fuses with lifecycle := 5 } }; inStep 6 s = true ∧ s.pins.vddDdr = true ∧ s.fuses.lifecycle = 5 := by decide

theorem test_ImageSteps_select :
    let v : CopyView := ⟨true, 1024, 1, 17, 8, false, false, 1, 0, 0, 0, true, 1, true, 5, []⟩; let s : State := { up 0 [(F.CFG_STATUS_STEP, 7)] with fuses := { State.reset.fuses with lifecycle := 3, ownerHash := 1, arb := 0 } }; inStep 7 s = true ∧ s.pins.vddNvm = true ∧ selectCopy (some v) none s = .ok (1, v) := by decide

theorem test_ImageSteps_apply :
    let v : CopyView := ⟨true, 1024, 1, 17, 8, false, false, 1, 0, 0, 0, true, 1, true, 5, []⟩; let s : State := { up 0 [(F.CFG_STATUS_STEP, 8)] with boot := { State.reset.boot with image := some v } }; inStep 8 s = true ∧ s.boot.image = some v := by decide

theorem test_ImageSteps_load :
    let v : CopyView := ⟨true, 1024, 1, 17, 8, false, true, 1, 0x1000000, 7, 0, true, 1, true, 5, []⟩; let s : State := { up 0 [(F.CFG_STATUS_STEP, 10)] with boot := { State.reset.boot with image := some v } }; inStep 10 s = true ∧ s.boot.image = some v ∧ v.catPresent = true := by decide

theorem test_OwnLineAtStart_claim :
    let s : State := { up 0 [(F.CFG_STATUS_STEP, 11)] with fuses := { State.reset.fuses with pairRoot := true } }; inStep 11 s = true ∧ claimDue s = true ∧ s.pair.leadAt = none ∧ s.pair.id = false := by decide

theorem test_OwnLineAtStart_wait :
    let s : State := { up 0 [(F.CFG_STATUS_STEP, 11)] with fuses := { State.reset.fuses with pairRoot := true }, pair := { State.reset.pair with id := true } }; claimDue s = true ∧ s.pair.leadAt = none ∧ s.fuses.pairRoot = true ∧ s.pair.id = true := by decide

theorem test_OwnLineAtStart_sample :
    let s : State := { up 0 [(F.CFG_STATUS_STEP, 11)] with pair := { State.reset.pair with claimAt := some 0 } }; inStep 11 s = true ∧ s.pair.claimAt = some 0 := by decide

theorem test_OwnLineAtStart_listen :
    let s : State := { up 0 [(F.CFG_STATUS_STEP, 7)] with boot := { State.reset.boot with listenEnd := some 0, leadWire := 3 } }; inStep 7 s = true ∧ s.boot.listenEnd = some 0 ∧ 3 ≤ s.boot.leadWire := by decide

theorem test_OwnLineAtStart_fuse :
    let s : State := { up 1 [(F.CFG_STATUS_STEP, 15), (F.CFG_STATUS_ARB_PENDING, 1)] with fuses := { State.reset.fuses with arb := 5 }, boot := { State.reset.boot with arbTries := 1 } }; s.getF F.CFG_STATUS_ARB_PENDING = 1 ∧ s.step = 0xF ∧ s.mode = stAutonomous ∧ s.clk.core = true ∧ s.fuses.arb < 64 ∧ s.boot.arbTries ≠ 0 := by decide

theorem test_Hibernation_enter :
    (up 1 [(F.CUR_OWN_STATUS_OWNER, 1)]).mode = stAutonomous ∧ (up 1 [(F.CUR_OWN_STATUS_OWNER, 1)]).owns .host = true ∧ (up 1 []).clk.core = true := by decide

theorem test_Hibernation_off :
    ({ up 1 [] with power := { State.reset.power with hibEntry := true } } : State).power.hibEntry = true ∧ (up 1 []).mode ≠ stFrozen := by decide

theorem test_Hibernation_wake :
    (up 5 []).mode = stHibernate := by decide

theorem test_Hibernation_timer :
    let s : State := { up 5 [(F.CUR_HIB_TIMER_SECONDS, 3)] with clk := { State.reset.clk with now := 5 * sec } }; s.mode = stHibernate ∧ s.getF F.CUR_HIB_TIMER_SECONDS ≠ 0 ∧ s.power.hibAt + s.getF F.CUR_HIB_TIMER_SECONDS * sec ≤ s.clk.now := by decide

theorem test_EnergyCounters_update :
    (up 1 [(F.PWR_STATUS_MODE, 1)]).getF F.PWR_STATUS_MODE ≠ 0 := by decide

theorem test_EnergyCounters_clear :
    (up 1 []).clk.core = true ∧ (up 1 []).mode ≠ stFrozen := by decide

theorem test_EnergyPerFrame_start :
    (up 1 []).clk.core = true ∧ (up 1 []).mode ≠ stFrozen ∧ (up 1 []).getF F.PWR_EPF_CTRL_BUSY = 0 ∧ bitsOf 0x800003E8#32 31 31 = 1 ∧ 10 ≤ bitsOf 0x800003E8#32 13 0 ∧ bitsOf 0x800003E8#32 13 0 ≤ 10000 := by decide

theorem test_EnergyPerFrame_done :
    ({ up 1 [] with power := { State.reset.power with epf := some (0, 7) } } : State).power.epf = some (0, 7) := by decide

theorem test_OwnCommandWrites_any :
    (up 1 [(F.CUR_OWN_STATUS_OWNER, 0), (F.CUR_OWN_STATUS_EPOCH, 1)]).getF F.CUR_OWN_STATUS_EPOCH = bitsOf 0x10000001#32 15 0 ∧ bitsOf 0x10000001#32 31 28 = 1 := by decide

theorem test_OwnershipCommands_none :
    (up 1 [(F.CUR_OWN_STATUS_OWNER, 0), (F.CUR_OWN_STATUS_EPOCH, 1)]).getF F.CUR_OWN_STATUS_EPOCH = (1#16).toNat ∧ (up 1 [(F.CUR_OWN_STATUS_OWNER, 0), (F.CUR_OWN_STATUS_EPOCH, 1)]).getF F.CUR_OWN_STATUS_OWNER = 0 := by decide

theorem test_OwnershipCommands_owns :
    (up 1 [(F.CUR_OWN_STATUS_OWNER, 1), (F.CUR_OWN_STATUS_EPOCH, 1)]).owns .host = true ∧ (up 1 [(F.CUR_OWN_STATUS_OWNER, 1), (F.CUR_OWN_STATUS_EPOCH, 1)]).getF F.CUR_OWN_STATUS_EPOCH = (1#16).toNat := by decide

theorem test_OwnershipCommands_safe :
    let s : State := { up 1 [] with ctl := { State.reset.ctl with lease := some 0 } }; s.ctl.lease = some 0 ∧ s.getF F.SAF_CFG_ACT_H ≠ 1 ∧ s.mode = stAutonomous ∧ s.getF F.SAF_STATUS_SAFE = 0 := by decide

theorem test_OwnershipCommands_lapse :
    ({ up 1 [] with ctl := { State.reset.ctl with lease := some 0 } } : State).ctl.lease = some 0 := by decide

theorem test_TransactionLife_begin :
    (up 1 [(F.CUR_OWN_STATUS_OWNER, 1)]).clk.core = true ∧ (up 1 [(F.CUR_OWN_STATUS_OWNER, 1)]).mode = stAutonomous ∧ (up 1 [(F.CUR_OWN_STATUS_OWNER, 1)]).owns .host = true ∧ (up 1 [(F.CUR_OWN_STATUS_OWNER, 1)]).txn = txIdle := by decide

theorem test_TransactionLife_opened :
    let s := up 1 [(F.CUR_OWN_STATUS_OWNER, 1), (F.TXN_STATUS_STATE, 1), (F.TXN_STATUS_TAG, 3)]; s.clk.core = true ∧ s.mode = stAutonomous ∧ s.owns .host = true ∧ s.txn = txOpen ∧ bitsOf 3#32 7 0 = s.getF F.TXN_STATUS_TAG ∧ s.ctl.txnEnd ≤ (s.elapse 0).clk.slot := by decide

theorem test_CommitBoundary_due :
    let s : State := { up 1 [(F.TXN_STATUS_STATE, 2)] with slt := { State.reset.slt with next := some 0, nextSen := 300053 } }; s.slt.next = some 0 ∧ s.clk.running = true ∧ s.txn = txPending ∧ s.ctl.commitFrom ≤ 0 := by decide

theorem test_CuratorTransfers_push :
    let s := up 1 []; s.cur.discard = false ∧ s.cur.overrun = false ∧ s.cur.cmd.length + [1#32, 2#32].length ≤ 32 := by decide

theorem test_CuratorTransfers_op :
    (0x33#8 : BitVec 8) ≠ 0x5A#8 ∧ (0x33#8 : BitVec 8) ≠ 0xA5#8 := by decide

theorem test_CuratorExecutor_read :
    let s : State := { up 1 [] with cur := { State.reset.cur with cmd := [(0x01110100#32, 0), (0x30000#32, 0)] } }; s.cur.cmd = (0x01000100#32 ||| 0x11#32 <<< 16, 0) :: (0x30000#32, 0) :: [] ∧ rspRoom 3 s = true := by decide

theorem test_CuratorExecutor_write :
    let s : State := { up 1 [] with cur := { State.reset.cur with cmd := [(0x02330100#32, 0), (0x30008#32, 0), (0x3E8#32, 0)] } }; s.cur.cmd = (0x02000100#32 ||| 0x33#32 <<< 16, 0) :: (0x30008#32, 0) :: (0x3E8#32, 0) :: [] ∧ rspRoom 2 s = true ∧ 100 ≤ (0x3E8#32 : Word).toNat ∧ (0x3E8#32 : Word).toNat ≤ 60000 := by decide

theorem test_CuratorExecutor_bad :
    let s : State := { up 1 [] with cur := { State.reset.cur with cmd := [(0x02110000#32, 7)] } }; headInvalid s = some (0x02110000#32, 7) ∧ rspRoom 2 s = true := by decide

theorem test_FifoWatermarks_marks :
    (1 : Nat) ≤ 24 ∧ 24 ≤ 32 ∧ 8 < 24 ∧ 1 ≤ 2 ∧ 2 ≤ 64 ∧ 0 < 2 := by decide

theorem test_FifoWatermarks_host :
    busyPin (up 1 []) = up 1 [] ∧ attnPin (up 1 []) = up 1 [] := ⟨rfl, rfl⟩

theorem test_CommandAccepted_rx :
    let s := up 1 [(F.RFP_STATUS_STATE 0, 2), (F.RFP_PERMIT_HI_KHZ 0, 960000)]; s.clk.running = true ∧ s.pstate 0 = psRx ∧ (s.port 0).held = none ∧ (s.port 0).cal.phase < 2 ∧ permitted 0 868000 s = true ∧ (s.elapse 0).clk.slot < settleAt 0 1000000 s := by decide

theorem test_CommandAccepted_off :
    (up 1 []).clk.running = true ∧ (up 1 []).pstate 0 = psOff := by decide

theorem test_SettleAndLaunch_settle :
    let h : Held := (hold .frame 1000 100 5000000 false); let s : State := { up 1 [(F.RFP_STATUS_STATE 0, 2)] with ports := [(0, { Port.reset with held := some h })] }; s.clk.running = true ∧ (s.port 0).held = some h ∧ h.cmd.launch = some 100 ∧ s.pstate 0 = psRx ∧ lockOk 0 h s = false ∧ settleAt 0 100 s ≤ (s.elapse 0).clk.slot ∧ calHolds 0 h s = false := by decide

theorem test_SettleAndLaunch_lock :
    (up 1 [(F.RFP_STATUS_STATE 0, 3)]).pstate 0 = psSettle ∧ ((up 1 [(F.RFP_STATUS_STATE 0, 3)]).port 0).held = none := by decide

theorem test_SettleAndLaunch_launch :
    let h : Held := (hold .frame 1000 2400 5000000 false); let s : State := { up 1 [(F.RFP_STATUS_STATE 0, 4), (F.RFP_PERMIT_HI_KHZ 0, 960000)] with ports := [(0, { Port.reset with locked := some 868000, held := some h })] }; (s.port 0).held = some h ∧ (s.port 0).begun = none ∧ s.pstate 0 = psTxReady ∧ startPoint 0 h (s.elapse 0) = (s.elapse 0).clk.slot ∧ launchReady 0 h (s.elapse 0) = true ∧ ackReleased h s = true ∧ permitted 0 h.cmd.khz s = true ∧ dutyExceeded 0 h.cmd.airtime s = false := by decide

theorem test_SettleAndLaunch_request :
    let h : Held := (hold .frame 1000 100 5000000 false); let s : State := { up 1 [(F.RFP_COEX_PAIRS 0, 3), (F.COEX_PAIR_EN 1, 1)] with ports := [(0, { Port.reset with held := some h })] }; (s.port 0).held = some h ∧ (dueReqs 0 h (s.elapse 0)).contains 1 = true := by decide

theorem test_CommandEnds_late :
    let h : Held := (hold .frame 1000 2400 3 false); let s : State := { up 1 [(F.RFP_STATUS_STATE 0, 4)] with ports := [(0, { Port.reset with held := some h })] }; (s.port 0).held = some h ∧ (s.port 0).begun = none ∧ (s.port 0).sent = false ∧ h.cmd.kind ≠ .ack ∧ (s.port 0).waiting = [] ∧ waitLate 0 h (s.elapse 9) = true := by decide

theorem test_CommandEnds_ack :
    let h : Held := (hold .ack 1000 2400 3 false); let s : State := { { up 1 [(F.RFP_STATUS_STATE 0, 4)] with ports := [(0, { Port.reset with held := some h })] } with clk := { State.reset.clk with running := true, slot := 1000000 } }; (s.port 0).held = some h ∧ (s.port 0).begun = none ∧ (s.port 0).sent = false ∧ h.cmd.kind = .ack ∧ (s.port 0).waiting = [] ∧ waitLate 0 h (s.elapse 0) = true := by decide

theorem test_CommandEnds_end :
    let h : Held := (hold .frame 1000 2400 3 false); let s : State := { { up 1 [(F.RFP_STATUS_STATE 0, 5)] with ports := [(0, { Port.reset with begun := some 0, held := some h })] } with clk := { State.reset.clk with running := true, slot := 1000000 } }; (s.port 0).held = some h ∧ s.pstate 0 = psTx ∧ (s.port 0).sent = false ∧ ppduEnd 0 h s ≤ (s.elapse 0).clk.slot := by decide

theorem test_CommandEnds_sequence :
    let h : Held := (hold .frame 1000 2400 3 false); let s : State := { { up 1 [(F.RFP_STATUS_STATE 0, 5)] with ports := [(0, { Port.reset with begun := some 0, sent := true, held := some h })] } with clk := { State.reset.clk with running := true, slot := 1000000 } }; (s.port 0).held = some h ∧ s.pstate 0 = psTx ∧ (s.port 0).sent = true ∧ (s.port 0).stopping = false ∧ (s.port 0).waiting = [] ∧ ppduEnd 0 h s + (s.getF (F.RFP_FE_TIMING_RAMP 0) + s.getF (F.RFP_FE_TIMING_TRSW_LAG 0)) * us ≤ (s.elapse 0).clk.slot := by decide

theorem test_CommandEnds_hold :
    let s : State := { { up 1 [(F.RFP_STATUS_STATE 0, 4)] with ports := [(0, { Port.reset with locked := some 868000, holdEnd := some 7 })] } with clk := { State.reset.clk with running := true, slot := 1000000 } }; (s.port 0).holdEnd = some 7 ∧ s.pstate 0 = psTxReady ∧ (s.port 0).held = none ∧ 7 ≤ (s.elapse 0).clk.slot ∧ (s.port 0).locked ≠ some (centre 0 s) := by decide

theorem test_GrantAndReissue_grant :
    ∀ n : Fin 16, (boundPairs n (up 1 [])).contains 2 = false := by decide

theorem test_GrantAndReissue_again :
    let h : Held := (hold .frame 1000 2400000 3 true); let s : State := { up 1 [(F.RFP_STATUS_STATE 0, 2), (F.RFP_PERMIT_HI_KHZ 0, 960000)] with ports := [(0, { Port.reset with waiting := [h] })] }; (s.port 0).waiting.find? (·.handed) = some h ∧ h.cmd.launch = some 2400000 ∧ s.pstate 0 = psRx ∧ (s.port 0).held = none ∧ (s.port 0).cal.phase < 2 ∧ permitted 0 h.cmd.khz s = true ∧ (s.elapse 0).clk.slot < settleAt 0 2400000 s := by decide

theorem test_EmissionMonitors_power :
    let s : State := { { up 1 [(F.RFP_STATUS_STATE 0, 5)] with ports := [(0, { Port.reset with begun := some 0, overCnt := 1 })] } with clk := { State.reset.clk with running := true, slot := 1000000 } }; s.mode = stAutonomous ∧ s.getF F.SAF_STATUS_SAFE = 0 ∧ (s.port 0).stopping = false ∧ s.pstate 0 = psTx ∧ (s.port 0).sent = false ∧ (s.port 0).overCnt ≠ 0 ∧ (s.port 0).begun.getD 0 + trswLead 0 s ≤ (s.elapse 0).clk.slot ∧ toSigned 8 (s.getF (F.RFP_TXPWR_MAX 0)) + 4 < 100 := by decide

theorem test_EmissionMonitors_freq :
    (up 1 [(F.RFP_STATUS_STATE 0, 4)]).pstate 0 = psTxReady ∧ ((up 1 [(F.RFP_STATUS_STATE 0, 4)]).port 0).stopping = false := by decide

theorem test_EmissionMonitors_duration :
    let h : Held := (hold .frame 100000000000 2400 3 false); let s : State := { { up 1 [(F.RFP_STATUS_STATE 0, 5)] with ports := [(0, { Port.reset with begun := some 0, held := some h })] } with clk := { State.reset.clk with running := true, slot := 1000000000 } }; (s.port 0).held = some h ∧ s.pstate 0 = psTx ∧ (s.port 0).sent = false ∧ (s.port 0).begun.getD 0 + trswLead 0 s + s.getF (F.RFP_TXLIM_TIMEOUT_MS 0) * ms ≤ (s.elapse 0).clk.slot ∧ (s.elapse 0).clk.slot < ppduEnd 0 h s := by decide

theorem test_PortSamples_duty :
    dutyPassed 0 ({ up 1 [] with clk := { State.reset.clk with running := true, now := 100 * sec } }.elapse 0) ≠ 0 := by decide

theorem test_PortSamples_runs :
    (up 1 []).clk.running = true := by decide

theorem test_Calibration_request :
    let s := up 1 [(F.CUR_OWN_STATUS_OWNER, 1), (F.RFP_CTRL_ENABLE 0, 1), (F.RFP_STATUS_STATE 0, 2)]; s.clk.core = true ∧ s.mode = stAutonomous ∧ s.owns .host = true ∧ s.getF (F.RFP_CTRL_ENABLE 0) = 1 ∧ s.pstate 0 ≠ psOff ∧ (s.port 0).cal.phase = 0 := by decide

theorem test_Calibration_failed :
    let s := up 1 [(F.CUR_OWN_STATUS_OWNER, 1), (F.RFP_CTRL_ENABLE 0, 1), (F.RFP_CAL_STATUS_LAST 0, 2)]; s.pstate 0 = psOff ∧ s.getF (F.RFP_CAL_STATUS_LAST 0) = 2 := by decide

theorem test_Calibration_temp :
    let s : State := { up 1 [(F.RFP_STATUS_STATE 0, 2)] with ports := [(0, { Port.reset with tj := 90, cal := { Port.reset.cal with lastOk := some 0 } })] }; (s.port 0).cal.lastOk = some 0 ∧ s.getF (F.RFP_CAL_CFG_DELTA_C 0) ≠ 0 ∧ s.getF (F.RFP_CAL_CFG_DELTA_C 0) ≤ ((s.port 0).tj - toSigned 8 (s.getF (F.RFP_CAL_STATUS_TJ_CAL 0))).natAbs := by decide

theorem test_Calibration_period :
    let s : State := { up 1 [(F.RFP_STATUS_STATE 0, 2), (F.RFP_CAL_CFG_PERIOD_H 0, 1)] with ports := [(0, { Port.reset with cal := { Port.reset.cal with lastOk := some 0 } })], clk := { State.reset.clk with running := true, now := 3600 * sec } }; (s.port 0).cal.lastOk = some 0 ∧ s.getF (F.RFP_CAL_CFG_PERIOD_H 0) ≠ 0 ∧ 0 + s.getF (F.RFP_CAL_CFG_PERIOD_H 0) * 3600 * sec ≤ s.clk.now := by decide

theorem test_Calibration_start :
    let s : State := { up 1 [(F.RFP_STATUS_STATE 0, 2)] with ports := [(0, { Port.reset with cal := { Port.reset.cal with phase := 1 } })], clk := { State.reset.clk with running := true, now := 3600 * sec } }; (s.port 0).cal.phase = 1 ∧ s.pstate 0 ≠ psQuiet ∧ s.pstate 0 ≠ psOff ∧ (s.elapse 0).clk.slot = s.bound ∧ (s.port 0).cal.since + s.getF (F.RFP_CAL_CFG_CAL_MAX_DEFER_MS 0) * ms < (s.elapse 0).clk.now := by decide

theorem test_Calibration_enter :
    let s : State := { up 1 [] with ports := [(0, { Port.reset with cal := { Port.reset.cal with phase := 2 } })] }; (s.port 0).cal.phase = 2 ∧ (s.port 0).begun = none ∧ (s.port 0).held = none := by decide

theorem test_Calibration_end :
    let s : State := { up 1 [(F.RFP_STATUS_STATE 0, 1)] with ports := [(0, { Port.reset with cal := { Port.reset.cal with phase := 3 } })] }; s.pstate 0 = psCal ∧ (s.port 0).cal.phase = 3 ∧ (s.port 0).held = none ∧ (s.port 0).waiting = [] ∧ s.getF F.SAF_STATUS_SAFE = 0 := by decide

theorem test_DetectionServed_open :
    let s : State := { up 1 [(F.RFP_STATUS_STATE 0, 2)] with tabs := [(0x100, 0x800000FF#32)] }; s.clk.running = true ∧ s.pstate 0 = psRx ∧ s.getF (F.RFP_STATUS_BLANK 0) = 0 ∧ chanOn 0 0 s = true ∧ chanModes 0 0 s / 2 ^ 1 % 2 = 1 ∧ correlates 0 0 (-300) 50 s = true ∧ holder 0 0 s = none ∧ freeDemod 0 s = some 0 := by decide

theorem test_DetectionServed_capture :
    let x : Demod := ⟨0, 1, 0, 5, 6, -300, -400, none, 0, 0, false, false, false, 0, 0, 0, none⟩; let s : State := { up 1 [(F.RFP_STATUS_STATE 0, 2)] with tabs := [(0x100, 0x800000FF#32)], demods := [(0, some x)] }; holder 0 0 s = some 0 ∧ s.demod 0 0 = some x ∧ x.sfd = none ∧ x.power + 4 * s.getF (F.RFP_DET_CFG_CAPTURE_DB 0) ≤ (-200 : Int) := by decide

theorem test_DetectionServed_full :
    let s : State := { up 1 [(F.RFP_STATUS_STATE 0, 2)] with tabs := [(0x100, 0x800000FF#32), (0x104, 0xA00000FF#32)], demods := (List.range 64).map fun d => (d, some ⟨1, 1, 2, 100 - d, 6, -300, -400, none, 0, 0, false, false, false, 0, 0, 0, none⟩) }; holder 0 0 s = none ∧ freeDemod 0 s = none ∧ awakeBanks 0 s = 4 ∧ victim 0 (chanClass 0 0 s) s = some 63 := by decide

theorem test_DetectionServed_none :
    let s : State := { up 1 [(F.RFP_STATUS_STATE 0, 2)] with tabs := [(0x100, 0xA00000FF#32), (0x104, 0x800000FF#32)], demods := (List.range 64).map fun d => (d, some ⟨1, 1, 2, 100 - d, 6, -300, -400, none, 0, 0, false, false, false, 0, 0, 0, none⟩) }; freeDemod 0 s = none ∧ awakeBanks 0 s = 4 ∧ victim 0 (chanClass 0 0 s) s = none := by decide

theorem test_ReceptionStages_sfd :
    let x : Demod := ⟨0, 1, 0, 5, 6, -300, -400, none, 0, 0, false, false, false, 0, 0, 0, none⟩; let s : State := { up 1 [] with demods := [(0, some x)], tabs := [(0x100, 0x80000002#32)] }; chanModes 0 x.channel s / 2 ^ x.mode % 2 = 1 ∧ s.clk.running = true ∧ s.demod 0 0 = some x ∧ x.sfd = none ∧ s.getF (F.RFP_PHY_CFG_FEC_ACCEPT 0) = 1 ∧ s.getF (F.RFP_PHY_CFG_UNCODED_ACCEPT 0) = 1 ∧ (s.elapse 0).clk.slot * symbolRate x.mode ≤ x.detected * symbolRate x.mode + s.getF (F.RFP_DET_CFG_SFD_WAIT_SYM 0) * 2000000 := by decide

theorem test_ReceptionStages_wait :
    let x : Demod := ⟨0, 1, 0, 5, 6, -300, -400, none, 0, 0, false, false, false, 0, 0, 0, none⟩; let s : State := { up 1 [] with demods := [(0, some x)], clk := { State.reset.clk with running := true, slot := 1000000 } }; x.detected * symbolRate x.mode + s.getF (F.RFP_DET_CFG_SFD_WAIT_SYM 0) * 2000000 ≤ (s.elapse 0).clk.slot * symbolRate x.mode := by decide

theorem test_ReceptionStages_phr :
    let x : Demod := ⟨0, 1, 0, 5, 6, -300, -400, some 7, 1, 0, false, false, false, 0, 0, 0, none⟩; let s : State := { up 1 [(F.BMP_POOL_CFG_COUNT64, 2), (F.BMP_POOL_CFG_RESERVE, 0)] with demods := [(0, some x)] }; s.demod 0 0 = some x ∧ x.sfd ≠ none ∧ x.buffer = none ∧ 1 ≤ 2047 ∧ 2047 ≤ maxPsdu x.mode ∧ s.getF F.BMP_POOL_CFG_RESERVE < poolFreeCount s ∧ (longestFree s).isSome = true := by decide

theorem test_ReceptionStages_ppdu :
    let x : Demod := ⟨0, 1, 0, 5, 6, -300, -400, some 7, 1, 0, true, false, false, 33, 0, 0, some 0x01000003⟩; let s : State := { up 1 [(F.BMP_POOL_CFG_COUNT64, 2), (F.BMP_POOL_BASE_BASE, 0x100)] with demods := [(0, some x)] }; s.demod 0 0 = some x ∧ x.buffer = some 0x01000003 ∧ freeId s = some 0 ∧ s.getF F.TRC_RING_CTRL_EN = 0 := by decide

theorem test_ReceptionStages_noise :
    chanOn 0 0 ({ up 1 [] with tabs := [(0x100, 0x80000002#32)] } : State) = true ∧ lowerQuartile [4, 3, 2, 1] = some 2 := ⟨by decide, by simp [lowerQuartile, List.mergeSort]⟩

theorem test_SlotBoundaries_due :
    let s : State := { up 1 [] with slt := { State.reset.slt with next := some 0, nextSen := 300053 } }; s.slt.next = some 0 ∧ s.clk.running = true ∧ s.txn ≠ txPending ∧ 0 ≤ (s.elapse 0).clk.slot := by decide

theorem test_SlotBoundaries_realign :
    let s : State := { up 1 [(F.CUR_OWN_STATUS_OWNER, 1), (F.SLT_SEN_DIFF_VALUE, 0xFFFFFFFF)] with slt := { State.reset.slt with next := some 5000000, nextSen := 1 } }; s.slt.next = some 5000000 ∧ s.clk.core = true ∧ s.mode = stAutonomous ∧ s.owns .host = true ∧ bitsOf (1#32 : Word) 0 0 = 1 ∧ toSigned 32 (s.getF F.SLT_SEN_DIFF_VALUE) < 0 ∧ (s.slt.nextSen : Int) ≤ (idealFrom 5000000 (s.elapse 0)).2 := by decide

theorem test_SlotBoundaries_check :
    let s : State := { up 1 [] with slt := { State.reset.slt with next := some 5000000, past := [(0, 0)], chkNext := 5000000, chkBound := 90000 } }; s.clk.running = true ∧ s.slt.next ≠ none ∧ s.slt.past ≠ [] ∧ checkSlot s.bound s.sen (s.elapse 0) = some (0, 450) ∧ s.mode = stAutonomous ∧ s.getF F.SAF_STATUS_SAFE = 0 := by decide

theorem test_SlotBoundaries_quiet :
    let s : State := { up 1 [] with slt := { State.reset.slt with next := some 5000000, past := [(0, 0)], chkNext := 5000000 } }; checkSlot s.bound s.sen (s.elapse 0) = none := by decide

theorem test_NeighbourTable_miss :
    let x : Neighbour := ⟨false, 2, 167, 1, 2, 5, 1000, 100, 7, -300, 0, 3, 1, []⟩; let s : State := { up 1 [(F.SLT_SEN_LO_SEN, 5000000)] with slt := { State.reset.slt with nbrs := [(0, some x)] } }; s.clk.running = true ∧ s.nbr 0 = some x ∧ x.silent = false ∧ x.exp + graceSlots s < s.sen := by decide

theorem test_NeighbourTable_release :
    let x : Neighbour := ⟨true, 3, 167, 1, 2, 5, 1000, 100, 7, -300, 0, 3, 1, []⟩; let s : State := { up 1 [(F.SLT_SEN_LO_SEN, 5000000)] with slt := { State.reset.slt with nbrs := [(0, some x)] } }; s.nbr 0 = some x ∧ x.silent = true ∧ x.exp + graceSlots s < s.sen := by decide

theorem test_NeighbourTable_clear :
    let s := up 1 [(F.CUR_OWN_STATUS_OWNER, 1)]; s.clk.core = true ∧ s.mode = stAutonomous ∧ s.owns .host = true ∧ bitsOf (0x80000002#32 : Word) 31 31 = 1 := by decide

theorem test_NeighbourTable_jobs :
    let j : Job := { newJob ecCPH 0 0 3 0 [] (.openBcn 3) with state := jsComplete }; let s : State := { up 1 [] with fab := { State.reset.fab with jobs := [(0, some j)] } }; s.job 0 = some j ∧ j.work = .openBcn 3 ∧ j.state = jsComplete ∧ s.fab.waiting = [] ∧ s.getF F.TRC_RING_CTRL_EN = 0 ∧ j.status = scOk := by decide

theorem test_NeighbourTable_beacon :
    let p : List Byte := [1, 1, 7, 0, 5, 0, 0, 0, 0, 20, 100, 0, 100, 0, 0, 0, 2, 1, 0, 0, 0, 0, 0, 0, 0]; let f : List Byte := [0x08, 0xD0, 1, 2, 3, 1, 1, 1, 1, 1, 1, 1, 1, 5, 9, 0, 0, 0, 0, 0, 0, 0] ++ p ++ [0, 0, 0, 0]; beaconHdr f = some ⟨5, 9, 0x302, 0x101010101010101, 22⟩ ∧ (f.drop 22).take (f.length - micLen 5 - 22) = p ∧ entNat p 0 1 = 1 ∧ entNat p 1 1 = 1 ∧ beaconForm p = true ∧ entNat p 9 1 = (up 1 []).getF F.SLT_CONFIG_SLOT_CODE ∧ entNat p 12 2 = (up 1 []).getF F.SLT_RES_CFG_RES_FRAME ∧ entNat p 2 2 % 1024 ≠ (up 1 []).getF F.SLT_ADDR_RID ∧ (List.range 64).find? (fun i => ((up 1 []).nbr i).isNone) = some 0 := by decide

theorem test_Associations_attempt :
    let r : Response := ⟨1, 10, 2, 0, 0, 5, 1, false, false, 0, 7⟩; let d := newDl 1 0 2 .response 0 [0x21, 0] false; let s : State := { up 1 [(F.SLT_SEN_LO_SEN, 12)] with slt := { State.reset.slt with responses := [r] }, xch := { State.reset.xch with dls := [(7, some d)] } }; s.clk.running = true ∧ s.slt.responses.find? (fun r => r.nix == 1) = some r ∧ s.dl r.dl = some d ∧ d.psdu = none ∧ d.building = false ∧ 1 ≤ 1 ∧ 1 ≤ maxTries r ∧ r.tries < 1 ∧ 0 < r.step ∧ s.sen = r.sen + 1 * r.step := by decide

theorem test_Associations_fail :
    let r : Response := ⟨1, 10, 2, 3, 0, 5, 1, false, false, 0, 7⟩; let s : State := { up 1 [(F.SLT_SEN_LO_SEN, 17)] with slt := { State.reset.slt with responses := [r] }, cat := { State.reset.cat with valid := [1], cache := [(1, some ⟨entPut (List.replicate 512 0) 32 1 1, none, 0⟩)] } }; s.slt.responses.find? (fun r => r.nix == 1) = some r ∧ r.result = 0 ∧ ((s.dl r.dl).all fun d => d.attempt.isNone) = true ∧ r.sen + 3 * r.step < s.sen ∧ (s.line 1).any (fun l => l.bytes.length == 512) = true ∧ entAssoc (s.entry 1) = asPending := by decide

theorem test_Associations_lost :
    let s : State := { up 1 [] with clk := { State.reset.clk with core := true, running := true, slot := 5 * sec }, cat := { State.reset.cat with valid := [2], cache := [(2, some ⟨entPut (List.replicate 512 0) 32 8 2, none, 0⟩)] } }; 2 ∈ s.cat.valid ∧ (s.line 2).any (fun l => l.bytes.length == 512) = true ∧ 2 ≤ entAssoc (s.entry 2) ∧ entNat (s.entry 2) 36 4 < (s.elapse 0).clk.slot / sec := by decide

theorem test_Associations_owner :
    let s := up 1 [(F.CUR_OWN_STATUS_OWNER, 1)]; s.clk.core = true ∧ s.mode = stAutonomous ∧ s.owns .host = true ∧ bitsOf (0x80000002#32 : Word) 31 31 = 1 ∧ s.slt.updQueue.length < 256 := by decide

theorem test_Associations_update :
    let s : State := { up 1 [] with slt := { State.reset.slt with updQueue := [(2, 0)] }, cat := { State.reset.cat with valid := [2], cache := [(2, some ⟨entPut (List.replicate 512 0x80) 32 8 2, none, 0⟩)] }, tabs := [(0x10040000, 0x80100000#32), (0x10040004, 0x40010100#32)] }; s.slt.updQueue = (2, 0) :: [] ∧ entValid (s.entry 2) = true ∧ entAssoc (s.entry 2) = asActive ∧ (s.slt.updates.any fun u => u.nix == 2) = false ∧ (templBlock (entProfile (s.entry 2)) 2 (entBits (s.entry 2) 10 4 4 == 1) s).isSome = true := by decide

theorem test_Associations_instant :
    let u : SchedUpd := ⟨2, [1, 0], 0, [], 5, false⟩; let s : State := { up 1 [(F.SLT_SEN_LO_SEN, 17)] with slt := { State.reset.slt with updates := [u] }, cat := { State.reset.cat with valid := [2], cache := [(2, some ⟨entPut (List.replicate 512 0) 32 1 2, none, 0⟩)] } }; s.slt.updates.find? (fun u => u.nix == 2) = some u ∧ u.instantSen ≤ s.sen ∧ u.acked = false ∧ entAssoc (s.entry 2) = asActive := by decide

theorem test_UplinkAcceptance_taken :
    let j : Job := { newJob ecRXA 0 0 3 0 [] (.rxa 3) with state := jsRunning }; let s := withJob 0 j (withFrame 3 2 ([0x09, 0xA0, 7, 0, 0, 0x67, 0x12, 5, 9, 0, 0, 0, 0x31, 2, 1, 2, 3, 4, 0x5C, 0x91, 0, 0, 0, 0]) (withEntry 1 (entryOf [(8, 0x67), (9, 0x12), (32, 2)]) (up 1 [(F.BMP_POOL_CFG_COUNT64, 1)]))); let a := newAccept 3 s; let m : Mac := ⟨0, false, 0x1267, 7, 5, 9, 12⟩; s.job 0 = some j ∧ j.work = .rxa 3 ∧ isBeaconFrame (s.bytes (bufferAddr 3 s) 2) = false ∧ parseMac (s.bytes (bufferAddr 3 s) a.psduLen) (a.psduLen - 2) s = some m ∧ byShort m.source (groupOf a.port s) s = some 1 ∧ (s.line 1).isSome = true ∧ entFaulty (s.entry 1) = false ∧ m.form ≠ 2 ∧ secLevel 1 s ≤ m.level ∧ 5 ≤ m.level := by decide

theorem test_UplinkAcceptance_form :
    parseMac [0x0A, 0xA0, 7, 1, 0, 0x67, 0x12, 5, 9, 0, 0, 0, 0x31, 2, 1, 2, 3, 4, 0x5C, 0x91, 0, 0, 0, 0] 22 (up 1 []) = none := by decide

theorem test_UplinkAcceptance_acc :
    let a : Accept := ⟨3, 0, 3, 1, 2, false, false, 0, true, 1, 9, 0x915C, 7, 5, 12, 24, 0, 1000, 0, 0, false, false, none, false, false, [], none, false, false⟩; let j : Job := { newJob ecCPH 0 0 3 0 [] (.cipher (.openAcc 0)) with state := jsComplete }; let s := withJob 0 j { (withFrame 3 2 ([0x29, 0xA0, 7, 0, 0, 0x67, 0x12, 5, 9, 0, 0, 0, 0x31, 2, 1, 2, 3, 4, 0x5C, 0x91, 0, 0, 0, 0]) (withEntry 1 (entryOf [(8, 0x67), (9, 0x12), (32, 2)]) (up 1 [(F.BMP_POOL_CFG_COUNT64, 1)]))) with xch := { State.reset.xch with accs := [(0, some a)] } }; s.job 0 = some j ∧ s.acc 0 = some a ∧ mustWait 0 a s = false ∧ j.status = scOk ∧ acceptDecision a.nix a.fc a.digest s = 0 ∧ (s.line a.nix).any (fun l => l.bytes.length == 512) = true ∧ entAssoc (s.entry a.nix) = asActive ∧ a.form = 0 ∧ s.fab.waiting = [] ∧ a.decided = false ∧ a.cls ≠ 0 ∧ entNat (s.bytes (bufferAddr a.buffer s + a.hdrLen) (a.bodyEnd - a.hdrLen)) 0 1 = 0x31 := by decide

theorem test_UplinkAcceptance_counters :
    counterDecision (entryOf [(16, 9), (20, 0x5C), (21, 0x91), (23, 1)]) 9 0x915C = 1 ∧ counterDecision (entryOf [(16, 10), (23, 1)]) 9 0x915C = 2 := by decide

theorem test_RetriesFloodsReceipts_wait :
    let d : Dl := { newDl 1 0 2 .backhaul 7 [0x31, 2] false with attempt := some (3, some 0) }; let s : State := { up 1 [] with xch := { State.reset.xch with dls := [(0, some d)] }, clk := { State.reset.clk with core := true, running := true, slot := 2000000 } }; s.dl 0 = some d ∧ d.attempt = some (3, some 0) ∧ 0 + (1000 + s.getF F.XCH_CFG_ACK_WAIT_US) * us ≤ (s.elapse 0).clk.slot ∧ d.source = .backhaul ∧ d.doomed = false ∧ d.retries < s.getF F.XCH_DL_CFG_MAX_RETRY ∧ segId d = none := by decide

theorem test_RetriesFloodsReceipts_flood :
    let f : Flood := ⟨[0x33, 0x12, 1, 0, 0, 0, 5, 0], 2, none, false, none⟩; let s : State := { up 1 [] with xch := { State.reset.xch with floods := [f] } }; s.xch.floods = f :: [] ∧ findAccession (floodOrigin f.payload) (floodSeq f.payload) s = false := by decide

theorem test_RetriesFloodsReceipts_seen :
    let f : Flood := ⟨[0x33, 0x12, 1, 0, 0, 0, 5, 0], 2, none, false, none⟩; let s : State := { up 1 [] with xch := { State.reset.xch with floods := [f], accession := [(1, some ⟨1, 5, 1000000000, 0⟩)] } }; findAccession (floodOrigin f.payload) (floodSeq f.payload) (s.elapse 0) = true := by decide

theorem test_RetriesFloodsReceipts_timer :
    let r : Receipt := ⟨3, 4, 0, false, true, false⟩; let s : State := { up 1 [(F.SAF_CFG_ACT_A, 0)] with xch := { State.reset.xch with receipts := [(0, some r)] } }; Sparse.get (fun _ => none) s.xch.receipts 0 = some r ∧ r.expired = false ∧ r.owed = false ∧ r.deadline ≤ (s.elapse 0).clk.now ∧ s.getF F.SAF_CFG_ACT_A = 0 ∧ s.mode = stAutonomous ∧ s.getF F.SAF_STATUS_SAFE = 0 := by decide

theorem test_CatalogueCommands_start :
    let s := up 1 [(F.CUR_OWN_STATUS_OWNER, 1), (F.CAT_CMD_ADDR_ADDR, 0x8000000), (F.CAT_CMD_COUNT_COUNT, 2)]; s.clk.core = true ∧ s.mode = stAutonomous ∧ s.owns .host = true ∧ s.getF F.CAT_CMD_STATUS_BUSY = 0 ∧ 1 + s.getF F.CAT_CMD_COUNT_COUNT ≤ 131072 ∧ catRangeBad 1 (s.getF F.CAT_CMD_ADDR_ADDR) (s.getF F.CAT_CMD_COUNT_COUNT) s = false ∧ freeId s = some 0 := by decide

theorem test_CatalogueCommands_range :
    let s := up 1 [(F.CAT_CMD_COUNT_COUNT, 2)]; 131072 < 131071 + s.getF F.CAT_CMD_COUNT_COUNT := by decide

theorem test_CatalogueCommands_entry :
    let j : Job := { newJob ecMNT 0 0 0 0 [] .catCmd with state := jsRunning }; let c : CatCmd := ⟨3, 0, 0, 2, 1, 0⟩; let s : State := withJob 0 j { (withEntry 1 (entryOf [(8, 0x67), (9, 0x12)]) (up 1 [])) with cat := { (withEntry 1 (entryOf [(8, 0x67), (9, 0x12)]) (up 1 [])).cat with cmd := some c } }; s.cat.cmd = some c ∧ catJob s = some (0, j) ∧ j.state = jsRunning ∧ entPins (c.nix + c.done) s = 0 ∧ (s.line (c.nix + c.done)).any (fun l => l.bytes.length == 512) = true ∧ c.done + 1 = c.count ∧ entryRefused (c.nix + c.done) c.cmd c.mask (s.entry 1) (List.replicate 512 0) false s = none := by decide

theorem test_CatalogueCommands_back :
    let l : CacheLine := ⟨entryOf [(8, 0x67), (9, 0x12)], some 7, 0⟩; let s : State := { up 1 [] with cat := { State.reset.cat with cache := [(1, some l)] } }; s.line 1 = some l ∧ l.dirty ≠ none ∧ l.bytes.length = 512 := by decide

theorem test_ShaperOrder_entry :
    let f : SFrame := ⟨16, 2, 5, 5, 100, 0, .record ⟨1, 2, 0, 0, 5, 9, [], []⟩ none, none⟩; let s : State := { up 1 [] with shp := { State.reset.shp with entering := [f] } }; s.clk.running = true ∧ s.shp.entering.find? (fun f => covered f.waitPos s) = some f ∧ entryRefusal f s = none := by decide

theorem test_ShaperOrder_limit :
    let f : SFrame := ⟨16, 2, 5, 5, 100, 0, .record ⟨1, 2, 0, 0, 5, 9, [], []⟩ none, none⟩; let s : State := { up 1 [] with shp := { State.reset.shp with entering := [f], queues := [⟨16, 2, 5, 0, [⟨16, 2, 5, 5, 100, 0, .ether [], none⟩], 0, 0⟩] }, tabs := [(0x40000000 + 16 * (8 * 16 + 2) + 4, 1#32)] }; s.shp.entering.find? (fun f => covered f.waitPos s) = some f ∧ entryRefusal f s = some (2, scNoBuffer) := by decide

theorem test_ShaperOrder_decision :
    let f : SFrame := ⟨16, 2, 5, 5, 100, 0, .ether [], none⟩; let q : Queue := ⟨16, 2, 5, 7, [f], 0, 0⟩; let s : State := { up 1 [(F.BHL_PORT_STATUS_LINK 0, 1)] with shp := { State.reset.shp with queues := [q] } }; portOpen 16 s = true ∧ paced 16 (s.elapse 0) = true ∧ chooseClass 16 ((List.range 8).filter fun c => classEligible 16 c s) s = some 2 ∧ chooseQueue 16 2 s = some q ∧ q.frames.head? = some f ∧ clsStrict 16 2 s = false := by decide

theorem test_ShaperOrder_set :
    let s : State := { up 1 [(F.SHP_SRING_CTRL_EN, 1), (F.SHP_SRING_CTRL_PERIOD_MS, 1)] with clk := { State.reset.clk with core := true, running := true, slot := 200000 } }; s.getF F.SHP_SRING_CTRL_EN = 1 ∧ s.shp.epoch < (s.elapse 0).clk.slot ∧ ((s.elapse 0).clk.slot - s.shp.epoch) % max (s.getF F.SHP_SRING_CTRL_PERIOD_MS * ms) 1 = 0 ∧ s.shp.lastSet ≠ some (s.elapse 0).clk.slot := by decide

theorem test_ShaperOrder_ring :
    let s := up 1 [(F.SHP_SRING_WR_COUNT, 5)]; s.clk.core = true ∧ s.mode = stAutonomous ∧ (s.getF F.SHP_SRING_WR_COUNT + 2 ^ 32 - (3#32 : Word).toNat) % 2 ^ 32 ≤ sringSize s := by decide

theorem test_FabricDecisions_create :
    freeId (up 1 []) = some 0 ∧ (up 1 []).clk.running = true := by decide

theorem test_FabricDecisions_dispatch :
    let j := newJob 5 3 0 9 9 [] .none; let s : State := { up 1 [] with fab := { State.reset.fab with jobs := [(0, some j)], ready := [(64 * 5 + 3, [0])] } }; freeUnit 5 s = some 0 ∧ topPrio 5 s = some 3 ∧ s.readyList 5 3 = 0 :: [] ∧ s.job 0 = some j ∧ j.cls = 5 ∧ j.prio = 3 := by decide

theorem test_FabricDecisions_preempt :
    let j : Job := { newJob 15 9 0 9 9 [] .none with state := jsRunning }; let s : State := { up 1 [] with fab := { State.reset.fab with jobs := [(0, some j), (2, some (newJob 15 3 0 9 9 [] .none))], ready := [(64 * 15 + 3, [2])] } }; s.job 0 = some j ∧ j.state = jsRunning ∧ j.cancel = none ∧ preempts 0 j s = true ∧ topPrio j.cls s = some 3 ∧ s.readyList j.cls 3 = 2 :: [] ∧ (s.job 2).isSome = true := by decide

theorem test_FabricDecisions_fault :
    let j : Job := { newJob 9 3 0 noHandle noHandle [] .none with state := jsRunning }; isDma j.cls = true ∧ j.cancel = none ∧ j.state = jsRunning := by decide

theorem test_FabricDecisions_stall :
    (up 1 []).mode = stAutonomous ∧ (up 1 []).getF F.SAF_STATUS_SAFE = 0 ∧ 4 * longestRun 5 < 4001 := by decide

theorem test_FabricDecisions_complete :
    let j : Job := { newJob 5 3 0 9 9 [] .none with state := jsRunning, submitted := some (0, 0x8000000) }; let s : State := { up 1 [] with fab := { State.reset.fab with jobs := [(1, some j)] } }; s.job 1 = some j ∧ s.fab.waiting = [] ∧ j.cls ≠ ecCPH ∧ isDma j.cls = false ∧ j.work = .none := by decide

theorem test_FabricDecisions_back :
    let j : Job := { newJob 9 3 0 noHandle noHandle [0, 0, 0, 8] .none with state := jsComplete, submitted := some (0, 0x8000000) }; j.state = jsComplete ∧ j.submitted = some (0, 0x8000000) ∧ 0x8000000 % 64 = 0 ∧ j.notify = false := by decide

theorem test_MastersAndTrace_submit :
    let b : List Byte := [0x09, 0x02, 0, 0, 0, 0, 0, 0, 255, 255, 255, 255, 255, 255, 255, 255, 0, 0, 0, 8, 0, 0, 0, 9, 0, 1, 0, 0, 0, 0, 0, 0] ++ List.replicate 32 0; let s := (up 1 []).setBytes 0x8000000 b; s.clk.core = true ∧ s.mode = stAutonomous ∧ inDram 0x8000000 64 s = true ∧ badWord 0x8000000 64 s = none ∧ descriptorOk (s.bytes 0x8000000 64) = true ∧ s.getF F.JOB_SUB_CFG_MIN_PRIO ≤ entNat (s.bytes 0x8000000 64) 0 4 / 16 % 64 ∧ freeId s = some 0 ∧ submittedCount s < s.getF F.JOB_SUB_CFG_MAX_SUB := by decide

theorem test_MastersAndTrace_urgent :
    let b : List Byte := [0x19, 0x00, 0, 0, 0, 0, 0, 0] ++ List.replicate 56 0; descriptorOk b = true ∧ entNat b 0 4 / 16 % 64 < (up 1 []).getF F.JOB_SUB_CFG_MIN_PRIO := by decide

theorem test_MastersAndTrace_cancel :
    let j : Job := { newJob 9 9 0xFFFF 9 9 [] .none with submitted := some (0, 0x8000000) }; let s : State := { up 1 [] with fab := { State.reset.fab with jobs := [(0, some j)], ready := [(64 * 9 + 9, [0])] } }; s.job 0 = some j ∧ j.submitted = some (Master.host.bit, 0x8000000) ∧ j.state = jsReady ∧ j.cls ≠ ecCPH := by decide

theorem test_MastersAndTrace_resume :
    let j : Job := { newJob 9 9 0xFFFF 9 9 [] .none with state := jsFaulted, submitted := some (0, 0x8000000) }; j.state = jsFaulted ∧ j.submitted = some (Master.host.bit, 0x8000000) := by decide

theorem test_MastersAndTrace_copy :
    let s := (up 1 []).setReg 0x100058 0x8000040#32; inDram ((s.reg (0x100058 + 4 * Master.host.bit)).toNat / 64 * 64) 64 s = true ∧ hitsCatalogue ((s.reg (0x100058 + 4 * Master.host.bit)).toNat / 64 * 64) 64 s = false ∧ (s.reg (0x100058 + 4 * Master.host.bit)).toNat / 64 * 64 ≠ 0 ∧ ((up 1 []).reg (0x100058 + 4 * Master.host.bit)).toNat / 64 = 0 := by decide

theorem test_MastersAndTrace_ring :
    let s := up 1 [(F.TRC_RING_WR_COUNT, 5)]; (s.getF F.TRC_RING_WR_COUNT + 2 ^ 32 - (3#32 : Word).toNat) % 2 ^ 32 ≤ traceSize s ∧ s.getF F.TRC_RING_CTRL_EN = 0 ∧ s.getF F.TRC_PORT_CTRL_EN = 0 := by decide

theorem test_MemoryAndDma_init :
    let s := up 1 [(F.DRM_STATUS_TRAINED, 1)]; s.clk.running = true ∧ s.getF F.DRM_STATUS_TRAINED = 1 ∧ (14335#16 : BitVec 16).toNat < blockCount s := by decide

theorem test_MemoryAndDma_scrub :
    let s := up 1 [(F.DRM_STATUS_INIT_DONE, 1), (F.DRM_SCRUB_POS_ADDR, 5)]; s.getF F.DRM_STATUS_INIT_DONE = 1 ∧ s.getF F.DRM_SCRUB_POS_ADDR = 5 ∧ s.mem.poisoned = [] ∧ 5 * 64 + 64 < usableBytes s := by decide

theorem test_MemoryAndDma_wrap :
    let s := up 1 [(F.DRM_STATUS_INIT_DONE, 1), (F.DRM_SCRUB_POS_ADDR, 896 * 16384 - 1)]; s.getF F.DRM_STATUS_INIT_DONE = 1 ∧ usableBytes s ≤ s.getF F.DRM_SCRUB_POS_ADDR * 64 + 64 := by decide

theorem test_MemoryAndDma_late :
    let s : State := { up 1 [] with mem := { State.reset.mem with passStart := some 0 } }; s.mem.passStart = some 0 ∧ 0 + 8 * sec ≤ (s.elapse (8 * sec)).clk.now ∧ s.mem.passLate = false ∧ s.mode = stAutonomous ∧ s.getF F.SAF_STATUS_SAFE = 0 := by decide

theorem test_MemoryAndDma_rate :
    let s : State := { up 1 [(F.DRM_ECC_CFG_CE_LIMIT, 2)] with mem := { State.reset.mem with ceCount := 5 } }; s.getF F.DRM_ECC_CFG_CE_LIMIT < s.mem.ceCount ∧ s.mem.ceSecond < (s.elapse sec).clk.slot / sec := by decide

theorem test_MemoryAndDma_fill :
    let j : Job := { newJob 9 3 0 noHandle noHandle [0x21, 0, 0, 8, 0x11, 0, 0, 9, 0x40, 1, 0, 0x40] .none with state := jsRunning, done := 0xEF }; let s := withJob 0 j (up 1 []); s.job 0 = some j ∧ j.state = jsRunning ∧ j.cls = ecMDM ∧ j.buf1 = noHandle ∧ j.done < (dmaArgOf j).len ∧ (dmaArgOf j).fill = true ∧ j.work = .none ∧ badPartial ((dmaArgOf j).dst + j.done) (chunkLen j s) s = none ∧ chunkLen j s = 0x51 := by decide

theorem test_MemoryAndDma_copy :
    let j : Job := { newJob 9 3 0 noHandle noHandle [0x21, 0, 0, 8, 0x11, 0, 0, 9, 0x40, 1] .none with state := jsRunning }; let s := withJob 0 j (up 1 []); (dmaArgOf j).fill = false ∧ j.buf0 = noHandle ∧ badWord ((dmaArgOf j).src + j.done) (chunkLen j s) s = none ∧ badPartial ((dmaArgOf j).dst + j.done) (chunkLen j s) s = none := by decide

theorem test_MemoryAndDma_host :
    let j : Job := { newJob 8 3 0 noHandle noHandle [0, 0, 0, 8, 0x80, 0x3F, 0x12, 0x20, 0x10, 0x27] .none with state := jsRunning, entry := some 0xABCDE003 }; let s := withJob 0 j (up 1 []); j.cls = ecHDM ∧ j.entry = some 0xABCDE003 ∧ mapFault j (dmaArgOf j) = none ∧ (dmaArgOf j).toDevice = false ∧ badWord ((dmaArgOf j).src + j.done) (chunkLen j s) s = none ∧ chunkLen j s = 128 := by decide

theorem test_MemoryAndDma_fault :
    let j : Job := { newJob 8 3 0 noHandle noHandle [0, 0, 0, 8, 0, 0x50, 0x12, 0x20, 0x10, 0x27] .none with state := jsRunning, entry := some 0xABCDE002 }; mapFault j (dmaArgOf j) = some 1 ∧ j.cancel = none ∧ (dmaArgOf j).ctx * 2 ^ 28 + ((dmaArgOf j).wofs + j.done) % 2 ^ 28 = 0x20125000 := by decide

theorem test_MemoryAndDma_ecc :
    let j : Job := { newJob 9 3 0 noHandle noHandle [0x21, 0, 0, 8, 0x11, 0, 0, 9, 0x40, 1] .none with state := jsRunning }; let s := withJob 0 j { up 1 [] with mem := { State.reset.mem with poisoned := [(0x8000028 / 8, true)] } }; badWord ((dmaArgOf j).src + j.done) (chunkLen j s) s = some (0x8000028 / 8) := by decide

theorem test_MemoryAndDma_fence :
    let s := up 1 []; s.clk.core = true ∧ s.mode = stAutonomous ∧ (Sparse.get (fun _ => []) s.mem.fence 3).isEmpty = true := by decide

theorem test_LanesAndKnownAnswers_mismatch :
    let j : Job := { newJob ecCPH 3 0 5 5 [] .none with state := jsRunning, pins := [3] }; let s := withJob 1 j (up 1 []); s.job 1 = some j ∧ j.cls = ecCPH ∧ j.state = jsRunning ∧ s.getF F.CPH_STATUS_STATE ≠ 2 ∧ s.clk.running = true := by decide

theorem test_LanesAndKnownAnswers_run :
    let s : State := { up 1 [(F.CUR_OWN_STATUS_OWNER, 1)] with cph := { State.reset.cph with kat := some (0, false) } }; s.cph.kat = some (0, false) ∧ s.fab.jobs = [] ∧ ((List.range 16).all fun n => (s.port n).held.isNone) = true ∧ s.mode = stAutonomous ∧ s.getF F.SAF_STATUS_SAFE = 0 ∧ s.clk.core = true ∧ s.owns .host = true ∧ 0 + 10 * ms ≤ (s.elapse (10 * ms)).clk.now := by decide

theorem test_LanesAndKnownAnswers_due :
    let s : State := { up 1 [] with cph := { State.reset.cph with katFirst := true } }; katDue (s.elapse 1) = true ∧ s.cph.inject = false := by decide

theorem test_LanesAndKnownAnswers_waits :
    let s := up 1 [(F.CUR_OWN_STATUS_OWNER, 1)]; s.cph.kat = none ∧ runningOf ecCPH s = [] ∧ s.owns .host = true ∧ bitsOf 0x7183 15 0 = 0x7183 := by decide

theorem test_KeyCommands_clear :
    let s : State := { up 1 [(F.CUR_OWN_STATUS_OWNER, 1)] with fuses := { State.reset.fuses with lifecycle := 1 } }; s.clk.core = true ∧ s.mode = stAutonomous ∧ s.owns .host = true ∧ s.getF F.KEY_CMD_STATUS_BUSY = 0 ∧ keysUsable s = true ∧ (s.slotOf 63).closing = false ∧ slotPins 63 s = 0 ∧ attrBad (keyCmdOf 1 63 0 s) = false ∧ genEnds 63 s = false := by decide

theorem test_KeyCommands_genEnd :
    let s : State := { up 1 [] with key := { State.reset.key with slots := [(1, { KeySlot.empty with full := true })] }, tamp := { State.reset.tamp with gens := [(1, 0xFFFF)] } }; genEnds 1 s = true := by decide

theorem test_KeyCommands_derive :
    let s : State := { up 1 [(F.KEY_CMD_ADDR_VALUE, 0x8000000)] with key := { State.reset.key with slots := [(0, { KeySlot.empty with full := true, perms := 8, uses := 7 })] } }.setBytes 0x8000000 [2, 0, 1, 0, 65, 66, 67]; let p := s.slotOf 0; p.full = true ∧ p.depth < 3 ∧ p.may permDerive = true ∧ keyStale 4 p s = false ∧ keyOver p = false ∧ (deriveData (keyCmdOf 3 1 0 s) s).1 = .ok ([65, 66], [67]) := by decide

theorem test_KeyCommands_wrap :
    let s : State := { up 1 [(F.KEY_CMD_ARG_VALUE, 0xFFFFF)] with key := { State.reset.key with slots := [(0, { KeySlot.empty with full := true, klen := true, perms := 16, uses := 7 }), (1, { KeySlot.empty with full := true, uses := 7 })] } }; (s.slotOf 1).full = true ∧ (s.slotOf 1).xnr = false ∧ keyStale 4 (s.slotOf 1) s = false ∧ s.getF F.KEY_CMD_ARG_VALUE % 2 ^ 21 < 2 ^ 20 ∧ (s.slotOf 0).klen = true ∧ (s.slotOf 0).may permWrap = true ∧ keyOver (s.slotOf 0) = false := by decide

theorem test_KeyCommands_pinned :
    let s : State := { up 1 [(F.CUR_OWN_STATUS_OWNER, 1)] with fuses := { State.reset.fuses with lifecycle := 1 }, fab := { State.reset.fab with jobs := [(1, some { newJob 2 3 0 noHandle noHandle [] .none with pins := [0] })] } }; slotPins 0 s ≠ 0 ∧ keysUsable s = true := by decide

theorem test_KeyCommands_apply :
    let s : State := { up 1 [] with fuses := { State.reset.fuses with lifecycle := 1 }, key := { State.reset.key with deferred := some ⟨5, 1, 0, 0, 0, 0, 0, []⟩ } }; s.key.deferred = some ⟨5, 1, 0, 0, 0, 0, 0, []⟩ ∧ slotPins 1 s = 0 ∧ genEnds 1 s = false := by decide

theorem test_KeyCommands_load :
    let s : State := { up 1 [] with key := { State.reset.key with slots := [(70, { KeySlot.empty with full := true, linked := true, nix := 5 })] } }; cacheSlot 5 s = some 70 ∧ freeId s = some 0 ∧ s.fab.waiting = [] := by decide

theorem test_LifecycleAndTamper_chal :
    let s := up 1 []; s.clk.core = true ∧ s.lcs.chalAt = none := by decide

theorem test_LifecycleAndTamper_expire :
    let s : State := { up 1 [] with lcs := { State.reset.lcs with chalAt := some 0 } }; s.lcs.chalAt = some 0 ∧ 0 + 600 * sec ≤ (s.elapse (600 * sec)).clk.now := by decide

theorem test_LifecycleAndTamper_outside :
    let s := up 3 [(F.CUR_OWN_STATUS_OWNER, 1)]; s.clk.core = true ∧ s.owns .host = true ∧ s.getF F.LCS_CMD_STATUS_BUSY = 0 ∧ s.mode = stSafeHold ∧ inDram (0x40000000 / 64 * 64) 368 s = false := by decide

theorem test_LifecycleAndTamper_refused :
    let s : State := up 1 []; let b := s.bytes 0x8000040 368; inDram 0x8000040 368 s = true ∧ badWord 0x8000040 368 s = none ∧ tokenRefusal b none s = some (scDenied, 2) := by decide

theorem test_LifecycleAndTamper_change :
    let s : State := { up 1 [] with lcs := { State.reset.lcs with change := some 3 } }; s.lcs.change = some 3 := by decide

theorem test_LifecycleAndTamper_attest :
    let s : State := { up 1 [] with fuses := { State.reset.fuses with identity := true } }; s.getF F.LCS_ATTEST_STATUS_BUSY = 0 ∧ s.fuses.identity = true ∧ inDram 0x8000040 512 s = true ∧ badWord 0x8000050 32 s = none := by decide

theorem test_LifecycleAndTamper_done :
    let s : State := { up 1 [] with lcs := { State.reset.lcs with attest := some (0x8000000, List.replicate 32 9) } }; s.clk.running = true ∧ s.lcs.attest = some (0x8000000, List.replicate 32 9) ∧ 0x8000000 % 8 = 0 := by decide

theorem test_LifecycleAndTamper_tamper :
    let s := up 1 [(F.TAM_CFG_EN, 8)]; (8 &&& s.getF F.TAM_CFG_EN) ^^^ ((8 &&& s.getF F.TAM_CFG_EN) &&& s.getF F.TAM_STATUS_LIVE) = 8 ∧ s.pins.vinValid = true := by decide

theorem test_LifecycleAndTamper_cfg :
    let s := up 1 [(F.CUR_OWN_STATUS_OWNER, 1)]; s.owns .host = true ∧ s.getF F.TAM_CFG_LOCK = 0 := by decide

theorem test_TimeDomains_inc :
    let s := up 1 [(F.CUR_OWN_STATUS_OWNER, 1), (F.TIM_D_INC_LO_INC 1, 0)]; s.clk.running = true ∧ s.clk.core = true ∧ s.mode = stAutonomous ∧ s.owns .host = true ∧ s.getF (F.TIM_D_INC_LO_INC 1) + bitsOf 5 2 0 * 2 ^ 32 ≠ 0 ∧ s.getF (F.TIM_D_INC_LO_INC 1) + bitsOf 8 2 0 * 2 ^ 32 = 0 := by decide

theorem test_TimeDomains_holdover :
    let s := up 1 [(F.TIM_D_HOLD_VALUE 0, 1)]; s.getF (F.TIM_D_EXCH_STATUS_HOLDOVER 0) = 0 ∧ (s.domain 0).incAt + s.getF (F.TIM_D_HOLD_VALUE 0) * sec ≤ (s.elapse sec).clk.now ∧ timRuns s = true := by decide

theorem test_TimeDomains_apply :
    let s := up 1 [(F.TIM_D_STEP_SEC_SEC 0, 1)]; let w : Word := 0x80000000#32 + 999999999#32; bitsOf w 31 31 = 1 ∧ bitsOf w 29 0 ≤ 999999999 ∧ toSigned 32 (s.getF (F.TIM_D_STEP_SEC_SEC 0)) * 1000000000 + (bitsOf w 29 0 : Nat) = 1999999999 := by decide

theorem test_TimeDomains_refuse :
    999999999 < bitsOf (0x80000000#32 + 1000000000#32) 29 0 ∧ bitsOf (0x80000000#32 + 1000000000#32) 31 31 = 1 := by decide

theorem test_TimeDomains_arm :
    let s := up 1 [(F.TIM_D_STEP_SEC_SEC 1, 0xFFFFFFFF)]; let s := { s with time := { s.time with d1 := { s.time.d1 with t := 9000000000 * 2 ^ 32 } } }; let ns : Int := toSigned 32 (s.getF (F.TIM_D_STEP_SEC_SEC 1)) * 1000000000; ns = -1000000000 ∧ s.getF F.TIM_STEP_CFG_BACK_LIMIT_MS = 1000 ∧ ns - 1 < -(s.getF F.TIM_STEP_CFG_BACK_LIMIT_MS * 1000000 : Nat) := by decide

theorem test_TimeDomains_expire :
    let s := up 1 []; let s := { s with time := { s.time with d1 := { s.time.d1 with armed := some (-5, 0) } } }; (s.domain 1).armed = some (-5, 0) ∧ 0 + sec ≤ (s.elapse sec).clk.slot := by decide

theorem test_TimeDomains_diverge :
    let s := up 1 [(F.TIM_DIV_CFG_EN, 1)]; let s := { s with time := { s.time with d0 := { s.time.d0 with t := 1001 * 2 ^ 32 } } }; s.getF F.TIM_STATUS_DIVERGE_LIVE = 0 ∧ s.getF F.TIM_DIV_CFG_THRESH_NS * 2 ^ 32 < ((s.time.d0.t : Int) - s.time.d1.t).natAbs := by decide

theorem test_PtpAndPulses_event :
    let s := up 1 [(F.TSU_PORT_CFG_EN 0, 1), (F.TSU_PORT_CFG_L2 0, 1), (F.TSU_RING_CTRL_EN, 1), (F.TIM_D_PTP_CFG_EN 0, 1)]; let p : PtpMsg := ⟨0, 0, 7, 0, 0, 0, false, 100⟩; s.clk.running = true ∧ tsuTakes 0 p.transport s = true ∧ p.msg.val ≤ 3 ∧ s.getF F.TSU_RING_CTRL_EN = 1 ∧ (s.getF F.TSU_RING_WR_COUNT + 2 ^ 32 - s.getF F.TSU_RING_RD_COUNT) % 2 ^ 32 ≠ tsuSize s ∧ ptpFor 0 0 p true s = true := by decide

theorem test_PtpAndPulses_full :
    let s := up 1 [(F.TSU_RING_CTRL_LOG2N, 6), (F.TSU_RING_WR_COUNT, 64)]; (s.getF F.TSU_RING_WR_COUNT + 2 ^ 32 - s.getF F.TSU_RING_RD_COUNT) % 2 ^ 32 = tsuSize s := by decide

theorem test_PtpAndPulses_follow :
    let s := up 1 [(F.TIM_D_PTP_CFG_EN 0, 1)]; let y : SyncInfo := ⟨7, none, 100, 3, 0⟩; let s := { s with time := { s.time with d0 := { s.time.d0 with sync := some y } } }; let p : PtpMsg := ⟨8, 0, 7, 0, 0, 0, false, 100⟩; ptpFor 0 0 p true s = true ∧ ptpFor 1 0 p true s = false ∧ (s.domain 0).sync = some y ∧ y.seq = p.seq.toNat ∧ y.t1 = none := by decide

theorem test_PtpAndPulses_complete :
    let s := up 1 [(F.TIM_D_PTP_CFG_EN 0, 1)]; let y : SyncInfo := ⟨7, some 0, 80300, 0, 0⟩; let r : PtpReq := ⟨9, 0, some y, none, 0, 0⟩; let s := { s with time := { s.time with d0 := { s.time.d0 with req := some r } } }; let p : PtpMsg := ⟨9, 0, 9, 0, 0, 0, false, 49700⟩; ptpFor 0 0 p true s = true ∧ (s.domain 0).req = some r ∧ r.seq = p.seq.toNat ∧ r.sync = some y ∧ (((y.t2 - 0) + (p.body - r.sent)) * 65536 - y.corr - p.corr).tdiv 131072 = 65000 := by decide

theorem test_PtpAndPulses_peer :
    let s := up 1 [(F.TIM_D_PTP_CFG_EN 0, 1), (F.TIM_D_PTP_CFG_MECH 0, 1)]; let r : PtpReq := ⟨9, 0, none, some (5, 9), 0, 0⟩; let s := { s with time := { s.time with d0 := { s.time.d0 with req := some r } } }; (s.domain 0).req = some r ∧ r.answered = some (5, 9) := by decide

theorem test_PtpAndPulses_discard :
    let s := up 1 []; let r : PtpReq := ⟨9, 0, none, none, 0, 0⟩; let s := { s with time := { s.time with d0 := { s.time.d0 with req := some r } } }; (s.domain 0).req = some r ∧ r.first + sec ≤ (s.elapse sec).clk.now := by decide

theorem test_PtpAndPulses_clear :
    let s := up 1 [(F.CUR_OWN_STATUS_OWNER, 1), (F.TIM_D_EXCH_STATUS_PATH_STEP 1, 1)]; s.clk.core = true ∧ s.mode = stAutonomous ∧ s.owns .host = true ∧ s.getF (F.TIM_D_EXCH_STATUS_PATH_STEP 1) = 1 := by decide

theorem test_PtpAndPulses_pps :
    let s := up 1 [(F.TIM_PPSIN_CFG_EN, 1)]; let s := { s with time := { s.time with ppsIn := some 0 } }; s.getF F.TIM_PPSIN_CFG_EN = 1 ∧ s.time.ppsLost = false ∧ 0 + 220000000 ≤ (s.elapse 220000000).clk.now := by decide

theorem test_PtpAndPulses_pulse :
    let s := up 1 [(F.TIM_PPSOUT_CFG_EN, 1)]; let s := { s with time := { s.time with d0 := { s.time.d0 with t := unitsPerSec - 1 } } }; s.getF F.TIM_PPSOUT_CFG_EN = 1 ∧ carried ((s.elapse 1).domain (s.getF F.TIM_PPSOUT_CFG_DOM)) = true := by decide

theorem test_PtpAndPulses_ends :
    let s := up 1 []; let s := { s with time := { s.time with ppsOut := some 3 } }; s.time.ppsOut = some 3 ∧ 3 ≤ (s.elapse 3).clk.slot := by decide

theorem test_PtpAndPulses_ring :
    let s := up 1 [(F.TSU_RING_WR_COUNT, 5)]; (s.getF F.TSU_RING_WR_COUNT + 2 ^ 32 - (3#32 : Word).toNat) % 2 ^ 32 ≤ tsuSize s := by decide

theorem test_LinksAndRecords_link :
    let s := up 1 [(F.BHL_PORT_CFG_EN 1, 1), (F.BHL_PORT_STATUS_LINK 0, 1)]; s.clk.running = true ∧ s.getF (F.BHL_PORT_CFG_EN 1) = 1 ∧ s.getF (F.BHL_PORT_STATUS_LINK 1) = 0 ∧ s.mode ≠ stReserve ∧ s.getF (F.BHL_PORT_STATUS_LINK 0) = 1 := by decide

theorem test_LinksAndRecords_record :
    let s : State := { up 1 [(F.BHL_CFG_ENCAP, 0), (F.SLT_ADDR_RID, 37), (F.BHL_PORT_STATUS_LINK 0, 1)] with key := { State.reset.key with slots := [(0, { KeySlot.empty with full := true, perms := 4, uses := 5, parent := 0xFF })] } }; let r : List Byte := [1, 3, 0, 48, 0x80, 37, 0, 0, 0, 0, 0, 0, 0, 0, 0, 1] ++ List.replicate 32 0; let f : List Byte := List.replicate 12 0 ++ [0x88, 0xB5] ++ r; pauseQuanta f s = none ∧ typeOffset 0 f s = some 12 ∧ stage1 f 12 s = some r ∧ 60 ≤ f.length ∧ r.length = 48 ∧ keyRefusal 0 permCmac s = none ∧ s.getF F.SLT_ADDR_RID = 37 := by decide

theorem test_LinksAndRecords_stages :
    let s := up 1 [(F.SLT_ADDR_RID, 37)]; recGet true [2] 0 1 ≠ 1 ∧ (38 : Nat) % 1024 ≠ s.getF F.SLT_ADDR_RID := by decide

theorem test_LinksAndRecords_pause :
    let s := up 1 [(F.BHL_PORT_CFG_PAUSE_RX 0, 1)]; let f : List Byte := [0x01, 0x80, 0xC2, 0, 0, 0x01, 0, 0, 0, 0, 0, 0, 0x88, 0x08, 0, 1, 0, 9]; pauseQuanta f s = some 9 ∧ s.getF (F.BHL_PORT_CFG_PAUSE_RX 0) = 1 := by decide

theorem test_LinksAndRecords_downlink :
    let r : Rec := ⟨4, 2, 0, 0, 5, 0, [1, 0, 0, 0, 0x31, 0, 0, 0], [1, 2]⟩; let e := fetchEntry 5 (up 1 []); entNat r.arg 4 1 = 0x31 ∧ dlPsduLen r.nix (r.body.length + 2) false e ≤ (if nodeMode r.nix e = 7 then 127 else 2047) := by decide

theorem test_LinksAndRecords_confirm :
    let s : State := { up 1 [] with xch := { State.reset.xch with receipts := [(2, some ⟨5, 9, 100, false, false, false⟩)] } }; (s.xch.receipts.filterMap fun e => e.2.map fun r => (e.1, r)).find? (fun e => e.2.nix == 5 && e.2.fc == 9 && !e.2.owed) = some (2, ⟨5, 9, 100, false, false, false⟩) := by decide

theorem test_LinksAndRecords_hello :
    let s := up 1 []; 0 < s.getF F.BHL_CFG_HELLO_S ∧ s.bhl.helloAt + s.getF F.BHL_CFG_HELLO_S * sec ≤ (s.elapse (10 * sec)).clk.now := by decide

theorem test_LinksAndRecords_ends :
    let s : State := { up 1 [] with bhl := { State.reset.bhl with pauseEnd := [(1, some 7)] } }; Sparse.get (fun _ => none) s.bhl.pauseEnd 1 = some 7 ∧ 7 ≤ (s.elapse 7).clk.now := by decide

theorem test_HostRingsAndBar2_start :
    let s := up 1 [(F.BHL_HTX_CFG_EN 0, 1), (F.BHL_HTX_CFG_LOG2N 0, 4)]; s.clk.core = true ∧ s.mode = stAutonomous ∧ s.clk.running = true ∧ (3 + 2 ^ 32 - s.getF (F.BHL_HTX_RD_VALUE 0)) % 2 ^ 32 ≤ txSize 0 s ∧ 3 ≠ s.getF (F.BHL_HTX_RD_VALUE 0) ∧ freeId s = some 0 ∧ s.fab.jobs = [] := by decide

theorem test_HostRingsAndBar2_fetched :
    let j : Job := { newJob ecHDM 3 0 noHandle noHandle (hdmArgs 0 2 0 true 2048) (.hostTx 0) with state := jsRunning, done := 2048 }; let s := withJob 3 j (up 1 []); s.inFlight.find? (fun x => x.2.work == .hostTx 0) = some (3, j) ∧ j.state = jsRunning ∧ isDma j.cls = true ∧ (dmaArgOf j).len ≤ j.done ∧ j.cancel = none ∧ s.fab.waiting = [] := by decide

theorem test_HostRingsAndBar2_timeout :
    let j : Job := { newJob ecHDM 3 0 noHandle noHandle (hdmArgs 0x8000000 2 0x1000 true 2048) .none with state := jsRunning, entry := some 0xABCDE001 }; j.state = jsRunning ∧ j.cls = ecHDM ∧ (dmaArgOf j).toDevice = true ∧ j.done < (dmaArgOf j).len ∧ j.cancel = none ∧ mapFault j (dmaArgOf j) = none := by decide

theorem test_HostRingsAndBar2_bar2 :
    let s := up 1 []; inDram 0x37FFFFF8 8 s = true ∧ inDram 0x37FFFFF9 8 s = false ∧ badWord 0x37FFFFF8 8 s = none ∧ hitsCatalogue 0x37FFFFF8 8 s = false ∧ badPartial 0x37FFFFF8 8 s = none ∧ hitsCatalogue (catBase s) 8 s = true := by decide

theorem test_HostRingsAndBar2_poisoned :
    let s : State := { up 1 [] with mem := { State.reset.mem with poisoned := [(0x8000020 / 8, true)] } }; badWord 0x8000021 8 s = some (0x8000020 / 8) ∧ badPartial 0x8000021 8 s = some (0x8000020 / 8) := by decide

theorem test_HeartbeatsAndOwnership_sends :
    let s : State := { up 1 [] with fuses := { State.reset.fuses with pairRoot := true }, pair := { State.reset.pair with session := true } }; pairs s = true ∧ s.pair.wireSeq < 32 ∧ s.pair.session = true ∧ s.mode ≠ stFrozen ∧ s.pair.fseqTx + 1 < 0xFFFFFFFF := by decide

theorem test_HeartbeatsAndOwnership_absent :
    pairs { up 1 [] with fuses := { State.reset.fuses with pairRoot := false } } = false := by decide

theorem test_HeartbeatsAndOwnership_wire :
    let f : BitVec 16 := BitVec.ofNat 16 (wireFrame (2 * 2 ^ 10 + 2 ^ 9)); f.toNat / 2 ^ 14 = 2 ∧ wireFrame (f.toNat / 16) = f.toNat ∧ f.toNat / 2 ^ 13 % 2 = 1 := by decide

theorem test_HeartbeatsAndOwnership_lane :
    let s : State := { up 2 [] with fuses := { State.reset.fuses with pairRoot := true }, pair := { State.reset.pair with session := true } }; laneTakes true 1 s = true ∧ laneTakes false 1 s = false ∧ laneTakes true 0 s = false ∧ s.get64 F.PAR_PEER_SERIAL_LO_SERIAL F.PAR_PEER_SERIAL_HI_SERIAL = 0 := by decide

theorem test_HeartbeatsAndOwnership_snapshot :
    let s : State := { up 1 [(F.PAR_SNAP_SLOT, 1)] with pair := { State.reset.pair with snap := some (5, 64) } }; s.pair.snap = some (5, 64) ∧ s.getF F.PAR_SNAP_SLOT = 1 ∧ s.pair.snapKept = false := by decide

theorem test_HeartbeatsAndOwnership_check :
    let s : State := up 2 [(F.PAR_STATUS_LANE_UP, 1), (F.PAR_HB_STATUS_LANE_UP, 1), (F.PAR_HB_STATUS_LANE_MISS, 7)]; s.getF F.PAR_HB_STATUS_LANE_MISS = 7 ∧ s.getF F.PAR_HB_STATUS_LANE_UP = 1 ∧ s.mode ≠ stFrozen ∧ s.getF F.PAR_STATUS_WIRE_UP = 0 ∧ s.pair.takeover = none ∧ s.drivesOwn = false ∧ s.pair.laneGot = false := by decide

theorem test_HeartbeatsAndOwnership_probe :
    let s : State := { up 1 [(F.PAR_HB_STATUS_OWN_DRIVE, 1)] with fuses := { State.reset.fuses with pairRoot := true } }; s.drivesOwn = true ∧ s.pair.id = false := by decide

theorem test_HeartbeatsAndOwnership_dual :
    let s : State := { up 1 [(F.PAR_HB_STATUS_OWN_DRIVE, 1)] with pair := { State.reset.pair with unconfAt := some 0, unconfTx := some 0 } }; s.drivesOwn = true ∧ s.pair.id = false ∧ s.pair.unconfTx = some 0 ∧ 20 * ms ≤ (s.elapse (20 * ms)).clk.now ∧ s.getF F.SAF_STATUS_SAFE = 0 := by decide

theorem test_LaneAndTakeover_session :
    let s : State := { up 2 [] with fuses := { State.reset.fuses with pairRoot := true }, pair := { State.reset.pair with linkUp := true } }; pairs s = true ∧ s.mode ≠ stFrozen ∧ s.pair.linkUp = true := by decide

theorem test_LaneAndTakeover_write :
    let s : State := { up 2 [] with fuses := { State.reset.fuses with pairRoot := true }, pair := { State.reset.pair with session := true } }; pairs s = true ∧ s.mode = stReserve ∧ laneTakes true 1 s = true ∧ inPairArea 0x30000000 16 = true ∧ inPairArea 0x10000000 4096 = true ∧ inPairArea 0x1FFFFF80 128 = true ∧ inPairArea 0x1FFFFF80 129 = false ∧ s.jposAck % jring = 0 ∧ s.pair.fseqTx + 1 < 0xFFFFFFFF := by decide

theorem test_LaneAndTakeover_late :
    let s : State := { up 1 [(F.PAR_STATUS_LANE_UP, 1)] with pair := { State.reset.pair with jackWait := [(5, 0)] } }; s.mode = stAutonomous ∧ s.getF F.PAR_STATUS_LANE_UP = 1 ∧ s.pair.jackWait = [(5, 0)] ∧ 220 * us < (s.elapse (221 * us)).clk.now := by decide

theorem test_LaneAndTakeover_snapshot :
    let s : State := { up 1 [(F.PAR_STATUS_LANE_UP, 1), (F.PAR_STATUS_PAIR, 2), (F.PAR_CFG_SNAP_S, 5), (F.CUR_OWN_STATUS_OWNER, 1)] with pair := { State.reset.pair with slotA := some (4, 64) } }; s.getF F.PAR_STATUS_LANE_UP = 1 ∧ pairOk ≤ s.pairState ∧ s.owns .host = true ∧ newestSnap s = some (4, false, 64) ∧ s.pair.snapAt + 5 * sec ≤ (s.elapse (5 * sec)).clk.now ∧ s.pair.fseqTx + 1 < 0xFFFFFFFF := by decide

theorem test_LaneAndTakeover_takeover :
    let s : State := { up 2 [(F.PAR_HB_STATUS_OWN_DRIVE, 1)] with pair := { State.reset.pair with takeover := some ⟨5, true, none, false⟩, slotA := some (4, 64), slotB := some (5, 80) } }; s.drivesOwn = true ∧ validSlots s = [(true, 80), (false, 64)] := by decide

theorem test_MonitorsAndSafeExit_clocks :
    let s : State := { up 1 [(F.CLK_STATUS_DIV_OK, 63)] with clk := { (up 1 []).clk with monitor := true } }; s.clk.monitor = true ∧ s.mode ≠ stHibernate ∧ clockFaults [0] [] s = 1 ∧ clockFaults [3200] [300] s = 0 ∧ 1 &&& (s.reg 0x10000).toNat = 1 ∧ s.getF F.SAF_STATUS_SAFE = 0 := by decide

theorem test_MonitorsAndSafeExit_exit :
    let s : State := { up 3 [(F.CUR_OWN_STATUS_OWNER, 1), (F.SAF_STATUS_SAFE, 1)] with fuses := { State.reset.fuses with pairRoot := false }, saf := { State.reset.saf with fromAuto := true } }; exitOk s = true ∧ s.owns .host = true ∧ s.owns .curator = false ∧ exitOk (up 3 []) = false := by decide

theorem test_MonitorsAndSafeExit_supply :
    let s := up 1 []; monitorsRun s = true ∧ s.getF (⟨0x170008, 2, 2⟩ : Field) = 0 ∧ s.mode = stAutonomous := by decide

theorem test_MonitorsAndSafeExit_heat :
    let s : State := { up 1 [] with saf := { State.reset.saf with hot := 9 } }; monitorsRun s = true ∧ hottest [40, 116] = 116 ∧ s.getF F.SAF_MON_TEMP_FAULT = 0 ∧ s.saf.hot = 9 := by decide

theorem test_MonitorsAndSafeExit_cooled :
    let s : State := { up 1 [(F.SAF_MON_TEMP_FAULT, 1)] with saf := { State.reset.saf with cool := 999 } }; hottest [105] = 105 ∧ s.getF F.SAF_MON_TEMP_FAULT = 1 ∧ s.saf.cool = 999 := by decide

theorem test_MonitorsAndSafeExit_tests :
    let s : State := { up 1 [(F.CUR_OWN_STATUS_OWNER, 2)] with saf := { State.reset.saf with test := some (6, 0) } }; s.owns .curator = true ∧ s.getF F.SAF_TEST_BUSY = 0 ∧ bitsOf (0x80000006 : Word) 3 0 = 6 ∧ s.saf.test = some (6, 0) := by decide

theorem test_FreezeVitrineAndNvmRelease_freeze :
    let s := up 1 [(F.CUR_OWN_STATUS_OWNER, 1)]; mayFreeze s = true ∧ s.owns .host = true ∧ s.owns .curator = false ∧ bitsOf (0x7185 : Word) 15 0 = 0x7185 ∧ mayFreeze (up 5 []) = false := by decide

theorem test_FreezeVitrineAndNvmRelease_delay :
    let s : State := { up 3 [] with frz := ⟨some 50, false, false⟩ }; s.frz.delayEnd = some 50 ∧ 50 ≤ (s.elapse 50).clk.now ∧ (s.elapse 49).clk.now < 50 := by decide

theorem test_FreezeVitrineAndNvmRelease_chunk :
    let s : State := { up 6 [(F.FRZ_VSEL_REGION, 6), (F.FRZ_VSEL_CHUNK, 1)] with frz := ⟨none, true, true⟩ }; s.frz.fetching = true ∧ s.mode = stFrozen ∧ s.getF F.FRZ_VSEL_CHUNK < regionSize 6 s ∧ regionSize 7 s = 0 := by decide

theorem test_FreezeVitrineAndNvmRelease_flash :
    let s := up 3 []; s.clk.core = true ∧ mayCfg true .host s = true ∧ s.mode ≠ stReserve ∧ s.mode ≠ stFrozen ∧ mayCfg true .host (up 0 []) = false := by decide

/-! Witnesses whose proof is more than an evaluation: a trailer that makes its slot valid, and a slot that a takeover restores. -/

theorem leBytes_length (n v : Nat) : (leBytes n v).length = n := by
  induction n generalizing v with
  | zero => rfl
  | succ n ih => simp [leBytes, ih]

theorem leAt_of_empty (s : State) (h : s.dram = []) (a n : Nat) : s.leAt a n = 0 := by
  unfold State.leAt
  induction n generalizing a with
  | zero => rfl
  | succ n ih => simp [State.bytes, ofLe, ih, State.byte, h, Sparse.get, dramDefault]

/-- The front of a trailer with SEQ 0 and the LEN of R469. -/
def trailerFront : List Byte := [0x53, 0x4E, 0x41, 0x50, 0, 0, 0, 0, 0, 0, 0, 0, 0, 0, 0x80, 0x09]

/-- A trailer with a digest. -/
def trailerOf (x : List Byte) : List Byte := trailerFront ++ (x ++ List.replicate 48 0)

theorem trailerOf_take (x : List Byte) : (trailerOf x).take 4 = [0x53, 0x4E, 0x41, 0x50] := rfl
theorem trailerOf_seq (x : List Byte) : entNat (trailerOf x) 4 8 = 0 := by
  have h : ((trailerOf x).drop 4).take 8 = [0, 0, 0, 0, 0, 0, 0, 0] := rfl
  rw [entNat, h]; decide
theorem trailerOf_len (x : List Byte) : entNat (trailerOf x) 12 4 = coveredLen := by
  have h : ((trailerOf x).drop 12).take 4 = [0, 0, 0x80, 0x09] := rfl
  rw [entNat, h]; decide
theorem trailerOf_digest (x : List Byte) (hx : x.length = 64) : ((trailerOf x).drop 16).take 64 = x := by
  have h : (trailerOf x).drop 16 = x ++ List.replicate 48 0 := rfl
  rw [h, ← hx, List.take_left]

theorem test_LaneAndTakeover_trailer :
    let s : State := { up 2 [] with pair := { State.reset.pair with posA := coveredLen } }
    ∃ d : List Byte, d.length = 128 ∧ trailerOk false d s = true := by
  intro s
  have hl : (beBytes 64 (Config.sha512 (s.bytes (slotBase false) coveredLen))).length = 64 := by simp [beBytes, leBytes_length]
  generalize hx : beBytes 64 (Config.sha512 (s.bytes (slotBase false) coveredLen)) = x at hl
  refine ⟨trailerOf x, by simp [trailerOf, trailerFront, hl], ?_⟩
  have h5 : s.leAt (slotBase false) 8 = 0 := leAt_of_empty s (by decide) _ _
  unfold trailerOk
  rw [hx, trailerOf_take, trailerOf_seq, trailerOf_len, trailerOf_digest x hl, h5]
  simp

theorem restoreRegs_of_empty (b : Bool) (s : State) (h0 : (badWord (slotBase b) coveredLen s).isSome = false) (hd : s.dram = [])
    (h2 : commitOk s (applyShadows s) = true) : (restoreRegs b s).isSome = true := by
  have h1 : carriedPairs (slotBase b + 0x1000) 262144 s = [] := by
    unfold carriedPairs
    rw [List.filter_eq_nil_iff]
    intro e he
    obtain ⟨k, -, rfl⟩ := List.mem_map.1 he
    rw [leAt_of_empty _ hd, leAt_of_empty _ hd]; simp
  unfold restoreRegs
  rw [h0, h1]
  simp [carriedShadows, tryCommit, h2]

/-- A reserve in a takeover with both slots valid. -/
def taking (poisoned : List (Nat × Bool)) : State :=
  { up 2 [(F.PAR_HB_STATUS_OWN_DRIVE, 1)] with
    fuses := { State.reset.fuses with pairRoot := true }
    mem := { State.reset.mem with poisoned := poisoned }
    pair := { State.reset.pair with takeover := some ⟨5, true, none, false⟩, slotA := some (4, 64), slotB := some (5, 80) } }

theorem test_LaneAndTakeover_restore :
    validSlots (taking []) = [(true, 80), (false, 64)] ∧ (restoreRegs true ((taking []).elapse 0)).isSome = true :=
  ⟨by decide, restoreRegs_of_empty _ _ (by decide) (by decide) (by decide)⟩

theorem test_LaneAndTakeover_second :
    let s := (taking [(0x4000000, true)]).elapse 0
    restoreRegs true s = none ∧ (restoreRegs false s).isSome = true := by
  refine ⟨?_, restoreRegs_of_empty _ _ (by decide) (by decide) (by decide)⟩
  have h : (badWord (slotBase true) coveredLen ((taking [(0x4000000, true)]).elapse 0)).isSome = true := by decide
  unfold restoreRegs
  rw [if_pos h]

theorem test_LaneAndTakeover_neither :
    let s := (taking [(0x2000000, true), (0x4000000, true)]).elapse 0
    restoreRegs true s = none ∧ restoreRegs false s = none := by
  have h : ∀ b, (badWord (slotBase b) coveredLen ((taking [(0x2000000, true), (0x4000000, true)]).elapse 0)).isSome = true := by decide
  refine ⟨?_, ?_⟩ <;> unfold restoreRegs <;> rw [if_pos (h _)]

/-! WellFormed refuses an ill-formed term for each of its checks. -/

theorem test_wf_catalogueWarmLoad : (Instr.catalogueWarmLoad 0 [(0, [0])] true).wf = false := by decide
theorem test_wf_energyCounterUpdate : (Instr.energyCounterUpdate 0 1800 [1, 2, 3]).wf = false := by decide
theorem test_wf_curBadOp : (Instr.curBadOp 0 0x5A).wf = false ∧ (Instr.curBadOp 0 0x11).wf = true := by decide
theorem test_wf_txCommand : (Instr.txCommand 0 2 ⟨.beacon, 128, 868000, 1, 1000, none, some 7, 9, .beacon⟩).wf = false := by decide
theorem test_wf_noiseFloorRefresh : (Instr.noiseFloorRefresh 0 2 [(5, [])]).wf = false := by decide
theorem test_wf_phrReceived : (Instr.phrReceived 0 2 5 2048 false false true 9 0).wf = false := by decide
theorem test_wf_rxPpduEnd : (Instr.rxPpduEnd 0 2 5 9 (List.replicate 2048 0) true).wf = false := by decide
theorem test_wf_jobCreate : (Instr.jobCreate 0 2 none 5 0 0 [1, 2, 3]).wf = false := by decide
theorem test_wf_jobComplete : (Instr.jobComplete 0 2 0 0 [1, 2, 3]).wf = false := by decide
theorem test_wf_bar2Access : (Instr.bar2Access 0 64 0 none).wf = false ∧ (Instr.bar2Access 0 64 3 (some [1, 2])).wf = false ∧ (Instr.bar2Access 0 64 4096 none).wf = true := by decide
theorem test_wf_clkMonWindow : (Instr.clkMonWindow 0 [3200] [300] true).wf = false := by decide
theorem test_wf_tempSample : (Instr.tempSample 0 []).wf = false ∧ (Instr.tempSample 0 [40]).wf = true := by decide

/-! The table gives no row bits, so no word spells a command and none is put into the queue. -/

theorem test_decode_none : decodeTableWord 32 0x7184 = none ∧ (State.reset.withFetchWord 32 0x7184).pending = [] := by decide

end Sys2Proof.Tests
end

/-! SUPPORT. Reset, a step as a whole, and the canonical form: what every command's law says of `exec` and of `step`. -/

namespace Sys2Proof.Machine

/-! The machine after reset. -/

@[simp] theorem State.reset_reg (a : Nat) : State.reset.reg a = resetWord a := rfl
@[simp] theorem State.reset_byte (a : Nat) : State.reset.byte a = 0 := rfl

theorem State.wf_iff (s : State) : s.wf = true ↔ mapsWf s.regs s.tabs s.dram := by
  simp [State.wf, mapsWf, and_assoc]

theorem State.reset_wf : State.reset.wf = true :=
  (State.wf_iff _).2 ⟨Sparse.wf_nil _, Sparse.wf_nil _, Sparse.wf_nil _⟩

/-- Settles O3: reset lists no register, no table word and no byte, so each reads as its default. -/
theorem resetSound : Obligations.ResetSound :=
  ⟨State.reset_wf, State.reset_reg, State.reset_byte, rfl⟩

/-! Every command keeps what nothing takes back: one arm of `exec` per command, each by the law of its meaning. -/

theorem exec_keeps {s0 s : State} (h : Keeps s0 s) : ∀ c : Instr, KeepsNext s0 (exec c s)
  | .vinValid .. => execVinValid_keeps h
  | .vinPowerOff .. => execVinPowerOff_keeps h
  | .vinLow .. => execVinLow_keeps h
  | .vbatLoss .. => execVbatLoss_keeps h
  | .resetNPulse .. => execResetNPulse_keeps h
  | .cfgRestart .. => execCfgRestart_keeps h
  | .cfgNvmRelease .. => execCfgNvmRelease_keeps h
  | .fuseLoad .. => execFuseLoad_keeps h
  | .identitySelfTest .. => execIdentitySelfTest_keeps h
  | .rootPllLock .. => execRootPllLock_keeps h
  | .dramTraining .. => execDramTraining_keeps h
  | .hbListenWindowEnd .. => execHbListenWindowEnd_keeps h
  | .copySelection .. => execCopySelection_keeps h
  | .imageApply .. => execImageApply_keeps h
  | .catalogueWarmLoad .. => execCatalogueWarmLoad_keeps h
  | .ownNClaim .. => execOwnNClaim_keeps h
  | .ownNSample .. => execOwnNSample_keeps h
  | .arbFuseBlow .. => execArbFuseBlow_keeps h
  | .tamperEvent .. => execTamperEvent_keeps h
  | .tamCfgWrite .. => execTamCfgWrite_keeps h
  | .slotBoundary .. => execSlotBoundary_keeps h
  | .pwrHibEnter .. => execPwrHibEnter_keeps h
  | .hibernatePowerOff .. => execHibernatePowerOff_keeps h
  | .curWake .. => execCurWake_keeps h
  | .curHibTimerExpire .. => execCurHibTimerExpire_keeps h
  | .energyCounterUpdate .. => execEnergyCounterUpdate_keeps h
  | .pwrNrgClear .. => execPwrNrgClear_keeps h
  | .epfStart .. => execEpfStart_keeps h
  | .epfDone .. => execEpfDone_keeps h
  | .claim .. => execClaim_keeps h
  | .take .. => execTake_keeps h
  | .refresh .. => execRefresh_keeps h
  | .release .. => execRelease_keeps h
  | .force .. => execForce_keeps h
  | .leaseLapse .. => execLeaseLapse_keeps h
  | .txnBegin .. => execTxnBegin_keeps h
  | .registerWrite .. => execRegisterWrite_keeps h
  | .txnCommit .. => execTxnCommit_keeps h
  | .txnCommitBoundary .. => execTxnCommitBoundary_keeps h
  | .txnRollback .. => execTxnRollback_keeps h
  | .txnTimeout .. => execTxnTimeout_keeps h
  | .push .. => execPush_keeps h
  | .pull .. => execPull_keeps h
  | .curBadOp .. => execCurBadOp_keeps h
  | .curCsRise .. => execCurCsRise_keeps h
  | .curCmdRead .. => execCurCmdRead_keeps h
  | .curCmdWrite .. => execCurCmdWrite_keeps h
  | .curInvalidHeader .. => execCurInvalidHeader_keeps h
  | .curFifoCfgWrite .. => execCurFifoCfgWrite_keeps h
  | .txCommand .. => execTxCommand_keeps h
  | .handedBackReissue .. => execHandedBackReissue_keeps h
  | .settleStart .. => execSettleStart_keeps h
  | .synthLock .. => execSynthLock_keeps h
  | .launchStart .. => execLaunchStart_keeps h
  | .coexReqAssert .. => execCoexReqAssert_keeps h
  | .coexGntChange .. => execCoexGntChange_keeps h
  | .txLate .. => execTxLate_keeps h
  | .ackLate .. => execAckLate_keeps h
  | .ppduEnd .. => execPpduEnd_keeps h
  | .txSequenceEnd .. => execTxSequenceEnd_keeps h
  | .txrHoldExpire .. => execTxrHoldExpire_keeps h
  | .txCommandWithdraw .. => execTxCommandWithdraw_keeps h
  | .calReq .. => execCalReq_keeps h
  | .calTempCheck .. => execCalTempCheck_keeps h
  | .calPeriodExpire .. => execCalPeriodExpire_keeps h
  | .calStart .. => execCalStart_keeps h
  | .calEnter .. => execCalEnter_keeps h
  | .calEnd .. => execCalEnd_keeps h
  | .emitPowerCheck .. => execEmitPowerCheck_keeps h
  | .emitFreqCheck .. => execEmitFreqCheck_keeps h
  | .emitDurationExpire .. => execEmitDurationExpire_keeps h
  | .dutySubwindow .. => execDutySubwindow_keeps h
  | .tjSample .. => execTjSample_keeps h
  | .vinSample .. => execVinSample_keeps h
  | .detection .. => execDetection_keeps h
  | .noiseFloorRefresh .. => execNoiseFloorRefresh_keeps h
  | .sfdFound .. => execSfdFound_keeps h
  | .sfdWaitExpire .. => execSfdWaitExpire_keeps h
  | .phrReceived .. => execPhrReceived_keeps h
  | .rxPpduEnd .. => execRxPpduEnd_keeps h
  | .sltRealign .. => execSltRealign_keeps h
  | .slotCheck .. => execSlotCheck_keeps h
  | .nbrBeaconRx .. => execNbrBeaconRx_keeps h
  | .beaconMiss .. => execBeaconMiss_keeps h
  | .nbrRelease .. => execNbrRelease_keeps h
  | .sltNbrClear .. => execSltNbrClear_keeps h
  | .assocResponseAttempt .. => execAssocResponseAttempt_keeps h
  | .assocFail .. => execAssocFail_keeps h
  | .supervisionCheck .. => execSupervisionCheck_keeps h
  | .ascUpdGo .. => execAscUpdGo_keeps h
  | .schedUpdStart .. => execSchedUpdStart_keeps h
  | .schedUpdInstant .. => execSchedUpdInstant_keeps h
  | .ascLeave .. => execAscLeave_keeps h
  | .uplinkAcceptance .. => execUplinkAcceptance_keeps h
  | .uplinkVerifyDone .. => execUplinkVerifyDone_keeps h
  | .ackWaitExpire .. => execAckWaitExpire_keeps h
  | .floodLookup .. => execFloodLookup_keeps h
  | .accessionExpiry .. => execAccessionExpiry_keeps h
  | .rcptTimerExpire .. => execRcptTimerExpire_keeps h
  | .catCmdWrite .. => execCatCmdWrite_keeps h
  | .catCmdRead .. => execCatCmdRead_keeps h
  | .catCmdClear .. => execCatCmdClear_keeps h
  | .catCmdEntry .. => execCatCmdEntry_keeps h
  | .catWriteback .. => execCatWriteback_keeps h
  | .shaperEntry .. => execShaperEntry_keeps h
  | .shaperDecision .. => execShaperDecision_keeps h
  | .shpSampleSet .. => execShpSampleSet_keeps h
  | .shpSringRdWrite .. => execShpSringRdWrite_keeps h
  | .jobCreate .. => execJobCreate_keeps h
  | .jobDispatch .. => execJobDispatch_keeps h
  | .jobPreempt .. => execJobPreempt_keeps h
  | .jobFault .. => execJobFault_keeps h
  | .jobStall .. => execJobStall_keeps h
  | .jobComplete .. => execJobComplete_keeps h
  | .jobWriteback .. => execJobWriteback_keeps h
  | .jobSubmit .. => execJobSubmit_keeps h
  | .jobCancel .. => execJobCancel_keeps h
  | .jobResume .. => execJobResume_keeps h
  | .jobCopy .. => execJobCopy_keeps h
  | .trcMark .. => execTrcMark_keeps h
  | .trcRingRdWrite .. => execTrcRingRdWrite_keeps h
  | .dramInitBlock .. => execDramInitBlock_keeps h
  | .scrubRead .. => execScrubRead_keeps h
  | .scrubLate .. => execScrubLate_keeps h
  | .ceRate .. => execCeRate_keeps h
  | .dmaChunk .. => execDmaChunk_keeps h
  | .bmpHwinFence .. => execBmpHwinFence_keeps h
  | .fenceDone .. => execFenceDone_keeps h
  | .laneMismatch .. => execLaneMismatch_keeps h
  | .katRunStart .. => execKatRunStart_keeps h
  | .katExclusiveTake .. => execKatExclusiveTake_keeps h
  | .katRunEnd .. => execKatRunEnd_keeps h
  | .cphInject .. => execCphInject_keeps h
  | .writeClear .. => execWriteClear_keeps h
  | .unwrap .. => execUnwrap_keeps h
  | .derive .. => execDerive_keeps h
  | .wrap .. => execWrap_keeps h
  | .erase .. => execErase_keeps h
  | .expire .. => execExpire_keeps h
  | .flushNode .. => execFlushNode_keeps h
  | .keyCmdDeferredApply .. => execKeyCmdDeferredApply_keeps h
  | .kldLoad .. => execKldLoad_keeps h
  | .lcsChalRead .. => execLcsChalRead_keeps h
  | .lcsChalExpire .. => execLcsChalExpire_keeps h
  | .lcsCmd .. => execLcsCmd_keeps h
  | .lcsChange .. => execLcsChange_keeps h
  | .attestRequest .. => execAttestRequest_keeps h
  | .attestDone .. => execAttestDone_keeps h
  | .timIncWrite .. => execTimIncWrite_keeps h
  | .holdover .. => execHoldover_keeps h
  | .timStep .. => execTimStep_keeps h
  | .stepArmExpire .. => execStepArmExpire_keeps h
  | .clrOfs .. => execClrOfs_keeps h
  | .ptpEventTimestamp .. => execPtpEventTimestamp_keeps h
  | .ptpGeneralMessage .. => execPtpGeneralMessage_keeps h
  | .ptpExchangeDiscard .. => execPtpExchangeDiscard_keeps h
  | .pathStepClear .. => execPathStepClear_keeps h
  | .domainCompare .. => execDomainCompare_keeps h
  | .ppsInEdge .. => execPpsInEdge_keeps h
  | .ppsLost .. => execPpsLost_keeps h
  | .ppsOutPulse .. => execPpsOutPulse_keeps h
  | .ppsOutEnd .. => execPpsOutEnd_keeps h
  | .tsuRingRdWrite .. => execTsuRingRdWrite_keeps h
  | .link .. => execLink_keeps h
  | .bhFrameRx .. => execBhFrameRx_keeps h
  | .downlink .. => execDownlink_keeps h
  | .flood .. => execFlood_keeps h
  | .confirm .. => execConfirm_keeps h
  | .ethTx .. => execEthTx_keeps h
  | .hello .. => execHello_keeps h
  | .hostTxWrWrite .. => execHostTxWrWrite_keeps h
  | .hostTxFetch .. => execHostTxFetch_keeps h
  | .hostRxRdWrite .. => execHostRxRdWrite_keeps h
  | .pcieReset .. => execPcieReset_keeps h
  | .hostReadTimeout .. => execHostReadTimeout_keeps h
  | .bar2Access .. => execBar2Access_keeps h
  | .hbWireSend .. => execHbWireSend_keeps h
  | .hbLaneSend .. => execHbLaneSend_keeps h
  | .hbWireRx .. => execHbWireRx_keeps h
  | .hbLaneRx .. => execHbLaneRx_keeps h
  | .hbPathCheck .. => execHbPathCheck_keeps h
  | .ownNProbe .. => execOwnNProbe_keeps h
  | .dualActive .. => execDualActive_keeps h
  | .laneLinkUp .. => execLaneLinkUp_keeps h
  | .laneWriteRx .. => execLaneWriteRx_keeps h
  | .laneJackRx .. => execLaneJackRx_keeps h
  | .jackTimeout .. => execJackTimeout_keeps h
  | .snapTimer .. => execSnapTimer_keeps h
  | .snapNow .. => execSnapNow_keeps h
  | .takeoverRestore .. => execTakeoverRestore_keeps h
  | .clkMonWindow .. => execClkMonWindow_keeps h
  | .safeExit .. => execSafeExit_keeps h
  | .supplyFault .. => execSupplyFault_keeps h
  | .tempSample .. => execTempSample_keeps h
  | .parityWalk .. => execParityWalk_keeps h
  | .safTest .. => execSafTest_keeps h
  | .safTestDone .. => execSafTestDone_keeps h
  | .freezeNAssert .. => execFreezeNAssert_keeps h
  | .frzCmd .. => execFrzCmd_keeps h
  | .freezeDelayExpire .. => execFreezeDelayExpire_keeps h
  | .frzVselWrite .. => execFrzVselWrite_keeps h
  | .frzVdata15Read .. => execFrzVdata15Read_keeps h
  | .topNringRdWrite .. => execTopNringRdWrite_keeps h
  | .wideValueCaptureRead .. => execWideValueCaptureRead_keeps h
  | .entryCaptureRead .. => execEntryCaptureRead_keeps h
  | .topNoticeLostRead .. => execTopNoticeLostRead_keeps h
  | .pwrOccRead .. => execPwrOccRead_keeps h
  | .poolStatusRead .. => execPoolStatusRead_keeps h
  | .nrgStatusRead .. => execNrgStatusRead_keeps h
  | .shpSampleLostRead .. => execShpSampleLostRead_keeps h
  | .trcLostRead .. => execTrcLostRead_keeps h
  | .bmpPoolMinRead .. => execBmpPoolMinRead_keeps h
  | .tsuLostRead .. => execTsuLostRead_keeps h
  | .aonUp .. => execAonUp_keeps h
  | .rootPllLockTimeout .. => execRootPllLockTimeout_keeps h
  | .coexLeadElapsed .. => execCoexLeadElapsed_keeps h
  | .supplyInRange .. => execSupplyInRange_keeps h
  | .chunkFetchDone .. => execChunkFetchDone_keeps h
  | .laneHelloRx .. => execLaneHelloRx_keeps h
  | .pauseEnd .. => execPauseEnd_keeps h

/-- A step keeps what nothing takes back from the state whose queue has lost its front. -/
theorem step_keeps (s : State) : KeepsNext { s with pending := s.pending.tail } (step s) := by
  cases hq : s.pending with
  | nil =>
    have hs : step s = .next (s.elapse 1) := by simp [step, hq]
    have he : ({ s with pending := [] } : State) = s := by rw [← hq]
    rw [hs, List.tail_nil, he]
    exact KeepsNext.next (elapse_keeps (Keeps.refl s))
  | cons c r =>
    have hs : step s = exec c { s with pending := r } := by simp [step, hq]
    rw [hs]
    exact exec_keeps (Keeps.refl _) c

/-- Settles O4: the maps are among what every step keeps. -/
theorem stepKeepsForm : Obligations.StepKeepsForm := by
  intro s t hs ht
  rw [State.wf_iff] at hs ⊢
  exact (step_keeps s t ht).maps hs

/-! Every command has a next state. -/

/-- Every meaning is a tree of branches on its operands and the state whose leaves are all `.next`. Unfolded here are the meanings that branch; each other one is `.next` of
a state as it stands. -/
theorem exec_next (c : Instr) (s : State) : ∃ t, exec c s = .next t := by
  cases c
  all_goals
    dsimp only [exec,
      execVinValid, execVinLow, execVbatLoss, execResetNPulse, execFuseLoad, execIdentitySelfTest, execRootPllLock, execDramTraining,
      execHbListenWindowEnd, execCopySelection, execImageApply, execCatalogueWarmLoad, execOwnNClaim, execOwnNSample, execArbFuseBlow,
      execSlotBoundary, execHibernatePowerOff, execCurHibTimerExpire, execEnergyCounterUpdate, execEpfDone, execLeaseLapse, execTxnBegin,
      execRegisterWrite, execTxnCommitBoundary, execTxnTimeout, execCurBadOp, execCurCsRise, execCurCmdRead, execCurCmdWrite, execCurInvalidHeader,
      execTxCommand, execHandedBackReissue, execSettleStart, execSynthLock, execLaunchStart, execCoexReqAssert, execCoexGntChange, execTxLate,
      execAckLate, execPpduEnd, execTxSequenceEnd, execTxrHoldExpire, execTxCommandWithdraw, execCalTempCheck, execCalPeriodExpire, execCalStart,
      execCalEnter, execCalEnd, execEmitPowerCheck, execEmitFreqCheck, execEmitDurationExpire, execDutySubwindow, execTjSample, execVinSample,
      execDetection, execNoiseFloorRefresh, execSfdFound, execSfdWaitExpire, execPhrReceived, execRxPpduEnd, execSlotCheck, execNbrBeaconRx,
      execBeaconMiss, execNbrRelease, execAssocResponseAttempt, execAssocFail, execSupervisionCheck, execSchedUpdStart, execSchedUpdInstant,
      execUplinkAcceptance, execUplinkVerifyDone, execAckWaitExpire, execFloodLookup, execAccessionExpiry, execRcptTimerExpire, execCatCmdEntry,
      execCatWriteback, execShaperEntry, execShaperDecision, execShpSampleSet, execJobCreate, execJobDispatch, execJobPreempt, execJobFault,
      execJobStall, execJobComplete, execJobWriteback, execDramInitBlock, execScrubRead, execScrubLate, execCeRate, execDmaChunk, execFenceDone,
      execLaneMismatch, execKatRunStart, execKatExclusiveTake, execKatRunEnd, execKeyCmdDeferredApply, execKldLoad, execLcsChalRead,
      execLcsChalExpire, execLcsChange, execAttestDone, execHoldover, execStepArmExpire, execPtpEventTimestamp, execPtpGeneralMessage,
      execPtpExchangeDiscard, execDomainCompare, execPpsInEdge, execPpsLost, execPpsOutPulse, execPpsOutEnd, execLink, execBhFrameRx, execDownlink,
      execFlood, execConfirm, execEthTx, execHello, execHostTxFetch, execPcieReset, execHostReadTimeout, execBar2Access, execHbWireSend,
      execHbLaneSend, execHbWireRx, execHbLaneRx, execHbPathCheck, execOwnNProbe, execDualActive, execLaneLinkUp, execLaneWriteRx, execLaneJackRx,
      execJackTimeout, execSnapTimer, execTakeoverRestore, execClkMonWindow, execSupplyFault, execTempSample, execParityWalk, execSafTestDone,
      execFreezeDelayExpire, execWideValueCaptureRead, execAonUp, execRootPllLockTimeout, execCoexLeadElapsed, execSupplyInRange, execLaneHelloRx,
      execPauseEnd]
    repeat' split
    all_goals exact ⟨_, rfl⟩

/-- Settles O7: no arm of `exec` faults or refuses. -/
theorem everyCommandCompletes : Obligations.EveryCommandCompletes := exec_next

end Sys2Proof.Machine

/-! SUPPORT. The register bus: what a read or a write of a plain register does to the state, said once for both masters (R9 to R17, R36, R127). -/

namespace Sys2Proof.Machine

/-! Time passing and the start of an access leave every register and capture as it was. -/

@[simp] theorem State.elapse_captured (s : State) (dt : Nat) (m : Master) (k : Nat) : (s.elapse dt).captured m k = s.captured m k := by
  cases m <;> rfl

/-- The state before an access, whose `detail` the access then sets. -/
def State.noDetail (s : State) : State := { s with detail := 0 }

@[simp] theorem State.noDetail_reg (s : State) (a : Nat) : s.noDetail.reg a = s.reg a := rfl
@[simp] theorem State.noDetail_clk (s : State) : s.noDetail.clk = s.clk := rfl
@[simp] theorem State.noDetail_captured (s : State) (m : Master) (k : Nat) : s.noDetail.captured m k = s.captured m k := by
  cases m <;> rfl

/-! Frames. -/

theorem OnlyRegs.of_regs {s t : State} (l : List Nat) (h : t.regs = s.regs) : OnlyRegs l s t := by
  intro a _
  unfold State.reg
  rw [h]

theorem OnlyRegs.setReg (s : State) (a : Nat) (w : Word) : OnlyRegs [a] s (s.setReg a w) := by
  intro b hb
  exact State.reg_setReg_ne s w (by simpa using hb)

/-! Blocks that answer (R36, R37, R512). -/

theorem answers_of_core {s : State} (a : Nat) (hc : s.clk.core = true) (hr : s.mode ≠ stReserve) : answers a s = true := by
  simp [answers, hc, hr]

theorem answers_low {s : State} {a : Nat} (hc : s.clk.core = true) (ha : a < 0x40000) : answers a s = true := by
  simp [answers, hc, ha]

/-- The safety log answers in every state of the device (R36, R37). -/
theorem answers_log {s : State} {a : Nat} (ha : 0x3C0000 ≤ a) (hb : a < 0x400000) : answers a s = true := by
  simp [answers, ha, hb]

theorem frozenShut_of_ne {s : State} (a : Nat) (hf : s.mode ≠ stFrozen) : frozenShut a s = false := by
  simp [frozenShut, hf]

/-! Assigned registers outside the windows, the shared port registers and the MSI-X table. -/

/-- The row `r` of the map assigns the aligned address `a`, which both masters reach directly. -/
abbrev PlainReg (a : Nat) (r : RegSpec) : Prop :=
  a % 4 = 0 ∧ canonAddr a = a ∧ a < 0x180000 ∧ msixAddr a = false ∧ regSpec? a = some r

theorem PlainReg.row {a : Nat} {r : RegSpec} (h : PlainReg a r) : regSpec? a = some r := h.2.2.2.2

/-- No rule of its own makes a read of the address act (R125, R410, R516). -/
abbrev ReadsPlain (a : Nat) : Prop := a ≠ 0x20800 ∧ a ≠ 0x134010 ∧ (a < 0x178040 ∨ 0x178080 ≤ a)

theorem busRead_plain {a : Nat} {r : RegSpec} {m : Master} {s : State} (h : PlainReg a r) (hp : ReadsPlain a) (ha : answers a s = true) :
    busRead m a s = readPlain m a r s.noDetail := by
  obtain ⟨h4, hc, hu, hx, hr⟩ := h
  obtain ⟨hb, hl, hv⟩ := hp
  have hun : unassigned a = false := by simp [unassigned]; omega
  have hw : ¬ 0x200000 ≤ a := by omega
  have hv0 : a ≠ 0x178040 := by omega
  have hv15 : a ≠ 0x17807C := by omega
  have hvd : ¬ (0x178040 ≤ a ∧ a < 0x178080) := by omega
  have hword : readWord m a s.noDetail = readReg m a r s.noDetail := by
    have ha' : answers a s.noDetail = true := ha
    simp [readWord, hc, hun, hw, hx, hr, ha']
  have hreg : readReg m a r s.noDetail = readPlain m a r s.noDetail := by
    unfold readReg
    rw [if_neg (fun k => hb k.1), if_neg (fun k => hl k.1), if_neg hv0, if_neg hv15, if_neg (fun k => hvd ⟨k.1, k.2.1⟩)]
  rw [← hreg, ← hword]
  simp [busRead, h4, State.noDetail]

theorem busWrite_plain {a : Nat} {r : RegSpec} {m : Master} {w : Word} {s : State} (h : PlainReg a r) (ha : answers a s = true)
    (hf : s.mode ≠ stFrozen) : busWrite m a w s = writeReg m a r w s.noDetail := by
  obtain ⟨h4, hc, hu, hx, hr⟩ := h
  have hun : unassigned a = false := by simp [unassigned]; omega
  have hw : ¬ 0x200000 ≤ a := by omega
  have hword : writeWord m a w s.noDetail = gatedWrite m a (writeReg m a r w) s.noDetail := by
    simp [writeWord, hc, hun, hw, hx, hr]
  have hgate : gatedWrite m a (writeReg m a r w) s.noDetail = writeReg m a r w s.noDetail := by
    have ha' : answers a s.noDetail = true := ha
    simp [gatedWrite, ha', frozenShut_of_ne (s := s.noDetail) a hf]
  rw [← hgate, ← hword]
  simp [busWrite, h4, State.noDetail]

/-! Views: every register but these shows its own word. -/

/-- The registers that show other state, outside the two time domains. -/
def viewRegs : List Nat :=
  [0x3000C, 0x30014, 0x30F00, 0x11000C, 0x110010, 0x140000, 0x140004, 0x140130, 0x140230, 0x150080, 0x150084, 0x150088, 0x15008C, 0x170000]

/-- The address shows no view and no word of a time domain. -/
abbrev ShowsReg (a : Nat) : Prop := a ∉ viewRegs ∧ (a < 0x140100 ∨ 0x14021C ≤ a)

theorem liveReg_of_showsReg {a : Nat} (h : ShowsReg a) (s : State) : liveReg a s = s.reg a := by
  obtain ⟨hv, hd⟩ := h
  have h0 : ¬ (0x140100 ≤ a ∧ a < 0x14011C) := by omega
  have h1 : ¬ (0x140200 ≤ a ∧ a < 0x14021C) := by omega
  unfold liveReg
  split
  case h_15 => rw [if_neg h0, if_neg h1]
  all_goals exact absurd (by decide) hv

theorem shownReg_eq {a : Nat} {r : RegSpec} (h : regSpec? a = some r) (hw : r.wo = 0) (s : State) : shownReg a s = liveReg a s &&& r.assigned := by
  simp only [shownReg, h, hw]
  exact BitVec.and_allOnes

/-! Reads of plain registers. -/

theorem readPlain_narrow {a : Nat} {r : RegSpec} {m : Master} {s : State} (hw : wideWords a = 0) (hf : s.mode ≠ stFrozen) :
    readPlain m a r s = ((s.captured m a).getD (shownReg a s), clearOnRead a r.rc s) := by
  simp [readPlain, hw, hf]

/-- A read of a wide value's lowest word, which clears nothing. -/
theorem readPlain_wide {a : Nat} {r : RegSpec} {m : Master} {s : State} (hw : wideWords a ≠ 0) (hrc : r.rc = 0) :
    readPlain m a r s = ((s.captured m a).getD (shownReg a s), s.addCap m (wideCapture a s)) := by
  simp [readPlain, hw, hrc, clearOnRead]

theorem readOut_of_busRead {m : Master} {a : Nat} {s t : State} {w : Word} (h : busRead m a s = (w, t)) : readOut m a s = t.emit (.value m.bit w) := by
  simp [readOut, h]

theorem readOut_narrow {a : Nat} {r : RegSpec} {m : Master} {s : State} (h : PlainReg a r) (hp : ReadsPlain a) (hw : wideWords a = 0)
    (ha : answers a s = true) (hf : s.mode ≠ stFrozen) :
    readOut m a s = (clearOnRead a r.rc s.noDetail).emit (.value m.bit ((s.captured m a).getD (shownReg a s.noDetail))) := by
  rw [readOut_of_busRead ((busRead_plain h hp ha).trans (readPlain_narrow (s := s.noDetail) hw hf)), State.noDetail_captured]

theorem readOut_wide {a : Nat} {r : RegSpec} {m : Master} {s : State} (h : PlainReg a r) (hp : ReadsPlain a) (hw : wideWords a ≠ 0) (hrc : r.rc = 0)
    (ha : answers a s = true) :
    readOut m a s = (s.noDetail.addCap m (wideCapture a s.noDetail)).emit (.value m.bit ((s.captured m a).getD (shownReg a s.noDetail))) := by
  rw [readOut_of_busRead ((busRead_plain h hp ha).trans (readPlain_wide hw hrc)), State.noDetail_captured]

/-- A word after a read that clears the bits `rc`: the peak of a port's pool takes the count beside it. -/
def clearedWord (w rc : Word) : Word := w &&& ~~~rc ||| (if rc = 0x7F0000#32 then w <<< 16 &&& 0x7F0000#32 else 0#32)

theorem clearOnRead_eq {a : Nat} {rc : Word} (h0 : rc ≠ 0) (ha : a ≠ 0x110010) (s : State) :
    clearOnRead a rc s = s.setReg a (clearedWord (s.reg a) rc) := by
  unfold clearOnRead clearedWord
  rw [if_neg h0, if_neg ha]
  by_cases h : rc = 0x7F0000#32 <;> simp [h]

theorem clearOnRead_poolMin {rc : Word} (h0 : rc ≠ 0) (s : State) :
    clearOnRead 0x110010 rc s = { s with mem := { s.mem with minFree := some (poolFreeCount s) } } := by
  unfold clearOnRead
  rw [if_neg h0, if_pos rfl]

/-! Captures: what is looked up after words are put in front of those captured before. -/

theorem find?_map_range {f : Nat → Nat} {g : Nat → Word} (hf : ∀ i j, f i = f j → i = j) {n i : Nat} (hi : i < n) (rest : List (Nat × Word)) :
    ((List.range n).map (fun j => (f j, g j)) ++ rest).find? (fun e => e.1 == f i) = some (f i, g i) := by
  have hr : (List.range n).find? (fun j => f j == f i) = some i := by
    rw [List.find?_range_eq_some]
    refine ⟨beq_self_eq_true _, List.mem_range.2 hi, fun j hj => ?_⟩
    have hne : f j ≠ f i := fun e => absurd (hf j i e) (Nat.ne_of_lt hj)
    simpa using hne
  rw [List.find?_append, List.find?_map]
  simp only [Function.comp_def, hr, Option.map_some, Option.some_or]

theorem State.captured_setCap (s : State) (m : Master) (c : Capture) (k : Nat) :
    (s.setCap m c).captured m k = (c.words.find? fun e => e.1 == k).map (·.2) := by
  cases m <;> rfl

/-- Word `i + 1` of a wide value, after its lowest word was read. -/
theorem captured_wideCapture (s : State) (m : Master) {a i : Nat} (hi : i < wideWords a - 1) :
    (s.addCap m (wideCapture a s)).captured m (a + 4 + 4 * i) = some (shownReg (a + 4 + 4 * i) s) := by
  unfold State.addCap
  rw [State.captured_setCap]
  unfold wideCapture
  rw [find?_map_range (f := fun i => a + 4 + 4 * i) (g := fun i => shownReg (a + 4 + 4 * i) s) (fun i j e => by omega) hi]
  rfl

/-- Word `i + 1` of an entry, after its word 0 was read (R233). -/
theorem captured_captureEntry (s : State) (m : Master) {w off i : Nat} (hi : i < entryWords w off - 1) :
    (captureEntry m w off s).captured m (tabKey w (off + 4 + 4 * i)) = some (windowWord w (off + 4 + 4 * i) s) := by
  have hn : entryWords w off ≠ 0 := by omega
  unfold captureEntry
  simp only [if_neg hn]
  rw [State.captured_setCap, find?_map_range (f := fun i => tabKey w (off + 4 + 4 * i)) (g := fun i => windowWord w (off + 4 + 4 * i) s)
    (fun i j e => by unfold tabKey at e; omega) hi]
  rfl

end Sys2Proof.Machine

/-! SUPPORT. The reads that act (R11, R17, R233), narrow accesses (R9) and writes of W1C bits and of type T registers (R11, R14, R127). -/

namespace Sys2Proof.Machine

/-! Reads that clear. -/

/-- The row `r` assigns `a`, whose read shows the register's own word and clears its RC bits. -/
abbrev ClearsOnRead (a : Nat) (r : RegSpec) : Prop :=
  PlainReg a r ∧ ReadsPlain a ∧ ShowsReg a ∧ wideWords a = 0 ∧ r.wo = 0 ∧ r.rc ≠ 0

theorem readOut_clears {a : Nat} {r : RegSpec} {m : Master} {s : State} (h : ClearsOnRead a r) (ha : answers a s = true)
    (hf : s.mode ≠ stFrozen) (hc : s.captured m a = none) :
    readOut m a s = (s.noDetail.setReg a (clearedWord (s.reg a) r.rc)).emit (.value m.bit (s.reg a &&& r.assigned)) := by
  obtain ⟨hplain, hreads, hshows, hwide, hwo, hrc⟩ := h
  have hpool : a ≠ 0x110010 := fun e => hshows.1 (by rw [e]; decide)
  have hval : (s.captured m a).getD (shownReg a s.noDetail) = s.reg a &&& r.assigned := by
    rw [hc, Option.getD_none, shownReg_eq hplain.row hwo, liveReg_of_showsReg hshows, State.noDetail_reg]
  rw [readOut_narrow hplain hreads hwide ha hf, hval, clearOnRead_eq hrc hpool, State.noDetail_reg]

theorem completes_clearingRead {c : Instr} {dt a : Nat} {r : RegSpec} {m : Master} {s : State}
    (hexec : exec c s = .next (readOut m a (s.elapse dt))) (h : ClearsOnRead a r) (hcore : s.clk.core = true)
    (hf : s.mode ≠ stFrozen) (hr : s.mode ≠ stReserve) (hc : s.captured m a = none) :
    Completes c s fun t => t.out = .value m.bit (s.reg a &&& r.assigned) :: s.out ∧ t.reg a = clearedWord (s.reg a) r.rc ∧
      OnlyRegs [a] s t ∧ t.dram = s.dram ∧ t.tabs = s.tabs := by
  have hread := readOut_clears (s := s.elapse dt) h (answers_of_core a hcore hr) hf ((State.elapse_captured s dt m a).trans hc)
  refine ⟨_, hexec, ?_⟩
  rw [hread]
  exact ⟨rfl, State.reg_setReg_self _ _ _, OnlyRegs.setReg s a _, rfl, rfl⟩

/-- The row of a register with RC bits that masters only read. -/
def rcRow (a : Nat) (rc assigned : Word) : RegSpec := ⟨a, 4, 1, 4, 1, false, 0, 0, 0, 0, rc, assigned⟩

/-- The row of RFPn_POOL_STATUS for the 16 ports. -/
def poolStatusRow : RegSpec := ⟨0x40110, 0x8000, 16, 4, 1, false, 0, 0, 0, 0, 0x7F0000#32, 0x7F007F#32⟩

theorem topNoticeLost_clears : ClearsOnRead 0x50 (rcRow 0x50 0xFFFFFFFF#32 0xFFFFFFFF#32) := by decide
theorem pwrOcc_clears : ClearsOnRead 0x10108 (rcRow 0x10108 0x3FF0000#32 0x3FF03FF#32) := by decide
theorem poolStatus_clears : ∀ n : Fin 16, ClearsOnRead (0x40110 + 32768 * n.val) poolStatusRow := by decide
theorem nrgStatus_clears : ClearsOnRead 0xE8000 (rcRow 0xE8000 0xFFFF#32 0x1FFFFFFF#32) := by decide
theorem shpSampleLost_clears : ClearsOnRead 0xF0110 (rcRow 0xF0110 0xFFFFFFFF#32 0xFFFFFFFF#32) := by decide
theorem trcLost_clears : ClearsOnRead 0x108010 (rcRow 0x108010 0xFFFFFFFF#32 0xFFFFFFFF#32) := by decide
theorem trcPortLost_clears : ClearsOnRead 0x108018 (rcRow 0x108018 0xFFFFFFFF#32 0xFFFFFFFF#32) := by decide
theorem tsuLost_clears : ClearsOnRead 0x148020 (rcRow 0x148020 0xFFFFFFFF#32 0xFFFFFFFF#32) := by decide

/-- Settles O9: each of the eight commands reads one register that clears on a read. -/
theorem clearingReads : Obligations.ClearingReads := by
  intro dt m n s hcore hf hr p hp hc
  simp only [List.mem_cons, List.not_mem_nil, or_false] at hp
  rcases hp with rfl | rfl | rfl | rfl | rfl | rfl | rfl | rfl
  · exact completes_clearingRead rfl topNoticeLost_clears hcore hf hr hc
  · exact completes_clearingRead rfl pwrOcc_clears hcore hf hr hc
  · exact completes_clearingRead rfl (poolStatus_clears n) hcore hf hr hc
  · exact completes_clearingRead rfl nrgStatus_clears hcore hf hr hc
  · exact completes_clearingRead rfl shpSampleLost_clears hcore hf hr hc
  · exact completes_clearingRead rfl trcLost_clears hcore hf hr hc
  · exact completes_clearingRead rfl trcPortLost_clears hcore hf hr hc
  · exact completes_clearingRead rfl tsuLost_clears hcore hf hr hc

theorem poolMin_plain : PlainReg 0x110010 (rcRow 0x110010 0x1FFFF#32 0x1FFFF#32) := by decide

/-- Settles O10: BMP_POOL_MIN is no stored word but a view of the pool, and its clear restarts the view. -/
theorem poolMinRead : Obligations.PoolMinRead := by
  intro dt m s hcore hf hr hc
  have hshown : shownReg 0x110010 (s.elapse dt).noDetail = BitVec.ofNat 32 (s.mem.minFree.getD (poolFreeCount s)) &&& 0x1FFFF#32 :=
    shownReg_eq poolMin_plain.row rfl _
  have hread := readOut_narrow (m := m) (s := s.elapse dt) poolMin_plain (by decide) (by decide) (answers_of_core _ hcore hr) hf
  rw [State.elapse_captured, hc, Option.getD_none, hshown, clearOnRead_poolMin (by decide)] at hread
  refine ⟨_, rfl, ?_⟩
  rw [hread]
  exact ⟨rfl, rfl, OnlyRegs.of_regs [] rfl, rfl, rfl⟩

/-! Captures. -/

/-- The row of a register that masters only read. -/
def roRow (a : Nat) : RegSpec := ⟨a, 4, 1, 4, 1, false, 0, 0, 0, 0, 0, 0xFFFFFFFF#32⟩

theorem slotclkLo_plain : PlainReg 0x140000 (roRow 0x140000) := by decide
theorem slotclkHi_plain : PlainReg 0x140004 (roRow 0x140004) := by decide

theorem shownReg_slotclkLo (s : State) : shownReg 0x140000 s = BitVec.ofNat 32 s.clk.slot :=
  (shownReg_eq slotclkLo_plain.row rfl s).trans BitVec.and_allOnes

theorem shownReg_slotclkHi (s : State) : shownReg 0x140004 s = BitVec.ofNat 32 (s.clk.slot / 2 ^ 32) :=
  (shownReg_eq slotclkHi_plain.row rfl s).trans BitVec.and_allOnes

theorem readOut_slotclkLo {m : Master} {s : State} (ha : answers 0x140000 s = true) (hc : s.captured m 0x140000 = none) :
    readOut m 0x140000 s = (s.noDetail.addCap m (wideCapture 0x140000 s.noDetail)).emit (.value m.bit (BitVec.ofNat 32 s.clk.slot)) := by
  rw [readOut_wide slotclkLo_plain (by decide) (by decide) rfl ha, hc, Option.getD_none, shownReg_slotclkLo, State.noDetail_clk]

theorem readOut_slotclkHi {m : Master} {s : State} {w : Word} (ha : answers 0x140004 s = true) (hf : s.mode ≠ stFrozen)
    (hc : s.captured m 0x140004 = some w) : readOut m 0x140004 s = s.noDetail.emit (.value m.bit w) := by
  rw [readOut_narrow slotclkHi_plain (by decide) (by decide) ha hf, hc, Option.getD_some]
  rfl

theorem captured_slotclkHi (s : State) (m : Master) :
    (s.addCap m (wideCapture 0x140000 s)).captured m 0x140004 = some (BitVec.ofNat 32 (s.clk.slot / 2 ^ 32)) :=
  (captured_wideCapture s m (a := 0x140000) (i := 0) (by decide)).trans (congrArg some (shownReg_slotclkHi s))

/-- Settles O11: the read of the low word captures the high word, and the read of the high word takes the captured one. -/
theorem wideCapture_whole : Obligations.WideCapture := by
  intro dt m s hcore hf hr
  constructor
  · intro hc
    have hread := readOut_slotclkLo (s := s.elapse dt) (answers_of_core _ hcore hr) ((State.elapse_captured s dt m _).trans hc)
    refine ⟨readOut m 0x140000 (s.elapse dt), rfl, ?_⟩
    rw [hread]
    have hcap := captured_slotclkHi (s.elapse dt).noDetail m
    cases m with
    | host => exact ⟨rfl, hcap, fun _ => rfl, nofun, OnlyRegs.of_regs [] rfl⟩
    | curator => exact ⟨rfl, hcap, nofun, fun _ => rfl, OnlyRegs.of_regs [] rfl⟩
  · intro w hc
    have hread := readOut_slotclkHi (s := s.elapse dt) (answers_of_core _ hcore hr) hf ((State.elapse_captured s dt m _).trans hc)
    refine ⟨readOut m 0x140004 (s.elapse dt), rfl, ?_⟩
    rw [hread]
    exact ⟨rfl, rfl, rfl, OnlyRegs.of_regs [] rfl⟩

/-! Reads through window 7, the safety log. -/

theorem busRead_log {m : Master} {s : State} {off : Nat} (h4 : off % 4 = 0) (hoff : off < 0x40000) :
    busRead m (0x3C0000 + off) s =
      (if entryWords 7 off = 0 then ((s.captured m (tabKey 7 off)).getD (windowWord 7 off s.noDetail), s.noDetail)
        else (windowWord 7 off s.noDetail, captureEntry m 7 off s.noDetail)) := by
  have ha4 : (0x3C0000 + off) % 4 = 0 := by omega
  have hun : unassigned (0x3C0000 + off) = false := by simp [unassigned]; omega
  have hwin : (0x3C0000 + off - 0x200000) / 0x40000 = 7 := by omega
  have hoff' : (0x3C0000 + off) % 0x40000 = off := by omega
  have ha : answers (0x3C0000 + off) s.noDetail = true := answers_log (by omega) (by omega)
  have hpages : windowPages 7 = 1 := rfl
  have hword : readWord m (0x3C0000 + off) s.noDetail = readWindow m (0x3C0000 + off) s.noDetail := by
    unfold readWord
    simp only [hun]
    rw [if_neg (by decide), if_pos (by omega)]
  have hread : busRead m (0x3C0000 + off) s = readWord m (0x3C0000 + off) s.noDetail := by
    simp [busRead, ha4, State.noDetail]
  rw [hread, hword]
  simp [readWindow, hwin, hoff', ha, hpages, windowPage]

theorem readOut_logWr {m : Master} {s : State} (hc : s.captured m (tabKey 7 0) = none) :
    readOut m 0x3C0000 s = s.noDetail.emit (.value m.bit (BitVec.ofNat 32 s.saf.logWr)) := by
  have h := busRead_log (m := m) (s := s) (off := 0) rfl (by decide)
  rw [if_pos (show entryWords 7 0 = 0 from rfl), hc, Option.getD_none] at h
  exact readOut_of_busRead h

/-- The offset of entry `i` of the safety log behind window 7 (R499). -/
def logOff (i : Nat) : Nat := 0x100 + 16 * i

theorem entryWords_logOff (i : Fin 256) : entryWords 7 (logOff i.val) = 4 := by
  have hlt : 0x100 + 16 * i.val < 0x1100 := by omega
  have hmod : (0x100 + 16 * i.val) % 16 = 0 := by omega
  simp [entryWords, logOff, hlt, hmod]

theorem windowWord_logOff (i : Fin 256) {k : Nat} (hk : k ≤ 3) (s : State) : windowWord 7 (logOff i.val + 4 * k) s = logWord i.val k s := by
  have h0 : logOff i.val + 4 * k ≠ 0 := by unfold logOff; omega
  have h4 : logOff i.val + 4 * k ≠ 4 := by unfold logOff; omega
  have hin : 0x100 ≤ logOff i.val + 4 * k ∧ logOff i.val + 4 * k < 0x1100 := by unfold logOff; omega
  have hi : (logOff i.val + 4 * k - 0x100) / 16 = i.val := by unfold logOff; omega
  have hw : (logOff i.val + 4 * k) % 16 / 4 = k := by unfold logOff; omega
  simp only [windowWord]
  rw [if_neg h0, if_neg h4, if_pos hin, hi, hw]

theorem readOut_logEntry {m : Master} {s : State} (i : Fin 256) :
    readOut m (0x3C0000 + logOff i.val) s = (captureEntry m 7 (logOff i.val) s.noDetail).emit (.value m.bit (logWord i.val 0 s)) := by
  have h := busRead_log (m := m) (s := s) (off := logOff i.val) (by unfold logOff; omega) (by unfold logOff; omega)
  rw [entryWords_logOff, if_neg (by decide)] at h
  rw [readOut_of_busRead h]
  exact congrArg (fun w => State.emit _ (.value m.bit w)) (windowWord_logOff i (Nat.zero_le 3) s.noDetail)

theorem captured_logEntry (i : Fin 256) {k : Nat} (h1 : 1 ≤ k) (h3 : k ≤ 3) (s : State) (m : Master) :
    (captureEntry m 7 (logOff i.val) s).captured m (tabKey 7 (logOff i.val + 4 * k)) = some (logWord i.val k s) := by
  have h := captured_captureEntry s m (w := 7) (off := logOff i.val) (i := k - 1) (by rw [entryWords_logOff]; omega)
  have hk : logOff i.val + 4 + 4 * (k - 1) = logOff i.val + 4 * k := by omega
  rwa [hk, windowWord_logOff i h3] at h

theorem captureEntry_eq_setCap (m : Master) (w off : Nat) (s : State) : ∃ c, captureEntry m w off s = s.setCap m c := by
  have hself : s = s.setCap m (s.cap m) := by cases m <;> rfl
  simp only [captureEntry]
  split
  · exact ⟨_, hself⟩
  · exact ⟨_, rfl⟩

/-- Settles O14: offset 0 of window 7 is no entry, and offset 0x100 + 16 i is word 0 of entry i. -/
theorem entryCapture : Obligations.EntryCapture := by
  intro dt m i s
  constructor
  · intro hc
    have hread := readOut_logWr (s := s.elapse dt) ((State.elapse_captured s dt m _).trans hc)
    refine ⟨readOut m 0x3C0000 (s.elapse dt), rfl, ?_⟩
    rw [hread]
    exact ⟨rfl, OnlyRegs.of_regs [] rfl⟩
  · have hofs : (BitVec.ofNat 18 (0x100 + 16 * i.val)).toNat = logOff i.val := by
      rw [BitVec.toNat_ofNat]; exact Nat.mod_eq_of_lt (by omega)
    have hexec : exec (.entryCaptureRead dt m 7 (BitVec.ofNat 18 (0x100 + 16 * i.val))) s = .next (readOut m (0x3C0000 + logOff i.val) (s.elapse dt)) := by
      rw [← hofs]; rfl
    obtain ⟨c, hc⟩ := captureEntry_eq_setCap m 7 (logOff i.val) (s.elapse dt).noDetail
    have hcap := fun k h1 h3 => captured_logEntry (k := k) i h1 h3 (s.elapse dt).noDetail m
    have hread := readOut_logEntry (m := m) (s := s.elapse dt) i
    rw [hc] at hread hcap
    refine ⟨_, hexec, ?_⟩
    rw [hread]
    cases m <;> exact ⟨rfl, hcap, OnlyRegs.of_regs [] rfl, rfl, rfl⟩

/-! Narrow accesses. -/

theorem accessErr_reg_self {m : Master} {kind addr : Nat} {s : State} (h : s.getF F.TOP_ACCESS_ERR_VALID = 0) :
    (accessErr m kind addr s).reg 8 = BitVec.ofNat 32 (2 ^ 31 + m.bit * 2 ^ 30 + kind % 4 * 2 ^ 28 + addr % 2 ^ 24) := by
  have hv : ¬ s.getF F.TOP_ACCESS_ERR_VALID = 1 := by omega
  exact (congrArg (State.reg · 8) (if_neg hv)).trans (State.reg_setReg_self _ _ _)

theorem accessErr_narrow_reg {m : Master} (a : BitVec 24) {s : State} (h : s.getF F.TOP_ACCESS_ERR_VALID = 0) :
    (accessErr m errNarrow a.toNat s).reg 8 = BitVec.ofNat 32 (2 ^ 31 + m.bit * 2 ^ 30 + 2 * 2 ^ 28 + a.toNat) := by
  rw [accessErr_reg_self h, Nat.mod_eq_of_lt a.isLt]
  rfl

theorem OnlyRegs.accessErr (m : Master) (kind addr : Nat) (s : State) : OnlyRegs [8] s (accessErr m kind addr s) :=
  fun _ ha => accessErr_reg (by simpa using ha)

/-- Settles O12: a narrow access is recorded and reaches no register. -/
theorem narrowAccess : Obligations.NarrowAccess := by
  intro dt m a w bad s hv
  constructor
  · refine ⟨accessErr m errNarrow a.toNat (s.elapse dt).noDetail, rfl, accessErr_narrow_reg a hv, OnlyRegs.accessErr m _ _ _, ?_, ?_, ?_⟩
    · exact accessErr_dram ..
    · exact accessErr_tabs ..
    · exact accessErr_out ..
  · refine ⟨(accessErr m errNarrow a.toNat (s.elapse dt)).emit (.value m.bit 0), rfl, accessErr_narrow_reg a hv, OnlyRegs.accessErr m _ _ _, ?_, ?_, ?_⟩
    · exact accessErr_dram ..
    · exact accessErr_tabs ..
    · exact congrArg (Out.value m.bit 0 :: ·) (accessErr_out ..)

/-! Writes. -/

/-- The row of a register whose 32 bits are all W1C, and that of a type T register whose 32 bits are all RW. -/
def w1cRow (a : Nat) : RegSpec := ⟨a, 4, 1, 4, 1, false, 0, 0xFFFFFFFF#32, 0, 0, 0, 0xFFFFFFFF#32⟩
def tRow (a : Nat) : RegSpec := ⟨a, 4, 1, 4, 1, true, 0xFFFFFFFF#32, 0, 0, 0, 0, 0xFFFFFFFF#32⟩

theorem nvecPend0_plain : PlainReg 0x60 (w1cRow 0x60) := by decide
theorem nringBase_plain : PlainReg 0x40 (tRow 0x40) := by decide

/-- A write to a register of W1C bits alone clears, for either master, those written as 1 (R11, R16). -/
theorem writeD_w1c {m : Master} {a : Nat} {r : RegSpec} {w : Word} {s : State} (hk : r.rw ||| r.wo ||| r.w1s = 0) (hc : r.w1c ≠ 0) :
    writeD m a r w s = s.setReg a (s.reg a &&& ~~~(w &&& r.w1c)) := by
  simp only [writeD]
  rw [if_pos hk, if_neg hc]

/-- A write to a type T word by the owner with a transaction open, of a value that the word takes (R127). -/
theorem writeT_shadow {m : Master} {key a : Nat} {w : Word} {s : State} (ho : s.owns m = true) (ht : s.txn = txOpen) :
    writeT m key a true w s = putShadow key w s := by
  simp [writeT, ho, ht]

theorem putShadow_shadows (k : Nat) (w : Word) (s : State) : (putShadow k w s).ctl.shadows.filter (fun e => e.1 == k) = [(k, w)] := by
  have hrest : (s.ctl.shadows.filter fun e => e.1 != k).filter (fun e => e.1 == k) = [] := by
    rw [List.filter_eq_nil_iff]
    intro e he
    simpa using (List.mem_filter.1 he).2
  simp only [putShadow, List.filter_append, hrest, List.nil_append]
  simp

theorem busWrite_nvecPend0 {m : Master} {w : Word} {s : State} (hcore : s.clk.core = true) (hf : s.mode ≠ stFrozen) :
    busWrite m 0x60 w s = s.noDetail.setReg 0x60 (s.reg 0x60 &&& ~~~w) := by
  have hw : w &&& (w1cRow 0x60).w1c = w := BitVec.and_allOnes
  calc busWrite m 0x60 w s
    _ = writeReg m 0x60 (w1cRow 0x60) w s.noDetail := busWrite_plain nvecPend0_plain (answers_low hcore (by decide)) hf
    _ = writeD m 0x60 (w1cRow 0x60) w s.noDetail := rfl
    _ = s.noDetail.setReg 0x60 (s.reg 0x60 &&& ~~~w) := by rw [writeD_w1c (by decide) (by decide), hw, State.noDetail_reg]

theorem busWrite_nringBase {m : Master} {w : Word} {s : State} (hcore : s.clk.core = true) (hf : s.mode ≠ stFrozen) (ho : s.owns m = true) (ht : s.txn = txOpen) :
    busWrite m 0x40 w s = putShadow 0x40 w s.noDetail := by
  have hold : s.reg 0x40 &&& ~~~(tRow 0x40).rw = 0 := BitVec.and_zero
  have hnew : w &&& (tRow 0x40).rw = w := BitVec.and_allOnes
  have hw : s.reg 0x40 &&& ~~~(tRow 0x40).rw ||| w &&& (tRow 0x40).rw = w := by rw [hold, hnew]; exact BitVec.zero_or
  calc busWrite m 0x40 w s
    _ = writeReg m 0x40 (tRow 0x40) w s.noDetail := busWrite_plain nringBase_plain (answers_low hcore (by decide)) hf
    _ = writeT m 0x40 0x40 true (s.reg 0x40 &&& ~~~(tRow 0x40).rw ||| w &&& (tRow 0x40).rw) s.noDetail := rfl
    _ = putShadow 0x40 w s.noDetail := by rw [writeT_shadow (s := s.noDetail) ho ht, hw]

/-- Settles O13: one register of W1C bits and one of type T. -/
theorem registerWrites : Obligations.RegisterWrites := by
  intro dt m w s hcore hf
  constructor
  · refine ⟨busWrite m 0x60 w (s.elapse dt).noDetail, rfl, ?_⟩
    rw [busWrite_nvecPend0 (s := (s.elapse dt).noDetail) hcore hf]
    exact ⟨State.reg_setReg_self _ _ _, OnlyRegs.setReg s _ _, rfl, rfl⟩
  · intro ho ht
    refine ⟨busWrite m 0x40 w (s.elapse dt).noDetail, rfl, ?_⟩
    rw [busWrite_nringBase (s := (s.elapse dt).noDetail) hcore hf ho ht]
    exact ⟨putShadow_shadows _ _ _, OnlyRegs.of_regs [] rfl, rfl, rfl⟩

end Sys2Proof.Machine

/-! SUPPORT. Frames of field writes and notices, and what the write of a whole register or a map's part leaves to be read. -/

namespace Sys2Proof.Machine

/-! Which registers change. -/

theorem OnlyRegs.trans {l k : List Nat} {s t u : State} (h : OnlyRegs l s t) (h' : OnlyRegs k t u) : OnlyRegs (l ++ k) s u := by
  intro a ha
  rw [List.mem_append, not_or] at ha
  exact (h' a ha.2).trans (h a ha.1)

theorem OnlyRegs.mono {l k : List Nat} {s t : State} (h : OnlyRegs l s t) (hlk : l ⊆ k) : OnlyRegs k s t :=
  fun a ha => h a fun hl => ha (hlk hl)

theorem OnlyRegs.setF (s : State) (f : Field) (v : Nat) : OnlyRegs [f.addr] s (s.setF f v) := OnlyRegs.setReg s _ _

theorem OnlyRegs.set64 (s : State) (lo hi : Field) (v : Nat) : OnlyRegs [lo.addr, hi.addr] s (s.set64 lo hi v) :=
  (OnlyRegs.setF s lo v).trans (OnlyRegs.setF _ hi _)

theorem OnlyRegs.notify (k : NoticeKind) (status port arg : Nat) (s : State) : OnlyRegs noticeRegs s (notify k status port arg s) :=
  fun _ ha => notify_reg ha

theorem OnlyRegs.getF {l : List Nat} {s t : State} (h : OnlyRegs l s t) {f : Field} (hf : f.addr ∉ l) : t.getF f = s.getF f :=
  State.getF_of_reg (h _ hf)

@[simp] theorem State.noDetail_getF (s : State) (f : Field) : s.noDetail.getF f = s.getF f := rfl
@[simp] theorem State.elapse_getF (s : State) (dt : Nat) (f : Field) : (s.elapse dt).getF f = s.getF f := rfl

theorem noDetail_nringSize (s : State) : nringSize s.noDetail = nringSize s := rfl

/-! A field that is the whole register. -/

theorem putBits_whole (w : Word) (v : Nat) : putBits w 31 0 v = BitVec.ofNat 32 v := by
  have h : bitsOf (putBits w 31 0 v) 31 0 = v % 2 ^ 32 := bitsOf_putBits w v (by decide) (by decide)
  apply BitVec.eq_of_toNat_eq
  rw [BitVec.toNat_ofNat, ← h]
  simp only [bitsOf, pow_zero, Nat.div_one]
  exact (Nat.mod_eq_of_lt (BitVec.isLt _)).symm

theorem State.setF_whole (s : State) (a : Nat) (w : Word) : s.setF ⟨a, 31, 0⟩ w.toNat = s.setReg a w := by
  simp only [State.setF, putBits_whole, BitVec.ofNat_toNat, BitVec.setWidth_eq]

/-! A part of a map, chosen by keys. -/

theorem Sparse.get_filter {α : Type} (d : Nat → α) (p : Nat → Bool) (m : Sparse α) (k : Nat) :
    Sparse.get d (m.filter fun e => p e.1) k = if p k then Sparse.get d m k else d k := by
  induction m with
  | nil => simp [Sparse.get]
  | cons e m ih =>
    obtain ⟨a, v⟩ := e
    by_cases ha : p a
    · rw [List.filter_cons_of_pos (by simpa using ha)]
      simp only [Sparse.get, ih]
      by_cases hk : a = k
      · simp [← hk, ha]
      · simp [hk]
    · rw [List.filter_cons_of_neg (by simpa using ha), ih]
      simp only [Sparse.get]
      by_cases hk : a = k
      · simp [← hk, ha]
      · simp [hk]

/-! Device DRAM after a notice: only the ring's record is written (R44, R45). -/

theorem State.byte_putBytes_ne {base n a b : Nat} {l : List Byte} {s : State} (h : b < a ∨ a + l.length ≤ b) :
    (State.putBytes base n a l s).byte b = s.byte b := by
  induction l generalizing a s with
  | nil => rfl
  | cons x l ih =>
    rw [List.length_cons] at h
    have hne : b ≠ a := by omega
    rw [State.putBytes, ih (by omega)]
    split
    · rfl
    · exact Sparse.get_set_ne _ _ _ hne

theorem State.mendWords_dram {a n k : Nat} {s : State} : (State.mendWords a n k s).dram = s.dram := by
  induction k generalizing s with
  | zero => rfl
  | succ k ih =>
    rw [State.mendWords, ih]
    split <;> rfl

theorem State.byte_setBytes_ne {s : State} {a b : Nat} {l : List Byte} (h : b < a ∨ a + l.length ≤ b) : (s.setBytes a l).byte b = s.byte b := by
  cases l with
  | nil => rfl
  | cons x l =>
    have hmend : ∀ (t : State) (n k : Nat), (State.mendWords a n k t).byte b = t.byte b := fun t n k =>
      congrArg (Sparse.get dramDefault · b) State.mendWords_dram
    exact (hmend _ _ _).trans (State.byte_putBytes_ne h)

theorem raiseVector_dram (v : Nat) (s : State) : (raiseVector v s).dram = s.dram := by
  unfold raiseVector
  split
  · rfl
  · split <;> rfl

theorem noticeBytes_length (k : NoticeKind) (status port arg : Nat) (s : State) : (noticeBytes k status port arg s).length = 16 := rfl

theorem OnlyRing.noticeRing (k : NoticeKind) (status port arg : Nat) (s : State) : OnlyRing s (noticeRing k status port arg s) := by
  intro a ha
  unfold Machine.noticeRing
  split
  · exact congrArg (Sparse.get dramDefault · a) (raiseVector_dram 14 _)
  · refine State.byte_setBytes_ne ?_
    have hpos : 0 < nringSize s := Nat.two_pow_pos _
    have hslot := Nat.mod_lt (s.getF F.TOP_NRING_WR_WR) hpos
    rw [noticeBytes_length]
    simp only [inNoticeRing] at ha
    omega

theorem OnlyRing.notify (k : NoticeKind) (status port arg : Nat) (s : State) : OnlyRing s (notify k status port arg s) := by
  intro a ha
  have hlog : ∀ u : State, (if k.safety then logEntry k status port arg u else u).byte a = u.byte a := by
    intro u
    split <;> rfl
  simp only [Machine.notify]
  split
  · calc (raiseVector _ _).byte a
      _ = _ := congrArg (Sparse.get dramDefault · a) (raiseVector_dram _ _)
      _ = (Machine.noticeRing k status port arg s).byte a := hlog _
      _ = s.byte a := OnlyRing.noticeRing k status port arg s a ha
  · exact hlog s

/-- The ring stands where it stood when its base and its size do. -/
theorem inNoticeRing_congr {s t : State} {a : Nat} (hbase : t.reg 0x40 = s.reg 0x40) (hctrl : t.reg 0x44 = s.reg 0x44) :
    inNoticeRing a t ↔ inNoticeRing a s := by
  have hb : t.getF F.TOP_NRING_BASE_BASE = s.getF F.TOP_NRING_BASE_BASE := State.getF_of_reg hbase
  have hn : nringSize t = nringSize s := congrArg (2 ^ ·) (State.getF_of_reg hctrl)
  simp only [inNoticeRing, hb, hn]

end Sys2Proof.Machine

/-! SUPPORT. The empty queue (R33), and the write of TOP_NRING_RD (R48). -/

namespace Sys2Proof.Machine

theorem step_nil {s : State} (h : s.pending = []) : step s = .next (s.elapse 1) := by
  simp only [step, h]

/-- Settles O2. -/
theorem idleStep : Obligations.IdleStep := fun _ h => step_nil h

/-- The row of a type D register whose 32 bits are all RW. -/
def rwRow (a : Nat) : RegSpec := ⟨a, 4, 1, 4, 1, false, 0xFFFFFFFF#32, 0, 0, 0, 0, 0xFFFFFFFF#32⟩

theorem nringRd_plain : PlainReg 0x4C (rwRow 0x4C) := by decide

theorem writeReg_low {m : Master} {a : Nat} {r : RegSpec} {w : Word} {s : State} (hT : r.isT = false) (ha : a < 0x40000) :
    writeReg m a r w s = writeLow m a r w s := by
  rw [writeReg, hT, if_neg Bool.false_ne_true, if_pos ha]

theorem writeLow_nringRd {m : Master} {a : Nat} {r : RegSpec} {w : Word} {s : State} (ha : a = 0x4C) :
    writeLow m a r w s = writeRingRd m a F.TOP_NRING_RD_RD (s.getF F.TOP_NRING_WR_WR) (nringSize s) w s := by
  unfold writeLow
  split
  case h_1 => rfl
  all_goals contradiction

theorem busWrite_nringRd {m : Master} {w : Word} {s : State} (hcore : s.clk.core = true) (hf : s.mode ≠ stFrozen) :
    busWrite m 0x4C w s = writeRingRd m 0x4C F.TOP_NRING_RD_RD (s.getF F.TOP_NRING_WR_WR) (nringSize s) w s.noDetail := by
  rw [busWrite_plain nringRd_plain (answers_low hcore (by decide)) hf, writeReg_low rfl (by decide), writeLow_nringRd rfl, noDetail_nringSize, State.noDetail_getF]

/-- Of two faulty accesses TOP_ACCESS_ERR keeps the first. -/
theorem accessErr_reg_kept {m : Master} {kind addr : Nat} {s : State} (h : s.getF F.TOP_ACCESS_ERR_VALID = 1) :
    (accessErr m kind addr s).reg 8 = s.reg 8 := by
  have hkept : accessErr m kind addr s = { s with detail := if s.detail = 0 then 9 else s.detail } := if_pos h
  rw [hkept]
  rfl

/-- Settles O8: the ring's size decides between the two branches of the write. -/
theorem nringRdWrite : Obligations.NringRdWrite := by
  intro dt m w s hcore hf
  have hwrite : exec (.topNringRdWrite dt m w) s = .next (writeRingRd m 0x4C F.TOP_NRING_RD_RD (s.getF F.TOP_NRING_WR_WR) (nringSize s) w (s.elapse dt).noDetail) :=
    congrArg Host.Outcome.next (busWrite_nringRd (s := s.elapse dt) hcore hf)
  refine ⟨_, hwrite, ?_⟩
  beta_reduce
  rw [← nringSize]
  by_cases hle : (s.getF F.TOP_NRING_WR_WR + 2 ^ 32 - w.toNat) % 2 ^ 32 ≤ nringSize s
  · rw [if_pos hle, writeRingRd, if_neg (Nat.not_lt.2 hle), State.setF_whole]
    exact ⟨⟨State.reg_setReg_self _ _ _, OnlyRegs.setReg s _ _⟩, rfl, rfl, rfl⟩
  · rw [if_neg hle, writeRingRd, if_pos (Nat.lt_of_not_le hle)]
    refine ⟨⟨fun hv => ?_, fun hv => ?_, OnlyRegs.accessErr m _ _ _⟩, ?_, ?_, ?_⟩
    · exact accessErr_reg_self (s := (s.elapse dt).noDetail) hv
    · exact accessErr_reg_kept (s := (s.elapse dt).noDetail) hv
    · exact accessErr_dram ..
    · exact accessErr_tabs ..
    · exact congrArg Clocks.now (accessErr_clk ..)

end Sys2Proof.Machine

/-! SUPPORT. Supplies that come and go (R35, R89, R95, R98). -/

namespace Sys2Proof.Machine

/-- The registers of the TAMP domain (R35). -/
def tampReg (a : Nat) : Bool := 0x138000 ≤ a && a < 0x139000

theorem tampReg_iff (a : Nat) : tampReg a = true ↔ 0x138000 ≤ a ∧ a < 0x139000 := by
  simp [tampReg]

theorem toStep_step (n : Nat) (s : State) : (toStep n s).step = n % 16 := State.getF_setF s n (by decide) (by decide)

theorem OnlyRegs.toStep (n : Nat) (s : State) : OnlyRegs [0x20000] s (toStep n s) := OnlyRegs.setF s F.CFG_STATUS_STEP n

theorem powerOff_reg (s : State) (a : Nat) : (powerOff s).reg a = if tampReg a && s.pins.vbatOk then s.reg a else resetWord a := by
  have hkept : Sparse.get resetWord (s.regs.filter fun e => tampReg e.1) a = if tampReg a then s.reg a else resetWord a :=
    Sparse.get_filter _ tampReg _ _
  have hlost : Sparse.get resetWord ((s.regs.filter fun e => tampReg e.1).filter fun e => !tampReg e.1) a = resetWord a := by
    rw [Sparse.get_filter _ (fun k => !tampReg k), hkept]
    cases tampReg a <;> rfl
  by_cases hv : s.pins.vbatOk = true
  · simp only [powerOff, hv, Bool.and_true]
    exact hkept
  · simp only [powerOff, hv, Bool.and_false]
    exact hlost

theorem powerOff_tamp (s : State) : (powerOff s).tamp = if s.pins.vbatOk then s.tamp else ⟨none, [], 0, 0, 0, 0⟩ := by
  unfold powerOff
  split <;> rfl

/-- Beside the TAM registers and TAMP, VBAT decides nothing of what a power cycle leaves. -/
theorem powerOff_rest (s : State) : (powerOff s).pins.vinValid = false ∧ (powerOff s).dram = [] ∧ (powerOff s).clk.core = false ∧ (powerOff s).fuses = s.fuses := by
  unfold powerOff
  split <;> exact ⟨rfl, rfl, rfl, rfl⟩

theorem execVinPowerOff_completes (dt : Nat) (s : State) : Completes (.vinPowerOff dt) s fun t =>
    t.pins.vinValid = false ∧ (∀ a, a < 0x138000 ∨ 0x139000 ≤ a → t.reg a = resetWord a) ∧ (s.pins.vbatOk = true → ∀ a, 0x138000 ≤ a → a < 0x139000 → t.reg a = s.reg a) ∧
      (s.pins.vbatOk = true → t.tamp = s.tamp) ∧ (s.pins.vbatOk = false → t.tamp.seed = none) ∧ t.dram = [] ∧ t.clk.core = false ∧ t.fuses = s.fuses := by
  obtain ⟨hvin, hdram, hcore, hfuses⟩ := powerOff_rest (s.elapse dt)
  have hreg := powerOff_reg (s.elapse dt)
  have htamp := powerOff_tamp (s.elapse dt)
  refine ⟨powerOff (s.elapse dt), rfl, hvin, fun a ha => ?_, fun hv a hlo hhi => ?_, fun hv => ?_, fun hv => ?_, hdram, hcore, hfuses⟩
  · have hout : tampReg a = false := by rw [Bool.eq_false_iff, Ne, tampReg_iff]; omega
    rw [hreg, hout]
    rfl
  · have hin : tampReg a = true := (tampReg_iff a).2 ⟨hlo, hhi⟩
    rw [hreg, hin, State.elapse_pins, hv]
    rfl
  · rw [htamp, State.elapse_pins, hv]
    rfl
  · rw [htamp, State.elapse_pins, hv]
    rfl

theorem execVinLow_completes (dt mv : Nat) (s : State) (hvin : s.pins.vinValid = true) (hcore : s.clk.core = true) (hf : s.mode ≠ stFrozen) :
    Completes (.vinLow dt mv) s fun t =>
      t.getF F.PWR_STATUS_VIN_LOW = 1 ∧ OnlyRegs (0x10100 :: noticeRegs) s t ∧ OnlyRing s t ∧ t.tabs = s.tabs := by
  have hruns : (s.pins.vinValid && noticesRun s) = true := by simp [noticesRun, hvin, hcore, hf]
  have hset := OnlyRegs.setF (s.elapse dt) F.PWR_STATUS_VIN_LOW 1
  refine ⟨notify N.VIN_LOW scOk 0 mv ((s.elapse dt).setF F.PWR_STATUS_VIN_LOW 1), if_pos hruns, ?_, ?_, ?_, ?_⟩
  · rw [notify_getF (by decide)]
    exact State.getF_setF _ 1 (by decide) (by decide)
  · exact hset.trans (OnlyRegs.notify _ _ _ _ _)
  · intro a ha
    have hring := inNoticeRing_congr (a := a) (hset 0x40 (by decide)) (hset 0x44 (by decide))
    exact OnlyRing.notify _ _ _ _ _ a (fun h => ha (hring.1 h))
  · exact notify_tabs ..

/-- Settles O15: the rising and the falling of VIN, the warning before it, and the loss of VBAT. -/
theorem supplyEvents : Obligations.SupplyEvents := by
  intro dt s
  refine ⟨?rises, execVinPowerOff_completes dt s, ?unnoticed, execVinLow_completes dt (s := s), ?vbat⟩
  case rises =>
    intro low nvm fe ddr vbat id hvin
    refine ⟨vinUp low nvm fe ddr vbat id (s.elapse dt), if_neg (ne_true_of_eq_false hvin), rfl, rfl, rfl, rfl, rfl, rfl, toStep_step 1 _, ?_, rfl, rfl, rfl⟩
    exact OnlyRegs.toStep 1 _
  case unnoticed =>
    intro mv h
    have hruns : ¬ (s.pins.vinValid && noticesRun s) = true := by
      rcases h with h | h <;> simp [noticesRun, h]
    exact ⟨s.elapse dt, if_neg hruns, OnlyRegs.of_regs [] rfl, rfl⟩
  case vbat =>
    by_cases hvin : s.pins.vinValid = true
    · refine ⟨_, if_pos hvin, rfl, fun _ => ⟨rfl, OnlyRegs.of_regs [] rfl⟩, fun h => ?_, rfl, rfl⟩
      exact absurd h (by simp [hvin])
    · exact ⟨_, if_neg hvin, rfl, fun h => absurd h hvin, fun _ => rfl, rfl, rfl⟩

end Sys2Proof.Machine

/-! SUPPORT. The steps of start-up that succeed (R28, R74, R76, R336, R372, R454). -/

namespace Sys2Proof.Machine

/-! The time that passes and the pair's record are no register. -/

@[simp] theorem State.elapse_mode (s : State) (dt : Nat) : (s.elapse dt).mode = s.mode := State.elapse_getF ..
@[simp] theorem State.elapse_step (s : State) (dt : Nat) : (s.elapse dt).step = s.step := State.elapse_getF ..
@[simp] theorem State.updPair_getF (s : State) (f : Pair → Pair) (g : Field) : (s.updPair f).getF g = s.getF g := rfl

theorem OnlyRegs.updPair (s : State) (f : Pair → Pair) : OnlyRegs [] s (s.updPair f) := OnlyRegs.of_regs [] rfl

/-- Beside its registers, `t` is `s`. -/
def RegsOnly (s t : State) : Prop := ∃ r, t = { s with regs := r }

theorem RegsOnly.trans {s t u : State} (h : RegsOnly s t) (h' : RegsOnly t u) : RegsOnly s u := by
  obtain ⟨r, rfl⟩ := h
  obtain ⟨r', rfl⟩ := h'
  exact ⟨r', rfl⟩

theorem RegsOnly.setF (s : State) (f : Field) (v : Nat) : RegsOnly s (s.setF f v) := ⟨_, rfl⟩

theorem RegsOnly.set64 (s : State) (lo hi : Field) (v : Nat) : RegsOnly s (s.set64 lo hi v) := (RegsOnly.setF s lo v).trans (RegsOnly.setF _ hi _)

theorem RegsOnly.toStep (n : Nat) (s : State) : RegsOnly s (toStep n s) := RegsOnly.setF s F.CFG_STATUS_STEP n

theorem RegsOnly.rest {s t : State} (h : RegsOnly s t) : t.clk = s.clk ∧ t.dram = s.dram ∧ t.tabs = s.tabs ∧ t.fuses = s.fuses ∧ t.tamp = s.tamp := by
  obtain ⟨r, rfl⟩ := h
  exact ⟨rfl, rfl, rfl, rfl, rfl⟩

/-! Step 2: AON and TAMP are up. -/

/-- What step 2 latches: the live tamper inputs and PAIR_ID. -/
def aonLatched (s : State) : State :=
  ((s.setF F.TAM_STATUS_LIVE (s.pins.tamper &&& s.getF F.TAM_CFG_EN)).setF F.PAR_HB_STATUS_PAIR_ID (bit s.pins.pairId)).updPair fun p =>
    { p with id := s.pins.pairId }

theorem OnlyRegs.aonLatched (s : State) : OnlyRegs [F.TAM_STATUS_LIVE.addr, F.PAR_HB_STATUS_PAIR_ID.addr] s (aonLatched s) :=
  ((OnlyRegs.setF s F.TAM_STATUS_LIVE _).trans (OnlyRegs.setF _ F.PAR_HB_STATUS_PAIR_ID _)).trans (OnlyRegs.updPair _ _)

theorem bit_mod_two (b : Bool) : bit b % 2 = bit b := by cases b <;> rfl

theorem aonLatched_pairId (s : State) : (aonLatched s).getF F.PAR_HB_STATUS_PAIR_ID = bit s.pins.pairId := by
  rw [aonLatched, State.updPair_getF, State.getF_setF _ _ (by decide) (by decide)]
  exact bit_mod_two _

theorem exec_aonUp (dt : Nat) (s : State) : exec (.aonUp dt) s = execAonUp dt s := rfl

theorem execAonUp_eq {dt : Nat} {s : State} (hmode : s.mode = stStarting) (hvin : s.pins.vinValid = true) (hlow : s.pins.resetLow = false)
    (hcore : s.clk.core = false) (hstep : s.step ≤ 2) (htamper : s.pins.tamper &&& s.getF F.TAM_CFG_EN = 0) :
    exec (.aonUp dt) s = .next (toStep 3 (toStep 2 (aonLatched (s.elapse dt)))) := by
  have hruns : (!s.pins.vinValid || s.pins.resetLow || s.mode != stStarting || s.clk.core || decide (2 < s.step)) = false := by
    simp [hvin, hlow, hmode, hcore, hstep]
  simp only [exec_aonUp, execAonUp, State.elapse_pins, State.elapse_mode, State.elapse_step, State.elapse_core, State.elapse_getF, State.setF_pins, aonLatched, hruns, htamper,
    Bool.false_eq_true, if_false, ne_eq, not_true_eq_false]

theorem execAonUp_completes {dt : Nat} {s : State} (hmode : s.mode = stStarting) (hvin : s.pins.vinValid = true) (hlow : s.pins.resetLow = false)
    (hcore : s.clk.core = false) (hstep : s.step ≤ 2) (htamper : s.pins.tamper &&& s.getF F.TAM_CFG_EN = 0) :
    Completes (.aonUp dt) s fun t =>
      t.step = 3 ∧ t.pair.id = s.pins.pairId ∧ t.getF F.PAR_HB_STATUS_PAIR_ID = bit s.pins.pairId ∧ OnlyRegs [0x20000, F.TAM_STATUS_LIVE.addr, F.PAR_HB_STATUS_PAIR_ID.addr] s t ∧
        t.dram = s.dram ∧ t.clk.core = false := by
  have hsteps := (OnlyRegs.toStep 2 (aonLatched (s.elapse dt))).trans (OnlyRegs.toStep 3 _)
  have hframe : OnlyRegs ([F.TAM_STATUS_LIVE.addr, F.PAR_HB_STATUS_PAIR_ID.addr] ++ ([0x20000] ++ [0x20000])) s (toStep 3 (toStep 2 (aonLatched (s.elapse dt)))) :=
    (OnlyRegs.aonLatched (s.elapse dt)).trans hsteps
  exact ⟨_, execAonUp_eq hmode hvin hlow hcore hstep htamper, toStep_step 3 _, rfl, (hsteps.getF (by decide)).trans (aonLatched_pairId _),
    hframe.mono (by decide), rfl, hcore⟩

/-! Step 3: the fuses are read and CORE starts. -/

/-- What fuses show on every unit. -/
def fusesShown (s : State) : State :=
  let lcs := ((s.setF F.LCS_STATUS_STATE s.fuses.lifecycle).setF F.LCS_STATUS_IDENTITY (bit s.fuses.identity)).setF F.LCS_STATUS_PAIR_ROOT (bit s.fuses.pairRoot)
  ((lcs.set64 F.LCS_SERIAL_LO_SERIAL F.LCS_SERIAL_HI_SERIAL s.fuses.serial).setF F.CFG_ARB_COUNT s.fuses.arb).setF F.CFG_ARB_TARGET s.fuses.arb

/-- What they show besides where there is a pair root key. -/
def peerShown (s : State) : State :=
  (s.set64 F.PAR_PEER_SERIAL_LO_SERIAL F.PAR_PEER_SERIAL_HI_SERIAL Config.peerSerial).setF F.PAR_STATUS_PAIR pairAlone

theorem showFuses_eq (s : State) : showFuses s = if s.fuses.pairRoot then peerShown (fusesShown s) else fusesShown s := rfl

theorem OnlyRegs.fusesShown (s : State) : OnlyRegs [0x134000, 0x134004, 0x134008, 0x2000C] s (fusesShown s) := by
  have hlcs := ((OnlyRegs.setF s F.LCS_STATUS_STATE s.fuses.lifecycle).trans (OnlyRegs.setF _ F.LCS_STATUS_IDENTITY (bit s.fuses.identity))).trans
    (OnlyRegs.setF _ F.LCS_STATUS_PAIR_ROOT (bit s.fuses.pairRoot))
  have hserial := hlcs.trans (OnlyRegs.set64 _ F.LCS_SERIAL_LO_SERIAL F.LCS_SERIAL_HI_SERIAL s.fuses.serial)
  exact ((hserial.trans (OnlyRegs.setF _ F.CFG_ARB_COUNT s.fuses.arb)).trans (OnlyRegs.setF _ F.CFG_ARB_TARGET s.fuses.arb)).mono (by decide)

theorem OnlyRegs.peerShown (s : State) : OnlyRegs [0x160008, 0x16000C, 0x160004] s (peerShown s) :=
  (OnlyRegs.set64 s F.PAR_PEER_SERIAL_LO_SERIAL F.PAR_PEER_SERIAL_HI_SERIAL Config.peerSerial).trans (OnlyRegs.setF _ F.PAR_STATUS_PAIR pairAlone)

theorem OnlyRegs.showFuses_fusesShown (s : State) : OnlyRegs [0x160008, 0x16000C, 0x160004] (Machine.fusesShown s) (showFuses s) := by
  rw [showFuses_eq]
  split
  · exact OnlyRegs.peerShown _
  · exact OnlyRegs.of_regs _ rfl

theorem OnlyRegs.showFuses (s : State) : OnlyRegs ([0x134000, 0x134004, 0x134008, 0x2000C] ++ [0x160008, 0x16000C, 0x160004]) s (showFuses s) :=
  (OnlyRegs.fusesShown s).trans (OnlyRegs.showFuses_fusesShown s)

theorem showFuses_fields (s : State) : (showFuses s).getF F.CFG_ARB_COUNT = s.fuses.arb % 128 ∧
    (showFuses s).getF F.LCS_STATUS_STATE = s.fuses.lifecycle % 16 ∧ (showFuses s).getF F.LCS_SERIAL_LO_SERIAL = s.fuses.serial % 2 ^ 32 := by
  have hpeer := OnlyRegs.showFuses_fusesShown s
  rw [hpeer.getF (by decide), hpeer.getF (by decide), hpeer.getF (by decide)]
  simp (disch := decide) [fusesShown, State.set64, State.getF_setF, State.getF_setF_ne, State.getF_setF_disj]

theorem RegsOnly.fusesShown (s : State) : RegsOnly s (fusesShown s) := by
  have hlcs := ((RegsOnly.setF s F.LCS_STATUS_STATE s.fuses.lifecycle).trans (RegsOnly.setF _ F.LCS_STATUS_IDENTITY (bit s.fuses.identity))).trans
    (RegsOnly.setF _ F.LCS_STATUS_PAIR_ROOT (bit s.fuses.pairRoot))
  have hserial := hlcs.trans (RegsOnly.set64 _ F.LCS_SERIAL_LO_SERIAL F.LCS_SERIAL_HI_SERIAL s.fuses.serial)
  exact (hserial.trans (RegsOnly.setF _ F.CFG_ARB_COUNT s.fuses.arb)).trans (RegsOnly.setF _ F.CFG_ARB_TARGET s.fuses.arb)

theorem RegsOnly.peerShown (s : State) : RegsOnly s (peerShown s) :=
  (RegsOnly.set64 s F.PAR_PEER_SERIAL_LO_SERIAL F.PAR_PEER_SERIAL_HI_SERIAL Config.peerSerial).trans (RegsOnly.setF _ F.PAR_STATUS_PAIR pairAlone)

theorem RegsOnly.showFuses (s : State) : RegsOnly s (showFuses s) := by
  rw [showFuses_eq]
  split
  · exact (RegsOnly.fusesShown s).trans (RegsOnly.peerShown _)
  · exact RegsOnly.fusesShown s

theorem OnlyRegs.renewSeed (s : State) : OnlyRegs [0x134000, 0x120000, 0x138000] s (renewSeed s) := by
  unfold Machine.renewSeed
  split
  · exact OnlyRegs.of_regs _ rfl
  · intro a ha
    exact (((OnlyRegs.setF _ F.LCS_STATUS_NEW_SEED 1).trans (OnlyRegs.setF _ F.CPH_STATUS_FC_RESET 1)).trans (OnlyRegs.setF _ F.TAM_CFG_LOCK 0)) a ha

theorem renewSeed_lcsState (s : State) : (renewSeed s).getF F.LCS_STATUS_STATE = s.getF F.LCS_STATUS_STATE := by
  unfold renewSeed
  split
  · rfl
  · rw [State.getF_setF_ne _ _ (by decide), State.getF_setF_ne _ _ (by decide), State.getF_setF_disj _ _ (by decide) (by decide) (by decide)]
    rfl

theorem renewSeed_bcnMark (s : State) : (renewSeed s).tamp.bcnMark = if s.tamp.seed.isSome then s.tamp.bcnMark else 0 := by
  unfold renewSeed
  split <;> rfl

theorem renewSeed_rest (s : State) : (renewSeed s).clk = s.clk ∧ (renewSeed s).dram = s.dram ∧ (renewSeed s).tabs = s.tabs ∧ (renewSeed s).fuses = s.fuses := by
  unfold renewSeed
  split <;> exact ⟨rfl, rfl, rfl, rfl⟩

theorem OnlyRegs.startCounters (s : State) : OnlyRegs [0x120010, 0x120014] s (startCounters s) :=
  (OnlyRegs.setF s F.CPH_BCN_FC_FC _).trans (OnlyRegs.setF _ F.CPH_LOCAL_FC_FC _)

/-- CORE as it is when the fuses come to be shown. -/
def corePowered (s : State) : State :=
  let on := { s with clk := { s.clk with core := true } }.setF F.TOP_STATUS_CORE_UP 1
  ((on.setF F.CFG_STATUS_TAMPER_SEEN (bit on.boot.tamperHib)).setF F.PWR_STATUS_VBAT_LOST (bit on.boot.vbatLost)).updBoot fun b =>
    { b with tamperHib := false, vbatLost := false }

/-- What follows the fuses: the seed, the counters and the count of catalogue loads. -/
def coreCounted (s : State) : State :=
  (startCounters (renewSeed s)).setF F.CAT_STATUS_LOADS (startCounters (renewSeed s)).tamp.loads

theorem coreStart_eq (s : State) : coreStart s = coreCounted (showFuses (corePowered s)) := rfl

theorem corePowered_coreUp (s : State) : (corePowered s).getF F.TOP_STATUS_CORE_UP = 1 := by
  have hset : (corePowered s).getF F.TOP_STATUS_CORE_UP = ({ s with clk := { s.clk with core := true } }.setF F.TOP_STATUS_CORE_UP 1).getF F.TOP_STATUS_CORE_UP :=
    ((OnlyRegs.setF _ F.CFG_STATUS_TAMPER_SEEN _).trans (OnlyRegs.setF _ F.PWR_STATUS_VBAT_LOST _)).getF (by decide)
  exact hset.trans (State.getF_setF _ _ (by decide) (by decide))

theorem OnlyRegs.coreCounted (s : State) : OnlyRegs [0x134000, 0x120000, 0x138000, 0x120010, 0x120014, 0xE0008] s (coreCounted s) :=
  ((OnlyRegs.renewSeed s).trans (OnlyRegs.startCounters _)).trans (OnlyRegs.setF _ F.CAT_STATUS_LOADS _)

theorem coreCounted_lcsState (s : State) : (coreCounted s).getF F.LCS_STATUS_STATE = s.getF F.LCS_STATUS_STATE := by
  have hafter := (OnlyRegs.startCounters (renewSeed s)).trans (OnlyRegs.setF _ F.CAT_STATUS_LOADS (startCounters (renewSeed s)).tamp.loads)
  exact (hafter.getF (by decide)).trans (renewSeed_lcsState s)

theorem coreStart_fields (s : State) : (coreStart s).getF F.TOP_STATUS_CORE_UP = 1 ∧ (coreStart s).getF F.CFG_ARB_COUNT = s.fuses.arb % 128 ∧
    (coreStart s).getF F.LCS_STATUS_STATE = s.fuses.lifecycle % 16 ∧ (coreStart s).getF F.LCS_SERIAL_LO_SERIAL = s.fuses.serial % 2 ^ 32 := by
  obtain ⟨harb, hlcs, hserial⟩ := showFuses_fields (corePowered s)
  have hcounted := OnlyRegs.coreCounted (showFuses (corePowered s))
  rw [coreStart_eq]
  refine ⟨?_, (hcounted.getF (by decide)).trans harb, (coreCounted_lcsState _).trans hlcs, (hcounted.getF (by decide)).trans hserial⟩
  rw [hcounted.getF (by decide), (OnlyRegs.showFuses _).getF (by decide), corePowered_coreUp]

theorem coreStart_rest (s : State) : (coreStart s).clk.core = true ∧ (coreStart s).dram = s.dram ∧ (coreStart s).tabs = s.tabs ∧ (coreStart s).fuses = s.fuses ∧
    (coreStart s).tamp.bcnMark = (if s.tamp.seed.isSome then s.tamp.bcnMark else 0) + 65536 := by
  obtain ⟨hclk, hdram, htabs, hfuses⟩ := renewSeed_rest (showFuses (corePowered s))
  obtain ⟨hclk', hdram', htabs', hfuses', htamp'⟩ := (RegsOnly.showFuses (corePowered s)).rest
  have hmark := renewSeed_bcnMark (showFuses (corePowered s))
  rw [htamp'] at hmark
  rw [coreStart_eq]
  exact ⟨congrArg Clocks.core (hclk.trans hclk'), hdram.trans hdram', htabs.trans htabs', hfuses.trans hfuses', congrArg (· + 65536) hmark⟩

/-- The step after step 3 (R76). -/
def stepAfterFuses (s : State) : Nat := if s.fuses.lifecycle = 0 ∨ s.fuses.lifecycle = 5 then 5 else 4

theorem stepAfterFuses_mod (s : State) : stepAfterFuses s % 16 = stepAfterFuses s := by
  unfold stepAfterFuses
  split <;> rfl

theorem exec_fuseLoad (dt : Nat) (sound : Bool) (s : State) : exec (.fuseLoad dt sound) s = execFuseLoad dt sound s := rfl

theorem execFuseLoad_eq {dt : Nat} {s : State} (hmode : s.mode = stStarting) (hcore : s.clk.core = false) (hstep : s.step = 3) :
    exec (.fuseLoad dt true) s = .next (toStep (stepAfterFuses s) (coreStart (s.elapse dt))) := by
  have hruns : ¬ (s.mode ≠ stStarting ∨ s.clk.core = true ∨ s.step ≠ 3) := by
    simp [hmode, hcore, hstep]
  simp only [exec_fuseLoad, execFuseLoad, State.elapse_mode, State.elapse_step, State.elapse_core, State.elapse_fuses, if_neg hruns, stepAfterFuses]
  rfl

theorem execFuseLoad_completes {dt : Nat} {s : State} (hmode : s.mode = stStarting) (hcore : s.clk.core = false) (hstep : s.step = 3) :
    Completes (.fuseLoad dt true) s fun t =>
      t.clk.core = true ∧ t.getF F.TOP_STATUS_CORE_UP = 1 ∧ t.getF F.CFG_ARB_COUNT = s.fuses.arb % 128 ∧ t.getF F.LCS_STATUS_STATE = s.fuses.lifecycle % 16 ∧
        t.getF F.LCS_SERIAL_LO_SERIAL = s.fuses.serial % 2 ^ 32 ∧ t.step = (if s.fuses.lifecycle = 0 ∨ s.fuses.lifecycle = 5 then 5 else 4) ∧
        t.tamp.bcnMark = (if s.tamp.seed.isSome then s.tamp.bcnMark else 0) + 65536 ∧ t.dram = s.dram ∧ t.tabs = s.tabs ∧ t.fuses = s.fuses := by
  obtain ⟨hup, harb, hlcs, hserial⟩ := coreStart_fields (s.elapse dt)
  obtain ⟨hon, hdram, htabs, hfuses, hmark⟩ := coreStart_rest (s.elapse dt)
  rw [State.elapse_fuses] at harb hlcs hserial
  rw [State.elapse_tamp] at hmark
  have hframe := OnlyRegs.toStep (stepAfterFuses s) (coreStart (s.elapse dt))
  obtain ⟨hclk', hdram', htabs', hfuses', htamp'⟩ := (RegsOnly.toStep (stepAfterFuses s) (coreStart (s.elapse dt))).rest
  refine ⟨_, execFuseLoad_eq hmode hcore hstep, (congrArg Clocks.core hclk').trans hon, (hframe.getF (by decide)).trans hup, (hframe.getF (by decide)).trans harb,
    (hframe.getF (by decide)).trans hlcs, (hframe.getF (by decide)).trans hserial, (toStep_step _ _).trans (stepAfterFuses_mod s),
    (congrArg Tamp.bcnMark htamp').trans hmark, hdram'.trans hdram, htabs'.trans htabs, hfuses'.trans hfuses⟩

/-! Steps 4 to 6. -/

theorem inStep_elapse_not {n dt : Nat} {s : State} (h : inStep n s = true) : ¬ (!inStep n (s.elapse dt)) = true := by
  have he : inStep n (s.elapse dt) = true := h
  rw [he]
  decide

theorem execIdentitySelfTest_completes {dt : Nat} {s : State} (h : inStep 4 s = true) :
    Completes (.identitySelfTest dt true) s fun t => t.step = 5 ∧ OnlyRegs [0x20000] s t ∧ t.dram = s.dram := by
  have hexec : exec (.identitySelfTest dt true) s = .next (toStep 5 (s.elapse dt)) := if_neg (inStep_elapse_not h)
  exact ⟨_, hexec, toStep_step 5 _, OnlyRegs.toStep 5 (s.elapse dt), rfl⟩

/-- The clocks of the device at the lock of the root PLL (R28, R33). -/
def clocksStarted (s : State) : State :=
  { s with
    clk := { s.clk with running := true, slot := 0, stamp := 0, monitor := true }
    time := { s.time with d0 := { s.time.d0 with incAt := s.clk.now }, d1 := { s.time.d1 with incAt := s.clk.now } } }

/-- CLK_STATUS with every clock in order. -/
def clocksShown (s : State) : State := ((s.setF F.CLK_STATUS_ROOT_LOCK 1).setF F.CLK_STATUS_REF_OK 1).setF F.CLK_STATUS_DIV_OK 0x3F

theorem clocksShown_fields (s : State) : (clocksShown s).getF F.CLK_STATUS_ROOT_LOCK = 1 ∧ (clocksShown s).getF F.CLK_STATUS_REF_OK = 1 ∧
    (clocksShown s).getF F.CLK_STATUS_DIV_OK = 0x3F := by
  simp (disch := decide) [clocksShown, State.getF_setF, State.getF_setF_disj]

theorem OnlyRegs.clocksShown (s : State) : OnlyRegs [0x10000] s (clocksShown s) :=
  (((OnlyRegs.setF s F.CLK_STATUS_ROOT_LOCK 1).trans (OnlyRegs.setF _ F.CLK_STATUS_REF_OK 1)).trans (OnlyRegs.setF _ F.CLK_STATUS_DIV_OK 0x3F)).mono (by decide)

theorem execRootPllLock_completes {dt : Nat} {s : State} (h : inStep 5 s = true) :
    Completes (.rootPllLock dt) s fun t =>
      t.step = 6 ∧ t.clk.running = true ∧ t.clk.slot = 0 ∧ t.clk.stamp = 0 ∧ t.clk.monitor = true ∧ t.getF F.CLK_STATUS_ROOT_LOCK = 1 ∧ t.getF F.CLK_STATUS_REF_OK = 1 ∧
        t.getF F.CLK_STATUS_DIV_OK = 0x3F ∧ OnlyRegs [0x20000, 0x10000] s t ∧ t.dram = s.dram := by
  have hexec : exec (.rootPllLock dt) s = .next (toStep 6 (clocksShown (clocksStarted (s.elapse dt)))) := if_neg (inStep_elapse_not h)
  obtain ⟨hlock, href, hdiv⟩ := clocksShown_fields (clocksStarted (s.elapse dt))
  have hstep := OnlyRegs.toStep 6 (clocksShown (clocksStarted (s.elapse dt)))
  have hframe : OnlyRegs ([0x10000] ++ [0x20000]) s (toStep 6 (clocksShown (clocksStarted (s.elapse dt)))) :=
    (OnlyRegs.clocksShown (clocksStarted (s.elapse dt))).trans hstep
  exact ⟨_, hexec, toStep_step 6 _, rfl, rfl, rfl, rfl, (hstep.getF (by decide)).trans hlock, (hstep.getF (by decide)).trans href,
    (hstep.getF (by decide)).trans hdiv, hframe.mono (by decide), rfl⟩

theorem OnlyRegs.trainedDram (size : Nat) (two : Bool) (s : State) : OnlyRegs [0x118000] s (trainedDram size two s) :=
  ((((OnlyRegs.setF s F.DRM_STATUS_TRAINED 1).trans (OnlyRegs.setF _ F.DRM_STATUS_RANKS _)).trans (OnlyRegs.setF _ F.DRM_STATUS_SIZE _)).trans
    (OnlyRegs.setF _ F.DRM_STATUS_USABLE_MIB _)).mono (by decide)

theorem trainedDram_fields (size : Fin 3) (two : Bool) (s : State) : (trainedDram size two s).getF F.DRM_STATUS_TRAINED = 1 ∧
    (trainedDram size two s).getF F.DRM_STATUS_SIZE = size.val + 1 ∧ (trainedDram size two s).getF F.DRM_STATUS_RANKS = (if two then 2 else 1) ∧
    (trainedDram size two s).getF F.DRM_STATUS_USABLE_MIB = 896 * 2 ^ size.val := by
  have hsize : (size.val + 1) % 4 = size.val + 1 := Nat.mod_eq_of_lt (by omega)
  have hpow : 2 ^ size.val ≤ 2 ^ 2 := Nat.pow_le_pow_right (by decide) (by omega)
  have husable : 896 * 2 ^ size.val % 65536 = 896 * 2 ^ size.val := Nat.mod_eq_of_lt (by omega)
  have hranks : (if two then 2 else 1) % 4 = if two then 2 else 1 := by cases two <;> rfl
  simp (disch := decide) [trainedDram, State.getF_setF, State.getF_setF_disj, hsize, husable, hranks]

/-- The listening window of R83, which a unit with a pair root key opens. -/
def listenOpened (s : State) : State :=
  if s.fuses.pairRoot then s.updBoot fun b => { b with listenEnd := some (s.clk.now + 10 * ms), leadWire := 0, leadLane := 0 } else s

theorem listenOpened_frame (s : State) : OnlyRegs [] s (listenOpened s) ∧ (listenOpened s).dram = s.dram := by
  unfold listenOpened
  split <;> exact ⟨OnlyRegs.of_regs [] rfl, rfl⟩

theorem execDramTraining_eq {dt : Nat} (size : Fin 3) (two : Bool) {s : State} (h : inStep 6 s = true) (hddr : s.pins.vddDdr = true)
    (hvoid : s.fuses.lifecycle ≠ 5) :
    exec (.dramTraining dt size two true true) s = .next (toStep 7 (listenOpened (trainedDram size two (s.elapse dt)))) := by
  have htrains : ¬ (!true || !(s.elapse dt).pins.vddDdr) = true := by simp [hddr]
  exact (if_neg (inStep_elapse_not h)).trans ((if_neg htrains).trans (if_neg hvoid))

theorem execDramTraining_completes {dt : Nat} (size : Fin 3) (two : Bool) {s : State} (h : inStep 6 s = true) (hddr : s.pins.vddDdr = true)
    (hvoid : s.fuses.lifecycle ≠ 5) : Completes (.dramTraining dt size two true true) s fun t =>
      t.step = 7 ∧ t.getF F.DRM_STATUS_TRAINED = 1 ∧ t.getF F.DRM_STATUS_SIZE = size.val + 1 ∧ t.getF F.DRM_STATUS_RANKS = (if two then 2 else 1) ∧
        t.getF F.DRM_STATUS_USABLE_MIB = 896 * 2 ^ size.val ∧ OnlyRegs [0x20000, F.DRM_STATUS_TRAINED.addr] s t ∧ t.dram = s.dram := by
  have htrained := OnlyRegs.trainedDram size two (s.elapse dt)
  obtain ⟨hdone, hsize, hranks, husable⟩ := trainedDram_fields size two (s.elapse dt)
  obtain ⟨hlisten, hdram⟩ := listenOpened_frame (trainedDram size two (s.elapse dt))
  have hafter := hlisten.trans (OnlyRegs.toStep 7 _)
  exact ⟨_, execDramTraining_eq size two h hddr hvoid, toStep_step 7 _, (hafter.getF (by decide)).trans hdone, (hafter.getF (by decide)).trans hsize,
    (hafter.getF (by decide)).trans hranks, (hafter.getF (by decide)).trans husable, (htrained.trans hafter).mono (by decide), hdram⟩

/-- Settles O17: each step by the lemma of its command. -/
theorem startupSteps : Obligations.StartupSteps := fun _ _ =>
  ⟨execAonUp_completes, execFuseLoad_completes, execIdentitySelfTest_completes, execRootPllLock_completes, fun size two => execDramTraining_completes size two⟩

end Sys2Proof.Machine

/-! SUPPORT. The safe state while it is in force, and a waiting job whose class is no engine class. -/

namespace Sys2Proof.Machine

theorem armFreeze_mode (i : Nat) (s : State) : (armFreeze i s).mode = s.mode := by
  unfold armFreeze
  split <;> rfl

theorem OnlyRegs.addCause (i : Nat) (s : State) : OnlyRegs [0x170000] s (addCause i s) := by
  unfold Machine.addCause
  split
  · have hset := (OnlyRegs.setF s ⟨0x170000, i, i⟩ 1).trans (OnlyRegs.setF _ F.SAF_STATUS_RESET_ONLY 1)
    exact hset.mono (List.append_subset.2 ⟨List.Subset.refl _, List.Subset.refl _⟩)
  · exact OnlyRegs.setF s ⟨0x170000, i, i⟩ 1

/-- A detection in the safe state adds its cause and moves nothing (R503). -/
theorem enterSafe_mode_of_safe {i : Nat} {s : State} (h : s.getF F.SAF_STATUS_SAFE = 1) : (enterSafe i s).mode = s.mode := by
  rw [enterSafe, if_pos h, armFreeze_mode]
  exact (OnlyRegs.addCause i s).getF (by decide)

/-- What a parity error at key slot `slot` leaves before the safe state is entered: the error is counted and noticed, and the keys are erased. -/
def slotErased (slot : Fin 256) (s : State) : State :=
  alarmErase 0 (notify N.CFG_PARITY scSafeHold 0 (0x130000 + slot.val) (s.incF (F.SAF_CNT_COUNT 4)))

theorem exec_parityWalk_key {dt : Nat} {slot : Fin 256} {s : State} (h : monitorsRun s = true) :
    exec (.parityWalk dt [.key slot]) s = .next (enterSafe 5 (slotErased slot (s.elapse dt))) := by
  have hruns : monitorsRun (s.elapse dt) = true := by rwa [monitorsRun, State.elapse_mode]
  exact if_pos hruns

/-- A waiting job of a class and a priority that no engine has: its word of JOB_READY would stand at SAF_STATUS. -/
def strayJob : Job := newJob ((0x170000 - 0x100200) / 4) 64 0 0 0 [] .none

/-- AUTONOMOUS with one CPH job running, and `strayJob` waiting for its ID. -/
def strayWaiting : State :=
  { State.reset with
    regs := [(0x4, 1#32)]
    fab := { State.reset.fab with jobs := [(0, some { newJob ecCPH 0 0 0 0 [] (.rxa 0) with state := jsRunning })], waiting := [strayJob] } }

theorem strayWaiting_autonomous : monitorsRun strayWaiting = true ∧ strayWaiting.mode = stAutonomous ∧ strayWaiting.getF F.SAF_STATUS_SAFE = 0 := by decide

set_option maxRecDepth 20000 in
/-- The erase ends the CPH job, the stray job takes its ID, and its word of JOB_READY, 0x80000000 for an empty list, sets SAF_STATUS.SAFE. -/
theorem strayWaiting_slotErased : (slotErased 0 (strayWaiting.elapse 0)).getF F.SAF_STATUS_SAFE = 1 ∧
    (slotErased 0 (strayWaiting.elapse 0)).mode = stAutonomous := by decide

/-- Refutes O59: a parity error in a key slot does not lead to the safe state where the ID freed by the erase goes to a waiting job of class 0x1BF80,
whose word of JOB_READY overwrites SAF_STATUS with SAFE set. The statement speaks of every state, this one too. -/
theorem not_monitorsAndSafeExit : ¬ Obligations.MonitorsAndSafeExit := by
  intro h
  obtain ⟨-, -, -, -, hparity, -⟩ := h 0 strayWaiting
  obtain ⟨-, hsafe, -⟩ := hparity [.key 0]
  obtain ⟨hmon, hauto, hsafe0⟩ := strayWaiting_autonomous
  obtain ⟨herased, hmode⟩ := strayWaiting_slotErased
  obtain ⟨t, ht, htmode, -⟩ := hsafe hmon (List.cons_ne_nil _ _) hauto hsafe0
  rw [exec_parityWalk_key hmon, Host.Outcome.next.injEq] at ht
  rw [← ht, enterSafe_mode_of_safe herased, hmode] at htmode
  exact absurd htmode (by decide)

end Sys2Proof.Machine

/-! SUPPORT. Nothing turns back (R71, R407), and the notice that ends a start-up with a new seed. -/

namespace Sys2Proof.Machine

/-- Settles O6: the six parts are among what every step keeps. -/
theorem nothingTurnsBack : Obligations.NothingTurnsBack := by
  intro s t ht
  obtain ⟨-, -, htime, hadded, hserial, hpart, hroot, harb, -⟩ := step_keeps s t ht
  exact ⟨htime, hadded, harb, hserial, hpart, hroot⟩

/-- Step 11 of a unit without a partner, after an image that enables the notice ring and in a start-up whose unlock seed is new, so that FC_RESET is owed (R372). -/
def fcResetOwed : State :=
  { State.reset with
    regs := [(0x44, 0x80000000#32), (0x20000, 0xB00#32)]
    clk := { State.reset.clk with core := true }
    fuses := { State.reset.fuses with pairRoot := false }
    cph := { State.reset.cph with fcReset := true } }

theorem fcResetOwed_claims : inStep 11 fcResetOwed = true ∧ claimDue fcResetOwed = true := by decide

theorem fcResetOwed_claimNow_dram : (claimNow (fcResetOwed.elapse 0)).dram ≠ fcResetOwed.dram := by decide

/-- Without a pair root key the claim is not delayed (R453). -/
theorem exec_ownNClaim_unpaired {dt : Nat} {s : State} (hdue : claimDue s = true) (hroot : s.fuses.pairRoot = false) :
    exec (.ownNClaim dt) s = .next (claimNow (s.elapse dt)) := by
  have hdue' : ¬ (!claimDue (s.elapse dt)) = true := by
    have he : claimDue (s.elapse dt) = claimDue s := rfl
    simp [he, hdue]
  have hroot' : (!(s.elapse dt).fuses.pairRoot) = true := by simp [hroot]
  exact (if_neg hdue').trans (if_pos hroot')

/-- Refutes O20: the start-up ends with the claim, and the notice FC_RESET that is then owed writes its record to the ring in device DRAM. -/
theorem not_ownLineAtStart : ¬ Obligations.OwnLineAtStart := by
  intro h
  obtain ⟨hclaim, -⟩ := h 0 fcResetOwed
  obtain ⟨hstep, hdue⟩ := fcResetOwed_claims
  obtain ⟨t, ht, -, -, hdram⟩ := hclaim hstep hdue rfl (.inl rfl)
  rw [exec_ownNClaim_unpaired hdue rfl, Host.Outcome.next.injEq] at ht
  exact fcResetOwed_claimNow_dram (ht ▸ hdram)

end Sys2Proof.Machine

/-! SUPPORT. A restart under R90, by RESET_N and by CFG_RESTART (R87, R89, R92). -/

namespace Sys2Proof.Machine

theorem resetDevice_reg (s : State) (a : Nat) : (resetDevice s).reg a = if survivesReset a then s.reg a else resetWord a :=
  Sparse.get_filter resetWord survivesReset s.regs a

theorem survivesReset_iff (a : Nat) : survivesReset a = true ↔ 0x138000 ≤ a ∧ a < 0x139000 ∨ a = 0x178000 := by
  simp [survivesReset]

theorem restart_reg {s : State} {a : Nat} (h : a ≠ 0x20000) :
    (restart s).reg a = if 0x138000 ≤ a ∧ a < 0x139000 ∨ a = 0x178000 then s.reg a else resetWord a := by
  have hset : (restart s).reg a = (resetDevice s).reg a := State.reg_setF_ne (f := F.CFG_STATUS_STEP) _ 2 h
  rw [hset, resetDevice_reg]
  exact if_congr (survivesReset_iff a) rfl rfl

/-- TOP_STATUS is not among what survives, and its reset value is that of start-up. -/
theorem restart_mode (s : State) : (restart s).mode = stStarting := by
  have hreg : (restart s).reg 0x4 = resetWord 0x4 := by
    rw [restart_reg (by decide), if_neg (by decide)]
  have hreset : State.reset.mode = stStarting := by decide
  exact (State.getF_of_reg (s := State.reset) (f := F.TOP_STATUS_STATE) hreg).trans hreset

theorem restart_step (s : State) : (restart s).step = 2 := State.getF_setF _ 2 (by decide) (by decide)

/-- What a restart after `dt` ticks leaves of `s` (R90). -/
def Restarted (dt : Nat) (s t : State) : Prop :=
  (∀ a, a ≠ 0x20000 → t.reg a = if 0x138000 ≤ a ∧ a < 0x139000 ∨ a = 0x178000 then s.reg a else resetWord a) ∧
    t.step = 2 ∧ t.mode = stStarting ∧ t.saf.log = s.saf.log ∧ t.saf.logWr = s.saf.logWr ∧ t.tamp = s.tamp ∧ t.fuses = s.fuses ∧
    t.clk.now = s.clk.now + dt ∧ t.dram = [] ∧ t.tabs = []

theorem restarted_restart (dt : Nat) (s : State) : Restarted dt s (restart (s.elapse dt)) :=
  ⟨fun _ ha => restart_reg ha, restart_step _, restart_mode _, rfl, rfl, rfl, rfl, rfl, rfl, rfl⟩

/-- A pulse that ends no low level present since VIN rose restarts the device outside TAMPER_HOLD (R89, R524). -/
theorem exec_resetNPulse_restarts {dt : Nat} {s : State} (h : (s.pins.vinValid && !s.pins.resetLow && s.mode != stTamperHold) = true) :
    exec (.resetNPulse dt) s = .next (restart (s.elapse dt)) := by
  simp only [Bool.and_eq_true, Bool.not_eq_true', bne_iff_ne] at h
  obtain ⟨⟨hvin, hlow⟩, hmode⟩ := h
  have hheard : ¬ (!(s.elapse dt).pins.vinValid || (s.elapse dt).mode == stTamperHold) = true := by simp [hvin, hmode]
  have hpulse : ¬ (s.elapse dt).pins.resetLow = true := by simp [hlow]
  exact (if_neg hheard).trans (if_neg hpulse)

theorem mayCfg_of_safeHold {m : Master} {s : State} (h : s.mode = stSafeHold) (nvm : Bool) : mayCfg nvm m s = true := by
  simp [mayCfg, h, stSafeHold, stStarting]

theorem mayCfg_of_autonomous {m : Master} {s : State} (h : s.mode = stAutonomous) (ho : s.owns m = true) (nvm : Bool) : mayCfg nvm m s = true := by
  simp [mayCfg, h, ho, stAutonomous, stSafeHold, stStarting, stTamperHold]

theorem gatedWrite_open {m : Master} {a : Nat} {f : State → State} {s : State} (ha : answers a s = true) (hf : frozenShut a s = false) :
    gatedWrite m a f s = f s := by
  simp [gatedWrite, ha, hf]

theorem exec_cfgRestart_restarts {dt : Nat} {m : Master} {s : State}
    (h : (s.clk.core && (s.mode == stSafeHold || s.mode == stAutonomous && s.owns m)) = true) :
    exec (.cfgRestart dt m 0x7180#32) s = .next (restart (s.elapse dt)) := by
  simp only [Bool.and_eq_true, Bool.or_eq_true, beq_iff_eq] at h
  obtain ⟨hcore, hmode⟩ := h
  have hmay : mayCfg false m (s.elapse dt) = true := hmode.elim (fun h => mayCfg_of_safeHold h _) fun ⟨h, ho⟩ => mayCfg_of_autonomous h ho _
  have hf : s.mode ≠ stFrozen := by rcases hmode with h | ⟨h, -⟩ <;> rw [h] <;> decide
  have hwrite : writeRestart m 0x7180#32 (s.elapse dt) = restart (s.elapse dt) := by
    simp only [writeRestart, hmay, Bool.not_true, Bool.false_eq_true, if_false]
    exact if_pos (by decide)
  exact congrArg Host.Outcome.next ((gatedWrite_open (s := s.elapse dt) (answers_low hcore (by decide)) (frozenShut_of_ne 0x20018 hf)).trans hwrite)

/-- Settles O16: the pulse and either master's write are a restart. -/
theorem restarts : Obligations.Restarts := by
  intro dt s p hp hc
  simp only [List.mem_cons, List.not_mem_nil, or_false] at hp
  rcases hp with rfl | rfl | rfl
  · exact ⟨_, exec_resetNPulse_restarts hc, restarted_restart dt s⟩
  · exact ⟨_, exec_cfgRestart_restarts hc, restarted_restart dt s⟩
  · exact ⟨_, exec_cfgRestart_restarts hc, restarted_restart dt s⟩

end Sys2Proof.Machine

/-! SUPPORT. The frame of the radio: whatever a port, its receptions and its commands do when the port stops or calibrates, no register below those of the ports changes but
TOP_STATUS and those of notices, and the loader's state stands (R151, R153, R159). -/

namespace Sys2Proof.Machine

/-- The registers below 0x40000, other than TOP_STATUS and those of notices, and the loader's state are in `s` as they are in `s0`. -/
structure LowKept (s0 s : State) : Prop where
  reg : ∀ a, a < 0x40000 → a ∉ 0x4 :: noticeRegs → s.reg a = s0.reg a
  boot : s.boot = s0.boot

section
variable {s0 s t : State}

theorem LowKept.refl (s : State) : LowKept s s := ⟨fun _ _ _ => rfl, rfl⟩

theorem LowKept.trans (h : LowKept s0 s) (k : LowKept s t) : LowKept s0 t :=
  ⟨fun a ha hn => (k.reg a ha hn).trans (h.reg a ha hn), k.boot.trans h.boot⟩

/-- What neither writes a register nor touches the loader. -/
theorem LowKept.congr (h : LowKept s0 s) (hp : (t.regs, t.boot) = (s.regs, s.boot)) : LowKept s0 t :=
  h.trans ⟨fun a _ _ => congrArg (fun p : Sparse Word × Boot => Sparse.get resetWord p.1 a) hp, congrArg Prod.snd hp⟩

theorem LowKept.setReg (h : LowKept s0 s) {a : Nat} {w : Word} (ha : 0x40000 ≤ a) : LowKept s0 (s.setReg a w) :=
  h.trans ⟨fun b hb _ => State.reg_setReg_ne s w (by omega), rfl⟩

theorem LowKept.setF (h : LowKept s0 s) {a hi lo v : Nat} (ha : 0x40000 ≤ a) : LowKept s0 (s.setF ⟨a, hi, lo⟩ v) := h.setReg ha
theorem LowKept.incF (h : LowKept s0 s) {a hi lo : Nat} (ha : 0x40000 ≤ a) : LowKept s0 (s.incF ⟨a, hi, lo⟩) := h.setF ha
theorem LowKept.satF (h : LowKept s0 s) {a hi lo n : Nat} (ha : 0x40000 ≤ a) : LowKept s0 (s.satF ⟨a, hi, lo⟩ n) := h.setF ha

theorem LowKept.set64 (h : LowKept s0 s) {a hi lo a' hi' lo' v : Nat} (ha : 0x40000 ≤ a) (ha' : 0x40000 ≤ a') :
    LowKept s0 (s.set64 ⟨a, hi, lo⟩ ⟨a', hi', lo'⟩ v) := (h.setF ha).setF ha'

theorem LowKept.rfUp (h : LowKept s0 s) {v : Nat} : LowKept s0 (s.setF F.TOP_STATUS_RF_UP v) :=
  h.trans ⟨fun _ _ hn => State.reg_setF_ne (f := F.TOP_STATUS_RF_UP) s v fun e => hn (e ▸ List.mem_cons_self), rfl⟩

theorem LowKept.notify (h : LowKept s0 s) {k : NoticeKind} {status port arg : Nat} : LowKept s0 (notify k status port arg s) :=
  h.trans ⟨fun _ _ hn => notify_reg fun hm => hn (List.mem_cons_of_mem _ hm), notify_boot ..⟩

theorem LowKept.ite {c : Prop} [Decidable c] (h : LowKept s0 s) (k : LowKept s0 t) : LowKept s0 (if c then s else t) := by
  split <;> assumption

/-- An operation that may be done once more, or not at all. -/
theorem LowKept.thenIf {c : Prop} [Decidable c] (h : LowKept s0 s) (hf : LowKept s0 s → LowKept s0 t) : LowKept s0 (if c then t else s) := (hf h).ite h
theorem LowKept.unless {c : Prop} [Decidable c] (h : LowKept s0 s) (hf : LowKept s0 s → LowKept s0 t) : LowKept s0 (if c then s else t) := h.ite (hf h)

theorem LowKept.updPort (h : LowKept s0 s) {n : Nat} {f : Port → Port} : LowKept s0 (s.updPort n f) := h.congr (by rfl)
theorem LowKept.updPair (h : LowKept s0 s) {f : Pair → Pair} : LowKept s0 (s.updPair f) := h.congr (by rfl)
theorem LowKept.updSlt (h : LowKept s0 s) {f : Slots → Slots} : LowKept s0 (s.updSlt f) := h.congr (by rfl)
theorem LowKept.setDl (h : LowKept s0 s) {i : Nat} {d : Option Dl} : LowKept s0 (s.setDl i d) := h.congr (by rfl)
theorem LowKept.setAcc (h : LowKept s0 s) {i : Nat} {a : Option Accept} : LowKept s0 (s.setAcc i a) := h.congr (by rfl)

theorem LowKept.foldl {α : Type} {f : State → α → State} {l : List α} (h : LowKept s0 s) (hf : ∀ t e, LowKept s0 t → LowKept s0 (f t e)) :
    LowKept s0 (l.foldl f s) := by
  induction l generalizing s with
  | nil => exact h
  | cons e l ih => exact ih (hf s e h)

/-! Receptions that end when a port goes blank (R150, R194). -/

theorem LowKept.noteLow (h : LowKept s0 s) : LowKept s0 (noteLow s) := (h.congr (by rfl)).notify.ite ((h.congr (by rfl)).ite h)

theorem LowKept.poolFree (h : LowKept s0 s) {i : Nat} : LowKept s0 (poolFree i s) := h.ite ((LowKept.noteLow ((h.congr (by rfl)).incF (by omega))).ite (h.congr (by rfl)))

theorem LowKept.syncPool (h : LowKept s0 s) {n : Nat} : LowKept s0 (syncPool n s) := (((h.setF (by omega)).setF (by omega)).setF (by omega)).thenIf (·.setF (by omega))

theorem LowKept.releaseDemod (h : LowKept s0 s) {n d : Nat} {handedOn : Bool} : LowKept s0 (releaseDemod n d handedOn s) := by
  unfold Machine.releaseDemod
  split
  · exact h
  · dsimp only
    split
    · exact (h.congr (by rfl)).syncPool.unless (·.poolFree)
    · exact (h.congr (by rfl)).syncPool

theorem LowKept.failRx (h : LowKept s0 s) {n d o : Nat} : LowKept s0 (failRx n d o s) := by
  unfold Machine.failRx
  split
  · exact h
  · exact ((h.incF (by omega)).setReg (by omega)).releaseDemod

theorem LowKept.blankPort (h : LowKept s0 s) {n : Nat} : LowKept s0 (blankPort n s) := h.foldl fun _ _ k => k.failRx

/-! The catalogue's entries and the energy ledger (R271, R272, R281). -/

theorem LowKept.recount (h : LowKept s0 s) {nix : Nat} {a b : List Byte} : LowKept s0 (recount nix a b s) := (((h.congr (by rfl)).setF (by omega)).setF (by omega)).setF (by omega)

theorem LowKept.setEntry (h : LowKept s0 s) {nix : Nat} {b : List Byte} : LowKept s0 (setEntry nix b s) := (h.congr (by rfl)).recount

theorem LowKept.withStrain (h : LowKept s0 s) {nix : Nat} {e : List Byte} : LowKept s0 (withStrain nix e s) := h.setEntry.thenIf (·.setF (by omega))

theorem LowKept.charge (h : LowKept s0 s) {nix nc : Nat} : LowKept s0 (charge nix nc s) := (h.incF (by omega)).withStrain

/-! The journal of a pair (R471 to R476). -/

theorem LowKept.sendHello (h : LowKept s0 s) : LowKept s0 (sendHello s) := h.congr (by rfl)

theorem LowKept.sendLane (h : LowKept s0 s) {kind : Nat} {body : List Nat} : LowKept s0 (sendLane kind body s) := (h.ite h.sendHello).congr (by rfl)

theorem LowKept.abandonSnap (h : LowKept s0 s) : LowKept s0 (abandonSnap s) := (((h.congr (by rfl)).setF (by omega)).incF (by omega)).ite h

theorem LowKept.startSnap (h : LowKept s0 s) : LowKept s0 (startSnap s) := ((((h.congr (by rfl)).setF (by omega)).setF (by omega)).setF (by omega)).sendLane

theorem LowKept.triggerSnap (h : LowKept s0 s) : LowKept s0 (triggerSnap s) := h.ite ((h.congr (by rfl)).ite h.startSnap)

theorem LowKept.rebaseJournal (h : LowKept s0 s) : LowKept s0 (rebaseJournal s) := (h.congr (by rfl)).set64 (by omega) (by omega)

theorem LowKept.invalidateJournal (h : LowKept s0 s) {why : Nat} : LowKept s0 (invalidateJournal why s) :=
  (LowKept.rebaseJournal (LowKept.abandonSnap (h.setF (by omega)))).incF (by omega) |>.notify.unless (·.triggerSnap)

theorem LowKept.journalRec (h : LowKept s0 s) {body : List Nat} {n : Nat} : LowKept s0 (journalRec body n s) :=
  h.ite (h.invalidateJournal.ite ((((LowKept.sendLane (h.ite h.sendLane)).set64 (by omega) (by omega)).incF (by omega)).updPair.thenIf (·.triggerSnap)))

theorem LowKept.putEntry (h : LowKept s0 s) {nix : Nat} {b : List Byte} : LowKept s0 (putEntry nix b s) := h.setEntry.journalRec

/-! Downlinks, their queues and the associations that end with them (R226 to R228, R250 to R254, R262, R290, R300). -/

theorem LowKept.schedDone (h : LowKept s0 s) {nix status : Nat} : LowKept s0 (schedDone nix status s) := ((h.congr (by rfl)).incF (by omega)).notify

theorem LowKept.setReceipt (h : LowKept s0 s) {i : Nat} {r : Option Receipt} : LowKept s0 (setReceipt i r s) := by
  have hset : LowKept s0 (syncReceipts (s.updXch fun x => { x with receipts := Sparse.set (fun _ => none) x.receipts i r })) := (h.congr (by rfl)).setF (by omega)
  unfold Machine.setReceipt
  dsimp only
  split
  · exact hset.journalRec
  · exact hset.journalRec
  · exact hset

theorem LowKept.queueRec (h : LowKept s0 s) {p : Nat} {r : Rec} {buffer wait : Option Nat} : LowKept s0 (queueRec p r buffer wait s) := h.congr (by rfl)

theorem LowKept.dlStatus (h : LowKept s0 s) {d : Dl} {status : Nat} : LowKept s0 (dlStatus d status s) := by
  unfold Machine.dlStatus
  dsimp only
  split
  · exact h.queueRec
  · exact h.queueRec
  · exact h

theorem LowKept.leaveRoster (h : LowKept s0 s) {nix : Nat} : LowKept s0 (leaveRoster nix s) := (h.congr (by rfl)).setF (by omega)

theorem LowKept.assocNone (h : LowKept s0 s) {nix updStatus : Nat} : LowKept s0 (assocNone nix updStatus s) := by
  have hleft : LowKept s0 (Machine.putEntry nix (entPutBits (s.entry nix) 32 1 0 asNone) (Machine.leaveRoster nix s)) := h.leaveRoster.putEntry
  exact (hleft.congr (by rfl)).thenIf (·.schedDone)

theorem LowKept.dlReportBase (h : LowKept s0 s) {d : Dl} {status : Nat} : LowKept s0 (dlReportBase d status s) := by
  unfold Machine.dlReportBase
  split
  case h_1 => exact LowKept.setReceipt ((h.incF (by omega)).ite h)
  case h_2 => exact (h.congr (by rfl)).ite (h.schedDone.ite h)
  case h_3 => exact h.setEntry.ite h
  case h_4 => exact h
  case h_5 => exact h.dlStatus

theorem LowKept.unqueueDl (h : LowKept s0 s) {i : Nat} : LowKept s0 (unqueueDl i s) := (h.congr (by rfl)).setF (by omega)

theorem LowKept.dlCount (h : LowKept s0 s) {i : Nat} {d : Dl} {status : Nat} : LowKept s0 (dlCount i d status s) :=
  (h.unqueueDl.setDl.thenIf fun k => (k.incF (by omega)).setEntry).thenIf fun k => (k.incF (by omega)).thenIf fun k => k.notify

theorem LowKept.updDl (h : LowKept s0 s) {i : Nat} {f : Dl → Dl} : LowKept s0 (s.updDl i f) := by
  unfold State.updDl
  split
  · exact h.congr (by rfl)
  · exact h

theorem LowKept.cancelNode (h : LowKept s0 s) {nix : Nat} : LowKept s0 (cancelNode nix s) :=
  h.foldl fun _ _ k => k.ite (k.updDl.ite (k.incF (by omega)).dlCount.dlReportBase)

theorem LowKept.assocEnd (h : LowKept s0 s) {nix updStatus : Nat} : LowKept s0 (assocEnd nix updStatus s) := h.assocNone.cancelNode

theorem LowKept.dlEndOne (h : LowKept s0 s) {i : Nat} {d : Dl} {status : Nat} : LowKept s0 (dlEndOne i d status s) :=
  h.dlCount.dlReportBase.thenIf (fun k => (k.assocEnd.incF (by omega)).notify)

theorem LowKept.dlEnd (h : LowKept s0 s) {i status : Nat} : LowKept s0 (dlEnd i status s) := by
  unfold Machine.dlEnd
  split
  · exact h
  · dsimp only
    split
    · exact h.dlEndOne.unless fun k => k.foldl fun _ _ k => k.thenIf (·.dlEndOne)
    · exact h.dlEndOne

/-! The end of a port's command (R159, R245 to R248, R252). -/

theorem LowKept.closeAcc (h : LowKept s0 s) {i : Nat} : LowKept s0 (closeAcc i s) := by
  unfold Machine.closeAcc
  split
  · exact (h.congr (by rfl)).ite h
  · exact h

theorem LowKept.chargeGuard (h : LowKept s0 s) {nix : Nat} : LowKept s0 (chargeGuard nix s) := h.charge
theorem LowKept.chargeHeard (h : LowKept s0 s) {nix t wake : Nat} : LowKept s0 (chargeHeard nix t wake s) := h.charge

theorem LowKept.ackEnd (h : LowKept s0 s) {n a : Nat} {c : Held} {status : Nat} : LowKept s0 (ackEnd n a c status s) := by
  unfold Machine.ackEnd
  split
  · exact h
  next x _ =>
    have hover : LowKept s0 (dropReserve n (x.sfd + x.delta) (s.setAcc a (some { x with ackOver := true }))) := h.congr (by rfl)
    exact LowKept.closeAcc ((hover.thenIf (·.chargeHeard)).ite (((hover.incF (by omega)).thenIf (·.chargeGuard)).ite
      (hover.ite (((hover.thenIf (·.incF (by omega))).thenIf (·.chargeGuard)).ite hover.setAcc))))

theorem LowKept.attemptLost (h : LowKept s0 s) {n d status : Nat} : LowKept s0 (attemptLost n d status s) := by
  unfold Machine.attemptLost
  split
  · exact h
  · have hcounted : LowKept s0 (if status = scLate then s.incF (F.XCH_CNT_COUNT 13) else s) := h.thenIf (·.incF (by omega))
    exact hcounted.dlEnd.ite ((hcounted.incF (by omega)).dlEnd.ite hcounted.setDl)

theorem LowKept.onTxEnd (h : LowKept s0 s) {n : Nat} {c : Held} {begun : Bool} {status : Nat} : LowKept s0 (onTxEnd n c begun status s) := by
  unfold Machine.onTxEnd
  split
  case h_1 => exact (h.incF (by omega)).updSlt.ite (h.ite (h.incF (by omega)).notify)
  case h_2 => exact h.ackEnd
  case h_3 => exact h.ite h.attemptLost
  case h_4 => exact h.ite h.attemptLost
  case h_5 => exact (h.incF (by omega)).ite (h.foldl fun _ _ k => k.updDl)

theorem LowKept.recordOutcome (h : LowKept s0 s) {n status reason : Nat} : LowKept s0 (recordOutcome n status reason s) := by
  unfold Machine.recordOutcome
  dsimp only
  split
  · exact ((h.setF (by omega)).setF (by omega)).incF (by omega)
  · exact (h.setF (by omega)).setF (by omega)

theorem LowKept.endHeld (h : LowKept s0 s) {n status reason : Nat} : LowKept s0 (endHeld n status reason s) := by
  unfold Machine.endHeld
  split
  · exact h
  · exact (h.congr (by rfl)).ite (h.congr (by rfl)).recordOutcome.onTxEnd

theorem LowKept.endWaiting (h : LowKept s0 s) {n status reason : Nat} {c : Held} : LowKept s0 (endWaiting n c status reason s) := (h.recordOutcome.congr (by rfl)).onTxEnd

/-! Ports that stop or calibrate (R151, R153, R170). -/

theorem LowKept.portOff (h : LowKept s0 s) {n : Nat} : LowKept s0 (portOff n s) := by
  unfold Machine.portOff
  extract_lets s1 s2 s3 s4
  have h4 : LowKept s0 s4 := (h.endHeld.foldl fun _ _ k => k.endWaiting).setF (by omega) |>.blankPort.setF (by omega) |>.setF (by omega) |>.setF (by omega)
  exact (h4.setF (by omega)).updPort

theorem LowKept.portsOff (h : LowKept s0 s) : LowKept s0 (portsOff s) := (h.foldl fun _ _ k => k.ite k.portOff).rfUp

theorem LowKept.startCal (h : LowKept s0 s) {n : Nat} : LowKept s0 (startCal n s) := by
  unfold Machine.startCal
  extract_lets s1 s2 s3
  have h3 : LowKept s0 s3 := h.blankPort.setF (by omega) |>.setF (by omega) |>.setF (by omega) |>.setF (by omega) |>.setF (by omega) |>.setF (by omega) |>.rfUp
  exact h3.updPort

end

end Sys2Proof.Machine

/-! SUPPORT. Start-up that fails: SAFE_HOLD, the FAIL code, the entry of the safety log, and the first owner (R86, R118, R497). -/

namespace Sys2Proof.Machine

/-! What a notice leaves of the safety log. -/

theorem State.putBytes_parts {base n a : Nat} {l : List Byte} {s : State} : ∃ d, State.putBytes base n a l s = { s with dram := d } := by
  induction l generalizing a s with
  | nil => exact ⟨_, rfl⟩
  | cons b l ih =>
    rw [State.putBytes]
    split
    · exact ih
    · obtain ⟨d, h⟩ := ih (a := a + 1) (s := s.setByte a b)
      exact ⟨d, h⟩

theorem State.mendWords_parts {a n k : Nat} {s : State} : ∃ m, State.mendWords a n k s = { s with mem := m } := by
  induction k generalizing s with
  | zero => exact ⟨_, rfl⟩
  | succ k ih =>
    rw [State.mendWords]
    dsimp only
    split
    · exact ih
    · exact ih

theorem State.setBytes_parts (s : State) (a : Nat) (l : List Byte) : ∃ d m, s.setBytes a l = { s with dram := d, mem := m } := by
  cases l with
  | nil => exact ⟨_, _, rfl⟩
  | cons b l =>
    obtain ⟨m, hm⟩ := State.mendWords_parts (a := a) (n := (b :: l).length) (k := (b :: l).length / 8 + 2)
      (s := State.putBytes a (b :: l).length a (b :: l) ((s.markBlock (a / 65536)).markBlock ((a + (b :: l).length - 1) / 65536)))
    obtain ⟨d, hd⟩ := State.putBytes_parts (base := a) (n := (b :: l).length) (a := a) (l := b :: l)
      (s := (s.markBlock (a / 65536)).markBlock ((a + (b :: l).length - 1) / 65536))
    exact ⟨d, m, hm.trans (by rw [hd]; rfl)⟩

@[simp] theorem State.setBytes_saf (s : State) (a : Nat) (l : List Byte) : (s.setBytes a l).saf = s.saf := by
  obtain ⟨d, m, h⟩ := State.setBytes_parts s a l
  rw [h]

@[simp] theorem raiseVector_saf (v : Nat) (s : State) : (raiseVector v s).saf = s.saf := by
  unfold raiseVector
  split
  · rfl
  · split <;> rfl

@[simp] theorem noticeRing_saf (k : NoticeKind) (status port arg : Nat) (s : State) : (noticeRing k status port arg s).saf = s.saf := by
  unfold noticeRing
  split
  · exact raiseVector_saf 14 _
  · exact State.setBytes_saf ..

/-- The state before the log takes its entry (R47). -/
def ringed (k : NoticeKind) (status port arg : Nat) (s : State) : State := if noticesRun s then noticeRing k status port arg s else s

@[simp] theorem ringed_saf (k : NoticeKind) (status port arg : Nat) (s : State) : (ringed k status port arg s).saf = s.saf := by
  unfold ringed
  split
  · exact noticeRing_saf ..
  · rfl

theorem notify_saf (k : NoticeKind) (status port arg : Nat) (s : State) :
    (notify k status port arg s).saf = if k.safety then (logEntry k status port arg (ringed k status port arg s)).saf else s.saf := by
  have heq : notify k status port arg s =
      let logged := if k.safety then logEntry k status port arg (ringed k status port arg s) else ringed k status port arg s
      if noticesRun s then raiseVector (if k.safety then 0 else k.vector) logged else logged := rfl
  rw [heq, apply_ite State.saf, raiseVector_saf, ite_self, apply_ite State.saf, ringed_saf]

/-- An event that is not of the safety class leaves the safety log as it is (R497). -/
theorem notify_saf_of_plain {k : NoticeKind} (h : k.safety = false) (status port arg : Nat) (s : State) : (notify k status port arg s).saf = s.saf := by
  rw [notify_saf, h, if_neg Bool.false_ne_true]

/-- The newest entry of the safety log. -/
def lastLogged (s : State) : LogEntry := Sparse.get (fun _ => LogEntry.zero) s.saf.log ((s.saf.logWr - 1) % 256)

theorem logEntry_lastLogged (k : NoticeKind) (status port arg : Nat) (s : State) : (lastLogged (logEntry k status port arg s)).arg = arg % 2 ^ 32 :=
  congrArg LogEntry.arg (Sparse.get_set_self (fun _ => LogEntry.zero) s.saf.log (s.saf.logWr % 256) _)

theorem lastLogged_congr {s t : State} (h : t.saf = s.saf) : lastLogged t = lastLogged s := by
  rw [lastLogged, h]
  rfl

/-- An event of the safety class is the log's newest entry (R497, R499). -/
theorem notify_logs {k : NoticeKind} (h : k.safety = true) (status port arg : Nat) (s : State) :
    (notify k status port arg s).saf.logWr = s.saf.logWr + 1 ∧ (lastLogged (notify k status port arg s)).arg = arg % 2 ^ 32 := by
  have hsaf : (notify k status port arg s).saf = (logEntry k status port arg (ringed k status port arg s)).saf := by
    rw [notify_saf, if_pos h]
  constructor
  · rw [hsaf]
    exact congrArg (Safety.logWr · + 1) (ringed_saf ..)
  · rw [lastLogged_congr hsaf, logEntry_lastLogged]

/-! The end of start-up (R118, R372). -/

theorem OnlyRegs.noteFcReset (s : State) : OnlyRegs noticeRegs s (noteFcReset s) := by
  unfold Machine.noteFcReset
  split
  · exact OnlyRegs.notify N.FC_RESET scOk 0 0 { s with cph := { s.cph with fcReset := false } }
  · exact OnlyRegs.of_regs _ rfl

theorem noteFcReset_saf (s : State) : (noteFcReset s).saf = s.saf := by
  unfold noteFcReset
  split
  · exact notify_saf_of_plain rfl ..
  · rfl

@[simp] theorem noteFcReset_pins (s : State) : (noteFcReset s).pins = s.pins := by
  unfold noteFcReset
  split
  · exact notify_pins ..
  · rfl

/-- The owner at the end of start-up: NONE with epoch 1 (R118). -/
def firstOwner (s : State) : State := (s.setF F.CUR_OWN_STATUS_OWNER 0).setF F.CUR_OWN_STATUS_EPOCH 1

theorem firstOwner_fields (s : State) : (firstOwner s).getF F.CUR_OWN_STATUS_OWNER = 0 ∧ (firstOwner s).getF F.CUR_OWN_STATUS_EPOCH = 1 := by
  simp (disch := decide) [firstOwner, State.getF_setF, State.getF_setF_disj]

theorem OnlyRegs.firstOwner (s : State) : OnlyRegs [0x30000] s (firstOwner s) :=
  ((OnlyRegs.setF s F.CUR_OWN_STATUS_OWNER 0).trans (OnlyRegs.setF _ F.CUR_OWN_STATUS_EPOCH 1)).mono (by decide)

theorem startupEnd_eq {s : State} (h : s.boot.ended = false) :
    startupEnd s = noteFcReset { firstOwner s with boot := { s.boot with ended := true } } := by
  unfold startupEnd
  rw [h, if_neg Bool.false_ne_true]
  rfl

theorem OnlyRegs.startupEnd (s : State) : OnlyRegs (0x30000 :: noticeRegs) s (startupEnd s) := by
  cases h : s.boot.ended with
  | true =>
    unfold Machine.startupEnd
    rw [h, if_pos rfl]
    exact OnlyRegs.of_regs _ rfl
  | false =>
    rw [startupEnd_eq h]
    exact (OnlyRegs.firstOwner s).trans (OnlyRegs.noteFcReset { Machine.firstOwner s with boot := { s.boot with ended := true } })

theorem startupEnd_fields {s : State} (h : s.boot.ended = false) :
    (startupEnd s).getF F.CUR_OWN_STATUS_OWNER = 0 ∧ (startupEnd s).getF F.CUR_OWN_STATUS_EPOCH = 1 ∧ (startupEnd s).saf = s.saf ∧ (startupEnd s).pins = s.pins := by
  obtain ⟨howner, hepoch⟩ := firstOwner_fields s
  have hnoted := OnlyRegs.noteFcReset { firstOwner s with boot := { s.boot with ended := true } }
  rw [startupEnd_eq h]
  exact ⟨(hnoted.getF (by decide)).trans howner, (hnoted.getF (by decide)).trans hepoch, noteFcReset_saf _, noteFcReset_pins _⟩

/-! The failure itself (R86). -/

/-- CFG_STATUS with a FAIL code and RESULT. -/
def failCoded (code result : Nat) (s : State) : State := (s.setF F.CFG_STATUS_FAIL code).setF F.CFG_STATUS_RESULT result

/-- SAFE_N asserted once every port is OFF. -/
def failedSafe (code result : Nat) (s : State) : State := assertSafe (portsOff (failCoded code result s))

theorem startFail_eq (code result : Nat) (s : State) :
    startFail code result s = startupEnd (notify N.START_FAIL scSafeHold 0 code (failedSafe code result s)) := rfl

theorem failCoded_fields {code result : Nat} (hc : code < 256) (hr : result < 256) (s : State) :
    (failCoded code result s).getF F.CFG_STATUS_FAIL = code ∧ (failCoded code result s).getF F.CFG_STATUS_RESULT = result := by
  simp (disch := decide) [failCoded, State.getF_setF, State.getF_setF_disj, Nat.mod_eq_of_lt hc, Nat.mod_eq_of_lt hr]

theorem OnlyRegs.assertSafe (s : State) : OnlyRegs [0x4, 0x10100] s (assertSafe s) :=
  ((((OnlyRegs.setF s F.TOP_STATUS_SAFE 1).trans (OnlyRegs.setF _ F.TOP_STATUS_STATE stSafeHold)).trans (OnlyRegs.setF _ F.PWR_STATUS_MODE 0)).trans
    (OnlyRegs.of_regs (t := Machine.assertSafe s) [] rfl)).mono (by decide)

theorem assertSafe_fields (s : State) : (assertSafe s).mode = stSafeHold ∧ (assertSafe s).getF F.TOP_STATUS_SAFE = 1 := by
  have hmode : (assertSafe s).mode = (((s.setF F.TOP_STATUS_SAFE 1).setF F.TOP_STATUS_STATE stSafeHold).setF F.PWR_STATUS_MODE 0).mode := rfl
  have hsafe : (assertSafe s).getF F.TOP_STATUS_SAFE = (((s.setF F.TOP_STATUS_SAFE 1).setF F.TOP_STATUS_STATE stSafeHold).setF F.PWR_STATUS_MODE 0).getF F.TOP_STATUS_SAFE := rfl
  rw [hmode, hsafe]
  simp (disch := decide) [State.mode, State.getF_setF, State.getF_setF_disj, State.getF_setF_ne, stSafeHold]

/-- A failed start-up is in SAFE_HOLD with its FAIL code shown and logged, and without an owner. -/
def StartFailed (code : Nat) (t : State) : Prop :=
  t.mode = stSafeHold ∧ t.getF F.TOP_STATUS_SAFE = 1 ∧ t.pins.safeN = true ∧ t.getF F.CFG_STATUS_FAIL = code ∧ t.getF F.CFG_STATUS_RESULT = 0x0E ∧
    t.getF F.CUR_OWN_STATUS_OWNER = 0 ∧ t.getF F.CUR_OWN_STATUS_EPOCH = 1 ∧ 1 ≤ t.saf.logWr ∧
    (Sparse.get (fun _ => LogEntry.zero) t.saf.log ((t.saf.logWr - 1) % 256)).arg = code

theorem startFailed_startFail {code : Nat} {s : State} (hc : code < 256) (hended : s.boot.ended = false) : StartFailed code (startFail code scSafeHold s) := by
  have hoff : LowKept (failCoded code scSafeHold s) (portsOff (failCoded code scSafeHold s)) := (LowKept.refl _).portsOff
  have hsafe := OnlyRegs.assertSafe (portsOff (failCoded code scSafeHold s))
  have hcfg : (failedSafe code scSafeHold s).reg 0x20000 = (failCoded code scSafeHold s).reg 0x20000 :=
    (hsafe _ (by decide)).trans (hoff.reg _ (by decide) (by decide))
  have hboot : (failedSafe code scSafeHold s).boot.ended = false := (congrArg Boot.ended hoff.boot).trans hended
  obtain ⟨hfail, hresult⟩ := failCoded_fields hc (result := scSafeHold) (by decide) s
  obtain ⟨hmode, hshown⟩ := assertSafe_fields (portsOff (failCoded code scSafeHold s))
  obtain ⟨hwr, harg⟩ := notify_logs (k := N.START_FAIL) rfl scSafeHold 0 code (failedSafe code scSafeHold s)
  have hended' : (notify N.START_FAIL scSafeHold 0 code (failedSafe code scSafeHold s)).boot.ended = false :=
    (congrArg Boot.ended (notify_boot ..)).trans hboot
  have hframe : OnlyRegs (0x30000 :: noticeRegs) (failedSafe code scSafeHold s) (startFail code scSafeHold s) :=
    ((OnlyRegs.notify N.START_FAIL scSafeHold 0 code _).trans (OnlyRegs.startupEnd _)).mono (by decide)
  obtain ⟨howner, hepoch, hsaf, hpins⟩ := startupEnd_fields hended'
  rw [← startFail_eq] at howner hepoch hsaf hpins
  refine ⟨(hframe.getF (by decide)).trans hmode, (hframe.getF (by decide)).trans hshown, ?_, ?_, ?_, howner, hepoch, ?_, ?_⟩
  · rw [hpins, notify_pins]
    rfl
  · exact (hframe.getF (by decide)).trans ((State.getF_of_reg hcfg).trans hfail)
  · exact (hframe.getF (by decide)).trans ((State.getF_of_reg hcfg).trans hresult)
  · rw [hsaf, hwr]
    omega
  · exact (congrArg LogEntry.arg (lastLogged_congr hsaf)).trans (harg.trans (Nat.mod_eq_of_lt (by omega)))

/-! The seven events that fail a start-up (R57, R58, R67, R76). -/

theorem exec_fuseLoad_fails {dt : Nat} {s : State} (h : (s.mode == stStarting && !s.clk.core && s.step == 3) = true) :
    exec (.fuseLoad dt false) s = .next (startFail fcFuse scSafeHold (s.elapse dt)) := by
  simp only [Bool.and_eq_true, beq_iff_eq, Bool.not_eq_true'] at h
  obtain ⟨⟨hmode, hcore⟩, hstep⟩ := h
  have hruns : ¬ ((s.elapse dt).mode ≠ stStarting ∨ (s.elapse dt).clk.core = true ∨ (s.elapse dt).step ≠ 3) := by simp [hmode, hcore, hstep]
  exact (if_neg hruns).trans (if_pos rfl)

theorem exec_identitySelfTest_fails {dt : Nat} {s : State} (h : inStep 4 s = true) :
    exec (.identitySelfTest dt false) s = .next (startFail fcIdentity scSafeHold (s.elapse dt)) := if_neg (inStep_elapse_not h)

theorem exec_rootPllLockTimeout_fails {dt : Nat} {s : State} (h : inStep 5 s = true) :
    exec (.rootPllLockTimeout dt) s = .next (startFail fcPll scSafeHold (s.elapse dt)) := if_pos (c := inStep 5 (s.elapse dt) = true) h

theorem exec_dramTraining_untrained {dt : Nat} {size : Fin 3} {two tested : Bool} {s : State} (h : inStep 6 s = true) :
    exec (.dramTraining dt size two false tested) s = .next (startFail fcDramTrain scSafeHold (s.elapse dt)) :=
  (if_neg (inStep_elapse_not h)).trans (if_pos rfl)

theorem exec_dramTraining_untested {dt : Nat} {size : Fin 3} {two : Bool} {s : State} (h : (inStep 6 s && s.pins.vddDdr) = true) :
    exec (.dramTraining dt size two true false) s = .next (startFail fcBist scSafeHold (trainedDram size two (s.elapse dt))) := by
  obtain ⟨hstep, hddr⟩ := Bool.and_eq_true_iff.1 h
  have htrains : ¬ (!true || !(s.elapse dt).pins.vddDdr) = true := by simp [hddr]
  exact (if_neg (inStep_elapse_not hstep)).trans ((if_neg htrains).trans (if_pos rfl))

theorem exec_dramTraining_void {dt : Nat} {size : Fin 3} {two : Bool} {s : State} (h : (inStep 6 s && s.pins.vddDdr && s.fuses.lifecycle == 5) = true) :
    exec (.dramTraining dt size two true true) s = .next (startFail fcLcsVoid scSafeHold (trainedDram size two (s.elapse dt))) := by
  simp only [Bool.and_eq_true, beq_iff_eq] at h
  obtain ⟨⟨hstep, hddr⟩, hvoid⟩ := h
  have htrains : ¬ (!true || !(s.elapse dt).pins.vddDdr) = true := by simp [hddr]
  exact (if_neg (inStep_elapse_not hstep)).trans ((if_neg htrains).trans ((if_neg Bool.false_ne_true).trans (if_pos hvoid)))

theorem exec_copySelection_unanswered {dt : Nat} {log : Fin 4} {octal : Bool} {a b : Option CopyView} {s : State} (h : inStep 7 s = true) :
    exec (.copySelection dt false log octal a b) s = .next (startFail fcNvm scSafeHold (s.elapse dt)) :=
  (if_neg (inStep_elapse_not h)).trans (if_pos rfl)

/-- Settles O18: each of the seven events calls `startFail` with its code. -/
theorem startupFailures : Obligations.StartupFailures := by
  intro dt size two o log a b s hended p hp hc
  have hfails : ∀ {i : Instr} {code : Nat} {u : State}, exec i s = .next (startFail code scSafeHold u) → code < 256 → u.boot.ended = false →
      Completes i s (StartFailed code) := fun hexec hcode hu => ⟨_, hexec, startFailed_startFail hcode hu⟩
  simp only [List.mem_cons, List.not_mem_nil, or_false] at hp
  rcases hp with rfl | rfl | rfl | rfl | rfl | rfl | rfl
  · exact hfails (exec_fuseLoad_fails hc) (show fcFuse < 256 by decide) hended
  · exact hfails (exec_identitySelfTest_fails hc) (show fcIdentity < 256 by decide) hended
  · exact hfails (exec_rootPllLockTimeout_fails hc) (show fcPll < 256 by decide) hended
  · exact hfails (exec_dramTraining_untrained hc) (show fcDramTrain < 256 by decide) hended
  · exact hfails (exec_dramTraining_untested hc) (show fcBist < 256 by decide) hended
  · exact hfails (exec_dramTraining_void hc) (show fcLcsVoid < 256 by decide) hended
  · exact hfails (exec_copySelection_unanswered hc) (show fcNvm < 256 by decide) hended

end Sys2Proof.Machine

/-! SUPPORT. The freeze sequence in its parts: the record, the halt of the clocks, the outputs and keys, the log entry (R507 to R511). -/

namespace Sys2Proof.Machine

/-! Wide values, ports and the FRZ block. -/

/-- What `set64` puts into two whole registers, `get64` reads back (R17). -/
theorem State.get64_set64 (s : State) {a b : Nat} (v : Nat) (h : a ≠ b) : (s.set64 ⟨a, 31, 0⟩ ⟨b, 31, 0⟩ v).get64 ⟨a, 31, 0⟩ ⟨b, 31, 0⟩ = v % 2 ^ 64 := by
  have hlo : (s.set64 ⟨a, 31, 0⟩ ⟨b, 31, 0⟩ v).getF ⟨a, 31, 0⟩ = v % 2 ^ 32 :=
    (State.getF_setF_ne _ _ h).trans (State.getF_setF s v (Nat.zero_le 31) (Nat.lt_succ_self 31))
  have hhi : (s.set64 ⟨a, 31, 0⟩ ⟨b, 31, 0⟩ v).getF ⟨b, 31, 0⟩ = v / 2 ^ 32 % 2 ^ 32 := State.getF_setF _ _ (Nat.zero_le 31) (Nat.lt_succ_self 31)
  rw [State.get64, hlo, hhi]
  omega

theorem State.get64_setF_ne (s : State) {f lo hi : Field} (v : Nat) (hl : lo.addr ≠ f.addr) (hh : hi.addr ≠ f.addr) : (s.setF f v).get64 lo hi = s.get64 lo hi := by
  rw [State.get64, State.getF_setF_ne s v hl, State.getF_setF_ne s v hh, State.get64]

theorem OnlyRegs.get64 {l : List Nat} {s t : State} (h : OnlyRegs l s t) {lo hi : Field} (hl : lo.addr ∉ l) (hh : hi.addr ∉ l) : t.get64 lo hi = s.get64 lo hi := by
  rw [State.get64, h.getF hl, h.getF hh, State.get64]

theorem State.port_updPort (s : State) (n m : Nat) (f : Port → Port) : (s.updPort n f).port m = if m = n then f (s.port n) else s.port m :=
  Sparse.get_set ..

theorem answers_frz {s : State} {a : Nat} (h : 0x178000 ≤ a) (h' : a < 0x178100) : answers a s = true := by
  have haon : aonReg a = true := by simp [aonReg, h, h']
  have hreserve : (0x160000 ≤ a && decide (a < 0x180000)) = true := by
    simp only [Bool.and_eq_true, decide_eq_true_eq]
    omega
  simp [answers, haon, hreserve]

/-- FROZEN leaves the FRZ block open (R512). -/
theorem frozenShut_frz {s : State} {a : Nat} (h : 0x178000 ≤ a) (h' : a < 0x178100) : frozenShut a s = false := by
  simp [frozenShut, h, h']

/-! The record that a freeze latches (R508, R509). -/

/-- FRZ_STATUS as a freeze sets it. -/
def freezeStatus (source : Nat) (edgeOk : Bool) (s : State) : State :=
  let s := (s.setF F.FRZ_STATUS_FROZEN 1).setF F.FRZ_STATUS_EDGE_OK (bit (edgeOk && s.clk.running))
  (s.setF F.FRZ_STATUS_SOURCE source).setF F.FRZ_STATUS_CAUSE (s.getF F.SAF_STATUS_CAUSE)

/-- The slot clock and the stamp latched. -/
def freezeTimes (s : State) : State :=
  let s := s.set64 F.FRZ_SC_LO_VALUE F.FRZ_SC_HI_VALUE s.clk.slot
  s.set64 F.FRZ_STAMP_LO_VALUE F.FRZ_STAMP_HI_VALUE s.clk.stamp

theorem OnlyRegs.freezeStatus (source : Nat) (edgeOk : Bool) (s : State) : OnlyRegs [0x178000] s (freezeStatus source edgeOk s) := by
  intro a ha
  simp only [List.mem_singleton] at ha
  simp [Machine.freezeStatus, State.reg_setF_ne, ha]

theorem freezeStatus_fields (source : Nat) (edgeOk : Bool) (s : State) :
    (freezeStatus source edgeOk s).getF F.FRZ_STATUS_FROZEN = 1 ∧ (freezeStatus source edgeOk s).getF F.FRZ_STATUS_EDGE_OK = bit (edgeOk && s.clk.running) ∧
      (freezeStatus source edgeOk s).getF F.FRZ_STATUS_SOURCE = source % 2 ^ 3 ∧ (freezeStatus source edgeOk s).getF F.FRZ_STATUS_CAUSE = s.getF F.SAF_STATUS_CAUSE := by
  have hbit : bit (edgeOk && s.clk.running) % 2 = bit (edgeOk && s.clk.running) := by
    cases edgeOk && s.clk.running <;> rfl
  have hcause : s.getF F.SAF_STATUS_CAUSE < 2048 := Nat.mod_lt _ (by decide)
  simp (disch := decide) [Machine.freezeStatus, State.getF_setF, State.getF_setF_disj, hbit, hcause]

theorem OnlyRegs.freezeTimes (s : State) : OnlyRegs [0x17800C, 0x178010, 0x178014, 0x178018] s (freezeTimes s) :=
  (OnlyRegs.set64 s F.FRZ_SC_LO_VALUE F.FRZ_SC_HI_VALUE _).trans (OnlyRegs.set64 _ F.FRZ_STAMP_LO_VALUE F.FRZ_STAMP_HI_VALUE _)

theorem freezeTimes_get64 (s : State) :
    (freezeTimes s).get64 F.FRZ_SC_LO_VALUE F.FRZ_SC_HI_VALUE = s.clk.slot % 2 ^ 64 ∧
      (freezeTimes s).get64 F.FRZ_STAMP_LO_VALUE F.FRZ_STAMP_HI_VALUE = s.clk.stamp % 2 ^ 64 :=
  ⟨((OnlyRegs.set64 _ F.FRZ_STAMP_LO_VALUE F.FRZ_STAMP_HI_VALUE _).get64 (by decide) (by decide)).trans (State.get64_set64 s _ (by decide)),
    State.get64_set64 _ _ (by decide)⟩

/-! The halt: the divided clocks stop, SAFE_N is asserted, the state is FROZEN without a power mode (R99, R508, R510). -/

def freezeHalt (s : State) : State :=
  let s := { s with
    clk := { s.clk with running := false }
    frz := { delayEnd := none, corePowered := s.clk.core, fetching := false }
    power := { s.power with hibEntry := false }
    pins := { s.pins with safeN := true } }
  ((s.setF F.TOP_STATUS_SAFE 1).setF F.TOP_STATUS_STATE stFrozen).setF F.PWR_STATUS_MODE 0

theorem OnlyRegs.freezeHalt (s : State) : OnlyRegs [0x4, 0x10100] s (freezeHalt s) := by
  intro a ha
  simp only [List.mem_cons, List.not_mem_nil, or_false, not_or] at ha
  obtain ⟨htop, hpwr⟩ := ha
  simp [Machine.freezeHalt, State.reg_setF_ne, htop, hpwr]
  rfl

theorem freezeHalt_fields (s : State) :
    (freezeHalt s).mode = stFrozen ∧ (freezeHalt s).getF F.TOP_STATUS_SAFE = 1 ∧ (freezeHalt s).getF F.PWR_STATUS_MODE = 0 := by
  simp (disch := decide) [Machine.freezeHalt, State.mode, stFrozen, State.getF_setF, State.getF_setF_disj, State.getF_setF_ne]

/-! The outputs and the keys: coexistence requests, the takeover request, OWN_N, zeroisation (R508, R510). -/

/-- Every coexistence request deasserted (R169, R508). -/
def dropReqs (s : State) : State := (List.range 16).foldl (fun s n => dropReq n s) s

theorem foldl_dropReq_parts (l : List Nat) (s : State) : ∃ p, l.foldl (fun s n => dropReq n s) s = { s with ports := p } := by
  induction l generalizing s with
  | nil => exact ⟨_, rfl⟩
  | cons n l ih =>
    obtain ⟨p, h⟩ := ih (dropReq n s)
    exact ⟨p, h⟩

theorem foldl_dropReq_req (l : List Nat) (s : State) (m : Nat) :
    ((l.foldl (fun s n => dropReq n s) s).port m).req = if m ∈ l then [] else (s.port m).req := by
  induction l generalizing s with
  | nil => rfl
  | cons n l ih =>
    rw [List.foldl_cons, ih, dropReq, State.port_updPort]
    by_cases hm : m = n
    · subst hm
      simp
    · simp [hm]

theorem dropReqs_reqActive (s : State) (k : Nat) : reqActive k (dropReqs s) = false := by
  have hnone : ∀ n ∈ List.range 16, ((dropReqs s).port n).req = [] := fun n hn => (foldl_dropReq_req _ s n).trans (if_pos hn)
  simp only [reqActive, List.any_eq_false]
  intro n hn
  simp [hnone n hn]

theorem reqActive_congr {s t : State} (h : t.ports = s.ports) (k : Nat) : reqActive k t = reqActive k s := by
  simp only [reqActive, State.port, h]

/-- The partner is asked to take over, and OWN_N released (R464, R512). -/
def handOver (s : State) : State :=
  let s := requestTakeover s
  if s.fuses.pairRoot then releaseOwnN s else s

/-- In FROZEN the release of OWN_N leaves PAR_STATUS as it is (R512). -/
theorem releaseOwnN_of_frozen {s : State} (h : s.mode = stFrozen) :
    releaseOwnN s = ((s.setF F.PAR_HB_STATUS_OWN_DRIVE 0).setF F.PAR_HB_STATUS_OWN_LINE (bit s.pair.otherHolds)).updPair
      fun p => { p with unconfAt := none, unconfTx := none } := by
  have hmode : ((s.setF F.PAR_HB_STATUS_OWN_DRIVE 0).setF F.PAR_HB_STATUS_OWN_LINE (bit s.pair.otherHolds)).mode = stFrozen := by
    simpa (disch := decide) [State.mode, State.getF_setF_ne] using h
  simp [releaseOwnN, hmode]

theorem requestTakeover_parts (s : State) : ∃ p, requestTakeover s = { s with pair := p } := by
  unfold requestTakeover
  split <;> exact ⟨_, rfl⟩

theorem requestTakeover_request {s : State} (hp : s.fuses.pairRoot = true) (hd : s.drivesOwn = true) : (requestTakeover s).pair.request = true := by
  simp [requestTakeover, hp, hd, State.updPair]

theorem handOver_parts {s : State} (h : s.mode = stFrozen) : ∃ r p, handOver s = { s with regs := r, pair := p } := by
  obtain ⟨p, hp⟩ := requestTakeover_parts s
  unfold handOver
  dsimp only
  split
  · rw [releaseOwnN_of_frozen (by rw [hp]; exact h), hp]
    exact ⟨_, _, rfl⟩
  · exact ⟨_, _, hp⟩

theorem OnlyRegs.requestTakeover (s : State) : OnlyRegs [] s (requestTakeover s) := by
  obtain ⟨p, h⟩ := requestTakeover_parts s
  exact OnlyRegs.of_regs [] (by rw [h])

theorem OnlyRegs.releaseOwnN_of_frozen {s : State} (h : s.mode = stFrozen) : OnlyRegs [0x168000] s (releaseOwnN s) := by
  rw [Machine.releaseOwnN_of_frozen h]
  exact (((OnlyRegs.setF s F.PAR_HB_STATUS_OWN_DRIVE 0).trans (OnlyRegs.setF _ F.PAR_HB_STATUS_OWN_LINE _)).trans (OnlyRegs.updPair _ _)).mono (by simp)

theorem OnlyRegs.handOver {s : State} (h : s.mode = stFrozen) : OnlyRegs [0x168000] s (handOver s) := by
  have hreq := OnlyRegs.requestTakeover s
  unfold Machine.handOver
  dsimp only
  split
  · exact (hreq.trans (OnlyRegs.releaseOwnN_of_frozen ((hreq.getF (by decide)).trans h))).mono (by simp)
  · exact hreq.mono (by simp)

theorem releaseOwnN_drivesOwn {s : State} (h : s.mode = stFrozen) : (releaseOwnN s).drivesOwn = false := by
  rw [releaseOwnN_of_frozen h]
  have hdrive : (((s.setF F.PAR_HB_STATUS_OWN_DRIVE 0).setF F.PAR_HB_STATUS_OWN_LINE (bit s.pair.otherHolds)).getF F.PAR_HB_STATUS_OWN_DRIVE) = 0 := by
    simp (disch := decide) [State.getF_setF, State.getF_setF_disj]
  exact beq_eq_false_iff_ne.mpr (by rw [State.updPair_getF, hdrive]; decide)

/-- A unit with a pair root key lets go of OWN_N, and asks its partner to take over if it drove it (R464, R512). -/
theorem handOver_pair {s : State} (h : s.mode = stFrozen) (hp : s.fuses.pairRoot = true) :
    (handOver s).drivesOwn = false ∧ (s.drivesOwn = true → (handOver s).pair.request = true) := by
  have hmode : (requestTakeover s).mode = stFrozen := ((OnlyRegs.requestTakeover s).getF (by decide)).trans h
  have heq : handOver s = releaseOwnN (requestTakeover s) := by
    obtain ⟨p, hq⟩ := requestTakeover_parts s
    unfold handOver
    rw [hq]
    exact if_pos hp
  rw [heq]
  refine ⟨releaseOwnN_drivesOwn hmode, fun hd => ?_⟩
  rw [releaseOwnN_of_frozen hmode]
  exact requestTakeover_request hp hd

/-- Outputs and keys once a freeze has quieted them. -/
def freezeQuiet (s : State) : State := zeroiseAll (abandonTakeover (handOver (dropReqs s)))

section
variable {s : State}

theorem dropReqs_parts (s : State) : ∃ p, dropReqs s = { s with ports := p } := foldl_dropReq_parts ..

theorem zeroiseAll_parts (s : State) : ∃ r k, zeroiseAll s = { s with regs := r, key := k } := ⟨_, _, rfl⟩

theorem OnlyRegs.zeroiseAll (s : State) : OnlyRegs [0x130000] s (zeroiseAll s) :=
  ((OnlyRegs.setF (s.updKey _) F.KEY_STATUS_GENERAL_USED _).trans (OnlyRegs.setF _ F.KEY_STATUS_CACHE_USED _)).mono (by simp)

theorem dropReqs_mode (s : State) : (dropReqs s).mode = s.mode := by
  obtain ⟨p, h⟩ := dropReqs_parts s
  rw [h]
  rfl

theorem freezeQuiet_parts (h : s.mode = stFrozen) : ∃ r q p k, freezeQuiet s = { s with regs := r, ports := q, pair := p, key := k } := by
  obtain ⟨r, p, hr⟩ := handOver_parts ((dropReqs_mode s).trans h)
  obtain ⟨q, hq⟩ := dropReqs_parts s
  unfold freezeQuiet
  rw [hr, hq]
  exact ⟨_, _, _, _, rfl⟩

theorem OnlyRegs.dropReqs (s : State) : OnlyRegs [] s (dropReqs s) := by
  obtain ⟨p, h⟩ := dropReqs_parts s
  exact OnlyRegs.of_regs [] (by rw [h])

theorem OnlyRegs.freezeQuiet (h : s.mode = stFrozen) : OnlyRegs [0x168000, 0x130000] s (freezeQuiet s) :=
  ((((OnlyRegs.dropReqs s).trans (OnlyRegs.handOver ((dropReqs_mode s).trans h))).trans (OnlyRegs.updPair _ _)).trans (OnlyRegs.zeroiseAll _)).mono (by simp)

end

theorem slotOf_of_slots {s : State} (h : s.key.slots = []) (k : Nat) : s.slotOf k = KeySlot.empty := by
  rw [State.slotOf, h]
  rfl

theorem freezeQuiet_fields {s : State} (h : s.mode = stFrozen) :
    (∀ k, reqActive k (freezeQuiet s) = false) ∧ (freezeQuiet s).key.slots = [] ∧
      (s.fuses.pairRoot = true → (freezeQuiet s).drivesOwn = false ∧ (s.drivesOwn = true → (freezeQuiet s).pair.request = true)) := by
  have hmode : (dropReqs s).mode = stFrozen := (dropReqs_mode s).trans h
  obtain ⟨q, hq⟩ := dropReqs_parts s
  refine ⟨fun k => ?_, rfl, fun hp => ?_⟩
  · obtain ⟨r, p, hr⟩ := handOver_parts hmode
    exact (reqActive_congr (show (handOver (dropReqs s)).ports = (dropReqs s).ports by rw [hr]) k).trans (dropReqs_reqActive s k)
  · obtain ⟨hown, hreq⟩ := handOver_pair hmode (show (dropReqs s).fuses.pairRoot = true by rw [hq]; exact hp)
    have hdrive : (freezeQuiet s).drivesOwn = (handOver (dropReqs s)).drivesOwn :=
      congrArg (· == 1) (((OnlyRegs.updPair _ _).trans (OnlyRegs.zeroiseAll _)).getF (f := F.PAR_HB_STATUS_OWN_DRIVE) (by decide))
    refine ⟨hdrive.trans hown, fun hd => hreq ?_⟩
    rw [hq]
    exact hd

/-! The whole sequence. -/

theorem OnlyRegs.logEntry (k : NoticeKind) (status port arg : Nat) (s : State) : OnlyRegs [0x30040] s (logEntry k status port arg s) :=
  OnlyRegs.setF _ F.CUR_ALERT_STATUS_SAFETY 1

theorem freeze_of_not {s : State} (h : mayFreeze s = false) (source : Nat) (edgeOk : Bool) : freeze source edgeOk s = s := by
  simp [freeze, h]

/-- What a freeze in `s` for `source` leaves (R508 to R512). -/
def Frozen (source : Nat) (edgeOk : Bool) (s t : State) : Prop :=
  t.mode = stFrozen ∧ t.getF F.FRZ_STATUS_FROZEN = 1 ∧ t.getF F.FRZ_STATUS_EDGE_OK = bit (edgeOk && s.clk.running) ∧ t.getF F.FRZ_STATUS_SOURCE = source ∧
    t.getF F.FRZ_STATUS_CAUSE = s.getF F.SAF_STATUS_CAUSE ∧ t.get64 F.FRZ_SC_LO_VALUE F.FRZ_SC_HI_VALUE = s.clk.slot % 2 ^ 64 ∧
    t.get64 F.FRZ_STAMP_LO_VALUE F.FRZ_STAMP_HI_VALUE = s.clk.stamp % 2 ^ 40 ∧ t.clk.running = false ∧ t.pins.safeN = true ∧
    t.getF F.TOP_STATUS_SAFE = 1 ∧ t.getF F.PWR_STATUS_MODE = 0 ∧ (∀ k, reqActive k t = false) ∧ t.frz.delayEnd = none ∧
    (s.fuses.pairRoot = true → t.drivesOwn = false ∧ (s.drivesOwn = true → t.pair.request = true)) ∧
    (List.range 256).all (fun k => (t.slotOf k).full = false) = true ∧ t.saf.logWr = s.saf.logWr + 1 ∧ t.dram = s.dram

/-- The state in which a freeze has latched its record. -/
def freezeRecorded (source : Nat) (edgeOk : Bool) (s : State) : State := freezeTimes (freezeStatus source edgeOk s)

/-- The end of the sequence: outputs and keys quieted, and the entry of the safety log. -/
def freezeEnd (s : State) : State := logEntry nkFreeze scSafeHold 0 ((freezeQuiet s).reg 0x178000).toNat (freezeQuiet s)

theorem OnlyRegs.freezeEnd {s : State} (h : s.mode = stFrozen) : OnlyRegs [0x168000, 0x130000, 0x30040] s (freezeEnd s) :=
  ((OnlyRegs.freezeQuiet h).trans (OnlyRegs.logEntry _ _ _ _ _)).mono (by simp)

theorem freezeEnd_parts {s : State} (h : s.mode = stFrozen) :
    (freezeEnd s).clk = s.clk ∧ (freezeEnd s).pins = s.pins ∧ (freezeEnd s).frz = s.frz ∧ (freezeEnd s).dram = s.dram ∧
      (freezeEnd s).saf.logWr = s.saf.logWr + 1 := by
  obtain ⟨r, q, p, k, hq⟩ := freezeQuiet_parts h
  unfold freezeEnd
  rw [hq]
  exact ⟨rfl, rfl, rfl, rfl, rfl⟩

theorem freezeEnd_fields {s : State} (h : s.mode = stFrozen) :
    (∀ k, reqActive k (freezeEnd s) = false) ∧ (freezeEnd s).key.slots = [] ∧
      (s.fuses.pairRoot = true → (freezeEnd s).drivesOwn = false ∧ (s.drivesOwn = true → (freezeEnd s).pair.request = true)) := by
  obtain ⟨hreq, hslots, hpair⟩ := freezeQuiet_fields h
  have hdrive : (freezeEnd s).drivesOwn = (freezeQuiet s).drivesOwn :=
    congrArg (· == 1) ((OnlyRegs.logEntry _ _ _ _ _).getF (f := F.PAR_HB_STATUS_OWN_DRIVE) (by decide))
  exact ⟨fun k => (reqActive_congr rfl k).trans (hreq k), hslots, fun hp => hdrive ▸ hpair hp⟩

theorem freezeRecorded_parts (source : Nat) (edgeOk : Bool) (s : State) : ∃ r, freezeRecorded source edgeOk s = { s with regs := r } := ⟨_, rfl⟩

theorem OnlyRegs.freezeRecorded (source : Nat) (edgeOk : Bool) (s : State) :
    OnlyRegs [0x178000, 0x17800C, 0x178010, 0x178014, 0x178018] s (freezeRecorded source edgeOk s) :=
  (OnlyRegs.freezeStatus source edgeOk s).trans (OnlyRegs.freezeTimes _)

theorem freeze_eq {s : State} (h : mayFreeze s = true) (source : Nat) (edgeOk : Bool) :
    freeze source edgeOk s = freezeEnd (freezeHalt (freezeRecorded source edgeOk s)) := by
  have hmay : ¬ (!mayFreeze s) = true := by simp [h]
  exact if_neg hmay

/-- After the record, only registers outside it change. -/
theorem OnlyRegs.freezeClosed {s : State} : OnlyRegs [0x4, 0x10100, 0x168000, 0x130000, 0x30040] s (Machine.freezeEnd (Machine.freezeHalt s)) :=
  (OnlyRegs.freezeHalt s).trans (OnlyRegs.freezeEnd (freezeHalt_fields s).1)

theorem frozen_freeze {s : State} (h : mayFreeze s = true) (hstamp : s.clk.stamp < 2 ^ 40) {source : Nat} (hsource : source < 2 ^ 3) (edgeOk : Bool) :
    Frozen source edgeOk s (freeze source edgeOk s) := by
  rw [freeze_eq h]
  have hclosed := OnlyRegs.freezeClosed (s := freezeRecorded source edgeOk s)
  obtain ⟨hfrozen, hedge, hsrc, hcause⟩ := freezeStatus_fields source edgeOk s
  obtain ⟨hslot, hstamped⟩ := freezeTimes_get64 (freezeStatus source edgeOk s)
  obtain ⟨hmode, hsafe, hpower⟩ := freezeHalt_fields (freezeRecorded source edgeOk s)
  have hend := OnlyRegs.freezeEnd hmode
  obtain ⟨hclk, hpins, hfrz, hdram, hlog⟩ := freezeEnd_parts hmode
  obtain ⟨hreq, hslots, hpair⟩ := freezeEnd_fields hmode
  have hstatus (f : Field) (hf : f.addr = 0x178000) :
      (freezeEnd (freezeHalt (freezeRecorded source edgeOk s))).getF f = (freezeStatus source edgeOk s).getF f :=
    ((OnlyRegs.freezeTimes _).trans hclosed).getF (by rw [hf]; decide)
  have hdrive : (freezeHalt (freezeRecorded source edgeOk s)).drivesOwn = s.drivesOwn :=
    congrArg (· == 1) (((OnlyRegs.freezeRecorded source edgeOk s).trans (OnlyRegs.freezeHalt _)).getF (f := F.PAR_HB_STATUS_OWN_DRIVE) (by decide))
  refine ⟨(hend.getF (by decide)).trans hmode, (hstatus _ rfl).trans hfrozen, (hstatus _ rfl).trans hedge, ?_, (hstatus _ rfl).trans hcause,
    (hclosed.get64 (by decide) (by decide)).trans hslot, ?_, congrArg Clocks.running hclk, congrArg Pins.safeN hpins, (hend.getF (by decide)).trans hsafe,
    (hend.getF (by decide)).trans hpower, hreq, congrArg Frz.delayEnd hfrz, fun hp => hdrive ▸ hpair hp, ?_, hlog, hdram⟩
  · rw [hstatus _ rfl, hsrc, Nat.mod_eq_of_lt hsource]
  · rw [hclosed.get64 (by decide) (by decide)]
    refine hstamped.trans ?_
    change s.clk.stamp % 2 ^ 64 = s.clk.stamp % 2 ^ 40
    omega
  · simp [slotOf_of_slots hslots, KeySlot.empty]

theorem elapse_stamp_lt (s : State) (dt : Nat) : (s.elapse dt).clk.stamp < 2 ^ 40 := Nat.mod_lt _ (by decide)

end Sys2Proof.Machine

/-! SUPPORT. The commands that freeze, the vitrine read-out, and the release of the flash (R59, R507, R516 to R518). -/

namespace Sys2Proof.Machine

/-! What a step leaves where it neither freezes nor fetches. -/

/-- Registers, the FRZ state, the keys and DRAM as they were. -/
def FrzSame (s t : State) : Prop := OnlyRegs [] s t ∧ t.frz = s.frz ∧ t.key = s.key ∧ t.dram = s.dram

theorem frzSame_elapse (s : State) (dt : Nat) : FrzSame s (s.elapse dt) := ⟨OnlyRegs.of_regs [] rfl, rfl, rfl, rfl⟩

theorem mayFreeze_elapse (s : State) (dt : Nat) : mayFreeze (s.elapse dt) = mayFreeze s := rfl

/-! FREEZE_N, FRZ_CMD and the delay (R507). -/

theorem exec_freezeNAssert_same {s : State} (h : mayFreeze s = false) (dt : Nat) (edgeOk : Bool) :
    exec (.freezeNAssert dt edgeOk) s = .next (s.elapse dt) :=
  congrArg _ (freeze_of_not ((mayFreeze_elapse s dt).trans h) _ _)

/-- A write of FRZ_CMD reaches its block in every state (R35, R512). -/
theorem exec_frzCmd (dt : Nat) (m : Master) (w : Word) (edgeOk : Bool) (s : State) :
    exec (.frzCmd dt m w edgeOk) s = .next (writeFrzCmd m w edgeOk (s.elapse dt)) :=
  congrArg _ (gatedWrite_open (answers_frz (by decide) (by decide)) (frozenShut_frz (by decide) (by decide)))

/-- The source that a command's master shows (FRZ_STATUS.SOURCE). -/
def cmdSource : Master → Nat
  | .host => fzHost
  | .curator => fzCurator

theorem cmdSource_lt (m : Master) : cmdSource m < 2 ^ 3 := by
  cases m <;> decide

theorem frzCmd_takes_iff {m : Master} {w : Word} {s : State} :
    ((m == .curator || s.owns m) && bitsOf w 15 0 == 0x7185) = true ↔ (m = .curator ∨ s.owns m = true) ∧ bitsOf w 15 0 = 0x7185 := by
  simp only [Bool.and_eq_true, Bool.or_eq_true, beq_iff_eq]

theorem writeFrzCmd_takes {m : Master} {w : Word} {s : State} (h : (m = .curator ∨ s.owns m = true) ∧ bitsOf w 15 0 = 0x7185) (edgeOk : Bool) :
    writeFrzCmd m w edgeOk s = freeze (cmdSource m) edgeOk s := by
  refine (if_pos (frzCmd_takes_iff.mpr h)).trans ?_
  cases m <;> rfl

theorem writeFrzCmd_ignored {m : Master} {w : Word} {s : State} (h : ¬ ((m = .curator ∨ s.owns m = true) ∧ bitsOf w 15 0 = 0x7185)) (edgeOk : Bool) :
    writeFrzCmd m w edgeOk s = ignored m 0x178008 s :=
  if_neg (mt frzCmd_takes_iff.mp h)

theorem elapse_owns (s : State) (dt : Nat) (m : Master) : (s.elapse dt).owns m = s.owns m := by
  cases m <;> rfl

/-- A write that is ignored changes TOP_ACCESS_ERR alone (R16). -/
theorem ignored_keepsFrz (m : Master) (a : Nat) (s : State) :
    OnlyRegs [0x8] s (ignored m a s) ∧ (ignored m a s).frz = s.frz ∧ (ignored m a s).key = s.key ∧ (ignored m a s).dram = s.dram :=
  ⟨OnlyRegs.accessErr m errInvalid a s, accessErr_frz .., accessErr_key .., accessErr_dram ..⟩

/-- The delay of a masked cause has passed (R507). -/
theorem exec_freezeDelayExpire_due {dt x : Nat} {s : State} (h : s.frz.delayEnd = some x) (hx : x ≤ (s.elapse dt).clk.now) (edgeOk : Bool) :
    exec (.freezeDelayExpire dt edgeOk) s = .next (freeze fzCause edgeOk { s.elapse dt with frz := { s.frz with delayEnd := none } }) := by
  have hd : (s.elapse dt).frz.delayEnd = some x := h
  change execFreezeDelayExpire dt edgeOk s = _
  simp only [execFreezeDelayExpire, hd]
  exact if_pos hx

theorem exec_freezeDelayExpire_early {dt x : Nat} {s : State} (h : s.frz.delayEnd = some x) (hx : (s.elapse dt).clk.now < x) (edgeOk : Bool) :
    exec (.freezeDelayExpire dt edgeOk) s = .next (s.elapse dt) := by
  have hd : (s.elapse dt).frz.delayEnd = some x := h
  change execFreezeDelayExpire dt edgeOk s = _
  simp only [execFreezeDelayExpire, hd]
  exact if_neg (Nat.not_le.mpr hx)

theorem exec_freezeDelayExpire_idle {dt : Nat} {s : State} (h : s.frz.delayEnd = none) (edgeOk : Bool) :
    exec (.freezeDelayExpire dt edgeOk) s = .next (s.elapse dt) := by
  have hd : (s.elapse dt).frz.delayEnd = none := h
  change execFreezeDelayExpire dt edgeOk s = _
  simp only [execFreezeDelayExpire, hd]

/-! The selection of a chunk (R516). -/

theorem exec_frzVselWrite (dt : Nat) (m : Master) (w : Word) (s : State) : exec (.frzVselWrite dt m w) s = .next (writeFrzVsel m w (s.elapse dt)) :=
  congrArg _ (gatedWrite_open (answers_frz (by decide) (by decide)) (frozenShut_frz (by decide) (by decide)))

theorem OnlyRegs.startFetch (s : State) : OnlyRegs [0x178024] s (startFetch s) := OnlyRegs.setF s F.FRZ_VSTATUS_READY 0

theorem startFetch_ready (s : State) : (startFetch s).getF F.FRZ_VSTATUS_READY = 0 := State.getF_setF s 0 (by decide) (by decide)

/-- A read of FRZ_VDATA15 in FROZEN steps CHUNK and fetches (R516). -/
theorem exec_frzVdata15Read_frozen {s : State} (h : s.mode = stFrozen) (dt : Nat) (m : Master) :
    exec (.frzVdata15Read dt m) s = .next ((startFetch ((s.elapse dt).incF F.FRZ_VSEL_CHUNK)).emit (.value m.bit (s.reg 0x17807C))) := by
  have hr : readVdata15 (s.elapse dt) = (s.reg 0x17807C, startFetch ((s.elapse dt).incF F.FRZ_VSEL_CHUNK)) := if_pos h
  change execFrzVdata15Read dt m s = _
  simp [execFrzVdata15Read, hr]

theorem exec_frzVdata15Read_zero {s : State} (h : s.mode ≠ stFrozen) (dt : Nat) (m : Master) :
    exec (.frzVdata15Read dt m) s = .next ((s.elapse dt).emit (.value m.bit 0)) := by
  have hr : readVdata15 (s.elapse dt) = (0, s.elapse dt) := if_neg h
  change execFrzVdata15Read dt m s = _
  simp [execFrzVdata15Read, hr]

theorem OnlyRegs.emit (s : State) (o : Out) : OnlyRegs [] s (s.emit o) := OnlyRegs.of_regs [] rfl

theorem OnlyRegs.stepChunk (s : State) : OnlyRegs [0x178020, 0x178024] s (Machine.startFetch (s.incF F.FRZ_VSEL_CHUNK)) :=
  (OnlyRegs.setF s F.FRZ_VSEL_CHUNK _).trans (OnlyRegs.startFetch _)

theorem stepChunk_fields (s : State) :
    (startFetch (s.incF F.FRZ_VSEL_CHUNK)).getF F.FRZ_VSEL_CHUNK = (s.getF F.FRZ_VSEL_CHUNK + 1) % 2 ^ 28 ∧
      (startFetch (s.incF F.FRZ_VSEL_CHUNK)).getF F.FRZ_VSEL_REGION = s.getF F.FRZ_VSEL_REGION := by
  have hkept (f : Field) (hf : f.addr ≠ 0x178024) : (startFetch (s.incF F.FRZ_VSEL_CHUNK)).getF f = (s.incF F.FRZ_VSEL_CHUNK).getF f :=
    (OnlyRegs.startFetch _).getF (by simpa using hf)
  constructor
  · exact (hkept _ (by decide)).trans (State.getF_setF s _ (by decide) (by decide))
  · exact (hkept _ (by decide)).trans (State.getF_setF_disj s _ (by decide) (by decide) (by decide))

/-! The fetch (R515 to R518). -/

/-- The state in which the fetch of a chunk has ended, before its words are put in place. -/
def fetchReady (s : State) : State := { s.setF F.FRZ_VSTATUS_READY 1 with frz := { s.frz with fetching := false } }

theorem OnlyRegs.fetchReady (s : State) : OnlyRegs [0x178024] s (fetchReady s) := OnlyRegs.setF s F.FRZ_VSTATUS_READY 1

section
variable {s : State} {dt : Nat}

theorem reg_fetchReady {a : Nat} (h : a ≠ 0x178024) : (fetchReady (s.elapse dt)).reg a = s.reg a :=
  State.reg_setF_ne (f := F.FRZ_VSTATUS_READY) (s.elapse dt) 1 h

theorem usableBytes_fetchReady : usableBytes (fetchReady (s.elapse dt)) = usableBytes s :=
  congrArg (· * 2 ^ 20) (State.getF_of_reg (f := F.DRM_STATUS_USABLE_MIB) (reg_fetchReady (by decide)))

theorem regionSize_fetchReady (r : Nat) : regionSize r (fetchReady (s.elapse dt)) = regionSize r s := by
  unfold regionSize
  rw [usableBytes_fetchReady]
  rfl

theorem dirWord_fetchReady (i : Nat) : dirWord i (fetchReady (s.elapse dt)) = dirWord i s := by
  unfold dirWord
  simp (disch := decide) only [reg_fetchReady, regionSize_fetchReady]

theorem bytes_fetchReady (a n : Nat) : (fetchReady (s.elapse dt)).bytes a n = s.bytes a n := by
  induction n generalizing a with
  | zero => rfl
  | succ n ih => exact congrArg (s.byte a :: ·) (ih (a + 1))

/-- The words of a chunk depend neither on FRZ_VSTATUS nor on the time that passes. -/
theorem chunkWords_fetchReady (r c : Nat) : chunkWords r c (fetchReady (s.elapse dt)) = chunkWords r c s := by
  unfold chunkWords
  simp only [dirWord_fetchReady, bytes_fetchReady]
  rfl

end

theorem wordsOf_length (n : Nat) (l : List Byte) : (wordsOf n l).length = n := by
  induction n generalizing l with
  | zero => rfl
  | succ n ih => exact congrArg (· + 1) (ih _)

theorem cacheChunk_length (j i : Nat) (s : State) : (cacheChunk j i s).length = 16 := by
  unfold cacheChunk
  split
  · split <;> simp
  · simp

theorem chunkWords_length (r c : Nat) (s : State) : (chunkWords r c s).length = 16 := by
  unfold chunkWords
  split <;> simp [wordsOf_length, cacheChunk_length]

/-! The words in FRZ_VDATA. -/

theorem putChunk_parts (k : Nat) (l : List Word) (s : State) : ∃ r, putChunk k l s = { s with regs := r } := by
  induction l generalizing k s with
  | nil => exact ⟨_, rfl⟩
  | cons w l ih =>
    obtain ⟨r, h⟩ := ih (k + 1) (s.setReg (0x178040 + 4 * k) w)
    exact ⟨r, h⟩

theorem putChunk_reg_ne {k a : Nat} {l : List Word} {s : State} (h : ∀ i < l.length, a ≠ 0x178040 + 4 * (k + i)) : (putChunk k l s).reg a = s.reg a := by
  induction l generalizing k s with
  | nil => rfl
  | cons w l ih =>
    have hrest : ∀ i < l.length, a ≠ 0x178040 + 4 * (k + 1 + i) := fun i hi => by
      have := h (i + 1) (Nat.succ_lt_succ hi)
      omega
    exact (ih hrest).trans (State.reg_setReg_ne s w (h 0 (Nat.zero_lt_succ _)))

theorem putChunk_reg {k i : Nat} {l : List Word} {s : State} (h : i < l.length) : (putChunk k l s).reg (0x178040 + 4 * (k + i)) = l.getD i 0 := by
  induction l generalizing k i s with
  | nil => exact absurd h (Nat.not_lt_zero i)
  | cons w l ih =>
    cases i with
    | zero => exact (putChunk_reg_ne (k := k + 1) (l := l) (s := s.setReg (0x178040 + 4 * k) w) fun j _ => by omega).trans (State.reg_setReg_self ..)
    | succ i =>
      rw [show k + (i + 1) = k + 1 + i by omega]
      exact ih (Nat.lt_of_succ_lt_succ h)

/-- FRZ_VDATA0 to FRZ_VDATA15. -/
def vdataRegs : List Nat := (List.range 16).map fun k => 0x178040 + 4 * k

theorem OnlyRegs.putChunk {l : List Word} (h : l.length = 16) (s : State) : OnlyRegs vdataRegs s (putChunk 0 l s) := by
  intro a ha
  refine putChunk_reg_ne fun i hi he => ha ?_
  rw [he, Nat.zero_add]
  exact List.mem_map_of_mem (List.mem_range.mpr (h ▸ hi))

theorem putChunk_vdata {l : List Word} {k : Nat} (h : l.length = 16) (hk : k < 16) (s : State) : (putChunk 0 l s).reg (0x178040 + 4 * k) = l.getD k 0 := by
  have := putChunk_reg (k := 0) (s := s) (h ▸ hk : k < l.length)
  rwa [Nat.zero_add] at this

theorem putChunk_getF {l : List Word} (h : l.length = 16) (s : State) {f : Field} (hf : f.addr ∉ vdataRegs) : (putChunk 0 l s).getF f = s.getF f :=
  (OnlyRegs.putChunk h s).getF hf

/-- The count of uncorrectable chunks, one further where this one is (FRZ_VSTATUS.UE_CNT). -/
def countUe (ue : Bool) (s : State) : State := if ue then s.satF F.FRZ_VSTATUS_UE_CNT 1 else s

theorem OnlyRegs.countUe (ue : Bool) (s : State) : OnlyRegs [0x178024] s (countUe ue s) := by
  cases ue
  · exact OnlyRegs.of_regs _ rfl
  · exact OnlyRegs.setF s F.FRZ_VSTATUS_UE_CNT _

theorem countUe_fields (ue : Bool) (s : State) :
    (countUe ue s).getF F.FRZ_VSTATUS_UE_CNT = min (s.getF F.FRZ_VSTATUS_UE_CNT + bit ue) 65535 ∧
      (countUe ue s).getF F.FRZ_VSTATUS_READY = s.getF F.FRZ_VSTATUS_READY ∧ (countUe ue s).getF F.FRZ_VSTATUS_UE = s.getF F.FRZ_VSTATUS_UE := by
  have hlt : s.getF F.FRZ_VSTATUS_UE_CNT < 65536 := Nat.mod_lt _ (by decide)
  cases ue
  · refine ⟨?_, rfl, rfl⟩
    simp only [countUe, bit, if_neg Bool.false_ne_true]
    omega
  · refine ⟨?_, State.getF_setF_disj s _ (by decide) (by decide) (by decide), State.getF_setF_disj s _ (by decide) (by decide) (by decide)⟩
    refine (State.getF_setF (f := F.FRZ_VSTATUS_UE_CNT) s _ (by decide) (by decide)).trans ?_
    simp only [bit, if_pos]
    omega

/-- A chunk of its region read out: its words, UE, and the count (R515, R516). -/
def readChunk (r c : Nat) (s : State) : State := countUe (chunkUe r c s) (putChunk 0 (chunkWords r c s) (s.setF F.FRZ_VSTATUS_UE (bit (chunkUe r c s))))

/-- A chunk beyond its region: zeros and END (R516). -/
def readZeros (s : State) : State := putChunk 0 (List.replicate 16 0) ((s.setF F.FRZ_VSTATUS_UE 0).setF F.FRZ_VSTATUS_END 1)

theorem fetchDone_eq (s : State) : fetchDone s =
    if s.getF F.FRZ_VSEL_CHUNK < regionSize (s.getF F.FRZ_VSEL_REGION) (fetchReady s) then
      readChunk (s.getF F.FRZ_VSEL_REGION) (s.getF F.FRZ_VSEL_CHUNK) (fetchReady s)
    else readZeros (fetchReady s) := rfl

theorem OnlyRegs.readChunk (r c : Nat) (s : State) : OnlyRegs (0x178024 :: vdataRegs) s (readChunk r c s) :=
  (((OnlyRegs.setF s F.FRZ_VSTATUS_UE _).trans (OnlyRegs.putChunk (chunkWords_length r c s) _)).trans (OnlyRegs.countUe _ _)).mono (by simp)

theorem OnlyRegs.readZeros (s : State) : OnlyRegs (0x178024 :: vdataRegs) s (readZeros s) :=
  (((OnlyRegs.setF s F.FRZ_VSTATUS_UE _).trans (OnlyRegs.setF _ F.FRZ_VSTATUS_END _)).trans (OnlyRegs.putChunk List.length_replicate _)).mono (by simp)

theorem readChunk_parts (r c : Nat) (s : State) : ∃ g, readChunk r c s = { s with regs := g } := by
  obtain ⟨g, h⟩ := putChunk_parts 0 (chunkWords r c s) (s.setF F.FRZ_VSTATUS_UE (bit (chunkUe r c s)))
  unfold readChunk countUe
  rw [h]
  split <;> exact ⟨_, rfl⟩

theorem readZeros_parts (s : State) : ∃ g, readZeros s = { s with regs := g } := by
  obtain ⟨g, h⟩ := putChunk_parts 0 (List.replicate 16 0) ((s.setF F.FRZ_VSTATUS_UE 0).setF F.FRZ_VSTATUS_END 1)
  exact ⟨g, h⟩

theorem readChunk_vdata {k : Nat} (r c : Nat) (s : State) (hk : k < 16) : (readChunk r c s).reg (0x178040 + 4 * k) = (chunkWords r c s).getD k 0 :=
  (OnlyRegs.countUe _ _ _ (by simp only [List.mem_singleton]; omega)).trans (putChunk_vdata (chunkWords_length r c s) hk _)

theorem readZeros_vdata {k : Nat} (s : State) (hk : k < 16) : (readZeros s).reg (0x178040 + 4 * k) = 0 := by
  rw [readZeros, putChunk_vdata List.length_replicate hk]
  exact List.getD_replicate _ hk

theorem readChunk_fields (r c : Nat) (s : State) :
    (readChunk r c s).getF F.FRZ_VSTATUS_READY = s.getF F.FRZ_VSTATUS_READY ∧ (readChunk r c s).getF F.FRZ_VSTATUS_UE = bit (chunkUe r c s) ∧
      (readChunk r c s).getF F.FRZ_VSTATUS_UE_CNT = min (s.getF F.FRZ_VSTATUS_UE_CNT + bit (chunkUe r c s)) 65535 := by
  obtain ⟨hcnt, hready, hue⟩ := countUe_fields (chunkUe r c s) (putChunk 0 (chunkWords r c s) (s.setF F.FRZ_VSTATUS_UE (bit (chunkUe r c s))))
  have hput {f : Field} (hf : f.addr = 0x178024) := putChunk_getF (f := f) (chunkWords_length r c s)
    (s.setF F.FRZ_VSTATUS_UE (bit (chunkUe r c s))) (by rw [hf]; decide)
  have hbit : bit (chunkUe r c s) % 2 = bit (chunkUe r c s) := by
    cases chunkUe r c s <;> rfl
  rw [hput rfl] at hcnt hready hue
  unfold readChunk
  rw [hcnt, hready, hue]
  simp (disch := decide) [State.getF_setF, State.getF_setF_disj, hbit]

theorem readZeros_fields (s : State) :
    (readZeros s).getF F.FRZ_VSTATUS_READY = s.getF F.FRZ_VSTATUS_READY ∧ (readZeros s).getF F.FRZ_VSTATUS_END = 1 := by
  have hput {f : Field} (hf : f.addr = 0x178024) := putChunk_getF (f := f) (List.length_replicate (a := (0 : Word)))
    ((s.setF F.FRZ_VSTATUS_UE 0).setF F.FRZ_VSTATUS_END 1) (by rw [hf]; decide)
  unfold readZeros
  rw [hput rfl, hput rfl]
  simp (disch := decide) [State.getF_setF, State.getF_setF_disj]

/-! The bytes of DRAM in the words of region 6. -/

theorem ofLe_testByte (l : List Byte) (i : Nat) : ofLe l / 2 ^ (8 * i) % 256 = (l.getD i 0).toNat := by
  induction l generalizing i with
  | nil => simp [ofLe]
  | cons b l ih =>
    have hb : b.toNat < 256 := b.isLt
    cases i with
    | zero =>
      simp only [ofLe, Nat.mul_zero, Nat.pow_zero, Nat.div_one, List.getD_cons_zero]
      omega
    | succ i =>
      rw [List.getD_cons_succ, ← ih i, show 8 * (i + 1) = 8 + 8 * i by omega, Nat.pow_add, ← Nat.div_div_eq_div_mul, ofLe]
      congr 2
      omega

theorem ofLe_lt (l : List Byte) : ofLe l < 2 ^ (8 * l.length) := by
  induction l with
  | nil => simp [ofLe]
  | cons b l ih =>
    have hb : b.toNat < 256 := b.isLt
    rw [ofLe, List.length_cons, show 8 * (l.length + 1) = 8 * l.length + 8 by omega, Nat.pow_add]
    omega

theorem getD_wordsOf (n k : Nat) (l : List Byte) (h : k < n) : (wordsOf n l).getD k 0 = BitVec.ofNat 32 (ofLe ((l.drop (4 * k)).take 4)) := by
  induction n generalizing k l with
  | zero => exact absurd h (Nat.not_lt_zero k)
  | succ n ih =>
    cases k with
    | zero => rfl
    | succ k =>
      rw [wordsOf, List.getD_cons_succ, ih k _ (Nat.lt_of_succ_lt_succ h), List.drop_drop, show 4 + 4 * k = 4 * (k + 1) by omega]

theorem getD_bytes (s : State) (a n k : Nat) (h : k < n) : (s.bytes a n).getD k 0 = s.byte (a + k) := by
  induction n generalizing a k with
  | zero => exact absurd h (Nat.not_lt_zero k)
  | succ n ih =>
    cases k with
    | zero => rfl
    | succ k =>
      rw [State.bytes, List.getD_cons_succ, ih (a + 1) k (Nat.lt_of_succ_lt_succ h), show a + 1 + k = a + (k + 1) by omega]

/-- Byte `k` of 64 bytes stands in word `k / 4` (R8). -/
theorem wordsOf_byte (l : List Byte) {k : Nat} (h : k < 64) :
    bitsOf ((wordsOf 16 l).getD (k / 4) 0) (8 * (k % 4) + 7) (8 * (k % 4)) = (l.getD k 0).toNat := by
  have hword : ofLe ((l.drop (4 * (k / 4))).take 4) < 2 ^ 32 :=
    Nat.lt_of_lt_of_le (ofLe_lt _) (Nat.pow_le_pow_right (by decide) (by simp only [List.length_take]; omega))
  have hbyte : ((l.drop (4 * (k / 4))).take 4).getD (k % 4) 0 = l.getD k 0 := by
    simp only [List.getD_eq_getElem?_getD, List.getElem?_take, List.getElem?_drop, Nat.mod_lt k (by decide : 4 > 0), if_pos, Nat.div_add_mod]
  rw [getD_wordsOf 16 (k / 4) l (by omega), bitsOf, BitVec.toNat_ofNat, Nat.mod_eq_of_lt hword, ← hbyte, ← ofLe_testByte,
    Nat.add_assoc, Nat.add_sub_cancel_left, show 2 ^ (7 + 1) = 256 from rfl]

/-! The end of a fetch as the statement reads it. -/

theorem exec_chunkFetchDone {s : State} (h : s.frz.fetching = true) (hm : s.mode = stFrozen) (dt : Nat) :
    exec (.chunkFetchDone dt) s = .next (fetchDone (s.elapse dt)) := by
  have hgo : ((s.elapse dt).frz.fetching && (s.elapse dt).mode == stFrozen) = true := by simp [h, hm]
  exact congrArg _ (if_pos hgo)

theorem exec_chunkFetchDone_idle {s : State} (h : s.frz.fetching = false ∨ s.mode ≠ stFrozen) (dt : Nat) :
    exec (.chunkFetchDone dt) s = .next (s.elapse dt) := by
  have hgo : ¬ ((s.elapse dt).frz.fetching && (s.elapse dt).mode == stFrozen) = true := by
    simpa [Classical.or_iff_not_imp_left] using h
  exact congrArg _ (if_neg hgo)

section
variable {s : State} {dt : Nat}

theorem fetchDone_inside (h : s.getF F.FRZ_VSEL_CHUNK < regionSize (s.getF F.FRZ_VSEL_REGION) s) :
    fetchDone (s.elapse dt) = readChunk (s.getF F.FRZ_VSEL_REGION) (s.getF F.FRZ_VSEL_CHUNK) (fetchReady (s.elapse dt)) := by
  rw [fetchDone_eq, regionSize_fetchReady]
  exact if_pos h

theorem fetchDone_beyond (h : regionSize (s.getF F.FRZ_VSEL_REGION) s ≤ s.getF F.FRZ_VSEL_CHUNK) :
    fetchDone (s.elapse dt) = readZeros (fetchReady (s.elapse dt)) := by
  rw [fetchDone_eq, regionSize_fetchReady]
  exact if_neg (Nat.not_lt.mpr h)

theorem fetchReady_ready (s : State) : (fetchReady s).getF F.FRZ_VSTATUS_READY = 1 := State.getF_setF s 1 (by decide) (by decide)

theorem fetchReady_ueCnt (s : State) : (fetchReady s).getF F.FRZ_VSTATUS_UE_CNT = s.getF F.FRZ_VSTATUS_UE_CNT :=
  State.getF_setF_disj s 1 (by decide) (by decide) (by decide)

/-- READY, the end of the fetch, and the frame, in and beyond the region. -/
theorem fetchDone_frame (s : State) (dt : Nat) :
    (fetchDone (s.elapse dt)).getF F.FRZ_VSTATUS_READY = 1 ∧ (fetchDone (s.elapse dt)).frz.fetching = false ∧ (fetchDone (s.elapse dt)).dram = s.dram ∧
      OnlyRegs (0x178024 :: vdataRegs) s (fetchDone (s.elapse dt)) := by
  have hready := OnlyRegs.fetchReady (s.elapse dt)
  rcases Nat.lt_or_ge (s.getF F.FRZ_VSEL_CHUNK) (regionSize (s.getF F.FRZ_VSEL_REGION) s) with h | h
  · rw [fetchDone_inside h]
    obtain ⟨g, hg⟩ := readChunk_parts (s.getF F.FRZ_VSEL_REGION) (s.getF F.FRZ_VSEL_CHUNK) (fetchReady (s.elapse dt))
    exact ⟨(readChunk_fields ..).1.trans (fetchReady_ready _), by rw [hg]; rfl, by rw [hg]; rfl,
      (hready.trans (OnlyRegs.readChunk _ _ _)).mono (by simp)⟩
  · rw [fetchDone_beyond h]
    obtain ⟨g, hg⟩ := readZeros_parts (fetchReady (s.elapse dt))
    exact ⟨(readZeros_fields _).1.trans (fetchReady_ready _), by rw [hg]; rfl, by rw [hg]; rfl, (hready.trans (OnlyRegs.readZeros _)).mono (by simp)⟩

theorem fetchDone_vdata {k : Nat} (h : s.getF F.FRZ_VSEL_CHUNK < regionSize (s.getF F.FRZ_VSEL_REGION) s) (hk : k < 16) :
    (fetchDone (s.elapse dt)).reg (0x178040 + 4 * k) = (chunkWords (s.getF F.FRZ_VSEL_REGION) (s.getF F.FRZ_VSEL_CHUNK) s).getD k 0 := by
  rw [fetchDone_inside h, readChunk_vdata _ _ _ hk, chunkWords_fetchReady]

theorem fetchDone_ue (h : s.getF F.FRZ_VSEL_CHUNK < regionSize (s.getF F.FRZ_VSEL_REGION) s) :
    (fetchDone (s.elapse dt)).getF F.FRZ_VSTATUS_UE = bit (chunkUe (s.getF F.FRZ_VSEL_REGION) (s.getF F.FRZ_VSEL_CHUNK) s) ∧
      (fetchDone (s.elapse dt)).getF F.FRZ_VSTATUS_UE_CNT =
        min (s.getF F.FRZ_VSTATUS_UE_CNT + bit (chunkUe (s.getF F.FRZ_VSEL_REGION) (s.getF F.FRZ_VSEL_CHUNK) s)) 65535 := by
  rw [fetchDone_inside h]
  obtain ⟨-, hue, hcnt⟩ := readChunk_fields (s.getF F.FRZ_VSEL_REGION) (s.getF F.FRZ_VSEL_CHUNK) (fetchReady (s.elapse dt))
  rw [fetchReady_ueCnt] at hcnt
  exact ⟨hue, hcnt⟩

theorem fetchDone_zeros (h : regionSize (s.getF F.FRZ_VSEL_REGION) s ≤ s.getF F.FRZ_VSEL_CHUNK) :
    (∀ k < 16, (fetchDone (s.elapse dt)).reg (0x178040 + 4 * k) = 0) ∧ (fetchDone (s.elapse dt)).getF F.FRZ_VSTATUS_END = 1 := by
  rw [fetchDone_beyond h]
  exact ⟨fun k hk => readZeros_vdata _ hk, (readZeros_fields _).2⟩

/-- The first words of the directory (R518). -/
theorem fetchDone_directory (hr : s.getF F.FRZ_VSEL_REGION = 0) (hc : s.getF F.FRZ_VSEL_CHUNK = 0) :
    (fetchDone (s.elapse dt)).reg 0x178040 = 0x52544956 ∧ (fetchDone (s.elapse dt)).reg 0x178044 = 1 ∧
      (fetchDone (s.elapse dt)).reg 0x178048 = s.reg 0 ∧ (fetchDone (s.elapse dt)).reg 0x17804C = s.reg 0x178000 := by
  have hin : s.getF F.FRZ_VSEL_CHUNK < regionSize (s.getF F.FRZ_VSEL_REGION) s := by
    rw [hr, hc]
    exact Nat.zero_lt_succ 3
  have hword {k : Nat} (hk : k < 16) : (fetchDone (s.elapse dt)).reg (0x178040 + 4 * k) = (chunkWords 0 0 s).getD k 0 := by
    have := fetchDone_vdata (dt := dt) hin hk
    rwa [hr, hc] at this
  exact ⟨hword (k := 0) (by decide), hword (k := 1) (by decide), hword (k := 2) (by decide), hword (k := 3) (by decide)⟩

/-- Region 6 is DRAM, byte for byte (R517). -/
theorem fetchDone_dram (hr : s.getF F.FRZ_VSEL_REGION = 6) (hc : s.getF F.FRZ_VSEL_CHUNK < regionSize 6 s) {k : Nat} (hk : k < 64) :
    bitsOf ((fetchDone (s.elapse dt)).reg (0x178040 + k / 4 * 4)) (8 * (k % 4) + 7) (8 * (k % 4)) = (s.byte (64 * s.getF F.FRZ_VSEL_CHUNK + k)).toNat := by
  have hin : s.getF F.FRZ_VSEL_CHUNK < regionSize (s.getF F.FRZ_VSEL_REGION) s := by rwa [hr]
  have hword := fetchDone_vdata (dt := dt) hin (k := k / 4) (by omega)
  rw [hr] at hword
  rw [Nat.mul_comm (k / 4) 4, hword, ← getD_bytes s (64 * s.getF F.FRZ_VSEL_CHUNK) 64 k hk]
  exact wordsOf_byte _ hk

end

/-! The release of the flash (R59). -/

theorem exec_cfgNvmRelease {s : State} (hcore : s.clk.core = true) (hm : s.mode ≠ stFrozen) (dt : Nat) (m : Master) (w : Word) :
    exec (.cfgNvmRelease dt m w) s = .next (writeNvmCtrl m w (s.elapse dt)) :=
  congrArg _ (gatedWrite_open (answers_low (s := s.elapse dt) (a := 0x20014) hcore (by decide)) (frozenShut_of_ne (s := s.elapse dt) _ hm))

theorem mayCfg_elapse (nvm : Bool) (m : Master) (s : State) (dt : Nat) : mayCfg nvm m (s.elapse dt) = mayCfg nvm m s := by
  simp only [mayCfg, State.elapse_mode, elapse_owns]

theorem getLsbD_zero_iff (w : Word) : w.getLsbD 0 = true ↔ bitsOf w 0 0 = 1 := by
  rw [← BitVec.testBit_toNat, Nat.testBit_zero, decide_eq_true_eq, bitsOf]
  simp

/-- A master that may write CFG_NVM_CTRL releases the flash or takes it, with the MODE that discovery found (R59). -/
theorem writeNvmCtrl_takes {m : Master} {s : State} (h : mayCfg true m s = true) (w : Word) :
    (writeNvmCtrl m w s).getF F.CFG_NVM_CTRL_RELEASE = bitsOf w 0 0 ∧
      (writeNvmCtrl m w s).getF F.CFG_NVM_STATUS_MODE = (if w.getLsbD 0 = true then 3 else nvmMode s) ∧
      OnlyRegs [0x20010, 0x20014] s (writeNvmCtrl m w s) ∧ (writeNvmCtrl m w s).dram = s.dram := by
  have heq : writeNvmCtrl m w s =
      (s.setF F.CFG_NVM_CTRL_RELEASE (bitsOf w 0 0)).setF F.CFG_NVM_STATUS_MODE (if bitsOf w 0 0 = 1 then 3 else nvmMode s) := by
    simp [writeNvmCtrl, h]
  have hmode : (if bitsOf w 0 0 = 1 then 3 else nvmMode s) < 4 := by
    unfold nvmMode
    split_ifs <;> decide
  have hrelease : bitsOf w 0 0 % 2 = bitsOf w 0 0 := Nat.mod_mod ..
  simp only [getLsbD_zero_iff]
  rw [heq]
  refine ⟨(State.getF_setF_ne _ _ (by decide)).trans ((State.getF_setF s _ (by decide) (by decide)).trans hrelease),
    (State.getF_setF _ _ (by decide) (by decide)).trans (Nat.mod_eq_of_lt hmode), ?_, rfl⟩
  exact ((OnlyRegs.setF s F.CFG_NVM_CTRL_RELEASE _).trans (OnlyRegs.setF _ F.CFG_NVM_STATUS_MODE _)).mono (by simp)

theorem writeNvmCtrl_ignored {m : Master} {s : State} (h : mayCfg true m s = false) (w : Word) : writeNvmCtrl m w s = ignored m 0x20014 s := by
  simp [writeNvmCtrl, h]

/-! The statement's parts. -/

/-- FREEZE_N, FRZ_CMD and the delay freeze the device where it may, and leave it where it may not (R507). -/
theorem freezes (dt : Nat) (s : State) (edge : Bool) :
    (mayFreeze s = true → Completes (.freezeNAssert dt edge) s (Frozen 1 edge (s.elapse dt))) ∧
      (mayFreeze s = false → Completes (.freezeNAssert dt edge) s (FrzSame s)) := by
  refine ⟨fun h => ⟨_, rfl, frozen_freeze ((mayFreeze_elapse s dt).trans h) (elapse_stamp_lt s dt) (by decide) edge⟩, fun h => ?_⟩
  exact ⟨_, exec_freezeNAssert_same h dt edge, frzSame_elapse s dt⟩

theorem commandFreezes (dt : Nat) (s : State) (edge : Bool) (m : Master) (w : Word) :
    let takes : Prop := (m = .curator ∨ s.owns m = true) ∧ bitsOf w 15 0 = 0x7185
    (takes → mayFreeze s = true → Completes (.frzCmd dt m w edge) s (Frozen (cmdSource m) edge (s.elapse dt))) ∧
      (takes → mayFreeze s = false → Completes (.frzCmd dt m w edge) s (FrzSame s)) ∧
      (¬takes → Completes (.frzCmd dt m w edge) s fun t => OnlyRegs [0x8] s t ∧ t.frz = s.frz ∧ t.key = s.key ∧ t.dram = s.dram) := by
  have howns : ∀ h : (m = .curator ∨ s.owns m = true) ∧ bitsOf w 15 0 = 0x7185, (m = .curator ∨ (s.elapse dt).owns m = true) ∧ bitsOf w 15 0 = 0x7185 :=
    fun h => by rwa [elapse_owns]
  refine ⟨fun htakes hmay => ⟨_, exec_frzCmd dt m w edge s, ?_⟩, fun htakes hmay => ⟨_, exec_frzCmd dt m w edge s, ?_⟩, fun htakes => ⟨_, exec_frzCmd dt m w edge s, ?_⟩⟩
  · rw [writeFrzCmd_takes (howns htakes)]
    exact frozen_freeze ((mayFreeze_elapse s dt).trans hmay) (elapse_stamp_lt s dt) (cmdSource_lt m) edge
  · rw [writeFrzCmd_takes (howns htakes), freeze_of_not ((mayFreeze_elapse s dt).trans hmay)]
    exact frzSame_elapse s dt
  · rw [writeFrzCmd_ignored (by rwa [elapse_owns])]
    exact ignored_keepsFrz m 0x178008 (s.elapse dt)

theorem delayFreezes (dt : Nat) (s : State) (edge : Bool) {x : Nat} (hx : s.frz.delayEnd = some x) :
    (x ≤ (s.elapse dt).clk.now → mayFreeze s = true → Completes (.freezeDelayExpire dt edge) s (Frozen 2 edge (s.elapse dt))) ∧
      (x ≤ (s.elapse dt).clk.now → mayFreeze s = false → Completes (.freezeDelayExpire dt edge) s fun t => OnlyRegs [] s t ∧ t.frz.delayEnd = none ∧ t.mode = s.mode) ∧
      ((s.elapse dt).clk.now < x → Completes (.freezeDelayExpire dt edge) s (FrzSame s)) := by
  refine ⟨fun hdue hmay => ⟨_, exec_freezeDelayExpire_due hx hdue edge, ?_⟩, fun hdue hmay => ⟨_, exec_freezeDelayExpire_due hx hdue edge, ?_⟩,
    fun hearly => ⟨_, exec_freezeDelayExpire_early hx hearly edge, frzSame_elapse s dt⟩⟩
  · exact frozen_freeze (s := { s.elapse dt with frz := { s.frz with delayEnd := none } }) hmay (elapse_stamp_lt s dt) (by decide) edge
  · rw [freeze_of_not (s := { s.elapse dt with frz := { s.frz with delayEnd := none } }) hmay]
    exact ⟨OnlyRegs.of_regs [] rfl, rfl, rfl⟩

theorem chunkSelection (dt : Nat) (s : State) (m : Master) (w : Word) :
    (m = .curator → s.mode = stFrozen → Completes (.frzVselWrite dt m w) s fun t =>
        t.reg 0x178020 = w ∧ t.getF F.FRZ_VSTATUS_READY = 0 ∧ t.frz.fetching = true ∧ OnlyRegs [0x178020, 0x178024] s t ∧ t.dram = s.dram) ∧
      ((m = .host ∨ s.mode ≠ stFrozen) → Completes (.frzVselWrite dt m w) s fun t => OnlyRegs [0x8] s t ∧ t.frz = s.frz) := by
  refine ⟨fun hm hf => ⟨_, exec_frzVselWrite dt m w s, ?_⟩, fun hnot => ⟨_, exec_frzVselWrite dt m w s, ?_⟩⟩
  · have heq : writeFrzVsel m w (s.elapse dt) = startFetch ((s.elapse dt).setReg 0x178020 w) := if_pos ⟨hm, hf⟩
    rw [heq]
    exact ⟨(OnlyRegs.startFetch _ _ (by decide)).trans (State.reg_setReg_self ..), startFetch_ready _, rfl,
      (OnlyRegs.setReg (s.elapse dt) 0x178020 w).trans (OnlyRegs.startFetch _), rfl⟩
  · have hmay : ¬ (m = .curator ∧ (s.elapse dt).mode = stFrozen) := by
      rintro ⟨rfl, hf⟩
      exact hnot.elim (fun h => nomatch h) fun h => h hf
    have heq : writeFrzVsel m w (s.elapse dt) = ignored m 0x178020 (s.elapse dt) := if_neg hmay
    rw [heq]
    obtain ⟨hregs, hfrz, -, -⟩ := ignored_keepsFrz m 0x178020 (s.elapse dt)
    exact ⟨hregs, hfrz⟩

theorem lastWordRead (dt : Nat) (s : State) (m : Master) :
    (s.mode = stFrozen → Completes (.frzVdata15Read dt m) s fun t =>
        t.out.head? = some (.value m.bit (s.reg 0x17807C)) ∧ t.getF F.FRZ_VSEL_CHUNK = (s.getF F.FRZ_VSEL_CHUNK + 1) % 2 ^ 28 ∧
          t.getF F.FRZ_VSEL_REGION = s.getF F.FRZ_VSEL_REGION ∧ t.getF F.FRZ_VSTATUS_READY = 0 ∧ t.frz.fetching = true ∧ OnlyRegs [0x178020, 0x178024] s t) ∧
      (s.mode ≠ stFrozen → Completes (.frzVdata15Read dt m) s fun t => t.out.head? = some (.value m.bit 0) ∧ FrzSame s t) := by
  refine ⟨fun h => ⟨_, exec_frzVdata15Read_frozen h dt m, ?_⟩, fun h => ⟨_, exec_frzVdata15Read_zero h dt m, rfl, frzSame_elapse s dt⟩⟩
  have hemit := OnlyRegs.emit (startFetch ((s.elapse dt).incF F.FRZ_VSEL_CHUNK)) (.value m.bit (s.reg 0x17807C))
  obtain ⟨hchunk, hregion⟩ := stepChunk_fields (s.elapse dt)
  exact ⟨rfl, (hemit.getF (by decide)).trans hchunk, (hemit.getF (by decide)).trans hregion, (hemit.getF (by decide)).trans (startFetch_ready _), rfl,
    ((OnlyRegs.stepChunk (s.elapse dt)).trans hemit).mono (by simp)⟩

theorem flashRelease (dt : Nat) (s : State) (hcore : s.clk.core = true) (hfrozen : s.mode ≠ stFrozen) (m : Master) (w : Word) :
    (mayCfg true m s = true → Completes (.cfgNvmRelease dt m w) s fun t => t.getF F.CFG_NVM_CTRL_RELEASE = bitsOf w 0 0 ∧
        t.getF F.CFG_NVM_STATUS_MODE = (if w.getLsbD 0 = true then 3 else nvmMode s) ∧ OnlyRegs [0x20010, 0x20014] s t ∧ t.dram = s.dram) ∧
      (mayCfg true m s = false → Completes (.cfgNvmRelease dt m w) s fun t => OnlyRegs [0x8] s t ∧ t.dram = s.dram) := by
  refine ⟨fun h => ⟨_, exec_cfgNvmRelease hcore hfrozen dt m w, ?_⟩, fun h => ⟨_, exec_cfgNvmRelease hcore hfrozen dt m w, ?_⟩⟩
  · exact writeNvmCtrl_takes ((mayCfg_elapse true m s dt).trans h) w
  · rw [writeNvmCtrl_ignored ((mayCfg_elapse true m s dt).trans h)]
    obtain ⟨hregs, -, -, hdram⟩ := ignored_keepsFrz m 0x20014 (s.elapse dt)
    exact ⟨hregs, hdram⟩

/-- Settles O60: the freeze in its three ways, the vitrine's read-out, and the release of the flash, part by part. -/
theorem freezeVitrineAndNvmRelease : Obligations.FreezeVitrineAndNvmRelease := by
  intro dt s
  refine ⟨fun edge => ?_, chunkSelection dt s, lastWordRead dt s, fun h => ⟨_, exec_chunkFetchDone_idle h dt, frzSame_elapse s dt⟩, fun hfetch hmode => ?_,
    fun hcore _ hfrozen => flashRelease dt s hcore hfrozen⟩
  · obtain ⟨hpin, hpinNot⟩ := freezes dt s edge
    refine ⟨hpin, hpinNot, fun m w => ?_, fun x hx => delayFreezes dt s edge hx, fun h => ⟨_, exec_freezeDelayExpire_idle h edge, frzSame_elapse s dt⟩⟩
    cases m with
    | host => exact commandFreezes dt s edge .host w
    | curator => exact commandFreezes dt s edge .curator w
  · obtain ⟨hready, hdone, hdram, hregs⟩ := fetchDone_frame s dt
    refine ⟨_, exec_chunkFetchDone hfetch hmode dt, hready, hdone, hdram, hregs, fun hin => ?_, fun hout => fetchDone_zeros hout, fetchDone_directory,
      fun hr hin k hk => fetchDone_dram hr hin hk⟩
    obtain ⟨hue, hcnt⟩ := fetchDone_ue (dt := dt) hin
    exact ⟨fun k hk => fetchDone_vdata hin hk, hue, hcnt⟩

end Sys2Proof.Machine

/-! SUPPORT. Step 8 of start-up: the result of the transaction of tag 0 (R77, R126). -/

namespace Sys2Proof.Machine

/-! TXN_STATUS is no register of a failure of start-up, nor of the calibrations of step 9. -/

/-- The registers below those of the ports that a failure of start-up may change. -/
def failRegs : List Nat := [0x20000, 0x4, 0x10100, 0x30000] ++ noticeRegs

theorem not_mem_failRegs {a : Nat} (h : a ∉ failRegs) : a ≠ 0x20000 ∧ a ≠ 0x4 ∧ a ≠ 0x10100 ∧ a ≠ 0x30000 ∧ a ∉ noticeRegs := by
  simpa [failRegs, and_assoc] using h

theorem toStep_reg {a : Nat} (h : a ∉ failRegs) (n : Nat) (s : State) : (toStep n s).reg a = s.reg a :=
  State.reg_setF_ne (f := F.CFG_STATUS_STEP) s n (not_mem_failRegs h).1

theorem startFail_reg {a : Nat} (ha : a < 0x40000) (hn : a ∉ failRegs) (code result : Nat) (s : State) :
    (startFail code result s).reg a = s.reg a := by
  obtain ⟨hcfg, htop, hpwr, hown, hnotice⟩ := not_mem_failRegs hn
  have hcoded : OnlyRegs [0x20000, 0x20000] s (failCoded code result s) := (OnlyRegs.setF s F.CFG_STATUS_FAIL code).trans (OnlyRegs.setF _ F.CFG_STATUS_RESULT result)
  have hoff : LowKept (failCoded code result s) (portsOff (failCoded code result s)) := (LowKept.refl _).portsOff
  have hlast := ((OnlyRegs.assertSafe (portsOff (failCoded code result s))).trans (OnlyRegs.notify N.START_FAIL scSafeHold 0 code _)).trans (OnlyRegs.startupEnd _)
  calc (startFail code result s).reg a
      = (portsOff (failCoded code result s)).reg a := hlast a (by simp [htop, hpwr, hown, hnotice])
    _ = (failCoded code result s).reg a := hoff.reg a ha (by simp [htop, hnotice])
    _ = s.reg a := hcoded a (by simp [hcfg])

theorem endCals_reg {a : Nat} (ha : a < 0x40000) (hn : a ∉ failRegs) (s : State) : (endCals s).reg a = s.reg a := by
  unfold endCals
  dsimp only
  split
  · exact startFail_reg ha hn _ _ s
  · exact toStep_reg hn 10 s

theorem LowKept.startGroup (s : State) : LowKept s (startGroup s) := by
  unfold Machine.startGroup
  split
  · exact LowKept.refl s
  · exact (LowKept.refl s).foldl fun _ _ k => k.startCal

theorem startCals_reg {a : Nat} (ha : a < 0x40000) (hn : a ∉ failRegs) (s : State) : (startCals s).reg a = s.reg a := by
  have hstep := toStep_reg hn 9 s
  obtain ⟨-, htop, -, -, hnotice⟩ := not_mem_failRegs hn
  have hlow : a ∉ 0x4 :: noticeRegs := by simp [htop, hnotice]
  unfold startCals
  dsimp only
  split
  · exact (startFail_reg ha hn _ _ _).trans hstep
  · split
    · exact (endCals_reg ha hn _).trans hstep
    · exact ((LowKept.startGroup _).reg a ha hlow).trans hstep

theorem putBlobs_regs (h : Nat) (l : List (List Byte)) (s : State) : (putBlobs h l s).regs = s.regs := by
  induction l generalizing h s with
  | nil => rfl
  | cons b l ih =>
    rw [putBlobs, ih]
    split
    · exact State.regs_setBytes ..
    · rfl

theorem putAllBlobs_regs (l : List ImageSection) (s : State) : (putAllBlobs l s).regs = s.regs := by
  unfold putAllBlobs
  induction l generalizing s with
  | nil => rfl
  | cons x l ih =>
    rw [List.foldl_cons, ih]
    split
    · exact putBlobs_regs ..
    · rfl

/-! The transaction of tag 0. -/

/-- TXN_STATUS shows the end of the transaction of tag 0. -/
def TagZeroEnded (result : Nat) (t : State) : Prop := t.getF F.TXN_STATUS_LAST_TAG = 0 ∧ t.getF F.TXN_STATUS_LAST_RESULT = result

theorem TagZeroEnded.of_reg {result : Nat} {s t : State} (h : TagZeroEnded result s) (hr : t.reg 0x2080C = s.reg 0x2080C) : TagZeroEnded result t :=
  ⟨(State.getF_of_reg hr).trans h.1, (State.getF_of_reg hr).trans h.2⟩

theorem tagZeroEnded_closeTag0 {result : Nat} (h : result < 256) (s : State) : TagZeroEnded result (closeTag0 result s) := by
  have hkept (f : Field) : (closeTag0 result s).getF f = ((s.setF F.TXN_STATUS_LAST_TAG 0).setF F.TXN_STATUS_LAST_RESULT result).getF f := rfl
  rw [TagZeroEnded, hkept, hkept]
  simp (disch := decide) [State.getF_setF, State.getF_setF_disj, Nat.mod_eq_of_lt h]

theorem tagZeroEnded_applyFail (code pos : Nat) (s : State) : TagZeroEnded scDenied (applyFail code pos s) :=
  (tagZeroEnded_closeTag0 (by decide) _).of_reg (startFail_reg (by decide) (by decide) ..)

theorem tagZeroEnded_applied (l : List ImageSection) (s : State) : TagZeroEnded scOk (startCals (putAllBlobs l (closeTag0 scOk s))) := by
  have hblobs : (putAllBlobs l (closeTag0 scOk s)).reg 0x2080C = (closeTag0 scOk s).reg 0x2080C :=
    congrArg (Sparse.get resetWord · 0x2080C) (putAllBlobs_regs l _)
  exact (tagZeroEnded_closeTag0 (by decide) s).of_reg ((startCals_reg (by decide) (by decide) _).trans hblobs)

/-- Step 8 ends the transaction with OK where the sections apply, the store lies in the flash and the commit's checks hold (R77, R126). -/
def stepEightResult (v : CopyView) (s : State) : Nat :=
  match applySections 0 v.sections s with
  | .ok u => if storeOutside v s = false ∧ commitOk u (applyShadows u) = true then scOk else scDenied
  | .error _ => scDenied

theorem tryCommit_of_ok {boot : Bool} {s : State} (h : commitOk s (applyShadows s) = true) :
    tryCommit boot s = some (commitEffects boot s (applyShadows s)) := if_pos h

theorem tryCommit_of_not {boot : Bool} {s : State} (h : commitOk s (applyShadows s) = false) : tryCommit boot s = none :=
  if_neg (Bool.not_eq_true _ ▸ h)

theorem tagZeroEnded_applyImage (v : CopyView) (s : State) : TagZeroEnded (stepEightResult v s) (applyImage v s) := by
  unfold stepEightResult applyImage
  cases applySections 0 v.sections s with
  | error p => exact tagZeroEnded_applyFail ..
  | ok u =>
    dsimp only
    cases storeOutside v s with
    | true => exact tagZeroEnded_applyFail ..
    | false =>
      rw [if_neg Bool.false_ne_true]
      cases hc : commitOk u (applyShadows u) with
      | true =>
        rw [if_pos ⟨rfl, rfl⟩, tryCommit_of_ok hc]
        exact tagZeroEnded_applied ..
      | false =>
        rw [if_neg fun h => Bool.false_ne_true h.2, tryCommit_of_not hc]
        exact tagZeroEnded_applyFail ..

theorem exec_imageApply {s : State} {v : CopyView} (hv : s.boot.image = some v) (h : inStep 8 s = true) (dt : Nat) :
    exec (.imageApply dt) s = .next (applyImage v (s.elapse dt)) := by
  have hv' : (s.elapse dt).boot.image = some v := hv
  have hgo : inStep 8 (s.elapse dt) = true := h
  change execImageApply dt s = _
  simp only [execImageApply, hv']
  exact if_pos hgo

end Sys2Proof.Machine

/-! SUPPORT. Step 7 of start-up: the flash found, the verdicts on its copies, and the selection (R57, R68 to R70). -/

namespace Sys2Proof.Machine

theorem verdict_lt (c : Option CopyView) (s : State) : verdict c s < 16 := by
  cases c with
  | none => exact (by decide : 2 < 16)
  | some v =>
    unfold verdict
    dsimp only
    split_ifs <;> decide

section
variable {s t : State}

/-- A verdict rests on the revision and the fuses alone (R68). -/
theorem verdict_congr (hr : t.getF F.TOP_ID_REV = s.getF F.TOP_ID_REV) (hf : t.fuses = s.fuses) (c : Option CopyView) : verdict c t = verdict c s := by
  unfold verdict refHash
  rw [hr, hf]

theorem selectCopy_congr (hr : t.getF F.TOP_ID_REV = s.getF F.TOP_ID_REV) (hf : t.fuses = s.fuses) (a b : Option CopyView) : selectCopy a b t = selectCopy a b s := by
  simp only [selectCopy, verdict_congr hr hf]

theorem eq_some_of_ite {α : Type} {c : Prop} [Decidable c] {o : Option α} {x : α} (h : (if c then o else none) = some x) : o = some x := by
  split at h
  · exact h
  · exact absurd h (Option.some_ne_none x).symm

/-- The code of the selected copy names it (R69). -/
theorem selectCopy_ok {a b : Option CopyView} {sel : Nat} {v : CopyView} (h : selectCopy a b s = .ok (sel, v)) : sel = 1 ∧ a = some v ∨ sel = 2 ∧ b = some v := by
  unfold selectCopy at h
  split at h
  · next hx _ =>
    cases h
    exact .inl ⟨rfl, eq_some_of_ite hx⟩
  · next _ hy =>
    cases h
    exact .inr ⟨rfl, eq_some_of_ite hy⟩
  · next hx hy =>
    split_ifs at h
    · cases h
      exact .inl ⟨rfl, eq_some_of_ite hx⟩
    · cases h
      exact .inr ⟨rfl, eq_some_of_ite hy⟩
    · cases h
      exact .inl ⟨rfl, eq_some_of_ite hx⟩
  · exact nomatch h

end

/-! The three parts of step 7. -/

/-- The flash as the SFDP read shows it (R57). -/
def flashFound (log : Nat) (octal : Bool) (s : State) : State :=
  ((s.setF F.CFG_NVM_STATUS_SIZE_LOG2 (26 + log)).setF F.CFG_NVM_STATUS_MODE (if octal then 2 else 1)).setF F.CFG_STATUS_NVM_SLOW (bit !octal)

/-- Both copies with their verdicts (R68). -/
def copiesShown (a b : Option CopyView) (s : State) : State :=
  putCopy F.CFG_COPY_B_SEC_VER F.CFG_COPY_B_VERDICT b (putCopy F.CFG_COPY_A_SEC_VER F.CFG_COPY_A_VERDICT a s)

/-- The selected copy shown with its digest, and step 8 begun (R70). -/
def copySelected (sel : Nat) (v : CopyView) (s : State) : State :=
  toStep 8 (putDigest v.digest ((s.setF F.CFG_STATUS_SEL sel).updBoot fun x => { x with image := some v }))

theorem OnlyRegs.flashFound (log : Nat) (octal : Bool) (s : State) : OnlyRegs [0x20010, 0x20000] s (flashFound log octal s) :=
  (((OnlyRegs.setF s F.CFG_NVM_STATUS_SIZE_LOG2 _).trans (OnlyRegs.setF _ F.CFG_NVM_STATUS_MODE _)).trans (OnlyRegs.setF _ F.CFG_STATUS_NVM_SLOW _)).mono (by simp)

theorem flashFound_fields {log : Nat} (h : log < 4) (octal : Bool) (s : State) :
    (flashFound log octal s).getF F.CFG_NVM_STATUS_SIZE_LOG2 = 26 + log ∧ (flashFound log octal s).getF F.CFG_NVM_STATUS_MODE = if octal then 2 else 1 := by
  have hsize : (26 + log) % 256 = 26 + log := Nat.mod_eq_of_lt (by omega)
  cases octal <;> simp (disch := decide) [flashFound, State.getF_setF, State.getF_setF_disj, hsize]

theorem OnlyRegs.putCopy {secVer vd : Field} (h : vd.addr = secVer.addr) (c : Option CopyView) (s : State) : OnlyRegs [vd.addr] s (putCopy secVer vd c s) :=
  ((OnlyRegs.setF s secVer _).trans (OnlyRegs.setF _ vd _)).mono (by simp [h])

theorem OnlyRegs.copiesShown (a b : Option CopyView) (s : State) : OnlyRegs [0x20004, 0x20008] s (copiesShown a b s) :=
  (OnlyRegs.putCopy (secVer := F.CFG_COPY_A_SEC_VER) (vd := F.CFG_COPY_A_VERDICT) rfl a s).trans
    (OnlyRegs.putCopy (secVer := F.CFG_COPY_B_SEC_VER) (vd := F.CFG_COPY_B_VERDICT) rfl b _)

theorem putCopy_verdict {secVer vd : Field} (h1 : vd.lo ≤ vd.hi) (h2 : vd.hi < 32) (h4 : vd.hi + 1 - vd.lo = 4) (c : Option CopyView) (s : State) :
    (putCopy secVer vd c s).getF vd = verdict c s := by
  rw [putCopy, State.getF_setF _ _ h1 h2, h4]
  exact Nat.mod_eq_of_lt (verdict_lt c s)

theorem copiesShown_fields (a b : Option CopyView) (s : State) :
    (copiesShown a b s).getF F.CFG_COPY_A_VERDICT = verdict a s ∧ (copiesShown a b s).getF F.CFG_COPY_B_VERDICT = verdict b s := by
  have hA : OnlyRegs [0x20004] s (putCopy F.CFG_COPY_A_SEC_VER F.CFG_COPY_A_VERDICT a s) := OnlyRegs.putCopy (secVer := F.CFG_COPY_A_SEC_VER) (vd := F.CFG_COPY_A_VERDICT) rfl a s
  have hB : OnlyRegs [0x20008] (putCopy F.CFG_COPY_A_SEC_VER F.CFG_COPY_A_VERDICT a s) (copiesShown a b s) := OnlyRegs.putCopy (secVer := F.CFG_COPY_B_SEC_VER) (vd := F.CFG_COPY_B_VERDICT) rfl b _
  constructor
  · exact (hB.getF (by decide)).trans (putCopy_verdict (by decide) (by decide) rfl a s)
  · exact (putCopy_verdict (by decide) (by decide) rfl b _).trans (verdict_congr (hA.getF (by decide)) rfl b)

/-- CFG_DIGEST0 to CFG_DIGEST15. -/
def digestRegs : List Nat := (List.range 16).map fun n => 0x20040 + 4 * n

/-- Writes of CFG_DIGEST registers stay among them, and touch nothing else. -/
theorem foldl_setDigest (f : Nat → Nat) (l : List Nat) (h : ∀ n ∈ l, n < 16) (s : State) :
    OnlyRegs digestRegs s (l.foldl (fun s n => s.setF (F.CFG_DIGEST_DIGEST n) (f n)) s) ∧
      ∃ r, l.foldl (fun s n => s.setF (F.CFG_DIGEST_DIGEST n) (f n)) s = { s with regs := r } := by
  induction l generalizing s with
  | nil => exact ⟨OnlyRegs.of_regs _ rfl, _, rfl⟩
  | cons n l ih =>
    obtain ⟨hregs, r, hr⟩ := ih (fun m hm => h m (List.mem_cons_of_mem n hm)) (s.setF (F.CFG_DIGEST_DIGEST n) (f n))
    have hn : 0x20040 + 4 * n ∈ digestRegs := List.mem_map_of_mem (List.mem_range.mpr (h n List.mem_cons_self))
    refine ⟨((OnlyRegs.setF s (F.CFG_DIGEST_DIGEST n) (f n)).trans hregs).mono ?_, r, hr⟩
    exact List.append_subset.mpr ⟨List.cons_subset.mpr ⟨hn, List.nil_subset _⟩, fun _ => id⟩

/-- The word of a digest that CFG_DIGESTn shows (R70). -/
def digestWord (digest n : Nat) : Nat := ofLe (((beBytes 64 digest).drop (4 * n)).take 4)

theorem putDigest_eq (digest : Nat) (s : State) :
    putDigest digest s = (List.range 16).foldl (fun s n => s.setF (F.CFG_DIGEST_DIGEST n) (digestWord digest n)) s := rfl

theorem OnlyRegs.putDigest (digest : Nat) (s : State) : OnlyRegs digestRegs s (putDigest digest s) := by
  rw [putDigest_eq]
  exact (foldl_setDigest (digestWord digest) _ (fun _ => List.mem_range.mp) s).1

theorem putDigest_parts (digest : Nat) (s : State) : ∃ r, putDigest digest s = { s with regs := r } := by
  rw [putDigest_eq]
  exact (foldl_setDigest (digestWord digest) _ (fun _ => List.mem_range.mp) s).2

theorem copySelected_parts (sel : Nat) (v : CopyView) (s : State) :
    ∃ r, copySelected sel v s = { s with regs := r, boot := { s.boot with image := some v } } := by
  obtain ⟨r, h⟩ := putDigest_parts v.digest ((s.setF F.CFG_STATUS_SEL sel).updBoot fun x => { x with image := some v })
  unfold copySelected
  rw [h]
  exact ⟨_, rfl⟩

theorem OnlyRegs.copySelected (sel : Nat) (v : CopyView) (s : State) : OnlyRegs (0x20000 :: digestRegs) s (copySelected sel v s) := by
  have himage : OnlyRegs [] (s.setF F.CFG_STATUS_SEL sel) ((s.setF F.CFG_STATUS_SEL sel).updBoot fun x => { x with image := some v }) := OnlyRegs.of_regs [] rfl
  have hall := (((OnlyRegs.setF s F.CFG_STATUS_SEL sel).trans himage).trans (OnlyRegs.putDigest v.digest _)).trans (OnlyRegs.toStep 8 _)
  exact hall.mono (by simp)

theorem copySelected_fields {sel : Nat} (h : sel < 4) (v : CopyView) (s : State) :
    (copySelected sel v s).step = 8 ∧ (copySelected sel v s).getF F.CFG_STATUS_SEL = sel := by
  have hdigest := OnlyRegs.putDigest v.digest ((s.setF F.CFG_STATUS_SEL sel).updBoot fun x => { x with image := some v })
  refine ⟨State.getF_setF _ 8 (by decide) (by decide), ?_⟩
  calc (copySelected sel v s).getF F.CFG_STATUS_SEL
      = (s.setF F.CFG_STATUS_SEL sel).getF F.CFG_STATUS_SEL :=
        (State.getF_setF_disj _ 8 (by decide) (by decide) (by decide)).trans (hdigest.getF (by decide))
    _ = sel := (State.getF_setF s sel (by decide) (by decide)).trans (Nat.mod_eq_of_lt h)

theorem selectImage_eq {log : Nat} {octal : Bool} {a b : Option CopyView} {s : State} {sel : Nat} {v : CopyView} (h : selectCopy a b s = .ok (sel, v)) :
    selectImage log octal a b s = copySelected sel v (copiesShown a b (flashFound log octal s)) := by
  have hid : (copiesShown a b (flashFound log octal s)).getF F.TOP_ID_REV = s.getF F.TOP_ID_REV :=
    ((OnlyRegs.flashFound log octal s).trans (OnlyRegs.copiesShown a b _)).getF (by decide)
  have hsel : selectCopy a b (copiesShown a b (flashFound log octal s)) = .ok (sel, v) := (selectCopy_congr hid rfl a b).trans h
  unfold copiesShown flashFound at hsel ⊢
  unfold selectImage
  simp only [hsel]
  rfl


theorem exec_copySelection {s : State} (h : inStep 7 s = true) (hn : s.pins.vddNvm = true) (dt : Nat) (log : Fin 4) (octal : Bool) (a b : Option CopyView) :
    exec (.copySelection dt true log octal a b) s = .next (selectImage log octal a b (s.elapse dt)) := by
  have hanswers : ¬ (!true || !(s.elapse dt).pins.vddNvm) = true := by simp [hn]
  exact (if_neg (inStep_elapse_not h)).trans (if_neg hanswers)

/-- Step 7 with a copy to select (R57, R68 to R70). -/
theorem imageSelected (dt : Nat) {s : State} (log : Fin 4) (octal : Bool) {a b : Option CopyView} (hstep : inStep 7 s = true) (hn : s.pins.vddNvm = true)
    {sel : Nat} {v : CopyView} (hok : selectCopy a b s = .ok (sel, v)) : Completes (.copySelection dt true log octal a b) s fun t =>
      t.step = 8 ∧ t.boot.image = some v ∧ t.getF F.CFG_STATUS_SEL = sel ∧ (sel = 1 → a = some v) ∧ (sel = 2 → b = some v) ∧
        t.getF F.CFG_COPY_A_VERDICT = verdict a s ∧ t.getF F.CFG_COPY_B_VERDICT = verdict b s ∧ t.getF F.CFG_NVM_STATUS_SIZE_LOG2 = 26 + log.val ∧
        t.getF F.CFG_NVM_STATUS_MODE = (if octal then 2 else 1) ∧ t.dram = s.dram ∧ t.tabs = s.tabs := by
  have hcode := selectCopy_ok hok
  have heq : selectImage log octal a b (s.elapse dt) = copySelected sel v (copiesShown a b (flashFound log octal (s.elapse dt))) :=
    selectImage_eq ((selectCopy_congr (s := s) rfl rfl a b).trans hok)
  have hfound := OnlyRegs.flashFound log octal (s.elapse dt)
  have hshown := OnlyRegs.copiesShown a b (flashFound log octal (s.elapse dt))
  have hselected := OnlyRegs.copySelected sel v (copiesShown a b (flashFound log octal (s.elapse dt)))
  have hverdict (c : Option CopyView) : verdict c (flashFound log octal (s.elapse dt)) = verdict c s := verdict_congr (hfound.getF (by decide)) rfl c
  obtain ⟨hlog, hmode⟩ := flashFound_fields log.isLt octal (s.elapse dt)
  obtain ⟨hva, hvb⟩ := copiesShown_fields a b (flashFound log octal (s.elapse dt))
  obtain ⟨height, hsel⟩ := copySelected_fields (sel := sel) (by omega) v (copiesShown a b (flashFound log octal (s.elapse dt)))
  obtain ⟨r, hr⟩ := copySelected_parts sel v (copiesShown a b (flashFound log octal (s.elapse dt)))
  refine ⟨_, (exec_copySelection hstep hn dt log octal a b).trans (congrArg _ heq), height, by rw [hr], hsel, fun h => ?_, fun h => ?_,
    (hselected.getF (by decide)).trans (hva.trans (hverdict a)), (hselected.getF (by decide)).trans (hvb.trans (hverdict b)),
    ((hshown.trans hselected).getF (by decide)).trans hlog, ((hshown.trans hselected).getF (by decide)).trans hmode, by rw [hr]; rfl, by rw [hr]; rfl⟩
  · exact hcode.elim (·.2) fun k => absurd (h.symm.trans k.1) (by decide)
  · exact hcode.elim (fun k => absurd (h.symm.trans k.1) (by decide)) (·.2)

end Sys2Proof.Machine

/-! SUPPORT. Step 10 of start-up: the store's entries loaded without an association, and the load counted (R80, R277). -/

namespace Sys2Proof.Machine

/-! An entry as the load builds it has the association state NONE: no field that it takes from the store reaches byte 32. -/

/-- A whole entry image whose byte of the association state is 0. -/
def Unassociated (e : List Byte) : Prop := e.length = 512 ∧ e[32]? = some 0

theorem unassociated_emptyEntry : Unassociated emptyEntry := ⟨List.length_replicate, List.getElem?_replicate_of_lt (by decide)⟩

theorem Unassociated.entAssoc {e : List Byte} (h : Unassociated e) : entAssoc e = 0 := by
  obtain ⟨hlen, hbyte⟩ := h
  have hdrop : (e.drop 32).take 1 = [0] := by
    rw [List.drop_eq_getElem_cons (by omega), (List.getElem_eq_iff (by omega)).mpr hbyte]
    rfl
  rw [Machine.entAssoc, entBits, entNat, hdrop]
  rfl

theorem length_leBytes (n v : Nat) : (leBytes n v).length = n := by
  induction n generalizing v with
  | zero => rfl
  | succ n ih => exact congrArg (· + 1) (ih (v / 256))

section
variable {e img x : List Byte} {off n v hi lo : Nat}

/-- Bytes that replace others of the image and miss byte 32. -/
theorem Unassociated.splice (h : Unassociated e) (hx : x.length = n) (hin : off + n ≤ 512) (hmiss : off + n ≤ 32 ∨ 32 < off) :
    Unassociated (e.take off ++ x ++ e.drop (off + n)) := by
  obtain ⟨hlen, hbyte⟩ := h
  have hhead : (e.take off).length = off := List.length_take_of_le (by omega)
  refine ⟨by simp only [List.length_append, List.length_drop, hhead]; omega, ?_⟩
  rcases hmiss with hlow | hhigh
  · rw [List.getElem?_append_right (by simp only [List.length_append, hhead]; omega), List.getElem?_drop, List.length_append, hhead, hx,
      show off + n + (32 - (off + n)) = 32 by omega]
    exact hbyte
  · rw [List.append_assoc, List.getElem?_append_left (by omega), List.getElem?_take_of_lt hhigh]
    exact hbyte

theorem Unassociated.entPut (h : Unassociated e) (hin : off + n ≤ 512) (hmiss : off + n ≤ 32 ∨ 32 < off) : Unassociated (entPut e off n v) :=
  h.splice (length_leBytes n v) hin hmiss

theorem Unassociated.copyBytes (h : Unassociated e) (himg : img.length = 512) (hin : off + n ≤ 512) (hmiss : off + n ≤ 32 ∨ 32 < off) :
    Unassociated (copyBytes off n img e) :=
  h.splice (List.length_take_of_le (by rw [List.length_drop, himg]; omega)) hin hmiss

theorem Unassociated.entPutBits (h : Unassociated e) (hin : off + 1 ≤ 512) (hmiss : off + 1 ≤ 32 ∨ 32 < off) : Unassociated (entPutBits e off hi lo v) :=
  h.entPut hin hmiss

theorem Unassociated.copyBits (h : Unassociated e) (hin : off + 1 ≤ 512) (hmiss : off + 1 ≤ 32 ∨ 32 < off) : Unassociated (copyBits off hi lo img e) :=
  h.entPutBits hin hmiss

theorem Unassociated.withG0 (h : Unassociated e) (himg : img.length = 512) : Unassociated (withG0 img e) :=
  have hbytes := h.copyBytes (off := 0) (n := 10) himg (by decide) (by decide)
  have hflags := hbytes.copyBits (off := 10) (hi := 7) (lo := 6) (img := img) (by decide) (by decide)
  have hdevice := (hflags.copyBits (off := 11) (hi := 7) (lo := 5) (img := img) (by decide) (by decide)).copyBits (off := 11) (hi := 3) (lo := 0) (img := img) (by decide) (by decide)
  hdevice.entPut (by decide) (by decide)

theorem Unassociated.withG1 (h : Unassociated e) (himg : img.length = 512) : Unassociated (withG1 img e) :=
  have hseen := (h.copyBytes (off := 16) (n := 6) himg (by decide) (by decide)).copyBits (off := 23) (hi := 0) (lo := 0) (img := img) (by decide) (by decide)
  (hseen.copyBytes (off := 24) (n := 4) himg (by decide) (by decide)).entPutBits (by decide) (by decide)

theorem Unassociated.withG2 (h : Unassociated e) (himg : img.length = 512) : Unassociated (withG2 img e) :=
  have hhome := (h.copyBits (off := 10) (hi := 1) (lo := 0) (img := img) (by decide) (by decide)).copyBits (off := 33) (hi := 3) (lo := 0) (img := img) (by decide) (by decide)
  have hradio := (hhome.copyBytes (off := 34) (n := 2) himg (by decide) (by decide)).copyBytes (off := 45) (n := 1) himg (by decide) (by decide)
  (hradio.copyBytes (off := 48) (n := 20) himg (by decide) (by decide)).copyBytes himg (by decide) (by decide)

theorem Unassociated.withG3 (h : Unassociated e) (himg : img.length = 512) (s : State) : Unassociated (withG3 img e s) :=
  have henergy := (h.copyBytes (off := 148) (n := 5) himg (by decide) (by decide)).copyBytes (off := 156) (n := 4) himg (by decide) (by decide)
  (henergy.entPut (off := 160) (n := 4) (by decide) (by decide)).entPut (by decide) (by decide)

theorem Unassociated.withG4 (h : Unassociated e) (himg : img.length = 512) : Unassociated (withG4 img e) := h.copyBytes himg (by decide) (by decide)

end

theorem fit_length (n : Nat) (l : List Byte) : (fit n l).length = n :=
  List.length_take_of_le (by rw [List.length_append, List.length_replicate]; exact Nat.le_add_left ..)

theorem unassociated_loadedEntry {img : List Byte} (himg : img.length = 512) (s : State) : Unassociated (loadedEntry img s) :=
  have hgroups := (((unassociated_emptyEntry.withG0 himg).withG1 himg).withG2 himg).withG4 himg
  have hcounters := ((hgroups.withG3 himg s).entPut (off := 24) (n := 4) (by decide) (by decide)).entPut (off := 28) (n := 4) (by decide) (by decide)
  hcounters.entPutBits (by decide) (by decide)

/-! The registers that the load of the store writes. -/

theorem putBits_self (w : Word) {hi lo : Nat} (h1 : lo ≤ hi) (h2 : hi < 32) : putBits w hi lo (bitsOf w hi lo) = w := by
  apply BitVec.eq_of_getLsbD_eq
  intro i _
  rw [getLsbD_putBits w hi lo _ i h1 h2, testBit_bitsOf]
  split
  · next h =>
    have hin : i - lo < hi + 1 - lo := by omega
    rw [decide_eq_true hin, Bool.true_and, Nat.add_sub_cancel' h.1]
  · rfl

/-- A field written with its own value leaves every register as it is. -/
theorem State.reg_setF_getF (s : State) {f : Field} (h1 : f.lo ≤ f.hi) (h2 : f.hi < 32) (a : Nat) : (s.setF f (s.getF f)).reg a = s.reg a := by
  rw [State.setF, State.getF, putBits_self _ h1 h2, State.reg_setReg]
  split
  · next h => rw [h]
  · rfl

/-- The counts of an entry whose association state stays NONE: the count of ACTIVE nodes keeps its value (R271). -/
theorem OnlyRegs.recount_of_unassociated {a b : List Byte} (ha : entAssoc a = 0) (hb : entAssoc b = 0) (nix : Nat) (s : State) :
    OnlyRegs [0xE0008, 0xE000C] s (recount nix a b s) := by
  unfold Machine.recount
  extract_lets s1 s2 s3
  have hs1 : OnlyRegs [] s s1 := OnlyRegs.of_regs [] rfl
  have hs2 : OnlyRegs [0xE0008] s1 s2 := OnlyRegs.setF s1 F.CAT_STATUS_VALID _
  have hs3 : OnlyRegs [0xE000C] s2 s3 := OnlyRegs.setF s2 F.CAT_RSYNC_COUNT_COUNT _
  have hactive : s3.getF F.ASC_COUNT_ACTIVE + bit (decide (2 ≤ entAssoc b)) - bit (decide (2 ≤ entAssoc a)) = s3.getF F.ASC_COUNT_ACTIVE := by
    rw [ha, hb]
    rfl
  have hs4 : OnlyRegs [] s3 (s3.setF F.ASC_COUNT_ACTIVE (s3.getF F.ASC_COUNT_ACTIVE)) := fun a _ => State.reg_setF_getF s3 (by decide) (by decide) a
  rw [hactive]
  exact ((hs1.trans hs2).trans hs3).trans hs4

/-- Only registers of the CAT block change, and nothing of the TAMPER domain. -/
structure CatOnly (s t : State) : Prop where
  reg : ∀ a, a < 0xE0000 ∨ 0xE8000 ≤ a → t.reg a = s.reg a
  tamp : t.tamp = s.tamp

section
variable {s t u : State}

theorem CatOnly.trans (h : CatOnly s t) (k : CatOnly t u) : CatOnly s u := ⟨fun a ha => (k.reg a ha).trans (h.reg a ha), k.tamp.trans h.tamp⟩

theorem CatOnly.of_onlyRegs {l : List Nat} (h : OnlyRegs l s t) (hl : ∀ a ∈ l, 0xE0000 ≤ a ∧ a < 0xE8000) (ht : t.tamp = s.tamp) : CatOnly s t := by
  refine ⟨fun a ha => h a fun hm => ?_, ht⟩
  have := hl a hm
  omega

theorem CatOnly.setBytes (s : State) (a : Nat) (l : List Byte) : CatOnly s (s.setBytes a l) := by
  obtain ⟨d, m, h⟩ := State.setBytes_parts s a l
  rw [h]
  exact ⟨fun _ _ => rfl, rfl⟩

theorem catOnly_loadEntry (x : Nat × List Byte) (s : State) (dup : Option Nat) : CatOnly s (loadEntry (s, dup) x).1 := by
  have hlen := fit_length 512 x.2
  unfold loadEntry
  dsimp only
  generalize fit 512 x.2 = img at hlen
  have hloaded := (unassociated_loadedEntry hlen s).entAssoc
  generalize loadedEntry img s = e at hloaded
  split
  · exact ⟨fun _ _ => rfl, rfl⟩
  · split
    · have hcount : CatOnly s (s.incF (F.CAT_CNT_COUNT 8)) := CatOnly.of_onlyRegs (OnlyRegs.setF s (F.CAT_CNT_COUNT 8) _) (by decide) rfl
      exact hcount.trans (CatOnly.setBytes ..)
    · have hrecount := OnlyRegs.recount_of_unassociated unassociated_emptyEntry.entAssoc hloaded x.1
      exact (CatOnly.setBytes s (entAddr x.1 s) _).trans (CatOnly.of_onlyRegs (hrecount _) (by decide) rfl)

theorem catOnly_loadStore (l : List (Nat × List Byte)) (s : State) : CatOnly s (loadStore l s).1 := by
  unfold loadStore
  generalize (none : Option Nat) = dup
  induction l generalizing s dup with
  | nil => exact ⟨fun _ _ => rfl, rfl⟩
  | cons x l ih => exact (catOnly_loadEntry x s dup).trans (ih (loadEntry (s, dup) x).1 (loadEntry (s, dup) x).2)

theorem countLoad_fields (s : State) :
    (countLoad s).tamp.loads = min (s.tamp.loads + 1) 4095 ∧ (countLoad s).getF F.CAT_STATUS_LOADS = min (s.tamp.loads + 1) 4095 := by
  refine ⟨rfl, (State.getF_setF _ _ (by decide) (by decide)).trans (Nat.mod_eq_of_lt ?_)⟩
  exact Nat.lt_succ_of_le (Nat.min_le_right _ 4095)

theorem OnlyRegs.countLoad (s : State) : OnlyRegs [0xE0008] s (countLoad s) :=
  OnlyRegs.setF (s.updTamp fun t => { t with loads := min (t.loads + 1) 4095 }) F.CAT_STATUS_LOADS _

/-- The notice of a store entry that breaks R268 (R277). -/
def noteDup (dup : Option Nat) (s : State) : State :=
  match dup with
  | some n => notify N.LOAD_DUP scDenied 0 n s
  | none => s

theorem noteDup_frame (dup : Option Nat) (s : State) : OnlyRegs noticeRegs s (noteDup dup s) ∧ (noteDup dup s).tamp = s.tamp := by
  cases dup with
  | none => exact ⟨OnlyRegs.of_regs _ rfl, rfl⟩
  | some n => exact ⟨OnlyRegs.notify _ _ _ _ _, notify_tamp ..⟩

end

theorem warmLoad_eq {v : CopyView} (hcat : v.catPresent = true) (es : List (Nat × List Byte)) (s : State) :
    warmLoad v es true s =
      toStep 11 (noteDup (loadStore (es.filter fun x => x.1 < v.catEntries) s).2 (countLoad (loadStore (es.filter fun x => x.1 < v.catEntries) s).1)) := by
  have hpresent : ¬ (!v.catPresent) = true := by simp [hcat]
  exact (if_neg hpresent).trans (if_neg Bool.false_ne_true)

/-- The catalogue's store loaded (R80, R277). -/
theorem warmLoad_fields {v : CopyView} (hcat : v.catPresent = true) (es : List (Nat × List Byte)) (s : State) :
    (warmLoad v es true s).step = 11 ∧ (warmLoad v es true s).tamp.loads = min (s.tamp.loads + 1) 4095 ∧
      (warmLoad v es true s).getF F.CAT_STATUS_LOADS = (warmLoad v es true s).tamp.loads ∧
      ∀ a, a ≠ 0x20000 → a ∉ noticeRegs → a < 0xE0000 ∨ 0xE8000 ≤ a → (warmLoad v es true s).reg a = s.reg a := by
  have hload := catOnly_loadStore (es.filter fun x => x.1 < v.catEntries) s
  rw [warmLoad_eq hcat]
  generalize (loadStore (es.filter fun x => x.1 < v.catEntries) s).1 = u at hload ⊢
  generalize (loadStore (es.filter fun x => x.1 < v.catEntries) s).2 = dup
  obtain ⟨hloads, hshown⟩ := countLoad_fields u
  obtain ⟨hnotice, htamp⟩ := noteDup_frame dup (countLoad u)
  have hstep := OnlyRegs.toStep 11 (noteDup dup (countLoad u))
  have hcounted : (toStep 11 (noteDup dup (countLoad u))).tamp.loads = min (s.tamp.loads + 1) 4095 := by
    rw [← hload.tamp, ← hloads, ← htamp]
    rfl
  refine ⟨State.getF_setF _ 11 (by decide) (by decide), hcounted, ?_, fun a hcfg hring hblock => ?_⟩
  · rw [hcounted, (hnotice.trans hstep).getF (by decide), hshown, hload.tamp]
  · have hcount : (countLoad u).reg a = u.reg a := OnlyRegs.countLoad u a (by simp only [List.mem_singleton]; omega)
    rw [(hnotice.trans hstep) a (by simp [hring, hcfg]), hcount, hload.reg a hblock]

theorem exec_catalogueWarmLoad {s : State} {v : CopyView} (hv : s.boot.image = some v) (h : inStep 10 s = true) (dt : Nat)
    (es : List (BitVec 17 × List Byte)) (digestOk : Bool) :
    exec (.catalogueWarmLoad dt es digestOk) s = .next (warmLoad v (es.map fun e => (e.1.toNat, e.2)) digestOk (s.elapse dt)) := by
  have hv' : (s.elapse dt).boot.image = some v := hv
  have hgo : inStep 10 (s.elapse dt) = true := h
  change execCatalogueWarmLoad dt es digestOk s = _
  simp only [execCatalogueWarmLoad, hv']
  exact if_pos hgo

/-- Settles O19: the selection of step 7, the transaction of step 8, and the load of step 10, each by its own theorem. -/
theorem imageSteps : Obligations.ImageSteps := by
  intro dt s
  refine ⟨fun log octal a b hstep hn sel v hok => imageSelected dt log octal hstep hn hok, fun v hv hstep => ?_, fun v hv es hstep hcat => ?_⟩
  · exact ⟨_, exec_imageApply hv hstep dt, tagZeroEnded_applyImage v (s.elapse dt)⟩
  · exact ⟨_, exec_catalogueWarmLoad hv hstep dt es true, warmLoad_fields hcat _ (s.elapse dt)⟩

end Sys2Proof.Machine

/-! SUPPORT. HIBERNATE: its entry, its power-off, and the two ways out (R107 to R109). -/

namespace Sys2Proof.Machine

/-! The entry up to its notice (R107, R108). -/

/-- OWN_N is let go in every state of the device (R456). -/
theorem releaseOwnN_ownDrive (s : State) : (releaseOwnN s).getF F.PAR_HB_STATUS_OWN_DRIVE = 0 := by
  unfold releaseOwnN
  dsimp only
  rw [State.updPair_getF]
  split <;> simp (disch := decide) [State.getF_setF, State.getF_setF_disj]

/-- The entry that is written is the newest of the safety log, and names its event (R497, R499). -/
theorem logEntry_newest (k : NoticeKind) (status port arg : Nat) (s : State) :
    1 ≤ (logEntry k status port arg s).saf.logWr ∧ (lastLogged (logEntry k status port arg s)).block = k.block ∧
      (lastLogged (logEntry k status port arg s)).event = k.event :=
  have hget := Sparse.get_set_self (fun _ => LogEntry.zero) s.saf.log (s.saf.logWr % 256) _
  ⟨Nat.le_add_left 1 _, congrArg LogEntry.block hget, congrArg LogEntry.event hget⟩

/-- OWN_N released, and the entry in progress. -/
def hibReleased (s : State) : State := { releaseOwnN s with power := { s.power with hibEntry := true } }

theorem enterHibernate_eq (m : Master) (s : State) : enterHibernate m s =
    logEntry N.HIB_ENTER scOk 0 m.bit (notify N.HIB_ENTER scOk 0 m.bit (hibReleased (cancelAllJobs (discardTxn (portsOff s))))) := rfl

theorem enterHibernate_fields (m : Master) (s : State) :
    (enterHibernate m s).power.hibEntry = true ∧ (enterHibernate m s).getF F.PAR_HB_STATUS_OWN_DRIVE = 0 ∧ 1 ≤ (enterHibernate m s).saf.logWr ∧
      (lastLogged (enterHibernate m s)).block = 0x01 ∧ (lastLogged (enterHibernate m s)).event = 0x03 ∧ (lastLogged (enterHibernate m s)).arg = m.bit := by
  rw [enterHibernate_eq]
  generalize cancelAllJobs (discardTxn (portsOff s)) = quiet
  have hnotice := OnlyRegs.notify N.HIB_ENTER scOk 0 m.bit (hibReleased quiet)
  have hpower := congrArg Power.hibEntry (notify_power N.HIB_ENTER scOk 0 m.bit (hibReleased quiet))
  generalize notify N.HIB_ENTER scOk 0 m.bit (hibReleased quiet) = noticed at hnotice hpower ⊢
  obtain ⟨hwr, hblock, hevent⟩ := logEntry_newest N.HIB_ENTER scOk 0 m.bit noticed
  have hdrive := (hnotice.trans (OnlyRegs.logEntry N.HIB_ENTER scOk 0 m.bit noticed)).getF (f := F.PAR_HB_STATUS_OWN_DRIVE) (by decide)
  have hbit : m.bit % 2 ^ 32 = m.bit := by cases m <;> rfl
  exact ⟨hpower, hdrive.trans (releaseOwnN_ownDrive quiet), hwr, hblock, hevent, (logEntry_lastLogged ..).trans hbit⟩

theorem mayHibernate_of_autonomous {m : Master} {s : State} (h : s.mode = stAutonomous) (ho : s.owns m = true) : mayHibernate m s = true :=
  (if_pos (.inl h)).trans ho

theorem exec_pwrHibEnter {dt : Nat} {m : Master} {s : State} (hcore : s.clk.core = true) (h : s.mode = stAutonomous) (ho : s.owns m = true) :
    exec (.pwrHibEnter dt m 0x7181#32) s = .next (enterHibernate m (s.elapse dt)) := by
  have hopen : gatedWrite m 0x10110 (writePwrHib m 0x7181#32) (s.elapse dt) = writePwrHib m 0x7181#32 (s.elapse dt) :=
    gatedWrite_open (answers_low hcore (by decide)) (frozenShut_of_ne (s := s) 0x10110 (by rw [h]; decide))
  have hmay : ¬ (!mayHibernate m (s.elapse dt)) = true := by
    rw [mayHibernate_of_autonomous (s := s.elapse dt) h ho]
    decide
  exact congrArg Host.Outcome.next (hopen.trans ((if_neg hmay).trans (if_pos (by decide))))

/-! The power-off that completes the entry (R108). -/

/-- CORE and RF are off, TOP_STATUS reads HIBERNATE, and CUR_HIB_TIMER counts from now (R108, R109). -/
def hibernated (s : State) : State :=
  let t := (((coreOff s).setF F.TOP_STATUS_STATE stHibernate).setF F.TOP_STATUS_CORE_UP 0).setF F.TOP_STATUS_RF_UP 0
  let t := { t with pins := { t.pins with safeN := false } }.setF F.TOP_STATUS_SAFE 0
  { t with power := { t.power with hibAt := t.clk.now } }

theorem exec_hibernatePowerOff {dt : Nat} {s : State} (hentry : s.power.hibEntry = true) (hf : s.mode ≠ stFrozen) :
    exec (.hibernatePowerOff dt) s = .next (hibernated (s.elapse dt)) := by
  have hcompletes : ((s.elapse dt).power.hibEntry && (s.elapse dt).mode != stFrozen) = true := by simp [hentry, hf]
  exact if_pos hcompletes

theorem coreOff_reg (s : State) (a : Nat) : (coreOff s).reg a = if aonReg a then s.reg a else resetWord a := Sparse.get_filter resetWord aonReg s.regs a

theorem OnlyRegs.hibernated (s : State) : OnlyRegs [4] (coreOff s) (hibernated s) := by
  have hshown := ((OnlyRegs.setF (coreOff s) F.TOP_STATUS_STATE stHibernate).trans (OnlyRegs.setF _ F.TOP_STATUS_CORE_UP 0)).trans (OnlyRegs.setF _ F.TOP_STATUS_RF_UP 0)
  exact (hshown.trans (OnlyRegs.setF _ F.TOP_STATUS_SAFE 0)).mono (by decide)

theorem hibernated_mode (s : State) : (hibernated s).mode = stHibernate := by
  have hstate : (((coreOff s).setF F.TOP_STATUS_STATE stHibernate).setF F.TOP_STATUS_CORE_UP 0 |>.setF F.TOP_STATUS_RF_UP 0).getF F.TOP_STATUS_STATE = stHibernate := by
    simp (disch := decide) [State.getF_setF, State.getF_setF_disj, stHibernate]
  exact (State.getF_setF_disj _ (f := F.TOP_STATUS_SAFE) 0 (by decide) (by decide) (by decide)).trans hstate

/-! The two ways out (R109). -/

theorem exec_curWake {dt : Nat} {s : State} (h : s.mode = stHibernate) : exec (.curWake dt .curator 0x7181#32) s = .next (restart (s.elapse dt)) :=
  congrArg Host.Outcome.next ((if_pos rfl).trans (if_pos ⟨h, by decide⟩))

theorem exec_curHibTimerExpire {dt : Nat} {s : State} (h : s.mode = stHibernate) (hn : s.getF F.CUR_HIB_TIMER_SECONDS ≠ 0)
    (hdue : s.power.hibAt + s.getF F.CUR_HIB_TIMER_SECONDS * sec ≤ s.clk.now + dt) : exec (.curHibTimerExpire dt) s = .next (restart (s.elapse dt)) :=
  if_pos ⟨h, hn, hdue⟩

/-- Settles O21: the entry, the power-off, and the restart at step 2 by which both ways out leave. -/
theorem hibernation : Obligations.Hibernation := by
  intro dt s
  refine ⟨fun m hcore h ho => ⟨_, exec_pwrHibEnter hcore h ho, enterHibernate_fields m _⟩, fun hentry hf => ?_, fun h => ?_, fun h hn hdue => ?_⟩
  · refine ⟨_, exec_hibernatePowerOff hentry hf, hibernated_mode _, rfl, rfl, rfl, rfl, rfl, fun a ha => ?_, rfl, rfl, rfl⟩
    exact (OnlyRegs.hibernated (s.elapse dt) a (by simpa using ha)).trans (coreOff_reg (s.elapse dt) a)
  · exact ⟨_, exec_curWake h, restart_mode _, restart_step _, rfl, rfl⟩
  · exact ⟨_, exec_curHibTimerExpire h hn hdue, restart_mode _, restart_step _, rfl, rfl⟩

end Sys2Proof.Machine

/-! SUPPORT. The energy counters (R111, R112). -/

namespace Sys2Proof.Machine

/-- FULL, with a fraction of 2^64 µJ kept beside counter 0, where the device itself keeps less than 1 µJ (R111). -/
def wideFraction : State :=
  { State.reset with
    regs := [(0x10100, 1#32)]
    power := { State.reset.power with nrgFrac := [(0, 1000 * 2 ^ 64)] } }

theorem wideFraction_counts : wideFraction.getF F.PWR_STATUS_MODE ≠ 0 := by decide

/-- The counters after an update: `blocks` from counter 0 on, Miscellaneous with the rest, and VIN (R111). -/
def energyAdded (vin : Nat) (blocks : List Nat) (s : State) : State :=
  let t := addEnergy 10 vin (addEnergy 9 (vin - blocks.sum) (addEnergies 0 blocks s))
  { t with power := { t.power with epf := t.power.epf.map fun e => (e.1, e.2 + vin) } }

theorem exec_energyCounterUpdate {s : State} (h : s.getF F.PWR_STATUS_MODE ≠ 0) (dt vin : Nat) (blocks : List Nat) :
    exec (.energyCounterUpdate dt vin blocks) s = .next (energyAdded vin (blocks.take 9) (s.elapse dt)) := if_neg h

/-- Only the counters that an update adds to have their fractions carried. -/
theorem addEnergy_nrgFrac_ne {k j : Nat} (h : j ≠ k) (nj : Nat) (s : State) :
    Sparse.get (fun _ => 0) (addEnergy k nj s).power.nrgFrac j = Sparse.get (fun _ => 0) s.power.nrgFrac j := Sparse.get_set_ne _ _ _ h

theorem energyAdded_nil_nrgFrac (vin : Nat) (s : State) :
    Sparse.get (fun _ => 0) (energyAdded vin [] s).power.nrgFrac 0 = Sparse.get (fun _ => 0) s.power.nrgFrac 0 :=
  (addEnergy_nrgFrac_ne (by decide) _ _).trans (addEnergy_nrgFrac_ne (by decide) _ s)

/-- Refutes O22: an update without an increment for counter 0 leaves a fraction of 2^64 µJ as it is, where the statement reduces the count modulo 2^64 µJ.
The statement speaks of every state, this one too. -/
theorem not_energyCounters : ¬ Obligations.EnergyCounters := by
  intro h
  obtain ⟨hupdate, -⟩ := h 0 0 [] .host wideFraction
  obtain ⟨t, ht, hcount, -⟩ := hupdate wideFraction_counts
  rw [exec_energyCounterUpdate wideFraction_counts, Host.Outcome.next.injEq] at ht
  have hfrac : Sparse.get (fun _ => 0) t.power.nrgFrac 0 = 1000 * 2 ^ 64 := ht ▸ energyAdded_nil_nrgFrac 0 (wideFraction.elapse 0)
  have hwrap : _ + Sparse.get (fun _ => 0) t.power.nrgFrac 0 < 1000 * 2 ^ 64 := (hcount 0 (by decide)).trans_lt (Nat.mod_lt _ (by decide))
  rw [hfrac] at hwrap
  omega

end Sys2Proof.Machine

/-! SUPPORT. The energy-per-frame window: its start and its end (R113, R114). -/

namespace Sys2Proof.Machine

/-! The start. -/

/-- PWR_EPF_CTRL as a write with no window running leaves it before START acts: DONE and MIXED are cleared by a 1, and WIN_MS is taken (R11, R113). -/
def epfCtrlTaken (w : Word) (s : State) : State :=
  let s := if bitsOf w 29 29 = 1 then s.setF F.PWR_EPF_CTRL_DONE 0 else s
  let s := if bitsOf w 28 28 = 1 then s.setF F.PWR_EPF_CTRL_MIXED 0 else s
  s.setF F.PWR_EPF_CTRL_WIN_MS (bitsOf w 13 0)

theorem OnlyRegs.ite {c : Prop} [Decidable c] {l : List Nat} {s t u : State} (h : OnlyRegs l s t) (k : OnlyRegs l s u) : OnlyRegs l s (if c then t else u) := by
  split <;> assumption

theorem epfCtrlTaken_frame (w : Word) (s : State) : OnlyRegs [0x10200] s (epfCtrlTaken w s) ∧ ∃ r, epfCtrlTaken w s = { s with regs := r } := by
  have hstay (u : State) : OnlyRegs [0x10200] u u := OnlyRegs.of_regs _ rfl
  unfold epfCtrlTaken
  extract_lets s1 s2
  have h1 : OnlyRegs [0x10200] s s1 := (OnlyRegs.setF s F.PWR_EPF_CTRL_DONE 0).ite (hstay s)
  have h2 : OnlyRegs [0x10200] s1 s2 := (OnlyRegs.setF s1 F.PWR_EPF_CTRL_MIXED 0).ite (hstay s1)
  refine ⟨((h1.trans h2).trans (OnlyRegs.setF s2 F.PWR_EPF_CTRL_WIN_MS _)).mono (by decide), ?_⟩
  dsimp only [s2, s1]
  split <;> split <;> exact ⟨_, rfl⟩

theorem epfCtrlTaken_winMs (w : Word) (s : State) : (epfCtrlTaken w s).getF F.PWR_EPF_CTRL_WIN_MS = bitsOf w 13 0 :=
  (State.getF_setF _ _ (by decide) (by decide)).trans (Nat.mod_eq_of_lt (Nat.mod_lt _ (by decide)))

theorem writeEpfCtrl_starts {m : Master} {w : Word} {s : State} (hidle : s.getF F.PWR_EPF_CTRL_BUSY = 0) (hstart : bitsOf w 31 31 = 1) (hlo : 10 ≤ bitsOf w 13 0)
    (hhi : bitsOf w 13 0 ≤ 10000) : writeEpfCtrl m w s = startEpf (epfCtrlTaken w s) := by
  have hrange : ¬ (bitsOf w 13 0 < 10 ∨ 10000 < bitsOf w 13 0) := by omega
  simp [writeEpfCtrl, epfCtrlTaken, hidle, hstart, hrange]

theorem State.reg_setF_whole (s : State) (a v : Nat) : (s.setF ⟨a, 31, 0⟩ v).reg a = BitVec.ofNat 32 v :=
  (State.reg_setReg_self ..).trans (putBits_whole _ v)

/-- The counts of a window that starts are 0, and PWR_EPF_CTRL shows BUSY. -/
theorem startEpf_fields (s : State) : (startEpf s).getF F.PWR_EPF_CTRL_BUSY = 1 ∧ (startEpf s).getF F.PWR_EPF_CTRL_WIN_MS = s.getF F.PWR_EPF_CTRL_WIN_MS ∧
    (startEpf s).reg 0x10204 = 0 ∧ (startEpf s).reg 0x10208 = 0 := by
  have henergy : OnlyRegs [0x10208] ((s.setF F.PWR_EPF_CTRL_BUSY 1).setF F.PWR_EPF_FRAMES_VALUE 0) (startEpf s) := OnlyRegs.setF _ F.PWR_EPF_ENERGY_VALUE 0
  have hcounts := (OnlyRegs.setF (s.setF F.PWR_EPF_CTRL_BUSY 1) F.PWR_EPF_FRAMES_VALUE 0).trans henergy
  exact ⟨(hcounts.getF (by decide)).trans (State.getF_setF _ 1 (by decide) (by decide)),
    (hcounts.getF (by decide)).trans (State.getF_setF_disj _ 1 (by decide) (by decide) (by decide)),
    (henergy 0x10204 (by decide)).trans (State.reg_setF_whole _ 0x10204 0), State.reg_setF_whole _ 0x10208 0⟩

theorem OnlyRegs.startEpf (s : State) : OnlyRegs [0x10200, 0x10204, 0x10208] s (startEpf s) :=
  ((OnlyRegs.setF s F.PWR_EPF_CTRL_BUSY 1).trans (OnlyRegs.setF _ F.PWR_EPF_FRAMES_VALUE 0)).trans (OnlyRegs.setF _ F.PWR_EPF_ENERGY_VALUE 0)

/-- From the next tick the window lasts WIN_MS ms, and it changes neither the slot clock nor a table nor DRAM. -/
theorem startEpf_window (s : State) : (startEpf s).power.epf = some (s.clk.slot + 1 + s.getF F.PWR_EPF_CTRL_WIN_MS * ms, 0) ∧
    (startEpf s).clk = s.clk ∧ (startEpf s).dram = s.dram ∧ (startEpf s).tabs = s.tabs := by
  obtain ⟨-, hwin, -⟩ := startEpf_fields s
  exact ⟨congrArg (fun n => some (s.clk.slot + 1 + n * ms, 0)) hwin, rfl, rfl, rfl⟩

theorem exec_epfStart {dt : Nat} {m : Master} {w : Word} {s : State} (hcore : s.clk.core = true) (hf : s.mode ≠ stFrozen) (hidle : s.getF F.PWR_EPF_CTRL_BUSY = 0)
    (hstart : bitsOf w 31 31 = 1) (hlo : 10 ≤ bitsOf w 13 0) (hhi : bitsOf w 13 0 ≤ 10000) :
    exec (.epfStart dt m w) s = .next (startEpf (epfCtrlTaken w (s.elapse dt))) := by
  have hopen : gatedWrite m 0x10200 (writeEpfCtrl m w) (s.elapse dt) = writeEpfCtrl m w (s.elapse dt) :=
    gatedWrite_open (answers_low hcore (by decide)) (frozenShut_of_ne (s := s) 0x10200 hf)
  exact congrArg Host.Outcome.next (hopen.trans (writeEpfCtrl_starts (s := s.elapse dt) hidle hstart hlo hhi))

/-- A window started by a write with START (R113). -/
theorem execEpfStart_completes (dt : Nat) (m : Master) (w : Word) (s : State) (hcore : s.clk.core = true) (hf : s.mode ≠ stFrozen) (hidle : s.getF F.PWR_EPF_CTRL_BUSY = 0)
    (hstart : bitsOf w 31 31 = 1) (hlo : 10 ≤ bitsOf w 13 0) (hhi : bitsOf w 13 0 ≤ 10000) : Completes (.epfStart dt m w) s fun t =>
      t.getF F.PWR_EPF_CTRL_BUSY = 1 ∧ t.getF F.PWR_EPF_CTRL_WIN_MS = bitsOf w 13 0 ∧ t.reg 0x10204 = 0 ∧ t.reg 0x10208 = 0 ∧
        t.power.epf = some (t.clk.slot + 1 + bitsOf w 13 0 * ms, 0) ∧ OnlyRegs [0x10200, 0x10204, 0x10208] s t ∧ t.dram = s.dram ∧ t.tabs = s.tabs := by
  refine ⟨_, exec_epfStart hcore hf hidle hstart hlo hhi, ?_⟩
  have hwin := epfCtrlTaken_winMs w (s.elapse dt)
  obtain ⟨hctrl, r, hr⟩ := epfCtrlTaken_frame w (s.elapse dt)
  generalize epfCtrlTaken w (s.elapse dt) = taken at hwin hctrl hr
  obtain ⟨hbusy, hkept, hframes, henergy⟩ := startEpf_fields taken
  obtain ⟨hepf, hclk, hdram, htabs⟩ := startEpf_window taken
  have hframe : OnlyRegs ([0x10200] ++ [0x10200, 0x10204, 0x10208]) s (startEpf taken) := hctrl.trans (OnlyRegs.startEpf taken)
  refine ⟨hbusy, hkept.trans hwin, hframes, henergy, ?_, hframe.mono (by decide), ?_, ?_⟩
  · rw [hepf, hclk, hwin]
  · rw [hdram, hr]
    rfl
  · rw [htabs, hr]
    rfl

/-! The end. -/

/-- The energy of a frame in nJ, where `energy` µJ went to `frames` frames (R113). -/
def epfNj (energy frames : Nat) : Nat := if frames = 0 then 0xFFFFFFFF else sat32 (energy * 1000 / frames)

/-- The results of a window in which VIN delivered `energy` µJ (R113). -/
def epfResults (energy : Nat) (s : State) : State :=
  let frames := s.getF F.PWR_EPF_FRAMES_VALUE
  let s := (s.setF F.PWR_EPF_ENERGY_VALUE (sat32 energy)).setF F.PWR_EPF_NJ_VALUE (epfNj energy frames)
  s.setF F.PWR_EPF_POWER_VALUE (sat32 (energy / s.getF F.PWR_EPF_CTRL_WIN_MS))

/-- The window closed: DONE, not BUSY, and MIXED where the power mode changed in it (R113, R114). -/
def epfClosed (s : State) : State :=
  let s := (s.setF F.PWR_EPF_CTRL_DONE 1).setF F.PWR_EPF_CTRL_BUSY 0
  let s := if s.power.epfMixed then s.setF F.PWR_EPF_CTRL_MIXED 1 else s
  { s with power := { s.power with epf := none } }

theorem endEpf_eq (nj : Nat) (s : State) :
    endEpf nj s = notify N.EPF_DONE scOk 0 (s.getF F.PWR_EPF_FRAMES_VALUE) (epfClosed (epfResults (nj / 1000) s)) := rfl

theorem sat32_mod (n : Nat) : sat32 n % 2 ^ 32 = sat32 n := Nat.mod_eq_of_lt (Nat.lt_succ_of_le (Nat.min_le_right n 0xFFFFFFFF))

theorem epfNj_mod (energy frames : Nat) : epfNj energy frames % 2 ^ 32 = epfNj energy frames := by
  unfold epfNj
  split
  · rfl
  · exact sat32_mod _

theorem epfResults_fields (energy : Nat) (s : State) :
    (epfResults energy s).getF F.PWR_EPF_ENERGY_VALUE = sat32 energy ∧
      (epfResults energy s).getF F.PWR_EPF_NJ_VALUE = epfNj energy (s.getF F.PWR_EPF_FRAMES_VALUE) ∧
      (epfResults energy s).getF F.PWR_EPF_POWER_VALUE = sat32 (energy / s.getF F.PWR_EPF_CTRL_WIN_MS) := by
  unfold epfResults
  extract_lets frames shown
  have hwin : shown.getF F.PWR_EPF_CTRL_WIN_MS = s.getF F.PWR_EPF_CTRL_WIN_MS := (State.getF_setF_ne _ _ (by decide)).trans (State.getF_setF_ne s _ (by decide))
  have henergy : shown.getF F.PWR_EPF_ENERGY_VALUE = sat32 energy :=
    (State.getF_setF_ne _ _ (by decide)).trans ((State.getF_setF s _ (by decide) (by decide)).trans (sat32_mod _))
  have hnj : shown.getF F.PWR_EPF_NJ_VALUE = epfNj energy frames := (State.getF_setF _ _ (by decide) (by decide)).trans (epfNj_mod ..)
  rw [hwin]
  exact ⟨(State.getF_setF_ne shown _ (by decide)).trans henergy, (State.getF_setF_ne shown _ (by decide)).trans hnj,
    (State.getF_setF shown _ (by decide) (by decide)).trans (sat32_mod _)⟩

theorem epfResults_frame (energy : Nat) (s : State) :
    OnlyRegs [0x10208, 0x1020C, 0x10210] s (epfResults energy s) ∧ ∃ r, epfResults energy s = { s with regs := r } :=
  ⟨((OnlyRegs.setF s F.PWR_EPF_ENERGY_VALUE _).trans (OnlyRegs.setF _ F.PWR_EPF_NJ_VALUE _)).trans (OnlyRegs.setF _ F.PWR_EPF_POWER_VALUE _), _, rfl⟩

theorem epfClosed_fields (s : State) :
    (epfClosed s).power.epf = none ∧ (epfClosed s).getF F.PWR_EPF_CTRL_BUSY = 0 ∧ (epfClosed s).getF F.PWR_EPF_CTRL_DONE = 1 := by
  have hbusy : ((s.setF F.PWR_EPF_CTRL_DONE 1).setF F.PWR_EPF_CTRL_BUSY 0).getF F.PWR_EPF_CTRL_BUSY = 0 := State.getF_setF _ 0 (by decide) (by decide)
  have hdone : ((s.setF F.PWR_EPF_CTRL_DONE 1).setF F.PWR_EPF_CTRL_BUSY 0).getF F.PWR_EPF_CTRL_DONE = 1 :=
    (State.getF_setF_disj _ 0 (by decide) (by decide) (by decide)).trans (State.getF_setF s 1 (by decide) (by decide))
  unfold epfClosed
  extract_lets shown closed
  refine ⟨rfl, ?_, ?_⟩
  all_goals
    change closed.getF _ = _
    dsimp only [closed]
    split
  · exact (State.getF_setF_disj shown 1 (by decide) (by decide) (by decide)).trans hbusy
  · exact hbusy
  · exact (State.getF_setF_disj shown 1 (by decide) (by decide) (by decide)).trans hdone
  · exact hdone

theorem epfClosed_frame (s : State) :
    OnlyRegs [0x10200] s (epfClosed s) ∧ (epfClosed s).dram = s.dram ∧ (epfClosed s).tabs = s.tabs := by
  unfold epfClosed
  extract_lets shown closed
  have hshown := (OnlyRegs.setF s F.PWR_EPF_CTRL_DONE 1).trans (OnlyRegs.setF _ F.PWR_EPF_CTRL_BUSY 0)
  have hclosed : OnlyRegs [0x10200] shown closed := (OnlyRegs.setF shown F.PWR_EPF_CTRL_MIXED 1).ite (OnlyRegs.of_regs _ rfl)
  have hparts : closed.dram = s.dram ∧ closed.tabs = s.tabs := by
    dsimp only [closed]
    split <;> exact ⟨rfl, rfl⟩
  exact ⟨(hshown.trans hclosed).mono (by decide), hparts⟩

/-- A notice after changes that leave DRAM and the place of the ring as they were. -/
theorem OnlyRing.notify_of_dram {s t : State} (hdram : t.dram = s.dram) (hbase : t.reg 0x40 = s.reg 0x40) (hctrl : t.reg 0x44 = s.reg 0x44)
    (k : NoticeKind) (status port arg : Nat) : OnlyRing s (Machine.notify k status port arg t) := by
  intro a ha
  have hbyte : t.byte a = s.byte a := congrArg (Sparse.get dramDefault · a) hdram
  exact (OnlyRing.notify k status port arg t a (mt (inNoticeRing_congr hbase hctrl).1 ha)).trans hbyte

theorem exec_epfDone {dt e nj : Nat} {s : State} (hrun : s.clk.running = true) (hepf : s.power.epf = some (e, nj)) (hend : e ≤ (s.elapse dt).clk.slot) :
    exec (.epfDone dt) s = .next (endEpf nj (s.elapse dt)) := by
  have hepf' : (s.elapse dt).power.epf = some (e, nj) := hepf
  change execEpfDone dt s = _
  simp only [execEpfDone, hepf']
  exact if_pos ⟨hrun, hend⟩

/-- The results of a window whose end on the slot clock is reached (R113). -/
theorem execEpfDone_completes (dt e nj : Nat) (s : State) (hrun : s.clk.running = true) (hepf : s.power.epf = some (e, nj)) (hend : e ≤ (s.elapse dt).clk.slot) :
    Completes (.epfDone dt) s fun t =>
      t.power.epf = none ∧ t.getF F.PWR_EPF_CTRL_BUSY = 0 ∧ t.getF F.PWR_EPF_CTRL_DONE = 1 ∧ t.reg 0x10204 = s.reg 0x10204 ∧
        t.getF F.PWR_EPF_ENERGY_VALUE = sat32 (nj / 1000) ∧ t.getF F.PWR_EPF_NJ_VALUE = epfNj (nj / 1000) (s.getF F.PWR_EPF_FRAMES_VALUE) ∧
        t.getF F.PWR_EPF_POWER_VALUE = sat32 (nj / 1000 / s.getF F.PWR_EPF_CTRL_WIN_MS) ∧
        OnlyRegs ([0x10200, 0x10208, 0x1020C, 0x10210] ++ noticeRegs) s t ∧ OnlyRing s t ∧ t.tabs = s.tabs := by
  refine ⟨_, exec_epfDone hrun hepf hend, ?_⟩
  rw [endEpf_eq]
  obtain ⟨henergy, hnj, hpower⟩ := epfResults_fields (nj / 1000) (s.elapse dt)
  obtain ⟨hresults, r, hr⟩ := epfResults_frame (nj / 1000) (s.elapse dt)
  generalize epfResults (nj / 1000) (s.elapse dt) = results at henergy hnj hpower hresults hr ⊢
  obtain ⟨hnone, hbusy, hdone⟩ := epfClosed_fields results
  obtain ⟨hclosed, hdram, htabs⟩ := epfClosed_frame results
  have hdram' : results.dram = s.dram := by rw [hr]; rfl
  have htabs' : results.tabs = s.tabs := by rw [hr]; rfl
  have hnotice := OnlyRegs.notify N.EPF_DONE scOk 0 ((s.elapse dt).getF F.PWR_EPF_FRAMES_VALUE) (epfClosed results)
  have hafter := hclosed.trans hnotice
  have hquiet : OnlyRegs _ s (epfClosed results) := hresults.trans hclosed
  have hframe : OnlyRegs _ s _ := hresults.trans hafter
  exact ⟨(congrArg Power.epf (notify_power ..)).trans hnone, (hnotice.getF (by decide)).trans hbusy, (hnotice.getF (by decide)).trans hdone,
    hframe 0x10204 (by decide), (hafter.getF (by decide)).trans henergy, (hafter.getF (by decide)).trans hnj, (hafter.getF (by decide)).trans hpower,
    hframe.mono (by decide), OnlyRing.notify_of_dram (hdram.trans hdram') (hquiet 0x40 (by decide)) (hquiet 0x44 (by decide)) _ _ _ _,
    (notify_tabs ..).trans (htabs.trans htabs')⟩

/-- Settles O23: the start and the end of a window, each by its own theorem. -/
theorem energyPerFrame : Obligations.EnergyPerFrame := fun dt s => ⟨fun m w => execEpfStart_completes dt m w s, fun e nj => execEpfDone_completes dt e nj s⟩

end Sys2Proof.Machine

/-! SUPPORT. The end of a transaction (R126, R129, R131, R132), and the alert bits that a notice leaves as they are (R147). -/

namespace Sys2Proof.Machine

/-- A command has one next state. -/
theorem Completes.of_exec {c : Instr} {s u : State} {P : State → Prop} (h : Completes c s P) (hu : exec c s = .next u) : P u := by
  obtain ⟨t, ht, hP⟩ := h
  rw [hu, Host.Outcome.next.injEq] at ht
  rwa [ht]

theorem State.getF_setF_of_lt (s : State) {f : Field} {v : Nat} (h1 : f.lo ≤ f.hi) (h2 : f.hi < 32) (hv : v < 2 ^ (f.hi + 1 - f.lo)) : (s.setF f v).getF f = v :=
  (State.getF_setF s v h1 h2).trans (Nat.mod_eq_of_lt hv)

theorem State.getF_lt (s : State) (f : Field) : s.getF f < 2 ^ (f.hi + 1 - f.lo) := Nat.mod_lt _ (Nat.two_pow_pos _)

theorem State.getF_of_regs {s t : State} (h : t.regs = s.regs) (f : Field) : t.getF f = s.getF f := (OnlyRegs.of_regs [] h).getF List.not_mem_nil

/-! Notices set no bit of CUR_ALERT_STATUS but SAFETY (R147). -/

/-- The bits of CUR_ALERT_STATUS above SAFETY, of which notices set none. -/
abbrev AlertField (f : Field) : Prop := f.addr = 0x30040 ∧ 0 < f.lo

theorem ringed_reg {k : NoticeKind} {status port arg : Nat} {s : State} {a : Nat} (h : a ∉ [0x48, 0x50, 0x60, 0x64]) :
    (ringed k status port arg s).reg a = s.reg a := by
  unfold ringed
  split
  · exact noticeRing_reg h
  · rfl

theorem notify_alert {f : Field} (h : AlertField f) (k : NoticeKind) (status port arg : Nat) (s : State) : (notify k status port arg s).getF f = s.getF f := by
  obtain ⟨haddr, hlo⟩ := h
  have hring : (ringed k status port arg s).getF f = s.getF f := State.getF_of_reg (ringed_reg (by rw [haddr]; decide))
  have hvec (v : Nat) (u : State) : (raiseVector v u).getF f = u.getF f :=
    State.getF_of_reg (raiseVector_reg (by rw [haddr]; decide) (by rw [haddr]; decide))
  have hlog : (if k.safety then logEntry k status port arg (ringed k status port arg s) else ringed k status port arg s).getF f = s.getF f := by
    split
    · exact (State.getF_setF_disj _ 1 (by decide) (by decide) (.inl hlo)).trans hring
    · exact hring
  have hsplit : notify k status port arg s =
      (let logged := if k.safety then logEntry k status port arg (ringed k status port arg s) else ringed k status port arg s
       if noticesRun s then raiseVector (if k.safety then 0 else k.vector) logged else logged) := rfl
  rw [hsplit]
  dsimp only
  split
  · exact (hvec _ _).trans hlog
  · exact hlog

/-- In FROZEN a notice writes nothing to DRAM (R511). -/
theorem notify_dram_of_frozen {s : State} (h : s.mode = stFrozen) (k : NoticeKind) (status port arg : Nat) : (notify k status port arg s).dram = s.dram := by
  have hquiet : noticesRun s = false := by simp [noticesRun, h]
  unfold notify
  simp only [hquiet]
  cases k.safety <;> rfl

/-! The transaction leaves the logic. -/

/-- TXN_STATUS as the end of a transaction leaves it, before its shadows go. -/
def statusClosed (result : Nat) (s : State) : State :=
  (((s.setF F.TXN_STATUS_STATE txIdle).setF F.TXN_STATUS_LAST_TAG (s.getF F.TXN_STATUS_TAG)).setF F.TXN_STATUS_LAST_RESULT result).setF F.TXN_STATUS_TAG 0

theorem closeTxn_regs (result : Nat) (s : State) : (closeTxn result s).regs = (statusClosed result s).regs := rfl

theorem closeTxn_getF (result : Nat) (s : State) (f : Field) : (closeTxn result s).getF f = (statusClosed result s).getF f :=
  State.getF_of_regs (closeTxn_regs result s) f

theorem OnlyRegs.closeTxn (result : Nat) (s : State) : OnlyRegs [0x2080C] s (closeTxn result s) := by
  have h : OnlyRegs _ s (statusClosed result s) := (((OnlyRegs.setF s F.TXN_STATUS_STATE txIdle).trans (OnlyRegs.setF _ F.TXN_STATUS_LAST_TAG _)).trans
    (OnlyRegs.setF _ F.TXN_STATUS_LAST_RESULT result)).trans (OnlyRegs.setF _ F.TXN_STATUS_TAG 0)
  exact (h.trans (OnlyRegs.of_regs [] (closeTxn_regs result s))).mono (by decide)

/-- TXN_STATUS of a transaction that has ended: IDLE, with the tag and the result of the one that was under way in `s`, poisoned as that one was. -/
def TxnEnded (result : Nat) (s t : State) : Prop :=
  t.txn = txIdle ∧ t.getF F.TXN_STATUS_LAST_TAG = s.getF F.TXN_STATUS_TAG ∧ t.getF F.TXN_STATUS_LAST_RESULT = result ∧
    t.getF F.TXN_STATUS_POISONED = s.getF F.TXN_STATUS_POISONED

theorem TxnEnded.of_reg {result : Nat} {s t u : State} (h : TxnEnded result s t) (hr : u.reg 0x2080C = t.reg 0x2080C) : TxnEnded result s u := by
  have hf {f : Field} (hf : f.addr = 0x2080C) : u.getF f = t.getF f := State.getF_of_reg (by rwa [hf])
  obtain ⟨hidle, htag, hresult, hpoison⟩ := h
  exact ⟨(hf rfl).trans hidle, (hf rfl).trans htag, (hf rfl).trans hresult, (hf rfl).trans hpoison⟩

theorem txnEnded_closeTxn {result : Nat} (h : result < 256) (s : State) : TxnEnded result s (closeTxn result s) := by
  have htag : s.getF F.TXN_STATUS_TAG % 256 = s.getF F.TXN_STATUS_TAG := Nat.mod_eq_of_lt (State.getF_lt s F.TXN_STATUS_TAG)
  refine ⟨(closeTxn_getF ..).trans ?_, (closeTxn_getF ..).trans ?_, (closeTxn_getF ..).trans ?_, (closeTxn_getF ..).trans ?_⟩
  all_goals simp (disch := decide) only [statusClosed, State.getF_setF_disj, State.getF_setF]
  · rfl
  · exact htag
  · exact Nat.mod_eq_of_lt h

/-! A transaction that ends without effect (R132). -/

/-- The transaction closed, with CUR_ALERT_STATUS.TXN_ABORT where R132 sets it, before the notice. -/
def abortTxn (result : Nat) (s : State) : State :=
  if result = scTimeout ∨ result = scDenied then (closeTxn result s).setF F.CUR_ALERT_STATUS_TXN_ABORT 1 else closeTxn result s

theorem rollback_eq (result : Nat) (s : State) :
    rollback result s = notify N.TXN_ROLLED_BACK result 0 (s.getF F.TXN_STATUS_POISONED * 256 + s.getF F.TXN_STATUS_TAG) (abortTxn result s) := rfl

theorem OnlyRegs.abortTxn (result : Nat) (s : State) : OnlyRegs [0x2080C, 0x30040] s (abortTxn result s) := by
  have hclose := OnlyRegs.closeTxn result s
  unfold Machine.abortTxn
  exact (hclose.trans (OnlyRegs.setF _ F.CUR_ALERT_STATUS_TXN_ABORT 1)).ite (hclose.mono (by decide))

theorem OnlyRegs.rollback (result : Nat) (s : State) : OnlyRegs (0x2080C :: noticeRegs) s (rollback result s) :=
  ((OnlyRegs.abortTxn result s).trans (OnlyRegs.notify _ _ _ _ _)).mono (by decide)

/-- An end writes no more than registers and drops the shadows. -/
theorem abortTxn_parts (result : Nat) (s : State) : ∃ r, abortTxn result s = { s with regs := r, ctl := { s.ctl with shadows := [] } } := by
  unfold abortTxn
  split <;> exact ⟨_, rfl⟩

theorem abortTxn_rest (result : Nat) (s : State) : (abortTxn result s).dram = s.dram ∧ (abortTxn result s).tabs = s.tabs ∧ (abortTxn result s).clk = s.clk ∧
    (abortTxn result s).pins = s.pins ∧ (abortTxn result s).ctl = { s.ctl with shadows := [] } := by
  obtain ⟨r, hr⟩ := abortTxn_parts result s
  rw [hr]
  exact ⟨rfl, rfl, rfl, rfl, rfl⟩

theorem txnEnded_rollback {result : Nat} (h : result < 256) (s : State) : TxnEnded result s (rollback result s) := by
  have habort : TxnEnded result s (abortTxn result s) := by
    have hclose := txnEnded_closeTxn h s
    unfold abortTxn
    split
    · exact hclose.of_reg (State.reg_setF_ne _ _ (by decide))
    · exact hclose
  exact habort.of_reg (notify_reg (by decide))

theorem rollback_abort {result : Nat} (h : result = scTimeout ∨ result = scDenied) (s : State) : (rollback result s).getF F.CUR_ALERT_STATUS_TXN_ABORT = 1 := by
  rw [rollback_eq, notify_alert (by decide), abortTxn, if_pos h]
  exact State.getF_setF_of_lt _ (by decide) (by decide) (by decide)

/-- What else an end leaves: no shadows, the lease, time, the pins and the tables as they were, and of DRAM nothing written but the notice's record. -/
theorem rollback_rest (result : Nat) (s : State) :
    (rollback result s).ctl = { s.ctl with shadows := [] } ∧ (rollback result s).clk = s.clk ∧ (rollback result s).pins = s.pins ∧
      (rollback result s).tabs = s.tabs ∧ OnlyRing s (rollback result s) := by
  obtain ⟨hdram, htabs, hclk, hpins, hctl⟩ := abortTxn_rest result s
  have hregs := OnlyRegs.abortTxn result s
  exact ⟨(notify_ctl ..).trans hctl, (notify_clk ..).trans hclk, (notify_pins ..).trans hpins, (notify_tabs ..).trans htabs,
    OnlyRing.notify_of_dram hdram (hregs 0x40 (by decide)) (hregs 0x44 (by decide)) _ _ _ _⟩

end Sys2Proof.Machine

/-! SUPPORT. A transaction from BEGIN to its end: by COMMIT, ROLLBACK and timeout (R125 to R133). -/

namespace Sys2Proof.Machine

/-- In AUTONOMOUS the registers below those of the ports answer and take writes. -/
theorem open_of_autonomous {s : State} {a : Nat} (hcore : s.clk.core = true) (hauto : s.mode = stAutonomous) (ha : a < 0x40000) :
    answers a s = true ∧ frozenShut a s = false ∧ s.mode ≠ stFrozen := by
  have hf : s.mode ≠ stFrozen := by rw [hauto]; decide
  exact ⟨answers_low hcore ha, frozenShut_of_ne a hf, hf⟩

/-! BEGIN (R125, R126). -/

/-- TXN_STATUS after an accepted BEGIN. -/
def statusBegun (m : Master) (s : State) : State :=
  (((s.setF F.TXN_STATUS_STATE txOpen).setF F.TXN_STATUS_TAG s.ctl.nextTag).setF F.TXN_STATUS_MASTER m.bit).setF F.TXN_STATUS_POISONED 0

/-- The state after an accepted BEGIN. -/
def txnBegun (m : Master) (s : State) : State :=
  { statusBegun m s with ctl := { s.ctl with
      nextTag := if s.ctl.nextTag = 255 then 1 else s.ctl.nextTag + 1
      txnEnd := s.clk.slot + s.getF F.TXN_TIMEOUT_MS * ms
      shadows := [] } }

theorem OnlyRegs.statusBegun (m : Master) (s : State) : OnlyRegs [0x2080C] s (statusBegun m s) := by
  have h := (((OnlyRegs.setF s F.TXN_STATUS_STATE txOpen).trans (OnlyRegs.setF _ F.TXN_STATUS_TAG s.ctl.nextTag)).trans
    (OnlyRegs.setF _ F.TXN_STATUS_MASTER m.bit)).trans (OnlyRegs.setF _ F.TXN_STATUS_POISONED 0)
  exact h.mono (by decide)

theorem OnlyRegs.txnBegun (m : Master) (s : State) : OnlyRegs [0x2080C] s (txnBegun m s) :=
  (OnlyRegs.statusBegun m s).trans (OnlyRegs.of_regs [] rfl)

theorem txnBegun_regs (m : Master) (s : State) : (txnBegun m s).regs = (statusBegun m s).regs := rfl

theorem txnBegun_getF (m : Master) (s : State) (f : Field) : (txnBegun m s).getF f = (statusBegun m s).getF f := State.getF_of_regs (txnBegun_regs m s) f

theorem txnBegun_fields (m : Master) (s : State) :
    (txnBegun m s).txn = txOpen ∧ (txnBegun m s).getF F.TXN_STATUS_TAG = s.ctl.nextTag % 256 ∧ (txnBegun m s).getF F.TXN_STATUS_MASTER = m.bit ∧
      (txnBegun m s).getF F.TXN_STATUS_POISONED = 0 := by
  refine ⟨(txnBegun_getF ..).trans ?_, (txnBegun_getF ..).trans ?_, (txnBegun_getF ..).trans ?_, (txnBegun_getF ..).trans ?_⟩
  all_goals simp (disch := decide) only [statusBegun, State.getF_setF_disj, State.getF_setF]
  · rfl
  · rfl
  · cases m <;> rfl
  · rfl

theorem readBegin_accepted {m : Master} {s : State} (ho : s.owns m = true) (ht : s.txn = txIdle) (hauto : s.mode = stAutonomous) :
    readBegin m s = (BitVec.ofNat 32 s.ctl.nextTag, txnBegun m s) := by
  have hnone : beginRefusal m s = none := by simp [beginRefusal, ho, ht, hauto]
  have htimeout : (statusBegun m s).getF F.TXN_TIMEOUT_MS = s.getF F.TXN_TIMEOUT_MS := (OnlyRegs.statusBegun m s).getF (by decide)
  unfold readBegin
  rw [hnone]
  exact congrArg (fun n => (BitVec.ofNat 32 s.ctl.nextTag, ({ statusBegun m s with ctl := { s.ctl with
      nextTag := if s.ctl.nextTag = 255 then 1 else s.ctl.nextTag + 1
      txnEnd := s.clk.slot + n * ms
      shadows := [] } } : State))) htimeout

theorem exec_txnBegin {dt : Nat} {m : Master} {s : State} (hcore : s.clk.core = true) (hauto : s.mode = stAutonomous) (ho : s.owns m = true) (ht : s.txn = txIdle) :
    exec (.txnBegin dt m) s = .next ((txnBegun m (s.elapse dt).noDetail).emit (.value m.bit (BitVec.ofNat 32 s.ctl.nextTag))) := by
  obtain ⟨hans, -, hf⟩ := open_of_autonomous (a := 0x20800) hcore hauto (by decide)
  have hread := readBegin_accepted (m := m) (s := (s.elapse dt).noDetail) ho ht hauto
  have hopen : answers 0x20800 (s.elapse dt).noDetail = true ∧ (s.elapse dt).noDetail.mode ≠ stFrozen := ⟨hans, hf⟩
  change (if answers 0x20800 (s.elapse dt).noDetail = true ∧ (s.elapse dt).noDetail.mode ≠ stFrozen then _ else _) = _
  rw [if_pos hopen]
  exact congrArg (fun p : Word × State => Host.Outcome.next (p.2.emit (.value m.bit p.1))) hread

theorem txnBegin_completes {dt : Nat} {m : Master} {s : State} (hcore : s.clk.core = true) (hauto : s.mode = stAutonomous) (ho : s.owns m = true) (ht : s.txn = txIdle) :
    Completes (.txnBegin dt m) s fun t =>
      t.out = .value m.bit (BitVec.ofNat 32 s.ctl.nextTag) :: s.out ∧ t.txn = txOpen ∧ t.getF F.TXN_STATUS_TAG = s.ctl.nextTag % 256 ∧ t.getF F.TXN_STATUS_MASTER = m.bit ∧
        t.getF F.TXN_STATUS_POISONED = 0 ∧ t.ctl.nextTag = (if s.ctl.nextTag = 255 then 1 else s.ctl.nextTag + 1) ∧ t.ctl.shadows = [] ∧
        t.ctl.txnEnd = t.clk.slot + s.getF F.TXN_TIMEOUT_MS * ms ∧ OnlyRegs [0x2080C] s t ∧ t.dram = s.dram ∧ t.tabs = s.tabs := by
  refine ⟨_, exec_txnBegin hcore hauto ho ht, ?_⟩
  obtain ⟨hopen, htag, hmaster, hpoison⟩ := txnBegun_fields m (s.elapse dt).noDetail
  have hregs : OnlyRegs [0x2080C] s (txnBegun m (s.elapse dt).noDetail) := OnlyRegs.txnBegun m (s.elapse dt).noDetail
  have hemit := OnlyRegs.emit (txnBegun m (s.elapse dt).noDetail) (.value m.bit (BitVec.ofNat 32 s.ctl.nextTag))
  have hshown (f : Field) := hemit.getF (f := f) List.not_mem_nil
  exact ⟨rfl, (hshown _).trans hopen, (hshown _).trans htag, (hshown _).trans hmaster, (hshown _).trans hpoison, rfl, rfl, rfl, hregs.trans hemit, rfl, rfl⟩

/-! COMMIT and ROLLBACK (R130, R132). -/

/-- The state after an accepted COMMIT. -/
def commitPending (s : State) : State :=
  { s.setF F.TXN_STATUS_STATE txPending with ctl := { s.ctl with commitFrom := s.clk.slot + 20 * us } }

section
variable {dt : Nat} {m : Master} {w : Word} {s : State}

theorem writeCommit_accepted (ho : s.owns m = true) (ht : s.txn = txOpen) (htag : bitsOf w 7 0 = s.getF F.TXN_STATUS_TAG) : writeCommit m w s = commitPending s := by
  have hown : ¬ (!s.owns m) = true := by simp [ho]
  exact (if_neg hown).trans ((if_neg (not_not.2 ht)).trans (if_neg (not_not.2 htag)))

theorem writeRollback_accepted (ho : s.owns m = true) (ht : s.txn = txOpen) (htag : bitsOf w 7 0 = s.getF F.TXN_STATUS_TAG) :
    writeRollback m w s = rollback scCancelled s := by
  have hown : ¬ (!s.owns m) = true := by simp [ho]
  exact (if_neg hown).trans ((if_neg (not_not.2 ht)).trans (if_neg (not_not.2 htag)))

theorem exec_txnCommit (hcore : s.clk.core = true) (hauto : s.mode = stAutonomous) (ho : s.owns m = true) (ht : s.txn = txOpen)
    (htag : bitsOf w 7 0 = s.getF F.TXN_STATUS_TAG) : exec (.txnCommit dt m w) s = .next (commitPending (s.elapse dt).noDetail) := by
  obtain ⟨hans, hshut, -⟩ := open_of_autonomous (a := 0x20804) hcore hauto (by decide)
  exact congrArg Host.Outcome.next ((gatedWrite_open (s := (s.elapse dt).noDetail) hans hshut).trans (writeCommit_accepted (s := (s.elapse dt).noDetail) ho ht htag))

theorem exec_txnRollback (hcore : s.clk.core = true) (hauto : s.mode = stAutonomous) (ho : s.owns m = true) (ht : s.txn = txOpen)
    (htag : bitsOf w 7 0 = s.getF F.TXN_STATUS_TAG) : exec (.txnRollback dt m w) s = .next (rollback scCancelled (s.elapse dt).noDetail) := by
  obtain ⟨hans, hshut, -⟩ := open_of_autonomous (a := 0x20808) hcore hauto (by decide)
  exact congrArg Host.Outcome.next ((gatedWrite_open (s := (s.elapse dt).noDetail) hans hshut).trans (writeRollback_accepted (s := (s.elapse dt).noDetail) ho ht htag))

theorem commitPending_txn (s : State) : (commitPending s).txn = txPending :=
  State.getF_setF_of_lt s (f := F.TXN_STATUS_STATE) (by decide) (by decide) (by decide)

theorem OnlyRegs.commitPending (s : State) : OnlyRegs [0x2080C] s (commitPending s) := OnlyRegs.setF s F.TXN_STATUS_STATE txPending

theorem exec_txnTimeout (hrun : s.clk.running = true) (ht : s.txn = txOpen) (hend : s.ctl.txnEnd ≤ (s.elapse dt).clk.slot) :
    exec (.txnTimeout dt) s = .next (rollback scTimeout (s.elapse dt)) := if_pos ⟨hrun, ht, hend⟩

/-- A transaction rolled back, as the statement of its life reads it: only TXN_STATUS and what the notice writes may change. -/
theorem rollback_ends {result : Nat} (h : result < 256) (s : State) :
    (rollback result s).txn = txIdle ∧ (rollback result s).getF F.TXN_STATUS_LAST_TAG = s.getF F.TXN_STATUS_TAG ∧
      (rollback result s).getF F.TXN_STATUS_LAST_RESULT = result ∧ (rollback result s).ctl.shadows = [] ∧
      OnlyRegs (0x2080C :: noticeRegs) s (rollback result s) ∧ OnlyRing s (rollback result s) ∧ (rollback result s).tabs = s.tabs := by
  obtain ⟨hidle, htag, hresult, -⟩ := txnEnded_rollback h s
  obtain ⟨hctl, -, -, htabs, hring⟩ := rollback_rest result s
  exact ⟨hidle, htag, hresult, congrArg Ctl.shadows hctl, OnlyRegs.rollback result s, hring, htabs⟩

end

/-- Settles O26: BEGIN, COMMIT, ROLLBACK and the timeout, each by the equation of its command. -/
theorem transactionLife : Obligations.TransactionLife := by
  intro dt m s hcore hauto
  refine ⟨txnBegin_completes hcore hauto, fun w ho ht htag => ⟨?_, ?_⟩, fun hrun ht hend => ?_⟩
  · exact ⟨_, exec_txnCommit hcore hauto ho ht htag, commitPending_txn _, rfl, rfl, OnlyRegs.commitPending (s.elapse dt).noDetail, rfl, rfl⟩
  · exact ⟨_, exec_txnRollback hcore hauto ho ht htag, rollback_ends (by decide) (s.elapse dt).noDetail⟩
  · obtain ⟨hidle, htag, hresult, hrest⟩ := rollback_ends (result := scTimeout) (by decide) (s.elapse dt)
    exact ⟨_, exec_txnTimeout hrun ht hend, hidle, htag, hresult, rollback_abort (.inl rfl) _, hrest⟩

/-! The commit boundary (R129, R131). -/

section
variable {dt b : Nat} {s : State}

theorem exec_txnCommitBoundary (hnext : s.slt.next = some b) (hrun : s.clk.running = true) (ht : s.txn = txPending) (hb : b ≤ (s.elapse dt).clk.slot)
    (hfrom : s.ctl.commitFrom ≤ b) : exec (.txnCommitBoundary dt) s = .next (commitNow (s.elapse dt)) := by
  have hnext' : (s.elapse dt).slt.next = some b := hnext
  change execTxnCommitBoundary dt s = _
  simp only [execTxnCommitBoundary, hnext']
  exact if_pos ⟨hrun, ht, hb, hfrom⟩

/-- A transaction that may take effect at its boundary: not poisoned, with every check at commit passed (R129, R131). -/
abbrev Commits (s : State) : Prop := s.getF F.TXN_STATUS_POISONED = 0 ∧ commitOk s (applyShadows s) = true

/-- The state after the boundary at which a transaction takes effect, before its notice; `t` is the state with the values in effect and the records in the journal. -/
def committed (t : State) : State := (closeTxn scOk t).set64 F.TXN_APPLIED_SEN_LO_SEN F.TXN_APPLIED_SEN_HI_SEN t.slt.nextSen

theorem commitNow_commits (h : Commits s) : ∃ (t : State) (arg : Nat), commitNow s = notify N.TXN_COMMITTED scOk 0 arg (committed t) := by
  obtain ⟨hclean, hok⟩ := h
  have hpoison : ¬ s.getF F.TXN_STATUS_POISONED = 1 := by omega
  unfold commitNow
  rw [if_neg hpoison, tryCommit_of_ok hok]
  exact ⟨_, _, rfl⟩

theorem commitNow_denied (h : ¬ Commits s) : commitNow s = rollback scDenied (s.setF F.TXN_STATUS_POISONED 1) := by
  have hnone : (if s.getF F.TXN_STATUS_POISONED = 1 then none else tryCommit false s) = none := by
    split
    · rfl
    · next hpoison =>
      have hlt : s.getF F.TXN_STATUS_POISONED < 2 := State.getF_lt s F.TXN_STATUS_POISONED
      exact tryCommit_of_not (Bool.eq_false_iff.2 fun hok => h ⟨by omega, hok⟩)
  unfold commitNow
  rw [hnone]

theorem committed_fields (t : State) :
    (committed t).txn = txIdle ∧ (committed t).getF F.TXN_STATUS_LAST_RESULT = scOk ∧ (committed t).getF F.TXN_APPLIED_SEN_LO_SEN = t.slt.nextSen % 2 ^ 32 ∧
      (committed t).getF F.TXN_APPLIED_SEN_HI_SEN = t.slt.nextSen / 2 ^ 32 % 256 ∧ (committed t).ctl.shadows = [] ∧ (committed t).slt = t.slt := by
  have hsen : OnlyRegs [0x20814, 0x20818] (closeTxn scOk t) (committed t) := OnlyRegs.set64 _ F.TXN_APPLIED_SEN_LO_SEN F.TXN_APPLIED_SEN_HI_SEN _
  obtain ⟨hidle, -, hresult, -⟩ := (txnEnded_closeTxn (result := scOk) (by decide) t).of_reg (hsen 0x2080C (by decide))
  have hlo : (committed t).getF F.TXN_APPLIED_SEN_LO_SEN = t.slt.nextSen % 2 ^ 32 :=
    (State.getF_setF_ne _ _ (by decide)).trans (State.getF_setF (closeTxn scOk t) _ (by decide) (by decide))
  exact ⟨hidle, hresult, hlo, State.getF_setF _ _ (by decide) (by decide), rfl, rfl⟩

/-- A transaction that takes effect leaves the logic with OK, and TXN_APPLIED_SEN at the slot that begins (R131). -/
theorem commitNow_ok (h : Commits s) :
    (commitNow s).txn = txIdle ∧ (commitNow s).ctl.shadows = [] ∧ (commitNow s).getF F.TXN_STATUS_LAST_RESULT = scOk ∧
      (commitNow s).getF F.TXN_APPLIED_SEN_LO_SEN = (commitNow s).slt.nextSen % 2 ^ 32 ∧
      (commitNow s).getF F.TXN_APPLIED_SEN_HI_SEN = (commitNow s).slt.nextSen / 2 ^ 32 % 256 := by
  obtain ⟨t, arg, hcommit⟩ := commitNow_commits h
  obtain ⟨hidle, hresult, hlo, hhi, hshadows, hslt⟩ := committed_fields t
  rw [hcommit, notify_slt, notify_ctl, hslt]
  exact ⟨(notify_getF (by decide)).trans hidle, hshadows, (notify_getF (by decide)).trans hresult, (notify_getF (by decide)).trans hlo, (notify_getF (by decide)).trans hhi⟩

/-- A transaction that may not take effect is poisoned and ends with DENIED (R129). -/
theorem commitNow_poisoned (h : ¬ Commits s) :
    (commitNow s).txn = txIdle ∧ (commitNow s).ctl.shadows = [] ∧ (commitNow s).getF F.TXN_STATUS_LAST_RESULT = scDenied ∧
      (commitNow s).getF F.TXN_STATUS_LAST_TAG = s.getF F.TXN_STATUS_TAG ∧ (commitNow s).getF F.TXN_STATUS_POISONED = 1 ∧
      (commitNow s).getF F.CUR_ALERT_STATUS_TXN_ABORT = 1 ∧ OnlyRegs (0x2080C :: noticeRegs) s (commitNow s) ∧ OnlyRing s (commitNow s) ∧ (commitNow s).tabs = s.tabs := by
  have hmark : OnlyRegs [0x2080C] s (s.setF F.TXN_STATUS_POISONED 1) := OnlyRegs.setF s F.TXN_STATUS_POISONED 1
  have htag : (s.setF F.TXN_STATUS_POISONED 1).getF F.TXN_STATUS_TAG = s.getF F.TXN_STATUS_TAG :=
    State.getF_setF_disj s 1 (by decide) (by decide) (by decide)
  have hpoison : (s.setF F.TXN_STATUS_POISONED 1).getF F.TXN_STATUS_POISONED = 1 := State.getF_setF_of_lt s (by decide) (by decide) (by decide)
  have habort := rollback_abort (.inr rfl) (s.setF F.TXN_STATUS_POISONED 1)
  obtain ⟨-, -, -, hkept⟩ := txnEnded_rollback (result := scDenied) (by decide) (s.setF F.TXN_STATUS_POISONED 1)
  obtain ⟨hidle, hlast, hresult, hshadows, hregs, hring, htabs⟩ := rollback_ends (result := scDenied) (by decide) (s.setF F.TXN_STATUS_POISONED 1)
  have hring' : OnlyRing s (rollback scDenied (s.setF F.TXN_STATUS_POISONED 1)) := fun a ha =>
    hring a (mt (inNoticeRing_congr (hmark 0x40 (by decide)) (hmark 0x44 (by decide))).1 ha)
  rw [commitNow_denied h]
  exact ⟨hidle, hshadows, hresult, hlast.trans htag, hkept.trans hpoison, habort, (hmark.trans hregs).mono (by decide), hring', htabs⟩

end

/-- Settles O27: whether the transaction commits decides which of the two ends it has. -/
theorem commitBoundary : Obligations.CommitBoundary := by
  intro dt s b hnext hrun ht hb hfrom
  refine ⟨_, exec_txnCommitBoundary hnext hrun ht hb hfrom, ?_⟩
  by_cases h : Commits (s.elapse dt)
  · obtain ⟨hidle, hshadows, hok⟩ := commitNow_ok h
    exact ⟨hidle, hshadows, (if_pos h).mpr hok⟩
  · obtain ⟨hidle, hshadows, hdenied⟩ := commitNow_poisoned h
    exact ⟨hidle, hshadows, (if_neg h).mpr hdenied⟩

end Sys2Proof.Machine

/-! SUPPORT. What the radio does not reach: when a port turns quiet, its receptions and its command end, and with them downlinks, receipts and associations; the lease and the
transaction, the Curator port, the pins, the fuses, the clocks and the freeze logic stand (R151, R159, R491). The way through the definitions is that of LowKept, which speaks
of registers; this one speaks of the parts that are none. -/

namespace Sys2Proof.Machine

/-- The lease and the transaction, the Curator port, the pins, the fuses, the clocks and the freeze logic are in `s` as they are in `s0`. -/
structure FarKept (s0 s : State) : Prop where
  parts : (s.ctl, s.cur, s.pins, s.fuses, s.clk, s.frz) = (s0.ctl, s0.cur, s0.pins, s0.fuses, s0.clk, s0.frz)

section
variable {s0 s t : State}

theorem FarKept.refl (s : State) : FarKept s s := ⟨rfl⟩

theorem FarKept.ctl (h : FarKept s0 s) : s.ctl = s0.ctl := congrArg Prod.fst h.parts

/-- What touches none of these parts. -/
theorem FarKept.congr (h : FarKept s0 s) (hp : (t.ctl, t.cur, t.pins, t.fuses, t.clk, t.frz) = (s.ctl, s.cur, s.pins, s.fuses, s.clk, s.frz)) : FarKept s0 t :=
  ⟨hp.trans h.parts⟩

theorem FarKept.setReg (h : FarKept s0 s) {a : Nat} {w : Word} : FarKept s0 (s.setReg a w) := h.congr (by rfl)
theorem FarKept.setF (h : FarKept s0 s) {f : Field} {v : Nat} : FarKept s0 (s.setF f v) := h.congr (by rfl)
theorem FarKept.incF (h : FarKept s0 s) {f : Field} : FarKept s0 (s.incF f) := h.congr (by rfl)
theorem FarKept.set64 (h : FarKept s0 s) {lo hi : Field} {v : Nat} : FarKept s0 (s.set64 lo hi v) := h.congr (by rfl)
theorem FarKept.updPort (h : FarKept s0 s) {n : Nat} {f : Port → Port} : FarKept s0 (s.updPort n f) := h.congr (by rfl)
theorem FarKept.updPair (h : FarKept s0 s) {f : Pair → Pair} : FarKept s0 (s.updPair f) := h.congr (by rfl)
theorem FarKept.updSlt (h : FarKept s0 s) {f : Slots → Slots} : FarKept s0 (s.updSlt f) := h.congr (by rfl)
theorem FarKept.setDl (h : FarKept s0 s) {i : Nat} {d : Option Dl} : FarKept s0 (s.setDl i d) := h.congr (by rfl)
theorem FarKept.setAcc (h : FarKept s0 s) {i : Nat} {a : Option Accept} : FarKept s0 (s.setAcc i a) := h.congr (by rfl)

theorem FarKept.notify (h : FarKept s0 s) {k : NoticeKind} {status port arg : Nat} : FarKept s0 (notify k status port arg s) :=
  h.congr (by rw [notify_ctl, notify_cur, notify_pins, notify_fuses, notify_clk, notify_frz])

theorem FarKept.ite {c : Prop} [Decidable c] (h : FarKept s0 s) (k : FarKept s0 t) : FarKept s0 (if c then s else t) := by
  split <;> assumption

theorem FarKept.thenIf {c : Prop} [Decidable c] (h : FarKept s0 s) (hf : FarKept s0 s → FarKept s0 t) : FarKept s0 (if c then t else s) := (hf h).ite h
theorem FarKept.unless {c : Prop} [Decidable c] (h : FarKept s0 s) (hf : FarKept s0 s → FarKept s0 t) : FarKept s0 (if c then s else t) := h.ite (hf h)

theorem FarKept.foldl {α : Type} {f : State → α → State} {l : List α} (h : FarKept s0 s) (hf : ∀ t e, FarKept s0 t → FarKept s0 (f t e)) :
    FarKept s0 (l.foldl f s) := by
  induction l generalizing s with
  | nil => exact h
  | cons e l ih => exact ih (hf s e h)

/-! Receptions that end (R150, R194). -/

theorem FarKept.noteLow (h : FarKept s0 s) : FarKept s0 (noteLow s) := (h.congr (by rfl)).notify.ite ((h.congr (by rfl)).ite h)

theorem FarKept.poolFree (h : FarKept s0 s) {i : Nat} : FarKept s0 (poolFree i s) := h.ite ((FarKept.noteLow (h.congr (by rfl)).incF).ite (h.congr (by rfl)))

theorem FarKept.syncPool (h : FarKept s0 s) {n : Nat} : FarKept s0 (syncPool n s) := h.setF.setF.setF.thenIf (·.setF)

theorem FarKept.releaseDemod (h : FarKept s0 s) {n d : Nat} {handedOn : Bool} : FarKept s0 (releaseDemod n d handedOn s) := by
  unfold Machine.releaseDemod
  split
  · exact h
  · dsimp only
    split
    · exact (h.congr (by rfl)).syncPool.unless (·.poolFree)
    · exact (h.congr (by rfl)).syncPool

theorem FarKept.failRx (h : FarKept s0 s) {n d o : Nat} : FarKept s0 (failRx n d o s) := by
  unfold Machine.failRx
  split
  · exact h
  · exact h.incF.setReg.releaseDemod

theorem FarKept.blankPort (h : FarKept s0 s) {n : Nat} : FarKept s0 (blankPort n s) := h.foldl fun _ _ k => k.failRx

/-! The catalogue's entries and the energy ledger (R271, R272, R281). -/

theorem FarKept.setEntry (h : FarKept s0 s) {nix : Nat} {b : List Byte} : FarKept s0 (setEntry nix b s) := h.congr (by rfl)

theorem FarKept.charge (h : FarKept s0 s) {nix nc : Nat} : FarKept s0 (charge nix nc s) := h.incF.setEntry.thenIf (·.setF)

/-! The journal of a pair (R471 to R476). -/

theorem FarKept.sendHello (h : FarKept s0 s) : FarKept s0 (sendHello s) := h.congr (by rfl)

theorem FarKept.sendLane (h : FarKept s0 s) {kind : Nat} {body : List Nat} : FarKept s0 (sendLane kind body s) := (h.ite h.sendHello).congr (by rfl)

theorem FarKept.triggerSnap (h : FarKept s0 s) : FarKept s0 (triggerSnap s) := h.ite ((h.congr (by rfl)).ite (FarKept.sendLane (h.congr (by rfl))))

theorem FarKept.invalidateJournal (h : FarKept s0 s) {why : Nat} : FarKept s0 (invalidateJournal why s) := by
  have hsnap : FarKept s0 (abandonSnap (s.setF F.PAR_STATUS_JOURNAL 2)) := FarKept.ite (h.congr (by rfl)) h.setF
  exact ((hsnap.congr (by rfl)).incF).notify.unless (·.triggerSnap)

theorem FarKept.journalRec (h : FarKept s0 s) {body : List Nat} {n : Nat} : FarKept s0 (journalRec body n s) :=
  h.ite (h.invalidateJournal.ite ((FarKept.sendLane (h.ite h.sendLane)).set64.incF.updPair.thenIf (·.triggerSnap)))

/-! Downlinks, their queues and the associations that end with them (R226 to R228, R250 to R254, R262, R290, R300). -/

theorem FarKept.schedDone (h : FarKept s0 s) {nix status : Nat} : FarKept s0 (schedDone nix status s) := (h.congr (by rfl)).incF.notify

theorem FarKept.setReceipt (h : FarKept s0 s) {i : Nat} {r : Option Receipt} : FarKept s0 (setReceipt i r s) := by
  have hset : FarKept s0 (syncReceipts (s.updXch fun x => { x with receipts := Sparse.set (fun _ => none) x.receipts i r })) := h.congr (by rfl)
  unfold Machine.setReceipt
  dsimp only
  split
  · exact hset.journalRec
  · exact hset.journalRec
  · exact hset

theorem FarKept.dlStatus (h : FarKept s0 s) {d : Dl} {status : Nat} : FarKept s0 (dlStatus d status s) := by
  unfold Machine.dlStatus
  dsimp only
  split
  · exact h.congr (by rfl)
  · exact h.congr (by rfl)
  · exact h

theorem FarKept.assocNone (h : FarKept s0 s) {nix updStatus : Nat} : FarKept s0 (assocNone nix updStatus s) := by
  have hleft : FarKept s0 (leaveRoster nix s) := h.congr (by rfl)
  have hput : FarKept s0 (Machine.putEntry nix (entPutBits (s.entry nix) 32 1 0 asNone) (leaveRoster nix s)) := hleft.setEntry.journalRec
  exact (hput.congr (by rfl)).thenIf (·.schedDone)

theorem FarKept.dlReportBase (h : FarKept s0 s) {d : Dl} {status : Nat} : FarKept s0 (dlReportBase d status s) := by
  unfold Machine.dlReportBase
  split
  case h_1 => exact FarKept.setReceipt (h.incF.ite h)
  case h_2 => exact (h.congr (by rfl)).ite (h.schedDone.ite h)
  case h_3 => exact h.setEntry.ite h
  case h_4 => exact h
  case h_5 => exact h.dlStatus

theorem FarKept.dlCount (h : FarKept s0 s) {i : Nat} {d : Dl} {status : Nat} : FarKept s0 (dlCount i d status s) := by
  have hout : FarKept s0 (unqueueDl i s) := h.congr (by rfl)
  exact (hout.setDl.thenIf fun k => k.incF.setEntry).thenIf fun k => k.incF.thenIf fun k => k.notify

theorem FarKept.updDl (h : FarKept s0 s) {i : Nat} {f : Dl → Dl} : FarKept s0 (s.updDl i f) := by
  unfold State.updDl
  split
  · exact h.congr (by rfl)
  · exact h

theorem FarKept.assocEnd (h : FarKept s0 s) {nix updStatus : Nat} : FarKept s0 (assocEnd nix updStatus s) :=
  h.assocNone.foldl fun _ _ k => k.ite (k.updDl.ite k.incF.dlCount.dlReportBase)

theorem FarKept.dlEndOne (h : FarKept s0 s) {i : Nat} {d : Dl} {status : Nat} : FarKept s0 (dlEndOne i d status s) :=
  h.dlCount.dlReportBase.thenIf fun k => k.assocEnd.incF.notify

theorem FarKept.dlEnd (h : FarKept s0 s) {i status : Nat} : FarKept s0 (dlEnd i status s) := by
  unfold Machine.dlEnd
  split
  · exact h
  · dsimp only
    split
    · exact h.dlEndOne.unless fun k => k.foldl fun _ _ k => k.thenIf (·.dlEndOne)
    · exact h.dlEndOne

/-! The end of a port's command (R159, R245 to R248, R252). -/

theorem FarKept.closeAcc (h : FarKept s0 s) {i : Nat} : FarKept s0 (closeAcc i s) := by
  unfold Machine.closeAcc
  split
  · exact (h.congr (by rfl)).ite h
  · exact h

theorem FarKept.chargeGuard (h : FarKept s0 s) {nix : Nat} : FarKept s0 (chargeGuard nix s) := h.charge
theorem FarKept.chargeHeard (h : FarKept s0 s) {nix t wake : Nat} : FarKept s0 (chargeHeard nix t wake s) := h.charge

theorem FarKept.ackEnd (h : FarKept s0 s) {n a : Nat} {c : Held} {status : Nat} : FarKept s0 (ackEnd n a c status s) := by
  unfold Machine.ackEnd
  split
  · exact h
  next x _ =>
    have hover : FarKept s0 (dropReserve n (x.sfd + x.delta) (s.setAcc a (some { x with ackOver := true }))) := h.congr (by rfl)
    exact FarKept.closeAcc ((hover.thenIf (·.chargeHeard)).ite ((hover.incF.thenIf (·.chargeGuard)).ite
      (hover.ite (((hover.thenIf (·.incF)).thenIf (·.chargeGuard)).ite hover.setAcc))))

theorem FarKept.attemptLost (h : FarKept s0 s) {n d status : Nat} : FarKept s0 (attemptLost n d status s) := by
  unfold Machine.attemptLost
  split
  · exact h
  · have hcounted : FarKept s0 (if status = scLate then s.incF (F.XCH_CNT_COUNT 13) else s) := h.thenIf (·.incF)
    exact hcounted.dlEnd.ite (hcounted.incF.dlEnd.ite hcounted.setDl)

theorem FarKept.onTxEnd (h : FarKept s0 s) {n : Nat} {c : Held} {begun : Bool} {status : Nat} : FarKept s0 (onTxEnd n c begun status s) := by
  unfold Machine.onTxEnd
  split
  case h_1 => exact h.incF.updSlt.ite (h.ite h.incF.notify)
  case h_2 => exact h.ackEnd
  case h_3 => exact h.ite h.attemptLost
  case h_4 => exact h.ite h.attemptLost
  case h_5 => exact h.incF.ite (h.foldl fun _ _ k => k.updDl)

theorem FarKept.recordOutcome (h : FarKept s0 s) {n status reason : Nat} : FarKept s0 (recordOutcome n status reason s) := by
  unfold Machine.recordOutcome
  dsimp only
  split
  · exact h.setF.setF.incF
  · exact h.setF.setF

theorem FarKept.endHeld (h : FarKept s0 s) {n status reason : Nat} : FarKept s0 (endHeld n status reason s) := by
  unfold Machine.endHeld
  split
  · exact h
  · exact (h.congr (by rfl)).ite (h.congr (by rfl)).recordOutcome.onTxEnd

theorem FarKept.endWaiting (h : FarKept s0 s) {n status reason : Nat} {c : Held} : FarKept s0 (endWaiting n c status reason s) := h.recordOutcome.updPort.onTxEnd

/-! Ports that turn quiet (R151, R491). -/

theorem FarKept.retune (h : FarKept s0 s) {n khz : Nat} : FarKept s0 (retune n khz s) := h.setF.setF.updPort.blankPort

theorem FarKept.portOff (h : FarKept s0 s) {n : Nat} : FarKept s0 (portOff n s) := by
  unfold Machine.portOff
  extract_lets s1 s2 s3 s4
  have h3 : FarKept s0 s3 := (h.endHeld.foldl fun _ _ k => k.endWaiting).setF.blankPort
  have h4 : FarKept s0 s4 := h3.setF.setF.setF
  exact h4.setF.updPort

theorem FarKept.drainQuiet (h : FarKept s0 s) {n : Nat} : FarKept s0 (drainQuiet n s) := h.foldl fun _ _ k => k.endWaiting

theorem FarKept.quietPort (h : FarKept s0 s) {n : Nat} : FarKept s0 (quietPort n s) := by
  unfold Machine.quietPort
  extract_lets st s1 s2
  have h1 : FarKept s0 s1 := h.updPort.setF.setF.ite h
  have h2 : FarKept s0 s2 := (h1.endHeld.updPort).drainQuiet
  exact h.ite (h2.portOff.ite (h2.setF.ite h2.retune.setF))

theorem FarKept.quietPorts (h : FarKept s0 s) : FarKept s0 (quietPorts s) := h.foldl fun _ _ k => k.quietPort

end

end Sys2Proof.Machine

/-! SUPPORT. A change of owner (R123): what it does in CORE, the owner and the epoch, and what the rest of a command leaves of it. -/

namespace Sys2Proof.Machine

/-! What a change of owner does in CORE: the rollback, armed steps void, key staging zeroised (R395, R420). -/

/-- The registers of key staging. -/
def stageRegs : List Nat := (List.range 8).map fun n => 0x130040 + 4 * n

/-- Key staging zeroised (R395). -/
def stageZeroed (s : State) : State := (List.range 8).foldl (fun s n => s.setF (F.KEY_STAGE_KEY n) 0) s

theorem foldl_stage (l : List Nat) (hl : ∀ n ∈ l, n < 8) (s : State) :
    let t := l.foldl (fun s n => s.setF (F.KEY_STAGE_KEY n) 0) s
    OnlyRegs stageRegs s t ∧ (∃ r, t = { s with regs := r }) ∧ ∀ n, n ∈ l ∨ s.getF (F.KEY_STAGE_KEY n) = 0 → t.getF (F.KEY_STAGE_KEY n) = 0 := by
  induction l generalizing s with
  | nil => exact ⟨OnlyRegs.of_regs _ rfl, ⟨_, rfl⟩, fun n h => h.resolve_left List.not_mem_nil⟩
  | cons k l ih =>
    obtain ⟨hregs, ⟨r, hr⟩, hzero⟩ := ih (fun n hn => hl n (List.mem_cons_of_mem _ hn)) (s.setF (F.KEY_STAGE_KEY k) 0)
    have hk : 0x130040 + 4 * k ∈ stageRegs := List.mem_map.2 ⟨k, List.mem_range.2 (hl k List.mem_cons_self), rfl⟩
    have hset : OnlyRegs [0x130040 + 4 * k] s (s.setF (F.KEY_STAGE_KEY k) 0) := OnlyRegs.setF s (F.KEY_STAGE_KEY k) 0
    refine ⟨(hset.trans hregs).mono (List.append_subset.2 ⟨by simpa using hk, List.Subset.refl _⟩), ⟨r, hr⟩, fun n hn => hzero n ?_⟩
    by_cases hnk : n = k
    · exact .inr (hnk ▸ State.getF_setF s 0 (Nat.zero_le 31) (Nat.lt_succ_self 31))
    · have hne : (F.KEY_STAGE_KEY n).addr ≠ (F.KEY_STAGE_KEY k).addr := by
        change 0x130040 + 4 * n ≠ 0x130040 + 4 * k
        omega
      exact hn.imp (fun hmem => (List.mem_cons.1 hmem).resolve_left hnk) (State.getF_setF_ne s 0 hne).trans

theorem stageZeroed_frame (s : State) : OnlyRegs stageRegs s (stageZeroed s) ∧ (∃ r, stageZeroed s = { s with regs := r }) ∧
    ∀ n, n < 8 → (stageZeroed s).getF (F.KEY_STAGE_KEY n) = 0 := by
  obtain ⟨hregs, hparts, hzero⟩ := foldl_stage (List.range 8) (fun n hn => List.mem_range.1 hn) s
  exact ⟨hregs, hparts, fun n hn => hzero n (.inl (List.mem_range.2 hn))⟩

theorem voidArm_frame (n : Nat) (s : State) :
    OnlyRegs [0x140020, 0x140130 + 256 * n] s (voidArm n s) ∧ ∃ r d, voidArm n s = { s with regs := r, time := d } := by
  unfold voidArm
  split
  · have hdom : ∃ d, s.updDomain n (fun d => { d with armed := none }) = { s with time := d } := by
      unfold State.updDomain State.setDomain
      split <;> exact ⟨_, rfl⟩
    obtain ⟨d, hd⟩ := hdom
    rw [hd]
    have hset := (OnlyRegs.setF { s with time := d } ⟨0x140020, 4 + n, 4 + n⟩ 0).trans (OnlyRegs.setF _ (F.TIM_D_STEP_STATUS_STATE n) 0)
    exact ⟨fun a ha => hset a ha, _, d, rfl⟩
  · exact ⟨OnlyRegs.of_regs _ rfl, _, _, rfl⟩

/-- An open transaction rolled back, the steps that are armed void, and key staging zeroised. -/
def coreReleased (s : State) : State := stageZeroed (voidArm 1 (voidArm 0 (rollbackOpen scDenied s)))

/-- The registers of CORE that a change of owner may write, with those of the notice of a rollback. -/
def releaseRegs : List Nat := (0x2080C :: noticeRegs) ++ [0x140020, 0x140130, 0x140230] ++ stageRegs

theorem rollbackOpen_frame (result : Nat) (s : State) : OnlyRegs (0x2080C :: noticeRegs) s (rollbackOpen result s) ∧
    (rollbackOpen result s).ctl.lease = s.ctl.lease ∧ (rollbackOpen result s).clk = s.clk ∧ (rollbackOpen result s).tabs = s.tabs := by
  unfold rollbackOpen
  split
  · obtain ⟨hctl, hclk, -, htabs, -⟩ := rollback_rest result s
    exact ⟨OnlyRegs.rollback result s, by rw [hctl], hclk, htabs⟩
  · exact ⟨OnlyRegs.of_regs _ rfl, rfl, rfl, rfl⟩

theorem coreReleased_frame (s : State) : OnlyRegs releaseRegs s (coreReleased s) ∧ (coreReleased s).ctl.lease = s.ctl.lease ∧ (coreReleased s).clk = s.clk ∧
    (coreReleased s).tabs = s.tabs ∧ ∀ n, n < 8 → (coreReleased s).getF (F.KEY_STAGE_KEY n) = 0 := by
  obtain ⟨hback, hlease, hclk, htabs⟩ := rollbackOpen_frame scDenied s
  obtain ⟨hvoid0, r0, d0, h0⟩ := voidArm_frame 0 (rollbackOpen scDenied s)
  obtain ⟨hvoid1, r1, d1, h1⟩ := voidArm_frame 1 (voidArm 0 (rollbackOpen scDenied s))
  obtain ⟨hstage, ⟨r2, h2⟩, hzero⟩ := stageZeroed_frame (voidArm 1 (voidArm 0 (rollbackOpen scDenied s)))
  have hregs := ((hback.trans hvoid0).trans hvoid1).trans hstage
  refine ⟨hregs.mono (by decide), ?_, ?_, ?_, hzero⟩
  all_goals rw [coreReleased, h2, h1, h0]
  · exact hlease
  · exact hclk
  · exact htabs

/-! The change of owner (R123). -/

/-- The owner and the epoch of a change of owner, with its alert bit, before the notice. -/
def ownerSet (new : Nat) (s : State) : State := ((s.setF F.CUR_OWN_STATUS_OWNER new).incF F.CUR_OWN_STATUS_EPOCH).setF F.CUR_ALERT_STATUS_OWNER 1

/-- In FROZEN what lies in CORE stays as it is (R132, R512). -/
def releasedUnlessFrozen (s : State) : State := if s.mode = stFrozen then s else coreReleased s

theorem changeOwner_eq (new : Nat) (s : State) : ∃ arg, changeOwner new s = notify N.OWNER scOk 0 arg (ownerSet new (releasedUnlessFrozen s)) := ⟨_, rfl⟩

theorem OnlyRegs.ownerSet (new : Nat) (s : State) : OnlyRegs [0x30000, 0x30040] s (ownerSet new s) :=
  ((OnlyRegs.setF s F.CUR_OWN_STATUS_OWNER new).trans (OnlyRegs.setF _ F.CUR_OWN_STATUS_EPOCH _)).trans (OnlyRegs.setF _ F.CUR_ALERT_STATUS_OWNER 1) |>.mono (by decide)

theorem ownerSet_fields {new : Nat} (h : new < 4) (s : State) :
    (ownerSet new s).getF F.CUR_OWN_STATUS_OWNER = new ∧ (ownerSet new s).getF F.CUR_OWN_STATUS_EPOCH = (s.getF F.CUR_OWN_STATUS_EPOCH + 1) % 65536 ∧
      (ownerSet new s).getF F.CUR_ALERT_STATUS_OWNER = 1 := by
  have halert := OnlyRegs.setF ((s.setF F.CUR_OWN_STATUS_OWNER new).incF F.CUR_OWN_STATUS_EPOCH) F.CUR_ALERT_STATUS_OWNER 1
  have howner : ((s.setF F.CUR_OWN_STATUS_OWNER new).incF F.CUR_OWN_STATUS_EPOCH).getF F.CUR_OWN_STATUS_OWNER = new :=
    (State.getF_setF_disj _ _ (by decide) (by decide) (by decide)).trans (State.getF_setF_of_lt s (by decide) (by decide) h)
  have hepoch : (s.setF F.CUR_OWN_STATUS_OWNER new).getF F.CUR_OWN_STATUS_EPOCH = s.getF F.CUR_OWN_STATUS_EPOCH :=
    State.getF_setF_disj s new (by decide) (by decide) (by decide)
  have hnext : ((s.setF F.CUR_OWN_STATUS_OWNER new).incF F.CUR_OWN_STATUS_EPOCH).getF F.CUR_OWN_STATUS_EPOCH = (s.getF F.CUR_OWN_STATUS_EPOCH + 1) % 65536 := by
    rw [← hepoch]
    exact State.getF_setF _ _ (by decide) (by decide)
  exact ⟨(halert.getF (by decide)).trans howner, (halert.getF (by decide)).trans hnext, State.getF_setF_of_lt _ (by decide) (by decide) (by decide)⟩

/-- The registers that a change of owner may write. -/
def ownerRegs : List Nat := 0x30000 :: releaseRegs

theorem releasedUnlessFrozen_frame (s : State) : OnlyRegs releaseRegs s (releasedUnlessFrozen s) ∧ (releasedUnlessFrozen s).ctl.lease = s.ctl.lease ∧
    (releasedUnlessFrozen s).clk = s.clk ∧ (releasedUnlessFrozen s).tabs = s.tabs := by
  unfold releasedUnlessFrozen
  split
  · exact ⟨OnlyRegs.of_regs _ rfl, rfl, rfl, rfl⟩
  · obtain ⟨hregs, hlease, hclk, htabs, -⟩ := coreReleased_frame s
    exact ⟨hregs, hlease, hclk, htabs⟩

/-- The new owner, the epoch and the alert bit; key staging zeroised, but in FROZEN, where DRAM, the transaction and its shadows stand; and the tables as they were. -/
def OwnerChanged (new : Nat) (s t : State) : Prop :=
  t.getF F.CUR_OWN_STATUS_OWNER = new ∧ t.getF F.CUR_OWN_STATUS_EPOCH = (s.getF F.CUR_OWN_STATUS_EPOCH + 1) % 65536 ∧ t.getF F.CUR_ALERT_STATUS_OWNER = 1 ∧
    (s.mode ≠ stFrozen → ∀ n, n < 8 → t.getF (F.KEY_STAGE_KEY n) = 0) ∧ (s.mode = stFrozen → t.dram = s.dram ∧ t.txn = s.txn ∧ t.ctl.shadows = s.ctl.shadows) ∧ t.tabs = s.tabs

/-- What else a change of owner leaves: the registers outside its list, the lease, the clocks. -/
theorem changeOwner_frame (new : Nat) (s : State) : OnlyRegs ownerRegs s (changeOwner new s) ∧ (changeOwner new s).ctl.lease = s.ctl.lease ∧
    (changeOwner new s).clk = s.clk := by
  obtain ⟨arg, heq⟩ := changeOwner_eq new s
  obtain ⟨hregs, hlease, hclk, -⟩ := releasedUnlessFrozen_frame s
  have hset := OnlyRegs.ownerSet new (releasedUnlessFrozen s)
  rw [heq, notify_ctl, notify_clk]
  exact ⟨((hregs.trans hset).trans (OnlyRegs.notify _ _ _ _ _)).mono (by decide), hlease, hclk⟩

theorem stage_not_mem_notice {n : Nat} (h : n < 8) : (F.KEY_STAGE_KEY n).addr ∉ [0x30000, 0x30040] ++ noticeRegs := by
  change 0x130040 + 4 * n ∉ [0x30000, 0x30040, 0x48, 0x50, 0x60, 0x64, 0x30040]
  simp only [List.mem_cons, List.not_mem_nil, or_false]
  omega

theorem ownerChanged_changeOwner {new : Nat} (h : new < 4) (s : State) : OwnerChanged new s (changeOwner new s) := by
  obtain ⟨arg, heq⟩ := changeOwner_eq new s
  obtain ⟨hregs, -, -, htabs⟩ := releasedUnlessFrozen_frame s
  obtain ⟨howner, hepoch, halert⟩ := ownerSet_fields h (releasedUnlessFrozen s)
  have hset := OnlyRegs.ownerSet new (releasedUnlessFrozen s)
  have hnote := OnlyRegs.notify N.OWNER scOk 0 arg (ownerSet new (releasedUnlessFrozen s))
  have hold : (releasedUnlessFrozen s).getF F.CUR_OWN_STATUS_EPOCH = s.getF F.CUR_OWN_STATUS_EPOCH := hregs.getF (by decide)
  rw [heq]
  refine ⟨(hnote.getF (by decide)).trans howner, (hnote.getF (by decide)).trans (hold ▸ hepoch), (notify_alert (by decide) ..).trans halert, ?_, ?_, (notify_tabs ..).trans htabs⟩
  · intro hmode n hn
    obtain ⟨-, -, -, -, hzero⟩ := coreReleased_frame s
    have hrel : releasedUnlessFrozen s = coreReleased s := if_neg hmode
    exact ((hset.trans hnote).getF (stage_not_mem_notice hn)).trans (hrel ▸ hzero n hn)
  · intro hmode
    have hrel : releasedUnlessFrozen s = s := if_pos hmode
    rw [hrel] at hset hnote ⊢
    have hmode' : (ownerSet new s).mode = stFrozen := (hset.getF (by decide)).trans hmode
    exact ⟨notify_dram_of_frozen hmode' .., (hset.trans hnote).getF (by decide), congrArg Ctl.shadows (notify_ctl ..)⟩

/-! What comes after a change of owner in a command. -/

/-- From `s` to `t` nothing changes of what a change of owner is about. -/
structure OwnerKept (s t : State) : Prop where
  mode : t.mode = s.mode
  owner : t.reg 0x30000 = s.reg 0x30000
  alert : t.getF F.CUR_ALERT_STATUS_OWNER = s.getF F.CUR_ALERT_STATUS_OWNER
  stage : ∀ n, n < 8 → t.getF (F.KEY_STAGE_KEY n) = s.getF (F.KEY_STAGE_KEY n)
  txn : t.txn = s.txn
  shadows : t.ctl.shadows = s.ctl.shadows
  dram : s.mode = stFrozen → t.dram = s.dram
  tabs : t.tabs = s.tabs

theorem OwnerKept.trans {s t u : State} (h : OwnerKept s t) (k : OwnerKept t u) : OwnerKept s u where
  mode := k.mode.trans h.mode
  owner := k.owner.trans h.owner
  alert := k.alert.trans h.alert
  stage n hn := (k.stage n hn).trans (h.stage n hn)
  txn := k.txn.trans h.txn
  shadows := k.shadows.trans h.shadows
  dram hf := (k.dram (h.mode.trans hf)).trans (h.dram hf)
  tabs := k.tabs.trans h.tabs

/-- A write of a field outside the registers of a change of owner, and of an alert bit other than OWNER. -/
theorem OwnerKept.setF (s : State) {f : Field} (v : Nat) (hstage : f.addr < 0x130040 ∨ 0x130060 ≤ f.addr) (hregs : f.addr ≠ 0x4 ∧ f.addr ≠ 0x30000 ∧ f.addr ≠ 0x2080C)
    (halert : f.addr ≠ 0x30040 ∨ 1 < f.lo ∧ f.lo ≤ f.hi ∧ f.hi < 32) : OwnerKept s (s.setF f v) := by
  obtain ⟨hstate, howner, htxn⟩ := hregs
  have hbit : (s.setF f v).getF F.CUR_ALERT_STATUS_OWNER = s.getF F.CUR_ALERT_STATUS_OWNER := by
    obtain haddr | ⟨hlo, hle, hhi⟩ := halert
    · exact State.getF_setF_ne s v haddr.symm
    · exact State.getF_setF_disj s v hle hhi (.inr hlo)
  have hkeys (n : Nat) (hn : n < 8) : (s.setF f v).getF (F.KEY_STAGE_KEY n) = s.getF (F.KEY_STAGE_KEY n) := by
    refine State.getF_setF_ne s v ?_
    change 0x130040 + 4 * n ≠ f.addr
    omega
  exact ⟨State.getF_setF_ne s v hstate.symm, State.reg_setF_ne s v howner.symm, hbit, hkeys, State.getF_setF_ne s v htxn.symm, rfl, fun _ => rfl, rfl⟩

theorem OwnerKept.notify (k : NoticeKind) (status port arg : Nat) (s : State) : OwnerKept s (notify k status port arg s) where
  mode := notify_getF (by decide)
  owner := notify_reg (by decide)
  alert := notify_alert (by decide) ..
  stage n hn := notify_getF fun hm => stage_not_mem_notice hn (List.mem_append_right _ hm)
  txn := notify_getF (by decide)
  shadows := congrArg Ctl.shadows (notify_ctl ..)
  dram hf := notify_dram_of_frozen hf ..
  tabs := notify_tabs ..

/-- The lease is no part of it. -/
theorem OwnerKept.lease (s : State) (l : Option Nat) : OwnerKept s { s with ctl := { s.ctl with lease := l } } :=
  ⟨rfl, rfl, rfl, fun _ _ => rfl, rfl, rfl, fun _ => rfl, rfl⟩

theorem OwnerChanged.kept {new : Nat} {s t u : State} (h : OwnerChanged new s t) (hmode : t.mode = s.mode) (k : OwnerKept t u) : OwnerChanged new s u := by
  obtain ⟨howner, hepoch, halert, hstage, hfrozen, htabs⟩ := h
  refine ⟨(State.getF_of_reg k.owner).trans howner, (State.getF_of_reg k.owner).trans hepoch, k.alert.trans halert, fun hf n hn => (k.stage n hn).trans (hstage hf n hn), fun hf => ?_,
    k.tabs.trans htabs⟩
  obtain ⟨hdram, htxn, hshadows⟩ := hfrozen hf
  exact ⟨(k.dram (hmode.trans hf)).trans hdram, k.txn.trans htxn, k.shadows.trans hshadows⟩

/-- A change of owner, and after it what leaves it as it is. -/
theorem ownerChanged_of_kept {new : Nat} (h : new < 4) {s t : State} (k : OwnerKept (changeOwner new s) t) : OwnerChanged new s t ∧ t.mode = s.mode := by
  have hmode : (changeOwner new s).mode = s.mode := (changeOwner_frame new s).1.getF (by decide)
  exact ⟨(ownerChanged_changeOwner h s).kept hmode k, k.mode.trans hmode⟩

end Sys2Proof.Machine

/-! SUPPORT. Ownership commands (R119 to R123): when they are accepted, what they do, and what their command register shows; written to it, or as commands of their own. -/

namespace Sys2Proof.Machine

/-! Which commands the table accepts, and their results (R119, R120). -/

/-- The command register of a master. -/
def ownCmdReg (m : Master) : Nat := if m = .curator then 0x30004 else 0x30100

/-- The table of R119 at the current epoch. -/
abbrev TableAccepts (m : Master) (cmd owner : Nat) : Prop :=
  cmd = 1 ∧ owner = 0 ∨ (cmd = 2 ∨ cmd = 3) ∧ owner = m.code ∨ cmd = 4 ∧ m = .curator ∧ (owner = 1 ∨ owner = 0)

theorem owns_iff (m : Master) (s : State) : s.owns m = true ↔ s.getF F.CUR_OWN_STATUS_OWNER = m.code := beq_iff_eq

theorem ownAccepts_iff (m : Master) (cmd epoch : Nat) (s : State) :
    ownAccepts m cmd epoch s = true ↔ epoch = s.getF F.CUR_OWN_STATUS_EPOCH ∧ TableAccepts m cmd (s.getF F.CUR_OWN_STATUS_OWNER) := by
  unfold ownAccepts
  dsimp only
  split
  case h_5 h1 h2 h3 h4 => simp [TableAccepts, show cmd ≠ 1 from h1, show cmd ≠ 2 from h2, show cmd ≠ 3 from h3, show cmd ≠ 4 from h4]
  all_goals simp [TableAccepts, owns_iff]

theorem ownCommand_accepted {m : Master} {cmd epoch : Nat} {s : State} (h : ownAccepts m cmd epoch s = true) :
    ownCommand m cmd epoch s = ownResult m cmd scOk (ownEffect m cmd s) := if_pos h

theorem ownCommand_denied {m : Master} {cmd epoch : Nat} {s : State} (h : ¬ ownAccepts m cmd epoch s = true) :
    ownCommand m cmd epoch s = { ownResult m cmd scDenied s with detail := 10 } := if_neg h

theorem ownResult_fields {cmd result : Nat} (hc : cmd < 16) (hr : result < 256) (m : Master) (s : State) :
    bitsOf ((ownResult m cmd result s).reg (ownCmdReg m)) 27 24 = cmd ∧ bitsOf ((ownResult m cmd result s).reg (ownCmdReg m)) 23 16 = result := by
  cases m with
  | host =>
    have hlast : (s.setF F.HST_OWN_CMD_LAST_CMD cmd).getF F.HST_OWN_CMD_LAST_CMD = cmd := State.getF_setF_of_lt s (by decide) (by decide) hc
    exact ⟨(State.getF_setF_disj _ (f := F.HST_OWN_CMD_RESULT) result (by decide) (by decide) (by decide)).trans hlast,
      State.getF_setF_of_lt _ (f := F.HST_OWN_CMD_RESULT) (by decide) (by decide) hr⟩
  | curator =>
    have hlast : (s.setF F.CUR_OWN_CMD_LAST_CMD cmd).getF F.CUR_OWN_CMD_LAST_CMD = cmd := State.getF_setF_of_lt s (by decide) (by decide) hc
    exact ⟨(State.getF_setF_disj _ (f := F.CUR_OWN_CMD_RESULT) result (by decide) (by decide) (by decide)).trans hlast,
      State.getF_setF_of_lt _ (f := F.CUR_OWN_CMD_RESULT) (by decide) (by decide) hr⟩

theorem ownResult_frame (m : Master) (cmd result : Nat) (s : State) :
    OnlyRegs [ownCmdReg m] s (ownResult m cmd result s) ∧ OwnerKept s (ownResult m cmd result s) ∧ ∃ r, ownResult m cmd result s = { s with regs := r } := by
  cases m with
  | host => exact ⟨((OnlyRegs.setF s F.HST_OWN_CMD_LAST_CMD cmd).trans (OnlyRegs.setF _ F.HST_OWN_CMD_RESULT result)).mono (by decide),
      (OwnerKept.setF s cmd (by decide) (by decide) (by decide)).trans (OwnerKept.setF _ result (by decide) (by decide) (by decide)), _, rfl⟩
  | curator => exact ⟨((OnlyRegs.setF s F.CUR_OWN_CMD_LAST_CMD cmd).trans (OnlyRegs.setF _ F.CUR_OWN_CMD_RESULT result)).mono (by decide),
      (OwnerKept.setF s cmd (by decide) (by decide) (by decide)).trans (OwnerKept.setF _ result (by decide) (by decide) (by decide)), _, rfl⟩

/-! What an accepted command does (R119, R121, R123). -/

/-- The lease period of a master in ms, as the statements write it. -/
def leasePeriod (m : Master) (s : State) : Nat := if m = .curator then s.getF F.CUR_LEASE_CFG_PERIOD_MS else s.getF F.HST_LEASE_CFG_PERIOD_MS

theorem leaseMs_eq (m : Master) (s : State) : leaseMs m s = leasePeriod m s := by cases m <;> rfl

theorem OnlyRegs.leaseMs {l : List Nat} {s t : State} (h : OnlyRegs l s t) (hl : 0x30008 ∉ l ∧ 0x30104 ∉ l) (m : Master) : leaseMs m t = Machine.leaseMs m s := by
  cases m with
  | host => exact h.getF hl.2
  | curator => exact h.getF hl.1

theorem startLease_changeOwner_lease (m : Master) (new : Nat) (s : State) :
    (startLease m (changeOwner new s)).ctl.lease = some (s.clk.now + leaseMs m s * ms) := by
  obtain ⟨hregs, -, hclk⟩ := changeOwner_frame new s
  calc (startLease m (changeOwner new s)).ctl.lease
    _ = some ((changeOwner new s).clk.now + leaseMs m (changeOwner new s) * ms) := rfl
    _ = _ := by rw [hclk, hregs.leaseMs (by decide) m]

theorem ownerKept_startLease (m : Master) (s : State) : OwnerKept s (startLease m s) := OwnerKept.lease s _
theorem ownerKept_endLease (s : State) : OwnerKept s (endLease s) := OwnerKept.lease s _

theorem Master.code_lt (m : Master) : m.code < 4 := by cases m <;> decide

/-- CLAIM or TAKE gives the issuing master the configuration, with a lease of its period. -/
theorem ownEffect_claim (m : Master) (s : State) :
    (OwnerChanged m.code s (ownEffect m 1 s) ∧ (ownEffect m 1 s).mode = s.mode) ∧ (ownEffect m 1 s).ctl.lease = some (s.clk.now + leaseMs m s * ms) :=
  ⟨ownerChanged_of_kept (Master.code_lt m) (ownerKept_startLease m _), startLease_changeOwner_lease m _ s⟩

theorem ownEffect_release (m : Master) (s : State) : (OwnerChanged 0 s (ownEffect m 3 s) ∧ (ownEffect m 3 s).mode = s.mode) ∧ (ownEffect m 3 s).ctl.lease = none :=
  ⟨ownerChanged_of_kept (by decide) (ownerKept_endLease _), rfl⟩

/-- FORCE does what CLAIM does, and raises its notice. -/
theorem ownEffect_force (m : Master) (s : State) :
    (OwnerChanged m.code s (ownEffect m 4 s) ∧ (ownEffect m 4 s).mode = s.mode) ∧ (ownEffect m 4 s).ctl.lease = some (s.clk.now + leaseMs m s * ms) :=
  ⟨ownerChanged_of_kept (Master.code_lt m) ((ownerKept_startLease m _).trans (OwnerKept.notify ..)),
    (congrArg Ctl.lease (notify_ctl ..)).trans (startLease_changeOwner_lease m _ s)⟩

/-- The owner and the lease after an accepted command. -/
theorem ownEffect_owner_lease {m : Master} {cmd : Nat} {s : State} (h : TableAccepts m cmd (s.getF F.CUR_OWN_STATUS_OWNER)) :
    (ownEffect m cmd s).getF F.CUR_OWN_STATUS_OWNER = (if cmd = 3 then 0 else m.code) ∧
      (ownEffect m cmd s).ctl.lease = (if cmd = 3 then none else some (s.clk.now + leaseMs m s * ms)) := by
  rcases h with ⟨rfl, -⟩ | ⟨rfl | rfl, howner⟩ | ⟨rfl, -, -⟩
  · obtain ⟨⟨⟨howner, -⟩, -⟩, hlease⟩ := ownEffect_claim m s
    exact ⟨howner, hlease⟩
  · exact ⟨howner, rfl⟩
  · obtain ⟨⟨⟨howner, -⟩, -⟩, hlease⟩ := ownEffect_release m s
    exact ⟨howner, hlease⟩
  · obtain ⟨⟨⟨howner, -⟩, -⟩, hlease⟩ := ownEffect_force m s
    exact ⟨howner, hlease⟩

/-! A write to the command register. -/

theorem answers_cur {s : State} {a : Nat} (h : 0x30000 ≤ a) (h' : a < 0x40000) : answers a s = true := by
  simp [answers, aonReg, h, h']

theorem frozenShut_cur {s : State} {a : Nat} (h : 0x30000 ≤ a) (h' : a < 0x40000) : frozenShut a s = false := by
  simp [frozenShut, h, h']

/-- A write to a plain register of the CUR and HST blocks, which answer and take writes in every state (R36, R512). -/
theorem busWrite_cur {a : Nat} {r : RegSpec} {m : Master} {w : Word} {s : State} (h : PlainReg a r) (hl : 0x30000 ≤ a) (hh : a < 0x40000) :
    busWrite m a w s = writeReg m a r w s.noDetail := by
  obtain ⟨h4, hc, hu, hx, hr⟩ := h
  have hun : unassigned a = false := by simp [unassigned]; omega
  have hw : ¬ 0x200000 ≤ a := by omega
  have hword : writeWord m a w s.noDetail = gatedWrite m a (writeReg m a r w) s.noDetail := by
    simp [writeWord, hc, hun, hw, hx, hr]
  have hopen := gatedWrite_open (m := m) (f := writeReg m a r w) (s := s.noDetail) (answers_cur hl hh) (frozenShut_cur hl hh)
  rw [← hopen, ← hword]
  simp [busWrite, h4, State.noDetail]

/-- The row of an ownership command register. -/
def ownCmdRow (a : Nat) : RegSpec := ⟨a, 4, 1, 4, 1, false, 0, 0, 0, 0xF000FFFF#32, 0, 0xFFFFFFFF#32⟩

theorem ownCmd_plain (m : Master) : PlainReg (ownCmdReg m) (ownCmdRow (ownCmdReg m)) := by
  cases m <;> decide

theorem busWrite_ownCmd (m : Master) (w : Word) (s : State) : busWrite m (ownCmdReg m) w s = ownCommand m (bitsOf w 31 28) (bitsOf w 15 0) s.noDetail := by
  have hlo : 0x30000 ≤ ownCmdReg m := by cases m <;> decide
  have hhi : ownCmdReg m < 0x40000 := by cases m <;> decide
  rw [busWrite_cur (ownCmd_plain m) hlo hhi]
  cases m <;> rfl

theorem exec_registerWrite_ownCmd (dt : Nat) (m : Master) (a : BitVec 24) (ha : a.toNat = ownCmdReg m) (w : Word) (s : State) :
    exec (.registerWrite dt m a w false false) s = .next (ownCommand m (bitsOf w 31 28) (bitsOf w 15 0) (s.elapse dt).noDetail) := by
  have hexec : exec (.registerWrite dt m a w false false) s = .next (busWrite m a.toNat w (s.elapse dt).noDetail) := rfl
  rw [hexec, ha, busWrite_ownCmd]
  rfl

/-- Settles O24: what the table accepts takes effect with OK, and all else is DENIED with nothing but its result. -/
theorem ownCommandWrites : Obligations.OwnCommandWrites := by
  intro dt m w s a cmd owner
  have ha : a.toNat = ownCmdReg m := by cases m <;> rfl
  have hcmd : cmd < 16 := Nat.mod_lt _ (by decide)
  refine ⟨_, exec_registerWrite_ownCmd dt m a ha w s, ?_⟩
  rw [ha]
  by_cases h : ownAccepts m cmd (bitsOf w 15 0) (s.elapse dt).noDetail = true
  · have haccept := (ownAccepts_iff ..).1 h
    obtain ⟨howner, hlease⟩ := ownEffect_owner_lease haccept.right
    obtain ⟨hlast, hresult⟩ := ownResult_fields hcmd (result := scOk) (by decide) m (ownEffect m cmd (s.elapse dt).noDetail)
    obtain ⟨-, hkept, r, hr⟩ := ownResult_frame m cmd scOk (ownEffect m cmd (s.elapse dt).noDetail)
    rw [ownCommand_accepted h]
    refine ⟨hlast, (if_pos haccept).mpr ⟨hresult, (State.getF_of_reg hkept.owner).trans howner, ?_⟩⟩
    rw [hr]
    refine hlease.trans ?_
    rw [leaseMs_eq]
    rfl
  · obtain ⟨hlast, hresult⟩ := ownResult_fields hcmd (result := scDenied) (by decide) m (s.elapse dt).noDetail
    obtain ⟨hregs, -, r, hr⟩ := ownResult_frame m cmd scDenied (s.elapse dt).noDetail
    rw [ownCommand_denied h]
    refine ⟨hlast, (if_neg (mt (ownAccepts_iff ..).2 h)).mpr ⟨hresult, ?_, hregs, ?_, ?_⟩⟩
    all_goals rw [hr]; rfl

end Sys2Proof.Machine

/-! SUPPORT. The entry into the safe state, and the lapse of the lease (R121 to R123, R491 to R496). -/

namespace Sys2Proof.Machine

/-! The entry into the safe state (R491). -/

/-- SAFE_HOLD with SAFE_N asserted, before OWN_N, the transaction and the notice. -/
def safeAsserted (i : Nat) (s : State) : State :=
  let t := (assertSafe (quietPorts (addCause i s))).setF F.SAF_STATUS_SAFE 1
  { t with saf := { t.saf with fromAuto := s.mode == stAutonomous } }

/-- OWN_N handed over, the entry counted, and the transaction discarded. -/
def safeHandedOver (s : State) : State := discardTxn (abandonTakeover ((handOver s).incF (F.SAF_CNT_COUNT 0)))

theorem enterSafeFresh_eq (i : Nat) (s : State) : ∃ arg, enterSafeFresh i s = armFreeze i (notify N.SAFE_ENTER scSafeHold 0 arg (safeHandedOver (safeAsserted i s))) :=
  ⟨_, rfl⟩

/-- From `s` to `t` the state of the device, SAF_STATUS, the pins and the lease stand. -/
structure SafeKept (s t : State) : Prop where
  state : t.reg 0x4 = s.reg 0x4
  safe : t.reg 0x170000 = s.reg 0x170000
  pins : t.pins = s.pins
  lease : t.ctl.lease = s.ctl.lease

theorem SafeKept.trans {s t u : State} (h : SafeKept s t) (k : SafeKept t u) : SafeKept s u :=
  ⟨k.state.trans h.state, k.safe.trans h.safe, k.pins.trans h.pins, k.lease.trans h.lease⟩

theorem SafeKept.of_onlyRegs {l : List Nat} {s t : State} (h : OnlyRegs l s t) (hl : 0x4 ∉ l ∧ 0x170000 ∉ l) (hp : t.pins = s.pins) (hc : t.ctl = s.ctl) :
    SafeKept s t := ⟨h _ hl.1, h _ hl.2, hp, by rw [hc]⟩

theorem releaseOwnN_frame (s : State) : OnlyRegs [0x168000, 0x160004] s (releaseOwnN s) ∧ ∃ r p, releaseOwnN s = { s with regs := r, pair := p } := by
  unfold releaseOwnN
  extract_lets u
  have hline : OnlyRegs ([0x168000] ++ [0x168000]) s u := (OnlyRegs.setF s F.PAR_HB_STATUS_OWN_DRIVE 0).trans (OnlyRegs.setF _ F.PAR_HB_STATUS_OWN_LINE _)
  by_cases h : u.mode = stFrozen
  · rw [if_pos h]
    exact ⟨(hline.trans (OnlyRegs.updPair u _)).mono (by decide), _, _, rfl⟩
  · rw [if_neg h]
    exact ⟨((hline.trans (OnlyRegs.setF u F.PAR_STATUS_CONFIRMED 0)).trans (OnlyRegs.updPair _ _)).mono (by decide), _, _, rfl⟩

theorem safeKept_handOver (s : State) : SafeKept s (handOver s) := by
  obtain ⟨p, hp⟩ := requestTakeover_parts s
  have hreq : SafeKept s (requestTakeover s) := SafeKept.of_onlyRegs (OnlyRegs.requestTakeover s) (by decide) (by rw [hp]) (by rw [hp])
  obtain ⟨hregs, r, q, hq⟩ := releaseOwnN_frame (requestTakeover s)
  unfold handOver
  dsimp only
  split
  · exact hreq.trans (SafeKept.of_onlyRegs hregs (by decide) (by rw [hq]) (by rw [hq]))
  · exact hreq

theorem safeKept_rollback (result : Nat) (s : State) : SafeKept s (rollback result s) := by
  have hregs := OnlyRegs.rollback result s
  obtain ⟨hctl, -, hpins, -⟩ := rollback_rest result s
  exact ⟨hregs _ (by decide), hregs _ (by decide), hpins, by rw [hctl]⟩

theorem safeKept_safeHandedOver (s : State) : SafeKept s (safeHandedOver s) := by
  have hcount : SafeKept (handOver s) (abandonTakeover ((handOver s).incF (F.SAF_CNT_COUNT 0))) :=
    SafeKept.of_onlyRegs ((OnlyRegs.setF (handOver s) (F.SAF_CNT_COUNT 0) _).trans (OnlyRegs.updPair _ _)) (by decide) rfl rfl
  have hbefore := (safeKept_handOver s).trans hcount
  unfold safeHandedOver discardTxn
  split
  · exact hbefore
  · exact hbefore.trans (safeKept_rollback scDenied _)

theorem safeKept_armFreeze (i : Nat) (s : State) : SafeKept s (armFreeze i s) := by
  unfold armFreeze
  split <;> exact ⟨rfl, rfl, rfl, rfl⟩

theorem addCause_parts (i : Nat) (s : State) : ∃ r, addCause i s = { s with regs := r } := by
  unfold addCause
  split <;> exact ⟨_, rfl⟩

/-- The device in the safe state, with the lease as it was. -/
theorem safeAsserted_fields (i : Nat) (s : State) :
    (safeAsserted i s).mode = stSafeHold ∧ (safeAsserted i s).getF F.SAF_STATUS_SAFE = 1 ∧ (safeAsserted i s).pins.safeN = true ∧
      (safeAsserted i s).ctl.lease = s.ctl.lease := by
  obtain ⟨r, hr⟩ := addCause_parts i s
  have hquiet := (FarKept.refl (addCause i s)).quietPorts.ctl
  obtain ⟨hmode, -⟩ := assertSafe_fields (quietPorts (addCause i s))
  have hset := OnlyRegs.setF (assertSafe (quietPorts (addCause i s))) F.SAF_STATUS_SAFE 1
  have hmark : OnlyRegs [] ((assertSafe (quietPorts (addCause i s))).setF F.SAF_STATUS_SAFE 1) (safeAsserted i s) := OnlyRegs.of_regs [] rfl
  refine ⟨((hset.trans hmark).getF (by decide)).trans hmode, ?_, rfl, ?_⟩
  · exact (hmark.getF List.not_mem_nil).trans (State.getF_setF_of_lt _ (by decide) (by decide) (by decide))
  · calc (safeAsserted i s).ctl.lease
      _ = (quietPorts (addCause i s)).ctl.lease := rfl
      _ = s.ctl.lease := by rw [hquiet, hr]

theorem enterSafeFresh_fields (i : Nat) (s : State) :
    (enterSafeFresh i s).mode = stSafeHold ∧ (enterSafeFresh i s).getF F.SAF_STATUS_SAFE = 1 ∧ (enterSafeFresh i s).pins.safeN = true ∧
      (enterSafeFresh i s).ctl.lease = s.ctl.lease := by
  obtain ⟨arg, heq⟩ := enterSafeFresh_eq i s
  obtain ⟨hmode, hsafe, hpin, hlease⟩ := safeAsserted_fields i s
  have hnote : SafeKept (safeHandedOver (safeAsserted i s)) (notify N.SAFE_ENTER scSafeHold 0 arg (safeHandedOver (safeAsserted i s))) :=
    SafeKept.of_onlyRegs (OnlyRegs.notify _ _ _ _ _) (by decide) (notify_pins ..) (notify_ctl ..)
  have hkept := ((safeKept_safeHandedOver (safeAsserted i s)).trans hnote).trans (safeKept_armFreeze i _)
  rw [heq]
  exact ⟨(State.getF_of_reg hkept.state).trans hmode, (State.getF_of_reg hkept.safe).trans hsafe, by rw [hkept.pins]; exact hpin, hkept.lease.trans hlease⟩

theorem enterSafe_of_autonomous {i : Nat} {s : State} (hsafe : s.getF F.SAF_STATUS_SAFE = 0) (hauto : s.mode = stAutonomous) : enterSafe i s = enterSafeFresh i s := by
  have h : ¬ s.getF F.SAF_STATUS_SAFE = 1 := by omega
  exact (if_neg h).trans (if_pos (.inl hauto))

/-! The lapse of the lease (R121 to R123). -/

/-- The owner NONE without a lease, with the alert bit and the notice of the lapse, before the reaction that SAF_CFG selects. -/
def leaseLapsed (arg : Nat) (s : State) : State := notify N.LEASE_LAPSE scTimeout 0 arg ((endLease (changeOwner 0 s)).setF F.CUR_ALERT_STATUS_LAPSE 1)

theorem leaseLapse_eq (s : State) : ∃ arg, leaseLapse s =
    if (leaseLapsed arg s).mode = stFrozen then leaseLapsed arg s else safeOrReport ((leaseLapsed arg s).getF F.SAF_CFG_ACT_H == 1) 6 (leaseLapsed arg s) := ⟨_, rfl⟩

theorem leaseLapsed_fields (arg : Nat) (s : State) :
    OwnerChanged 0 s (leaseLapsed arg s) ∧ (leaseLapsed arg s).ctl.lease = none ∧ (leaseLapsed arg s).getF F.CUR_ALERT_STATUS_LAPSE = 1 ∧
      OnlyRegs (ownerRegs ++ noticeRegs) s (leaseLapsed arg s) := by
  have hkept : OwnerKept (changeOwner 0 s) (leaseLapsed arg s) :=
    ((ownerKept_endLease _).trans (OwnerKept.setF _ 1 (by decide) (by decide) (by decide))).trans (OwnerKept.notify ..)
  have hlapse : ((endLease (changeOwner 0 s)).setF F.CUR_ALERT_STATUS_LAPSE 1).getF F.CUR_ALERT_STATUS_LAPSE = 1 :=
    State.getF_setF_of_lt _ (by decide) (by decide) (by decide)
  have hend : OnlyRegs [] (changeOwner 0 s) (endLease (changeOwner 0 s)) := OnlyRegs.of_regs [] rfl
  have hregs := (((changeOwner_frame 0 s).1.trans hend).trans (OnlyRegs.setF _ F.CUR_ALERT_STATUS_LAPSE 1)).trans (OnlyRegs.notify N.LEASE_LAPSE scTimeout 0 arg _)
  exact ⟨(ownerChanged_of_kept (by decide) hkept).1, congrArg Ctl.lease (notify_ctl ..), (notify_alert (by decide) ..).trans hlapse, hregs.mono (by decide)⟩

/-- With REPORT the lapse is counted, and the device goes on (R496); in FROZEN nothing more happens (R511). -/
theorem leaseLapse_reports {s : State} (h : s.getF F.SAF_CFG_ACT_H = 1) :
    OwnerChanged 0 s (leaseLapse s) ∧ (leaseLapse s).ctl.lease = none ∧ (leaseLapse s).getF F.CUR_ALERT_STATUS_LAPSE = 1 ∧ (leaseLapse s).mode = s.mode := by
  obtain ⟨arg, heq⟩ := leaseLapse_eq s
  obtain ⟨hchanged, hlease, hlapse, hregs⟩ := leaseLapsed_fields arg s
  have hmode : (leaseLapsed arg s).mode = s.mode := hregs.getF (by decide)
  have hreport : ((leaseLapsed arg s).getF F.SAF_CFG_ACT_H == 1) = true := beq_iff_eq.2 ((hregs.getF (by decide)).trans h)
  rw [heq, hreport]
  generalize leaseLapsed arg s = t at hchanged hlease hlapse hmode ⊢
  split
  · exact ⟨hchanged, hlease, hlapse, hmode⟩
  · have hcount : OwnerKept t (t.incF (F.SAF_CNT_COUNT 3)) := OwnerKept.setF t _ (by decide) (by decide) (by decide)
    exact ⟨hchanged.kept hmode hcount, hlease, (State.getF_setF_ne t _ (by decide)).trans hlapse, hcount.mode.trans hmode⟩

/-- Without REPORT the lapse leads from AUTONOMOUS to the safe state (R490, R496). -/
theorem leaseLapse_safe {s : State} (h : s.getF F.SAF_CFG_ACT_H ≠ 1) (hauto : s.mode = stAutonomous) (hsafe : s.getF F.SAF_STATUS_SAFE = 0) :
    (leaseLapse s).ctl.lease = none ∧ (leaseLapse s).mode = stSafeHold ∧ (leaseLapse s).getF F.SAF_STATUS_SAFE = 1 ∧ (leaseLapse s).pins.safeN = true := by
  obtain ⟨arg, heq⟩ := leaseLapse_eq s
  obtain ⟨-, hlease, -, hregs⟩ := leaseLapsed_fields arg s
  have hmode : (leaseLapsed arg s).mode = stAutonomous := (hregs.getF (by decide)).trans hauto
  have hact : ((leaseLapsed arg s).getF F.SAF_CFG_ACT_H == 1) = false := beq_eq_false_iff_ne.2 fun he => h ((hregs.getF (by decide)).symm.trans he)
  have hrunning : ¬ (leaseLapsed arg s).mode = stFrozen := by rw [hmode]; decide
  have henter : leaseLapse s = enterSafeFresh 6 (leaseLapsed arg s) := by
    rw [heq, if_neg hrunning, hact]
    exact enterSafe_of_autonomous ((hregs.getF (by decide)).trans hsafe) hmode
  obtain ⟨hhold, hset, hpin, hkept⟩ := enterSafeFresh_fields 6 (leaseLapsed arg s)
  rw [henter]
  exact ⟨hkept.trans hlease, hhold, hset, hpin⟩

/-! Ownership commands as commands of their own. -/

section
variable {dt : Nat} {s : State}

theorem exec_leaseLapse {d : Nat} (hlease : s.ctl.lease = some d) (hd : d ≤ s.clk.now + dt) : exec (.leaseLapse dt) s = .next (leaseLapse (s.elapse dt)) := by
  have hlease' : (s.elapse dt).ctl.lease = some d := hlease
  change execLeaseLapse dt s = _
  simp only [execLeaseLapse, hlease']
  exact if_pos hd

/-- The current epoch as the operand of a command. -/
def epochOf (s : State) : BitVec 16 := BitVec.ofNat 16 (s.getF F.CUR_OWN_STATUS_EPOCH)

theorem epochOf_toNat (s : State) : (epochOf s).toNat = s.getF F.CUR_OWN_STATUS_EPOCH :=
  (BitVec.toNat_ofNat ..).trans (Nat.mod_eq_of_lt (State.getF_lt s F.CUR_OWN_STATUS_EPOCH))

/-- A command of the current epoch that the table accepts. -/
theorem ownCommand_epochOf {m : Master} {cmd : Nat} (h : TableAccepts m cmd (s.getF F.CUR_OWN_STATUS_OWNER)) :
    ownCommand m cmd (epochOf s).toNat (s.elapse dt) = ownResult m cmd scOk (ownEffect m cmd (s.elapse dt)) :=
  ownCommand_accepted ((ownAccepts_iff m cmd _ (s.elapse dt)).2 ⟨epochOf_toNat s, h⟩)

/-- What an accepted command that changes the owner leaves, with its result. -/
theorem ownCommand_changes {m : Master} {cmd new : Nat} {l : Option Nat} (hc : cmd < 16) (h : TableAccepts m cmd (s.getF F.CUR_OWN_STATUS_OWNER))
    (heffect : (OwnerChanged new (s.elapse dt) (ownEffect m cmd (s.elapse dt)) ∧ (ownEffect m cmd (s.elapse dt)).mode = (s.elapse dt).mode) ∧
      (ownEffect m cmd (s.elapse dt)).ctl.lease = l) :
    let t := ownCommand m cmd (epochOf s).toNat (s.elapse dt)
    OwnerChanged new s t ∧ bitsOf (t.reg (ownCmdReg m)) 23 16 = 0 ∧ bitsOf (t.reg (ownCmdReg m)) 27 24 = cmd ∧ t.ctl.lease = l := by
  obtain ⟨hlast, hresult⟩ := ownResult_fields hc (result := scOk) (by decide) m (ownEffect m cmd (s.elapse dt))
  obtain ⟨-, hkept, r, hr⟩ := ownResult_frame m cmd scOk (ownEffect m cmd (s.elapse dt))
  obtain ⟨⟨hchanged, hmode⟩, hlease⟩ := heffect
  rw [ownCommand_epochOf h]
  exact ⟨hchanged.kept hmode hkept, hresult, hlast, by rw [hr]; exact hlease⟩

/-- The lease of a master from the command on, as the statement writes it. -/
theorem lease_elapse (m : Master) :
    some ((s.elapse dt).clk.now + leaseMs m (s.elapse dt) * ms) = some (s.clk.now + dt + leasePeriod m s * ms) := by
  rw [leaseMs_eq]
  rfl

/-- REFRESH moves the deadline and changes nothing else but its result. -/
theorem ownCommand_refresh {m : Master} (ho : s.owns m = true) :
    let t := ownCommand m 2 (epochOf s).toNat (s.elapse dt)
    t.ctl.lease = some (s.clk.now + dt + leasePeriod m s * ms) ∧ OnlyRegs [ownCmdReg m] s t ∧ t.dram = s.dram ∧ t.tabs = s.tabs := by
  have haccept : TableAccepts m 2 (s.getF F.CUR_OWN_STATUS_OWNER) := .inr (.inl ⟨.inl rfl, (owns_iff m s).1 ho⟩)
  obtain ⟨hregs, -, r, hr⟩ := ownResult_frame m 2 scOk (ownEffect m 2 (s.elapse dt))
  have hstart : OnlyRegs [] s (ownEffect m 2 (s.elapse dt)) := OnlyRegs.of_regs [] rfl
  rw [ownCommand_epochOf haccept]
  refine ⟨?_, hstart.trans hregs, ?_, ?_⟩
  all_goals rw [hr]
  · exact lease_elapse m
  · rfl
  · rfl

end

/-- Settles O25: the commands by what the table accepts, the lapse by the reaction selected. -/
theorem ownershipCommands : Obligations.OwnershipCommands := by
  intro dt s epoch owner changed
  refine ⟨fun hnone => ⟨_, rfl, ?_⟩, fun hnone => ⟨_, rfl, ?_⟩, fun hother => ⟨_, rfl, ?_⟩, fun m ho => ⟨⟨_, rfl, ?_⟩, ⟨_, rfl, ?_⟩⟩, ?_, ?_⟩
  · obtain ⟨hchanged, hresult, hlast, hlease⟩ := ownCommand_changes (dt := dt) (m := .host) (by decide) (.inl ⟨rfl, hnone⟩) (ownEffect_claim .host (s.elapse dt))
    exact ⟨hchanged, hresult, hlast, hlease.trans (lease_elapse .host)⟩
  · obtain ⟨hchanged, hresult, hlast, hlease⟩ := ownCommand_changes (dt := dt) (m := .curator) (by decide) (.inl ⟨rfl, hnone⟩) (ownEffect_claim .curator (s.elapse dt))
    exact ⟨hchanged, hresult, hlast, hlease.trans (lease_elapse .curator)⟩
  · obtain ⟨hchanged, hresult, hlast, hlease⟩ := ownCommand_changes (dt := dt) (m := .curator) (by decide) (.inr (.inr ⟨rfl, rfl, hother.symm⟩))
      (ownEffect_force .curator (s.elapse dt))
    exact ⟨hchanged, hresult, hlast, hlease.trans (lease_elapse .curator)⟩
  · exact ownCommand_refresh ho
  · obtain ⟨hchanged, -, -, hlease⟩ := ownCommand_changes (dt := dt) (by decide) (.inr (.inl ⟨.inr rfl, (owns_iff m s).1 ho⟩)) (ownEffect_release m (s.elapse dt))
    exact ⟨hchanged, hlease⟩
  · intro d hlease hd hreport
    exact ⟨_, exec_leaseLapse hlease hd, leaseLapse_reports (s := s.elapse dt) hreport⟩
  · intro d hlease hd hsafe hauto hfree
    exact ⟨_, exec_leaseLapse hlease hd, leaseLapse_safe (s := s.elapse dt) hsafe hauto hfree⟩

end Sys2Proof.Machine

/-! SUPPORT. Two states of the Curator port that the statements about its executor and its marks do not leave out: a captured CUR_OWN_STATUS, and a reserved bit of
CUR_FIFO_CFG that is set (R10, R17). -/

namespace Sys2Proof.Machine

/-! The executor's READ (R140). -/

/-- A READ of the header `h` from address `a`, executed: its words leave the command FIFO, and its response is put into the response FIFO. -/
def readExecuted (h : Word) (a : Nat) (s : State) : State :=
  let p := readMany a (hdrCount h) (dropCmd 2 s)
  curPins (respond h scOk 0 0 p.1 p.2)

theorem exec_curCmdRead {dt a : Nat} {h : Word} {body : List Word} {s : State} (hhead : headCmd s = some (h, a, body)) (hread : hdrCmd h = 1)
    (hroom : rspRoom (2 + hdrCount h) s = true) : exec (.curCmdRead dt) s = .next (readExecuted h a (s.elapse dt)) := by
  have hhead' : headCmd (s.elapse dt) = some (h, a, body) := hhead
  have htakes : (hdrCmd h == 1 && rspRoom (2 + hdrCount h) (s.elapse dt)) = true := Bool.and_eq_true_iff.2 ⟨beq_iff_eq.2 hread, hroom⟩
  change execCurCmdRead dt s = _
  simp only [execCurCmdRead, hhead']
  exact if_pos htakes

/-- A word captured for the curator at the address of CUR_OWN_STATUS, which belongs to no wide value. -/
def statusCaptured : State := { State.reset with cap1 := ⟨[(0x30000, 0x7180#32)]⟩ }

/-- The same with the READ of CUR_OWN_STATUS in the command FIFO. -/
def statusRequested : State := { statusCaptured with cur := { statusCaptured.cur with cmd := [(0x01000100#32, 0), (0x30000#32, 0)] } }

theorem statusRequested_head : headCmd statusRequested = some (0x01000100#32, 0x30000, []) ∧ rspRoom 3 statusRequested = true := by decide

/-- The response carries the captured word, where the register shows owner DEVICE and epoch 0. -/
theorem statusRequested_response : (readExecuted 0x01000100#32 0x30000 (statusRequested.elapse 0)).cur.rsp = [3#32, 0x01000000#32, 0x7180#32] ∧
    statusCaptured.reg 0x30000 &&& 0xC000FFFF#32 = 0xC0000000#32 := by decide

/-- Refutes O29: a read gives the captured word where one is held for its address (R17), and the READ of CUR_OWN_STATUS then answers that word and not the register's.
The statement speaks of every state, this one too. -/
theorem not_curatorExecutor : ¬ Obligations.CuratorExecutor := by
  intro h
  obtain ⟨hread, -⟩ := h 0 0 0#8 [] statusCaptured
  obtain ⟨hhead, hroom⟩ := statusRequested_head
  obtain ⟨hresponse, hvalue⟩ := statusRequested_response
  obtain ⟨hclaim, -⟩ := (hread statusRequested rfl hroom).of_exec (exec_curCmdRead hhead (by decide) hroom)
  rw [hresponse, hvalue] at hclaim
  exact absurd hclaim (by decide)

/-! The marks (R146). -/

/-- A reserved bit of CUR_FIFO_CFG set, which no write reaches. -/
def marksReserved : State := { State.reset with regs := [(0x30010, 0x80000000#32)] }

theorem exec_curFifoCfgWrite (dt : Nat) (m : Master) (w : Word) (s : State) : exec (.curFifoCfgWrite dt m w) s = .next (curPins (busWrite m 0x30010 w (s.elapse dt))) := rfl

/-- The marks CMD_HIGH 1, CMD_LOW 0, RSP_HIGH 1 and RSP_LOW 0 are taken beside the reserved bit. -/
theorem marksReserved_written : (curPins (busWrite .curator 0x30010 0x01000100#32 (marksReserved.elapse 0))).reg 0x30010 = 0x81000100#32 := by decide

/-- Refutes O30: the write of marks leaves a reserved bit of CUR_FIFO_CFG as it is (R10), so that the register does not equal the word written.
The statement speaks of every state, this one too. -/
theorem not_fifoWatermarks : ¬ Obligations.FifoWatermarks := by
  intro h
  obtain ⟨hwrite, -⟩ := h 0 1 0 1 0 marksReserved (by decide) (by decide) (by decide) (by decide) (by decide) (by decide)
  obtain ⟨hclaim, -⟩ := hwrite.of_exec (exec_curFifoCfgWrite ..)
  have hwritten := marksReserved_written.symm.trans hclaim
  exact absurd hwritten (by decide)

end Sys2Proof.Machine

/-! SUPPORT. What the engines behind the radio leave of its ports: when a port goes blank, when its command ends and when one launches, receptions, downlinks, acknowledgements,
receipts, associations and the journal follow (R155, R159, R194), and none of them writes TOP_STATUS or a register of a port below its receiver's, changes a port or lets time
pass. The way through the definitions is that of LowKept and FarKept, which speak of other parts. -/

namespace Sys2Proof.Machine

/-- TOP_STATUS, and of each port the registers below those of its receiver, 0x000 to 0x0FF of its 32 KiB (R150 to R174). -/
@[reducible] def frontReg (a : Nat) : Prop := a = 0x4 ∨ 0x40000 ≤ a ∧ a < 0xC0000 ∧ a % 0x8000 < 0x100

/-- These registers, the ports beside them and the clocks are in `s` as they are in `s0`. -/
structure FrontKept (s0 s : State) : Prop where
  reg : ∀ a, frontReg a → s.reg a = s0.reg a
  parts : (s.ports, s.clk) = (s0.ports, s0.clk)

section
variable {s0 s t : State}

theorem FrontKept.refl (s : State) : FrontKept s s := ⟨fun _ _ => rfl, rfl⟩

theorem FrontKept.trans (h : FrontKept s0 s) (k : FrontKept s t) : FrontKept s0 t :=
  ⟨fun a ha => (k.reg a ha).trans (h.reg a ha), k.parts.trans h.parts⟩

theorem FrontKept.clk (h : FrontKept s0 s) : s.clk = s0.clk := congrArg Prod.snd h.parts
theorem FrontKept.port (h : FrontKept s0 s) (n : Nat) : s.port n = s0.port n :=
  congrArg (fun p : Sparse Port × Clocks => Sparse.get (fun _ => Port.reset) p.1 n) h.parts
theorem FrontKept.getF (h : FrontKept s0 s) {a hi lo : Nat} (ha : frontReg a) : s.getF ⟨a, hi, lo⟩ = s0.getF ⟨a, hi, lo⟩ := State.getF_of_reg (h.reg a ha)

/-- What touches none of these parts. -/
theorem FrontKept.congr (h : FrontKept s0 s) (hp : (t.regs, t.ports, t.clk) = (s.regs, s.ports, s.clk)) : FrontKept s0 t :=
  h.trans ⟨fun a _ => congrArg (fun p : Sparse Word × Sparse Port × Clocks => Sparse.get resetWord p.1 a) hp, congrArg Prod.snd hp⟩

theorem FrontKept.setReg (h : FrontKept s0 s) {a : Nat} {w : Word} (ha : ¬ frontReg a) : FrontKept s0 (s.setReg a w) :=
  h.trans ⟨fun _ hb => State.reg_setReg_ne s w fun e => ha (e ▸ hb), rfl⟩

theorem FrontKept.setF (h : FrontKept s0 s) {a hi lo v : Nat} (ha : ¬ frontReg a) : FrontKept s0 (s.setF ⟨a, hi, lo⟩ v) := h.setReg ha
theorem FrontKept.incF (h : FrontKept s0 s) {a hi lo : Nat} (ha : ¬ frontReg a) : FrontKept s0 (s.incF ⟨a, hi, lo⟩) := h.setF ha
theorem FrontKept.set64 (h : FrontKept s0 s) {a hi lo a' hi' lo' v : Nat} (ha : ¬ frontReg a) (ha' : ¬ frontReg a') :
    FrontKept s0 (s.set64 ⟨a, hi, lo⟩ ⟨a', hi', lo'⟩ v) := (h.setF ha).setF ha'

theorem FrontKept.emit (h : FrontKept s0 s) {o : Out} : FrontKept s0 (s.emit o) := h.congr (by rfl)
theorem FrontKept.updPair (h : FrontKept s0 s) {f : Pair → Pair} : FrontKept s0 (s.updPair f) := h.congr (by rfl)
theorem FrontKept.updSlt (h : FrontKept s0 s) {f : Slots → Slots} : FrontKept s0 (s.updSlt f) := h.congr (by rfl)
theorem FrontKept.setDl (h : FrontKept s0 s) {i : Nat} {d : Option Dl} : FrontKept s0 (s.setDl i d) := h.congr (by rfl)
theorem FrontKept.setAcc (h : FrontKept s0 s) {i : Nat} {a : Option Accept} : FrontKept s0 (s.setAcc i a) := h.congr (by rfl)

theorem FrontKept.notify (h : FrontKept s0 s) {k : NoticeKind} {status port arg : Nat} : FrontKept s0 (notify k status port arg s) :=
  h.trans ⟨fun a ha => notify_reg (by simp only [List.mem_cons, List.not_mem_nil, or_false]; omega), by rw [notify_ports, notify_clk]⟩

theorem FrontKept.ite {c : Prop} [Decidable c] (h : FrontKept s0 s) (k : FrontKept s0 t) : FrontKept s0 (if c then s else t) := by
  split <;> assumption

theorem FrontKept.thenIf {c : Prop} [Decidable c] (h : FrontKept s0 s) (hf : FrontKept s0 s → FrontKept s0 t) : FrontKept s0 (if c then t else s) := (hf h).ite h
theorem FrontKept.unless {c : Prop} [Decidable c] (h : FrontKept s0 s) (hf : FrontKept s0 s → FrontKept s0 t) : FrontKept s0 (if c then s else t) := h.ite (hf h)

theorem FrontKept.foldl {α : Type} {f : State → α → State} {l : List α} (h : FrontKept s0 s) (hf : ∀ t e, FrontKept s0 t → FrontKept s0 (f t e)) :
    FrontKept s0 (l.foldl f s) := by
  induction l generalizing s with
  | nil => exact h
  | cons e l ih => exact ih (hf s e h)

/-! Receptions that end (R150, R194). -/

theorem FrontKept.noteLow (h : FrontKept s0 s) : FrontKept s0 (noteLow s) := (h.congr (by rfl)).notify.ite ((h.congr (by rfl)).ite h)

theorem FrontKept.poolFree (h : FrontKept s0 s) {i : Nat} : FrontKept s0 (poolFree i s) :=
  h.ite ((FrontKept.noteLow ((h.congr (by rfl)).incF (by omega))).ite (h.congr (by rfl)))

theorem FrontKept.syncPool (h : FrontKept s0 s) {n : Nat} : FrontKept s0 (syncPool n s) :=
  (((h.setF (by omega)).setF (by omega)).setF (by omega)).thenIf (·.setF (by omega))

theorem FrontKept.releaseDemod (h : FrontKept s0 s) {n d : Nat} {handedOn : Bool} : FrontKept s0 (releaseDemod n d handedOn s) := by
  unfold Machine.releaseDemod
  split
  · exact h
  · dsimp only
    split
    · exact (h.congr (by rfl)).syncPool.unless (·.poolFree)
    · exact (h.congr (by rfl)).syncPool

theorem FrontKept.failRx (h : FrontKept s0 s) {n d : Nat} : FrontKept s0 (failRx n d roBlanked s) := by
  have hcounter : ¬ frontReg (0x40180 + 32768 * n + 4 * roCounter roBlanked) := by
    have hblanked : roCounter roBlanked = 7 := rfl
    omega
  unfold Machine.failRx
  split
  · exact h
  · exact ((h.incF hcounter).setReg (by omega)).releaseDemod

theorem FrontKept.blankPort (h : FrontKept s0 s) {n : Nat} : FrontKept s0 (blankPort n s) := h.foldl fun _ _ k => k.failRx

/-! The catalogue's entries and the energy ledger (R271, R272, R281). -/

theorem FrontKept.setEntry (h : FrontKept s0 s) {nix : Nat} {b : List Byte} : FrontKept s0 (setEntry nix b s) :=
  (((h.congr (by rfl)).setF (by omega)).setF (by omega)).setF (by omega)

theorem FrontKept.withStrain (h : FrontKept s0 s) {nix : Nat} {e : List Byte} : FrontKept s0 (withStrain nix e s) := h.setEntry.thenIf (·.setF (by omega))

theorem FrontKept.charge (h : FrontKept s0 s) {nix nc : Nat} : FrontKept s0 (charge nix nc s) := (h.incF (by omega)).withStrain

/-! The journal of a pair (R471 to R476). -/

theorem FrontKept.sendHello (h : FrontKept s0 s) : FrontKept s0 (sendHello s) := h.congr (by rfl)

theorem FrontKept.sendLane (h : FrontKept s0 s) {kind : Nat} {body : List Nat} : FrontKept s0 (sendLane kind body s) := (h.ite h.sendHello).congr (by rfl)

theorem FrontKept.triggerSnap (h : FrontKept s0 s) : FrontKept s0 (triggerSnap s) :=
  h.ite ((h.congr (by rfl)).ite ((((h.congr (by rfl)).setF (by omega)).setF (by omega)).setF (by omega)).sendLane)

theorem FrontKept.invalidateJournal (h : FrontKept s0 s) {why : Nat} : FrontKept s0 (invalidateJournal why s) := by
  have hbad : FrontKept s0 (s.setF F.PAR_STATUS_JOURNAL 2) := h.setF (by omega)
  have hsnap : FrontKept s0 (abandonSnap (s.setF F.PAR_STATUS_JOURNAL 2)) := (((hbad.congr (by rfl)).setF (by omega)).incF (by omega)).ite hbad
  have hbase : FrontKept s0 (rebaseJournal (abandonSnap (s.setF F.PAR_STATUS_JOURNAL 2))) := (hsnap.congr (by rfl)).set64 (by omega) (by omega)
  exact (hbase.incF (by omega)).notify.unless (·.triggerSnap)

theorem FrontKept.journalRec (h : FrontKept s0 s) {body : List Nat} {n : Nat} : FrontKept s0 (journalRec body n s) :=
  h.ite (h.invalidateJournal.ite ((((FrontKept.sendLane (h.ite h.sendLane)).set64 (by omega) (by omega)).incF (by omega)).updPair.thenIf (·.triggerSnap)))

/-! Downlinks, their queues and the associations that end with them (R226 to R228, R250 to R254, R262, R290, R300). -/

theorem FrontKept.schedDone (h : FrontKept s0 s) {nix status : Nat} : FrontKept s0 (schedDone nix status s) := ((h.congr (by rfl)).incF (by split <;> omega)).notify

theorem FrontKept.setReceipt (h : FrontKept s0 s) {i : Nat} {r : Option Receipt} : FrontKept s0 (setReceipt i r s) := by
  have hset : FrontKept s0 (syncReceipts (s.updXch fun x => { x with receipts := Sparse.set (fun _ => none) x.receipts i r })) := (h.congr (by rfl)).setF (by omega)
  unfold Machine.setReceipt
  dsimp only
  split
  · exact hset.journalRec
  · exact hset.journalRec
  · exact hset

theorem FrontKept.dlStatus (h : FrontKept s0 s) {d : Dl} {status : Nat} : FrontKept s0 (dlStatus d status s) := by
  unfold Machine.dlStatus
  dsimp only
  split
  · exact h.congr (by rfl)
  · exact h.congr (by rfl)
  · exact h

theorem FrontKept.assocNone (h : FrontKept s0 s) {nix updStatus : Nat} : FrontKept s0 (assocNone nix updStatus s) := by
  have hleft : FrontKept s0 (leaveRoster nix s) := (h.congr (by rfl)).setF (by omega)
  have hput : FrontKept s0 (Machine.putEntry nix (entPutBits (s.entry nix) 32 1 0 asNone) (leaveRoster nix s)) := hleft.setEntry.journalRec
  exact (hput.congr (by rfl)).thenIf (·.schedDone)

theorem FrontKept.dlReportBase (h : FrontKept s0 s) {d : Dl} {status : Nat} : FrontKept s0 (dlReportBase d status s) := by
  unfold Machine.dlReportBase
  split
  case h_1 => exact FrontKept.setReceipt ((h.incF (by omega)).ite h)
  case h_2 => exact (h.congr (by rfl)).ite (h.schedDone.ite h)
  case h_3 => exact h.setEntry.ite h
  case h_4 => exact h
  case h_5 => exact h.dlStatus

theorem FrontKept.dlCount (h : FrontKept s0 s) {i : Nat} {d : Dl} {status : Nat} : FrontKept s0 (dlCount i d status s) := by
  have hout : FrontKept s0 (unqueueDl i s) := (h.congr (by rfl)).setF (by omega)
  exact (hout.setDl.thenIf fun k => (k.incF (by omega)).setEntry).thenIf fun k => (k.incF (by omega)).thenIf fun k => k.notify

theorem FrontKept.updDl (h : FrontKept s0 s) {i : Nat} {f : Dl → Dl} : FrontKept s0 (s.updDl i f) := by
  unfold State.updDl
  split
  · exact h.congr (by rfl)
  · exact h

theorem FrontKept.assocEnd (h : FrontKept s0 s) {nix updStatus : Nat} : FrontKept s0 (assocEnd nix updStatus s) :=
  h.assocNone.foldl fun _ _ k => k.ite (k.updDl.ite (k.incF (by omega)).dlCount.dlReportBase)

theorem FrontKept.dlEndOne (h : FrontKept s0 s) {i : Nat} {d : Dl} {status : Nat} : FrontKept s0 (dlEndOne i d status s) :=
  h.dlCount.dlReportBase.thenIf fun k => (k.assocEnd.incF (by omega)).notify

theorem FrontKept.dlEnd (h : FrontKept s0 s) {i status : Nat} : FrontKept s0 (dlEnd i status s) := by
  unfold Machine.dlEnd
  split
  · exact h
  · dsimp only
    split
    · exact h.dlEndOne.unless fun k => k.foldl fun _ _ k => k.thenIf (·.dlEndOne)
    · exact h.dlEndOne

/-! The end of a port's command (R159, R245 to R248, R252). -/

theorem FrontKept.closeAcc (h : FrontKept s0 s) {i : Nat} : FrontKept s0 (closeAcc i s) := by
  unfold Machine.closeAcc
  split
  · exact (h.congr (by rfl)).ite h
  · exact h

theorem FrontKept.chargeGuard (h : FrontKept s0 s) {nix : Nat} : FrontKept s0 (chargeGuard nix s) := h.charge
theorem FrontKept.chargeHeard (h : FrontKept s0 s) {nix t wake : Nat} : FrontKept s0 (chargeHeard nix t wake s) := h.charge

theorem FrontKept.ackEnd (h : FrontKept s0 s) {n a : Nat} {c : Held} {status : Nat} : FrontKept s0 (ackEnd n a c status s) := by
  unfold Machine.ackEnd
  split
  · exact h
  next x _ =>
    have hover : FrontKept s0 (dropReserve n (x.sfd + x.delta) (s.setAcc a (some { x with ackOver := true }))) := h.congr (by rfl)
    exact FrontKept.closeAcc ((hover.thenIf (·.chargeHeard)).ite (((hover.incF (by omega)).thenIf (·.chargeGuard)).ite
      (hover.ite (((hover.thenIf (·.incF (by omega))).thenIf (·.chargeGuard)).ite hover.setAcc))))

theorem FrontKept.attemptLost (h : FrontKept s0 s) {n d status : Nat} : FrontKept s0 (attemptLost n d status s) := by
  unfold Machine.attemptLost
  split
  · exact h
  · have hcounted : FrontKept s0 (if status = scLate then s.incF (F.XCH_CNT_COUNT 13) else s) := h.thenIf (·.incF (by omega))
    exact hcounted.dlEnd.ite ((hcounted.incF (by omega)).dlEnd.ite hcounted.setDl)

theorem FrontKept.onTxEnd (h : FrontKept s0 s) {n : Nat} {c : Held} {begun : Bool} {status : Nat} : FrontKept s0 (onTxEnd n c begun status s) := by
  unfold Machine.onTxEnd
  split
  case h_1 => exact (h.incF (by omega)).updSlt.ite (h.ite (h.incF (by omega)).notify)
  case h_2 => exact h.ackEnd
  case h_3 => exact h.ite h.attemptLost
  case h_4 => exact h.ite h.attemptLost
  case h_5 => exact (h.incF (by split <;> omega)).ite (h.foldl fun _ _ k => k.updDl)

/-! The launch of a port's command (R81, R155, R250, R281, R481). -/

theorem FrontKept.dlLaunched (h : FrontKept s0 s) {d L : Nat} {c : Held} : FrontKept s0 (dlLaunched d L c s) := by
  unfold Machine.dlLaunched
  split
  · exact h
  · exact (((h.incF (by omega)).thenIf (·.incF (by omega))).setDl).chargeHeard

theorem FrontKept.firstBeacon (h : FrontKept s0 s) {L : Nat} : FrontKept s0 (firstBeacon L s) := by
  have hstart : FrontKept s0
      (if s.getF F.CFG_STATUS_STEP = 11 then (s.setF F.CFG_T_BEACON_TIME (aonMicros (L - s.clk.slot) s)).setF F.CFG_STATUS_STEP 0xF else s) :=
    h.thenIf fun k => (k.setF (by omega)).setF (by omega)
  unfold Machine.firstBeacon
  extract_lets s1
  split
  · exact ((hstart.setF (by omega)).setF (by omega)).updPair.notify
  · exact hstart

theorem FrontKept.onLaunch (h : FrontKept s0 s) {n L : Nat} {c : Held} : FrontKept s0 (onLaunch n c L s) := by
  unfold Machine.onLaunch
  extract_lets s1 s2
  have h1 : FrontKept s0 s1 := h.thenIf (·.incF (by omega))
  have h2 : FrontKept s0 s2 := h1.thenIf (·.updPair)
  split
  case h_1 => exact h2.firstBeacon
  case h_2 => exact h2.incF (by omega)
  case h_3 => exact h2.dlLaunched
  case h_4 => exact h2.dlLaunched
  case h_5 =>
    split
    · exact h2.updDl.chargeHeard
    · exact h2

/-! The setting of a command as it is built (R284). -/

/-- The setting is read from the state as the ledger's read leaves it. -/
theorem settingOf_state (n nix : Nat) (s : State) : (settingOf n nix s).2 = (readLedger nix s).2 := by
  unfold Machine.settingOf
  dsimp only
  split
  · rfl
  · split
    · split <;> rfl
    · rfl

theorem FrontKept.settingOf (h : FrontKept s0 s) {n nix : Nat} : FrontKept s0 (settingOf n nix s).2 := by
  rw [settingOf_state]
  exact h.withStrain

theorem FrontKept.preCharge (h : FrontKept s0 s) {n : Nat} {c : Held} : FrontKept s0 (preCharge n c s).2 := by
  unfold Machine.preCharge
  split
  · exact h.settingOf
  · exact h

end

end Sys2Proof.Machine

/-! SUPPORT. Fields of a port's registers and the port beside them, after the updates that radio events are made of. -/

namespace Sys2Proof.Machine

/-! A field written out, so that `simp` meets its address and bits as numbers. -/

@[simp] theorem getF_setF_same (s : State) {a hi lo : Nat} (v : Nat) (h : lo ≤ hi) (h' : hi < 32) : (s.setF ⟨a, hi, lo⟩ v).getF ⟨a, hi, lo⟩ = v % 2 ^ (hi + 1 - lo) :=
  State.getF_setF s v h h'

@[simp] theorem getF_setF_beside (s : State) {a hi lo hi' lo' : Nat} (v : Nat) (h : lo ≤ hi) (h' : hi < 32) (hd : hi < lo' ∨ hi' < lo) :
    (s.setF ⟨a, hi, lo⟩ v).getF ⟨a, hi', lo'⟩ = s.getF ⟨a, hi', lo'⟩ := State.getF_setF_disj s v h h' hd

@[simp] theorem getF_setF_off (s : State) {a b hi lo hi' lo' : Nat} (v : Nat) (h : b ≠ a) : (s.setF ⟨a, hi, lo⟩ v).getF ⟨b, hi', lo'⟩ = s.getF ⟨b, hi', lo'⟩ :=
  State.getF_setF_ne s v h

@[simp] theorem getF_satF_off (s : State) {a b hi lo hi' lo' : Nat} (v : Nat) (h : b ≠ a) : (s.satF ⟨a, hi, lo⟩ v).getF ⟨b, hi', lo'⟩ = s.getF ⟨b, hi', lo'⟩ :=
  State.getF_setF_ne s _ h

@[simp] theorem reg_setF_off (s : State) {a b hi lo : Nat} (v : Nat) (h : b ≠ a) : (s.setF ⟨a, hi, lo⟩ v).reg b = s.reg b := State.reg_setF_ne s v h

@[simp] theorem State.getF_updPort (s : State) (n : Nat) (f : Port → Port) (g : Field) : (s.updPort n f).getF g = s.getF g := State.getF_of_regs (State.updPort_regs ..) g

theorem State.reg_of_regs {s t : State} (h : t.regs = s.regs) (a : Nat) : t.reg a = s.reg a := congrArg (fun m => Sparse.get resetWord m a) h

@[simp] theorem State.reg_updPort (s : State) (n : Nat) (f : Port → Port) (a : Nat) : (s.updPort n f).reg a = s.reg a := State.reg_of_regs (State.updPort_regs ..) a
@[simp] theorem State.reg_elapse (s : State) (dt a : Nat) : (s.elapse dt).reg a = s.reg a := State.reg_of_regs (State.elapse_regs ..) a

theorem ofSigned_lt (n : Nat) (i : Int) : ofSigned n i < 2 ^ n := by
  have hpos : (0 : Int) < ((2 ^ n : Nat) : Int) := by exact_mod_cast Nat.two_pow_pos n
  have hlt := Int.emod_lt_of_pos i hpos
  unfold ofSigned
  omega

/-- A signed value of 8 bits fits its field. -/
@[simp] theorem ofSigned_byte (i : Int) : ofSigned 8 i % 256 = ofSigned 8 i := Nat.mod_eq_of_lt (ofSigned_lt 8 i)

/-! The port beside its registers; by its list of ports and not by `rfl`, which would have the kernel unfold whatever the states went through before. -/

theorem State.port_of_ports {s t : State} (h : t.ports = s.ports) (n : Nat) : t.port n = s.port n := congrArg (fun m => Sparse.get (fun _ => Port.reset) m n) h

@[simp] theorem State.port_setF (s : State) (f : Field) (v n : Nat) : (s.setF f v).port n = s.port n := State.port_of_ports (State.setF_ports ..) n
@[simp] theorem State.port_incF (s : State) (f : Field) (n : Nat) : (s.incF f).port n = s.port n := State.port_of_ports (State.incF_ports ..) n
@[simp] theorem State.port_satF (s : State) (f : Field) (v n : Nat) : (s.satF f v).port n = s.port n := State.port_of_ports (State.satF_ports ..) n
@[simp] theorem State.port_elapse (s : State) (dt n : Nat) : (s.elapse dt).port n = s.port n := State.port_of_ports (State.elapse_ports ..) n
@[simp] theorem State.port_updPort_self (s : State) (n : Nat) (f : Port → Port) : (s.updPort n f).port n = f (s.port n) := by
  rw [State.port_updPort, if_pos rfl]
@[simp] theorem State.port_notify (s : State) (k : NoticeKind) (status port arg n : Nat) : (notify k status port arg s).port n = s.port n :=
  (FrontKept.refl s).notify.port n

@[simp] theorem pstate_elapse (s : State) (dt n : Nat) : (s.elapse dt).pstate n = s.pstate n := rfl

/-! The receive path goes blank (R194), and a synthesiser moves (R150, R151). -/

@[simp] theorem blankPort_port (n m : Nat) (s : State) : (blankPort n s).port m = s.port m := (FrontKept.refl s).blankPort.port m
@[simp] theorem blankPort_clk (n : Nat) (s : State) : (blankPort n s).clk = s.clk := (FrontKept.refl s).blankPort.clk
@[simp] theorem blankPort_getF (n : Nat) (s : State) {a hi lo : Nat} (h : frontReg a) : (blankPort n s).getF ⟨a, hi, lo⟩ = s.getF ⟨a, hi, lo⟩ :=
  (FrontKept.refl s).blankPort.getF h
@[simp] theorem notify_getF_front (k : NoticeKind) (status port arg : Nat) (s : State) {a hi lo : Nat} (h : frontReg a) :
    (notify k status port arg s).getF ⟨a, hi, lo⟩ = s.getF ⟨a, hi, lo⟩ := (FrontKept.refl s).notify.getF h

/-- A retuned port's state, its lock and its path; the rest of the port stands. -/
theorem settle_port (n khz : Nat) (s : State) : (settle n khz s).port n = { s.port n with locked := none, target := khz, holdEnd := none } := by
  simp [settle, setPstate, retune]

@[simp] theorem settle_clk (n khz : Nat) (s : State) : (settle n khz s).clk = s.clk := by
  simp [settle, setPstate, retune]

/-- SETTLE with the lock lost and the receive path blanked (R151). -/
theorem settle_status (n : Fin 16) (khz : Nat) (s : State) :
    (settle n khz s).pstate n = psSettle ∧ (settle n khz s).getF (F.RFP_STATUS_LOCK n) = 0 ∧ (settle n khz s).getF (F.RFP_STATUS_BLANK n) = 1 := by
  simp (disch := omega) [settle, setPstate, retune, State.pstate, psSettle]

end Sys2Proof.Machine

/-! SUPPORT. Duty sub-windows and samples (R164, R168). -/

namespace Sys2Proof.Machine

/-- The sub-windows that have passed drop as many of the oldest (R168). -/
def rolledDuty (n : Nat) (s : State) : State := s.updPort n fun p => { p with
  duty := (List.replicate (min (dutyPassed n s) 64) 0 ++ p.duty).take 64
  dutyAt := p.dutyAt + dutyPassed n s * dutySub n s
  dutyNoticed := false }

theorem exec_dutySubwindow {dt : Nat} {n : Fin 16} {s : State} (hrun : s.clk.running = true) (hpassed : dutyPassed n (s.elapse dt) ≠ 0) :
    exec (.dutySubwindow dt n) s = .next (syncDuty n (rolledDuty n (s.elapse dt))) := by
  change execDutySubwindow dt n s = _
  simp [execDutySubwindow, rolledDuty, hrun, hpassed]

/-- A sub-window's end changes RFPn_DUTY_USED alone (R168). -/
theorem dutySubwindow_completes {dt : Nat} {n : Fin 16} {s : State} (hrun : s.clk.running = true) (hpassed : dutyPassed n (s.elapse dt) ≠ 0) :
    Completes (.dutySubwindow dt n) s fun t =>
      let d := (List.replicate (min (dutyPassed n (s.elapse dt)) 64) 0 ++ (s.port n).duty).take 64
      (t.port n).duty = d ∧ t.getF (F.RFP_DUTY_USED_USED_US n) = d.sum / us % 2 ^ 32 ∧ (t.port n).dutyNoticed = false ∧
        OnlyRegs [(F.RFP_DUTY_USED_USED_US n).addr] s t ∧ t.dram = s.dram ∧ t.tabs = s.tabs := by
  refine ⟨_, exec_dutySubwindow hrun hpassed, ?_, ?_, ?_, OnlyRegs.setF (rolledDuty n (s.elapse dt)) _ _, rfl, rfl⟩ <;> simp [syncDuty, rolledDuty, dutyUsed]

/-! The corrections of RFPn_COMP_STATUS follow each sample (R164). -/

theorem OnlyRegs.syncComp (n : Nat) (s : State) : OnlyRegs [0x4003C + 32768 * n] s (syncComp n s) := by
  intro a ha
  simp [Machine.syncComp, List.mem_singleton.not.1 ha]

@[simp] theorem syncComp_vin (n : Nat) (s : State) : (syncComp n s).getF (F.RFP_COMP_STATUS_VIN n) = s.radio.vinMv / 20 % 256 := by
  simp [syncComp]

theorem syncComp_rest (n : Nat) (s : State) : (syncComp n s).ports = s.ports ∧ (syncComp n s).radio = s.radio ∧ (syncComp n s).dram = s.dram ∧ (syncComp n s).tabs = s.tabs :=
  ⟨rfl, rfl, rfl, rfl⟩

theorem exec_tjSample {dt : Nat} {n : Fin 16} {tj : Int} {s : State} (hrun : s.clk.running = true) :
    exec (.tjSample dt n tj) s = .next (syncComp n (((s.elapse dt).updPort n fun p => { p with tj := tj }).setF (F.RFP_STATUS_TJ n) (ofSigned 8 tj))) := by
  change execTjSample dt n tj s = _
  simp [execTjSample, hrun]

/-- A sample of the port's sensor stands in RFPn_STATUS, and its corrections in RFPn_COMP_STATUS (R164). -/
theorem tjSample_completes {dt : Nat} {n : Fin 16} {s : State} (hrun : s.clk.running = true) (tj : Int) : Completes (.tjSample dt n tj) s fun t =>
    (t.port n).tj = tj ∧ t.getF (F.RFP_STATUS_TJ n) = ofSigned 8 tj ∧ t.pstate n = s.pstate n ∧
      OnlyRegs [(F.RFP_STATUS_TJ n).addr, (F.RFP_COMP_STATUS_VIN n).addr] s t ∧ t.dram = s.dram ∧ t.tabs = s.tabs := by
  refine ⟨_, exec_tjSample hrun, ?_⟩
  generalize hu : ((s.elapse dt).updPort n fun p => { p with tj := tj }).setF (F.RFP_STATUS_TJ n) (ofSigned 8 tj) = u
  have hregs : OnlyRegs [0x4003C + 32768 * n] u (syncComp n u) := OnlyRegs.syncComp n u
  have hbefore : OnlyRegs [(F.RFP_STATUS_TJ n).addr] s u := hu ▸ OnlyRegs.setF ((s.elapse dt).updPort n _) _ _
  have hstatus (hi lo : Nat) : (syncComp n u).getF ⟨0x40004 + 32768 * n, hi, lo⟩ = u.getF ⟨0x40004 + 32768 * n, hi, lo⟩ :=
    hregs.getF (by simp only [List.mem_singleton]; omega)
  refine ⟨?_, (hstatus 15 8).trans ?_, (hstatus 27 24).trans ?_, hbefore.trans hregs, ?_, ?_⟩
  · rw [State.port_of_ports (syncComp_rest n u).1, ← hu, State.port_setF, State.port_updPort_self]
  · rw [← hu]
    simp
  · rw [← hu]
    simp [State.pstate]
  all_goals rw [← hu]; rfl

/-! VIN belongs to every port (R164). -/

/-- Corrections of all ports from a list: every port keeps the VIN that it shows, whichever of the others follow. -/
theorem syncComps_vin (l : List Nat) (s : State) (n : Nat) (h : n ∈ l ∨ s.getF (F.RFP_COMP_STATUS_VIN n) = s.radio.vinMv / 20 % 256) :
    (l.foldl (fun s k => syncComp k s) s).getF (F.RFP_COMP_STATUS_VIN n) = s.radio.vinMv / 20 % 256 := by
  induction l generalizing s with
  | nil => exact h.resolve_left List.not_mem_nil
  | cons k l ih =>
    refine (ih (syncComp k s) ?_).trans rfl
    by_cases hk : n = k
    · exact .inr (hk ▸ syncComp_vin k s)
    · rcases h with h | h
      · exact .inl ((List.mem_cons.1 h).resolve_left hk)
      · refine .inr ((OnlyRegs.syncComp k s).getF ?_ |>.trans h)
        simp only [List.mem_singleton]
        omega

theorem syncComps_reg (l : List Nat) (s : State) {a : Nat} (h : ∀ k ∈ l, a ≠ 0x4003C + 32768 * k) : (l.foldl (fun s k => syncComp k s) s).reg a = s.reg a := by
  induction l generalizing s with
  | nil => rfl
  | cons k l ih =>
    rw [List.forall_mem_cons] at h
    exact (ih (syncComp k s) h.2).trans (OnlyRegs.syncComp k s a (List.mem_singleton.not.2 h.1))

theorem syncComps_rest (l : List Nat) (s : State) :
    (l.foldl (fun s k => syncComp k s) s).radio = s.radio ∧ (l.foldl (fun s k => syncComp k s) s).dram = s.dram ∧ (l.foldl (fun s k => syncComp k s) s).tabs = s.tabs := by
  induction l generalizing s with
  | nil => exact ⟨rfl, rfl, rfl⟩
  | cons k l ih => exact ih (syncComp k s)

theorem exec_vinSample {dt mv : Nat} {s : State} (hrun : s.clk.running = true) :
    exec (.vinSample dt mv) s =
      .next ((List.range 16).foldl (fun s n => syncComp n s) { s.elapse dt with radio := { (s.elapse dt).radio with vinMv := mv } }) := by
  change execVinSample dt mv s = _
  simp [execVinSample, hrun]

/-- A sample of VIN stands in every port's RFPn_COMP_STATUS, in units of 20 mV (R164). -/
theorem vinSample_completes {dt : Nat} {n : Fin 16} {s : State} (hrun : s.clk.running = true) (mv : Nat) : Completes (.vinSample dt mv) s fun t =>
    t.radio.vinMv = mv ∧ t.getF (F.RFP_COMP_STATUS_VIN n) = mv / 20 % 256 ∧ (∀ a, (∀ k : Fin 16, a ≠ 0x4003C + 32768 * k.val) → t.reg a = s.reg a) ∧
      t.dram = s.dram ∧ t.tabs = s.tabs := by
  refine ⟨_, exec_vinSample hrun, ?_⟩
  obtain ⟨hradio, hdram, htabs⟩ := syncComps_rest (List.range 16) { s.elapse dt with radio := { (s.elapse dt).radio with vinMv := mv } }
  refine ⟨congrArg Radio.vinMv hradio, syncComps_vin _ _ n (.inl (List.mem_range.2 n.isLt)), fun a ha => ?_, hdram, htabs⟩
  exact syncComps_reg _ _ fun k hk => ha ⟨k, List.mem_range.1 hk⟩

/-- Settles O36: the sub-windows of one port, the sample of one port, and the sample that all ports share. -/
theorem portSamples : Obligations.PortSamples := fun _ _ _ hrun =>
  ⟨dutySubwindow_completes hrun, tjSample_completes hrun, vinSample_completes hrun⟩

end Sys2Proof.Machine

/-! SUPPORT. A port takes a transmit command (R154, R158, R159). -/

namespace Sys2Proof.Machine

/-! The command as it is built (R284). -/

/-- Building a command fixes its setting and its pre-charge. -/
theorem preCharge_held (n : Nat) (h : Held) (s : State) :
    ∃ set charged, (preCharge n h s).1 = { h with cmd := { h.cmd with setting := set }, charged := charged } := by
  unfold preCharge
  split
  · exact ⟨_, _, rfl⟩
  · exact ⟨h.cmd.setting, h.charged, rfl⟩

theorem withStrain_out (nix : Nat) (e : List Byte) (s : State) : (withStrain nix e s).out = s.out := by
  unfold withStrain
  dsimp only
  split <;> rfl

theorem preCharge_out (n : Nat) (h : Held) (s : State) : (preCharge n h s).2.out = s.out := by
  unfold preCharge
  split
  · exact (congrArg State.out (settingOf_state ..)).trans (withStrain_out ..)
  · rfl

/-- A beacon goes to no node, and no ledger is read for it. -/
theorem preCharge_beacon {n : Nat} {h : Held} {s : State} (href : h.cmd.ref = .beacon) : preCharge n h s = (h, s) := by
  simp [preCharge, href, refNode]

/-! Issue and acceptance. -/

/-- The engine's state and command as TX_COMMAND issues it. -/
def issued (n : Nat) (c : TxCmd) (s : State) : Held × State :=
  let s := s.updXch fun x => { x with ready := x.ready.erase (n, c) }
  preCharge n (newHeld c s) s

theorem exec_txCommand {dt : Nat} {n : Fin 16} {c : TxCmd} {s : State} (hrun : s.clk.running = true) :
    exec (.txCommand dt n c) s = .next (issueCmd n (issued n c (s.elapse dt)).1 (issued n c (s.elapse dt)).2) := by
  change execTxCommand dt n c s = _
  simp [execTxCommand, issued, hrun]

theorem issued_front (n : Nat) (c : TxCmd) (s : State) : FrontKept s (issued n c s).2 :=
  ((FrontKept.refl s).congr (t := s.updXch fun x => { x with ready := x.ready.erase (n, c) }) (by rfl)).preCharge

theorem issued_held (n : Nat) (c : TxCmd) (s : State) :
    ∃ set, (issued n c s).1.cmd = { c with setting := set } ∧ (issued n c s).1.waits = false := by
  obtain ⟨set, charged, h⟩ := preCharge_held n (newHeld c (s.updXch fun x => { x with ready := x.ready.erase (n, c) })) (s.updXch fun x => { x with ready := x.ready.erase (n, c) })
  exact ⟨set, (congrArg Held.cmd h).trans rfl, (congrArg Held.waits h).trans rfl⟩

theorem issued_beacon {n : Nat} {c : TxCmd} {s : State} (href : c.ref = .beacon) :
    issued n c s = (newHeld c (s.updXch fun x => { x with ready := x.ready.erase (n, c) }), s.updXch fun x => { x with ready := x.ready.erase (n, c) }) :=
  preCharge_beacon href

/-- A free port takes what neither QUIET, OFF nor a calibration keeps from it. -/
theorem issueCmd_accepts {n : Nat} {h : Held} {s : State} (hoff : s.pstate n ≠ psOff) (hcal : (s.port n).cal.phase < 2) (hfree : (s.port n).held = none) :
    issueCmd n h s = acceptCmd n h s := by
  have hholds : calHolds n h s = false := by simp [calHolds, hcal]
  simp [issueCmd, hoff, hholds, hfree]

/-- The port as acceptance leaves it, before requests, settle and launch. -/
def holding (n : Nat) (h : Held) (s : State) : State :=
  s.updPort n fun p => { p with held := some (acceptedNow h s), begun := none, sent := false }

theorem acceptedNow_cmd (h : Held) (s : State) : (acceptedNow h s).cmd = h.cmd := by
  unfold acceptedNow
  split <;> rfl

/-- A timed command whose settle is still to come is held with the requests that are due, and no more (R154, R169). -/
theorem acceptCmd_early {n L : Nat} {h : Held} {s : State} (hL : h.cmd.launch = some L) (hquiet : s.pstate n ≠ psQuiet) (hperm : permitted n h.cmd.khz s = true)
    (hearly : s.clk.slot < settleAt n L s) :
    acceptCmd n h s = assertReq n (dueReqs n (acceptedNow h s) (holding n h s)) (holding n h s) := by
  have hregs : (assertReq n (dueReqs n (acceptedNow h s) (holding n h s)) (holding n h s)).regs = s.regs := rfl
  generalize hu : assertReq n (dueReqs n (acceptedNow h s) (holding n h s)) (holding n h s) = u at hregs
  have hclk : u.clk = s.clk := hu ▸ rfl
  have hlead : trswLead n u = trswLead n s := congrArg (· * us) (State.getF_of_regs hregs _)
  have hsettle : ¬ settleAt n L u ≤ u.clk.slot := by
    rw [settleAt, hlead, hclk]
    exact Nat.not_le.2 hearly
  have hstart : ¬ startPoint n (acceptedNow h s) u ≤ u.clk.slot := by
    simp only [startPoint, acceptedNow_cmd, hL, hlead, hclk]
    simp only [settleAt] at hearly
    omega
  have hstate : (holding n h s).pstate n = s.pstate n := State.getF_of_regs rfl _
  have hpermitted : permitted n h.cmd.khz (holding n h s) = permitted n h.cmd.khz s := by
    simp only [permitted, State.getF_of_regs (s := s) (t := holding n h s) rfl]
  unfold acceptCmd
  dsimp only
  rw [← holding.eq_1]
  simp [hstate, hquiet, acceptedNow_cmd, hpermitted, hperm, hL, hu, hsettle, hstart]

/-- A command on its way to a port that is to settle later: held with the moment of acceptance. -/
theorem txCommand_accepted {dt : Nat} {n : Fin 16} {c : TxCmd} {s : State} (hrun : s.clk.running = true) (L : Nat) (hL : c.launch = some L) (hrx : s.pstate n = psRx)
    (hfree : (s.port n).held = none) (hcal : (s.port n).cal.phase < 2) (hperm : permitted n c.khz s = true) (hearly : (s.elapse dt).clk.slot < settleAt n L s) :
    Completes (.txCommand dt n c) s fun t =>
      (t.port n).held.map (fun h => (h.cmd.khz, h.cmd.launch, h.cmd.kind, h.cmd.airtime, h.accepted)) = some (c.khz, c.launch, c.kind, c.airtime, t.clk.slot) ∧
      (t.port n).begun = none ∧ t.pstate n = psRx ∧ t.out = s.out ∧ (c.ref = .beacon → OnlyRegs [] s t ∧ t.dram = s.dram ∧ t.tabs = s.tabs) := by
  have hfront : FrontKept (s.elapse dt) (issued n c (s.elapse dt)).2 := issued_front ..
  obtain ⟨set, hcmd, hwaits⟩ := issued_held n c (s.elapse dt)
  have hout : (issued n c (s.elapse dt)).2.out = s.out := preCharge_out ..
  have hbeacon (href : c.ref = .beacon) : (issued n c (s.elapse dt)).2 = (s.elapse dt).updXch fun x => { x with ready := x.ready.erase (n.val, c) } :=
    congrArg Prod.snd (issued_beacon href)
  refine ⟨_, exec_txCommand hrun, ?_⟩
  generalize (issued n c (s.elapse dt)).1 = h at *
  generalize (issued n c (s.elapse dt)).2 = u at *
  have hport : u.port n = s.port n := (hfront.port n).trans (State.port_elapse ..)
  have hfield (a hi lo : Nat) (ha : frontReg a) : u.getF ⟨a, hi, lo⟩ = s.getF ⟨a, hi, lo⟩ := (hfront.getF ha).trans (State.elapse_getF ..)
  have hstate : u.pstate n = psRx := (hfield _ _ _ (by omega)).trans hrx
  have hlate : u.clk.slot < settleAt n L u := by
    rw [hfront.clk, settleAt, trswLead, hfield _ _ _ (by omega)]
    exact hearly
  have hpermitted : permitted n h.cmd.khz u = true := by
    simp only [permitted, hcmd]
    rw [hfield _ _ _ (by omega), hfield _ _ _ (by omega)]
    exact hperm
  rw [issueCmd_accepts (by rw [hstate]; decide) (by rwa [hport]) (by rwa [hport]),
    acceptCmd_early (by rw [hcmd]; exact hL) (by rw [hstate]; decide) hpermitted hlate]
  refine ⟨?_, ?_, ?_, hout, fun href => ?_⟩
  · simp [assertReq, holding, acceptedNow, hwaits, hcmd]
  · simp [assertReq, holding]
  · exact (State.getF_of_regs rfl _).trans hstate
  · rw [hbeacon href]
    exact ⟨OnlyRegs.of_regs _ rfl, rfl, rfl⟩

/-- CANCELLED counts in no counter: RFPn_TX_LAST alone changes (R159). -/
theorem recordOutcome_cancelled (n reason : Nat) (s : State) :
    recordOutcome n scCancelled reason s = (s.setF (F.RFP_TX_LAST_STATUS n) scCancelled).setF (F.RFP_TX_LAST_REASON n) reason := rfl

/-- A beacon's command to a port that is OFF ends at once (R159). -/
theorem txCommand_off {dt : Nat} {n : Fin 16} {c : TxCmd} {s : State} (hrun : s.clk.running = true) (href : c.ref = .beacon) (hoff : s.pstate n = psOff) :
    Completes (.txCommand dt n c) s fun t =>
      t.getF (F.RFP_TX_LAST_STATUS n) = 0x01 ∧ t.getF (F.RFP_TX_LAST_REASON n) = 7 ∧ (t.port n).held = (s.port n).held ∧
        OnlyRegs [(F.RFP_TX_LAST_STATUS n).addr] s t ∧ t.dram = s.dram ∧ t.tabs = s.tabs := by
  refine ⟨_, exec_txCommand hrun, ?_⟩
  rw [issued_beacon href]
  generalize hu : (s.elapse dt).updXch (fun x => { x with ready := x.ready.erase (n.val, c) }) = u
  have hstate : u.pstate n = psOff := hu ▸ hoff
  have hend : issueCmd n (newHeld c u) u = (u.setF (F.RFP_TX_LAST_STATUS n) scCancelled).setF (F.RFP_TX_LAST_REASON n) 7 := by
    rw [issueCmd, if_pos hstate, recordOutcome_cancelled]
    simp [onTxEnd, newHeld, href, scCancelled, scOk]
  rw [hend]
  refine ⟨by simp [scCancelled], by simp, ?_, ?_, ?_, ?_⟩
  · rw [State.port_setF, State.port_setF, ← hu]
    rfl
  · exact ((OnlyRegs.of_regs [] (hu ▸ rfl)).trans (OnlyRegs.setF u (F.RFP_TX_LAST_STATUS n) _)).trans (OnlyRegs.setF _ (F.RFP_TX_LAST_REASON n) _) |>.mono (by simp)
  · exact hu ▸ rfl
  · exact hu ▸ rfl

/-- Settles O31: a timed command that is to settle later, and a beacon's to a port that is OFF. -/
theorem commandAccepted : Obligations.CommandAccepted := fun _ _ _ _ hrun => ⟨txCommand_accepted hrun, txCommand_off hrun⟩

end Sys2Proof.Machine

/-! SUPPORT. A held command settles, locks and launches (R151, R154, R155, R161, R163, R168, R169). -/

namespace Sys2Proof.Machine

/-! Lock and settle (R151, R154). -/

/-- A port that locks in SETTLE with no command to transmit: in RX, its path open. -/
theorem synthLock_free {n : Nat} {s : State} (hstate : s.pstate n = psSettle) (hfree : (s.port n).held = none) :
    synthLock n s = setPstate n psRx (((s.setF (F.RFP_STATUS_LOCK n) 1).updPort n fun p => { p with locked := some p.target }).setF (F.RFP_STATUS_BLANK n) 0) := by
  simp [synthLock, hstate, hfree, psSettle, psQuiet]

theorem synthLock_completes {dt : Nat} {n : Fin 16} {s : State} (hrun : s.clk.running = true) (hstate : s.pstate n = psSettle) (hfree : (s.port n).held = none) :
    Completes (.synthLock dt n) s fun t =>
      t.pstate n = psRx ∧ t.getF (F.RFP_STATUS_LOCK n) = 1 ∧ t.getF (F.RFP_STATUS_BLANK n) = 0 ∧ (t.port n).locked = some (s.port n).target ∧
        OnlyRegs [(F.RFP_STATUS_STATE n).addr] s t ∧ t.dram = s.dram ∧ t.tabs = s.tabs := by
  have hexec : exec (.synthLock dt n) s = .next (synthLock n (s.elapse dt)) := by
    change execSynthLock dt n s = _
    simp [execSynthLock, hrun]
  rw [synthLock_free (s := s.elapse dt) hstate hfree] at hexec
  refine ⟨_, hexec, ?_, ?_, ?_, ?_, ?_, rfl, rfl⟩
  · simp [setPstate, State.pstate, psRx]
  · simp [setPstate]
  · simp [setPstate]
  · simp [setPstate]
  · intro a ha
    simp [setPstate, List.mem_singleton.not.1 ha]

theorem settleStart_completes {dt : Nat} {n : Fin 16} {s : State} (hrun : s.clk.running = true) (h : Held) (hheld : (s.port n).held = some h) (L : Nat)
    (hL : h.cmd.launch = some L) (hrx : s.pstate n = psRx) (hlock : lockOk n h s = false) (hdue : settleAt n L s ≤ (s.elapse dt).clk.slot) (hcal : calHolds n h s = false) :
    Completes (.settleStart dt n) s fun t =>
      t.pstate n = psSettle ∧ t.getF (F.RFP_STATUS_LOCK n) = 0 ∧ t.getF (F.RFP_STATUS_BLANK n) = 1 ∧ (t.port n).target = h.cmd.khz ∧ (t.port n).locked = none ∧
        (t.port n).held = some h := by
  have hdue' : settleAt n L (s.elapse dt) ≤ (s.elapse dt).clk.slot := hdue
  have hcal' : calHolds n h (s.elapse dt) = false := hcal
  have hlock' : lockOk n h (s.elapse dt) = false := hlock
  have hrx' : (s.elapse dt).pstate n = psRx := hrx
  have hexec : exec (.settleStart dt n) s = .next (settle n h.cmd.khz (s.elapse dt)) := by
    change execSettleStart dt n s = _
    simp [execSettleStart, hrun, hheld, hL, hrx', hdue', hcal', settleFor, hlock']
  obtain ⟨hstate, hunlocked, hblank⟩ := settle_status n h.cmd.khz (s.elapse dt)
  refine ⟨_, hexec, hstate, hunlocked, hblank, ?_⟩
  simp [settle_port, hheld]

/-! The launch (R155, R161, R163, R168). -/

/-- What an applied setting is computed from (R163, R164). -/
theorem appliedSetting_congr {n : Nat} {c : TxCmd} {s t : State} (htabs : t.tabs = s.tabs) (hradio : t.radio = s.radio) (htj : (t.port n).tj = (s.port n).tj)
    (hpower : t.reg (0x4000C + 32768 * n) = s.reg (0x4000C + 32768 * n)) : appliedSetting n c t = appliedSetting n c s := by
  simp only [appliedSetting, tempCorr, supCorr, compEntry, State.tab, State.getF, htabs, hradio, htj, hpower]

/-- The port at the start of its launch sequence. -/
def inTx (n : Nat) (s : State) : State :=
  setPstate n psTx (s.updPort n fun p => { p with begun := some s.clk.slot, sent := false, overCnt := 0, holdEnd := none })

/-- The setting fixed and the airtime booked. -/
def booked (n : Nat) (h : Held) (s : State) : State :=
  let s := (inTx n s).setF (F.RFP_TX_LAST_APPLIED n) (ofSigned 8 (appliedSetting n h.cmd (inTx n s)))
  let air := (s.port n).airRest + h.cmd.airtime
  ((bookDuty n h.cmd.airtime s).updPort n fun p => { p with airRest := air % ms }).satF (F.RFP_CNT_COUNT n 9) (air / ms)

/-- The launch as the port makes it, before the exchange engine learns of it. -/
def launched (n : Nat) (h : Held) (s : State) : State :=
  (booked n h s).emit (.ppdu n (match h.cmd.kind with | .frame => 0 | .beacon => 1 | .ack => 2) h.cmd.channel ((booked n h s).clk.slot + trswLead n (booked n h s)))

theorem beginLaunch_eq (n : Nat) (h : Held) (s : State) :
    beginLaunch n h s = onLaunch n h ((launched n h s).clk.slot + trswLead n (launched n h s)) (launched n h s) := rfl

/-- Airtime is booked to the newest sub-window, or to a first one (R168). -/
theorem bookDuty_used (n airtime : Nat) (s : State) : dutyUsed n (bookDuty n airtime s) = dutyUsed n s + airtime := by
  simp only [dutyUsed, bookDuty, syncDuty, State.port_setF, State.port_updPort_self]
  cases (s.port n).duty with
  | nil => simp
  | cons a r =>
    simp only [List.sum_cons]
    omega

theorem bookDuty_port (n airtime : Nat) (s : State) : ∃ l, (bookDuty n airtime s).port n = { s.port n with duty := l } :=
  ⟨_, by rw [bookDuty, syncDuty, State.port_setF, State.port_updPort_self]⟩

theorem bookDuty_getF {n airtime : Nat} {s : State} {a hi lo : Nat} (h : a ≠ 0x4002C + 32768 * n) : (bookDuty n airtime s).getF ⟨a, hi, lo⟩ = s.getF ⟨a, hi, lo⟩ := by
  simp [bookDuty, syncDuty, h]

theorem booked_status (n : Fin 16) (h : Held) (s : State) :
    (booked n h s).pstate n = psTx ∧ (booked n h s).getF (F.RFP_TX_LAST_APPLIED n) = ofSigned 8 (appliedSetting n h.cmd s) := by
  have happlied : appliedSetting n h.cmd (inTx n s) = appliedSetting n h.cmd s :=
    appliedSetting_congr rfl rfl (by simp [inTx, setPstate]) (by rw [inTx, setPstate, reg_setF_off _ _ (by omega)]; rfl)
  constructor
  · simp (disch := omega) [booked, State.pstate, bookDuty_getF, inTx, setPstate, psTx]
  · simp (disch := omega) [booked, bookDuty_getF, happlied]

theorem booked_trswLead (n : Fin 16) (h : Held) (s : State) : trswLead n (booked n h s) = trswLead n s := by
  simp (disch := omega) only [booked, trswLead, getF_satF_off, State.getF_updPort, bookDuty_getF, getF_setF_off, inTx, setPstate]

theorem booked_clk (n : Nat) (h : Held) (s : State) : (booked n h s).clk = s.clk := by
  simp only [booked, State.satF_clk, State.updPort_clk, bookDuty, syncDuty, State.setF_clk, inTx, setPstate]

theorem booked_port (n : Nat) (h : Held) (s : State) :
    ((booked n h s).port n).begun = some s.clk.slot ∧ ((booked n h s).port n).held = (s.port n).held ∧
      dutyUsed n (booked n h s) = dutyUsed n s + h.cmd.airtime := by
  generalize hu : (inTx n s).setF (F.RFP_TX_LAST_APPLIED n) (ofSigned 8 (appliedSetting n h.cmd (inTx n s))) = u
  have hport : u.port n = { s.port n with begun := some s.clk.slot, sent := false, overCnt := 0, holdEnd := none } := by
    rw [← hu, State.port_setF, inTx, setPstate, State.port_setF, State.port_updPort_self]
  have hbooked : (booked n h s).port n = { (bookDuty n h.cmd.airtime u).port n with airRest := ((u.port n).airRest + h.cmd.airtime) % ms } := by
    simp only [booked, hu, State.port_satF, State.port_updPort_self]
  have hduty : dutyUsed n (booked n h s) = dutyUsed n (bookDuty n h.cmd.airtime u) := by
    simp only [dutyUsed, hbooked]
  obtain ⟨l, hl⟩ := bookDuty_port n h.cmd.airtime u
  refine ⟨?_, ?_, ?_⟩
  · rw [hbooked, hl, hport]
  · rw [hbooked, hl, hport]
  · rw [hduty, bookDuty_used, dutyUsed, hport, dutyUsed]

/-- What every launch shows, whatever command it is (R155, R161, R163, R168). -/
def Launched (n : Fin 16) (h : Held) (s t : State) : Prop :=
  t.pstate n = psTx ∧ (t.port n).begun = some t.clk.slot ∧ (t.port n).held = some h ∧ dutyUsed n t = dutyUsed n s + h.cmd.airtime ∧
    t.getF (F.RFP_TX_LAST_APPLIED n) = ofSigned 8 (appliedSetting n h.cmd s) ∧
    .ppdu n (match h.cmd.kind with | .frame => 0 | .beacon => 1 | .ack => 2) h.cmd.channel (t.clk.slot + trswLead n s) ∈ t.out

theorem Launched.holds {n : Fin 16} {h : Held} {s t : State} (hl : Launched n h s t) : (t.port n).held = some h := by
  obtain ⟨-, -, hheld, -⟩ := hl
  exact hheld

theorem beginLaunch_launched {n : Fin 16} {h : Held} {s : State} (hheld : (s.port n).held = some h) : Launched n h s (beginLaunch n h s) := by
  rw [beginLaunch_eq]
  generalize (launched n h s).clk.slot + trswLead n (launched n h s) = L
  have hfront : FrontKept (booked n h s) (onLaunch n h L (launched n h s)) := (FrontKept.refl _).emit.onLaunch
  obtain ⟨out, hout⟩ := (onLaunch_keeps (_n := n) (h := h) (L := L) (Keeps.refl (launched n h s))).added
  obtain ⟨hstate, happlied⟩ := booked_status n h s
  obtain ⟨hbegun, hheld', hduty⟩ := booked_port n h s
  have hclk : (onLaunch n h L (launched n h s)).clk = s.clk := hfront.clk.trans (booked_clk n h s)
  refine ⟨(hfront.getF (by omega)).trans hstate, ?_, ?_, ?_, (hfront.getF (by omega)).trans happlied, ?_⟩
  · rw [hfront.port, hclk, hbegun]
  · rw [hfront.port, hheld', hheld]
  · rw [dutyUsed, hfront.port, ← dutyUsed, hduty]
  · rw [hclk, hout, ← booked_trswLead n h s]
    exact List.mem_append_right _ List.mem_cons_self

/-- A command that is ready at its start point passes the checks of R158 and launches, unless a beacon yields to a reserved ack (R155, R248). -/
theorem tryLaunch_launches {n : Nat} {h : Held} {s : State} (hheld : (s.port n).held = some h) (hbegun : (s.port n).begun = none) (hstate : s.pstate n = psTxReady)
    (hstart : startPoint n h s = s.clk.slot) (hready : launchReady n h s = true) (hreleased : ackReleased h s = true) (hperm : permitted n h.cmd.khz s = true)
    (hduty : dutyExceeded n h.cmd.airtime s = false) (hbeacon : h.cmd.kind = .beacon → ackReserved n h s = false) : tryLaunch n s = beginLaunch n h s := by
  have hchecked : checkedLaunch n h s = beginLaunch n h s := by
    simp [checkedLaunch, hstate, hperm, hduty, psTxReady, psQuiet]
  have hyields : (h.cmd.kind == .beacon && lockOk n h s && grantsOk n h s && ackReserved n h s) = false := by
    by_cases hk : h.cmd.kind = .beacon
    · simp [hbeacon hk]
    · simp [hk]
  simp only [tryLaunch, hheld, hbegun, hstart, hreleased, hyields, hready]
  cases h.cmd.kind <;> simp [hchecked]

/-- A port that holds a command accepts no other. -/
theorem acceptNext_of_held {n : Nat} {h : Held} {s : State} (hheld : (s.port n).held = some h) : acceptNext n s = s := by
  simp [acceptNext, hheld]

theorem launch_completes {dt : Nat} {n : Fin 16} {s : State} (hrun : s.clk.running = true) (h : Held) (hheld : (s.port n).held = some h) (hbegun : (s.port n).begun = none)
    (hstate : s.pstate n = psTxReady) (hstart : startPoint n h (s.elapse dt) = (s.elapse dt).clk.slot) (hready : launchReady n h (s.elapse dt) = true)
    (hreleased : ackReleased h s = true) (hperm : permitted n h.cmd.khz s = true) (hduty : dutyExceeded n h.cmd.airtime s = false) (c : Instr)
    (hc : c ∈ ([.launchStart dt n, .coexLeadElapsed dt n] : List Instr)) (hbeacon : h.cmd.kind = .beacon → ackReserved n h (s.elapse dt) = false) :
    Completes c s (Launched n h s) := by
  have hlaunch : tryLaunch n (s.elapse dt) = beginLaunch n h (s.elapse dt) :=
    tryLaunch_launches (s := s.elapse dt) hheld hbegun hstate hstart hready hreleased hperm hduty hbeacon
  have hshown : Launched n h (s.elapse dt) (beginLaunch n h (s.elapse dt)) := beginLaunch_launched hheld
  have hkept : acceptNext n (beginLaunch n h (s.elapse dt)) = beginLaunch n h (s.elapse dt) := acceptNext_of_held hshown.holds
  refine ⟨_, ?_, hshown⟩
  rcases List.mem_pair.1 hc with rfl | rfl
  · change execLaunchStart dt n s = _
    simp [execLaunchStart, hrun, hlaunch, hkept]
  · change execCoexLeadElapsed dt n s = _
    simp [execCoexLeadElapsed, hrun, hlaunch]

/-! Coexistence requests (R169). -/

/-- A pair whose request a port asserts is among its requests. -/
theorem assertReq_asserts (n k : Nat) (s : State) : ((assertReq n [k] s).port n).req.any (fun r => r.1 == k) = true := by
  rw [assertReq, State.port_updPort_self, List.any_append]
  cases hasserted : (s.port n).req.any fun r => r.1 == k
  · simp [hasserted]
  · rfl

theorem coexReqAssert_completes {dt : Nat} {n : Fin 16} {s : State} (hrun : s.clk.running = true) (h : Held) (hheld : (s.port n).held = some h) (k : Fin 4)
    (hdue : (dueReqs n h (s.elapse dt)).contains k.val = true) : Completes (.coexReqAssert dt n k) s fun t =>
      (t.port n).req.any (fun r => r.1 == k.val) = true ∧ (t.port n).held = some h ∧ OnlyRegs [] s t ∧ t.dram = s.dram ∧ t.tabs = s.tabs := by
  have hexec : exec (.coexReqAssert dt n k) s = .next (assertReq n [k.val] (s.elapse dt)) := by
    change execCoexReqAssert dt n k s = _
    simp only [execCoexReqAssert, State.elapse_running, hrun, State.port_elapse, hheld, hdue]
    rfl
  refine ⟨_, hexec, assertReq_asserts .., ?_, OnlyRegs.of_regs _ rfl, rfl, rfl⟩
  simp [assertReq, hheld]

/-- Settles O32: the lock without a command, and of a held command the settle, the launch and its requests. -/
theorem settleAndLaunch : Obligations.SettleAndLaunch := fun _ _ _ hrun =>
  ⟨synthLock_completes hrun, fun h hheld => ⟨settleStart_completes hrun h hheld, launch_completes hrun h hheld, coexReqAssert_completes hrun h hheld⟩⟩

end Sys2Proof.Machine

/-! SUPPORT. The end of a transmit sequence beside a reception: a state that the statement about how commands end does not leave out (R152, R194, R351). -/

namespace Sys2Proof.Machine

/-- A reception with a buffer. -/
def lateReception : Demod :=
  { channel := 0, mode := 1, cls := 0, claimed := 0, detected := 0, power := 0, noise := 0, sfd := none, sfdCls := 0, sfdOffset := 0, fec := false, fcs32 := false,
    whitened := false, len := 0, lqi := 0, fofs := 0, buffer := some 0 }

/-- A frame of no airtime, sent in full. -/
def sentFrame : Held := ⟨⟨.frame, 0, 868000, 1, 0, none, none, 0, .beacon⟩, 0, 0, false, false, 0, false⟩

/-- Port 0 in TX with the PPDU gone, one demodulator busy, and 63 of 64 buffers free where LOW_MARK is above 64 and POOL_LOW may be raised. -/
def sentBesideReception : State :=
  { State.reset with
    regs := [(0x40004, 0x05000000#32), (0x110004, 0x00200000#32), (0x110008, 0x0000FFFF#32)]
    clk := { State.reset.clk with core := true, running := true, slot := 1000000 }
    ports := [(0, { Port.reset with held := some sentFrame, begun := some 0, sent := true })]
    demods := [(0, some lateReception)]
    mem := { State.reset.mem with holders := [(0, 1)] } }

theorem sentBesideReception_meets :
    (sentBesideReception.port 0).held = some sentFrame ∧ sentBesideReception.pstate 0 = psTx ∧ (sentBesideReception.port 0).sent = true ∧
      (sentBesideReception.port 0).stopping = false ∧ (sentBesideReception.port 0).waiting = [] ∧
      ppduEnd 0 sentFrame sentBesideReception +
        (sentBesideReception.getF (F.RFP_FE_TIMING_RAMP 0) + sentBesideReception.getF (F.RFP_FE_TIMING_TRSW_LAG 0)) * us ≤ (sentBesideReception.elapse 0).clk.slot := by
  decide

set_option maxRecDepth 20000 in
/-- On its way to the receive centre the port blanks its path, the reception ends, its buffer is freed, and the free count is still at or below LOW_MARK: POOL_LOW and its
message go out. -/
theorem sentBesideReception_emits :
    (match exec (.txSequenceEnd 0 0) sentBesideReception with | .next t => t.out.isEmpty | _ => true) = false := by decide

/-- Refutes O33: the end of the sequence takes the port back to its receive centre, and the blanked path ends a reception there, whose freed buffer may raise POOL_LOW (R351);
then the outputs do not stay as they were. The statement speaks of every state, this one too. -/
theorem not_commandEnds : ¬ Obligations.CommandEnds := by
  intro h
  obtain ⟨hheld, hstate, hsent, hstays, hwaiting, hend⟩ := sentBesideReception_meets
  obtain ⟨hends, -⟩ := h 0 0 sentBesideReception rfl
  obtain ⟨-, -, hsequence⟩ := hends sentFrame hheld
  obtain ⟨t, hexec, -, -, -, -, hout⟩ := hsequence hstate hsent hstays hwaiting hend
  have hemits := sentBesideReception_emits
  rw [hexec] at hemits
  dsimp only at hemits
  rw [hout] at hemits
  exact absurd hemits (by decide)

end Sys2Proof.Machine

/-! SUPPORT. The calibration of a port: its triggers, its start at a boundary, and its end (R170 to R172, R547). -/

namespace Sys2Proof.Machine

/-! Triggers (R170). -/

/-- A calibration pending since now; RFPn_CAL_STATUS alone changed. -/
def CalPending (n : Nat) (s t : State) : Prop :=
  t.getF (F.RFP_CAL_STATUS_PENDING n) = 1 ∧ (t.port n).cal.phase = 1 ∧ (t.port n).cal.since = t.clk.now ∧
    OnlyRegs [(F.RFP_CAL_STATUS_PENDING n).addr] s t ∧ t.dram = s.dram ∧ t.tabs = s.tabs

/-- A trigger on a port that has no calibration pending or running (R170). -/
theorem pendCal_pending {n dt : Nat} {s : State} (hphase : (s.port n).cal.phase = 0) : CalPending n s (pendCal n (s.elapse dt)) := by
  have hpend : pendCal n (s.elapse dt) = ((s.elapse dt).setF (F.RFP_CAL_STATUS_PENDING n) 1).updPort n fun p =>
      { p with cal := { p.cal with phase := 1, since := (s.elapse dt).clk.now } } := by
    simp [pendCal, hphase]
  rw [hpend]
  refine ⟨by simp, by simp, by simp, fun a ha => ?_, rfl, rfl⟩
  simp [List.mem_singleton.not.1 ha]

/-- A failed port's calibration, started at once (R170). -/
theorem startCal_running (n : Fin 16) (s : State) :
    (startCal n s).pstate n = psCal ∧ (startCal n s).getF (F.RFP_CAL_STATUS_RUNNING n) = 1 ∧ ((startCal n s).port n).cal.phase = 3 ∧
      ((startCal n s).port n).cal.start = (startCal n s).clk.now := by
  refine ⟨?_, ?_, ?_, ?_⟩ <;> simp (disch := omega) [startCal, setPstate, State.pstate, psCal]

/-- The owner's request reaches the port where the device runs (R37, R170). -/
theorem exec_calReq {dt : Nat} {m : Master} {n : Fin 16} {s : State} (hmode : s.mode = stAutonomous) (hcore : s.clk.core = true) :
    exec (.calReq dt m n 1#32) s = .next (writeCalCtrl m n 1#32 (s.elapse dt)) := by
  have hans : answers (0x40034 + 32768 * n) (s.elapse dt) = true := answers_of_core (s := s.elapse dt) _ hcore (hmode.trans_ne (by decide))
  have hopen : frozenShut (0x40034 + 32768 * n) (s.elapse dt) = false := frozenShut_of_ne (s := s.elapse dt) _ (hmode.trans_ne (by decide))
  exact congrArg Host.Outcome.next (gatedWrite_open hans hopen)

/-- The owner's request on an enabled port starts the calibration of one that failed, and is a trigger elsewhere (R170, R171). -/
theorem writeCalCtrl_request {m : Master} {n : Nat} {s : State} (howns : s.owns m = true) (hen : s.getF (F.RFP_CTRL_ENABLE n) = 1) :
    (s.pstate n ≠ psOff → writeCalCtrl m n 1#32 s = pendCal n s) ∧
      (s.pstate n = psOff → s.getF (F.RFP_CAL_STATUS_LAST n) = 2 → writeCalCtrl m n 1#32 s = startCal n s) := by
  have hreq : bitsOf 1#32 0 0 = 1 := by decide
  constructor
  · intro hoff
    simp [writeCalCtrl, howns, hreq, hen, hoff]
  · intro hoff hlast
    simp [writeCalCtrl, howns, hreq, hen, hoff, hlast]

theorem calReq_pends {dt : Nat} {m : Master} {n : Fin 16} {s : State} (hmode : s.mode = stAutonomous) (hcore : s.clk.core = true) (howns : s.owns m = true)
    (hen : s.getF (F.RFP_CTRL_ENABLE n) = 1) (hoff : s.pstate n ≠ psOff) (hphase : (s.port n).cal.phase = 0) : Completes (.calReq dt m n 1#32) s (CalPending n s) := by
  obtain ⟨hpend, -⟩ := writeCalCtrl_request (s := s.elapse dt) howns hen
  exact ⟨_, (exec_calReq hmode hcore).trans (congrArg Host.Outcome.next (hpend hoff)), pendCal_pending hphase⟩

theorem calReq_starts {dt : Nat} {m : Master} {n : Fin 16} {s : State} (hmode : s.mode = stAutonomous) (hcore : s.clk.core = true) (howns : s.owns m = true)
    (hen : s.getF (F.RFP_CTRL_ENABLE n) = 1) (hoff : s.pstate n = psOff) (hlast : s.getF (F.RFP_CAL_STATUS_LAST n) = 2) : Completes (.calReq dt m n 1#32) s fun t =>
      t.pstate n = psCal ∧ t.getF (F.RFP_CAL_STATUS_RUNNING n) = 1 ∧ (t.port n).cal.phase = 3 ∧ (t.port n).cal.start = t.clk.now := by
  obtain ⟨-, hstart⟩ := writeCalCtrl_request (s := s.elapse dt) howns hen
  exact ⟨_, (exec_calReq hmode hcore).trans (congrArg Host.Outcome.next (hstart hoff hlast)), startCal_running n (s.elapse dt)⟩

theorem calTempCheck_pends {dt l : Nat} {n : Fin 16} {s : State} (hrun : s.clk.running = true) (hlast : (s.port n).cal.lastOk = some l) (hoff : s.pstate n ≠ psOff)
    (hphase : (s.port n).cal.phase = 0) (hon : s.getF (F.RFP_CAL_CFG_DELTA_C n) ≠ 0)
    (hstep : s.getF (F.RFP_CAL_CFG_DELTA_C n) ≤ ((s.port n).tj - toSigned 8 (s.getF (F.RFP_CAL_STATUS_TJ_CAL n))).natAbs) :
    Completes (.calTempCheck dt n) s (CalPending n s) := by
  refine ⟨_, ?_, pendCal_pending (dt := dt) hphase⟩
  change execCalTempCheck dt n s = _
  simp [execCalTempCheck, hrun, hlast, hoff, hon, hstep]

theorem calPeriodExpire_pends {dt l : Nat} {n : Fin 16} {s : State} (hrun : s.clk.running = true) (hlast : (s.port n).cal.lastOk = some l) (hoff : s.pstate n ≠ psOff)
    (hphase : (s.port n).cal.phase = 0) (hon : s.getF (F.RFP_CAL_CFG_PERIOD_H n) ≠ 0) (hpast : l + s.getF (F.RFP_CAL_CFG_PERIOD_H n) * 3600 * sec ≤ s.clk.now + dt) :
    Completes (.calPeriodExpire dt n) s (CalPending n s) := by
  refine ⟨_, ?_, pendCal_pending (dt := dt) hphase⟩
  change execCalPeriodExpire dt n s = _
  simp [execCalPeriodExpire, hrun, hlast, hoff, hon, hpast]

/-! The start at a boundary, and the entry into CAL (R172). -/

/-- A calibration forced at the boundary of now: RUNNING with its deferral, CAL_FORCED counted and reported, the path blanked. -/
def forcedCal (n : Nat) (s : State) : State :=
  let d := min (deferral n s) 0xFFFF
  let s := ((s.setF (F.RFP_CAL_STATUS_PENDING n) 0).setF (F.RFP_CAL_STATUS_RUNNING n) 1).setF (F.RFP_CAL_STATUS_DEFER_MS n) d
  let s := notify (N.CAL_FORCED n) scOk n d (s.incF (F.RFP_CNT_COUNT n 7))
  let s := blankPort n (s.setF (F.RFP_STATUS_BLANK n) 1)
  s.updPort n fun p => { p with cal := { p.cal with phase := 2, boundary := s.clk.slot } }

theorem forcedCal_running (n : Fin 16) (s : State) :
    ((forcedCal n s).port n).cal.phase = 2 ∧ ((forcedCal n s).port n).cal.boundary = (forcedCal n s).clk.slot ∧ (forcedCal n s).getF (F.RFP_CAL_STATUS_RUNNING n) = 1 ∧
      (forcedCal n s).getF (F.RFP_CAL_STATUS_PENDING n) = 0 ∧ (forcedCal n s).getF (F.RFP_CAL_STATUS_DEFER_MS n) = min (deferral n s) 0xFFFF ∧
      (forcedCal n s).getF (F.RFP_STATUS_BLANK n) = 1 := by
  refine ⟨?_, ?_, ?_, ?_, ?_, ?_⟩ <;> simp (disch := omega) [forcedCal, State.incF]

theorem calStart_forced {dt : Nat} {n : Fin 16} {s : State} (hrun : s.clk.running = true) (hphase : (s.port n).cal.phase = 1) (hquiet : s.pstate n ≠ psQuiet)
    (hoff : s.pstate n ≠ psOff) (hbound : (s.elapse dt).clk.slot = s.bound)
    (hforced : (s.port n).cal.since + s.getF (F.RFP_CAL_CFG_CAL_MAX_DEFER_MS n) * ms < (s.elapse dt).clk.now) : Completes (.calStart dt n) s fun t =>
      (t.port n).cal.phase = 2 ∧ (t.port n).cal.boundary = t.clk.slot ∧ t.getF (F.RFP_CAL_STATUS_RUNNING n) = 1 ∧ t.getF (F.RFP_CAL_STATUS_PENDING n) = 0 ∧
        t.getF (F.RFP_CAL_STATUS_DEFER_MS n) = min (deferral n (s.elapse dt)) 0xFFFF ∧ t.getF (F.RFP_STATUS_BLANK n) = 1 := by
  refine ⟨forcedCal n (s.elapse dt), ?_, forcedCal_running n _⟩
  have hbound' : (s.elapse dt).clk.slot = (s.elapse dt).bound := hbound
  change execCalStart dt n s = _
  simp only [execCalStart, State.elapse_running, hrun, State.port_elapse, hphase, hbound', pstate_elapse, State.elapse_getF, hforced]
  simp [hquiet, hoff, forcedCal]

theorem calEnter_enters {dt : Nat} {n : Fin 16} {s : State} (hrun : s.clk.running = true) (hphase : (s.port n).cal.phase = 2) (hbegun : (s.port n).begun = none)
    (hheld : (s.port n).held = none) : Completes (.calEnter dt n) s fun t =>
      t.pstate n = psCal ∧ (t.port n).cal.phase = 3 ∧ (t.port n).cal.start = t.clk.now ∧ (t.port n).locked = none ∧
        OnlyRegs [(F.RFP_STATUS_STATE n).addr] s t ∧ t.dram = s.dram ∧ t.tabs = s.tabs := by
  have hexec : exec (.calEnter dt n) s = .next ((setPstate n psCal ((s.elapse dt).setF (F.RFP_STATUS_LOCK n) 0)).updPort n fun p =>
      { p with locked := none, holdEnd := none, cal := { p.cal with phase := 3, start := (s.elapse dt).clk.now } }) := by
    change execCalEnter dt n s = _
    simp [execCalEnter, hrun, hphase, hbegun, hheld, setPstate]
  refine ⟨_, hexec, ?_, ?_, ?_, ?_, fun a ha => ?_, rfl, rfl⟩
  · simp [setPstate, State.pstate, psCal]
  · simp
  · simp [setPstate]
  · simp
  · simp [setPstate, List.mem_singleton.not.1 ha]

/-! Its end (R171). -/

/-- Step 9 of start-up is over where the device is AUTONOMOUS. -/
theorem bootCalEnded_autonomous {n : Nat} {ok : Bool} {s : State} (h : s.mode = stAutonomous) : bootCalEnded n ok s = s := by
  simp [bootCalEnded, inStep, h, stAutonomous, stStarting]

/-- The success recorded, counted and reported. -/
def calDone (n : Nat) (s : State) : State :=
  let t := (s.clk.now - (s.port n).cal.start) / us
  let s := ((s.setF (F.RFP_CAL_STATUS_LAST n) 1).setF (F.RFP_CAL_STATUS_REASON n) 0).setF (F.RFP_CAL_STATUS_TJ_CAL n) (ofSigned 8 (s.port n).tj)
  let s := ((s.setF (F.RFP_STATUS_CAL_OK n) 1).setF (F.RFP_CAL_STATUS_RUNNING n) 0).incF (F.RFP_CNT_COUNT n 5)
  let s := s.updPort n fun p => { p with cal := { p.cal with phase := 0, lastOk := some s.clk.now } }
  notify (N.CAL_DONE n) scOk n (ofSigned 8 (s.port n).tj * 2 ^ 16 + t) s

theorem calDone_status (n : Fin 16) (s : State) :
    (calDone n s).getF (F.RFP_STATUS_CAL_OK n) = 1 ∧ (calDone n s).getF (F.RFP_CAL_STATUS_LAST n) = 1 ∧ (calDone n s).getF (F.RFP_CAL_STATUS_RUNNING n) = 0 := by
  refine ⟨?_, ?_, ?_⟩ <;> simp (disch := omega) [calDone, State.incF]

theorem calDone_port (n : Nat) (s : State) : (calDone n s).port n = { s.port n with cal := { (s.port n).cal with phase := 0, lastOk := some s.clk.now } } := by
  simp [calDone]

theorem calDone_clk (n : Nat) (s : State) : (calDone n s).clk = s.clk := by
  simp [calDone]

/-- The device's state, the safe state and the receive centre are not the calibration's. -/
theorem calDone_kept (n : Fin 16) (s : State) :
    (calDone n s).mode = s.mode ∧ (calDone n s).getF F.SAF_STATUS_SAFE = s.getF F.SAF_STATUS_SAFE ∧ centre n (calDone n s) = centre n s := by
  refine ⟨?_, (notify_getF (by decide)).trans ?_, ?_⟩ <;> simp (disch := omega) [calDone, State.mode, centre, State.incF]

theorem firstWaiting_nil : firstWaiting [] = none := rfl

/-- With no command waiting, none is accepted. -/
theorem acceptNext_idle {n : Nat} {s : State} (hheld : (s.port n).held = none) (hwaiting : (s.port n).waiting = []) :
    acceptNext n s = s.updPort n fun p => { p with waiting := p.waiting.map (markWait n s) } := by
  simp [acceptNext, hheld, hwaiting, firstWaiting_nil]

/-- A free port outside the safe state settles toward its receive centre (R151, R171). -/
theorem calOk_settles {n : Fin 16} {s : State} (hsafe : s.getF F.SAF_STATUS_SAFE = 0) (hheld : (s.port n).held = none) :
    calOk n s = acceptNext n (settle n (centre n s) (calDone n s)) := by
  obtain ⟨-, hsafe', hcentre⟩ := calDone_kept n s
  have hout : (calDone n s).getF F.SAF_STATUS_SAFE ≠ 1 := by
    rw [hsafe', hsafe]
    decide
  have hfree : ((calDone n s).port n).held = none := by rw [calDone_port, hheld]
  refine (if_neg hout).trans ?_
  rw [← hcentre]
  split
  next h hheld' => exact nomatch hfree.symm.trans hheld'
  next => rfl

/-- A settling port leaves TOP_STATUS, and the registers of its front end but its status; of that CAL_OK. -/
theorem settle_getF {n khz : Nat} {s : State} {a hi lo : Nat} (h : frontReg a) (hstatus : a ≠ 0x40004 + 32768 * n) :
    (settle n khz s).getF ⟨a, hi, lo⟩ = s.getF ⟨a, hi, lo⟩ := by
  simp [settle, setPstate, retune, h, hstatus]

theorem settle_calOk (n : Fin 16) (khz : Nat) (s : State) : (settle n khz s).getF (F.RFP_STATUS_CAL_OK n) = s.getF (F.RFP_STATUS_CAL_OK n) := by
  simp (disch := omega) [settle, setPstate, retune]

theorem exec_calEnd {dt : Nat} {n : Fin 16} {s : State} (hrun : s.clk.running = true) (hstate : s.pstate n = psCal) (hphase : (s.port n).cal.phase = 3)
    (failed : Option (Fin 3)) : exec (.calEnd dt n failed) s = .next (match failed with
      | none => bootCalEnded n true (calOk n (s.elapse dt))
      | some i => bootCalEnded n false (calFail n (i.val + 1) (s.elapse dt))) := by
  change execCalEnd dt n failed s = _
  simp only [execCalEnd, State.elapse_running, hrun, pstate_elapse, hstate, State.port_elapse, hphase]
  cases failed <;> rfl

/-- The port of a success, on its way to the receive centre, and the device's state as it was. -/
theorem calOk_status {n : Fin 16} {s : State} (hheld : (s.port n).held = none) (hwaiting : (s.port n).waiting = []) (hsafe : s.getF F.SAF_STATUS_SAFE = 0) :
    (calOk n s).getF (F.RFP_STATUS_CAL_OK n) = 1 ∧ (calOk n s).getF (F.RFP_CAL_STATUS_LAST n) = 1 ∧ (calOk n s).getF (F.RFP_CAL_STATUS_RUNNING n) = 0 ∧
      ((calOk n s).port n).cal.phase = 0 ∧ ((calOk n s).port n).cal.lastOk = some (calOk n s).clk.now ∧ (calOk n s).pstate n = psSettle ∧
      ((calOk n s).port n).target = centre n s ∧ (calOk n s).mode = s.mode := by
  obtain ⟨hcalOk, hlast, hrunning⟩ := calDone_status n s
  obtain ⟨hmode, -, -⟩ := calDone_kept n s
  have hdone := calDone_port n s
  have hclk := calDone_clk n s
  rw [calOk_settles hsafe hheld]
  generalize calDone n s = u at *
  obtain ⟨hsettle, -, -⟩ := settle_status n (centre n s) u
  have hport := settle_port n (centre n s) u
  rw [acceptNext_idle (by rw [hport, hdone, hheld]) (by rw [hport, hdone, hwaiting])]
  refine ⟨?_, ?_, ?_, ?_, ?_, (State.getF_updPort ..).trans hsettle, ?_, ?_⟩
  · rw [State.getF_updPort, settle_calOk, hcalOk]
  · rw [State.getF_updPort, settle_getF (by omega) (by omega), hlast]
  · rw [State.getF_updPort, settle_getF (by omega) (by omega), hrunning]
  · rw [State.port_updPort_self, hport, hdone]
  · rw [State.port_updPort_self, hport, hdone, State.updPort_clk, settle_clk, hclk]
  · rw [State.port_updPort_self, hport]
  · rw [State.mode, State.getF_updPort, settle_getF (.inl rfl) (by omega), ← State.mode, hmode]

theorem calEnd_succeeds {dt : Nat} {n : Fin 16} {s : State} (hrun : s.clk.running = true) (hmode : s.mode = stAutonomous) (hstate : s.pstate n = psCal)
    (hphase : (s.port n).cal.phase = 3) (hheld : (s.port n).held = none) (hwaiting : (s.port n).waiting = []) (hsafe : s.getF F.SAF_STATUS_SAFE = 0) :
    Completes (.calEnd dt n none) s fun t =>
      t.getF (F.RFP_STATUS_CAL_OK n) = 1 ∧ t.getF (F.RFP_CAL_STATUS_LAST n) = 1 ∧ t.getF (F.RFP_CAL_STATUS_RUNNING n) = 0 ∧ (t.port n).cal.phase = 0 ∧
        (t.port n).cal.lastOk = some t.clk.now ∧ t.pstate n = psSettle ∧ (t.port n).target = centre n s := by
  have hexec : exec (.calEnd dt n none) s = .next (bootCalEnded n true (calOk n (s.elapse dt))) := exec_calEnd hrun hstate hphase none
  obtain ⟨hcalOk, hlast, hrunning, hphase', hlastOk, hsettle, htarget, hmode'⟩ := calOk_status (s := s.elapse dt) hheld hwaiting hsafe
  rw [bootCalEnded_autonomous (hmode'.trans hmode)] at hexec
  exact ⟨_, hexec, hcalOk, hlast, hrunning, hphase', hlastOk, hsettle, htarget⟩

/-! A failure takes the port out of service (R151, R171). -/

/-- The end of a command says nothing of the device's state. -/
theorem recordOutcome_mode (n : Fin 16) (status reason : Nat) (s : State) : (recordOutcome n status reason s).mode = s.mode := by
  unfold recordOutcome
  dsimp only
  split <;> simp (disch := omega) [State.mode, State.incF]

theorem endHeld_mode (n : Fin 16) (status reason : Nat) (s : State) : (endHeld n status reason s).mode = s.mode := by
  have hdrop (f : Port → Port) : ((dropReq n s).updPort n f).mode = s.mode := by
    simp [dropReq, State.mode]
  unfold endHeld
  split
  · rfl
  · dsimp only
    split
    · exact hdrop _
    · exact ((FrontKept.refl _).onTxEnd.getF (.inl rfl)).trans ((recordOutcome_mode ..).trans (hdrop _))

theorem endWaiting_mode (n : Fin 16) (h : Held) (status reason : Nat) (s : State) : (endWaiting n h status reason s).mode = s.mode := by
  have hfree (f : Port → Port) : ((recordOutcome n status reason s).updPort n f).mode = s.mode := (State.getF_updPort ..).trans (recordOutcome_mode ..)
  exact ((FrontKept.refl _).onTxEnd.getF (.inl rfl)).trans (hfree _)

theorem endAllWaiting_mode (n : Fin 16) (status reason : Nat) (l : List Held) (s : State) :
    (l.foldl (fun s h => endWaiting n h status reason s) s).mode = s.mode := by
  induction l generalizing s with
  | nil => rfl
  | cons h l ih => exact (ih _).trans (endWaiting_mode n h status reason s)

/-- A failed port's registers, and the device's state as it was. -/
theorem calFail_status (n : Fin 16) (i : Fin 3) (s : State) :
    (calFail n (i.val + 1) s).pstate n = psOff ∧ (calFail n (i.val + 1) s).getF (F.RFP_STATUS_CAL_OK n) = 0 ∧
      (calFail n (i.val + 1) s).getF (F.RFP_CAL_STATUS_LAST n) = 2 ∧ (calFail n (i.val + 1) s).getF (F.RFP_CAL_STATUS_REASON n) = i.val + 1 ∧
      (calFail n (i.val + 1) s).mode = s.mode := by
  have hended : (((endHeld n scCancelled 7 s).port n).waiting.foldl (fun s h => endWaiting n h scCancelled 7 s) (endHeld n scCancelled 7 s)).mode = s.mode :=
    (endAllWaiting_mode ..).trans (endHeld_mode ..)
  have hreason : (i.val + 1) % 16 = i.val + 1 := by omega
  unfold calFail portOff
  dsimp only
  generalize ((endHeld n scCancelled 7 s).port n).waiting.foldl (fun s h => endWaiting n h scCancelled 7 s) (endHeld n scCancelled 7 s) = u at *
  refine ⟨?_, ?_, ?_, ?_, Eq.trans ?_ hended⟩ <;> simp (disch := omega) [setPstate, State.pstate, State.mode, State.incF, psOff, hreason]

theorem calEnd_fails {dt : Nat} {n : Fin 16} {s : State} (hrun : s.clk.running = true) (hmode : s.mode = stAutonomous) (hstate : s.pstate n = psCal)
    (hphase : (s.port n).cal.phase = 3) (i : Fin 3) : Completes (.calEnd dt n (some i)) s fun t =>
      t.pstate n = psOff ∧ t.getF (F.RFP_STATUS_CAL_OK n) = 0 ∧ t.getF (F.RFP_CAL_STATUS_LAST n) = 2 ∧ t.getF (F.RFP_CAL_STATUS_REASON n) = i.val + 1 := by
  have hexec : exec (.calEnd dt n (some i)) s = .next (bootCalEnded n false (calFail n (i.val + 1) (s.elapse dt))) := exec_calEnd hrun hstate hphase (some i)
  obtain ⟨hoff, hcalOk, hlast, hreason, hmode'⟩ := calFail_status n i (s.elapse dt)
  rw [bootCalEnded_autonomous (hmode'.trans hmode)] at hexec
  exact ⟨_, hexec, hoff, hcalOk, hlast, hreason⟩

/-- Settles O37: the triggers, the start at a boundary, the entry into CAL, and the two ends. -/
theorem calibration : Obligations.Calibration := by
  intro dt m n s hrun hmode
  refine ⟨fun hcore howns hen => ⟨calReq_pends hmode hcore howns hen, calReq_starts hmode hcore howns hen⟩, fun l hlast hoff hphase =>
    ⟨calTempCheck_pends hrun hlast hoff hphase, calPeriodExpire_pends hrun hlast hoff hphase⟩, calStart_forced hrun, calEnter_enters hrun, fun hstate hphase hheld =>
    ⟨calEnd_succeeds hrun hmode hstate hphase hheld, calEnd_fails hrun hmode hstate hphase⟩⟩

end Sys2Proof.Machine

/-! SUPPORT. The demodulators of a port: what claims, releases and failed receptions change, and what they leave (R188 to R193). -/

namespace Sys2Proof.Machine

/-! Demodulators as a map. -/

@[simp] theorem State.demod_setDemod_self (s : State) (n d : Nat) (x : Option Demod) : (s.setDemod n d x).demod n d = x := Sparse.get_set_self ..

theorem State.demod_of_demods {s t : State} (h : t.demods = s.demods) (n d : Nat) : t.demod n d = s.demod n d :=
  congrArg (fun m => Sparse.get (fun _ => none) m (64 * n + d)) h

@[simp] theorem State.reg_setDemod (s : State) (n d : Nat) (x : Option Demod) (a : Nat) : (s.setDemod n d x).reg a = s.reg a := State.reg_of_regs rfl a
@[simp] theorem State.getF_setDemod (s : State) (n d : Nat) (x : Option Demod) (f : Field) : (s.setDemod n d x).getF f = s.getF f := State.getF_of_regs rfl f

/-! Fields of RFPn_RX_LASTFAIL and RFPn_RXCNT after a write (R192). -/

/-- The top bits of a word put together from parts. -/
theorem bitsOf_ofNat_top {lo v r : Nat} (hlo : lo < 32) (hv : v < 2 ^ (32 - lo)) (hr : r < 2 ^ lo) : bitsOf (BitVec.ofNat 32 (v * 2 ^ lo + r)) 31 lo = v := by
  have hsplit : 2 ^ (32 - lo) * 2 ^ lo = 2 ^ 32 := by rw [← Nat.pow_add, Nat.sub_add_cancel hlo.le]
  have hword : v * 2 ^ lo + r < 2 ^ 32 := by
    calc v * 2 ^ lo + r < (v + 1) * 2 ^ lo := by rw [Nat.add_mul]; omega
      _ ≤ 2 ^ 32 := hsplit ▸ Nat.mul_le_mul_right _ hv
  have htop : (v * 2 ^ lo + r) / 2 ^ lo = v := by
    rw [Nat.add_comm, Nat.add_mul_div_right _ _ (Nat.two_pow_pos lo), Nat.div_eq_of_lt hr, Nat.zero_add]
  have hwidth : 31 + 1 - lo = 32 - lo := by omega
  rw [bitsOf, BitVec.toNat_ofNat, Nat.mod_eq_of_lt hword, htop, hwidth, Nat.mod_eq_of_lt hv]

/-- A step of RFPn_RXCNT_j, as RFPn_RXCNT_k shows it. -/
theorem rxCount_incF (n j k : Nat) (s : State) : (s.incF (F.RFP_RXCNT_COUNT n j)).getF (F.RFP_RXCNT_COUNT n k) =
    if k = j then (s.getF (F.RFP_RXCNT_COUNT n k) + 1) % 2 ^ 32 else s.getF (F.RFP_RXCNT_COUNT n k) := by
  unfold State.incF
  split
  · next h => rw [h, getF_setF_same _ _ (Nat.zero_le 31) (by decide)]
  · next h => exact State.getF_setF_ne _ _ (by dsimp only; omega)

theorem rxCount_recordFail (n o channel mode k : Nat) (rssi : Int) (s : State) : (recordFail n o channel mode rssi s).getF (F.RFP_RXCNT_COUNT n k) =
    if k = roCounter o then (s.getF (F.RFP_RXCNT_COUNT n k) + 1) % 2 ^ 32 else s.getF (F.RFP_RXCNT_COUNT n k) :=
  (State.getF_of_reg (State.reg_setReg_ne _ _ (by dsimp only; omega))).trans (rxCount_incF ..)

theorem lastFail_recordFail {o : Nat} (ho : o < 16) (n channel mode : Nat) (rssi : Int) (s : State) :
    bitsOf ((recordFail n o channel mode rssi s).reg (0x4011C + 32768 * n)) 31 28 = o := by
  have hrssi := ofSigned_lt 16 rssi
  rw [recordFail, State.reg_setReg_self, Nat.mod_eq_of_lt ho, Nat.add_assoc, Nat.add_assoc]
  exact bitsOf_ofNat_top (by decide) ho (by omega)

/-! The frame of the pool: registers of the receiver, demodulators and the record of occupancy change, and nothing else (R101, R188). -/

/-- The state without registers, demodulators and what power accounting holds. -/
def State.besidePool (s : State) : State := { s with regs := [], demods := [], power := State.reset.power }

/-- Of the registers only those listed change, and beside them no part but demodulators and power accounting. -/
structure PoolStep (l : List Nat) (s t : State) : Prop where
  regs : OnlyRegs l s t
  rest : t.besidePool = s.besidePool

section
variable {l k : List Nat} {s t u : State}

theorem PoolStep.trans (h : PoolStep l s t) (h' : PoolStep k t u) : PoolStep (l ++ k) s u := ⟨h.regs.trans h'.regs, h'.rest.trans h.rest⟩
theorem PoolStep.mono (h : PoolStep l s t) (hlk : l ⊆ k) : PoolStep k s t := ⟨h.regs.mono hlk, h.rest⟩
theorem PoolStep.andThen (h : PoolStep l s t) (h' : PoolStep l t u) : PoolStep l s u := (h.trans h').mono (by simp)
theorem PoolStep.ite {c : Prop} [Decidable c] (h : PoolStep l s t) (h' : PoolStep l s u) : PoolStep l s (if c then t else u) := by
  split <;> assumption

/-- What touches demodulators and power accounting alone. -/
theorem PoolStep.of_regs (hregs : t.regs = s.regs) (hrest : t.besidePool = s.besidePool) : PoolStep [] s t := ⟨OnlyRegs.of_regs [] hregs, hrest⟩

/-- A part beside those is as it was. -/
theorem PoolStep.part (h : PoolStep l s t) {α : Type} (f : State → α) (hf : ∀ u, f u.besidePool = f u) : f t = f s :=
  (hf t).symm.trans ((congrArg f h.rest).trans (hf s))

theorem PoolStep.dram (h : PoolStep l s t) : t.dram = s.dram := h.part State.dram fun _ => rfl
theorem PoolStep.tabs (h : PoolStep l s t) : t.tabs = s.tabs := h.part State.tabs fun _ => rfl
theorem PoolStep.out (h : PoolStep l s t) : t.out = s.out := h.part State.out fun _ => rfl
theorem PoolStep.clk (h : PoolStep l s t) : t.clk = s.clk := h.part State.clk fun _ => rfl
theorem PoolStep.fab (h : PoolStep l s t) : t.fab = s.fab := h.part State.fab fun _ => rfl
end

theorem PoolStep.setReg (s : State) (a : Nat) (w : Word) : PoolStep [a] s (s.setReg a w) := ⟨OnlyRegs.setReg s a w, rfl⟩
theorem PoolStep.setF (s : State) (f : Field) (v : Nat) : PoolStep [f.addr] s (s.setF f v) := PoolStep.setReg s _ _
theorem PoolStep.incF (s : State) (f : Field) : PoolStep [f.addr] s (s.incF f) := PoolStep.setF s f _
theorem PoolStep.setDemod (s : State) (n d : Nat) (x : Option Demod) : PoolStep [] s (s.setDemod n d x) := PoolStep.of_regs rfl rfl

/-- RFPn_POOL_STATUS, POOL_BUSY0 and POOL_BUSY1. -/
def poolRegs (n : Nat) : List Nat := [0x40110 + 32768 * n, 0x40114 + 32768 * n, 0x40118 + 32768 * n]

theorem not_mem_poolRegs {n a : Nat} (h : 0x4011C + 32768 * n ≤ a) : a ∉ poolRegs n := by
  simp only [poolRegs, List.mem_cons, List.not_mem_nil, or_false]
  omega

theorem PoolStep.syncPool (n : Nat) (s : State) : PoolStep (poolRegs n) s (syncPool n s) := by
  have hbusy := ((PoolStep.setF s (F.RFP_POOL_BUSY0_BUSY n) (busyBits n 0 s)).trans
    (PoolStep.setF _ (F.RFP_POOL_BUSY1_BUSY n) (busyBits n 32 (s.setF (F.RFP_POOL_BUSY0_BUSY n) (busyBits n 0 s))))).trans (PoolStep.setF _ (F.RFP_POOL_STATUS_BUSY n) (busyCount n s))
  refine PoolStep.ite ((hbusy.trans (PoolStep.setF _ (F.RFP_POOL_STATUS_PEAK n) (busyCount n s))).mono ?_) (hbusy.mono ?_) <;> simp [poolRegs]

@[simp] theorem syncPool_demods (n : Nat) (s : State) : (syncPool n s).demods = s.demods := by
  unfold syncPool
  dsimp only
  split <;> rfl

/-! A claim (R188). -/

theorem PoolStep.claim (n d channel mode : Nat) (power : Int) (s : State) : PoolStep (poolRegs n) s (claim n d channel mode power s) := by
  unfold Machine.claim
  extract_lets noise x s1 used
  have hsync : PoolStep (poolRegs n) s s1 := (PoolStep.setDemod s n d _).trans (PoolStep.syncPool n _)
  exact hsync.ite ⟨hsync.regs, hsync.rest⟩

/-- The demodulator as the claim leaves it. -/
theorem demod_claim (n d channel mode : Nat) (power : Int) (s : State) :
    ((claim n d channel mode power s).demod n d).map (fun x => (x.channel, x.mode, x.cls, x.power, x.detected, x.sfd.isNone)) =
      some (channel, mode, chanClass n channel s, power, s.clk.slot, true) := by
  unfold claim
  extract_lets noise x s1 used
  have hdemod : s1.demod n d = some x := (State.demod_of_demods (syncPool_demods ..) n d).trans (State.demod_setDemod_self ..)
  split <;> exact congrArg _ hdemod

theorem PoolStep.countedClaim (n d channel mode : Nat) (power : Int) (s : State) :
    PoolStep ((F.RFP_RXCNT_COUNT n 1).addr :: poolRegs n) s (countedClaim n d channel mode power s) :=
  (PoolStep.incF s _).trans (PoolStep.claim ..)

theorem rxCount_countedClaim (n d channel mode k : Nat) (power : Int) (s : State) :
    (countedClaim n d channel mode power s).getF (F.RFP_RXCNT_COUNT n k) =
      if k = 1 then (s.getF (F.RFP_RXCNT_COUNT n k) + 1) % 2 ^ 32 else s.getF (F.RFP_RXCNT_COUNT n k) :=
  ((PoolStep.claim ..).regs.getF (not_mem_poolRegs (by dsimp only; omega))).trans (rxCount_incF ..)

/-! A reception that ends (R191, R192). -/

theorem PoolStep.recordFail (n o channel mode : Nat) (rssi : Int) (s : State) :
    PoolStep [(F.RFP_RXCNT_COUNT n (roCounter o)).addr, 0x4011C + 32768 * n] s (recordFail n o channel mode rssi s) :=
  (PoolStep.incF s _).trans (PoolStep.setReg ..)

theorem demod_recordFail (n o channel mode m d : Nat) (rssi : Int) (s : State) : (recordFail n o channel mode rssi s).demod m d = s.demod m d := rfl

/-- The state with a demodulator out of the pool, its busy time added (R101). -/
def leftPool (n d : Nat) (x : Demod) (s : State) : State := syncPool n ((addBusy x s).setDemod n d none)

theorem PoolStep.leftPool (n d : Nat) (x : Demod) (s : State) : PoolStep (poolRegs n) s (leftPool n d x s) :=
  (PoolStep.of_regs (s := s) (t := (addBusy x s).setDemod n d none) rfl rfl).trans (PoolStep.syncPool n _)

theorem demod_leftPool (n d : Nat) (x : Demod) (s : State) : (leftPool n d x s).demod n d = none :=
  (State.demod_of_demods (syncPool_demods ..) n d).trans (State.demod_setDemod_self ..)

/-- A demodulator that holds no buffer, or hands it on, only leaves the pool. -/
theorem releaseDemod_eq {n d : Nat} {handedOn : Bool} {x : Demod} {s : State} (hx : s.demod n d = some x) (hkeep : handedOn = true ∨ x.buffer = none) :
    releaseDemod n d handedOn s = leftPool n d x s := by
  rw [releaseDemod, hx]
  dsimp only
  split
  · next h hbuf => exact if_pos (hkeep.resolve_right (by simp [hbuf]))
  · rfl

/-- One that fails with a buffer gives it back, too (R350). -/
theorem releaseDemod_of_buffer {n d h : Nat} {x : Demod} {s : State} (hx : s.demod n d = some x) (hbuf : x.buffer = some h) :
    releaseDemod n d false s = poolFree h (leftPool n d x s) := by
  rw [releaseDemod, hx]
  dsimp only
  rw [hbuf]
  rfl

theorem failRx_eq {n d : Nat} {x : Demod} {s : State} (hx : s.demod n d = some x) (o : Nat) :
    failRx n d o s = releaseDemod n d false (recordFail n o x.channel x.mode (rssiOf n x s) s) := by
  rw [failRx, hx]

end Sys2Proof.Machine

/-! SUPPORT. What a detection does: the four cases of R186, R188 and R189. -/

namespace Sys2Proof.Machine

/-! The pool as a detection finds it, after its count in RXCNT_0. -/

theorem awakeBanks_rxCounted (n k m : Nat) (s : State) : awakeBanks m (s.incF (F.RFP_RXCNT_COUNT n k)) = awakeBanks m s := by
  have hpower : (s.incF (F.RFP_RXCNT_COUNT n k)).power = s.power := rfl
  have hbanks : (s.incF (F.RFP_RXCNT_COUNT n k)).reg 0x1010C = s.reg 0x1010C := State.reg_incF_ne s (by dsimp only; omega)
  rw [awakeBanks, awakeBanks, hpower, hbanks]

theorem freeDemod_rxCounted (n k m : Nat) (s : State) : freeDemod m (s.incF (F.RFP_RXCNT_COUNT n k)) = freeDemod m s := by
  rw [freeDemod, freeDemod, awakeBanks_rxCounted]
  rfl

theorem chanClass_of_tabs {s t : State} (h : t.tabs = s.tabs) (n c : Nat) : chanClass n c t = chanClass n c s := by
  simp only [chanClass, chanWord, State.tab, h]

theorem detect_of_free {n channel mode d : Nat} {power : Int} {s : State} (hholder : holder n channel s = none) (hfree : freeDemod n s = some d) :
    detect n channel mode power s = countedClaim n d channel mode power (s.incF (F.RFP_RXCNT_COUNT n 0)) := by
  simp only [detect, hholder, freeDemod_rxCounted, hfree]

theorem detect_of_full {n channel mode : Nat} {power : Int} {s : State} (hholder : holder n channel s = none) (hfree : freeDemod n s = none)
    (hawake : awakeBanks n s = 4) : detect n channel mode power s = fullPool n channel mode power (s.incF (F.RFP_RXCNT_COUNT n 0)) := by
  simp only [detect, hholder, freeDemod_rxCounted, hfree, awakeBanks_rxCounted, hawake, Nat.lt_irrefl, if_false]

/-- DETECTION where energy, preamble and carrier count on an open path (R185, R187). -/
theorem exec_detection {dt : Nat} {n : Fin 16} {c : Fin 128} {mode : Fin 8} {power fofs : Int} {s : State} (hrun : s.clk.running = true)
    (hstate : s.pstate n = psRx ∨ s.pstate n = psQuiet) (hblank : s.getF (F.RFP_STATUS_BLANK n) = 0) (hon : chanOn n c s = true)
    (hmode : chanModes n c s / 2 ^ mode.val % 2 = 1) (hcorr : correlates n c power fofs s = true) :
    exec (.detection dt n c mode power fofs) s = .next (detect n c mode power (s.elapse dt)) := by
  change execDetection dt n c mode power fofs s = _
  unfold execDetection
  dsimp only
  rw [if_neg (by simp [hrun])]
  exact if_pos ⟨hstate, hblank, hon, hmode, hcorr⟩

/-! Registers and counters of a detection. -/

/-- The registers that a detection may change: RXCNT_0, 1, 8, 9 and 11, those of the pool, and RX_LASTFAIL. -/
def detectionRegs (n : Nat) : List Nat :=
  [0, 1, 8, 9, 11].map (fun k => (F.RFP_RXCNT_COUNT n k).addr) ++
    [(F.RFP_POOL_STATUS_BUSY n).addr, (F.RFP_POOL_BUSY0_BUSY n).addr, (F.RFP_POOL_BUSY1_BUSY n).addr, 0x4011C + 32768 * n]

theorem rxCount_mem_detectionRegs {n k : Nat} (hk : k ∈ [0, 1, 8, 9, 11]) : (F.RFP_RXCNT_COUNT n k).addr ∈ detectionRegs n :=
  List.mem_append_left _ (List.mem_map_of_mem hk)

theorem poolRegs_subset_detectionRegs (n : Nat) : poolRegs n ⊆ detectionRegs n := by
  simp [poolRegs, detectionRegs]

theorem rxCounted_step {n k : Nat} (hk : k ∈ [0, 1, 8, 9, 11]) (s : State) : PoolStep (detectionRegs n) s (s.incF (F.RFP_RXCNT_COUNT n k)) :=
  (PoolStep.incF s _).mono (List.cons_subset.2 ⟨rxCount_mem_detectionRegs hk, List.nil_subset _⟩)

theorem recordFail_step {n o : Nat} (ho : roCounter o ∈ [0, 1, 8, 9, 11]) (channel mode : Nat) (rssi : Int) (s : State) :
    PoolStep (detectionRegs n) s (recordFail n o channel mode rssi s) :=
  (PoolStep.recordFail ..).mono (List.cons_subset.2 ⟨rxCount_mem_detectionRegs ho, by simp [detectionRegs]⟩)

theorem countedClaim_step (n d channel mode : Nat) (power : Int) (s : State) : PoolStep (detectionRegs n) s (countedClaim n d channel mode power s) :=
  (PoolStep.countedClaim ..).mono (List.cons_subset.2 ⟨rxCount_mem_detectionRegs (by decide), poolRegs_subset_detectionRegs n⟩)

/-- A demodulator receives a preamble of these terms, detected now. -/
def Serves (n c mode cls : Nat) (power : Int) (d : Nat) (t : State) : Prop :=
  (t.demod n d).map (fun x => (x.channel, x.mode, x.cls, x.power, x.detected, x.sfd.isNone)) = some (c, mode, cls, power, t.clk.slot, true)

/-- RFPn_RXCNT_k is one further. -/
def RxCounted (n k : Nat) (s t : State) : Prop := t.getF (F.RFP_RXCNT_COUNT n k) = (s.getF (F.RFP_RXCNT_COUNT n k) + 1) % 2 ^ 32

theorem serves_countedClaim (n d c mode : Nat) (power : Int) (s : State) : Serves n c mode (chanClass n c s) power d (countedClaim n d c mode power s) := by
  have hclk : (countedClaim n d c mode power s).clk = s.clk := (PoolStep.countedClaim ..).clk
  rw [Serves, hclk]
  exact demod_claim ..

section
variable {n c mode : Nat} {power : Int} {s : State}

/-- A free demodulator is claimed (R188). -/
theorem detect_claims {d : Nat} (hholder : holder n c s = none) (hfree : freeDemod n s = some d) :
    Serves n c mode (chanClass n c s) power d (detect n c mode power s) ∧ RxCounted n 0 s (detect n c mode power s) ∧
      RxCounted n 1 s (detect n c mode power s) ∧ PoolStep (detectionRegs n) s (detect n c mode power s) := by
  rw [detect_of_free hholder hfree]
  refine ⟨serves_countedClaim .., ?_, ?_, (rxCounted_step (by decide) s).andThen (countedClaim_step ..)⟩ <;> rw [RxCounted, rxCount_countedClaim, rxCount_incF] <;> rfl

/-- In a full pool a demodulator of a lower class without a buffer is taken, its reception PREEMPTED (R189). -/
theorem detect_preempts {d : Nat} {x : Demod} (hholder : holder n c s = none) (hfree : freeDemod n s = none) (hawake : awakeBanks n s = 4)
    (hvictim : victim n (chanClass n c s) s = some d) (hx : s.demod n d = some x) (hbuf : x.buffer = none) :
    Serves n c mode (chanClass n c s) power d (detect n c mode power s) ∧ RxCounted n 0 s (detect n c mode power s) ∧
      RxCounted n 1 s (detect n c mode power s) ∧ RxCounted n 8 s (detect n c mode power s) ∧
      bitsOf ((detect n c mode power s).reg (0x4011C + 32768 * n)) 31 28 = roPreempted ∧ PoolStep (detectionRegs n) s (detect n c mode power s) := by
  have hfull : fullPool n c mode power (s.incF (F.RFP_RXCNT_COUNT n 0)) =
      countedClaim n d c mode power (failRx n d roPreempted (s.incF (F.RFP_RXCNT_COUNT n 0))) := by
    have hvictim' : victim n (chanClass n c (s.incF (F.RFP_RXCNT_COUNT n 0))) (s.incF (F.RFP_RXCNT_COUNT n 0)) = some d := hvictim
    rw [fullPool, hvictim']
  rw [detect_of_full hholder hfree hawake, hfull, failRx_eq (s := s.incF (F.RFP_RXCNT_COUNT n 0)) (x := x) hx]
  generalize hs1 : s.incF (F.RFP_RXCNT_COUNT n 0) = s1
  generalize hs2 : recordFail n roPreempted x.channel x.mode (rssiOf n x s1) s1 = s2
  have hx2 : s2.demod n d = some x := by
    rw [← hs2, demod_recordFail, ← hs1]
    exact hx
  rw [releaseDemod_eq hx2 (.inr hbuf)]
  have hleft := PoolStep.leftPool n d x s2
  have hfail : PoolStep (detectionRegs n) s s2 := by
    rw [← hs2, ← hs1]
    exact (rxCounted_step (by decide) s).andThen (recordFail_step (by decide) ..)
  have hout : PoolStep (detectionRegs n) s (leftPool n d x s2) := hfail.andThen (hleft.mono (poolRegs_subset_detectionRegs n))
  have hcls : chanClass n c s = chanClass n c (leftPool n d x s2) := (chanClass_of_tabs hout.tabs n c).symm
  have hcount (k : Nat) : (leftPool n d x s2).getF (F.RFP_RXCNT_COUNT n k) = s2.getF (F.RFP_RXCNT_COUNT n k) :=
    hleft.regs.getF (not_mem_poolRegs (by dsimp only; omega))
  have hlast : (countedClaim n d c mode power (leftPool n d x s2)).reg (0x4011C + 32768 * n) = s2.reg (0x4011C + 32768 * n) :=
    ((PoolStep.countedClaim ..).regs _ (by simp [poolRegs]; omega)).trans (hleft.regs _ (not_mem_poolRegs le_rfl))
  refine ⟨hcls ▸ serves_countedClaim .., ?_, ?_, ?_, ?_, hout.andThen (countedClaim_step ..)⟩
  case refine_4 => rw [hlast, ← hs2, lastFail_recordFail (by decide)]
  all_goals rw [RxCounted, rxCount_countedClaim, hcount, ← hs2, rxCount_recordFail, ← hs1, rxCount_incF]; rfl

/-- A detection not taken is recorded, and the first of the slot noticed (R192). -/
def notTaken (n c mode : Nat) (s : State) : State :=
  let s := recordFail n roNotTaken c mode 0 s
  if slotFlag n 1 s then s else notify (N.POOL_FULL n) scOk n c (setSlotFlag n 1 s)

theorem setSlotFlag_parts (n b : Nat) (s : State) :
    ((setSlotFlag n b s).regs, (setSlotFlag n b s).dram, (setSlotFlag n b s).demods, (setSlotFlag n b s).tabs) = (s.regs, s.dram, s.demods, s.tabs) := by
  unfold setSlotFlag
  split <;> rfl

/-- Beside the record only the notice's registers and its ring change. -/
theorem notTaken_frame {n c mode : Nat} {s u : State} (hu : recordFail n roNotTaken c mode 0 s = u) :
    OnlyRegs noticeRegs u (notTaken n c mode s) ∧ OnlyRing u (notTaken n c mode s) ∧ (notTaken n c mode s).demods = u.demods ∧ (notTaken n c mode s).tabs = u.tabs := by
  rw [notTaken, hu]
  split
  · exact ⟨OnlyRegs.of_regs _ rfl, fun _ _ => rfl, rfl, rfl⟩
  · have hparts := setSlotFlag_parts n 1 u
    simp only [Prod.mk.injEq] at hparts
    obtain ⟨hregs, hdram, hdemods, htabs⟩ := hparts
    exact ⟨(OnlyRegs.of_regs [] hregs).trans (OnlyRegs.notify _ _ _ _ _),
      OnlyRing.notify_of_dram hdram (State.reg_of_regs hregs _) (State.reg_of_regs hregs _) _ _ _ _,
      (notify_demods ..).trans hdemods, (notify_tabs ..).trans htabs⟩

/-- A full pool without a demodulator of a lower class does not take the detection (R189, R192). -/
theorem detect_not_taken (hc : c < 128) (hmode : mode < 16) (hholder : holder n c s = none) (hfree : freeDemod n s = none) (hawake : awakeBanks n s = 4)
    (hvictim : victim n (chanClass n c s) s = none) :
    RxCounted n 0 s (detect n c mode power s) ∧ RxCounted n 9 s (detect n c mode power s) ∧
      (detect n c mode power s).reg (0x4011C + 32768 * n) = BitVec.ofNat 32 (roNotTaken * 2 ^ 28 + c * 2 ^ 20 + mode * 2 ^ 16) ∧
      (detect n c mode power s).demods = s.demods ∧ OnlyRegs (detectionRegs n ++ noticeRegs) s (detect n c mode power s) ∧
      OnlyRing s (detect n c mode power s) ∧ (detect n c mode power s).tabs = s.tabs := by
  have hfull : fullPool n c mode power (s.incF (F.RFP_RXCNT_COUNT n 0)) = notTaken n c mode (s.incF (F.RFP_RXCNT_COUNT n 0)) := by
    have hvictim' : victim n (chanClass n c (s.incF (F.RFP_RXCNT_COUNT n 0))) (s.incF (F.RFP_RXCNT_COUNT n 0)) = none := hvictim
    rw [fullPool, hvictim']
    rfl
  rw [detect_of_full hholder hfree hawake, hfull]
  generalize hu : recordFail n roNotTaken c mode 0 (s.incF (F.RFP_RXCNT_COUNT n 0)) = u
  obtain ⟨hnotice, hring, hdemods, htabs⟩ := notTaken_frame hu
  have hstep : PoolStep (detectionRegs n) s u := by
    rw [← hu]
    exact (rxCounted_step (by decide) s).andThen (recordFail_step (by decide) ..)
  have hcounts (k : Nat) : (notTaken n c mode (s.incF (F.RFP_RXCNT_COUNT n 0))).getF (F.RFP_RXCNT_COUNT n k) = u.getF (F.RFP_RXCNT_COUNT n k) :=
    hnotice.getF (by simp [noticeRegs]; omega)
  refine ⟨?_, ?_, ?_, hdemods.trans (by rw [← hu]; rfl), hstep.regs.trans hnotice, ?_, htabs.trans hstep.tabs⟩
  case refine_3 =>
    have hcode : roNotTaken % 16 = roNotTaken := by decide
    have hrssi : ofSigned 16 0 = 0 := by decide
    rw [hnotice _ (by simp [noticeRegs]; omega), ← hu, recordFail, State.reg_setReg_self, Nat.mod_eq_of_lt hc, Nat.mod_eq_of_lt hmode, hcode, hrssi, Nat.add_zero]
  case refine_4 =>
    intro a ha
    exact (hring a (mt (inNoticeRing_congr (hstep.regs _ (by simp [detectionRegs]; omega)) (hstep.regs _ (by simp [detectionRegs]; omega))).1 ha)).trans
      (congrArg (Sparse.get dramDefault · a) hstep.dram)
  all_goals rw [RxCounted, hcounts, ← hu, rxCount_recordFail, rxCount_incF]; rfl

/-- A stronger preamble takes over the demodulator of its channel that has no SFD yet; its claim stands (R186). -/
theorem detect_captures {d : Nat} {x : Demod} (hholder : holder n c s = some d) (hx : s.demod n d = some x) (hsfd : x.sfd = none)
    (hstrong : x.power + 4 * s.getF (F.RFP_DET_CFG_CAPTURE_DB n) ≤ power) :
    ((detect n c mode power s).demod n d).map (fun y => (y.mode, y.power, y.detected, y.claimed)) =
        some (mode, power, (detect n c mode power s).clk.slot, x.claimed) ∧
      RxCounted n 0 s (detect n c mode power s) ∧ RxCounted n 11 s (detect n c mode power s) ∧
      (detect n c mode power s).getF (F.RFP_RXCNT_COUNT n 1) = s.getF (F.RFP_RXCNT_COUNT n 1) ∧
      bitsOf ((detect n c mode power s).reg (0x4011C + 32768 * n)) 31 28 = roCaptured ∧ PoolStep (detectionRegs n) s (detect n c mode power s) := by
  generalize hu : recordFail n roCaptured x.channel x.mode (rssiOf n x s) (s.incF (F.RFP_RXCNT_COUNT n 0)) = u
  obtain ⟨y, hdetect, hy⟩ : ∃ y : Demod, detect n c mode power s = u.setDemod n d (some y) ∧ (y.mode, y.power, y.detected, y.claimed) = (mode, power, u.clk.slot, x.claimed) := by
    have hcapture : (x.sfd.isNone && decide (x.power + 4 * s.getF (F.RFP_DET_CFG_CAPTURE_DB n) ≤ power)) = true := by simp [hsfd, hstrong]
    simp only [detect, hholder, hx, if_pos hcapture, hu]
    exact ⟨_, rfl, rfl⟩
  have hstep : PoolStep (detectionRegs n) s u := by
    rw [← hu]
    exact (rxCounted_step (by decide) s).andThen (recordFail_step (by decide) ..)
  rw [hdetect]
  refine ⟨?_, ?_, ?_, ?_, ?_, (hstep.trans (PoolStep.setDemod u n d (some y))).mono (by simp)⟩
  case refine_1 =>
    rw [State.demod_setDemod_self]
    exact congrArg some hy
  case refine_5 =>
    rw [State.reg_setDemod, ← hu, lastFail_recordFail (by decide)]
  case refine_4 => rw [State.getF_setDemod, ← hu, rxCount_recordFail, rxCount_incF]; rfl
  all_goals rw [RxCounted, State.getF_setDemod, ← hu, rxCount_recordFail, rxCount_incF]; rfl
end

/-- Settles O38: a free demodulator, a full pool with and without a victim, and the capture, as they follow time's passing. -/
theorem detectionServed : Obligations.DetectionServed := by
  intro dt n c mode power fofs s hrun hstate hblank hon hmode hcorr
  have hexec := exec_detection (dt := dt) hrun hstate hblank hon hmode hcorr
  refine ⟨fun hholder => ⟨fun d hfree => ?_, fun hfree hawake => ⟨fun d hvictim hbuf => ?_, fun hvictim => ?_⟩⟩, fun d hholder x hx hsfd hstrong => ?_⟩
  · obtain ⟨hserves, h0, h1, hstep⟩ := detect_claims (mode := mode) (power := power) (s := s.elapse dt) hholder hfree
    exact ⟨_, hexec, hserves, h0, h1, hstep.regs, hstep.dram, hstep.tabs, hstep.out⟩
  · obtain ⟨x, hx, hnone⟩ := Option.any_eq_true _ _ |>.1 hbuf
    obtain ⟨hserves, h0, h1, h8, hlast, hstep⟩ :=
      detect_preempts (mode := mode) (power := power) (s := s.elapse dt) hholder hfree hawake hvictim hx (Option.isNone_iff_eq_none.1 hnone)
    exact ⟨_, hexec, hserves, h0, h1, h8, hlast, hstep.regs, hstep.dram, hstep.tabs⟩
  · exact ⟨_, hexec, detect_not_taken (s := s.elapse dt) c.isLt (by omega) hholder hfree hawake hvictim⟩
  · obtain ⟨hserves, h0, h11, h1, hlast, hstep⟩ := detect_captures (mode := mode) (s := s.elapse dt) hholder hx hsfd hstrong
    exact ⟨_, hexec, hserves, h0, h11, h1, hlast, hstep.regs, hstep.dram, hstep.tabs⟩

end Sys2Proof.Machine

/-! SUPPORT. Bytes written to device DRAM as they are read again, and the job that an engine creates while no record goes to the trace ring (R306, R312, R329, R343). -/

namespace Sys2Proof.Machine

/-! A write of whole 64-bit words (R343). -/

theorem State.byte_setByte_self (s : State) (a : Nat) (b : Byte) : (s.setByte a b).byte a = b := Sparse.get_set_self ..

/-- Bytes all of whose words are written whole are stored, uncorrectable words among them. -/
theorem State.byte_putBytes {base n a : Nat} {l : List Byte} {s : State} (hwhole : ∀ k < l.length, wholeWord base n ((a + k) / 8) = true) {k : Nat} (hk : k < l.length) :
    (State.putBytes base n a l s).byte (a + k) = l.getD k 0 := by
  induction l generalizing a k s with
  | nil => exact absurd hk (Nat.not_lt_zero k)
  | cons b l ih =>
    have hfirst : wholeWord base n (a / 8) = true := hwhole 0 (Nat.succ_pos _)
    rw [State.putBytes, hfirst, Bool.not_true, Bool.and_false, if_neg Bool.false_ne_true]
    cases k with
    | zero => exact (State.byte_putBytes_ne (.inl (Nat.lt_succ_self a))).trans (State.byte_setByte_self s a b)
    | succ k =>
      have hnext : a + (k + 1) = a + 1 + k := by omega
      rw [hnext, ih (fun j hj => ?_) (Nat.lt_of_succ_lt_succ hk)]
      · rfl
      · have h := hwhole (j + 1) (Nat.succ_lt_succ hj)
        rwa [show a + (j + 1) = a + 1 + j by omega] at h

/-- Aligned words written to DRAM read back. -/
theorem State.byte_setBytes {a : Nat} {l : List Byte} {s : State} (ha : a % 8 = 0) (hl : l.length % 8 = 0) {k : Nat} (hk : k < l.length) :
    (s.setBytes a l).byte (a + k) = l.getD k 0 := by
  cases l with
  | nil => exact absurd hk (Nat.not_lt_zero k)
  | cons b l =>
    have hwhole : ∀ j < (b :: l).length, wholeWord a (b :: l).length ((a + j) / 8) = true := by
      intro j hj
      simp only [wholeWord, Bool.and_eq_true, decide_eq_true_eq]
      omega
    exact (congrArg (Sparse.get dramDefault · (a + k)) State.mendWords_dram).trans (State.byte_putBytes hwhole hk)

/-! The fabric's own part of the state, while TRC_RING_CTRL.EN is 0. -/

/-- Registers below the fabric's and TRC_RING_CTRL, device DRAM and the demodulators are as they were. -/
structure FabricStep (s t : State) : Prop where
  reg : ∀ a, a < 0x100000 ∨ a = 0x108004 → t.reg a = s.reg a
  parts : (t.dram, t.demods) = (s.dram, s.demods)

section
variable {s t u : State}

theorem FabricStep.trans (h : FabricStep s t) (h' : FabricStep t u) : FabricStep s u := ⟨fun a ha => (h'.reg a ha).trans (h.reg a ha), h'.parts.trans h.parts⟩
theorem FabricStep.dram (h : FabricStep s t) : t.dram = s.dram := congrArg Prod.fst h.parts
theorem FabricStep.demods (h : FabricStep s t) : t.demods = s.demods := congrArg Prod.snd h.parts
theorem FabricStep.ringOff (h : FabricStep s t) (hoff : s.getF F.TRC_RING_CTRL_EN = 0) : t.getF F.TRC_RING_CTRL_EN = 0 := (State.getF_of_reg (h.reg _ (.inr rfl))).trans hoff

/-- What touches none of these parts. -/
theorem FabricStep.of_parts (hregs : t.regs = s.regs) (hparts : (t.dram, t.demods) = (s.dram, s.demods)) : FabricStep s t :=
  ⟨fun a _ => State.reg_of_regs hregs a, hparts⟩
end

theorem FabricStep.setReg (s : State) {a : Nat} (w : Word) (ha : 0x100000 ≤ a ∧ a ≠ 0x108004) : FabricStep s (s.setReg a w) :=
  ⟨fun b hb => State.reg_setReg_ne s w (by omega), rfl⟩

theorem FabricStep.syncJobs (s : State) : FabricStep s (syncJobs s) :=
  (FabricStep.setReg s (a := 0x100000) _ (by decide)).trans (FabricStep.setReg _ (a := 0x100000) _ (by decide))

theorem FabricStep.syncReady {c : Nat} (hc : c < 16) (s : State) : FabricStep s (syncReady c s) := by
  unfold Machine.syncReady
  split <;> exact FabricStep.setReg s _ (by omega)

theorem tracePort_frame (bs : List Byte) (s : State) : FabricStep s (tracePort bs s) ∧ (tracePort bs s).fab.jobs = s.fab.jobs := by
  unfold tracePort
  extract_lets n s1 _ s2
  split
  · have hlost : FabricStep s s1 := FabricStep.setReg s (a := 0x108018) _ (by decide)
    exact ⟨hlost.trans (FabricStep.of_parts rfl rfl), rfl⟩
  · have howed : FabricStep s s2 ∧ s2.fab.jobs = s.fab.jobs := by
      dsimp only [s2]
      split <;> exact ⟨FabricStep.of_parts rfl rfl, rfl⟩
    exact ⟨howed.1.trans (FabricStep.of_parts rfl rfl), howed.2⟩

section
variable {cls id prio event arg : Nat} {s : State} (hoff : s.getF F.TRC_RING_CTRL_EN = 0)
include hoff

/-- With the ring off a record goes to the trace port at most. -/
theorem trace_of_ringOff : trace cls id prio event arg s = s ∨ ∃ bs, trace cls id prio event arg s = tracePort bs s := by
  have hring (p : Prop) : ¬ (s.getF F.TRC_RING_CTRL_EN = 1 ∧ p) := fun h => absurd (hoff.symm.trans h.1) Nat.zero_ne_one
  unfold trace
  extract_lets bs mark s1
  have hs1 : s1 = s := if_neg (hring _)
  rw [hs1]
  split
  · exact .inr ⟨bs, rfl⟩
  · exact .inl rfl

theorem trace_frame : FabricStep s (trace cls id prio event arg s) ∧ (trace cls id prio event arg s).fab.jobs = s.fab.jobs := by
  obtain h | ⟨bs, h⟩ := trace_of_ringOff (cls := cls) (id := id) (prio := prio) (event := event) (arg := arg) hoff
  · rw [h]
    exact ⟨FabricStep.of_parts rfl rfl, rfl⟩
  · rw [h]
    exact tracePort_frame bs s
end

/-! A job created (R306, R312). -/

theorem State.job_of_jobs {s t : State} (h : t.fab.jobs = s.fab.jobs) (i : Nat) : t.job i = s.job i := congrArg (fun m => Sparse.get (fun _ => none) m i) h
theorem State.job_setJob_self (s : State) (i : Nat) (j : Option Job) : (s.setJob i j).job i = j := Sparse.get_set_self ..
theorem freeId_of_jobs {s t : State} (h : t.fab.jobs = s.fab.jobs) : freeId t = freeId s := by
  simp only [freeId, State.job_of_jobs h]

theorem syncReady_jobs (c : Nat) (s : State) : (syncReady c s).fab.jobs = s.fab.jobs := by
  unfold syncReady
  split <;> rfl

theorem makeReady_of_ringOff {i : Nat} {j : Job} {s : State} (hoff : s.getF F.TRC_RING_CTRL_EN = 0) (hcls : j.cls < 16) :
    FabricStep s (makeReady i j s) ∧ (makeReady i j s).job i = some { j with state := jsReady } := by
  unfold makeReady
  extract_lets l s1
  have hlist : FabricStep s s1 := FabricStep.of_parts rfl rfl
  have hsync := (hlist.trans (FabricStep.syncReady hcls s1)).trans (FabricStep.syncJobs _)
  have hready : s1.job i = some { j with state := jsReady } := State.job_setJob_self s i _
  have hjobs : (syncJobs (syncReady j.cls s1)).fab.jobs = s1.fab.jobs := syncReady_jobs ..
  obtain ⟨htrace, htraceJobs⟩ := trace_frame (cls := j.cls) (id := i) (prio := j.prio) (event := 3) (arg := l.length) (hsync.ringOff hoff)
  exact ⟨hsync.trans htrace, (State.job_of_jobs (htraceJobs.trans hjobs) i).trans hready⟩

/-- A created job takes the lowest free ID and is READY. -/
theorem createJob_of_ringOff {mk : State → Job} {i : Nat} {s : State} (hoff : s.getF F.TRC_RING_CTRL_EN = 0) (hid : freeId s = some i) (hcls : (mk s).cls < 16) :
    FabricStep s (createJob mk s) ∧ (createJob mk s).job i = some { mk s with state := jsReady } := by
  have hcreate : createJob mk s = createWith i (mk s) s := by
    unfold createJob
    generalize freeId s = o at hid
    subst hid
    rfl
  rw [hcreate, createWith]
  have hcount : FabricStep s (s.incF (F.JOB_CNT_COUNT 0)) := FabricStep.setReg s (a := 0x100100) _ (by decide)
  have htrace := hcount.trans (trace_frame (cls := (mk s).cls) (id := i) (prio := (mk s).prio) (event := 1) (arg := (mk s).creator) (hcount.ringOff hoff)).1
  obtain ⟨hstep, hjob⟩ := makeReady_of_ringOff (i := i) (htrace.ringOff hoff) hcls
  exact ⟨htrace.trans hstep, hjob⟩

end Sys2Proof.Machine

/-! SUPPORT. The stages of a reception: its SFD, its PHR, its end, and the noise floor of its channel (R184, R191, R195, R196). -/

namespace Sys2Proof.Machine

/-! A reception that ends with a buffer gives it back (R191, R350). -/

theorem noteLow_frame (s : State) : OnlyRegs noticeRegs s (noteLow s) ∧ (noteLow s).demods = s.demods := by
  have harmed (b : Bool) : OnlyRegs [] s { s with mem := { s.mem with lowArmed := b } } := OnlyRegs.of_regs [] rfl
  unfold noteLow
  extract_lets mark
  split
  · exact ⟨(harmed false).trans (OnlyRegs.notify _ _ _ _ _), notify_demods ..⟩
  · split <;> exact ⟨OnlyRegs.of_regs _ rfl, rfl⟩

theorem poolFree_frame (h : Nat) (s : State) : OnlyRegs ((F.BMP_CNT_COUNT 1).addr :: noticeRegs) s (poolFree h s) ∧ (poolFree h s).demods = s.demods := by
  unfold poolFree
  extract_lets i _ s1
  split
  · exact ⟨OnlyRegs.of_regs _ rfl, rfl⟩
  · split
    · obtain ⟨hregs, hdemods⟩ := noteLow_frame (s1.incF (F.BMP_CNT_COUNT 1))
      have hfreed : OnlyRegs [] s s1 := OnlyRegs.of_regs [] rfl
      exact ⟨(hfreed.trans (OnlyRegs.setF s1 (F.BMP_CNT_COUNT 1) _)).trans hregs, hdemods⟩
    · exact ⟨OnlyRegs.of_regs _ rfl, rfl⟩

/-- A demodulator that fails is free, and the receiver's registers from RX_LASTFAIL on stand. -/
theorem releaseDemod_frame {n d : Nat} {x : Demod} {s : State} (hx : s.demod n d = some x) :
    (releaseDemod n d false s).demod n d = none ∧ OnlyRegs (poolRegs n ++ (F.BMP_CNT_COUNT 1).addr :: noticeRegs) s (releaseDemod n d false s) := by
  have hleft := PoolStep.leftPool n d x s
  cases hbuf : x.buffer with
  | none =>
    rw [releaseDemod_eq hx (.inr hbuf)]
    exact ⟨demod_leftPool .., hleft.regs.mono (List.subset_append_left ..)⟩
  | some h =>
    rw [releaseDemod_of_buffer hx hbuf]
    obtain ⟨hregs, hdemods⟩ := poolFree_frame h (leftPool n d x s)
    exact ⟨(State.demod_of_demods hdemods n d).trans (demod_leftPool ..), hleft.regs.trans hregs⟩

/-- A reception ended with outcome `o`: its demodulator free, RX_LASTFAIL and the outcome's counter as R192 gives them. -/
def RxEnded (n d o : Nat) (s t : State) : Prop :=
  t.demod n d = none ∧ bitsOf (t.reg (0x4011C + 32768 * n)) 31 28 = o ∧ RxCounted n (roCounter o) s t

theorem RxEnded.of_regs {n d o : Nat} {s u t : State} (h : RxEnded n d o u t) (hregs : u.regs = s.regs) : RxEnded n d o s t := by
  obtain ⟨hfree, hlast, hcount⟩ := h
  refine ⟨hfree, hlast, ?_⟩
  rwa [RxCounted, State.getF_of_regs hregs] at hcount

theorem roCounter_le {o : Nat} (ho : o < 11) : roCounter o ≤ 12 := by
  revert o
  decide

theorem failRx_ended {n d o : Nat} {x : Demod} {s : State} (hn : n < 16) (ho : o < 11) (hx : s.demod n d = some x) : RxEnded n d o s (failRx n d o s) := by
  have hcounter := roCounter_le ho
  rw [failRx_eq hx]
  generalize hu : recordFail n o x.channel x.mode (rssiOf n x s) s = u
  have hxu : u.demod n d = some x := by rw [← hu, demod_recordFail, hx]
  obtain ⟨hfree, hregs⟩ := releaseDemod_frame hxu
  refine ⟨hfree, ?_, ?_⟩
  · rw [hregs _ (by simp [poolRegs, noticeRegs]; omega), ← hu, lastFail_recordFail (by omega)]
  · rw [RxCounted, hregs.getF (by simp [poolRegs, noticeRegs]; omega), ← hu, rxCount_recordFail, if_pos rfl]

/-! The SFD (R191, R195). -/

/-- The reception with its SFD, and what stands from then on (R195). -/
def withSfd (n : Nat) (coded : Bool) (ts : Nat) (s : State) (x : Demod) : Demod :=
  { x with sfd := some ts, fec := coded, sfdCls := chanClass n x.channel s, sfdOffset := toSigned 16 (s.getF (F.RFP_RSSI_CFG_OFFSET n)) }

section
variable {dt : Nat} {n : Fin 16} {d : Fin 64} {s : State} {x : Demod} (hrun : s.clk.running = true) (hx : s.demod n d = some x)
include hrun hx

/-- An allowed SFD within SFD_WAIT_SYM is taken; nothing else of the reception changes but what R195 fixes at it. -/
theorem sfdFound_taken (hsfd : x.sfd = none) {coded : Bool} {ts : Nat} (hfec : s.getF (F.RFP_PHY_CFG_FEC_ACCEPT n) = 1)
    (huncoded : s.getF (F.RFP_PHY_CFG_UNCODED_ACCEPT n) = 1) (hmode : chanModes n x.channel s / 2 ^ x.mode % 2 = 1)
    (hwait : (s.elapse dt).clk.slot * symbolRate x.mode ≤ x.detected * symbolRate x.mode + s.getF (F.RFP_DET_CFG_SFD_WAIT_SYM n) * 2000000) :
    Completes (.sfdFound dt n d coded ts) s fun t =>
      (t.demod n d).map (fun y => (y.sfd, y.fec, y.channel, y.claimed)) = some (some ts, coded, x.channel, x.claimed) ∧ OnlyRegs [] s t ∧ t.dram = s.dram ∧ t.tabs = s.tabs := by
  have hx' : (s.elapse dt).demod n d = some x := hx
  have hallowed : (if coded then (s.elapse dt).getF (F.RFP_PHY_CFG_FEC_ACCEPT n) else (s.elapse dt).getF (F.RFP_PHY_CFG_UNCODED_ACCEPT n)) = 1 := by
    cases coded <;> assumption
  have hexec : exec (.sfdFound dt n d coded ts) s = .next ((s.elapse dt).setDemod n d (some (withSfd n coded ts s x))) := by
    change execSfdFound dt n d coded ts s = _
    unfold execSfdFound
    dsimp only
    rw [if_neg (by simp [hrun]), hx']
    exact if_pos ⟨by rw [hsfd]; rfl, hallowed, hmode, hwait⟩
  refine ⟨_, hexec, ?_, OnlyRegs.of_regs [] rfl, rfl, rfl⟩
  rw [State.demod_setDemod_self]
  rfl

theorem sfdWaitExpire_ends (hsfd : x.sfd = none)
    (hwait : x.detected * symbolRate x.mode + s.getF (F.RFP_DET_CFG_SFD_WAIT_SYM n) * 2000000 ≤ (s.elapse dt).clk.slot * symbolRate x.mode) :
    Completes (.sfdWaitExpire dt n d) s (RxEnded n d roNoSfd s) := by
  have hx' : (s.elapse dt).demod n d = some x := hx
  have hexec : exec (.sfdWaitExpire dt n d) s = .next (failRx n d roNoSfd (s.elapse dt)) := by
    change execSfdWaitExpire dt n d s = _
    unfold execSfdWaitExpire
    dsimp only
    rw [if_neg (by simp [hrun]), hx']
    exact if_pos ⟨by rw [hsfd]; rfl, hwait⟩
  exact ⟨_, hexec, (failRx_ended n.isLt (by decide) hx').of_regs rfl⟩
end

/-! The PHR (R179, R191, R349). -/

/-- The reception with what its PHR says. -/
def withPhr (len : Nat) (fcs32 whitened : Bool) (lqi : BitVec 8) (fofs : Int) (x : Demod) : Demod :=
  { x with len := len, fcs32 := fcs32 && x.mode != 7, whitened := whitened && x.mode != 7, lqi := lqi.toNat, fofs := fofs }

/-- An allocation above the reserve takes the buffer that has been free longest (R349). -/
theorem poolAlloc_of_reserve {any : Bool} {i : Nat} {s : State} (hfree : s.getF F.BMP_POOL_CFG_RESERVE < poolFreeCount s) (hlongest : longestFree s = some i) :
    ∃ h t, poolAlloc any s = (some h, t) ∧ handleIndex h = handleIndex i := by
  refine ⟨(genOf i s + 1) % 256 * 2 ^ 24 + i, (takeBuffer i s).2, ?_, by unfold handleIndex; omega⟩
  have hsome : poolFreeCount s ≠ 0 := by omega
  have hreserve : ¬ ((!any && decide (poolFreeCount s ≤ s.getF F.BMP_POOL_CFG_RESERVE)) = true) := by simp [hfree]
  unfold poolAlloc
  dsimp only
  rw [if_neg hsome, if_neg hreserve, hlongest]
  rfl

section
variable {dt : Nat} {n : Fin 16} {d : Fin 64} {s : State} {x : Demod} (hrun : s.clk.running = true) (hx : s.demod n d = some x)
  (hsfd : x.sfd ≠ none) (hbuf : x.buffer = none) {len : Nat} {fcs32 whitened : Bool} {lqi : BitVec 8} {fofs : Int}
include hrun hx hsfd hbuf

/-- A length that the mode does not carry ends the reception (R191). -/
theorem phrReceived_ends (hlen : len = 0 ∨ maxPsdu x.mode < len) :
    Completes (.phrReceived dt n d len false fcs32 whitened lqi fofs) s (RxEnded n d roBadPhr s) := by
  have hx' : (s.elapse dt).demod n d = some x := hx
  have hexec : exec (.phrReceived dt n d len false fcs32 whitened lqi fofs) s =
      .next (failRx n d roBadPhr ((s.elapse dt).setDemod n d (some (withPhr len fcs32 whitened lqi fofs x)))) := by
    change execPhrReceived dt n d len false fcs32 whitened lqi fofs s = _
    unfold execPhrReceived
    dsimp only
    rw [if_neg (by simp [hrun]), hx']
    dsimp only
    rw [if_neg (by simp [Option.isNone_iff_eq_none, hsfd, hbuf]), if_pos hlen]
    rfl
  exact ⟨_, hexec, (failRx_ended n.isLt (by decide) (State.demod_setDemod_self ..)).of_regs rfl⟩

/-- A good length takes a buffer. -/
theorem phrReceived_takes (hpos : 1 ≤ len) (hlen : len ≤ maxPsdu x.mode) (hfree : s.getF F.BMP_POOL_CFG_RESERVE < poolFreeCount s) (hlongest : (longestFree s).isSome = true) :
    Completes (.phrReceived dt n d len false fcs32 whitened lqi fofs) s fun t =>
      (t.demod n d).map (fun y => (y.len, y.fcs32, y.whitened, y.buffer.map handleIndex)) =
        some (len, fcs32 && x.mode != 7, whitened && x.mode != 7, (longestFree s).map handleIndex) := by
  obtain ⟨i, hi⟩ := Option.isSome_iff_exists.1 hlongest
  have hx' : (s.elapse dt).demod n d = some x := hx
  obtain ⟨h, t, halloc, hindex⟩ := poolAlloc_of_reserve (any := decide (x.sfdCls ≤ 1)) (s := (s.elapse dt).setDemod n d (some (withPhr len fcs32 whitened lqi fofs x))) hfree hi
  have hexec : exec (.phrReceived dt n d len false fcs32 whitened lqi fofs) s =
      .next (t.setDemod n d (some { withPhr len fcs32 whitened lqi fofs x with buffer := some h })) := by
    change execPhrReceived dt n d len false fcs32 whitened lqi fofs s = _
    unfold execPhrReceived
    dsimp only
    rw [if_neg (by simp [hrun]), hx']
    dsimp only
    rw [if_neg (by simp [Option.isNone_iff_eq_none, hsfd, hbuf]), if_neg (by omega), if_neg (by simp)]
    unfold withPhr at halloc
    rw [halloc]
    rfl
  refine ⟨_, hexec, ?_⟩
  dsimp only
  rw [State.demod_setDemod_self, hi]
  exact congrArg (fun k => some (len, (fcs32 && x.mode != 7), (whitened && x.mode != 7), some k)) hindex
end

end Sys2Proof.Machine

/-! SUPPORT. The end of a PPDU: the frame and its receive record in DRAM, the RXA job, and the noise floor (R184, R191, R196). -/

namespace Sys2Proof.Machine

theorem State.byte_of_dram {s t : State} (h : t.dram = s.dram) (a : Nat) : t.byte a = s.byte a := congrArg (Sparse.get dramDefault · a) h

/-! What the receiver stores (R196, R347). -/

/-- The decoded PSDU in its buffer, and the receive record beside it. -/
def storedFrame (n d h : Nat) (x : Demod) (delta : Nat) (psdu : List Byte) (s : State) : State :=
  let s := s.setBytes (bufferAddr h s) (psdu.take x.len)
  s.setBytes (recordAddr h s) (rxRecord n d x delta s)

theorem storedFrame_parts (n d h : Nat) (x : Demod) (delta : Nat) (psdu : List Byte) (s : State) :
    ∃ r m, storedFrame n d h x delta psdu s = { s with dram := r, mem := m } := by
  obtain ⟨r, m, hpsdu⟩ := State.setBytes_parts s (bufferAddr h s) (psdu.take x.len)
  rw [storedFrame, hpsdu]
  exact State.setBytes_parts ..

theorem rxRecord_length (n d : Nat) (x : Demod) (delta : Nat) (s : State) : (rxRecord n d x delta s).length = 32 := rfl

theorem rxRecord_of_parts (n d : Nat) (x : Demod) (delta : Nat) (s : State) (r : List Host.Cell) (m : Mem) :
    rxRecord n d x delta { s with dram := r, mem := m } = rxRecord n d x delta s := rfl

theorem recordAddr_aligned (h : Nat) (s : State) : recordAddr h s % 8 = 0 := by
  unfold recordAddr poolBase
  omega

theorem recordAddr_of_regs {s t : State} (hregs : t.regs = s.regs) (h : Nat) : recordAddr h t = recordAddr h s := by
  simp only [recordAddr, poolBase, poolCount, State.getF_of_regs hregs]

/-- The receive record as R196 lays it out: its 32 bytes are four whole words, so none of them stays unwritten (R343). -/
theorem storedFrame_record (n d h : Nat) (x : Demod) (delta : Nat) (psdu : List Byte) (s : State) {k : Nat} (hk : k < 32) :
    (storedFrame n d h x delta psdu s).byte (recordAddr h s + k) = (rxRecord n d x delta s).getD k 0 := by
  obtain ⟨r, m, hpsdu⟩ := State.setBytes_parts s (bufferAddr h s) (psdu.take x.len)
  rw [storedFrame, hpsdu, rxRecord_of_parts, recordAddr_of_regs (s := s) rfl]
  exact State.byte_setBytes (recordAddr_aligned h s) (by rw [rxRecord_length]) hk

/-- A demodulator whose frame is handed on is free, and RXCNT_6 one further. -/
theorem releaseDemod_handedOn {n d : Nat} {x : Demod} {s : State} (hx : s.demod n d = some x) :
    (releaseDemod n d true (s.incF (F.RFP_RXCNT_COUNT n 6))).demod n d = none ∧ RxCounted n 6 s (releaseDemod n d true (s.incF (F.RFP_RXCNT_COUNT n 6))) ∧
      PoolStep ((F.RFP_RXCNT_COUNT n 6).addr :: poolRegs n) s (releaseDemod n d true (s.incF (F.RFP_RXCNT_COUNT n 6))) := by
  have hleft := PoolStep.leftPool n d x (s.incF (F.RFP_RXCNT_COUNT n 6))
  rw [releaseDemod_eq ((State.demod_of_demods (State.incF_demods ..) n d).trans hx) (.inl rfl)]
  refine ⟨demod_leftPool .., ?_, (PoolStep.incF s _).trans hleft⟩
  rw [RxCounted, hleft.regs.getF (not_mem_poolRegs (by dsimp only; omega)), rxCount_incF, if_pos rfl]

/-- The RXA job of a frame whose port is reserved for its ack. -/
theorem rxaJob_created {n ch e h i : Nat} {s : State} (hoff : s.getF F.TRC_RING_CTRL_EN = 0) (hid : freeId s = some i) :
    FabricStep s (createJob (rxaJob h) (reserveAck n ch e s)) ∧
      ((createJob (rxaJob h) (reserveAck n ch e s)).job i).map (fun j => (j.cls, j.buf0)) = some (ecRXA, h) := by
  have hreserve : FabricStep s (reserveAck n ch e s) := FabricStep.of_parts rfl rfl
  have hjobs : (reserveAck n ch e s).fab.jobs = s.fab.jobs := rfl
  obtain ⟨hcreate, hjob⟩ := createJob_of_ringOff (mk := rxaJob h) (hreserve.ringOff hoff) ((freeId_of_jobs hjobs).trans hid) (Nat.zero_lt_succ 15)
  exact ⟨hreserve.trans hcreate, by rw [hjob]; rfl⟩

section
variable {dt : Nat} {n : Fin 16} {d : Fin 64} {s : State} {x : Demod} {h delta : Nat} {psdu : List Byte}
  (hrun : s.clk.running = true) (hx : s.demod n d = some x) (hbuf : x.buffer = some h)
include hrun hx hbuf

theorem rxPpduEnd_fails : Completes (.rxPpduEnd dt n d delta psdu false) s (RxEnded n d roFcsFail s) := by
  have hx' : (s.elapse dt).demod n d = some x := hx
  have hexec : exec (.rxPpduEnd dt n d delta psdu false) s = .next (failRx n d roFcsFail ((s.elapse dt).setBytes (bufferAddr h (s.elapse dt)) (psdu.take x.len))) := by
    change execRxPpduEnd dt n d delta psdu false s = _
    unfold execRxPpduEnd
    dsimp only
    rw [if_neg (by simp [hrun]), hx']
    dsimp only
    rw [hbuf]
    rfl
  obtain ⟨r, m, hpsdu⟩ := State.setBytes_parts (s.elapse dt) (bufferAddr h (s.elapse dt)) (psdu.take x.len)
  generalize (s.elapse dt).setBytes (bufferAddr h (s.elapse dt)) (psdu.take x.len) = u at *
  have hxu : u.demod n d = some x := hpsdu ▸ hx
  exact ⟨_, hexec, (failRx_ended n.isLt (by decide) hxu).of_regs (hpsdu ▸ rfl)⟩

theorem exec_rxPpduEnd_ok : exec (.rxPpduEnd dt n d delta psdu true) s =
    .next (createJob (rxaJob h) (reserveAck n x.channel (x.sfd.getD 0 + delta)
      (releaseDemod n d true ((storedFrame n d h x delta psdu (s.elapse dt)).incF (F.RFP_RXCNT_COUNT n 6))))) := by
  have hx' : (s.elapse dt).demod n d = some x := hx
  change execRxPpduEnd dt n d delta psdu true s = _
  unfold execRxPpduEnd
  dsimp only
  rw [if_neg (by simp [hrun]), hx']
  dsimp only
  rw [hbuf]
  rfl

/-- A frame received well is stored, counted and handed on to RXA (R191, R196). -/
theorem rxPpduEnd_handsOn {i : Nat} (hid : freeId s = some i) (hoff : s.getF F.TRC_RING_CTRL_EN = 0) : Completes (.rxPpduEnd dt n d delta psdu true) s fun t =>
    t.demod n d = none ∧ RxCounted n 6 s t ∧ (∀ k < 32, t.byte (recordAddr h s + k) = (rxRecord n d x delta (s.elapse dt)).getD k 0) ∧
      (t.job i).map (fun j => (j.cls, j.buf0)) = some (ecRXA, h) := by
  refine ⟨_, exec_rxPpduEnd_ok hrun hx hbuf, ?_⟩
  have hrecord (k : Nat) (hk : k < 32) := storedFrame_record n d h x delta psdu (s.elapse dt) hk
  rw [recordAddr_of_regs (State.elapse_regs s dt)] at hrecord
  have hparts := storedFrame_parts n d h x delta psdu (s.elapse dt)
  generalize storedFrame n d h x delta psdu (s.elapse dt) = u at *
  obtain ⟨hregs, hfab, hdemods⟩ : u.regs = s.regs ∧ u.fab = s.fab ∧ u.demods = s.demods := by
    obtain ⟨r, m, rfl⟩ := hparts
    exact ⟨rfl, rfl, rfl⟩
  have hxu : u.demod n d = some x := (State.demod_of_demods hdemods n d).trans hx
  obtain ⟨hfree, hcount, hstep⟩ := releaseDemod_handedOn hxu
  have hring : (releaseDemod n d true (u.incF (F.RFP_RXCNT_COUNT n 6))).getF F.TRC_RING_CTRL_EN = 0 := by
    rw [hstep.regs.getF (by simp [poolRegs]; omega), State.getF_of_regs hregs, hoff]
  have hjobs := (congrArg Fabric.jobs hstep.fab).trans (congrArg Fabric.jobs hfab)
  obtain ⟨hfabric, hjob⟩ := rxaJob_created (n := n) (ch := x.channel) (e := x.sfd.getD 0 + delta) (h := h) hring ((freeId_of_jobs hjobs).trans hid)
  refine ⟨(State.demod_of_demods hfabric.demods n d).trans hfree, ?_, fun k hk => ?_, hjob⟩
  · rw [RxCounted, State.getF_of_regs hregs] at hcount
    exact (State.getF_of_reg (hfabric.reg _ (.inl (by dsimp only; omega)))).trans hcount
  · rw [State.byte_of_dram (hfabric.dram.trans hstep.dram), hrecord k hk]
end

/-! The noise floor (R184). -/

theorem noiseFloorRefresh_stores {dt : Nat} {n : Fin 16} {c : Fin 128} {s : State} {es : List Int} {q : Int} (hrun : s.clk.running = true) (hon : chanOn n c s = true)
    (hq : lowerQuartile es = some q) : Completes (.noiseFloorRefresh dt n [(c, es)]) s fun t =>
      t.tab 0 (0x4000 * n + 0x300 + 4 * c) = BitVec.ofNat 32 (ofSigned 16 q) ∧ OnlyRegs [] s t ∧ t.dram = s.dram := by
  have hon' : chanOn n c (s.elapse dt) = true := hon
  have hexec : exec (.noiseFloorRefresh dt n [(c, es)]) s = .next
      (((s.elapse dt).setTab 0 (0x4000 * n + 0x300 + 4 * c) (BitVec.ofNat 32 (ofSigned 16 q))).updPort n fun p => { p with floors := insertNat c p.floors }) := by
    change execNoiseFloorRefresh dt n [(c, es)] s = _
    unfold execNoiseFloorRefresh
    dsimp only
    rw [if_neg (by simp [hrun]), List.foldl_cons, List.foldl_nil]
    dsimp only
    rw [hq]
    dsimp only
    rw [if_pos hon']
  exact ⟨_, hexec, Sparse.get_set_self .., OnlyRegs.of_regs [] rfl, rfl⟩

/-- Settles O39: the SFD and its wait, the PHR's two ends, the PPDU's two ends, and the noise floor. -/
theorem receptionStages : Obligations.ReceptionStages := by
  intro dt n d s hrun x hx
  exact ⟨fun hsfd => ⟨fun _ _ => sfdFound_taken hrun hx hsfd, sfdWaitExpire_ends hrun hx hsfd⟩,
    fun hsfd hbuf _ _ _ _ _ => ⟨phrReceived_ends hrun hx hsfd hbuf, phrReceived_takes hrun hx hsfd hbuf⟩,
    fun _ hbuf _ _ => ⟨rxPpduEnd_fails hrun hx hbuf, fun _ hid hoff => rxPpduEnd_handsOn hrun hx hbuf hid hoff⟩,
    fun _ _ _ hon hq => noiseFloorRefresh_stores hrun hon hq⟩

end Sys2Proof.Machine

/-! SUPPORT. What outlives the ends of commands, receptions and associations, said once of any property of states. A property is closed under the journal when it survives the
journal's registers, notices and the lane; under the radio when it also survives what the radio's engines hold outside the catalogue; and under the ledger when the
catalogue may change with them (R155, R159, R194, R226 to R228, R250 to R254, R262, R281, R290, R300, R471 to R476, R491). -/

namespace Sys2Proof.Machine

/-- The registers of CORE's blocks below the functional safety block: the radio ports to the pair (R25). -/
@[reducible] def engineReg (a : Nat) : Prop := 0x40000 ≤ a ∧ a < 0x169000

/-- The state without what the journal changes beside registers. -/
def State.offLane (s : State) : State := { s with pair := State.reset.pair, out := [], draws := 0 }

/-- The state without what the radio's engines change beside registers and the catalogue. -/
def State.offRadio (s : State) : State :=
  { s.offLane with ports := [], demods := [], mem := State.reset.mem, power := State.reset.power, xch := State.reset.xch, shp := State.reset.shp, slt := State.reset.slt }

/-- The state without the catalogue as well. -/
def State.offLedger (s : State) : State := { s.offRadio with cat := State.reset.cat }

/-- A property that survives the journal (R471 to R476). -/
structure JournalClosed (K : State → Prop) : Prop where
  reg : ∀ {s : State} {a : Nat} {w : Word}, K s → engineReg a → K (s.setReg a w)
  notice : ∀ {s : State} {k : NoticeKind} {status port arg : Nat}, K s → K (notify k status port arg s)
  lane : ∀ {s t : State}, K s → t.offLane = s.offLane → K t

/-- A property that survives the radio's engines but for the catalogue. -/
structure RadioClosed (K : State → Prop) : Prop extends JournalClosed K where
  radio : ∀ {s t : State}, K s → t.offRadio = s.offRadio → K t

/-- A property that survives the radio's engines and the catalogue. -/
structure LedgerClosed (K : State → Prop) : Prop extends RadioClosed K where
  ledger : ∀ {s t : State}, K s → t.offLedger = s.offLedger → K t

/-- The outcomes of a command count in RFPn_CNT_0 to RFPn_CNT_3 (R159). -/
theorem outcomeCounter_le {status reason k : Nat} (hk : outcomeCounter status reason = some k) : k ≤ 3 := by
  unfold outcomeCounter at hk
  split_ifs at hk
  all_goals
    cases hk
    decide

section
variable {K : State → Prop} {s : State}

/-! Branches and repetitions. -/

theorem keeps_ite {c : Prop} [Decidable c] {t : State} (hs : K s) (ht : K t) : K (if c then s else t) := by
  split <;> assumption

theorem keeps_foldl {α : Type} {f : State → α → State} {l : List α} (hs : K s) (hf : ∀ e ∈ l, ∀ t, K t → K (f t e)) : K (l.foldl f s) := by
  induction l generalizing s with
  | nil => exact hs
  | cons e l ih => exact ih (hf e List.mem_cons_self s hs) fun x hx => hf x (List.mem_cons_of_mem e hx)

/-! The journal of a pair (R471 to R476). -/

section
variable (h : JournalClosed K)
include h

theorem JournalClosed.setF {a hi lo v : Nat} (hs : K s) (ha : engineReg a) : K (s.setF ⟨a, hi, lo⟩ v) := h.reg hs ha
theorem JournalClosed.incF {a hi lo : Nat} (hs : K s) (ha : engineReg a) : K (s.incF ⟨a, hi, lo⟩) := h.reg hs ha
theorem JournalClosed.set64 {a hi lo a' hi' lo' v : Nat} (hs : K s) (ha : engineReg a) (ha' : engineReg a') : K (s.set64 ⟨a, hi, lo⟩ ⟨a', hi', lo'⟩ v) :=
  h.setF (h.setF hs ha) ha'
theorem JournalClosed.updPair {f : Pair → Pair} (hs : K s) : K (s.updPair f) := h.lane hs (by rfl)
theorem JournalClosed.emit {o : Out} (hs : K s) : K (s.emit o) := h.lane hs (by rfl)

theorem JournalClosed.sendHello (hs : K s) : K (sendHello s) := h.lane hs (by rfl)

theorem JournalClosed.sendLane {kind : Nat} {body : List Nat} (hs : K s) : K (sendLane kind body s) := h.emit (h.updPair (keeps_ite hs (h.sendHello hs)))

theorem JournalClosed.startSnap (hs : K s) : K (startSnap s) := h.sendLane (h.setF (h.setF (h.setF (h.updPair hs) (by omega)) (by omega)) (by omega))

theorem JournalClosed.triggerSnap (hs : K s) : K (triggerSnap s) := keeps_ite hs (keeps_ite (h.updPair hs) (h.startSnap hs))

theorem JournalClosed.abandonSnap (hs : K s) : K (abandonSnap s) := keeps_ite (h.incF (h.setF (h.updPair hs) (by omega)) (by omega)) hs

theorem JournalClosed.rebaseJournal (hs : K s) : K (rebaseJournal s) := h.set64 (h.updPair hs) (by omega) (by omega)

theorem JournalClosed.invalidateJournal {why : Nat} (hs : K s) : K (invalidateJournal why s) := by
  have hnoted : K (notify N.JOURNAL_INVALID scOk 0 why ((Machine.rebaseJournal (Machine.abandonSnap (s.setF F.PAR_STATUS_JOURNAL 2))).incF (F.PAR_CNT_COUNT 9))) :=
    h.notice (h.incF (h.rebaseJournal (h.abandonSnap (h.setF hs (by omega)))) (by omega))
  exact keeps_ite hnoted (h.triggerSnap hnoted)

theorem JournalClosed.journalRec {body : List Nat} {n : Nat} (hs : K s) : K (journalRec body n s) := by
  unfold Machine.journalRec
  extract_lets at_ pad end_ s1 s2 s3 s4
  have h1 : K s1 := keeps_ite hs (h.sendLane hs)
  have h3 : K s3 := h.incF (h.set64 (h.sendLane h1) (by omega) (by omega)) (by omega)
  have h4 : K s4 := h.updPair h3
  exact keeps_ite hs (keeps_ite (h.invalidateJournal hs) (keeps_ite (h.triggerSnap h4) h4))

end

/-! Downlinks, their queues, and what of an association's end leaves the catalogue alone (R250 to R254, R262, R290, R300). -/

section
variable (h : RadioClosed K)
include h

theorem RadioClosed.updPort {n : Nat} {f : Port → Port} (hs : K s) : K (s.updPort n f) := h.radio hs (by rfl)
theorem RadioClosed.updXch {f : Exchange → Exchange} (hs : K s) : K (s.updXch f) := h.radio hs (by rfl)
theorem RadioClosed.updShp {f : Shaper → Shaper} (hs : K s) : K (s.updShp f) := h.radio hs (by rfl)
theorem RadioClosed.updSlt {f : Slots → Slots} (hs : K s) : K (s.updSlt f) := h.radio hs (by rfl)
theorem RadioClosed.setDl {i : Nat} {d : Option Dl} (hs : K s) : K (s.setDl i d) := h.updXch hs
theorem RadioClosed.setAcc {i : Nat} {a : Option Accept} (hs : K s) : K (s.setAcc i a) := h.updXch hs

theorem RadioClosed.updDl {i : Nat} {f : Dl → Dl} (hs : K s) : K (s.updDl i f) := by
  unfold State.updDl
  split
  · exact h.setDl hs
  · exact hs

theorem RadioClosed.schedDone {nix status : Nat} (hs : K s) : K (schedDone nix status s) := h.notice (h.incF (h.updSlt hs) (by split <;> omega))

theorem RadioClosed.setReceipt {i : Nat} {r : Option Receipt} (hs : K s) : K (setReceipt i r s) := by
  have hset : K (syncReceipts (s.updXch fun x => { x with receipts := Sparse.set (fun _ => none) x.receipts i r })) := h.setF (h.updXch hs) (by omega)
  unfold Machine.setReceipt
  dsimp only
  split
  · exact h.journalRec hset
  · exact h.journalRec hset
  · exact hset

theorem RadioClosed.dlStatus {d : Dl} {status : Nat} (hs : K s) : K (dlStatus d status s) := by
  unfold Machine.dlStatus
  dsimp only
  split
  · exact h.radio hs (by rfl)
  · exact h.radio hs (by rfl)
  · exact hs

/-- The entry is written for a relay copy that ended OK alone. -/
theorem RadioClosed.dlReportBase {d : Dl} {status : Nat} (hs : K s) (hentry : status = scOk → ∀ b, K (setEntry d.nix b s)) : K (dlReportBase d status s) := by
  unfold Machine.dlReportBase
  split
  case h_1 => exact h.setReceipt (keeps_ite (h.incF hs (by omega)) hs)
  case h_2 => exact keeps_ite (h.updSlt hs) (keeps_ite (h.schedDone hs) hs)
  case h_3 =>
    split
    case isTrue hok => exact hentry hok _
    case isFalse => exact hs
  case h_4 => exact hs
  case h_5 => exact h.dlStatus hs

theorem RadioClosed.unqueueDl {i : Nat} (hs : K s) : K (unqueueDl i s) := h.setF (h.updShp hs) (by omega)

/-- The entry is written for a downlink that ended OK alone. -/
theorem RadioClosed.dlCount {i : Nat} {d : Dl} {status : Nat} (hs : K s) (hentry : status = scOk → ∀ t b, K t → K (setEntry d.nix b t)) : K (dlCount i d status s) := by
  have hout : K ((Machine.unqueueDl i s).setDl i none) := h.setDl (h.unqueueDl hs)
  have hok : K (if status = scOk then
      setEntry d.nix (entPut ((((Machine.unqueueDl i s).setDl i none).incF (F.XCH_CNT_COUNT 11)).entry d.nix) 172 4
        (entNat ((((Machine.unqueueDl i s).setDl i none).incF (F.XCH_CNT_COUNT 11)).entry d.nix) 172 4 + 1)) (((Machine.unqueueDl i s).setDl i none).incF (F.XCH_CNT_COUNT 11))
      else (Machine.unqueueDl i s).setDl i none) := by
    split
    case isTrue hst => exact hentry hst _ _ (h.incF hout (by omega))
    case isFalse => exact hout
  exact keeps_ite (keeps_ite (h.notice (h.incF hok (by omega))) (h.incF hok (by omega))) hok

/-- A cancelled frame leaves its node's entry alone. -/
theorem RadioClosed.cancelNode {nix : Nat} (hs : K s) : K (cancelNode nix s) := by
  have hcancelled : ¬ scCancelled = scOk := by decide
  exact keeps_foldl hs fun _ _ _ hk => keeps_ite hk (keeps_ite (h.updDl hk)
    (h.dlReportBase (h.dlCount (h.incF hk (by omega)) fun hok => absurd hok hcancelled) fun hok => absurd hok hcancelled))

end

/-! The catalogue's entries, the energy ledger, and the associations that end (R226 to R228, R271, R272, R281, R300). -/

section
variable (h : LedgerClosed K)
include h

theorem LedgerClosed.updCat {f : Catalogue → Catalogue} (hs : K s) : K (s.updCat f) := h.ledger hs (by rfl)

theorem LedgerClosed.setEntry {nix : Nat} {b : List Byte} (hs : K s) : K (setEntry nix b s) :=
  h.setF (h.setF (h.setF (h.updCat (h.updCat hs)) (by omega)) (by omega)) (by omega)

theorem LedgerClosed.putEntry {nix : Nat} {b : List Byte} (hs : K s) : K (putEntry nix b s) := h.journalRec (h.setEntry hs)

theorem LedgerClosed.charge {nix nc : Nat} (hs : K s) : K (charge nix nc s) := by
  have hset {e : List Byte} : K (Machine.setEntry nix e (s.incF (F.NRG_CNT_COUNT 0))) := h.setEntry (h.incF hs (by omega))
  exact keeps_ite (h.setF hset (by omega)) hset

theorem LedgerClosed.assocNone {nix updStatus : Nat} (hs : K s) : K (assocNone nix updStatus s) := by
  have hleft : K (leaveRoster nix s) := h.setF (h.updCat hs) (by omega)
  have hgone : K ((Machine.putEntry nix (entPutBits (s.entry nix) 32 1 0 asNone) (leaveRoster nix s)).updSlt fun x =>
      { x with responses := x.responses.filter fun r => r.nix != nix }) := h.updSlt (h.putEntry hleft)
  exact keeps_ite (h.schedDone hgone) hgone

theorem LedgerClosed.assocEnd {nix updStatus : Nat} (hs : K s) : K (assocEnd nix updStatus s) := h.cancelNode (h.assocNone hs)

theorem LedgerClosed.dlEndOne {i : Nat} {d : Dl} {status : Nat} (hs : K s) : K (dlEndOne i d status s) := by
  have hended : K (dlReportBase d status (dlCount i d status s)) :=
    h.dlReportBase (h.dlCount hs fun _ _ _ => h.setEntry) fun _ _ => h.setEntry (h.dlCount hs fun _ _ _ => h.setEntry)
  exact keeps_ite (h.notice (h.incF (h.assocEnd hended) (by omega))) hended

theorem LedgerClosed.dlEnd {i status : Nat} (hs : K s) : K (dlEnd i status s) := by
  unfold Machine.dlEnd
  split
  · exact hs
  · dsimp only
    split
    · exact keeps_ite (h.dlEndOne hs) (keeps_foldl (h.dlEndOne hs) fun _ _ _ hk => keeps_ite (h.dlEndOne hk) hk)
    · exact h.dlEndOne hs

/-! The end of a port's command (R159, R245 to R248, R252). -/

theorem LedgerClosed.closeAcc {i : Nat} (hs : K s) : K (closeAcc i s) := by
  unfold Machine.closeAcc
  split
  · exact keeps_ite (h.setAcc hs) hs
  · exact hs

theorem LedgerClosed.ackEnd {n a : Nat} {c : Held} {status : Nat} (hs : K s) : K (ackEnd n a c status s) := by
  unfold Machine.ackEnd
  split
  · exact hs
  next x _ =>
    have hover : K (dropReserve n (x.sfd + x.delta) (s.setAcc a (some { x with ackOver := true }))) := h.updXch (h.setAcc hs)
    have hguard {p : Prop} [Decidable p] {t : State} (ht : K t) : K (if p then chargeGuard x.nix t else t) := keeps_ite (h.charge ht) ht
    exact h.closeAcc (keeps_ite (keeps_ite (h.charge hover) hover) (keeps_ite (hguard (h.incF hover (by omega)))
      (keeps_ite hover (keeps_ite (hguard (keeps_ite (h.incF hover (by omega)) hover)) (h.setAcc hover)))))

theorem LedgerClosed.attemptLost {n d status : Nat} (hs : K s) : K (attemptLost n d status s) := by
  unfold Machine.attemptLost
  split
  · exact hs
  · have hcounted : K (if status = scLate then s.incF (F.XCH_CNT_COUNT 13) else s) := keeps_ite (h.incF hs (by omega)) hs
    exact keeps_ite (h.dlEnd hcounted) (keeps_ite (h.dlEnd (h.incF hcounted (by omega))) (h.setDl hcounted))

theorem LedgerClosed.onTxEnd {n : Nat} {c : Held} {begun : Bool} {status : Nat} (hs : K s) : K (onTxEnd n c begun status s) := by
  unfold Machine.onTxEnd
  split
  case h_1 => exact keeps_ite (h.updSlt (h.incF hs (by omega))) (keeps_ite hs (h.notice (h.incF hs (by omega))))
  case h_2 => exact h.ackEnd hs
  case h_3 => exact keeps_ite hs (h.attemptLost hs)
  case h_4 => exact keeps_ite hs (h.attemptLost hs)
  case h_5 => exact keeps_ite (h.incF hs (by split <;> omega)) (keeps_foldl hs fun _ _ _ hk => h.updDl hk)

/-! Receptions that end when a port goes blank (R150, R194). -/

theorem LedgerClosed.noteLow (hs : K s) : K (noteLow s) := keeps_ite (h.notice (h.radio hs (by rfl))) (keeps_ite (h.radio hs (by rfl)) hs)

theorem LedgerClosed.poolFree {i : Nat} (hs : K s) : K (poolFree i s) :=
  keeps_ite hs (keeps_ite (h.noteLow (h.incF (h.radio hs (by rfl)) (by omega))) (h.radio hs (by rfl)))

section
variable {n : Nat} (hn : n < 16)
include hn

theorem LedgerClosed.syncPool (hs : K s) : K (syncPool n s) := by
  have hbusy : K (((s.setF (F.RFP_POOL_BUSY0_BUSY n) (busyBits n 0 s)).setF (F.RFP_POOL_BUSY1_BUSY n) (busyBits n 32 s)).setF (F.RFP_POOL_STATUS_BUSY n) (busyCount n s)) :=
    h.setF (h.setF (h.setF hs (by omega)) (by omega)) (by omega)
  exact keeps_ite (h.setF hbusy (by omega)) hbusy

theorem LedgerClosed.releaseDemod {d : Nat} {handedOn : Bool} (hs : K s) : K (releaseDemod n d handedOn s) := by
  unfold Machine.releaseDemod
  split
  · exact hs
  next x _ =>
    have hfree : K (Machine.syncPool n ((addBusy x s).setDemod n d none)) := h.syncPool hn (h.radio hs (by rfl))
    dsimp only
    split
    · exact keeps_ite hfree (h.poolFree hfree)
    · exact hfree

theorem LedgerClosed.blankPort (hs : K s) : K (blankPort n s) := by
  refine keeps_foldl hs fun d _ t ht => ?_
  have hcounter : engineReg (0x40180 + 32768 * n + 4 * roCounter roBlanked) := by
    have hblanked : roCounter roBlanked = 7 := rfl
    omega
  unfold failRx
  split
  · exact ht
  · exact h.releaseDemod hn (h.reg (h.incF ht hcounter) (by omega))

/-! Ports that turn quiet (R151, R491). -/

theorem LedgerClosed.recordOutcome {status reason : Nat} (hs : K s) : K (recordOutcome n status reason s) := by
  have hlast : K ((s.setF (F.RFP_TX_LAST_STATUS n) status).setF (F.RFP_TX_LAST_REASON n) reason) := h.setF (h.setF hs (by omega)) (by omega)
  unfold Machine.recordOutcome
  dsimp only
  split
  case h_1 k hk =>
    have hle := outcomeCounter_le hk
    exact h.incF hlast (by omega)
  case h_2 => exact hlast

theorem LedgerClosed.endHeld {status reason : Nat} (hs : K s) : K (endHeld n status reason s) := by
  unfold Machine.endHeld
  split
  · exact hs
  · have htaken : K ((dropReq n s).updPort n fun p => { p with held := none, begun := none, sent := false, overCnt := 0 }) := h.updPort (h.updPort hs)
    exact keeps_ite htaken (h.onTxEnd (h.recordOutcome hn htaken))

theorem LedgerClosed.endWaiting {status reason : Nat} {c : Held} (hs : K s) : K (endWaiting n c status reason s) :=
  h.onTxEnd (h.updPort (h.recordOutcome hn hs))

theorem LedgerClosed.portOff (hs : K s) : K (portOff n s) := by
  unfold Machine.portOff
  extract_lets s1 s2 s3 s4
  have h2 : K s2 := keeps_foldl (h.endHeld hn hs) fun _ _ _ hk => h.endWaiting hn hk
  have h3 : K s3 := h.blankPort hn (h.setF h2 (by omega))
  have h4 : K s4 := h.setF (h.setF (h.setF h3 (by omega)) (by omega)) (by omega)
  exact h.updPort (h.setF h4 (by omega))

theorem LedgerClosed.quietPort (hs : K s) : K (quietPort n s) := by
  unfold Machine.quietPort
  extract_lets st s1 s2
  have h1 : K s1 := keeps_ite (h.setF (h.setF (h.updPort hs) (by omega)) (by omega)) hs
  have h2 : K s2 := keeps_foldl (h.updPort (h.endHeld hn h1)) fun _ _ _ hk => h.endWaiting hn hk
  have hretuned {khz : Nat} : K (retune n khz s2) := h.blankPort hn (h.updPort (h.setF (h.setF h2 (by omega)) (by omega)))
  exact keeps_ite hs (keeps_ite (h.portOff hn h2) (keeps_ite (h.setF h2 (by omega)) (h.setF hretuned (by omega))))
end

theorem LedgerClosed.quietPorts (hs : K s) : K (quietPorts s) := keeps_foldl hs fun _ hn _ hk => h.quietPort (List.mem_range.1 hn) hk

end
end

/-! What lies outside is such a property. -/

/-- A register outside the engines' blocks, other than those of notices, stands. -/
theorem LedgerClosed.regStands {a : Nat} (ha : ¬ engineReg a) (hn : a ∉ noticeRegs) (w : Word) : LedgerClosed fun t => t.reg a = w where
  reg hs hb := (State.reg_setReg_ne _ _ fun (e : a = _) => ha (e ▸ hb)).trans hs
  notice hs := (notify_reg hn).trans hs
  lane hs hp := (State.reg_of_regs (congrArg (fun t : State => t.regs) hp) a).trans hs
  radio hs hp := (State.reg_of_regs (congrArg (fun t : State => t.regs) hp) a).trans hs
  ledger hs hp := (State.reg_of_regs (congrArg (fun t : State => t.regs) hp) a).trans hs

/-- The clocks and the catalogue stand in what leaves the catalogue alone. -/
theorem RadioClosed.catStands (c : Clocks) (m : Catalogue) : RadioClosed fun t => (t.clk, t.cat) = (c, m) where
  reg hs _ := hs
  notice hs := (congrArg₂ Prod.mk (notify_clk ..) (notify_cat ..)).trans hs
  lane hs hp := (congrArg (fun t : State => (t.clk, t.cat)) hp).trans hs
  radio hs hp := (congrArg (fun t : State => (t.clk, t.cat)) hp).trans hs

/-- With them the slot engine and the exchange engine stand in the journal. -/
theorem JournalClosed.partsStand (c : Clocks) (m : Catalogue) (l : Slots) (x : Exchange) : JournalClosed fun t => (t.clk, t.cat, t.slt, t.xch) = (c, m, l, x) where
  reg hs _ := hs
  notice {s k status port arg} hs := by
    rw [notify_clk, notify_cat, notify_slt, notify_xch]
    exact hs
  lane hs hp := (congrArg (fun t : State => (t.clk, t.cat, t.slt, t.xch)) hp).trans hs

theorem journalRec_parts (body : List Nat) (n : Nat) (s : State) :
    ((journalRec body n s).clk, (journalRec body n s).cat, (journalRec body n s).slt, (journalRec body n s).xch) = (s.clk, s.cat, s.slt, s.xch) :=
  (JournalClosed.partsStand s.clk s.cat s.slt s.xch).journalRec rfl

theorem cancelNode_parts (nix : Nat) (s : State) : ((cancelNode nix s).clk, (cancelNode nix s).cat) = (s.clk, s.cat) :=
  (RadioClosed.catStands s.clk s.cat).cancelNode rfl

end Sys2Proof.Machine

/-! SUPPORT. What the job fabric and its trace leave of the rest of the state when an engine creates a job (R306 to R331). -/

namespace Sys2Proof.Machine

/-- The state without what a notice or the fabric may change. -/
def State.offFabric (s : State) : State := { s.rest with fab := State.reset.fab }

theorem State.offFabric_slt (s : State) : s.offFabric.slt = s.slt := rfl
theorem State.offFabric_xch (s : State) : s.offFabric.xch = s.xch := rfl

theorem offFabric_of_rest {s t : State} (h : t.rest = s.rest) : t.offFabric = s.offFabric := congrArg (fun u : State => { u with fab := State.reset.fab }) h

theorem tracePut_offFabric (bs : List Byte) (s : State) : (tracePut bs s).offFabric = s.offFabric := offFabric_of_rest (State.rest_setBytes ..)

theorem traceRing_offFabric (bs : List Byte) (s : State) : (traceRing bs s).offFabric = s.offFabric := by
  unfold traceRing
  extract_lets owed s1 _ s2
  have howed : s2.offFabric = s.offFabric := by
    dsimp only [s2]
    split
    · exact tracePut_offFabric ..
    · rfl
  exact keeps_ite (K := fun t : State => t.offFabric = s.offFabric) rfl ((tracePut_offFabric ..).trans howed)

theorem tracePort_offFabric (bs : List Byte) (s : State) : (tracePort bs s).offFabric = s.offFabric := by
  unfold tracePort
  extract_lets n s1 _ s2
  have howed : s2.offFabric = s.offFabric := by
    dsimp only [s2]
    split <;> rfl
  split
  · rfl
  · exact howed

theorem trace_offFabric (cls id prio event arg : Nat) (s : State) : (trace cls id prio event arg s).offFabric = s.offFabric := by
  unfold trace
  extract_lets bs mark s1
  have hring : s1.offFabric = s.offFabric := by
    dsimp only [s1]
    split
    · exact traceRing_offFabric ..
    · rfl
  split
  · exact (tracePort_offFabric ..).trans hring
  · exact hring

theorem syncReady_offFabric (c : Nat) (s : State) : (syncReady c s).offFabric = s.offFabric := by
  unfold syncReady
  split <;> rfl

theorem makeReady_offFabric (i : Nat) (j : Job) (s : State) : (makeReady i j s).offFabric = s.offFabric := by
  unfold makeReady
  extract_lets l s1
  have hready : (syncJobs (syncReady j.cls s1)).offFabric = s.offFabric := syncReady_offFabric j.cls s1
  exact (trace_offFabric ..).trans hready

theorem createWith_offFabric (i : Nat) (j : Job) (s : State) : (createWith i j s).offFabric = s.offFabric :=
  (makeReady_offFabric ..).trans (trace_offFabric j.cls i j.prio 1 j.creator (s.incF (F.JOB_CNT_COUNT 0)))

theorem noteFull_offFabric (cls : Nat) (s : State) : (noteFull cls s).offFabric = s.offFabric := by
  unfold noteFull
  split
  · rfl
  · exact (offFabric_of_rest notify_rest).trans rfl

/-- With an ID or without one, a job created changes the fabric alone beside registers, DRAM and outputs. -/
theorem createJob_offFabric (mk : State → Job) (s : State) : (createJob mk s).offFabric = s.offFabric := by
  unfold createJob
  extract_lets j _ s1
  split
  · exact createWith_offFabric ..
  · exact (noteFull_offFabric ..).trans rfl

@[simp] theorem createJob_slt (mk : State → Job) (s : State) : (createJob mk s).slt = s.slt := by
  rw [← State.offFabric_slt, createJob_offFabric, State.offFabric_slt]
@[simp] theorem createJob_xch (mk : State → Job) (s : State) : (createJob mk s).xch = s.xch := by
  rw [← State.offFabric_xch, createJob_offFabric, State.offFabric_xch]

end Sys2Proof.Machine

/-! SUPPORT. What a slot boundary issues stands through the rest of its work: power, alignment, own cells, beacons, and the decisions of the radio ports (R101 to R103, R201 to
R203, R217, R232, R298). -/

namespace Sys2Proof.Machine

/-- The boundaries issued, whether the first is still to come, and the next boundary with its SEN (R201). -/
def Slots.place (x : Slots) : List (Nat × Nat) × Bool × Option Nat × Nat := (x.past, x.first, x.next, x.nextSen)

/-- The slot engine's place is `p`. -/
@[reducible] def PlacedAt (p : List (Nat × Nat) × Bool × Option Nat × Nat) (s : State) : Prop := s.slt.place = p

section
variable {p : List (Nat × Nat) × Bool × Option Nat × Nat} {s t : State}

/-- What changes the slot engine in other parts alone. -/
theorem PlacedAt.congr (hs : PlacedAt p s) (h : t.slt.place = s.slt.place) : PlacedAt p t := h.trans hs

theorem PlacedAt.of_slt (hs : PlacedAt p s) (h : t.slt = s.slt) : PlacedAt p t := hs.congr (congrArg Slots.place h)

theorem PlacedAt.notify {k : NoticeKind} {status port arg : Nat} (hs : PlacedAt p s) : PlacedAt p (notify k status port arg s) := hs.of_slt (notify_slt ..)

theorem PlacedAt.createJob {mk : State → Job} (hs : PlacedAt p s) : PlacedAt p (createJob mk s) := hs.of_slt (createJob_slt ..)

theorem journalRec_slt (body : List Nat) (n : Nat) (s : State) : (journalRec body n s).slt = s.slt := congrArg (fun q => q.2.2.1) (journalRec_parts body n s)

theorem PlacedAt.updDl {i : Nat} {f : Dl → Dl} (hs : PlacedAt p s) : PlacedAt p (s.updDl i f) := by
  unfold State.updDl
  split <;> exact hs

/-! Power (R101 to R103). -/

theorem PlacedAt.putOcc {o : Nat} (hs : PlacedAt p s) : PlacedAt p (putOcc o s) := keeps_ite hs hs

theorem PlacedAt.syncMode (hs : PlacedAt p s) : PlacedAt p (syncMode s) := by
  unfold Machine.syncMode
  extract_lets mode changed _ s1 s2
  have h2 : PlacedAt p s2 := hs
  exact keeps_ite h2 (keeps_ite h2 h2)

theorem PlacedAt.gateBanks {entered : Bool} (hs : PlacedAt p s) : PlacedAt p (gateBanks entered s) := by
  unfold Machine.gateBanks
  extract_lets s1 _
  have h1 : PlacedAt p s1 := keeps_foldl hs fun n _ t ht => by
    dsimp only
    split <;> exact ht
  exact h1

theorem PlacedAt.powerAtBoundary {b : Nat} (hs : PlacedAt p s) : PlacedAt p (powerAtBoundary b s) := by
  unfold Machine.powerAtBoundary
  extract_lets o s1 low ql moved _ s2 s3
  have h2 : PlacedAt p s2 := hs.putOcc
  exact keeps_ite (PlacedAt.gateBanks h2.syncMode.notify) h2.gateBanks

/-! Own cells and beacons (R217, R232). -/

theorem PlacedAt.settleCells (hs : PlacedAt p s) : PlacedAt p (settleCells s) := by
  refine keeps_foldl hs fun i _ t ht => ?_
  unfold settleCell
  extract_lets w cell own set held f
  split
  · split
    · exact PlacedAt.notify ht
    · exact ht
  · exact keeps_ite ht ht

theorem PlacedAt.bcnSkipped {n status : Nat} (hs : PlacedAt p s) : PlacedAt p (bcnSkipped n status s) := PlacedAt.notify hs

theorem PlacedAt.sendBeacon {n : Nat} {frame : List Byte} (hs : PlacedAt p s) : PlacedAt p (sendBeacon n frame s) := hs

theorem PlacedAt.noteFcEnd (hs : PlacedAt p s) : PlacedAt p (noteFcEnd s) := by
  unfold Machine.noteFcEnd
  extract_lets s1
  have h1 : PlacedAt p s1 := keeps_ite (PlacedAt.notify hs) hs
  exact keeps_ite (PlacedAt.notify h1) h1

/-- The counter of a beacon (R371, R373). -/
theorem PlacedAt.takeBeaconCounter {a : CphArg} (ha : a.nsrc = nsBeacon) (hs : PlacedAt p s) : PlacedAt p (takeCounter a s).2 := by
  have hmarked : PlacedAt p (raiseMarks (s.incF F.CPH_BCN_FC_FC)) := hs
  unfold Machine.takeCounter
  rw [if_neg (by rw [ha]; decide), if_pos ha]
  exact keeps_ite (hmarked.noteFcEnd.of_slt (journalRec_slt ..)) hmarked.noteFcEnd

theorem PlacedAt.buildBeacon {n : Nat} (hs : PlacedAt p s) : PlacedAt p (buildBeacon n s) := by
  unfold Machine.buildBeacon
  extract_lets j s1 level cells mode room start first count s2 q f s3
  have h2 : PlacedAt p s2 := hs
  refine keeps_ite (PlacedAt.bcnSkipped hs) (keeps_ite ?_ (PlacedAt.createJob hs))
  exact PlacedAt.sendBeacon (h2.takeBeaconCounter (a := ⟨opSeal, 0, nsBeacon, 0, 0, 0, 0, false, 0, 0, 0, 0, 0⟩) rfl)

/-! The decision of a radio port (R251, R282, R283, R298, R299). -/

theorem PlacedAt.readLedger {nix : Nat} (hs : PlacedAt p s) : PlacedAt p (readLedger nix s).2 := keeps_ite (K := PlacedAt p) hs hs

/-- The scores of the candidates are taken with the ledger read for each (R283). -/
theorem PlacedAt.placed {n : Nat} {cs : List (SFrame × Nat × Dl × Nat × Nat)} (hs : PlacedAt p s) : PlacedAt p (placed n cs s).2 := by
  unfold Machine.placed
  generalize hacc : ((none : Option (Nat × Bool × SFrame × Nat × Dl × Nat)), s) = acc
  have hplaced : PlacedAt p acc.2 := by
    rw [← hacc]
    exact hs
  clear hacc
  induction cs generalizing acc with
  | nil => exact hplaced
  | cons c cs ih =>
    refine ih _ ?_
    have hread : PlacedAt p (Machine.readLedger c.2.2.1.nix acc.2).2 := hplaced.readLedger
    dsimp only [scoreOf]
    split
    · exact hread
    · split <;> exact hread

theorem PlacedAt.startAttempt {i ch : Nat} {d : Dl} (hs : PlacedAt p s) : PlacedAt p (startAttempt i d ch s) := by
  unfold Machine.startAttempt
  dsimp only
  split
  · exact hs
  · exact keeps_ite hs (PlacedAt.createJob hs)

theorem PlacedAt.payClass {n c len : Nat} (hs : PlacedAt p s) : PlacedAt p (payClass n c len s) := keeps_ite hs hs

theorem PlacedAt.radioDecision {n : Nat} {first : Bool} (hs : PlacedAt p s) : PlacedAt p (radioDecision n first s) := by
  unfold Machine.radioDecision
  extract_lets cand s1 s2
  have h1 : PlacedAt p s1 := keeps_foldl hs fun _ _ _ ht => keeps_ite ht.updDl ht
  have h2 : PlacedAt p s2 := keeps_foldl h1 fun _ _ _ ht => keeps_foldl ht fun _ _ _ hk => hk.updDl
  split
  · exact h2
  next c _ =>
    extract_lets cs
    have hplaced : PlacedAt p (Machine.placed n cs s2).2 := h2.placed
    split
    next heq =>
      rw [heq] at hplaced
      exact hplaced
    next l f i _ ch s3 heq =>
      rw [heq] at hplaced
      extract_lets s4 s5 s6 s7
      have h4 : PlacedAt p s4 := keeps_ite hplaced hplaced
      have h5 : PlacedAt p s5 := keeps_ite h4 h4
      have h7 : PlacedAt p s7 := PlacedAt.payClass h5
      split
      · exact h7.startAttempt
      · exact h7

end
end Sys2Proof.Machine

/-! SUPPORT. A notice after a change of registers, the counter that changed with it, and a command of the device that runs (R37, R45). -/

namespace Sys2Proof.Machine

/-- Registers changed and a notice written: no others change, the ring alone does in DRAM. -/
theorem noticed_frame {l : List Nat} {s u : State} (h : OnlyRegs l s u) (hl : 0x40 ∉ l ∧ 0x44 ∉ l) (hdram : u.dram = s.dram) (htabs : u.tabs = s.tabs)
    (k : NoticeKind) (status port arg : Nat) :
    OnlyRegs (l ++ noticeRegs) s (notify k status port arg u) ∧ OnlyRing s (notify k status port arg u) ∧ (notify k status port arg u).tabs = s.tabs := by
  obtain ⟨hbase, hctrl⟩ := hl
  exact ⟨h.trans (OnlyRegs.notify _ _ _ _ _), OnlyRing.notify_of_dram hdram (h _ hbase) (h _ hctrl) _ _ _ _, (notify_tabs ..).trans htabs⟩

/-- A counter of a whole register counts modulo 2^32 (R11). -/
theorem State.getF_incF_counter (a : Nat) (s : State) : (s.incF ⟨a, 31, 0⟩).getF ⟨a, 31, 0⟩ = (s.getF ⟨a, 31, 0⟩ + 1) % 2 ^ 32 :=
  State.getF_setF s _ (Nat.zero_le 31) (Nat.lt_succ_self 31)

/-- A command of the running device is not put off. -/
theorem elapse_runs {dt : Nat} {s : State} (hrun : s.clk.running = true) : ¬ (!(s.elapse dt).clk.running) = true := by
  have hrun' : (s.elapse dt).clk.running = true := hrun
  rw [hrun']
  decide

/-- Nor is the owner refused. -/
theorem elapse_owned {dt : Nat} {m : Master} {s : State} (howns : s.owns m = true) : ¬ (!(s.elapse dt).owns m) = true := by
  rw [elapse_owns, howns]
  decide

/-- A write of a register of CORE's blocks reaches it where the device runs (R37). -/
theorem gatedWrite_runs {dt a : Nat} {m : Master} {f : State → State} {s : State} (hcore : s.clk.core = true) (hmode : s.mode = stAutonomous) :
    gatedWrite m a f (s.elapse dt) = f (s.elapse dt) :=
  gatedWrite_open (answers_of_core (s := s.elapse dt) a hcore (hmode.trans_ne (by decide))) (frozenShut_of_ne (s := s.elapse dt) a (hmode.trans_ne (by decide)))

end Sys2Proof.Machine

/-! SUPPORT. The boundary issued, the realignment, and the boundary checker (R201 to R206). -/

namespace Sys2Proof.Machine

/-! The boundary (R201). -/

/-- A SEN has 40 bits (R201). -/
theorem State.sen_set64 (n : Nat) (s : State) : (s.set64 F.SLT_SEN_LO_SEN F.SLT_SEN_HI_SEN n).sen = n % 2 ^ 40 := by
  have hlo : (s.set64 F.SLT_SEN_LO_SEN F.SLT_SEN_HI_SEN n).getF F.SLT_SEN_LO_SEN = n % 2 ^ 32 :=
    (State.getF_setF_ne _ _ (by decide)).trans (State.getF_setF s n (by decide) (by decide))
  have hhi : (s.set64 F.SLT_SEN_LO_SEN F.SLT_SEN_HI_SEN n).getF F.SLT_SEN_HI_SEN = n / 2 ^ 32 % 2 ^ 8 := State.getF_setF _ _ (by decide) (by decide)
  rw [State.sen, State.get64, hlo, hhi]
  omega

/-- The next boundary is placed beside the alignment's registers (R203). -/
theorem alignNext_place (s : State) : ∃ at_, (alignNext s).slt.place = (s.slt.past, s.slt.first, some at_, (s.sen + 1) % 2 ^ 40) := by
  unfold alignNext
  extract_lets b
  split
  next i n _ =>
    extract_lets err trim s1
    have hsen : s1.sen = s.sen := ((OnlyRegs.setF s F.SLT_ALIGN_VALUE _).trans (OnlyRegs.setF _ F.SLT_SEN_DIFF_VALUE _)).get64 (by decide) (by decide)
    have hplace : PlacedAt s.slt.place (noteAlign err s1) := keeps_ite rfl (PlacedAt.notify rfl)
    refine ⟨((b : Int) + nominal s1 - trim).toNat, ?_⟩
    change ((noteAlign err s1).slt.place.1, (noteAlign err s1).slt.place.2.1, some _, (s1.sen + 1) % 2 ^ 40) = _
    rw [hplace, hsen]
    rfl

theorem PlacedAt.fields {p : List (Nat × Nat) × Bool × Option Nat × Nat} {s : State} (h : PlacedAt p s) :
    s.slt.past = p.1 ∧ s.slt.first = p.2.1 ∧ s.slt.next = p.2.2.1 ∧ s.slt.nextSen = p.2.2.2 := by
  rw [← h]
  exact ⟨rfl, rfl, rfl, rfl⟩

/-- The boundary `b` issued and the next one placed, after the power of the boundary (R201 to R203). -/
def boundaryIssued (b : Nat) (s : State) : State :=
  let sen := s.slt.nextSen
  let s := (s.set64 F.SLT_SEN_LO_SEN F.SLT_SEN_HI_SEN sen).set64 F.SLT_BOUND_LO_TICKS F.SLT_BOUND_HI_TICKS b
  alignNext (s.updSlt fun x => { x with chkBound := x.chkNext, chkSen := x.chkNextSen, first := false, past := ((b, sen) :: x.past).take 256 })

theorem State.sen_updSlt (f : Slots → Slots) (s : State) : (s.updSlt f).sen = s.sen := rfl

theorem boundaryIssued_place (b : Nat) (s : State) :
    ∃ at_, PlacedAt (((b, s.slt.nextSen) :: s.slt.past).take 256, false, some at_, (s.slt.nextSen + 1) % 2 ^ 40) (boundaryIssued b s) := by
  have hsen : ((s.set64 F.SLT_SEN_LO_SEN F.SLT_SEN_HI_SEN s.slt.nextSen).set64 F.SLT_BOUND_LO_TICKS F.SLT_BOUND_HI_TICKS b).sen = s.slt.nextSen % 2 ^ 40 := by
    rw [← State.sen_set64 s.slt.nextSen s]
    exact (OnlyRegs.set64 _ F.SLT_BOUND_LO_TICKS F.SLT_BOUND_HI_TICKS b).get64 (by decide) (by decide)
  obtain ⟨at_, halign⟩ := alignNext_place (((s.set64 F.SLT_SEN_LO_SEN F.SLT_SEN_HI_SEN s.slt.nextSen).set64 F.SLT_BOUND_LO_TICKS F.SLT_BOUND_HI_TICKS b).updSlt
    fun x => { x with chkBound := x.chkNext, chkSen := x.chkNextSen, first := false, past := ((b, s.slt.nextSen) :: x.past).take 256 })
  refine ⟨at_, halign.trans ?_⟩
  rw [State.sen_updSlt, hsen, Nat.mod_add_mod]
  simp

/-- What a boundary does after it is issued: own cells, beacons, and the decisions of the radio ports (R217, R232, R298). -/
def boundaryWork (first : Bool) (sen : Nat) (s : State) : State :=
  let s := settleCells ({ s with rxFlags := [] }.updXch fun x => { x with rcptFull := false })
  let s := (List.range 16).foldl (fun s n => if isBeaconSlot n first sen s then buildBeacon n s else s) s
  (List.range 16).foldl (fun s n => if portOn n s then radioDecision n first s else s) s

theorem boundary_eq (b : Nat) (s : State) :
    boundary b s = boundaryWork s.slt.first (powerAtBoundary b s).slt.nextSen (boundaryIssued b (powerAtBoundary b s)) := rfl

theorem PlacedAt.boundaryWork {first : Bool} {sen : Nat} {p : List (Nat × Nat) × Bool × Option Nat × Nat} {s : State} (hs : PlacedAt p s) :
    PlacedAt p (boundaryWork first sen s) := by
  have hcells : PlacedAt p (Machine.settleCells ({ s with rxFlags := [] }.updXch fun x => { x with rcptFull := false })) := PlacedAt.settleCells hs
  exact keeps_foldl (keeps_foldl hcells fun _ _ _ ht => keeps_ite ht.buildBeacon ht) fun _ _ _ ht => keeps_ite ht.radioDecision ht

theorem powerAtBoundary_slots (b : Nat) (s : State) :
    (powerAtBoundary b s).slt.past = s.slt.past ∧ (powerAtBoundary b s).slt.nextSen = s.slt.nextSen := by
  obtain ⟨hpast, -, -, hnext⟩ := (PlacedAt.powerAtBoundary (p := s.slt.place) (s := s) (b := b) rfl).fields
  exact ⟨hpast, hnext⟩

theorem boundary_place (b : Nat) (s : State) :
    ∃ at_, PlacedAt (((b, s.slt.nextSen) :: s.slt.past).take 256, false, some at_, (s.slt.nextSen + 1) % 2 ^ 40) (boundary b s) := by
  obtain ⟨hpast, hnext⟩ := powerAtBoundary_slots b s
  obtain ⟨at_, hissued⟩ := boundaryIssued_place b (powerAtBoundary b s)
  rw [hpast, hnext] at hissued
  refine ⟨at_, ?_⟩
  rw [boundary_eq]
  exact hissued.boundaryWork

/-- With no transaction pending the command is the boundary alone (R131). -/
theorem exec_slotBoundary {dt b : Nat} {s : State} (hnext : s.slt.next = some b) (hrun : s.clk.running = true) (htxn : s.txn ≠ txPending)
    (hdue : b ≤ (s.elapse dt).clk.slot) : exec (.slotBoundary dt) s = .next (boundary b (s.elapse dt)) := by
  have hnext' : (s.elapse dt).slt.next = some b := hnext
  have hplain : commitFirst b (s.elapse dt) = s.elapse dt := if_neg fun h => htxn h.1
  change execSlotBoundary dt s = _
  simp only [execSlotBoundary, hnext', hplain]
  exact if_pos ⟨hrun, hdue⟩

theorem slotBoundary_issues {dt b : Nat} {s : State} (hnext : s.slt.next = some b) (hrun : s.clk.running = true) (htxn : s.txn ≠ txPending)
    (hdue : b ≤ (s.elapse dt).clk.slot) : Completes (.slotBoundary dt) s fun t =>
      t.slt.past.head? = some (b, s.slt.nextSen) ∧ t.slt.first = false ∧ t.slt.nextSen = (s.slt.nextSen + 1) % 2 ^ 40 ∧ t.slt.next ≠ none := by
  obtain ⟨at_, hplace⟩ := boundary_place b (s.elapse dt)
  obtain ⟨hpast, hfirst, hplaced, hsen⟩ := hplace.fields
  refine ⟨_, exec_slotBoundary hnext hrun htxn hdue, ?_, hfirst, hsen, ?_⟩
  · rw [hpast]
    rfl
  · rw [hplaced]
    exact Option.some_ne_none at_

/-! The realignment (R205). -/

/-- The next boundary placed on the ideal one and counted, before the notice. -/
def realigned (i n : Int) (s : State) : State := (placeNext i.toNat (n.toNat % 2 ^ 40) s).incF (F.SLT_CNT_COUNT 9)

theorem writeSltCmd_realigns {m : Master} {w : Word} {b : Nat} {s : State} (hnext : s.slt.next = some b) (howns : s.owns m = true) (hreq : bitsOf w 0 0 = 1)
    (hdiff : toSigned 32 (s.getF F.SLT_SEN_DIFF_VALUE) < 0) (hlater : (s.slt.nextSen : Int) ≤ (idealFrom b s).2) :
    ∃ arg, writeSltCmd m w s = notify N.REALIGNED scOk 0 arg (realigned (idealFrom b s).1 (idealFrom b s).2 s) := by
  have hrefused : ¬ ((!s.owns m) = true ∨ 0 ≤ toSigned 32 (s.getF F.SLT_SEN_DIFF_VALUE) ∨ (idealFrom b s).2 < s.slt.nextSen) := by
    rw [howns]
    simp only [Bool.not_true, Bool.false_eq_true, false_or, not_or, not_le, not_lt]
    exact ⟨hdiff, hlater⟩
  have hcmd : ¬ bitsOf w 0 0 = 0 := by omega
  refine ⟨(idealFrom b s).2.toNat - (realigned (idealFrom b s).1 (idealFrom b s).2 s).sen - 1, ?_⟩
  unfold writeSltCmd
  rw [if_neg hcmd, hnext]
  exact if_neg hrefused

theorem sltRealign_places {dt b : Nat} {m : Master} {w : Word} {s : State} (hnext : s.slt.next = some b) (hcore : s.clk.core = true) (hmode : s.mode = stAutonomous)
    (howns : s.owns m = true) (hreq : bitsOf w 0 0 = 1) (hdiff : toSigned 32 (s.getF F.SLT_SEN_DIFF_VALUE) < 0)
    (hlater : (s.slt.nextSen : Int) ≤ (idealFrom b (s.elapse dt)).2) : Completes (.sltRealign dt m w) s fun t =>
      t.slt.next = some (idealFrom b (s.elapse dt)).1.toNat ∧ t.slt.nextSen = (idealFrom b (s.elapse dt)).2.toNat % 2 ^ 40 ∧
        t.slt.chkNext = (idealFrom b (s.elapse dt)).1.toNat ∧ t.getF (F.SLT_CNT_COUNT 9) = (s.getF (F.SLT_CNT_COUNT 9) + 1) % 2 ^ 32 ∧
          OnlyRegs ((F.SLT_CNT_COUNT 9).addr :: noticeRegs) s t ∧ OnlyRing s t ∧ t.tabs = s.tabs := by
  obtain ⟨arg, hplace⟩ := writeSltCmd_realigns (m := m) (s := s.elapse dt) hnext howns hreq hdiff hlater
  have honly : OnlyRegs [(F.SLT_CNT_COUNT 9).addr] s (realigned (idealFrom b (s.elapse dt)).1 (idealFrom b (s.elapse dt)).2 (s.elapse dt)) :=
    OnlyRegs.setF (placeNext _ _ (s.elapse dt)) (F.SLT_CNT_COUNT 9) _
  refine ⟨_, congrArg Host.Outcome.next ((gatedWrite_runs hcore hmode).trans hplace), ?_, ?_, ?_, ?_, noticed_frame honly (by decide) rfl rfl _ _ _ _⟩
  · rw [notify_slt]; rfl
  · rw [notify_slt]; rfl
  · rw [notify_slt]; rfl
  · exact (notify_getF (by decide)).trans (State.getF_incF_counter ..)

/-! The checker (R206), and the cause of the safe state that it gives (R486, R491). -/

/-- The checker compares the boundary and SEN issued with its own. -/
theorem exec_slotCheck {dt b : Nat} {r : Option (Nat × Nat)} {s : State} (hnext : s.slt.next = some b) (hrun : s.clk.running = true) (hpast : s.slt.past ≠ [])
    (hr : checkSlot s.bound s.sen (s.elapse dt) = r) : exec (.slotCheck dt none) s = .next (r.elim (s.elapse dt) fun f => slotFault f.1 f.2 (s.elapse dt)) := by
  have hplaced : ¬ ((s.elapse dt).slt.next.isNone = true ∨ (s.elapse dt).slt.past.isEmpty = true) := by
    have hnext' : (s.elapse dt).slt.next = some b := hnext
    rw [hnext']
    simpa using hpast
  have hr' : checkSlot (s.elapse dt).bound (s.elapse dt).sen (s.elapse dt) = r := hr
  refine (if_neg (not_or.2 ⟨elapse_runs hrun, hplaced⟩)).trans ?_
  rw [hr']
  cases r <;> rfl

/-- The cause of an entry stands in SAF_STATUS.CAUSE. -/
theorem addCause_cause {i : Nat} (hi : i < 29) (s : State) : (addCause i s).getF ⟨0x170000, i, i⟩ = 1 := by
  have hset : (s.setF ⟨0x170000, i, i⟩ 1).getF ⟨0x170000, i, i⟩ = 1 := State.getF_setF_of_lt _ (Nat.le_refl i) (by dsimp only; omega) (by simp)
  unfold addCause
  dsimp only
  split
  · exact (State.getF_setF_disj _ _ (by decide) (by decide) (.inr hi)).trans hset
  · exact hset

theorem safeAsserted_cause {i : Nat} (hi : i < 29) (s : State) : (safeAsserted i s).getF ⟨0x170000, i, i⟩ = 1 := by
  have hquiet : (quietPorts (addCause i s)).reg 0x170000 = (addCause i s).reg 0x170000 :=
    (LedgerClosed.regStands (a := 0x170000) (by decide) (by decide) _).quietPorts rfl
  calc (safeAsserted i s).getF ⟨0x170000, i, i⟩
    _ = (assertSafe (quietPorts (addCause i s))).getF ⟨0x170000, i, i⟩ := State.getF_setF_disj _ _ (by decide) (by decide) (.inr (by dsimp only; omega))
    _ = (quietPorts (addCause i s)).getF ⟨0x170000, i, i⟩ := OnlyRegs.getF (l := [0x4, 0x4, F.PWR_STATUS_MODE.addr])
      (((OnlyRegs.setF _ F.TOP_STATUS_SAFE 1).trans (OnlyRegs.setF _ F.TOP_STATUS_STATE stSafeHold)).trans (OnlyRegs.setF _ F.PWR_STATUS_MODE 0)) (by simp)
    _ = (addCause i s).getF ⟨0x170000, i, i⟩ := State.getF_of_reg hquiet
    _ = 1 := addCause_cause hi s

theorem enterSafeFresh_cause {i : Nat} (hi : i < 29) (s : State) : (enterSafeFresh i s).getF ⟨0x170000, i, i⟩ = 1 := by
  obtain ⟨arg, heq⟩ := enterSafeFresh_eq i s
  have hnote : SafeKept (safeHandedOver (safeAsserted i s)) (notify N.SAFE_ENTER scSafeHold 0 arg (safeHandedOver (safeAsserted i s))) :=
    SafeKept.of_onlyRegs (OnlyRegs.notify _ _ _ _ _) (by decide) (notify_pins ..) (notify_ctl ..)
  have hkept := ((safeKept_safeHandedOver (safeAsserted i s)).trans hnote).trans (safeKept_armFreeze i _)
  rw [heq]
  exact (State.getF_of_reg hkept.safe).trans (safeAsserted_cause hi s)

/-- A fault of the slot timing takes a device that runs into the safe state with cause DF-E (R206, R234). -/
theorem slotFault_safe {k v : Nat} {s : State} (hmode : s.mode = stAutonomous) (hsafe : s.getF F.SAF_STATUS_SAFE = 0) :
    (slotFault k v s).mode = stSafeHold ∧ (slotFault k v s).getF F.SAF_STATUS_SAFE = 1 ∧ bitsOf ((slotFault k v s).reg 0x170000) 3 3 = 1 ∧
      (slotFault k v s).pins.safeN = true := by
  have hfault : ∃ arg, slotFault k v s = enterSafe 3 (notify N.SLOT_FAULT scSafeHold 0 arg (s.incF (F.SLT_CNT_COUNT 8))) := ⟨_, rfl⟩
  obtain ⟨arg, heq⟩ := hfault
  have hnoted : OnlyRegs ([(F.SLT_CNT_COUNT 8).addr] ++ noticeRegs) s (notify N.SLOT_FAULT scSafeHold 0 arg (s.incF (F.SLT_CNT_COUNT 8))) :=
    (OnlyRegs.setF s (F.SLT_CNT_COUNT 8) _).trans (OnlyRegs.notify _ _ _ _ _)
  obtain ⟨hhold, hasserted, hpin, -⟩ := enterSafeFresh_fields 3 (notify N.SLOT_FAULT scSafeHold 0 arg (s.incF (F.SLT_CNT_COUNT 8)))
  rw [heq, enterSafe_of_autonomous ((hnoted.getF (f := F.SAF_STATUS_SAFE) (by decide)).trans hsafe)
    ((hnoted.getF (f := F.TOP_STATUS_STATE) (by decide)).trans hmode)]
  exact ⟨hhold, hasserted, enterSafeFresh_cause (i := 3) (by decide) _, hpin⟩

/-- Settles O40: the work of the boundary leaves the place that the alignment gave the slot engine, and a realignment and a fault of the checker change what their words say. -/
theorem slotBoundaries : Obligations.SlotBoundaries := by
  intro dt s b hnext
  refine ⟨slotBoundary_issues hnext, fun m w => sltRealign_places hnext, fun hrun hpast => ⟨fun hright => ?_, fun k v hwrong hmode hsafe => ?_⟩⟩
  · exact ⟨_, exec_slotCheck hnext hrun hpast hright, rfl⟩
  · exact ⟨_, exec_slotCheck hnext hrun hpast hwrong, slotFault_safe (s := s.elapse dt) hmode hsafe⟩

end Sys2Proof.Machine

/-! SUPPORT. A buffer's return to the pool, and what a freed job leaves of the frames in the pool (R308, R350). -/

namespace Sys2Proof.Machine

theorem State.slt_of_rest {s t : State} (h : t.rest = s.rest) : t.slt = s.slt := (congrArg State.slt h :)
theorem State.fab_of_rest {s t : State} (h : t.rest = s.rest) : t.fab = s.fab := (congrArg State.fab h :)

theorem noteLow_rest (s : State) : (noteLow s).rest = s.rest := by
  unfold noteLow
  extract_lets mark
  split
  · exact notify_rest.trans rfl
  · split <;> rfl

theorem poolFree_rest (h : Nat) (s : State) : (poolFree h s).rest = s.rest := by
  unfold poolFree
  extract_lets i _ s1
  split
  · rfl
  · split
    · exact (noteLow_rest _).trans rfl
    · rfl

theorem State.bytes_of_dram {s t : State} (h : t.dram = s.dram) (a n : Nat) : t.bytes a n = s.bytes a n := by
  induction n generalizing a with
  | zero => rfl
  | succ n ih => rw [State.bytes, State.bytes, State.byte_of_dram h, ih]

/-- The frame in a buffer is DRAM's where the pool lies. -/
theorem frameOf_congr {s t : State} (h : Nat) (hdram : t.dram = s.dram) (hbase : poolBase t = poolBase s) (hcount : poolCount t = poolCount s) :
    frameOf h t = frameOf h s := by
  unfold frameOf State.leAt recordAddr bufferAddr
  dsimp only
  rw [hbase, hcount, State.bytes_of_dram hdram, State.bytes_of_dram hdram]

/-- A job's ID freed while no creator waits (R308). -/
theorem freeJob_alone {i : Nat} {s : State} (hwaiting : s.fab.waiting = []) : freeJob i s = syncJobs (s.setJob i none) := by
  have hwaiting' : (syncJobs (s.setJob i none)).fab.waiting = [] := hwaiting
  unfold freeJob
  dsimp only
  rw [hwaiting']

theorem OnlyRegs.syncJobs (s : State) : OnlyRegs [0x100000] s (syncJobs s) :=
  ((OnlyRegs.setF s F.JOB_STATUS_INFLIGHT _).trans (OnlyRegs.setF _ F.JOB_STATUS_FAULTED _)).mono (by decide)

end Sys2Proof.Machine

/-! SUPPORT. The neighbour table (R229 to R231, R233). -/

namespace Sys2Proof.Machine

/-! One place of the table (R233). -/

theorem State.nbr_of_slt {s t : State} (h : t.slt = s.slt) (i : Nat) : t.nbr i = s.nbr i := congrArg (fun x : Slots => Sparse.get (fun _ => none) x.nbrs i) h

theorem setNbr_nbr_self (i : Nat) (x : Option Neighbour) (s : State) : (setNbr i x s).nbr i = x := Sparse.get_set_self ..

theorem setNbr_nbr_ne {i k : Nat} (x : Option Neighbour) (s : State) (h : k ≠ i) : (setNbr i x s).nbr k = s.nbr k := Sparse.get_set_ne _ _ _ h

theorem OnlyRegs.setNbr (i : Nat) (x : Option Neighbour) (s : State) : OnlyRegs [0xC00C4] s (setNbr i x s) := by
  have hput (f : Slots → Slots) : OnlyRegs [] s (s.updSlt f) := OnlyRegs.of_regs [] rfl
  exact (((hput _).trans (OnlyRegs.setF (s.updSlt _) F.SLT_NBR_STATUS_SILENT _)).trans (OnlyRegs.setF (State.setF _ _ _) F.SLT_NBR_STATUS_ACTIVE _)).mono (by decide)

theorem notify_nbr (k : NoticeKind) (status port arg : Nat) (s : State) (i : Nat) : (notify k status port arg s).nbr i = s.nbr i :=
  State.nbr_of_slt (notify_slt ..) i

/-! Missed beacons, the release, and the owner's clear (R231, R233). -/

section
variable {dt : Nat} {i : Fin 64} {x : Neighbour} {s : State} (hx : s.nbr i = some x) (hrun : s.clk.running = true) (hlate : x.exp + graceSlots s < s.sen)
include hx hrun hlate

theorem exec_beaconMiss (hactive : x.silent = false) : exec (.beaconMiss dt i) s = .next
    (if x.missed + 1 < 3 then setNbr i (some { x with missed := x.missed + 1, exp := x.exp + x.period }) ((s.elapse dt).incF (F.SLT_CNT_COUNT 7))
    else notify N.NBR_SILENT scOk 0 (nbrArg i x)
      (setNbr i (some { x with missed := 3, silent := true, exp := x.exp + 2 * x.period }) ((s.elapse dt).incF (F.SLT_CNT_COUNT 7)))) := by
  have hx' : (s.elapse dt).nbr i = some x := hx
  have hmissed : ¬ (x.silent = true ∨ (s.elapse dt).sen ≤ x.exp + graceSlots (s.elapse dt)) := by
    rw [hactive]
    exact fun h => h.elim Bool.noConfusion (Nat.not_le.2 hlate)
  change execBeaconMiss dt i s = _
  unfold execBeaconMiss
  dsimp only
  rw [if_neg (elapse_runs hrun), hx']
  dsimp only
  rw [if_neg hmissed]
  split <;> rfl

theorem beaconMiss_counts (hactive : x.silent = false) (hfew : x.missed + 1 < 3) : Completes (.beaconMiss dt i) s fun t =>
    t.nbr i = some { x with missed := x.missed + 1, exp := x.exp + x.period } ∧ t.getF (F.SLT_CNT_COUNT 7) = (s.getF (F.SLT_CNT_COUNT 7) + 1) % 2 ^ 32 ∧
      OnlyRegs [(F.SLT_CNT_COUNT 7).addr, 0xC00C4] s t ∧ t.dram = s.dram ∧ t.tabs = s.tabs := by
  have hset := OnlyRegs.setNbr i (some { x with missed := x.missed + 1, exp := x.exp + x.period }) ((s.elapse dt).incF (F.SLT_CNT_COUNT 7))
  have hcount : OnlyRegs [(F.SLT_CNT_COUNT 7).addr] s ((s.elapse dt).incF (F.SLT_CNT_COUNT 7)) := OnlyRegs.setF (s.elapse dt) (F.SLT_CNT_COUNT 7) _
  refine ⟨_, (exec_beaconMiss hx hrun hlate hactive).trans (congrArg Host.Outcome.next (if_pos hfew)), setNbr_nbr_self .., ?_, hcount.trans hset, rfl, rfl⟩
  exact (hset.getF (by decide)).trans (State.getF_incF_counter ..)

theorem beaconMiss_silences (hactive : x.silent = false) (hmany : 2 ≤ x.missed) : Completes (.beaconMiss dt i) s fun t =>
    t.nbr i = some { x with missed := 3, silent := true, exp := x.exp + 2 * x.period } ∧ OnlyRegs ([(F.SLT_CNT_COUNT 7).addr, 0xC00C4] ++ noticeRegs) s t ∧
      OnlyRing s t := by
  have hset := OnlyRegs.setNbr i (some { x with missed := 3, silent := true, exp := x.exp + 2 * x.period }) ((s.elapse dt).incF (F.SLT_CNT_COUNT 7))
  have hcount : OnlyRegs [(F.SLT_CNT_COUNT 7).addr] s ((s.elapse dt).incF (F.SLT_CNT_COUNT 7)) := OnlyRegs.setF (s.elapse dt) (F.SLT_CNT_COUNT 7) _
  obtain ⟨honly, hring, -⟩ := noticed_frame (hcount.trans hset) (by decide) rfl rfl N.NBR_SILENT scOk 0 (nbrArg i x)
  exact ⟨_, (exec_beaconMiss hx hrun hlate hactive).trans (congrArg Host.Outcome.next (if_neg (by omega))), (notify_nbr ..).trans (setNbr_nbr_self ..), honly, hring⟩

theorem nbrRelease_empties (hsilent : x.silent = true) : Completes (.nbrRelease dt i) s fun t =>
    t.nbr i = none ∧ OnlyRegs (0xC00C4 :: noticeRegs) s t ∧ OnlyRing s t ∧ t.tabs = s.tabs := by
  have hx' : (s.elapse dt).nbr i = some x := hx
  have hexec : exec (.nbrRelease dt i) s = .next (notify N.NBR_RELEASED scOk 0 (nbrArg i x) (setNbr i none (s.elapse dt))) := by
    change execNbrRelease dt i s = _
    unfold execNbrRelease
    dsimp only
    rw [if_neg (elapse_runs hrun), hx']
    exact if_pos ⟨hsilent, hlate⟩
  have hset : OnlyRegs [0xC00C4] s (setNbr i none (s.elapse dt)) := OnlyRegs.setNbr i none (s.elapse dt)
  exact ⟨_, hexec, (notify_nbr ..).trans (setNbr_nbr_self ..), noticed_frame hset (by decide) rfl rfl _ _ _ _⟩

end

theorem sltNbrClear_empties {dt : Nat} {m : Master} {w : Word} {s : State} (hcore : s.clk.core = true) (hmode : s.mode = stAutonomous) (howns : s.owns m = true)
    (hclear : bitsOf w 31 31 = 1) : Completes (.sltNbrClear dt m w) s fun t =>
      t.nbr (bitsOf w 5 0) = none ∧ (∀ k : Fin 64, k.val ≠ bitsOf w 5 0 → t.nbr k = s.nbr k) ∧ OnlyRegs [0xC00C4] s t ∧ t.dram = s.dram ∧ t.tabs = s.tabs := by
  have hwrite : writeNbrClear m w (s.elapse dt) = setNbr (bitsOf w 5 0) none (s.elapse dt) := (if_neg (elapse_owned howns)).trans (if_pos hclear)
  exact ⟨_, congrArg Host.Outcome.next ((gatedWrite_runs hcore hmode).trans hwrite), setNbr_nbr_self .., fun k hk => setNbr_nbr_ne none (s.elapse dt) hk,
    OnlyRegs.setNbr (bitsOf w 5 0) none (s.elapse dt), rfl, rfl⟩

/-! The outcome of a beacon's OPEN (R229, R230). -/

/-- A beacon dropped leaves the jobs and the slot engine, and counts. -/
theorem dropBeacon_fields (h k : Nat) (s : State) (hk : 0xc0100 + 4 * k ∉ (F.BMP_CNT_COUNT 1).addr :: noticeRegs) :
    (dropBeacon h k s).fab = s.fab ∧ (dropBeacon h k s).slt = s.slt ∧ (dropBeacon h k s).getF (F.SLT_CNT_COUNT k) = (s.getF (F.SLT_CNT_COUNT k) + 1) % 2 ^ 32 := by
  have hrest := poolFree_rest h (s.incF (F.SLT_CNT_COUNT k))
  obtain ⟨honly, -⟩ := poolFree_frame h (s.incF (F.SLT_CNT_COUNT k))
  exact ⟨State.fab_of_rest hrest, State.slt_of_rest hrest, (honly.getF hk).trans (State.getF_incF_counter ..)⟩

theorem putNbr_fields (h : Nat) (b : BeaconHdr) (p : List Byte) (i : Nat) (cells : Sparse (Option Nat)) (s : State) :
    (putNbr h b p i cells s).fab = s.fab ∧ ((putNbr h b p i cells s).nbr i).map (fun x => (x.silent, x.missed, x.rid, x.fc, x.lastSen, x.exp, x.period)) =
      some (false, 0, entNat p 2 2 % 1024, b.fc, entNat p 4 5, entNat p 4 5 + entNat p 10 2, entNat p 10 2) := by
  unfold putNbr
  extract_lets r sen period x
  have hrest := poolFree_rest h (setNbr i (some x) (s.incF (F.SLT_CNT_COUNT 2)))
  refine ⟨(State.fab_of_rest hrest).trans rfl, ?_⟩
  rw [State.nbr_of_slt (State.slt_of_rest hrest), setNbr_nbr_self]
  rfl

/-- A new RID takes the lowest EMPTY place (R230). -/
theorem takeBeacon_new {h i : Nat} {b : BeaconHdr} {p : List Byte} {s : State} (hnew : (s.slt.nbrs.all fun e => e.2.all fun x => x.rid != entNat p 2 2 % 1024) = true)
    (hfree : (List.range 64).find? (fun i => (s.nbr i).isNone) = some i) :
    takeBeacon h b p s = notify N.NBR_NEW scOk 0 (i * 65536 + entNat p 2 2 % 1024) (putNbr h b p i [] s) := by
  unfold takeBeacon
  dsimp only
  split
  next k x hknown =>
    have hother := List.all_eq_true.1 hnew _ (List.mem_of_find?_eq_some hknown)
    have hsame := List.find?_some hknown
    simp only [Option.all_some, bne_iff_ne] at hother
    exact absurd (beq_iff_eq.1 hsame) hother
  next => rw [hfree]

theorem tracked_new {rid : Nat} {s : State} (hnew : (s.slt.nbrs.all fun e => e.2.all fun x => x.rid != rid) = true) :
    ((trackedNbrs s).find? fun x => x.rid == rid) = none := by
  rw [List.find?_eq_none]
  intro x hx
  obtain ⟨e, he, hsome⟩ := List.mem_filterMap.1 hx
  have hother := List.all_eq_true.1 hnew e he
  rw [hsome] at hother
  simpa using hother

/-- What a verified beacon of another device has to show (R229). -/
structure BeaconPasses (p : List Byte) (s : State) : Prop where
  utype : entNat p 0 1 = 1
  version : entNat p 1 1 = 1
  form : beaconForm p = true
  slotCode : entNat p 9 1 = s.getF F.SLT_CONFIG_SLOT_CODE
  resFrame : entNat p 12 2 = s.getF F.SLT_RES_CFG_RES_FRAME
  other : entNat p 2 2 % 1024 ≠ s.getF F.SLT_ADDR_RID
  fresh : (s.slt.nbrs.all fun e => e.2.all fun x => x.rid != entNat p 2 2 % 1024) = true

theorem checkBeacon_passes {h : Nat} {b : BeaconHdr} {p : List Byte} {s : State} (hp : BeaconPasses p s) : checkBeacon h b p s = takeBeacon h b p s := by
  have hformed : ¬ (entNat p 0 1 ≠ 1 ∨ entNat p 1 1 ≠ 1 ∨ (!beaconForm p) = true) := by
    simp [hp.utype, hp.version, hp.form]
  have hagreed : ¬ (entNat p 9 1 ≠ s.getF F.SLT_CONFIG_SLOT_CODE ∨ entNat p 12 2 ≠ s.getF F.SLT_RES_CFG_RES_FRAME) := by
    simp [hp.slotCode, hp.resFrame]
  unfold checkBeacon
  dsimp only
  rw [if_neg hformed, if_neg hagreed, if_neg hp.other, tracked_new hp.fresh]
  simp

section
variable {dt h : Nat} {id : BitVec 12} {j : Job} {s : State} (hj : s.job id.toNat = some j) (hdone : j.state = jsComplete) (hrun : s.clk.running = true)
  (hwaiting : s.fab.waiting = []) (hwork : j.work = .openBcn h)

/-- The state as the beacon's job is freed. -/
def beaconFreed (dt : Nat) (id : BitVec 12) (s : State) : State := syncJobs ((s.elapse dt).setJob id.toNat none)

theorem beaconFreed_only (dt : Nat) (id : BitVec 12) (s : State) : OnlyRegs [0x100000] s (beaconFreed dt id s) := by
  have hset : OnlyRegs [] s ((s.elapse dt).setJob id.toNat none) := OnlyRegs.of_regs [] rfl
  exact hset.trans (OnlyRegs.syncJobs _)

theorem beaconFreed_frame (dt : Nat) (id : BitVec 12) (h : Nat) (s : State) : frameOf h (beaconFreed dt id s) = frameOf h s :=
  frameOf_congr h rfl (congrArg (· * 2 ^ 21) ((beaconFreed_only dt id s).getF (by decide))) (congrArg (64 * ·) ((beaconFreed_only dt id s).getF (by decide)))

theorem beaconFreed_job (dt : Nat) (id : BitVec 12) (s : State) : (beaconFreed dt id s).job id.toNat = none := State.job_setJob_self ..

include hj hdone hrun hwaiting hwork

theorem exec_nbrBeaconRx : exec (.nbrBeaconRx dt id) s = .next (beaconOpened h j.status (beaconFreed dt id s)) := by
  have hj' : (s.elapse dt).job id.toNat = some j := hj
  change execNbrBeaconRx dt id s = _
  unfold execNbrBeaconRx
  dsimp only
  rw [if_neg (elapse_runs hrun), hj']
  dsimp only
  rw [hwork]
  dsimp only
  rw [if_pos hdone, freeJob_alone (s := s.elapse dt) hwaiting]
  rfl

theorem nbrBeaconRx_drops (hstatus : j.status = scAuthFail) (hhdr : (beaconHdr (frameOf h s)).isSome = true) : Completes (.nbrBeaconRx dt id) s fun t =>
    t.job id.toNat = none ∧ t.getF (F.SLT_CNT_COUNT 3) = (s.getF (F.SLT_CNT_COUNT 3) + 1) % 2 ^ 32 ∧ t.slt.nbrs = s.slt.nbrs := by
  obtain ⟨b, hb⟩ := Option.isSome_iff_exists.1 hhdr
  have hopened : beaconOpened h j.status (beaconFreed dt id s) = dropBeacon h 3 (beaconFreed dt id s) := by
    unfold beaconOpened
    dsimp only
    rw [beaconFreed_frame, hb, hstatus]
    exact (if_neg (by decide)).trans rfl
  obtain ⟨hfab, hslt, hcount⟩ := dropBeacon_fields h 3 (beaconFreed dt id s) (by decide)
  refine ⟨_, (exec_nbrBeaconRx hj hdone hrun hwaiting hwork).trans (congrArg Host.Outcome.next hopened), ?_, ?_, ?_⟩
  · exact (State.job_of_jobs (congrArg Fabric.jobs hfab) _).trans (beaconFreed_job dt id s)
  · rw [hcount, (beaconFreed_only dt id s).getF (by decide)]
  · rw [hslt]
    rfl

theorem nbrBeaconRx_tracks {b : BeaconHdr} {p : List Byte} {i : Nat} (hstatus : j.status = scOk) (hb : beaconHdr (frameOf h s) = some b)
    (hp : p = ((frameOf h s).drop b.at_).take ((frameOf h s).length - micLen b.level - b.at_)) (hpasses : BeaconPasses p s)
    (hfree : (List.range 64).find? (fun i => (s.nbr i).isNone) = some i) : Completes (.nbrBeaconRx dt id) s fun t =>
      t.job id.toNat = none ∧ (t.nbr i).map (fun x => (x.silent, x.missed, x.rid, x.fc, x.lastSen, x.exp, x.period)) =
        some (false, 0, entNat p 2 2 % 1024, b.fc, entNat p 4 5, entNat p 4 5 + entNat p 10 2, entNat p 10 2) := by
  have hstands : ∀ f : Field, f.addr ≠ 0x100000 → (beaconFreed dt id s).getF f = s.getF f := fun f hf => (beaconFreed_only dt id s).getF (by simpa using hf)
  have hpasses' : BeaconPasses p (beaconFreed dt id s) :=
    { hpasses with
      slotCode := hpasses.slotCode.trans (hstands F.SLT_CONFIG_SLOT_CODE (by decide)).symm
      resFrame := hpasses.resFrame.trans (hstands F.SLT_RES_CFG_RES_FRAME (by decide)).symm
      other := hpasses.other.trans_eq (hstands F.SLT_ADDR_RID (by decide)).symm }
  have hopened : beaconOpened h j.status (beaconFreed dt id s) =
      notify N.NBR_NEW scOk 0 (i * 65536 + entNat p 2 2 % 1024) (putNbr h b p i [] (beaconFreed dt id s)) := by
    unfold beaconOpened
    dsimp only
    rw [beaconFreed_frame, hb]
    dsimp only
    rw [if_pos hstatus, ← hp, checkBeacon_passes hpasses', takeBeacon_new hpasses'.fresh hfree]
  obtain ⟨hfab, hnbr⟩ := putNbr_fields h b p i [] (beaconFreed dt id s)
  refine ⟨_, (exec_nbrBeaconRx hj hdone hrun hwaiting hwork).trans (congrArg Host.Outcome.next hopened), ?_, ?_⟩
  · exact (State.job_of_jobs (congrArg Fabric.jobs ((notify_fab ..).trans hfab)) _).trans (beaconFreed_job dt id s)
  · rw [notify_nbr]
    exact hnbr

end

/-- Settles O41: each event of the table changes the one place that it speaks of. -/
theorem neighbourTable : Obligations.NeighbourTable := by
  intro dt s
  refine ⟨fun i x hx hrun hlate => ⟨?_, ?_, ?_⟩, fun m w => sltNbrClear_empties, fun id j hj hdone hrun hwaiting _ h hwork => ⟨?_, ?_⟩⟩
  · exact beaconMiss_counts hx hrun hlate
  · exact beaconMiss_silences hx hrun hlate
  · exact nbrRelease_empties hx hrun hlate
  · exact nbrBeaconRx_drops hj hdone hrun hwaiting hwork
  · intro hstatus b hb p hp hutype hversion hform hcode hres hother hfresh i hfree
    exact nbrBeaconRx_tracks hj hdone hrun hwaiting hwork hstatus hb hp ⟨hutype, hversion, hform, hcode, hres, hother, hfresh⟩ hfree

end Sys2Proof.Machine

/-! SUPPORT. The association state of an entry, and the entry that a node has after it is put (R221, R266, R271, R272, R472). -/

namespace Sys2Proof.Machine

/-- A byte put into an entry image reads back. -/
theorem entNat_entPut_byte {e : List Byte} {off : Nat} (v : Nat) (h : off < e.length) : entNat (entPut e off 1 v) off 1 = v % 256 := by
  have hhead : (e.take off).length = off := List.length_take_of_le (Nat.le_of_lt h)
  unfold entNat entPut
  rw [List.append_assoc, List.drop_append_of_le_length (Nat.le_of_eq hhead.symm), List.drop_of_length_le (Nat.le_of_eq hhead)]
  simp [leBytes, ofLe]

theorem entAssoc_entPutBits {e : List Byte} {v : Nat} (hlen : e.length = 512) (hv : v < 4) : entAssoc (entPutBits e 32 1 0 v) = v := by
  have hbyte : entNat e 32 1 < 256 := by
    refine Nat.lt_of_lt_of_le (ofLe_lt _) (Nat.pow_le_pow_right (by decide) (Nat.mul_le_mul_left 8 ?_ : _ ≤ 8 * 1))
    exact List.length_take_le ..
  unfold entAssoc entPutBits
  dsimp only
  rw [entBits, entNat_entPut_byte _ (by omega), entBits]
  omega

/-! A node's cache line (R271, R272). -/

theorem State.line_of_cat {s t : State} (h : t.cat = s.cat) (n : Nat) : t.line n = s.line n := congrArg (fun c : Catalogue => Sparse.get (fun _ => none) c.cache n) h

theorem State.entry_of_line {s : State} {n : Nat} {l : CacheLine} (h : s.line n = some l) : s.entry n = l.bytes := by
  rw [State.entry, h]

/-- An entry is the catalogue's, or DRAM's where the catalogue lies. -/
theorem State.entry_congr {s t : State} (hcat : t.cat = s.cat) (hdram : t.dram = s.dram) (hbase : catBase t = catBase s) (n : Nat) : t.entry n = s.entry n := by
  rw [State.entry, State.entry, State.line_of_cat hcat, entAddr, entAddr, hbase, State.bytes_of_dram hdram]

theorem setEntry_line_self (n : Nat) (b : List Byte) (s : State) : ∃ l, (setEntry n b s).line n = some l ∧ l.bytes = b := ⟨_, Sparse.get_set_self .., rfl⟩

theorem setEntry_line_ne {n k : Nat} (b : List Byte) (s : State) (h : k ≠ n) : (setEntry n b s).line k = s.line k := Sparse.get_set_ne _ _ _ h

theorem putEntry_parts (n : Nat) (b : List Byte) (s : State) :
    (putEntry n b s).clk = s.clk ∧ (putEntry n b s).cat = (setEntry n b s).cat ∧ (putEntry n b s).slt = s.slt := by
  have hparts := journalRec_parts (2 :: n :: b.map (·.toNat)) 528 (setEntry n b s)
  simp only [Prod.mk.injEq] at hparts
  obtain ⟨hclk, hcat, hslt, -⟩ := hparts
  exact ⟨hclk, hcat, hslt⟩

/-- The cache holds a node's whole entry. -/
def Cached (n : Nat) (s : State) : Prop := (s.line n).any (fun l => l.bytes.length == 512) = true

theorem Cached.length {n : Nat} {s : State} (h : Cached n s) : (s.entry n).length = 512 := by
  obtain ⟨l, hl, hlen⟩ := Option.any_eq_true .. |>.1 h
  rw [State.entry_of_line hl]
  exact beq_iff_eq.1 hlen

/-- An association state put into a whole entry. -/
theorem putEntry_assoc {n v : Nat} {b : List Byte} (s : State) (hlen : b.length = 512) (hv : v < 4) : entAssoc ((putEntry n (entPutBits b 32 1 0 v) s).entry n) = v := by
  obtain ⟨-, hcat, -⟩ := putEntry_parts n (entPutBits b 32 1 0 v) s
  obtain ⟨l, hl, hbytes⟩ := setEntry_line_self n (entPutBits b 32 1 0 v) s
  rw [State.entry_of_line ((State.line_of_cat hcat n).trans hl), hbytes, entAssoc_entPutBits hlen hv]

end Sys2Proof.Machine

/-! SUPPORT. The end of an association, and the supervision of all of them (R225, R226, R300). -/

namespace Sys2Proof.Machine

theorem schedDone_parts (nix status : Nat) (s : State) :
    (schedDone nix status s).clk = s.clk ∧ (schedDone nix status s).cat = s.cat ∧ (schedDone nix status s).slt.responses = s.slt.responses := by
  unfold schedDone
  dsimp only
  rw [notify_clk, notify_cat, notify_slt]
  exact ⟨rfl, rfl, rfl⟩

/-- An association that ends: the clocks stand, the node's entry is the one put, and its responses are gone. -/
theorem assocNone_parts (nix status : Nat) (s : State) :
    (assocNone nix status s).clk = s.clk ∧ (assocNone nix status s).cat = (setEntry nix (entPutBits (s.entry nix) 32 1 0 asNone) (leaveRoster nix s)).cat ∧
      ((assocNone nix status s).slt.responses.all fun r => r.nix != nix) = true := by
  obtain ⟨hclk, hcat, -⟩ := putEntry_parts nix (entPutBits (s.entry nix) 32 1 0 asNone) (leaveRoster nix s)
  unfold assocNone
  extract_lets s1 _ s2
  have hgone : (s2.slt.responses.all fun r => r.nix != nix) = true := List.all_eq_true.2 fun r hr => (List.mem_filter.1 hr).2
  split
  · obtain ⟨hclk', hcat', hresp⟩ := schedDone_parts nix status s2
    exact ⟨hclk'.trans hclk, hcat'.trans hcat, by rw [hresp]; exact hgone⟩
  · exact ⟨hclk, hcat, hgone⟩

theorem assocNone_line_ne {nix k : Nat} (status : Nat) (s : State) (h : k ≠ nix) : (assocNone nix status s).line k = s.line k := by
  obtain ⟨-, hcat, -⟩ := assocNone_parts nix status s
  exact (State.line_of_cat hcat k).trans (setEntry_line_ne _ (leaveRoster nix s) h)

/-- A node without an association, as the cache has it. -/
def Parted (n : Nat) (s : State) : Prop := ∃ l, s.line n = some l ∧ entAssoc l.bytes = asNone

theorem Parted.entAssoc {n : Nat} {s : State} (h : Parted n s) : entAssoc (s.entry n) = asNone := by
  obtain ⟨l, hl, hnone⟩ := h
  rw [State.entry_of_line hl]
  exact hnone

theorem Parted.of_line {n : Nat} {s t : State} (h : Parted n s) (hline : t.line n = s.line n) : Parted n t := by
  obtain ⟨l, hl, hnone⟩ := h
  exact ⟨l, hline.trans hl, hnone⟩

theorem assocNone_parted {nix : Nat} (status : Nat) {s : State} (hlen : (s.entry nix).length = 512) : Parted nix (assocNone nix status s) := by
  obtain ⟨-, hcat, -⟩ := assocNone_parts nix status s
  obtain ⟨l, hl, hbytes⟩ := setEntry_line_self nix (entPutBits (s.entry nix) 32 1 0 asNone) (leaveRoster nix s)
  refine ⟨l, (State.line_of_cat hcat nix).trans hl, ?_⟩
  rw [hbytes, entAssoc_entPutBits hlen (by decide)]

/-! Supervision (R226). -/

/-- A node's timer has run out. -/
def timedOut (n : Nat) (s : State) : Prop := 2 ≤ entAssoc (s.entry n) ∧ entNat (s.entry n) 36 4 < s.clk.slot / sec

theorem superviseNode_of_not {n : Nat} {s : State} (h : ¬ timedOut n s) : superviseNode n s = s := if_neg h

theorem superviseNode_of {n : Nat} {s : State} (h : timedOut n s) :
    superviseNode n s = notify N.NODE_LOST scTimeout 0 n ((assocEnd n scTimeout s).incF (F.ASC_CNT_COUNT 6)) := if_pos h

/-- The end of a lost node's association leaves the clocks and the catalogue as `assocNone` does. -/
theorem superviseNode_parts {n : Nat} {s : State} (h : timedOut n s) :
    (superviseNode n s).clk = (assocNone n scTimeout s).clk ∧ (superviseNode n s).cat = (assocNone n scTimeout s).cat := by
  have hcancel := cancelNode_parts n (assocNone n scTimeout s)
  simp only [Prod.mk.injEq] at hcancel
  rw [superviseNode_of h, notify_clk, notify_cat]
  exact hcancel

theorem superviseNode_clk (n : Nat) (s : State) : (superviseNode n s).clk = s.clk := by
  by_cases h : timedOut n s
  · exact (superviseNode_parts h).1.trans (assocNone_parts n scTimeout s).1
  · rw [superviseNode_of_not h]

theorem superviseNode_line_ne {n k : Nat} (s : State) (hk : k ≠ n) : (superviseNode n s).line k = s.line k := by
  by_cases h : timedOut n s
  · exact (State.line_of_cat (superviseNode_parts h).2 k).trans (assocNone_line_ne scTimeout s hk)
  · rw [superviseNode_of_not h]

theorem superviseNode_parted {n : Nat} {s : State} (hlen : (s.entry n).length = 512) (h : timedOut n s) : Parted n (superviseNode n s) :=
  (assocNone_parted scTimeout hlen).of_line (State.line_of_cat (superviseNode_parts h).2 n)

theorem Parted.superviseNode {n : Nat} (k : Nat) {s : State} (h : Parted n s) : Parted n (superviseNode k s) := by
  by_cases hk : n = k
  · rw [superviseNode_of_not]
    · exact h
    · rintro ⟨hassoc, -⟩
      rw [← hk, h.entAssoc] at hassoc
      exact absurd hassoc (by decide)
  · exact h.of_line (superviseNode_line_ne s hk)

/-- A node whose timer has run out and whose entry is whole, in the cache as `l` has it. -/
structure Lapsed (n : Nat) (l : CacheLine) (s : State) : Prop where
  line : s.line n = some l
  whole : l.bytes.length = 512
  active : 2 ≤ entAssoc l.bytes
  late : entNat l.bytes 36 4 < s.clk.slot / sec

theorem Lapsed.superviseNode_self {n : Nat} {l : CacheLine} {s : State} (h : Lapsed n l s) : Parted n (superviseNode n s) := by
  have hentry : s.entry n = l.bytes := State.entry_of_line h.line
  exact superviseNode_parted (hentry ▸ h.whole) ⟨hentry ▸ h.active, hentry ▸ h.late⟩

theorem Lapsed.superviseNode_ne {n k : Nat} {l : CacheLine} {s : State} (h : Lapsed n l s) (hk : n ≠ k) : Lapsed n l (superviseNode k s) :=
  { h with
    line := (superviseNode_line_ne s hk).trans h.line
    late := by
      rw [superviseNode_clk]
      exact h.late }

/-- The check reaches every node of its list, whatever it does with the others. -/
theorem Lapsed.supervised {n : Nat} {l : CacheLine} {ns : List Nat} {s : State} (h : Lapsed n l s) (hn : n ∈ ns) :
    Parted n (ns.foldl (fun s n => superviseNode n s) s) := by
  induction ns generalizing s with
  | nil => exact absurd hn List.not_mem_nil
  | cons k ns ih =>
    by_cases hk : n = k
    · subst hk
      exact keeps_foldl (K := Parted n) (l := ns) h.superviseNode_self fun m _ _ ht => ht.superviseNode m
    · exact ih (h.superviseNode_ne hk) ((List.mem_cons.1 hn).resolve_left hk)

theorem supervisionCheck_ends {dt : Nat} {s : State} (hrun : s.clk.running = true) : Completes (.supervisionCheck dt) s fun t =>
    ∀ n ∈ s.cat.valid, Cached n s → 2 ≤ entAssoc (s.entry n) → entNat (s.entry n) 36 4 < (s.elapse dt).clk.slot / sec → entAssoc (t.entry n) = asNone := by
  refine ⟨_, if_neg (elapse_runs hrun), fun n hn hcached hactive hlate => ?_⟩
  obtain ⟨l, hl, hlen⟩ := Option.any_eq_true .. |>.1 hcached
  rw [State.entry_of_line hl] at hactive hlate
  have hlapsed : Lapsed n l (s.elapse dt) := ⟨hl, beq_iff_eq.1 hlen, hactive, hlate⟩
  exact (hlapsed.supervised hn).entAssoc

end Sys2Proof.Machine

/-! SUPPORT. Responses and their attempts, and the slotframe start of an update (R223, R225, R227). -/

namespace Sys2Proof.Machine

/-! An attempt of a response (R223). -/

/-- The responses with the attempts of one node's counted as `k`. -/
def attempted (nix k : Nat) (rs : List Response) : List Response := rs.map fun q => if q.nix == nix then { q with tries := k } else q

theorem attempted_find {nix k : Nat} {r : Response} {rs : List Response} (h : rs.find? (fun r => r.nix == nix) = some r) :
    ((attempted nix k rs).find? fun r => r.nix == nix).map (·.tries) = some k := by
  have hsame : (fun r : Response => r.nix == nix) ∘ (fun q => if q.nix == nix then { q with tries := k } else q) = fun r => r.nix == nix := by
    funext q
    simp only [Function.comp_apply]
    split <;> rfl
  have hnix : (r.nix == nix) = true := List.find?_some (p := fun r : Response => r.nix == nix) h
  rw [attempted, List.find?_map, hsame, h, Option.map_some, Option.map_some, if_pos hnix]

/-- A frame that is neither built nor on the way starts its attempt with a TXL job. -/
theorem responseAttempt_builds {r : Response} {k : Nat} {d : Dl} {s : State} (hd : s.dl r.dl = some d) (hpsdu : d.psdu = none) (hbuilding : d.building = false) :
    (responseAttempt r k s).slt.responses = attempted r.nix k s.slt.responses ∧
      (responseAttempt r k s).dl r.dl = some { d with attempt := some (r.channel, none), building := true } := by
  unfold responseAttempt
  extract_lets s1
  have hd1 : s1.dl r.dl = some d := hd
  rw [hd1]
  dsimp only
  rw [hpsdu]
  dsimp only
  rw [if_neg (by rw [hbuilding]; decide), createJob_slt, State.dl, createJob_xch]
  exact ⟨rfl, Sparse.get_set_self ..⟩

theorem assocResponseAttempt_starts {dt k : Nat} {nix : BitVec 17} {r : Response} {d : Dl} {s : State} (hrun : s.clk.running = true)
    (hr : s.slt.responses.find? (fun r => r.nix == nix.toNat) = some r) (hd : s.dl r.dl = some d) (hpsdu : d.psdu = none) (hbuilding : d.building = false)
    (hmost : k ≤ maxTries r) (hnew : r.tries < k) (hstep : 0 < r.step) (hsen : s.sen = r.sen + k * r.step) : Completes (.assocResponseAttempt dt nix) s fun t =>
      (t.slt.responses.find? (fun r => r.nix == nix.toNat)).map (·.tries) = some k ∧
        (t.dl r.dl).map (fun d => (d.attempt, d.building)) = some (some (r.channel, none), true) := by
  have hnix : r.nix = nix.toNat := beq_iff_eq.1 (List.find?_some (p := fun r : Response => r.nix == nix.toNat) hr)
  have hattempt : ((s.elapse dt).sen - r.sen) / max r.step 1 = k := by
    change (s.sen - r.sen) / max r.step 1 = k
    rw [hsen, Nat.add_sub_cancel_left, Nat.max_eq_left hstep, Nat.mul_div_cancel _ hstep]
  have hr' : (s.elapse dt).slt.responses.find? (fun r => r.nix == nix.toNat) = some r := hr
  have hexec : exec (.assocResponseAttempt dt nix) s = .next (responseAttempt r k (s.elapse dt)) := by
    change execAssocResponseAttempt dt nix s = _
    unfold execAssocResponseAttempt
    dsimp only
    rw [if_neg (elapse_runs hrun), hr']
    dsimp only
    rw [hattempt]
    exact if_pos ⟨hnew, hmost, hsen⟩
  obtain ⟨hresponses, hdl⟩ := responseAttempt_builds (k := k) (s := s.elapse dt) hd hpsdu hbuilding
  refine ⟨_, hexec, ?_, ?_⟩
  · rw [hresponses, hnix]
    exact attempted_find hr
  · rw [hdl]
    rfl

/-! The end of a response without an acknowledgement (R225). -/

theorem dropResponse_cat (nix : Nat) (s : State) : (dropResponse nix s).cat = s.cat :=
  keeps_foldl (K := fun t : State => t.cat = s.cat) rfl fun _ _ _ ht => ht

/-- The failure counted and noticed. -/
def assocFailed (nix : Nat) (s : State) : State := notify N.ASSOC_FAIL scTimeout 0 nix (s.incF (F.ASC_CNT_COUNT 5))

theorem assocFailed_parts (nix : Nat) (s : State) : (assocFailed nix s).cat = s.cat ∧ (assocFailed nix s).slt = s.slt := ⟨notify_cat .., notify_slt ..⟩

theorem assocFail_ends {dt : Nat} {nix : BitVec 17} {r : Response} {s : State} (hrun : s.clk.running = true)
    (hr : s.slt.responses.find? (fun r => r.nix == nix.toNat) = some r) (hgranted : r.result = 0) (hidle : ((s.dl r.dl).all fun d => d.attempt.isNone) = true)
    (hover : r.sen + 3 * r.step < s.sen) (hcached : Cached nix.toNat s) (hpending : entAssoc (s.entry nix.toNat) = asPending) :
    Completes (.assocFail dt nix) s fun t => entAssoc (t.entry nix.toNat) = asNone ∧ (t.slt.responses.all fun r => r.nix != nix.toNat) = true := by
  have hnix : r.nix = nix.toNat := beq_iff_eq.1 (List.find?_some (p := fun r : Response => r.nix == nix.toNat) hr)
  have hr' : (s.elapse dt).slt.responses.find? (fun r => r.nix == nix.toNat) = some r := hr
  have hdropped : (dropResponse nix.toNat (s.elapse dt)).entry nix.toNat = s.entry nix.toNat := by
    obtain ⟨l, hl, -⟩ := Option.any_eq_true .. |>.1 hcached
    rw [State.entry_of_line hl]
    exact State.entry_of_line ((State.line_of_cat (dropResponse_cat ..) _).trans hl)
  have htries : maxTries r = 3 := if_neg (by omega)
  have hlate : ¬ (s.elapse dt).sen ≤ r.sen + maxTries r * r.step := by
    rw [htries]
    exact Nat.not_le.2 hover
  have hexec : exec (.assocFail dt nix) s = .next (assocFailed nix.toNat (assocNone nix.toNat scDenied (dropResponse nix.toNat (s.elapse dt)))) := by
    have hpending' : entAssoc ((dropResponse nix.toNat (s.elapse dt)).entry nix.toNat) = asPending := by
      rw [hdropped]
      exact hpending
    change execAssocFail dt nix s = _
    unfold execAssocFail
    dsimp only
    rw [if_neg (elapse_runs hrun), hr']
    dsimp only
    rw [hnix, if_neg, if_pos ⟨hgranted, hpending'⟩, assocFailed]
    refine not_or.2 ⟨?_, hlate⟩
    have hdl : (s.elapse dt).dl r.dl = s.dl r.dl := rfl
    rw [hdl]
    revert hidle
    cases s.dl r.dl <;> simp
  have hlen : ((dropResponse nix.toNat (s.elapse dt)).entry nix.toNat).length = 512 := by
    rw [hdropped]
    exact hcached.length
  refine ⟨_, hexec, ?_⟩
  generalize dropResponse nix.toNat (s.elapse dt) = u at hlen
  obtain ⟨-, -, hgone⟩ := assocNone_parts nix.toNat scDenied u
  obtain ⟨hcat, hslt⟩ := assocFailed_parts nix.toNat (assocNone nix.toNat scDenied u)
  refine ⟨((assocNone_parted scDenied hlen).of_line (State.line_of_cat hcat _)).entAssoc, ?_⟩
  rw [hslt]
  exact hgone

/-! The slotframe start of an update without an acknowledgement (R227). -/

theorem State.elapse_entry (dt n : Nat) (s : State) : (s.elapse dt).entry n = s.entry n := by
  have hbase : catBase (s.elapse dt) = catBase s := by
    unfold catBase
    rw [State.elapse_getF]
  exact State.entry_congr (by rfl) (by rfl) hbase n

theorem schedUpdInstant_uncertain {dt : Nat} {nix : BitVec 17} {u : SchedUpd} {s : State} (hrun : s.clk.running = true)
    (hu : s.slt.updates.find? (fun u => u.nix == nix.toNat) = some u) (hdue : u.instantSen ≤ s.sen) (hunacked : u.acked = false) (hcached : Cached nix.toNat s)
    (hactive : entAssoc (s.entry nix.toNat) = asActive) : Completes (.schedUpdInstant dt nix) s fun t =>
      entAssoc (t.entry nix.toNat) = asUncertain ∧ t.slt.updates = s.slt.updates := by
  have hnix : u.nix = nix.toNat := beq_iff_eq.1 (List.find?_some (p := fun u : SchedUpd => u.nix == nix.toNat) hu)
  have hu' : (s.elapse dt).slt.updates.find? (fun u => u.nix == nix.toNat) = some u := hu
  have hworks : ¬ ((s.elapse dt).sen < u.instantSen ∨ entAssoc ((s.elapse dt).entry nix.toNat) ≠ asActive) := by
    rw [State.elapse_entry]
    exact not_or.2 ⟨Nat.not_lt.2 hdue, not_not.2 hactive⟩
  have hexec : exec (.schedUpdInstant dt nix) s = .next (putEntry nix.toNat (entPutBits (s.entry nix.toNat) 32 1 0 asUncertain) (s.elapse dt)) := by
    change execSchedUpdInstant dt nix s = _
    unfold execSchedUpdInstant
    dsimp only
    rw [if_neg (elapse_runs hrun), hu']
    dsimp only
    rw [hnix, if_neg hworks, if_neg (by rw [hunacked]; decide), State.elapse_entry]
  obtain ⟨-, -, hslt⟩ := putEntry_parts nix.toNat (entPutBits (s.entry nix.toNat) 32 1 0 asUncertain) (s.elapse dt)
  refine ⟨_, hexec, putEntry_assoc _ hcached.length (by decide), ?_⟩
  rw [hslt]
  rfl

end Sys2Proof.Machine

/-! SUPPORT. Schedule updates and leaves as the owner asks for them, and an update that starts (R214, R227, R228, R290). -/

namespace Sys2Proof.Machine

theorem OnlyRegs.syncUpd (s : State) : OnlyRegs [0xC800C] s (syncUpd s) := OnlyRegs.setF s F.ASC_UPD_STATUS_QUEUED _

/-! The owner's requests (R227, R228). -/

section
variable {dt : Nat} {m : Master} {w : Word} {s : State} (hcore : s.clk.core = true) (hmode : s.mode = stAutonomous) (howns : s.owns m = true) (hgo : bitsOf w 31 31 = 1)
include hcore hmode howns hgo

theorem ascUpdGo_queues (hroom : s.slt.updQueue.length < 256) : Completes (.ascUpdGo dt m w) s fun t =>
    t.slt.updQueue = s.slt.updQueue ++ [(bitsOf w 16 0, s.getF F.ASC_UPD_ADDR_ADDR)] ∧ t.getF F.ASC_UPD_STATUS_QUEUED = t.slt.updQueue.length ∧
      OnlyRegs [0xC800C] s t ∧ t.dram = s.dram ∧ t.tabs = s.tabs := by
  have hwrite : writeUpdCtrl m w (s.elapse dt) =
      syncUpd ((s.elapse dt).updSlt fun x => { x with updQueue := x.updQueue ++ [(bitsOf w 16 0, s.getF F.ASC_UPD_ADDR_ADDR)] }) :=
    (if_neg (elapse_owned howns)).trans ((if_neg (by omega)).trans (if_neg (Nat.not_le.2 hroom)))
  have hlen : (s.slt.updQueue ++ [(bitsOf w 16 0, s.getF F.ASC_UPD_ADDR_ADDR)]).length < 512 := by
    rw [List.length_append, List.length_singleton]
    omega
  have hshown := State.getF_setF_of_lt ((s.elapse dt).updSlt fun x => { x with updQueue := x.updQueue ++ [(bitsOf w 16 0, s.getF F.ASC_UPD_ADDR_ADDR)] })
    (f := F.ASC_UPD_STATUS_QUEUED) (by decide) (by decide) hlen
  exact ⟨_, congrArg Host.Outcome.next ((gatedWrite_runs hcore hmode).trans hwrite), rfl, hshown, OnlyRegs.syncUpd ((s.elapse dt).updSlt _), rfl, rfl⟩

theorem ascLeave_sends : Completes (.ascLeave dt m w) s fun t =>
    (t.dl s.xch.nextDl).map (fun d => (d.nix, d.payload, d.attempts)) = some (bitsOf w 16 0, [0x23, 1], 0) ∧
      (t.shp.entering.getLast?).map (·.load) = some (.downlink s.xch.nextDl) ∧ OnlyRegs [] s t ∧ t.dram = s.dram ∧ t.tabs = s.tabs := by
  have hwrite : writeLeave m w (s.elapse dt) = sendNode (bitsOf w 16 0) 5 .leave [0x23, 1] false (s.elapse dt) := (if_neg (elapse_owned howns)).trans (if_pos hgo)
  refine ⟨_, congrArg Host.Outcome.next ((gatedWrite_runs hcore hmode).trans hwrite), ?_, ?_, OnlyRegs.of_regs [] rfl, rfl, rfl⟩
  · exact congrArg (Option.map _) (Sparse.get_set_self ..)
  · exact congrArg (Option.map _) List.getLast?_concat

end

/-! The oldest queued update is taken (R227). -/

/-- The state with the rest of the queue, as the update starts. -/
def updTaken (dt : Nat) (r : List (Nat × Nat)) (s : State) : State := syncUpd ((s.elapse dt).updSlt fun x => { x with updQueue := r })

theorem updTaken_only (dt : Nat) (r : List (Nat × Nat)) (s : State) : OnlyRegs [0xC800C] s (updTaken dt r s) := OnlyRegs.syncUpd ((s.elapse dt).updSlt _)

theorem updTaken_entry (dt : Nat) (r : List (Nat × Nat)) (s : State) (n : Nat) : (updTaken dt r s).entry n = s.entry n := by
  have hbase : catBase (updTaken dt r s) = catBase s := by
    unfold catBase
    rw [(updTaken_only dt r s).getF (by decide)]
  exact State.entry_congr (by rfl) (by rfl) hbase n

theorem exec_schedUpdStart {dt nix addr : Nat} {r : List (Nat × Nat)} {s : State} (hrun : s.clk.running = true) (hqueue : s.slt.updQueue = (nix, addr) :: r) :
    exec (.schedUpdStart dt) s = .next (startUpdate nix addr (updTaken dt r s)) := by
  have hqueue' : (s.elapse dt).slt.updQueue = (nix, addr) :: r := hqueue
  change execSchedUpdStart dt s = _
  unfold execSchedUpdStart
  dsimp only
  rw [if_neg (elapse_runs hrun), hqueue']
  rfl

/-- An update of a node that is not ACTIVE ends DENIED. -/
theorem schedUpdStart_refused {dt nix addr : Nat} {r : List (Nat × Nat)} {s : State} (hrun : s.clk.running = true) (hqueue : s.slt.updQueue = (nix, addr) :: r)
    (hinactive : entValid (s.entry nix) = false ∨ entAssoc (s.entry nix) ≠ asActive) : Completes (.schedUpdStart dt) s fun t =>
      t.slt.updQueue = r ∧ t.slt.updates = s.slt.updates ∧ t.getF (F.ASC_CNT_COUNT 8) = (s.getF (F.ASC_CNT_COUNT 8) + 1) % 2 ^ 32 ∧
        OnlyRegs ([0xC800C, (F.ASC_CNT_COUNT 8).addr] ++ noticeRegs) s t ∧ OnlyRing s t ∧ t.tabs = s.tabs := by
  have hrefused : startUpdate nix addr (updTaken dt r s) = updRefused nix (updTaken dt r s) := by
    unfold startUpdate
    dsimp only
    rw [updTaken_entry]
    refine if_pos ?_
    rcases hinactive with hinvalid | hstate
    · exact .inl (by rw [hinvalid]; rfl)
    · exact .inr (.inl hstate)
  have honly : OnlyRegs [0xC800C, (F.ASC_CNT_COUNT 8).addr] s ((updTaken dt r s).incF (F.ASC_CNT_COUNT 8)) :=
    (updTaken_only dt r s).trans (OnlyRegs.setF _ (F.ASC_CNT_COUNT 8) _)
  refine ⟨_, (exec_schedUpdStart hrun hqueue).trans (congrArg Host.Outcome.next hrefused), ?_, ?_, ?_, noticed_frame honly (by decide) rfl rfl _ _ _ _⟩
  · exact (congrArg Slots.updQueue (notify_slt ..)).trans rfl
  · exact (congrArg Slots.updates (notify_slt ..)).trans rfl
  · refine (notify_getF (by decide)).trans ((State.getF_incF_counter ..).trans ?_)
    rw [(updTaken_only dt r s).getF (by decide)]

/-! An update from a template (R214, R227). -/

theorem State.tab_of_tabs {s t : State} (h : t.tabs = s.tabs) (w off : Nat) : t.tab w off = s.tab w off := by
  rw [State.tab, State.tab, h]

theorem templBlock_of_tabs {s t : State} (h : t.tabs = s.tabs) (p nix : Nat) (relay : Bool) : templBlock p nix relay t = templBlock p nix relay s := by
  simp only [templBlock, templEntry, sfLen, State.tab_of_tabs h]

theorem updContent_template {nix : Nat} {b : List Byte} {s : State} (hb : templBlock (entProfile (s.entry nix)) nix (entBits (s.entry nix) 10 4 4 == 1) s = some b) :
    updContent nix 0 s = (some (0, List.replicate 16 0, b), s) := by
  refine (if_pos rfl).trans ?_
  dsimp only
  rw [hb]
  rfl

theorem startUpdate_template {nix : Nat} {b : List Byte} {s : State} (hvalid : entValid (s.entry nix) = true) (hactive : entAssoc (s.entry nix) = asActive)
    (hfree : (s.slt.updates.any fun u => u.nix == nix) = false)
    (hb : templBlock (entProfile (s.entry nix)) nix (entBits (s.entry nix) 10 4 4 == 1) s = some b) :
    ∃ payload : List Byte, payload.head? = some 0x22 ∧ startUpdate nix 0 s = sendNode nix 5 .schedUpd payload false (s.updSlt fun x => { x with
      updates := x.updates ++ [⟨nix, entPutBits b 0 7 4 (blkSgen (entSched (s.entry nix)) + 1), 0, List.replicate 16 0, instantSen (s.entry nix) s, false⟩] }) := by
  have hstarts : ¬ ((!entValid (s.entry nix)) = true ∨ entAssoc (s.entry nix) ≠ asActive ∨ (s.slt.updates.any fun u => u.nix == nix) = true) := by
    simp [hvalid, hactive, hfree]
  unfold startUpdate
  dsimp only
  rw [if_neg hstarts, updContent_template hb]
  exact ⟨_, rfl, rfl⟩

theorem schedUpdStart_template {dt nix : Nat} {r : List (Nat × Nat)} {b : List Byte} {s : State} (hrun : s.clk.running = true)
    (hqueue : s.slt.updQueue = (nix, 0) :: r) (hvalid : entValid (s.entry nix) = true) (hactive : entAssoc (s.entry nix) = asActive)
    (hfree : (s.slt.updates.any fun u => u.nix == nix) = false)
    (hb : templBlock (entProfile (s.entry nix)) nix (entBits (s.entry nix) 10 4 4 == 1) s = some b) : Completes (.schedUpdStart dt) s fun t =>
      t.slt.updQueue = r ∧ t.slt.updates.map (fun u => (u.nix, u.block, u.instantSen, u.acked)) = s.slt.updates.map (fun u => (u.nix, u.block, u.instantSen, u.acked)) ++
        [(nix, entPutBits b 0 7 4 (blkSgen (entSched (s.entry nix)) + 1), instantSen (s.entry nix) s, false)] ∧
      (t.dl s.xch.nextDl).map (fun d => (d.nix, d.payload.head?)) = some (nix, some 0x22) ∧ OnlyRegs [0xC800C] s t ∧ t.dram = s.dram ∧ t.tabs = s.tabs := by
  have hentry := updTaken_entry dt r s nix
  have honly := updTaken_only dt r s
  have htempl : templBlock (entProfile (s.entry nix)) nix (entBits (s.entry nix) 10 4 4 == 1) (updTaken dt r s) = some b := (templBlock_of_tabs rfl ..).trans hb
  have hinstant : instantSen (s.entry nix) (updTaken dt r s) = instantSen (s.entry nix) s := by
    have hsen : (updTaken dt r s).sen = s.sen := honly.get64 (by decide) (by decide)
    unfold instantSen
    rw [hsen, honly.getF (by decide)]
  obtain ⟨payload, hhead, hstart⟩ := startUpdate_template (s := updTaken dt r s) (hentry.symm ▸ hvalid) (hentry.symm ▸ hactive) hfree (hentry.symm ▸ htempl)
  rw [hentry, hinstant] at hstart
  refine ⟨_, (exec_schedUpdStart hrun hqueue).trans (congrArg Host.Outcome.next hstart), rfl, List.map_append, ?_, ?_, rfl, rfl⟩
  · refine (congrArg (Option.map _) (Sparse.get_set_self ..)).trans ?_
    exact congrArg (fun x => some (nix, x)) hhead
  · exact honly.trans (OnlyRegs.of_regs [] rfl)

/-- Settles O42: responses, updates and leaves change what their words say, and what ends an association leaves the other nodes' entries for the check to reach. -/
theorem associations : Obligations.Associations := by
  intro dt s hrun cached
  refine ⟨fun nix => ⟨fun r hr => ⟨?attempt, ?fail⟩, ?instant⟩, supervisionCheck_ends hrun, ?owner, ?start⟩
  case attempt =>
    intro d k hd hpsdu hbuilding _ hmost hnew hstep hsen
    exact assocResponseAttempt_starts hrun hr hd hpsdu hbuilding hmost hnew hstep hsen
  case fail => exact assocFail_ends hrun hr
  case instant => exact fun u => schedUpdInstant_uncertain hrun
  case owner =>
    intro m w hcore hmode howns hgo
    exact ⟨ascUpdGo_queues hcore hmode howns hgo, ascLeave_sends hcore hmode howns hgo⟩
  case start =>
    intro nix addr r hqueue
    refine ⟨schedUpdStart_refused hrun hqueue, ?_⟩
    rintro rfl hvalid hactive hfree b hb
    exact schedUpdStart_template hrun hqueue hvalid hactive hfree hb

end Sys2Proof.Machine

/-! SUPPORT. A catalogue READ whose copy is overwritten by a notice, and a host's write of a TX ring that leaves a trace record in DRAM. -/

namespace Sys2Proof.Machine

/-! Catalogue commands (R275), where the journal is full (R475, R476). -/

/-- The next entry of a command whose job runs is processed once nothing pins it (R275). -/
theorem exec_catCmdEntry_unpinned {dt i : Nat} {c : CatCmd} {j : Job} {s : State} (hrun : s.clk.running = true) (hcmd : s.cat.cmd = some c)
    (hjob : catJob s = some (i, j)) (hstate : j.state = jsRunning) (hpins : entPins (c.nix + c.done) s = 0) :
    exec (.catCmdEntry dt) s = .next (catStep c (s.elapse dt)) := by
  have hgo : ¬ (!(s.elapse dt).clk.running) = true := by simp [hrun]
  have hcmd' : (s.elapse dt).cat.cmd = some c := hcmd
  have hjob' : catJob (s.elapse dt) = some (i, j) := hjob
  refine (if_neg hgo).trans ?_
  rw [hcmd', hjob']
  exact if_pos ⟨hstate, hpins⟩

/-- A READ of two entries to 448 bytes before KEY_BLOB_BASE, so that the copy of the first reaches into the first blob. -/
def readAcrossBlob : CatCmd := ⟨2, 0, 0, 2, 0, 0x08FFFE40⟩

/-- The lead of a pair with the lane UP and a valid journal that has no room before its rewind mark, while the job of the READ runs. The first entry is cached and all zeros,
and the notice ring, of one record, lies where its copy goes. -/
def noticeAtEntry : State :=
  { State.reset with
    regs := [(0x4, 1#32), (0x40, 0x08FFFE40#32), (0x44, 0x80000000#32), (0x160004, 0xA1000000#32), (0x160028, 0x01000000#32)]
    clk := { State.reset.clk with core := true, running := true }
    fuses := { State.reset.fuses with pairRoot := true }
    fab := { State.reset.fab with jobs := [(0, some { newJob ecMNT 0 0 0 0 [] .catCmd with state := jsRunning })] }
    cat := { State.reset.cat with cache := [(0, some ⟨List.replicate 512 0, none, 0⟩)], cmd := some readAcrossBlob } }

set_option maxRecDepth 20000 in
theorem noticeAtEntry_meets :
    catJob noticeAtEntry = some (0, { newJob ecMNT 0 0 0 0 [] .catCmd with state := jsRunning }) ∧ entPins 0 noticeAtEntry = 0 ∧
      (noticeAtEntry.line 0).any (fun l => l.bytes.length == 512) = true ∧ (noticeAtEntry.entry 0).getD 0 0 = 0 := by decide

set_option maxRecDepth 20000 in
/-- The BLOB record that the copy owes finds no room in the journal (R475), and JOURNAL_INVALID, EVENT 0x09, is written over the first byte of the copy. -/
theorem noticeAtEntry_catStep : (catStep readAcrossBlob (noticeAtEntry.elapse 0)).byte 0x08FFFE40 = 0x09#8 := by decide

/-- Refutes O45: a READ whose copy reaches into the blob area writes the journal, which may become invalid (R476), and the notice of that may lie on the bytes copied.
The statement speaks of every state, this one too. -/
theorem not_catalogueCommands : ¬ Obligations.CatalogueCommands := by
  intro h
  obtain ⟨-, hentry, -⟩ := h 0 noticeAtEntry
  obtain ⟨hjob, hpins, hline, hempty⟩ := noticeAtEntry_meets
  obtain ⟨hread, -⟩ := hentry rfl readAcrossBlob rfl 0 _ hjob rfl hline hpins
  obtain ⟨hbytes, -⟩ := (hread rfl (by decide) (by decide)).of_exec (exec_catCmdEntry_unpinned rfl rfl hjob rfl hpins)
  have hfirst := noticeAtEntry_catStep.symm.trans ((hbytes 0 (by decide)).trans hempty)
  exact absurd hfirst (by decide)

/-! The host's TX rings (R451), where jobs are traced (R326). -/

theorem exec_hostTxWrWrite {dt : Nat} {m : Master} {ring : Fin 16} {w : Word} {s : State} (hcore : s.clk.core = true) (hmode : s.mode = stAutonomous) :
    exec (.hostTxWrWrite dt m ring w) s = .next (writeHtxWr m ring w (s.elapse dt)) :=
  congrArg Host.Outcome.next (gatedWrite_runs hcore hmode)

/-- AUTONOMOUS, TX ring 0 of one slot enabled and empty, and a trace ring of one record enabled for class HDM. -/
def fetchTraced : State :=
  { State.reset with
    regs := [(0x4, 1#32), (0x108004, 0x80000100#32), (0x150500, 0x80000000#32)]
    clk := { State.reset.clk with core := true, running := true } }

theorem fetchTraced_room : fetchTraced.mode = stAutonomous ∧
    ((1#32).toNat + 2 ^ 32 - fetchTraced.getF (F.BHL_HTX_RD_VALUE 0)) % 2 ^ 32 ≤ txSize 0 fetchTraced := by decide

set_option maxRecDepth 20000 in
/-- The write of WR starts a fetch, and the trace record of its job's creation goes to the ring in device DRAM (R326, R329). -/
theorem fetchTraced_dram : (writeHtxWr .host 0 1#32 (fetchTraced.elapse 0)).dram ≠ fetchTraced.dram := by decide

/-- Refutes O56: a write of WR that starts a fetch creates a job, whose trace record goes to device DRAM where the trace ring takes its class.
The statement, by which DRAM stays as it was, speaks of every state, this one too. -/
theorem not_hostRingsAndBar2 : ¬ Obligations.HostRingsAndBar2 := by
  intro h
  obtain ⟨hmode, hroom⟩ := fetchTraced_room
  obtain ⟨hcounts, -⟩ := h 0 fetchTraced rfl rfl hmode
  obtain ⟨hwrite, -⟩ := hcounts 0 1#32
  obtain ⟨-, hdram, -⟩ := (hwrite hroom).of_exec (exec_hostTxWrWrite rfl hmode)
  exact fetchTraced_dram hdram

end Sys2Proof.Machine

/-! SUPPORT. The shaper's state: what an update of it leaves, and a queue found after it is put back (R289, R292, R294). -/

namespace Sys2Proof.Machine

@[simp] theorem State.reg_updShp (s : State) (f : Shaper → Shaper) (a : Nat) : (s.updShp f).reg a = s.reg a := State.reg_of_regs (State.updShp_regs ..) a
@[simp] theorem State.getF_updShp (s : State) (f : Shaper → Shaper) (g : Field) : (s.updShp f).getF g = s.getF g := State.getF_of_regs (State.updShp_regs ..) g

theorem OnlyRegs.updShp (s : State) (f : Shaper → Shaper) : OnlyRegs [] s (s.updShp f) := OnlyRegs.of_regs [] rfl
theorem OnlyRegs.incF (s : State) (f : Field) : OnlyRegs [f.addr] s (s.incF f) := OnlyRegs.setF s f _
theorem OnlyRegs.putQueue (q : Queue) (s : State) : OnlyRegs [0xF0080] s (putQueue q s) := (OnlyRegs.updShp s _).trans (OnlyRegs.setF _ F.SHP_STATUS_QUEUES _)

/-- A counter of the shaper one further (R18). -/
theorem shpCount_incF (k : Nat) (s : State) : (s.incF (F.SHP_CNT_COUNT k)).getF (F.SHP_CNT_COUNT k) = (s.getF (F.SHP_CNT_COUNT k) + 1) % 2 ^ 32 :=
  State.getF_setF s _ (Nat.zero_le 31) (show 31 < 32 by decide)

theorem shpCount_putQueue (k : Nat) (q : Queue) (s : State) : (putQueue q s).getF (F.SHP_CNT_COUNT k) = s.getF (F.SHP_CNT_COUNT k) :=
  (OnlyRegs.putQueue q s).getF (by simp only [List.mem_singleton]; omega)

/-- The queues but those of the port, class and subscriber of `q`. -/
def otherQueues (q : Queue) (s : State) : List Queue := s.shp.queues.filter fun r => !(r.port == q.port && r.cls == q.cls && r.sub == q.sub)

theorem otherQueues_find (q : Queue) (s : State) : (otherQueues q s).find? (fun r => r.port == q.port && r.cls == q.cls && r.sub == q.sub) = none :=
  List.find?_eq_none.2 fun r hr => by simpa only [Bool.not_eq_true', Bool.not_eq_true] using (List.mem_filter.1 hr).2

theorem putQueue_queues (q : Queue) (s : State) : (putQueue q s).shp.queues = if q.frames.isEmpty then otherQueues q s else otherQueues q s ++ [q] := rfl

/-- A queue that is put back is found as it was put, unless it is empty (R289). -/
theorem findQueue_putQueue (q : Queue) (s : State) : findQueue q.port q.cls q.sub (putQueue q s) = if q.frames.isEmpty then none else some q := by
  rw [findQueue, putQueue_queues]
  split
  · exact otherQueues_find q s
  · rw [List.find?_append, otherQueues_find]
    simp

/-- A queue that is found is the queue sought. -/
theorem findQueue_key {p c sub : Nat} {s : State} {q : Queue} (h : findQueue p c sub s = some q) : q.port = p ∧ q.cls = c ∧ q.sub = sub := by
  have hq := List.find?_some h
  simpa [and_assoc] using hq

theorem classQueues_key {p c : Nat} {s : State} {q : Queue} (h : q ∈ classQueues p c s) : q.port = p ∧ q.cls = c := by
  simpa using (List.mem_filter.1 h).2

/-- R294 chooses among the queues of the class. -/
theorem mem_of_chooseQueue {p c : Nat} {s : State} {q : Queue} (h : chooseQueue p c s = some q) : q ∈ classQueues p c s := by
  have hmem : ∀ v ∈ chooseQueue p c s, v ∈ classQueues p c s := by
    unfold chooseQueue
    refine List.foldlRecOn (motive := fun o => ∀ v ∈ o, v ∈ classQueues p c s) _ _ (by rintro v ⟨⟩) fun b hb y hy => ?_
    cases b with
    | none =>
      rintro v ⟨⟩
      exact hy
    | some w =>
      dsimp only
      split
      · rintro v ⟨⟩
        exact hy
      · exact hb
  exact hmem q h

/-! Entry (R292, R295). -/

section
variable (f : SFrame) (s : State)

/-- The state in which an entering frame's queue is put back: the frame counted, its class awake, and a queue that is new counted (R289, R295). -/
def queueWoken : State :=
  let counted := s.incF (F.SHP_CNT_COUNT 0)
  let awake := if classFrames f.port f.cls counted = 0 then setClassTag f.port f.cls (portV f.port counted) counted else counted
  if (findQueue f.port f.cls f.sub awake).isSome then awake else awake.incF (F.SHP_CNT_COUNT 8)

theorem queueWoken_frame : OnlyRegs [(F.SHP_CNT_COUNT 0).addr, (F.SHP_CNT_COUNT 8).addr] s (queueWoken f s) ∧
    (queueWoken f s).getF (F.SHP_CNT_COUNT 0) = (s.getF (F.SHP_CNT_COUNT 0) + 1) % 2 ^ 32 ∧ (queueWoken f s).shp.entering = s.shp.entering ∧
    (queueWoken f s).dram = s.dram ∧ (queueWoken f s).tabs = s.tabs ∧ (queueWoken f s).clk = s.clk := by
  unfold queueWoken
  extract_lets counted awake
  have hawake : OnlyRegs [] counted awake ∧ awake.shp.entering = s.shp.entering ∧ awake.dram = s.dram ∧ awake.tabs = s.tabs ∧ awake.clk = s.clk := by
    dsimp only [awake]
    split
    · exact ⟨OnlyRegs.updShp counted _, rfl, rfl, rfl, rfl⟩
    · exact ⟨OnlyRegs.of_regs [] rfl, rfl, rfl, rfl, rfl⟩
  obtain ⟨hregs, hentering, hdram, htabs, hclk⟩ := hawake
  have honly := (OnlyRegs.incF s (F.SHP_CNT_COUNT 0)).trans hregs
  have hcount : awake.getF (F.SHP_CNT_COUNT 0) = (s.getF (F.SHP_CNT_COUNT 0) + 1) % 2 ^ 32 := (hregs.getF (by decide)).trans (shpCount_incF 0 s)
  split
  · exact ⟨honly.mono (by decide), hcount, hentering, hdram, htabs, hclk⟩
  · exact ⟨(honly.trans (OnlyRegs.incF awake (F.SHP_CNT_COUNT 8))).mono (by decide), (State.getF_setF_ne awake _ (by decide)).trans hcount, hentering, hdram, htabs, hclk⟩

/-- The queue of an entering frame with the frame at its tail. -/
theorem enterQueue_eq : ∃ q : Queue, enterQueue f s = putQueue q (queueWoken f s) ∧ q.port = f.port ∧ q.cls = f.cls ∧ q.sub = f.sub ∧
    q.frames = ((findQueue f.port f.cls f.sub s).map (·.frames)).getD [] ++ [{ f with arrived := s.clk.slot }] := by
  unfold enterQueue queueWoken
  extract_lets counted arriving awake
  have hfind : findQueue f.port f.cls f.sub awake = findQueue f.port f.cls f.sub s := by
    dsimp only [awake]
    split <;> rfl
  rw [hfind]
  cases hq : findQueue f.port f.cls f.sub s with
  | none => exact ⟨_, rfl, rfl, rfl, rfl, rfl⟩
  | some q =>
    obtain ⟨hport, hcls, hsub⟩ := findQueue_key hq
    exact ⟨_, rfl, hport, hcls, hsub, rfl⟩

/-- An entering frame stands at the tail of its queue. -/
theorem enterQueue_tail : (findQueue f.port f.cls f.sub (enterQueue f s)).map (·.frames) =
    some (((findQueue f.port f.cls f.sub s).map (·.frames)).getD [] ++ [{ f with arrived := s.clk.slot }]) := by
  obtain ⟨q, hput, hport, hcls, hsub, hframes⟩ := enterQueue_eq f s
  have hfilled : ¬ q.frames.isEmpty = true := by simp [hframes]
  rw [hput, ← hport, ← hcls, ← hsub, findQueue_putQueue, if_neg hfilled, hport, hcls, hsub, ← hframes]
  rfl

theorem enterQueue_frame : OnlyRegs [0xF0080, (F.SHP_CNT_COUNT 0).addr, (F.SHP_CNT_COUNT 8).addr] s (enterQueue f s) ∧
    (enterQueue f s).getF (F.SHP_CNT_COUNT 0) = (s.getF (F.SHP_CNT_COUNT 0) + 1) % 2 ^ 32 ∧ (enterQueue f s).shp.entering = s.shp.entering ∧
    (enterQueue f s).dram = s.dram ∧ (enterQueue f s).tabs = s.tabs ∧ (enterQueue f s).clk = s.clk := by
  obtain ⟨q, hput, -⟩ := enterQueue_eq f s
  obtain ⟨hregs, hcount, hparts⟩ := queueWoken_frame f s
  rw [hput]
  exact ⟨(hregs.trans (OnlyRegs.putQueue q _)).mono (by decide), (shpCount_putQueue 0 q _).trans hcount, hparts⟩

/-- The frame that is to enter leaves the list of those on their way. -/
def departed : State := s.updShp fun x => { x with entering := x.entering.erase f }

section
variable {t : State} (hregs : t.regs = s.regs) (htabs : t.tabs = s.tabs) (hdram : t.dram = s.dram) (hcat : t.cat = s.cat) (hxch : t.xch = s.xch)
include hregs hdram hcat hxch

theorem nodeClosed_congr (nix : Nat) : nodeClosed nix t = nodeClosed nix s := by
  have hbase : catBase t = catBase s := by
    unfold catBase
    rw [State.getF_of_regs hregs]
  unfold nodeClosed countersEnded
  rw [State.entry_congr hcat hdram hbase, hxch]

include htabs in
/-- A refusal looks at the node, the class's parameters and the queues. -/
theorem entryRefusal_congr (hqueues : t.shp.queues = s.shp.queues) : entryRefusal f t = entryRefusal f s := by
  have hlimit : clsLimit f.port f.cls t = clsLimit f.port f.cls s := by
    unfold clsLimit clsWord
    rw [State.tab_of_tabs htabs]
  have hfind : findQueue f.port f.cls f.sub t = findQueue f.port f.cls f.sub s := congrArg (List.find? _) hqueues
  have hframes : classFrames f.port f.cls t = classFrames f.port f.cls s := by
    unfold classFrames classQueues
    rw [hqueues]
  unfold entryRefusal
  rw [nodeClosed_congr s hregs hdram hcat hxch, hlimit, hframes, hfind, hqueues]

end

theorem entryRefusal_departed : entryRefusal f (departed f s) = entryRefusal f s := entryRefusal_congr f s rfl rfl rfl rfl rfl rfl

theorem entryRefusal_elapse (dt : Nat) : entryRefusal f (s.elapse dt) = entryRefusal f s := entryRefusal_congr f s rfl rfl rfl rfl rfl rfl

theorem enterFrame_of_none (h : entryRefusal f s = none) : enterFrame f s = enterQueue f (departed f s) := by
  unfold enterFrame
  extract_lets u
  have hu : entryRefusal f u = none := (entryRefusal_departed f s).trans h
  rw [hu]
  rfl

theorem enterFrame_of_some {order st : Nat} (h : entryRefusal f s = some (order, st)) :
    enterFrame f s = endEntry f st (refuseEntry f order (departed f s)) := by
  unfold enterFrame
  extract_lets u
  have hu : entryRefusal f u = some (order, st) := (entryRefusal_departed f s).trans h
  rw [hu]
  rfl

end

/-- The notice of a limit leaves the queues and the frames on their way (R292). -/
theorem noteLimit_frame (k : NoticeKind) (p c : Nat) (s : State) : OnlyRegs noticeRegs s (noteLimit k p c s) ∧ OnlyRing s (noteLimit k p c s) ∧
    (noteLimit k p c s).shp.queues = s.shp.queues ∧ (noteLimit k p c s).shp.entering = s.shp.entering := by
  unfold noteLimit
  extract_lets t
  split
  · exact ⟨OnlyRegs.of_regs _ rfl, fun _ _ => rfl, rfl, rfl⟩
  · refine ⟨(OnlyRegs.updShp s _).trans (OnlyRegs.notify _ _ _ _ _), OnlyRing.notify_of_dram (State.updShp_dram ..) (State.reg_updShp ..) (State.reg_updShp ..) _ _ _ _, ?_⟩
    rw [notify_shp]
    exact ⟨rfl, rfl⟩

/-- A frame refused for DROPS leaves every queue's frames. -/
theorem noteDrop_frames (f : SFrame) (s : State) : (noteDrop f s).shp.queues.map (·.frames) = s.shp.queues.map (·.frames) := by
  refine List.map_map.trans (List.map_congr_left fun q _ => ?_)
  dsimp only [Function.comp_apply]
  split <;> rfl

/-- A refusal under order 2 (R292). -/
theorem refuseEntry_limit (f : SFrame) (s : State) : let t := refuseEntry f 2 s
    t.getF (F.SHP_CNT_COUNT 4) = (s.getF (F.SHP_CNT_COUNT 4) + 1) % 2 ^ 32 ∧ t.shp.entering = s.shp.entering ∧
      t.shp.queues.map (·.frames) = s.shp.queues.map (·.frames) ∧ OnlyRegs ((F.SHP_CNT_COUNT 4).addr :: noticeRegs) s t ∧ OnlyRing s t := by
  obtain ⟨hregs, hring, hqueues, hentering⟩ := noteLimit_frame N.QUEUE_LIMIT f.port f.cls (noteDrop f (s.incF (F.SHP_CNT_COUNT 4)))
  have hcounted : OnlyRegs [(F.SHP_CNT_COUNT 4).addr] s (noteDrop f (s.incF (F.SHP_CNT_COUNT 4))) := (OnlyRegs.incF s _).trans (OnlyRegs.updShp _ _)
  have hcount : (noteDrop f (s.incF (F.SHP_CNT_COUNT 4))).getF (F.SHP_CNT_COUNT 4) = (s.getF (F.SHP_CNT_COUNT 4) + 1) % 2 ^ 32 :=
    (State.getF_updShp ..).trans (shpCount_incF 4 s)
  refine ⟨(hregs.getF (by decide)).trans hcount, hentering, ?_, hcounted.trans hregs, fun a ha => ?_⟩
  · exact (congrArg (List.map (·.frames)) hqueues).trans (noteDrop_frames ..)
  · exact hring a (mt (inNoticeRing_congr (hcounted 0x40 (by decide)) (hcounted 0x44 (by decide))).1 ha)

theorem exec_shaperEntry {dt : Nat} {s : State} {f : SFrame} (hrun : s.clk.running = true) (hf : s.shp.entering.find? (fun f => covered f.waitPos s) = some f) :
    exec (.shaperEntry dt) s = .next (enterFrame f (s.elapse dt)) := by
  have hf' : s.shp.entering.find? (fun f => covered f.waitPos (s.elapse dt)) = some f := hf
  change execShaperEntry dt s = _
  simp [execShaperEntry, hrun, hf']

theorem shaperEntry_enters {dt : Nat} {s : State} {f : SFrame} (hrun : s.clk.running = true) (hf : s.shp.entering.find? (fun f => covered f.waitPos s) = some f)
    (hok : entryRefusal f s = none) : Completes (.shaperEntry dt) s fun t =>
      (findQueue f.port f.cls f.sub t).map (·.frames) = some (((findQueue f.port f.cls f.sub s).map (·.frames)).getD [] ++ [{ f with arrived := t.clk.slot }]) ∧
        t.shp.entering = s.shp.entering.erase f ∧ t.getF (F.SHP_CNT_COUNT 0) = (s.getF (F.SHP_CNT_COUNT 0) + 1) % 2 ^ 32 ∧
        OnlyRegs [0xF0080, (F.SHP_CNT_COUNT 0).addr, (F.SHP_CNT_COUNT 8).addr] s t ∧ t.dram = s.dram ∧ t.tabs = s.tabs := by
  refine ⟨_, exec_shaperEntry hrun hf, ?_⟩
  rw [enterFrame_of_none f _ ((entryRefusal_elapse f s dt).trans hok)]
  obtain ⟨hregs, hcount, hentering, hdram, htabs, hclk⟩ := enterQueue_frame f (departed f (s.elapse dt))
  rw [hclk]
  exact ⟨enterQueue_tail f (departed f (s.elapse dt)), hentering, hcount, hregs, hdram, htabs⟩

theorem shaperEntry_limited {dt : Nat} {s : State} {f : SFrame} (hrun : s.clk.running = true) (hf : s.shp.entering.find? (fun f => covered f.waitPos s) = some f)
    (hfull : entryRefusal f s = some (2, scNoBuffer)) (r : Rec) (hload : f.load = .record r none) : Completes (.shaperEntry dt) s fun t =>
      t.getF (F.SHP_CNT_COUNT 4) = (s.getF (F.SHP_CNT_COUNT 4) + 1) % 2 ^ 32 ∧ t.shp.entering = s.shp.entering.erase f ∧
        t.shp.queues.map (·.frames) = s.shp.queues.map (·.frames) ∧ OnlyRegs ((F.SHP_CNT_COUNT 4).addr :: noticeRegs) s t ∧ OnlyRing s t := by
  have hend (u : State) : endEntry f scNoBuffer u = u := by
    simp only [endEntry, hload]
    rfl
  refine ⟨_, exec_shaperEntry hrun hf, ?_⟩
  rw [enterFrame_of_some f _ ((entryRefusal_elapse f s dt).trans hfull), hend]
  exact refuseEntry_limit f (departed f (s.elapse dt))

end Sys2Proof.Machine

/-! SUPPORT. What the hand-over of a dispatched frame leaves of the shaper: the job that carries it, its trace, and the tag of a record toward the host (R294, R306 to R331,
R441, R442). -/

namespace Sys2Proof.Machine

/-- The shaper's state and the registers of its block are those of `s0`. -/
structure ShaperKept (s0 s : State) : Prop where
  reg : ∀ a, 0xF0000 ≤ a → a < 0xF8000 → s.reg a = s0.reg a
  shp : s.shp = s0.shp

section
variable {s0 s t : State}

theorem ShaperKept.refl (s : State) : ShaperKept s s := ⟨fun _ _ _ => rfl, rfl⟩

theorem ShaperKept.congr (h : ShaperKept s0 s) (hp : (t.regs, t.shp) = (s.regs, s.shp)) : ShaperKept s0 t := by
  obtain ⟨hregs, hshp⟩ := Prod.mk.inj hp
  exact ⟨fun a ha hb => (State.reg_of_regs hregs a).trans (h.reg a ha hb), hshp.trans h.shp⟩

theorem ShaperKept.setReg (h : ShaperKept s0 s) {a : Nat} {w : Word} (hout : a < 0xF0000 ∨ 0xF8000 ≤ a) : ShaperKept s0 (s.setReg a w) :=
  ⟨fun b hb hb' => (State.reg_setReg_ne s w (by omega)).trans (h.reg b hb hb'), h.shp⟩

theorem ShaperKept.setF (h : ShaperKept s0 s) {a hi lo v : Nat} (hout : a < 0xF0000 ∨ 0xF8000 ≤ a) : ShaperKept s0 (s.setF ⟨a, hi, lo⟩ v) := h.setReg hout

theorem ShaperKept.incF (h : ShaperKept s0 s) {a hi lo : Nat} (hout : a < 0xF0000 ∨ 0xF8000 ≤ a) : ShaperKept s0 (s.incF ⟨a, hi, lo⟩) := h.setF hout

theorem ShaperKept.satF (h : ShaperKept s0 s) {a hi lo n : Nat} (hout : a < 0xF0000 ∨ 0xF8000 ≤ a) : ShaperKept s0 (s.satF ⟨a, hi, lo⟩ n) := h.setF hout

theorem ShaperKept.setBytes (h : ShaperKept s0 s) {a : Nat} {l : List Byte} : ShaperKept s0 (s.setBytes a l) :=
  h.congr (Prod.ext (State.regs_setBytes s a l) (congrArg State.shp (State.rest_setBytes s a l) :))

/-- Changes of registers outside the shaper's block that leave its state. -/
theorem ShaperKept.onlyRegs (h : ShaperKept s0 s) {l : List Nat} (hregs : OnlyRegs l s t) (hl : ∀ a ∈ l, a < 0xF0000 ∨ 0xF8000 ≤ a) (hshp : t.shp = s.shp) :
    ShaperKept s0 t := by
  refine ⟨fun a ha hb => (hregs a fun hmem => ?_).trans (h.reg a ha hb), hshp.trans h.shp⟩
  have hout := hl a hmem
  omega

theorem ShaperKept.notify (h : ShaperKept s0 s) {k : NoticeKind} {status port arg : Nat} : ShaperKept s0 (notify k status port arg s) :=
  h.onlyRegs (OnlyRegs.notify k status port arg s) (by decide) (notify_shp ..)

/-! The trace (R326 to R331). -/

theorem ShaperKept.tracePut (h : ShaperKept s0 s) {bs : List Byte} : ShaperKept s0 (tracePut bs s) := h.setBytes.incF (by omega)

theorem ShaperKept.traceRing (h : ShaperKept s0 s) {bs : List Byte} : ShaperKept s0 (traceRing bs s) := by
  unfold Machine.traceRing
  extract_lets owed s1 _ s2
  have hlost : ShaperKept s0 s1 := h.satF (by omega)
  have howed : ShaperKept s0 s2 := keeps_ite h.tracePut h
  exact keeps_ite (hlost.congr (by rfl)) (ShaperKept.tracePut (howed.congr (by rfl)))

theorem ShaperKept.tracePort (h : ShaperKept s0 s) {bs : List Byte} : ShaperKept s0 (tracePort bs s) := by
  unfold Machine.tracePort
  extract_lets n s1 _ s2
  have hlost : ShaperKept s0 s1 := h.satF (by omega)
  have howed : ShaperKept s0 s2 := keeps_ite (h.congr (by rfl)) h
  exact keeps_ite (hlost.congr (by rfl)) (howed.congr (by rfl))

theorem ShaperKept.trace (h : ShaperKept s0 s) {cls id prio event arg : Nat} : ShaperKept s0 (trace cls id prio event arg s) := by
  unfold Machine.trace
  extract_lets bs mark s1
  have hring : ShaperKept s0 s1 := keeps_ite h.traceRing h
  exact keeps_ite hring.tracePort hring

/-! A job created (R306 to R312). -/

theorem ShaperKept.syncReady (h : ShaperKept s0 s) {c : Nat} : ShaperKept s0 (syncReady c s) := by
  unfold Machine.syncReady
  split <;> exact h.setReg (by omega)

theorem ShaperKept.makeReady (h : ShaperKept s0 s) {i : Nat} {j : Job} : ShaperKept s0 (makeReady i j s) := by
  unfold Machine.makeReady
  extract_lets l s1
  have hlist : ShaperKept s0 s1 := h.congr (by rfl)
  exact ShaperKept.trace ((hlist.syncReady.setF (by omega)).setF (by omega))

theorem ShaperKept.createJob (h : ShaperKept s0 s) {mk : State → Job} : ShaperKept s0 (createJob mk s) := by
  unfold Machine.createJob
  extract_lets j _ s1
  split
  · exact (h.incF (by omega)).trace.makeReady
  · have hwaits : ShaperKept s0 (s1.incF (F.JOB_CNT_COUNT 10)) := ShaperKept.incF (h.congr (by rfl)) (by omega)
    exact keeps_ite hwaits (hwaits.congr (by rfl)).notify

/-! A record toward the host (R441, R442). -/

theorem ShaperKept.poolFreeOpt (h : ShaperKept s0 s) {b : Option Nat} : ShaperKept s0 (poolFree? b s) := by
  cases b with
  | none => exact h
  | some i => exact h.onlyRegs (poolFree_frame i s).1 (by decide) (congrArg State.shp (poolFree_rest i s) :)

theorem ShaperKept.tagFail (h : ShaperKept s0 s) {r : Rec} {status : Nat} : ShaperKept s0 (tagFail r status s) := by
  have hcounted : ShaperKept s0 (s.incF (F.BHL_CNT_COUNT 10)) := h.incF (by omega)
  exact keeps_ite hcounted (hcounted.congr (by rfl)).notify

theorem ShaperKept.setSlot (h : ShaperKept s0 s) {i : Nat} {k : KeySlot} : ShaperKept s0 (s.setSlot i k) := by
  unfold State.setSlot syncSlots
  exact ShaperKept.setF (ShaperKept.setF (h.congr (by rfl)) (by omega)) (by omega)

theorem ShaperKept.useKey (h : ShaperKept s0 s) {i : Nat} : ShaperKept s0 (useKey i s) := ShaperKept.setSlot (h.congr (by rfl))

theorem ShaperKept.txTag (h : ShaperKept s0 s) {host : Bool} {m : List Byte} : ShaperKept s0 (txTag host m s).2 := by
  unfold Machine.txTag recTag
  split
  · exact h
  · split
    · exact h
    · split
      · exact h
      · exact h.useKey

theorem ShaperKept.buildParts {big host : Bool} {r : Rec} {last : Nat} (n k : Nat) (h : ShaperKept s0 s) : ShaperKept s0 (buildParts big host r last n k s).2 := by
  induction n generalizing k s with
  | zero => exact h
  | succ n ih =>
    unfold Machine.buildParts
    extract_lets mb hd
    have htag : ShaperKept s0 (Machine.txTag host hd s).2 := h.txTag
    split
    next heq =>
      rw [heq] at htag
      exact htag
    next u heq =>
      rw [heq] at htag
      have hrest := ih (k + 1) (htag.congr (t := u.updBhl fun b => { b with seq := b.seq + 1 }) (by rfl))
      split
      all_goals
        next hparts =>
        rw [hparts] at hrest
        exact hrest

theorem ShaperKept.sendHost (h : ShaperKept s0 s) {r : Rec} {b : Option Nat} : ShaperKept s0 (sendHost r b s) := by
  have hbuilt : ShaperKept s0 (recBuild false true r s).2 := h.buildParts ..
  unfold Machine.sendHost
  generalize recBuild false true r s = built at hbuilt
  obtain ⟨parts, u⟩ := built
  match parts with
  | .error _ => exact hbuilt.poolFreeOpt.tagFail
  | .ok [] => exact hbuilt
  | .ok (_ :: _) => exact ShaperKept.createJob (keeps_ite hbuilt (hbuilt.incF (by omega)))

theorem ShaperKept.handOn (h : ShaperKept s0 s) {p : Nat} {f : SFrame} : ShaperKept s0 (handOn p f s) := by
  unfold Machine.handOn
  split
  · exact keeps_ite h.sendHost h.createJob
  · exact h.createJob

end

end Sys2Proof.Machine

/-! SUPPORT. Decisions of ports 16 to 18, sample sets, and the read count of the sample ring (R294, R297, R302, R303). -/

namespace Sys2Proof.Machine

/-! Decisions (R294, R297). -/

/-- The tags, queues and counts after a dispatch (R293, R294). -/
def frameCounted (p c : Nat) (q : Queue) (f : SFrame) (s : State) : State :=
  let len := f.len + s.getF (F.SHP_PORT_OVH p)
  let tagged := setClassV p c q.tag (payClass p c len s)
  let dropped := dropHead { q with tag := (q.tag + cost len (subWeight p q.sub tagged)) % 2 ^ 48 } tagged
  noteServed p c ((dropped.incF (F.SHP_CNT_COUNT 1)).incF (F.SHP_CNT_COUNT 2))

/-- The state from which a dispatched frame is handed on: its port has paid its time as well (R297). -/
def frameTaken (p c : Nat) (q : Queue) (f : SFrame) (s : State) : State := payPace p (f.len + s.getF (F.SHP_PORT_OVH p)) (frameCounted p c q f s)

theorem payPace_parts (p len : Nat) (s : State) : (payPace p len s).regs = s.regs ∧ ∃ x, (payPace p len s).shp = { s.shp with pace := x } := by
  unfold payPace
  extract_lets rate t
  split <;> exact ⟨rfl, _, rfl⟩

theorem payClass_regs (p c len : Nat) (s : State) : (payClass p c len s).regs = s.regs := by
  unfold payClass
  split <;> rfl

section
variable (p c : Nat) (q : Queue) (f : SFrame) (s : State)

theorem dispatchFrame_eq : dispatchFrame p c q f s = handOn p f (frameTaken p c q f s) := rfl

theorem frameTaken_parts : (frameTaken p c q f s).regs = (frameCounted p c q f s).regs ∧
    ∃ x, (frameTaken p c q f s).shp = { (frameCounted p c q f s).shp with pace := x } := payPace_parts ..

/-- Of the tags a dispatch changes those that R294 step 1 pays, and V of the class. -/
theorem frameTaken_tags : (frameTaken p c q f s).shp.portV = (payClass p c (f.len + s.getF (F.SHP_PORT_OVH p)) s).shp.portV ∧
    (frameTaken p c q f s).shp.classTag = (payClass p c (f.len + s.getF (F.SHP_PORT_OVH p)) s).shp.classTag ∧ classV p c (frameTaken p c q f s) = q.tag % 2 ^ 48 := by
  obtain ⟨-, x, hshp⟩ := frameTaken_parts p c q f s
  have hclassV : classV p c (frameCounted p c q f s) = q.tag % 2 ^ 48 := Sparse.get_set_self ..
  rw [classV, hshp]
  exact ⟨rfl, rfl, hclassV⟩

theorem frameTaken_count : (frameTaken p c q f s).getF (F.SHP_CNT_COUNT 1) = (s.getF (F.SHP_CNT_COUNT 1) + 1) % 2 ^ 32 := by
  rw [State.getF_of_regs (frameTaken_parts p c q f s).1]
  unfold frameCounted
  extract_lets len tagged dropped
  have hdropped : dropped.getF (F.SHP_CNT_COUNT 1) = s.getF (F.SHP_CNT_COUNT 1) := (shpCount_putQueue ..).trans (State.getF_of_regs (payClass_regs ..) _)
  calc (noteServed p c ((dropped.incF (F.SHP_CNT_COUNT 1)).incF (F.SHP_CNT_COUNT 2))).getF (F.SHP_CNT_COUNT 1)
    _ = ((dropped.incF (F.SHP_CNT_COUNT 1)).incF (F.SHP_CNT_COUNT 2)).getF (F.SHP_CNT_COUNT 1) := State.getF_updShp ..
    _ = (dropped.incF (F.SHP_CNT_COUNT 1)).getF (F.SHP_CNT_COUNT 1) := State.getF_setF_ne _ _ (by decide)
    _ = _ := by rw [shpCount_incF, hdropped]

/-- The queue has lost its head, and is gone where it held no other frame (R289). -/
theorem frameTaken_queue (hport : q.port = p) (hcls : q.cls = c) :
    (findQueue p c q.sub (frameTaken p c q f s)).map (·.frames) = if q.frames.tail = [] then none else some q.frames.tail := by
  obtain ⟨-, x, hshp⟩ := frameTaken_parts p c q f s
  have hqueues : findQueue p c q.sub (frameTaken p c q f s) = findQueue p c q.sub (frameCounted p c q f s) := by
    rw [findQueue, hshp]
    rfl
  rw [hqueues, ← hport, ← hcls]
  unfold frameCounted
  extract_lets len tagged dropped
  have hput := findQueue_putQueue { q with tag := (q.tag + cost len (subWeight q.port q.sub tagged)) % 2 ^ 48, frames := q.frames.tail, served := q.served + 1 } tagged
  refine (congrArg (Option.map (·.frames)) hput).trans ?_
  cases q.frames.tail <;> simp

/-- What a dispatch leaves in the shaper. -/
theorem dispatchFrame_takes (hport : q.port = p) (hcls : q.cls = c) : let t := dispatchFrame p c q f s
    (findQueue p c q.sub t).map (·.frames) = (if q.frames.tail = [] then none else some q.frames.tail) ∧
      t.getF (F.SHP_CNT_COUNT 1) = (s.getF (F.SHP_CNT_COUNT 1) + 1) % 2 ^ 32 ∧ classV p c t = q.tag % 2 ^ 48 ∧
      (clsStrict p c s = true → t.shp.classTag = s.shp.classTag ∧ portV p t = portV p s) ∧
      (clsStrict p c s = false → portV p t = effTag p c s % 2 ^ 48 ∧
        classTag p c t = (effTag p c s + cost (f.len + s.getF (F.SHP_PORT_OVH p)) (clsWeight p c s)) % 2 ^ 48) := by
  intro t
  have hkept : ShaperKept (frameTaken p c q f s) t := by
    rw [show t = _ from dispatchFrame_eq p c q f s]
    exact (ShaperKept.refl _).handOn
  obtain ⟨hportV, hclassTag, hclassV⟩ := frameTaken_tags p c q f s
  have hfind : findQueue p c q.sub t = findQueue p c q.sub (frameTaken p c q f s) := by rw [findQueue, hkept.shp, findQueue]
  refine ⟨?_, ?_, ?_, fun hstrict => ?_, fun hweighted => ?_⟩
  · rw [hfind]
    exact frameTaken_queue p c q f s hport hcls
  · exact (State.getF_of_reg (hkept.reg _ (by decide) (by decide))).trans (frameTaken_count p c q f s)
  · rw [classV, hkept.shp]
    exact hclassV
  · have hpaid : payClass p c (f.len + s.getF (F.SHP_PORT_OVH p)) s = s := if_pos hstrict
    rw [portV, hkept.shp, hclassTag, hportV, hpaid]
    exact ⟨rfl, rfl⟩
  · have hpaid : payClass p c (f.len + s.getF (F.SHP_PORT_OVH p)) s = setClassTag p c (effTag p c s + cost (f.len + s.getF (F.SHP_PORT_OVH p)) (clsWeight p c s))
        (setPortV p (effTag p c s) s) := if_neg (by simp [hweighted])
    rw [portV, classTag, hkept.shp, hclassTag, hportV, hpaid]
    exact ⟨Sparse.get_set_self .., Sparse.get_set_self ..⟩

end

theorem exec_shaperDecision {dt : Nat} {port : Fin 3} {c : Nat} {s : State} {q : Queue} {f : SFrame} (hrun : s.clk.running = true)
    (hopen : portOpen (16 + port.val) s = true) (hpaced : paced (16 + port.val) (s.elapse dt) = true)
    (hclass : chooseClass (16 + port.val) ((List.range 8).filter fun c => classEligible (16 + port.val) c s) s = some c)
    (hqueue : chooseQueue (16 + port.val) c s = some q) (hhead : q.frames.head? = some f) :
    exec (.shaperDecision dt port) s = .next (dispatchFrame (16 + port.val) c q f (s.elapse dt)) := by
  have hopen' : portOpen (16 + port.val) (s.elapse dt) = true := hopen
  have hclass' : chooseClass (16 + port.val) ((List.range 8).filter fun c => classEligible (16 + port.val) c (s.elapse dt)) (s.elapse dt) = some c := hclass
  have hqueue' : chooseQueue (16 + port.val) c (s.elapse dt) = some q := hqueue
  change execShaperDecision dt port s = _
  simp [execShaperDecision, hrun, hopen', hpaced, hclass', hqueue', hhead]

/-! Sample sets (R302, R303). -/

/-- The state without what a sample record may change: what notices change, and whether a record was lost. -/
def State.offSample (s : State) : State := { s.rest with shp := { s.shp with lost := false } }

theorem offSample_of_rest {s t : State} (h : t.rest = s.rest) : t.offSample = s.offSample :=
  congrArg (fun u : State => { u with shp := { u.shp with lost := false } }) h

theorem putSample_offSample (id : Nat) (body : List Byte) (s : State) : (putSample id body s).offSample = s.offSample := by
  unfold putSample
  split
  · extract_lets s1
    split
    · rfl
    · exact (offSample_of_rest notify_rest).trans rfl
  · extract_lets n wr base w s1
    have hwritten : s1.offSample = s.offSample := offSample_of_rest (State.rest_setBytes ..)
    exact hwritten

/-- The set's number and instant noted (R302). -/
def setCounted (s : State) : State := s.updShp fun x => { x with sets := x.sets + 1, lastSet := some s.clk.slot }

/-- The records of a set written or lost (R302). -/
def setRecords (s : State) : State :=
  let classes := (List.range 19).foldl (fun s p => (List.range 8).foldl (fun s c =>
    if s.getF (F.SHP_PORT_SAMPLE p) / 2 ^ c % 2 = 1 then classSample p c s else s) s) s
  (List.range 16).foldl (fun s k => if s.getF (F.SHP_WATCH_EN k) = 1 then watchSample k s else s) classes

/-- The counts since the previous set start anew (R303). -/
def countsAnew (s : State) : State := s.updShp fun x => { x with served := [], drops := [], queues := x.queues.map fun q => { q with served := 0, drops := 0 } }

theorem sampleSet_eq (s : State) : sampleSet s = countsAnew (setRecords (setCounted s)) := rfl

theorem setRecords_offSample (s : State) : (setRecords s).offSample = s.offSample := by
  unfold setRecords
  refine keeps_foldl (K := fun t : State => t.offSample = s.offSample) ?_ fun k _ t ht => keeps_ite (K := fun t : State => t.offSample = s.offSample) ?_ ht
  · exact keeps_foldl (K := fun t : State => t.offSample = s.offSample) rfl fun p _ t ht =>
      keeps_foldl (K := fun t : State => t.offSample = s.offSample) ht fun c _ u hu =>
        keeps_ite (K := fun t : State => t.offSample = s.offSample) ((putSample_offSample ..).trans hu) hu
  · exact (putSample_offSample ..).trans ht

/-- Where nothing is sampled and nothing watched a set has no record. -/
theorem setRecords_of_none {s : State} (hports : ∀ p < 19, s.getF (F.SHP_PORT_SAMPLE p) = 0) (hwatches : ∀ k < 16, s.getF (F.SHP_WATCH_EN k) = 0) :
    setRecords s = s := by
  have hclasses : ((List.range 19).foldl (fun s p => (List.range 8).foldl (fun s c =>
      if s.getF (F.SHP_PORT_SAMPLE p) / 2 ^ c % 2 = 1 then classSample p c s else s) s) s) = s :=
    keeps_foldl (K := (· = s)) rfl fun p hp t ht => keeps_foldl (K := (· = s)) ht fun c _ u hu => by
      subst hu
      simp [hports p (List.mem_range.1 hp)]
  unfold setRecords
  extract_lets classes
  refine keeps_foldl (K := (· = s)) hclasses fun k hk t ht => ?_
  subst ht
  simp [hwatches k (List.mem_range.1 hk)]

theorem setRecords_parts (s : State) : (∃ b, (setRecords s).shp = { s.shp with lost := b }) ∧ (setRecords s).tabs = s.tabs ∧ (setRecords s).clk = s.clk := by
  have hoff := setRecords_offSample s
  have hshp : { (setRecords s).shp with lost := false } = { s.shp with lost := false } := congrArg State.shp hoff
  refine ⟨⟨(setRecords s).shp.lost, ?_⟩, (congrArg State.tabs hoff :), (congrArg State.clk hoff :)⟩
  exact congrArg (fun x : Shaper => { x with lost := (setRecords s).shp.lost }) hshp

theorem exec_shpSampleSet {dt : Nat} {s : State} (hrun : s.clk.running = true) (hen : s.getF F.SHP_SRING_CTRL_EN = 1) (hpast : s.shp.epoch < (s.elapse dt).clk.slot)
    (hmultiple : ((s.elapse dt).clk.slot - s.shp.epoch) % max (s.getF F.SHP_SRING_CTRL_PERIOD_MS * ms) 1 = 0) (hnew : s.shp.lastSet ≠ some (s.elapse dt).clk.slot) :
    exec (.shpSampleSet dt) s = .next (sampleSet (s.elapse dt)) :=
  if_pos ⟨hrun, hen, hpast, hmultiple, hnew⟩

theorem sampleSet_starts (s : State) : let t := sampleSet s
    t.shp.sets = s.shp.sets + 1 ∧ t.shp.lastSet = some t.clk.slot ∧ t.shp.served = [] ∧ t.shp.drops = [] ∧ t.shp.queues.map (·.frames) = s.shp.queues.map (·.frames) ∧
      t.tabs = s.tabs ∧ ((∀ p < 19, s.getF (F.SHP_PORT_SAMPLE p) = 0) → (∀ k < 16, s.getF (F.SHP_WATCH_EN k) = 0) → OnlyRegs [] s t ∧ t.dram = s.dram) := by
  intro t
  obtain ⟨⟨b, hshp⟩, htabs, hclk⟩ := setRecords_parts (setCounted s)
  have ht : t.shp = { (setRecords (setCounted s)).shp with
      served := [], drops := [], queues := (setRecords (setCounted s)).shp.queues.map fun q => { q with served := 0, drops := 0 } } :=
    (congrArg State.shp (sampleSet_eq s) :)
  have hslot : t.clk = s.clk := hclk
  rw [hslot, ht, hshp]
  refine ⟨rfl, rfl, rfl, rfl, List.map_map, htabs, fun hports hwatches => ?_⟩
  have hnone : t = countsAnew (setCounted s) := (sampleSet_eq s).trans (congrArg countsAnew (setRecords_of_none (s := setCounted s) hports hwatches))
  rw [hnone]
  exact ⟨OnlyRegs.of_regs [] rfl, rfl⟩

/-! The read count of the sample ring (R48, R303). -/

theorem exec_shpSringRdWrite {dt : Nat} {m : Master} {w : Word} {s : State} (hcore : s.clk.core = true) (hmode : s.mode = stAutonomous) :
    exec (.shpSringRdWrite dt m w) s = .next (writeRingRd m 0xF010C F.SHP_SRING_RD_COUNT (s.getF F.SHP_SRING_WR_COUNT) (sringSize s) w (s.elapse dt)) :=
  congrArg Host.Outcome.next (gatedWrite_runs hcore hmode)

theorem writeRingRd_within {m : Master} {addr wr size : Nat} {rd : Field} {w : Word} (h : (wr + 2 ^ 32 - w.toNat) % 2 ^ 32 ≤ size) (s : State) :
    writeRingRd m addr rd wr size w s = s.setF rd w.toNat := if_neg (Nat.not_lt.2 h)

theorem writeRingRd_beyond {m : Master} {addr wr size : Nat} {rd : Field} {w : Word} (h : size < (wr + 2 ^ 32 - w.toNat) % 2 ^ 32) (s : State) :
    writeRingRd m addr rd wr size w s = ignored m addr s := if_pos h

/-- Settles O46: entries and decisions each put one queue back, a set's records leave the queues, and the ring's size decides between the two branches of the write. -/
theorem shaperOrder : Obligations.ShaperOrder := by
  intro dt s
  refine ⟨fun hrun f hf => ⟨shaperEntry_enters hrun hf, shaperEntry_limited hrun hf⟩, ?_, ?_, fun m w hcore hmode => ⟨fun hle => ?_, fun hlt => ?_⟩⟩
  · intro hrun port c p hopen hpaced hclass q hqueue f hhead
    obtain ⟨hport, hcls⟩ := classQueues_key (mem_of_chooseQueue hqueue)
    exact ⟨_, exec_shaperDecision hrun hopen hpaced hclass hqueue hhead, dispatchFrame_takes p c q f (s.elapse dt) hport hcls⟩
  · intro hrun hen hpast hmultiple hnew
    exact ⟨_, exec_shpSampleSet hrun hen hpast hmultiple hnew, sampleSet_starts (s.elapse dt)⟩
  · refine ⟨_, exec_shpSringRdWrite hcore hmode, ?_⟩
    rw [writeRingRd_within hle, State.setF_whole]
    exact ⟨State.reg_setReg_self _ _ _, OnlyRegs.setReg (s.elapse dt) _ _, rfl, rfl⟩
  · refine ⟨_, exec_shpSringRdWrite hcore hmode, ?_⟩
    rw [writeRingRd_beyond hlt]
    exact ⟨OnlyRegs.accessErr m errInvalid 0xF010C (s.elapse dt), accessErr_dram .., accessErr_tabs ..⟩

end Sys2Proof.Machine

/-! SUPPORT. A job's descriptor in the blob area, written over by the notice of the journal that has no room for its BLOB record (R325, R323, R472, R476). -/

namespace Sys2Proof.Machine

theorem ctrlResult_dram (m : Master) (cmd i status : Nat) (j : Option Job) (s : State) : (ctrlResult m cmd i status j s).dram = s.dram := rfl

theorem freeJob_alone_dram {i : Nat} {s : State} (hwaiting : s.fab.waiting = []) : (freeJob i s).dram = s.dram := by
  rw [freeJob_alone hwaiting]
  rfl

theorem exec_jobCopy {dt : Nat} {m : Master} {id : BitVec 12} {s : State} (hcore : s.clk.core = true) (hmode : s.mode = stAutonomous) :
    exec (.jobCopy dt m id) s = .next (ctrlCopy m id.toNat (s.elapse dt)) :=
  congrArg Host.Outcome.next (gatedWrite_runs hcore hmode)

/-- A COPY of a job in flight to an address in DRAM outside the catalogue (R323, R338). -/
theorem ctrlCopy_written {m : Master} {i a : Nat} {j : Job} {s : State} (hjob : s.job i = some j) (ha : (s.reg (0x100058 + 4 * m.bit)).toNat / 64 * 64 = a)
    (hne : a ≠ 0) (hin : inDram a 64 s = true) (hcat : hitsCatalogue a 64 s = false) :
    ctrlCopy m i s = ctrlResult m 3 i scOk (some j) (writeDram a (descriptor i j) s) := by
  have hallowed : ¬ (!inDram a 64 s || hitsCatalogue a 64 s) = true := by simp [hin, hcat]
  unfold ctrlCopy
  rw [hjob]
  dsimp only
  rw [ha, if_neg hne, if_neg hallowed]

/-- The write-back of a COMPLETE job that asks for no notice, where no word of its descriptor merges with an uncorrectable one (R325, R343). -/
theorem exec_jobWriteback_silent {dt k a : Nat} {id : BitVec 12} {j : Job} {s : State} (hrun : s.clk.running = true) (hjob : s.job id.toNat = some j)
    (hsub : j.submitted = some (k, a)) (hstate : j.state = jsComplete) (hbad : badPartial a 64 s = none) (hnotify : j.notify = false) :
    exec (.jobWriteback dt id) s = .next (freeJob id.toNat (writeDram a (descriptor id.toNat j) (s.elapse dt))) := by
  have hgo : ¬ (!(s.elapse dt).clk.running) = true := by simp [hrun]
  have hjob' : (s.elapse dt).job id.toNat = some j := hjob
  have hbad' : badPartial a 64 (s.elapse dt) = none := hbad
  refine (if_neg hgo).trans ?_
  simp only [hjob', hsub, hbad', hnotify, if_pos hstate, Bool.false_eq_true, if_false]

/-- A job of class HDM that the host submitted with the first blob's address, complete. -/
def jobInBlobs : Job := { newJob ecHDM 0 0xFFFF 0 0 [] .none with state := jsComplete, submitted := some (Master.host.bit, 0x09000000) }

/-- AUTONOMOUS, the lead of a pair with the lane UP and a valid journal that has no room before its rewind mark. The notice ring, of one record, lies at KEY_BLOB_BASE, where
the descriptor of job 0 goes both at its write-back and by a COPY of the host. -/
def noticeAtDescriptor : State :=
  { State.reset with
    regs := [(0x4, 1#32), (0x40, 0x09000000#32), (0x44, 0x80000000#32), (0x100058, 0x09000000#32), (0x118000, 896#32), (0x160004, 0xA1000000#32), (0x160028, 0x01000000#32)]
    clk := { State.reset.clk with core := true, running := true }
    fuses := { State.reset.fuses with pairRoot := true }
    fab := { State.reset.fab with jobs := [(0, some jobInBlobs)] } }

theorem noticeAtDescriptor_meets :
    noticeAtDescriptor.mode = stAutonomous ∧ badPartial 0x09000000 64 noticeAtDescriptor = none ∧ (noticeAtDescriptor.reg (0x100058 + 4 * Master.host.bit)).toNat / 64 * 64 = 0x09000000 ∧
      inDram 0x09000000 64 noticeAtDescriptor = true ∧ hitsCatalogue 0x09000000 64 noticeAtDescriptor = false := by decide

/-- The descriptor's first byte holds the class, with the low bits of the priority above it. -/
theorem jobInBlobs_descriptor_head : (descriptor 0 jobInBlobs).getD 0 0 = 0x08#8 := by decide

/-- What the write of the descriptor leaves. -/
def descriptorNoticed : State := writeDram 0x09000000 (descriptor 0 jobInBlobs) (noticeAtDescriptor.elapse 0)

set_option maxRecDepth 20000 in
/-- The BLOB record that the write owes finds no room in the journal (R475), and JOURNAL_INVALID, EVENT 0x09, is written over the descriptor's first byte. -/
theorem descriptorNoticed_head : descriptorNoticed.byte 0x09000000 = 0x09#8 ∧ descriptorNoticed.fab.waiting = [] := by decide

/-- No state whose first byte there is the notice's holds the descriptor. -/
theorem descriptorNoticed_ne {t : State} (hdram : t.dram = descriptorNoticed.dram) : t.byte 0x09000000 ≠ (descriptor 0 jobInBlobs).getD 0 0 := by
  rw [State.byte_of_dram hdram, descriptorNoticed_head.1, jobInBlobs_descriptor_head]
  decide

/-- Refutes O47: a write-back into the blob area writes the journal (R472), which may become invalid (R476), and the notice of that may lie on the descriptor just written.
The statement speaks of every state, this one too. -/
theorem not_fabricDecisions : ¬ Obligations.FabricDecisions := by
  intro h
  obtain ⟨-, -, hjobs⟩ := h 0 noticeAtDescriptor rfl
  obtain ⟨-, hback⟩ := hjobs 0 jobInBlobs rfl
  obtain ⟨-, hbad, -⟩ := noticeAtDescriptor_meets
  obtain ⟨-, hbytes⟩ := (hback rfl rfl Master.host.bit 0x09000000 rfl (by decide)).of_exec (exec_jobWriteback_silent rfl rfl rfl rfl hbad rfl)
  have hfreed : (freeJob 0 descriptorNoticed).dram = descriptorNoticed.dram := freeJob_alone_dram descriptorNoticed_head.2
  exact descriptorNoticed_ne hfreed (hbytes rfl 0 (by decide))

/-- Refutes O48: a COPY into the blob area writes the journal (R472), which may become invalid (R476), and the notice of that may lie on the descriptor just written.
The statement speaks of every state, this one too. -/
theorem not_mastersAndTrace : ¬ Obligations.MastersAndTrace := by
  intro h
  obtain ⟨hmode, -, haddr, hin, hcat⟩ := noticeAtDescriptor_meets
  obtain ⟨-, hjobs, -⟩ := h 0 .host noticeAtDescriptor rfl hmode
  obtain ⟨-, -, hcopy⟩ := hjobs 0 jobInBlobs rfl
  rw [haddr] at hcopy
  obtain ⟨hbytes, -⟩ := (hcopy (by decide) hin hcat).of_exec (exec_jobCopy rfl hmode)
  have hcopied : ctrlCopy .host 0 (noticeAtDescriptor.elapse 0) = ctrlResult .host 3 0 scOk (some jobInBlobs) descriptorNoticed :=
    ctrlCopy_written rfl haddr (by decide) hin hcat
  have hdram : (ctrlCopy .host 0 (noticeAtDescriptor.elapse 0)).dram = descriptorNoticed.dram := by rw [hcopied, ctrlResult_dram]
  exact descriptorNoticed_ne hdram (hbytes 0 (by decide))

end Sys2Proof.Machine

/-! SUPPORT. The queue (O1, O5), and states in which a statement about scrubbing, tamper events, floods or the lane's WRITE frames fails (O49, O52, O55, O58). -/

namespace Sys2Proof.Machine

/-- Settles O1: a step takes the front of its queue. -/
theorem stepRunsFront : Obligations.StepRunsFront := fun _ _ _ => rfl

/-- Settles O5: the queue is among what every step keeps of the state whose queue has lost its front. -/
theorem queueFirstInFirstOut : Obligations.QueueFirstInFirstOut := by
  intro s t c r hq ht
  rw [(step_keeps s t ht).queue, hq, List.tail_cons]

/-- AUTONOMOUS with DRAM initialised, whose notice ring, of one record, lies at address 0, where the scrubber reads next. -/
def ringAtScrub : State :=
  { State.reset with
    regs := [(0x4, 1#32), (0x44, 0x80000000#32), (0x118000, 0x40000000#32)]
    clk := { State.reset.clk with core := true, running := true } }

/-- The state that the scrubber leaves when it finds word 0 uncorrectable. -/
def ringScrubbed : State := scrubNext (foundUe 0 true (poisonWords [0] (ringAtScrub.elapse 0)))

theorem exec_scrubRead_ringAtScrub : exec (.scrubRead 0 1#8 0#8) ringAtScrub = .next ringScrubbed := by rfl

set_option maxRecDepth 20000 in
/-- The DRAM_UE notice is written whole over the word, which is then no longer uncorrectable (R343). -/
theorem ringScrubbed_word : ringScrubbed.poisonedWord 0 = false := by decide

/-- Refutes O49: the notice of an uncorrectable word that the scrubber finds may be written over that word, which mends it (R343).
The statement speaks of every state, this one too. -/
theorem not_memoryAndDma : ¬ Obligations.MemoryAndDma := by
  intro h
  obtain ⟨-, hscrub, -⟩ := h 0 ringAtScrub rfl
  obtain ⟨-, hword⟩ := hscrub rfl rfl
  obtain ⟨-, hpoisoned, -⟩ := (hword 0).1.of_exec exec_scrubRead_ringAtScrub
  exact Bool.noConfusion (hpoisoned.symm.trans ringScrubbed_word)

/-- FROZEN with tamper inputs 0 and 1 enabled and input 0 at its active level. -/
def frozenTampered : State :=
  { State.reset with
    regs := [(0x4, 6#32), (0x138000, 3#32), (0x138004, 1#32)]
    clk := { State.reset.clk with core := true } }

/-- The state in which the event of inputs 0 and 1 leaves it. -/
def frozenLatched : State := tamperEvent 3 (({ frozenTampered.elapse 0 with pins := { State.reset.pins with tamper := 3 } } : State).setF F.TAM_STATUS_LIVE 3)

theorem exec_tamperEvent_frozenTampered : exec (.tamperEvent 0 3#4) frozenTampered = .next frozenLatched := by rfl

theorem frozenLatched_inputs : frozenLatched.getF F.TAM_STATUS_LATCHED = 3 := by decide

/-- Refutes O52: TAM_STATUS latches every input at its active level, input 0 too, whose event is an old one; the statement has the new inputs alone. -/
theorem not_lifecycleAndTamper : ¬ Obligations.LifecycleAndTamper := by
  intro h
  obtain ⟨-, -, -, -, -, -, -, -, htamper, -⟩ := h 0 .host frozenTampered rfl
  obtain ⟨-, -, hfrozen, -⟩ := htamper 3#4
  obtain ⟨-, -, -, hlatched, -⟩ := (hfrozen (by decide) rfl (by decide)).of_exec exec_tamperEvent_frozenTampered
  exact absurd (hlatched.symm.trans frozenLatched_inputs) (by decide)

/-- An accepted FLOOD record of TTL 1 with 16 for its CLASS, whose octet TTL * 16 + CLASS carries TTL 2. -/
def floodOfClass16 : Rec := ⟨rtFlood, 16, 0, 0, 0, 0, [0, 0, 1], []⟩

/-- That record waits in a cell whose roster holds node 0. -/
def floodWaiting : State :=
  { State.reset with
    clk := { State.reset.clk with core := true, running := true }
    fuses := { State.reset.fuses with pairRoot := false }
    cat := { State.reset.cat with cache := [(0, some ⟨[], none, 0⟩)], roster := [0] }
    bhl := { State.reset.bhl with inbound := [(0, floodOfClass16)] } }

/-- The state in which the record's processing leaves it. -/
def floodActed : State := floodRecord 0 floodOfClass16 ((floodWaiting.elapse 0).updBhl fun x => { x with inbound := [] })

theorem exec_flood_floodWaiting : exec (.flood 0) floodWaiting = .next floodActed := by rfl

set_option maxRecDepth 20000 in
/-- The flood is relayed to node 0. -/
theorem floodActed_entering : floodActed.shp.entering.length = 1 := by decide

/-- Refutes O55: a record that waits may hold a CLASS above 15, which carries into the TTL of the flood's octet, and a record of TTL 1 is then relayed.
The statement speaks of every state, this one too. -/
theorem not_linksAndRecords : ¬ Obligations.LinksAndRecords := by
  intro h
  obtain ⟨-, -, -, hflood, -⟩ := h 0 floodWaiting rfl
  obtain ⟨-, hspread⟩ := hflood 0 floodOfClass16 rfl
  obtain ⟨-, -, -, hshp⟩ := (hspread (by decide) (by decide)).of_exec exec_flood_floodWaiting
  exact absurd (floodActed_entering.symm.trans (congrArg (fun x : Shaper => x.entering.length) (hshp rfl))) (by decide)

/-- RESERVE of a pair, with an open lane session and the first word of the journal uncorrectable. -/
def reserveUncorrectable : State :=
  { State.reset with
    regs := [(0x4, 2#32)]
    clk := { State.reset.clk with core := true }
    fuses := { State.reset.fuses with pairRoot := true }
    mem := { State.reset.mem with poisoned := [(0x30000000 / 8, true)] }
    pair := { State.reset.pair with session := true } }

/-- The state in which the WRITE of the journal's first byte leaves it. -/
def journalByteDropped : State := pairWrite 0x30000000 [1] (laneSeen 1 (reserveUncorrectable.elapse 0))

theorem exec_laneWriteRx_reserveUncorrectable : exec (.laneWriteRx 0 0x30000000#32 [1] true 1#32) reserveUncorrectable = .next journalByteDropped := by rfl

/-- A write of part of an uncorrectable word leaves its bytes. -/
theorem journalByteDropped_byte : journalByteDropped.byte 0x30000000 = 0#8 := by decide

/-- Refutes O58: a WRITE frame that covers a part of an uncorrectable word leaves that word as it was (R343).
The statement speaks of every state, this one too. -/
theorem not_laneAndTakeover : ¬ Obligations.LaneAndTakeover := by
  intro h
  obtain ⟨-, hwrite, -⟩ := h 0 reserveUncorrectable
  obtain ⟨-, htaken⟩ := hwrite 0x30000000#32 [1] true 1#32
  obtain ⟨-, -, hin⟩ := htaken rfl rfl
  obtain ⟨hbytes, -⟩ := (hin rfl rfl).1.of_exec exec_laneWriteRx_reserveUncorrectable
  have hbyte := hbytes 0 (by decide) (by unfold inNoticeRing; decide)
  exact absurd (journalByteDropped_byte.symm.trans hbyte) (by decide)

end Sys2Proof.Machine

/-! SUPPORT. The domains, and the increments, steps and comparisons of network time (R418 to R430). -/

namespace Sys2Proof.Machine

/-! The domains beside the registers and the memory. -/

theorem State.domain_of_time {s t : State} (h : t.time = s.time) (n : Nat) : t.domain n = s.domain n := by
  unfold State.domain
  rw [h]

@[simp] theorem State.updDomain_regs (s : State) (n : Nat) (f : Domain → Domain) : (s.updDomain n f).regs = s.regs := by
  unfold State.updDomain State.setDomain
  split <;> rfl

@[simp] theorem State.updDomain_dram (s : State) (n : Nat) (f : Domain → Domain) : (s.updDomain n f).dram = s.dram := by
  unfold State.updDomain State.setDomain
  split <;> rfl

@[simp] theorem State.updDomain_clk (s : State) (n : Nat) (f : Domain → Domain) : (s.updDomain n f).clk = s.clk := by
  unfold State.updDomain State.setDomain
  split <;> rfl

@[simp] theorem State.updDomain_ofs (s : State) (n : Nat) (f : Domain → Domain) : (s.updDomain n f).time.ofs = s.time.ofs := by
  unfold State.updDomain State.setDomain
  split <;> rfl

@[simp] theorem State.domain_updDomain (s : State) (n : Nat) (f : Domain → Domain) : (s.updDomain n f).domain n = f (s.domain n) := by
  unfold State.updDomain State.setDomain State.domain
  by_cases h : n = 0 <;> simp only [h, if_true, if_false]

theorem State.domain_updDomain_ne (s : State) {n k : Nat} (h : (k = 0) ≠ (n = 0)) (f : Domain → Domain) : (s.updDomain n f).domain k = s.domain k := by
  unfold State.updDomain State.setDomain State.domain
  by_cases hn : n = 0 <;> simp_all

@[simp] theorem State.domain_updDomain_other (s : State) (n : Fin 2) (f : Domain → Domain) : (s.updDomain n f).domain (1 - n.val) = s.domain (1 - n.val) :=
  State.domain_updDomain_ne s (by have := n.isLt; rw [ne_eq, eq_iff_iff]; omega) f

@[simp] theorem State.reg_updDomain (s : State) (n : Nat) (f : Domain → Domain) (a : Nat) : (s.updDomain n f).reg a = s.reg a := State.reg_of_regs (State.updDomain_regs ..) a
@[simp] theorem State.getF_updDomain (s : State) (n : Nat) (f : Domain → Domain) (g : Field) : (s.updDomain n f).getF g = s.getF g :=
  State.getF_of_regs (State.updDomain_regs ..) g
theorem OnlyRegs.updDomain (s : State) (n : Nat) (f : Domain → Domain) : OnlyRegs [] s (s.updDomain n f) := OnlyRegs.of_regs [] (State.updDomain_regs ..)

@[simp] theorem State.domain_setF (s : State) (f : Field) (v n : Nat) : (s.setF f v).domain n = s.domain n := State.domain_of_time (State.setF_time ..) n
@[simp] theorem State.domain_incF (s : State) (f : Field) (n : Nat) : (s.incF f).domain n = s.domain n := State.domain_of_time (State.incF_time ..) n
@[simp] theorem State.domain_set64 (s : State) (lo hi : Field) (v n : Nat) : (s.set64 lo hi v).domain n = s.domain n := State.domain_of_time (State.set64_time ..) n
@[simp] theorem domain_notify (k : NoticeKind) (status port arg : Nat) (s : State) (n : Nat) : (notify k status port arg s).domain n = s.domain n :=
  State.domain_of_time (notify_time ..) n
@[simp] theorem domain_ignored (m : Master) (a : Nat) (s : State) (n : Nat) : (ignored m a s).domain n = s.domain n := State.domain_of_time (accessErr_time ..) n
theorem ignored_time (m : Master) (a : Nat) (s : State) : (ignored m a s).time = s.time := accessErr_time ..
theorem OnlyRegs.ignored (m : Master) (a : Nat) (s : State) : OnlyRegs [8] s (Machine.ignored m a s) := OnlyRegs.accessErr m _ a s

/-- A refused write leaves everything but TOP_ACCESS_ERR. -/
theorem ignored_frame (m : Master) (a : Nat) (s : State) : (ignored m a s).time = s.time ∧ OnlyRegs [8] s (ignored m a s) ∧ (ignored m a s).dram = s.dram :=
  ⟨ignored_time m a s, OnlyRegs.ignored m a s, accessErr_dram ..⟩

/-- What the passing of ticks leaves of a domain. -/
theorem State.elapse_domain (s : State) (dt n : Nat) : (s.elapse dt).domain n = (s.domain n).count (if timRuns s then dt else 0) := by
  unfold State.domain
  split <;> rfl

theorem State.elapse_armed (s : State) (dt n : Nat) : ((s.elapse dt).domain n).armed = (s.domain n).armed := by rw [State.elapse_domain]; rfl
theorem State.elapse_epoch (s : State) (dt n : Nat) : ((s.elapse dt).domain n).epoch = (s.domain n).epoch := by rw [State.elapse_domain]; rfl
theorem State.elapse_incAt (s : State) (dt n : Nat) : ((s.elapse dt).domain n).incAt = (s.domain n).incAt := by rw [State.elapse_domain]; rfl

/-- The CLK_TIM counters run in AUTONOMOUS. -/
theorem timRuns_of_autonomous {s : State} (hrun : s.clk.running = true) (hmode : s.mode = stAutonomous) : timRuns s = true := by
  simp [timRuns, hrun, hmode, stAutonomous, stReserve]

theorem timRuns_running {s : State} (h : timRuns s = true) : s.clk.running = true := by
  unfold timRuns at h
  exact (Bool.and_eq_true_iff.1 h).1

theorem elapse_timRuns (s : State) (dt : Nat) : timRuns (s.elapse dt) = timRuns s := rfl

section
variable {dt : Nat} {s : State}

/-! Increments and holdover (R418, R419). -/

/-- INC_HI written, with the increment in effect and holdover ended. -/
def incWritten (n inc hi : Nat) (s : State) : State :=
  ((s.setF (F.TIM_D_INC_HI_INC n) hi).setF (F.TIM_D_EXCH_STATUS_HOLDOVER n) 0).updDomain n fun d => { d with inc := inc, incAt := s.clk.now }

theorem writeIncHi_owned {m : Master} {n : Nat} {w : Word} (howns : s.owns m = true) (hinc : s.getF (F.TIM_D_INC_LO_INC n) + bitsOf w 2 0 * 2 ^ 32 ≠ 0) :
    writeIncHi m n w s = incWritten n (s.getF (F.TIM_D_INC_LO_INC n) + bitsOf w 2 0 * 2 ^ 32) (bitsOf w 2 0) s := by
  unfold writeIncHi
  rw [if_neg (by rw [howns]; decide)]
  exact if_neg hinc

theorem writeIncHi_refused {m : Master} {n : Nat} {w : Word} (h : s.owns m = false ∨ s.getF (F.TIM_D_INC_LO_INC n) + bitsOf w 2 0 * 2 ^ 32 = 0) :
    writeIncHi m n w s = ignored m (0x140124 + 256 * n) s := by
  unfold writeIncHi
  by_cases howns : s.owns m = true
  · rw [if_neg (by rw [howns]; decide)]
    exact if_pos (h.resolve_left (by rw [howns]; decide))
  · exact if_pos (by simpa using howns)

theorem OnlyRegs.incWritten (n inc hi : Nat) (s : State) : OnlyRegs [0x140124 + 256 * n, 0x140170 + 256 * n] s (incWritten n inc hi s) :=
  ((OnlyRegs.setF s (F.TIM_D_INC_HI_INC n) hi).trans (OnlyRegs.setF _ (F.TIM_D_EXCH_STATUS_HOLDOVER n) 0)).trans (OnlyRegs.updDomain _ n _)


theorem incWritten_fields {hi : Nat} (n inc : Nat) (hhi : hi < 8) (s : State) :
    (incWritten n inc hi s).domain n = { s.domain n with inc := inc, incAt := s.clk.now } ∧ (incWritten n inc hi s).getF (F.TIM_D_INC_HI_INC n) = hi ∧
      (incWritten n inc hi s).getF (F.TIM_D_EXCH_STATUS_HOLDOVER n) = 0 ∧ (incWritten n inc hi s).dram = s.dram := by
  refine ⟨State.domain_updDomain .., ?_, ?_, State.updDomain_dram ..⟩
  · exact (State.getF_updDomain ..).trans ((State.getF_setF_ne _ _ (by simp)).trans (State.getF_setF_of_lt _ (by simp) (by simp) hhi))
  · exact (State.getF_updDomain ..).trans (State.getF_setF_of_lt _ (by simp) (by simp) (by simp))

theorem bitsOf_lt_two_pow (w : Word) (hi lo : Nat) : bitsOf w hi lo < 2 ^ (hi + 1 - lo) := by
  unfold bitsOf
  exact Nat.mod_lt _ (Nat.two_pow_pos _)

theorem exec_timIncWrite {m : Master} {n : Fin 2} {w : Word} (hcore : s.clk.core = true) (hmode : s.mode = stAutonomous) :
    exec (.timIncWrite dt m n w) s = .next (writeIncHi m n w (s.elapse dt)) := congrArg Host.Outcome.next (gatedWrite_runs hcore hmode)

/-- HOLDOVER raised. -/
def heldOver (n : Nat) (s : State) : State := notify N.HOLDOVER scTimeout 0 n (s.setF (F.TIM_D_EXCH_STATUS_HOLDOVER n) 1)

theorem exec_holdover {n : Fin 2} (hrun : s.clk.running = true) (hmode : s.mode = stAutonomous) (hoff : s.getF (F.TIM_D_EXCH_STATUS_HOLDOVER n) = 0)
    (hend : (s.domain n).incAt + s.getF (F.TIM_D_HOLD_VALUE n) * sec ≤ (s.elapse dt).clk.now) : exec (.holdover dt n) s = .next (heldOver n (s.elapse dt)) := by
  refine (if_neg (elapse_runs hrun)).trans (if_pos ⟨timRuns_of_autonomous hrun hmode, hoff, ?_⟩)
  rw [State.elapse_incAt]
  exact hend

/-- A register address of domain `n` is none of those of the notices. -/
theorem domainReg_not_notice {a : Nat} (n : Nat) (ha : 0x140000 ≤ a) : a + 256 * n ∉ noticeRegs := by
  simp only [noticeRegs, List.mem_cons, List.not_mem_nil, or_false]
  omega

theorem heldOver_frame (n : Nat) (s : State) : (heldOver n s).getF (F.TIM_D_EXCH_STATUS_HOLDOVER n) = 1 ∧ (heldOver n s).time = s.time ∧
    OnlyRegs ((0x140170 + 256 * n) :: noticeRegs) s (heldOver n s) ∧ OnlyRing s (heldOver n s) := by
  have hset := OnlyRegs.setF s (F.TIM_D_EXCH_STATUS_HOLDOVER n) 1
  obtain ⟨hregs, hring, -⟩ := noticed_frame hset (by constructor <;> (simp only [List.mem_singleton]; omega)) rfl rfl N.HOLDOVER scTimeout 0 n
  exact ⟨(notify_getF (domainReg_not_notice n (by omega))).trans (State.getF_setF_of_lt _ (by simp) (by simp) (by simp)), notify_time .., hregs, hring⟩

/-! Steps (R420, R421). -/

theorem OnlyRegs.stepState (n st : Nat) (s : State) : OnlyRegs [0x140130 + 256 * n, 0x140020] s (stepState n st s) :=
  (OnlyRegs.setF s (F.TIM_D_STEP_STATUS_STATE n) st).trans (OnlyRegs.setF _ ⟨0x140020, 4 + n, 4 + n⟩ (bit (s.domain n).armed.isSome))

theorem stepState_fields {st : Nat} (n : Fin 2) (hst : st < 16) (s : State) :
    (stepState n st s).getF (F.TIM_D_STEP_STATUS_STATE n) = st ∧ (stepState n st s).getF ⟨0x140020, 4 + n, 4 + n⟩ = bit (s.domain n).armed.isSome ∧
      (stepState n st s).time = s.time ∧ (stepState n st s).dram = s.dram := by
  refine ⟨?_, ?_, rfl, rfl⟩
  · exact (State.getF_setF_ne _ _ (by simp; omega)).trans (State.getF_setF_of_lt _ (by simp) (by simp) hst)
  · refine State.getF_setF_of_lt _ le_rfl (show 4 + n.val < 32 by omega) ?_
    rw [show 4 + n.val + 1 - (4 + n.val) = 1 by omega]
    unfold bit
    split <;> decide


/-- The ns by which a write of STEP_NS steps domain `n`. -/
def stepSpan (n : Nat) (w : Word) (s : State) : Int := toSigned 32 (s.getF (F.TIM_D_STEP_SEC_SEC n)) * 1000000000 + (bitsOf w 29 0 : Nat)

/-- The time at which the step leaves the domain. -/
def stepTarget (n : Nat) (w : Word) (s : State) : Int := ((s.domain n).t : Int) + stepSpan n w s * 2 ^ 32

/-- A step that no setting admits (R420). -/
abbrev StepBad (n : Nat) (w : Word) (s : State) : Prop :=
  999999999 < bitsOf w 29 0 ∨ stepSpan n w s = 0 ∨ stepTarget n w s < 0 ∨ (2 ^ 64 * unitsPerSec : Nat) ≤ stepTarget n w s

/-- A step back that wants a second write. -/
abbrev StepFar (n : Nat) (w : Word) (s : State) : Prop := stepSpan n w s < -(s.getF F.TIM_STEP_CFG_BACK_LIMIT_MS * 1000000 : Nat)

/-- The second write of an armed step, in time. -/
def stepAgain (n : Nat) (w : Word) (s : State) : Bool :=
  match (s.domain n).armed with
  | some (v, at_) => decide (v = stepSpan n w s) && decide (s.clk.slot < at_ + sec)
  | none => false

/-- NS kept, and no step armed. -/
def stepTaken (n : Nat) (w : Word) (s : State) : State := (s.setF (F.TIM_D_STEP_NS_NS n) (bitsOf w 29 0)).updDomain n fun d => { d with armed := none }

theorem stepTaken_frame (n : Nat) (w : Word) (s : State) : OnlyRegs [0x14012C + 256 * n] s (stepTaken n w s) ∧ (stepTaken n w s).dram = s.dram ∧
    (stepTaken n w s).time.ofs = s.time.ofs ∧ (stepTaken n w s).clk = s.clk :=
  ⟨(OnlyRegs.setF s (F.TIM_D_STEP_NS_NS n) _).trans (OnlyRegs.updDomain _ n _), State.updDomain_dram .., State.updDomain_ofs .., State.updDomain_clk ..⟩

theorem stepTaken_domain (n : Nat) (w : Word) (s : State) : (stepTaken n w s).domain n = { s.domain n with armed := none } := State.domain_updDomain ..
theorem stepTaken_other (n : Fin 2) (w : Word) (s : State) : (stepTaken n w s).domain (1 - n.val) = s.domain (1 - n.val) := State.domain_updDomain_other ..

theorem writeStepNs_foreign {m : Master} {w : Word} (n : Nat) (howns : s.owns m = false) : writeStepNs m n w s = ignored m (0x14012C + 256 * n) s :=
  if_pos (by rw [howns]; rfl)

theorem writeStepNs_kept {m : Master} {w : Word} (n : Nat) (howns : s.owns m = true) (hgo : bitsOf w 31 31 = 0) :
    writeStepNs m n w s = s.setF (F.TIM_D_STEP_NS_NS n) (bitsOf w 29 0) :=
  (if_neg (by rw [howns]; decide)).trans (if_pos hgo)

/-- A write with GO, by what the step's settings are found to be. -/
theorem writeStepNs_go {m : Master} {w : Word} (n : Nat) (howns : s.owns m = true) (hgo : bitsOf w 31 31 = 1) :
    writeStepNs m n w s =
      if StepBad n w s then ignored m (0x14012C + 256 * n) (stepState n 3 ((stepTaken n w s).setF (F.TIM_D_STEP_NS_NS n) (s.getF (F.TIM_D_STEP_NS_NS n))))
      else if StepFar n w s ∧ stepAgain n w s = false then
        notify N.STEP_ARMED scOk 0 (n * 2 ^ 16) (stepState n 2 ((stepTaken n w s).updDomain n fun d => { d with armed := some (stepSpan n w s, s.clk.slot) }))
      else applyStep n (stepSpan n w s) (stepTaken n w s) := by
  have hsec : (s.setF (F.TIM_D_STEP_NS_NS n) (bitsOf w 29 0)).getF (F.TIM_D_STEP_SEC_SEC n) = s.getF (F.TIM_D_STEP_SEC_SEC n) := getF_setF_off _ _ (by omega)
  have hback : (s.setF (F.TIM_D_STEP_NS_NS n) (bitsOf w 29 0)).getF F.TIM_STEP_CFG_BACK_LIMIT_MS = s.getF F.TIM_STEP_CFG_BACK_LIMIT_MS :=
    getF_setF_off _ _ (by omega)
  unfold writeStepNs
  rw [if_neg (by rw [howns]; decide)]
  simp only [hgo, Nat.one_ne_zero, if_false, hsec, hback, State.domain_updDomain, State.domain_setF, State.getF_updDomain, State.updDomain_clk, State.setF_clk]
  rfl

/-! The alignment offset (R423). -/

theorem setOfs_domain (v : Int) (n : Nat) (s : State) : (setOfs v s).domain n = s.domain n := (State.domain_set64 ..).trans (by unfold State.domain; rfl)
theorem setOfs_time (v : Int) (s : State) : (setOfs v s).time = { s.time with ofs := toSigned 64 (ofSigned 64 v) } := State.set64_time ..
theorem setOfs_dram (v : Int) (s : State) : (setOfs v s).dram = s.dram := State.set64_dram ..
theorem OnlyRegs.setOfs (v : Int) (s : State) : OnlyRegs [0x140010, 0x140014] s (setOfs v s) :=
  (OnlyRegs.of_regs [] (s := s) (t := { s with time := { s.time with ofs := toSigned 64 (ofSigned 64 v) } }) rfl).trans
    (OnlyRegs.set64 _ F.TIM_OFS_LO_OFS F.TIM_OFS_HI_OFS (ofSigned 64 v))

theorem setOfs_zero_regs (s : State) : (setOfs 0 s).reg 0x140010 = 0 ∧ (setOfs 0 s).reg 0x140014 = 0 :=
  ⟨(State.reg_setF_ne _ _ (by decide)).trans (State.reg_setF_whole _ 0x140010 0), State.reg_setF_whole _ 0x140014 0⟩

/-- The parts of an applied step before its notice (R421): the domain, then STATE, the offset where the domain is the selected one, and the count. -/
def stepMoved (n : Nat) (ns : Int) (s : State) : State :=
  stepState n 1 (s.updDomain n fun d => { d with t := ((d.t : Int) + ns * 2 ^ 32).toNat, epoch := (d.epoch + 1) % 65536, armed := none })

def stepAligned (n : Nat) (ns : Int) (s : State) : State := if selDomain s = n then setOfs (s.time.ofs + ns) s else s

theorem applyStep_eq (n : Nat) (ns : Int) (s : State) : applyStep n ns s =
    notify N.STEP scOk 0 (n * 2 ^ 16 + ((stepAligned n ns (stepMoved n ns s)).domain n).epoch) ((stepAligned n ns (stepMoved n ns s)).incF (timCnt n 3)) := rfl

theorem stepAligned_frame (n k : Nat) (ns : Int) (s : State) :
    (stepAligned n ns s).domain k = s.domain k ∧ (stepAligned n ns s).dram = s.dram ∧ (stepAligned n ns s).tabs = s.tabs ∧ OnlyRegs [0x140010, 0x140014] s (stepAligned n ns s) := by
  unfold stepAligned
  split
  · exact ⟨setOfs_domain .., setOfs_dram .., rfl, OnlyRegs.setOfs _ s⟩
  · exact ⟨rfl, rfl, rfl, OnlyRegs.of_regs _ rfl⟩

theorem stepMoved_frame (n : Fin 2) (ns : Int) (s : State) :
    (stepMoved n ns s).domain n = { s.domain n with t := (((s.domain n).t : Int) + ns * 2 ^ 32).toNat, epoch := ((s.domain n).epoch + 1) % 65536, armed := none } ∧
      (stepMoved n ns s).domain (1 - n.val) = s.domain (1 - n.val) ∧ (stepMoved n ns s).time.ofs = s.time.ofs ∧ (stepMoved n ns s).dram = s.dram ∧
      OnlyRegs [0x140130 + 256 * n.val, 0x140020] s (stepMoved n ns s) :=
  ⟨State.domain_updDomain .., State.domain_updDomain_other .., State.updDomain_ofs .., State.updDomain_dram .., (OnlyRegs.updDomain s n _).trans (OnlyRegs.stepState n 1 _)⟩

/-- STATE and the ARMED bit of a moved domain stand through the offset, the count and the notice. -/
theorem stepMoved_fields (n : Fin 2) (ns : Int) (s : State) :
    (stepMoved n ns s).getF (F.TIM_D_STEP_STATUS_STATE n) = 1 ∧ (stepMoved n ns s).getF ⟨0x140020, 4 + n, 4 + n⟩ = 0 := by
  obtain ⟨hstate, harm, -⟩ := stepState_fields n (st := 1) (by decide)
    (s.updDomain n fun d => { d with t := ((d.t : Int) + ns * 2 ^ 32).toNat, epoch := (d.epoch + 1) % 65536, armed := none })
  rw [State.domain_updDomain] at harm
  exact ⟨hstate, harm⟩

/-- The registers that an applied step changes. -/
abbrev stepRegs (n : Fin 2) : List Nat := [0x140130 + 256 * n.val, 0x140020, 0x140010, 0x140014, 0x14008C + 16 * n.val]

/-- The offset, the count and the notice of an applied step, after its domain. -/
theorem applyStep_rest (n : Fin 2) (ns : Int) (s : State) :
    OnlyRegs ([0x140010, 0x140014, 0x14008C + 16 * n.val] ++ noticeRegs) (stepMoved n ns s) (applyStep n ns s) := by
  obtain ⟨-, -, -, hregs⟩ := stepAligned_frame n n ns (stepMoved n ns s)
  have hcount := hregs.trans (OnlyRegs.incF _ (timCnt n 3))
  refine (hcount.mono (k := [0x140010, 0x140014, 0x14008C + 16 * n.val]) ?_).trans (OnlyRegs.notify _ _ _ _ _)
  simp only [List.cons_append, List.nil_append, List.cons_subset, List.nil_subset, List.mem_cons, List.not_mem_nil, or_false, true_or, or_true, true_and, and_true,
    timCnt, F.TIM_CNT_COUNT]
  omega

theorem applyStep_frame (n : Fin 2) (ns : Int) (s : State) : OnlyRegs (stepRegs n ++ noticeRegs) s (applyStep n ns s) ∧ OnlyRing s (applyStep n ns s) := by
  obtain ⟨-, -, -, hdram, hregs⟩ := stepMoved_frame n ns s
  obtain ⟨-, hdram', -, hregs'⟩ := stepAligned_frame n n ns (stepMoved n ns s)
  refine ⟨hregs.trans (applyStep_rest n ns s), ?_⟩
  have hcount := (hregs.trans hregs').trans (OnlyRegs.incF _ (timCnt n 3))
  have hdram'' : ((stepAligned n ns (stepMoved n ns s)).incF (timCnt n 3)).dram = s.dram := hdram'.trans hdram
  rw [applyStep_eq]
  refine OnlyRing.notify_of_dram hdram'' (hcount _ ?_) (hcount _ ?_) _ _ _ _ <;>
  · simp only [List.cons_append, List.nil_append, List.mem_cons, List.not_mem_nil, or_false, timCnt, F.TIM_CNT_COUNT]
    omega

theorem applyStep_time (n : Fin 2) (ns : Int) (s : State) :
    (applyStep n ns s).domain n = { s.domain n with t := (((s.domain n).t : Int) + ns * 2 ^ 32).toNat, epoch := ((s.domain n).epoch + 1) % 65536, armed := none } ∧
      (applyStep n ns s).domain (1 - n.val) = s.domain (1 - n.val) ∧
      (applyStep n ns s).time.ofs = if selDomain s = n.val then toSigned 64 (ofSigned 64 (s.time.ofs + ns)) else s.time.ofs := by
  obtain ⟨hdomain, hother, hofs, -, hregs⟩ := stepMoved_frame n ns s
  have hsel : selDomain (stepMoved n ns s) = selDomain s := hregs.getF (by
    simp only [List.mem_cons, List.not_mem_nil, or_false]
    omega)
  have hkept (k : Nat) : (applyStep n ns s).domain k = (stepMoved n ns s).domain k := by
    rw [applyStep_eq, domain_notify, State.domain_incF]
    exact (stepAligned_frame n k ns _).1
  refine ⟨(hkept n).trans hdomain, (hkept _).trans hother, ?_⟩
  rw [applyStep_eq, notify_time, State.incF_time, stepAligned, hsel, hofs]
  split
  · rw [setOfs_time]
  · exact hofs

theorem applyStep_fields (n : Fin 2) (ns : Int) (s : State) :
    (applyStep n ns s).getF (F.TIM_D_STEP_STATUS_STATE n) = 1 ∧ (applyStep n ns s).getF ⟨0x140020, 4 + n, 4 + n⟩ = 0 ∧
      (applyStep n ns s).getF (timCnt n 3) = (s.getF (timCnt n 3) + 1) % 2 ^ 32 := by
  obtain ⟨hstate, harm⟩ := stepMoved_fields n ns s
  obtain ⟨-, -, -, -, hregs⟩ := stepMoved_frame n ns s
  obtain ⟨-, -, -, hregs'⟩ := stepAligned_frame n n ns (stepMoved n ns s)
  have hcount : (stepAligned n ns (stepMoved n ns s)).getF (timCnt n 3) = s.getF (timCnt n 3) := (hregs.trans hregs').getF (by
    simp only [List.cons_append, List.nil_append, List.mem_cons, List.not_mem_nil, or_false, timCnt, F.TIM_CNT_COUNT]
    omega)
  refine ⟨((applyStep_rest n ns s).getF ?_).trans hstate, ((applyStep_rest n ns s).getF ?_).trans harm, ?_⟩
  · simp only [noticeRegs, List.cons_append, List.nil_append, List.mem_cons, List.not_mem_nil, or_false]
    omega
  · simp only [noticeRegs, List.cons_append, List.nil_append, List.mem_cons, List.not_mem_nil, or_false]
    omega
  · rw [applyStep_eq, notify_getF, ← hcount]
    · exact State.getF_incF_counter _ _
    · simp only [List.mem_cons, List.not_mem_nil, or_false, timCnt, F.TIM_CNT_COUNT]
      omega

/-- A step in the domain: refused, with NS as it was and STATE 3 (R420). -/
theorem stepRefused_frame {m : Master} (n : Fin 2) (w : Word) (s : State) :
    let t := ignored m (0x14012C + 256 * n.val) (stepState n 3 ((stepTaken n w s).setF (F.TIM_D_STEP_NS_NS n) (s.getF (F.TIM_D_STEP_NS_NS n))))
    t.domain n = { s.domain n with armed := none } ∧ t.domain (1 - n.val) = s.domain (1 - n.val) ∧ t.time.ofs = s.time.ofs ∧ t.getF (F.TIM_D_STEP_STATUS_STATE n) = 3 ∧
      t.getF ⟨0x140020, 4 + n, 4 + n⟩ = 0 ∧ OnlyRegs [0x8, 0x14012C + 256 * n.val, 0x140130 + 256 * n.val, 0x140020] s t := by
  intro t
  obtain ⟨hregs, -, hofs, -⟩ := stepTaken_frame n w s
  obtain ⟨hstate, harm, htime, -⟩ := stepState_fields n (st := 3) (by decide) ((stepTaken n w s).setF (F.TIM_D_STEP_NS_NS n) (s.getF (F.TIM_D_STEP_NS_NS n)))
  have hnone : ((stepTaken n w s).setF (F.TIM_D_STEP_NS_NS n) (s.getF (F.TIM_D_STEP_NS_NS n))).domain n = { s.domain n with armed := none } :=
    (State.domain_setF ..).trans (stepTaken_domain ..)
  rw [hnone] at harm
  have hlow := OnlyRegs.ignored m (0x14012C + 256 * n.val) (stepState n 3 ((stepTaken n w s).setF (F.TIM_D_STEP_NS_NS n) (s.getF (F.TIM_D_STEP_NS_NS n))))
  refine ⟨?_, ?_, ?_, (hlow.getF ?_).trans hstate, (hlow.getF (by simp)).trans harm, ?_⟩
  · exact (domain_ignored ..).trans ((State.domain_of_time htime n).trans hnone)
  · exact (domain_ignored ..).trans ((State.domain_of_time htime _).trans ((State.domain_setF ..).trans (stepTaken_other ..)))
  · exact (congrArg Time.ofs (ignored_time ..)).trans ((congrArg Time.ofs htime).trans hofs)
  · simp only [List.mem_singleton]
    omega
  · refine (((hregs.trans (OnlyRegs.setF _ (F.TIM_D_STEP_NS_NS n) _)).trans (OnlyRegs.stepState n 3 _)).trans hlow).mono ?_
    simp only [List.cons_append, List.nil_append, List.cons_subset, List.nil_subset, List.mem_cons, true_or, or_true, and_self]

/-- A step back beyond the limit, armed (R420). -/
theorem stepArmed_frame (n : Fin 2) (w : Word) (s : State) :
    let t := notify N.STEP_ARMED scOk 0 (n * 2 ^ 16) (stepState n 2 ((stepTaken n w s).updDomain n fun d => { d with armed := some (stepSpan n w s, s.clk.slot) }))
    t.domain n = { s.domain n with armed := some (stepSpan n w s, s.clk.slot) } ∧ t.domain (1 - n.val) = s.domain (1 - n.val) ∧ t.time.ofs = s.time.ofs ∧
      t.getF (F.TIM_D_STEP_STATUS_STATE n) = 2 ∧ t.getF ⟨0x140020, 4 + n, 4 + n⟩ = 1 ∧
        OnlyRegs ([0x14012C + 256 * n.val, 0x140130 + 256 * n.val, 0x140020] ++ noticeRegs) s t ∧ OnlyRing s t := by
  intro t
  obtain ⟨hregs, hdram, hofs, -⟩ := stepTaken_frame n w s
  obtain ⟨hstate, harm, htime, hdram'⟩ := stepState_fields n (st := 2) (by decide)
    ((stepTaken n w s).updDomain n fun d => { d with armed := some (stepSpan n w s, s.clk.slot) })
  have hdomain : ((stepTaken n w s).updDomain n fun d => { d with armed := some (stepSpan n w s, s.clk.slot) }).domain n =
      { s.domain n with armed := some (stepSpan n w s, s.clk.slot) } := by rw [State.domain_updDomain, stepTaken_domain]
  rw [hdomain] at harm
  have hsteps := (hregs.trans (OnlyRegs.updDomain _ n fun d => { d with armed := some (stepSpan n w s, s.clk.slot) })).trans (OnlyRegs.stepState n 2 _)
  have hout : 0x40 ∉ [0x14012C + 256 * n.val, 0x140130 + 256 * n.val, 0x140020] ∧ 0x44 ∉ [0x14012C + 256 * n.val, 0x140130 + 256 * n.val, 0x140020] := by
    constructor <;>
    · simp only [List.mem_cons, List.not_mem_nil, or_false]
      omega
  refine ⟨?_, ?_, ?_, ?_, ?_, hsteps.trans (OnlyRegs.notify _ _ _ _ _), ?_⟩
  · exact (domain_notify ..).trans ((State.domain_of_time htime n).trans hdomain)
  · exact (domain_notify ..).trans ((State.domain_of_time htime _).trans ((State.domain_updDomain_other ..).trans (stepTaken_other ..)))
  · exact (congrArg Time.ofs (notify_time ..)).trans ((congrArg Time.ofs htime).trans ((State.updDomain_ofs ..).trans hofs))
  · exact (notify_getF (domainReg_not_notice n (by decide))).trans hstate
  · exact (notify_getF (by simp)).trans harm
  · exact OnlyRing.notify_of_dram (hdram'.trans ((State.updDomain_dram ..).trans hdram)) (hsteps _ hout.1) (hsteps _ hout.2) _ _ _ _

theorem exec_timStep {m : Master} {n : Fin 2} {w : Word} (hcore : s.clk.core = true) (hmode : s.mode = stAutonomous) :
    exec (.timStep dt m n w) s = .next (writeStepNs m n w (s.elapse dt)) := congrArg Host.Outcome.next (gatedWrite_runs hcore hmode)

/-- An armed step that has expired. -/
theorem voidArm_armed {n : Fin 2} {v : Int} {x : Nat} (harm : (s.domain n).armed = some (v, x)) :
    (voidArm n s).domain n = { s.domain n with armed := none } ∧ (voidArm n s).domain (1 - n.val) = s.domain (1 - n.val) ∧
      (voidArm n s).getF (F.TIM_D_STEP_STATUS_STATE n) = 0 ∧ (voidArm n s).getF ⟨0x140020, 4 + n, 4 + n⟩ = 0 ∧
      OnlyRegs [0x140130 + 256 * n.val, 0x140020] s (voidArm n s) := by
  unfold voidArm
  rw [if_pos (by rw [harm]; rfl)]
  refine ⟨State.domain_updDomain .., State.domain_updDomain_other .., ?_, ?_, ?_⟩
  · exact State.getF_setF_of_lt _ (by simp) (by simp) (by simp)
  · refine (State.getF_setF_ne _ _ ?_).trans (State.getF_setF_of_lt _ le_rfl (show 4 + n.val < 32 by omega) (Nat.two_pow_pos _))
    show 0x140020 ≠ 0x140130 + 256 * n.val
    omega
  · refine (((OnlyRegs.updDomain s n _).trans (OnlyRegs.setF _ ⟨0x140020, 4 + n, 4 + n⟩ 0)).trans (OnlyRegs.setF _ (F.TIM_D_STEP_STATUS_STATE n) 0)).mono ?_
    simp only [List.cons_append, List.nil_append, List.cons_subset, List.nil_subset, List.mem_cons, true_or, or_true, and_self]

theorem exec_stepArmExpire {n : Fin 2} {v : Int} {x : Nat} (hrun : s.clk.running = true) (harm : (s.domain n).armed = some (v, x)) (hend : x + sec ≤ (s.elapse dt).clk.slot) :
    exec (.stepArmExpire dt n) s = .next (voidArm n (s.elapse dt)) := by
  change execStepArmExpire dt n s = _
  unfold execStepArmExpire
  simp only [State.elapse_armed, harm, if_neg (elapse_runs hrun), if_pos hend]

/-! The offset's command (R423) and the comparison (R430). -/

theorem exec_clrOfs {m : Master} {w : Word} (hcore : s.clk.core = true) (hmode : s.mode = stAutonomous) :
    exec (.clrOfs dt m w) s = .next (writeTimCmd m w (s.elapse dt)) := congrArg Host.Outcome.next (gatedWrite_runs hcore hmode)

theorem writeTimCmd_owned {m : Master} {w : Word} (howns : s.owns m = true) : writeTimCmd m w s = if bitsOf w 0 0 = 1 then setOfs 0 s else s :=
  if_neg (by rw [howns]; decide)

theorem writeTimCmd_foreign {m : Master} {w : Word} (howns : s.owns m = false) : writeTimCmd m w s = ignored m 0x14000C s := if_pos (by rw [howns]; rfl)

/-- What the comparison of the domains does. -/
def domainsCompared (s : State) : State :=
  let diff : Int := (s.time.d0.t : Int) - s.time.d1.t
  let thr := s.getF F.TIM_DIV_CFG_THRESH_NS
  if s.getF F.TIM_STATUS_DIVERGE_LIVE = 1 then if 2 * diff.natAbs ≤ thr * 2 ^ 32 then s.setF F.TIM_STATUS_DIVERGE_LIVE 0 else s
  else if thr * 2 ^ 32 < diff.natAbs then
    notify N.DOM_DIVERGE scOk 0 (ofSigned 32 (sat32s (diff.tdiv (2 ^ 32)))) ((s.setF F.TIM_STATUS_DIVERGE_LIVE 1).setF F.TIM_STATUS_DIVERGE 1)
  else s

theorem exec_domainCompare (hrun : timRuns s = true) (hen : s.getF F.TIM_DIV_CFG_EN = 1) : exec (.domainCompare dt) s = .next (domainsCompared (s.elapse dt)) := by
  refine (if_neg (by rw [elapse_timRuns, hrun]; decide)).trans ((if_neg (by rw [State.elapse_getF, hen]; decide)).trans ?_)
  unfold domainsCompared
  by_cases hlive : (s.elapse dt).getF F.TIM_STATUS_DIVERGE_LIVE = 1
  · rw [if_pos hlive, if_pos hlive]
  · rw [if_neg hlive, if_neg hlive]
    exact (apply_ite Host.Outcome.next _ _ _).symm

theorem domainsCompared_apart (hlive : s.getF F.TIM_STATUS_DIVERGE_LIVE = 0) :
    let gap := ((s.time.d0.t : Int) - s.time.d1.t).natAbs
    let thr := s.getF F.TIM_DIV_CFG_THRESH_NS * 2 ^ 32
    (domainsCompared s).time = s.time ∧ OnlyRegs (0x140020 :: noticeRegs) s (domainsCompared s) ∧ OnlyRing s (domainsCompared s) ∧
      (domainsCompared s).getF F.TIM_STATUS_DIVERGE_LIVE = (if thr < gap then 1 else 0) ∧ (thr < gap → (domainsCompared s).getF F.TIM_STATUS_DIVERGE = 1) ∧
        (gap ≤ thr → OnlyRegs [] s (domainsCompared s)) := by
  intro gap thr
  unfold domainsCompared
  rw [if_neg (by rw [hlive]; decide)]
  by_cases hgap : thr < gap
  · rw [if_pos hgap, if_pos hgap]
    have hset : OnlyRegs [0x140020] s ((s.setF F.TIM_STATUS_DIVERGE_LIVE 1).setF F.TIM_STATUS_DIVERGE 1) :=
      ((OnlyRegs.setF s F.TIM_STATUS_DIVERGE_LIVE 1).trans (OnlyRegs.setF _ F.TIM_STATUS_DIVERGE 1)).mono (by decide)
    obtain ⟨hregs, hring, -⟩ := noticed_frame hset (by decide) rfl rfl N.DOM_DIVERGE scOk 0 (ofSigned 32 (sat32s (((s.time.d0.t : Int) - s.time.d1.t).tdiv (2 ^ 32))))
    refine ⟨notify_time .., hregs, hring, ?_, fun _ => ?_, fun hle => absurd hgap (Nat.not_lt.2 hle)⟩
    · exact (notify_getF (by decide)).trans ((State.getF_setF_disj _ _ (by decide) (by decide) (by decide)).trans (State.getF_setF _ _ (by decide) (by decide)))
    · exact (notify_getF (by decide)).trans (State.getF_setF _ _ (by decide) (by decide))
  · rw [if_neg hgap, if_neg hgap]
    exact ⟨rfl, OnlyRegs.of_regs _ rfl, fun _ _ => rfl, hlive, fun h => absurd h hgap, fun _ => OnlyRegs.of_regs _ rfl⟩

theorem domainsCompared_close (hlive : s.getF F.TIM_STATUS_DIVERGE_LIVE = 1) :
    let gap := ((s.time.d0.t : Int) - s.time.d1.t).natAbs
    let thr := s.getF F.TIM_DIV_CFG_THRESH_NS * 2 ^ 32
    (domainsCompared s).time = s.time ∧ OnlyRegs [0x140020] s (domainsCompared s) ∧ (domainsCompared s).dram = s.dram ∧
      (domainsCompared s).getF F.TIM_STATUS_DIVERGE_LIVE = if 2 * gap ≤ thr then 0 else 1 := by
  intro gap thr
  unfold domainsCompared
  rw [if_pos hlive]
  by_cases hgap : 2 * gap ≤ thr
  · rw [if_pos hgap, if_pos hgap]
    exact ⟨rfl, OnlyRegs.setF s F.TIM_STATUS_DIVERGE_LIVE 0, rfl, State.getF_setF _ _ (by decide) (by decide)⟩
  · rw [if_neg hgap, if_neg hgap]
    exact ⟨rfl, OnlyRegs.of_regs _ rfl, rfl, hlive⟩

/-- A write of STEP_NS with GO, by the four conditions. -/
theorem timStep_go {m : Master} {w : Word} (n : Fin 2) (howns : s.owns m = true) (hgo : bitsOf w 31 31 = 1) :
    let t := writeStepNs m n w s
    (StepBad n w s → t.domain n = { s.domain n with armed := none } ∧ t.domain (1 - n.val) = s.domain (1 - n.val) ∧ t.time.ofs = s.time.ofs ∧
      t.getF (F.TIM_D_STEP_STATUS_STATE n) = 3 ∧ t.getF ⟨0x140020, 4 + n, 4 + n⟩ = 0 ∧ OnlyRegs [0x8, 0x14012C + 256 * n.val, 0x140130 + 256 * n.val, 0x140020] s t) ∧
    (¬StepBad n w s → StepFar n w s → stepAgain n w s = false →
      t.domain n = { s.domain n with armed := some (stepSpan n w s, s.clk.slot) } ∧ t.domain (1 - n.val) = s.domain (1 - n.val) ∧ t.time.ofs = s.time.ofs ∧
      t.getF (F.TIM_D_STEP_STATUS_STATE n) = 2 ∧ t.getF ⟨0x140020, 4 + n, 4 + n⟩ = 1 ∧
        OnlyRegs ([0x14012C + 256 * n.val, 0x140130 + 256 * n.val, 0x140020] ++ noticeRegs) s t ∧ OnlyRing s t) ∧
    (¬StepBad n w s → (¬StepFar n w s ∨ stepAgain n w s = true) →
      t.domain n = { s.domain n with t := (stepTarget n w s).toNat, epoch := ((s.domain n).epoch + 1) % 65536, armed := none } ∧
      t.domain (1 - n.val) = s.domain (1 - n.val) ∧
      t.time.ofs = (if selDomain s = n.val then toSigned 64 (ofSigned 64 (s.time.ofs + stepSpan n w s)) else s.time.ofs) ∧
      t.getF (F.TIM_D_STEP_STATUS_STATE n) = 1 ∧ t.getF ⟨0x140020, 4 + n, 4 + n⟩ = 0 ∧ t.getF (timCnt n 3) = (s.getF (timCnt n 3) + 1) % 2 ^ 32 ∧
        OnlyRegs ([0x14012C + 256 * n.val, 0x140130 + 256 * n.val, 0x140020, 0x140010, 0x140014, 0x14008C + 16 * n.val] ++ noticeRegs) s t ∧ OnlyRing s t) := by
  intro t
  have ht : t = _ := writeStepNs_go n howns hgo
  refine ⟨fun hbad => ?_, fun hbad hfar hagain => ?_, fun hbad happly => ?_⟩
  · rw [if_pos hbad] at ht
    rw [ht]
    exact stepRefused_frame n w s
  · rw [if_neg hbad, if_pos ⟨hfar, hagain⟩] at ht
    rw [ht]
    exact stepArmed_frame n w s
  · have hnot : ¬(StepFar n w s ∧ stepAgain n w s = false) := fun h => happly.elim (· h.1) fun ha => Bool.noConfusion (ha.symm.trans h.2)
    rw [if_neg hbad, if_neg hnot] at ht
    rw [ht]
    obtain ⟨hregs, hdram, hofs, -⟩ := stepTaken_frame n w s
    obtain ⟨hdomain, hother, hofs'⟩ := applyStep_time n (stepSpan n w s) (stepTaken n w s)
    obtain ⟨hstate, harm, hcount⟩ := applyStep_fields n (stepSpan n w s) (stepTaken n w s)
    obtain ⟨hregs', hring⟩ := applyStep_frame n (stepSpan n w s) (stepTaken n w s)
    have hsel : selDomain (stepTaken n w s) = selDomain s := hregs.getF (by
      simp only [List.mem_singleton]
      omega)
    have hcnt : (stepTaken n w s).getF (timCnt n 3) = s.getF (timCnt n 3) := hregs.getF (by
      simp only [List.mem_singleton, timCnt, F.TIM_CNT_COUNT]
      omega)
    have hlow (a : Nat) (ha : a < 0x140000) : (stepTaken n w s).reg a = s.reg a := hregs a (by
      simp only [List.mem_singleton]
      omega)
    rw [stepTaken_domain] at hdomain
    rw [hsel, hofs] at hofs'
    rw [hcnt] at hcount
    refine ⟨hdomain, hother.trans (stepTaken_other n w s), hofs', hstate, harm, hcount, hregs.trans hregs', fun a ha => ?_⟩
    exact (hring a (mt (inNoticeRing_congr (hlow 0x40 (by decide)) (hlow 0x44 (by decide))).1 ha)).trans (State.byte_of_dram hdram a)

/-- Settles O53: each command is put down to its effect on the running state, and the effect's fields and frame are read off. -/
theorem timeDomains : Obligations.TimeDomains := by
  intro dt s hrun hcore hmode e d armBit other
  have howned (m : Master) (h : s.owns m = true) : e.owns m = true := (elapse_owns s dt m).trans h
  have hforeign (m : Master) (h : s.owns m = false) : e.owns m = false := (elapse_owns s dt m).trans h
  have hd (n : Fin 2) (k : Nat) : d n k = 0x140100 + k + 256 * n.val := by
    dsimp only [d]
    omega
  simp only [hd, Nat.reduceAdd]
  refine ⟨fun m n w => ?_, fun n hoff hend => ⟨_, exec_holdover hrun hmode hoff hend, heldOver_frame n e⟩, fun m n w => ?_, fun n v x harm hend => ?_, fun m w => ?_, fun hen => ?_⟩
  · refine ⟨fun howns hinc => ⟨_, exec_timIncWrite hcore hmode, ?_⟩, fun h => ⟨_, exec_timIncWrite hcore hmode, ?_⟩⟩
    · rw [writeIncHi_owned (howned m howns) hinc]
      obtain ⟨hdomain, hhi, hheld, hdram⟩ := incWritten_fields n (s.getF (F.TIM_D_INC_LO_INC n) + bitsOf w 2 0 * 2 ^ 32) (bitsOf_lt_two_pow w 2 0) e
      exact ⟨hdomain, State.domain_updDomain_other .., hhi, hheld, OnlyRegs.incWritten n _ _ e, hdram⟩
    · rw [writeIncHi_refused (h.imp (hforeign m) id)]
      exact ignored_frame m _ e
  · refine ⟨fun howns => ⟨_, exec_timStep hcore hmode, ?_⟩, fun howns hgo => ⟨_, exec_timStep hcore hmode, ?_⟩, fun howns hgo => ?_⟩
    · rw [writeStepNs_foreign n (hforeign m howns)]
      exact ⟨ignored_time .., OnlyRegs.ignored _ _ e⟩
    · rw [writeStepNs_kept n (howned m howns) hgo]
      exact ⟨rfl, State.getF_setF_of_lt _ (by simp) (by simp) (bitsOf_lt_two_pow w 29 0), OnlyRegs.setF e (F.TIM_D_STEP_NS_NS n) _⟩
    · obtain ⟨hrefused, harmed, happlied⟩ := timStep_go n (howned m howns) hgo
      have hagain : stepAgain n w e = match (s.domain n).armed with
          | some (v, x) => decide (v = stepSpan n w e) && decide (e.clk.slot < x + sec)
          | none => false := by
        unfold stepAgain
        rw [State.elapse_armed]
      refine ⟨fun hbad => ⟨_, exec_timStep hcore hmode, hrefused hbad⟩, fun hbad hfar h => ⟨_, exec_timStep hcore hmode, harmed hbad hfar (hagain.trans h)⟩, fun hbad h => ?_⟩
      have hmoved := happlied hbad (h.imp id hagain.trans)
      rw [State.elapse_epoch] at hmoved
      exact ⟨_, exec_timStep hcore hmode, hmoved⟩
  · exact ⟨_, exec_stepArmExpire hrun harm hend, voidArm_armed ((State.elapse_armed s dt n).trans harm)⟩
  · refine ⟨fun howns hclr => ⟨_, exec_clrOfs hcore hmode, ?_⟩, fun howns hclr => ⟨_, exec_clrOfs hcore hmode, ?_⟩, fun howns => ⟨_, exec_clrOfs hcore hmode, ?_⟩⟩
    · rw [writeTimCmd_owned (howned m howns), if_pos hclr]
      exact ⟨setOfs_time 0 e, (setOfs_zero_regs e).1, (setOfs_zero_regs e).2, OnlyRegs.setOfs 0 e⟩
    · rw [writeTimCmd_owned (howned m howns), if_neg (by rw [hclr]; decide)]
      exact ⟨rfl, OnlyRegs.of_regs _ rfl⟩
    · rw [writeTimCmd_foreign (hforeign m howns)]
      exact ⟨ignored_time .., OnlyRegs.ignored _ _ e⟩
  · have hexec := exec_domainCompare (dt := dt) (timRuns_of_autonomous hrun hmode) hen
    exact ⟨fun hlive => ⟨_, hexec, domainsCompared_apart (s := e) hlive⟩, fun hlive => ⟨_, hexec, domainsCompared_close (s := e) hlive⟩⟩

end
end Sys2Proof.Machine

/-! SUPPORT. Timestamps, the exchanges of IEEE 1588 and the pulses (R425 to R432). -/

namespace Sys2Proof.Machine

section
variable {dt : Nat} {s t u : State}

/-! The TSU ring (R427). -/

theorem tsuRecord_length (port : Nat) (tx oneStep : Bool) (p : PtpMsg) (s : State) : (tsuRecord port tx oneStep p s).length = 64 := by
  simp only [tsuRecord, List.length_append, length_leBytes, List.length_cons, List.length_nil]

/-- The ring is full. -/
abbrev TsuFull (s : State) : Prop := (s.getF F.TSU_RING_WR_COUNT + 2 ^ 32 - s.getF F.TSU_RING_RD_COUNT) % 2 ^ 32 = tsuSize s

/-- The address of the record that WR names. -/
def tsuSlot (s : State) : Nat := s.getF F.TSU_RING_BASE_BASE / (64 * tsuSize s) * (64 * tsuSize s) + 64 * (s.getF F.TSU_RING_WR_COUNT % tsuSize s)

/-- A record at its place, with WR. -/
def tsuPut (rec : List Byte) (s : State) : State := (s.setBytes (tsuSlot s) rec).incF F.TSU_RING_WR_COUNT

/-- A record lost. -/
def tsuMissed (s : State) : State := s.satF F.TSU_LOST_LOST 1

theorem tsuWrite_room {rec : List Byte} (hen : s.getF F.TSU_RING_CTRL_EN = 1) (hroom : ¬TsuFull s) :
    tsuWrite rec s = { tsuPut rec s with time := { s.time with tsuLost := false } } := by
  refine (if_neg (by rw [hen]; decide)).trans ((if_neg (mt beq_iff_eq.1 hroom)).trans ?_)
  have htime : (s.setBytes (tsuSlot s) rec).time = s.time := by
    obtain ⟨d, m, h⟩ := State.setBytes_parts s (tsuSlot s) rec
    rw [h]
  exact congrArg (fun x => { tsuPut rec s with time := { x with tsuLost := false } }) htime

theorem tsuWrite_full {rec : List Byte} (hen : s.getF F.TSU_RING_CTRL_EN = 1) (hfull : TsuFull s) :
    tsuWrite rec s = if s.time.tsuLost then tsuMissed s
      else notify N.TSU_LOST scOk 0 ((tsuMissed s).getF F.TSU_LOST_LOST) { tsuMissed s with time := { s.time with tsuLost := true } } :=
  (if_neg (by rw [hen]; decide)).trans (if_pos (beq_iff_eq.2 hfull))

/-- A record put into the ring: its bytes, and WR. -/
theorem tsuPut_frame {rec : List Byte} (hlen : rec.length = 64) :
    (tsuPut rec s).getF F.TSU_RING_WR_COUNT = (s.getF F.TSU_RING_WR_COUNT + 1) % 2 ^ 32 ∧ OnlyRegs [0x148018] s (tsuPut rec s) ∧
      (∀ b : Nat, b < tsuSlot s ∨ tsuSlot s + 64 ≤ b → (tsuPut rec s).byte b = s.byte b) ∧ ∀ k < 64, (tsuPut rec s).byte (tsuSlot s + k) = rec.getD k 0 := by
  have hregs := State.regs_setBytes s (tsuSlot s) rec
  have haligned : tsuSlot s % 8 = 0 := by
    have h : tsuSlot s = 8 * (8 * (s.getF F.TSU_RING_BASE_BASE / (64 * tsuSize s) * tsuSize s + s.getF F.TSU_RING_WR_COUNT % tsuSize s)) := by
      unfold tsuSlot
      ring
    rw [h]
    exact Nat.mul_mod_right 8 _
  refine ⟨?_, (OnlyRegs.of_regs [] hregs).trans (OnlyRegs.incF _ F.TSU_RING_WR_COUNT), fun b hb => ?_, fun k hk => ?_⟩
  · refine (State.getF_incF_counter 0x148018 _).trans ?_
    rw [State.getF_of_regs hregs]
  · exact State.byte_setBytes_ne (by rw [hlen]; exact hb)
  · exact State.byte_setBytes haligned (by rw [hlen]) (by rw [hlen]; exact hk)

theorem tsuMissed_lost : (tsuMissed s).getF F.TSU_LOST_LOST = min (s.getF F.TSU_LOST_LOST + 1) (2 ^ 32 - 1) :=
  State.getF_setF_of_lt _ (by decide) (by decide) (show min _ (2 ^ 32 - 1) < 2 ^ 32 by omega)

/-- A record lost in a full ring: the count, and TSU_LOST once. -/
theorem tsuWrite_lost {rec : List Byte} (hen : s.getF F.TSU_RING_CTRL_EN = 1) (hfull : TsuFull s) :
    (tsuWrite rec s).getF F.TSU_LOST_LOST = min (s.getF F.TSU_LOST_LOST + 1) (2 ^ 32 - 1) ∧ (tsuWrite rec s).time.tsuLost = true ∧
      OnlyRegs (0x148020 :: noticeRegs) s (tsuWrite rec s) ∧ OnlyRing s (tsuWrite rec s) := by
  have hcount : OnlyRegs [0x148020] s (tsuMissed s) := OnlyRegs.setF s F.TSU_LOST_LOST _
  rw [tsuWrite_full hen hfull]
  split
  next hlost => exact ⟨tsuMissed_lost, hlost, hcount.mono (by decide), fun _ _ => rfl⟩
  next =>
    obtain ⟨hregs, hring, -⟩ := noticed_frame (u := { tsuMissed s with time := { s.time with tsuLost := true } })
      (hcount.trans (OnlyRegs.of_regs [] rfl)) (by decide) rfl rfl N.TSU_LOST scOk 0 ((tsuMissed s).getF F.TSU_LOST_LOST)
    exact ⟨(notify_getF (by decide)).trans tsuMissed_lost, congrArg Time.tsuLost (notify_time ..), hregs, hring⟩

/-! A state that differs from another one in the ring, or in the other domain, gives an exchange the same answers. -/

/-- The exchange of domain `n` reads the same from `t` as from `s`. -/
structure ExchangeSame (n : Nat) (s t : State) : Prop where
  clk : t.clk = s.clk
  domain : t.domain n = s.domain n
  reg : ∀ a, 0x140000 ≤ a → a < 0x141000 → t.reg a = s.reg a

theorem ExchangeSame.refl (n : Nat) (s : State) : ExchangeSame n s s := ⟨rfl, rfl, fun _ _ _ => rfl⟩

theorem ExchangeSame.trans {n : Nat} (h : ExchangeSame n s t) (h' : ExchangeSame n t u) : ExchangeSame n s u :=
  ⟨h'.clk.trans h.clk, h'.domain.trans h.domain, fun a ha ha' => (h'.reg a ha ha').trans (h.reg a ha ha')⟩

theorem ExchangeSame.of_parts {n : Nat} (hclk : t.clk = s.clk) (h0 : t.time.d0 = s.time.d0) (h1 : t.time.d1 = s.time.d1)
    (hreg : ∀ a, 0x140000 ≤ a → a < 0x141000 → t.reg a = s.reg a) : ExchangeSame n s t :=
  ⟨hclk, by rw [State.domain, State.domain, h0, h1], hreg⟩

theorem tsuWrite_same (n : Nat) (rec : List Byte) (s : State) : ExchangeSame n s (tsuWrite rec s) := by
  have hmissed (a : Nat) (ha : 0x140000 ≤ a) (ha' : a < 0x141000) : (tsuMissed s).reg a = s.reg a := State.reg_satF_ne s 1 (show a ≠ 0x148020 by omega)
  unfold tsuWrite
  dsimp only
  split
  · exact .refl n s
  · split
    · split
      · exact .of_parts rfl rfl rfl hmissed
      · refine .of_parts (notify_clk ..) (by rw [notify_time]; rfl) (by rw [notify_time]; rfl) fun a ha ha' => (notify_reg ?_).trans (hmissed a ha ha')
        simp only [List.mem_cons, List.not_mem_nil, or_false]
        omega
    · obtain ⟨d, m, h⟩ := State.setBytes_parts s (tsuSlot s) rec
      have hput : tsuPut rec s = State.incF { s with dram := d, mem := m } F.TSU_RING_WR_COUNT := congrArg (State.incF · F.TSU_RING_WR_COUNT) h
      change ExchangeSame n s { tsuPut rec s with time := { (tsuPut rec s).time with tsuLost := false } }
      rw [hput]
      exact .of_parts rfl rfl rfl fun a ha ha' => State.reg_incF_ne _ (show a ≠ 0x148018 by omega)

theorem ExchangeSame.getF {n : Nat} (h : ExchangeSame n s t) {a hi lo : Nat} (ha : 0x140000 ≤ a) (ha' : a < 0x141000) : t.getF ⟨a, hi, lo⟩ = s.getF ⟨a, hi, lo⟩ :=
  State.getF_of_reg (h.reg a ha ha')

theorem ptpFor_congr (n : Fin 2) (port : Nat) (p : PtpMsg) (rx : Bool) (h : ∀ a, 0x140140 + 256 * n.val ≤ a → a < 0x140150 + 256 * n.val → t.reg a = s.reg a) :
    ptpFor n port p rx t = ptpFor n port p rx s := by
  have hgetF (a hi lo : Nat) (ha : 0x140140 + 256 * n.val ≤ a) (ha' : a < 0x140150 + 256 * n.val) : t.getF ⟨a, hi, lo⟩ = s.getF ⟨a, hi, lo⟩ :=
    State.getF_of_reg (h a ha ha')
  simp only [ptpFor, masterSpid, hgetF (0x140140 + 256 * n.val) _ _ (by omega) (by omega), hgetF (0x140144 + 256 * n.val) _ _ (by omega) (by omega),
    hgetF (0x140148 + 256 * n.val) _ _ (by omega) (by omega), hgetF (0x14014C + 256 * n.val) _ _ (by omega) (by omega)]

theorem ExchangeSame.ptpFor {k : Nat} (h : ExchangeSame k s t) (n : Fin 2) (port : Nat) (p : PtpMsg) (rx : Bool) : ptpFor n port p rx t = Machine.ptpFor n port p rx s :=
  ptpFor_congr n port p rx fun a ha ha' => h.reg a (by omega) (by omega)

/-! A message changes its own domain alone (R428). -/

theorem State.updDomain_id (s : State) (n : Nat) : s.updDomain n (fun d => d) = s := by
  unfold State.updDomain State.setDomain State.domain
  by_cases h : n = 0 <;> simp only [h, if_true, if_false]

@[simp] theorem State.updDomain_tsuLost (s : State) (n : Nat) (f : Domain → Domain) : (s.updDomain n f).time.tsuLost = s.time.tsuLost := by
  unfold State.updDomain State.setDomain
  split <;> rfl

theorem ptpEvent_updates (n port : Nat) (tx : Bool) (p : PtpMsg) (s : State) : ∃ f, ptpEvent n port tx p s = s.updDomain n f := by
  have hnone : ∃ f, s = s.updDomain n f := ⟨_, (State.updDomain_id s n).symm⟩
  unfold ptpEvent
  dsimp only
  repeat' split
  all_goals first | exact hnone | exact ⟨_, rfl⟩

/-- An event message in both exchanges. -/
def ptpEvents (port : Nat) (tx : Bool) (p : PtpMsg) (s : State) : State := ptpEvent 1 port tx p (ptpEvent 0 port tx p s)

theorem ptpEvents_frame (port : Nat) (tx : Bool) (p : PtpMsg) (s : State) :
    OnlyRegs [] s (ptpEvents port tx p s) ∧ (ptpEvents port tx p s).dram = s.dram ∧ (ptpEvents port tx p s).time.tsuLost = s.time.tsuLost := by
  obtain ⟨f, hf⟩ := ptpEvent_updates 0 port tx p s
  obtain ⟨g, hg⟩ := ptpEvent_updates 1 port tx p (ptpEvent 0 port tx p s)
  rw [ptpEvents, hg, hf]
  exact ⟨(OnlyRegs.updDomain s 0 f).trans (OnlyRegs.updDomain _ 1 g), (State.updDomain_dram ..).trans (State.updDomain_dram ..),
    (State.updDomain_tsuLost ..).trans (State.updDomain_tsuLost ..)⟩

/-- What both exchanges leave of domain `n` is what its own exchange makes of it. -/
theorem ptpEvents_domain (n : Fin 2) (port : Nat) (tx : Bool) (p : PtpMsg) (s : State) :
    ∃ v, ExchangeSame n s v ∧ (ptpEvents port tx p s).domain n = (ptpEvent n port tx p v).domain n := by
  obtain ⟨f, hf⟩ := ptpEvent_updates 0 port tx p s
  obtain ⟨g, hg⟩ := ptpEvent_updates 1 port tx p (ptpEvent 0 port tx p s)
  match n with
  | 0 =>
    refine ⟨s, .refl 0 s, ?_⟩
    rw [ptpEvents, hg]
    exact State.domain_updDomain_ne _ (by decide) g
  | 1 =>
    refine ⟨ptpEvent 0 port tx p s, ?_, rfl⟩
    rw [hf]
    exact ⟨State.updDomain_clk .., State.domain_updDomain_ne s (by decide) f, fun a _ _ => State.reg_updDomain s 0 f a⟩

/-! What each message does in an exchange that it belongs to. -/

section
variable {n : Fin 2} {port : Nat} {tx : Bool} {p : PtpMsg} (hfor : ptpFor n port p (!tx) s = true)
include hfor

theorem ptpEvent_sync (hmsg : p.msg = 0) (htx : tx = false) :
    ((ptpEvent n port tx p s).domain n).sync = some ⟨p.seq.toNat, if p.twoStep then none else some p.body, (s.domain n).ns, p.corr, s.clk.now⟩ ∧
      ((ptpEvent n port tx p s).domain n).req = (s.domain n).req := by
  unfold ptpEvent
  rw [if_neg (by rw [hfor]; decide)]
  dsimp only
  rw [if_pos ⟨hmsg, htx⟩, State.domain_updDomain]
  exact ⟨rfl, rfl⟩

theorem ptpEvent_delayReq (hmsg : p.msg = 1) (htx : tx = true) (hmech : s.getF (F.TIM_D_PTP_CFG_MECH n) = 0) :
    ((ptpEvent n port tx p s).domain n).req.map (fun r => (r.seq, r.sent, r.sync)) = some (p.seq.toNat, (s.domain n).ns, (s.domain n).known) ∧
      ((ptpEvent n port tx p s).domain n).sync = (s.domain n).sync := by
  unfold ptpEvent
  rw [if_neg (by rw [hfor]; decide)]
  dsimp only
  rw [if_neg (by rw [hmsg]; exact fun h => absurd h.1 (by decide)), if_pos ⟨hmsg, htx, by rw [hmech]; rfl⟩, State.domain_updDomain]
  exact ⟨rfl, rfl⟩

theorem ptpEvent_pdelayReq (hmsg : p.msg = 2) (htx : tx = true) (hmech : s.getF (F.TIM_D_PTP_CFG_MECH n) ≠ 0) :
    ((ptpEvent n port tx p s).domain n).req.map (fun r => (r.seq, r.sent, r.answered)) = some (p.seq.toNat, (s.domain n).ns, none) ∧
      ((ptpEvent n port tx p s).domain n).sync = (s.domain n).sync := by
  unfold ptpEvent
  rw [if_neg (by rw [hfor]; decide)]
  dsimp only
  rw [if_neg (by rw [hmsg]; exact fun h => absurd h.1 (by decide)), if_neg (by rw [hmsg]; exact fun h => absurd h.1 (by decide)),
    if_pos ⟨hmsg, htx, by simpa using hmech⟩, State.domain_updDomain]
  exact ⟨rfl, rfl⟩

theorem ptpEvent_pdelayResp (hmsg : p.msg = 3) (htx : tx = false) (hmech : s.getF (F.TIM_D_PTP_CFG_MECH n) ≠ 0) {r : PtpReq} (hreq : (s.domain n).req = some r)
    (hseq : r.seq = p.seq.toNat) :
    ((ptpEvent n port tx p s).domain n).req = some { r with answered := some (p.body, (s.domain n).ns), corr := p.corr } := by
  unfold ptpEvent
  rw [if_neg (by rw [hfor]; decide)]
  dsimp only
  rw [if_neg (by rw [hmsg]; exact fun h => absurd h.1 (by decide)), if_neg (by rw [hmsg]; exact fun h => absurd h.1 (by decide)),
    if_neg (by rw [hmsg]; exact fun h => absurd h.1 (by decide)), if_pos ⟨hmsg, htx, by simpa using hmech⟩, hreq]
  dsimp only
  rw [if_pos hseq, State.domain_updDomain]

end

theorem exec_ptpEventTimestamp {port : Fin 2} {tx : Bool} {p : PtpMsg} (hrun : timRuns s = true) (htakes : tsuTakes port p.transport s = true) (hmsg : p.msg.val ≤ 3) :
    exec (.ptpEventTimestamp dt port tx p) s = .next (ptpEvents port tx p
      (tsuWrite (tsuRecord port tx (tx && p.msg == 0 && s.getF (F.TSU_PORT_CFG_ONE_STEP port) == 1) p (s.elapse dt)) (s.elapse dt))) := by
  have htakes' : tsuTakes port p.transport (s.elapse dt) = true := htakes
  refine (if_neg (by rw [elapse_timRuns, hrun]; decide)).trans (if_pos ?_)
  rw [htakes', decide_eq_true hmsg]
  rfl

theorem exec_ptpEventTimestamp_not {port : Fin 2} {tx : Bool} {p : PtpMsg} (hrun : timRuns s = true) (h : tsuTakes port p.transport s = false ∨ 3 < p.msg.val) :
    exec (.ptpEventTimestamp dt port tx p) s = .next (s.elapse dt) := by
  refine (if_neg (by rw [elapse_timRuns, hrun]; decide)).trans (if_neg ?_)
  rw [Bool.and_eq_true, decide_eq_true_eq]
  rintro ⟨htakes, hle⟩
  exact h.elim (fun h => Bool.noConfusion (h.symm.trans htakes)) (absurd hle ∘ Nat.not_le.2)

/-! An exchange completed (R428, R429). -/

/-- The difference from the previous exchange's MPD. -/
def mpdGap (n : Nat) (mpd : Int) (s : State) : Nat := match (s.domain n).prevMpd with | some q => (mpd - q).natAbs | none => 0

/-- The path has stepped. -/
abbrev PathStepped (n : Nat) (mpd : Int) (s : State) : Prop := s.getF (F.TIM_D_PATH_THRESH_VALUE n) < mpdGap n mpd s

/-- The exchange counted, with its MPD. -/
def exchangeMeasured (n : Nat) (mpd : Int) (s : State) : State := putNs (F.TIM_D_MPD_VALUE n) mpd (s.incF (timCnt n 0))

/-- VALID set, and the request answered. -/
def exchangeValid (n : Nat) (s : State) : State := (s.setF (F.TIM_D_EXCH_STATUS_VALID n) 1).updDomain n fun d => { d with req := none }

/-- SEQ and OFFSET of the Sync that the exchange follows. -/
def syncShown (n : Nat) (y : Option SyncInfo) (s : State) : State :=
  match y with
  | some y => putOffset n y (s.setF (F.TIM_D_EXCH_STATUS_SEQ n) y.seq)
  | none => s

theorem completeExchange_eq (n : Nat) (mpd : Int) (y : Option SyncInfo) (s : State) :
    completeExchange n mpd y s = syncShown n y (exchangeValid n (delayEst n mpd (pathStep n mpd (exchangeMeasured n mpd s)))) := by
  cases y <;> rfl

theorem exchangeMeasured_frame (n : Fin 2) (mpd : Int) (s : State) :
    (exchangeMeasured n mpd s).getF (F.TIM_D_MPD_VALUE n) = ofSigned 32 mpd ∧ (exchangeMeasured n mpd s).getF (timCnt n 0) = (s.getF (timCnt n 0) + 1) % 2 ^ 32 ∧
      OnlyRegs [0x140080 + 16 * n.val, 0x140160 + 256 * n.val] s (exchangeMeasured n mpd s) := by
  refine ⟨State.getF_setF_of_lt _ (by simp) (by simp) (ofSigned_lt 32 mpd), ?_, ?_⟩
  · refine (State.getF_setF_ne _ _ ?_).trans (State.getF_incF_counter (timCnt n 0).addr s)
    simp only [timCnt, F.TIM_CNT_COUNT]
    omega
  · refine ((OnlyRegs.incF s (timCnt n 0)).trans (OnlyRegs.setF _ (F.TIM_D_MPD_VALUE n) (ofSigned 32 mpd))).mono ?_
    simp only [List.cons_append, List.nil_append, List.cons_subset, List.nil_subset, List.mem_cons, List.not_mem_nil, or_false, or_true, and_true, timCnt, F.TIM_CNT_COUNT]
    omega

/-- PATH_STEP and FROZEN set, and the step counted. -/
def pathMarked (n : Nat) (s : State) : State :=
  ((s.setF (F.TIM_D_EXCH_STATUS_PATH_STEP n) 1).setF (F.TIM_D_EXCH_STATUS_FROZEN n) 1).incF (timCnt n 2)

theorem pathMarked_frame (n : Fin 2) (s : State) :
    (pathMarked n s).getF (F.TIM_D_EXCH_STATUS_PATH_STEP n) = 1 ∧ (pathMarked n s).getF (F.TIM_D_EXCH_STATUS_FROZEN n) = 1 ∧
      (pathMarked n s).getF (timCnt n 2) = (s.getF (timCnt n 2) + 1) % 2 ^ 32 ∧ OnlyRegs [0x140170 + 256 * n.val, 0x140088 + 16 * n.val] s (pathMarked n s) := by
  have hstatus := (OnlyRegs.setF s (F.TIM_D_EXCH_STATUS_PATH_STEP n) 1).trans (OnlyRegs.setF _ (F.TIM_D_EXCH_STATUS_FROZEN n) 1)
  have hcount := OnlyRegs.incF ((s.setF (F.TIM_D_EXCH_STATUS_PATH_STEP n) 1).setF (F.TIM_D_EXCH_STATUS_FROZEN n) 1) (timCnt n 2)
  have hout : 0x140170 + 256 * n.val ∉ [(timCnt n 2).addr] := by
    simp only [List.mem_singleton, timCnt, F.TIM_CNT_COUNT]
    omega
  refine ⟨?_, ?_, ?_, ?_⟩
  · exact (hcount.getF hout).trans ((State.getF_setF_disj _ _ (by simp) (by simp) (by simp)).trans (State.getF_setF _ _ (by simp) (by simp)))
  · exact (hcount.getF hout).trans (State.getF_setF _ _ (by simp) (by simp))
  · refine (State.getF_incF_counter (timCnt n 2).addr _).trans ?_
    rw [hstatus.getF]
    · rfl
    · simp only [List.cons_append, List.nil_append, List.mem_cons, List.not_mem_nil, or_false, timCnt, F.TIM_CNT_COUNT]
      omega
  · refine (hstatus.trans hcount).mono ?_
    simp only [List.cons_append, List.nil_append, List.cons_subset, List.nil_subset, List.mem_cons, List.not_mem_nil, or_false, true_or, true_and, and_true, timCnt, F.TIM_CNT_COUNT]
    omega

theorem pathStep_eq (n : Nat) (mpd : Int) (s : State) : pathStep n mpd s =
    if PathStepped n mpd s then notify N.PATH_STEP scOk 0 (n * 2 ^ 31 + min (mpdGap n mpd s) (2 ^ 31 - 1)) (pathMarked n (s.updDomain n fun d => { d with prevMpd := some mpd }))
    else s.updDomain n fun d => { d with prevMpd := some mpd } := by
  unfold pathStep PathStepped mpdGap
  dsimp only
  rw [State.getF_updDomain]
  rfl

theorem pathStep_frame (n : Fin 2) (mpd : Int) (s : State) :
    (pathStep n mpd s).domain n = { s.domain n with prevMpd := some mpd } ∧ OnlyRegs ([0x140170 + 256 * n.val, 0x140088 + 16 * n.val] ++ noticeRegs) s (pathStep n mpd s) ∧
      OnlyRing s (pathStep n mpd s) := by
  have hdomain := OnlyRegs.updDomain s n fun d => { d with prevMpd := some mpd }
  rw [pathStep_eq]
  split
  · obtain ⟨-, -, -, hmarked⟩ := pathMarked_frame n (s.updDomain n fun d => { d with prevMpd := some mpd })
    have hall := hdomain.trans hmarked
    have hdram : (pathMarked n (s.updDomain n fun d => { d with prevMpd := some mpd })).dram = s.dram := State.updDomain_dram ..
    refine ⟨(domain_notify ..).trans (State.domain_updDomain ..), hall.trans (OnlyRegs.notify _ _ _ _ _), OnlyRing.notify_of_dram hdram (hall _ ?_) (hall _ ?_) _ _ _ _⟩ <;>
    · simp only [List.nil_append, List.mem_cons, List.not_mem_nil, or_false]
      omega
  · exact ⟨State.domain_updDomain .., hdomain.mono (List.nil_subset _), fun a _ => State.byte_of_dram (State.updDomain_dram ..) a⟩

theorem pathStep_fields (n : Fin 2) (mpd : Int) (s : State) :
    (PathStepped n mpd s → (pathStep n mpd s).getF (F.TIM_D_EXCH_STATUS_PATH_STEP n) = 1 ∧ (pathStep n mpd s).getF (F.TIM_D_EXCH_STATUS_FROZEN n) = 1 ∧
      (pathStep n mpd s).getF (timCnt n 2) = (s.getF (timCnt n 2) + 1) % 2 ^ 32) ∧
    (¬PathStepped n mpd s → (pathStep n mpd s).getF (F.TIM_D_EXCH_STATUS_FROZEN n) = s.getF (F.TIM_D_EXCH_STATUS_FROZEN n)) := by
  rw [pathStep_eq]
  refine ⟨fun h => ?_, fun h => ?_⟩
  · rw [if_pos h]
    obtain ⟨hstep, hfrozen, hcount, -⟩ := pathMarked_frame n (s.updDomain n fun d => { d with prevMpd := some mpd })
    rw [State.getF_updDomain] at hcount
    refine ⟨(notify_getF (domainReg_not_notice n (by decide))).trans hstep, (notify_getF (domainReg_not_notice n (by decide))).trans hfrozen, (notify_getF ?_).trans hcount⟩
    simp only [List.mem_cons, List.not_mem_nil, or_false, timCnt, F.TIM_CNT_COUNT]
    omega
  · rw [if_neg h, State.getF_updDomain]

/-- The estimate under the filter (R429). -/
def filteredEst (n : Nat) (mpd : Int) (s : State) : Nat :=
  let est := toSigned 32 (s.getF (F.TIM_D_DELAY_EST_VALUE n))
  if (s.domain n).fresh then ofSigned 32 mpd else ofSigned 32 (est + (mpd - est).tdiv (2 ^ s.getF (F.TIM_D_PTP_CFG_AVG_LOG2 n)))

theorem delayEst_frame (n : Nat) (mpd : Int) (s : State) :
    (delayEst n mpd s).getF (F.TIM_D_DELAY_EST_VALUE n) = (if s.getF (F.TIM_D_EXCH_STATUS_FROZEN n) = 1 then s.getF (F.TIM_D_DELAY_EST_VALUE n) else filteredEst n mpd s) ∧
      (∃ x, (delayEst n mpd s).domain n = { s.domain n with fresh := x }) ∧ OnlyRegs [0x140164 + 256 * n] s (delayEst n mpd s) ∧ (delayEst n mpd s).dram = s.dram := by
  have hput (v : Int) (u : State) : (putNs (F.TIM_D_DELAY_EST_VALUE n) v u).getF (F.TIM_D_DELAY_EST_VALUE n) = ofSigned 32 v :=
    State.getF_setF_of_lt _ (by simp) (by simp) (ofSigned_lt 32 v)
  have honly (v : Int) (u : State) : OnlyRegs [0x140164 + 256 * n] u (putNs (F.TIM_D_DELAY_EST_VALUE n) v u) := OnlyRegs.setF u (F.TIM_D_DELAY_EST_VALUE n) _
  unfold delayEst filteredEst
  dsimp only
  by_cases hfrozen : s.getF (F.TIM_D_EXCH_STATUS_FROZEN n) = 1
  · rw [if_pos hfrozen, if_pos hfrozen]
    exact ⟨rfl, ⟨_, rfl⟩, OnlyRegs.of_regs _ rfl, rfl⟩
  · rw [if_neg hfrozen, if_neg hfrozen]
    split
    · exact ⟨hput _ _, ⟨_, State.domain_updDomain ..⟩, (OnlyRegs.updDomain s n _).trans (honly _ _), State.updDomain_dram ..⟩
    · exact ⟨hput _ _, ⟨_, rfl⟩, honly _ _, rfl⟩

theorem exchangeValid_frame (n : Nat) (s : State) :
    (exchangeValid n s).getF (F.TIM_D_EXCH_STATUS_VALID n) = 1 ∧ (exchangeValid n s).domain n = { s.domain n with req := none } ∧
      (∀ k, 28 < k → (exchangeValid n s).getF ⟨0x140170 + 256 * n, k, k⟩ = s.getF ⟨0x140170 + 256 * n, k, k⟩) ∧ OnlyRegs [0x140170 + 256 * n] s (exchangeValid n s) ∧
      (exchangeValid n s).dram = s.dram := by
  refine ⟨?_, State.domain_updDomain .., fun k hk => ?_, (OnlyRegs.setF s (F.TIM_D_EXCH_STATUS_VALID n) 1).trans (OnlyRegs.updDomain _ n _), State.updDomain_dram ..⟩
  · exact (State.getF_updDomain ..).trans (State.getF_setF _ _ (by simp) (by simp))
  · exact (State.getF_updDomain ..).trans (State.getF_setF_disj _ _ (by simp) (by simp) (.inl hk))

/-- OFFSET of a Sync whose time at the master is known. -/
def syncOffset (n : Nat) (x : SyncInfo) (t1 : Int) (s : State) : Nat :=
  ofSigned 64 (((x.t2 - t1) * 65536 - x.corr).tdiv 65536 - toSigned 32 (s.getF (F.TIM_D_DELAY_EST_VALUE n)) - toSigned 32 (s.getF (F.TIM_D_ASYM_VALUE n)))

theorem putOffset_frame (n : Nat) (x : SyncInfo) (s : State) :
    (∀ t1, x.t1 = some t1 → (putOffset n x s).get64 (F.TIM_D_OFFSET_LO_VALUE n) (F.TIM_D_OFFSET_HI_VALUE n) = syncOffset n x t1 s) ∧
      OnlyRegs [0x140168 + 256 * n, 0x14016C + 256 * n] s (putOffset n x s) ∧ (putOffset n x s).time = s.time ∧ (putOffset n x s).dram = s.dram := by
  unfold putOffset
  split
  next hnone => exact ⟨fun t1 h => absurd (hnone.symm.trans h) (by simp), OnlyRegs.of_regs _ rfl, rfl, rfl⟩
  next t1 hsome =>
    refine ⟨fun t1' h => ?_, OnlyRegs.set64 s (F.TIM_D_OFFSET_LO_VALUE n) (F.TIM_D_OFFSET_HI_VALUE n) _, rfl, rfl⟩
    obtain rfl : t1 = t1' := Option.some.inj (hsome.symm.trans h)
    exact (State.get64_set64 s _ (by omega)).trans (Nat.mod_eq_of_lt (ofSigned_lt 64 _))

theorem syncShown_frame (n : Nat) (y : Option SyncInfo) (s : State) :
    (∀ x, y = some x → ∀ t1, x.t1 = some t1 → (syncShown n y s).get64 (F.TIM_D_OFFSET_LO_VALUE n) (F.TIM_D_OFFSET_HI_VALUE n) = syncOffset n x t1 s) ∧
      (∀ k, 15 < k → (syncShown n y s).getF ⟨0x140170 + 256 * n, k, k⟩ = s.getF ⟨0x140170 + 256 * n, k, k⟩) ∧ (syncShown n y s).time = s.time ∧ (syncShown n y s).dram = s.dram ∧
      OnlyRegs [0x140170 + 256 * n, 0x140168 + 256 * n, 0x14016C + 256 * n] s (syncShown n y s) := by
  cases y with
  | none => exact ⟨fun _ h => by simp at h, fun _ _ => rfl, rfl, rfl, OnlyRegs.of_regs _ rfl⟩
  | some y =>
    have hseq := OnlyRegs.setF s (F.TIM_D_EXCH_STATUS_SEQ n) y.seq
    obtain ⟨hofs, hregs, htime, hdram⟩ := putOffset_frame n y (s.setF (F.TIM_D_EXCH_STATUS_SEQ n) y.seq)
    refine ⟨fun x h t1 ht1 => ?_, fun k hk => ?_, htime, hdram, hseq.trans hregs⟩
    · obtain rfl : y = x := Option.some.inj h
      refine (hofs t1 ht1).trans ?_
      rw [syncOffset, hseq.getF (by simp), hseq.getF (by simp)]
      rfl
    · refine (hregs.getF ?_).trans (State.getF_setF_disj _ _ (by simp) (by simp) (.inl hk))
      simp only [List.mem_cons, List.not_mem_nil, or_false]
      omega

/-- The parts of an exchange's end, in their order: `a` measured, `b` compared, `c` filtered, `v` valid. -/
theorem completeExchange_done (n : Fin 2) (mpd : Int) (y : Option SyncInfo) (s : State) :
    let t := completeExchange n mpd y s
    t.getF (F.TIM_D_MPD_VALUE n) = ofSigned 32 mpd ∧ t.getF (timCnt n 0) = (s.getF (timCnt n 0) + 1) % 2 ^ 32 ∧ t.getF (F.TIM_D_EXCH_STATUS_VALID n) = 1 ∧
      (∃ x, t.domain n = { s.domain n with req := none, prevMpd := some mpd, fresh := x }) ∧
      (PathStepped n mpd s → t.getF (F.TIM_D_EXCH_STATUS_PATH_STEP n) = 1 ∧ t.getF (F.TIM_D_EXCH_STATUS_FROZEN n) = 1 ∧ t.getF (timCnt n 2) = (s.getF (timCnt n 2) + 1) % 2 ^ 32) ∧
      t.getF (F.TIM_D_DELAY_EST_VALUE n) = (if PathStepped n mpd s ∨ s.getF (F.TIM_D_EXCH_STATUS_FROZEN n) = 1 then s.getF (F.TIM_D_DELAY_EST_VALUE n) else filteredEst n mpd s) ∧
      (∀ x, y = some x → ∀ t1, x.t1 = some t1 → t.get64 (F.TIM_D_OFFSET_LO_VALUE n) (F.TIM_D_OFFSET_HI_VALUE n) =
        ofSigned 64 (((x.t2 - t1) * 65536 - x.corr).tdiv 65536 - toSigned 32 (t.getF (F.TIM_D_DELAY_EST_VALUE n)) - toSigned 32 (s.getF (F.TIM_D_ASYM_VALUE n)))) ∧
      OnlyRing s t := by
  intro t
  have ht : t = _ := completeExchange_eq n mpd y s
  generalize ha : exchangeMeasured n mpd s = a at ht
  generalize hb : pathStep n mpd a = b at ht
  generalize hc : delayEst n mpd b = c at ht
  generalize hv : exchangeValid n c = v at ht
  obtain ⟨hmpd, hcnt, hregsA⟩ := exchangeMeasured_frame n mpd s
  obtain ⟨hdomB, hregsB, hring⟩ := pathStep_frame n mpd a
  obtain ⟨hstepped, hnot⟩ := pathStep_fields n mpd a
  obtain ⟨hest, ⟨x, hdomC⟩, hregsC, hdramC⟩ := delayEst_frame n mpd b
  obtain ⟨hvalid, hdomV, hbitsV, hregsV, hdramV⟩ := exchangeValid_frame n c
  obtain ⟨hofs, hbitsT, htimeT, hdramT, hregsT⟩ := syncShown_frame n y v
  have hdomA : a.domain n = s.domain n := by rw [← ha]; rfl
  have hdramA : a.dram = s.dram := by rw [← ha]; rfl
  rw [ha] at hmpd hcnt hregsA
  rw [hb] at hdomB hregsB hring hstepped hnot
  rw [hc] at hest hdomC hregsC hdramC
  rw [hv] at hvalid hdomV hbitsV hregsV hdramV
  rw [← ht] at hofs hbitsT htimeT hdramT hregsT
  have hlate := hregsC.trans (hregsV.trans hregsT)
  have hpath : PathStepped n mpd a ↔ PathStepped n mpd s := by
    unfold PathStepped mpdGap
    rw [hdomA, hregsA.getF]
    simp only [List.mem_cons, List.not_mem_nil, or_false]
    omega
  have hstatus (k : Nat) (hk : 28 < k) : t.getF ⟨0x140170 + 256 * n.val, k, k⟩ = b.getF ⟨0x140170 + 256 * n.val, k, k⟩ :=
    (hbitsT k (by omega)).trans ((hbitsV k hk).trans (hregsC.getF (by simp)))
  have hcounts (k : Nat) (hk : k < 4) : t.getF (timCnt n k) = b.getF (timCnt n k) := hlate.getF (by
    simp only [List.cons_append, List.nil_append, List.mem_cons, List.not_mem_nil, or_false, timCnt, F.TIM_CNT_COUNT]
    omega)
  have hsettings (k hi lo : Nat) (hk : 0x140140 ≤ k) (hk' : k < 0x140170) (hmpd : k ≠ 0x140160) : b.getF ⟨k + 256 * n.val, hi, lo⟩ = s.getF ⟨k + 256 * n.val, hi, lo⟩ :=
    (hregsB.getF (by
      simp only [noticeRegs, List.cons_append, List.nil_append, List.mem_cons, List.not_mem_nil, or_false]
      omega)).trans (hregsA.getF (by
      simp only [List.mem_cons, List.not_mem_nil, or_false]
      omega))
  have hestT : t.getF (F.TIM_D_DELAY_EST_VALUE n) = c.getF (F.TIM_D_DELAY_EST_VALUE n) := (hregsV.trans hregsT).getF (by
    simp only [List.cons_append, List.nil_append, List.mem_cons, List.not_mem_nil, or_false]
    omega)
  have hfilter : filteredEst n mpd b = filteredEst n mpd s := by
    unfold filteredEst
    rw [hsettings 0x140164 _ _ (by decide) (by decide) (by decide), hsettings 0x140140 _ _ (by decide) (by decide) (by decide), hdomB, hdomA]
  refine ⟨?_, ?_, ?_, ⟨x, ?_⟩, fun h => ?_, ?_, fun z hz t1 ht1 => ?_, fun w hw => ?_⟩
  · refine ((hregsB.trans hlate).getF ?_).trans hmpd
    simp only [noticeRegs, List.cons_append, List.nil_append, List.mem_cons, List.not_mem_nil, or_false]
    omega
  · refine (hcounts 0 (by decide)).trans ((hregsB.getF ?_).trans hcnt)
    simp only [noticeRegs, List.cons_append, List.nil_append, List.mem_cons, List.not_mem_nil, or_false, timCnt, F.TIM_CNT_COUNT]
    omega
  · exact (hbitsT 28 (by decide)).trans hvalid
  · rw [State.domain_of_time htimeT, hdomV, hdomC, hdomB, hdomA]
  · obtain ⟨hstep, hfrozen, hcount⟩ := hstepped (hpath.2 h)
    refine ⟨(hstatus 31 (by decide)).trans hstep, (hstatus 30 (by decide)).trans hfrozen, ((hcounts 2 (by decide)).trans hcount).trans ?_⟩
    rw [hregsA.getF]
    simp only [List.mem_cons, List.not_mem_nil, or_false, timCnt, F.TIM_CNT_COUNT]
    omega
  · rw [hestT, hest, hfilter, hsettings 0x140164 _ _ (by decide) (by decide) (by decide)]
    by_cases h : PathStepped n mpd s
    · rw [if_pos (hstepped (hpath.2 h)).2.1, if_pos (.inl h)]
    · have hfrozen : b.getF (F.TIM_D_EXCH_STATUS_FROZEN n) = s.getF (F.TIM_D_EXCH_STATUS_FROZEN n) := (hnot (mt hpath.1 h)).trans (hregsA.getF (by
        simp only [List.mem_cons, List.not_mem_nil, or_false]
        omega))
      simp only [hfrozen, h, false_or]
  · have hasym : v.getF (F.TIM_D_ASYM_VALUE n) = s.getF (F.TIM_D_ASYM_VALUE n) := ((hregsC.trans hregsV).getF (by
      simp only [List.cons_append, List.nil_append, List.mem_cons, List.not_mem_nil, or_false]
      omega)).trans (hsettings 0x140154 _ _ (by decide) (by decide) (by decide))
    have hestV : v.getF (F.TIM_D_DELAY_EST_VALUE n) = c.getF (F.TIM_D_DELAY_EST_VALUE n) := hregsV.getF (by simp)
    rw [hofs z hz t1 ht1, syncOffset, hasym, hestV, hestT]
  · have hlow (k : Nat) (hk : k < 0x140000) : a.reg k = s.reg k := hregsA k (by
      simp only [List.mem_cons, List.not_mem_nil, or_false]
      omega)
    have hdram : t.dram = b.dram := hdramT.trans (hdramV.trans hdramC)
    rw [State.byte_of_dram hdram, hring w (mt (inNoticeRing_congr (hlow 0x40 (by decide)) (hlow 0x44 (by decide))).1 hw), State.byte_of_dram hdramA]

/-- What an exchange's end leaves to the other exchange: none of its settings. -/
theorem completeExchange_other (n k : Fin 2) (port : Nat) (p : PtpMsg) (rx : Bool) (mpd : Int) (y : Option SyncInfo) (s : State) :
    ptpFor k port p rx (completeExchange n mpd y s) = ptpFor k port p rx s := by
  refine ptpFor_congr k port p rx fun a ha ha' => ?_
  rw [completeExchange_eq]
  obtain ⟨-, -, hregsA⟩ := exchangeMeasured_frame n mpd s
  obtain ⟨-, hregsB, -⟩ := pathStep_frame n mpd (exchangeMeasured n mpd s)
  obtain ⟨-, -, hregsC, -⟩ := delayEst_frame n mpd (pathStep n mpd (exchangeMeasured n mpd s))
  obtain ⟨-, -, -, hregsV, -⟩ := exchangeValid_frame n (delayEst n mpd (pathStep n mpd (exchangeMeasured n mpd s)))
  obtain ⟨-, -, -, -, hregsT⟩ := syncShown_frame n y (exchangeValid n (delayEst n mpd (pathStep n mpd (exchangeMeasured n mpd s))))
  refine (hregsA.trans (hregsB.trans (hregsC.trans (hregsV.trans hregsT)))) a ?_
  simp only [noticeRegs, List.cons_append, List.nil_append, List.mem_cons, List.not_mem_nil, or_false]
  omega

/-! General messages (R428). -/

theorem ptpGeneral_not {n port : Nat} {p : PtpMsg} (h : ptpFor n port p true s = false) : ptpGeneral n port p s = s := if_pos (by rw [h]; rfl)

/-- A message in domain `n`'s exchange leaves the settings of every exchange. -/
theorem ptpGeneral_other (n k : Fin 2) (port : Nat) (p : PtpMsg) (rx : Bool) (s : State) : ptpFor k port p rx (ptpGeneral n port p s) = ptpFor k port p rx s := by
  unfold ptpGeneral
  dsimp only
  repeat' split
  all_goals first | with_reducible rfl | with_reducible exact completeExchange_other n k port p rx _ _ s | exact ptpFor_congr k port p rx fun a _ _ => State.reg_updDomain ..

theorem exec_ptpGeneralMessage {port n : Fin 2} {p : PtpMsg} (hrun : timRuns s = true) (hother : ptpFor (1 - n.val) port p true s = false) :
    exec (.ptpGeneralMessage dt port p) s = .next (ptpGeneral n port p (s.elapse dt)) := by
  have hexec : exec (.ptpGeneralMessage dt port p) s = .next (ptpGeneral 1 port p (ptpGeneral 0 port p (s.elapse dt))) :=
    if_neg (by rw [elapse_timRuns, hrun]; decide)
  have hother' : ptpFor (1 - n.val) port p true (s.elapse dt) = false := hother
  rw [hexec]
  match n with
  | 0 => exact congrArg Host.Outcome.next (ptpGeneral_not (n := 1) ((ptpGeneral_other 0 1 port p true _).trans hother'))
  | 1 => exact congrArg (fun u => Host.Outcome.next (ptpGeneral 1 port p u)) (ptpGeneral_not (n := 0) hother')

section
variable {n : Fin 2} {port : Nat} {p : PtpMsg} (hfor : ptpFor n port p true s = true)
include hfor

theorem ptpGeneral_followUp {y : SyncInfo} (hmsg : p.msg = 8) (hsync : (s.domain n).sync = some y) (hseq : y.seq = p.seq.toNat) (hnone : y.t1 = none) :
    ptpGeneral n port p s = s.updDomain n fun d =>
      { d with sync := some { y with t1 := some p.body, corr := y.corr + p.corr }, known := some { y with t1 := some p.body, corr := y.corr + p.corr } } := by
  unfold ptpGeneral
  rw [if_neg (by rw [hfor]; decide), if_pos hmsg, hsync]
  exact if_pos ⟨hseq, hnone⟩

theorem ptpGeneral_delayResp {r : PtpReq} {y : SyncInfo} (hmsg : p.msg = 9) (hreq : (s.domain n).req = some r) (hseq : r.seq = p.seq.toNat) (hsync : r.sync = some y) :
    ptpGeneral n port p s = completeExchange n ((((y.t2 - y.t1.getD 0) + (p.body - r.sent)) * 65536 - y.corr - p.corr).tdiv 131072) (some y) s := by
  unfold ptpGeneral
  rw [if_neg (by rw [hfor]; decide), if_neg (by rw [hmsg]; decide), hreq]
  dsimp only
  rw [if_neg (not_not.2 hseq), if_pos hmsg, hsync]

theorem ptpGeneral_pdelayFollowUp {r : PtpReq} {t2 t4 : Int} (hmsg : p.msg = 10) (hreq : (s.domain n).req = some r) (hseq : r.seq = p.seq.toNat)
    (hanswered : r.answered = some (t2, t4)) :
    ptpGeneral n port p s = completeExchange n ((((t4 - r.sent) - (p.body - t2)) * 65536 - r.corr - p.corr).tdiv 131072) (s.domain n).known s := by
  unfold ptpGeneral
  rw [if_neg (by rw [hfor]; decide), if_neg (by rw [hmsg]; decide), hreq]
  dsimp only
  rw [if_neg (not_not.2 hseq), if_neg (by rw [hmsg]; decide), if_pos hmsg, hanswered]

end

/-! Exchanges discarded, the owner's clearing of PATH_STEP, and the pulses (R428, R429, R431, R432). -/

theorem State.elapse_req (s : State) (dt n : Nat) : ((s.elapse dt).domain n).req = (s.domain n).req := by rw [State.elapse_domain]; rfl
theorem State.elapse_sync (s : State) (dt n : Nat) : ((s.elapse dt).domain n).sync = (s.domain n).sync := by rw [State.elapse_domain]; rfl
theorem State.elapse_known (s : State) (dt n : Nat) : ((s.elapse dt).domain n).known = (s.domain n).known := by rw [State.elapse_domain]; rfl
theorem State.elapse_prevMpd (s : State) (dt n : Nat) : ((s.elapse dt).domain n).prevMpd = (s.domain n).prevMpd := by rw [State.elapse_domain]; rfl
theorem State.elapse_fresh (s : State) (dt n : Nat) : ((s.elapse dt).domain n).fresh = (s.domain n).fresh := by rw [State.elapse_domain]; rfl

theorem elapse_timRunning {dt : Nat} {s : State} (hrun : timRuns s = true) : ¬ (!timRuns (s.elapse dt)) = true := by
  rw [elapse_timRuns, hrun]
  decide

/-- An exchange counted as discarded. -/
def exchangeDiscarded (n : Nat) (s : State) : State := (s.incF (timCnt n 1)).updDomain n fun d => { d with req := none }

theorem exec_ptpExchangeDiscard {n : Fin 2} {r : PtpReq} (hrun : timRuns s = true) (hreq : (s.domain n).req = some r) (hold : r.first + sec ≤ (s.elapse dt).clk.now) :
    exec (.ptpExchangeDiscard dt n) s = .next (exchangeDiscarded n (s.elapse dt)) := by
  refine (if_neg (elapse_timRunning hrun)).trans ?_
  rw [State.elapse_req, hreq]
  exact if_pos hold

theorem exchangeDiscarded_frame (n : Fin 2) (s : State) :
    ((exchangeDiscarded n s).domain n).req = none ∧ (exchangeDiscarded n s).getF (timCnt n 1) = (s.getF (timCnt n 1) + 1) % 2 ^ 32 ∧
      OnlyRegs [0x140084 + 16 * n.val] s (exchangeDiscarded n s) ∧ (exchangeDiscarded n s).domain (1 - n.val) = s.domain (1 - n.val) := by
  refine ⟨?_, ?_, ?_, State.domain_updDomain_other ..⟩
  · rw [exchangeDiscarded, State.domain_updDomain]
  · exact (State.getF_updDomain ..).trans (State.getF_incF_counter (timCnt n 1).addr s)
  · refine ((OnlyRegs.incF s (timCnt n 1)).trans (OnlyRegs.updDomain _ n _)).mono ?_
    simp only [List.append_nil, List.cons_subset, List.nil_subset, List.mem_singleton, and_true, timCnt, F.TIM_CNT_COUNT]
    omega

/-- PATH_STEP and FROZEN cleared; the estimate starts anew. -/
def pathCleared (n : Nat) (s : State) : State :=
  ((s.setF (F.TIM_D_EXCH_STATUS_PATH_STEP n) 0).setF (F.TIM_D_EXCH_STATUS_FROZEN n) 0).updDomain n fun d => { d with fresh := true }

theorem pathCleared_frame (n : Nat) (s : State) :
    (pathCleared n s).getF (F.TIM_D_EXCH_STATUS_PATH_STEP n) = 0 ∧ (pathCleared n s).getF (F.TIM_D_EXCH_STATUS_FROZEN n) = 0 ∧
      (pathCleared n s).domain n = { s.domain n with fresh := true } ∧ OnlyRegs [0x140170 + 256 * n] s (pathCleared n s) := by
  refine ⟨?_, ?_, State.domain_updDomain .., ?_⟩
  · exact (State.getF_updDomain ..).trans ((State.getF_setF_disj _ _ (by simp) (by simp) (by simp)).trans (State.getF_setF _ _ (by simp) (by simp)))
  · exact (State.getF_updDomain ..).trans (State.getF_setF _ _ (by simp) (by simp))
  · exact (((OnlyRegs.setF s (F.TIM_D_EXCH_STATUS_PATH_STEP n) 0).trans (OnlyRegs.setF _ (F.TIM_D_EXCH_STATUS_FROZEN n) 0)).trans (OnlyRegs.updDomain _ n _)).mono (by simp)

theorem exec_pathStepClear {m : Master} {n : Fin 2} {w : Word} (hcore : s.clk.core = true) (hmode : s.mode = stAutonomous) :
    exec (.pathStepClear dt m n w) s = .next (writeExchStatus m n w (s.elapse dt)) := congrArg Host.Outcome.next (gatedWrite_runs hcore hmode)

theorem writeExchStatus_foreign {m : Master} {w : Word} (n : Nat) (howns : s.owns m = false) : writeExchStatus m n w s = ignored m (0x140170 + 256 * n) s :=
  if_pos (by rw [howns]; rfl)

theorem writeExchStatus_clear {m : Master} {w : Word} (n : Nat) (howns : s.owns m = true) (h : bitsOf w 31 31 = 1) (hset : s.getF (F.TIM_D_EXCH_STATUS_PATH_STEP n) = 1) :
    writeExchStatus m n w s = pathCleared n s := (if_neg (by rw [howns]; decide)).trans (if_pos ⟨h, hset⟩)

theorem writeExchStatus_keep {m : Master} {w : Word} (n : Nat) (howns : s.owns m = true) (h : bitsOf w 31 31 = 0) : writeExchStatus m n w s = s :=
  (if_neg (by rw [howns]; decide)).trans (if_neg fun hc => absurd (h.symm.trans hc.1) (by decide))

/-- The slot clock and both domains captured at an edge of PPS_IN. -/
def ppsCaptured (s : State) : State :=
  (((((s.set64 F.TIM_PPSIN_SC_LO_VALUE F.TIM_PPSIN_SC_HI_VALUE s.clk.slot).setF F.TIM_PPSIN_D0_SEC_VALUE (s.time.d0.t / unitsPerSec)).setF
    F.TIM_PPSIN_D0_NS_VALUE (s.time.d0.t % unitsPerSec / 2 ^ 32)).setF F.TIM_PPSIN_D1_SEC_VALUE (s.time.d1.t / unitsPerSec)).setF
    F.TIM_PPSIN_D1_NS_VALUE (s.time.d1.t % unitsPerSec / 2 ^ 32)).incF F.TIM_PPSIN_COUNT_VALUE

def ppsEdge (s : State) : State := { ppsCaptured s with time := { s.time with ppsIn := some s.clk.now, ppsLost := false } }

theorem exec_ppsInEdge (hrun : timRuns s = true) (hen : s.getF F.TIM_PPSIN_CFG_EN = 1) : exec (.ppsInEdge dt) s = .next (ppsEdge (s.elapse dt)) :=
  (if_neg (elapse_timRunning hrun)).trans (if_neg (by rw [State.elapse_getF, hen]; decide))

/-- The ns of a domain fit a word. -/
theorem domainNs_lt (x : Nat) : x % unitsPerSec / 2 ^ 32 < 2 ^ 32 := by
  have h : x % unitsPerSec < unitsPerSec := Nat.mod_lt _ (by decide)
  unfold unitsPerSec at *
  omega

theorem ppsCaptured_fields (s : State) :
    let t := ppsCaptured s
    t.get64 F.TIM_PPSIN_SC_LO_VALUE F.TIM_PPSIN_SC_HI_VALUE = s.clk.slot % 2 ^ 64 ∧ t.getF F.TIM_PPSIN_D0_SEC_VALUE = s.time.d0.t / unitsPerSec % 2 ^ 32 ∧
      t.getF F.TIM_PPSIN_D0_NS_VALUE = s.time.d0.t % unitsPerSec / 2 ^ 32 ∧ t.getF F.TIM_PPSIN_D1_SEC_VALUE = s.time.d1.t / unitsPerSec % 2 ^ 32 ∧
      t.getF F.TIM_PPSIN_D1_NS_VALUE = s.time.d1.t % unitsPerSec / 2 ^ 32 ∧ t.getF F.TIM_PPSIN_COUNT_VALUE = (s.getF F.TIM_PPSIN_COUNT_VALUE + 1) % 2 ^ 32 ∧
      OnlyRegs [0x140048, 0x14004C, 0x140050, 0x140054, 0x140058, 0x14005C, 0x140060] s t := by
  intro t
  have hput (u : State) (a v : Nat) : (u.setF ⟨a, 31, 0⟩ v).getF ⟨a, 31, 0⟩ = v % 2 ^ 32 := State.getF_setF u v (Nat.zero_le 31) (Nat.lt_succ_self 31)
  have hns (u : State) (a x : Nat) : (u.setF ⟨a, 31, 0⟩ (x % unitsPerSec / 2 ^ 32)).getF ⟨a, 31, 0⟩ = x % unitsPerSec / 2 ^ 32 :=
    State.getF_setF_of_lt u (Nat.zero_le 31) (Nat.lt_succ_self 31) (domainNs_lt x)
  have hclock := OnlyRegs.set64 s F.TIM_PPSIN_SC_LO_VALUE F.TIM_PPSIN_SC_HI_VALUE s.clk.slot
  have hdomains := (((OnlyRegs.setF (s.set64 F.TIM_PPSIN_SC_LO_VALUE F.TIM_PPSIN_SC_HI_VALUE s.clk.slot) F.TIM_PPSIN_D0_SEC_VALUE (s.time.d0.t / unitsPerSec)).trans
    (OnlyRegs.setF _ F.TIM_PPSIN_D0_NS_VALUE (s.time.d0.t % unitsPerSec / 2 ^ 32))).trans (OnlyRegs.setF _ F.TIM_PPSIN_D1_SEC_VALUE (s.time.d1.t / unitsPerSec))).trans
    (OnlyRegs.setF _ F.TIM_PPSIN_D1_NS_VALUE (s.time.d1.t % unitsPerSec / 2 ^ 32))
  have hlate := hdomains.trans (OnlyRegs.incF _ F.TIM_PPSIN_COUNT_VALUE)
  refine ⟨(hlate.get64 (by decide) (by decide)).trans (State.get64_set64 s _ (by decide)), ?_, ?_, ?_, ?_, ?_, hclock.trans hlate⟩
  · simp only [t, ppsCaptured, State.incF, getF_setF_off, hput, ne_eq, Nat.reduceEqDiff, not_false_eq_true]
  · simp only [t, ppsCaptured, State.incF, getF_setF_off, hns, ne_eq, Nat.reduceEqDiff, not_false_eq_true]
  · simp only [t, ppsCaptured, State.incF, getF_setF_off, hput, ne_eq, Nat.reduceEqDiff, not_false_eq_true]
  · simp only [t, ppsCaptured, State.incF, getF_setF_off, hns, ne_eq, Nat.reduceEqDiff, not_false_eq_true]
  · refine (State.getF_incF_counter 0x140060 _).trans ?_
    rw [(hclock.trans hdomains).getF (by decide)]

theorem exec_ppsLost {x : Nat} (hrun : timRuns s = true) (hen : s.getF F.TIM_PPSIN_CFG_EN = 1) (hin : s.time.ppsIn = some x) (hlost : s.time.ppsLost = false)
    (hlate : x + 220000000 ≤ (s.elapse dt).clk.now) :
    exec (.ppsLost dt) s = .next (notify N.PPS_LOST scTimeout 0 0 { s.elapse dt with time := { (s.elapse dt).time with ppsLost := true } }) := by
  have hin' : (s.elapse dt).time.ppsIn = some x := hin
  refine (if_neg (elapse_timRunning hrun)).trans ?_
  rw [hin']
  exact if_pos ⟨hen, hlost, hlate⟩

theorem exec_ppsOutPulse (hrun : timRuns s = true) (hen : s.getF F.TIM_PPSOUT_CFG_EN = 1) (hmode : s.mode ≠ stReserve)
    (hcarry : carried ((s.elapse dt).domain (s.getF F.TIM_PPSOUT_CFG_DOM)) = true) :
    exec (.ppsOutPulse dt) s = .next { s.elapse dt with time := { (s.elapse dt).time with ppsOut := some ((s.elapse dt).clk.slot + s.getF F.TIM_PPSOUT_CFG_WIDTH_MS * ms) } } :=
  (if_neg (elapse_timRunning hrun)).trans (if_pos ⟨hen, hmode, hcarry⟩)

theorem exec_ppsOutEnd {x : Nat} (hrun : s.clk.running = true) (hout : s.time.ppsOut = some x) (hend : x ≤ (s.elapse dt).clk.slot) :
    exec (.ppsOutEnd dt) s = .next { s.elapse dt with time := { (s.elapse dt).time with ppsOut := none } } := by
  have hout' : (s.elapse dt).time.ppsOut = some x := hout
  refine (if_neg (elapse_runs hrun)).trans ?_
  rw [hout']
  exact if_pos hend

theorem exec_tsuRingRdWrite {m : Master} {w : Word} (hcore : s.clk.core = true) (hmode : s.mode = stAutonomous) :
    exec (.tsuRingRdWrite dt m w) s = .next (writeRingRd m 0x14801C F.TSU_RING_RD_COUNT (s.getF F.TSU_RING_WR_COUNT) (tsuSize s) w (s.elapse dt)) :=
  congrArg Host.Outcome.next (gatedWrite_runs hcore hmode)

/-- Settles O54: each command is put down to its effect on the running domains, and the effect's fields and frame are read off. -/
theorem ptpAndPulses : Obligations.PtpAndPulses := by
  intro dt s hrun e size wr full base
  refine ⟨fun port tx p => ⟨fun hnot => ⟨_, exec_ptpEventTimestamp_not hrun hnot, rfl, OnlyRegs.of_regs _ rfl, rfl⟩, fun htakes hmsg => ?_⟩, fun port n p hfor hother => ?_,
    fun n r hreq hold => ⟨_, exec_ptpExchangeDiscard hrun hreq hold, exchangeDiscarded_frame n e⟩, fun m n w hcore hmode => ?_, fun hen => ?_, ?_, ?_, fun m w hcore hmode => ?_⟩
  · have hexec := exec_ptpEventTimestamp (dt := dt) (tx := tx) hrun htakes hmsg
    generalize hrec : tsuRecord port tx (tx && p.msg == 0 && s.getF (F.TSU_PORT_CFG_ONE_STEP port) == 1) p (s.elapse dt) = rec at hexec
    have hlen : rec.length = 64 := by rw [← hrec, tsuRecord_length]
    obtain ⟨hregs, hdram, hlost⟩ := ptpEvents_frame port tx p (tsuWrite rec e)
    refine ⟨fun hen hroom => ⟨_, hexec, ?_⟩, fun hen hfull => ⟨_, hexec, ?_⟩, fun n hfor => ?_⟩
    · obtain ⟨hwr, hput, hout, hin⟩ := tsuPut_frame (s := e) hlen
      have hwrite : tsuWrite rec e = _ := tsuWrite_room (s := e) hen hroom
      have hregs' : OnlyRegs [] (tsuPut rec e) (tsuWrite rec e) := by
        rw [hwrite]
        exact OnlyRegs.of_regs [] rfl
      have hdram' : (tsuWrite rec e).dram = (tsuPut rec e).dram := by rw [hwrite]
      have hall := hregs'.trans hregs
      have hbyte (b : Nat) : (ptpEvents port tx p (tsuWrite rec e)).byte b = (tsuPut rec e).byte b := State.byte_of_dram (hdram.trans hdram') b
      exact ⟨(hall.getF List.not_mem_nil).trans hwr, hput.trans hall, fun b hb => (hbyte b).trans (hout b hb),
        fun k hk => ((hbyte _).trans (hin k hk)).trans (by rw [← hrec])⟩
    · obtain ⟨hcount, hlost', hregs', hring'⟩ := tsuWrite_lost (s := e) (rec := rec) hen hfull
      exact ⟨(hregs.getF List.not_mem_nil).trans hcount, hlost.trans hlost', hregs'.trans hregs, fun a ha => (State.byte_of_dram hdram a).trans (hring' a ha)⟩
    · intro e2e at_
      obtain ⟨v, hsame, hdomain⟩ := ptpEvents_domain n port tx p (tsuWrite rec e)
      have hv := (tsuWrite_same n rec e).trans hsame
      have hforV : ptpFor n port p (!tx) v = true := (hv.ptpFor n port p (!tx)).trans hfor
      have hmechV : v.getF (F.TIM_D_PTP_CFG_MECH n) = s.getF (F.TIM_D_PTP_CFG_MECH n) := hv.getF (by omega) (by omega)
      have hns : (v.domain n).ns = at_ := congrArg Domain.ns hv.domain
      have hreq : (v.domain n).req = (s.domain n).req := (congrArg Domain.req hv.domain).trans (State.elapse_req s dt n)
      have hsync : (v.domain n).sync = (s.domain n).sync := (congrArg Domain.sync hv.domain).trans (State.elapse_sync s dt n)
      have hknown : (v.domain n).known = (s.domain n).known := (congrArg Domain.known hv.domain).trans (State.elapse_known s dt n)
      refine ⟨fun hm htx => ⟨_, hexec, ?_⟩, fun hm htx hmech => ⟨_, hexec, ?_⟩, fun hm htx hmech => ⟨_, hexec, ?_⟩, fun hm htx hmech r hr hseq => ⟨_, hexec, ?_⟩⟩
      · obtain ⟨h, h'⟩ := ptpEvent_sync hforV hm htx
        rw [hns, hv.clk] at h
        rw [hreq] at h'
        rw [hdomain]
        exact ⟨h, h'⟩
      · obtain ⟨h, h'⟩ := ptpEvent_delayReq hforV hm htx (hmechV.trans hmech)
        rw [hns, hknown] at h
        rw [hsync] at h'
        rw [hdomain]
        exact ⟨h, h'⟩
      · obtain ⟨h, h'⟩ := ptpEvent_pdelayReq hforV hm htx (hmechV.trans_ne hmech)
        rw [hns] at h
        rw [hsync] at h'
        rw [hdomain]
        exact ⟨h, h'⟩
      · have h := ptpEvent_pdelayResp hforV hm htx (hmechV.trans_ne hmech) (hreq.trans hr) hseq
        rw [hns] at h
        exact (congrArg Domain.req hdomain).trans h
  · have hforE : ptpFor n port p true e = true := hfor
    have hcomplete (mpd : Int) (y : Option SyncInfo) := completeExchange_done n mpd y e
    have hgap (mpd : Int) : PathStepped n mpd e ↔ s.getF (F.TIM_D_PATH_THRESH_VALUE n) < match (s.domain n).prevMpd with | some q => (mpd - q).natAbs | none => 0 := by
      unfold PathStepped mpdGap
      rw [State.elapse_prevMpd]
      exact Iff.rfl
    have hfilter (mpd : Int) : filteredEst n mpd e = if (s.domain n).fresh then ofSigned 32 mpd
        else ofSigned 32 (toSigned 32 (s.getF (F.TIM_D_DELAY_EST_VALUE n)) + (mpd - toSigned 32 (s.getF (F.TIM_D_DELAY_EST_VALUE n))).tdiv (2 ^ s.getF (F.TIM_D_PTP_CFG_AVG_LOG2 n))) := by
      unfold filteredEst
      rw [State.elapse_fresh]
      rfl
    intro done
    have hdone (mpd : Int) (y : Option SyncInfo) : done mpd y (completeExchange n mpd y e) := by
      obtain ⟨hmpd, hcnt, hvalid, ⟨x, hdomain⟩, hstep, hest, hofs, hring'⟩ := hcomplete mpd y
      refine ⟨hmpd, hcnt, hvalid, congrArg Domain.req hdomain, congrArg Domain.prevMpd hdomain, (congrArg Domain.t hdomain).trans rfl, fun h => ?_, ?_, hofs, hring'⟩
      · exact hstep ((hgap mpd).2 (of_decide_eq_true h))
      · rw [hest, hfilter]
        exact if_congr (or_congr_left ((hgap mpd).trans decide_eq_true_iff.symm)) rfl rfl
    refine ⟨fun hm y hy hseq hnone => ⟨_, exec_ptpGeneralMessage hrun hother, ?_⟩, fun r hr hseq =>
      ⟨fun hm y hy => ⟨_, exec_ptpGeneralMessage hrun hother, ?_⟩, fun hm t2 t4 ha => ⟨_, exec_ptpGeneralMessage hrun hother, ?_⟩⟩⟩
    · rw [ptpGeneral_followUp hforE hm ((State.elapse_sync s dt n).trans hy) hseq hnone]
      exact ⟨by rw [State.domain_updDomain], by rw [State.domain_updDomain], OnlyRegs.updDomain e n _, State.updDomain_dram ..⟩
    · rw [ptpGeneral_delayResp hforE hm ((State.elapse_req s dt n).trans hr) hseq hy]
      exact hdone _ _
    · rw [ptpGeneral_pdelayFollowUp hforE hm ((State.elapse_req s dt n).trans hr) hseq ha, State.elapse_known]
      exact hdone _ _
  · refine ⟨fun howns h hset => ⟨_, exec_pathStepClear hcore hmode, ?_⟩, fun howns h => ⟨_, exec_pathStepClear hcore hmode, ?_⟩, fun howns => ⟨_, exec_pathStepClear hcore hmode, ?_⟩⟩
    · rw [writeExchStatus_clear n ((elapse_owns s dt m).trans howns) h hset]
      exact pathCleared_frame n e
    · rw [writeExchStatus_keep n ((elapse_owns s dt m).trans howns) h]
      exact ⟨rfl, OnlyRegs.of_regs _ rfl⟩
    · rw [writeExchStatus_foreign n ((elapse_owns s dt m).trans howns)]
      exact ⟨ignored_time .., OnlyRegs.ignored m _ e⟩
  · refine ⟨⟨_, exec_ppsInEdge hrun hen, ?_⟩, fun x hin hlost hlate => ⟨_, exec_ppsLost hrun hen hin hlost hlate, ?_⟩⟩
    · obtain ⟨hclock, hs0, hn0, hs1, hn1, hcount, hregs⟩ := ppsCaptured_fields e
      have hedge : OnlyRegs [] (ppsCaptured e) (ppsEdge e) := OnlyRegs.of_regs [] rfl
      have hfield (f : Field) : (ppsEdge e).getF f = (ppsCaptured e).getF f := hedge.getF List.not_mem_nil
      exact ⟨(hedge.get64 List.not_mem_nil List.not_mem_nil).trans hclock, (hfield _).trans hs0, (hfield _).trans hn0, (hfield _).trans hs1, (hfield _).trans hn1,
        (hfield _).trans hcount, rfl, hregs.trans hedge⟩
    · obtain ⟨hregs, hring', -⟩ := noticed_frame (OnlyRegs.of_regs [] rfl : OnlyRegs [] s { e with time := { e.time with ppsLost := true } }) (by decide) rfl rfl N.PPS_LOST scTimeout 0 0
      exact ⟨notify_time .., hregs, hring'⟩
  · exact fun hen hmode hcarry => ⟨_, exec_ppsOutPulse hrun hen hmode hcarry, rfl, OnlyRegs.of_regs _ rfl⟩
  · exact fun x hout hend => ⟨_, exec_ppsOutEnd (timRuns_running hrun) hout hend, rfl, OnlyRegs.of_regs _ rfl⟩
  · refine ⟨fun hle => ⟨_, exec_tsuRingRdWrite hcore hmode, ?_⟩, fun hlt => ⟨_, exec_tsuRingRdWrite hcore hmode, ?_⟩⟩
    · rw [writeRingRd_within hle, State.setF_whole]
      exact ⟨State.reg_setReg_self _ _ _, OnlyRegs.setReg e _ _, rfl⟩
    · rw [writeRingRd_beyond hlt]
      exact (ignored_frame m _ e).2

end
end Sys2Proof.Machine

/-! SUPPORT. The registers of the memory, cipher, key and identity blocks, of network time and the backhaul, OWN_N's own register, and the start of an unconfirmed period: what ends
at the radio, in the exchange, in the catalogue or in the journal leaves them (R151, R159, R194, R226 to R228, R250 to R254, R281, R471 to R476, R491). -/

namespace Sys2Proof.Machine

/-- The registers from the DRAM controller's block to the host link's, and PAR_HB_STATUS (R25). -/
@[reducible] def midReg (a : Nat) : Prop := 0x118000 ≤ a ∧ a < 0x160000 ∨ a = 0x168000

/-- These registers and the start of the unconfirmed period are in `s` as they are in `s0`. -/
structure MidKept (s0 s : State) : Prop where
  reg : ∀ a, midReg a → s.reg a = s0.reg a
  unconf : s.pair.unconfAt = s0.pair.unconfAt

section
variable {s0 s t : State}

theorem MidKept.refl (s : State) : MidKept s s := ⟨fun _ _ => rfl, rfl⟩

theorem MidKept.trans (h : MidKept s0 s) (k : MidKept s t) : MidKept s0 t := ⟨fun a ha => (k.reg a ha).trans (h.reg a ha), k.unconf.trans h.unconf⟩

/-- What writes no register and leaves the unconfirmed period. -/
theorem MidKept.congr (h : MidKept s0 s) (hp : (t.regs, t.pair.unconfAt) = (s.regs, s.pair.unconfAt)) : MidKept s0 t := by
  obtain ⟨hregs, hunconf⟩ := Prod.mk.inj hp
  exact ⟨fun a ha => (State.reg_of_regs hregs a).trans (h.reg a ha), hunconf.trans h.unconf⟩

theorem MidKept.setReg (h : MidKept s0 s) {a : Nat} {w : Word} (ha : ¬ midReg a) : MidKept s0 (s.setReg a w) :=
  ⟨fun b hb => (State.reg_setReg_ne s w fun (e : b = a) => ha (e ▸ hb)).trans (h.reg b hb), h.unconf⟩

theorem MidKept.setF (h : MidKept s0 s) {a hi lo v : Nat} (ha : ¬ midReg a) : MidKept s0 (s.setF ⟨a, hi, lo⟩ v) := h.setReg ha
theorem MidKept.incF (h : MidKept s0 s) {a hi lo : Nat} (ha : ¬ midReg a) : MidKept s0 (s.incF ⟨a, hi, lo⟩) := h.setReg ha
theorem MidKept.set64 (h : MidKept s0 s) {a hi lo a' hi' lo' v : Nat} (ha : ¬ midReg a) (ha' : ¬ midReg a') :
    MidKept s0 (s.set64 ⟨a, hi, lo⟩ ⟨a', hi', lo'⟩ v) := (h.setF ha).setF ha'

theorem MidKept.updPort (h : MidKept s0 s) {n : Nat} {f : Port → Port} : MidKept s0 (s.updPort n f) := h.congr (by rfl)
theorem MidKept.updPair (h : MidKept s0 s) {f : Pair → Pair} (hf : ∀ p, (f p).unconfAt = p.unconfAt) : MidKept s0 (s.updPair f) := ⟨h.reg, (hf _).trans h.unconf⟩
theorem MidKept.emit (h : MidKept s0 s) {o : Out} : MidKept s0 (s.emit o) := ⟨h.reg, h.unconf⟩
theorem MidKept.updSlt (h : MidKept s0 s) {f : Slots → Slots} : MidKept s0 (s.updSlt f) := h.congr (by rfl)
theorem MidKept.setDl (h : MidKept s0 s) {i : Nat} {d : Option Dl} : MidKept s0 (s.setDl i d) := h.congr (by rfl)

theorem MidKept.notify (h : MidKept s0 s) {k : NoticeKind} {status port arg : Nat} : MidKept s0 (notify k status port arg s) := by
  refine ⟨fun a ha => (notify_reg ?_).trans (h.reg a ha), (congrArg Pair.unconfAt (notify_pair ..)).trans h.unconf⟩
  simp only [List.mem_cons, List.not_mem_nil, or_false]
  omega

theorem MidKept.ite {c : Prop} [Decidable c] (h : MidKept s0 s) (k : MidKept s0 t) : MidKept s0 (if c then s else t) := keeps_ite h k
theorem MidKept.thenIf {c : Prop} [Decidable c] (h : MidKept s0 s) (hf : MidKept s0 s → MidKept s0 t) : MidKept s0 (if c then t else s) := (hf h).ite h
theorem MidKept.unless {c : Prop} [Decidable c] (h : MidKept s0 s) (hf : MidKept s0 s → MidKept s0 t) : MidKept s0 (if c then s else t) := h.ite (hf h)
theorem MidKept.foldl {α : Type} {f : State → α → State} {l : List α} (h : MidKept s0 s) (hf : ∀ t e, MidKept s0 t → MidKept s0 (f t e)) : MidKept s0 (l.foldl f s) :=
  keeps_foldl (K := MidKept s0) h fun e _ t k => hf t e k

/-! Receptions that end (R150, R194). -/

theorem MidKept.noteLow (h : MidKept s0 s) : MidKept s0 (noteLow s) := (MidKept.notify (h.congr (by rfl))).ite ((h.congr (by rfl)).ite h)

theorem MidKept.poolFree (h : MidKept s0 s) {i : Nat} : MidKept s0 (poolFree i s) := h.ite ((MidKept.noteLow ((h.congr (by rfl)).incF (by omega))).ite (h.congr (by rfl)))

/-! The catalogue's entries and the energy ledger (R271, R272, R281). -/

theorem MidKept.setEntry (h : MidKept s0 s) {nix : Nat} {b : List Byte} : MidKept s0 (setEntry nix b s) :=
  (((h.congr (by rfl)).setF (by omega)).setF (by omega)).setF (by omega)

theorem MidKept.charge (h : MidKept s0 s) {nix nc : Nat} : MidKept s0 (charge nix nc s) := (MidKept.setEntry (h.incF (by omega))).thenIf fun k => k.setF (by omega)

/-! The journal of a pair (R471 to R476). -/

theorem MidKept.sendHello (h : MidKept s0 s) : MidKept s0 (sendHello s) := h.congr (by rfl)

theorem MidKept.sendLane (h : MidKept s0 s) {kind : Nat} {body : List Nat} : MidKept s0 (sendLane kind body s) :=
  (MidKept.updPair (h.ite h.sendHello) (f := fun p => { p with fseqTx := p.fseqTx + 1 }) fun _ => rfl).emit

theorem MidKept.startSnap (h : MidKept s0 s) : MidKept s0 (startSnap s) := MidKept.sendLane ((((h.congr (by rfl)).setF (by omega)).setF (by omega)).setF (by omega))

theorem MidKept.triggerSnap (h : MidKept s0 s) : MidKept s0 (triggerSnap s) := h.ite ((h.congr (by rfl)).ite h.startSnap)

theorem MidKept.invalidateJournal (h : MidKept s0 s) {why : Nat} : MidKept s0 (invalidateJournal why s) := by
  have hset : MidKept s0 (s.setF F.PAR_STATUS_JOURNAL 2) := h.setF (by omega)
  have hsnap : MidKept s0 (abandonSnap (s.setF F.PAR_STATUS_JOURNAL 2)) := (((hset.congr (by rfl)).setF (by omega)).incF (by omega)).ite hset
  have hbase : MidKept s0 (rebaseJournal (abandonSnap (s.setF F.PAR_STATUS_JOURNAL 2))) := (hsnap.congr (by rfl)).set64 (by omega) (by omega)
  exact (hbase.incF (by omega)).notify.unless (·.triggerSnap)

theorem MidKept.journalRec (h : MidKept s0 s) {body : List Nat} {n : Nat} : MidKept s0 (journalRec body n s) := by
  unfold Machine.journalRec
  extract_lets at_ pad end_ s1 s2 s3 s4
  have h3 : MidKept s0 s3 := ((MidKept.sendLane (h.ite h.sendLane)).set64 (by omega) (by omega)).incF (by omega)
  have h4 : MidKept s0 s4 := h3.updPair fun _ => rfl
  exact h.ite (h.invalidateJournal.ite (h4.thenIf (·.triggerSnap)))

/-! Downlinks, their queues and the associations that end with them (R226 to R228, R250 to R254, R262, R290, R300). -/

theorem MidKept.schedDone (h : MidKept s0 s) {nix status : Nat} : MidKept s0 (schedDone nix status s) :=
  MidKept.notify ((h.congr (by rfl)).incF (by split <;> omega))

theorem MidKept.setReceipt (h : MidKept s0 s) {i : Nat} {r : Option Receipt} : MidKept s0 (setReceipt i r s) := by
  have hset : MidKept s0 (syncReceipts (s.updXch fun x => { x with receipts := Sparse.set (fun _ => none) x.receipts i r })) := (h.congr (by rfl)).setF (by omega)
  unfold Machine.setReceipt
  dsimp only
  split
  · exact hset.journalRec
  · exact hset.journalRec
  · exact hset

theorem MidKept.dlStatus (h : MidKept s0 s) {d : Dl} {status : Nat} : MidKept s0 (dlStatus d status s) := by
  unfold Machine.dlStatus
  dsimp only
  split
  · exact h.congr (by rfl)
  · exact h.congr (by rfl)
  · exact h

theorem MidKept.assocNone (h : MidKept s0 s) {nix updStatus : Nat} : MidKept s0 (assocNone nix updStatus s) := by
  have hleft : MidKept s0 (leaveRoster nix s) := (h.congr (by rfl)).setF (by omega)
  have hput : MidKept s0 (Machine.putEntry nix (entPutBits (s.entry nix) 32 1 0 asNone) (leaveRoster nix s)) := hleft.setEntry.journalRec
  exact (hput.congr (by rfl)).thenIf (·.schedDone)

theorem MidKept.dlReportBase (h : MidKept s0 s) {d : Dl} {status : Nat} : MidKept s0 (dlReportBase d status s) := by
  unfold Machine.dlReportBase
  split
  case h_1 => exact MidKept.setReceipt ((h.incF (by omega)).ite h)
  case h_2 => exact h.updSlt.ite (h.schedDone.ite h)
  case h_3 => exact h.setEntry.ite h
  case h_4 => exact h
  case h_5 => exact h.dlStatus

theorem MidKept.dlCount (h : MidKept s0 s) {i : Nat} {d : Dl} {status : Nat} : MidKept s0 (dlCount i d status s) := by
  have hqueue : MidKept s0 (unqueueDl i s) := (h.congr (by rfl)).setF (by omega)
  have hout : MidKept s0 ((unqueueDl i s).setDl i none) := hqueue.setDl
  exact (hout.thenIf fun k => (k.incF (by omega)).setEntry).thenIf fun k => (k.incF (by omega)).thenIf fun k => k.notify

theorem MidKept.updDl (h : MidKept s0 s) {i : Nat} {f : Dl → Dl} : MidKept s0 (s.updDl i f) := by
  unfold State.updDl
  split
  · exact h.congr (by rfl)
  · exact h

theorem MidKept.assocEnd (h : MidKept s0 s) {nix updStatus : Nat} : MidKept s0 (assocEnd nix updStatus s) :=
  h.assocNone.foldl fun _ _ k => k.ite (k.updDl.ite (MidKept.dlCount (k.incF (by omega))).dlReportBase)

theorem MidKept.dlEndOne (h : MidKept s0 s) {i : Nat} {d : Dl} {status : Nat} : MidKept s0 (dlEndOne i d status s) :=
  h.dlCount.dlReportBase.thenIf fun k => (k.assocEnd.incF (by omega)).notify

theorem MidKept.dlEnd (h : MidKept s0 s) {i status : Nat} : MidKept s0 (dlEnd i status s) := by
  unfold Machine.dlEnd
  split
  · exact h
  · dsimp only
    split
    · exact h.dlEndOne.unless fun k => k.foldl fun _ _ k => k.thenIf (·.dlEndOne)
    · exact h.dlEndOne

/-! The end of a port's command (R159, R245 to R248, R252). -/

theorem MidKept.closeAcc (h : MidKept s0 s) {i : Nat} : MidKept s0 (closeAcc i s) := by
  unfold Machine.closeAcc
  split
  · exact (h.congr (by rfl)).ite h
  · exact h

theorem MidKept.ackEnd (h : MidKept s0 s) {n a : Nat} {c : Held} {status : Nat} : MidKept s0 (ackEnd n a c status s) := by
  unfold Machine.ackEnd
  split
  · exact h
  next x _ =>
    have hover : MidKept s0 (dropReserve n (x.sfd + x.delta) (s.setAcc a (some { x with ackOver := true }))) := h.congr (by rfl)
    have hguard {p : Prop} [Decidable p] {t : State} (ht : MidKept s0 t) : MidKept s0 (if p then chargeGuard x.nix t else t) := ht.thenIf (·.charge)
    exact MidKept.closeAcc ((hover.thenIf (·.charge)).ite ((hguard (hover.incF (by omega))).ite
      (hover.ite ((hguard (hover.thenIf fun k => k.incF (by omega))).ite (hover.congr (by rfl))))))

theorem MidKept.attemptLost (h : MidKept s0 s) {n d status : Nat} : MidKept s0 (attemptLost n d status s) := by
  unfold Machine.attemptLost
  split
  · exact h
  · have hcounted : MidKept s0 (if status = scLate then s.incF (F.XCH_CNT_COUNT 13) else s) := h.thenIf fun k => k.incF (by omega)
    exact hcounted.dlEnd.ite ((MidKept.dlEnd (hcounted.incF (by omega))).ite hcounted.setDl)

theorem MidKept.onTxEnd (h : MidKept s0 s) {n : Nat} {c : Held} {begun : Bool} {status : Nat} : MidKept s0 (onTxEnd n c begun status s) := by
  unfold Machine.onTxEnd
  split
  case h_1 => exact (MidKept.updSlt (h.incF (by omega))).ite (h.ite (MidKept.notify (h.incF (by omega))))
  case h_2 => exact h.ackEnd
  case h_3 => exact h.ite h.attemptLost
  case h_4 => exact h.ite h.attemptLost
  case h_5 => exact (h.incF (by split <;> omega)).ite (h.foldl fun _ _ k => k.updDl)

/-! Ports that turn quiet (R151, R491). -/

section
variable {n : Nat} (hn : n < 16)
include hn

theorem MidKept.syncPool (h : MidKept s0 s) : MidKept s0 (syncPool n s) :=
  (((h.setF (by omega)).setF (by omega)).setF (by omega)).thenIf fun k => k.setF (by omega)

theorem MidKept.releaseDemod (h : MidKept s0 s) {d : Nat} {handedOn : Bool} : MidKept s0 (releaseDemod n d handedOn s) := by
  unfold Machine.releaseDemod
  split
  · exact h
  · dsimp only
    split
    · exact (MidKept.syncPool hn (h.congr (by rfl))).unless (·.poolFree)
    · exact MidKept.syncPool hn (h.congr (by rfl))

theorem MidKept.blankPort (h : MidKept s0 s) : MidKept s0 (blankPort n s) := by
  refine h.foldl fun t d k => ?_
  have hblanked : roCounter roBlanked = 7 := rfl
  unfold failRx
  split
  · exact k
  · exact MidKept.releaseDemod hn ((k.incF (by omega)).setReg (by omega))

theorem MidKept.recordOutcome (h : MidKept s0 s) {status reason : Nat} : MidKept s0 (recordOutcome n status reason s) := by
  have hlast : MidKept s0 ((s.setF (F.RFP_TX_LAST_STATUS n) status).setF (F.RFP_TX_LAST_REASON n) reason) := (h.setF (by omega)).setF (by omega)
  unfold Machine.recordOutcome
  dsimp only
  split
  case h_1 k hk =>
    have hle := outcomeCounter_le hk
    exact hlast.incF (by omega)
  case h_2 => exact hlast

theorem MidKept.endHeld (h : MidKept s0 s) {status reason : Nat} : MidKept s0 (endHeld n status reason s) := by
  unfold Machine.endHeld
  split
  · exact h
  · exact (h.congr (by rfl)).ite (MidKept.recordOutcome hn (h.congr (by rfl))).onTxEnd

theorem MidKept.endWaiting (h : MidKept s0 s) {status reason : Nat} {c : Held} : MidKept s0 (endWaiting n c status reason s) :=
  (h.recordOutcome hn).updPort.onTxEnd

theorem MidKept.portOff (h : MidKept s0 s) : MidKept s0 (portOff n s) := by
  unfold Machine.portOff
  extract_lets s1 s2 s3 s4
  have h2 : MidKept s0 s2 := (h.endHeld hn).foldl fun _ _ k => k.endWaiting hn
  have h3 : MidKept s0 s3 := MidKept.blankPort hn (h2.setF (by omega))
  have h4 : MidKept s0 s4 := ((h3.setF (by omega)).setF (by omega)).setF (by omega)
  exact MidKept.updPort (h4.setF (by omega))

theorem MidKept.quietPort (h : MidKept s0 s) : MidKept s0 (quietPort n s) := by
  unfold Machine.quietPort
  extract_lets st s1 s2
  have h1 : MidKept s0 s1 := ((h.updPort.setF (by omega)).setF (by omega)).ite h
  have h2 : MidKept s0 s2 := MidKept.foldl (h1.endHeld hn).updPort fun _ _ k => k.endWaiting hn
  have hretuned {khz : Nat} : MidKept s0 (retune n khz s2) := MidKept.blankPort hn (MidKept.updPort ((h2.setF (by omega)).setF (by omega)))
  exact h.ite ((h2.portOff hn).ite ((h2.setF (by omega)).ite (hretuned.setF (by omega))))

end

theorem MidKept.quietPorts (h : MidKept s0 s) : MidKept s0 (quietPorts s) :=
  keeps_foldl (K := MidKept s0) h fun _ hn _ k => k.quietPort (List.mem_range.1 hn)

end
end Sys2Proof.Machine

/-! SUPPORT. The key slots and their generations, and what each key command leaves in them (R388 to R404). -/

namespace Sys2Proof.Machine

section
variable {dt : Nat} {s t u : State}

/-! Slots and generations, and what writes neither. -/

theorem State.slotOf_of_key (h : t.key.slots = s.key.slots) (i : Nat) : t.slotOf i = s.slotOf i := congrArg (fun m => Sparse.get (fun _ => KeySlot.empty) m i) h
theorem slotGen_of_tamp (h : t.tamp.gens = s.tamp.gens) (i : Nat) : slotGen i t = slotGen i s := congrArg (fun m => Sparse.get (fun _ => 0) m i) h

theorem State.slotOf_setSlot (s : State) (i : Nat) (k : KeySlot) (n : Nat) : (s.setSlot i k).slotOf n = if n = i then k else s.slotOf n := Sparse.get_set ..
theorem State.slotOf_setSlot_self (s : State) (i : Nat) (k : KeySlot) : (s.setSlot i k).slotOf i = k := (State.slotOf_setSlot s i k i).trans (if_pos rfl)
theorem State.setSlot_tamp (s : State) (i : Nat) (k : KeySlot) : (s.setSlot i k).tamp = s.tamp := rfl
theorem State.setSlot_fab (s : State) (i : Nat) (k : KeySlot) : (s.setSlot i k).fab = s.fab := rfl

theorem slotGen_bumpGen (i n : Nat) (s : State) : slotGen n (bumpGen i s) = if n = i then slotGen i s + 1 else slotGen n s := Sparse.get_set ..
theorem bumpGen_slotOf (i n : Nat) (s : State) : (bumpGen i s).slotOf n = s.slotOf n := rfl

/-- KEY_STATUS alone shows the slots. -/
theorem OnlyRegs.setSlot (s : State) (i : Nat) (k : KeySlot) : OnlyRegs [0x130000] s (s.setSlot i k) :=
  ((OnlyRegs.of_regs [] (s := s) (t := s.updKey fun x => { x with slots := Sparse.set (fun _ => KeySlot.empty) x.slots i k }) rfl).trans
    ((OnlyRegs.setF _ F.KEY_STATUS_GENERAL_USED _).trans (OnlyRegs.setF _ F.KEY_STATUS_CACHE_USED _))).mono (by decide)

theorem OnlyRegs.useKey (i : Nat) (s : State) : OnlyRegs [0x130000] s (useKey i s) :=
  (OnlyRegs.of_regs [] (s := s) (t := s.updKey fun x => { x with tick := x.tick + 1 }) rfl).trans (OnlyRegs.setSlot _ i _)

/-- A use counted: UNLIMITED stays (R391). -/
theorem useKey_slotOf (i n : Nat) (s : State) :
    (useKey i s).slotOf n = if n = i then { s.slotOf i with uses := if (s.slotOf i).uses = 0xFFFFFFFF then (s.slotOf i).uses else (s.slotOf i).uses - 1, lastUse := s.key.tick + 1 }
      else s.slotOf n := Sparse.get_set ..

theorem useKey_tamp (i : Nat) (s : State) : (useKey i s).tamp = s.tamp := rfl

/-! The journal (R472) leaves the key store, TAMP's memory and the fabric. -/

theorem JournalClosed.keysStand (k : KeyStore) (p : Tamp) (f : Fabric) : JournalClosed fun t => (t.key, t.tamp, t.fab) = (k, p, f) where
  reg hs _ := hs
  notice {s k status port arg} hs := by
    rw [notify_key, notify_tamp, notify_fab]
    exact hs
  lane hs hp := (congrArg (fun t : State => (t.key, t.tamp, t.fab)) hp).trans hs

theorem journalRec_keys (body : List Nat) (n : Nat) (s : State) :
    ((journalRec body n s).key, (journalRec body n s).tamp, (journalRec body n s).fab) = (s.key, s.tamp, s.fab) :=
  (JournalClosed.keysStand s.key s.tamp s.fab).journalRec rfl

/-! The end of a key command (R395). -/

/-- KEY_CMD_STATUS, the count and the staging registers as a command's end leaves them. -/
def KeyEnds (status detail reason : Nat) (s t : State) : Prop :=
  t.reg 0x130024 = BitVec.ofNat 32 (2 ^ 30 + status * 2 ^ 16 + detail * 2 ^ 8 + reason) ∧ t.getF (F.KEY_CNT_COUNT 3) = (s.getF (F.KEY_CNT_COUNT 3) + 1) % 2 ^ 32 ∧
    ∀ n < 8, t.getF (F.KEY_STAGE_KEY n) = 0

/-- Zeroised staging, beside the status. -/
def stageCleared (s : State) : State := (List.range 8).foldl (fun s n => s.setF (F.KEY_STAGE_KEY n) 0) s

theorem OnlyRegs.stageCleared (s : State) : OnlyRegs ((List.range 8).map fun n => 0x130040 + 4 * n) s (stageCleared s) := fun a ha =>
  keeps_foldl (K := fun t => t.reg a = s.reg a) rfl fun n hn t ht =>
    (State.reg_setF_ne t 0 fun (e : a = 0x130040 + 4 * n) => ha (e ▸ List.mem_map_of_mem (f := fun n => 0x130040 + 4 * n) hn)).trans ht

theorem stage_foldl {n : Nat} {l : List Nat} (h : n ∈ l ∨ s.getF (F.KEY_STAGE_KEY n) = 0) : (l.foldl (fun s n => s.setF (F.KEY_STAGE_KEY n) 0) s).getF (F.KEY_STAGE_KEY n) = 0 := by
  induction l generalizing s with
  | nil => exact h.resolve_left List.not_mem_nil
  | cons k l ih =>
    refine ih ?_
    by_cases hk : n = k
    · rw [hk]
      exact .inr (State.getF_setF _ 0 (Nat.zero_le 31) (Nat.lt_succ_self 31))
    · refine h.imp (fun hn => (List.mem_cons.1 hn).resolve_left hk) fun hs => (State.getF_setF_ne s 0 ?_).trans hs
      show 0x130040 + 4 * n ≠ 0x130040 + 4 * k
      omega

/-- The state of a command's end before its notice. -/
def keyEnded (status detail reason : Nat) (s : State) : State :=
  (stageCleared (s.setReg 0x130024 (BitVec.ofNat 32 (2 ^ 30 + status * 2 ^ 16 + detail * 2 ^ 8 + reason)))).incF (F.KEY_CNT_COUNT 3)

theorem stageCleared_parts (s : State) : ∃ r, stageCleared s = { s with regs := r } :=
  keeps_foldl (K := fun t => ∃ r, t = { s with regs := r }) ⟨_, rfl⟩ fun n _ t ht => by
    obtain ⟨r, rfl⟩ := ht
    exact ⟨_, rfl⟩

theorem keyEnded_parts (status detail reason : Nat) (s : State) : ∃ r, keyEnded status detail reason s = { s with regs := r } := by
  obtain ⟨r, h⟩ := stageCleared_parts (s.setReg 0x130024 (BitVec.ofNat 32 (2 ^ 30 + status * 2 ^ 16 + detail * 2 ^ 8 + reason)))
  exact ⟨_, by rw [keyEnded, h]; rfl⟩

theorem OnlyRegs.keyEnded (status detail reason : Nat) (s : State) :
    OnlyRegs (0x130024 :: ((List.range 8).map fun n => 0x130040 + 4 * n) ++ [0x13010C]) s (keyEnded status detail reason s) :=
  ((OnlyRegs.setReg s 0x130024 _).trans (OnlyRegs.stageCleared _)).trans (OnlyRegs.incF _ (F.KEY_CNT_COUNT 3))

theorem keyEnded_ends (status detail reason : Nat) (s : State) : KeyEnds status detail reason s (keyEnded status detail reason s) := by
  have hstage := OnlyRegs.stageCleared (s.setReg 0x130024 (BitVec.ofNat 32 (2 ^ 30 + status * 2 ^ 16 + detail * 2 ^ 8 + reason)))
  refine ⟨?_, ?_, fun n hn => ?_⟩
  · exact (State.reg_incF_ne _ (show 0x130024 ≠ 0x13010C by decide)).trans ((hstage _ (by decide)).trans (State.reg_setReg_self ..))
  · refine (State.getF_incF_counter 0x13010C _).trans ?_
    rw [hstage.getF (by decide), (OnlyRegs.setReg s 0x130024 _).getF (by decide)]
  · exact (State.getF_setF_ne _ _ (show 0x130040 + 4 * n ≠ 0x13010C by omega)).trans (stage_foldl (.inl (List.mem_range.2 hn)))

theorem keyCmdEnd_eq (cmd slot status detail reason : Nat) (s : State) :
    keyCmdEnd cmd slot status detail reason s = notify N.KEY_CMD_DONE status 0 (cmd * 2 ^ 28 + slot) (keyEnded status detail reason s) := rfl

theorem KeyEnds.notify {status detail reason : Nat} (h : KeyEnds status detail reason s t) (k : NoticeKind) (st port arg : Nat) :
    KeyEnds status detail reason s (notify k st port arg t) := by
  obtain ⟨hreg, hcount, hstage⟩ := h
  refine ⟨(notify_reg (by decide)).trans hreg, (notify_getF (by decide)).trans hcount, fun n hn => (notify_getF ?_).trans (hstage n hn)⟩
  simp only [List.mem_cons, List.not_mem_nil, or_false]
  omega

/-- A count that stood until the end counts from where it stood. -/
theorem KeyEnds.of_count {status detail reason : Nat} (h : KeyEnds status detail reason u t) (hcount : u.getF (F.KEY_CNT_COUNT 3) = s.getF (F.KEY_CNT_COUNT 3)) :
    KeyEnds status detail reason s t := by
  obtain ⟨hreg, hcnt, hstage⟩ := h
  exact ⟨hreg, hcnt.trans (by rw [hcount]), hstage⟩

/-- A command whose slot the journal takes when it ends (R472). -/
def keyJournalled (c : KeyCmd) (status : Nat) (s : State) : State := if status = scOk ∧ [1, 2, 3, 5, 6].contains c.cmd then journalKey c.slot s else s

theorem keyDone_eq (c : KeyCmd) (status detail reason : Nat) (s : State) :
    keyDone c status detail reason s = notify N.KEY_CMD_DONE status 0 (c.cmd * 2 ^ 28 + c.slot) (keyEnded status detail reason (keyJournalled c status s)) := rfl

theorem keyJournalled_keys (c : KeyCmd) (status : Nat) (s : State) :
    ((keyJournalled c status s).key, (keyJournalled c status s).tamp, (keyJournalled c status s).fab) = (s.key, s.tamp, s.fab) := by
  unfold keyJournalled
  split
  · exact journalRec_keys ..
  · rfl

theorem keyJournalled_kept (c : KeyCmd) (status : Nat) (s : State) : MidKept s (keyJournalled c status s) := (MidKept.journalRec (.refl s)).ite (.refl s)

theorem keyDone_keys (c : KeyCmd) (status detail reason : Nat) (s : State) : (keyDone c status detail reason s).key = s.key ∧ (keyDone c status detail reason s).tamp = s.tamp := by
  obtain ⟨r, h⟩ := keyEnded_parts status detail reason (keyJournalled c status s)
  obtain ⟨hkey, hrest⟩ := Prod.mk.inj (keyJournalled_keys c status s)
  rw [keyDone_eq, notify_key, notify_tamp, h]
  exact ⟨hkey, (Prod.mk.inj hrest).1⟩

theorem keyDone_ends (c : KeyCmd) (status detail reason : Nat) (s : State) : KeyEnds status detail reason s (keyDone c status detail reason s) :=
  ((keyEnded_ends status detail reason (keyJournalled c status s)).of_count (State.getF_of_reg ((keyJournalled_kept c status s).reg _ (by decide)))).notify _ _ _ _

theorem keyDone_slotOf (c : KeyCmd) (status detail reason : Nat) (s : State) (n : Nat) : (keyDone c status detail reason s).slotOf n = s.slotOf n :=
  State.slotOf_of_key (congrArg KeyStore.slots (keyDone_keys c status detail reason s).1) n
theorem keyDone_gen (c : KeyCmd) (status detail reason : Nat) (s : State) (n : Nat) : slotGen n (keyDone c status detail reason s) = slotGen n s :=
  slotGen_of_tamp (congrArg Tamp.gens (keyDone_keys c status detail reason s).2) n

/-- A refusal ends the command and changes no slot. -/
theorem keyDone_refuses (c : KeyCmd) (status detail reason : Nat) (s : State) :
    KeyEnds status detail reason s (keyDone c status detail reason s) ∧ (keyDone c status detail reason s).key.slots = s.key.slots ∧
      (keyDone c status detail reason s).tamp.gens = s.tamp.gens := by
  obtain ⟨hkey, htamp⟩ := keyDone_keys c status detail reason s
  exact ⟨keyDone_ends .., congrArg KeyStore.slots hkey, congrArg Tamp.gens htamp⟩

/-! A key put into a slot (R390, R395). -/

/-- The slot's generation, one further where it held a key. -/
def genTaken (i : Nat) (s : State) : State := if (s.slotOf i).full then bumpGen i s else s

theorem genTaken_key (i : Nat) (s : State) : (genTaken i s).key = s.key := by
  unfold genTaken
  split <;> rfl

theorem genTaken_gen (i n : Nat) (s : State) : slotGen n (genTaken i s) = slotGen n s + if n = i ∧ (s.slotOf i).full = true then 1 else 0 := by
  unfold genTaken
  by_cases hfull : (s.slotOf i).full = true
  · rw [if_pos hfull, slotGen_bumpGen]
    by_cases hn : n = i
    · rw [if_pos hn, if_pos ⟨hn, hfull⟩, hn]
    · rw [if_neg hn, if_neg fun h => hn h.1]
      rfl
  · rw [if_neg hfull, if_neg fun h => hfull h.2]
    rfl

theorem OnlyRegs.genTaken (i : Nat) (s : State) : OnlyRegs [] s (genTaken i s) := by
  unfold Machine.genTaken
  split <;> exact OnlyRegs.of_regs [] rfl

theorem writeKey_eq (c : KeyCmd) (k : KeySlot) (s : State) : writeKey c k s = keyDone c scOk 0 0 ((genTaken c.slot s).setSlot c.slot k) := rfl

/-- The slot holds the key, its generation follows, and the other slots stand. -/
theorem writeKey_puts (c : KeyCmd) (k : KeySlot) (s : State) :
    KeyEnds scOk 0 0 s (writeKey c k s) ∧ (∀ n, (writeKey c k s).slotOf n = if n = c.slot then k else s.slotOf n) ∧
      ∀ n, slotGen n (writeKey c k s) = slotGen n s + if n = c.slot ∧ (s.slotOf c.slot).full = true then 1 else 0 := by
  rw [writeKey_eq]
  have hregs := (OnlyRegs.genTaken c.slot s).trans (OnlyRegs.setSlot _ c.slot k)
  refine ⟨(keyDone_ends ..).of_count (hregs.getF (by decide)), fun n => ?_, fun n => ?_⟩
  · rw [keyDone_slotOf, State.slotOf_setSlot, State.slotOf_of_key (congrArg KeyStore.slots (genTaken_key c.slot s))]
  · rw [keyDone_gen, slotGen_of_tamp (congrArg Tamp.gens (State.setSlot_tamp ..)), genTaken_gen]

end
end Sys2Proof.Machine

/-! SUPPORT. The key commands: what each may end with, and what a deferral and its application do (R393 to R401). -/

namespace Sys2Proof.Machine

section
variable {dt : Nat} {s t : State} {c : KeyCmd}

/-! A read of DRAM by an engine (R341, R342). -/

theorem withRead_of_none {α : Type} {a n : Nat} {bad : Nat → State → α} {good : List Byte → State → α} (h : badWord a n s = none) :
    withRead a n s bad good = good (s.bytes a n) s := by
  unfold withRead dramRead
  rw [h]

theorem withRead_of_some {α : Type} {a n w : Nat} {bad : Nat → State → α} {good : List Byte → State → α} (h : badWord a n s = some w) :
    withRead a n s bad good = bad w (foundUe w false s) := by
  unfold withRead dramRead
  rw [h]

/-- An uncorrectable word met leaves the keys. -/
theorem foundUe_keys (w : Nat) (scrub : Bool) (s : State) : (foundUe w scrub s).key = s.key ∧ (foundUe w scrub s).tamp = s.tamp := by
  unfold foundUe
  dsimp only
  rw [notify_key, notify_tamp]
  split <;> exact ⟨rfl, rfl⟩

theorem OnlyRegs.foundUe (w : Nat) (scrub : Bool) (s : State) : OnlyRegs ([0x11800C, 0x118014] ++ noticeRegs) s (foundUe w scrub s) := by
  unfold Machine.foundUe
  extract_lets s1 s2
  have h1 : OnlyRegs [0x11800C, 0x118014] s s1 := (OnlyRegs.setF s F.DRM_UE_CNT_COUNT _).mono (by decide)
  have h2 : OnlyRegs [0x11800C, 0x118014] s s2 := keeps_ite (K := fun t => OnlyRegs [0x11800C, 0x118014] s t) h1 ((h1.trans (OnlyRegs.setReg s1 0x118014 _)).mono (by decide))
  exact h2.trans (OnlyRegs.notify _ _ _ _ _)

/-! What an operation leaves: the generations, the deferred command and the count of ended commands. -/

/-- The keys stand but for uses, and so does the count of ended commands. -/
structure KeyRead (s t : State) : Prop where
  tamp : t.tamp = s.tamp
  deferred : t.key.deferred = s.key.deferred
  count : t.getF (F.KEY_CNT_COUNT 3) = s.getF (F.KEY_CNT_COUNT 3)

theorem KeyRead.refl (s : State) : KeyRead s s := ⟨rfl, rfl, rfl⟩

theorem KeyRead.foundUe (w : Nat) (scrub : Bool) (s : State) : KeyRead s (foundUe w scrub s) := by
  obtain ⟨hkey, htamp⟩ := foundUe_keys w scrub s
  exact ⟨htamp, congrArg KeyStore.deferred hkey, (OnlyRegs.foundUe w scrub s).getF (by decide)⟩

theorem KeyRead.useKey (i : Nat) (s : State) : KeyRead s (useKey i s) := ⟨useKey_tamp i s, rfl, (OnlyRegs.useKey i s).getF (by decide)⟩

/-- The first check of a blob that fails gives a status and a DETAIL of one byte each (R394). -/
theorem blobSlot_error {h st d : Nat} {b : List Byte} (hb : blobSlot h b s = .error (st, d)) : st < 64 ∧ d < 256 := by
  unfold blobSlot at hb
  extract_lets parent w at hb
  split at hb
  · cases hb; decide
  split at hb
  · cases hb; decide
  split at hb
  · cases hb; decide
  split at hb
  · cases hb; decide
  split at hb
  · cases hb; decide
  split at hb
  · cases hb; decide
  · cases hb

/-- A blob with an uncorrectable word. -/
theorem unwrapBlob_bad {h w : Nat} (hbad : badWord (blobBase s + 80 * h) 80 s = some w) : unwrapBlob h s = (.error (scFaultEcc, 0), foundUe w false s) :=
  withRead_of_some hbad

/-- A blob that is read: a key unwrapped counts a use of a wrapper slot. -/
theorem unwrapBlob_read {h : Nat} (hbad : badWord (blobBase s + 80 * h) 80 s = none) :
    ∃ w, unwrapBlob h s = (blobSlot h (s.bytes (blobBase s + 80 * h) 80) s, match blobSlot h (s.bytes (blobBase s + 80 * h) 80) s with
      | .ok _ => if w = 0xFF then s else useKey w s
      | .error _ => s) :=
  ⟨_, withRead_of_none hbad⟩

/-- A blob that cannot be read or that fails a check leaves every slot. -/
theorem unwrapBlob_error {h st d : Nat} (hb : (unwrapBlob h s).1 = .error (st, d)) :
    KeyRead s (unwrapBlob h s).2 ∧ (unwrapBlob h s).2.key = s.key ∧ st < 64 ∧ d < 256 := by
  cases hbad : badWord (blobBase s + 80 * h) 80 s with
  | some w =>
    rw [unwrapBlob_bad hbad] at hb ⊢
    cases hb
    exact ⟨KeyRead.foundUe .., (foundUe_keys ..).1, by decide, by decide⟩
  | none =>
    obtain ⟨w, hread⟩ := unwrapBlob_read hbad
    rw [hread] at hb ⊢
    dsimp only at hb ⊢
    rw [hb]
    exact ⟨KeyRead.refl s, rfl, blobSlot_error hb⟩

theorem unwrapBlob_ok {h : Nat} {k : KeySlot} (hb : (unwrapBlob h s).1 = .ok k) : KeyRead s (unwrapBlob h s).2 := by
  cases hbad : badWord (blobBase s + 80 * h) 80 s with
  | some w =>
    rw [unwrapBlob_bad hbad] at hb
    cases hb
  | none =>
    obtain ⟨w, hread⟩ := unwrapBlob_read hbad
    rw [hread] at hb ⊢
    dsimp only at hb ⊢
    rw [hb]
    exact keeps_ite (KeyRead.refl s) (KeyRead.useKey ..)

/-- What a read gives does not depend on the time where what follows it does not. -/
theorem withRead_elapse {α : Type} {a n : Nat} {bad bad' : Nat → State → α × State} {good good' : List Byte → State → α × State} (s : State) (dt : Nat)
    (hbad : ∀ w, (bad w (foundUe w false (s.elapse dt))).1 = (bad' w (foundUe w false s)).1)
    (hgood : (good (s.bytes a n) (s.elapse dt)).1 = (good' (s.bytes a n) s).1) : (withRead a n (s.elapse dt) bad good).1 = (withRead a n s bad' good').1 := by
  cases h : badWord a n s with
  | some w =>
    rw [withRead_of_some h, withRead_of_some (s := s.elapse dt) h]
    exact hbad w
  | none =>
    rw [withRead_of_none h, withRead_of_none (s := s.elapse dt) h, State.bytes_of_dram (s := s) (t := s.elapse dt) rfl]
    exact hgood

theorem unwrapBlob_elapse (h : Nat) (s : State) (dt : Nat) : (unwrapBlob h (s.elapse dt)).1 = (unwrapBlob h s).1 := withRead_elapse s dt (fun _ => rfl) rfl

/-- The data of a DERIVE met an uncorrectable word, failed a check, or were read (R397). -/
theorem deriveData_cases (c : KeyCmd) (s : State) :
    (∃ w, deriveData c s = (.error (scFaultEcc, 0), foundUe w false s)) ∨ (∃ r, r < 256 ∧ deriveData c s = (.error (scDenied, r), s)) ∨ ∃ x, deriveData c s = (.ok x, s) := by
  unfold deriveData
  split
  · exact .inr (.inl ⟨_, by decide, rfl⟩)
  cases hlen : badWord c.addr 4 s with
  | some w => exact .inl ⟨w, withRead_of_some hlen⟩
  | none =>
    rw [withRead_of_none hlen]
    extract_lets a b
    split
    · exact .inr (.inl ⟨_, by decide, rfl⟩)
    split
    · exact .inr (.inl ⟨_, by decide, rfl⟩)
    cases hdata : badWord (c.addr + 4) (a + b) s with
    | some w => exact .inl ⟨w, withRead_of_some hdata⟩
    | none => exact .inr (.inr ⟨_, withRead_of_none hdata⟩)

theorem fst_ite_congr {α β : Type} {p : Prop} [Decidable p] {x y x' y' : α × β} (hx : p → x.1 = x'.1) (hy : ¬ p → y.1 = y'.1) :
    (if p then x else y).1 = (if p then x' else y').1 := by
  split
  next h => exact hx h
  next h => exact hy h

theorem deriveData_elapse (c : KeyCmd) (s : State) (dt : Nat) : (deriveData c (s.elapse dt)).1 = (deriveData c s).1 := by
  unfold deriveData
  refine fst_ite_congr (fun _ => rfl) fun _ => withRead_elapse s dt (fun _ => rfl) ?_
  exact fst_ite_congr (fun _ => rfl) fun _ => fst_ite_congr (fun _ => rfl) fun _ => withRead_elapse s dt (fun _ => rfl) rfl

/-! A command as it is taken (R395, R401, R409). -/

theorem writeKeyCmd_ignored {m : Master} {cmd slot src : Nat} (h : s.owns m = false ∨ s.getF F.KEY_CMD_STATUS_BUSY = 1) :
    writeKeyCmd m cmd slot src s = ignored m 0x130010 s := by
  refine if_pos ?_
  rcases h with h | h <;> simp only [h, Bool.not_false, Bool.true_or, BEq.rfl, Bool.or_true]

/-- KEY_CMD_STATUS while a command is deferred: BUSY, DONE as it stood, and DEFERRED. -/
def deferredStatus (s : State) : Word := BitVec.ofNat 32 (2 ^ 31 + s.getF F.KEY_CMD_STATUS_DONE * 2 ^ 30 + scDeferred * 2 ^ 16)

/-- A command on a pinned slot waits, and the slot closes (R401). -/
def keyDeferred (c : KeyCmd) (s : State) : State :=
  (((s.setReg 0x130024 (deferredStatus s)).setSlot c.slot { s.slotOf c.slot with closing := true }).incF (F.KEY_CNT_COUNT 4)).updKey fun x => { x with deferred := some c }

theorem writeKeyCmd_taken {m : Master} {cmd slot src : Nat} (howns : s.owns m = true) (hidle : s.getF F.KEY_CMD_STATUS_BUSY = 0) (hcmd : 1 ≤ cmd ∧ cmd ≤ 7) :
    writeKeyCmd m cmd slot src s =
      if mustDefer (keyCmdOf cmd slot src s) s then keyDeferred (keyCmdOf cmd slot src s) s else runKeyCmd (keyCmdOf cmd slot src s) s := by
  refine (if_neg ?_).trans ((if_neg (by omega)).trans rfl)
  simp only [howns, hidle, Bool.not_true, Bool.false_or]
  decide

/-- What each command does on a general slot that takes it. -/
def keyEffect (c : KeyCmd) (s : State) : State :=
  match c.cmd with
  | 1 => runWriteClear c s
  | 2 => runUnwrap c s
  | 3 => runDerive c s
  | 5 => runErase c s
  | _ => runExpire c s

theorem runKeyCmd_wrap (husable : keysUsable s = true) (hcmd : c.cmd = 4) : runKeyCmd c s = runWrap c s :=
  (if_neg (by rw [husable]; decide)).trans (if_pos hcmd)

theorem runKeyCmd_flush (husable : keysUsable s = true) (hcmd : c.cmd = 7) : runKeyCmd c s = runFlush c s :=
  (if_neg (by rw [husable]; decide)).trans ((if_neg (by rw [hcmd]; decide)).trans (if_pos hcmd))

theorem runKeyCmd_general (husable : keysUsable s = true) (hcmd : c.cmd ≠ 4 ∧ c.cmd ≠ 7) (hslot : c.slot < 64) (hopen : (s.slotOf c.slot).closing = false) :
    runKeyCmd c s = keyEffect c s := by
  refine (if_neg (by rw [husable]; decide)).trans ((if_neg hcmd.1).trans ((if_neg hcmd.2).trans ((if_neg (Nat.not_le.2 hslot)).trans ?_)))
  exact (if_neg (by rw [hopen]; decide)).trans rfl

/-! The effects on a general slot (R390, R391, R394 to R397). -/

/-- A refused command changes no slot and no generation. -/
@[reducible] def KeyRefused (status detail reason : Nat) (s t : State) : Prop :=
  KeyEnds status detail reason s t ∧ t.key.slots = s.key.slots ∧ t.tamp.gens = s.tamp.gens

theorem runWriteClear_invalid (hattr : attrBad c = true) : KeyRefused scDenied 0 krInvalid s (runWriteClear c s) := by
  rw [runWriteClear, if_pos hattr]
  exact keyDone_refuses ..

theorem runWriteClear_genEnd (hattr : attrBad c = false) (hgen : genEnds c.slot s = true) : KeyRefused scDenied 0 krGenEnd s (runWriteClear c s) := by
  rw [runWriteClear, if_neg (by rw [hattr]; decide), if_pos hgen]
  exact keyDone_refuses ..

theorem runWriteClear_writes (hattr : attrBad c = false) (hgen : genEnds c.slot s = false) : runWriteClear c s =
    writeKey c ⟨true, attrKlen c, attrXnr c, false, 0, false, attrPerms c, 0, c.uses, 0xFF, 0, 0, c.stage.take (if attrKlen c then 32 else 16), 0, false⟩ s :=
  (if_neg (by rw [hattr]; decide)).trans (if_neg (by rw [hgen]; decide))

theorem runErase_genEnd (hgen : genEnds c.slot s = true) : KeyRefused scDenied 0 krGenEnd s (runErase c s) := by
  rw [runErase, if_pos hgen]
  exact keyDone_refuses ..

/-- ERASE puts the empty slot. -/
theorem runErase_writes (hgen : genEnds c.slot s = false) : runErase c s = writeKey c KeySlot.empty s := if_neg (by rw [hgen]; decide)

theorem writeKey_target (c : KeyCmd) (k : KeySlot) (s : State) :
    KeyEnds scOk 0 0 s (writeKey c k s) ∧ (writeKey c k s).slotOf c.slot = k ∧ slotGen c.slot (writeKey c k s) = slotGen c.slot s + (if (s.slotOf c.slot).full then 1 else 0) ∧
      ∀ i, i ≠ c.slot → (writeKey c k s).slotOf i = s.slotOf i ∧ slotGen i (writeKey c k s) = slotGen i s := by
  obtain ⟨hends, hslots, hgens⟩ := writeKey_puts c k s
  refine ⟨hends, (hslots _).trans (if_pos rfl), ?_, fun i hi => ⟨(hslots i).trans (if_neg hi), ?_⟩⟩
  · rw [hgens]
    simp only [true_and]
  · rw [hgens, if_neg fun h => hi h.1]
    rfl

section
variable (harg : c.arg % 2 ^ 21 < 2 ^ 20) (hgen : genEnds c.slot s = false)
include harg hgen

theorem runUnwrap_refused {st d : Nat} (hblob : (unwrapBlob (c.arg % 2 ^ 20) s).1 = .error (st, d)) : KeyRefused st d 0 s (runUnwrap c s) := by
  obtain ⟨hread, hkey, -⟩ := unwrapBlob_error hblob
  have hpair : unwrapBlob (c.arg % 2 ^ 20) s = (.error (st, d), (unwrapBlob (c.arg % 2 ^ 20) s).2) := Prod.ext hblob rfl
  rw [runUnwrap, if_neg (Nat.not_le.2 harg), if_neg (by rw [hgen]; decide), hpair]
  obtain ⟨hends, hslots, hgens⟩ := keyDone_refuses c st d 0 ((unwrapBlob (c.arg % 2 ^ 20) s).2.incF (F.KEY_CNT_COUNT 2))
  refine ⟨hends.of_count ?_, hslots.trans (congrArg KeyStore.slots hkey), hgens.trans (congrArg Tamp.gens hread.tamp)⟩
  exact ((OnlyRegs.incF _ (F.KEY_CNT_COUNT 2)).getF (by decide)).trans hread.count

theorem runUnwrap_writes {k : KeySlot} (hblob : (unwrapBlob (c.arg % 2 ^ 20) s).1 = .ok k) :
    KeyEnds scOk 0 0 s (runUnwrap c s) ∧ (runUnwrap c s).slotOf c.slot = k := by
  have hpair : unwrapBlob (c.arg % 2 ^ 20) s = (.ok k, (unwrapBlob (c.arg % 2 ^ 20) s).2) := Prod.ext hblob rfl
  rw [runUnwrap, if_neg (Nat.not_le.2 harg), if_neg (by rw [hgen]; decide), hpair]
  obtain ⟨hends, hslot, -⟩ := writeKey_target c k (unwrapBlob (c.arg % 2 ^ 20) s).2
  exact ⟨hends.of_count (unwrapBlob_ok hblob).count, hslot⟩

end

/-- The key that DERIVE puts into its target (R397). -/
def derivedKey (c : KeyCmd) (label ctx : List Byte) (s : State) : KeySlot :=
  ⟨true, attrKlen c, attrXnr c || (s.slotOf c.src).xnr, false, 2, false, attrPerms c, (s.slotOf c.src).depth + 1, c.uses, c.src, slotGen c.src s, 0,
    kdf (s.slotOf c.src).material label ctx (if attrKlen c then 256 else 128), 0, false⟩

/-- A slot that may be derived from (R396). -/
structure Derives (c : KeyCmd) (s : State) : Prop where
  src : c.src < 64
  attr : attrBad c = false
  full : (s.slotOf c.src).full = true
  depth : (s.slotOf c.src).depth < 3
  may : (s.slotOf c.src).may permDerive = true
  perms : attrPerms c &&& (s.slotOf c.src).perms = attrPerms c
  fresh : keyStale 4 (s.slotOf c.src) s = false
  lives : keyOver (s.slotOf c.src) = false

theorem runDerive_eq (h : Derives c s) (hgen : genEnds c.slot s = false) {label ctx : List Byte} (hdata : (deriveData c s).1 = .ok (label, ctx)) :
    runDerive c s = writeKey c (derivedKey c label ctx s) (useKey c.src s) := by
  have hpair : deriveData c s = (.ok (label, ctx), s) := by
    obtain ⟨w, hd⟩ | ⟨r, -, hd⟩ | ⟨x, hd⟩ := deriveData_cases c s
    · rw [hd] at hdata
      cases hdata
    · rw [hd] at hdata
      cases hdata
    · rw [hd] at hdata ⊢
      cases hdata
      rfl
  obtain ⟨hsrc, hattr, hfull, hdepth, hmay, hperms, hfresh, hlives⟩ := h
  unfold runDerive
  extract_lets p
  rw [if_neg (Nat.not_le.2 hsrc), if_neg (by rw [hattr]; exact fun h => h.elim Bool.noConfusion (Nat.not_le.2 hdepth)), if_neg (by rw [hfull]; decide),
    if_neg (by rw [hmay]; exact fun h => h.elim (by decide) fun h => h hperms), if_neg (by rw [hfresh]; decide), if_neg (by rw [hlives]; decide),
    if_neg (by rw [hgen]; decide), hpair]
  rfl

/-- A use of the source counted, and the derived key in its slot. -/
theorem runDerive_writes (h : Derives c s) (hgen : genEnds c.slot s = false) {label ctx : List Byte} (hdata : (deriveData c s).1 = .ok (label, ctx)) :
    KeyEnds scOk 0 0 s (runDerive c s) ∧ (runDerive c s).slotOf c.slot = derivedKey c label ctx s ∧
      slotGen c.slot (runDerive c s) = slotGen c.slot s + (if (s.slotOf c.slot).full then 1 else 0) ∧
      (∀ i, i ≠ c.slot → i ≠ c.src → (runDerive c s).slotOf i = s.slotOf i ∧ slotGen i (runDerive c s) = slotGen i s) ∧
      (c.slot ≠ c.src → ((runDerive c s).slotOf c.src).uses = if (s.slotOf c.src).uses = 0xFFFFFFFF then (s.slotOf c.src).uses else (s.slotOf c.src).uses - 1) := by
  rw [runDerive_eq h hgen hdata]
  obtain ⟨hends, hslot, hgen', hothers⟩ := writeKey_target c (derivedKey c label ctx s) (useKey c.src s)
  have hfull : ((useKey c.src s).slotOf c.slot).full = (s.slotOf c.slot).full := by
    rw [useKey_slotOf]
    split
    next e => rw [e]
    · rfl
  refine ⟨hends.of_count (KeyRead.useKey ..).count, hslot, ?_, fun i hi hsrc => ⟨(hothers i hi).1.trans ?_, (hothers i hi).2⟩, fun hne => ?_⟩
  · rw [hgen', hfull]
    rfl
  · rw [useKey_slotOf, if_neg hsrc]
  · rw [(hothers _ hne.symm).1, useKey_slotOf, if_pos rfl]

/-- EXPIRE marks the key that the slot holds (R401). -/
theorem runExpire_marks (c : KeyCmd) (s : State) : KeyEnds scOk 0 0 s (runExpire c s) ∧ (runExpire c s).tamp.gens = s.tamp.gens ∧
    ∀ i, (runExpire c s).slotOf i = if i = c.slot ∧ (s.slotOf c.slot).full = true then { s.slotOf c.slot with expired := true } else s.slotOf i := by
  unfold runExpire
  extract_lets k
  by_cases hfull : k.full = true
  · rw [if_pos hfull]
    refine ⟨(keyDone_ends ..).of_count ((OnlyRegs.setSlot s c.slot _).getF (by decide)), congrArg Tamp.gens (keyDone_keys ..).2, fun i => ?_⟩
    rw [keyDone_slotOf, State.slotOf_setSlot]
    exact if_congr (and_iff_left hfull).symm rfl rfl
  · rw [if_neg hfull]
    exact ⟨keyDone_ends .., congrArg Tamp.gens (keyDone_keys ..).2, fun i => (keyDone_slotOf ..).trans (if_neg fun h => hfull h.2).symm⟩

theorem State.incF_slotOf (s : State) (f : Field) (i : Nat) : (s.incF f).slotOf i = s.slotOf i := rfl
theorem State.updKey_reg (s : State) (f : KeyStore → KeyStore) (a : Nat) : (s.updKey f).reg a = s.reg a := rfl

theorem closed_slotOf (w : Word) (i a : Nat) (k : KeySlot) (d : Option KeyCmd) (s : State) :
    ((((s.setReg a w).setSlot i k).incF (F.KEY_CNT_COUNT 4)).updKey fun x => { x with deferred := d }).slotOf i = k := State.slotOf_setSlot_self (s.setReg a w) i k

/-- A deferred command shows DEFERRED, and its slot closes (R401). -/
theorem keyDeferred_waits (c : KeyCmd) (s : State) : (keyDeferred c s).key.deferred = some c ∧ (keyDeferred c s).reg 0x130024 = deferredStatus s ∧
    (keyDeferred c s).slotOf c.slot = { s.slotOf c.slot with closing := true } ∧ (keyDeferred c s).tamp = s.tamp := by
  refine ⟨rfl, ?_, ?_, rfl⟩
  · rw [keyDeferred, State.updKey_reg, State.reg_incF_ne _ (by decide), OnlyRegs.setSlot _ c.slot _ _ (by decide), State.reg_setReg_self]
  · rw [keyDeferred, closed_slotOf]

/-! WRAP and FLUSH_NODE (R393, R399). -/

/-- The journal leaves the notice ring's place and every byte outside it. -/
theorem JournalClosed.ringStands (s u : State) :
    JournalClosed fun t => t.reg 0x40 = s.reg 0x40 ∧ t.reg 0x44 = s.reg 0x44 ∧ ∀ a, ¬ inNoticeRing a s → t.byte a = u.byte a where
  reg {t a w} ht ha := by
    obtain ⟨hbase, hctrl, hbytes⟩ := ht
    exact ⟨(State.reg_setReg_ne t w (by omega)).trans hbase, (State.reg_setReg_ne t w (by omega)).trans hctrl, hbytes⟩
  notice {t k status port arg} ht := by
    obtain ⟨hbase, hctrl, hbytes⟩ := ht
    exact ⟨(notify_reg (by decide)).trans hbase, (notify_reg (by decide)).trans hctrl,
      fun a ha => (OnlyRing.notify k status port arg t a (mt (inNoticeRing_congr hbase hctrl).1 ha)).trans (hbytes a ha)⟩
  lane {t v} ht hp := by
    obtain ⟨hbase, hctrl, hbytes⟩ := ht
    have hregs : v.regs = t.regs := (congrArg State.regs hp : v.offLane.regs = t.offLane.regs)
    have hdram : v.dram = t.dram := (congrArg State.dram hp : v.offLane.dram = t.offLane.dram)
    exact ⟨(State.reg_of_regs hregs _).trans hbase, (State.reg_of_regs hregs _).trans hctrl, fun a ha => (State.byte_of_dram hdram a).trans (hbytes a ha)⟩

theorem JournalClosed.journalBlobs {K : State → Prop} (h : JournalClosed K) {a n : Nat} (hs : K s) : K (journalBlobs a n s) := by
  unfold Machine.journalBlobs
  extract_lets lo hi
  exact keeps_ite hs (keeps_foldl hs fun _ _ _ ht => h.journalRec ht)

theorem MidKept.journalBlobs {s0 : State} {a n : Nat} (h : MidKept s0 s) : MidKept s0 (journalBlobs a n s) := by
  unfold Machine.journalBlobs
  extract_lets lo hi
  exact h.ite (h.foldl fun _ _ k => k.journalRec)

theorem writeDram_key (a : Nat) (l : List Byte) (s : State) : (writeDram a l s).key = s.key := by
  have hkeys := (JournalClosed.keysStand s.key s.tamp s.fab).journalBlobs (a := a) (n := l.length) (s := s.setBytes a l) (by
    obtain ⟨d, m, h⟩ := State.setBytes_parts s a l
    rw [h])
  exact congrArg (fun p => p.1) hkeys

/-- Aligned words written by an engine: the bytes outside the notice ring, and what stands. -/
theorem writeDram_stores {a : Nat} {l : List Byte} (ha : a % 8 = 0) (hl : l.length % 8 = 0) (s : State) :
    (writeDram a l s).key = s.key ∧ (writeDram a l s).getF (F.KEY_CNT_COUNT 3) = s.getF (F.KEY_CNT_COUNT 3) ∧
      (writeDram a l s).reg 0x40 = s.reg 0x40 ∧ (writeDram a l s).reg 0x44 = s.reg 0x44 ∧
      ∀ k < l.length, ¬ inNoticeRing (a + k) s → (writeDram a l s).byte (a + k) = l.getD k 0 := by
  have hregs : (s.setBytes a l).regs = s.regs := State.regs_setBytes ..
  obtain ⟨hbase, hctrl, hbytes⟩ := (JournalClosed.ringStands s (s.setBytes a l)).journalBlobs (a := a) (n := l.length) (s := s.setBytes a l)
    ⟨State.reg_of_regs hregs _, State.reg_of_regs hregs _, fun _ _ => rfl⟩
  refine ⟨writeDram_key .., ?_, hbase, hctrl, fun k hk hout => (hbytes _ hout).trans (State.byte_setBytes ha hl hk)⟩
  exact (State.getF_of_reg ((MidKept.journalBlobs (.refl (s.setBytes a l))).reg _ (by decide))).trans (State.getF_of_reg (State.reg_of_regs hregs _))

/-- A key, its wrapper slot or the KEK, and a handle that WRAP takes (R396). -/
structure Wraps (c : KeyCmd) (s : State) : Prop where
  src : c.src < 64
  apart : c.slot ≠ c.src
  arg : c.arg % 2 ^ 21 < 2 ^ 20
  full : (s.slotOf c.src).full = true
  portable : (s.slotOf c.src).xnr = false
  fresh : keyStale 4 (s.slotOf c.src) s = false
  wrapper : c.slot = 0xFF ∨ c.slot < 64 ∧ (s.slotOf c.slot).full = true ∧ (s.slotOf c.slot).klen = true ∧ (s.slotOf c.slot).may permWrap = true ∧
    keyStale 4 (s.slotOf c.slot) s = false ∧ keyOver (s.slotOf c.slot) = false

/-- The blob that WRAP writes. -/
def wrappedBlob (c : KeyCmd) (s : State) : List Byte :=
  blobOf (s.slotOf c.src) c.slot (c.arg % 2 ^ 20) (if c.slot = 0xFF then deviceKek s else (s.slotOf c.slot).material) s

/-- A use of a wrapper slot counted. -/
def wrapperUsed (c : KeyCmd) (s : State) : State := if c.slot = 0xFF then s else useKey c.slot s

theorem wrappedBlob_length (c : KeyCmd) (s : State) : (wrappedBlob c s).length = 80 := by
  simp only [wrappedBlob, blobOf, blobHeader, List.length_append, List.length_cons, List.length_nil, length_leBytes, List.length_replicate, fit_length]

theorem runWrap_eq (h : Wraps c s) :
    runWrap c s = keyDone c scOk 0 0 (writeDram (blobBase (wrapperUsed c s) + 80 * (c.arg % 2 ^ 20)) (wrappedBlob c s) (wrapperUsed c s)) := by
  obtain ⟨hsrc, hapart, harg, hfull, hopen, hfresh, hwrapper⟩ := h
  unfold runWrap
  extract_lets k w kek
  have hslot (hkek : kek = false) : c.slot < 64 ∧ w.full = true ∧ w.klen = true ∧ w.may permWrap = true ∧ keyStale 4 w s = false ∧ keyOver w = false :=
    hwrapper.resolve_left fun h => by
      rw [show kek = true from beq_iff_eq.2 h] at hkek
      cases hkek
  rw [if_neg, if_neg, if_neg, if_neg, if_neg]
  · have hiff : kek = true ↔ c.slot = 0xFF := beq_iff_eq
    unfold wrapperUsed wrappedBlob
    simp only [← hiff]
    rfl
  · rintro ⟨hkek, hover⟩
    rw [(hslot hkek).2.2.2.2.2] at hover
    cases hover
  · rintro (hstale | ⟨hkek, hstale⟩)
    · rw [hfresh] at hstale
      cases hstale
    · rw [(hslot hkek).2.2.2.2.1] at hstale
      cases hstale
  · rintro (hxnr | hsame | ⟨hkek, hmay⟩)
    · rw [hopen] at hxnr
      cases hxnr
    · exact hapart hsame.symm
    · obtain ⟨-, -, hklen, hwrap, -⟩ := hslot hkek
      rw [hklen, hwrap] at hmay
      cases hmay
  · rintro (hempty | ⟨hkek, hempty⟩)
    · rw [hfull] at hempty
      cases hempty
    · rw [(hslot hkek).2.1] at hempty
      cases hempty
  · rintro (hrange | ⟨hkek, hrange⟩ | hrange)
    · omega
    · exact Nat.not_le.2 (hslot hkek).1 hrange
    · omega

theorem OnlyRegs.wrapperUsed (c : KeyCmd) (s : State) : OnlyRegs [0x130000] s (wrapperUsed c s) :=
  keeps_ite (K := OnlyRegs [0x130000] s) (OnlyRegs.of_regs _ rfl) (OnlyRegs.useKey c.slot s)

theorem wrapperUsed_blobBase (c : KeyCmd) (s : State) : blobBase (wrapperUsed c s) = blobBase s := by
  unfold blobBase
  rw [(OnlyRegs.wrapperUsed c s).getF (f := F.KEY_BLOB_BASE_BASE) (by decide)]

/-- The end of a command that the journal does not take leaves DRAM outside the notice ring. -/
theorem keyDone_byte {status detail reason a : Nat} (hcmd : [1, 2, 3, 5, 6].contains c.cmd = false) (hout : ¬ inNoticeRing a s) :
    (keyDone c status detail reason s).byte a = s.byte a := by
  have hjournal : keyJournalled c status s = s := if_neg fun h => by
    rw [hcmd] at h
    exact Bool.noConfusion h.2
  have hended := OnlyRegs.keyEnded status detail reason s
  obtain ⟨r, hr⟩ := keyEnded_parts status detail reason s
  rw [keyDone_eq, hjournal]
  refine (OnlyRing.notify _ _ _ _ _ _ (mt (inNoticeRing_congr (hended _ (by decide)) (hended _ (by decide))).1 hout)).trans ?_
  rw [hr]
  rfl

/-- A use of the wrapper slot, and the blob at its handle. -/
theorem runWrap_writes (hcmd : c.cmd = 4) (h : Wraps c s) :
    KeyEnds scOk 0 0 s (runWrap c s) ∧
      (c.slot < 64 → ((runWrap c s).slotOf c.slot).uses = if (s.slotOf c.slot).uses = 0xFFFFFFFF then (s.slotOf c.slot).uses else (s.slotOf c.slot).uses - 1) ∧
      ∀ x < 80, ¬ inNoticeRing (blobBase s + 80 * (c.arg % 2 ^ 20) + x) s → (runWrap c s).byte (blobBase s + 80 * (c.arg % 2 ^ 20) + x) = (wrappedBlob c s).getD x 0 := by
  have hused := OnlyRegs.wrapperUsed c s
  have haligned : (blobBase s + 80 * (c.arg % 2 ^ 20)) % 8 = 0 := by
    unfold blobBase
    omega
  obtain ⟨hkey, hcount, hbase, hctrl, hbytes⟩ := writeDram_stores haligned (by rw [wrappedBlob_length]) (l := wrappedBlob c s) (wrapperUsed c s)
  rw [runWrap_eq h, wrapperUsed_blobBase]
  generalize writeDram (blobBase s + 80 * (c.arg % 2 ^ 20)) (wrappedBlob c s) (wrapperUsed c s) = u at hkey hcount hbase hctrl hbytes ⊢
  refine ⟨(keyDone_ends ..).of_count (hcount.trans (hused.getF (by decide))), fun hslot => ?_, fun x hx hout => ?_⟩
  · rw [keyDone_slotOf, State.slotOf_of_key (congrArg KeyStore.slots hkey), wrapperUsed, if_neg (by omega), useKey_slotOf, if_pos rfl]
  · have hring := mt (inNoticeRing_congr (hused _ (by decide)) (hused _ (by decide))).1 hout
    rw [keyDone_byte (by rw [hcmd]; rfl) (mt (inNoticeRing_congr hbase hctrl).1 hring)]
    exact hbytes x (by rwa [wrappedBlob_length]) hring

/-- A sparse map changed key by key, where an unlisted key stands. -/
theorem Sparse.get_map {α : Type} {d : Nat → α} {f : Nat → α → α} (hd : ∀ i, f i (d i) = d i) (m : Sparse α) (i : Nat) :
    Sparse.get d (m.map fun e => (e.1, f e.1 e.2)) i = f i (Sparse.get d m i) := by
  induction m with
  | nil => exact (hd i).symm
  | cons e m ih =>
    unfold Sparse.get List.map
    dsimp only
    split
    next h => rw [h]
    · exact ih

/-- The cache entries of a node, or of every node, unlinked (R399). -/
def unlinked (all : Bool) (nix i : Nat) (k : KeySlot) : KeySlot := if 64 ≤ i && (all || k.nix == nix) then { k with linked := false } else k

theorem sweepCache_slotOf (s : State) : (∀ i < 64, (sweepCache s).slotOf i = s.slotOf i) ∧ ∀ i, (s.slotOf i).linked = false → ((sweepCache s).slotOf i).linked = false := by
  refine ⟨fun i hi => ?_, fun i hi => ?_⟩
  · refine keeps_foldl (K := fun t : State => t.slotOf i = s.slotOf i) rfl fun k hk t ht => keeps_ite (K := fun t : State => t.slotOf i = s.slotOf i) ?_ ht
    obtain ⟨j, -, rfl⟩ := List.mem_map.1 hk
    rw [State.slotOf_setSlot, if_neg (by omega)]
    exact ht
  · refine keeps_foldl (K := fun t : State => (t.slotOf i).linked = false) hi fun k _ t ht => keeps_ite (K := fun t : State => (t.slotOf i).linked = false) ?_ ht
    rw [State.slotOf_setSlot]
    split
    · rfl
    · exact ht

theorem sweepCache_read (s : State) : KeyRead s (sweepCache s) :=
  keeps_foldl (K := KeyRead s) (.refl s) fun k _ t ht => keeps_ite ⟨ht.tamp, ht.deferred, ((OnlyRegs.setSlot t k _).getF (by decide)).trans ht.count⟩ ht

/-- The key store with the command's node unlinked. -/
def flushed (c : KeyCmd) (s : State) : State :=
  s.updKey fun x => { x with slots := x.slots.map fun e => (e.1, unlinked (c.arg / 2 ^ 20 % 2 == 1) (c.arg % 2 ^ 17) e.1 e.2) }

theorem unlinked_empty (all : Bool) (nix i : Nat) : unlinked all nix i KeySlot.empty = KeySlot.empty := ite_self ..

theorem flushed_slotOf (c : KeyCmd) (s : State) (i : Nat) : (flushed c s).slotOf i = unlinked (c.arg / 2 ^ 20 % 2 == 1) (c.arg % 2 ^ 17) i (s.slotOf i) :=
  Sparse.get_map (fun k => unlinked_empty (c.arg / 2 ^ 20 % 2 == 1) (c.arg % 2 ^ 17) k) s.key.slots i

theorem runFlush_eq (c : KeyCmd) (s : State) : runFlush c s = keyDone c scOk 0 0 ((sweepCache (flushed c s)).incF (F.KEY_CNT_COUNT 7)) := by
  have hmap (e : Nat × KeySlot) : (if 64 ≤ e.1 && (c.arg / 2 ^ 20 % 2 == 1 || e.2.nix == c.arg % 2 ^ 17) then (e.1, { e.2 with linked := false }) else e) =
      (e.1, unlinked (c.arg / 2 ^ 20 % 2 == 1) (c.arg % 2 ^ 17) e.1 e.2) := by
    unfold unlinked
    split <;> rfl
  unfold runFlush flushed
  dsimp only
  simp only [hmap]

theorem runFlush_unlinks (c : KeyCmd) (s : State) :
    KeyEnds scOk 0 0 s (runFlush c s) ∧ (∀ i < 64, (runFlush c s).slotOf i = s.slotOf i) ∧
      ∀ i, 64 ≤ i → (c.arg / 2 ^ 20 % 2 = 1 ∨ (s.slotOf i).nix = c.arg % 2 ^ 17) → ((runFlush c s).slotOf i).linked = false := by
  rw [runFlush_eq]
  obtain ⟨hlow, hlinked⟩ := sweepCache_slotOf (flushed c s)
  refine ⟨(keyDone_ends ..).of_count ?_, fun i hi => ?_, fun i hi hnode => ?_⟩
  · exact ((OnlyRegs.incF _ (F.KEY_CNT_COUNT 7)).getF (by decide)).trans (sweepCache_read (flushed c s)).count
  · rw [keyDone_slotOf, State.incF_slotOf, hlow i hi, flushed_slotOf, unlinked, if_neg]
    rw [decide_eq_false (Nat.not_le.2 hi)]
    exact Bool.noConfusion
  · rw [keyDone_slotOf, State.incF_slotOf]
    refine hlinked i ?_
    rw [flushed_slotOf, unlinked, if_pos]
    simp only [Bool.and_eq_true, decide_eq_true_eq, Bool.or_eq_true, beq_iff_eq]
    exact ⟨hi, hnode⟩

/-! Every command ends, and none is deferred by its own effect (R395). -/

/-- A command's end from a state with the deferred command as in `s`. -/
def KeyDone (c : KeyCmd) (s t : State) : Prop :=
  ∃ u st d r, t = keyDone c st d r u ∧ u.key.deferred = s.key.deferred ∧ st < 64 ∧ d < 256 ∧ r < 256

theorem KeyDone.here (c : KeyCmd) {st d r : Nat} (h : st < 64 ∧ d < 256 ∧ r < 256) : KeyDone c s (keyDone c st d r s) := ⟨s, st, d, r, rfl, rfl, h⟩

theorem KeyDone.writeKey (c : KeyCmd) (k : KeySlot) (hs : t.key.deferred = s.key.deferred) : KeyDone c s (writeKey c k t) :=
  ⟨_, _, _, _, writeKey_eq c k t, (congrArg KeyStore.deferred (genTaken_key c.slot t)).trans hs, by decide⟩

theorem runWriteClear_done (c : KeyCmd) (s : State) : KeyDone c s (runWriteClear c s) :=
  keeps_ite (KeyDone.here c (by decide)) (keeps_ite (KeyDone.here c (by decide)) (KeyDone.writeKey c _ rfl))

theorem runUnwrap_done (c : KeyCmd) (s : State) : KeyDone c s (runUnwrap c s) := by
  refine keeps_ite (KeyDone.here c (by decide)) (keeps_ite (KeyDone.here c (by decide)) ?_)
  split
  next st d u h =>
    obtain ⟨hread, -, hst, hd⟩ := unwrapBlob_error (congrArg Prod.fst h)
    rw [h] at hread
    exact ⟨_, st, d, 0, rfl, hread.deferred, hst, hd, by decide⟩
  next k u h =>
    have hread := unwrapBlob_ok (congrArg Prod.fst h)
    rw [h] at hread
    exact KeyDone.writeKey c k hread.deferred

theorem runDerive_done (c : KeyCmd) (s : State) : KeyDone c s (runDerive c s) := by
  unfold runDerive
  extract_lets p
  have refused {st r : Nat} (h : st < 64 ∧ 0 < 256 ∧ r < 256) : KeyDone c s (keyDone c st 0 r s) := KeyDone.here c h
  refine keeps_ite (refused (by decide)) (keeps_ite (refused (by decide)) (keeps_ite (refused (by decide)) (keeps_ite (refused (by decide))
    (keeps_ite (refused (by decide)) (keeps_ite (refused (by decide)) (keeps_ite (refused (by decide)) ?_))))))
  obtain ⟨w, hd⟩ | ⟨r, hr, hd⟩ | ⟨x, hd⟩ := deriveData_cases c s
  · rw [hd]
    exact ⟨_, _, _, _, rfl, (KeyRead.foundUe w false s).deferred, by decide⟩
  · rw [hd]
    exact refused ⟨by decide, by decide, hr⟩
  · rw [hd]
    exact KeyDone.writeKey c _ rfl

theorem runWrap_done (c : KeyCmd) (s : State) : KeyDone c s (runWrap c s) := by
  unfold runWrap
  extract_lets k w kek h b u
  have hu : u.key.deferred = s.key.deferred := keeps_ite (K := fun t : State => t.key.deferred = s.key.deferred) rfl (KeyRead.useKey c.slot s).deferred
  have refused {st r : Nat} (h : st < 64 ∧ 0 < 256 ∧ r < 256) : KeyDone c s (keyDone c st 0 r s) := KeyDone.here c h
  refine keeps_ite (refused (by decide)) (keeps_ite (refused (by decide)) (keeps_ite (refused (by decide)) (keeps_ite (refused (by decide))
    (keeps_ite (refused (by decide)) ⟨_, _, _, _, rfl, ?_, by decide⟩))))
  exact (congrArg KeyStore.deferred (writeDram_key ..)).trans hu

theorem runFlush_done (c : KeyCmd) (s : State) : KeyDone c s (runFlush c s) := by
  refine ⟨_, _, _, _, runFlush_eq c s, ?_, by decide⟩
  rw [State.incF_key, (sweepCache_read (flushed c s)).deferred]
  rfl

theorem runErase_done (c : KeyCmd) (s : State) : KeyDone c s (runErase c s) :=
  keeps_ite (KeyDone.here c (by decide)) (KeyDone.writeKey c KeySlot.empty rfl)

theorem runExpire_done (c : KeyCmd) (s : State) : KeyDone c s (runExpire c s) :=
  ⟨_, _, _, _, rfl, keeps_ite (K := fun t : State => t.key.deferred = s.key.deferred) rfl rfl, by decide⟩

theorem runKeyCmd_done (c : KeyCmd) (s : State) : KeyDone c s (runKeyCmd c s) := by
  unfold runKeyCmd
  refine keeps_ite (KeyDone.here c (by decide)) (keeps_ite (runWrap_done c s) (keeps_ite (runFlush_done c s) (keeps_ite (KeyDone.here c (by decide))
    (keeps_ite (KeyDone.here c (by decide)) ?_))))
  split
  · exact runWriteClear_done c s
  · exact runUnwrap_done c s
  · exact runDerive_done c s
  · exact runErase_done c s
  · exact runExpire_done c s

/-- KEY_CMD_STATUS of an end: not BUSY, DONE. -/
theorem KeyEnds.idle {st d r : Nat} (h : KeyEnds st d r s t) (hst : st < 64) (hd : d < 256) (hr : r < 256) :
    t.getF F.KEY_CMD_STATUS_BUSY = 0 ∧ t.getF F.KEY_CMD_STATUS_DONE = 1 := by
  obtain ⟨hreg, -⟩ := h
  unfold State.getF bitsOf
  rw [hreg, BitVec.toNat_ofNat]
  dsimp only
  constructor <;> omega

/-- After its effect a command is over and the deferral as it was. -/
theorem runKeyCmd_ends (c : KeyCmd) (s : State) : (runKeyCmd c s).key.deferred = s.key.deferred ∧ (runKeyCmd c s).getF F.KEY_CMD_STATUS_BUSY = 0 ∧
    (runKeyCmd c s).getF F.KEY_CMD_STATUS_DONE = 1 := by
  obtain ⟨u, st, d, r, heq, hdeferred, hst, hd, hr⟩ := runKeyCmd_done c s
  rw [heq]
  exact ⟨(congrArg KeyStore.deferred (keyDone_keys ..).1).trans hdeferred, (keyDone_ends c st d r u).idle hst hd hr⟩

end
end Sys2Proof.Machine

/-! SUPPORT. The jobs of the fabric through a trace record, a creation and a completion (R306 to R312, R324 to R331), and the loads of node keys (R399). -/

namespace Sys2Proof.Machine

section
variable {dt : Nat} {s t : State}

/-! A trace record leaves the jobs, whatever its ring holds (R329 to R331). -/

/-- The jobs and the creators that wait are as in `s`. -/
@[reducible] def JobsStand (s t : State) : Prop := (t.fab.jobs, t.fab.waiting) = (s.fab.jobs, s.fab.waiting)

theorem JobsStand.of_fab (h : t.fab = s.fab) : JobsStand s t := congrArg (fun f : Fabric => (f.jobs, f.waiting)) h

theorem JobsStand.job (h : JobsStand s t) (i : Nat) : t.job i = s.job i := State.job_of_jobs (Prod.mk.inj h).1 i
theorem JobsStand.waiting (h : JobsStand s t) : t.fab.waiting = s.fab.waiting := (Prod.mk.inj h).2

theorem tracePut_stands (bs : List Byte) (s : State) : JobsStand s (tracePut bs s) := 
  JobsStand.of_fab (congrArg State.fab (State.rest_setBytes ..) : (State.rest _).fab = (State.rest s).fab)

theorem traceRing_stands (bs : List Byte) (s : State) : JobsStand s (traceRing bs s) := by
  unfold traceRing
  extract_lets owed s1 n s2
  refine keeps_ite (K := JobsStand s) rfl ((tracePut_stands ..).trans ?_)
  exact keeps_ite (K := JobsStand s) (tracePut_stands ..) rfl

theorem tracePort_stands (bs : List Byte) (s : State) : JobsStand s (tracePort bs s) := by
  unfold tracePort
  extract_lets n s1 n' s2
  exact keeps_ite (K := JobsStand s) rfl (keeps_ite (K := JobsStand s) (s := State.emit s _) rfl rfl)

theorem trace_stands (cls id prio event arg : Nat) (s : State) : JobsStand s (trace cls id prio event arg s) := by
  unfold trace
  extract_lets bs mark s1
  have h1 : JobsStand s s1 := keeps_ite (K := JobsStand s) (traceRing_stands bs s) rfl
  exact keeps_ite (K := JobsStand s) ((tracePort_stands bs s1).trans h1) h1

/-! One job readied, created, completed, or freed. -/

theorem State.job_setJob (s : State) (i k : Nat) (j : Option Job) : (s.setJob i j).job k = if k = i then j else s.job k := Sparse.get_set ..

theorem makeReady_job (i k : Nat) (j : Job) (s : State) : (makeReady i j s).job k = if k = i then some { j with state := jsReady } else s.job k := by
  unfold makeReady
  extract_lets l s1
  rw [(trace_stands ..).job, State.job_of_jobs (show (syncJobs (syncReady j.cls s1)).fab.jobs = s1.fab.jobs from syncReady_jobs j.cls s1)]
  exact State.job_setJob ..

theorem syncReady_waiting (c : Nat) (s : State) : (syncReady c s).fab.waiting = s.fab.waiting := by
  unfold syncReady
  split <;> rfl

theorem makeReady_waiting (i : Nat) (j : Job) (s : State) : (makeReady i j s).fab.waiting = s.fab.waiting := by
  unfold makeReady
  extract_lets l s1
  exact (trace_stands ..).waiting.trans (syncReady_waiting j.cls s1)

theorem createWith_job (i k : Nat) (j : Job) (s : State) : (createWith i j s).job k = if k = i then some { j with state := jsReady } else s.job k := by
  unfold createWith
  rw [makeReady_job, (trace_stands ..).job]
  rfl

theorem createWith_waiting (i : Nat) (j : Job) (s : State) : (createWith i j s).fab.waiting = s.fab.waiting :=
  (makeReady_waiting ..).trans (trace_stands j.cls i j.prio 1 j.creator (s.incF (F.JOB_CNT_COUNT 0))).waiting

/-- A job as its completion leaves it (R324). -/
def completedJob (j : Job) (status detail : Nat) (result : List Byte) : Job :=
  { j with state := jsComplete, status := status, detail := detail, result := result, pins := [], cancel := none,
           context := if status == scCancelled then [] else j.context, hold := none }

theorem completeJob_job (i k : Nat) (j : Job) (status detail : Nat) (result : List Byte) (s : State) :
    (completeJob i j status detail result s).job k = if k = i then some (completedJob j status detail result) else s.job k := by
  unfold completeJob
  extract_lets cancelled j' s1
  have h1 : s1.job k = if k = i then some (completedJob j status detail result) else s.job k := State.job_setJob ..
  split
  · exact ((trace_stands ..).job k).trans h1
  · exact ((trace_stands ..).job k).trans h1

theorem completeJob_waiting (i : Nat) (j : Job) (status detail : Nat) (result : List Byte) (s : State) :
    (completeJob i j status detail result s).fab.waiting = s.fab.waiting := by
  unfold completeJob
  extract_lets cancelled j' s1
  split
  · exact (trace_stands ..).waiting
  · exact (trace_stands ..).waiting

theorem completeJob_offFabric (i : Nat) (j : Job) (status detail : Nat) (result : List Byte) (s : State) : (completeJob i j status detail result s).offFabric = s.offFabric := by
  unfold completeJob
  extract_lets cancelled j' s1
  split
  · exact (trace_offFabric ..).trans rfl
  · exact (trace_offFabric ..).trans rfl

theorem State.key_of_offFabric (h : t.offFabric = s.offFabric) : t.key = s.key := (congrArg State.key h : t.offFabric.key = s.offFabric.key)

/-! A key load (R399). -/

/-- The lowest free ID names no job. -/
theorem job_freeId {i : Nat} (h : freeId s = some i) : s.job i = none := by
  have hfree := List.find?_some h
  rwa [Option.isNone_iff_eq_none] at hfree

/-- A key in the cache: the load's job is over, and the job that needs the key holds the slot. -/
theorem kldDone_loads {id i k : Nat} {j : Job} {u : KeyUse} (hjob : s.job id = some j) (hfree : freeId s = some i) (hwaiting : s.fab.waiting = []) :
    (kldDone id j u k s).job id = none ∧ ((kldDone id j u k s).job i).map (fun x => (x.state, x.pins)) = some (jsReady, [k]) ∧
      ((kldDone id j u k s).slotOf k).lastUse = s.key.tick + 1 := by
  unfold kldDone
  extract_lets s1 src s2 s3
  have hjobs2 : JobsStand s s2 := rfl
  have hne : i ≠ id := fun h => by
    rw [h] at hfree
    rw [job_freeId hfree] at hjob
    cases hjob
  have h3 : s3 = createWith i { useJob u s2 with pins := [k] } s2 := by
    have hfree2 : freeId s2 = some i := (freeId_of_jobs (Prod.mk.inj hjobs2).1).trans hfree
    show createJob _ s2 = _
    unfold createJob
    dsimp only
    rw [hfree2]
  have hwaiting3 : (completeJob id j scOk 0 (List.replicate 12 0) s3).fab.waiting = [] := by
    rw [completeJob_waiting, h3, createWith_waiting, hjobs2.waiting, hwaiting]
  rw [freeJob_alone hwaiting3]
  refine ⟨State.job_setJob_self .., ?_, ?_⟩
  · have hjob3 : ((completeJob id j scOk 0 (List.replicate 12 0) s3).setJob id none).job i = some { useJob u s2 with pins := [k], state := jsReady } := by
      rw [State.job_setJob, if_neg hne, completeJob_job, if_neg hne, h3, createWith_job, if_pos rfl]
    exact congrArg (Option.map fun x : Job => (x.state, x.pins)) hjob3
  · have hkey : (completeJob id j scOk 0 (List.replicate 12 0) s3).key = s2.key :=
      State.key_of_offFabric ((completeJob_offFabric ..).trans (h3 ▸ createWith_offFabric ..))
    have hslot : ((completeJob id j scOk 0 (List.replicate 12 0) s3).setJob id none).slotOf k = s2.slotOf k := State.slotOf_of_key (congrArg KeyStore.slots hkey) k
    have hset : s2.slotOf k = { s1.slotOf k with lastUse := s1.key.tick } := State.slotOf_setSlot_self ..
    exact congrArg KeySlot.lastUse (hslot.trans hset)

/-- No cache slot can be taken: the job runs on, and its wait is counted once. -/
theorem kldWait_waits {id : Nat} {j : Job} (hjob : s.job id = some j) (hrunning : j.state = jsRunning) :
    ((kldWait id j s).job id).map (fun x => (x.state, x.pauses)) = some (jsRunning, if j.pauses = 0 then 1 else j.pauses) ∧ (kldWait id j s).key.slots = s.key.slots ∧
      (kldWait id j s).getF (F.KEY_CNT_COUNT 5) = (s.getF (F.KEY_CNT_COUNT 5) + if j.pauses = 0 then 1 else 0) % 2 ^ 32 := by
  unfold kldWait
  extract_lets s1
  have h1 : (s1.job id).map (fun x => (x.state, x.pauses)) = some (jsRunning, if j.pauses = 0 then 1 else j.pauses) ∧ s1.key.slots = s.key.slots ∧
      s1.getF (F.KEY_CNT_COUNT 5) = (s.getF (F.KEY_CNT_COUNT 5) + if j.pauses = 0 then 1 else 0) % 2 ^ 32 := by
    dsimp only [s1]
    split
    · refine ⟨?_, rfl, State.getF_incF_counter ..⟩
      have hset : ((s.setJob id (some { j with pauses := 1 })).incF (F.KEY_CNT_COUNT 5)).job id = some { j with pauses := 1 } := State.job_setJob_self ..
      rw [hset, ← hrunning]
      rfl
    · rw [hjob, ← hrunning]
      exact ⟨rfl, rfl, (Nat.mod_eq_of_lt (bitsOf_lt_two_pow _ 31 0)).symm⟩
  obtain ⟨hj, hslots, hcount⟩ := h1
  refine keeps_ite (K := fun t : State => (t.job id).map (fun x => (x.state, x.pauses)) = some (jsRunning, if j.pauses = 0 then 1 else j.pauses) ∧ t.key.slots = s.key.slots ∧
    t.getF (F.KEY_CNT_COUNT 5) = (s.getF (F.KEY_CNT_COUNT 5) + if j.pauses = 0 then 1 else 0) % 2 ^ 32) ⟨hj, hslots, hcount⟩ ⟨?_, ?_, ?_⟩
  · rw [State.job_of_jobs (congrArg Fabric.jobs (notify_fab ..))]
    exact hj
  · rw [notify_key]
    exact hslots
  · exact (notify_getF (by decide)).trans hcount

/-! A command written to KEY_CMD, run to its end. -/

theorem mustDefer_of_unpinned {c : KeyCmd} (h : slotPins c.slot s = 0) : mustDefer c s = false := by
  unfold mustDefer
  rw [h]
  exact Bool.and_false _

theorem mustDefer_of_other {c : KeyCmd} (h : c.cmd = 4 ∨ c.cmd = 6 ∨ c.cmd = 7) : mustDefer c s = false := by
  unfold mustDefer
  rcases h with h | h | h <;> rw [h] <;> simp only [Nat.reduceBEq, Bool.or_self, Bool.and_false, Bool.false_and]

theorem mustDefer_of_pinned {c : KeyCmd} (husable : keysUsable s = true) (hcmd : c.cmd = 1 ∨ c.cmd = 2 ∨ c.cmd = 3 ∨ c.cmd = 5) (hslot : c.slot < 64)
    (hpinned : slotPins c.slot s ≠ 0) : mustDefer c s = true := by
  simp only [mustDefer, husable, Bool.true_and, Bool.and_eq_true, Bool.or_eq_true, beq_iff_eq, decide_eq_true_eq, bne_iff_ne]
  exact ⟨⟨by omega, hslot⟩, hpinned⟩

/-- A command of the owner while none runs: deferred on a pinned slot, else run. -/
theorem completes_keyCmd {i : Instr} {m : Master} {cmd n src : Nat} {P : State → Prop} (hcore : s.clk.core = true) (hmode : s.mode = stAutonomous)
    (howns : s.owns m = true) (hidle : s.getF F.KEY_CMD_STATUS_BUSY = 0) (hexec : exec i s = .next (gatedWrite m 0x130010 (writeKeyCmd m cmd n src) (s.elapse dt)))
    (hcmd : 1 ≤ cmd ∧ cmd ≤ 7)
    (hP : P (if mustDefer (keyCmdOf cmd n src (s.elapse dt)) (s.elapse dt) then keyDeferred (keyCmdOf cmd n src (s.elapse dt)) (s.elapse dt)
      else runKeyCmd (keyCmdOf cmd n src (s.elapse dt)) (s.elapse dt))) : Completes i s P := by
  refine ⟨_, hexec.trans (congrArg Host.Outcome.next (gatedWrite_runs hcore hmode)), ?_⟩
  rw [writeKeyCmd_taken ((elapse_owns s dt m).trans howns) (s := s.elapse dt) hidle hcmd]
  exact hP

/-- A command of another master or while one runs (R396). -/
theorem completes_ignoredKeyCmd {i : Instr} {m : Master} {cmd n src : Nat} (hcore : s.clk.core = true) (hmode : s.mode = stAutonomous)
    (h : s.owns m = false ∨ s.getF F.KEY_CMD_STATUS_BUSY = 1) (hexec : exec i s = .next (gatedWrite m 0x130010 (writeKeyCmd m cmd n src) (s.elapse dt))) :
    Completes i s fun t => OnlyRegs [0x8] s t ∧ t.key = s.key ∧ t.tamp = s.tamp ∧ t.dram = s.dram := by
  refine ⟨_, hexec.trans (congrArg Host.Outcome.next (gatedWrite_runs hcore hmode)), ?_⟩
  rw [writeKeyCmd_ignored (s := s.elapse dt) (h.imp_left (elapse_owns s dt m).trans)]
  exact ⟨OnlyRegs.accessErr m errInvalid _ (s.elapse dt), accessErr_key .., accessErr_tamp .., accessErr_dram ..⟩

end

section
variable {dt : Nat} {s : State} {m : Master} {slot src : BitVec 8}
variable (hcore : s.clk.core = true) (hmode : s.mode = stAutonomous) (howns : s.owns m = true) (hidle : s.getF F.KEY_CMD_STATUS_BUSY = 0)
variable (husable : keysUsable s = true)
include hcore hmode howns hidle husable

/-- A command on a general slot that no job holds takes effect at once. -/
theorem completes_keyEffect {i : Instr} {cmd : Nat} {P : State → Prop} (hexec : exec i s = .next (gatedWrite m 0x130010 (writeKeyCmd m cmd slot.toNat src.toNat) (s.elapse dt)))
    (hcmd : 1 ≤ cmd ∧ cmd ≤ 7 ∧ cmd ≠ 4 ∧ cmd ≠ 7) (hslot : slot.toNat < 64) (hopen : (s.slotOf slot.toNat).closing = false)
    (hfree : slotPins slot.toNat s = 0 ∨ cmd = 6) (hP : P (keyEffect (keyCmdOf cmd slot.toNat src.toNat (s.elapse dt)) (s.elapse dt))) : Completes i s P := by
  obtain ⟨hlo, hhi, hne⟩ := hcmd
  have hruns : mustDefer (keyCmdOf cmd slot.toNat src.toNat (s.elapse dt)) (s.elapse dt) = false :=
    hfree.elim (fun h => mustDefer_of_unpinned h) fun h => mustDefer_of_other (.inr (.inl h))
  refine completes_keyCmd hcore hmode howns hidle hexec ⟨hlo, hhi⟩ ?_
  rw [hruns, if_neg Bool.false_ne_true, runKeyCmd_general (s := s.elapse dt) (c := keyCmdOf cmd slot.toNat src.toNat (s.elapse dt)) husable hne hslot hopen]
  exact hP

/-- A command on a pinned general slot waits. -/
theorem completes_keyDeferred {i : Instr} {cmd : Nat} (hexec : exec i s = .next (gatedWrite m 0x130010 (writeKeyCmd m cmd slot.toNat src.toNat) (s.elapse dt)))
    (hcmd : cmd = 1 ∨ cmd = 2 ∨ cmd = 3 ∨ cmd = 5) (hslot : slot.toNat < 64) (hpinned : slotPins slot.toNat s ≠ 0) :
    Completes i s fun t => t.key.deferred = some (keyCmdOf cmd slot.toNat src.toNat s) ∧ t.reg 0x130024 = deferredStatus s ∧
      t.slotOf slot.toNat = { s.slotOf slot.toNat with closing := true } ∧ t.tamp = s.tamp := by
  refine completes_keyCmd hcore hmode howns hidle hexec (by omega) ?_
  rw [mustDefer_of_pinned (s := s.elapse dt) husable hcmd hslot hpinned, if_pos rfl]
  exact keyDeferred_waits ..

/-- What the slot commands do to a target that no job holds, which is not closing (R394 to R397). -/
theorem keyCmd_unpinned (hslot : slot.toNat < 64) (hopen : (s.slotOf slot.toNat).closing = false) (hfree : slotPins slot.toNat s = 0) :
    let c := keyCmdOf 1 slot.toNat src.toNat s
    let n := slot.toNat
    let put (k : KeySlot) (t : State) : Prop := t.slotOf n = k ∧ slotGen n t = slotGen n s + (if (s.slotOf n).full then 1 else 0) ∧
      (∀ i < 256, i ≠ n → i ≠ src.toNat → t.slotOf i = s.slotOf i ∧ slotGen i t = slotGen i s)
    (attrBad c = true → Completes (.writeClear dt m slot src) s (KeyRefused scDenied 0 krInvalid s)) ∧
    (genEnds n s = true → (attrBad c = false → Completes (.writeClear dt m slot src) s (KeyRefused scDenied 0 krGenEnd s)) ∧
      Completes (.erase dt m slot src) s (KeyRefused scDenied 0 krGenEnd s)) ∧
    (genEnds n s = false →
      (attrBad c = false → Completes (.writeClear dt m slot src) s fun t => KeyEnds scOk 0 0 s t ∧
        put ⟨true, attrKlen c, attrXnr c, false, 0, false, attrPerms c, 0, c.uses, 0xFF, 0, 0, c.stage.take (if attrKlen c then 32 else 16), 0, false⟩ t) ∧
      (Completes (.erase dt m slot src) s fun t => KeyEnds scOk 0 0 s t ∧ put KeySlot.empty t) ∧
      (c.arg % 2 ^ 21 < 2 ^ 20 →
        (∀ st d, (unwrapBlob (c.arg % 2 ^ 20) s).1 = .error (st, d) → Completes (.unwrap dt m slot src) s (KeyRefused st d 0 s)) ∧
        (∀ k, (unwrapBlob (c.arg % 2 ^ 20) s).1 = .ok k → Completes (.unwrap dt m slot src) s fun t => KeyEnds scOk 0 0 s t ∧ t.slotOf n = k)) ∧
      (Derives c s → ∀ label ctx, (deriveData c s).1 = .ok (label, ctx) → Completes (.derive dt m slot src) s fun t => KeyEnds scOk 0 0 s t ∧
        put (derivedKey c label ctx s) t ∧ (n ≠ src.toNat → (t.slotOf src.toNat).uses =
          if (s.slotOf src.toNat).uses = 0xFFFFFFFF then (s.slotOf src.toNat).uses else (s.slotOf src.toNat).uses - 1))) := by
  intro c n put
  have takes {i : Instr} {cmd : Nat} {P : State → Prop} {t : State} (hexec : exec i s = .next (gatedWrite m 0x130010 (writeKeyCmd m cmd slot.toNat src.toNat) (s.elapse dt)))
      (hcmd : 1 ≤ cmd ∧ cmd ≤ 7 ∧ cmd ≠ 4 ∧ cmd ≠ 7) (heffect : keyEffect (keyCmdOf cmd slot.toNat src.toNat (s.elapse dt)) (s.elapse dt) = t) (hP : P t) :
      Completes i s P :=
    completes_keyEffect hcore hmode howns hidle husable hexec hcmd hslot hopen (.inl hfree) (heffect ▸ hP)
  have puts (cmd : Nat) (k : KeySlot) : KeyEnds scOk 0 0 s (writeKey (keyCmdOf cmd n src.toNat (s.elapse dt)) k (s.elapse dt)) ∧
      put k (writeKey (keyCmdOf cmd n src.toNat (s.elapse dt)) k (s.elapse dt)) := by
    obtain ⟨hends, hput, hgen, hothers⟩ := writeKey_target (keyCmdOf cmd n src.toNat (s.elapse dt)) k (s.elapse dt)
    exact ⟨hends, hput, hgen, fun i _ hi _ => hothers i hi⟩
  have hfresh (h : Derives c s) : Derives (keyCmdOf 3 n src.toNat (s.elapse dt)) (s.elapse dt) := by
    obtain ⟨hsrc, hattr, hfull, hdepth, hmay, hperms, hstale, hlives⟩ := h
    exact ⟨hsrc, hattr, hfull, hdepth, hmay, hperms, hstale, hlives⟩
  refine ⟨fun hattr => takes rfl (by decide) rfl (runWriteClear_invalid (s := s.elapse dt) hattr),
    fun hgen => ⟨fun hattr => takes rfl (by decide) rfl (runWriteClear_genEnd (s := s.elapse dt) hattr hgen),
      takes rfl (by decide) rfl (runErase_genEnd (c := keyCmdOf 5 n src.toNat (s.elapse dt)) (s := s.elapse dt) hgen)⟩,
    fun hgen => ⟨fun hattr => takes rfl (by decide) (runWriteClear_writes (c := keyCmdOf 1 n src.toNat (s.elapse dt)) (s := s.elapse dt) hattr hgen) (puts 1 _),
      takes rfl (by decide) (runErase_writes (c := keyCmdOf 5 n src.toNat (s.elapse dt)) (s := s.elapse dt) hgen) (puts 5 _),
      fun harg => ⟨fun st d hblob => takes rfl (by decide) rfl ?_, fun k hblob => takes rfl (by decide) rfl ?_⟩, fun h label ctx hdata => takes rfl (by decide) rfl ?_⟩⟩
  · exact runUnwrap_refused (c := keyCmdOf 2 n src.toNat (s.elapse dt)) (s := s.elapse dt) harg hgen ((unwrapBlob_elapse ..).trans hblob)
  · exact runUnwrap_writes (c := keyCmdOf 2 n src.toNat (s.elapse dt)) (s := s.elapse dt) harg hgen ((unwrapBlob_elapse ..).trans hblob)
  · obtain ⟨hends, hput, hgens, hothers, huses⟩ := runDerive_writes (hfresh h) hgen ((deriveData_elapse ..).trans hdata)
    exact ⟨hends, ⟨hput, hgens, fun i _ => hothers i⟩, huses⟩

/-- EXPIRE needs no pin to drop (R401). -/
theorem keyCmd_expire (hslot : slot.toNat < 64) (hopen : (s.slotOf slot.toNat).closing = false) :
    Completes (.expire dt m slot src) s fun t => KeyEnds scOk 0 0 s t ∧ t.tamp.gens = s.tamp.gens ∧
      ∀ i < 256, t.slotOf i = if i = slot.toNat ∧ (s.slotOf slot.toNat).full then { s.slotOf slot.toNat with expired := true } else s.slotOf i := by
  refine completes_keyEffect (cmd := 6) hcore hmode howns hidle husable rfl (by decide) hslot hopen (.inr rfl) ?_
  obtain ⟨hends, hgens, hslots⟩ := runExpire_marks (keyCmdOf 6 slot.toNat src.toNat (s.elapse dt)) (s.elapse dt)
  exact ⟨hends, hgens, fun i _ => hslots i⟩

theorem keyCmd_wrap (h : Wraps (keyCmdOf 4 slot.toNat src.toNat s) s) :
    Completes (.wrap dt m slot src) s fun t => KeyEnds scOk 0 0 s t ∧
      (slot.toNat < 64 → (t.slotOf slot.toNat).uses = if (s.slotOf slot.toNat).uses = 0xFFFFFFFF then (s.slotOf slot.toNat).uses else (s.slotOf slot.toNat).uses - 1) ∧
      ∀ x < 80, ¬ inNoticeRing (blobBase s + 80 * (s.getF F.KEY_CMD_ARG_VALUE % 2 ^ 20) + x) s →
        t.byte (blobBase s + 80 * (s.getF F.KEY_CMD_ARG_VALUE % 2 ^ 20) + x) = (wrappedBlob (keyCmdOf 4 slot.toNat src.toNat s) s).getD x 0 := by
  have hwraps : Wraps (keyCmdOf 4 slot.toNat src.toNat (s.elapse dt)) (s.elapse dt) := by
    obtain ⟨hsrc, hapart, harg, hfull, hopen, hfresh, hwrapper⟩ := h
    exact ⟨hsrc, hapart, harg, hfull, hopen, hfresh, hwrapper⟩
  refine completes_keyCmd hcore hmode howns hidle (cmd := 4) rfl (by decide) ?_
  rw [mustDefer_of_other (.inl rfl), if_neg Bool.false_ne_true, runKeyCmd_wrap (c := keyCmdOf 4 slot.toNat src.toNat (s.elapse dt)) (s := s.elapse dt) husable rfl]
  obtain ⟨hends, huses, hbytes⟩ := runWrap_writes rfl hwraps
  exact ⟨hends, huses, fun x hx hout => hbytes x hx hout⟩

theorem keyCmd_flushNode :
    Completes (.flushNode dt m slot src) s fun t => KeyEnds scOk 0 0 s t ∧ (∀ i < 64, t.slotOf i = s.slotOf i) ∧
      ∀ i < 256, 64 ≤ i → (s.getF F.KEY_CMD_ARG_VALUE / 2 ^ 20 % 2 = 1 ∨ (s.slotOf i).nix = s.getF F.KEY_CMD_ARG_VALUE % 2 ^ 17) → (t.slotOf i).linked = false := by
  refine completes_keyCmd hcore hmode howns hidle (cmd := 7) rfl (by decide) ?_
  rw [mustDefer_of_other (.inr (.inr rfl)), if_neg Bool.false_ne_true,
    runKeyCmd_flush (c := keyCmdOf 7 slot.toNat src.toNat (s.elapse dt)) (s := s.elapse dt) husable rfl]
  obtain ⟨hends, hlow, hlinked⟩ := runFlush_unlinks (keyCmdOf 7 slot.toNat src.toNat (s.elapse dt)) (s.elapse dt)
  exact ⟨hends, hlow, fun i _ => hlinked i⟩

end

/-! The deferred command, and the load of a node's key. -/

section
variable {dt : Nat} {s : State} (hrun : s.clk.running = true)
include hrun

/-- The slot opened for the deferred command. -/
def undeferred (c : KeyCmd) (s : State) : State :=
  (s.updKey fun x => { x with deferred := none }).setSlot c.slot { s.slotOf c.slot with closing := false }

omit hrun in
theorem undeferred_slotOf (c : KeyCmd) (s : State) (i : Nat) : (undeferred c s).slotOf i = if i = c.slot then { s.slotOf c.slot with closing := false } else s.slotOf i :=
  State.slotOf_setSlot ..

theorem exec_keyCmdDeferredApply {c : KeyCmd} (hdeferred : s.key.deferred = some c) (hfree : slotPins c.slot s = 0) :
    exec (.keyCmdDeferredApply dt) s = .next (runKeyCmd c (undeferred c (s.elapse dt))) := by
  have hdeferred' : (s.elapse dt).key.deferred = some c := hdeferred
  change execKeyCmdDeferredApply dt s = _
  unfold execKeyCmdDeferredApply
  dsimp only
  rw [if_neg (elapse_runs hrun), hdeferred']
  exact if_pos hfree

/-- A deferred command takes effect once no pin is left, and an ERASE empties its slot (R401). -/
theorem keyCmdDeferredApply_applies {c : KeyCmd} (hdeferred : s.key.deferred = some c) (hfree : slotPins c.slot s = 0) :
    Completes (.keyCmdDeferredApply dt) s fun t => t.key.deferred = none ∧ t.getF F.KEY_CMD_STATUS_BUSY = 0 ∧ t.getF F.KEY_CMD_STATUS_DONE = 1 ∧
      (c.cmd = 5 → c.slot < 64 → keysUsable s = true → genEnds c.slot s = false → t.slotOf c.slot = KeySlot.empty ∧ KeyEnds scOk 0 0 s t) := by
  obtain ⟨hover, hidle, hdone⟩ := runKeyCmd_ends c (undeferred c (s.elapse dt))
  refine ⟨_, exec_keyCmdDeferredApply hrun hdeferred hfree, hover, hidle, hdone, fun hcmd hslot husable hgen => ?_⟩
  have hown : (undeferred c (s.elapse dt)).slotOf c.slot = { s.slotOf c.slot with closing := false } := (undeferred_slotOf ..).trans (if_pos rfl)
  have hgen' : genEnds c.slot (undeferred c (s.elapse dt)) = false := by
    unfold genEnds
    rw [hown]
    exact hgen
  have heffect : keyEffect c (undeferred c (s.elapse dt)) = runErase c (undeferred c (s.elapse dt)) := by
    unfold keyEffect
    rw [hcmd]
    rfl
  rw [runKeyCmd_general (s := undeferred c (s.elapse dt)) husable (by omega) hslot (by rw [hown]), heffect, runErase_writes hgen']
  obtain ⟨hends, hempty, -⟩ := writeKey_target c KeySlot.empty (undeferred c (s.elapse dt))
  exact ⟨hempty, hends.of_count ((OnlyRegs.setSlot _ c.slot _).getF (by decide))⟩

section
variable {id : BitVec 12} {j : Job} {nix : Nat} {u : KeyUse} (hjob : s.job id.toNat = some j) (hrunning : j.state = jsRunning) (hwork : j.work = .kld nix u)
include hjob hrunning hwork

theorem exec_kldLoad : exec (.kldLoad dt id) s = .next (match cacheSlot nix s with
    | some k => kldDone id.toNat j u k ((s.elapse dt).incF (F.KEY_CNT_COUNT 0))
    | none => match cacheVictim (s.elapse dt) with
      | some v => kldMiss id.toNat j nix u v (s.elapse dt)
      | none => kldWait id.toNat j (s.elapse dt)) := by
  have hjob' : (s.elapse dt).job id.toNat = some j := hjob
  change execKldLoad dt id s = _
  unfold execKldLoad
  dsimp only
  rw [if_neg (elapse_runs hrun), hjob']
  dsimp only
  rw [hwork]
  dsimp only
  rw [if_neg (fun h => h hrunning), show cacheSlot nix (s.elapse dt) = cacheSlot nix s from rfl]
  cases cacheSlot nix s with
  | some k => rfl
  | none => cases cacheVictim (s.elapse dt) <;> rfl

theorem kldLoad_hit {k i : Nat} (hcache : cacheSlot nix s = some k) (hwaiting : s.fab.waiting = []) (hfree : freeId s = some i) :
    Completes (.kldLoad dt id) s fun t => t.job id.toNat = none ∧ (t.job i).map (fun x => (x.state, x.pins)) = some (jsReady, [k]) ∧
      (t.slotOf k).lastUse = s.key.tick + 1 := by
  refine ⟨_, exec_kldLoad hrun hjob hrunning hwork, ?_⟩
  rw [hcache]
  exact kldDone_loads (s := (s.elapse dt).incF (F.KEY_CNT_COUNT 0)) hjob hfree hwaiting

theorem kldLoad_waits (hcache : cacheSlot nix s = none) (hvictim : cacheVictim s = none) :
    Completes (.kldLoad dt id) s fun t => (t.job id.toNat).map (fun x => (x.state, x.pauses)) = some (jsRunning, if j.pauses = 0 then 1 else j.pauses) ∧
      t.key.slots = s.key.slots ∧ t.getF (F.KEY_CNT_COUNT 5) = (s.getF (F.KEY_CNT_COUNT 5) + if j.pauses = 0 then 1 else 0) % 2 ^ 32 := by
  refine ⟨_, exec_kldLoad hrun hjob hrunning hwork, ?_⟩
  rw [hcache, show cacheVictim (s.elapse dt) = none from hvictim]
  exact kldWait_waits (s := s.elapse dt) hjob hrunning

end
end

/-- Settles O51: each command is put down to its effect on the running state, and the effect's slots, generations and status are read off. -/
theorem keyCommands : Obligations.KeyCommands := by
  intro dt s hrun hcore hmode ends same
  refine ⟨?_, ?_, fun c hdeferred hfree => keyCmdDeferredApply_applies hrun hdeferred hfree, fun id j hjob hrunning nix u hwork =>
    ⟨fun k hcache hwaiting i hfree => kldLoad_hit hrun hjob hrunning hwork hcache hwaiting hfree, fun hcache hvictim => kldLoad_waits hrun hjob hrunning hwork hcache hvictim⟩⟩
  · intro m slot src howns hidle husable n h put
    refine ⟨fun hslot hopen => ⟨fun hfree => ?_, keyCmd_expire hcore hmode howns hidle husable hslot hopen, fun hpinned => ?_⟩, ?_, keyCmd_flushNode hcore hmode howns hidle husable⟩
    · obtain ⟨hinvalid, hend, htaken⟩ := keyCmd_unpinned (dt := dt) (src := src) hcore hmode howns hidle husable hslot hopen hfree
      refine ⟨hend, hinvalid, fun hgen => ?_⟩
      obtain ⟨hclear, herase, hunwrap, hderive⟩ := htaken hgen
      exact ⟨hclear, herase, hunwrap, fun hsrc hattr hfull hdepth hmay hperms hstale hlives => hderive ⟨hsrc, hattr, hfull, hdepth, hmay, hperms, hstale, hlives⟩⟩
    · have hwaits {i : Instr} {cmd : Nat} := completes_keyDeferred (dt := dt) (m := m) (slot := slot) (src := src) (i := i) (cmd := cmd) hcore hmode howns hidle husable
      exact ⟨hwaits rfl (.inl rfl) hslot hpinned, hwaits rfl (.inr (.inl rfl)) hslot hpinned, hwaits rfl (.inr (.inr (.inl rfl))) hslot hpinned,
        hwaits rfl (.inr (.inr (.inr rfl))) hslot hpinned⟩
    · exact fun hsrc hapart harg hfull hxnr hstale hwrapper => keyCmd_wrap hcore hmode howns hidle husable ⟨hsrc, hapart, harg, hfull, hxnr, hstale, hwrapper⟩
  · intro m slot src h ignores
    have hignored {i : Instr} {cmd : Nat} := completes_ignoredKeyCmd (dt := dt) (m := m) (n := slot.toNat) (src := src.toNat) (i := i) (cmd := cmd) hcore hmode h
    exact ⟨hignored rfl, hignored rfl, hignored rfl, hignored rfl, hignored rfl, hignored rfl, hignored rfl⟩

end Sys2Proof.Machine

/-! SUPPORT. What a lane fault ends and what it leaves: the CPH jobs, the alarm erase, and the safe state (R324, R365, R380 to R385, R402). -/

namespace Sys2Proof.Machine

section
variable {dt : Nat} {s t : State}

/-! The cipher engine, TAMP's memory, the keys and the fabric stand in what the radio, the exchange and the catalogue do. -/

theorem LedgerClosed.engineStands (q : Cipher × Tamp × KeyStore × Fabric) : LedgerClosed fun t => (t.cph, t.tamp, t.key, t.fab) = q where
  reg hs _ := hs
  notice {s k status port arg} hs := by
    rw [notify_cph, notify_tamp, notify_key, notify_fab]
    exact hs
  lane hs hp := (congrArg (fun t : State => (t.cph, t.tamp, t.key, t.fab)) hp).trans hs
  radio hs hp := (congrArg (fun t : State => (t.cph, t.tamp, t.key, t.fab)) hp).trans hs
  ledger hs hp := (congrArg (fun t : State => (t.cph, t.tamp, t.key, t.fab)) hp).trans hs

/-- What the end of an engine's CPH job means to its creator stays within the radio's engines and the catalogue. -/
theorem LedgerClosed.cipherConsume {K : State → Prop} (h : LedgerClosed K) {w : Work} {status : Nat} {out : List Byte} (hs : K s) : K (cipherConsume w status out s) := by
  unfold Machine.cipherConsume
  split
  · split
    · exact h.setAcc hs
    · exact hs
  · split
    · split
      · extract_lets d s1
        have h1 : K s1 := h.setDl hs
        split
        · exact h.radio h1 rfl
        · exact h.radio h1 rfl
        · exact h.radio h1 rfl
        · exact h1
      · exact h.dlEnd hs
    · exact hs
  · split
    · exact h.radio hs rfl
    · exact h.notice (h.incF (h.updSlt hs) (by omega))
  · exact hs

/-! The end of a CPH job (R324, R381) leaves the engine, and the keys that a zeroisation left empty. -/

/-- The cipher engine and TAMP's memory are `c` and `p`, and where `b` holds no slot holds a key and no command is deferred. -/
structure Wiped (c : Cipher) (p : Tamp) (b : Prop) (t : State) : Prop where
  cph : t.cph = c
  tamp : t.tamp = p
  empty : b → t.key.slots = [] ∧ t.key.deferred = none

variable {c : Cipher} {p : Tamp} {b : Prop}

theorem Wiped.of_parts (h : Wiped c p b s) (hp : (t.cph, t.tamp, t.key) = (s.cph, s.tamp, s.key)) : Wiped c p b t := by
  obtain ⟨hcph, hrest⟩ := Prod.mk.inj hp
  obtain ⟨htamp, hkey⟩ := Prod.mk.inj hrest
  obtain ⟨hc, hp', hempty⟩ := h
  exact ⟨hcph.trans hc, htamp.trans hp', hkey ▸ hempty⟩

theorem Wiped.of_offFabric (h : Wiped c p b s) (hp : t.offFabric = s.offFabric) : Wiped c p b t :=
  h.of_parts (congrArg (fun t : State => (t.cph, t.tamp, t.key)) hp : (t.offFabric.cph, t.offFabric.tamp, t.offFabric.key) = (s.offFabric.cph, s.offFabric.tamp, s.offFabric.key))

theorem Wiped.closed (c : Cipher) (p : Tamp) (b : Prop) : LedgerClosed (Wiped c p b) where
  reg hs _ := hs.of_parts rfl
  notice hs := hs.of_parts (by rw [notify_cph, notify_tamp, notify_key])
  lane hs hp := hs.of_parts ((congrArg (fun t : State => (t.cph, t.tamp, t.key)) hp).trans rfl)
  radio hs hp := hs.of_parts ((congrArg (fun t : State => (t.cph, t.tamp, t.key)) hp).trans rfl)
  ledger hs hp := hs.of_parts ((congrArg (fun t : State => (t.cph, t.tamp, t.key)) hp).trans rfl)

/-- The sweep zeroises slots that hold keys alone. -/
theorem Wiped.sweepCache (h : Wiped c p b s) : Wiped c p b (sweepCache s) :=
  keeps_foldl (K := Wiped c p b) h fun i _ t ht => by
    extract_lets k
    split
    next hfull =>
      refine ⟨ht.cph, ht.tamp, fun hb => ?_⟩
      have hk : k = KeySlot.empty := congrArg (fun m => Sparse.get (fun _ => KeySlot.empty) m i) (ht.empty hb).1
      rw [hk] at hfull
      exact absurd hfull Bool.noConfusion
    · exact ht

theorem syncReady_parts (c : Nat) (s : State) : ∃ r, syncReady c s = { s with regs := r } := by
  unfold syncReady
  split <;> exact ⟨_, rfl⟩

theorem leaveReady_offFabric (i : Nat) (j : Job) (s : State) : (leaveReady i j s).offFabric = s.offFabric := (syncReady_offFabric ..).trans rfl

theorem freeJob_offFabric (i : Nat) (s : State) : (freeJob i s).offFabric = s.offFabric := by
  unfold freeJob
  extract_lets s1
  split
  · exact (createWith_offFabric ..).trans rfl
  · rfl

theorem syncCph_parts (s : State) : ∃ r, syncCph s = { s with regs := r } := by
  unfold syncCph
  extract_lets held s1
  split <;> exact ⟨_, rfl⟩

theorem Wiped.syncCph (h : Wiped c p b s) : Wiped c p b (syncCph s) := by
  obtain ⟨r, hr⟩ := syncCph_parts s
  rw [hr]
  exact h.of_parts rfl

theorem Wiped.cipherEnd (h : Wiped c p b s) {i status detail : Nat} {j : Job} {result out : List Byte} : Wiped c p b (cipherEnd i j status detail result out s) := by
  unfold Machine.cipherEnd
  extract_lets s1 s2 s3
  have h1 : Wiped c p b s1 := by
    dsimp only [s1]
    split
    · exact h.of_parts rfl
    · exact h
  have h2 : Wiped c p b s2 := (h1.of_offFabric (completeJob_offFabric ..)).sweepCache
  have h3 : Wiped c p b s3 := by
    dsimp only [s3]
    split
    · exact h2
    · exact h2
    · exact h2
    · exact ((Wiped.closed c p b).cipherConsume h2).of_offFabric (freeJob_offFabric ..)
  exact h3.syncCph

theorem Wiped.abortCipherJobs (h : Wiped c p b s) : Wiped c p b (abortCipherJobs s) :=
  keeps_foldl (K := Wiped c p b) h fun _ _ _ ht =>
    keeps_ite (Wiped.cipherEnd (keeps_ite ht (ht.of_offFabric (leaveReady_offFabric ..)))) ht

theorem Wiped.abortPinned (h : Wiped c p b s) : Wiped c p b (abortPinned s) :=
  keeps_foldl (K := Wiped c p b) h fun _ _ _ ht =>
    keeps_ite (Wiped.cipherEnd (keeps_ite ht (ht.of_offFabric (leaveReady_offFabric ..)))) ht

/-! The alarm erase and the safe state (R402, R491). -/

theorem keyCmdEnd_keys (cmd slot status detail reason : Nat) (s : State) :
    ((keyCmdEnd cmd slot status detail reason s).cph, (keyCmdEnd cmd slot status detail reason s).tamp, (keyCmdEnd cmd slot status detail reason s).key) =
      (s.cph, s.tamp, s.key) := by
  obtain ⟨r, hr⟩ := keyEnded_parts status detail reason s
  rw [keyCmdEnd_eq, notify_cph, notify_tamp, notify_key, hr]

/-- After an alarm erase no slot holds a key and no command is deferred. -/
theorem Wiped.alarmErase (h : Wiped c p b s) {cause : Nat} : Wiped c p True (alarmErase cause s) := by
  have hzero : Wiped c p True (zeroiseAll s) := ⟨h.cph, h.tamp, fun _ => ⟨rfl, rfl⟩⟩
  unfold Machine.alarmErase
  extract_lets d s1 s2
  clear_value d
  have h2 : Wiped c p True s2 := by
    dsimp only [s2]
    split
    · exact hzero.abortPinned.of_parts (keyCmdEnd_keys ..)
    · exact hzero.abortPinned
  exact (Wiped.closed c p True).notice (h2.of_parts rfl)

theorem handOver_regs_pair (s : State) : ∃ r q, handOver s = { s with regs := r, pair := q } := by
  obtain ⟨q, hq⟩ := requestTakeover_parts s
  unfold handOver
  dsimp only
  split
  · obtain ⟨-, r, q', hr⟩ := releaseOwnN_frame (requestTakeover s)
    exact ⟨r, q', by rw [hr, hq]⟩
  · exact ⟨_, q, hq⟩

theorem rollback_engine (result : Nat) (s : State) :
    ((rollback result s).cph, (rollback result s).tamp, (rollback result s).key, (rollback result s).fab) = (s.cph, s.tamp, s.key, s.fab) := by
  obtain ⟨r, hr⟩ := abortTxn_parts result s
  rw [rollback_eq, notify_cph, notify_tamp, notify_key, notify_fab, hr]

theorem safeAsserted_engine (i : Nat) (s : State) :
    ((safeAsserted i s).cph, (safeAsserted i s).tamp, (safeAsserted i s).key, (safeAsserted i s).fab) = (s.cph, s.tamp, s.key, s.fab) := by
  obtain ⟨r, hr⟩ := addCause_parts i s
  exact (LedgerClosed.engineStands (s.cph, s.tamp, s.key, s.fab)).quietPorts (s := addCause i s) (by rw [hr])

theorem safeHandedOver_engine (s : State) :
    ((safeHandedOver s).cph, (safeHandedOver s).tamp, (safeHandedOver s).key, (safeHandedOver s).fab) = (s.cph, s.tamp, s.key, s.fab) := by
  obtain ⟨r, q, hq⟩ := handOver_regs_pair s
  unfold safeHandedOver discardTxn
  split
  · rw [hq]
    rfl
  · refine (rollback_engine ..).trans ?_
    rw [hq]
    rfl

theorem armFreeze_parts (i : Nat) (s : State) : ∃ f, armFreeze i s = { s with frz := f } := by
  unfold armFreeze
  split <;> exact ⟨_, rfl⟩

/-- The safe state leaves the cipher engine, TAMP's memory, the keys and the fabric. -/
theorem enterSafe_engine (i : Nat) (s : State) :
    ((enterSafe i s).cph, (enterSafe i s).tamp, (enterSafe i s).key, (enterSafe i s).fab) = (s.cph, s.tamp, s.key, s.fab) := by
  unfold enterSafe
  split
  · obtain ⟨f, hf⟩ := armFreeze_parts i (addCause i s)
    obtain ⟨r, hr⟩ := addCause_parts i s
    rw [hf, hr]
  · split
    · obtain ⟨arg, heq⟩ := enterSafeFresh_eq i s
      obtain ⟨f, hf⟩ := armFreeze_parts i (notify N.SAFE_ENTER scSafeHold 0 arg (safeHandedOver (safeAsserted i s)))
      rw [heq, hf]
      dsimp only
      rw [notify_cph, notify_tamp, notify_key, notify_fab, safeHandedOver_engine, safeAsserted_engine]
    · rfl

/-! A job that a lane fault ends does not run on (R365). -/

/-- Job `i` does not run. -/
@[reducible] def Stopped (i : Nat) (t : State) : Prop := (t.job i).map (·.state) ≠ some jsRunning

theorem Stopped.of_job {i : Nat} (h : Stopped i s) (hj : t.job i = s.job i) : Stopped i t := by
  unfold Stopped
  rw [hj]
  exact h

theorem Stopped.of_fab {i : Nat} (h : Stopped i s) (hf : t.fab = s.fab) : Stopped i t := h.of_job (State.job_of_jobs (congrArg Fabric.jobs hf) i)

theorem Stopped.closed (i : Nat) : LedgerClosed (Stopped i) where
  reg hs _ := hs.of_fab rfl
  notice hs := hs.of_fab (notify_fab ..)
  lane hs hp := hs.of_fab ((congrArg (fun t : State => t.fab) hp).trans rfl)
  radio hs hp := hs.of_fab ((congrArg (fun t : State => t.fab) hp).trans rfl)
  ledger hs hp := hs.of_fab ((congrArg (fun t : State => t.fab) hp).trans rfl)

theorem Stopped.sweepCache {i : Nat} (h : Stopped i s) : Stopped i (sweepCache s) :=
  keeps_foldl (K := Stopped i) h fun _ _ _ ht => keeps_ite (K := Stopped i) (ht.of_fab rfl) ht

theorem Stopped.completeJob {i k status detail : Nat} {j : Job} {result : List Byte} (h : Stopped i s ∨ k = i) : Stopped i (completeJob k j status detail result s) := by
  unfold Stopped
  rw [completeJob_job]
  split
  · exact fun h => absurd (Option.some.inj h : jsComplete = jsRunning) (by decide)
  next hne => exact h.resolve_right fun e => hne e.symm

theorem Stopped.freeJob {i k : Nat} (h : Stopped i s) : Stopped i (freeJob k s) := by
  have hfreed : Stopped i (syncJobs (s.setJob k none)) := by
    have hjob : (syncJobs (s.setJob k none)).job i = if i = k then none else s.job i := State.job_setJob ..
    unfold Stopped
    rw [hjob]
    split
    · exact nofun
    · exact h
  unfold Machine.freeJob
  extract_lets s1
  split
  next j r _ =>
    unfold Stopped
    rw [createWith_job]
    split
    · exact fun h => absurd (Option.some.inj h : jsReady = jsRunning) (by decide)
    · exact hfreed
  · exact hfreed

theorem leaveReady_job (i k : Nat) (j : Job) (s : State) : (leaveReady i j s).job k = s.job k := State.job_of_jobs (syncReady_jobs ..) k

theorem Stopped.cipherEnd {i k status detail : Nat} {j : Job} {result out : List Byte} (h : Stopped i s ∨ k = i) : Stopped i (cipherEnd k j status detail result out s) := by
  unfold Machine.cipherEnd
  extract_lets s1 s2 s3
  have h1 : Stopped i s1 ∨ k = i := h.imp_left fun h => by
    dsimp only [s1]
    split
    · exact h.of_fab rfl
    · exact h
  have h2 : Stopped i s2 := (Stopped.completeJob h1).sweepCache
  have h3 : Stopped i s3 := by
    dsimp only [s3]
    split
    · exact h2
    · exact h2
    · exact h2
    · exact ((Stopped.closed i).cipherConsume h2).freeJob
  obtain ⟨r, hr⟩ := syncCph_parts s3
  rw [hr]
  exact h3.of_fab rfl

theorem Stopped.abortPinned {i : Nat} (h : Stopped i s) : Stopped i (abortPinned s) :=
  keeps_foldl (K := Stopped i) h fun _ _ _ ht => keeps_ite (K := Stopped i) (Stopped.cipherEnd (.inl (keeps_ite (K := Stopped i) ht (ht.of_job (leaveReady_job ..))))) ht

/-- What a job's ID shows is in flight. -/
theorem State.mem_inFlight {i : Nat} {j : Job} (h : s.job i = some j) : (i, j) ∈ s.inFlight := by
  have hmem (m : Sparse (Option Job)) (hm : Sparse.get (fun _ => none) m i = some j) : (i, some j) ∈ m := by
    induction m with
    | nil => cases hm
    | cons e m ih =>
      unfold Sparse.get at hm
      split at hm
      next he =>
        rw [← he, ← hm]
        exact List.mem_cons_self
      · exact List.mem_cons_of_mem e (ih hm)
  exact List.mem_filterMap.2 ⟨(i, some j), hmem _ h, rfl⟩

/-- One job's end among those that a lane fault brings. -/
def cipherAborted (s : State) (e : Nat × Job) : State :=
  if e.2.cls == ecCPH && e.2.state != jsComplete then
    cipherEnd e.1 e.2 scAbortedErase 0 (List.replicate 12 0) [] (if e.2.state == jsRunning then s else leaveReady e.1 e.2 s)
  else s

theorem abortCipherJobs_eq (s : State) : abortCipherJobs s = s.inFlight.foldl cipherAborted s := rfl

theorem Stopped.cipherAborted {i : Nat} {e : Nat × Job} (h : Stopped i s) : Stopped i (cipherAborted s e) :=
  keeps_ite (K := Stopped i) (Stopped.cipherEnd (.inl (keeps_ite (K := Stopped i) h (h.of_job (leaveReady_job ..))))) h

/-- A running CPH job is stopped. -/
theorem abortCipherJobs_stops {i : Nat} {j : Job} (h : s.job i = some j) (hcls : j.cls = ecCPH) (hrunning : j.state = jsRunning) : Stopped i (abortCipherJobs s) := by
  obtain ⟨l, r, hlist⟩ := List.append_of_mem (State.mem_inFlight h)
  rw [abortCipherJobs_eq, hlist, List.foldl_append, List.foldl_cons]
  refine keeps_foldl (K := Stopped i) ?_ fun _ _ _ ht => ht.cipherAborted
  unfold Machine.cipherAborted
  rw [if_pos (by rw [hcls, hrunning]; rfl)]
  exact Stopped.cipherEnd (.inr rfl)

/-! The lane fault (R365, R384, R402, R491). -/

/-- The engine after its jobs have ended, with neither run nor injection. -/
def cipherHalted (s : State) : State := ((abortCipherJobs s).setF F.CPH_STATUS_STATE 2).updCph fun c => { c with kat := none, inject := false }

theorem laneFault_eq (k : NoticeKind) (arg cause : Nat) (s : State) :
    laneFault k arg cause s = enterSafe 2 (syncCph (notify k scSafeHold 0 arg (alarmErase cause (cipherHalted s)))) := rfl

/-- No key, no deferred command, no run and no injection is left; TAMP's memory stands. -/
theorem laneFault_wipes (k : NoticeKind) (arg cause : Nat) (s : State) : Wiped { s.cph with kat := none, inject := false } s.tamp True (laneFault k arg cause s) := by
  have haborted : Wiped s.cph s.tamp False (abortCipherJobs s) := Wiped.abortCipherJobs ⟨rfl, rfl, False.elim⟩
  have hhalted : Wiped { s.cph with kat := none, inject := false } s.tamp False (cipherHalted s) :=
    ⟨congrArg (fun c : Cipher => { c with kat := none, inject := false }) haborted.cph, haborted.tamp, False.elim⟩
  have hnoted := ((Wiped.closed _ _ _).notice (hhalted.alarmErase (cause := cause)) (k := k) (status := scSafeHold) (port := 0) (arg := arg)).syncCph
  rw [laneFault_eq]
  exact hnoted.of_parts (congrArg (fun q : Cipher × Tamp × KeyStore × Fabric => (q.1, q.2.1, q.2.2.1)) (enterSafe_engine 2 _))

theorem Stopped.alarmErase {i cause : Nat} (h : Stopped i s) : Stopped i (alarmErase cause s) := by
  have hpinned : Stopped i (Machine.abortPinned (zeroiseAll s)) := Stopped.abortPinned (h.of_fab rfl)
  unfold Machine.alarmErase
  extract_lets d s1 s2
  clear_value d
  have h2 : Stopped i s2 := by
    dsimp only [s2]
    split
    next c =>
      obtain ⟨r, hr⟩ := keyEnded_parts scAbortedErase 0 0 s1
      exact hpinned.of_fab (by rw [keyCmdEnd_eq, notify_fab, hr])
    · exact hpinned
  exact (Stopped.closed i).notice (h2.of_fab rfl)

theorem laneFault_stops {i : Nat} {j : Job} (k : NoticeKind) (arg cause : Nat) (h : s.job i = some j) (hcls : j.cls = ecCPH) (hrunning : j.state = jsRunning) :
    Stopped i (laneFault k arg cause s) := by
  have hhalted : Stopped i (cipherHalted s) := (abortCipherJobs_stops h hcls hrunning).of_fab rfl
  have hnoted := (Stopped.closed i).notice (Stopped.alarmErase (cause := cause) hhalted) (k := k) (status := scSafeHold) (port := 0) (arg := arg)
  obtain ⟨r, hr⟩ := syncCph_parts (notify k scSafeHold 0 arg (alarmErase cause (cipherHalted s)))
  rw [laneFault_eq]
  refine Stopped.of_fab (s := syncCph (notify k scSafeHold 0 arg (alarmErase cause (cipherHalted s)))) ?_ ?_
  · rw [hr]
    exact hnoted.of_fab rfl
  · exact congrArg (fun q : Cipher × Tamp × KeyStore × Fabric => q.2.2.2) (enterSafe_engine 2 _)

/-! What a lane fault shows where the device ran alone. -/

theorem OnlyRegs.keyCmdEnd (cmd slot status detail reason : Nat) (s : State) :
    OnlyRegs ((0x130024 :: ((List.range 8).map fun n => 0x130040 + 4 * n) ++ [0x13010C]) ++ noticeRegs) s (keyCmdEnd cmd slot status detail reason s) :=
  (OnlyRegs.keyEnded status detail reason s).trans (OnlyRegs.notify _ _ _ _ _)

/-- An alarm erase without jobs writes the key block's registers alone beside its notices. -/
theorem OnlyRegs.alarmErase (cause : Nat) (hjobs : s.fab.jobs = []) :
    OnlyRegs ([0x130000, 0x130118] ++ ((0x130024 :: ((List.range 8).map fun n => 0x130040 + 4 * n) ++ [0x13010C]) ++ noticeRegs)) s (alarmErase cause s) := by
  have hnone : Machine.abortPinned (Machine.zeroiseAll s) = Machine.zeroiseAll s := by
    have hfly : (Machine.zeroiseAll s).inFlight = [] := congrArg (List.filterMap fun e : Nat × Option Job => e.2.map fun j => (e.1, j)) hjobs
    unfold Machine.abortPinned
    rw [hfly]
    rfl
  unfold Machine.alarmErase
  extract_lets d s1 s2
  clear_value d
  have h1 : OnlyRegs [0x130000] s s1 := by
    dsimp only [s1]
    rw [hnone]
    exact OnlyRegs.zeroiseAll s
  have h2 : OnlyRegs ([0x130000] ++ ((0x130024 :: ((List.range 8).map fun n => 0x130040 + 4 * n) ++ [0x13010C]) ++ noticeRegs)) s s2 := by
    dsimp only [s2]
    split
    · exact h1.trans (OnlyRegs.keyCmdEnd _ _ _ _ _ _)
    · exact h1.mono (by decide)
  exact ((h2.trans (OnlyRegs.incF s2 (F.KEY_CNT_COUNT 6))).trans (OnlyRegs.notify _ _ _ _ _)).mono (by decide)

/-- CPH_STATUS as the jobs stand: a halted engine stays so, and KAT_OK stands (R365, R384). -/
theorem syncCph_shown (s : State) : OnlyRegs [0x120000] s (syncCph s) ∧ (syncCph s).getF F.CPH_STATUS_KAT_OK = s.getF F.CPH_STATUS_KAT_OK ∧
    (s.getF F.CPH_STATUS_STATE = 2 → (syncCph s).getF F.CPH_STATUS_STATE = 2) := by
  unfold syncCph
  extract_lets held s1
  have hregs : OnlyRegs [0x120000] s s1 := ((OnlyRegs.setF s F.CPH_STATUS_HOLD_BUSY _).trans (OnlyRegs.setF _ F.CPH_STATUS_SUSPENDED _)).mono (by decide)
  have hstands {hi lo : Nat} (hlo : 11 ≤ lo) : s1.getF ⟨0x120000, hi, lo⟩ = s.getF ⟨0x120000, hi, lo⟩ :=
    (State.getF_setF_disj _ _ (by decide) (by decide) (.inl (by dsimp only; omega))).trans (State.getF_setF_disj _ _ (by decide) (by decide) (.inl (by dsimp only; omega)))
  split
  next h => exact ⟨hregs, hstands (by decide), fun _ => h⟩
  next h =>
    refine ⟨(hregs.trans (OnlyRegs.setF s1 F.CPH_STATUS_STATE _)).mono (by decide), ?_, fun h2 => absurd ((hstands (by decide)).trans h2) h⟩
    exact (State.getF_setF_disj _ _ (by decide) (by decide) (.inr (by decide))).trans (hstands (by decide))

theorem OnlyRegs.ownHandedOver (s : State) : OnlyRegs [0x168000, 0x160004] s (Machine.handOver s) := by
  unfold Machine.handOver
  exact keeps_ite (K := OnlyRegs [0x168000, 0x160004] s) ((OnlyRegs.requestTakeover s).trans (releaseOwnN_frame _).1) ((OnlyRegs.requestTakeover s).mono (by decide))

theorem OnlyRegs.safeHandedOver (s : State) : OnlyRegs ([0x168000, 0x160004, 0x170100, 0x2080C] ++ noticeRegs) s (safeHandedOver s) := by
  have hcount : OnlyRegs [0x168000, 0x160004, 0x170100] s (abandonTakeover ((Machine.handOver s).incF (F.SAF_CNT_COUNT 0))) :=
    (((OnlyRegs.ownHandedOver s).trans (OnlyRegs.incF _ (F.SAF_CNT_COUNT 0))).trans (OnlyRegs.updPair _ _)).mono (by decide)
  unfold Machine.safeHandedOver discardTxn
  exact keeps_ite (K := OnlyRegs ([0x168000, 0x160004, 0x170100, 0x2080C] ++ noticeRegs) s) (hcount.mono (by decide)) ((hcount.trans (OnlyRegs.rollback scDenied _)).mono (by decide))

/-- The safe state leaves the registers of the memory, cipher, key, identity, time and backhaul blocks. -/
theorem enterSafeFresh_mid {a : Nat} (i : Nat) (s : State) (ha : 0x118000 ≤ a ∧ a < 0x160000) : (enterSafeFresh i s).reg a = s.reg a := by
  obtain ⟨arg, heq⟩ := enterSafeFresh_eq i s
  obtain ⟨f, hf⟩ := armFreeze_parts i (notify N.SAFE_ENTER scSafeHold 0 arg (safeHandedOver (safeAsserted i s)))
  have hfar (l : List Nat) (hl : ∀ b ∈ l, b < 0x118000 ∨ 0x160000 ≤ b) : a ∉ l := fun h => by
    have hb := hl a h
    omega
  have hasserted : OnlyRegs [0x4, F.PWR_STATUS_MODE.addr, 0x170000] (quietPorts (addCause i s)) (safeAsserted i s) :=
    ((((OnlyRegs.setF _ F.TOP_STATUS_SAFE 1).trans (OnlyRegs.setF _ F.TOP_STATUS_STATE stSafeHold)).trans (OnlyRegs.setF _ F.PWR_STATUS_MODE 0)).trans
      (OnlyRegs.setF _ F.SAF_STATUS_SAFE 1)).mono (by decide)
  have hnoted := (OnlyRegs.safeHandedOver (safeAsserted i s)).trans (OnlyRegs.notify N.SAFE_ENTER scSafeHold 0 arg _)
  rw [heq, hf]
  calc (notify N.SAFE_ENTER scSafeHold 0 arg (safeHandedOver (safeAsserted i s))).reg a
    _ = (safeAsserted i s).reg a := hnoted a (hfar _ (by decide))
    _ = (quietPorts (addCause i s)).reg a := hasserted a (hfar _ (by decide))
    _ = (addCause i s).reg a := (MidKept.quietPorts (.refl (addCause i s))).reg a (.inl ha)
    _ = s.reg a := OnlyRegs.addCause i s a (hfar _ (by decide))

/-- A device that runs without jobs is in the safe state for cause 2 with the engine HALTED, and the bits that name the fault stand. -/
theorem laneFault_halts (k : NoticeKind) (arg cause : Nat) (hjobs : s.fab.jobs = []) (hmode : s.mode = stAutonomous) (hsafe : s.getF F.SAF_STATUS_SAFE = 0) :
    (laneFault k arg cause s).getF F.CPH_STATUS_STATE = 2 ∧ (laneFault k arg cause s).mode = stSafeHold ∧ (laneFault k arg cause s).pins.safeN = true ∧
      bitsOf ((laneFault k arg cause s).reg 0x170000) 2 2 = 1 ∧ (laneFault k arg cause s).reg 0x120008 = s.reg 0x120008 ∧
      (laneFault k arg cause s).getF F.CPH_STATUS_KAT_OK = s.getF F.CPH_STATUS_KAT_OK := by
  have hnone : abortCipherJobs s = s := by
    have hfly : s.inFlight = [] := congrArg (List.filterMap fun e : Nat × Option Job => e.2.map fun j => (e.1, j)) hjobs
    rw [abortCipherJobs_eq, hfly]
    rfl
  have hhalted : OnlyRegs [0x120000] s (cipherHalted s) := by
    unfold cipherHalted
    rw [hnone]
    exact OnlyRegs.setF s F.CPH_STATUS_STATE 2
  have hstate : (cipherHalted s).getF F.CPH_STATUS_STATE = 2 ∧ (cipherHalted s).getF F.CPH_STATUS_KAT_OK = s.getF F.CPH_STATUS_KAT_OK := by
    unfold cipherHalted
    rw [hnone]
    exact ⟨State.getF_setF_of_lt s (by decide) (by decide) (by decide), State.getF_setF_disj s _ (by decide) (by decide) (.inr (by decide))⟩
  have hjobs' : (cipherHalted s).fab.jobs = [] := by
    unfold cipherHalted
    rw [hnone]
    exact hjobs
  have hnoted := (OnlyRegs.alarmErase cause hjobs').trans (OnlyRegs.notify k scSafeHold 0 arg _)
  obtain ⟨hsync, hkat, hsynced⟩ := syncCph_shown (notify k scSafeHold 0 arg (alarmErase cause (cipherHalted s)))
  have hall := (hhalted.trans hnoted).trans hsync
  rw [laneFault_eq]
  generalize hu : Machine.syncCph (notify k scSafeHold 0 arg (Machine.alarmErase cause (cipherHalted s))) = u at *
  have hentered : enterSafe 2 u = enterSafeFresh 2 u :=
    enterSafe_of_autonomous ((hall.getF (f := F.SAF_STATUS_SAFE) (by decide)).trans hsafe) ((hall.getF (f := F.TOP_STATUS_STATE) (by decide)).trans hmode)
  obtain ⟨hhold, -, hpin, -⟩ := enterSafeFresh_fields 2 u
  rw [hentered]
  refine ⟨?_, hhold, hpin, enterSafeFresh_cause (i := 2) (by decide) u, (enterSafeFresh_mid 2 u (by decide)).trans (hall _ (by decide)), ?_⟩
  · exact (State.getF_of_reg (enterSafeFresh_mid 2 u (by decide))).trans (hsynced ((hnoted.getF (by decide)).trans hstate.1))
  · exact (State.getF_of_reg (enterSafeFresh_mid 2 u (by decide))).trans (hkat.trans ((hnoted.getF (by decide)).trans hstate.2))

end

/-! Mismatches, runs and injections (R365, R383 to R385). -/

section
variable {dt : Nat} {s : State} (hrun : s.clk.running = true)

/-- The state that every lane fault leaves (R365, R402). -/
@[reducible] def Wiping (s t : State) : Prop := t.key.slots = [] ∧ t.key.deferred = none ∧ t.cph.kat = none ∧ t.cph.inject = false ∧ t.tamp.seed = s.tamp.seed

theorem Wiping.of_seed {u t : State} (h : Wiping u t) (hs : u.tamp.seed = s.tamp.seed) : Wiping s t := by
  obtain ⟨hslots, hdeferred, hkat, hinject, hseed⟩ := h
  exact ⟨hslots, hdeferred, hkat, hinject, hseed.trans hs⟩

/-- The device runs without jobs and outside the safe state. -/
structure RunsAlone (s : State) : Prop where
  jobs : s.fab.jobs = []
  mode : s.mode = stAutonomous
  safe : s.getF F.SAF_STATUS_SAFE = 0

/-- The engine HALTED, and the safe state entered for cause 2. -/
@[reducible] def Halted (t : State) : Prop := t.getF F.CPH_STATUS_STATE = 2 ∧ t.mode = stSafeHold ∧ t.pins.safeN = true ∧ bitsOf (t.reg 0x170000) 2 2 = 1

theorem laneFault_wiping (k : NoticeKind) (arg cause : Nat) (s : State) : Wiping s (laneFault k arg cause s) := by
  obtain ⟨hcph, htamp, hempty⟩ := laneFault_wipes k arg cause s
  obtain ⟨hslots, hdeferred⟩ := hempty trivial
  rw [Wiping, hcph, htamp]
  exact ⟨hslots, hdeferred, rfl, rfl, rfl⟩

/-- The registers that a mismatch sets before the fault. -/
def mismatchShown (injected : Bool) (s : State) : State :=
  if injected then (s.setF F.CPH_LANE_FAULT_MISMATCH 1).setF F.CPH_LANE_FAULT_INJECTED 1 else s.setF F.CPH_LANE_FAULT_MISMATCH 1

theorem laneMismatch_eq (id : Nat) (injected : Bool) (s : State) :
    laneMismatch id injected s = laneFault N.LANE_MISMATCH id (if injected then 3 else 1) (mismatchShown injected s) := rfl

theorem mismatchShown_frame (injected : Bool) (s : State) : ∃ r, mismatchShown injected s = { s with regs := r } := by
  unfold mismatchShown
  split <;> exact ⟨_, rfl⟩

theorem OnlyRegs.mismatchShown (injected : Bool) (s : State) : OnlyRegs [0x120008] s (mismatchShown injected s) := by
  have hset := OnlyRegs.setF s F.CPH_LANE_FAULT_MISMATCH 1
  exact keeps_ite (K := OnlyRegs [0x120008] s) ((hset.trans (OnlyRegs.setF _ F.CPH_LANE_FAULT_INJECTED 1)).mono (by decide)) hset

theorem mismatchShown_bits (injected : Bool) (s : State) : (mismatchShown injected s).getF F.CPH_LANE_FAULT_MISMATCH = 1 ∧
    (injected = true → (mismatchShown injected s).getF F.CPH_LANE_FAULT_INJECTED = 1) := by
  have hset : (s.setF F.CPH_LANE_FAULT_MISMATCH 1).getF F.CPH_LANE_FAULT_MISMATCH = 1 := State.getF_setF_of_lt s (by decide) (by decide) (by decide)
  unfold mismatchShown
  cases injected with
  | false => exact ⟨hset, Bool.noConfusion⟩
  | true => exact ⟨(State.getF_setF_disj _ _ (by decide) (by decide) (.inr (by decide))).trans hset, fun _ => State.getF_setF_of_lt _ (by decide) (by decide) (by decide)⟩

theorem laneMismatch_wiping (id : Nat) (injected : Bool) (s : State) : Wiping s (laneMismatch id injected s) := by
  obtain ⟨r, hr⟩ := mismatchShown_frame injected s
  exact Wiping.of_seed (laneFault_wiping N.LANE_MISMATCH id (if injected then 3 else 1) (mismatchShown injected s)) (by rw [hr])

/-- A mismatch of a device that runs alone: HALTED, and its bit, with that of an injection. -/
theorem laneMismatch_halts (id : Nat) (injected : Bool) (h : RunsAlone s) :
    Halted (laneMismatch id injected s) ∧ (laneMismatch id injected s).getF F.CPH_LANE_FAULT_MISMATCH = 1 ∧
      (injected = true → (laneMismatch id injected s).getF F.CPH_LANE_FAULT_INJECTED = 1) := by
  obtain ⟨hjobs, hmode, hsafe⟩ := h
  obtain ⟨hmismatch, hinjected⟩ := mismatchShown_bits injected s
  have hregs := OnlyRegs.mismatchShown injected s
  have hjobs' : (mismatchShown injected s).fab.jobs = [] := by
    obtain ⟨r, hr⟩ := mismatchShown_frame injected s
    rw [hr]
    exact hjobs
  rw [laneMismatch_eq]
  generalize mismatchShown injected s = u at hmismatch hinjected hregs hjobs' ⊢
  obtain ⟨hstate, hhold, hpin, hcause, hbits, -⟩ := laneFault_halts N.LANE_MISMATCH id (if injected then 3 else 1) hjobs'
    ((hregs.getF (f := F.TOP_STATUS_STATE) (by decide)).trans hmode) ((hregs.getF (f := F.SAF_STATUS_SAFE) (by decide)).trans hsafe)
  exact ⟨⟨hstate, hhold, hpin, hcause⟩, (State.getF_of_reg hbits).trans hmismatch, fun h => (State.getF_of_reg hbits).trans (hinjected h)⟩

end

end Sys2Proof.Machine

/-! SUPPORT. Known-answer runs and injections (R383 to R385). -/

namespace Sys2Proof.Machine

section
variable {dt : Nat} {s t : State}

theorem syncCph_engine (s : State) : ((syncCph s).cph, (syncCph s).key, (syncCph s).fab, (syncCph s).dram, (syncCph s).clk) = (s.cph, s.key, s.fab, s.dram, s.clk) := by
  obtain ⟨r, hr⟩ := syncCph_parts s
  rw [hr]

/-! A run that ends (R383, R384). -/

/-- A run's 96 blocks computed. -/
def katComputed (s : State) : State := (s.updCph fun c => { c with kat := none, katFirst := false }).addF (F.CPH_CNT_COUNT 10) 96

/-- What a failed run shows before the fault. -/
def katFailed (s : State) : State := ((katComputed s).setF F.CPH_STATUS_KAT_OK 0).setF F.CPH_LANE_FAULT_KAT_FAIL 1

theorem OnlyRegs.katComputed (s : State) : OnlyRegs [0x120128] s (katComputed s) := OnlyRegs.setF (s.updCph _) (F.CPH_CNT_COUNT 10) _

theorem katFailed_frame (s : State) : OnlyRegs [0x120128, 0x120000, 0x120008] s (katFailed s) ∧ (katFailed s).getF F.CPH_STATUS_KAT_OK = 0 ∧
    (katFailed s).getF F.CPH_LANE_FAULT_KAT_FAIL = 1 := by
  have hok := OnlyRegs.setF (katComputed s) F.CPH_STATUS_KAT_OK 0
  have hfail := OnlyRegs.setF ((katComputed s).setF F.CPH_STATUS_KAT_OK 0) F.CPH_LANE_FAULT_KAT_FAIL 1
  exact ⟨((OnlyRegs.katComputed s).trans (hok.trans hfail)).mono (by decide),
    (hfail.getF (by decide)).trans (State.getF_setF_of_lt _ (by decide) (by decide) (by decide)), State.getF_setF_of_lt _ (by decide) (by decide) (by decide)⟩

section
variable {k : Nat × Bool} (hrun : s.clk.running = true) (hkat : s.cph.kat = some k)
include hrun hkat

theorem exec_laneMismatch_run : exec (.laneMismatch dt none) s = .next (laneMismatch 0xFFF false (s.elapse dt)) := by
  refine (if_neg (elapse_runs hrun)).trans (if_pos ?_)
  show s.cph.kat.isSome = true
  rw [hkat]
  rfl

theorem exec_katRunEnd (failed : Option (Fin 16)) : exec (.katRunEnd dt failed) s = .next (match failed with
    | none => syncCph ((katComputed (s.elapse dt)).setF F.CPH_STATUS_KAT_OK 1)
    | some v => laneFault N.KAT_FAIL v 2 (katFailed (s.elapse dt))) := by
  have hkat' : (s.elapse dt).cph.kat.isSome = true := congrArg Option.isSome hkat
  change execKatRunEnd dt failed s = _
  unfold execKatRunEnd
  dsimp only
  rw [if_neg (elapse_runs hrun), if_pos hkat']
  cases failed <;> rfl

/-- A run that passes sets KAT_OK and counts its blocks. -/
theorem katRunEnd_passes : Completes (.katRunEnd dt none) s fun t => t.cph.kat = none ∧ t.cph.katFirst = false ∧ t.getF F.CPH_STATUS_KAT_OK = 1 ∧
    t.getF (F.CPH_CNT_COUNT 10) = (s.getF (F.CPH_CNT_COUNT 10) + 96) % 2 ^ 32 ∧ OnlyRegs [0x120000, 0x120128] s t ∧ t.key = s.key ∧ t.fab = s.fab ∧ t.dram = s.dram := by
  have hpassed := OnlyRegs.setF (katComputed (s.elapse dt)) F.CPH_STATUS_KAT_OK 1
  have hcount : (katComputed (s.elapse dt)).getF (F.CPH_CNT_COUNT 10) = (s.getF (F.CPH_CNT_COUNT 10) + 96) % 2 ^ 32 := State.getF_setF _ _ (by decide) (by decide)
  have hcomputed : OnlyRegs [0x120128] s (katComputed (s.elapse dt)) := OnlyRegs.katComputed (s.elapse dt)
  have hengine := syncCph_engine ((katComputed (s.elapse dt)).setF F.CPH_STATUS_KAT_OK 1)
  obtain ⟨hsync, hok, -⟩ := syncCph_shown ((katComputed (s.elapse dt)).setF F.CPH_STATUS_KAT_OK 1)
  refine ⟨_, exec_katRunEnd hrun hkat none, ?_⟩
  dsimp only
  generalize syncCph ((katComputed (s.elapse dt)).setF F.CPH_STATUS_KAT_OK 1) = t at hengine hsync hok ⊢
  obtain ⟨hcph, hrest⟩ := Prod.mk.inj hengine
  obtain ⟨hkey, hrest⟩ := Prod.mk.inj hrest
  obtain ⟨hfab, hrest⟩ := Prod.mk.inj hrest
  obtain ⟨hdram, -⟩ := Prod.mk.inj hrest
  rw [hcph, hkey, hfab, hdram]
  refine ⟨rfl, rfl, hok.trans (State.getF_setF_of_lt _ (by decide) (by decide) (by decide)), ?_, (hcomputed.trans (hpassed.trans hsync)).mono (by decide), rfl, rfl, rfl⟩
  exact (hsync.getF (by decide)).trans ((hpassed.getF (by decide)).trans hcount)

/-- A run that fails halts the engine. -/
theorem katRunEnd_fails (v : Fin 16) : Completes (.katRunEnd dt (some v)) s fun t => Wiping s t ∧ t.cph.katFirst = false ∧
    (RunsAlone s → Halted t ∧ t.getF F.CPH_LANE_FAULT_KAT_FAIL = 1 ∧ t.getF F.CPH_STATUS_KAT_OK = 0) := by
  obtain ⟨hregs, hok, hfail⟩ := katFailed_frame (s.elapse dt)
  refine ⟨_, exec_katRunEnd hrun hkat (some v), (laneFault_wiping N.KAT_FAIL v 2 (katFailed (s.elapse dt))).of_seed rfl, ?_, fun h => ?_⟩
  · exact congrArg Cipher.katFirst (laneFault_wipes N.KAT_FAIL v 2 (katFailed (s.elapse dt))).cph
  · have hregs' : OnlyRegs [0x120128, 0x120000, 0x120008] s (katFailed (s.elapse dt)) := hregs
    have hjobs : (katFailed (s.elapse dt)).fab.jobs = [] := h.jobs
    generalize katFailed (s.elapse dt) = u at hok hfail hregs' hjobs ⊢
    obtain ⟨hstate, hhold, hpin, hcause, hbits, hkat'⟩ := laneFault_halts N.KAT_FAIL v 2 hjobs ((hregs'.getF (f := F.TOP_STATUS_STATE) (by decide)).trans h.mode)
      ((hregs'.getF (f := F.SAF_STATUS_SAFE) (by decide)).trans h.safe)
    exact ⟨⟨hstate, hhold, hpin, hcause⟩, (State.getF_of_reg hbits).trans hfail, hkat'.trans hok⟩

end

/-! A run that takes the pipeline, and one that starts (R383). -/

/-- The running jobs paused. -/
def cipherPaused (s : State) : State := (runningOf ecCPH s).foldl (fun s e => s.setJob e.1 (some { e.2 with pauses := min (e.2.pauses + 1) 255 })) s

theorem cipherPaused_parts (s : State) : ∃ f, cipherPaused s = { s with fab := f } :=
  keeps_foldl (K := fun t => ∃ f, t = { s with fab := f }) ⟨_, rfl⟩ fun e _ t ht => by
    obtain ⟨f, rfl⟩ := ht
    exact ⟨_, rfl⟩

theorem cipherPaused_job {e : Nat × Job} (h : runningOf ecCPH s = [e]) : (cipherPaused s).job e.1 = some { e.2 with pauses := min (e.2.pauses + 1) 255 } := by
  unfold cipherPaused
  rw [h]
  exact State.job_setJob_self ..

/-- The run has the pipeline to itself. -/
def katExclusive (at_ : Nat) (s : State) : State := (s.updCph fun c => { c with kat := some (at_, true) }).incF (F.CPH_CNT_COUNT 9)

section
variable (hrun : s.clk.running = true)
include hrun

theorem exec_katExclusiveTake {at_ : Nat} (hkat : s.cph.kat = some (at_, false)) (hlate : at_ + 10 * ms ≤ (s.elapse dt).clk.now) :
    exec (.katExclusiveTake dt) s = .next (syncCph (cipherPaused (katExclusive at_ (s.elapse dt)))) := by
  have hkat' : (s.elapse dt).cph.kat = some (at_, false) := hkat
  change execKatExclusiveTake dt s = _
  unfold execKatExclusiveTake
  dsimp only
  rw [if_neg (elapse_runs hrun), hkat']
  exact if_pos hlate

theorem katExclusiveTake_pauses {k : Nat × Bool} (hkat : s.cph.kat = some k) (hshared : k.2 = false) (hlate : k.1 + 10 * ms ≤ (s.elapse dt).clk.now) :
    Completes (.katExclusiveTake dt) s fun t => t.cph.kat = some (k.1, true) ∧ t.getF (F.CPH_CNT_COUNT 9) = (s.getF (F.CPH_CNT_COUNT 9) + 1) % 2 ^ 32 ∧ t.key = s.key ∧
      ∀ e r, runningOf ecCPH s = e :: r → r = [] → t.job e.1 = some { e.2 with pauses := min (e.2.pauses + 1) 255 } := by
  obtain ⟨at_, shared⟩ := k
  cases hshared
  obtain ⟨f, hf⟩ := cipherPaused_parts (katExclusive at_ (s.elapse dt))
  have hcount : (cipherPaused (katExclusive at_ (s.elapse dt))).getF (F.CPH_CNT_COUNT 9) = (s.getF (F.CPH_CNT_COUNT 9) + 1) % 2 ^ 32 := by
    rw [hf]
    exact State.getF_incF_counter 0x120124 (s.elapse dt)
  have hkey : (cipherPaused (katExclusive at_ (s.elapse dt))).key = s.key := by
    rw [hf]
    rfl
  have hown : (cipherPaused (katExclusive at_ (s.elapse dt))).cph.kat = some (at_, true) := by
    rw [hf]
    rfl
  have hjob (e : Nat × Job) (h : runningOf ecCPH s = [e]) : (cipherPaused (katExclusive at_ (s.elapse dt))).job e.1 = some { e.2 with pauses := min (e.2.pauses + 1) 255 } :=
    cipherPaused_job (s := katExclusive at_ (s.elapse dt)) h
  refine ⟨_, exec_katExclusiveTake hrun hkat hlate, ?_⟩
  generalize cipherPaused (katExclusive at_ (s.elapse dt)) = u at hcount hkey hown hjob ⊢
  obtain ⟨hcph, hrest⟩ := Prod.mk.inj (syncCph_engine u)
  obtain ⟨hkey', hrest⟩ := Prod.mk.inj hrest
  obtain ⟨hfab, -⟩ := Prod.mk.inj hrest
  refine ⟨(congrArg Cipher.kat hcph).trans hown, ((syncCph_shown u).1.getF (by decide)).trans hcount, hkey'.trans hkey, fun e r h hr => ?_⟩
  rw [State.job_of_jobs (congrArg Fabric.jobs hfab)]
  exact hjob e (hr ▸ h)

/-- A run under way from now on. -/
def katStarted (s : State) : State := (s.updCph fun c => { c with kat := some (s.clk.now, c.katFirst), katAt := s.clk.now }).incF (F.CPH_CNT_COUNT 8)

theorem exec_katRunStart (hdue : katDue (s.elapse dt) = true) :
    exec (.katRunStart dt) s = .next (if s.cph.inject then laneMismatch 0xFFF true (katStarted (s.elapse dt)) else syncCph (katStarted (s.elapse dt))) := by
  refine (if_neg (elapse_runs hrun)).trans ((if_pos hdue).trans ?_)
  show (if s.cph.inject then Host.Outcome.next _ else Host.Outcome.next _) = Host.Outcome.next (if s.cph.inject then _ else _)
  split <;> rfl

/-- A due run starts and counts. -/
theorem katRunStart_starts (hdue : katDue (s.elapse dt) = true) (hinject : s.cph.inject = false) : Completes (.katRunStart dt) s fun t =>
    t.cph.kat = some (t.clk.now, s.cph.katFirst) ∧ t.cph.katAt = t.clk.now ∧ t.getF (F.CPH_CNT_COUNT 8) = (s.getF (F.CPH_CNT_COUNT 8) + 1) % 2 ^ 32 ∧
      OnlyRegs [0x120000, 0x120120] s t ∧ t.key = s.key ∧ t.fab = s.fab := by
  refine ⟨_, exec_katRunStart hrun hdue, ?_⟩
  rw [hinject, if_neg Bool.false_ne_true]
  have hregs : OnlyRegs [0x120120] s (katStarted (s.elapse dt)) := OnlyRegs.setF ((s.elapse dt).updCph _) (F.CPH_CNT_COUNT 8) _
  have hcount : (katStarted (s.elapse dt)).getF (F.CPH_CNT_COUNT 8) = (s.getF (F.CPH_CNT_COUNT 8) + 1) % 2 ^ 32 := State.getF_incF_counter 0x120120 (s.elapse dt)
  have hsync := (syncCph_shown (katStarted (s.elapse dt))).1
  have hengine := syncCph_engine (katStarted (s.elapse dt))
  generalize syncCph (katStarted (s.elapse dt)) = t at hsync hengine ⊢
  obtain ⟨hcph, hrest⟩ := Prod.mk.inj hengine
  obtain ⟨hkey, hrest⟩ := Prod.mk.inj hrest
  obtain ⟨hfab, hrest⟩ := Prod.mk.inj hrest
  obtain ⟨-, hclk⟩ := Prod.mk.inj hrest
  dsimp only
  rw [hcph, hkey, hfab, hclk]
  exact ⟨rfl, rfl, (hsync.getF (by decide)).trans hcount, (hregs.trans hsync).mono (by decide), rfl, rfl⟩

/-- The waiting injection strikes the run's first block. -/
theorem katRunStart_struck (hdue : katDue (s.elapse dt) = true) (hinject : s.cph.inject = true) : Completes (.katRunStart dt) s fun t => Wiping s t ∧
    (RunsAlone s → Halted t ∧ t.getF F.CPH_LANE_FAULT_INJECTED = 1) := by
  refine ⟨_, exec_katRunStart hrun hdue, ?_⟩
  rw [hinject, if_pos rfl]
  refine ⟨(laneMismatch_wiping 0xFFF true (katStarted (s.elapse dt))).of_seed rfl, fun h => ?_⟩
  have hregs : OnlyRegs [0x120120] s (katStarted (s.elapse dt)) := OnlyRegs.setF ((s.elapse dt).updCph _) (F.CPH_CNT_COUNT 8) _
  obtain ⟨hhalted, -, hinjected⟩ := laneMismatch_halts 0xFFF true (s := katStarted (s.elapse dt))
    ⟨h.jobs, (hregs.getF (f := F.TOP_STATUS_STATE) (by decide)).trans h.mode, (hregs.getF (f := F.SAF_STATUS_SAFE) (by decide)).trans h.safe⟩
  exact ⟨hhalted, hinjected rfl⟩

/-- The lanes disagree in a run. -/
theorem laneMismatch_inRun {k : Nat × Bool} (hkat : s.cph.kat = some k) : Completes (.laneMismatch dt none) s fun t => Wiping s t ∧
    (RunsAlone s → Halted t ∧ t.getF F.CPH_LANE_FAULT_MISMATCH = 1) := by
  refine ⟨_, exec_laneMismatch_run hrun hkat, (laneMismatch_wiping 0xFFF false (s.elapse dt)).of_seed rfl, fun h => ?_⟩
  obtain ⟨hhalted, hmismatch, -⟩ := laneMismatch_halts 0xFFF false (s := s.elapse dt) ⟨h.jobs, h.mode, h.safe⟩
  exact ⟨hhalted, hmismatch⟩

/-- The lanes disagree in a running job (R365). -/
theorem laneMismatch_inJob {id : BitVec 12} {j : Job} (hjob : s.job id.toNat = some j) (hcls : j.cls = ecCPH) (hrunning : j.state = jsRunning)
    (hlive : s.getF F.CPH_STATUS_STATE ≠ 2) : Completes (.laneMismatch dt (some id)) s fun t => Wiping s t ∧ Stopped id.toNat t := by
  have hjob' : (s.elapse dt).job id.toNat = some j := hjob
  have hexec : exec (.laneMismatch dt (some id)) s = .next (laneMismatch id.toNat false (s.elapse dt)) := by
    change execLaneMismatch dt (some id) s = _
    unfold execLaneMismatch
    dsimp only
    rw [if_neg (elapse_runs hrun), hjob']
    exact if_pos ⟨hcls, hrunning, hlive⟩
  refine ⟨_, hexec, (laneMismatch_wiping id.toNat false (s.elapse dt)).of_seed rfl, ?_⟩
  exact laneFault_stops N.LANE_MISMATCH id.toNat 1 (s := mismatchShown false (s.elapse dt)) hjob hcls hrunning

end

/-! CPH_INJECT (R385). -/

section
variable {m : Master} {w : Word} (hcore : s.clk.core = true) (hmode : s.mode = stAutonomous)
include hcore hmode

theorem exec_cphInject : exec (.cphInject dt m w) s = .next (writeInject m w (s.elapse dt)) := congrArg Host.Outcome.next (gatedWrite_runs hcore hmode)

theorem cphInject_ignored (h : s.owns m = false ∨ bitsOf w 15 0 ≠ 0x7183) :
    Completes (.cphInject dt m w) s fun t => t.cph = s.cph ∧ OnlyRegs [0x8] s t ∧ t.key = s.key ∧ t.fab = s.fab := by
  refine ⟨_, exec_cphInject hcore hmode, ?_⟩
  have hignored : writeInject m w (s.elapse dt) = ignored m 0x12000c (s.elapse dt) := by
    refine if_pos ?_
    rw [elapse_owns]
    rcases h with h | h
    · rw [h]
      rfl
    · rw [bne_iff_ne.2 h, Bool.or_true]
  rw [hignored]
  exact ⟨accessErr_cph .., OnlyRegs.ignored m 0x12000c (s.elapse dt), accessErr_key .., accessErr_fab ..⟩

section
variable (howns : s.owns m = true) (hword : bitsOf w 15 0 = 0x7183)
include howns hword

omit hcore hmode in
theorem writeInject_owned : writeInject m w (s.elapse dt) =
    let u := (s.elapse dt).updCph fun c => { c with inject := true }
    if u.getF F.CPH_STATUS_STATE = 2 then u
    else if u.cph.kat.isSome then laneMismatch 0xFFF true u
    else match (runningOf ecCPH u).head? with
    | some e => laneMismatch e.1 true u
    | none => u := by
  refine (if_neg ?_).trans rfl
  rw [elapse_owns, howns, hword]
  decide

/-- With no job and no run the injection waits. -/
theorem cphInject_waits (hkat : s.cph.kat = none) (hidle : runningOf ecCPH s = []) :
    Completes (.cphInject dt m w) s fun t => t.cph = { s.cph with inject := true } ∧ OnlyRegs [] s t ∧ t.key = s.key ∧ t.fab = s.fab := by
  refine ⟨_, exec_cphInject hcore hmode, ?_⟩
  have hkat' : ((s.elapse dt).updCph fun c => { c with inject := true }).cph.kat = none := hkat
  have hidle' : runningOf ecCPH ((s.elapse dt).updCph fun c => { c with inject := true }) = [] := hidle
  have hwaits : writeInject m w (s.elapse dt) = (s.elapse dt).updCph fun c => { c with inject := true } := by
    rw [writeInject_owned howns hword]
    dsimp only
    rw [hkat', hidle']
    split <;> rfl
  rw [hwaits]
  exact ⟨rfl, OnlyRegs.of_regs _ rfl, rfl, rfl⟩

/-- An injection that meets a run strikes it. -/
theorem cphInject_strikes {k : Nat × Bool} (hkat : s.cph.kat = some k) (hlive : s.getF F.CPH_STATUS_STATE ≠ 2) : Completes (.cphInject dt m w) s fun t => Wiping s t ∧
    (RunsAlone s → Halted t ∧ t.getF F.CPH_LANE_FAULT_INJECTED = 1 ∧ t.getF F.CPH_LANE_FAULT_MISMATCH = 1) := by
  have hkat' : ((s.elapse dt).updCph fun c => { c with inject := true }).cph.kat = some k := hkat
  have hstrikes : writeInject m w (s.elapse dt) = laneMismatch 0xFFF true ((s.elapse dt).updCph fun c => { c with inject := true }) := by
    rw [writeInject_owned howns hword]
    dsimp only
    rw [hkat']
    exact (if_neg hlive).trans (if_pos rfl)
  refine ⟨_, exec_cphInject hcore hmode, ?_⟩
  rw [hstrikes]
  refine ⟨(laneMismatch_wiping 0xFFF true _).of_seed rfl, fun h => ?_⟩
  obtain ⟨hhalted, hmismatch, hinjected⟩ := laneMismatch_halts 0xFFF true (s := (s.elapse dt).updCph fun c => { c with inject := true }) ⟨h.jobs, h.mode, h.safe⟩
  exact ⟨hhalted, hinjected rfl, hmismatch⟩

end
end

end

/-- Settles O50: each lane fault is put down to its end of the jobs, the alarm erase and the safe state; the runs' bits and counts are read off. -/
theorem lanesAndKnownAnswers : Obligations.LanesAndKnownAnswers := by
  intro dt s hrun wiped alone halted
  have hruns (h : alone) : RunsAlone s := by
    obtain ⟨hjobs, -, hmode, hsafe⟩ := h
    exact ⟨hjobs, hmode, hsafe⟩
  have asAlone {c : Instr} {P Q : State → Prop} (h : Completes c s fun t => P t ∧ (RunsAlone s → Q t)) : Completes c s fun t => P t ∧ (alone → Q t) := by
    obtain ⟨t, hexec, hP, hQ⟩ := h
    exact ⟨t, hexec, hP, fun k => hQ (hruns k)⟩
  refine ⟨fun id j hjob hcls hrunning hlive => ?_, fun k hkat => ⟨asAlone (laneMismatch_inRun hrun hkat), fun v => ?_, katRunEnd_passes hrun hkat, katExclusiveTake_pauses hrun hkat,
      fun m w hcore hmode howns hword hlive => asAlone (cphInject_strikes hcore hmode howns hword hkat hlive)⟩,
    fun hdue => ⟨katRunStart_starts hrun hdue, fun hinject => asAlone (katRunStart_struck hrun hdue hinject)⟩,
    fun m w hcore hmode => ⟨cphInject_waits hcore hmode, cphInject_ignored hcore hmode⟩⟩
  · obtain ⟨t, hexec, hwiped, hstopped⟩ := laneMismatch_inJob (dt := dt) hrun hjob hcls hrunning hlive
    exact ⟨t, hexec, hwiped, fun _ => hstopped⟩
  · obtain ⟨t, hexec, hwiped, hfirst, hhalts⟩ := katRunEnd_fails (dt := dt) hrun hkat v
    exact ⟨t, hexec, hwiped, hfirst, fun h => hhalts (hruns h)⟩

end Sys2Proof.Machine

/-! SUPPORT. The senders of the pair's heartbeats (R460, R461), and the probes of OWN_N (R458, R459). -/

namespace Sys2Proof.Machine

section
variable {dt : Nat} {s t u : State}

/-! The PAR counters (R512). -/

theorem cntPar_regs (k : Nat) (s : State) : OnlyRegs [0x160100 + 4 * k] s (cntPar k s) :=
  keeps_ite (K := OnlyRegs [0x160100 + 4 * k] s) (OnlyRegs.of_regs _ rfl) (OnlyRegs.incF s (F.PAR_CNT_COUNT k))

theorem cntPar_parts (k : Nat) (s : State) : ∃ r, cntPar k s = { s with regs := r } := by
  unfold cntPar
  split <;> exact ⟨_, rfl⟩

/-- A count, but for FROZEN. -/
@[reducible] def ParCounts (k : Nat) (s t : State) : Prop :=
  t.getF (F.PAR_CNT_COUNT k) = if s.mode = stFrozen then s.getF (F.PAR_CNT_COUNT k) else (s.getF (F.PAR_CNT_COUNT k) + 1) % 2 ^ 32

theorem cntPar_counts (k : Nat) (s : State) : ParCounts k s (cntPar k s) := by
  unfold ParCounts cntPar
  split
  · rfl
  · exact State.getF_incF_counter _ s

/-- What changes nothing that the pair's obligations name. -/
@[reducible] def PairSame (s t : State) : Prop := OnlyRegs [] s t ∧ t.pair = s.pair ∧ t.out = s.out ∧ t.dram = s.dram

theorem PairSame.elapse (s : State) (dt : Nat) : PairSame s (s.elapse dt) := ⟨OnlyRegs.of_regs _ rfl, rfl, rfl, rfl⟩

/-! The wire frame (R460). -/

theorem crc4_lt (w : Nat) {c : Nat} (hc : c < 16) (n : Nat) : crc4 w n c < 16 := by
  induction n generalizing c with
  | zero => exact hc
  | succ n ih =>
    refine ih (Nat.xor_lt_two_pow (n := 4) (Nat.mod_lt _ (by decide)) ?_)
    split <;> decide

theorem beBytes_two {v : Nat} (hv : v < 65536) : (beBytes 2 v).foldl (fun x y => x * 256 + y.toNat) 0 = v := by
  have hbytes : beBytes 2 v = [BitVec.ofNat 8 (v / 256), BitVec.ofNat 8 v] := rfl
  rw [hbytes]
  simp only [List.foldl_cons, List.foldl_nil, BitVec.toNat_ofNat]
  omega

theorem bit_lt (b : Bool) : bit b < 2 := by cases b <;> decide

theorem pairRole_lt (s : State) : pairRole s < 4 := by
  unfold pairRole
  split_ifs <;> decide

/-- Bits [15:4] of a wire frame: the marker, PAIR_ID, ROLE, REQ, the lane's state and the sequence number. -/
def wireTop (s : State) : Nat :=
  2 * 2 ^ 10 + bit s.pair.id * 2 ^ 9 + pairRole s * 2 ^ 7 + bit s.pair.request * 2 ^ 6 + s.getF F.PAR_HB_STATUS_LANE_UP * 2 ^ 5 + s.pair.wireSeq

theorem wireFrame_fields (hseq : s.pair.wireSeq < 32) :
    let f := wireFrame (wireTop s)
    f < 2 ^ 16 ∧ f / 2 ^ 14 = 2 ∧ f / 2 ^ 13 % 2 = bit s.pair.id ∧ f / 2 ^ 11 % 4 = pairRole s ∧ f / 2 ^ 10 % 2 = bit s.pair.request ∧
      f / 2 ^ 9 % 2 = s.getF F.PAR_HB_STATUS_LANE_UP ∧ f / 2 ^ 4 % 32 = s.pair.wireSeq ∧ f % 16 = crc4 (f / 16) 12 15 := by
  intro f
  have hid := bit_lt s.pair.id
  have hrole := pairRole_lt s
  have hreq := bit_lt s.pair.request
  have hup : s.getF F.PAR_HB_STATUS_LANE_UP < 2 := bitsOf_lt_two_pow _ 24 24
  have hcrc := crc4_lt (wireTop s) (c := 15) (by decide) 12
  have hf : f = wireTop s * 16 + crc4 (wireTop s) 12 15 := rfl
  have htop : f / 16 = wireTop s := by omega
  rw [htop]
  generalize crc4 (wireTop s) 12 15 = c at hf hcrc
  unfold wireTop at hf
  generalize s.getF F.PAR_HB_STATUS_LANE_UP = up at hf hup ⊢
  generalize pairRole s = role at hf hrole ⊢
  omega

theorem exec_hbWireSend (hpairs : pairs s = true) : exec (.hbWireSend dt) s =
    .next ((cntPar 1 ((s.elapse dt).updPair fun p => { p with wireSeq := (p.wireSeq + 1) % 32 })).emit (.hbWire (beBytes 2 (wireFrame (wireTop s))))) := by
  refine (if_neg ?_).trans rfl
  rw [show pairs (s.elapse dt) = pairs s from rfl, hpairs]
  decide

theorem elapse_unpaired (h : pairs s = false) (c : Host.Outcome State Fault Refusal) : (if !pairs (s.elapse dt) then Host.Outcome.next (s.elapse dt) else c) = .next (s.elapse dt) :=
  if_pos (by rw [show pairs (s.elapse dt) = pairs s from rfl, h]; rfl)

theorem hbWireSend_sends (hpairs : pairs s = true) : Completes (.hbWireSend dt) s fun t =>
    t.pair.wireSeq = (s.pair.wireSeq + 1) % 32 ∧ ParCounts 1 s t ∧ OnlyRegs [0x160104] s t ∧ t.out.head? = some (.hbWire (beBytes 2 (wireFrame (wireTop s)))) := by
  refine ⟨_, exec_hbWireSend hpairs, ?_⟩
  have hcounts := cntPar_counts 1 ((s.elapse dt).updPair fun p => { p with wireSeq := (p.wireSeq + 1) % 32 })
  have hregs := cntPar_regs 1 ((s.elapse dt).updPair fun p => { p with wireSeq := (p.wireSeq + 1) % 32 })
  obtain ⟨r, hr⟩ := cntPar_parts 1 ((s.elapse dt).updPair fun p => { p with wireSeq := (p.wireSeq + 1) % 32 })
  rw [hr] at hcounts hregs ⊢
  exact ⟨rfl, hcounts, hregs, rfl⟩

/-! The lane heartbeat (R461). -/

theorem hbLaneSend_silent (h : s.pair.session = false ∨ s.mode = stFrozen) : Completes (.hbLaneSend dt) s (PairSame s) := by
  refine ⟨s.elapse dt, if_pos ?_, PairSame.elapse s dt⟩
  rcases h with h | h
  · rw [show (s.elapse dt).pair.session = false from h, Bool.not_false, Bool.or_true, Bool.true_or]
  · rw [show ((s.elapse dt).mode == stFrozen) = true from beq_iff_eq.2 h, Bool.or_true]

theorem sendLane_regs (kind : Nat) (body : List Nat) (s : State) : (sendLane kind body s).regs = s.regs := by
  unfold sendLane
  extract_lets s1 s2
  have h1 : s1.regs = s.regs := keeps_ite (K := fun t : State => t.regs = s.regs) rfl rfl
  exact h1

theorem sendLane_next {kind : Nat} {body : List Nat} (h : s.pair.fseqTx + 1 < 0xFFFFFFFF) :
    sendLane kind body s = (s.updPair fun p => { p with fseqTx := p.fseqTx + 1 }).emit (.lane kind (s.pair.fseqTx + 1) body) := by
  unfold sendLane
  rw [if_pos h]
  rfl

/-- What a lane heartbeat carries besides. -/
theorem hbFields_shape (s : State) : (hbFields s).length = 22 ∧
    (hbFields s).take 4 = [pairRole s, bit s.pair.id + 2 * bit s.pair.request + 4 * (if s.mode = stAutonomous ∧ s.journal = 1 then 1 else 0), s.pair.laneSeq, s.fuses.serial] ∧
    (s.mode ≠ stAutonomous → (hbFields s).drop 4 = [0, 0, 0, 0, 0, if s.mode = stReserve then s.jposAck else 0] ++ List.replicate 9 0 ++ (hbFields s).drop 19) ∧
    (s.mode ≠ stReserve → (hbFields s).drop 19 = [0, 0, 0]) := by
  refine ⟨rfl, ?_, fun hmode => ?_, fun hmode => ?_⟩
  · have hvalid : (if s.mode == stAutonomous then bit (s.journal == 1) else 0) = if s.mode = stAutonomous ∧ s.journal = 1 then 1 else 0 := by
      by_cases hmode : s.mode = stAutonomous <;> by_cases hjournal : s.journal = 1 <;> simp [hmode, hjournal, bit]
    rw [← hvalid]
    rfl
  · have hlead : (s.mode == stAutonomous) = false := beq_eq_false_iff_ne.2 hmode
    unfold hbFields
    rw [hlead]
    by_cases hreserve : s.mode = stReserve
    · rw [beq_iff_eq.2 hreserve, if_pos hreserve]
      rfl
    · rw [beq_eq_false_iff_ne.2 hreserve, if_neg hreserve]
      rfl
  · unfold hbFields
    rw [beq_eq_false_iff_ne.2 hmode]
    rfl

theorem hbLaneSend_sends (hpairs : pairs s = true) (hsession : s.pair.session = true) (hmode : s.mode ≠ stFrozen) (hseq : s.pair.fseqTx + 1 < 0xFFFFFFFF) :
    Completes (.hbLaneSend dt) s fun t => t.pair.laneSeq = (s.pair.laneSeq + 1) % 2 ^ 32 ∧ t.pair.fseqTx = s.pair.fseqTx + 1 ∧ ParCounts 0 s t ∧ OnlyRegs [0x160100] s t ∧
      t.out.head? = some (.lane 2 (s.pair.fseqTx + 1) (hbFields (s.elapse dt))) := by
  have hruns : ¬ (!pairs (s.elapse dt) || !(s.elapse dt).pair.session || (s.elapse dt).mode == stFrozen) = true := by
    rw [show pairs (s.elapse dt) = true from hpairs, show (s.elapse dt).pair.session = true from hsession, show ((s.elapse dt).mode == stFrozen) = false from beq_eq_false_iff_ne.2 hmode]
    decide
  refine ⟨_, (if_neg hruns).trans rfl, ?_⟩
  rw [sendLane_next (s := (s.elapse dt).updPair fun p => { p with laneSeq := (p.laneSeq + 1) % 2 ^ 32 }) hseq]
  generalize hu : State.emit _ _ = u
  have hcounts := cntPar_counts 0 u
  have hregs := cntPar_regs 0 u
  obtain ⟨r, hr⟩ := cntPar_parts 0 u
  rw [hr] at hcounts hregs ⊢
  rw [← hu] at hcounts hregs ⊢
  exact ⟨rfl, rfl, hcounts, hregs, rfl⟩

/-! Probes of OWN_N (R458, R459). -/

theorem elapse_drives (hdrives : s.drivesOwn = true) : ¬ (!(s.elapse dt).drivesOwn) = true := by
  rw [show (s.elapse dt).drivesOwn = true from hdrives]
  decide

theorem ownNProbe_idle (hdrives : s.drivesOwn = false) (held : Bool) : Completes (.ownNProbe dt held) s (PairSame s) := by
  refine ⟨s.elapse dt, if_pos ?_, PairSame.elapse s dt⟩
  rw [show (s.elapse dt).drivesOwn = false from hdrives]
  rfl

section
variable (hdrives : s.drivesOwn = true)
include hdrives

theorem ownNProbe_frozen (hmode : s.mode = stFrozen) (held : Bool) :
    Completes (.ownNProbe dt held) s fun t => OnlyRegs [] s t ∧ t.pair = { s.pair with otherHolds := held } :=
  ⟨_, (if_neg (elapse_drives hdrives)).trans (if_pos hmode), OnlyRegs.of_regs _ rfl, rfl⟩

theorem ownNProbe_confirms (hmode : s.mode ≠ stFrozen) : Completes (.ownNProbe dt false) s fun t =>
    t.getF F.PAR_STATUS_CONFIRMED = 1 ∧ OnlyRegs [0x160004] s t ∧ t.pair.otherHolds = false ∧ t.pair.unconfAt = none :=
  ⟨_, (if_neg (elapse_drives hdrives)).trans ((if_neg hmode).trans (if_pos rfl)), State.getF_setF_of_lt _ (by decide) (by decide) (by decide),
    OnlyRegs.setF ((s.elapse dt).updPair _) F.PAR_STATUS_CONFIRMED 1, rfl, rfl⟩

/-- The line held by the other unit, before the reaction. -/
def probeHeld (s : State) : State := ((s.updPair fun p => { p with otherHolds := true }).setF F.PAR_STATUS_CONFIRMED 0).incF (F.PAR_CNT_COUNT 12)

omit hdrives in
theorem probeHeld_frame (s : State) : (probeHeld s).getF F.PAR_STATUS_CONFIRMED = 0 ∧ (probeHeld s).getF (F.PAR_CNT_COUNT 12) = (s.getF (F.PAR_CNT_COUNT 12) + 1) % 2 ^ 32 ∧
    OnlyRegs [0x160004, 0x160130] s (probeHeld s) := by
  have hset := OnlyRegs.setF (s.updPair fun p => { p with otherHolds := true }) F.PAR_STATUS_CONFIRMED 0
  have hcount := OnlyRegs.incF ((s.updPair fun p => { p with otherHolds := true }).setF F.PAR_STATUS_CONFIRMED 0) (F.PAR_CNT_COUNT 12)
  refine ⟨(hcount.getF (by decide)).trans (State.getF_setF_of_lt _ (by decide) (by decide) (by decide)), (State.getF_incF_counter _ _).trans ?_, hset.trans hcount⟩
  rw [hset.getF (by decide)]
  rfl

theorem exec_ownNProbe_held (hmode : s.mode ≠ stFrozen) (hroot : s.fuses.pairRoot = true) : exec (.ownNProbe dt true) s =
    if s.pair.id then .next (yieldPair (probeHeld (s.elapse dt)))
    else .next ((probeHeld (s.elapse dt)).updPair fun p =>
      { p with
        unconfAt := some (p.unconfAt.getD (s.elapse dt).clk.now)
        unconfTx := if p.unconfAt.isNone && onAir (probeHeld (s.elapse dt)) then some (s.elapse dt).clk.now else p.unconfTx }) := by
  refine (if_neg (elapse_drives hdrives)).trans ((if_neg hmode).trans ((if_neg (by decide)).trans ((if_neg ?_).trans rfl)))
  show ¬ (!s.fuses.pairRoot) = true
  rw [hroot]
  decide

theorem ownNProbe_unconfirmed (hmode : s.mode ≠ stFrozen) (hroot : s.fuses.pairRoot = true) (hid : s.pair.id = false) : Completes (.ownNProbe dt true) s fun t =>
    t.getF F.PAR_STATUS_CONFIRMED = 0 ∧ t.getF (F.PAR_CNT_COUNT 12) = (s.getF (F.PAR_CNT_COUNT 12) + 1) % 2 ^ 32 ∧ OnlyRegs [0x160004, 0x160130] s t ∧ t.pair.otherHolds = true ∧
      t.pair.unconfAt = some (s.pair.unconfAt.getD (s.elapse dt).clk.now) := by
  obtain ⟨hconfirmed, hcount, hregs⟩ := probeHeld_frame (s.elapse dt)
  refine ⟨_, (exec_ownNProbe_held hdrives hmode hroot).trans (if_neg (by rw [hid]; decide)), ?_, ?_, ?_, rfl, rfl⟩
  · exact ((OnlyRegs.updPair _ _).getF List.not_mem_nil).trans hconfirmed
  · exact ((OnlyRegs.updPair _ _).getF List.not_mem_nil).trans hcount
  · exact (hregs.trans (OnlyRegs.updPair _ _)).mono (by decide)

end

/-! PAIR_ID 1 yields (R459). -/

/-- A register that RESERVE keeps shows as before, another its reset value. -/
theorem reserveState_reg (a : Nat) (s : State) : (reserveState s).reg a = if keptInReserve a then s.reg a else resetWord a := Sparse.get_filter resetWord keptInReserve s.regs a

theorem reserveState_mode (h : s.mode ≠ stFrozen) : (reserveState s).mode ≠ stFrozen := by
  unfold State.mode State.getF
  rw [reserveState_reg]
  split
  · exact h
  · decide

theorem portsOff_mode (s : State) : (portsOff s).mode = s.mode := by
  have hfold : ((List.range 16).foldl (fun s n => if s.pstate n = psOff then s else portOff n s) s).reg 0x4 = s.reg 0x4 :=
    keeps_foldl (K := fun t : State => t.reg 0x4 = s.reg 0x4) rfl fun n hn t ht => keeps_ite (K := fun t : State => t.reg 0x4 = s.reg 0x4) ht
      ((LedgerClosed.regStands (a := 0x4) (by decide) (by decide) _).portOff (List.mem_range.1 hn) ht)
  exact (State.getF_setF_disj _ _ (by decide) (by decide) (.inr (by decide))).trans (State.getF_of_reg hfold)

theorem discardTxn_mode (s : State) : (discardTxn s).mode = s.mode :=
  keeps_ite (K := fun t : State => t.mode = s.mode) rfl ((OnlyRegs.rollback scDenied s).getF (by decide))

theorem OnlyRegs.syncMode (s : State) : OnlyRegs [F.PWR_STATUS_MODE.addr, F.PWR_BANKS_AWAKE.addr] s (syncMode s) := by
  unfold Machine.syncMode
  extract_lets mode changed power s1 s2
  have h2 : OnlyRegs [F.PWR_STATUS_MODE.addr] s s2 := OnlyRegs.setF s1 F.PWR_STATUS_MODE mode
  have hbanks (v : Nat) : OnlyRegs [F.PWR_STATUS_MODE.addr, F.PWR_BANKS_AWAKE.addr] s (s2.setF F.PWR_BANKS_AWAKE v) := h2.trans (OnlyRegs.setF s2 F.PWR_BANKS_AWAKE v)
  split
  · exact hbanks _
  · split
    · exact hbanks _
    · exact h2.mono (by decide)

/-- OWN_N let go for RESERVE. -/
def reserveReleased (s : State) : State :=
  releaseOwnN (((reserveState (discardTxn (portsOff s))).setF F.CFG_STATUS_SEL 0).setF F.PAR_SNAP_BUSY 0)

/-- What RESERVE shows then. -/
def reserveShown (s : State) : State :=
  ((((List.range 16).foldl (fun t n => t.setF (F.CFG_DIGEST_DIGEST n) 0) s).setF F.TOP_STATUS_STATE stReserve).setF F.TOP_STATUS_ROLE 1).setF F.TOP_STATUS_RF_UP 0

theorem enterReserve_eq (s : State) : enterReserve s = startupEnd (syncMode ((reserveShown (reserveReleased s)).setF F.PAR_STATUS_JOURNAL 0)) := rfl

theorem releaseOwnN_confirmed (h : s.mode ≠ stFrozen) : (releaseOwnN s).getF F.PAR_STATUS_CONFIRMED = 0 := by
  have hmode : ((s.setF F.PAR_HB_STATUS_OWN_DRIVE 0).setF F.PAR_HB_STATUS_OWN_LINE (bit s.pair.otherHolds)).mode ≠ stFrozen :=
    fun e => h ((State.getF_of_reg ((State.reg_setF_ne _ _ (by decide)).trans (State.reg_setF_ne _ _ (by decide)))).symm.trans e)
  unfold releaseOwnN
  dsimp only
  rw [State.updPair_getF, if_neg hmode]
  exact State.getF_setF_of_lt _ (by decide) (by decide) (by decide)

theorem reserveReleased_fields (h : s.mode ≠ stFrozen) :
    (reserveReleased s).getF F.PAR_HB_STATUS_OWN_DRIVE = 0 ∧ (reserveReleased s).getF F.PAR_STATUS_CONFIRMED = 0 := by
  have hmode : (reserveState (discardTxn (portsOff s))).mode ≠ stFrozen := by
    refine reserveState_mode ?_
    rw [discardTxn_mode, portsOff_mode]
    exact h
  refine ⟨releaseOwnN_ownDrive _, releaseOwnN_confirmed fun e => hmode ?_⟩
  exact (State.getF_of_reg ((State.reg_setF_ne _ _ (by decide)).trans (State.reg_setF_ne _ _ (by decide)))).symm.trans e

theorem reserveShown_fields (s : State) : (reserveShown s).mode = stReserve ∧ (reserveShown s).getF F.TOP_STATUS_ROLE = 1 ∧ (reserveShown s).reg 0x168000 = s.reg 0x168000 ∧
    (reserveShown s).reg 0x160004 = s.reg 0x160004 := by
  have hdigest (a : Nat) (ha : 0x160000 ≤ a) : ((List.range 16).foldl (fun t n => t.setF (F.CFG_DIGEST_DIGEST n) 0) s).reg a = s.reg a :=
    keeps_foldl (K := fun t : State => t.reg a = s.reg a) rfl fun n hn t ht => (State.reg_setF_ne t _ (by
      have hn' := List.mem_range.1 hn
      dsimp only
      omega)).trans ht
  unfold reserveShown
  generalize List.foldl _ s (List.range 16) = u at hdigest ⊢
  have hshown : OnlyRegs [0x4] u (((u.setF F.TOP_STATUS_STATE stReserve).setF F.TOP_STATUS_ROLE 1).setF F.TOP_STATUS_RF_UP 0) :=
    (((OnlyRegs.setF u F.TOP_STATUS_STATE stReserve).trans (OnlyRegs.setF _ F.TOP_STATUS_ROLE 1)).trans (OnlyRegs.setF _ F.TOP_STATUS_RF_UP 0)).mono (by decide)
  refine ⟨?_, ?_, (hshown _ (by decide)).trans (hdigest _ (by decide)), (hshown _ (by decide)).trans (hdigest _ (by decide))⟩
  · exact (State.getF_setF_disj _ _ (by decide) (by decide) (.inr (by decide))).trans ((State.getF_setF_disj _ _ (by decide) (by decide) (.inr (by decide))).trans
      (State.getF_setF_of_lt _ (by decide) (by decide) (by decide)))
  · simp (disch := decide) [State.getF_setF, State.getF_setF_disj]

/-- The unit is in RESERVE as a reserve, and drives OWN_N no longer. -/
theorem enterReserve_fields (h : s.mode ≠ stFrozen) : (enterReserve s).mode = stReserve ∧ (enterReserve s).getF F.TOP_STATUS_ROLE = 1 ∧
    (enterReserve s).getF F.PAR_HB_STATUS_OWN_DRIVE = 0 ∧ (enterReserve s).getF F.PAR_STATUS_CONFIRMED = 0 := by
  obtain ⟨hdrive, hconfirmed⟩ := reserveReleased_fields h
  obtain ⟨hmode, hrole, hhb, hpar⟩ := reserveShown_fields (reserveReleased s)
  rw [enterReserve_eq]
  generalize reserveReleased s = v at *
  generalize reserveShown v = w at *
  have hend := (OnlyRegs.syncMode (w.setF F.PAR_STATUS_JOURNAL 0)).trans (OnlyRegs.startupEnd _)
  have hall := (OnlyRegs.setF w F.PAR_STATUS_JOURNAL 0).trans hend
  refine ⟨(hall.getF (f := F.TOP_STATUS_STATE) (by decide)).trans hmode, (hall.getF (f := F.TOP_STATUS_ROLE) (by decide)).trans hrole, ?_, ?_⟩
  · exact (hall.getF (f := F.PAR_HB_STATUS_OWN_DRIVE) (by decide)).trans ((State.getF_of_reg hhb).trans hdrive)
  · refine (hend.getF (f := F.PAR_STATUS_CONFIRMED) (by decide)).trans ((State.getF_setF_disj _ _ (by decide) (by decide) (.inl (by decide))).trans ?_)
    exact (State.getF_of_reg hpar).trans hconfirmed

theorem drivesOwn_of_getF {v : Nat} (h : s.getF F.PAR_HB_STATUS_OWN_DRIVE = v) : s.drivesOwn = (v == 1) := congrArg (· == 1) h

theorem ownNProbe_yields (hdrives : s.drivesOwn = true) (hmode : s.mode ≠ stFrozen) (hroot : s.fuses.pairRoot = true) (hid : s.pair.id = true) :
    Completes (.ownNProbe dt true) s fun t => t.mode = stReserve ∧ t.drivesOwn = false ∧ t.getF F.TOP_STATUS_ROLE = 1 ∧ t.getF F.PAR_STATUS_CONFIRMED = 0 := by
  have hmode' : (probeHeld (s.elapse dt)).mode ≠ stFrozen := fun e => hmode (((probeHeld_frame (s.elapse dt)).2.2.getF (f := F.TOP_STATUS_STATE) (by decide)).symm.trans e)
  refine ⟨_, (exec_ownNProbe_held hdrives hmode hroot).trans (if_pos hid), ?_⟩
  generalize probeHeld (s.elapse dt) = u at hmode' ⊢
  obtain ⟨hreserve, hrole, hdrive, hconfirmed⟩ := enterReserve_fields hmode'
  have hnote := OnlyRegs.notify N.YIELD scDenied 0 0 (enterReserve u)
  refine ⟨(hnote.getF (f := F.TOP_STATUS_STATE) (by decide)).trans hreserve, ?_, (hnote.getF (f := F.TOP_STATUS_ROLE) (by decide)).trans hrole,
    (hnote.getF (f := F.PAR_STATUS_CONFIRMED) (by decide)).trans hconfirmed⟩
  exact drivesOwn_of_getF ((hnote.getF (f := F.PAR_HB_STATUS_OWN_DRIVE) (by decide)).trans hdrive)

/-! The safe state of PAIR_ID 0 (R459). -/

/-- OWN_N is let go, with no unconfirmed period. -/
def OwnFree (t : State) : Prop := t.getF F.PAR_HB_STATUS_OWN_DRIVE = 0 ∧ t.pair.unconfAt = none

theorem OwnFree.of_regs {l : List Nat} (h : OwnFree s) (hregs : OnlyRegs l s t) (hl : 0x168000 ∉ l) (hpair : t.pair.unconfAt = s.pair.unconfAt) : OwnFree t :=
  ⟨(hregs.getF hl).trans h.1, hpair.trans h.2⟩

theorem ownFree_releaseOwnN (s : State) : OwnFree (releaseOwnN s) := ⟨releaseOwnN_ownDrive s, rfl⟩

theorem OwnFree.handOver (h : OwnFree s) : OwnFree (handOver s) :=
  keeps_ite (K := OwnFree) (ownFree_releaseOwnN _) (h.of_regs (OnlyRegs.requestTakeover s) List.not_mem_nil (keeps_ite (K := fun t : State => t.pair.unconfAt = s.pair.unconfAt) rfl rfl))

theorem OwnFree.notify (h : OwnFree s) (k : NoticeKind) (status port arg : Nat) : OwnFree (notify k status port arg s) :=
  h.of_regs (OnlyRegs.notify k status port arg s) (by decide) (congrArg Pair.unconfAt (notify_pair ..))

theorem OwnFree.rollback (h : OwnFree s) (result : Nat) : OwnFree (rollback result s) := by
  obtain ⟨r, hr⟩ := abortTxn_parts result s
  refine h.of_regs (OnlyRegs.rollback result s) (by decide) ?_
  rw [rollback_eq, notify_pair, hr]

theorem OnlyRegs.safeAsserted (i : Nat) (s : State) : OnlyRegs [0x4, F.PWR_STATUS_MODE.addr, 0x170000] (quietPorts (Machine.addCause i s)) (Machine.safeAsserted i s) :=
  ((((OnlyRegs.setF _ F.TOP_STATUS_SAFE 1).trans (OnlyRegs.setF _ F.TOP_STATUS_STATE stSafeHold)).trans (OnlyRegs.setF _ F.PWR_STATUS_MODE 0)).trans
    (OnlyRegs.setF _ F.SAF_STATUS_SAFE 1)).mono (by decide)

theorem OwnFree.safeAsserted (h : OwnFree s) (i : Nat) : OwnFree (safeAsserted i s) := by
  obtain ⟨r, hr⟩ := addCause_parts i s
  have hcause : OwnFree (addCause i s) := h.of_regs (OnlyRegs.addCause i s) (by decide) (by rw [hr])
  have hquiet := (MidKept.refl (addCause i s)).quietPorts
  have hfree : OwnFree (quietPorts (addCause i s)) := ⟨(State.getF_of_reg (hquiet.reg _ (by decide))).trans hcause.1, hquiet.unconf.trans hcause.2⟩
  exact hfree.of_regs (OnlyRegs.safeAsserted i s) (by decide) rfl

theorem OwnFree.enterSafeFresh (h : OwnFree s) (i : Nat) : OwnFree (enterSafeFresh i s) := by
  obtain ⟨arg, heq⟩ := enterSafeFresh_eq i s
  have hcounted : OwnFree (abandonTakeover ((Machine.handOver (Machine.safeAsserted i s)).incF (F.SAF_CNT_COUNT 0))) :=
    (h.safeAsserted i).handOver.of_regs ((OnlyRegs.incF _ (F.SAF_CNT_COUNT 0)).trans (OnlyRegs.updPair _ _)) (by decide) rfl
  have hhanded : OwnFree (safeHandedOver (Machine.safeAsserted i s)) := keeps_ite (K := OwnFree) hcounted (hcounted.rollback scDenied)
  rw [heq]
  generalize safeHandedOver (Machine.safeAsserted i s) = u at hhanded
  exact keeps_ite (K := OwnFree) (hhanded.notify _ _ _ _) (hhanded.notify _ _ _ _)

/-- The ports quiet and OWN_N let go, before the notice. -/
def dualReleased (s : State) : State := releaseOwnN (quietPorts s)

theorem dualReleased_stands (s : State) : (dualReleased s).reg 0x4 = s.reg 0x4 ∧ (dualReleased s).reg 0x170000 = s.reg 0x170000 := by
  have hquiet {a : Nat} (ha : ¬ engineReg a) (hn : a ∉ noticeRegs) : (quietPorts s).reg a = s.reg a := (LedgerClosed.regStands ha hn (s.reg a)).quietPorts rfl
  have hregs := (releaseOwnN_frame (quietPorts s)).1
  exact ⟨(hregs _ (by decide)).trans (hquiet (by decide) (by decide)), (hregs _ (by decide)).trans (hquiet (by decide) (by decide))⟩

section
variable {u x : Nat} (hunconf : s.pair.unconfAt = some u) (htx : s.pair.unconfTx = some x)
include hunconf htx

theorem exec_dualActive : ∃ arg, exec (.dualActive dt) s =
    if (s.elapse dt).clk.now < x + 20 * ms ∨ s.pair.id = true ∨ !s.drivesOwn then .next (s.elapse dt)
    else .next (enterSafe 10 (notify N.DUAL_ACTIVE scSafeHold 0 arg (dualReleased (s.elapse dt)))) := by
  have hunconf' : (s.elapse dt).pair.unconfAt = some u := hunconf
  have htx' : (s.elapse dt).pair.unconfTx = some x := htx
  refine ⟨((dualReleased (s.elapse dt)).clk.now - u) / ms, ?_⟩
  show execDualActive dt s = _
  unfold execDualActive
  dsimp only
  rw [hunconf', htx']
  rfl

theorem dualActive_waits (h : (s.elapse dt).clk.now < x + 20 * ms) : Completes (.dualActive dt) s (PairSame s) := by
  obtain ⟨arg, hexec⟩ := exec_dualActive (dt := dt) hunconf htx
  exact ⟨_, hexec.trans (if_pos (.inl h)), PairSame.elapse s dt⟩

theorem dualActive_safe (hdrives : s.drivesOwn = true) (hid : s.pair.id = false) (h : x + 20 * ms ≤ (s.elapse dt).clk.now) (hmode : s.mode = stAutonomous)
    (hsafe : s.getF F.SAF_STATUS_SAFE = 0) : Completes (.dualActive dt) s fun t =>
      t.mode = stSafeHold ∧ t.pins.safeN = true ∧ t.drivesOwn = false ∧ bitsOf (t.reg 0x170000) 10 10 = 1 ∧ t.pair.unconfAt = none := by
  obtain ⟨arg, hexec⟩ := exec_dualActive (dt := dt) hunconf htx
  obtain ⟨hstate, hsaf⟩ := dualReleased_stands (s.elapse dt)
  have hfree : OwnFree (dualReleased (s.elapse dt)) := ownFree_releaseOwnN _
  have hruns : ¬ ((s.elapse dt).clk.now < x + 20 * ms ∨ s.pair.id = true ∨ (!s.drivesOwn) = true) := by
    rw [hid, hdrives]
    exact fun e => e.elim (fun e => absurd e (Nat.not_lt.2 h)) (by decide)
  refine ⟨_, hexec.trans (if_neg hruns), ?_⟩
  have hstate' : (notify N.DUAL_ACTIVE scSafeHold 0 arg (dualReleased (s.elapse dt))).mode = stAutonomous := ((notify_getF (by decide)).trans (State.getF_of_reg hstate)).trans hmode
  have hsaf' : (notify N.DUAL_ACTIVE scSafeHold 0 arg (dualReleased (s.elapse dt))).getF F.SAF_STATUS_SAFE = 0 := ((notify_getF (by decide)).trans (State.getF_of_reg hsaf)).trans hsafe
  have hfree' := (hfree.notify N.DUAL_ACTIVE scSafeHold 0 arg).enterSafeFresh 10
  generalize notify N.DUAL_ACTIVE scSafeHold 0 arg (dualReleased (s.elapse dt)) = v at *
  obtain ⟨hheld, -, hpin, -⟩ := enterSafeFresh_fields 10 v
  rw [enterSafe_of_autonomous hsaf' hstate']
  exact ⟨hheld, hpin, drivesOwn_of_getF hfree'.1, enterSafeFresh_cause (by decide) v, hfree'.2⟩

end

end
end Sys2Proof.Machine

/-! SUPPORT. What a heartbeat of either path does, and a path's check (R460 to R466, R471, R476). -/

namespace Sys2Proof.Machine

section
variable {dt : Nat} {s t u : State}

/-- From `s` to `t` the notice ring's place, the device's state and the clocks stand, and bytes change in the notice ring alone. -/
structure PairStep (s t : State) : Prop where
  ring : OnlyRing s t
  base : t.reg 0x40 = s.reg 0x40
  ctrl : t.reg 0x44 = s.reg 0x44
  state : t.reg 0x4 = s.reg 0x4
  clk : t.clk = s.clk

theorem PairStep.refl (s : State) : PairStep s s := ⟨fun _ _ => rfl, rfl, rfl, rfl, rfl⟩

theorem PairStep.trans (h : PairStep s t) (k : PairStep t u) : PairStep s u :=
  ⟨fun a ha => (k.ring a (mt (inNoticeRing_congr h.base h.ctrl).1 ha)).trans (h.ring a ha), k.base.trans h.base, k.ctrl.trans h.ctrl, k.state.trans h.state, k.clk.trans h.clk⟩

theorem PairStep.mode (h : PairStep s t) : t.mode = s.mode := State.getF_of_reg h.state

theorem PairStep.of_regs {l : List Nat} (h : OnlyRegs l s t) (hl : 0x40 ∉ l ∧ 0x44 ∉ l ∧ 0x4 ∉ l) (hparts : (t.dram, t.clk) = (s.dram, s.clk)) : PairStep s t := by
  obtain ⟨hbase, hctrl, hstate⟩ := hl
  obtain ⟨hdram, hclk⟩ := Prod.mk.inj hparts
  exact ⟨fun a _ => State.byte_of_dram hdram a, h _ hbase, h _ hctrl, h _ hstate, hclk⟩

theorem PairStep.notify (k : NoticeKind) (status port arg : Nat) (s : State) : PairStep s (notify k status port arg s) :=
  ⟨OnlyRing.notify _ _ _ _ _, OnlyRegs.notify k status port arg s _ (by decide), OnlyRegs.notify k status port arg s _ (by decide), OnlyRegs.notify k status port arg s _ (by decide), notify_clk ..⟩

theorem PairStep.updPair (s : State) (f : Pair → Pair) : PairStep s (s.updPair f) := ⟨fun _ _ => rfl, rfl, rfl, rfl, rfl⟩

theorem PairStep.cntPar {k : Nat} (hk : k < 16) (s : State) : PairStep s (cntPar k s) := by
  obtain ⟨r, hr⟩ := cntPar_parts k s
  have hregs := cntPar_regs k s
  refine PairStep.of_regs hregs ?_ (by rw [hr])
  simp only [List.mem_singleton]
  omega

theorem PairStep.notifyPar (k : NoticeKind) (status arg : Nat) (s : State) : PairStep s (notifyPar k status arg s) :=
  keeps_ite (K := PairStep s) (PairStep.refl s) (PairStep.notify ..)

theorem notifyPar_regs (k : NoticeKind) (status arg : Nat) (s : State) : OnlyRegs noticeRegs s (notifyPar k status arg s) :=
  keeps_ite (K := OnlyRegs noticeRegs s) (OnlyRegs.of_regs _ rfl) (OnlyRegs.notify _ _ _ _ _)

theorem notifyPar_pair (k : NoticeKind) (status arg : Nat) (s : State) : (notifyPar k status arg s).pair = s.pair :=
  keeps_ite (K := fun t : State => t.pair = s.pair) rfl (notify_pair ..)

theorem notifyPar_of_frozen (h : s.mode = stFrozen) (k : NoticeKind) (status arg : Nat) : notifyPar k status arg s = s := if_pos h

/-! A heartbeat with the own PAIR_ID (R465). -/

theorem pairConflict_of_frozen (h : s.mode = stFrozen) : pairConflict s = s := if_pos h

theorem pairConflict_shows (h : s.mode ≠ stFrozen) : (pairConflict s).getF F.PAR_STATUS_CONFLICT = 1 ∧
    (pairConflict s).pair = { s.pair with conflictSeen := true } ∧ OnlyRing s (pairConflict s) ∧
      OnlyRegs (0x160004 :: if s.pair.conflictSeen = true then [] else noticeRegs) s (pairConflict s) := by
  have hset : OnlyRegs [0x160004] s (s.setF F.PAR_STATUS_CONFLICT 1) := OnlyRegs.setF s F.PAR_STATUS_CONFLICT 1
  have hone : (s.setF F.PAR_STATUS_CONFLICT 1).getF F.PAR_STATUS_CONFLICT = 1 := State.getF_setF_of_lt _ (by decide) (by decide) (by decide)
  have hstep : PairStep s (s.setF F.PAR_STATUS_CONFLICT 1) := PairStep.of_regs hset (by decide) rfl
  unfold pairConflict
  rw [if_neg h]
  extract_lets s1
  by_cases hseen : s.pair.conflictSeen = true
  · rw [if_pos (show s1.pair.conflictSeen = true from hseen), if_pos hseen]
    refine ⟨hone, ?_, hstep.ring, hset⟩
    show s.pair = _
    rw [← hseen]
  · rw [if_neg (show ¬ s1.pair.conflictSeen = true from hseen), if_neg hseen]
    have hmark := OnlyRegs.updPair s1 fun p => { p with conflictSeen := true }
    have hnote := notifyPar_regs N.PAIR_CONFLICT scDenied (bit s1.pair.id) (s1.updPair fun p => { p with conflictSeen := true })
    refine ⟨(hnote.getF (by decide)).trans hone, notifyPar_pair .., ?_, (hset.trans (hmark.trans hnote)).mono (by simp)⟩
    exact (hstep.trans ((PairStep.updPair s1 _).trans (PairStep.notifyPar ..))).ring

/-! A path shown UP or DOWN (R462, R463). -/

/-- PAR_HB_STATUS's UP bit of a path, PAR_STATUS's, and the misses of the path. -/
abbrev hbUp (lane : Bool) : Field := if lane then F.PAR_HB_STATUS_LANE_UP else F.PAR_HB_STATUS_WIRE_UP
abbrev parUp (lane : Bool) : Field := if lane then F.PAR_STATUS_LANE_UP else F.PAR_STATUS_WIRE_UP
abbrev hbMiss (lane : Bool) : Field := if lane then F.PAR_HB_STATUS_LANE_MISS else F.PAR_HB_STATUS_WIRE_MISS

/-- PAR_STATUS.PAIR with `n` paths UP. -/
def pairOf (n : Nat) : Nat := if n = 2 then pairOk else if n = 1 then pairDegraded else pairAlone

/-- The path in PAR_HB_STATUS, and then in PAR_STATUS with the pair state. -/
def pathFlagged (lane up : Bool) (s : State) : State := s.setF (hbUp lane) (bit up)
def pathLatched (lane up : Bool) (s : State) : State := s.setF (parUp lane) (bit up)
def pairCounted (s : State) : State := s.setF F.PAR_STATUS_PAIR (pairOf (s.getF F.PAR_STATUS_LANE_UP + s.getF F.PAR_STATUS_WIRE_UP))

theorem setPath_eq (lane up : Bool) (s : State) :
    setPath lane up s = if (pathFlagged lane up s).mode = stFrozen then pathFlagged lane up s else pairCounted (pathLatched lane up (pathFlagged lane up s)) := rfl

theorem pathFlagged_regs (lane up : Bool) (s : State) : OnlyRegs [0x168000] s (pathFlagged lane up s) := by
  cases lane
  · exact OnlyRegs.setF s F.PAR_HB_STATUS_WIRE_UP _
  · exact OnlyRegs.setF s F.PAR_HB_STATUS_LANE_UP _

theorem pathLatched_regs (lane up : Bool) (s : State) : OnlyRegs [0x160004] s (pairCounted (pathLatched lane up s)) := by
  refine OnlyRegs.mono (l := [0x160004] ++ [0x160004]) (OnlyRegs.trans (t := pathLatched lane up s) ?_ (OnlyRegs.setF _ F.PAR_STATUS_PAIR _)) (by decide)
  cases lane
  · exact OnlyRegs.setF s F.PAR_STATUS_WIRE_UP _
  · exact OnlyRegs.setF s F.PAR_STATUS_LANE_UP _

theorem pathFlagged_mode (lane up : Bool) (s : State) : (pathFlagged lane up s).mode = s.mode := (pathFlagged_regs lane up s).getF (f := F.TOP_STATUS_STATE) (by decide)

theorem pathFlagged_fields (lane up : Bool) (s : State) : (pathFlagged lane up s).getF (hbUp lane) = bit up ∧
    ∀ hi lo, 25 < lo ∨ hi < 24 → (pathFlagged lane up s).getF ⟨0x168000, hi, lo⟩ = s.getF ⟨0x168000, hi, lo⟩ := by
  cases lane
  all_goals
    refine ⟨State.getF_setF_of_lt _ (by decide) (by decide) (bit_lt up), fun hi lo h => State.getF_setF_disj _ _ (by decide) (by decide) ?_⟩
    dsimp only [hbUp]
    simp
    omega

theorem pathLatched_fields (lane up : Bool) (s : State) : (pairCounted (pathLatched lane up s)).getF (parUp lane) = bit up ∧
    (pairCounted (pathLatched lane up s)).pairState = pairOf (bit up + s.getF (parUp !lane)) ∧
      ∀ hi lo, hi < 28 → (pairCounted (pathLatched lane up s)).getF ⟨0x160004, hi, lo⟩ = s.getF ⟨0x160004, hi, lo⟩ := by
  have hlatched : (pathLatched lane up s).getF (parUp lane) = bit up := by
    cases lane <;> exact State.getF_setF_of_lt _ (by decide) (by decide) (bit_lt up)
  have hother : (pathLatched lane up s).getF (parUp !lane) = s.getF (parUp !lane) := by
    cases lane
    · exact State.getF_setF_disj _ _ (by decide) (by decide) (.inl (by decide))
    · exact State.getF_setF_disj _ _ (by decide) (by decide) (.inr (by decide))
  have hsum : (pathLatched lane up s).getF F.PAR_STATUS_LANE_UP + (pathLatched lane up s).getF F.PAR_STATUS_WIRE_UP = bit up + s.getF (parUp !lane) := by
    cases lane
    · exact (congrArg₂ (· + ·) hother hlatched).trans (Nat.add_comm _ _)
    · exact congrArg₂ (· + ·) hlatched hother
  have hrest (hi lo : Nat) (h : hi < 28) : (pathLatched lane up s).getF ⟨0x160004, hi, lo⟩ = s.getF ⟨0x160004, hi, lo⟩ := by
    cases lane
    · exact State.getF_setF_disj _ _ (by decide) (by decide) (.inr h)
    · exact State.getF_setF_disj _ _ (by decide) (by decide) (.inr (h.trans (by decide)))
  have hlt (n : Nat) : pairOf n < 4 := by
    unfold pairOf
    split_ifs <;> decide
  refine ⟨?_, ?_, fun hi lo h => (State.getF_setF_disj _ _ (by decide) (by decide) (.inr (by simp; omega))).trans (hrest hi lo h)⟩
  · refine Eq.trans ?_ hlatched
    cases lane <;> exact State.getF_setF_disj _ _ (by decide) (by decide) (.inr (by decide))
  · unfold pairCounted
    rw [hsum]
    exact State.getF_setF_of_lt _ (by decide) (by decide) (hlt _)

theorem setPath_parts (lane up : Bool) (s : State) : ∃ r, setPath lane up s = { s with regs := r } := by
  rw [setPath_eq]
  split <;> exact ⟨_, rfl⟩

theorem setPath_regs (lane up : Bool) (s : State) : OnlyRegs [0x168000, 0x160004] s (setPath lane up s) := by
  rw [setPath_eq]
  split
  · exact (pathFlagged_regs lane up s).mono (by decide)
  · exact (pathFlagged_regs lane up s).trans (pathLatched_regs lane up _)

theorem setPath_hb (lane up : Bool) (s : State) : (setPath lane up s).getF (hbUp lane) = bit up ∧
    ∀ hi lo, 25 < lo ∨ hi < 24 → (setPath lane up s).getF ⟨0x168000, hi, lo⟩ = s.getF ⟨0x168000, hi, lo⟩ := by
  obtain ⟨hup, hrest⟩ := pathFlagged_fields lane up s
  have hreg : (setPath lane up s).reg 0x168000 = (pathFlagged lane up s).reg 0x168000 := by
    rw [setPath_eq]
    split
    · rfl
    · exact pathLatched_regs lane up _ _ (by decide)
  refine ⟨Eq.trans ?_ hup, fun hi lo h => (State.getF_of_reg hreg).trans (hrest hi lo h)⟩
  cases lane <;> exact State.getF_of_reg hreg

theorem setPath_frozen (h : s.mode = stFrozen) (lane up : Bool) : OnlyRegs [0x168000] s (setPath lane up s) := by
  rw [setPath_eq, if_pos ((pathFlagged_mode lane up s).trans h)]
  exact pathFlagged_regs lane up s

theorem setPath_par (h : s.mode ≠ stFrozen) (lane up : Bool) : (setPath lane up s).getF (parUp lane) = bit up ∧
    (setPath lane up s).pairState = pairOf (bit up + s.getF (parUp !lane)) := by
  obtain ⟨hup, hstate, -⟩ := pathLatched_fields lane up (pathFlagged lane up s)
  have hother : (pathFlagged lane up s).getF (parUp !lane) = s.getF (parUp !lane) := by
    cases lane <;> exact (pathFlagged_regs _ up s).getF (by decide)
  rw [setPath_eq, if_neg fun e => h ((pathFlagged_mode lane up s).symm.trans e)]
  exact ⟨hup, hstate.trans (by rw [hother])⟩

theorem setPath_status (lane up : Bool) (s : State) (hi lo : Nat) (h : hi < 28) : (setPath lane up s).getF ⟨0x160004, hi, lo⟩ = s.getF ⟨0x160004, hi, lo⟩ := by
  have hmarked : (pathFlagged lane up s).getF ⟨0x160004, hi, lo⟩ = s.getF ⟨0x160004, hi, lo⟩ := (pathFlagged_regs lane up s).getF (by simp)
  obtain ⟨-, -, hrest⟩ := pathLatched_fields lane up (pathFlagged lane up s)
  rw [setPath_eq]
  split
  · exact hmarked
  · exact (hrest hi lo h).trans hmarked

theorem PairStep.setPath (lane up : Bool) (s : State) : PairStep s (setPath lane up s) := by
  obtain ⟨r, hr⟩ := setPath_parts lane up s
  exact PairStep.of_regs (setPath_regs lane up s) (by decide) (by rw [hr])

/-! Snapshots and the journal's restart leave the heartbeats (R471, R475, R476). -/

/-- From `s` to `t` only the registers of the snapshot and the journal's marks change, and the lane's heartbeats stand. -/
structure SnapStep (s t : State) : Prop where
  step : PairStep s t
  regs : OnlyRegs [0x160010, 0x160038, 0x16003C] s t
  beats : (t.pair.laneGot, t.pair.laneReq) = (s.pair.laneGot, s.pair.laneReq)

theorem SnapStep.refl (s : State) : SnapStep s s := ⟨PairStep.refl s, OnlyRegs.of_regs _ rfl, rfl⟩

theorem SnapStep.trans (h : SnapStep s t) (k : SnapStep t u) : SnapStep s u :=
  ⟨h.step.trans k.step, (h.regs.trans k.regs).mono (by decide), k.beats.trans h.beats⟩

theorem SnapStep.of_regs {l : List Nat} (h : OnlyRegs l s t) (hl : l ⊆ [0x160010, 0x160038, 0x16003C]) (hparts : (t.dram, t.clk) = (s.dram, s.clk))
    (hbeats : (t.pair.laneGot, t.pair.laneReq) = (s.pair.laneGot, s.pair.laneReq)) : SnapStep s t :=
  ⟨PairStep.of_regs (h.mono hl) (by decide) hparts, h.mono hl, hbeats⟩

theorem SnapStep.sendLane (kind : Nat) (body : List Nat) (s : State) : SnapStep s (sendLane kind body s) := by
  unfold Machine.sendLane
  extract_lets s1 s2
  have h1 : SnapStep s s1 := keeps_ite (K := SnapStep s) (SnapStep.refl s) (SnapStep.of_regs (OnlyRegs.of_regs [] rfl) (by decide) rfl rfl)
  exact h1.trans (SnapStep.of_regs (OnlyRegs.of_regs [] rfl) (by decide) rfl rfl)

theorem SnapStep.setSnap (s : State) {hi lo : Nat} (v : Nat) : SnapStep s (s.setF ⟨0x160010, hi, lo⟩ v) :=
  SnapStep.of_regs (l := [0x160010]) (OnlyRegs.setF s ⟨0x160010, hi, lo⟩ v) (by decide) rfl rfl

theorem SnapStep.startSnap (s : State) : SnapStep s (startSnap s) := by
  unfold Machine.startSnap
  refine SnapStep.trans ?_ (SnapStep.sendLane ..)
  refine SnapStep.trans (SnapStep.trans (SnapStep.trans ?_ (SnapStep.setSnap _ _)) (SnapStep.setSnap _ _)) (SnapStep.setSnap _ _)
  exact SnapStep.of_regs (OnlyRegs.of_regs [] rfl) (by decide) rfl rfl

theorem SnapStep.triggerSnap (s : State) : SnapStep s (triggerSnap s) :=
  keeps_ite (K := SnapStep s) (SnapStep.refl s) (keeps_ite (K := SnapStep s) (SnapStep.of_regs (OnlyRegs.of_regs [] rfl) (by decide) rfl rfl) (SnapStep.startSnap s))

theorem SnapStep.rebaseJournal (s : State) : SnapStep s (rebaseJournal s) :=
  SnapStep.of_regs (OnlyRegs.set64 (s.updPair _) F.PAR_JMARK_LO_JPOS F.PAR_JMARK_HI_JPOS s.jposWr) (by decide) rfl rfl

/-! A path comes UP (R462, R463, R476, R482). -/

/-- A heartbeat that arrived on a path. -/
def gotPair (lane : Bool) (p : Pair) : Pair := if lane then { p with laneGot := true } else { p with wireGot := true }

def pathGot (lane : Bool) (s : State) : State := (s.setF (hbMiss lane) 0).updPair (gotPair lane)

def pathRaised (lane : Bool) (s : State) : State := notifyPar N.PATH_UP scOk (bit lane) (setPath lane true s)

/-- A full snapshot starts for a journal that is not valid. -/
def journalRestarted (s : State) : State := triggerSnap (rebaseJournal (s.setF F.PAR_STATUS_JOURNAL 2))

theorem pathUp_eq (lane : Bool) (s : State) : pathUp lane s =
    if (pathGot lane s).getF (hbUp lane) = 1 then pathGot lane s
    else if lane && (pathRaised lane (pathGot lane s)).mode == stAutonomous && (pathRaised lane (pathGot lane s)).journal != 1 then journalRestarted (pathRaised lane (pathGot lane s))
    else pathRaised lane (pathGot lane s) := rfl

theorem pathGot_regs (lane : Bool) (s : State) : OnlyRegs [0x168000] s (pathGot lane s) := by
  cases lane
  · exact (OnlyRegs.setF s F.PAR_HB_STATUS_WIRE_MISS 0).trans (OnlyRegs.updPair _ _)
  · exact (OnlyRegs.setF s F.PAR_HB_STATUS_LANE_MISS 0).trans (OnlyRegs.updPair _ _)

theorem pathGot_fields (lane : Bool) (s : State) : (pathGot lane s).getF (hbMiss lane) = 0 ∧ (pathGot lane s).getF (hbUp lane) = s.getF (hbUp lane) ∧
    ∀ hi lo, 23 < lo → (pathGot lane s).getF ⟨0x168000, hi, lo⟩ = s.getF ⟨0x168000, hi, lo⟩ := by
  have hrest (hi lo : Nat) (h : 23 < lo) : (pathGot lane s).getF ⟨0x168000, hi, lo⟩ = s.getF ⟨0x168000, hi, lo⟩ := by
    cases lane
    · exact State.getF_setF_disj s 0 (by decide) (by decide) (.inl h)
    · exact State.getF_setF_disj s 0 (by decide) (by decide) (.inl (lt_trans (by decide) h))
  refine ⟨?_, ?_, hrest⟩
  · cases lane <;> exact State.getF_setF_of_lt s (by decide) (by decide) (by decide)
  · cases lane <;> exact hrest _ _ (by decide)

theorem pathRaised_regs (lane : Bool) (s : State) : OnlyRegs ([0x168000, 0x160004] ++ noticeRegs) s (pathRaised lane s) := (setPath_regs lane true s).trans (notifyPar_regs _ _ _ _)

theorem pathRaised_getF (lane : Bool) (s : State) {f : Field} (hf : f.addr ∉ noticeRegs) : (pathRaised lane s).getF f = (setPath lane true s).getF f := (notifyPar_regs _ _ _ _).getF hf

theorem PairStep.pathRaised (lane : Bool) (s : State) : PairStep s (pathRaised lane s) := (PairStep.setPath lane true s).trans (PairStep.notifyPar ..)

theorem pathRaised_pair (lane : Bool) (s : State) : (pathRaised lane s).pair = s.pair := by
  obtain ⟨r, hr⟩ := setPath_parts lane true s
  exact (notifyPar_pair ..).trans (by rw [hr])

theorem journalRestarted_step (s : State) : SnapStep (s.setF F.PAR_STATUS_JOURNAL 2) (journalRestarted s) := (SnapStep.rebaseJournal _).trans (SnapStep.triggerSnap _)

/-- A path is UP with a heartbeat in it, where it was DOWN the pair state follows, and the rest of the pair stands but for a snapshot that starts. -/
structure PathRises (lane : Bool) (s t : State) : Prop where
  step : PairStep s t
  counts : OnlyRegs ([0x168000, 0x160004, 0x160010, 0x160038, 0x16003C] ++ noticeRegs) s t
  partner : ∀ hi lo, 25 < lo → t.getF ⟨0x168000, hi, lo⟩ = s.getF ⟨0x168000, hi, lo⟩
  miss : t.getF (hbMiss lane) = 0
  up : t.getF (hbUp lane) = 1
  raised : s.getF (hbUp lane) = 0 → s.mode ≠ stFrozen → t.getF (parUp lane) = 1 ∧ t.pairState = pairOf (1 + s.getF (parUp !lane))
  frozen : s.mode = stFrozen → t.reg 0x160004 = s.reg 0x160004
  sync : t.getF F.PAR_STATUS_SYNC = s.getF F.PAR_STATUS_SYNC
  beats : t.pair.laneReq = s.pair.laneReq ∧ (lane = true → t.pair.laneGot = true)
  quiet : (lane = true → s.mode = stAutonomous → s.journal = 1) → t.pair = gotPair lane s.pair ∧ OnlyRegs ([0x168000, 0x160004] ++ noticeRegs) s t ∧ t.journal = s.journal

theorem gotPair_beats (lane : Bool) (p : Pair) : (gotPair lane p).laneReq = p.laneReq ∧ (lane = true → (gotPair lane p).laneGot = true) := by
  cases lane
  · exact ⟨rfl, nofun⟩
  · exact ⟨rfl, fun _ => rfl⟩

theorem pathGot_pathRises (lane : Bool) (h : s.getF (hbUp lane) = 1) : PathRises lane s (pathGot lane s) := by
  have hregs := pathGot_regs lane s
  obtain ⟨hmiss, hup, hrest⟩ := pathGot_fields lane s
  exact {
    step := PairStep.of_regs hregs (by decide) rfl
    counts := hregs.mono (by decide)
    partner := fun hi lo hlo => hrest hi lo (lt_trans (by decide) hlo)
    miss := hmiss
    up := hup.trans h
    raised := fun h0 => absurd (h.symm.trans h0) (by decide)
    frozen := fun _ => hregs _ (by decide)
    sync := hregs.getF (by decide)
    beats := gotPair_beats lane s.pair
    quiet := fun _ => ⟨rfl, hregs.mono (by decide), hregs.getF (f := F.PAR_STATUS_JOURNAL) (by decide)⟩ }

theorem hb_not_notice (f : Bool → Field) (hf : ∀ b, (f b).addr = 0x168000 ∨ (f b).addr = 0x160004) (lane : Bool) : (f lane).addr ∉ noticeRegs := by
  rcases hf lane with h | h <;> (rw [h]; decide)

theorem pathRaised_pathRises (lane : Bool) (s : State) : PathRises lane s (pathRaised lane (pathGot lane s)) := by
  have hgot := pathGot_regs lane s
  obtain ⟨hmiss, -, hrest⟩ := pathGot_fields lane s
  have hgotStep : PairStep s (pathGot lane s) := PairStep.of_regs hgot (by decide) rfl
  have hpair : (pathRaised lane (pathGot lane s)).pair = gotPair lane s.pair := pathRaised_pair lane _
  have hbPar {hi lo : Nat} : (pathGot lane s).getF ⟨0x160004, hi, lo⟩ = s.getF ⟨0x160004, hi, lo⟩ := hgot.getF (f := ⟨0x160004, hi, lo⟩) (by simp)
  obtain ⟨hup, hhb⟩ := setPath_hb lane true (pathGot lane s)
  have hstatus (hi lo : Nat) (h : hi < 28) : (pathRaised lane (pathGot lane s)).getF ⟨0x160004, hi, lo⟩ = s.getF ⟨0x160004, hi, lo⟩ :=
    (pathRaised_getF lane _ (by simp [noticeRegs])).trans ((setPath_status lane true _ hi lo h).trans hbPar)
  exact {
    step := hgotStep.trans (PairStep.pathRaised lane _)
    counts := (hgot.trans (pathRaised_regs lane _)).mono (by decide)
    partner := fun hi lo hlo => (pathRaised_getF lane _ (by simp [noticeRegs])).trans ((hhb hi lo (.inl hlo)).trans (hrest hi lo (lt_trans (by decide) hlo)))
    miss := by
      refine (pathRaised_getF lane _ (hb_not_notice hbMiss (by decide) lane)).trans (Eq.trans ?_ hmiss)
      cases lane <;> exact hhb _ _ (.inr (by decide))
    up := (pathRaised_getF lane _ (hb_not_notice hbUp (by decide) lane)).trans hup
    raised := fun _ hmode => by
      obtain ⟨hpar, hstate⟩ := setPath_par (s := pathGot lane s) (fun e => hmode (hgotStep.mode.symm.trans e)) lane true
      refine ⟨(pathRaised_getF lane _ (hb_not_notice parUp (by decide) lane)).trans hpar, ((pathRaised_getF lane _ (by decide)).trans hstate).trans ?_⟩
      exact congrArg (fun n => pairOf (1 + n)) (by cases lane <;> exact hbPar)
    frozen := fun hmode => by
      have hfrozen := setPath_frozen (hgotStep.mode.trans hmode) lane true
      exact (notifyPar_regs _ _ _ _ _ (by decide)).trans ((hfrozen _ (by decide)).trans (hgot _ (by decide)))
    sync := hstatus 23 22 (by decide)
    beats := by
      rw [hpair]
      exact gotPair_beats lane s.pair
    quiet := fun _ => ⟨hpair, (hgot.trans (pathRaised_regs lane _)).mono (by decide), hstatus 25 24 (by decide)⟩ }

theorem PathRises.restarted (h : PathRises true s t) (hmode : s.mode = stAutonomous) (hjournal : s.journal ≠ 1) : PathRises true s (journalRestarted t) := by
  have hset := OnlyRegs.setF t F.PAR_STATUS_JOURNAL 2
  have hsnap := journalRestarted_step t
  have hstep : PairStep t (t.setF F.PAR_STATUS_JOURNAL 2) := PairStep.of_regs hset (by decide) rfl
  have hregs := hset.trans hsnap.regs
  obtain ⟨hgot, hreq⟩ := Prod.mk.inj hsnap.beats
  have hstatus (hi lo : Nat) (hlo : 25 < lo ∨ hi < 24) : (journalRestarted t).getF ⟨0x160004, hi, lo⟩ = t.getF ⟨0x160004, hi, lo⟩ :=
    (hsnap.regs.getF (f := ⟨0x160004, hi, lo⟩) (by simp)).trans (State.getF_setF_disj _ _ (by decide) (by decide) (hlo.imp id id))
  exact {
    step := (h.step.trans hstep).trans hsnap.step
    counts := (h.counts.trans hregs).mono (by decide)
    partner := fun hi lo hlo => (hregs.getF (f := ⟨0x168000, hi, lo⟩) (by simp)).trans (h.partner hi lo hlo)
    miss := (hregs.getF (by decide)).trans h.miss
    up := (hregs.getF (by decide)).trans h.up
    raised := fun hdown hrun => by
      obtain ⟨hup, hstate⟩ := h.raised hdown hrun
      exact ⟨(hstatus 29 29 (.inl (by decide))).trans hup, (hstatus 31 30 (.inl (by decide))).trans hstate⟩
    frozen := fun hfrozen => absurd (hfrozen.symm.trans hmode) (by decide)
    sync := (hstatus 23 22 (.inr (by decide))).trans h.sync
    beats := ⟨hreq.trans h.beats.1, fun _ => hgot.trans (h.beats.2 rfl)⟩
    quiet := fun hvalid => absurd (hvalid rfl hmode) hjournal }

theorem pathUp_rises (lane : Bool) (s : State) : PathRises lane s (pathUp lane s) := by
  obtain ⟨-, hup, -⟩ := pathGot_fields lane s
  rw [pathUp_eq]
  split
  next h => exact pathGot_pathRises lane (hup.symm.trans h)
  next h =>
    have hraised := pathRaised_pathRises lane s
    split
    next htrigger =>
      obtain ⟨hlane, hjournal⟩ := Bool.and_eq_true_iff.1 htrigger
      obtain ⟨rfl, hmode⟩ := Bool.and_eq_true_iff.1 hlane
      have hauto := hraised.step.mode.symm.trans (beq_iff_eq.1 hmode)
      refine hraised.restarted hauto fun hvalid => ?_
      exact bne_iff_ne.1 hjournal ((hraised.quiet fun _ _ => hvalid).2.2.trans hvalid)
    next => exact hraised

/-! The lead's heartbeat, and the requests (R83, R464, R479, R484). -/

theorem countListen_parts (lane : Bool) (s : State) : ∃ b, countListen lane s = { s with boot := b } := by
  unfold countListen
  split
  · split <;> exact ⟨_, rfl⟩
  · exact ⟨_, rfl⟩

/-- The memory of the pair with another last lead heartbeat, takeover and claim. -/
def leadPair (l : Option Nat) (k : Option Takeover) (c : Option Nat) (p : Pair) : Pair := { p with leadAt := l, takeover := k, claimAt := c }

/-- PAR_CNT_11 where a claim waits. -/
@[reducible] def claimRegs (s : State) : List Nat := if s.pair.claimAt.isSome = true then [0x16012C] else []

/-- What a heartbeat with ROLE `role` tells of the lead. -/
def leadTaken (lane : Bool) (role : Nat) (s : State) : State := if role = 1 then leadHeard lane s else s

/-- The last lead heartbeat `l` and the claim `c` after a heartbeat with ROLE `role`. -/
@[reducible] def LeadKnown (role : Nat) (s : State) (l c : Option Nat) : Prop :=
  (role = 1 → l = some s.clk.now ∧ (s.mode = stReserve → c = none)) ∧ (role ≠ 1 → l = s.pair.leadAt ∧ c = s.pair.claimAt)

/-- The listening window counts the heartbeat, and the pair remembers when it came. -/
def leadNoted (lane : Bool) (s : State) : State := countListen lane (s.updPair fun p => { p with leadAt := some s.clk.now })

theorem leadHeard_eq (lane : Bool) (s : State) : leadHeard lane s =
    if (leadNoted lane s).mode = stReserve ∧ (leadNoted lane s).pair.claimAt.isSome then takeoverBlocked (leadNoted lane s) else leadNoted lane s := rfl

theorem leadNoted_frame (lane : Bool) (s : State) : PairStep s (leadNoted lane s) ∧ OnlyRegs [] s (leadNoted lane s) ∧
    (leadNoted lane s).pair = leadPair (some s.clk.now) s.pair.takeover s.pair.claimAt s.pair := by
  obtain ⟨b, hb⟩ := countListen_parts lane (s.updPair fun p => { p with leadAt := some s.clk.now })
  unfold leadNoted
  rw [hb]
  exact ⟨PairStep.of_regs (OnlyRegs.of_regs [] rfl) (by decide) rfl, OnlyRegs.of_regs _ rfl, rfl⟩

theorem takeoverBlocked_frame (s : State) : PairStep s (takeoverBlocked s) ∧ OnlyRegs ([0x16012C] ++ noticeRegs) s (takeoverBlocked s) ∧
    (takeoverBlocked s).pair = leadPair s.pair.leadAt none none s.pair := by
  have hcount := OnlyRegs.incF (s.updPair fun p => { p with takeover := none, claimAt := none }) (F.PAR_CNT_COUNT 11)
  have hstep := PairStep.of_regs hcount (by decide) rfl
  exact ⟨((PairStep.updPair s _).trans hstep).trans (PairStep.notify ..), (OnlyRegs.updPair s _).trans (hcount.trans (OnlyRegs.notify _ _ _ _ _)), notify_pair ..⟩

theorem leadTaken_frame (lane : Bool) (role : Nat) (s : State) : PairStep s (leadTaken lane role s) ∧ OnlyRegs (claimRegs s ++ noticeRegs) s (leadTaken lane role s) ∧
    ∃ l k c, (leadTaken lane role s).pair = leadPair l k c s.pair ∧ (s.pair.takeover = none → k = none) ∧ LeadKnown role s l c := by
  unfold leadTaken
  split
  next hrole =>
    obtain ⟨hstep, hregs, hpair⟩ := leadNoted_frame lane s
    rw [leadHeard_eq, hstep.mode, hpair]
    generalize leadNoted lane s = u at hstep hregs hpair ⊢
    split
    next h =>
      obtain ⟨hblocked, hcount, hfreed⟩ := takeoverBlocked_frame u
      refine ⟨hstep.trans hblocked, ?_, some s.clk.now, none, none, by rw [hfreed, hpair]; rfl, fun _ => rfl, fun _ => ⟨rfl, fun _ => rfl⟩, fun h => absurd hrole h⟩
      rw [claimRegs, if_pos (show s.pair.claimAt.isSome = true from h.2)]
      exact hregs.trans hcount
    next h =>
      refine ⟨hstep, hregs.mono (List.nil_subset _), some s.clk.now, s.pair.takeover, s.pair.claimAt, hpair, id, fun _ => ⟨rfl, fun hmode => ?_⟩, fun h => absurd hrole h⟩
      exact Option.not_isSome_iff_eq_none.1 fun hclaim => h ⟨hmode, hclaim⟩
  next hrole => exact ⟨PairStep.refl s, OnlyRegs.of_regs _ rfl, s.pair.leadAt, s.pair.takeover, s.pair.claimAt, rfl, id, fun h => absurd h hrole, fun _ => ⟨rfl, rfl⟩⟩

theorem declareFailure_frame (request : Bool) (s : State) : PairStep s (declareFailure request s) ∧ OnlyRegs noticeRegs s (declareFailure request s) ∧
    ∃ k, (declareFailure request s).pair = { s.pair with takeover := k } := by
  unfold declareFailure
  split
  · exact ⟨PairStep.refl s, OnlyRegs.of_regs _ rfl, _, rfl⟩
  · exact ⟨(PairStep.updPair s _).trans (PairStep.notify ..), (OnlyRegs.updPair s _).trans (OnlyRegs.notify _ _ _ _ _), _, notify_pair ..⟩

/-- When the takeover was declared, and whether the partner asked for it. -/
def declaredOf (p : Pair) : Option (Nat × Bool) := p.takeover.map fun x => (x.declared, x.request)

theorem declareFailure_declares (hmode : s.mode = stReserve) (htakeover : s.pair.takeover = none) (hdrives : s.drivesOwn = false) (request : Bool) :
    declaredOf (declareFailure request s).pair = some (s.clk.now, request) := by
  unfold declareFailure
  rw [if_neg (by rw [hmode, htakeover, hdrives]; decide)]
  exact congrArg declaredOf (notify_pair ..)

/-- Consecutive requests on a path with this heartbeat. -/
def reqCount (lane req : Bool) (p : Pair) : Nat := if req then (if lane then p.laneReq else p.wireReq) + 1 else 0

def reqPair (lane : Bool) (n : Nat) (p : Pair) : Pair := if lane then { p with laneReq := n } else { p with wireReq := n }

theorem countReq_eq (lane req : Bool) (s : State) : countReq lane req s =
    if 3 ≤ reqCount lane req s.pair then declareFailure true (s.updPair (reqPair lane (reqCount lane req s.pair))) else s.updPair (reqPair lane (reqCount lane req s.pair)) := rfl

theorem reqPair_takeover (lane : Bool) (n : Nat) (p : Pair) : (reqPair lane n p).takeover = p.takeover := by cases lane <;> rfl

theorem countReq_frame (lane req : Bool) (s : State) : PairStep s (countReq lane req s) ∧ OnlyRegs noticeRegs s (countReq lane req s) ∧
    ∃ k, (countReq lane req s).pair = { reqPair lane (reqCount lane req s.pair) s.pair with takeover := k } := by
  rw [countReq_eq]
  split
  · obtain ⟨hstep, hregs, k, hk⟩ := declareFailure_frame true (s.updPair (reqPair lane (reqCount lane req s.pair)))
    exact ⟨(PairStep.updPair s _).trans hstep, (OnlyRegs.updPair s _).trans hregs, k, hk⟩
  · exact ⟨PairStep.updPair s _, OnlyRegs.of_regs _ rfl, _, rfl⟩

theorem countReq_declares (lane : Bool) (hmode : s.mode = stReserve) (htakeover : s.pair.takeover = none) (hdrives : s.drivesOwn = false)
    (hthird : 2 ≤ if lane then s.pair.laneReq else s.pair.wireReq) : declaredOf (countReq lane true s).pair = some (s.clk.now, true) := by
  have hn : 3 ≤ reqCount lane true s.pair := Nat.succ_le_succ hthird
  rw [countReq_eq, if_pos hn]
  exact declareFailure_declares (s := s.updPair (reqPair lane (reqCount lane true s.pair))) hmode ((reqPair_takeover ..).trans htakeover) hdrives true

/-! A valid heartbeat of either path (R462 to R464). -/

def partnerShown (role : Nat) (req : Bool) (s : State) : State := (s.setF F.PAR_HB_STATUS_PEER_ROLE role).setF F.PAR_HB_STATUS_PEER_REQ (bit req)

theorem heartbeat_eq (lane : Bool) (role : Nat) (req : Bool) (s : State) :
    heartbeat lane role req s = countReq lane req (pathUp lane (leadTaken lane role (partnerShown role req s))) := rfl

theorem partnerShown_frame {role : Nat} (hrole : role < 4) (req : Bool) (s : State) : OnlyRegs [0x168000] s (partnerShown role req s) ∧
    (partnerShown role req s).getF F.PAR_HB_STATUS_PEER_ROLE = role ∧ (partnerShown role req s).getF F.PAR_HB_STATUS_PEER_REQ = bit req ∧
      ∀ hi lo, 28 < lo ∨ hi < 26 → (partnerShown role req s).getF ⟨0x168000, hi, lo⟩ = s.getF ⟨0x168000, hi, lo⟩ := by
  refine ⟨((OnlyRegs.setF s F.PAR_HB_STATUS_PEER_ROLE role).trans (OnlyRegs.setF _ F.PAR_HB_STATUS_PEER_REQ (bit req))).mono (by decide), ?_, ?_, fun hi lo h => ?_⟩
  · exact (State.getF_setF_disj _ _ (by decide) (by decide) (.inl (by decide))).trans (State.getF_setF_of_lt _ (by decide) (by decide) hrole)
  · exact State.getF_setF_of_lt _ (by decide) (by decide) (bit_lt req)
  · have hreq : 26 < lo ∨ hi < 26 := h.imp_left (lt_trans (by decide))
    have hshown : 28 < lo ∨ hi < 27 := h.imp_right fun hhi => lt_trans hhi (by decide)
    exact (State.getF_setF_disj _ _ (by decide) (by decide) hreq).trans (State.getF_setF_disj _ _ (by decide) (by decide) hshown)

/-- What a valid heartbeat leaves. -/
structure Heartbeat (lane : Bool) (role : Nat) (req : Bool) (s t : State) : Prop where
  step : PairStep s t
  counts : OnlyRegs ([0x168000, 0x160004, 0x160010, 0x160038, 0x16003C] ++ claimRegs s ++ noticeRegs) s t
  roleShown : t.getF F.PAR_HB_STATUS_PEER_ROLE = role
  reqShown : t.getF F.PAR_HB_STATUS_PEER_REQ = bit req
  miss : t.getF (hbMiss lane) = 0
  up : t.getF (hbUp lane) = 1
  raised : s.getF (hbUp lane) = 0 → s.mode ≠ stFrozen → t.getF (parUp lane) = 1 ∧ t.pairState = pairOf (1 + s.getF (parUp !lane))
  frozen : s.mode = stFrozen → t.reg 0x160004 = s.reg 0x160004
  sync : t.getF F.PAR_STATUS_SYNC = s.getF F.PAR_STATUS_SYNC
  beats : lane = true → t.pair.laneReq = reqCount true req s.pair ∧ t.pair.laneGot = true
  quiet : (lane = true → s.mode = stAutonomous → s.journal = 1) →
    (∃ l k c, t.pair = reqPair lane (reqCount lane req s.pair) (gotPair lane (leadPair l k c s.pair)) ∧ LeadKnown role s l c) ∧
      OnlyRegs ([0x168000, 0x160004] ++ claimRegs s ++ noticeRegs) s t ∧ t.journal = s.journal
  declares : req = true → s.mode = stReserve → s.pair.takeover = none → s.drivesOwn = false → 2 ≤ (if lane then s.pair.laneReq else s.pair.wireReq) →
    declaredOf t.pair = some (s.clk.now, true)

theorem claimRegs_far (s : State) {a : Nat} (ha : a ≠ 0x16012C) : a ∉ claimRegs s := by
  unfold claimRegs
  split
  · exact List.not_mem_cons_of_ne_of_not_mem ha List.not_mem_nil
  · exact List.not_mem_nil

/-- The partner's role and request shown, and what they tell of the lead taken. -/
def partnerTaken (lane : Bool) (role : Nat) (req : Bool) (s : State) : State := leadTaken lane role (partnerShown role req s)

theorem partnerTaken_frame (lane : Bool) {role : Nat} (hrole : role < 4) (req : Bool) (s : State) :
    PairStep s (partnerTaken lane role req s) ∧ OnlyRegs ([0x168000] ++ claimRegs s ++ noticeRegs) s (partnerTaken lane role req s) ∧
      (partnerTaken lane role req s).getF F.PAR_HB_STATUS_PEER_ROLE = role ∧ (partnerTaken lane role req s).getF F.PAR_HB_STATUS_PEER_REQ = bit req ∧
      (∀ hi lo, 28 < lo ∨ hi < 26 → (partnerTaken lane role req s).getF ⟨0x168000, hi, lo⟩ = s.getF ⟨0x168000, hi, lo⟩) ∧
      ∃ l k c, (partnerTaken lane role req s).pair = leadPair l k c s.pair ∧ (s.pair.takeover = none → k = none) ∧ LeadKnown role s l c := by
  obtain ⟨hregs, hroleShown, hreqShown, hrest⟩ := partnerShown_frame hrole req s
  have hstep : PairStep s (partnerShown role req s) := PairStep.of_regs hregs (by decide) rfl
  obtain ⟨hleadStep, hleadRegs, l, k, c, hpair, hkeep, hrole1, hrole0⟩ := leadTaken_frame lane role (partnerShown role req s)
  have hstands {hi lo : Nat} : (partnerTaken lane role req s).getF ⟨0x168000, hi, lo⟩ = (partnerShown role req s).getF ⟨0x168000, hi, lo⟩ :=
    hleadRegs.getF fun h => (List.mem_append.1 h).elim (claimRegs_far _ (show 0x168000 ≠ 0x16012C by decide)) (by simp [noticeRegs])
  refine ⟨hstep.trans hleadStep, ?_, hstands.trans hroleShown, hstands.trans hreqShown, fun hi lo h => hstands.trans (hrest hi lo h), l, k, c, hpair, hkeep, ?_, hrole0⟩
  · rw [List.append_assoc]
    exact hregs.trans hleadRegs
  · exact fun h => ⟨(hrole1 h).1, fun hmode => (hrole1 h).2 (hstep.mode.trans hmode)⟩

theorem reqCount_gotPair (lane req : Bool) (l : Option Nat) (k : Option Takeover) (c : Option Nat) (p : Pair) :
    reqCount lane req (gotPair lane (leadPair l k c p)) = reqCount lane req p := by cases lane <;> rfl

theorem Heartbeat.of_rises {lane req : Bool} {role : Nat} {x : State} (hrole : role < 4) (hx : PathRises lane (partnerTaken lane role req s) x) :
    Heartbeat lane role req s (countReq lane req x) := by
  obtain ⟨hstep, hregs, hroleShown, hreqShown, hrest, l, k, c, hpair, hkeep, hknown⟩ := partnerTaken_frame lane hrole req s
  obtain ⟨hreqStep, hreqRegs, k', hreqPair⟩ := countReq_frame lane req x
  have hdeclares := countReq_declares lane (s := x)
  generalize partnerTaken lane role req s = w at *
  have hstatus : w.reg 0x160004 = s.reg 0x160004 := hregs _ fun h => (List.mem_append.1 h).elim (fun h => (List.mem_append.1 h).elim (by decide) (claimRegs_far s (by decide))) (by decide)
  have hjournal : w.journal = s.journal := State.getF_of_reg hstatus
  have hreqF {f : Field} (hf : f.addr ∉ noticeRegs) : (countReq lane req x).getF f = x.getF f := hreqRegs.getF hf
  have hquiet (h : lane = true → s.mode = stAutonomous → s.journal = 1) : x.pair = gotPair lane (leadPair l k c s.pair) ∧ OnlyRegs ([0x168000, 0x160004] ++ noticeRegs) w x ∧ x.journal = w.journal := by
    obtain ⟨hp, hr, hj⟩ := hx.quiet fun hlane hmode => hjournal.trans (h hlane (hstep.mode.symm.trans hmode))
    exact ⟨hp.trans (by rw [hpair]), hr, hj⟩
  have hall {r : List Nat} (hr : OnlyRegs (r ++ noticeRegs) w x) (h : [0x168000] ⊆ r) : OnlyRegs (r ++ claimRegs s ++ noticeRegs) s (countReq lane req x) := by
    refine ((hregs.trans hr).trans hreqRegs).mono fun a ha => ?_
    have hfirst := @h a
    simp only [List.mem_append] at ha ⊢
    tauto
  exact {
    step := (hstep.trans hx.step).trans hreqStep
    counts := hall hx.counts (by decide)
    roleShown := ((hreqF (by decide)).trans (hx.partner _ _ (by decide))).trans hroleShown
    reqShown := ((hreqF (by decide)).trans (hx.partner _ _ (by decide))).trans hreqShown
    miss := (hreqF (hb_not_notice hbMiss (by decide) lane)).trans hx.miss
    up := (hreqF (hb_not_notice hbUp (by decide) lane)).trans hx.up
    raised := fun hdown hmode => by
      have hdown' : w.getF (hbUp lane) = 0 := Eq.trans (by cases lane <;> exact hrest _ _ (.inr (by decide))) hdown
      obtain ⟨hup, hstate⟩ := hx.raised hdown' fun e => hmode (hstep.mode.symm.trans e)
      have hother : w.getF (parUp !lane) = s.getF (parUp !lane) := by cases lane <;> exact State.getF_of_reg hstatus
      exact ⟨(hreqF (hb_not_notice parUp (by decide) lane)).trans hup, ((hreqF (by decide)).trans hstate).trans (by rw [hother])⟩
    frozen := fun hmode => (hreqRegs _ (by decide)).trans ((hx.frozen (hstep.mode.trans hmode)).trans hstatus)
    sync := ((hreqF (by decide)).trans hx.sync).trans (State.getF_of_reg hstatus)
    beats := fun hlane => by
      subst hlane
      obtain ⟨hlaneReq, hgot⟩ := hx.beats
      rw [hreqPair]
      refine ⟨?_, hgot rfl⟩
      show reqCount true req x.pair = _
      unfold reqCount
      rw [if_pos rfl, if_pos rfl, hlaneReq, hpair]
      rfl
    quiet := fun h => by
      obtain ⟨hp, hr, hj⟩ := hquiet h
      refine ⟨⟨l, k', c, ?_, hknown⟩, hall hr (by decide), ((hreqF (by decide)).trans hj).trans hjournal⟩
      rw [hreqPair, hp, reqCount_gotPair]
      cases lane <;> rfl
    declares := fun hreq hmode htakeover hdrives hthird => by
      obtain ⟨hp, -, -⟩ := hquiet fun _ hauto => absurd (hmode.symm.trans hauto) (by decide)
      have hmode' : x.mode = stReserve := hx.step.mode.trans (hstep.mode.trans hmode)
      have hdrives' : x.drivesOwn = false := (congrArg (· == 1) ((hx.partner 29 29 (by decide)).trans (hrest 29 29 (.inl (by decide))))).trans hdrives
      have hclk : x.clk = s.clk := hx.step.clk.trans hstep.clk
      subst hreq
      rw [← hclk]
      refine hdeclares hmode' ?_ hdrives' ?_
      · rw [hp]
        cases lane <;> exact hkeep htakeover
      · rw [hp]
        cases lane <;> exact hthird }

theorem heartbeat_does (lane : Bool) {role : Nat} (hrole : role < 4) (req : Bool) (s : State) : Heartbeat lane role req s (heartbeat lane role req s) := by
  rw [heartbeat_eq]
  exact Heartbeat.of_rises hrole (pathUp_rises lane _)

end
end Sys2Proof.Machine

/-! SUPPORT. Heartbeats of the wire and the lane, and the check of a path (R460 to R466, R471, R476). -/

namespace Sys2Proof.Machine

section
variable {dt : Nat} {s t u : State}

/-! The wire (R460, R465). -/

theorem exec_hbWireRx (hpairs : pairs s = true) (f : BitVec 16) : exec (.hbWireRx dt f) s =
    if f.toNat / 2 ^ 14 ≠ 2 ∨ wireFrame (f.toNat / 16) ≠ f.toNat then .next (cntPar 4 (s.elapse dt))
    else if (f.toNat / 2 ^ 13 % 2 == 1) = s.pair.id then .next (pairConflict (s.elapse dt))
    else .next (heartbeat false (f.toNat / 2 ^ 11 % 4) (f.toNat / 2 ^ 10 % 2 == 1) (cntPar 3 (s.elapse dt))) := by
  refine (if_neg ?_).trans rfl
  rw [show pairs (s.elapse dt) = pairs s from rfl, hpairs]
  decide

theorem beq_one_eq_iff {n : Nat} (hn : n < 2) (b : Bool) : ((n == 1) = b) ↔ n = bit b := by
  cases b
  · rw [beq_eq_false_iff_ne]
    show n ≠ 1 ↔ n = 0
    omega
  · exact beq_iff_eq

/-- A heartbeat with the own PAIR_ID, but for FROZEN (R465, R512). -/
@[reducible] def PairConflicts (s t : State) : Prop :=
  if s.mode = stFrozen then PairSame s t
  else t.getF F.PAR_STATUS_CONFLICT = 1 ∧ t.pair.conflictSeen = true ∧ OnlyRing s t ∧ OnlyRegs (0x160004 :: if s.pair.conflictSeen = true then [] else noticeRegs) s t

theorem pairConflict_conflicts (s : State) (dt : Nat) : PairConflicts s (pairConflict (s.elapse dt)) := by
  by_cases h : s.mode = stFrozen
  · rw [PairConflicts, if_pos h, pairConflict_of_frozen (show (s.elapse dt).mode = stFrozen from h)]
    exact PairSame.elapse s dt
  · obtain ⟨hone, hpair, hring, hregs⟩ := pairConflict_shows (show (s.elapse dt).mode ≠ stFrozen from h)
    rw [PairConflicts, if_neg h]
    exact ⟨hone, congrArg Pair.conflictSeen hpair, hring, hregs⟩

section
variable (hpairs : pairs s = true) (f : BitVec 16)
include hpairs

theorem hbWireRx_bad (h : f.toNat / 2 ^ 14 ≠ 2 ∨ wireFrame (f.toNat / 16) ≠ f.toNat) :
    Completes (.hbWireRx dt f) s fun t => ParCounts 4 s t ∧ OnlyRegs [0x160110] s t ∧ t.pair = s.pair ∧ t.dram = s.dram := by
  have hcounts := cntPar_counts 4 (s.elapse dt)
  have hregs := cntPar_regs 4 (s.elapse dt)
  refine ⟨_, (exec_hbWireRx hpairs f).trans (if_pos h), hcounts, hregs, ?_⟩
  obtain ⟨r, hr⟩ := cntPar_parts 4 (s.elapse dt)
  rw [hr]
  exact ⟨rfl, rfl⟩

variable (hmark : f.toNat / 2 ^ 14 = 2) (hcrc : wireFrame (f.toNat / 16) = f.toNat)
include hmark hcrc

theorem hbWireRx_conflict (hid : f.toNat / 2 ^ 13 % 2 = bit s.pair.id) : Completes (.hbWireRx dt f) s (PairConflicts s) := by
  have hown := (beq_one_eq_iff (Nat.mod_lt _ (by decide)) s.pair.id).2 hid
  exact ⟨_, (exec_hbWireRx hpairs f).trans ((if_neg (by tauto)).trans (if_pos hown)), pairConflict_conflicts s dt⟩

theorem hbWireRx_heartbeat (hid : f.toNat / 2 ^ 13 % 2 ≠ bit s.pair.id) : Completes (.hbWireRx dt f) s
    (Heartbeat false (f.toNat / 2 ^ 11 % 4) (f.toNat / 2 ^ 10 % 2 == 1) (cntPar 3 (s.elapse dt))) := by
  have hother := mt (beq_one_eq_iff (Nat.mod_lt _ (by decide)) s.pair.id).1 hid
  exact ⟨_, (exec_hbWireRx hpairs f).trans ((if_neg (by tauto)).trans (if_neg hother)), heartbeat_does false (Nat.mod_lt _ (by decide)) _ _⟩

end

theorem pairOf_one_add (s : State) (f : Field) (hf : f.hi = f.lo) : pairOf (1 + s.getF f) = if s.getF f = 1 then pairOk else pairDegraded := by
  have hlt : s.getF f < 2 := by
    have h := State.getF_lt s f
    rwa [hf, Nat.add_sub_cancel_left] at h
  have hcase : s.getF f = 0 ∨ s.getF f = 1 := by omega
  rcases hcase with h | h <;> (rw [h]; rfl)

theorem cntPar_pair (k : Nat) (s : State) : (cntPar k s).pair = s.pair := by
  obtain ⟨r, hr⟩ := cntPar_parts k s
  rw [hr]

/-- What the wire's heartbeat leaves, said of the state before it. -/
theorem Heartbeat.wire {role n : Nat} (hn : n < 2) (h : Heartbeat false role (n == 1) (cntPar 3 (s.elapse dt)) t) :
    t.getF F.PAR_HB_STATUS_PEER_ROLE = role ∧ t.getF F.PAR_HB_STATUS_PEER_REQ = n ∧ t.getF F.PAR_HB_STATUS_WIRE_MISS = 0 ∧ t.pair.wireGot = true ∧ t.getF F.PAR_HB_STATUS_WIRE_UP = 1 ∧
      ParCounts 3 s t ∧
      (s.getF F.PAR_HB_STATUS_WIRE_UP = 0 → s.mode ≠ stFrozen → t.getF F.PAR_STATUS_WIRE_UP = 1 ∧ t.pairState = if s.getF F.PAR_STATUS_LANE_UP = 1 then pairOk else pairDegraded) ∧
      (s.mode = stFrozen → t.reg 0x160004 = s.reg 0x160004) ∧
      OnlyRegs ([0x160004, 0x168000, 0x16010C] ++ claimRegs s ++ noticeRegs) s t ∧ OnlyRing s t ∧
      (role = 1 → t.pair.leadAt = some (s.elapse dt).clk.now ∧ (s.mode = stReserve → t.pair.claimAt = none)) ∧
      (role ≠ 1 → t.pair.leadAt = s.pair.leadAt ∧ t.pair.claimAt = s.pair.claimAt) ∧
      t.pair.wireReq = (if n = 1 then s.pair.wireReq + 1 else 0) ∧
      (n = 1 → 2 ≤ s.pair.wireReq → s.mode = stReserve → s.pair.takeover = none → s.drivesOwn = false →
        t.pair.takeover.map (fun x => (x.declared, x.request)) = some ((s.elapse dt).clk.now, true)) := by
  have hcounts := cntPar_counts 3 (s.elapse dt)
  have hregs := cntPar_regs 3 (s.elapse dt)
  have hstep : PairStep (s.elapse dt) _ := PairStep.cntPar (k := 3) (by decide) (s.elapse dt)
  have hpair : (cntPar 3 (s.elapse dt)).pair = s.pair := cntPar_pair 3 (s.elapse dt)
  have hclk : (cntPar 3 (s.elapse dt)).clk = (s.elapse dt).clk := hstep.clk
  have hmode : (cntPar 3 (s.elapse dt)).mode = s.mode := hstep.mode
  have hstands {g : Field} (hg : g.addr ≠ 0x16010C) : (cntPar 3 (s.elapse dt)).getF g = s.getF g := (hregs.getF (by simpa using hg)).trans rfl
  have hclaim : claimRegs (cntPar 3 (s.elapse dt)) = claimRegs s := by rw [claimRegs, hpair]
  generalize cntPar 3 (s.elapse dt) = c at *
  obtain ⟨⟨l, k, a, htpair, hlead, hother⟩, hquiet, -⟩ := h.quiet nofun
  have hcount : 0x16010C ∉ [0x168000, 0x160004] ++ claimRegs c ++ noticeRegs := fun hm =>
    (List.mem_append.1 hm).elim (fun hm => (List.mem_append.1 hm).elim (by decide) (claimRegs_far c (by decide))) (by decide)
  have hbit : bit (n == 1) = n := by
    have hcase : n = 0 ∨ n = 1 := by omega
    rcases hcase with rfl | rfl <;> rfl
  rw [hpair] at htpair
  rw [hclk, hmode] at hlead
  rw [hpair] at hother
  refine ⟨h.roleShown, h.reqShown.trans hbit, h.miss, congrArg Pair.wireGot htpair, h.up, ?_, fun hdown hrun => ?_, fun hfrozen => ?_, ?_, (hstep.trans h.step).ring,
    fun hrole => ?_, fun hrole => ?_, ?_, fun hreq hthird hres htakeover hdrives => ?_⟩
  · exact (hquiet.getF hcount).trans hcounts
  · obtain ⟨hup, hstate⟩ := h.raised ((hstands (by decide)).trans hdown) fun e => hrun (hmode.symm.trans e)
    refine ⟨hup, hstate.trans ?_⟩
    rw [hstands (by decide), pairOf_one_add s _ rfl]
    rfl
  · exact (h.frozen (hmode.trans hfrozen)).trans (hregs _ (by decide))
  · have hall := OnlyRegs.trans (s := s) hregs hquiet
    rw [hclaim] at hall
    refine hall.mono fun x hx => ?_
    simp only [List.mem_append, List.mem_cons, List.not_mem_nil, or_false] at hx ⊢
    tauto
  · rw [htpair]
    exact hlead hrole
  · rw [htpair]
    exact hother hrole
  · rw [htpair]
    show reqCount false (n == 1) s.pair = _
    simp [reqCount]
  · have hdeclared := h.declares (beq_iff_eq.2 hreq) (hmode.trans hres) (by rw [hpair]; exact htakeover) ((congrArg (· == 1) (hstands (by decide))).trans hdrives) (by rw [hpair]; exact hthird)
    rw [hclk] at hdeclared
    exact hdeclared

/-! What the lead takes from a reserve's heartbeat (R461, R471, R475, R476). -/

/-- The registers of the slots, and the rewind mark. -/
@[reducible] def slotRegs : List Nat := [0x160004, 0x160018, 0x16001C, 0x160020, 0x160024, 0x160038, 0x16003C]

/-- From `s` to `t` only what is known of the slots changes. -/
structure PeerStep (s t : State) : Prop where
  step : PairStep s t
  regs : OnlyRegs slotRegs s t
  pair : ∃ a b, t.pair = { s.pair with slotA := a, slotB := b }

theorem PeerStep.refl (s : State) : PeerStep s s := ⟨PairStep.refl s, OnlyRegs.of_regs _ rfl, _, _, rfl⟩

theorem PeerStep.trans (h : PeerStep s t) (k : PeerStep t u) : PeerStep s u := by
  obtain ⟨a, b, hab⟩ := h.pair
  obtain ⟨a', b', hab'⟩ := k.pair
  exact ⟨h.step.trans k.step, (h.regs.trans k.regs).mono (by decide), a', b', hab'.trans (by rw [hab])⟩

theorem PeerStep.of_regs {l : List Nat} (h : OnlyRegs l s t) (hl : l ⊆ slotRegs) (hparts : (t.dram, t.clk, t.pair) = (s.dram, s.clk, s.pair)) : PeerStep s t := by
  obtain ⟨hdram, hparts⟩ := Prod.mk.inj hparts
  obtain ⟨hclk, hpair⟩ := Prod.mk.inj hparts
  exact ⟨PairStep.of_regs (h.mono hl) (by decide) (by rw [hdram, hclk]), h.mono hl, s.pair.slotA, s.pair.slotB, hpair⟩

theorem PeerStep.setStatus (s : State) {hi lo : Nat} (v : Nat) : PeerStep s (s.setF ⟨0x160004, hi, lo⟩ v) :=
  PeerStep.of_regs (l := [0x160004]) (OnlyRegs.setF s ⟨0x160004, hi, lo⟩ v) (by decide) rfl

theorem PeerStep.showSlot (b : Bool) (v : Option (Nat × Nat)) (s : State) : PeerStep s (showSlot b v s) := by
  cases b
  · exact (PeerStep.setStatus s _).trans (PeerStep.of_regs (OnlyRegs.set64 _ F.PAR_SEQ_A_LO_SEQ F.PAR_SEQ_A_HI_SEQ _) (by decide) rfl)
  · exact (PeerStep.setStatus s _).trans (PeerStep.of_regs (OnlyRegs.set64 _ F.PAR_SEQ_B_LO_SEQ F.PAR_SEQ_B_HI_SEQ _) (by decide) rfl)

theorem PeerStep.putSlot (b : Bool) (v : Option (Nat × Nat)) (s : State) : PeerStep s (putSlot b v s) := by
  refine PeerStep.trans (t := s.updPair fun p => if b then { p with slotB := v } else { p with slotA := v }) ⟨PairStep.updPair s _, OnlyRegs.of_regs _ rfl, ?_⟩ (PeerStep.showSlot b v _)
  cases b <;> exact ⟨_, _, rfl⟩

theorem PeerStep.setMark (s : State) (j : Nat) : PeerStep s (s.set64 F.PAR_JMARK_LO_JPOS F.PAR_JMARK_HI_JPOS j) :=
  PeerStep.of_regs (OnlyRegs.set64 s F.PAR_JMARK_LO_JPOS F.PAR_JMARK_HI_JPOS j) (by decide) rfl

theorem PeerStep.syncMark (s : State) : PeerStep s (syncMark s) := by
  unfold Machine.syncMark
  split
  · exact PeerStep.refl s
  · exact PeerStep.setMark s _
  · exact PeerStep.setMark s _
  · exact PeerStep.setMark s _

theorem PeerStep.peerSlot (b : Bool) (seq : Nat) (s : State) : PeerStep s (peerSlot b seq s) := by
  unfold Machine.peerSlot
  extract_lets old
  clear_value old
  split
  · exact keeps_ite (K := PeerStep s) (PeerStep.refl s) (PeerStep.putSlot ..)
  · split
    · exact keeps_ite (K := PeerStep s) (PeerStep.refl s) (PeerStep.putSlot ..)
    · exact PeerStep.putSlot ..

/-- The state after the slots and SYNC of a reserve's heartbeat. -/
def peerKnown (h : LaneHb) (s : State) : State := (syncMark (peerSlot true h.seqB.toNat (peerSlot false h.seqA.toNat s))).setF F.PAR_STATUS_SYNC h.sync

theorem fromReserve_eq (h : LaneHb) (s : State) : fromReserve h s = if s.mode ≠ stAutonomous then s else snapDone h.seqA.toNat h.seqB.toNat (peerKnown h s) := rfl

theorem peerKnown_step (h : LaneHb) (s : State) : PeerStep s (peerKnown h s) :=
  (((PeerStep.peerSlot false _ s).trans (PeerStep.peerSlot true _ _)).trans (PeerStep.syncMark _)).trans (PeerStep.setStatus _ _)

theorem peerKnown_sync (h : LaneHb) (s : State) : (peerKnown h s).getF F.PAR_STATUS_SYNC = h.sync.val := State.getF_setF_of_lt _ (by decide) (by decide) h.sync.isLt

/-- The snapshot in progress ends, its registers, its count and its notice. -/
def snapClosed (s : State) : State :=
  (((s.updPair fun p => { p with snap := none, snapKept := false }).setF F.PAR_SNAP_BUSY 0).setF F.PAR_SNAP_DONE_MIB 152).setF F.PAR_STATUS_JOURNAL 1
def snapEnded (q : Nat) (s : State) : State := notify N.SNAP_DONE scOk 0 (q % 2 ^ 32) (syncMark ((snapClosed s).incF (F.PAR_CNT_COUNT 6)))

/-- SEQ that the reserve shows for the slot being written. -/
def seqShown (seqA seqB : Nat) (s : State) : Nat := if s.getF F.PAR_SNAP_SLOT = 1 then seqB else seqA

theorem snapDone_none (h : s.pair.snap = none) (seqA seqB : Nat) : snapDone seqA seqB s = s := by
  unfold snapDone
  rw [h]

theorem snapDone_some {q j : Nat} (h : s.pair.snap = some (q, j)) (seqA seqB : Nat) :
    snapDone seqA seqB s = if seqShown seqA seqB s ≠ q then s else if s.pair.snapKept then triggerSnap (snapEnded q s) else snapEnded q s := by
  unfold snapDone
  rw [h]
  rfl

theorem snapClosed_frame (s : State) : OnlyRegs [0x160010, 0x160004] s (snapClosed s) ∧ (snapClosed s).journal = 1 ∧ (snapClosed s).getF F.PAR_SNAP_BUSY = 0 ∧
    (snapClosed s).getF F.PAR_STATUS_SYNC = s.getF F.PAR_STATUS_SYNC := by
  refine ⟨(((OnlyRegs.setF (s.updPair _) F.PAR_SNAP_BUSY 0).trans (OnlyRegs.setF _ F.PAR_SNAP_DONE_MIB 152)).trans (OnlyRegs.setF _ F.PAR_STATUS_JOURNAL 1)).mono (by decide), ?_, ?_, ?_⟩
  · exact State.getF_setF_of_lt _ (by decide) (by decide) (by decide)
  · exact (State.getF_setF_ne _ _ (by decide)).trans ((State.getF_setF_disj _ _ (by decide) (by decide) (.inl (by decide))).trans
      (State.getF_setF_of_lt _ (by decide) (by decide) (by decide)))
  · exact (State.getF_setF_disj _ _ (by decide) (by decide) (.inr (by decide))).trans ((State.getF_setF_ne _ _ (by decide)).trans (State.getF_setF_ne _ _ (by decide)))

/-- The registers that the end of a snapshot writes. -/
@[reducible] def snapRegs : List Nat := slotRegs ++ [0x160010, 0x160118] ++ noticeRegs

/-- From `s` to `t` the lane's request count and SYNC stand, and only registers of snapshots and notices change. -/
structure SnapEnds (s t : State) : Prop where
  step : PairStep s t
  regs : OnlyRegs snapRegs s t
  req : t.pair.laneReq = s.pair.laneReq
  sync : t.getF F.PAR_STATUS_SYNC = s.getF F.PAR_STATUS_SYNC

theorem snapEnded_frame (q : Nat) (s : State) : SnapEnds s (snapEnded q s) ∧ (snapEnded q s).journal = 1 ∧ (snapEnded q s).pair.snap = none ∧
    (snapEnded q s).getF F.PAR_SNAP_BUSY = 0 ∧ (snapEnded q s).getF (F.PAR_CNT_COUNT 6) = (s.getF (F.PAR_CNT_COUNT 6) + 1) % 2 ^ 32 := by
  obtain ⟨hclosed, hjournal, hbusy, hsync⟩ := snapClosed_frame s
  have hclosedStep : PairStep s (snapClosed s) := PairStep.of_regs hclosed (by decide) rfl
  have hcount := OnlyRegs.incF (snapClosed s) (F.PAR_CNT_COUNT 6)
  have hcountStep : PairStep (snapClosed s) ((snapClosed s).incF (F.PAR_CNT_COUNT 6)) := PairStep.of_regs hcount (by decide) rfl
  have hone : ((snapClosed s).incF (F.PAR_CNT_COUNT 6)).getF (F.PAR_CNT_COUNT 6) = (s.getF (F.PAR_CNT_COUNT 6) + 1) % 2 ^ 32 := by
    refine (State.getF_incF_counter _ _).trans ?_
    rw [hclosed.getF (by decide)]
  have hstatus (v : State) : (syncMark v).reg 0x160004 = v.reg 0x160004 := by
    unfold syncMark
    split
    · rfl
    all_goals exact OnlyRegs.set64 v F.PAR_JMARK_LO_JPOS F.PAR_JMARK_HI_JPOS _ _ (by decide)
  have hmark := PeerStep.syncMark ((snapClosed s).incF (F.PAR_CNT_COUNT 6))
  obtain ⟨a, b, hpair⟩ := hmark.pair
  have hnote := OnlyRegs.notify N.SNAP_DONE scOk 0 (q % 2 ^ 32) (syncMark ((snapClosed s).incF (F.PAR_CNT_COUNT 6)))
  have hendPair : (snapEnded q s).pair = { (snapClosed s).pair with slotA := a, slotB := b } := (notify_pair ..).trans hpair
  have hpar {hi lo : Nat} : (snapEnded q s).getF ⟨0x160004, hi, lo⟩ = (snapClosed s).getF ⟨0x160004, hi, lo⟩ :=
    (hnote.getF (f := ⟨0x160004, hi, lo⟩) (by simp [noticeRegs])).trans ((State.getF_of_reg (hstatus _)).trans (hcount.getF (f := ⟨0x160004, hi, lo⟩) (by simp)))
  refine ⟨⟨?_, ?_, (congrArg Pair.laneReq hendPair).trans rfl, hpar.trans hsync⟩, hpar.trans hjournal, (congrArg Pair.snap hendPair).trans rfl, ?_, ?_⟩
  · exact ((hclosedStep.trans hcountStep).trans hmark.step).trans (PairStep.notify ..)
  · exact (((hclosed.trans hcount).trans hmark.regs).trans hnote).mono (by decide)
  · exact (hnote.getF (by decide)).trans ((hmark.regs.getF (by decide)).trans ((hcount.getF (by decide)).trans hbusy))
  · exact (hnote.getF (by decide)).trans ((hmark.regs.getF (by decide)).trans hone)

theorem SnapEnds.triggerSnap (h : SnapEnds s t) : SnapEnds s (triggerSnap t) := by
  have hsnap := SnapStep.triggerSnap t
  exact ⟨h.step.trans hsnap.step, (h.regs.trans hsnap.regs).mono (by decide), (Prod.mk.inj hsnap.beats).2.trans h.req, (hsnap.regs.getF (by decide)).trans h.sync⟩

theorem snapDone_ends (seqA seqB : Nat) (s : State) : SnapEnds s (snapDone seqA seqB s) := by
  have hrefl : SnapEnds s s := ⟨PairStep.refl s, OnlyRegs.of_regs _ rfl, rfl, rfl⟩
  cases h : s.pair.snap with
  | none => rwa [snapDone_none h]
  | some v =>
    have hended := (snapEnded_frame v.1 s).1
    rw [snapDone_some h]
    exact keeps_ite (K := SnapEnds s) hrefl (keeps_ite (K := SnapEnds s) hended.triggerSnap hended)

theorem snapDone_done {q j : Nat} (hsnap : s.pair.snap = some (q, j)) (hkept : s.pair.snapKept = false) {seqA seqB : Nat} (hseq : seqShown seqA seqB s = q) :
    snapDone seqA seqB s = snapEnded q s := by
  rw [snapDone_some hsnap, if_neg (not_not.2 hseq), if_neg (by rw [hkept]; decide)]

/-! A heartbeat of the lane (R461, R465, R466). -/

/-- What a heartbeat of the lane gives by its ROLE. -/
def roleTaken (h : LaneHb) (s : State) : State := if h.role = 1 then fromLead h s else if h.role = 2 then fromReserve h s else s

/-- A frame of the partner, counted as a heartbeat. -/
def laneCounted (q : Nat) (s : State) : State := (laneSeen q s).incF (F.PAR_CNT_COUNT 2)

theorem laneCounted_frame (q : Nat) (s : State) : PairStep s (laneCounted q s) ∧ OnlyRegs [0x160108] s (laneCounted q s) ∧ (laneCounted q s).pair = { s.pair with fseqRx := q } ∧
    (laneCounted q s).getF (F.PAR_CNT_COUNT 2) = (s.getF (F.PAR_CNT_COUNT 2) + 1) % 2 ^ 32 := by
  have hregs : OnlyRegs [0x160108] s (laneCounted q s) := (OnlyRegs.updPair s _).trans (OnlyRegs.incF (laneSeen q s) (F.PAR_CNT_COUNT 2))
  exact ⟨PairStep.of_regs hregs (by decide) rfl, hregs, rfl, State.getF_incF_counter _ _⟩

theorem exec_hbLaneRx (hpairs : pairs s = true) (hmode : s.mode ≠ stFrozen) (h : LaneHb) (ok : Bool) (q : Word) : exec (.hbLaneRx dt h ok q) s =
    if !laneTakes ok q.toNat s then .next (laneDropped (s.elapse dt))
    else if h.pairId = s.pair.id then .next (pairConflict (laneSeen q.toNat (s.elapse dt)))
    else if h.serial.toNat ≠ s.get64 F.PAR_PEER_SERIAL_LO_SERIAL F.PAR_PEER_SERIAL_HI_SERIAL then .next (laneDropped (laneSeen q.toNat (s.elapse dt)))
    else .next (heartbeat true h.role h.req (roleTaken h (laneCounted q.toNat (s.elapse dt)))) := by
  refine (if_neg ?_).trans rfl
  rw [show pairs (s.elapse dt) = pairs s from rfl, hpairs, show ((s.elapse dt).mode == stFrozen) = false from beq_eq_false_iff_ne.2 hmode]
  decide

/-- The reserve's memory of the lead's heartbeat (R461, R480). -/
@[reducible] def LeadKept (h : LaneHb) (now : Nat) (p : Pair) : Prop :=
  p.laneLost = false ∧ p.lead.map (fun l => (l.at_, l.jvalid, l.slot, l.bound, l.sen)) = some (now, h.jvalid, h.slot.toNat, h.bound.toNat, h.sen.toNat)

/-- From `s` to `t` a heartbeat of the lane has been taken by its ROLE. -/
structure RoleTaken (h : LaneHb) (s t : State) : Prop where
  step : PairStep s t
  regs : OnlyRegs snapRegs s t
  req : t.pair.laneReq = s.pair.laneReq
  reserve : s.mode = stReserve → t.pair.fseqRx = s.pair.fseqRx ∧ (h.role = 1 → LeadKept h s.clk.now t.pair)
  sync : s.mode = stAutonomous → h.role = 2 → t.getF F.PAR_STATUS_SYNC = h.sync.val
  snap : s.mode = stAutonomous → h.role = 2 → ∀ p j, s.pair.snap = some (p, j) → seqShown h.seqA.toNat h.seqB.toNat s = p → s.pair.snapKept = false →
    t.journal = 1 ∧ t.pair.snap = none ∧ t.getF F.PAR_SNAP_BUSY = 0 ∧ t.getF (F.PAR_CNT_COUNT 6) = (s.getF (F.PAR_CNT_COUNT 6) + 1) % 2 ^ 32

theorem RoleTaken.refl {h : LaneHb} (s : State) (h1 : h.role ≠ 1) (h2 : h.role ≠ 2) : RoleTaken h s s where
  step := PairStep.refl s
  regs := OnlyRegs.of_regs _ rfl
  req := rfl
  reserve _ := ⟨rfl, fun e => absurd e h1⟩
  sync _ e := absurd e h2
  snap _ e := absurd e h2

theorem fromLead_taken {h : LaneHb} (s : State) (h1 : h.role = 1) : RoleTaken h s (fromLead h s) := by
  have h2 : h.role ≠ 2 := h1.trans_ne (by decide)
  unfold fromLead
  split
  next hmode =>
    exact {
      step := PairStep.refl s
      regs := OnlyRegs.of_regs _ rfl
      req := rfl
      reserve := fun e => absurd e hmode
      sync := fun _ e => absurd e h2
      snap := fun _ e => absurd e h2 }
  next hmode =>
    exact {
      step := PairStep.updPair s _
      regs := OnlyRegs.of_regs _ rfl
      req := rfl
      reserve := fun _ => ⟨rfl, fun _ => ⟨rfl, rfl⟩⟩
      sync := fun _ e => absurd e h2
      snap := fun _ e => absurd e h2 }

theorem fromReserve_taken {h : LaneHb} (s : State) (h2 : h.role = 2) : RoleTaken h s (fromReserve h s) := by
  have h1 : h.role ≠ 1 := h2.trans_ne (by decide)
  rw [fromReserve_eq]
  split
  next hmode =>
    exact {
      step := PairStep.refl s
      regs := OnlyRegs.of_regs _ rfl
      req := rfl
      reserve := fun _ => ⟨rfl, fun e => absurd e h1⟩
      sync := fun e => absurd e hmode
      snap := fun e => absurd e hmode }
  next hmode =>
    have hknown := peerKnown_step h s
    have hsync := peerKnown_sync h s
    obtain ⟨a, b, hpair⟩ := hknown.pair
    generalize peerKnown h s = v at *
    have hends := snapDone_ends h.seqA.toNat h.seqB.toNat v
    exact {
      step := hknown.step.trans hends.step
      regs := (hknown.regs.trans hends.regs).mono (by decide)
      req := hends.req.trans (by rw [hpair])
      reserve := fun e => absurd (e.symm.trans (not_not.1 hmode)) (by decide)
      sync := fun _ _ => hends.sync.trans hsync
      snap := fun _ _ p j hsnap hseq hkept => by
        have hslot : seqShown h.seqA.toNat h.seqB.toNat v = p := by
          unfold seqShown
          rw [hknown.regs.getF (by decide)]
          exact hseq
        obtain ⟨-, hjournal, hnone, hbusy, hcount⟩ := snapEnded_frame p v
        rw [snapDone_done (by rw [hpair]; exact hsnap) (by rw [hpair]; exact hkept) hslot]
        exact ⟨hjournal, hnone, hbusy, hcount.trans (by rw [hknown.regs.getF (by decide)])⟩ }

theorem roleTaken_taken (h : LaneHb) (s : State) : RoleTaken h s (roleTaken h s) := by
  unfold roleTaken
  split
  next h1 => exact fromLead_taken s h1
  next h1 =>
    split
    next h2 => exact fromReserve_taken s h2
    next h2 => exact RoleTaken.refl s h1 h2

section
variable (hpairs : pairs s = true) (hmode : s.mode ≠ stFrozen) (h : LaneHb) (ok : Bool) (q : Word)
include hpairs hmode

theorem hbLaneRx_dropped (htakes : laneTakes ok q.toNat s = false) : Completes (.hbLaneRx dt h ok q) s fun t => ParCounts 5 s t ∧ OnlyRegs [0x160114] s t ∧ t.pair = s.pair := by
  refine ⟨_, (exec_hbLaneRx hpairs hmode h ok q).trans (if_pos (by rw [htakes]; rfl)), cntPar_counts 5 (s.elapse dt), cntPar_regs 5 (s.elapse dt), cntPar_pair 5 (s.elapse dt)⟩

variable (htakes : laneTakes ok q.toNat s = true)
include htakes

theorem hbLaneRx_conflict (hid : h.pairId = s.pair.id) : Completes (.hbLaneRx dt h ok q) s fun t => PairConflicts s t ∧ t.pair.fseqRx = q.toNat := by
  obtain ⟨hone, hpair, hring, hregs⟩ := pairConflict_shows (show (laneSeen q.toNat (s.elapse dt)).mode ≠ stFrozen from hmode)
  refine ⟨_, (exec_hbLaneRx hpairs hmode h ok q).trans ((if_neg (by rw [htakes]; decide)).trans (if_pos hid)), ?_, (congrArg Pair.fseqRx hpair).trans rfl⟩
  rw [PairConflicts, if_neg hmode]
  exact ⟨hone, congrArg Pair.conflictSeen hpair, hring, hregs⟩

variable (hid : h.pairId ≠ s.pair.id)
include hid

theorem hbLaneRx_stranger (hserial : h.serial.toNat ≠ s.get64 F.PAR_PEER_SERIAL_LO_SERIAL F.PAR_PEER_SERIAL_HI_SERIAL) :
    Completes (.hbLaneRx dt h ok q) s fun t => ParCounts 5 s t ∧ OnlyRegs [0x160114] s t ∧ t.pair.fseqRx = q.toNat := by
  refine ⟨_, (exec_hbLaneRx hpairs hmode h ok q).trans ((if_neg (by rw [htakes]; decide)).trans ((if_neg hid).trans (if_pos hserial))), ?_⟩
  have hcounts := cntPar_counts 5 (laneSeen q.toNat (s.elapse dt))
  have hregs := cntPar_regs 5 (laneSeen q.toNat (s.elapse dt))
  have hpair := cntPar_pair 5 (laneSeen q.toNat (s.elapse dt))
  exact ⟨hcounts, hregs, (congrArg Pair.fseqRx hpair).trans rfl⟩

theorem hbLaneRx_heartbeat (hserial : h.serial.toNat = s.get64 F.PAR_PEER_SERIAL_LO_SERIAL F.PAR_PEER_SERIAL_HI_SERIAL) :
    ∃ d, RoleTaken h (laneCounted q.toNat (s.elapse dt)) d ∧ Completes (.hbLaneRx dt h ok q) s (Heartbeat true h.role h.req d) :=
  ⟨_, roleTaken_taken h _, _, (exec_hbLaneRx hpairs hmode h ok q).trans ((if_neg (by rw [htakes]; decide)).trans ((if_neg hid).trans (if_neg (not_not.2 hserial)))),
    heartbeat_does true h.role.isLt h.req _⟩

end

/-- What the lane's heartbeat leaves, said of the state before it. -/
theorem Heartbeat.lane {h : LaneHb} {q : Nat} {d : State} (hrun : s.mode ≠ stFrozen) (hd : RoleTaken h (laneCounted q (s.elapse dt)) d)
    (ht : Heartbeat true h.role h.req d t) :
    ParCounts 2 s t ∧ t.getF F.PAR_HB_STATUS_PEER_ROLE = h.role.val ∧ t.getF F.PAR_HB_STATUS_PEER_REQ = bit h.req ∧ t.getF F.PAR_HB_STATUS_LANE_MISS = 0 ∧ t.pair.laneGot = true ∧
      t.getF F.PAR_HB_STATUS_LANE_UP = 1 ∧ (s.getF F.PAR_HB_STATUS_LANE_UP = 0 → t.getF F.PAR_STATUS_LANE_UP = 1) ∧ OnlyRing s t ∧
      t.pair.laneReq = (if h.req = true then s.pair.laneReq + 1 else 0) ∧
      (s.mode = stReserve → t.pair.fseqRx = q ∧ (h.role.val = 1 → LeadKept h (s.elapse dt).clk.now t.pair)) ∧
      (s.mode = stAutonomous → h.role.val = 2 → t.getF F.PAR_STATUS_SYNC = h.sync.val ∧
        (∀ p j, s.pair.snap = some (p, j) → (if s.getF F.PAR_SNAP_SLOT = 1 then h.seqB.toNat else h.seqA.toNat) = p → s.pair.snapKept = false →
          t.journal = 1 ∧ t.pair.snap = none ∧ t.getF F.PAR_SNAP_BUSY = 0 ∧ ParCounts 6 s t)) := by
  obtain ⟨hstep, hregs, hpair, hcount⟩ := laneCounted_frame q (s.elapse dt)
  have hmode : (laneCounted q (s.elapse dt)).mode = s.mode := hstep.mode
  have hclk : (laneCounted q (s.elapse dt)).clk = (s.elapse dt).clk := hstep.clk
  have hstands {g : Field} (hg : g.addr ≠ 0x160108) : (laneCounted q (s.elapse dt)).getF g = s.getF g := (hregs.getF (by simpa using hg)).trans rfl
  generalize laneCounted q (s.elapse dt) = c at *
  have hdmode : d.mode = s.mode := hd.step.mode.trans hmode
  have hcounts {k : Nat} (hk : k < 16) (h11 : k ≠ 11) : t.getF (F.PAR_CNT_COUNT k) = d.getF (F.PAR_CNT_COUNT k) := ht.counts.getF fun hm => by
    simp only [List.mem_append] at hm
    rcases hm with (hm | hm) | hm
    · simp at hm
      omega
    · exact claimRegs_far d (by omega) hm
    · simp [noticeRegs] at hm
      omega
  have hvalid (hone : d.journal = 1) : ∃ l k a, t.pair = reqPair true (reqCount true h.req d.pair) (gotPair true (leadPair l k a d.pair)) ∧ t.journal = 1 ∧ t.getF F.PAR_SNAP_BUSY = d.getF F.PAR_SNAP_BUSY := by
    obtain ⟨⟨l, k, a, htpair, -⟩, hquiet, hjournal⟩ := ht.quiet fun _ _ => hone
    refine ⟨l, k, a, htpair, hjournal.trans hone, hquiet.getF fun hm => ?_⟩
    exact (List.mem_append.1 hm).elim (fun hm => (List.mem_append.1 hm).elim (by decide) (claimRegs_far d (by decide))) (by decide)
  obtain ⟨hreq, hgot⟩ := ht.beats rfl
  refine ⟨?_, ht.roleShown, ht.reqShown, ht.miss, hgot, ht.up, fun hdown => ?_, ((hstep.trans hd.step).trans ht.step).ring, ?_, fun hres => ?_, fun hauto hrole => ⟨?_, ?_⟩⟩
  · rw [ParCounts, if_neg hrun]
    exact (hcounts (by decide) (by decide)).trans ((hd.regs.getF (by decide)).trans hcount)
  · have hdown' : d.getF (hbUp true) = 0 := (hd.regs.getF (by decide)).trans ((hstands (by decide)).trans hdown)
    exact (ht.raised hdown' fun e => hrun (hdmode.symm.trans e)).1
  · rw [hreq, reqCount, if_pos rfl, hd.req, hpair]
    rfl
  · obtain ⟨hseq, hlead⟩ := hd.reserve (hmode.trans hres)
    obtain ⟨⟨l, k, a, htpair, -⟩, -, -⟩ := ht.quiet fun _ e => absurd ((hdmode.trans hres).symm.trans e) (by decide)
    rw [hclk] at hlead
    rw [htpair]
    refine ⟨hseq.trans (by rw [hpair]), fun hrole => ?_⟩
    exact hlead (Fin.ext hrole)
  · exact ht.sync.trans (hd.sync (hmode.trans hauto) (Fin.ext hrole))
  · intro p j hsnap hseq hkept
    have hslot : seqShown h.seqA.toNat h.seqB.toNat c = p := by
      unfold seqShown
      rw [hstands (by decide)]
      exact hseq
    obtain ⟨hjournal, hnone, hbusy, hsix⟩ := hd.snap (hmode.trans hauto) (Fin.ext hrole) p j (by rw [hpair]; exact hsnap) hslot (by rw [hpair]; exact hkept)
    obtain ⟨l, k, a, htpair, hjournal', hbusy'⟩ := hvalid hjournal
    refine ⟨hjournal', ?_, hbusy'.trans hbusy, ?_⟩
    · rw [htpair]
      exact hnone
    · rw [ParCounts, if_neg hrun]
      exact (hcounts (by decide) (by decide)).trans (hsix.trans (by rw [hstands (by decide)]))

/-! A path goes DOWN (R462, R463, R476). -/

theorem abandonSnap_frame (s : State) : PairStep s (abandonSnap s) ∧ OnlyRegs [0x160010, 0x16011C] s (abandonSnap s) ∧
    (abandonSnap s).pair.snap = none ∧ (abandonSnap s).pair.takeover = s.pair.takeover := by
  unfold abandonSnap
  split
  next h =>
    have hregs := (OnlyRegs.setF (s.updPair fun p => { p with snap := none }) F.PAR_SNAP_BUSY 0).trans (OnlyRegs.incF _ (F.PAR_CNT_COUNT 7))
    exact ⟨(PairStep.updPair s _).trans (PairStep.of_regs hregs (by decide) rfl), (OnlyRegs.updPair s _).trans hregs, rfl, rfl⟩
  next h => exact ⟨PairStep.refl s, OnlyRegs.of_regs _ rfl, Option.not_isSome_iff_eq_none.1 h, rfl⟩

theorem invalidateJournal_eq (s : State) : invalidateJournal 1 s =
    notify N.JOURNAL_INVALID scOk 0 1 ((rebaseJournal (abandonSnap (s.setF F.PAR_STATUS_JOURNAL 2))).incF (F.PAR_CNT_COUNT 9)) := rfl

/-- The lane's loss leaves the journal invalid and no snapshot in progress. -/
structure JournalLost (s t : State) : Prop where
  step : PairStep s t
  hb : t.reg 0x168000 = s.reg 0x168000
  journal : t.journal = 2
  status : ∀ hi lo, 25 < lo → t.getF ⟨0x160004, hi, lo⟩ = s.getF ⟨0x160004, hi, lo⟩
  snap : t.pair.snap = none
  takeover : t.pair.takeover = s.pair.takeover

theorem invalidateJournal_lost (s : State) : JournalLost s (invalidateJournal 1 s) := by
  have hset := OnlyRegs.setF s F.PAR_STATUS_JOURNAL 2
  have hsetStep : PairStep s (s.setF F.PAR_STATUS_JOURNAL 2) := PairStep.of_regs hset (by decide) rfl
  have htwo : (s.setF F.PAR_STATUS_JOURNAL 2).journal = 2 := State.getF_setF_of_lt s (by decide) (by decide) (by decide)
  have hother (hi lo : Nat) (h : 25 < lo) : (s.setF F.PAR_STATUS_JOURNAL 2).getF ⟨0x160004, hi, lo⟩ = s.getF ⟨0x160004, hi, lo⟩ :=
    State.getF_setF_disj _ _ (by decide) (by decide) (.inl h)
  have hsetPair : (s.setF F.PAR_STATUS_JOURNAL 2).pair = s.pair := rfl
  rw [invalidateJournal_eq]
  generalize s.setF F.PAR_STATUS_JOURNAL 2 = v at *
  obtain ⟨hstep, hregs, hsnap, htakeover⟩ := abandonSnap_frame v
  have hbase := SnapStep.rebaseJournal (abandonSnap v)
  have hcount := OnlyRegs.incF (rebaseJournal (abandonSnap v)) (F.PAR_CNT_COUNT 9)
  have hcountStep : PairStep (rebaseJournal (abandonSnap v)) _ := PairStep.of_regs hcount (by decide) rfl
  have hpair : (((rebaseJournal (abandonSnap v)).incF (F.PAR_CNT_COUNT 9)).pair.snap, ((rebaseJournal (abandonSnap v)).incF (F.PAR_CNT_COUNT 9)).pair.takeover) =
    ((abandonSnap v).pair.snap, (abandonSnap v).pair.takeover) := rfl
  have hall := (hregs.trans hbase.regs).trans hcount
  have hstep' := (hstep.trans hbase.step).trans hcountStep
  generalize (rebaseJournal (abandonSnap v)).incF (F.PAR_CNT_COUNT 9) = x at *
  obtain ⟨hxsnap, hxtakeover⟩ := Prod.mk.inj hpair
  have hnote := OnlyRegs.notify N.JOURNAL_INVALID scOk 0 1 x
  have hend {f : Field} (hf : f.addr = 0x160004) : (notify N.JOURNAL_INVALID scOk 0 1 x).getF f = v.getF f := (hall.trans hnote).getF (by rw [hf]; decide)
  exact {
    step := (hsetStep.trans hstep').trans (PairStep.notify ..)
    hb := (hnote _ (by decide)).trans ((hall _ (by decide)).trans (hset _ (by decide)))
    journal := (hend rfl).trans htwo
    status := fun hi lo h => (hend rfl).trans (hother hi lo h)
    snap := (congrArg Pair.snap (notify_pair ..)).trans (hxsnap.trans hsnap)
    takeover := (congrArg Pair.takeover (notify_pair ..)).trans (hxtakeover.trans (htakeover.trans (by rw [hsetPair]))) }

/-- The path shown DOWN with its notice. -/
def pathLost (lane : Bool) (s : State) : State := notifyPar N.PATH_DOWN scTimeout (bit lane) (setPath lane false s)

def laneMissed (lane : Bool) (s : State) : State := if lane && !(s.pairState == pairAlone) then s.updPair fun p => { p with laneLost := true } else s

def journalLostBy (lane : Bool) (s : State) : State := if lane then invalidateJournal 1 s else s

theorem pathDown_eq (lane : Bool) (s : State) : pathDown lane s =
    if (pathLost lane s).mode = stReserve then
      if (pathLost lane s).pairState == pairAlone then declareFailure false (laneMissed lane (pathLost lane s)) else laneMissed lane (pathLost lane s)
    else if (pathLost lane s).mode = stAutonomous then
      if (pathLost lane s).pairState == pairAlone then notify N.PARTNER_LOST scTimeout 0 0 (journalLostBy lane (pathLost lane s)) else journalLostBy lane (pathLost lane s)
    else pathLost lane s := rfl

/-- A path is DOWN in PAR_HB_STATUS. -/
structure PathLost (lane : Bool) (s t : State) : Prop where
  step : PairStep s t
  miss : t.getF (hbMiss lane) = s.getF (hbMiss lane)
  down : t.getF (hbUp lane) = 0
  drives : t.drivesOwn = s.drivesOwn
  frozen : s.mode = stFrozen → OnlyRegs [0x168000] s t
  lost : s.mode ≠ stFrozen → t.getF (parUp lane) = 0 ∧ t.pairState = pairOf (s.getF (parUp !lane))

theorem pathLost_lost (lane : Bool) (s : State) : PathLost lane s (pathLost lane s) := by
  obtain ⟨hdown, hrest⟩ := setPath_hb lane false s
  have hnote := notifyPar_regs N.PATH_DOWN scTimeout (bit lane) (setPath lane false s)
  exact {
    step := (PairStep.setPath lane false s).trans (PairStep.notifyPar ..)
    miss := (hnote.getF (hb_not_notice hbMiss (by decide) lane)).trans (by cases lane <;> exact hrest _ _ (.inr (by decide)))
    down := (hnote.getF (hb_not_notice hbUp (by decide) lane)).trans hdown
    drives := congrArg (· == 1) ((hnote.getF (by decide)).trans (hrest 29 29 (.inl (by decide))))
    frozen := fun h => by
      rw [pathLost, notifyPar_of_frozen ((PairStep.setPath lane false s).mode.trans h)]
      exact setPath_frozen h lane false
    lost := fun h => by
      obtain ⟨hup, hstate⟩ := setPath_par h lane false
      exact ⟨(hnote.getF (hb_not_notice parUp (by decide) lane)).trans hup, (hnote.getF (by decide)).trans (hstate.trans (congrArg pairOf (Nat.zero_add _)))⟩ }

theorem pathLost_pair (lane : Bool) (s : State) : (pathLost lane s).pair = s.pair := by
  obtain ⟨r, hr⟩ := setPath_parts lane false s
  exact (notifyPar_pair ..).trans (by rw [hr])

/-- What shows a path DOWN shows it still after changes that leave PAR_HB_STATUS and the high bits of PAR_STATUS. -/
theorem PathLost.trans {lane : Bool} (h : PathLost lane s t) (hrun : s.mode ≠ stFrozen) (hstep : PairStep t u) (hhb : u.reg 0x168000 = t.reg 0x168000)
    (hstatus : ∀ hi lo, 25 < lo → u.getF ⟨0x160004, hi, lo⟩ = t.getF ⟨0x160004, hi, lo⟩) : PathLost lane s u where
  step := h.step.trans hstep
  miss := Eq.trans (by cases lane <;> exact State.getF_of_reg hhb) h.miss
  down := Eq.trans (by cases lane <;> exact State.getF_of_reg hhb) h.down
  drives := (congrArg (· == 1) (State.getF_of_reg (f := F.PAR_HB_STATUS_OWN_DRIVE) hhb)).trans h.drives
  frozen := fun e => absurd e hrun
  lost := fun hmode => by
    obtain ⟨hup, hstate⟩ := h.lost hmode
    exact ⟨Eq.trans (by cases lane <;> exact hstatus _ _ (by decide)) hup, (hstatus 31 30 (by decide)).trans hstate⟩

theorem PathLost.of_regs {lane : Bool} {l : List Nat} (h : PathLost lane s t) (hrun : s.mode ≠ stFrozen) (hstep : PairStep t u) (hregs : OnlyRegs l t u)
    (hl : 0x168000 ∉ l ∧ 0x160004 ∉ l) : PathLost lane s u :=
  h.trans hrun hstep (hregs _ hl.1) fun _ _ _ => State.getF_of_reg (hregs _ hl.2)

/-- At the reserve the loss of the second path declares the lead's failure. -/
theorem pathDown_reserve (lane : Bool) (hmode : s.mode = stReserve) : PathLost lane s (pathDown lane s) ∧
    (s.pair.takeover = none → s.drivesOwn = false → declaredOf (pathDown lane s).pair = if pairOf (s.getF (parUp !lane)) = pairAlone then some (s.clk.now, false) else none) := by
  have hrun : s.mode ≠ stFrozen := hmode.trans_ne (by decide)
  have hlost := pathLost_lost lane s
  have hpair := pathLost_pair lane s
  rw [pathDown_eq]
  generalize pathLost lane s = p at *
  obtain ⟨-, hstate⟩ := hlost.lost hrun
  have hmissedStep : PairStep p (laneMissed lane p) := keeps_ite (K := PairStep p) (PairStep.updPair p _) (PairStep.refl p)
  have hmissedRegs : OnlyRegs [] p (laneMissed lane p) := keeps_ite (K := OnlyRegs [] p) (OnlyRegs.updPair p _) (OnlyRegs.of_regs _ rfl)
  have hmissedTake : (laneMissed lane p).pair.takeover = s.pair.takeover := by
    rw [← hpair]
    exact keeps_ite (K := fun t : State => t.pair.takeover = p.pair.takeover) rfl rfl
  rw [if_pos (hlost.step.mode.trans hmode), hstate]
  generalize laneMissed lane p = v at *
  have hv : PathLost lane s v := hlost.of_regs hrun hmissedStep hmissedRegs (by decide)
  split
  next hboth =>
    obtain ⟨hstep, hregs, -⟩ := declareFailure_frame false v
    refine ⟨hv.of_regs hrun hstep hregs (by decide), fun htakeover hdrives => ?_⟩
    rw [if_pos (beq_iff_eq.1 hboth), ← hv.step.clk]
    exact declareFailure_declares (hv.step.mode.trans hmode) (hmissedTake.trans htakeover) (hv.drives.trans hdrives) false
  next hboth =>
    refine ⟨hv, fun htakeover _ => ?_⟩
    rw [if_neg (mt beq_iff_eq.2 hboth)]
    exact congrArg (Option.map _) (hmissedTake.trans htakeover)

/-- At the lead the loss of the lane makes the journal invalid. -/
theorem pathDown_lead (lane : Bool) (hmode : s.mode = stAutonomous) : PathLost lane s (pathDown lane s) ∧
    (lane = true → (pathDown lane s).journal = 2 ∧ (pathDown lane s).pair.snap = none ∧ (pathDown lane s).pair.takeover = s.pair.takeover) := by
  have hrun : s.mode ≠ stFrozen := hmode.trans_ne (by decide)
  have hlost := pathLost_lost lane s
  have hpair := pathLost_pair lane s
  rw [pathDown_eq]
  generalize pathLost lane s = p at *
  have hp := hlost.step.mode.trans hmode
  have hv : PathLost lane s (journalLostBy lane p) ∧ (lane = true → JournalLost p (journalLostBy lane p)) := by
    cases lane
    · exact ⟨hlost, nofun⟩
    · have hjournal := invalidateJournal_lost p
      exact ⟨hlost.trans hrun hjournal.step hjournal.hb hjournal.status, fun _ => hjournal⟩
  rw [if_neg (hp.trans_ne (by decide)), if_pos hp]
  generalize journalLostBy lane p = v at *
  obtain ⟨hv, hjournal⟩ := hv
  have hnote := OnlyRegs.notify N.PARTNER_LOST scTimeout 0 0 v
  refine keeps_ite (K := fun t : State => PathLost lane s t ∧ (lane = true → t.journal = 2 ∧ t.pair.snap = none ∧ t.pair.takeover = s.pair.takeover)) ?_ ?_
  · refine ⟨hv.of_regs hrun (PairStep.notify ..) hnote (by decide), fun hlane => ?_⟩
    rw [notify_pair, ← hpair]
    exact ⟨(hnote.getF (f := F.PAR_STATUS_JOURNAL) (by decide)).trans (hjournal hlane).journal, (hjournal hlane).snap, (hjournal hlane).takeover⟩
  · rw [← hpair]
    exact ⟨hv, fun hlane => ⟨(hjournal hlane).journal, (hjournal hlane).snap, (hjournal hlane).takeover⟩⟩

theorem pathDown_lost (lane : Bool) (s : State) : PathLost lane s (pathDown lane s) := by
  by_cases hres : s.mode = stReserve
  · exact (pathDown_reserve lane hres).1
  by_cases hauto : s.mode = stAutonomous
  · exact (pathDown_lead lane hauto).1
  have hlost := pathLost_lost lane s
  rw [pathDown_eq, if_neg fun e => hres (hlost.step.mode.symm.trans e), if_neg fun e => hauto (hlost.step.mode.symm.trans e)]
  exact hlost

/-! The check of a path (R462). -/

/-- A miss counted, at most 8. -/
def missCounted (lane : Bool) (s : State) : State := s.setF (hbMiss lane) (min 8 (s.getF (hbMiss lane) + 1))

/-- A heartbeat has come on the path since the last check. -/
@[reducible] def pathHeard (lane : Bool) (s : State) : Bool := if lane then s.pair.laneGot else s.pair.wireGot

theorem exec_hbPathCheck (hpairs : pairs s = true) (lane : Bool) : exec (.hbPathCheck dt lane) s =
    if pathHeard lane s then .next ((s.elapse dt).updPair fun p => if lane then { p with laneGot := false } else { p with wireGot := false })
    else if min 8 (s.getF (hbMiss lane) + 1) = 8 ∧ (missCounted lane (s.elapse dt)).getF (hbUp lane) = 1 then .next (pathDown lane (missCounted lane (s.elapse dt)))
    else .next (missCounted lane (s.elapse dt)) := by
  refine (if_neg ?_).trans rfl
  rw [show pairs (s.elapse dt) = pairs s from rfl, hpairs]
  decide

theorem missCounted_frame (lane : Bool) (s : State) : OnlyRegs [0x168000] s (missCounted lane s) ∧ (missCounted lane s).getF (hbMiss lane) = min 8 (s.getF (hbMiss lane) + 1) ∧
    ∀ hi lo, 23 < lo → (missCounted lane s).getF ⟨0x168000, hi, lo⟩ = s.getF ⟨0x168000, hi, lo⟩ := by
  have hlt (n : Nat) : min 8 n < 16 := lt_of_le_of_lt (Nat.min_le_left 8 n) (by decide)
  cases lane
  · exact ⟨OnlyRegs.setF s F.PAR_HB_STATUS_WIRE_MISS _, State.getF_setF_of_lt _ (by decide) (by decide) (hlt _), fun _ _ h => State.getF_setF_disj _ _ (by decide) (by decide) (.inl h)⟩
  · exact ⟨OnlyRegs.setF s F.PAR_HB_STATUS_LANE_MISS _, State.getF_setF_of_lt _ (by decide) (by decide) (hlt _),
      fun _ _ h => State.getF_setF_disj _ _ (by decide) (by decide) (.inl (lt_trans (by decide) h))⟩

theorem pairOf_getF (f : Field) (hf : f.hi = f.lo) (s : State) : pairOf (s.getF f) = if s.getF f = 1 then pairDegraded else pairAlone := by
  have hlt : s.getF f < 2 := by
    have h := State.getF_lt s f
    rwa [hf, Nat.add_sub_cancel_left] at h
  have hcase : s.getF f = 0 ∨ s.getF f = 1 := by omega
  rcases hcase with h | h <;> (rw [h]; rfl)

section
variable (hpairs : pairs s = true) (lane : Bool)
include hpairs

theorem hbPathCheck_heard (hgot : pathHeard lane s = true) : Completes (.hbPathCheck dt lane) s fun t => OnlyRegs [] s t ∧ pathHeard lane t = false := by
  refine ⟨_, (exec_hbPathCheck hpairs lane).trans (if_pos hgot), OnlyRegs.of_regs _ rfl, ?_⟩
  cases lane <;> rfl

variable (hgot : pathHeard lane s = false)
include hgot

/-- A miss that takes no path DOWN. -/
theorem hbPathCheck_misses (h : s.getF (hbMiss lane) + 1 < 8 ∨ s.getF (hbUp lane) ≠ 1) : Completes (.hbPathCheck dt lane) s fun t =>
    t.getF (hbMiss lane) = min 8 (s.getF (hbMiss lane) + 1) ∧ t.mode = s.mode ∧ OnlyRegs [0x168000] s t ∧ t.pair = s.pair := by
  obtain ⟨hregs, hmiss, hrest⟩ := missCounted_frame lane (s.elapse dt)
  have hup : (missCounted lane (s.elapse dt)).getF (hbUp lane) = s.getF (hbUp lane) := by cases lane <;> exact hrest _ _ (by decide)
  have hstays : ¬ (min 8 (s.getF (hbMiss lane) + 1) = 8 ∧ (missCounted lane (s.elapse dt)).getF (hbUp lane) = 1) := fun ⟨hfull, hone⟩ =>
    h.elim (fun h => by omega) fun h => h (hup.symm.trans hone)
  exact ⟨_, (exec_hbPathCheck hpairs lane).trans ((if_neg (by rw [hgot]; decide)).trans (if_neg hstays)), hmiss, hregs.getF (f := F.TOP_STATUS_STATE) (by decide), hregs, rfl⟩

/-- The 8th miss of a path that was UP. -/
theorem hbPathCheck_falls (hmiss : 7 ≤ s.getF (hbMiss lane)) (hup : s.getF (hbUp lane) = 1) : Completes (.hbPathCheck dt lane) s fun t =>
    t.getF (hbMiss lane) = min 8 (s.getF (hbMiss lane) + 1) ∧ t.mode = s.mode ∧ t.getF (hbUp lane) = 0 ∧ (s.mode = stFrozen → OnlyRegs [0x168000] s t) ∧
      (s.mode ≠ stFrozen → OnlyRing s t ∧ t.getF (parUp lane) = 0 ∧ t.pairState = (if s.getF (parUp !lane) = 1 then pairDegraded else pairAlone)) ∧
      (s.mode = stReserve → s.pair.takeover = none → s.drivesOwn = false → declaredOf t.pair = if s.getF (parUp !lane) = 1 then none else some ((s.elapse dt).clk.now, false)) ∧
      (s.mode = stAutonomous → lane = true → t.journal = 2 ∧ t.pair.snap = none ∧ t.pair.takeover = s.pair.takeover) := by
  obtain ⟨hregs, hcounted, hrest⟩ := missCounted_frame lane (s.elapse dt)
  have hup' : (missCounted lane (s.elapse dt)).getF (hbUp lane) = 1 := Eq.trans (by cases lane <;> exact hrest _ _ (by decide)) hup
  have hstep : PairStep (s.elapse dt) (missCounted lane (s.elapse dt)) := PairStep.of_regs hregs (by decide) rfl
  have hpair : (missCounted lane (s.elapse dt)).pair = s.pair := rfl
  have hdrives : (missCounted lane (s.elapse dt)).drivesOwn = s.drivesOwn := congrArg (· == 1) (hrest 29 29 (by decide))
  have hother : (missCounted lane (s.elapse dt)).getF (parUp !lane) = s.getF (parUp !lane) := by cases lane <;> exact hregs.getF (by decide)
  have hmode : (missCounted lane (s.elapse dt)).mode = s.mode := hstep.mode
  have hclk : (missCounted lane (s.elapse dt)).clk = (s.elapse dt).clk := hstep.clk
  have hpairOf : pairOf (s.getF (parUp !lane)) = if s.getF (parUp !lane) = 1 then pairDegraded else pairAlone := by cases lane <;> exact pairOf_getF _ rfl s
  refine ⟨_, (exec_hbPathCheck hpairs lane).trans ((if_neg (by rw [hgot]; decide)).trans (if_pos ⟨by omega, hup'⟩)), ?_⟩
  generalize missCounted lane (s.elapse dt) = v at *
  have hlost := pathDown_lost lane v
  refine ⟨hlost.miss.trans hcounted, hlost.step.mode.trans hmode, hlost.down, fun h => ?_, fun h => ?_, fun h htakeover hown => ?_, fun h hlane => ?_⟩
  · exact OnlyRegs.mono (OnlyRegs.trans (s := s) hregs (hlost.frozen (hmode.trans h))) (by decide)
  · obtain ⟨hdown, hstate⟩ := hlost.lost fun e => h (hmode.symm.trans e)
    exact ⟨(hstep.trans hlost.step).ring, hdown, hstate.trans (by rw [hother, hpairOf])⟩
  · rw [(pathDown_reserve lane (hmode.trans h)).2 (by rw [hpair]; exact htakeover) (hdrives.trans hown), hother, hpairOf, hclk]
    split
    · exact if_neg (by decide)
    · exact if_pos rfl
  · rw [← hpair]
    exact (pathDown_lead lane (hmode.trans h)).2 hlane

end

end

section
variable {dt : Nat} {s : State}

/-- A unit that does not pair takes no part (R453). -/
theorem unpaired_idle (hpairs : pairs s = false) (h : LaneHb) (f : BitVec 16) (q : Word) (b : Bool) :
    Completes (.hbWireSend dt) s (PairSame s) ∧ Completes (.hbLaneSend dt) s (PairSame s) ∧ Completes (.hbWireRx dt f) s (PairSame s) ∧ Completes (.hbLaneRx dt h b q) s (PairSame s) ∧
      Completes (.hbPathCheck dt b) s (PairSame s) := by
  have hidle {c : Instr} {r : Host.Outcome State Fault Refusal} (hc : exec c s = if !pairs (s.elapse dt) then .next (s.elapse dt) else r) : Completes c s (PairSame s) :=
    ⟨_, hc.trans (elapse_unpaired hpairs r), PairSame.elapse s dt⟩
  have hnot : (!pairs (s.elapse dt)) = true := by
    rw [show pairs (s.elapse dt) = pairs s from rfl, hpairs]
    rfl
  refine ⟨hidle rfl, ⟨_, if_pos ?_, PairSame.elapse s dt⟩, hidle rfl, ⟨_, if_pos ?_, PairSame.elapse s dt⟩, hidle rfl⟩
  · rw [hnot]
    rfl
  · rw [hnot]
    rfl

end

/-- Settles O57: each heartbeat is followed through what it shows, the path that it brings UP and the requests that it counts, and a miss through the path that it takes DOWN. -/
theorem heartbeatsAndOwnership : Obligations.HeartbeatsAndOwnership := by
  unfold Obligations.HeartbeatsAndOwnership
  intro dt s e same cnt conflict wireOf other
  refine ⟨fun hpairs h f q b => unpaired_idle hpairs h f q b, fun hpairs hseq => ?_, fun hpairs hsession hmode hseq => ?_, fun _ h => hbLaneSend_silent h, fun hpairs f => ?_,
    fun hpairs hmode h ok q => ?_, fun hpairs lane => ?_, fun hdrives held => ownNProbe_idle hdrives held, fun hdrives hmode held => ownNProbe_frozen hdrives hmode held,
    fun hdrives hmode => ?_, fun u x hunconf htx hdrives hid => ?_⟩
  · obtain ⟨t, ht, hnext, hcount, hregs, hout⟩ := hbWireSend_sends (dt := dt) hpairs
    refine ⟨t, ht, hnext, hcount, hregs, ?_⟩
    have hframe := wireFrame_fields hseq
    have hwire : wireOf t.out.head? = wireFrame (wireTop s) := by
      rw [hout]
      exact beBytes_two hframe.1
    rw [hwire]
    exact hframe
  · obtain ⟨t, ht, hseqs, hfseq, hcount, hregs, hout⟩ := hbLaneSend_sends (dt := dt) hpairs hsession hmode hseq
    exact ⟨t, ht, hseqs, hfseq, hcount, hregs, hout, hbFields_shape (s.elapse dt)⟩
  · refine ⟨hbWireRx_bad hpairs f, hbWireRx_conflict hpairs f, fun hmark hcrc hid => ?_⟩
    obtain ⟨t, ht, hheard⟩ := hbWireRx_heartbeat (dt := dt) hpairs f hmark hcrc hid
    exact ⟨t, ht, hheard.wire (Nat.mod_lt _ (by decide))⟩
  · refine ⟨hbLaneRx_dropped hpairs hmode h ok q, fun htakes => ⟨hbLaneRx_conflict hpairs hmode h ok q htakes, hbLaneRx_stranger hpairs hmode h ok q htakes, fun hid hserial => ?_⟩⟩
    obtain ⟨d, hd, t, ht, hheard⟩ := hbLaneRx_heartbeat (dt := dt) hpairs hmode h ok q htakes hid hserial
    exact ⟨t, ht, hheard.lane hmode hd⟩
  · refine ⟨hbPathCheck_heard hpairs lane, fun hgot => ?_⟩
    by_cases hfalls : 7 ≤ s.getF (hbMiss lane) ∧ s.getF (hbUp lane) = 1
    · obtain ⟨hfull, hup⟩ := hfalls
      obtain ⟨t, ht, hmiss, hmode, hdown, hfrozen, hlost, hreserve, hlead⟩ := hbPathCheck_falls (dt := dt) hpairs lane hgot hfull hup
      refine ⟨t, ht, hmiss, hmode, fun hstays => ?_, fun _ _ hmode => ⟨hfrozen hmode, hdown⟩, fun _ _ hmode => ?_⟩
      · exact hstays.elim (fun h => absurd h (Nat.not_lt.2 (Nat.succ_le_succ hfull))) fun h => absurd (hup.symm.trans h) (by decide)
      · obtain ⟨hring, hpar, hstate⟩ := hlost hmode
        cases lane <;> exact ⟨hring, hdown, hpar, hstate, hreserve, hlead⟩
    · have hstays : s.getF (hbMiss lane) + 1 < 8 ∨ s.getF (hbUp lane) ≠ 1 := by
        by_cases hfull : 7 ≤ s.getF (hbMiss lane)
        · exact .inr fun hup => hfalls ⟨hfull, hup⟩
        · exact .inl (Nat.succ_lt_succ (Nat.not_le.1 hfull))
      obtain ⟨t, ht, hmiss, hmode, hrest⟩ := hbPathCheck_misses (dt := dt) hpairs lane hgot hstays
      exact ⟨t, ht, hmiss, hmode, fun _ => hrest, fun hfull hup => absurd ⟨hfull, hup⟩ hfalls, fun hfull hup => absurd ⟨hfull, hup⟩ hfalls⟩
  · exact ⟨ownNProbe_confirms hdrives hmode, ownNProbe_unconfirmed hdrives hmode, ownNProbe_yields hdrives hmode⟩
  · exact ⟨dualActive_safe hunconf htx hdrives hid, dualActive_waits hunconf htx⟩

end Sys2Proof.Machine
